-- ==== Sys2Proof/Word.lean ====
section
/-! DEFINITION. The word types, the plainest arithmetic on them, and the sparse table every store of the machine is held in. -/

namespace Sys2Proof

/-- A 32-bit register value. -/
abbrev Word := BitVec 32
/-- A 64-bit value: a register pair (R18), an address, a code pointer. -/
abbrev DWord := BitVec 64
/-- A byte of memory. -/
abbrev Byte := BitVec 8
/-- A mask of the 32 lanes of a group, bit `l` for lane `l`. -/
abbrev Mask := BitVec 32

/-- A sparse table: entries in strictly rising key order, at most one entry to a key. -/
abbrev Tab (α : Type) := List (Nat × α)

namespace Tab
variable {α : Type}

/-- The entry at key `k`. -/
def find? : Tab α → Nat → Option α
  | [], _ => none
  | (j, v) :: t, k => if j = k then some v else find? t k

/-- Removes every entry at key `k`. -/
def del : Tab α → Nat → Tab α
  | [], _ => []
  | (j, v) :: t, k => if j = k then del t k else (j, v) :: del t k

/-- Inserts an entry before the first entry with a larger key. -/
def ins : Tab α → Nat → α → Tab α
  | [], k, v => [(k, v)]
  | (j, w) :: t, k, v => if k < j then (k, v) :: (j, w) :: t else (j, w) :: ins t k v

/-- Sets the entry at key `k`. -/
def put (m : Tab α) (k : Nat) (v : α) : Tab α := ins (del m k) k v

/-- What the table reads as at key `k`, unlisted keys reading as `d`. -/
def get (d : α) (m : Tab α) (k : Nat) : α := (find? m k).getD d

/-- Writes `v` at key `k`; a key that reads as the default `d` is not listed. -/
def set [DecidableEq α] (d : α) (m : Tab α) (k : Nat) (v : α) : Tab α :=
  if v = d then del m k else put m k v

/-- Every key of `m` is above `lo`, and the keys rise strictly. -/
def risingFrom : Nat → Tab α → Bool
  | _, [] => true
  | lo, (k, _) :: t => decide (lo ≤ k) && risingFrom (k + 1) t

/-- The keys rise strictly. -/
def rising (m : Tab α) : Bool := risingFrom 0 m

/-- No entry equals what an unlisted key reads as. -/
def noDefault [DecidableEq α] (d : α) (m : Tab α) : Bool := m.all (fun e => decide (e.2 ≠ d))

/-- The canonical form: keys strictly rising and no entry equal to the default. -/
def wf [DecidableEq α] (d : α) (m : Tab α) : Bool := rising m && noDefault d m

/-- Rewrites the entry at `k`, if there is one. -/
def modify (m : Tab α) (k : Nat) (f : α → α) : Tab α :=
  match find? m k with
  | none => m
  | some v => put m k (f v)

/-- The keys listed. -/
def keys (m : Tab α) : List Nat := m.map (·.1)

/-- The values listed, in key order. -/
def vals (m : Tab α) : List α := m.map (·.2)

end Tab

/-- Bits `hi` down to `lo` of a number. -/
def bits (n hi lo : Nat) : Nat := (n / 2 ^ lo) % 2 ^ (hi + 1 - lo)

/-- Bit `i` of a number. -/
def bit (n i : Nat) : Bool := n.testBit i

/-- 1 for true and 0 for false. -/
def b2n (b : Bool) : Nat := if b then 1 else 0

/-- Sign extension of the low `w` bits of `n` to an integer. -/
def sextNat (w n : Nat) : Int :=
  let m := n % 2 ^ w
  if m < 2 ^ (w - 1) then (m : Int) else (m : Int) - (2 ^ w : Nat)

/-- An integer reduced modulo 2^w. -/
def wrapInt (w : Nat) (i : Int) : Nat := (i % ((2 ^ w : Nat) : Int)).toNat

/-- The pair value of two words, the even register first (R18). -/
def pair (lo hi : Word) : DWord := hi ++ lo

/-- Bits [31:0] of a pair. -/
def loWord (d : DWord) : Word := d.extractLsb' 0 32

/-- Bits [63:32] of a pair. -/
def hiWord (d : DWord) : Word := d.extractLsb' 32 32

/-- Little-endian bytes of a number (R8). -/
def bytesOf : Nat → Nat → List Byte
  | 0, _ => []
  | n + 1, v => BitVec.ofNat 8 v :: bytesOf n (v / 256)

/-- The number whose little-endian bytes are given (R8). -/
def ofBytes : List Byte → Nat
  | [] => 0
  | b :: t => b.toNat + 256 * ofBytes t

/-- Ceiling division. -/
def ceilDiv (a b : Nat) : Nat := (a + b - 1) / b

/-- The 32 lane numbers in ascending order. -/
def lanes32 : List Nat := List.range 32

/-- The lanes of a mask in ascending order. -/
def lanesOf (m : Mask) : List Nat := lanes32.filter (fun l => m.getLsbD l)

/-- The mask of the lanes at which `f` holds. -/
def maskOf (f : Nat → Bool) : Mask :=
  lanes32.foldl (fun m l => if f l then m ||| BitVec.ofNat 32 (2 ^ l) else m) 0

/-- The lowest lane of a mask, 0 for the empty mask. -/
def lowLane (m : Mask) : Nat := (lanesOf m).headD 0

/-- The number of 1 bits. -/
def popCount (w n : Nat) : Nat := ((List.range w).filter (fun i => n.testBit i)).length

end Sys2Proof
end

