-- ==== Sys2Proof/Syntax.lean ====
section
/-! DEFINITION. The syntax of every step: operands, modifiers, the 205 coded Yiltal instructions and the 127 events of the opcode table. -/

namespace Sys2Proof

/-! Operands -/

/-- The identity values of specifier codes 0x64 to 0x76 (R19, Table 1-3). -/
inductive IdVal where
  | lane | group | team | gint | core | cell | die | clorg | clshape | clpos | strand | ctx
  | gteam | gteams | ngroups | depth | regblk | clust | sthread
  deriving DecidableEq, Repr

/-- A register operand (R62, Table 3-3, and the specifiers of Table 1-3; `s` also spells `x` in a strand). -/
inductive Operand where
  | v (n : Fin 1024)
  | s (n : Fin 64)
  | q (n : Fin 16)
  | e (n : Fin 16)
  | lc (n : Fin 4)
  | id (i : IdVal)
  | zero
  deriving DecidableEq, Repr

/-- A guard: predicate number and negate bit (R60, R61). -/
structure Guard where
  p : Fin 16
  neg : Bool
  deriving DecidableEq, Repr

/-- The hints of a head: gap code and give-way (R58, R59). -/
structure Hint where
  gap : Fin 4
  gw : Bool
  deriving DecidableEq, Repr

/-- The part of a head and tail every guarded format shares. -/
structure Hdr where
  hint : Hint
  guard : Option Guard
  deriving DecidableEq, Repr

/-- A branch target: signed line displacement and head index (R63, R66). -/
structure Target where
  disp : BitVec 20
  head : Fin 32
  deriving DecidableEq, Repr

/-- The narrow formats of R64. -/
inductive NarrowFmt where
  | e4m3 | e5m2 | e2m1
  deriving DecidableEq, Repr

/-- Narrow-operand fields: the format and, for a and b, the element selector of a narrow source (R64). -/
structure Narrow where
  fmt : Option NarrowFmt
  a : Option (Fin 8)
  b : Option (Fin 8)
  deriving DecidableEq, Repr

/-! Modifiers -/

/-- Overflow treatment of the 32-bit adds (Table 6-1). -/
inductive SatMode where
  | wrap | satI32 | satN32
  deriving DecidableEq, Repr

/-- Integer comparisons (R109). -/
inductive Cmp where
  | eq | ne | lt | le | gt | ge
  deriving DecidableEq, Repr

/-- Float comparisons (Table 7-2). -/
inductive FCmp where
  | eq | ne | lt | le | gt | ge | num | nan
  deriving DecidableEq, Repr

/-- ICMPP and ICMPP64 modifier: comparison, unsigned, OR combination. -/
structure ICmpMod where
  cmp : Cmp
  uns : Bool
  or : Bool
  deriving DecidableEq, Repr

/-- ICMPPI modifier. -/
structure ICmpIMod where
  cmp : Cmp
  uns : Bool
  deriving DecidableEq, Repr

/-- MOVK modifier. -/
inductive MovKMode where
  | w32 | sx64 | zx64
  deriving DecidableEq, Repr

/-- LEA modifier: scale and zero extension. -/
structure LeaMod where
  k : Fin 8
  uns : Bool
  deriving DecidableEq, Repr

/-- Rounding named by an instruction; `dyn` selects ctl.round (Table 7-2). -/
inductive Rnd where
  | dyn | rne | rtz | rup | rdn
  deriving DecidableEq, Repr

/-- Arith layout. -/
structure ArithMod where
  rnd : Rnd
  ftz : Bool
  deriving DecidableEq, Repr

/-- Rounding of the narrowing conversions: a mode, or stochastic. -/
inductive NRnd where
  | det (r : Rnd) | sr
  deriving DecidableEq, Repr

/-- Narrowing layout. -/
structure NarrowingMod where
  rnd : NRnd
  ftz : Bool
  deriving DecidableEq, Repr

/-- Exact layout. -/
structure ExactMod where
  ftz : Bool
  deriving DecidableEq, Repr

/-- Compare layout. -/
structure FCmpMod where
  cmp : FCmp
  ftz : Bool
  or : Bool
  deriving DecidableEq, Repr

/-- CVTHF modifier. -/
structure HfMod where
  hi : Bool
  ftz : Bool
  deriving DecidableEq, Repr

/-- CVTF8 modifier. -/
structure F8Mod where
  e5m2 : Bool
  sat : Bool
  hi : Bool
  bf16 : Bool
  deriving DecidableEq, Repr

/-- CVTF4 modifier: nibble pair and BF16 source. -/
structure F4Mod where
  np : Fin 4
  bf16 : Bool
  deriving DecidableEq, Repr

/-- CVT8F modifier. -/
structure W8Mod where
  e5m2 : Bool
  el : Fin 4
  deriving DecidableEq, Repr

/-- CVT4F modifier. -/
structure W4Mod where
  el : Fin 8
  deriving DecidableEq, Repr

/-- MXPACK modifier. -/
structure MxPMod where
  fmt : NarrowFmt
  bf16 : Bool
  deriving DecidableEq, Repr

/-- MXUNPK modifier. -/
structure MxUMod where
  fmt : NarrowFmt
  deriving DecidableEq, Repr

/-- Integer types of CVTFI and CVTIF. -/
inductive IntTy where
  | i32 | n32 | i64 | n64
  deriving DecidableEq, Repr

/-- CVTFI and CVTIF modifier. -/
structure CvtIMod where
  rnd : Rnd
  ty : IntTy
  deriving DecidableEq, Repr

/-- Widths of CVTII; `w32` reads a pair. -/
inductive IWidth where
  | w8 | w16 | w32
  deriving DecidableEq, Repr

/-- CVTII modifier. -/
structure CvtIIMod where
  width : IWidth
  sdst : Bool
  sat : Bool
  ssrc : Bool
  deriving DecidableEq, Repr

/-- Segment code m of the shuffles, W = 32 >> m (R149). -/
structure SegMod where
  m : Fin 6
  deriving DecidableEq, Repr

/-- Scan operations (R151). -/
inductive ScanOp where
  | add | min | max | fadd
  deriving DecidableEq, Repr

/-- PSCAN and REDUCE modifier. -/
structure ScanMod where
  op : ScanOp
  uns : Bool
  excl : Bool
  deriving DecidableEq, Repr

/-- Scopes (Table 14-3). -/
inductive Scope where
  | str | grp | team | clu | die | dev | sys
  deriving DecidableEq, Repr

/-- Access types (Table 8-2). -/
inductive MType where
  | b32 | b64 | b128 | n8 | i8 | n16 | i16 | e4m3 | e5m2 | bf16
  deriving DecidableEq, Repr

/-- The memory modifier (Table 8-2); `ord` holds the scope when the order bit is set. -/
structure MemMod where
  ty : MType
  sat : Bool
  a64 : Bool
  ord : Option Scope
  deriving DecidableEq, Repr

/-- The atomic modifier (Table 9-2). -/
structure AtomMod where
  b64 : Bool
  signed : Bool
  a64 : Bool
  ord : Option Scope
  deriving DecidableEq, Repr

/-- CMPST and EXPLD modifier (R162). -/
structure PackMod where
  ty : MType
  deriving DecidableEq, Repr

/-- PREF modifier (R163). -/
structure PrefMod where
  cac : Bool
  a64 : Bool
  deriving DecidableEq, Repr

/-- Cache-control modifier (R178). -/
structure A64Mod where
  a64 : Bool
  deriving DecidableEq, Repr

/-- Queue modifier (Table 11-5). -/
structure QueueMod where
  queue : Fin 16
  nb : Bool
  a64 : Bool
  deriving DecidableEq, Repr

/-- Fence kinds (R176). -/
inductive FenceKind where
  | ar | acq | rel
  deriving DecidableEq, Repr

/-- FENCE modifier. -/
structure FenceMod where
  scope : Scope
  kind : FenceKind
  deriving DecidableEq, Repr

/-- POOLM options (R236). -/
structure PoolMMod where
  reloc : Bool
  wait : Bool
  flush : Bool
  deriving DecidableEq, Repr

/-- Staging formats (Table 10-3). -/
inductive StageFmt where
  | bf16 | f32 | e4m3 | e5m2 | e2m1
  deriving DecidableEq, Repr

/-- Staging source spaces (Table 10-3). -/
inductive StageSpace where
  | scr | rmt | til
  deriving DecidableEq, Repr

/-- MST formats (Table 10-5). -/
inductive StoreFmt where
  | f32 | bf16 | e4m3 | e5m2
  deriving DecidableEq, Repr

/-- Pooled services (Table 12-7). -/
inductive SvcKind where
  | ras | trv | tex
  deriving DecidableEq, Repr

/-! Payloads: one structure for each operand shape -/

/-- TRAP, BKPT: a code (format J). -/
structure CodeImm where
  h : Hdr
  imm : BitVec 16
  deriving DecidableEq, Repr

/-- MOVI, MOVHI (format J). -/
structure MovImm where
  h : Hdr
  d : Operand
  imm : BitVec 16
  deriving DecidableEq, Repr

/-- BR, CALL (format B). -/
structure Branch where
  h : Hdr
  t : Target
  deriving DecidableEq, Repr

/-- BRANY, BRALL: the guard names the tested predicate (R89). -/
structure TestBranch where
  hint : Hint
  g : Guard
  t : Target
  deriving DecidableEq, Repr

/-- JMPI. -/
structure JumpInd where
  h : Hdr
  a : Operand
  deriving DecidableEq, Repr

/-- CALLI. -/
structure CallInd where
  h : Hdr
  d : Operand
  a : Operand
  deriving DecidableEq, Repr

/-- BRD: tested predicate, reconvergence point, target (R89). -/
structure DivBranch where
  hint : Hint
  g : Guard
  rc : Target
  t : Target
  deriving DecidableEq, Repr

/-- LOOP. -/
structure LoopReg where
  hint : Hint
  n : Fin 4
  src : Operand
  fin : Target
  deriving DecidableEq, Repr

/-- LOOPI. -/
structure LoopImm where
  hint : Hint
  n : Fin 4
  count : Word
  fin : Target
  deriving DecidableEq, Repr

/-- d, a and a modifier. -/
structure Un (μ : Type) where
  h : Hdr
  d : Operand
  a : Operand
  m : μ
  deriving DecidableEq, Repr

/-- d, a, b and a modifier. -/
structure Bin (μ : Type) where
  h : Hdr
  d : Operand
  a : Operand
  b : Operand
  m : μ
  deriving DecidableEq, Repr

/-- d, a, b, a predicate pK in the c field, and a modifier. -/
structure BinP (μ : Type) where
  h : Hdr
  d : Operand
  a : Operand
  b : Operand
  pk : Fin 16
  m : μ
  deriving DecidableEq, Repr

/-- d, a, b, c and a modifier. -/
structure Tern (μ : Type) where
  h : Hdr
  d : Operand
  a : Operand
  b : Operand
  c : Operand
  m : μ
  deriving DecidableEq, Repr

/-- d, a, an optional b that is the zero field when absent, and a modifier (R142). -/
structure OptB (μ : Type) where
  h : Hdr
  d : Operand
  a : Operand
  b : Option Operand
  m : μ
  deriving DecidableEq, Repr

/-- Compare into pD, combined with pK. -/
structure CmpP (μ : Type) where
  h : Hdr
  pd : Fin 16
  a : Operand
  b : Operand
  pk : Fin 16
  m : μ
  deriving DecidableEq, Repr

/-- Compare against an immediate into pD. -/
structure CmpI (μ : Type) where
  h : Hdr
  pd : Fin 16
  a : Operand
  imm : Word
  m : μ
  deriving DecidableEq, Repr

/-- d, a, a 32-bit immediate and a modifier (format K). -/
structure ImmK (μ : Type) where
  h : Hdr
  d : Operand
  a : Operand
  imm : Word
  m : μ
  deriving DecidableEq, Repr

/-- d, a, b, a 32-bit immediate and a modifier (format E). -/
structure ImmE (μ : Type) where
  h : Hdr
  d : Operand
  a : Operand
  b : Operand
  imm : Word
  m : μ
  deriving DecidableEq, Repr

/-- MOVK. -/
structure MovK where
  h : Hdr
  d : Operand
  imm : Word
  m : MovKMode
  deriving DecidableEq, Repr

/-- d, a, b with narrow sources. -/
structure NBin (μ : Type) where
  h : Hdr
  d : Operand
  a : Operand
  b : Operand
  nar : Narrow
  m : μ
  deriving DecidableEq, Repr

/-- d, a, b, c with narrow sources in a and b. -/
structure NTern (μ : Type) where
  h : Hdr
  d : Operand
  a : Operand
  b : Operand
  c : Operand
  nar : Narrow
  m : μ
  deriving DecidableEq, Repr

/-- Compare into pD, combined with pK, with narrow sources. -/
structure NCmp (μ : Type) where
  h : Hdr
  pd : Fin 16
  a : Operand
  b : Operand
  pk : Fin 16
  nar : Narrow
  m : μ
  deriving DecidableEq, Repr

/-- BALLOT. -/
structure Ballot where
  h : Hdr
  d : Operand
  pa : Fin 16
  inv : Bool
  deriving DecidableEq, Repr

/-- Votes: pD, pA and the modifier bit (.NOT, or .ALL of VOTEG). -/
structure Vote where
  h : Hdr
  pd : Fin 16
  pa : Fin 16
  inv : Bool
  deriving DecidableEq, Repr

/-- Format M with d, base, offset, s and a modifier. -/
structure Mem (μ : Type) where
  h : Hdr
  d : Operand
  base : Operand
  off : BitVec 16
  s : Operand
  m : μ
  deriving DecidableEq, Repr

/-- Format M with no s. -/
structure Loc (μ : Type) where
  h : Hdr
  d : Operand
  base : Operand
  off : BitVec 16
  m : μ
  deriving DecidableEq, Repr

/-- Format M with no d. -/
structure MemN (μ : Type) where
  h : Hdr
  base : Operand
  off : BitVec 16
  s : Operand
  m : μ
  deriving DecidableEq, Repr

/-- FENCE. -/
structure Fence where
  h : Hdr
  m : FenceMod
  deriving DecidableEq, Repr

/-- FENCE.SURF: base, offset, and whether the scope is .SYS (else .DEV). -/
structure FenceSurf where
  h : Hdr
  base : Operand
  off : BitVec 16
  sys : Bool
  deriving DecidableEq, Repr

/-- MRSV: pD, status destination, n/2. -/
structure Mrsv where
  h : Hdr
  pd : Fin 16
  a : Operand
  half : Fin 32
  deriving DecidableEq, Repr

/-- MLDA, MLDB. -/
structure Stage where
  h : Hdr
  slot : Fin 512
  base : Operand
  off : BitVec 16
  s : Operand
  fmt : StageFmt
  ns : Bool
  space : StageSpace
  deriving DecidableEq, Repr

/-- MMA, MMA.F32, GANG.MMA. -/
structure Mma where
  h : Hdr
  acc : Fin 8
  a : Fin 512
  b : Fin 512
  deriving DecidableEq, Repr

/-- MZERO. -/
structure Mzero where
  h : Hdr
  acc : Fin 8
  deriving DecidableEq, Repr

/-- MST. -/
structure Mst where
  h : Hdr
  acc : Fin 8
  base : Operand
  off : BitVec 16
  s : Operand
  fmt : StoreFmt
  sat : Bool
  clr : Bool
  glb : Bool
  deriving DecidableEq, Repr

/-- GANG, GANG.END. -/
structure Gang where
  h : Hdr
  last : Bool
  deriving DecidableEq, Repr

/-- No operand. -/
structure Bare where
  h : Hdr
  deriving DecidableEq, Repr

/-- One source in field a. -/
structure SrcA where
  h : Hdr
  a : Operand
  deriving DecidableEq, Repr

/-- One destination in field d. -/
structure DstD where
  h : Hdr
  d : Operand
  deriving DecidableEq, Repr

/-- SETE, SETF: first register and k − 1. -/
structure SetFE where
  h : Hdr
  d : Operand
  k : Fin 32
  deriving DecidableEq, Repr

/-- MIGR. -/
structure Migr where
  h : Hdr
  fl : Bool
  disp : BitVec 20
  j : Fin 32
  deriving DecidableEq, Repr

/-- SVC (Table 12-7); `s` is the zero field under .SCR, held as none. -/
structure Svc where
  h : Hdr
  d : Operand
  base : Operand
  off : BitVec 16
  s : Option Operand
  svc : SvcKind
  rq : Fin 8
  a64 : Bool
  deriving DecidableEq, Repr

/-- CTLR: destination and register number. -/
structure Ctlr where
  h : Hdr
  d : Operand
  n : Fin 32
  deriving DecidableEq, Repr

/-- CTLW: source and register number. -/
structure Ctlw where
  h : Hdr
  a : Operand
  n : Fin 32
  deriving DecidableEq, Repr

/-- ISYNC. -/
structure Isync where
  h : Hdr
  scope : Scope
  deriving DecidableEq, Repr

/-- SLEEP. -/
structure Sleep where
  h : Hdr
  a : Operand
  ev : Bool
  deriving DecidableEq, Repr

/-! Operands of the events -/

/-- A tile packet: the header of Table 18-4 and its 512 payload bytes, unlisted bytes zero. -/
structure TilePacket where
  session : Nat
  frame : Nat
  tx : Nat
  ty : Nat
  rank : Nat
  opfmt : Nat
  span : Nat
  present : Nat
  firstmiss : Nat
  cover : DWord
  payload : Tab Byte
  deriving DecidableEq, Repr

/-- What a fabric packet carries (R345, R350, R355, R348). -/
inductive PacketBody where
  | tile (t : TilePacket)
  | root (t : TilePacket) (engine sink : Nat) (n tx0 ty0 tw th deadlinePassed : Nat)
  | rootDone (session frame engine sink : Nat)
  | keepAlive (session lo hi : Nat)
  | absent (session rank lo hi : Nat)
  deriving DecidableEq, Repr

/-- A fabric packet: destination node, link crossings so far, the link it last arrived on, virtual channel (R345), contents, and whether the node it has reached has already taken note of it. -/
structure Packet where
  dest : Nat
  hops : Nat
  link : Option Nat
  chan : Nat
  body : PacketBody
  heard : Bool := false
  deriving DecidableEq, Repr

/-- Where a soft error strikes (R398); every location names 64 protected bits. -/
inductive ErrLoc where
  | memory (pa : Nat)
  | l2 (pa : Nat)
  | scratch (team off : Nat)
  | tile (core off : Nat)
  | vreg (u n lane : Nat)
  | cacLine (core line off : Nat)
  | localMem (sc off : Nat)
  | parity (core : Nat)
  deriving DecidableEq, Repr

/-- A host request for device memory over CXL.mem (R264, R386). -/
inductive CxlReq where
  | read (pa : Nat) (shared : Bool)
  | write (pa : Nat) (data : List Byte)
  deriving DecidableEq, Repr

/-- Every row of spec/opcode_table.json: the 205 instructions of Table 3-6, then the 127 events of the part. -/
inductive Instr where
  | nop (x : Hint)
  | exit (x : Hint)
  | yield_ (x : Hint)
  | ret (x : Hint)
  | trap (x : CodeImm)
  | br (x : Branch)
  | call (x : Branch)
  | jmpi (x : JumpInd)
  | calli (x : CallInd)
  | brd (x : DivBranch)
  | brany (x : TestBranch)
  | brall (x : TestBranch)
  | loop (x : LoopReg)
  | loopi (x : LoopImm)
  | iadd (x : Bin SatMode)
  | isub (x : Bin SatMode)
  | iaddc (x : BinP Bool)
  | isubb (x : BinP Bool)
  | iaddi (x : ImmK SatMode)
  | ineg (x : Un Bool)
  | iabs (x : Un Bool)
  | iadd64 (x : Bin Unit)
  | isub64 (x : Bin Unit)
  | iaddi64 (x : ImmK Unit)
  | imin (x : Bin Bool)
  | imax (x : Bin Bool)
  | icmpp (x : CmpP ICmpMod)
  | icmppi (x : CmpI ICmpIMod)
  | sel (x : BinP Unit)
  | and_ (x : Bin Unit)
  | or_ (x : Bin Unit)
  | xor_ (x : Bin Unit)
  | not_ (x : Un Unit)
  | andi (x : ImmK Unit)
  | ori (x : ImmK Unit)
  | xori (x : ImmK Unit)
  | shl (x : Bin Unit)
  | shr (x : Bin Unit)
  | sar (x : Bin Unit)
  | rol (x : Bin Unit)
  | ror (x : Bin Unit)
  | shli (x : Un (Fin 32))
  | shri (x : Un (Fin 32))
  | sari (x : Un (Fin 32))
  | popc (x : Un Unit)
  | clz (x : Un Unit)
  | ctz (x : Un Unit)
  | brev (x : Un Unit)
  | mov (x : Un Bool)
  | movi (x : MovImm)
  | movhi (x : MovImm)
  | movk (x : MovK)
  | lea (x : Bin LeaMod)
  | shl64 (x : Bin Unit)
  | shr64 (x : Bin Unit)
  | sar64 (x : Bin Unit)
  | icmpp64 (x : CmpP ICmpMod)
  | imul (x : Bin Unit)
  | imulhi (x : Bin Bool)
  | imad (x : Tern Unit)
  | imulw (x : Bin Bool)
  | imadw (x : Tern Bool)
  | divstep (x : Bin (Fin 4))
  | divinit (x : Un Bool)
  | bfx (x : Bin Bool)
  | bfi (x : Tern Unit)
  | fadd (x : NBin ArithMod)
  | fsub (x : NBin ArithMod)
  | fmul (x : NBin ArithMod)
  | ffma (x : NTern ArithMod)
  | fmin (x : NBin ExactMod)
  | fmax (x : NBin ExactMod)
  | fcmpp (x : NCmp FCmpMod)
  | fabs (x : Un Bool)
  | fneg (x : Un Bool)
  | fclass (x : Un Bool)
  | badd (x : NBin ArithMod)
  | bsub (x : NBin ArithMod)
  | bmul (x : NBin ArithMod)
  | bfma (x : NTern ArithMod)
  | bpadd (x : Bin ArithMod)
  | bpsub (x : Bin ArithMod)
  | bpmul (x : Bin ArithMod)
  | bpfma (x : Tern ArithMod)
  | bpmin (x : Bin ExactMod)
  | bpmax (x : Bin ExactMod)
  | bmin (x : NBin ExactMod)
  | bmax (x : NBin ExactMod)
  | bcmpp (x : NCmp FCmpMod)
  | faddi (x : ImmK ArithMod)
  | fmuli (x : ImmK ArithMod)
  | ffmai (x : ImmE ArithMod)
  | rcp (x : Un ExactMod)
  | rsq (x : Un ExactMod)
  | sqrt (x : Un ExactMod)
  | exp2 (x : Un ExactMod)
  | log2 (x : Un ExactMod)
  | tanh (x : Un ExactMod)
  | sint (x : Un ExactMod)
  | cost (x : Un ExactMod)
  | sincost (x : Un ExactMod)
  | cvtfh (x : Un NarrowingMod)
  | cvthf (x : Un HfMod)
  | packh (x : Bin NarrowingMod)
  | cvtf8 (x : Tern F8Mod)
  | cvtf4 (x : Tern F4Mod)
  | cvt8f (x : OptB W8Mod)
  | cvt4f (x : OptB W4Mod)
  | mxpack (x : Un MxPMod)
  | mxunpk (x : Un MxUMod)
  | cvtfi (x : Un CvtIMod)
  | cvtif (x : Un CvtIMod)
  | cvtii (x : Un CvtIIMod)
  | shfl (x : Bin SegMod)
  | shflup (x : Tern SegMod)
  | shfldn (x : Tern SegMod)
  | shflx (x : Bin SegMod)
  | ballot (x : Ballot)
  | voteany (x : Vote)
  | voteall (x : Vote)
  | voteuni (x : Vote)
  | pscan (x : Un ScanMod)
  | reduce (x : Un ScanMod)
  | match_ (x : Un Bool)
  | ld (x : Mem MemMod)
  | st (x : Mem MemMod)
  | gld (x : Mem MemMod)
  | sct (x : Mem MemMod)
  | lds (x : Loc MemMod)
  | sts (x : Loc MemMod)
  | ldsr (x : Loc MemMod)
  | stsr (x : Loc MemMod)
  | ldt (x : Loc MemMod)
  | stt (x : Loc MemMod)
  | ldl (x : Loc MemMod)
  | stl (x : Loc MemMod)
  | ldw (x : Loc MemMod)
  | stw (x : Loc MemMod)
  | cmpst (x : Mem PackMod)
  | expld (x : Mem PackMod)
  | pref (x : MemN PrefMod)
  | atomAdd (x : Mem AtomMod)
  | atomMin (x : Mem AtomMod)
  | atomMax (x : Mem AtomMod)
  | atomAnd (x : Mem AtomMod)
  | atomOr (x : Mem AtomMod)
  | atomXor (x : Mem AtomMod)
  | atomExch (x : Mem AtomMod)
  | atomCas (x : Mem AtomMod)
  | atomFadd (x : Mem AtomMod)
  | atomFmin (x : Mem AtomMod)
  | atomFmax (x : Mem AtomMod)
  | atomAddBf16x2 (x : Mem AtomMod)
  | atomVismin (x : Mem AtomMod)
  | redAdd (x : Mem AtomMod)
  | redMin (x : Mem AtomMod)
  | redMax (x : Mem AtomMod)
  | redFadd (x : Mem AtomMod)
  | redAddBf16x2 (x : Mem AtomMod)
  | atomlCas (x : Loc AtomMod)
  | atomlAdd (x : Loc AtomMod)
  | atomwCas (x : Loc AtomMod)
  | atomwAdd (x : Loc AtomMod)
  | atomwExch (x : Loc AtomMod)
  | fence (x : Fence)
  | fenceSurf (x : FenceSurf)
  | discard (x : MemN Unit)
  | cinv (x : MemN A64Mod)
  | cwb (x : MemN A64Mod)
  | cflush (x : MemN A64Mod)
  | mrsv (x : Mrsv)
  | mrel (x : Hint)
  | mlda (x : Stage)
  | mldb (x : Stage)
  | mma (x : Mma)
  | mmaF32 (x : Mma)
  | mzero (x : Mzero)
  | mst (x : Mst)
  | gang (x : Gang)
  | gangMma (x : Mma)
  | bar (x : Bare)
  | barc (x : SrcA)
  | gbar (x : DstD)
  | voteg (x : Vote)
  | sete (x : SetFE)
  | setf (x : SetFE)
  | chain (x : Un (Fin 8))
  | enq (x : Mem QueueMod)
  | deq (x : Mem QueueMod)
  | launch (x : Mem QueueMod)
  | migr (x : Migr)
  | rets (x : Hint)
  | bclose (x : DstD)
  | bwait (x : SrcA)
  | poolq (x : Un Unit)
  | poolm (x : Un PoolMMod)
  | poolw (x : DstD)
  | svc (x : Svc)
  | ctlr (x : Ctlr)
  | ctlw (x : Ctlw)
  | isync (x : Isync)
  | sleep (x : Sleep)
  | halt (x : Hint)
  | bkpt (x : CodeImm)
  | eret (x : Hint)
  /-- R24: outstanding operation k of unit u delivers -/
  | producerCompletion (u : Nat) (k : Nat)
  /-- R25: a fill for register r of unit u reaches its interface -/
  | remoteFill (u : Nat) (r : Operand) (vals : List Word)
  /-- R310: the walk of the page at va in context ctx completes in the cell -/
  | pageWalk (cell : Nat) (ctx : Nat) (va : Nat)
  /-- R265 -/
  | cacWriteback (core : Nat) (line : Nat)
  /-- R226: result register e(8+r) of unit u -/
  | resultRecordAppend (u : Nat) (r : Nat)
  /-- R296 -/
  | issueSelect (core : Nat)
  /-- R299; sc = die × 384 + strand-core index -/
  | strandIssueSelect (sc : Nat)
  /-- R298 -/
  | loadLimitWindow (core : Nat)
  /-- R241: the sleep of the split in the entry, begun at cycle stamp -/
  | sleepExpiry (u : Nat) (entry : Nat) (stamp : Nat)
  /-- R206: the row (or column) arrival message reaches the core at (x, y) -/
  | barcSweepArrival (cl : Nat) (rect : Nat) (x : Nat) (y : Nat) (column : Bool)
  /-- R206: the release reaches the core at (x, y) -/
  | barcSweepRelease (cl : Nat) (rect : Nat) (x : Nat) (y : Nat)
  /-- R207 -/
  | gridBarrierRelease (task : Nat) (core : Nat)
  /-- R190 -/
  | matrixEntryStart (core : Nat)
  /-- R194 -/
  | matrixEntryFinish (core : Nat)
  /-- R185: pending staging k -/
  | stagingComplete (core : Nat) (k : Nat)
  /-- R188: window w at the source core -/
  | multicastWindowRead (core : Nat) (w : Nat)
  /-- R197: core is the row origin -/
  | jointOperationStart (core : Nat)
  /-- R254 -/
  | moveSwitch (core : Nat)
  /-- R256 -/
  | moveRebuild (core : Nat)
  /-- R254 -/
  | moveComplete (core : Nat)
  /-- R255 -/
  | tileFlush (core : Nat) (tile : Nat)
  /-- R255 -/
  | moveWaitRelease (core : Nat)
  /-- R248 -/
  | roleListReturn (core : Nat)
  /-- R229: command k of the core's copy engine -/
  | copy (core : Nat) (k : Nat)
  /-- R229: command k of the core's copy engine -/
  | fill (core : Nat) (k : Nat)
  /-- R229: command k of the core's copy engine -/
  | vfill (core : Nat) (k : Nat)
  /-- R229: command k of the core's copy engine -/
  | tsend (core : Nat) (k : Nat)
  /-- R229: command k of the core's copy engine -/
  | plan (core : Nat) (k : Nat)
  /-- R366: entry i of the plan that command k runs -/
  | planSend (core : Nat) (k : Nat) (i : Nat)
  /-- R229 -/
  | copyComplete (core : Nat) (k : Nat)
  /-- R234: command k of the die's merge unit -/
  | mergeOpen (die : Nat) (k : Nat)
  /-- R234: command k of the die's merge unit -/
  | mergeClose (die : Nat) (k : Nat)
  /-- R234: command k of the die's merge unit -/
  | frame (die : Nat) (k : Nat)
  /-- R234: command k of the die's merge unit -/
  | absent (die : Nat) (k : Nat)
  /-- R234: command k of the die's scan-out engines -/
  | sink (die : Nat) (k : Nat)
  /-- R234: command k of the die's scan-out engines -/
  | route (die : Nat) (k : Nat)
  /-- R234: command k of the die's scan-out engines -/
  | unsink (die : Nat) (k : Nat)
  /-- R361 -/
  | sinkRelease (die : Nat) (engine : Nat) (sink : Nat)
  /-- R323: pending request k -/
  | serviceAccept (die : Nat) (k : Nat)
  /-- Chapter 17: accepted request k -/
  | rasterOpen (die : Nat) (k : Nat)
  /-- Chapter 17: accepted request k -/
  | draw (die : Nat) (k : Nat)
  /-- Chapter 17: accepted request k -/
  | resolve (die : Nat) (k : Nat)
  /-- Chapter 17: accepted request k -/
  | rasterClose (die : Nat) (k : Nat)
  /-- Chapter 17: accepted request k -/
  | clear (die : Nat) (k : Nat)
  /-- Chapter 17: accepted request k -/
  | trace (die : Nat) (k : Nat)
  /-- Chapter 17: accepted request k -/
  | sample (die : Nat) (k : Nat)
  /-- Chapter 17: accepted request k -/
  | endRecord (die : Nat) (k : Nat)
  /-- R284 -/
  | contextEntryWake (ctx : Nat)
  /-- R284 -/
  | contextLeave (ctx : Nat)
  /-- R286 -/
  | queueTailWrite (ctx : Nat) (q : Nat)
  /-- R291: one attempt of the die's queue engine -/
  | placeCluster (die : Nat)
  /-- R293 -/
  | placeStrand (die : Nat)
  /-- R292 -/
  | placeSuperstepGrid (die : Nat)
  /-- R290 -/
  | taskRetire (task : Nat)
  /-- R300: forming group form -/
  | sumpTimeout (cell : Nat) (form : Nat)
  /-- R219 -/
  | sumpPlace (cell : Nat)
  /-- R301 -/
  | balancerSample (die : Nat)
  /-- R301 -/
  | balancerDeferredMove (die : Nat) (core : Nat)
  /-- R305 -/
  | faultRecordWrite (die : Nat)
  /-- R307: the response at rhead of the die's ring -/
  | resume (die : Nat)
  /-- R307: the response at rhead of the die's ring -/
  | redirect (die : Nat)
  /-- R307: the response at rhead of the die's ring -/
  | enter (die : Nat)
  /-- R307: the response at rhead of the die's ring -/
  | retire (die : Nat)
  /-- R307: the response at rhead of the die's ring -/
  | stop (die : Nat)
  /-- R307: the response at rhead of the die's ring -/
  | inval (die : Nat)
  /-- R307: the response at rhead of the die's ring -/
  | preempt (die : Nat)
  /-- R307: the response at rhead of the die's ring -/
  | restore (die : Nat)
  /-- R307: the response at rhead of the die's ring -/
  | migrate (die : Nat)
  /-- R319: destination core -/
  | migrationResume (core : Nat)
  /-- R321 -/
  | freeze (die : Nat)
  /-- R321 -/
  | thaw (die : Nat)
  /-- R317: the agent learns of unit u; core holds the entry -/
  | routeUpdate (core : Nat) (u : Nat) (agent : Nat)
  /-- R317 -/
  | routeUpdateAck (core : Nat) (u : Nat) (agent : Nat)
  /-- R264 -/
  | hostSnoop (line : Nat) (inval : Bool)
  /-- R264 -/
  | cxlMemRequest (r : CxlReq)
  /-- R343 -/
  | linkRetrain (link : Nat)
  /-- R343 -/
  | linkUp (link : Nat)
  /-- R343: RETRAIN entered at cycle stamp -/
  | linkDownTimeout (link : Nat) (stamp : Nat)
  /-- R344 -/
  | fabricBlockWrite (die : Nat)
  /-- R345 -/
  | packetForward (die : Nat) (p : Packet)
  /-- R353 -/
  | tilePacketArrival (die : Nat) (p : Packet)
  /-- R353: node [lo, hi) -/
  | nodeDeadline (die : Nat) (session : Nat) (frame : Nat) (lo : Nat) (hi : Nat)
  /-- R352 -/
  | leafFrameClose (die : Nat) (session : Nat) (frame : Nat)
  /-- R355 -/
  | keepAliveSend (die : Nat) (session : Nat)
  /-- R355 -/
  | keepAliveArrival (die : Nat) (p : Packet)
  /-- R355: child span [lo, hi) -/
  | childTimeout (die : Nat) (session : Nat) (lo : Nat) (hi : Nat)
  /-- R355 -/
  | absentNotice (die : Nat) (p : Packet)
  /-- R357 -/
  | sessionClose (die : Nat) (session : Nat)
  /-- R360 -/
  | rootTileDelivery (die : Nat) (p : Packet)
  /-- R361 -/
  | frameRecord (die : Nat) (engine : Nat) (sink : Nat) (frame : Nat)
  /-- R389: v is written to CTL -/
  | go (v : Word)
  /-- R394 -/
  | lattolWrite (die : Nat) (v : Word)
  /-- R396 -/
  | clklimWrite (die : Nat) (v : Word)
  /-- R388 -/
  | mgmtWindowWrite (off : Nat) (size : Nat) (v : Nat)
  /-- R390 -/
  | powerOn (die : Nat)
  /-- R390: fail 0, or 1 to 3 -/
  | firmware (die : Nat) (fail : Nat)
  /-- R390: whether the die passes, and its fenced S-cores -/
  | selftest (die : Nat) (pass : Bool) (fenced : List Nat)
  /-- R390 -/
  | memory (die : Nat) (pass : Bool)
  /-- R390 -/
  | links (die : Nat) (pass key : Bool)
  /-- R394 -/
  | idleTimeout (die : Nat)
  /-- R394 -/
  | powerEntryComplete (die : Nat)
  /-- R394 -/
  | powerWake (die : Nat)
  /-- R394 -/
  | powerExitComplete (die : Nat)
  /-- R396: junction temperature in °C -/
  | thermalStep (die : Nat) (temp : Nat)
  /-- R397: byte of the map -/
  | grantMapWrite (byte : Nat)
  /-- R397 -/
  | grantArrival (core ctx : Nat) (granted : Bool)
  /-- R398 -/
  | patrolScrub 
  /-- R399 -/
  | lifetimeRecordWrite 
  /-- R393 -/
  | getVersion 
  /-- R393 -/
  | getCapabilities 
  /-- R393 -/
  | negotiateAlgorithms
  /-- R393 -/
  | getDigests 
  /-- R393 -/
  | getCertificate (slot : Nat)
  /-- R393 -/
  | challenge (slot : Nat) (nonce : Nat)
  /-- R393 -/
  | getMeasurements (index : Nat) (signed : Bool)
  /-- R373, R374 -/
  | debugHalt (cell : Nat)
  /-- R373 -/
  | debugResume (cell : Nat)
  /-- R373 -/
  | debugStep (cell : Nat)
  /-- R376 -/
  | debugRead (cell : Nat)
  /-- R373 -/
  | debugWrite (cell : Nat)
  /-- R376 -/
  | commit (cell : Nat)
  /-- R373 -/
  | drop (cell : Nat)
  /-- R377 -/
  | debugRevoke (cell : Nat)
  /-- R93: outstanding operation k of unit u is performed -/
  | storeCompletion (u : Nat) (k : Nat)
  /-- R210: the word reaches q(2·pair) of unit u -/
  | portWordArrival (u pair : Nat) (w : Word)
  /-- R182 -/
  | relocationComplete (core : Nat)
  /-- R398 -/
  | softError (l : ErrLoc) (double : Bool)
  deriving DecidableEq, Repr

end Sys2Proof
end

