-- ==== Sys2Proof/Machine/Flags.lean ====
section
/-! DEFINITION. Integer results, comparisons, carries and bit counts as functions of the operand values (06 R109, R115 to R127). -/

namespace Sys2Proof.Machine

/-- An integer limited to a range. -/
def clamp (t lo hi : Int) : Int := if t < lo then lo else if hi < t then hi else t

/-- A 32-bit word read under an overflow mode: unsigned under .SAT.N32, else signed (R115). -/
def readSat (m : SatMode) (a : Word) : Int :=
  match m with
  | .satN32 => a.toNat
  | _ => a.toInt

/-- An exact result reduced as the overflow mode says (R115). -/
def narrowSat (m : SatMode) (t : Int) : Word :=
  match m with
  | .wrap => BitVec.ofInt 32 t
  | .satI32 => BitVec.ofInt 32 (clamp t (-2147483648) 2147483647)
  | .satN32 => BitVec.ofInt 32 (clamp t 0 4294967295)

/-- IADD and IADDI (R115). -/
def addWord (m : SatMode) (a b : Word) : Word := narrowSat m (readSat m a + readSat m b)

/-- ISUB (R115). -/
def subWord (m : SatMode) (a b : Word) : Word := narrowSat m (readSat m a - readSat m b)

/-- The overflow mode of INEG and IABS. -/
def satOf (b : Bool) : SatMode := if b then .satI32 else .wrap

/-- INEG (R115). -/
def negWord (sat : Bool) (a : Word) : Word := narrowSat (satOf sat) (0 - a.toInt)

/-- IABS (R115). -/
def absWord (sat : Bool) (a : Word) : Word := narrowSat (satOf sat) (a.toInt.natAbs : Int)

/-- Sum and carry out of IADDC (R116). -/
def addCarry (a b : Word) (ci : Bool) : Word × Bool :=
  let t := a.toNat + b.toNat + b2n ci
  (BitVec.ofNat 32 t, decide (2 ^ 32 ≤ t))

/-- Difference and borrow out of ISUBB (R116). -/
def subBorrow (a b : Word) (bi : Bool) : Word × Bool :=
  let t : Int := (a.toNat : Int) - b.toNat - b2n bi
  (BitVec.ofInt 32 t, decide (t < 0))

/-- A comparison of two integers (R109). -/
def compareInt (c : Cmp) (a b : Int) : Bool :=
  match c with
  | .eq => decide (a = b)
  | .ne => decide (a ≠ b)
  | .lt => decide (a < b)
  | .le => decide (a ≤ b)
  | .gt => decide (b < a)
  | .ge => decide (b ≤ a)

/-- A value read signed or unsigned. -/
def readInt {w : Nat} (uns : Bool) (a : BitVec w) : Int := if uns then a.toNat else a.toInt

/-- The smaller value, as i32 or n32 (R118). -/
def minWord (uns : Bool) (a b : Word) : Word := if readInt uns b < readInt uns a then b else a

/-- The larger value, as i32 or n32 (R118). -/
def maxWord (uns : Bool) (a b : Word) : Word := if readInt uns a < readInt uns b then b else a

/-- A compare result combined with pK (R119). -/
def combine (or : Bool) (r pk : Bool) : Bool := if or then r || pk else r && pk

/-- Left shift; an amount of the width or more gives 0 (R121). -/
def shlBits {w : Nat} (a : BitVec w) (k : Nat) : BitVec w := if k < w then a <<< k else 0

/-- Logical right shift (R121). -/
def shrBits {w : Nat} (a : BitVec w) (k : Nat) : BitVec w := if k < w then a >>> k else 0

/-- Arithmetic right shift (R121). -/
def sarBits {w : Nat} (a : BitVec w) (k : Nat) : BitVec w :=
  if k < w then a.sshiftRight k else if a.msb then BitVec.allOnes w else 0

/-- Population count (R122). -/
def popcWord (a : Word) : Word := BitVec.ofNat 32 (popCount 32 a.toNat)

/-- Leading zeros (R122). -/
def clzNat (w n : Nat) : Nat := ((List.range w).reverse.takeWhile (fun i => !n.testBit i)).length

/-- Trailing zeros (R122). -/
def ctzNat (w n : Nat) : Nat := ((List.range w).takeWhile (fun i => !n.testBit i)).length

/-- Bit reversal (R122). -/
def brevWord (a : Word) : Word := a.reverse

/-- An address of an element (R124). -/
def leaValue (uns : Bool) (k : Nat) (a : DWord) (b : Word) : DWord :=
  a + (if uns then b.setWidth 64 else b.signExtend 64) <<< k

/-- High half of a product (R125). -/
def mulHigh (uns : Bool) (a b : Word) : Word := BitVec.ofInt 32 (readInt uns a * readInt uns b / 4294967296)

/-- Wide product (R125). -/
def mulWide (uns : Bool) (a b : Word) : DWord := BitVec.ofInt 64 (readInt uns a * readInt uns b)

/-- Wide multiply-add (R125). -/
def madWide (uns : Bool) (a b : Word) (c : DWord) : DWord := BitVec.ofInt 64 (readInt uns a * readInt uns b + readInt uns c)

/-- One quotient bit of DIVSTEP (R126). -/
def divBit (d : Nat) (st : Word × Word) : Word × Word :=
  let q := st.1
  let t := 2 * st.2.toNat + b2n (q.getLsbD 31)
  let q2 := q <<< 1
  if d ≤ t then (q2 ||| 1, BitVec.ofNat 32 (t - d)) else (q2, BitVec.ofNat 32 t)

/-- n quotient bits. -/
def divBits (d : Nat) : Nat → Word × Word → Word × Word
  | 0, st => st
  | n + 1, st => divBits d n (divBit d st)

/-- DIVSTEP on the state pair (R126). -/
def divStep (log : Nat) (a : DWord) (b : Word) : DWord :=
  let st := divBits b.toNat (2 ^ log) (loWord a, hiWord a)
  pair st.1 st.2

/-- DIVINIT (R126). -/
def divInit (signed : Bool) (a : Word) : DWord := pair (if signed then BitVec.ofNat 32 a.toInt.natAbs else a) 0

/-- Position and length of a bit field (R127). -/
def fieldPos (b : Word) : Nat × Nat := (bits b.toNat 7 0, min (bits b.toNat 15 8) 32)

/-- BFX (R127). -/
def bfxWord (signed : Bool) (a b : Word) : Word :=
  let (pos, len) := fieldPos b
  if len = 0 then 0 else
  let f (i : Nat) : Bool := if pos + i ≤ 31 then a.getLsbD (pos + i) else signed && a.getLsbD 31
  let n := (List.range 32).foldl (fun n i => n + 2 ^ i * b2n (if i < len then f i else signed && f (len - 1))) 0
  BitVec.ofNat 32 n

/-- BFI (R127). -/
def bfiWord (a b c : Word) : Word :=
  let (pos, len) := fieldPos b
  let n := (List.range 32).foldl
    (fun n i => n + 2 ^ i * b2n (if pos ≤ i ∧ i < pos + len then a.getLsbD (i - pos) else c.getLsbD i)) 0
  BitVec.ofNat 32 n

end Sys2Proof.Machine
end

