-- ==== Sys2Proof/WellFormed.lean ====
section
/-! DEFINITION. Which instructions are well formed: the operand and modifier rules of each entry that no unit's state bears on. A term that breaks one of them has no legal encoding (R70). -/

namespace Sys2Proof

namespace Operand

/-- A v register. -/
def isV : Operand → Bool
  | .v _ => true
  | _ => false

/-- An s or x register. -/
def isS : Operand → Bool
  | .s _ => true
  | _ => false

/-- A readable 32-bit source (R110, R23); the ports of R22 are checked at issue. -/
def src32 : Operand → Bool
  | .e n => decide (8 ≤ n.val)
  | _ => true

/-- A 32-bit destination (R110, R19, R23); the ports of R22 and the command registers of R225 are checked at issue. -/
def dst32 : Operand → Bool
  | .e n => decide (n.val < 8)
  | .id _ => false
  | _ => true

/-- The even register of a v, s or x pair (R92). -/
def evenReg : Operand → Bool
  | .v n => decide (n.val % 2 = 0)
  | .s n => decide (n.val % 2 = 0)
  | _ => false

/-- What a pair field may name (R111). -/
def pairReg : Operand → Bool
  | .zero => true
  | o => o.evenReg

/-- A uniform pair (R156). -/
def uniReg : Operand → Bool
  | .s n => decide (n.val % 2 = 0)
  | _ => false

/-- A uniform pair or zero (Table 8-4). -/
def uniPair : Operand → Bool
  | .zero => true
  | o => o.uniReg

/-- The count of LOOP: s or x, lc, an identity value or zero (R104). -/
def loopSrc : Operand → Bool
  | .s _ => true
  | .lc _ => true
  | .id _ => true
  | .zero => true
  | _ => false

/-- A status destination: s or x, v, or zero (R202, R224). -/
def status : Operand → Bool
  | .s _ => true
  | .v _ => true
  | .zero => true
  | _ => false

/-- An s or x register, or zero. -/
def sOrZero : Operand → Bool
  | .s _ => true
  | .zero => true
  | _ => false

/-- A v register or zero. -/
def vOrZero : Operand → Bool
  | .v _ => true
  | .zero => true
  | _ => false

/-- A v register, or an s or x register. -/
def vOrS : Operand → Bool
  | .v _ => true
  | .s _ => true
  | _ => false

/-- A 32-bit base of an access: readable, not q, e or lc (R155). -/
def addr32 : Operand → Bool
  | .q _ => false
  | .e _ => false
  | .lc _ => false
  | _ => true

/-- Store data: readable, not q, e or lc (R155). -/
def data (o : Operand) : Bool := o.addr32

/-- A CTLW source: readable, not q or e (R239). -/
def ctlSrc : Operand → Bool
  | .q _ => false
  | .e _ => false
  | _ => true

/-- The register number suits an operand of `k` registers: 1 any, 2 an even pair, 4 a quad (R18, R111, R154). -/
def width (o : Operand) (k : Nat) : Bool :=
  match o with
  | .v n => decide (n.val % k = 0)
  | .s n => decide (n.val % k = 0)
  | .zero => true
  | _ => decide (k = 1)

/-- `k` consecutive registers from this one exist (R209). -/
def span (o : Operand) (k : Nat) : Bool :=
  match o with
  | .v n => decide (n.val + k ≤ 1024)
  | .s n => decide (n.val + k ≤ 64)
  | _ => false

end Operand

/-- Registers of an access of this type. -/
def MType.regs : MType → Nat
  | .b64 => 2
  | .b128 => 4
  | _ => 1

/-- Types CMPST takes (R162). -/
def MType.packStore : MType → Bool
  | .b32 | .b64 | .n8 | .n16 => true
  | _ => false

/-- Types EXPLD takes (R162). -/
def MType.packLoad : MType → Bool
  | .b32 | .b64 | .n8 | .n16 | .i8 | .i16 => true
  | _ => false

/-- A store's type and .SAT (R153). -/
def MemMod.storeOk (m : MemMod) : Bool :=
  match m.ty with
  | .i8 | .i16 => false
  | .e4m3 | .e5m2 => true
  | _ => !m.sat

/-- Registers of an atomic operand. -/
def AtomMod.regs (m : AtomMod) : Nat := if m.b64 then 2 else 1

/-- A 64-bit integer type. -/
def IntTy.wide : IntTy → Bool
  | .i64 | .n64 => true
  | _ => false

/-- .N32 only with .MIN and .MAX (R151). -/
def ScanMod.wf (m : ScanMod) : Bool :=
  match m.op with
  | .min | .max => true
  | _ => !m.uns

/-- A staging format with scale bytes. -/
def StageFmt.narrow : StageFmt → Bool
  | .bf16 | .f32 => false
  | _ => true

/-- An FP8 output format. -/
def StoreFmt.narrow : StoreFmt → Bool
  | .e4m3 | .e5m2 => true
  | _ => false

/-- Narrow-operand fields that R64 allows. -/
def Narrow.wf (n : Narrow) : Bool :=
  match n.fmt with
  | none => n.a.isNone && n.b.isNone
  | some f =>
    (n.a.isSome || n.b.isSome) &&
    (match f with
     | .e2m1 => true
     | _ => (match n.a with | none => true | some k => decide (k.val < 4)) &&
            (match n.b with | none => true | some k => decide (k.val < 4)))

/-- The 64-bit control registers (Table 1-5): trapaddr, pathsig, retired. -/
def ctlWide (n : Nat) : Bool := n == 1 || n == 7 || n == 8

/-- The RW control registers (Table 1-5). -/
def ctlWritable (n : Nat) : Bool := decide (n ≤ 5) || n == 13

/-- The operand and modifier rules of every entry; an event has no encoding and no such rule. -/
def Instr.wf : Instr → Bool
  | .nop _ => true
  | .exit _ => true
  | .yield_ _ => true
  | .ret _ => true
  | .trap _ => true
  | .br _ => true
  | .call _ => true
  | .jmpi x => x.a.evenReg
  | .calli x => x.d.evenReg && x.a.evenReg
  | .brd _ => true
  | .brany _ => true
  | .brall _ => true
  | .loop x => x.src.loopSrc
  | .loopi _ => true
  | .iadd x => x.d.dst32 && x.a.src32 && x.b.src32
  | .isub x => x.d.dst32 && x.a.src32 && x.b.src32
  | .iaddc x => x.d.dst32 && x.a.src32 && x.b.src32
  | .isubb x => x.d.dst32 && x.a.src32 && x.b.src32
  | .iaddi x => x.d.dst32 && x.a.src32
  | .ineg x => x.d.dst32 && x.a.src32
  | .iabs x => x.d.dst32 && x.a.src32
  | .iadd64 x => x.d.pairReg && x.a.pairReg && x.b.pairReg
  | .isub64 x => x.d.pairReg && x.a.pairReg && x.b.pairReg
  | .iaddi64 x => x.d.pairReg && x.a.pairReg
  | .imin x => x.d.dst32 && x.a.src32 && x.b.src32
  | .imax x => x.d.dst32 && x.a.src32 && x.b.src32
  | .icmpp x => x.a.src32 && x.b.src32
  | .icmppi x => x.a.src32
  | .sel x => x.d.dst32 && x.a.src32 && x.b.src32
  | .and_ x => x.d.dst32 && x.a.src32 && x.b.src32
  | .or_ x => x.d.dst32 && x.a.src32 && x.b.src32
  | .xor_ x => x.d.dst32 && x.a.src32 && x.b.src32
  | .not_ x => x.d.dst32 && x.a.src32
  | .andi x => x.d.dst32 && x.a.src32
  | .ori x => x.d.dst32 && x.a.src32
  | .xori x => x.d.dst32 && x.a.src32
  | .shl x => x.d.dst32 && x.a.src32 && x.b.src32
  | .shr x => x.d.dst32 && x.a.src32 && x.b.src32
  | .sar x => x.d.dst32 && x.a.src32 && x.b.src32
  | .rol x => x.d.dst32 && x.a.src32 && x.b.src32
  | .ror x => x.d.dst32 && x.a.src32 && x.b.src32
  | .shli x => x.d.dst32 && x.a.src32
  | .shri x => x.d.dst32 && x.a.src32
  | .sari x => x.d.dst32 && x.a.src32
  | .popc x => x.d.dst32 && x.a.src32
  | .clz x => x.d.dst32 && x.a.src32
  | .ctz x => x.d.dst32 && x.a.src32
  | .brev x => x.d.dst32 && x.a.src32
  | .mov x => if x.m then x.d.pairReg && x.a.pairReg else x.d.dst32 && x.a.src32
  | .movi x => x.d.dst32
  | .movhi x => x.d.dst32
  | .movk x => match x.m with | .w32 => x.d.dst32 | _ => x.d.pairReg
  | .lea x => x.d.pairReg && x.a.pairReg && x.b.src32
  | .shl64 x => x.d.pairReg && x.a.pairReg && x.b.src32
  | .shr64 x => x.d.pairReg && x.a.pairReg && x.b.src32
  | .sar64 x => x.d.pairReg && x.a.pairReg && x.b.src32
  | .icmpp64 x => x.a.pairReg && x.b.pairReg
  | .imul x => x.d.dst32 && x.a.src32 && x.b.src32
  | .imulhi x => x.d.dst32 && x.a.src32 && x.b.src32
  | .imad x => x.d.dst32 && x.a.src32 && x.b.src32 && x.c.src32
  | .imulw x => x.d.pairReg && x.a.src32 && x.b.src32
  | .imadw x => x.d.pairReg && x.a.src32 && x.b.src32 && x.c.pairReg
  | .divstep x => x.d.pairReg && x.a.pairReg && x.b.src32
  | .divinit x => x.d.pairReg && x.a.src32
  | .bfx x => x.d.dst32 && x.a.src32 && x.b.src32
  | .bfi x => x.d.dst32 && x.a.src32 && x.b.src32 && x.c.src32
  | .fadd x => x.d.dst32 && x.a.src32 && x.b.src32 && x.nar.wf
  | .fsub x => x.d.dst32 && x.a.src32 && x.b.src32 && x.nar.wf
  | .fmul x => x.d.dst32 && x.a.src32 && x.b.src32 && x.nar.wf
  | .ffma x => x.d.dst32 && x.a.src32 && x.b.src32 && x.c.src32 && x.nar.wf
  | .fmin x => x.d.dst32 && x.a.src32 && x.b.src32 && x.nar.wf
  | .fmax x => x.d.dst32 && x.a.src32 && x.b.src32 && x.nar.wf
  | .fcmpp x => x.a.src32 && x.b.src32 && x.nar.wf
  | .fabs x => x.d.dst32 && x.a.src32
  | .fneg x => x.d.dst32 && x.a.src32
  | .fclass x => x.d.dst32 && x.a.src32
  | .badd x => x.d.dst32 && x.a.src32 && x.b.src32 && x.nar.wf
  | .bsub x => x.d.dst32 && x.a.src32 && x.b.src32 && x.nar.wf
  | .bmul x => x.d.dst32 && x.a.src32 && x.b.src32 && x.nar.wf
  | .bfma x => x.d.dst32 && x.a.src32 && x.b.src32 && x.c.src32 && x.nar.wf
  | .bpadd x => x.d.dst32 && x.a.src32 && x.b.src32
  | .bpsub x => x.d.dst32 && x.a.src32 && x.b.src32
  | .bpmul x => x.d.dst32 && x.a.src32 && x.b.src32
  | .bpfma x => x.d.dst32 && x.a.src32 && x.b.src32 && x.c.src32
  | .bpmin x => x.d.dst32 && x.a.src32 && x.b.src32
  | .bpmax x => x.d.dst32 && x.a.src32 && x.b.src32
  | .bmin x => x.d.dst32 && x.a.src32 && x.b.src32 && x.nar.wf
  | .bmax x => x.d.dst32 && x.a.src32 && x.b.src32 && x.nar.wf
  | .bcmpp x => x.a.src32 && x.b.src32 && x.nar.wf
  | .faddi x => x.d.dst32 && x.a.src32
  | .fmuli x => x.d.dst32 && x.a.src32
  | .ffmai x => x.d.dst32 && x.a.src32 && x.b.src32
  | .rcp x => x.d.dst32 && x.a.src32
  | .rsq x => x.d.dst32 && x.a.src32
  | .sqrt x => x.d.dst32 && x.a.src32
  | .exp2 x => x.d.dst32 && x.a.src32
  | .log2 x => x.d.dst32 && x.a.src32
  | .tanh x => x.d.dst32 && x.a.src32
  | .sint x => x.d.dst32 && x.a.src32
  | .cost x => x.d.dst32 && x.a.src32
  | .sincost x => x.d.pairReg && x.a.src32
  | .cvtfh x => x.d.dst32 && x.a.src32
  | .cvthf x => x.d.dst32 && x.a.src32
  | .packh x => x.d.dst32 && x.a.src32 && x.b.src32
  | .cvtf8 x => x.d.dst32 && x.a.src32 && x.b.src32 && x.c.src32
  | .cvtf4 x => x.d.dst32 && x.a.src32 && x.b.src32 && x.c.src32
  | .cvt8f x => x.d.dst32 && x.a.src32 && (match x.b with | none => true | some o => o.src32)
  | .cvt4f x => x.d.dst32 && x.a.src32 && (match x.b with | none => true | some o => o.src32)
  | .mxpack x => x.d.dst32 && x.a.src32
  | .mxunpk x => x.d.dst32 && x.a.src32
  | .cvtfi x => (if x.m.ty.wide then x.d.pairReg else x.d.dst32) && x.a.src32
  | .cvtif x => x.d.dst32 && (if x.m.ty.wide then x.a.pairReg else x.a.src32)
  | .cvtii x => x.d.dst32 && (match x.m.width with | .w32 => x.a.pairReg | _ => x.a.src32)
  | .shfl x => x.d.isV && x.a.isV && x.b.src32
  | .shflup x => x.d.isV && x.a.isV && x.b.src32 && x.c.src32
  | .shfldn x => x.d.isV && x.a.isV && x.b.src32 && x.c.src32
  | .shflx x => x.d.isV && x.a.isV && x.b.src32
  | .ballot x => x.d.status
  | .voteany _ => true
  | .voteall _ => true
  | .voteuni _ => true
  | .pscan x => x.d.isV && x.a.isV && x.m.wf
  | .reduce x => x.d.status && x.a.isV && x.m.wf && !x.m.excl
  | .match_ x => x.d.isV && x.a.isV && (!x.m || x.a.pairReg)
  | .ld x => x.d.status && x.d.width x.m.ty.regs && (if x.m.a64 then x.base.pairReg else x.base.addr32) && x.s.uniPair && !x.m.sat
  | .st x => x.d.data && x.d.width x.m.ty.regs && x.m.storeOk && (if x.m.a64 then x.base.pairReg else x.base.addr32) && x.s.uniPair
  | .gld x => x.d.vOrZero && x.d.width x.m.ty.regs && (if x.m.a64 then x.base.pairReg else x.base.addr32) && x.s.uniPair && !x.m.sat
  | .sct x => x.d.data && x.d.width x.m.ty.regs && x.m.storeOk && (if x.m.a64 then x.base.pairReg else x.base.addr32) && x.s.uniPair
  | .lds x => x.d.vOrZero && x.d.width x.m.ty.regs && x.base.addr32 && !x.m.sat && !x.m.a64
  | .sts x => x.d.data && x.d.width x.m.ty.regs && x.m.storeOk && x.base.addr32 && !x.m.a64
  | .ldsr x => x.d.vOrZero && x.d.width x.m.ty.regs && x.base.addr32 && !x.m.sat && !x.m.a64
  | .stsr x => x.d.data && x.d.width x.m.ty.regs && x.m.storeOk && x.base.addr32 && !x.m.a64
  | .ldt x => x.d.vOrZero && x.d.width x.m.ty.regs && x.base.addr32 && !x.m.sat && !x.m.a64
  | .stt x => x.d.data && x.d.width x.m.ty.regs && x.m.storeOk && x.base.addr32 && !x.m.a64
  | .ldl x => x.d.sOrZero && x.d.width x.m.ty.regs && x.base.addr32 && !x.m.sat && !x.m.a64
  | .stl x => x.d.data && x.d.width x.m.ty.regs && x.m.storeOk && x.base.addr32 && !x.m.a64
  | .ldw x => x.d.sOrZero && x.d.width x.m.ty.regs && x.base.addr32 && !x.m.sat && !x.m.a64
  | .stw x => x.d.data && x.d.width x.m.ty.regs && x.m.storeOk && x.base.addr32 && !x.m.a64
  | .cmpst x => x.d.data && x.d.width x.m.ty.regs && x.m.ty.packStore && x.base.uniReg && x.s.isS
  | .expld x => x.d.vOrZero && x.d.width x.m.ty.regs && x.m.ty.packLoad && x.base.uniReg && x.s.isS
  | .pref x => (if x.m.a64 then x.base.pairReg else x.base.addr32) && x.s.uniPair
  | .atomAdd x => x.d.vOrS && x.d.width x.m.regs && !x.m.signed && (if x.m.a64 then x.base.pairReg else x.base.addr32) && x.s.uniPair
  | .atomMin x => x.d.vOrS && x.d.width x.m.regs && (if x.m.a64 then x.base.pairReg else x.base.addr32) && x.s.uniPair
  | .atomMax x => x.d.vOrS && x.d.width x.m.regs && (if x.m.a64 then x.base.pairReg else x.base.addr32) && x.s.uniPair
  | .atomAnd x => x.d.vOrS && x.d.width x.m.regs && !x.m.signed && (if x.m.a64 then x.base.pairReg else x.base.addr32) && x.s.uniPair
  | .atomOr x => x.d.vOrS && x.d.width x.m.regs && !x.m.signed && (if x.m.a64 then x.base.pairReg else x.base.addr32) && x.s.uniPair
  | .atomXor x => x.d.vOrS && x.d.width x.m.regs && !x.m.signed && (if x.m.a64 then x.base.pairReg else x.base.addr32) && x.s.uniPair
  | .atomExch x => x.d.vOrS && x.d.width x.m.regs && !x.m.signed && (if x.m.a64 then x.base.pairReg else x.base.addr32) && x.s.uniPair
  | .atomCas x => x.d.vOrS && x.d.width (2 * x.m.regs) && !x.m.signed && (if x.m.a64 then x.base.pairReg else x.base.addr32) && x.s.uniPair
  | .atomFadd x => x.d.vOrS && !x.m.b64 && !x.m.signed && (if x.m.a64 then x.base.pairReg else x.base.addr32) && x.s.uniPair
  | .atomFmin x => x.d.vOrS && !x.m.b64 && !x.m.signed && (if x.m.a64 then x.base.pairReg else x.base.addr32) && x.s.uniPair
  | .atomFmax x => x.d.vOrS && !x.m.b64 && !x.m.signed && (if x.m.a64 then x.base.pairReg else x.base.addr32) && x.s.uniPair
  | .atomAddBf16x2 x => x.d.vOrS && !x.m.b64 && !x.m.signed && (if x.m.a64 then x.base.pairReg else x.base.addr32) && x.s.uniPair
  | .atomVismin x => x.d.vOrS && x.m.b64 && x.d.width 2 && !x.m.signed && (if x.m.a64 then x.base.pairReg else x.base.addr32) && x.s.uniPair
  | .redAdd x => x.d.data && x.d.width x.m.regs && !x.m.signed && (if x.m.a64 then x.base.pairReg else x.base.addr32) && x.s.uniPair
  | .redMin x => x.d.data && x.d.width x.m.regs && (if x.m.a64 then x.base.pairReg else x.base.addr32) && x.s.uniPair
  | .redMax x => x.d.data && x.d.width x.m.regs && (if x.m.a64 then x.base.pairReg else x.base.addr32) && x.s.uniPair
  | .redFadd x => x.d.data && !x.m.b64 && !x.m.signed && (if x.m.a64 then x.base.pairReg else x.base.addr32) && x.s.uniPair
  | .redAddBf16x2 x => x.d.data && !x.m.b64 && !x.m.signed && (if x.m.a64 then x.base.pairReg else x.base.addr32) && x.s.uniPair
  | .atomlCas x => x.d.isS && x.d.width (2 * x.m.regs) && x.base.addr32 && !x.m.signed && !x.m.a64
  | .atomlAdd x => x.d.isS && x.d.width x.m.regs && x.base.addr32 && !x.m.signed && !x.m.a64
  | .atomwCas x => x.d.isS && x.d.width (2 * x.m.regs) && x.base.addr32 && !x.m.signed && !x.m.a64
  | .atomwAdd x => x.d.isS && x.d.width x.m.regs && x.base.addr32 && !x.m.signed && !x.m.a64
  | .atomwExch x => x.d.isS && x.d.width x.m.regs && x.base.addr32 && !x.m.signed && !x.m.a64
  | .fence _ => true
  | .fenceSurf x => x.base.uniPair
  | .discard x => x.base.uniPair && x.s.isS
  | .cinv x => (if x.m.a64 then x.base.pairReg else x.base.addr32) && x.s.uniPair
  | .cwb x => (if x.m.a64 then x.base.pairReg else x.base.addr32) && x.s.uniPair
  | .cflush x => (if x.m.a64 then x.base.pairReg else x.base.addr32) && x.s.uniPair
  | .mrsv x => x.a.sOrZero && decide (1 ≤ x.half.val) && decide (x.half.val ≤ 16)
  | .mrel _ => true
  | .mlda x => x.base.addr32 && x.s.sOrZero && !x.ns
  | .mldb x => x.base.addr32 && x.s.sOrZero && (!x.ns || x.fmt.narrow)
  | .mma _ => true
  | .mmaF32 _ => true
  | .mzero _ => true
  | .mst x => (if x.glb then x.base.uniReg else x.base.addr32) && x.s.sOrZero && (!x.sat || x.fmt.narrow)
  | .gang _ => true
  | .gangMma _ => true
  | .bar _ => true
  | .barc x => x.a.src32
  | .gbar x => x.d.sOrZero
  | .voteg _ => true
  | .sete x => x.d.span (x.k.val + 1)
  | .setf x => x.d.span (x.k.val + 1)
  | .chain x => x.d.status && x.a.src32
  | .enq x => x.d.status && (if x.m.a64 then x.base.pairReg else x.base.addr32) && x.s.uniPair
  | .deq x => x.d.status && (if x.m.a64 then x.base.pairReg else x.base.addr32) && x.s.uniPair && !x.m.nb
  | .launch x => x.d.status && (if x.m.a64 then x.base.pairReg else x.base.addr32) && x.s.uniPair && decide (x.m.queue.val = 0)
  | .migr _ => true
  | .rets _ => true
  | .bclose x => x.d.status
  | .bwait x => x.a.src32
  | .poolq x => x.d.status && x.a.src32
  | .poolm x => x.d.status && x.a.src32
  | .poolw x => x.d.status
  | .svc x => x.d.status && decide (x.rq.val < 6) && (match x.s with | none => x.base.addr32 && !x.a64 | some o => o.uniPair && (if x.a64 then x.base.pairReg else x.base.addr32))
  | .ctlr x => x.d.status && decide (x.n.val < 14) && (!ctlWide x.n.val || x.d.pairReg)
  | .ctlw x => x.a.ctlSrc && ctlWritable x.n.val && (!ctlWide x.n.val || x.a.pairReg)
  | .isync _ => true
  | .sleep x => x.a.src32
  | .halt _ => true
  | .bkpt _ => true
  | .eret _ => true
  | .producerCompletion _ _ => true
  | .remoteFill _ _ _ => true
  | .pageWalk _ _ _ => true
  | .cacWriteback _ _ => true
  | .resultRecordAppend _ _ => true
  | .issueSelect _ => true
  | .strandIssueSelect _ => true
  | .loadLimitWindow _ => true
  | .sleepExpiry _ _ _ => true
  | .barcSweepArrival _ _ _ _ _ => true
  | .barcSweepRelease _ _ _ _ => true
  | .gridBarrierRelease _ _ => true
  | .matrixEntryStart _ => true
  | .matrixEntryFinish _ => true
  | .stagingComplete _ _ => true
  | .multicastWindowRead _ _ => true
  | .jointOperationStart _ => true
  | .moveSwitch _ => true
  | .moveRebuild _ => true
  | .moveComplete _ => true
  | .tileFlush _ _ => true
  | .moveWaitRelease _ => true
  | .roleListReturn _ => true
  | .copy _ _ => true
  | .fill _ _ => true
  | .vfill _ _ => true
  | .tsend _ _ => true
  | .plan _ _ => true
  | .planSend _ _ _ => true
  | .copyComplete _ _ => true
  | .mergeOpen _ _ => true
  | .mergeClose _ _ => true
  | .frame _ _ => true
  | .absent _ _ => true
  | .sink _ _ => true
  | .route _ _ => true
  | .unsink _ _ => true
  | .sinkRelease _ _ _ => true
  | .serviceAccept _ _ => true
  | .rasterOpen _ _ => true
  | .draw _ _ => true
  | .resolve _ _ => true
  | .rasterClose _ _ => true
  | .clear _ _ => true
  | .trace _ _ => true
  | .sample _ _ => true
  | .endRecord _ _ => true
  | .contextEntryWake _ => true
  | .contextLeave _ => true
  | .queueTailWrite _ _ => true
  | .placeCluster _ => true
  | .placeStrand _ => true
  | .placeSuperstepGrid _ => true
  | .taskRetire _ => true
  | .sumpTimeout _ _ => true
  | .sumpPlace _ => true
  | .balancerSample _ => true
  | .balancerDeferredMove _ _ => true
  | .faultRecordWrite _ => true
  | .resume _ => true
  | .redirect _ => true
  | .enter _ => true
  | .retire _ => true
  | .stop _ => true
  | .inval _ => true
  | .preempt _ => true
  | .restore _ => true
  | .migrate _ => true
  | .migrationResume _ => true
  | .freeze _ => true
  | .thaw _ => true
  | .routeUpdate _ _ _ => true
  | .routeUpdateAck _ _ _ => true
  | .hostSnoop _ _ => true
  | .cxlMemRequest _ => true
  | .linkRetrain _ => true
  | .linkUp _ => true
  | .linkDownTimeout _ _ => true
  | .fabricBlockWrite _ => true
  | .packetForward _ _ => true
  | .tilePacketArrival _ _ => true
  | .nodeDeadline _ _ _ _ _ => true
  | .leafFrameClose _ _ _ => true
  | .keepAliveSend _ _ => true
  | .keepAliveArrival _ _ => true
  | .childTimeout _ _ _ _ => true
  | .absentNotice _ _ => true
  | .sessionClose _ _ => true
  | .rootTileDelivery _ _ => true
  | .frameRecord _ _ _ _ => true
  | .go _ => true
  | .lattolWrite _ _ => true
  | .clklimWrite _ _ => true
  | .mgmtWindowWrite _ _ _ => true
  | .powerOn _ => true
  | .firmware _ _ => true
  | .selftest _ _ _ => true
  | .memory _ _ => true
  | .links _ _ _ => true
  | .idleTimeout _ => true
  | .powerEntryComplete _ => true
  | .powerWake _ => true
  | .powerExitComplete _ => true
  | .thermalStep _ _ => true
  | .grantMapWrite _ => true
  | .grantArrival _ _ _ => true
  | .patrolScrub => true
  | .lifetimeRecordWrite => true
  | .getVersion => true
  | .getCapabilities => true
  | .negotiateAlgorithms => true
  | .getDigests => true
  | .getCertificate _ => true
  | .challenge _ _ => true
  | .getMeasurements _ _ => true
  | .debugHalt _ => true
  | .debugResume _ => true
  | .debugStep _ => true
  | .debugRead _ => true
  | .debugWrite _ => true
  | .commit _ => true
  | .drop _ => true
  | .debugRevoke _ => true
  | .storeCompletion _ _ => true
  | .portWordArrival _ _ _ => true
  | .relocationComplete _ => true
  | .softError _ _ => true

/-- Where an instruction may run (R72): B both, G groups only, S strands only. -/
inductive Cls where
  | b | g | s
  deriving DecidableEq, Repr

/-- The class of each instruction (Table 3-6); an event belongs to no unit and is given class B. -/
def Instr.cls : Instr → Cls
  | .nop _ => .b
  | .exit _ => .b
  | .yield_ _ => .b
  | .ret _ => .b
  | .trap _ => .b
  | .br _ => .b
  | .call _ => .b
  | .jmpi _ => .b
  | .calli _ => .b
  | .brd _ => .g
  | .brany _ => .g
  | .brall _ => .g
  | .loop _ => .b
  | .loopi _ => .b
  | .iadd _ => .b
  | .isub _ => .b
  | .iaddc _ => .b
  | .isubb _ => .b
  | .iaddi _ => .b
  | .ineg _ => .b
  | .iabs _ => .b
  | .iadd64 _ => .b
  | .isub64 _ => .b
  | .iaddi64 _ => .b
  | .imin _ => .b
  | .imax _ => .b
  | .icmpp _ => .b
  | .icmppi _ => .b
  | .sel _ => .b
  | .and_ _ => .b
  | .or_ _ => .b
  | .xor_ _ => .b
  | .not_ _ => .b
  | .andi _ => .b
  | .ori _ => .b
  | .xori _ => .b
  | .shl _ => .b
  | .shr _ => .b
  | .sar _ => .b
  | .rol _ => .b
  | .ror _ => .b
  | .shli _ => .b
  | .shri _ => .b
  | .sari _ => .b
  | .popc _ => .b
  | .clz _ => .b
  | .ctz _ => .b
  | .brev _ => .b
  | .mov _ => .b
  | .movi _ => .b
  | .movhi _ => .b
  | .movk _ => .b
  | .lea _ => .b
  | .shl64 _ => .b
  | .shr64 _ => .b
  | .sar64 _ => .b
  | .icmpp64 _ => .b
  | .imul _ => .b
  | .imulhi _ => .b
  | .imad _ => .b
  | .imulw _ => .b
  | .imadw _ => .b
  | .divstep _ => .b
  | .divinit _ => .b
  | .bfx _ => .b
  | .bfi _ => .b
  | .fadd _ => .b
  | .fsub _ => .b
  | .fmul _ => .b
  | .ffma _ => .b
  | .fmin _ => .b
  | .fmax _ => .b
  | .fcmpp _ => .b
  | .fabs _ => .b
  | .fneg _ => .b
  | .fclass _ => .b
  | .badd _ => .b
  | .bsub _ => .b
  | .bmul _ => .b
  | .bfma _ => .b
  | .bpadd _ => .b
  | .bpsub _ => .b
  | .bpmul _ => .b
  | .bpfma _ => .b
  | .bpmin _ => .b
  | .bpmax _ => .b
  | .bmin _ => .b
  | .bmax _ => .b
  | .bcmpp _ => .b
  | .faddi _ => .b
  | .fmuli _ => .b
  | .ffmai _ => .b
  | .rcp _ => .b
  | .rsq _ => .b
  | .sqrt _ => .b
  | .exp2 _ => .b
  | .log2 _ => .b
  | .tanh _ => .b
  | .sint _ => .b
  | .cost _ => .b
  | .sincost _ => .b
  | .cvtfh _ => .b
  | .cvthf _ => .b
  | .packh _ => .b
  | .cvtf8 _ => .b
  | .cvtf4 _ => .b
  | .cvt8f _ => .b
  | .cvt4f _ => .b
  | .mxpack _ => .b
  | .mxunpk _ => .b
  | .cvtfi _ => .b
  | .cvtif _ => .b
  | .cvtii _ => .b
  | .shfl _ => .g
  | .shflup _ => .g
  | .shfldn _ => .g
  | .shflx _ => .g
  | .ballot _ => .g
  | .voteany _ => .g
  | .voteall _ => .g
  | .voteuni _ => .g
  | .pscan _ => .g
  | .reduce _ => .g
  | .match_ _ => .g
  | .ld _ => .b
  | .st _ => .b
  | .gld _ => .g
  | .sct _ => .g
  | .lds _ => .g
  | .sts _ => .g
  | .ldsr _ => .g
  | .stsr _ => .g
  | .ldt _ => .g
  | .stt _ => .g
  | .ldl _ => .s
  | .stl _ => .s
  | .ldw _ => .s
  | .stw _ => .s
  | .cmpst _ => .g
  | .expld _ => .g
  | .pref _ => .b
  | .atomAdd _ => .b
  | .atomMin _ => .b
  | .atomMax _ => .b
  | .atomAnd _ => .b
  | .atomOr _ => .b
  | .atomXor _ => .b
  | .atomExch _ => .b
  | .atomCas _ => .b
  | .atomFadd _ => .b
  | .atomFmin _ => .b
  | .atomFmax _ => .b
  | .atomAddBf16x2 _ => .b
  | .atomVismin _ => .b
  | .redAdd _ => .b
  | .redMin _ => .b
  | .redMax _ => .b
  | .redFadd _ => .b
  | .redAddBf16x2 _ => .b
  | .atomlCas _ => .s
  | .atomlAdd _ => .s
  | .atomwCas _ => .s
  | .atomwAdd _ => .s
  | .atomwExch _ => .s
  | .fence _ => .b
  | .fenceSurf _ => .b
  | .discard _ => .b
  | .cinv _ => .b
  | .cwb _ => .b
  | .cflush _ => .b
  | .mrsv _ => .g
  | .mrel _ => .g
  | .mlda _ => .g
  | .mldb _ => .g
  | .mma _ => .g
  | .mmaF32 _ => .g
  | .mzero _ => .g
  | .mst _ => .g
  | .gang _ => .g
  | .gangMma _ => .g
  | .bar _ => .g
  | .barc _ => .g
  | .gbar _ => .g
  | .voteg _ => .g
  | .sete _ => .b
  | .setf _ => .b
  | .chain _ => .b
  | .enq _ => .b
  | .deq _ => .b
  | .launch _ => .b
  | .migr _ => .s
  | .rets _ => .g
  | .bclose _ => .g
  | .bwait _ => .g
  | .poolq _ => .g
  | .poolm _ => .g
  | .poolw _ => .g
  | .svc _ => .b
  | .ctlr _ => .b
  | .ctlw _ => .b
  | .isync _ => .b
  | .sleep _ => .b
  | .halt _ => .b
  | .bkpt _ => .b
  | .eret _ => .b
  | .producerCompletion _ _ => .b
  | .remoteFill _ _ _ => .b
  | .pageWalk _ _ _ => .b
  | .cacWriteback _ _ => .b
  | .resultRecordAppend _ _ => .b
  | .issueSelect _ => .b
  | .strandIssueSelect _ => .b
  | .loadLimitWindow _ => .b
  | .sleepExpiry _ _ _ => .b
  | .barcSweepArrival _ _ _ _ _ => .b
  | .barcSweepRelease _ _ _ _ => .b
  | .gridBarrierRelease _ _ => .b
  | .matrixEntryStart _ => .b
  | .matrixEntryFinish _ => .b
  | .stagingComplete _ _ => .b
  | .multicastWindowRead _ _ => .b
  | .jointOperationStart _ => .b
  | .moveSwitch _ => .b
  | .moveRebuild _ => .b
  | .moveComplete _ => .b
  | .tileFlush _ _ => .b
  | .moveWaitRelease _ => .b
  | .roleListReturn _ => .b
  | .copy _ _ => .b
  | .fill _ _ => .b
  | .vfill _ _ => .b
  | .tsend _ _ => .b
  | .plan _ _ => .b
  | .planSend _ _ _ => .b
  | .copyComplete _ _ => .b
  | .mergeOpen _ _ => .b
  | .mergeClose _ _ => .b
  | .frame _ _ => .b
  | .absent _ _ => .b
  | .sink _ _ => .b
  | .route _ _ => .b
  | .unsink _ _ => .b
  | .sinkRelease _ _ _ => .b
  | .serviceAccept _ _ => .b
  | .rasterOpen _ _ => .b
  | .draw _ _ => .b
  | .resolve _ _ => .b
  | .rasterClose _ _ => .b
  | .clear _ _ => .b
  | .trace _ _ => .b
  | .sample _ _ => .b
  | .endRecord _ _ => .b
  | .contextEntryWake _ => .b
  | .contextLeave _ => .b
  | .queueTailWrite _ _ => .b
  | .placeCluster _ => .b
  | .placeStrand _ => .b
  | .placeSuperstepGrid _ => .b
  | .taskRetire _ => .b
  | .sumpTimeout _ _ => .b
  | .sumpPlace _ => .b
  | .balancerSample _ => .b
  | .balancerDeferredMove _ _ => .b
  | .faultRecordWrite _ => .b
  | .resume _ => .b
  | .redirect _ => .b
  | .enter _ => .b
  | .retire _ => .b
  | .stop _ => .b
  | .inval _ => .b
  | .preempt _ => .b
  | .restore _ => .b
  | .migrate _ => .b
  | .migrationResume _ => .b
  | .freeze _ => .b
  | .thaw _ => .b
  | .routeUpdate _ _ _ => .b
  | .routeUpdateAck _ _ _ => .b
  | .hostSnoop _ _ => .b
  | .cxlMemRequest _ => .b
  | .linkRetrain _ => .b
  | .linkUp _ => .b
  | .linkDownTimeout _ _ => .b
  | .fabricBlockWrite _ => .b
  | .packetForward _ _ => .b
  | .tilePacketArrival _ _ => .b
  | .nodeDeadline _ _ _ _ _ => .b
  | .leafFrameClose _ _ _ => .b
  | .keepAliveSend _ _ => .b
  | .keepAliveArrival _ _ => .b
  | .childTimeout _ _ _ _ => .b
  | .absentNotice _ _ => .b
  | .sessionClose _ _ => .b
  | .rootTileDelivery _ _ => .b
  | .frameRecord _ _ _ _ => .b
  | .go _ => .b
  | .lattolWrite _ _ => .b
  | .clklimWrite _ _ => .b
  | .mgmtWindowWrite _ _ _ => .b
  | .powerOn _ => .b
  | .firmware _ _ => .b
  | .selftest _ _ _ => .b
  | .memory _ _ => .b
  | .links _ _ _ => .b
  | .idleTimeout _ => .b
  | .powerEntryComplete _ => .b
  | .powerWake _ => .b
  | .powerExitComplete _ => .b
  | .thermalStep _ _ => .b
  | .grantMapWrite _ => .b
  | .grantArrival _ _ _ => .b
  | .patrolScrub => .b
  | .lifetimeRecordWrite => .b
  | .getVersion => .b
  | .getCapabilities => .b
  | .negotiateAlgorithms => .b
  | .getDigests => .b
  | .getCertificate _ => .b
  | .challenge _ _ => .b
  | .getMeasurements _ _ => .b
  | .debugHalt _ => .b
  | .debugResume _ => .b
  | .debugStep _ => .b
  | .debugRead _ => .b
  | .debugWrite _ => .b
  | .commit _ => .b
  | .drop _ => .b
  | .debugRevoke _ => .b
  | .storeCompletion _ _ => .b
  | .portWordArrival _ _ _ => .b
  | .relocationComplete _ => .b
  | .softError _ _ => .b

/-- Whether the step is an event of the part, and so has no code words. -/
def Instr.isEvent : Instr → Bool
  | .nop _ => false
  | .exit _ => false
  | .yield_ _ => false
  | .ret _ => false
  | .trap _ => false
  | .br _ => false
  | .call _ => false
  | .jmpi _ => false
  | .calli _ => false
  | .brd _ => false
  | .brany _ => false
  | .brall _ => false
  | .loop _ => false
  | .loopi _ => false
  | .iadd _ => false
  | .isub _ => false
  | .iaddc _ => false
  | .isubb _ => false
  | .iaddi _ => false
  | .ineg _ => false
  | .iabs _ => false
  | .iadd64 _ => false
  | .isub64 _ => false
  | .iaddi64 _ => false
  | .imin _ => false
  | .imax _ => false
  | .icmpp _ => false
  | .icmppi _ => false
  | .sel _ => false
  | .and_ _ => false
  | .or_ _ => false
  | .xor_ _ => false
  | .not_ _ => false
  | .andi _ => false
  | .ori _ => false
  | .xori _ => false
  | .shl _ => false
  | .shr _ => false
  | .sar _ => false
  | .rol _ => false
  | .ror _ => false
  | .shli _ => false
  | .shri _ => false
  | .sari _ => false
  | .popc _ => false
  | .clz _ => false
  | .ctz _ => false
  | .brev _ => false
  | .mov _ => false
  | .movi _ => false
  | .movhi _ => false
  | .movk _ => false
  | .lea _ => false
  | .shl64 _ => false
  | .shr64 _ => false
  | .sar64 _ => false
  | .icmpp64 _ => false
  | .imul _ => false
  | .imulhi _ => false
  | .imad _ => false
  | .imulw _ => false
  | .imadw _ => false
  | .divstep _ => false
  | .divinit _ => false
  | .bfx _ => false
  | .bfi _ => false
  | .fadd _ => false
  | .fsub _ => false
  | .fmul _ => false
  | .ffma _ => false
  | .fmin _ => false
  | .fmax _ => false
  | .fcmpp _ => false
  | .fabs _ => false
  | .fneg _ => false
  | .fclass _ => false
  | .badd _ => false
  | .bsub _ => false
  | .bmul _ => false
  | .bfma _ => false
  | .bpadd _ => false
  | .bpsub _ => false
  | .bpmul _ => false
  | .bpfma _ => false
  | .bpmin _ => false
  | .bpmax _ => false
  | .bmin _ => false
  | .bmax _ => false
  | .bcmpp _ => false
  | .faddi _ => false
  | .fmuli _ => false
  | .ffmai _ => false
  | .rcp _ => false
  | .rsq _ => false
  | .sqrt _ => false
  | .exp2 _ => false
  | .log2 _ => false
  | .tanh _ => false
  | .sint _ => false
  | .cost _ => false
  | .sincost _ => false
  | .cvtfh _ => false
  | .cvthf _ => false
  | .packh _ => false
  | .cvtf8 _ => false
  | .cvtf4 _ => false
  | .cvt8f _ => false
  | .cvt4f _ => false
  | .mxpack _ => false
  | .mxunpk _ => false
  | .cvtfi _ => false
  | .cvtif _ => false
  | .cvtii _ => false
  | .shfl _ => false
  | .shflup _ => false
  | .shfldn _ => false
  | .shflx _ => false
  | .ballot _ => false
  | .voteany _ => false
  | .voteall _ => false
  | .voteuni _ => false
  | .pscan _ => false
  | .reduce _ => false
  | .match_ _ => false
  | .ld _ => false
  | .st _ => false
  | .gld _ => false
  | .sct _ => false
  | .lds _ => false
  | .sts _ => false
  | .ldsr _ => false
  | .stsr _ => false
  | .ldt _ => false
  | .stt _ => false
  | .ldl _ => false
  | .stl _ => false
  | .ldw _ => false
  | .stw _ => false
  | .cmpst _ => false
  | .expld _ => false
  | .pref _ => false
  | .atomAdd _ => false
  | .atomMin _ => false
  | .atomMax _ => false
  | .atomAnd _ => false
  | .atomOr _ => false
  | .atomXor _ => false
  | .atomExch _ => false
  | .atomCas _ => false
  | .atomFadd _ => false
  | .atomFmin _ => false
  | .atomFmax _ => false
  | .atomAddBf16x2 _ => false
  | .atomVismin _ => false
  | .redAdd _ => false
  | .redMin _ => false
  | .redMax _ => false
  | .redFadd _ => false
  | .redAddBf16x2 _ => false
  | .atomlCas _ => false
  | .atomlAdd _ => false
  | .atomwCas _ => false
  | .atomwAdd _ => false
  | .atomwExch _ => false
  | .fence _ => false
  | .fenceSurf _ => false
  | .discard _ => false
  | .cinv _ => false
  | .cwb _ => false
  | .cflush _ => false
  | .mrsv _ => false
  | .mrel _ => false
  | .mlda _ => false
  | .mldb _ => false
  | .mma _ => false
  | .mmaF32 _ => false
  | .mzero _ => false
  | .mst _ => false
  | .gang _ => false
  | .gangMma _ => false
  | .bar _ => false
  | .barc _ => false
  | .gbar _ => false
  | .voteg _ => false
  | .sete _ => false
  | .setf _ => false
  | .chain _ => false
  | .enq _ => false
  | .deq _ => false
  | .launch _ => false
  | .migr _ => false
  | .rets _ => false
  | .bclose _ => false
  | .bwait _ => false
  | .poolq _ => false
  | .poolm _ => false
  | .poolw _ => false
  | .svc _ => false
  | .ctlr _ => false
  | .ctlw _ => false
  | .isync _ => false
  | .sleep _ => false
  | .halt _ => false
  | .bkpt _ => false
  | .eret _ => false
  | .producerCompletion _ _ => true
  | .remoteFill _ _ _ => true
  | .pageWalk _ _ _ => true
  | .cacWriteback _ _ => true
  | .resultRecordAppend _ _ => true
  | .issueSelect _ => true
  | .strandIssueSelect _ => true
  | .loadLimitWindow _ => true
  | .sleepExpiry _ _ _ => true
  | .barcSweepArrival _ _ _ _ _ => true
  | .barcSweepRelease _ _ _ _ => true
  | .gridBarrierRelease _ _ => true
  | .matrixEntryStart _ => true
  | .matrixEntryFinish _ => true
  | .stagingComplete _ _ => true
  | .multicastWindowRead _ _ => true
  | .jointOperationStart _ => true
  | .moveSwitch _ => true
  | .moveRebuild _ => true
  | .moveComplete _ => true
  | .tileFlush _ _ => true
  | .moveWaitRelease _ => true
  | .roleListReturn _ => true
  | .copy _ _ => true
  | .fill _ _ => true
  | .vfill _ _ => true
  | .tsend _ _ => true
  | .plan _ _ => true
  | .planSend _ _ _ => true
  | .copyComplete _ _ => true
  | .mergeOpen _ _ => true
  | .mergeClose _ _ => true
  | .frame _ _ => true
  | .absent _ _ => true
  | .sink _ _ => true
  | .route _ _ => true
  | .unsink _ _ => true
  | .sinkRelease _ _ _ => true
  | .serviceAccept _ _ => true
  | .rasterOpen _ _ => true
  | .draw _ _ => true
  | .resolve _ _ => true
  | .rasterClose _ _ => true
  | .clear _ _ => true
  | .trace _ _ => true
  | .sample _ _ => true
  | .endRecord _ _ => true
  | .contextEntryWake _ => true
  | .contextLeave _ => true
  | .queueTailWrite _ _ => true
  | .placeCluster _ => true
  | .placeStrand _ => true
  | .placeSuperstepGrid _ => true
  | .taskRetire _ => true
  | .sumpTimeout _ _ => true
  | .sumpPlace _ => true
  | .balancerSample _ => true
  | .balancerDeferredMove _ _ => true
  | .faultRecordWrite _ => true
  | .resume _ => true
  | .redirect _ => true
  | .enter _ => true
  | .retire _ => true
  | .stop _ => true
  | .inval _ => true
  | .preempt _ => true
  | .restore _ => true
  | .migrate _ => true
  | .migrationResume _ => true
  | .freeze _ => true
  | .thaw _ => true
  | .routeUpdate _ _ _ => true
  | .routeUpdateAck _ _ _ => true
  | .hostSnoop _ _ => true
  | .cxlMemRequest _ => true
  | .linkRetrain _ => true
  | .linkUp _ => true
  | .linkDownTimeout _ _ => true
  | .fabricBlockWrite _ => true
  | .packetForward _ _ => true
  | .tilePacketArrival _ _ => true
  | .nodeDeadline _ _ _ _ _ => true
  | .leafFrameClose _ _ _ => true
  | .keepAliveSend _ _ => true
  | .keepAliveArrival _ _ => true
  | .childTimeout _ _ _ _ => true
  | .absentNotice _ _ => true
  | .sessionClose _ _ => true
  | .rootTileDelivery _ _ => true
  | .frameRecord _ _ _ _ => true
  | .go _ => true
  | .lattolWrite _ _ => true
  | .clklimWrite _ _ => true
  | .mgmtWindowWrite _ _ _ => true
  | .powerOn _ => true
  | .firmware _ _ => true
  | .selftest _ _ _ => true
  | .memory _ _ => true
  | .links _ _ _ => true
  | .idleTimeout _ => true
  | .powerEntryComplete _ => true
  | .powerWake _ => true
  | .powerExitComplete _ => true
  | .thermalStep _ _ => true
  | .grantMapWrite _ => true
  | .grantArrival _ _ _ => true
  | .patrolScrub => true
  | .lifetimeRecordWrite => true
  | .getVersion => true
  | .getCapabilities => true
  | .negotiateAlgorithms => true
  | .getDigests => true
  | .getCertificate _ => true
  | .challenge _ _ => true
  | .getMeasurements _ _ => true
  | .debugHalt _ => true
  | .debugResume _ => true
  | .debugStep _ => true
  | .debugRead _ => true
  | .debugWrite _ => true
  | .commit _ => true
  | .drop _ => true
  | .debugRevoke _ => true
  | .storeCompletion _ _ => true
  | .portWordArrival _ _ _ => true
  | .relocationComplete _ => true
  | .softError _ _ => true

end Sys2Proof
end

