-- ==== Sys2Proof/Decode.lean ====
section
/-! DEFINITION. The decoder of heads and tails, total on any bits, and after it the encoder, from the same tables (03 R55 to R71 and the family tables). -/

namespace Sys2Proof

/-- A head and the 32-bit words of its tail (R58, R60). -/
structure Code where
  head : Nat
  tail : List Nat
  deriving DecidableEq, Repr

/-- A head's hints and guard bit, and its tail. -/
structure Enc where
  hint : Hint
  guard : Bool
  tail : List Nat
  deriving DecidableEq, Repr

/-! Operand fields -/

/-- Identity value of a specifier code less 0x64 (Table 1-3). -/
def IdVal.ofCode : Nat → Option IdVal
  | 0 => some .lane | 1 => some .group | 2 => some .team | 3 => some .gint | 4 => some .core
  | 5 => some .cell | 6 => some .die | 7 => some .clorg | 8 => some .clshape | 9 => some .clpos
  | 10 => some .strand | 11 => some .ctx | 12 => some .gteam | 13 => some .gteams | 14 => some .ngroups
  | 15 => some .depth | 16 => some .regblk | 17 => some .clust | 18 => some .sthread | _ => none

/-- Specifier code less 0x64 of an identity value. -/
def IdVal.code : IdVal → Nat
  | .lane => 0 | .group => 1 | .team => 2 | .gint => 3 | .core => 4
  | .cell => 5 | .die => 6 | .clorg => 7 | .clshape => 8 | .clpos => 9
  | .strand => 10 | .ctx => 11 | .gteam => 12 | .gteams => 13 | .ngroups => 14
  | .depth => 15 | .regblk => 16 | .clust => 17 | .sthread => 18

/-- The operand of an 11-bit field; reserved specifiers and nonzero bits [9:8] give none (R19, R62). -/
def Operand.ofCode (n : Nat) : Option Operand :=
  if n < 1024 then some (.v (Fin.ofNat 1024 n))
  else if n < 1088 then some (.s (Fin.ofNat 64 (n - 1024)))
  else if n < 1104 then some (.q (Fin.ofNat 16 (n - 1088)))
  else if n < 1120 then some (.e (Fin.ofNat 16 (n - 1104)))
  else if n < 1124 then some (.lc (Fin.ofNat 4 (n - 1120)))
  else if n < 1143 then
    match IdVal.ofCode (n - 1124) with
    | some i => some (.id i)
    | none => none
  else if n = 1151 then some .zero
  else none

/-- The 11-bit field of an operand. -/
def Operand.code : Operand → Nat
  | .v n => n.val
  | .s n => 1024 + n.val
  | .q n => 1088 + n.val
  | .e n => 1104 + n.val
  | .lc n => 1120 + n.val
  | .id i => 1124 + i.code
  | .zero => 1151

/-- The guard of a last tail word (R60). -/
def guardOf (g : Bool) (w : Nat) : Option (Option Guard) :=
  if g then some (some ⟨Fin.ofNat 16 (bits w 30 27), bit w 31⟩)
  else if bits w 31 27 = 0 then some none else none

/-- Bits [31:27] of the last tail word. -/
def guardBits : Option Guard → Nat
  | none => 0
  | some g => g.p.val + 16 * b2n g.neg

/-- The guard bit of a head. -/
def guardBit (g : Option Guard) : Nat := b2n g.isSome

/-- A head (R58). -/
def headWord (c code : Nat) (h : Hint) (g : Nat) : Nat :=
  c * 16384 + code * 16 + h.gap.val * 4 + b2n h.gw * 2 + g

/-- A branch target from its 20 and 5 bits. -/
def targetOf (w : Nat) : Target := ⟨BitVec.ofNat 20 (bits w 19 0), Fin.ofNat 32 (bits w 24 20)⟩

/-- The low 25 bits of a format B word. -/
def targetBits (t : Target) : Nat := t.disp.toNat + t.head.val * 2 ^ 20

/-! Modifiers: each parser gives none for a value its entry does not define -/

def pUnit : Nat → Option Unit
  | 0 => some ()
  | _ => none
def cUnit : Unit → Nat := fun _ => 0

def pZero : Nat → Option Unit := pUnit
def cZero : Unit → Nat := cUnit

def pBool : Nat → Option Bool
  | 0 => some false
  | 1 => some true
  | _ => none
def cBool : Bool → Nat := b2n

def pSat : Nat → Option SatMode
  | 0 => some .wrap
  | 1 => some .satI32
  | 2 => some .satN32
  | _ => none
def cSat : SatMode → Nat
  | .wrap => 0
  | .satI32 => 1
  | .satN32 => 2

def pFin4 (n : Nat) : Option (Fin 4) := if n < 4 then some (Fin.ofNat 4 n) else none
def cFin4 (n : Fin 4) : Nat := n.val
def pFin8 (n : Nat) : Option (Fin 8) := if n < 8 then some (Fin.ofNat 8 n) else none
def cFin8 (n : Fin 8) : Nat := n.val
def pFin32 (n : Nat) : Option (Fin 32) := some (Fin.ofNat 32 n)
def cFin32 (n : Fin 32) : Nat := n.val

def cmpOf : Nat → Option Cmp
  | 0 => some .eq | 1 => some .ne | 2 => some .lt | 3 => some .le | 4 => some .gt | 5 => some .ge | _ => none
def cmpCode : Cmp → Nat
  | .eq => 0 | .ne => 1 | .lt => 2 | .le => 3 | .gt => 4 | .ge => 5

def pICmp (n : Nat) : Option ICmpMod :=
  match cmpOf (bits n 2 0) with
  | some c => some ⟨c, bit n 3, bit n 4⟩
  | none => none
def cICmp (m : ICmpMod) : Nat := cmpCode m.cmp + 8 * b2n m.uns + 16 * b2n m.or

def pICmpI (n : Nat) : Option ICmpIMod :=
  if bit n 4 then none else
  match cmpOf (bits n 2 0) with
  | some c => some ⟨c, bit n 3⟩
  | none => none
def cICmpI (m : ICmpIMod) : Nat := cmpCode m.cmp + 8 * b2n m.uns

def pMovK : Nat → Option MovKMode
  | 0 => some .w32
  | 1 => some .sx64
  | 2 => some .zx64
  | _ => none
def cMovK : MovKMode → Nat
  | .w32 => 0
  | .sx64 => 1
  | .zx64 => 2

def pLea (n : Nat) : Option LeaMod := if bit n 4 then none else some ⟨Fin.ofNat 8 (bits n 2 0), bit n 3⟩
def cLea (m : LeaMod) : Nat := m.k.val + 8 * b2n m.uns

def rndOf : Nat → Option Rnd
  | 0 => some .dyn | 1 => some .rne | 2 => some .rtz | 3 => some .rup | 4 => some .rdn | _ => none
def rndCode : Rnd → Nat
  | .dyn => 0 | .rne => 1 | .rtz => 2 | .rup => 3 | .rdn => 4

def pArith (n : Nat) : Option ArithMod :=
  if bit n 4 then none else
  match rndOf (bits n 2 0) with
  | some r => some ⟨r, bit n 3⟩
  | none => none
def cArith (m : ArithMod) : Nat := rndCode m.rnd + 8 * b2n m.ftz

def nrndOf (n : Nat) : Option NRnd :=
  if n = 5 then some .sr else
  match rndOf n with
  | some r => some (.det r)
  | none => none
def nrndCode : NRnd → Nat
  | .det r => rndCode r
  | .sr => 5

def pNarrowing (n : Nat) : Option NarrowingMod :=
  if bit n 4 then none else
  match nrndOf (bits n 2 0) with
  | some r => some ⟨r, bit n 3⟩
  | none => none
def cNarrowing (m : NarrowingMod) : Nat := nrndCode m.rnd + 8 * b2n m.ftz

def pExact : Nat → Option ExactMod
  | 0 => some ⟨false⟩
  | 8 => some ⟨true⟩
  | _ => none
def cExact (m : ExactMod) : Nat := 8 * b2n m.ftz

def fcmpOf : Nat → FCmp
  | 0 => .eq | 1 => .ne | 2 => .lt | 3 => .le | 4 => .gt | 5 => .ge | 6 => .num | _ => .nan
def fcmpCode : FCmp → Nat
  | .eq => 0 | .ne => 1 | .lt => 2 | .le => 3 | .gt => 4 | .ge => 5 | .num => 6 | .nan => 7

def pFCmp (n : Nat) : Option FCmpMod := some ⟨fcmpOf (bits n 2 0), bit n 3, bit n 4⟩
def cFCmp (m : FCmpMod) : Nat := fcmpCode m.cmp + 8 * b2n m.ftz + 16 * b2n m.or

def pHf (n : Nat) : Option HfMod :=
  if bits n 2 1 = 0 && !bit n 4 then some ⟨bit n 0, bit n 3⟩ else none
def cHf (m : HfMod) : Nat := b2n m.hi + 8 * b2n m.ftz

def pF8 (n : Nat) : Option F8Mod :=
  if bit n 4 then none else some ⟨bit n 0, bit n 1, bit n 2, bit n 3⟩
def cF8 (m : F8Mod) : Nat := b2n m.e5m2 + 2 * b2n m.sat + 4 * b2n m.hi + 8 * b2n m.bf16

def pF4 (n : Nat) : Option F4Mod :=
  if bit n 4 || bit n 2 then none else some ⟨Fin.ofNat 4 (bits n 1 0), bit n 3⟩
def cF4 (m : F4Mod) : Nat := m.np.val + 8 * b2n m.bf16

/-- CVT8F less its .SC bit [4], which says whether field b is used. -/
def pW8 (n : Nat) : Option W8Mod := if bit n 3 then none else some ⟨bit n 0, Fin.ofNat 4 (bits n 2 1)⟩
def cW8 (m : W8Mod) : Nat := b2n m.e5m2 + 2 * m.el.val

/-- CVT4F less its .SC bit [4]. -/
def pW4 (n : Nat) : Option W4Mod := if bit n 3 then none else some ⟨Fin.ofNat 8 (bits n 2 0)⟩
def cW4 (m : W4Mod) : Nat := m.el.val

def narrowOf : Nat → Option NarrowFmt
  | 0 => some .e4m3 | 1 => some .e5m2 | 2 => some .e2m1 | _ => none
def narrowCode : NarrowFmt → Nat
  | .e4m3 => 0 | .e5m2 => 1 | .e2m1 => 2

def pMxP (n : Nat) : Option MxPMod :=
  if bit n 2 || bit n 4 then none else
  match narrowOf (bits n 1 0) with
  | some f => some ⟨f, bit n 3⟩
  | none => none
def cMxP (m : MxPMod) : Nat := narrowCode m.fmt + 8 * b2n m.bf16

def pMxU (n : Nat) : Option MxUMod :=
  match narrowOf n with
  | some f => some ⟨f⟩
  | none => none
def cMxU (m : MxUMod) : Nat := narrowCode m.fmt

def intTyOf : Nat → IntTy
  | 0 => .i32 | 1 => .n32 | 2 => .i64 | _ => .n64
def intTyCode : IntTy → Nat
  | .i32 => 0 | .n32 => 1 | .i64 => 2 | .n64 => 3

def pCvtI (n : Nat) : Option CvtIMod :=
  match rndOf (bits n 2 0) with
  | some r => some ⟨r, intTyOf (bits n 4 3)⟩
  | none => none
def cCvtI (m : CvtIMod) : Nat := rndCode m.rnd + 8 * intTyCode m.ty

def iwidthOf : Nat → Option IWidth
  | 0 => some .w8 | 1 => some .w16 | 2 => some .w32 | _ => none
def iwidthCode : IWidth → Nat
  | .w8 => 0 | .w16 => 1 | .w32 => 2

def pCvtII (n : Nat) : Option CvtIIMod :=
  match iwidthOf (bits n 1 0) with
  | some w => some ⟨w, bit n 2, bit n 3, bit n 4⟩
  | none => none
def cCvtII (m : CvtIIMod) : Nat := iwidthCode m.width + 4 * b2n m.sdst + 8 * b2n m.sat + 16 * b2n m.ssrc

def pSeg (n : Nat) : Option SegMod := if n < 6 then some ⟨Fin.ofNat 6 n⟩ else none
def cSeg (m : SegMod) : Nat := m.m.val

def scanOf : Nat → ScanOp
  | 0 => .add | 1 => .min | 2 => .max | _ => .fadd
def scanCode : ScanOp → Nat
  | .add => 0 | .min => 1 | .max => 2 | .fadd => 3

def pScan (n : Nat) : Option ScanMod :=
  if bit n 4 then none else some ⟨scanOf (bits n 1 0), bit n 2, bit n 3⟩
def cScan (m : ScanMod) : Nat := scanCode m.op + 4 * b2n m.uns + 8 * b2n m.excl

def scopeOf : Nat → Option Scope
  | 0 => some .str | 1 => some .grp | 2 => some .team | 3 => some .clu | 4 => some .die
  | 5 => some .dev | 6 => some .sys | _ => none
def scopeCode : Scope → Nat
  | .str => 0 | .grp => 1 | .team => 2 | .clu => 3 | .die => 4 | .dev => 5 | .sys => 6

/-- The order bit and scope of an access: scope 0 without the bit (Table 8-2). -/
def ordOf (ord : Bool) (sc : Nat) : Option (Option Scope) :=
  if ord then
    match scopeOf sc with
    | some s => some (some s)
    | none => none
  else if sc = 0 then some none else none
def ordBits : Option Scope → Nat
  | none => 0
  | some s => 1 + 2 * scopeCode s

def mtypeOf : Nat → Option MType
  | 0 => some .b32 | 1 => some .b64 | 2 => some .b128 | 3 => some .n8 | 4 => some .i8 | 5 => some .n16
  | 6 => some .i16 | 7 => some .e4m3 | 8 => some .e5m2 | 9 => some .bf16 | _ => none
def mtypeCode : MType → Nat
  | .b32 => 0 | .b64 => 1 | .b128 => 2 | .n8 => 3 | .i8 => 4 | .n16 => 5
  | .i16 => 6 | .e4m3 => 7 | .e5m2 => 8 | .bf16 => 9

def pMemG (n : Nat) : Option MemMod :=
  match mtypeOf (bits n 3 0), ordOf (bit n 6) (bits n 9 7) with
  | some t, some o => some ⟨t, bit n 4, bit n 5, o⟩
  | _, _ => none
def cMemG (m : MemMod) : Nat := mtypeCode m.ty + 16 * b2n m.sat + 32 * b2n m.a64 + 64 * ordBits m.ord

def pMemL : Nat → Option MemMod := pMemG
def cMemL : MemMod → Nat := cMemG

def pAtomG (n : Nat) : Option AtomMod :=
  if bits n 3 0 < 2 then
    match ordOf (bit n 6) (bits n 9 7) with
    | some o => some ⟨bit n 0, bit n 4, bit n 5, o⟩
    | none => none
  else none
def cAtomG (m : AtomMod) : Nat := b2n m.b64 + 16 * b2n m.signed + 32 * b2n m.a64 + 64 * ordBits m.ord

def pAtomL : Nat → Option AtomMod := pAtomG
def cAtomL : AtomMod → Nat := cAtomG

def pPack (n : Nat) : Option PackMod :=
  match mtypeOf n with
  | some t => some ⟨t⟩
  | none => none
def cPack (m : PackMod) : Nat := mtypeCode m.ty

def pPref (n : Nat) : Option PrefMod :=
  if bits n 4 1 = 0 && bits n 9 6 = 0 then some ⟨bit n 0, bit n 5⟩ else none
def cPref (m : PrefMod) : Nat := b2n m.cac + 32 * b2n m.a64

def pA64 : Nat → Option A64Mod
  | 0 => some ⟨false⟩
  | 32 => some ⟨true⟩
  | _ => none
def cA64 (m : A64Mod) : Nat := 32 * b2n m.a64

def pQEnq (n : Nat) : Option QueueMod :=
  if bits n 9 6 = 0 then some ⟨Fin.ofNat 16 (bits n 3 0), bit n 4, bit n 5⟩ else none
def cQEnq (m : QueueMod) : Nat := m.queue.val + 16 * b2n m.nb + 32 * b2n m.a64
def pQDeq : Nat → Option QueueMod := pQEnq
def cQDeq : QueueMod → Nat := cQEnq
def pQLaunch : Nat → Option QueueMod := pQEnq
def cQLaunch : QueueMod → Nat := cQEnq

def fenceOf : Nat → Option FenceKind
  | 0 => some .ar | 1 => some .acq | 2 => some .rel | _ => none
def fenceCode : FenceKind → Nat
  | .ar => 0 | .acq => 1 | .rel => 2

def pFence (n : Nat) : Option FenceMod :=
  match scopeOf (bits n 2 0), fenceOf (bits n 4 3) with
  | some s, some k => some ⟨s, k⟩
  | _, _ => none
def cFence (m : FenceMod) : Nat := scopeCode m.scope + 8 * fenceCode m.kind

def pPoolM (n : Nat) : Option PoolMMod := if n < 8 then some ⟨bit n 0, bit n 1, bit n 2⟩ else none
def cPoolM (m : PoolMMod) : Nat := b2n m.reloc + 2 * b2n m.wait + 4 * b2n m.flush

def stageFmtOf : Nat → Option StageFmt
  | 0 => some .bf16 | 1 => some .f32 | 2 => some .e4m3 | 3 => some .e5m2 | 4 => some .e2m1 | _ => none
def stageFmtCode : StageFmt → Nat
  | .bf16 => 0 | .f32 => 1 | .e4m3 => 2 | .e5m2 => 3 | .e2m1 => 4
def stageSpaceOf : Nat → Option StageSpace
  | 0 => some .scr | 1 => some .rmt | 2 => some .til | _ => none
def stageSpaceCode : StageSpace → Nat
  | .scr => 0 | .rmt => 1 | .til => 2
def storeFmtOf : Nat → Option StoreFmt
  | 0 => some .f32 | 1 => some .bf16 | 2 => some .e4m3 | 3 => some .e5m2 | _ => none
def storeFmtCode : StoreFmt → Nat
  | .f32 => 0 | .bf16 => 1 | .e4m3 => 2 | .e5m2 => 3
def svcOf : Nat → Option SvcKind
  | 0 => some .ras | 1 => some .trv | 2 => some .tex | _ => none
def svcCode : SvcKind → Nat
  | .ras => 0 | .trv => 1 | .tex => 2

/-- The narrow fields of w0 [31:22] (R64). -/
def narrowFields (w0 : Nat) : Option Narrow :=
  let sel (k : Nat) : Option (Option (Fin 8)) :=
    if k < 8 then (if k = 0 then some none else none) else some (some (Fin.ofNat 8 (k - 8)))
  match sel (bits w0 25 22), sel (bits w0 29 26), bits w0 31 30 with
  | some a, some b, 0 => some ⟨none, a, b⟩
  | some a, some b, 1 => some ⟨some .e4m3, a, b⟩
  | some a, some b, 2 => some ⟨some .e5m2, a, b⟩
  | some a, some b, 3 => some ⟨some .e2m1, a, b⟩
  | _, _, _ => none
def narrowBits (n : Narrow) : Nat :=
  let sel : Option (Fin 8) → Nat
    | none => 0
    | some k => 8 + k.val
  sel n.a + 16 * sel n.b + 256 * (match n.fmt with | none => 0 | some .e4m3 => 1 | some .e5m2 => 2 | some .e2m1 => 3)

/-! Formats: a parser and an encoder for each operand shape -/

/-- The word of format A, and w1 of format K. -/
def wordA (d a m : Nat) (g : Option Guard) : Nat := d + a * 2 ^ 11 + m * 2 ^ 22 + guardBits g * 2 ^ 27
/-- The word of format B. -/
def wordB (t : Target) (m : Nat) (g : Option Guard) : Nat := targetBits t + m * 2 ^ 25 + guardBits g * 2 ^ 27
/-- The word of format J. -/
def wordJ (d : Nat) (i : BitVec 16) (g : Option Guard) : Nat := d + i.toNat * 2 ^ 11 + guardBits g * 2 ^ 27
/-- w0 of format M. -/
def wordM0 (d base m : Nat) : Nat := d + base * 2 ^ 11 + m * 2 ^ 22
/-- w1 of format M. -/
def wordM1 (off : BitVec 16) (s : Nat) (g : Option Guard) : Nat := off.toNat + s * 2 ^ 16 + guardBits g * 2 ^ 27
/-- The 16-bit immediate of format J. -/
def immJ (w : Nat) : BitVec 16 := BitVec.ofNat 16 (bits w 26 11)
/-- The offset of format M. -/
def offM (w : Nat) : BitVec 16 := BitVec.ofNat 16 (bits w 15 0)

def pN (k : Hint → Instr) (e : Enc) : Option Instr :=
  match e.tail with
  | [] => if e.guard then none else some (k e.hint)
  | _ => none
def eN (code : Nat) (x : Hint) : Code := ⟨headWord 0 code x 0, []⟩

def pJT (k : CodeImm → Instr) (e : Enc) : Option Instr :=
  match e.tail with
  | [w] =>
    if bits w 10 0 = 0 then
      match guardOf e.guard w with
      | some g => some (k ⟨⟨e.hint, g⟩, immJ w⟩)
      | none => none
    else none
  | _ => none
def eJT (code : Nat) (x : CodeImm) : Code :=
  ⟨headWord 1 code x.h.hint (guardBit x.h.guard), [wordJ 0 x.imm x.h.guard]⟩

def pJD (k : MovImm → Instr) (e : Enc) : Option Instr :=
  match e.tail with
  | [w] =>
    match guardOf e.guard w, Operand.ofCode (bits w 10 0) with
    | some g, some d => some (k ⟨⟨e.hint, g⟩, d, immJ w⟩)
    | _, _ => none
  | _ => none
def eJD (code : Nat) (x : MovImm) : Code :=
  ⟨headWord 1 code x.h.hint (guardBit x.h.guard), [wordJ x.d.code x.imm x.h.guard]⟩

def pB (k : Branch → Instr) (e : Enc) : Option Instr :=
  match e.tail with
  | [w] =>
    if bits w 26 25 = 0 then
      match guardOf e.guard w with
      | some g => some (k ⟨⟨e.hint, g⟩, targetOf w⟩)
      | none => none
    else none
  | _ => none
def eB (code : Nat) (x : Branch) : Code :=
  ⟨headWord 1 code x.h.hint (guardBit x.h.guard), [wordB x.t 0 x.h.guard]⟩

def pBg (k : TestBranch → Instr) (e : Enc) : Option Instr :=
  match e.tail with
  | [w] =>
    if bits w 26 25 = 0 then
      match guardOf e.guard w with
      | some (some g) => some (k ⟨e.hint, g, targetOf w⟩)
      | _ => none
    else none
  | _ => none
def eBg (code : Nat) (x : TestBranch) : Code := ⟨headWord 1 code x.hint 1, [wordB x.t 0 (some x.g)]⟩

def pJmpi (k : JumpInd → Instr) (e : Enc) : Option Instr :=
  match e.tail with
  | [w] =>
    if bits w 10 0 = 0 && bits w 26 22 = 0 then
      match guardOf e.guard w, Operand.ofCode (bits w 21 11) with
      | some g, some a => some (k ⟨⟨e.hint, g⟩, a⟩)
      | _, _ => none
    else none
  | _ => none
def eJmpi (code : Nat) (x : JumpInd) : Code :=
  ⟨headWord 1 code x.h.hint (guardBit x.h.guard), [wordA 0 x.a.code 0 x.h.guard]⟩

def pCalli (k : CallInd → Instr) (e : Enc) : Option Instr :=
  match e.tail with
  | [w] =>
    if bits w 26 22 = 0 then
      match guardOf e.guard w, Operand.ofCode (bits w 10 0), Operand.ofCode (bits w 21 11) with
      | some g, some d, some a => some (k ⟨⟨e.hint, g⟩, d, a⟩)
      | _, _, _ => none
    else none
  | _ => none
def eCalli (code : Nat) (x : CallInd) : Code :=
  ⟨headWord 1 code x.h.hint (guardBit x.h.guard), [wordA x.d.code x.a.code 0 x.h.guard]⟩

def pBrd (k : DivBranch → Instr) (e : Enc) : Option Instr :=
  match e.tail with
  | [w0, w1] =>
    if bits w0 31 25 = 0 && bits w1 26 25 = 0 then
      match guardOf e.guard w1 with
      | some (some g) => some (k ⟨e.hint, g, targetOf w0, targetOf w1⟩)
      | _ => none
    else none
  | _ => none
def eBrd (code : Nat) (x : DivBranch) : Code :=
  ⟨headWord 2 code x.hint 1, [targetBits x.rc, wordB x.t 0 (some x.g)]⟩

def pLoop (k : LoopReg → Instr) (e : Enc) : Option Instr :=
  match e.tail with
  | [w0, w1] =>
    if !e.guard && bits w0 31 11 = 0 && bits w1 31 27 = 0 then
      match Operand.ofCode (bits w0 10 0) with
      | some a => some (k ⟨e.hint, Fin.ofNat 4 (bits w1 26 25), a, targetOf w1⟩)
      | none => none
    else none
  | _ => none
def eLoop (code : Nat) (x : LoopReg) : Code :=
  ⟨headWord 2 code x.hint 0, [x.src.code, wordB x.fin x.n.val none]⟩

def pLoopi (k : LoopImm → Instr) (e : Enc) : Option Instr :=
  match e.tail with
  | [w0, w1] =>
    if !e.guard && bits w1 31 27 = 0 then
      some (k ⟨e.hint, Fin.ofNat 4 (bits w1 26 25), BitVec.ofNat 32 w0, targetOf w1⟩)
    else none
  | _ => none
def eLoopi (code : Nat) (x : LoopImm) : Code :=
  ⟨headWord 2 code x.hint 0, [x.count.toNat, wordB x.fin x.n.val none]⟩

def pUn {μ : Type} (pm : Nat → Option μ) (k : Un μ → Instr) (e : Enc) : Option Instr :=
  match e.tail with
  | [w] =>
    match guardOf e.guard w, Operand.ofCode (bits w 10 0), Operand.ofCode (bits w 21 11), pm (bits w 26 22) with
    | some g, some d, some a, some m => some (k ⟨⟨e.hint, g⟩, d, a, m⟩)
    | _, _, _, _ => none
  | _ => none
def eUn {μ : Type} (code m : Nat) (x : Un μ) : Code :=
  ⟨headWord 1 code x.h.hint (guardBit x.h.guard), [wordA x.d.code x.a.code m x.h.guard]⟩

/-- d and a in format C, with b, c and the narrow fields zero. -/
def pUnC {μ : Type} (pm : Nat → Option μ) (k : Un μ → Instr) (e : Enc) : Option Instr :=
  match e.tail with
  | [w0, w1] =>
    if bits w0 31 22 = 0 && bits w1 21 0 = 0 then
      match guardOf e.guard w1, Operand.ofCode (bits w0 10 0), Operand.ofCode (bits w0 21 11), pm (bits w1 26 22) with
      | some g, some d, some a, some m => some (k ⟨⟨e.hint, g⟩, d, a, m⟩)
      | _, _, _, _ => none
    else none
  | _ => none
def eUnC {μ : Type} (code m : Nat) (x : Un μ) : Code :=
  ⟨headWord 2 code x.h.hint (guardBit x.h.guard), [x.d.code + x.a.code * 2 ^ 11, wordA 0 0 m x.h.guard]⟩

def pBin {μ : Type} (pm : Nat → Option μ) (k : Bin μ → Instr) (e : Enc) : Option Instr :=
  match e.tail with
  | [w0, w1] =>
    if bits w0 31 22 = 0 && bits w1 21 11 = 0 then
      match guardOf e.guard w1, Operand.ofCode (bits w0 10 0), Operand.ofCode (bits w0 21 11),
        Operand.ofCode (bits w1 10 0), pm (bits w1 26 22) with
      | some g, some d, some a, some b, some m => some (k ⟨⟨e.hint, g⟩, d, a, b, m⟩)
      | _, _, _, _, _ => none
    else none
  | _ => none
def eBin {μ : Type} (code m : Nat) (x : Bin μ) : Code :=
  ⟨headWord 2 code x.h.hint (guardBit x.h.guard), [x.d.code + x.a.code * 2 ^ 11, wordA x.b.code 0 m x.h.guard]⟩

/-- As Bin, with a predicate number in field c. -/
def pBinP {μ : Type} (pm : Nat → Option μ) (k : BinP μ → Instr) (e : Enc) : Option Instr :=
  match e.tail with
  | [w0, w1] =>
    if bits w0 31 22 = 0 && bits w1 21 15 = 0 then
      match guardOf e.guard w1, Operand.ofCode (bits w0 10 0), Operand.ofCode (bits w0 21 11),
        Operand.ofCode (bits w1 10 0), pm (bits w1 26 22) with
      | some g, some d, some a, some b, some m => some (k ⟨⟨e.hint, g⟩, d, a, b, Fin.ofNat 16 (bits w1 14 11), m⟩)
      | _, _, _, _, _ => none
    else none
  | _ => none
def eBinP {μ : Type} (code m : Nat) (x : BinP μ) : Code :=
  ⟨headWord 2 code x.h.hint (guardBit x.h.guard),
    [x.d.code + x.a.code * 2 ^ 11, wordA x.b.code x.pk.val m x.h.guard]⟩

def pTern {μ : Type} (pm : Nat → Option μ) (k : Tern μ → Instr) (e : Enc) : Option Instr :=
  match e.tail with
  | [w0, w1] =>
    if bits w0 31 22 = 0 then
      match guardOf e.guard w1, Operand.ofCode (bits w0 10 0), Operand.ofCode (bits w0 21 11),
        Operand.ofCode (bits w1 10 0), Operand.ofCode (bits w1 21 11), pm (bits w1 26 22) with
      | some g, some d, some a, some b, some c, some m => some (k ⟨⟨e.hint, g⟩, d, a, b, c, m⟩)
      | _, _, _, _, _, _ => none
    else none
  | _ => none
def eTern {μ : Type} (code m : Nat) (x : Tern μ) : Code :=
  ⟨headWord 2 code x.h.hint (guardBit x.h.guard),
    [x.d.code + x.a.code * 2 ^ 11, wordA x.b.code x.c.code m x.h.guard]⟩

/-- An operand field the instruction does not use is all zero (R63). -/
def isZeroField (n : Nat) : Bool := n == 0

/-- Field b is used when mod [4] is set, and is the zero field otherwise (R142). -/
def pOptB {μ : Type} (pm : Nat → Option μ) (k : OptB μ → Instr) (e : Enc) : Option Instr :=
  match e.tail with
  | [w0, w1] =>
    if bits w0 31 22 = 0 && bits w1 21 11 = 0 then
      match guardOf e.guard w1, Operand.ofCode (bits w0 10 0), Operand.ofCode (bits w0 21 11), pm (bits w1 25 22) with
      | some g, some d, some a, some m =>
        if bit w1 26 then
          match Operand.ofCode (bits w1 10 0) with
          | some b => some (k ⟨⟨e.hint, g⟩, d, a, some b, m⟩)
          | none => none
        else if isZeroField (bits w1 10 0) then some (k ⟨⟨e.hint, g⟩, d, a, none, m⟩) else none
      | _, _, _, _ => none
    else none
  | _ => none
def eOptB {μ : Type} (code m : Nat) (x : OptB μ) : Code :=
  ⟨headWord 2 code x.h.hint (guardBit x.h.guard),
    [x.d.code + x.a.code * 2 ^ 11,
     match x.b with
     | some b => wordA b.code 0 (m + 16) x.h.guard
     | none => wordA 0 0 m x.h.guard]⟩

def pCmpP {μ : Type} (pm : Nat → Option μ) (k : CmpP μ → Instr) (e : Enc) : Option Instr :=
  match e.tail with
  | [w0, w1] =>
    if bits w0 10 4 = 0 && bits w0 31 22 = 0 && bits w1 21 15 = 0 then
      match guardOf e.guard w1, Operand.ofCode (bits w0 21 11), Operand.ofCode (bits w1 10 0), pm (bits w1 26 22) with
      | some g, some a, some b, some m =>
        some (k ⟨⟨e.hint, g⟩, Fin.ofNat 16 (bits w0 3 0), a, b, Fin.ofNat 16 (bits w1 14 11), m⟩)
      | _, _, _, _ => none
    else none
  | _ => none
def eCmpP {μ : Type} (code m : Nat) (x : CmpP μ) : Code :=
  ⟨headWord 2 code x.h.hint (guardBit x.h.guard),
    [x.pd.val + x.a.code * 2 ^ 11, wordA x.b.code x.pk.val m x.h.guard]⟩

def pCmpI {μ : Type} (pm : Nat → Option μ) (k : CmpI μ → Instr) (e : Enc) : Option Instr :=
  match e.tail with
  | [w0, w1] =>
    if bits w1 10 4 = 0 then
      match guardOf e.guard w1, Operand.ofCode (bits w1 21 11), pm (bits w1 26 22) with
      | some g, some a, some m =>
        some (k ⟨⟨e.hint, g⟩, Fin.ofNat 16 (bits w1 3 0), a, BitVec.ofNat 32 w0, m⟩)
      | _, _, _ => none
    else none
  | _ => none
def eCmpI {μ : Type} (code m : Nat) (x : CmpI μ) : Code :=
  ⟨headWord 2 code x.h.hint (guardBit x.h.guard), [x.imm.toNat, wordA x.pd.val x.a.code m x.h.guard]⟩

def pImmK {μ : Type} (pm : Nat → Option μ) (k : ImmK μ → Instr) (e : Enc) : Option Instr :=
  match e.tail with
  | [w0, w1] =>
    match guardOf e.guard w1, Operand.ofCode (bits w1 10 0), Operand.ofCode (bits w1 21 11), pm (bits w1 26 22) with
    | some g, some d, some a, some m => some (k ⟨⟨e.hint, g⟩, d, a, BitVec.ofNat 32 w0, m⟩)
    | _, _, _, _ => none
  | _ => none
def eImmK {μ : Type} (code m : Nat) (x : ImmK μ) : Code :=
  ⟨headWord 2 code x.h.hint (guardBit x.h.guard), [x.imm.toNat, wordA x.d.code x.a.code m x.h.guard]⟩

def pImmE {μ : Type} (pm : Nat → Option μ) (k : ImmE μ → Instr) (e : Enc) : Option Instr :=
  match e.tail with
  | [w0, w1, w2] =>
    if bits w1 31 22 = 0 && bits w2 21 11 = 0 then
      match guardOf e.guard w2, Operand.ofCode (bits w1 10 0), Operand.ofCode (bits w1 21 11),
        Operand.ofCode (bits w2 10 0), pm (bits w2 26 22) with
      | some g, some d, some a, some b, some m => some (k ⟨⟨e.hint, g⟩, d, a, b, BitVec.ofNat 32 w0, m⟩)
      | _, _, _, _, _ => none
    else none
  | _ => none
def eImmE {μ : Type} (code m : Nat) (x : ImmE μ) : Code :=
  ⟨headWord 3 code x.h.hint (guardBit x.h.guard),
    [x.imm.toNat, x.d.code + x.a.code * 2 ^ 11, wordA x.b.code 0 m x.h.guard]⟩

def pMovKK (k : MovK → Instr) (e : Enc) : Option Instr :=
  match e.tail with
  | [w0, w1] =>
    if bits w1 21 11 = 0 then
      match guardOf e.guard w1, Operand.ofCode (bits w1 10 0), pMovK (bits w1 26 22) with
      | some g, some d, some m => some (k ⟨⟨e.hint, g⟩, d, BitVec.ofNat 32 w0, m⟩)
      | _, _, _ => none
    else none
  | _ => none
def eMovKK (code : Nat) (x : MovK) : Code :=
  ⟨headWord 2 code x.h.hint (guardBit x.h.guard), [x.imm.toNat, wordA x.d.code 0 (cMovK x.m) x.h.guard]⟩

def pNBin {μ : Type} (pm : Nat → Option μ) (k : NBin μ → Instr) (e : Enc) : Option Instr :=
  match e.tail with
  | [w0, w1] =>
    if bits w1 21 11 = 0 then
      match guardOf e.guard w1, Operand.ofCode (bits w0 10 0), Operand.ofCode (bits w0 21 11),
        Operand.ofCode (bits w1 10 0), narrowFields w0, pm (bits w1 26 22) with
      | some g, some d, some a, some b, some n, some m => some (k ⟨⟨e.hint, g⟩, d, a, b, n, m⟩)
      | _, _, _, _, _, _ => none
    else none
  | _ => none
def eNBin {μ : Type} (code m : Nat) (x : NBin μ) : Code :=
  ⟨headWord 2 code x.h.hint (guardBit x.h.guard),
    [x.d.code + x.a.code * 2 ^ 11 + narrowBits x.nar * 2 ^ 22, wordA x.b.code 0 m x.h.guard]⟩

def pNTern {μ : Type} (pm : Nat → Option μ) (k : NTern μ → Instr) (e : Enc) : Option Instr :=
  match e.tail with
  | [w0, w1] =>
    match guardOf e.guard w1, Operand.ofCode (bits w0 10 0), Operand.ofCode (bits w0 21 11),
      Operand.ofCode (bits w1 10 0), Operand.ofCode (bits w1 21 11), narrowFields w0, pm (bits w1 26 22) with
    | some g, some d, some a, some b, some c, some n, some m => some (k ⟨⟨e.hint, g⟩, d, a, b, c, n, m⟩)
    | _, _, _, _, _, _, _ => none
  | _ => none
def eNTern {μ : Type} (code m : Nat) (x : NTern μ) : Code :=
  ⟨headWord 2 code x.h.hint (guardBit x.h.guard),
    [x.d.code + x.a.code * 2 ^ 11 + narrowBits x.nar * 2 ^ 22, wordA x.b.code x.c.code m x.h.guard]⟩

def pNCmp {μ : Type} (pm : Nat → Option μ) (k : NCmp μ → Instr) (e : Enc) : Option Instr :=
  match e.tail with
  | [w0, w1] =>
    if bits w0 10 4 = 0 && bits w1 21 15 = 0 then
      match guardOf e.guard w1, Operand.ofCode (bits w0 21 11), Operand.ofCode (bits w1 10 0),
        narrowFields w0, pm (bits w1 26 22) with
      | some g, some a, some b, some n, some m =>
        some (k ⟨⟨e.hint, g⟩, Fin.ofNat 16 (bits w0 3 0), a, b, Fin.ofNat 16 (bits w1 14 11), n, m⟩)
      | _, _, _, _, _ => none
    else none
  | _ => none
def eNCmp {μ : Type} (code m : Nat) (x : NCmp μ) : Code :=
  ⟨headWord 2 code x.h.hint (guardBit x.h.guard),
    [x.pd.val + x.a.code * 2 ^ 11 + narrowBits x.nar * 2 ^ 22, wordA x.b.code x.pk.val m x.h.guard]⟩

def pBallot (k : Ballot → Instr) (e : Enc) : Option Instr :=
  match e.tail with
  | [w] =>
    if bits w 21 15 = 0 && bits w 26 23 = 0 then
      match guardOf e.guard w, Operand.ofCode (bits w 10 0) with
      | some g, some d => some (k ⟨⟨e.hint, g⟩, d, Fin.ofNat 16 (bits w 14 11), bit w 22⟩)
      | _, _ => none
    else none
  | _ => none
def eBallot (code : Nat) (x : Ballot) : Code :=
  ⟨headWord 1 code x.h.hint (guardBit x.h.guard), [wordA x.d.code x.pa.val (b2n x.inv) x.h.guard]⟩

def pVote (k : Vote → Instr) (e : Enc) : Option Instr :=
  match e.tail with
  | [w] =>
    if bits w 10 4 = 0 && bits w 21 15 = 0 && bits w 26 23 = 0 then
      match guardOf e.guard w with
      | some g => some (k ⟨⟨e.hint, g⟩, Fin.ofNat 16 (bits w 3 0), Fin.ofNat 16 (bits w 14 11), bit w 22⟩)
      | none => none
    else none
  | _ => none
def eVote (code : Nat) (x : Vote) : Code :=
  ⟨headWord 1 code x.h.hint (guardBit x.h.guard), [wordA x.pd.val x.pa.val (b2n x.inv) x.h.guard]⟩

def pMem {μ : Type} (pm : Nat → Option μ) (k : Mem μ → Instr) (e : Enc) : Option Instr :=
  match e.tail with
  | [w0, w1] =>
    match guardOf e.guard w1, Operand.ofCode (bits w0 10 0), Operand.ofCode (bits w0 21 11),
      Operand.ofCode (bits w1 26 16), pm (bits w0 31 22) with
    | some g, some d, some b, some s, some m => some (k ⟨⟨e.hint, g⟩, d, b, offM w1, s, m⟩)
    | _, _, _, _, _ => none
  | _ => none
def eMem {μ : Type} (code m : Nat) (x : Mem μ) : Code :=
  ⟨headWord 2 code x.h.hint (guardBit x.h.guard),
    [wordM0 x.d.code x.base.code m, wordM1 x.off x.s.code x.h.guard]⟩

def pLoc {μ : Type} (pm : Nat → Option μ) (k : Loc μ → Instr) (e : Enc) : Option Instr :=
  match e.tail with
  | [w0, w1] =>
    if bits w1 26 16 = 0 then
      match guardOf e.guard w1, Operand.ofCode (bits w0 10 0), Operand.ofCode (bits w0 21 11), pm (bits w0 31 22) with
      | some g, some d, some b, some m => some (k ⟨⟨e.hint, g⟩, d, b, offM w1, m⟩)
      | _, _, _, _ => none
    else none
  | _ => none
def eLoc {μ : Type} (code m : Nat) (x : Loc μ) : Code :=
  ⟨headWord 2 code x.h.hint (guardBit x.h.guard), [wordM0 x.d.code x.base.code m, wordM1 x.off 0 x.h.guard]⟩

def pMemN {μ : Type} (pm : Nat → Option μ) (k : MemN μ → Instr) (e : Enc) : Option Instr :=
  match e.tail with
  | [w0, w1] =>
    if bits w0 10 0 = 0 then
      match guardOf e.guard w1, Operand.ofCode (bits w0 21 11), Operand.ofCode (bits w1 26 16), pm (bits w0 31 22) with
      | some g, some b, some s, some m => some (k ⟨⟨e.hint, g⟩, b, offM w1, s, m⟩)
      | _, _, _, _ => none
    else none
  | _ => none
def eMemN {μ : Type} (code m : Nat) (x : MemN μ) : Code :=
  ⟨headWord 2 code x.h.hint (guardBit x.h.guard), [wordM0 0 x.base.code m, wordM1 x.off x.s.code x.h.guard]⟩

def pFenceI (k : Fence → Instr) (e : Enc) : Option Instr :=
  match e.tail with
  | [w] =>
    if bits w 21 0 = 0 then
      match guardOf e.guard w, pFence (bits w 26 22) with
      | some g, some m => some (k ⟨⟨e.hint, g⟩, m⟩)
      | _, _ => none
    else none
  | _ => none
def eFenceI (code : Nat) (x : Fence) : Code :=
  ⟨headWord 1 code x.h.hint (guardBit x.h.guard), [wordA 0 0 (cFence x.m) x.h.guard]⟩

/-- ord = 1 with scope .DEV or .SYS (R177). -/
def pFenceSurf (k : FenceSurf → Instr) (e : Enc) : Option Instr :=
  match e.tail with
  | [w0, w1] =>
    if bits w0 10 0 = 0 && bits w1 26 16 = 0 && (bits w0 31 22 == 0x2C0 || bits w0 31 22 == 0x340) then
      match guardOf e.guard w1, Operand.ofCode (bits w0 21 11) with
      | some g, some b => some (k ⟨⟨e.hint, g⟩, b, offM w1, bits w0 31 22 == 0x340⟩)
      | _, _ => none
    else none
  | _ => none
def eFenceSurf (code : Nat) (x : FenceSurf) : Code :=
  ⟨headWord 2 code x.h.hint (guardBit x.h.guard),
    [wordM0 0 x.base.code (if x.sys then 0x340 else 0x2C0), wordM1 x.off 0 x.h.guard]⟩

def pMrsv (k : Mrsv → Instr) (e : Enc) : Option Instr :=
  match e.tail with
  | [w] =>
    if bits w 10 4 = 0 then
      match guardOf e.guard w, Operand.ofCode (bits w 21 11) with
      | some g, some a => some (k ⟨⟨e.hint, g⟩, Fin.ofNat 16 (bits w 3 0), a, Fin.ofNat 32 (bits w 26 22)⟩)
      | _, _ => none
    else none
  | _ => none
def eMrsv (code : Nat) (x : Mrsv) : Code :=
  ⟨headWord 1 code x.h.hint (guardBit x.h.guard), [wordA x.pd.val x.a.code x.half.val x.h.guard]⟩

/-- Slot numbers fill bits [8:0] of their field (R181). -/
def pStage (k : Stage → Instr) (e : Enc) : Option Instr :=
  match e.tail with
  | [w0, w1] =>
    if bits w0 10 9 = 0 && bits w0 31 28 = 0 then
      match guardOf e.guard w1, Operand.ofCode (bits w0 21 11), Operand.ofCode (bits w1 26 16),
        stageFmtOf (bits w0 24 22), stageSpaceOf (bits w0 27 26) with
      | some g, some b, some s, some f, some sp =>
        some (k ⟨⟨e.hint, g⟩, Fin.ofNat 512 (bits w0 8 0), b, offM w1, s, f, bit w0 25, sp⟩)
      | _, _, _, _, _ => none
    else none
  | _ => none
def eStage (code : Nat) (x : Stage) : Code :=
  ⟨headWord 2 code x.h.hint (guardBit x.h.guard),
    [wordM0 x.slot.val x.base.code (stageFmtCode x.fmt + 8 * b2n x.ns + 16 * stageSpaceCode x.space),
     wordM1 x.off x.s.code x.h.guard]⟩

def pMma (k : Mma → Instr) (e : Enc) : Option Instr :=
  match e.tail with
  | [w0, w1] =>
    if bits w0 10 3 = 0 && bits w0 31 20 = 0 && bits w1 26 9 = 0 then
      match guardOf e.guard w1 with
      | some g =>
        some (k ⟨⟨e.hint, g⟩, Fin.ofNat 8 (bits w0 2 0), Fin.ofNat 512 (bits w0 19 11), Fin.ofNat 512 (bits w1 8 0)⟩)
      | none => none
    else none
  | _ => none
def eMma (code : Nat) (x : Mma) : Code :=
  ⟨headWord 2 code x.h.hint (guardBit x.h.guard), [x.acc.val + x.a.val * 2 ^ 11, wordA x.b.val 0 0 x.h.guard]⟩

def pMzero (k : Mzero → Instr) (e : Enc) : Option Instr :=
  match e.tail with
  | [w] =>
    if bits w 26 3 = 0 then
      match guardOf e.guard w with
      | some g => some (k ⟨⟨e.hint, g⟩, Fin.ofNat 8 (bits w 2 0)⟩)
      | none => none
    else none
  | _ => none
def eMzero (code : Nat) (x : Mzero) : Code :=
  ⟨headWord 1 code x.h.hint (guardBit x.h.guard), [wordA x.acc.val 0 0 x.h.guard]⟩

def pMst (k : Mst → Instr) (e : Enc) : Option Instr :=
  match e.tail with
  | [w0, w1] =>
    if bits w0 10 3 = 0 && bits w0 31 28 = 0 then
      match guardOf e.guard w1, Operand.ofCode (bits w0 21 11), Operand.ofCode (bits w1 26 16), storeFmtOf (bits w0 24 22) with
      | some g, some b, some s, some f =>
        some (k ⟨⟨e.hint, g⟩, Fin.ofNat 8 (bits w0 2 0), b, offM w1, s, f, bit w0 25, bit w0 26, bit w0 27⟩)
      | _, _, _, _ => none
    else none
  | _ => none
def eMst (code : Nat) (x : Mst) : Code :=
  ⟨headWord 2 code x.h.hint (guardBit x.h.guard),
    [wordM0 x.acc.val x.base.code (storeFmtCode x.fmt + 8 * b2n x.sat + 16 * b2n x.clr + 32 * b2n x.glb),
     wordM1 x.off x.s.code x.h.guard]⟩

def pGang (k : Gang → Instr) (e : Enc) : Option Instr :=
  match e.tail with
  | [w] =>
    if bits w 21 0 = 0 && bits w 26 23 = 0 then
      match guardOf e.guard w with
      | some g => some (k ⟨⟨e.hint, g⟩, bit w 22⟩)
      | none => none
    else none
  | _ => none
def eGang (code : Nat) (x : Gang) : Code :=
  ⟨headWord 1 code x.h.hint (guardBit x.h.guard), [wordA 0 0 (b2n x.last) x.h.guard]⟩

def pBare (k : Bare → Instr) (e : Enc) : Option Instr :=
  match e.tail with
  | [w] =>
    if bits w 26 0 = 0 then
      match guardOf e.guard w with
      | some g => some (k ⟨⟨e.hint, g⟩⟩)
      | none => none
    else none
  | _ => none
def eBare (code : Nat) (x : Bare) : Code :=
  ⟨headWord 1 code x.h.hint (guardBit x.h.guard), [wordA 0 0 0 x.h.guard]⟩

def pSrcA (k : SrcA → Instr) (e : Enc) : Option Instr :=
  match e.tail with
  | [w] =>
    if bits w 10 0 = 0 && bits w 26 22 = 0 then
      match guardOf e.guard w, Operand.ofCode (bits w 21 11) with
      | some g, some a => some (k ⟨⟨e.hint, g⟩, a⟩)
      | _, _ => none
    else none
  | _ => none
def eSrcA (code : Nat) (x : SrcA) : Code :=
  ⟨headWord 1 code x.h.hint (guardBit x.h.guard), [wordA 0 x.a.code 0 x.h.guard]⟩

def pDstD (k : DstD → Instr) (e : Enc) : Option Instr :=
  match e.tail with
  | [w] =>
    if bits w 26 11 = 0 then
      match guardOf e.guard w, Operand.ofCode (bits w 10 0) with
      | some g, some d => some (k ⟨⟨e.hint, g⟩, d⟩)
      | _, _ => none
    else none
  | _ => none
def eDstD (code : Nat) (x : DstD) : Code :=
  ⟨headWord 1 code x.h.hint (guardBit x.h.guard), [wordA x.d.code 0 0 x.h.guard]⟩

def pSetFE (k : SetFE → Instr) (e : Enc) : Option Instr :=
  match e.tail with
  | [w] =>
    if bits w 21 11 = 0 then
      match guardOf e.guard w, Operand.ofCode (bits w 10 0) with
      | some g, some d => some (k ⟨⟨e.hint, g⟩, d, Fin.ofNat 32 (bits w 26 22)⟩)
      | _, _ => none
    else none
  | _ => none
def eSetFE (code : Nat) (x : SetFE) : Code :=
  ⟨headWord 1 code x.h.hint (guardBit x.h.guard), [wordA x.d.code 0 x.k.val x.h.guard]⟩

def pMigr (k : Migr → Instr) (e : Enc) : Option Instr :=
  match e.tail with
  | [w0, w1] =>
    if bits w0 31 1 = 0 && bits w1 26 25 = 0 then
      match guardOf e.guard w1 with
      | some g => some (k ⟨⟨e.hint, g⟩, bit w0 0, BitVec.ofNat 20 (bits w1 19 0), Fin.ofNat 32 (bits w1 24 20)⟩)
      | none => none
    else none
  | _ => none
def eMigr (code : Nat) (x : Migr) : Code :=
  ⟨headWord 2 code x.h.hint (guardBit x.h.guard), [b2n x.fl, wordB ⟨x.disp, x.j⟩ 0 x.h.guard]⟩

def pSvc (k : Svc → Instr) (e : Enc) : Option Instr :=
  match e.tail with
  | [w0, w1] =>
    if bits w0 31 29 = 0 then
      match guardOf e.guard w1, Operand.ofCode (bits w0 10 0), Operand.ofCode (bits w0 21 11), svcOf (bits w0 23 22) with
      | some g, some d, some b, some sv =>
        if bit w0 28 then
          if isZeroField (bits w1 26 16) then
            some (k ⟨⟨e.hint, g⟩, d, b, offM w1, none, sv, Fin.ofNat 8 (bits w0 26 24), bit w0 27⟩)
          else none
        else
          match Operand.ofCode (bits w1 26 16) with
          | some s => some (k ⟨⟨e.hint, g⟩, d, b, offM w1, some s, sv, Fin.ofNat 8 (bits w0 26 24), bit w0 27⟩)
          | none => none
      | _, _, _, _ => none
    else none
  | _ => none
def eSvc (code : Nat) (x : Svc) : Code :=
  ⟨headWord 2 code x.h.hint (guardBit x.h.guard),
    [wordM0 x.d.code x.base.code (svcCode x.svc + 4 * x.rq.val + 32 * b2n x.a64 + 64 * b2n x.s.isNone),
     wordM1 x.off (match x.s with | some s => s.code | none => 0) x.h.guard]⟩

def pCtlr (k : Ctlr → Instr) (e : Enc) : Option Instr :=
  match e.tail with
  | [w] =>
    if bits w 21 11 = 0 then
      match guardOf e.guard w, Operand.ofCode (bits w 10 0) with
      | some g, some d => some (k ⟨⟨e.hint, g⟩, d, Fin.ofNat 32 (bits w 26 22)⟩)
      | _, _ => none
    else none
  | _ => none
def eCtlr (code : Nat) (x : Ctlr) : Code :=
  ⟨headWord 1 code x.h.hint (guardBit x.h.guard), [wordA x.d.code 0 x.n.val x.h.guard]⟩

def pCtlw (k : Ctlw → Instr) (e : Enc) : Option Instr :=
  match e.tail with
  | [w] =>
    if bits w 10 0 = 0 then
      match guardOf e.guard w, Operand.ofCode (bits w 21 11) with
      | some g, some a => some (k ⟨⟨e.hint, g⟩, a, Fin.ofNat 32 (bits w 26 22)⟩)
      | _, _ => none
    else none
  | _ => none
def eCtlw (code : Nat) (x : Ctlw) : Code :=
  ⟨headWord 1 code x.h.hint (guardBit x.h.guard), [wordA 0 x.a.code x.n.val x.h.guard]⟩

def pIsync (k : Isync → Instr) (e : Enc) : Option Instr :=
  match e.tail with
  | [w] =>
    if bits w 21 0 = 0 && bits w 26 25 = 0 then
      match guardOf e.guard w, scopeOf (bits w 24 22) with
      | some g, some sc => some (k ⟨⟨e.hint, g⟩, sc⟩)
      | _, _ => none
    else none
  | _ => none
def eIsync (code : Nat) (x : Isync) : Code :=
  ⟨headWord 1 code x.h.hint (guardBit x.h.guard), [wordA 0 0 (scopeCode x.scope) x.h.guard]⟩

def pSleep (k : Sleep → Instr) (e : Enc) : Option Instr :=
  match e.tail with
  | [w] =>
    if bits w 10 0 = 0 && bits w 26 23 = 0 then
      match guardOf e.guard w, Operand.ofCode (bits w 21 11) with
      | some g, some a => some (k ⟨⟨e.hint, g⟩, a, bit w 22⟩)
      | _, _ => none
    else none
  | _ => none
def eSleep (code : Nat) (x : Sleep) : Code :=
  ⟨headWord 1 code x.h.hint (guardBit x.h.guard), [wordA 0 x.a.code (b2n x.ev) x.h.guard]⟩

/-- The instruction a head's major and minor and a tail stand for, before the operand rules (Table 3-6). -/
def parseBody (code : Nat) (e : Enc) : Option Instr :=
  match code with
  | 0x000 => pN .nop e
  | 0x001 => pN .exit e
  | 0x002 => pN .yield_ e
  | 0x003 => pN .ret e
  | 0x004 => pJT .trap e
  | 0x010 => pB .br e
  | 0x011 => pB .call e
  | 0x012 => pJmpi .jmpi e
  | 0x013 => pCalli .calli e
  | 0x020 => pBrd .brd e
  | 0x021 => pBg .brany e
  | 0x022 => pBg .brall e
  | 0x030 => pLoop .loop e
  | 0x031 => pLoopi .loopi e
  | 0x080 => pBin pSat .iadd e
  | 0x081 => pBin pSat .isub e
  | 0x082 => pBinP pBool .iaddc e
  | 0x083 => pBinP pBool .isubb e
  | 0x084 => pImmK pSat .iaddi e
  | 0x085 => pUn pBool .ineg e
  | 0x086 => pUn pBool .iabs e
  | 0x090 => pBin pUnit .iadd64 e
  | 0x091 => pBin pUnit .isub64 e
  | 0x092 => pImmK pUnit .iaddi64 e
  | 0x0A0 => pBin pBool .imin e
  | 0x0A1 => pBin pBool .imax e
  | 0x0A2 => pCmpP pICmp .icmpp e
  | 0x0A3 => pCmpI pICmpI .icmppi e
  | 0x0A4 => pBinP pUnit .sel e
  | 0x0B0 => pBin pUnit .and_ e
  | 0x0B1 => pBin pUnit .or_ e
  | 0x0B2 => pBin pUnit .xor_ e
  | 0x0B3 => pUn pUnit .not_ e
  | 0x0B4 => pImmK pUnit .andi e
  | 0x0B5 => pImmK pUnit .ori e
  | 0x0B6 => pImmK pUnit .xori e
  | 0x0C0 => pBin pUnit .shl e
  | 0x0C1 => pBin pUnit .shr e
  | 0x0C2 => pBin pUnit .sar e
  | 0x0C3 => pBin pUnit .rol e
  | 0x0C4 => pBin pUnit .ror e
  | 0x0C5 => pUn pFin32 .shli e
  | 0x0C6 => pUn pFin32 .shri e
  | 0x0C7 => pUn pFin32 .sari e
  | 0x0D0 => pUn pUnit .popc e
  | 0x0D1 => pUn pUnit .clz e
  | 0x0D2 => pUn pUnit .ctz e
  | 0x0D3 => pUn pUnit .brev e
  | 0x0E0 => pUn pBool .mov e
  | 0x0E1 => pJD .movi e
  | 0x0E2 => pJD .movhi e
  | 0x0E3 => pMovKK .movk e
  | 0x0E4 => pBin pLea .lea e
  | 0x0F0 => pBin pUnit .shl64 e
  | 0x0F1 => pBin pUnit .shr64 e
  | 0x0F2 => pBin pUnit .sar64 e
  | 0x0F3 => pCmpP pICmp .icmpp64 e
  | 0x100 => pBin pUnit .imul e
  | 0x101 => pBin pBool .imulhi e
  | 0x102 => pTern pUnit .imad e
  | 0x103 => pBin pBool .imulw e
  | 0x104 => pTern pBool .imadw e
  | 0x110 => pBin pFin4 .divstep e
  | 0x111 => pUn pBool .divinit e
  | 0x120 => pBin pBool .bfx e
  | 0x121 => pTern pUnit .bfi e
  | 0x140 => pNBin pArith .fadd e
  | 0x141 => pNBin pArith .fsub e
  | 0x142 => pNBin pArith .fmul e
  | 0x143 => pNTern pArith .ffma e
  | 0x150 => pNBin pExact .fmin e
  | 0x151 => pNBin pExact .fmax e
  | 0x152 => pNCmp pFCmp .fcmpp e
  | 0x153 => pUn pBool .fabs e
  | 0x154 => pUn pBool .fneg e
  | 0x155 => pUn pBool .fclass e
  | 0x160 => pNBin pArith .badd e
  | 0x161 => pNBin pArith .bsub e
  | 0x162 => pNBin pArith .bmul e
  | 0x163 => pNTern pArith .bfma e
  | 0x170 => pBin pArith .bpadd e
  | 0x171 => pBin pArith .bpsub e
  | 0x172 => pBin pArith .bpmul e
  | 0x173 => pTern pArith .bpfma e
  | 0x174 => pBin pExact .bpmin e
  | 0x175 => pBin pExact .bpmax e
  | 0x180 => pNBin pExact .bmin e
  | 0x181 => pNBin pExact .bmax e
  | 0x182 => pNCmp pFCmp .bcmpp e
  | 0x190 => pImmK pArith .faddi e
  | 0x191 => pImmK pArith .fmuli e
  | 0x192 => pImmE pArith .ffmai e
  | 0x1C0 => pUn pExact .rcp e
  | 0x1C1 => pUn pExact .rsq e
  | 0x1C2 => pUn pExact .sqrt e
  | 0x1C3 => pUn pExact .exp2 e
  | 0x1C4 => pUn pExact .log2 e
  | 0x1C5 => pUn pExact .tanh e
  | 0x1D0 => pUn pExact .sint e
  | 0x1D1 => pUn pExact .cost e
  | 0x1D2 => pUn pExact .sincost e
  | 0x200 => pUn pNarrowing .cvtfh e
  | 0x201 => pUn pHf .cvthf e
  | 0x202 => pBin pNarrowing .packh e
  | 0x210 => pTern pF8 .cvtf8 e
  | 0x211 => pTern pF4 .cvtf4 e
  | 0x212 => pOptB pW8 .cvt8f e
  | 0x213 => pOptB pW4 .cvt4f e
  | 0x220 => pUnC pMxP .mxpack e
  | 0x221 => pUnC pMxU .mxunpk e
  | 0x230 => pUn pCvtI .cvtfi e
  | 0x231 => pUn pCvtI .cvtif e
  | 0x232 => pUn pCvtII .cvtii e
  | 0x240 => pBin pSeg .shfl e
  | 0x241 => pTern pSeg .shflup e
  | 0x242 => pTern pSeg .shfldn e
  | 0x243 => pBin pSeg .shflx e
  | 0x250 => pBallot .ballot e
  | 0x251 => pVote .voteany e
  | 0x252 => pVote .voteall e
  | 0x253 => pVote .voteuni e
  | 0x260 => pUn pScan .pscan e
  | 0x261 => pUn pScan .reduce e
  | 0x262 => pUn pBool .match_ e
  | 0x280 => pMem pMemG .ld e
  | 0x281 => pMem pMemG .st e
  | 0x290 => pMem pMemG .gld e
  | 0x291 => pMem pMemG .sct e
  | 0x2A0 => pLoc pMemL .lds e
  | 0x2A1 => pLoc pMemL .sts e
  | 0x2A2 => pLoc pMemL .ldsr e
  | 0x2A3 => pLoc pMemL .stsr e
  | 0x2B0 => pLoc pMemL .ldt e
  | 0x2B1 => pLoc pMemL .stt e
  | 0x2C0 => pLoc pMemL .ldl e
  | 0x2C1 => pLoc pMemL .stl e
  | 0x2C2 => pLoc pMemL .ldw e
  | 0x2C3 => pLoc pMemL .stw e
  | 0x2D0 => pMem pPack .cmpst e
  | 0x2D1 => pMem pPack .expld e
  | 0x2E0 => pMemN pPref .pref e
  | 0x300 => pMem pAtomG .atomAdd e
  | 0x301 => pMem pAtomG .atomMin e
  | 0x302 => pMem pAtomG .atomMax e
  | 0x303 => pMem pAtomG .atomAnd e
  | 0x304 => pMem pAtomG .atomOr e
  | 0x305 => pMem pAtomG .atomXor e
  | 0x306 => pMem pAtomG .atomExch e
  | 0x307 => pMem pAtomG .atomCas e
  | 0x310 => pMem pAtomG .atomFadd e
  | 0x311 => pMem pAtomG .atomFmin e
  | 0x312 => pMem pAtomG .atomFmax e
  | 0x313 => pMem pAtomG .atomAddBf16x2 e
  | 0x314 => pMem pAtomG .atomVismin e
  | 0x320 => pMem pAtomG .redAdd e
  | 0x321 => pMem pAtomG .redMin e
  | 0x322 => pMem pAtomG .redMax e
  | 0x323 => pMem pAtomG .redFadd e
  | 0x324 => pMem pAtomG .redAddBf16x2 e
  | 0x330 => pLoc pAtomL .atomlCas e
  | 0x331 => pLoc pAtomL .atomlAdd e
  | 0x332 => pLoc pAtomL .atomwCas e
  | 0x333 => pLoc pAtomL .atomwAdd e
  | 0x334 => pLoc pAtomL .atomwExch e
  | 0x340 => pFenceI .fence e
  | 0x341 => pFenceSurf .fenceSurf e
  | 0x342 => pMemN pZero .discard e
  | 0x350 => pMemN pA64 .cinv e
  | 0x351 => pMemN pA64 .cwb e
  | 0x352 => pMemN pA64 .cflush e
  | 0x360 => pMrsv .mrsv e
  | 0x361 => pN .mrel e
  | 0x370 => pStage .mlda e
  | 0x371 => pStage .mldb e
  | 0x380 => pMma .mma e
  | 0x381 => pMma .mmaF32 e
  | 0x390 => pMzero .mzero e
  | 0x391 => pMst .mst e
  | 0x3A0 => pGang .gang e
  | 0x3A1 => pMma .gangMma e
  | 0x3C0 => pBare .bar e
  | 0x3C1 => pSrcA .barc e
  | 0x3C2 => pDstD .gbar e
  | 0x3C3 => pVote .voteg e
  | 0x3D0 => pSetFE .sete e
  | 0x3D1 => pSetFE .setf e
  | 0x3D2 => pUn pFin8 .chain e
  | 0x3D3 => pMem pQEnq .enq e
  | 0x3D4 => pMem pQDeq .deq e
  | 0x3D5 => pMem pQLaunch .launch e
  | 0x3D6 => pMigr .migr e
  | 0x3D7 => pN .rets e
  | 0x3E0 => pDstD .bclose e
  | 0x3E1 => pSrcA .bwait e
  | 0x3E2 => pUn pUnit .poolq e
  | 0x3E3 => pUnC pPoolM .poolm e
  | 0x3E4 => pDstD .poolw e
  | 0x3E5 => pSvc .svc e
  | 0x3F0 => pCtlr .ctlr e
  | 0x3F1 => pCtlw .ctlw e
  | 0x3F2 => pIsync .isync e
  | 0x3F3 => pSleep .sleep e
  | 0x3F4 => pN .halt e
  | 0x3F5 => pJT .bkpt e
  | 0x3F6 => pN .eret e
  | _ => none

/-- The decoder: total on any head and tail; none is the ILLEGAL_OP of R70. -/
def decode (c : Code) : Option Instr :=
  if c.head / 16384 = c.tail.length then
    match parseBody (bits c.head 13 4) ⟨⟨Fin.ofNat 4 (bits c.head 3 2), bit c.head 1⟩, bit c.head 0, c.tail⟩ with
    | some i => if i.wf then some i else none
    | none => none
  else none

/-- The encoder: the head and tail of a coded instruction; an event has none. -/
def encode (i : Instr) : Option Code :=
  match i with
  | .nop x => some (eN 0x000 x)
  | .exit x => some (eN 0x001 x)
  | .yield_ x => some (eN 0x002 x)
  | .ret x => some (eN 0x003 x)
  | .trap x => some (eJT 0x004 x)
  | .br x => some (eB 0x010 x)
  | .call x => some (eB 0x011 x)
  | .jmpi x => some (eJmpi 0x012 x)
  | .calli x => some (eCalli 0x013 x)
  | .brd x => some (eBrd 0x020 x)
  | .brany x => some (eBg 0x021 x)
  | .brall x => some (eBg 0x022 x)
  | .loop x => some (eLoop 0x030 x)
  | .loopi x => some (eLoopi 0x031 x)
  | .iadd x => some (eBin 0x080 (cSat x.m) x)
  | .isub x => some (eBin 0x081 (cSat x.m) x)
  | .iaddc x => some (eBinP 0x082 (cBool x.m) x)
  | .isubb x => some (eBinP 0x083 (cBool x.m) x)
  | .iaddi x => some (eImmK 0x084 (cSat x.m) x)
  | .ineg x => some (eUn 0x085 (cBool x.m) x)
  | .iabs x => some (eUn 0x086 (cBool x.m) x)
  | .iadd64 x => some (eBin 0x090 (cUnit x.m) x)
  | .isub64 x => some (eBin 0x091 (cUnit x.m) x)
  | .iaddi64 x => some (eImmK 0x092 (cUnit x.m) x)
  | .imin x => some (eBin 0x0A0 (cBool x.m) x)
  | .imax x => some (eBin 0x0A1 (cBool x.m) x)
  | .icmpp x => some (eCmpP 0x0A2 (cICmp x.m) x)
  | .icmppi x => some (eCmpI 0x0A3 (cICmpI x.m) x)
  | .sel x => some (eBinP 0x0A4 (cUnit x.m) x)
  | .and_ x => some (eBin 0x0B0 (cUnit x.m) x)
  | .or_ x => some (eBin 0x0B1 (cUnit x.m) x)
  | .xor_ x => some (eBin 0x0B2 (cUnit x.m) x)
  | .not_ x => some (eUn 0x0B3 (cUnit x.m) x)
  | .andi x => some (eImmK 0x0B4 (cUnit x.m) x)
  | .ori x => some (eImmK 0x0B5 (cUnit x.m) x)
  | .xori x => some (eImmK 0x0B6 (cUnit x.m) x)
  | .shl x => some (eBin 0x0C0 (cUnit x.m) x)
  | .shr x => some (eBin 0x0C1 (cUnit x.m) x)
  | .sar x => some (eBin 0x0C2 (cUnit x.m) x)
  | .rol x => some (eBin 0x0C3 (cUnit x.m) x)
  | .ror x => some (eBin 0x0C4 (cUnit x.m) x)
  | .shli x => some (eUn 0x0C5 (cFin32 x.m) x)
  | .shri x => some (eUn 0x0C6 (cFin32 x.m) x)
  | .sari x => some (eUn 0x0C7 (cFin32 x.m) x)
  | .popc x => some (eUn 0x0D0 (cUnit x.m) x)
  | .clz x => some (eUn 0x0D1 (cUnit x.m) x)
  | .ctz x => some (eUn 0x0D2 (cUnit x.m) x)
  | .brev x => some (eUn 0x0D3 (cUnit x.m) x)
  | .mov x => some (eUn 0x0E0 (cBool x.m) x)
  | .movi x => some (eJD 0x0E1 x)
  | .movhi x => some (eJD 0x0E2 x)
  | .movk x => some (eMovKK 0x0E3 x)
  | .lea x => some (eBin 0x0E4 (cLea x.m) x)
  | .shl64 x => some (eBin 0x0F0 (cUnit x.m) x)
  | .shr64 x => some (eBin 0x0F1 (cUnit x.m) x)
  | .sar64 x => some (eBin 0x0F2 (cUnit x.m) x)
  | .icmpp64 x => some (eCmpP 0x0F3 (cICmp x.m) x)
  | .imul x => some (eBin 0x100 (cUnit x.m) x)
  | .imulhi x => some (eBin 0x101 (cBool x.m) x)
  | .imad x => some (eTern 0x102 (cUnit x.m) x)
  | .imulw x => some (eBin 0x103 (cBool x.m) x)
  | .imadw x => some (eTern 0x104 (cBool x.m) x)
  | .divstep x => some (eBin 0x110 (cFin4 x.m) x)
  | .divinit x => some (eUn 0x111 (cBool x.m) x)
  | .bfx x => some (eBin 0x120 (cBool x.m) x)
  | .bfi x => some (eTern 0x121 (cUnit x.m) x)
  | .fadd x => some (eNBin 0x140 (cArith x.m) x)
  | .fsub x => some (eNBin 0x141 (cArith x.m) x)
  | .fmul x => some (eNBin 0x142 (cArith x.m) x)
  | .ffma x => some (eNTern 0x143 (cArith x.m) x)
  | .fmin x => some (eNBin 0x150 (cExact x.m) x)
  | .fmax x => some (eNBin 0x151 (cExact x.m) x)
  | .fcmpp x => some (eNCmp 0x152 (cFCmp x.m) x)
  | .fabs x => some (eUn 0x153 (cBool x.m) x)
  | .fneg x => some (eUn 0x154 (cBool x.m) x)
  | .fclass x => some (eUn 0x155 (cBool x.m) x)
  | .badd x => some (eNBin 0x160 (cArith x.m) x)
  | .bsub x => some (eNBin 0x161 (cArith x.m) x)
  | .bmul x => some (eNBin 0x162 (cArith x.m) x)
  | .bfma x => some (eNTern 0x163 (cArith x.m) x)
  | .bpadd x => some (eBin 0x170 (cArith x.m) x)
  | .bpsub x => some (eBin 0x171 (cArith x.m) x)
  | .bpmul x => some (eBin 0x172 (cArith x.m) x)
  | .bpfma x => some (eTern 0x173 (cArith x.m) x)
  | .bpmin x => some (eBin 0x174 (cExact x.m) x)
  | .bpmax x => some (eBin 0x175 (cExact x.m) x)
  | .bmin x => some (eNBin 0x180 (cExact x.m) x)
  | .bmax x => some (eNBin 0x181 (cExact x.m) x)
  | .bcmpp x => some (eNCmp 0x182 (cFCmp x.m) x)
  | .faddi x => some (eImmK 0x190 (cArith x.m) x)
  | .fmuli x => some (eImmK 0x191 (cArith x.m) x)
  | .ffmai x => some (eImmE 0x192 (cArith x.m) x)
  | .rcp x => some (eUn 0x1C0 (cExact x.m) x)
  | .rsq x => some (eUn 0x1C1 (cExact x.m) x)
  | .sqrt x => some (eUn 0x1C2 (cExact x.m) x)
  | .exp2 x => some (eUn 0x1C3 (cExact x.m) x)
  | .log2 x => some (eUn 0x1C4 (cExact x.m) x)
  | .tanh x => some (eUn 0x1C5 (cExact x.m) x)
  | .sint x => some (eUn 0x1D0 (cExact x.m) x)
  | .cost x => some (eUn 0x1D1 (cExact x.m) x)
  | .sincost x => some (eUn 0x1D2 (cExact x.m) x)
  | .cvtfh x => some (eUn 0x200 (cNarrowing x.m) x)
  | .cvthf x => some (eUn 0x201 (cHf x.m) x)
  | .packh x => some (eBin 0x202 (cNarrowing x.m) x)
  | .cvtf8 x => some (eTern 0x210 (cF8 x.m) x)
  | .cvtf4 x => some (eTern 0x211 (cF4 x.m) x)
  | .cvt8f x => some (eOptB 0x212 (cW8 x.m) x)
  | .cvt4f x => some (eOptB 0x213 (cW4 x.m) x)
  | .mxpack x => some (eUnC 0x220 (cMxP x.m) x)
  | .mxunpk x => some (eUnC 0x221 (cMxU x.m) x)
  | .cvtfi x => some (eUn 0x230 (cCvtI x.m) x)
  | .cvtif x => some (eUn 0x231 (cCvtI x.m) x)
  | .cvtii x => some (eUn 0x232 (cCvtII x.m) x)
  | .shfl x => some (eBin 0x240 (cSeg x.m) x)
  | .shflup x => some (eTern 0x241 (cSeg x.m) x)
  | .shfldn x => some (eTern 0x242 (cSeg x.m) x)
  | .shflx x => some (eBin 0x243 (cSeg x.m) x)
  | .ballot x => some (eBallot 0x250 x)
  | .voteany x => some (eVote 0x251 x)
  | .voteall x => some (eVote 0x252 x)
  | .voteuni x => some (eVote 0x253 x)
  | .pscan x => some (eUn 0x260 (cScan x.m) x)
  | .reduce x => some (eUn 0x261 (cScan x.m) x)
  | .match_ x => some (eUn 0x262 (cBool x.m) x)
  | .ld x => some (eMem 0x280 (cMemG x.m) x)
  | .st x => some (eMem 0x281 (cMemG x.m) x)
  | .gld x => some (eMem 0x290 (cMemG x.m) x)
  | .sct x => some (eMem 0x291 (cMemG x.m) x)
  | .lds x => some (eLoc 0x2A0 (cMemL x.m) x)
  | .sts x => some (eLoc 0x2A1 (cMemL x.m) x)
  | .ldsr x => some (eLoc 0x2A2 (cMemL x.m) x)
  | .stsr x => some (eLoc 0x2A3 (cMemL x.m) x)
  | .ldt x => some (eLoc 0x2B0 (cMemL x.m) x)
  | .stt x => some (eLoc 0x2B1 (cMemL x.m) x)
  | .ldl x => some (eLoc 0x2C0 (cMemL x.m) x)
  | .stl x => some (eLoc 0x2C1 (cMemL x.m) x)
  | .ldw x => some (eLoc 0x2C2 (cMemL x.m) x)
  | .stw x => some (eLoc 0x2C3 (cMemL x.m) x)
  | .cmpst x => some (eMem 0x2D0 (cPack x.m) x)
  | .expld x => some (eMem 0x2D1 (cPack x.m) x)
  | .pref x => some (eMemN 0x2E0 (cPref x.m) x)
  | .atomAdd x => some (eMem 0x300 (cAtomG x.m) x)
  | .atomMin x => some (eMem 0x301 (cAtomG x.m) x)
  | .atomMax x => some (eMem 0x302 (cAtomG x.m) x)
  | .atomAnd x => some (eMem 0x303 (cAtomG x.m) x)
  | .atomOr x => some (eMem 0x304 (cAtomG x.m) x)
  | .atomXor x => some (eMem 0x305 (cAtomG x.m) x)
  | .atomExch x => some (eMem 0x306 (cAtomG x.m) x)
  | .atomCas x => some (eMem 0x307 (cAtomG x.m) x)
  | .atomFadd x => some (eMem 0x310 (cAtomG x.m) x)
  | .atomFmin x => some (eMem 0x311 (cAtomG x.m) x)
  | .atomFmax x => some (eMem 0x312 (cAtomG x.m) x)
  | .atomAddBf16x2 x => some (eMem 0x313 (cAtomG x.m) x)
  | .atomVismin x => some (eMem 0x314 (cAtomG x.m) x)
  | .redAdd x => some (eMem 0x320 (cAtomG x.m) x)
  | .redMin x => some (eMem 0x321 (cAtomG x.m) x)
  | .redMax x => some (eMem 0x322 (cAtomG x.m) x)
  | .redFadd x => some (eMem 0x323 (cAtomG x.m) x)
  | .redAddBf16x2 x => some (eMem 0x324 (cAtomG x.m) x)
  | .atomlCas x => some (eLoc 0x330 (cAtomL x.m) x)
  | .atomlAdd x => some (eLoc 0x331 (cAtomL x.m) x)
  | .atomwCas x => some (eLoc 0x332 (cAtomL x.m) x)
  | .atomwAdd x => some (eLoc 0x333 (cAtomL x.m) x)
  | .atomwExch x => some (eLoc 0x334 (cAtomL x.m) x)
  | .fence x => some (eFenceI 0x340 x)
  | .fenceSurf x => some (eFenceSurf 0x341 x)
  | .discard x => some (eMemN 0x342 (cZero x.m) x)
  | .cinv x => some (eMemN 0x350 (cA64 x.m) x)
  | .cwb x => some (eMemN 0x351 (cA64 x.m) x)
  | .cflush x => some (eMemN 0x352 (cA64 x.m) x)
  | .mrsv x => some (eMrsv 0x360 x)
  | .mrel x => some (eN 0x361 x)
  | .mlda x => some (eStage 0x370 x)
  | .mldb x => some (eStage 0x371 x)
  | .mma x => some (eMma 0x380 x)
  | .mmaF32 x => some (eMma 0x381 x)
  | .mzero x => some (eMzero 0x390 x)
  | .mst x => some (eMst 0x391 x)
  | .gang x => some (eGang 0x3A0 x)
  | .gangMma x => some (eMma 0x3A1 x)
  | .bar x => some (eBare 0x3C0 x)
  | .barc x => some (eSrcA 0x3C1 x)
  | .gbar x => some (eDstD 0x3C2 x)
  | .voteg x => some (eVote 0x3C3 x)
  | .sete x => some (eSetFE 0x3D0 x)
  | .setf x => some (eSetFE 0x3D1 x)
  | .chain x => some (eUn 0x3D2 (cFin8 x.m) x)
  | .enq x => some (eMem 0x3D3 (cQEnq x.m) x)
  | .deq x => some (eMem 0x3D4 (cQDeq x.m) x)
  | .launch x => some (eMem 0x3D5 (cQLaunch x.m) x)
  | .migr x => some (eMigr 0x3D6 x)
  | .rets x => some (eN 0x3D7 x)
  | .bclose x => some (eDstD 0x3E0 x)
  | .bwait x => some (eSrcA 0x3E1 x)
  | .poolq x => some (eUn 0x3E2 (cUnit x.m) x)
  | .poolm x => some (eUnC 0x3E3 (cPoolM x.m) x)
  | .poolw x => some (eDstD 0x3E4 x)
  | .svc x => some (eSvc 0x3E5 x)
  | .ctlr x => some (eCtlr 0x3F0 x)
  | .ctlw x => some (eCtlw 0x3F1 x)
  | .isync x => some (eIsync 0x3F2 x)
  | .sleep x => some (eSleep 0x3F3 x)
  | .halt x => some (eN 0x3F4 x)
  | .bkpt x => some (eJT 0x3F5 x)
  | .eret x => some (eN 0x3F6 x)
  | .producerCompletion _ _ => none
  | .remoteFill _ _ _ => none
  | .pageWalk _ _ _ => none
  | .cacWriteback _ _ => none
  | .resultRecordAppend _ _ => none
  | .issueSelect _ => none
  | .strandIssueSelect _ => none
  | .loadLimitWindow _ => none
  | .sleepExpiry _ _ _ => none
  | .barcSweepArrival _ _ _ _ _ => none
  | .barcSweepRelease _ _ _ _ => none
  | .gridBarrierRelease _ _ => none
  | .matrixEntryStart _ => none
  | .matrixEntryFinish _ => none
  | .stagingComplete _ _ => none
  | .multicastWindowRead _ _ => none
  | .jointOperationStart _ => none
  | .moveSwitch _ => none
  | .moveRebuild _ => none
  | .moveComplete _ => none
  | .tileFlush _ _ => none
  | .moveWaitRelease _ => none
  | .roleListReturn _ => none
  | .copy _ _ => none
  | .fill _ _ => none
  | .vfill _ _ => none
  | .tsend _ _ => none
  | .plan _ _ => none
  | .planSend _ _ _ => none
  | .copyComplete _ _ => none
  | .mergeOpen _ _ => none
  | .mergeClose _ _ => none
  | .frame _ _ => none
  | .absent _ _ => none
  | .sink _ _ => none
  | .route _ _ => none
  | .unsink _ _ => none
  | .sinkRelease _ _ _ => none
  | .serviceAccept _ _ => none
  | .rasterOpen _ _ => none
  | .draw _ _ => none
  | .resolve _ _ => none
  | .rasterClose _ _ => none
  | .clear _ _ => none
  | .trace _ _ => none
  | .sample _ _ => none
  | .endRecord _ _ => none
  | .contextEntryWake _ => none
  | .contextLeave _ => none
  | .queueTailWrite _ _ => none
  | .placeCluster _ => none
  | .placeStrand _ => none
  | .placeSuperstepGrid _ => none
  | .taskRetire _ => none
  | .sumpTimeout _ _ => none
  | .sumpPlace _ => none
  | .balancerSample _ => none
  | .balancerDeferredMove _ _ => none
  | .faultRecordWrite _ => none
  | .resume _ => none
  | .redirect _ => none
  | .enter _ => none
  | .retire _ => none
  | .stop _ => none
  | .inval _ => none
  | .preempt _ => none
  | .restore _ => none
  | .migrate _ => none
  | .migrationResume _ => none
  | .freeze _ => none
  | .thaw _ => none
  | .routeUpdate _ _ _ => none
  | .routeUpdateAck _ _ _ => none
  | .hostSnoop _ _ => none
  | .cxlMemRequest _ => none
  | .linkRetrain _ => none
  | .linkUp _ => none
  | .linkDownTimeout _ _ => none
  | .fabricBlockWrite _ => none
  | .packetForward _ _ => none
  | .tilePacketArrival _ _ => none
  | .nodeDeadline _ _ _ _ _ => none
  | .leafFrameClose _ _ _ => none
  | .keepAliveSend _ _ => none
  | .keepAliveArrival _ _ => none
  | .childTimeout _ _ _ _ => none
  | .absentNotice _ _ => none
  | .sessionClose _ _ => none
  | .rootTileDelivery _ _ => none
  | .frameRecord _ _ _ _ => none
  | .go _ => none
  | .lattolWrite _ _ => none
  | .clklimWrite _ _ => none
  | .mgmtWindowWrite _ _ _ => none
  | .powerOn _ => none
  | .firmware _ _ => none
  | .selftest _ _ _ => none
  | .memory _ _ => none
  | .links _ _ _ => none
  | .idleTimeout _ => none
  | .powerEntryComplete _ => none
  | .powerWake _ => none
  | .powerExitComplete _ => none
  | .thermalStep _ _ => none
  | .grantMapWrite _ => none
  | .grantArrival _ _ _ => none
  | .patrolScrub => none
  | .lifetimeRecordWrite => none
  | .getVersion => none
  | .getCapabilities => none
  | .negotiateAlgorithms => none
  | .getDigests => none
  | .getCertificate _ => none
  | .challenge _ _ => none
  | .getMeasurements _ _ => none
  | .debugHalt _ => none
  | .debugResume _ => none
  | .debugStep _ => none
  | .debugRead _ => none
  | .debugWrite _ => none
  | .commit _ => none
  | .drop _ => none
  | .debugRevoke _ => none
  | .storeCompletion _ _ => none
  | .portWordArrival _ _ _ => none
  | .relocationComplete _ => none
  | .softError _ _ => none

/-- The code of a numbered opcode-table word: bits 15..0 the head, then the tail words the head's length code gives. -/
def codeOfTableWord (w : Nat) : Code :=
  let head := w % 65536
  ⟨head, (List.range (head / 16384)).map (fun k => bits w (47 + 32 * k) (16 + 32 * k))⟩

/-- What the decoder reads from an instruction whose bits are `w` (the host's fixed name); bits above `nbits` are zero. -/
def decodeTableWord (nbits w : Nat) : Option Instr := decode (codeOfTableWord (w % 2 ^ nbits))

/-! Lines -/

/-- The halfword of slot `i` of a line given as a byte function (R55). -/
def slotOf (line : List Byte) (i : Nat) : Nat := ofBytes [line.getD (2 * i) 0, line.getD (2 * i + 1) 0]

/-- The header's head count H. -/
def lineH (line : List Byte) : Nat := bits (slotOf line 0) 13 9

/-- The header's cont bit. -/
def lineCont (line : List Byte) : Bool := bit (slotOf line 0) 8

/-- The header's kind. -/
def lineKind (line : List Byte) : Nat := bits (slotOf line 0) 15 14

/-- Tail length in halfwords of head `j` (R58). -/
def tailLen (line : List Byte) (j : Nat) : Nat := 2 * (slotOf line j / 16384)

/-- Sum of the tail lengths of heads 1 to `i` (R57). -/
def tailSum (line : List Byte) : Nat → Nat
  | 0 => 0
  | i + 1 => tailSum line i + tailLen line (i + 1)

/-- The line is a valid code line apart from its kind (R56). -/
def lineValid (line : List Byte) : Bool :=
  let h := slotOf line 0
  let H := lineH line
  decide (1 ≤ H) && bits h 2 0 == 0 && bits h 7 3 == tailSum line H && decide (1 + H + tailSum line H ≤ 32)

/-- Head `i` of a line and its tail words (R57, R60). -/
def codeAt (line : List Byte) (i : Nat) : Code :=
  let start := 32 - tailSum line (i - 1) - tailLen line i
  ⟨slotOf line i, (List.range (slotOf line i / 16384)).map
    (fun k => slotOf line (start + 2 * k) + 65536 * slotOf line (start + 2 * k + 1))⟩

/-- The 64 bytes of a one-head line holding the code, with the given cont bit (R55 to R57). -/
def lineOf (c : Code) (cont : Bool) : List Byte :=
  let t := 2 * (c.head / 16384)
  let hdr := 512 + 256 * b2n cont + 8 * t
  let tail := (List.range (c.head / 16384)).flatMap (fun k => bytesOf 4 (c.tail.getD k 0))
  bytesOf 2 hdr ++ bytesOf 2 c.head ++ List.replicate (60 - 2 * t) 0 ++ tail

end Sys2Proof
end

