-- ==== Sys2Proof/Config.lean ====
section
/-! DEFINITION. What the implementation fixes and the spec leaves open: free values, opaque constants with no body, so that nothing can be proved of a value. -/

namespace Sys2Proof.Config

/-- Cycles beyond the first of the n-th draw of an unarchitected latency or of an order the spec leaves open (00 R433). -/
opaque latency : Nat → Nat

/-- The n-th draw of a byte the spec calls undefined. -/
opaque freeByte : Nat → Byte

/-- The n-th draw of a two-way choice the spec leaves open. -/
opaque freeBool : Nat → Bool

/-- Value of a special function outside Table 2-7 and the exact cases: function code, reduced precision, operand (02 R53). -/
opaque special : Nat → Bool → Word → Word


/-- Part serial of the identity record (20 R391). -/
opaque serial : Nat → Byte

/-- Version of the firmware image in package flash (20 R390, R391). -/
opaque fwver : Word

/-- Rollback counter of the configuration record, before it is held to the firmware version of a part that is READY (20 R390). -/
opaque rollback : Word

/-- Public identity key of the part (20 R391, R392). -/
opaque idkey : Nat → Byte

/-- Bytes of an SPDM response, by request kind, argument and index: their layout is DMTF's (20 R393). -/
opaque spdmByte : Nat → Nat → Nat → Byte

/-- Length of such a response. -/
opaque spdmLength : Nat → Nat → Nat

end Sys2Proof.Config
end

