-- ==== Sys2Proof/Machine/Event.lean ====
section
/-! DEFINITION. The 127 events of the opcode table as the agenda of State holds them. Each constructor names the row of `Instr` with the same name and operands, and a turn that holds it performs that row's meaning; the agenda has a type of its own because compiled Lean cannot build values of an inductive with more than 244 constructors. -/

namespace Sys2Proof.Machine

/-- An event row with its object. -/
inductive Event where
  | producerCompletion (u : Nat) (k : Nat)
  | remoteFill (u : Nat) (r : Operand) (vals : List Word)
  | pageWalk (cell : Nat) (ctx : Nat) (va : Nat)
  | cacWriteback (core : Nat) (line : Nat)
  | resultRecordAppend (u : Nat) (r : Nat)
  | issueSelect (core : Nat)
  | strandIssueSelect (sc : Nat)
  | loadLimitWindow (core : Nat)
  | sleepExpiry (u : Nat) (entry : Nat) (stamp : Nat)
  | barcSweepArrival (cl : Nat) (rect : Nat) (x : Nat) (y : Nat) (column : Bool)
  | barcSweepRelease (cl : Nat) (rect : Nat) (x : Nat) (y : Nat)
  | gridBarrierRelease (task : Nat) (core : Nat)
  | matrixEntryStart (core : Nat)
  | matrixEntryFinish (core : Nat)
  | stagingComplete (core : Nat) (k : Nat)
  | multicastWindowRead (core : Nat) (w : Nat)
  | jointOperationStart (core : Nat)
  | moveSwitch (core : Nat)
  | moveRebuild (core : Nat)
  | moveComplete (core : Nat)
  | tileFlush (core : Nat) (tile : Nat)
  | moveWaitRelease (core : Nat)
  | roleListReturn (core : Nat)
  | copy (core : Nat) (k : Nat)
  | fill (core : Nat) (k : Nat)
  | vfill (core : Nat) (k : Nat)
  | tsend (core : Nat) (k : Nat)
  | plan (core : Nat) (k : Nat)
  | planSend (core : Nat) (k : Nat) (i : Nat)
  | copyComplete (core : Nat) (k : Nat)
  | mergeOpen (die : Nat) (k : Nat)
  | mergeClose (die : Nat) (k : Nat)
  | frame (die : Nat) (k : Nat)
  | absent (die : Nat) (k : Nat)
  | sink (die : Nat) (k : Nat)
  | route (die : Nat) (k : Nat)
  | unsink (die : Nat) (k : Nat)
  | sinkRelease (die : Nat) (engine : Nat) (sink : Nat)
  | serviceAccept (die : Nat) (k : Nat)
  | rasterOpen (die : Nat) (k : Nat)
  | draw (die : Nat) (k : Nat)
  | resolve (die : Nat) (k : Nat)
  | rasterClose (die : Nat) (k : Nat)
  | clear (die : Nat) (k : Nat)
  | trace (die : Nat) (k : Nat)
  | sample (die : Nat) (k : Nat)
  | endRecord (die : Nat) (k : Nat)
  | contextEntryWake (ctx : Nat)
  | contextLeave (ctx : Nat)
  | queueTailWrite (ctx : Nat) (q : Nat)
  | placeCluster (die : Nat)
  | placeStrand (die : Nat)
  | placeSuperstepGrid (die : Nat)
  | taskRetire (task : Nat)
  | sumpTimeout (cell : Nat) (form : Nat)
  | sumpPlace (cell : Nat)
  | balancerSample (die : Nat)
  | balancerDeferredMove (die : Nat) (core : Nat)
  | faultRecordWrite (die : Nat)
  | resume (die : Nat)
  | redirect (die : Nat)
  | enter (die : Nat)
  | retire (die : Nat)
  | stop (die : Nat)
  | inval (die : Nat)
  | preempt (die : Nat)
  | restore (die : Nat)
  | migrate (die : Nat)
  | migrationResume (core : Nat)
  | freeze (die : Nat)
  | thaw (die : Nat)
  | routeUpdate (core : Nat) (u : Nat) (agent : Nat)
  | routeUpdateAck (core : Nat) (u : Nat) (agent : Nat)
  | hostSnoop (line : Nat) (inval : Bool)
  | cxlMemRequest (r : CxlReq)
  | linkRetrain (link : Nat)
  | linkUp (link : Nat)
  | linkDownTimeout (link : Nat) (stamp : Nat)
  | fabricBlockWrite (die : Nat)
  | packetForward (die : Nat) (p : Packet)
  | tilePacketArrival (die : Nat) (p : Packet)
  | nodeDeadline (die : Nat) (session : Nat) (frame : Nat) (lo : Nat) (hi : Nat)
  | leafFrameClose (die : Nat) (session : Nat) (frame : Nat)
  | keepAliveSend (die : Nat) (session : Nat)
  | keepAliveArrival (die : Nat) (p : Packet)
  | childTimeout (die : Nat) (session : Nat) (lo : Nat) (hi : Nat)
  | absentNotice (die : Nat) (p : Packet)
  | sessionClose (die : Nat) (session : Nat)
  | rootTileDelivery (die : Nat) (p : Packet)
  | frameRecord (die : Nat) (engine : Nat) (sink : Nat) (frame : Nat)
  | go (v : Word)
  | lattolWrite (die : Nat) (v : Word)
  | clklimWrite (die : Nat) (v : Word)
  | mgmtWindowWrite (off : Nat) (size : Nat) (v : Nat)
  | powerOn (die : Nat)
  | firmware (die : Nat) (fail : Nat)
  | selftest (die : Nat) (pass : Bool) (fenced : List Nat)
  | memory (die : Nat) (pass : Bool)
  | links (die : Nat) (pass key : Bool)
  | idleTimeout (die : Nat)
  | powerEntryComplete (die : Nat)
  | powerWake (die : Nat)
  | powerExitComplete (die : Nat)
  | thermalStep (die : Nat) (temp : Nat)
  | grantMapWrite (byte : Nat)
  | grantArrival (core ctx : Nat) (granted : Bool)
  | patrolScrub
  | lifetimeRecordWrite
  | getVersion
  | getCapabilities
  | negotiateAlgorithms
  | getDigests
  | getCertificate (slot : Nat)
  | challenge (slot : Nat) (nonce : Nat)
  | getMeasurements (index : Nat) (signed : Bool)
  | debugHalt (cell : Nat)
  | debugResume (cell : Nat)
  | debugStep (cell : Nat)
  | debugRead (cell : Nat)
  | debugWrite (cell : Nat)
  | commit (cell : Nat)
  | drop (cell : Nat)
  | debugRevoke (cell : Nat)
  | storeCompletion (u : Nat) (k : Nat)
  | portWordArrival (u pair : Nat) (w : Word)
  | relocationComplete (core : Nat)
  | softError (l : ErrLoc) (double : Bool)
  deriving DecidableEq, Repr

end Sys2Proof.Machine
end

