-- ==== Sys2Proof/Machine/UnitState.lean ====
section
/-! DEFINITION. The state of one unit, group or strand (01 R16, R17; 05 R93; 12 R225 to R232). A strand is held as a unit with one split of mask 1 and no v registers. -/

namespace Sys2Proof.Machine

/-- The three conditions of a full/empty bit (R24). -/
inductive Fe where
  | full | pending | empty
  deriving DecidableEq, Repr

/-- The state field of a split (Table 5-2). -/
inductive SplitSt where
  | running | ready | parked | trapped
  deriving DecidableEq, Repr

/-- The four barrier kinds with arrivals of their own (R203). -/
inductive BarKind where
  | bar | barc | gbar | voteg
  deriving DecidableEq, Repr

/-- What a parked split waits for (R15). -/
inductive Wait where
  /-- R24: until every named register is full -/
  | full (l : List Operand)
  /-- R24: until no named register has a producer pending -/
  | settled (l : List Operand)
  /-- R22: until the receive port holds a word -/
  | portWord (r : Nat)
  /-- R22: until the downstream buffer of the send port is empty -/
  | portRoom (r : Nat)
  /-- R226: until the result queue e(8+r) holds a word -/
  | result (r : Nat)
  /-- R226: until the engine of command register e(r) has a free entry -/
  | engine (r : Nat)
  /-- R132: until the earlier push of a pending result to the register has been made -/
  | push (o : Operand)
  /-- R176: until the named outstanding operations have completed -/
  | mem (ops : List Nat)
  /-- R203: at a barrier; the rectangle word of BARC, the vote and the destination of VOTEG and GBAR -/
  | barrier (k : BarKind) (rect : Word) (lanes : Mask)
  /-- R241: asleep since cycle t, until the given cycle (none: no limit), and whether an event ends it -/
  | sleep (t : Nat) (upto : Option Nat) (ev : Bool)
  /-- R232 -/
  | batch (n : Word)
  /-- R237 -/
  | poolw
  /-- R216: in Take, with the record already read -/
  | take (rec : List Byte)
  /-- R235: until fewer than 32 requests are outstanding on queue rq -/
  | svcRoom (rq : Nat) (addr : DWord)
  /-- R235: until a service accepts request k of the die, whose number is `no` -/
  | svcAccept (k : Nat) (no : Word)
  /-- R159, for an instruction with one address: the walk of the page has ended -/
  | walkFor (page : Nat) (addr : DWord)
  /-- R177: until the named requests, by die and number, have written a surface and the named operations have completed -/
  | surface (reqs : List (Nat × Nat)) (ops : List Nat)
  /-- R182, R183: until no relocation or move is in progress on the core -/
  | array
  /-- R183: until the array's queue and the team's stagings are done -/
  | arrayDrain
  /-- R190: until the array's queue has a free entry -/
  | arrayRoom
  /-- R196: at the gang barrier, with its serial number in the row -/
  | gang (count : Nat)
  /-- R30, R257: until the relocation or move that holds the space has ended -/
  | space (core : Nat)
  /-- R159: until the walks of the named pages have ended -/
  | walk (pages : List Nat)
  /-- R159: until the access this split issued is known not to fault -/
  | access (op : Nat)
  /-- R218: at the Sump -/
  | sump
  /-- R194: until the matrix instructions the group has issued have finished -/
  | matrixDone
  deriving DecidableEq, Repr

/-- A split (Table 5-2). Its mops is computed from the outstanding operations that hold its entry (R93). -/
structure Split where
  pc : DWord
  mask : Mask
  ra : Option DWord
  join : Option Nat
  st : SplitSt
  wait : Option Wait
  /-- A parked instruction has passed the stage at which its wait arose and goes on from there. -/
  stage : Nat
  /-- The split executes from strand local memory (R31). -/
  loc : Bool
  /-- The code line entered, until a transfer or a fall-through leaves it (R55, R67). -/
  line : Option (List Byte)
  /-- Pages whose walk has failed for the pending access: page address, cause, refused entry (R310). -/
  walked : List (Nat × Nat × Bool)
  /-- Lanes that the access at pc does not perform again: the done mask with which it was resumed (R161). -/
  skip : Mask
  deriving DecidableEq, Repr

/-- A join (Table 5-2). -/
structure Join where
  ra : DWord
  expect : Mask
  arrived : Mask
  raOut : Option DWord
  joinOut : Option Nat
  deriving DecidableEq, Repr

/-- An entry of the reconvergence structure in use (R93). -/
inductive Entry where
  | split (x : Split)
  | join (x : Join)
  deriving DecidableEq, Repr

/-- A loop record (R104): start and end addresses. -/
structure LoopRec where
  start : DWord
  fin : DWord
  deriving DecidableEq, Repr

/-- A trap record (R103, Table 16-3) before its delivery and, after it, while its split is parked. -/
structure TrapRec where
  cause : Nat
  entry : Nat
  lane : Nat
  pc : DWord
  addr : DWord
  done : Mask
  count : Nat
  flags : Nat
  retired : Nat
  stepped : DWord
  cycle : Nat
  /-- The die whose ring takes the record, and its unit field, both as they stood when it was raised (R305, R306). -/
  die : Nat
  unit : Nat
  /-- Where RESUME of a TRAP or BKPT goes on: the successor as the line fetched gave it (R307); none in a restored image. -/
  succ : Option DWord
  deriving DecidableEq, Repr

/-- Where a byte lies: global memory by physical address, a team's scratchpad, a core's tile store by tile × 512 + byte, a strand core's local memory. -/
inductive Place where
  | glob (pa : Nat)
  | scr (team off : Nat)
  | til (core off : Nat)
  | loc (sc off : Nat)
  deriving DecidableEq, Repr

/-- An outstanding operation of a unit: a memory instruction or a long-latency producer that has issued and not completed (R24, R93). -/
structure Op where
  instr : Instr
  pc : DWord
  lanes : Mask
  /-- Entries whose mops count the operation (R93); empty for one that is no memory instruction. -/
  holders : List Nat
  /-- Address of each participating lane as R156 forms it. -/
  addr : Tab DWord
  /-- Place of each participating lane's first byte. -/
  place : Tab Place
  /-- Data words by lane × 16 + word. -/
  data : Tab Word
  /-- Destination registers with a producer pending. -/
  dests : List Operand
  /-- Lanes or elements already committed (R161, R162). -/
  done : Mask
  count : Nat
  issued : Nat
  /-- 0 before the access is performed; 1 while its bytes are dirty in the CAC (R265); 2 while a fault holds it; 3 before its addresses are translated (R159). -/
  stage : Nat
  /-- Cause, address and refused mark of the trap that its split takes when the lanes performed have completed (R161). -/
  fault : Option (Nat × DWord × Bool)
  deriving DecidableEq, Repr

/-- One of a unit's sixteen port registers (R22, R210): its binding, the word a receive register holds, and words on their way to it. -/
structure Port where
  /-- Partner: unit number and its port register. -/
  peer : Option (Nat × Nat)
  word : Option Word
  /-- Receive side: the binding ends when the word is read (R210); of a retired upstream, its last word is on its way (R211). -/
  closing : Bool
  /-- Send side: a word has left and has not yet filled the partner's register. -/
  sent : Option Word
  deriving DecidableEq, Repr

/-- The control registers kept per group or strand and per lane (Table 1-5). -/
structure Ctl where
  trapcause : Word
  trapaddr : DWord
  trapmask : Tab Word
  fpflags : Tab Word
  /-- Bits [12:8] of ctl.fpflags, uniform in the group. -/
  mflags : Word
  round : Word
  donemask : Word
  pathsig : DWord
  retired : DWord
  lfsr : Tab Word
  deriving DecidableEq, Repr

/-- A closed or open copy batch (R231, R232): commands outstanding, the first failing address, and the runs of global bytes its commands have written. -/
structure Batch where
  left : Nat
  failed : Option DWord
  writes : List (Nat × Nat)
  deriving DecidableEq, Repr

/-- The registers of a unit. -/
structure Regs where
  /-- v registers by register × 32 + lane, unlisted ones 0. -/
  v : Tab Word
  vfe : Tab Fe
  /-- s registers, or x registers of a strand. -/
  s : Tab Word
  sfe : Tab Fe
  /-- Predicates p0 to p14; p15 reads true. -/
  p : Tab Mask
  q : Tab Port
  lc : Tab Word
  deriving DecidableEq, Repr

/-- A record of a result queue (R226, R227): its words still to be popped, the runs of global bytes it announces, and whether its first word is still there. -/
structure ResRec where
  words : List Word
  writes : List (Nat × Nat)
  fresh : Bool
  deriving DecidableEq, Repr

/-- Engine windows of a unit: assembly buffers, result queues, waiting records, batches, service requests (R226, R231, R235). -/
structure Eng where
  asm : Tab (List Word)
  res : Tab (List ResRec)
  waiting : List (Nat × ResRec)
  /-- Number the open batch will receive. -/
  batchNo : Word
  /-- Batches the unit has closed. -/
  closed : Nat
  batches : Tab Batch
  svcNo : Word
  /-- Requests outstanding by reply queue. -/
  svcOut : Tab Nat
  deriving DecidableEq, Repr

/-- What a group gathered by the Sump carries (R219, R222). -/
structure Gather where
  /-- Strand unit of each lane, by lane. -/
  strands : Tab Nat
  b : Nat
  n : Nat
  /-- Strands whose lanes have exited, each with the memory instructions of the group that were outstanding then: it retires after them (R290). -/
  leaving : List (Nat × List Nat)
  deriving DecidableEq, Repr

/-- Scheduling fields of a unit (R295). -/
structure Sched where
  age : Nat
  wait : Nat
  gapEnd : Nat
  /-- The unit may not issue before this cycle. -/
  notBefore : Nat
  deriving DecidableEq, Repr

/-- Where a unit stands and what it belongs to. -/
structure Where where
  strand : Bool
  ctx : Nat
  /-- Core ID of a group, strand-core number (die × 384 + index) of a strand. -/
  core : Nat
  /-- Group slot, or hardware thread. -/
  slot : Nat
  /-- Team of a group. -/
  team : Nat
  /-- Group index in the team. -/
  gint : Nat
  /-- Task the unit runs for. -/
  task : Nat
  deriving DecidableEq, Repr

/-- How a unit stands towards a single step (R373, R379). -/
inductive StepSt where
  | off
  /-- The next instruction to issue is the stepped one. -/
  | armed
  /-- The stepped instruction has issued from this entry at this address and has not retired: no other split issues. -/
  | issued (entry : Nat) (pc : DWord)
  deriving DecidableEq, Repr

/-- How a unit stands towards issue. -/
inductive Mode where
  /-- Resident and free to issue. -/
  | live
  /-- In handler mode (R308), entered by the entry given: only a split within the lanes given issues. -/
  | handler (entry : Nat) (lanes : Mask)
  /-- A strand gathered at the Sump or in a dispatched group (R218). -/
  | gathered
  deriving DecidableEq, Repr

/-- The state of a unit. -/
structure UnitSt where
  at_ : Where
  mode : Mode
  /-- Halted by the debug module, since a cycle (R374). -/
  halted : Option Nat
  /-- Stopped for a save, a migration or a gang stop (R313, R319, R321). -/
  stopped : Bool
  /-- Launched lanes that have not exited (R203). -/
  liveLanes : Mask
  entries : Tab Entry
  regs : Regs
  loops : Tab LoopRec
  /-- Active loops, innermost first (R105). -/
  nest : List Nat
  ctl : Ctl
  ops : Tab Op
  nextOp : Nat
  traps : List TrapRec
  /-- The record delivered and not yet answered, with its serial (R305). -/
  parked : Option (Nat × TrapRec)
  /-- The record being handled in handler mode (R243, R308). -/
  handled : Option TrapRec
  eng : Eng
  gather : Option Gather
  sched : Sched
  /-- Addresses of the group's discarded matrix entries, oldest first (R198). -/
  discarded : List DWord
  step : StepSt
  /-- Replay: records of the group's log compared or written so far (R384). -/
  replay : Nat
  /-- Committed edits of a debugger (R376). -/
  edited : Bool
  deriving DecidableEq, Repr

end Sys2Proof.Machine
end

