-- ==== Sys2Proof/Machine/CoreState.lean ====
section
/-! DEFINITION. The state of teams, clusters, tasks, S-cores, strand cores and cells (10 R180 to R200; 11 R203 to R219; 12 R228 to R238; 13; 15 R287 to R300; 16 R311 to R320; 19 R363 to R379). -/

namespace Sys2Proof.Machine

/-- A group's arrival at a barrier kind (R203, R208): the group, the rectangle word, the address of its instruction, its vote and its cycle. -/
structure Arrival where
  kind : BarKind
  unit : Nat
  rect : Word
  pc : DWord
  vote : Bool
  cycle : Nat
  deriving DecidableEq, Repr

/-- A team (R12, R13), keyed serial × 8192 + core × 16 + slot, so that no key is used twice. -/
structure Team where
  ctx : Nat
  task : Nat
  cluster : Nat
  core : Nat
  slot : Nat
  /-- Position index in the cluster. -/
  pos : Nat
  /-- Groups by id.gint. -/
  groups : List Nat
  /-- Groups the team was placed with, id.ngroups. -/
  ngroups : Nat
  regblk : Nat
  gteam : Nat
  desc : DWord
  graphics : Bool
  poolRight : Bool
  sump : Bool
  /-- Scratchpad size in bytes, first row, rows held, high-water mark (R250, R253). -/
  scrSize : Nat
  scrRow : Nat
  scrRows : Nat
  hiwater : Nat
  /-- Bytes written, every byte below `scrBase` that is not listed reading 0. -/
  scratch : Tab Byte
  /-- From this offset on an unlisted byte has no value the spec gives, and reads as the free byte of this number plus its offset (R256). -/
  scrBase : Nat
  scrDraw : Nat
  /-- Outcome of the team's latest move: none while it runs, 0 before the first (R237). -/
  poolw : Option Nat
  arrivals : List Arrival
  /-- Cycle in which the team's arrival at BARC was complete, with its rectangle. -/
  barcAt : Option (Nat × Word)
  /-- Cycle in which the team's arrival at the grid barrier was complete (R369). -/
  gridAt : Option Nat
  /-- Plan latch: offset and length (R367). -/
  latch : Option (Nat × Nat)
  /-- A PLAN has been accepted in the exchange phase of this barrier count (R366). -/
  planAt : Option Nat
  edited : Bool
  /-- Times the team has executed GANG or GANG.END (R196). -/
  gangCount : Nat
  deriving DecidableEq, Repr

/-- One BARC sweep over a rectangle (R206). Cells are named by position index. -/
structure Sweep where
  arrived : List Nat
  rowSent : List Nat
  rowIn : List Nat
  colSent : List Nat
  colIn : List Nat
  deriving DecidableEq, Repr

/-- A cluster (R13). -/
structure Cluster where
  task : Nat
  ctx : Nat
  /-- Core ID of the origin, and the shape. -/
  origin : Nat
  w : Nat
  h : Nat
  index : Nat
  /-- Team keys by position index. -/
  teams : Tab Nat
  /-- Sweeps by rectangle word. -/
  sweeps : Tab Sweep
  deriving DecidableEq, Repr

/-- Where a task waits or came from (R216, R290). -/
inductive Source where
  | queue (q : Nat)
  | pool
  deriving DecidableEq, Repr

/-- The slot an accepted task holds (R216). -/
inductive Slot where
  | none
  | ring
  | shared
  | reserve (die depth : Nat)
  /-- A reserve slot given up when the context was stopped; the task keeps its place (R322). -/
  | freed
  deriving DecidableEq, Repr

/-- The task record fields (Table 11-6). -/
structure TaskRec where
  desc : DWord
  flags : Nat
  tag : Nat
  dep0 : Nat
  dep1 : Nat
  clw : Nat
  clh : Nat
  count : Nat
  args : DWord
  /-- The record met a failure of its own, or breaks Table 11-6. -/
  bad : Bool
  deriving DecidableEq, Repr

/-- How far a task has come. -/
inductive TaskSt where
  | waiting | started | retired
  deriving DecidableEq, Repr

/-- A task, with the grid it becomes (R286 to R293). Keyed by acceptance number. -/
structure Task where
  ctx : Nat
  rec_ : TaskRec
  src : Source
  slot : Slot
  /-- Serving die, or the die whose pool holds the task. -/
  die : Nat
  depth : Nat
  st : TaskSt
  /-- The descriptor line as read at the first placement attempt (R289). -/
  desc : List Byte
  args : List Word
  /-- Clusters or strands placed. -/
  placed : Nat
  /-- Live clusters or strands. -/
  live : Nat
  units : Nat
  /-- rflags [1] (R184). -/
  mheld : Bool
  /-- Status, refusal reason and DEQ bit of its retirement record (Table 15-4). -/
  status : Nat
  reason : Nat
  deq : Bool
  /-- Barriers of the superstep grid completed, and the cycle of the last release by core (R207, R363). -/
  barriers : Nat
  lastVote : Bool
  /-- Barrier count each core has been released to, and the cycle of that release (R363, R366). -/
  phase : Tab (Nat × Nat)
  /-- Serial of a placement fault that holds the task (R289). -/
  fault : Option Nat
  deriving DecidableEq, Repr

/-! The matrix array -/

/-- Tag of a staged slot (R185). -/
inductive STag where
  | aBf16 | aF32 | bBf16 | bF32
  deriving DecidableEq, Repr

/-- A staging slot that is not empty: full or pending, its tag, its elements by line × 64 + element, and its writes so far. -/
structure StageSlot where
  full : Bool
  tag : STag
  data : Tab Nat
  version : Nat
  deriving DecidableEq, Repr

/-- An MLDA or MLDB not yet full (R185, R199). -/
structure PendStage where
  unit : Nat
  op : Nat
  slot : Nat
  instr : Instr
  pc : DWord
  /-- Address of line 0, stride and multicast tag. -/
  addr : Nat
  stride : Nat
  tag : Nat
  /-- Window that serves it (R188), as source core and window. -/
  window : Option (Nat × Nat)
  /-- Bytes read for it, when a window or a Spillway has delivered them. -/
  bytes : Option (List Byte)
  deriving DecidableEq, Repr

/-- A queue entry of the array (R190). -/
structure MEntry where
  unit : Nat
  op : Nat
  instr : Instr
  pc : DWord
  /-- Stagings numbered below this were issued before the entry (R190). -/
  seq : Nat
  /-- Cycle in which it entered, and the group slot that issued it. -/
  cycle : Nat
  slot : Nat
  deriving DecidableEq, Repr

/-- The executing entry with the operands it has read (R190, R191). -/
structure MRun where
  entry : MEntry
  a : Tab Nat
  b : Tab Nat
  fin : Nat
  deriving DecidableEq, Repr

/-- A multicast window at a source core (R188). -/
structure Window where
  team : Nat
  addr : Nat
  instr : Instr
  stride : Nat
  tag : Nat
  opened : Nat
  /-- Requesters: core and pending staging. -/
  req : List (Nat × Nat)
  deriving DecidableEq, Repr

/-- The matrix array of a core (R182 to R199). -/
structure Matrix where
  holder : Option Nat
  n : Nat
  slots : Tab StageSlot
  /-- Accumulator elements by acc × 1024 + i × 32 + j. -/
  acc : Tab Word
  queue : List MEntry
  exec : Option MRun
  latchA : Option (Nat × Nat)
  latchB : Option (Nat × Nat)
  gang : Bool
  /-- GANG.MMA instructions issued since the GANG that opened the mode (R197, Table 10-7). -/
  gangNo : Nat
  pend : Tab PendStage
  nextPend : Nat
  /-- A relocation by MRSV or MREL is in progress: true for MRSV (R182). -/
  reloc : Option (Bool × Nat)
  deriving DecidableEq, Repr

/-! The Cistern -/

/-- Role codes (R236). -/
inductive Role where
  | reg | scr | cac | til
  deriving DecidableEq, Repr

/-- Phases of a move (Table 13-3). -/
inductive Phase where
  | prepare | switch | rebuild | complete
  deriving DecidableEq, Repr

/-- A move in progress (R254). -/
structure Move where
  donor : Role
  recv : Role
  k : Nat
  team : Nat
  reloc : Bool
  wait : Bool
  flush : Bool
  phase : Phase
  since : Nat
  /-- Cycle in which the phase ends, once that is known. -/
  due : Option Nat
  /-- Tiles still to flush (R255). -/
  tiles : List Nat
  deriving DecidableEq, Repr

/-- An open tile (R327). -/
structure Tile where
  team : Nat
  home : Option (Nat × Nat × Nat)
  bpp : Nat
  data : Tab Byte
  deriving DecidableEq, Repr

/-- A CAC line (R251, R265): line number, contents, dirty bytes, stamps of last use and of the first dirty write. -/
structure CacLine where
  line : Nat
  data : Tab Byte
  dirty : Tab Bool
  used : Nat
  dirtyAt : Nat
  deriving DecidableEq, Repr

/-- The Cistern of a core (R244 to R260). -/
structure Cistern where
  reg : List Nat
  scr : List Nat
  cac : List Nat
  til : List Nat
  /-- Register block places in use: bank × 32 + place, with the owner's block. -/
  places : Tab (Nat × Nat)
  regPtr : Nat
  /-- CAC lines by set × 8 + way. -/
  lines : Tab CacLine
  tiles : Tab Tile
  move : Option Move
  /-- POOLQ items 2 and 3 by role, less what the lists of Table 13-1 with nothing in use would have given (R238). -/
  sumBanks : Tab Int
  sumBytes : Tab Int
  /-- Stamp of CAC use, for the least recently used way. -/
  stamp : Nat
  deriving DecidableEq, Repr

/-! Copy engine, translation, messages -/

/-- How a copy command stands (R229, R230). -/
inductive CmdSt where
  /-- accepted and waiting to be performed, or being performed -/
  | live
  /-- parked on PAGE_ABSENT with the serial of its fault, if written yet -/
  | parked (serial : Option Nat)
  /-- every byte written; completion outstanding -/
  | done
  deriving DecidableEq, Repr

/-- A copy command (R228), keyed by the cycle it entered × 128 + the slot of the pushing group. -/
structure CopyCmd where
  unit : Nat
  slot : Nat
  ctx : Nat
  team : Nat
  words : List Word
  batch : Word
  /-- Destination bytes written. -/
  pos : Nat
  flags : Nat
  st : CmdSt
  malformed : Bool
  /-- Fault address of a parked or failed command. -/
  addr : DWord
  /-- PAGE_PERM, or a RETIRE answer, ended the command (R230). -/
  failed : Bool
  /-- Runs of global bytes written (R227). -/
  writes : List (Nat × Nat)
  /-- PLAN: the phase's release, the entries as read at acceptance, and the sends made (R366). -/
  rel : Nat
  plan : List (List Byte)
  sends : Nat
  /-- Memory instructions of the unit that were outstanding at the command's last push (R227). -/
  after : List Nat
  deriving DecidableEq, Repr

/-- A translation held by a TLB (R310, R311): context, page address, page size log2, physical page, W and X. -/
structure Tlb where
  ctx : Nat
  va : Nat
  lg : Nat
  pa : Nat
  w : Bool
  x : Bool
  deriving DecidableEq, Repr

/-- A walk requested in a cell (R311): its context, the 4 KiB piece of memory that first asked for it, and others of the same page that wait for it. -/
structure WalkReq where
  ctx : Nat
  va : Nat
  started : Bool
  others : List Nat
  deriving DecidableEq, Repr

/-- A remote fill held at a core's interface (R25). -/
structure HeldFill where
  u : Nat
  r : Operand
  vals : List Word
  deriving DecidableEq, Repr

/-- A hold or forwarding entry (R317): the team, or the strand's unit number, that has left. -/
structure Fwd where
  unit : Nat
  /-- Destination core of a forwarding entry; none for a hold entry. -/
  dest : Option Nat
  /-- Agents that have still to acknowledge. -/
  agents : List Nat
  deriving DecidableEq, Repr

/-- Requesters of a bank's slots (Table 13-2): group accesses in slots 0 and 1, and the four that share slot 3. -/
inductive SlotClass where
  | lanes | handshake | copy | arrival | staging
  deriving DecidableEq, Repr

/-- What asks for rows of a bank: an access of a unit, a copy command or a send of a plan, a pending staging, a multicast window, a service request, or the core's own relocation or move. -/
inductive SlotOf where
  | op (u k : Nat)
  | cmd (core k : Nat)
  | pend (core n : Nat)
  | window (core n : Nat)
  | req (die k : Nat)
  | core
  deriving DecidableEq, Repr

/-- A request for rows of one bank, and how many it has still to be served (R164, R245). -/
structure SlotReq where
  who : SlotOf
  cls : SlotClass
  rows : Nat
  deriving DecidableEq, Repr

/-- What a bank has still to serve, first to last (R245): which access has had slot 0 of this frame, and the class whose turn it is in slot 3, as 0 copy, 1 arrival, 2 staging. -/
structure BankQ where
  reqs : List SlotReq
  first : Option SlotOf
  turn : Nat
  deriving DecidableEq, Repr

/-- An S-core. -/
structure Core where
  mx : Matrix
  ci : Cistern
  cmds : Tab CopyCmd
  tlb : List Tlb
  /-- Instruction cache: copies of lines, by context and line address (R240). -/
  icache : List (Nat × DWord × List Byte)
  victims : List Nat
  limit : Nat
  loads : Nat
  victimHits : Nat
  /-- Cycle from which the special-function unit accepts an instruction (R132). -/
  sfuFree : Nat
  /-- Multicast windows with this core as source (R188). -/
  windows : Tab Window
  nextWindow : Nat
  /-- Remote fills held at the interface (R25). -/
  fills : List HeldFill
  /-- Messages that arrived for stopped units, first to last (R316). -/
  spillway : List Event
  fwd : List Fwd
  sent : Word
  recv : Word
  retired : Nat
  /-- The core is being saved or migrated (R313, R319). -/
  saving : Bool
  /-- Contexts granted reduced precision as this core sees it (R397). -/
  grants : List Nat
  /-- Requests at the banks of the Cistern, by physical bank (R245). -/
  banks : Tab BankQ
  /-- Team slots and lists to return at the next chance (R248). -/
  returning : Bool
  deriving DecidableEq, Repr

/-- A strand core. -/
structure StrandCore where
  local_ : Tab Byte
  last : Nat
  itlb : List Tlb
  dtlb : List Tlb
  /-- Lines of the line cache, look-ahead included, by context and address (R240). -/
  lines : List (Nat × DWord × List Byte)
  /-- Remote fills held at the interface (R25). -/
  fills : List HeldFill
  sent : Word
  recv : Word
  retired : Nat
  saving : Bool
  fwd : List Fwd
  spillway : List Event
  grants : List Nat
  deriving DecidableEq, Repr

/-- A forming group of a Sump (R219): its key, and its lanes in order. -/
structure Forming where
  task : Nat
  desc : DWord
  j : Nat
  strands : List Nat
  /-- Cycle in which the strand of each lane arrived. -/
  times : List Nat
  /-- Cycles since the first arrival that the timeout does not count (R375). -/
  paused : Nat
  /-- The descriptor line as its first strand read it. -/
  line : List Byte
  /-- Cycle of its dispatch. -/
  sent : Nat
  deriving DecidableEq, Repr

/-- An edit that waits to be committed (R373): its unit, offset and value, and whether the unit has resumed since. -/
structure Edit where
  unit : Nat
  off : Nat
  value : DWord
  stale : Bool
  deriving DecidableEq, Repr

/-- The debug module of a cell (R371 to R379). -/
structure Debug where
  owner : Nat
  dflags : Nat
  rmode : Nat
  edits : List Edit
  /-- Units halted with a trigger, and the cycle of the halt. -/
  halted : List Nat
  /-- Copy engines of the cell are frozen. -/
  frozen : Bool
  /-- Groups traced, with the records each has emitted since its trace was switched on (R383). -/
  traced : Tab Nat
  /-- Records of this cycle still to be appended: core ID × 128 + group slot, and the 32 bytes (R382). -/
  trace : List (Nat × List Byte)
  /-- Units whose comparison has ended at a divergence (R385). -/
  diverged : List Nat
  /-- Splits that resumed from a WATCH and perform one access unwatched (R378). -/
  pass : List (Nat × Nat)
  deriving DecidableEq, Repr

/-- A cell (R5). -/
structure Cell where
  l2tlb : List Tlb
  walks : List WalkReq
  forming : Tab Forming
  nextForm : Nat
  dispatched : List Forming
  dbg : Debug
  deriving DecidableEq, Repr

end Sys2Proof.Machine
end

