-- ==== Sys2Proof/Machine/DieState.lean ====
section
/-! DEFINITION. The state of dies, contexts, the fabric and the part (14 R264; 15 R283 to R301; 16 R304 to R321; 17 R323 to R341; 18 R342 to R361; 20 R388 to R399). -/

namespace Sys2Proof.Machine

/-! Memory -/

/-- MESI state of a host-tier or CXL-tier line at its home slice (R264). -/
inductive Mesi where
  | m | e | s | i
  deriving DecidableEq, Repr

/-- An L2 line that is not in its default condition (R264, R178): its MESI state for the host and CXL tiers, whether it is newer than its memory tier, and whether the host caches it (HBM4 and LPDDR6). -/
structure L2Line where
  st : Mesi
  dirty : Bool
  host : Bool
  deriving DecidableEq, Repr

/-! Contexts -/

/-- A queue of a resident context (Table 15-2) as its serving engine holds it. -/
structure Queue where
  qcb : DWord
  /-- Physical address of the tail line, which the serving engine watches (R283). -/
  tailPa : Nat
  ring : DWord
  logsize : Nat
  deviceFed : Bool
  ret : DWord
  retlog : Nat
  /-- Records placed as the engine last read or wrote them, records removed, retirement records written. -/
  tail : Nat
  head : Nat
  retidx : Nat
  /-- The task taken as head and not fully placed (R288). -/
  current : Option Nat
  /-- Serial of a placement fault on the ring slot, 0 before it is written (R286). -/
  fault : Option Nat
  /-- The failed slot is to be removed as 64 zero bytes (R286). -/
  zero : Bool
  deriving DecidableEq, Repr

/-- A context that is resident, or is leaving (R284), with the fields of its entry (Table 15-1). -/
structure Ctx where
  dies : Nat
  taking : Bool
  ptroot : Nat
  sumpto : Nat
  lret : DWord
  lretlog : Nat
  lretidx : Nat
  queues : Tab Queue
  /-- Queue served last by the serving engine (R288). -/
  lastQueue : Nat
  deriving DecidableEq, Repr

/-! Faults and responses -/

/-- What a parked fault of a die names (R306). -/
inductive FaultOf where
  | unit (u entry : Nat)
  | copy (core cmd : Nat)
  | slot (ctx q : Nat)
  | task (t : Nat)
  deriving DecidableEq, Repr

/-- An engine or placement fault that waits to be written (R305). -/
structure EngFault where
  what : FaultOf
  ctx : Nat
  cause : Nat
  addr : DWord
  unit : Nat
  write : Bool
  refused : Bool
  cycle : Nat
  deriving DecidableEq, Repr

/-- A parked fault with its context and cause (R306, R307). -/
structure Parked where
  what : FaultOf
  ctx : Nat
  cause : Nat
  pc : DWord
  handler : Bool
  deriving DecidableEq, Repr

/-- A response that has begun and not yet taken effect (R307): its status address and its 64 bytes, with progress. -/
structure Resp where
  slot : DWord
  bytes : List Byte
  stage : Nat
  since : Nat
  /-- PREEMPT and MIGRATE: the teams, or the strand, that are leaving. -/
  targets : List Nat
  deriving DecidableEq, Repr

/-- A saved unit (R313 to R317): a team or a strand that is away stands on a core number no die has, and this says where it came from. -/
structure Saved where
  ctx : Nat
  /-- Address of its image. -/
  area : DWord
  /-- The core number of the first unit of its set. -/
  set : Nat
  strand : Bool
  /-- Key of its team, or the number the strand's unit had. -/
  unit : Nat
  /-- Core that holds its hold entry: an S-core, or 4,096 plus a strand core's number. -/
  home : Nat
  /-- Cycle in which it left. -/
  since : Nat
  /-- The unit records of its image as they were written. -/
  wrote : List (List Byte)
  deriving DecidableEq, Repr

/-! Services -/

/-- How a service request stands (R323). -/
inductive ReqSt where
  | pending | accepted | done
  deriving DecidableEq, Repr

/-- A service request (R235, R323). -/
structure Req where
  unit : Nat
  strand : Bool
  team : Nat
  core : Nat
  ctx : Nat
  svc : SvcKind
  rq : Nat
  no : Word
  packet : List Byte
  st : ReqSt
  status : Nat
  count : Nat
  aux : Nat
  /-- Word 4 of its END record (Table 17-1). -/
  where_ : Nat
  /-- Acceptance number on the die, and the cycle of acceptance. -/
  order : Nat
  accepted : Nat
  /-- Tiles it names (R327). -/
  tiles : List Nat
  /-- Surface entries read at acceptance (R326), by index. -/
  surfaces : Tab (List Byte)
  /-- Tiles, triangles, rows, rays or samples done. -/
  pos : Nat
  /-- Lines of global memory it has written, as runs of bytes (R325). -/
  writes : List (Nat × Nat)
  deriving DecidableEq, Repr

/-! Fabric -/

/-- Link states (R343). -/
inductive LinkSt where
  | down | up | retrain
  deriving DecidableEq, Repr

/-- An off-package link (R342 to R345): its state and since when, its enable bit as last acted on, its counters, the packets it holds, and those it has sent, which the other end receives. -/
structure Link where
  st : LinkSt
  since : Nat
  enabled : Bool
  retrains : Nat
  drops : Nat
  /-- Packets that wait to be sent, of each channel in order (R342). -/
  held : List Packet
  /-- Packets sent, with the bytes of their contents (R350). -/
  out : List (Packet × List Byte)
  deriving DecidableEq, Repr

/-- A command of e1 or e2 that has passed to its engine (R226, R233). -/
structure FabCmd where
  unit : Nat
  ctx : Nat
  words : List Word
  /-- Memory instructions of the unit that were outstanding at its last push (R227). -/
  after : List Nat
  deriving DecidableEq, Repr

/-- A node [lo, hi) of a session on its host die (R348 to R355). -/
structure Node where
  lo : Nat
  hi : Nat
  /-- The left and the right child has been declared absent. -/
  absentL : Bool
  absentR : Bool
  /-- Last cycle heard from each child, and the link it came on. -/
  heardL : Nat
  heardR : Nat
  linkL : Option Nat
  linkR : Option Nat
  /-- Frames closed at the node. -/
  closed : List Nat
  /-- Tiles emitted: frame, x, y. -/
  emitted : List (Nat × Nat × Nat)
  deriving DecidableEq, Repr

/-- A frame begun on a die (R352). -/
structure Frame where
  no : Nat
  start : Nat
  budget : Nat
  step : Nat
  /-- Begun late, with its deadlines already passed. -/
  passed : Bool
  /-- It has closed on the die. -/
  closed : Bool
  deriving DecidableEq, Repr

/-- A merge session on a die (R346 to R357). -/
structure Session where
  ctx : Nat
  op : Nat
  n : Nat
  rank : Nat
  tx0 : Nat
  ty0 : Nat
  tw : Nat
  th : Nat
  dnode : Nat
  engine : Nat
  sink : Nat
  rtab : DWord
  ranks : List Nat
  slots : Nat
  nodes : List Node
  frames : List Frame
  highest : Option Nat
  /-- Packets held in its tile buffers. -/
  held : List TilePacket
  /-- Tiles this die has sent: frame, x, y. -/
  sent : List (Nat × Nat × Nat)
  /-- Ranks declared absent on the die. -/
  absent : List Nat
  closing : Option FabCmd
  late : Nat
  dup : Nat
  framesClosed : Nat
  /-- Cycle in which it was opened. -/
  opened : Nat
  deriving DecidableEq, Repr

/-- A frame being delivered to a sink (R361). -/
structure SinkFrame where
  frame : Nat
  session : Nat
  /-- Binding of the sink under which it came, and whether its record has been posted before. -/
  epoch : Nat
  again : Bool
  /-- Root tiles still to be delivered. -/
  left : Nat
  /-- Tiles written. -/
  tiles : Nat
  incomplete : Nat
  firstmiss : Nat
  maxmiss : Nat
  deadline : Bool
  clipped : Bool
  lost : Bool
  done : Bool
  deriving DecidableEq, Repr

/-- A bound sink (R359 to R361). -/
structure Sink where
  ctx : Nat
  base : DWord
  width : Nat
  height : Nat
  format : Nat
  pitch : Nat
  /-- Unit that receives frame records, and its reply queue. -/
  endpoint : Nat
  rq : Nat
  route : Option Nat
  /-- Bindings so far, and the cycle in which the session bound was opened: frames are numbered within one binding. -/
  epoch : Nat
  opened : Nat
  frames : List SinkFrame
  /-- Newest frame written at each tile position: x, y, frame. -/
  newest : List (Nat × Nat × Nat)
  /-- Lines written, which its frame records announce. -/
  lines : List Nat
  /-- Number of the latest frame of this binding whose record has been posted. -/
  posted : Option Nat
  releasing : Option FabCmd
  deriving DecidableEq, Repr

/-! The balancer -/

/-- A stage of a pipeline (Table 17-11) with its cores, hot count and a core marked to leave for another stage. -/
structure PipeStage where
  queue : Nat
  hi : Nat
  lo : Nat
  cores : List Nat
  hot : Nat
  leaving : List (Nat × Nat)
  deriving DecidableEq, Repr

/-- A pipeline set up on a die (R341). -/
structure Pipeline where
  ctx : Nat
  index : Nat
  stages : List PipeStage
  deriving DecidableEq, Repr

/-! Power -/

/-- Power states (R394). -/
inductive PState where
  | s0 | s1 | s2 | s3
  deriving DecidableEq, Repr

/-- Power and clock of a die (R394 to R396). -/
structure Power where
  st : PState
  /-- State being entered. -/
  entering : Option PState
  exiting : Bool
  /-- A wake arrived during the entry. -/
  wake : Bool
  idleSince : Nat
  lattol : Nat
  clklim : Nat
  thermal : Nat
  /-- Clock steps in force since the latest frame boundary (R396). -/
  steps : Nat
  temp : Nat
  /-- Cycles since bring-up that the die has spent outside S0. -/
  slept : Nat
  /-- Cycle by which the bring-up in progress ends (R390). -/
  upBy : Nat
  /-- Cycle at which traffic for the die's memory was last held for want of its power (R395). -/
  asked : Option Nat
  deriving DecidableEq, Repr

/-- Bring-up step a die has reached (R390). -/
inductive BringUp where
  | off | firmware | selftest | memory | links | ready | fenced
  deriving DecidableEq, Repr

/-- A die. -/
structure Die where
  bring : BringUp
  /-- Units fenced by self-test: S-core i as i = 12 × row + column, strand core i as 96 + i, L2 slice i as 480 + i, then rasterisers from 560, traversal units from 568, texture filter units from 576, scan-out engines from 600 and HBM4 stacks from 604. -/
  fenced : List Nat
  power : Power
  /-- Queue engine pointers (R288, R291, R293). -/
  diePtr : Nat
  threadPtr : Nat
  ctxPtr : Nat
  /-- Superstep grids that wait at heads of this engine, in the order in which they began to wait (R292). -/
  holdFor : List Nat
  /-- Cycle of the engine's latest placement (R288). -/
  placedAt : Option Nat
  serial : Nat
  waiting : List EngFault
  parked : Tab Parked
  resps : List Resp
  frozen : Bool
  /-- Messages held at the interfaces of a frozen or sleeping die, first to last (R321, R394, R395). -/
  held : List Event
  reqs : Tab Req
  nextReq : Nat
  nextOrder : Nat
  mergeCmds : Tab FabCmd
  scanCmds : Tab FabCmd
  sessions : Tab Session
  /-- Sessions that have closed, by the ID they last had: late packets are still counted there (R354). -/
  ended : Tab Session
  sinks : Tab Sink
  sinkDrops : Tab Nat
  nodeId : Option Nat
  routes : Tab Nat
  pipes : List Pipeline
  grants : List Nat
  deriving DecidableEq, Repr

/-! The part -/

/-- Phases of STATUS (Table 20-2). -/
inductive MPhase where
  | firmware | selftest | memory | links | ready | running | failed
  deriving DecidableEq, Repr

/-- What SPDM has agreed so far, and its latest response (R393). -/
structure Spdm where
  version : Bool
  caps : Bool
  algs : Bool
  /-- Asymmetric algorithms and digests that the requester's latest NEGOTIATE_ALGORITHMS offers, as they stand in the DOE mailbox. -/
  asym : Nat
  hash : Nat
  response : List Byte
  deriving DecidableEq, Repr

/-- Correction counters of a die in the lifetime record (R398, Table 20-4). -/
structure Corrected where
  hbm : Nat
  l2 : Nat
  cistern : Nat
  local_ : Nat
  parity : Nat
  uncorrected : Nat
  deriving DecidableEq, Repr

/-- Forms of supply, as the identity record numbers them (R6, R391). -/
inductive Form where
  | die | package | module
  deriving DecidableEq, Repr

/-- What package flash holds for bring-up: the version of the firmware image, and the configuration record (R390). The clock
ceiling, in MHz, stands here as the record has it: R396 gives the clock without it. -/
structure Flash where
  fwver : Word
  rollback : Word
  ceiling : Nat
  /-- Units found to fail in manufacture, by die, numbered as self-test numbers them. -/
  fenced : Tab (List Nat)
  deriving DecidableEq, Repr

/-- An HDM decoder: host addresses from `base` on are the device's physical addresses from `dpa` on (R386). -/
structure Hdm where
  base : Nat
  size : Nat
  dpa : Nat
  deriving DecidableEq, Repr

/-- The data that answer a host's read, and whether they carry poison (R386, R398). -/
structure CxlAnswer where
  pa : Nat
  data : List Byte
  poison : Bool
  deriving DecidableEq, Repr

/-- The CXL device as the host sees it (R386): configuration space, the HDM decoders by number, and the latest answer to a CXL.mem read. -/
structure Cxl where
  cfg : Tab Byte
  hdm : Tab Hdm
  answer : Option CxlAnswer
  deriving DecidableEq, Repr

/-- The management window, identity and lifetime state (R388 to R399). -/
structure Mgmt where
  form : Form
  /-- HBM4 stacks attached to a die supplied alone, one or two (R434). -/
  attached : Nat
  /-- GB of LPDDR6 attached to each die (R7). -/
  lpddr : Tab Nat
  flash : Flash
  cxl : Cxl
  phase : MPhase
  nokey : Bool
  fail : Nat
  ctxbase : Nat
  ident : Tab Byte
  /-- The two copies of the lifetime record in flash. -/
  lifeA : Tab Byte
  lifeB : Tab Byte
  hours : Nat
  boots : Nat
  corrected : Tab Corrected
  retrains : Tab Nat
  walks : Nat
  qfull : Nat
  spdm : Spdm
  deriving DecidableEq, Repr

/-! Turns -/

/-- What the machine does next: a unit's issue, an event of the part, or an act of the outside world that is no row of the opcode table. -/
inductive Turn where
  /-- the unit issues the next instruction of its running split -/
  | issue (u : Nat)
  /-- an event of the opcode table -/
  | event (i : Event)
  /-- the host writes host or CXL memory that it owns (R264) -/
  | hostWrite (pa : Nat) (data : List Byte)
  /-- the host backs a run of host or CXL addresses, or no longer does (R261) -/
  | hostBacks (pa n : Nat) (on : Bool)
  /-- a link sends what the buffers at its receiving end have room for (R342) -/
  | linkSend (link : Nat)
  /-- a TLB entry of a core, strand core or cell is evicted (R311) -/
  | evict (place : Nat) (index : Nat)
  /-- an instruction-cache line of a core is evicted -/
  | evictLine (core : Nat) (index : Nat)
  /-- a slice gives up its copy of a line of a host tier: DirtyEvict or CleanEvict (R386) -/
  | evictSlice (line : Nat)
  /-- the host writes configuration space (R386) -/
  | cfgWrite (off : Nat) (data : List Byte)
  /-- the host programs an HDM decoder (R386) -/
  | hdmWrite (index : Nat) (x : Hdm)
  /-- a CXL.mem request at the host's own addresses (R386) -/
  | hostMem (r : CxlReq)
  /-- the requester puts the algorithms that it offers into the DOE mailbox (R393) -/
  | spdmOffer (asym hash : Nat)
  /-- an SPDM request other than those of the opcode table (R393) -/
  | spdmOther (code : Nat)
  deriving DecidableEq, Repr

end Sys2Proof.Machine
end

