-- ==== Sys2Proof/Machine/State.lean ====
section
/-! DEFINITION. The state of the machine, its stops, and the machine right after bring-up. -/

namespace Sys2Proof.Machine

/-- A stop at an access or an act that the spec gives no effect. -/
inductive Fault where
  /-- raised by the step when the agenda names a unit that does not exist; safe -/
  | noUnit (u : Nat)
  deriving DecidableEq, Repr

/-- A stop for want of a meaning. -/
inductive Refusal where
  /-- raised by an arm of exec whose instruction has no meaning yet; safe -/
  | notModelled (mnemonic : String)
  deriving DecidableEq, Repr

/-- The state of the package and of what the outside world has in train for it. -/
structure State where
  /-- Core-clock cycles since bring-up of die 0 (R1, R320). -/
  now : Nat
  /-- Turns of this cycle still to take, first to last. -/
  agenda : List Turn
  /-- Turns of later cycles, with the cycle each is due; outside inputs stand here from the start. -/
  calendar : List (Nat × Turn)
  /-- Unit whose instruction is being performed. -/
  actor : Option Nat
  /-- Draws of the free values made so far (the model's own counter). -/
  draws : Nat
  /-- Bytes as the home slices perform them, by physical address (R263, R273). -/
  mem : Tab Byte
  l2 : Tab L2Line
  /-- Poisoned 64-bit words by physical address / 8 (R398). -/
  poison : Tab Bool
  /-- Poisoned words outside global memory: the struck location (R398). -/
  struck : List ErrLoc
  /-- Single-bit errors of global memory that nothing has read yet (R398). -/
  latent : List ErrLoc
  units : Tab UnitSt
  teams : Tab Team
  /-- Teams placed so far. -/
  nextTeam : Nat
  clusters : Tab Cluster
  nextCluster : Nat
  tasks : Tab Task
  nextTask : Nat
  cores : Tab Core
  scores : Tab StrandCore
  cells : Tab Cell
  dies : Tab Die
  ctxs : Tab Ctx
  /-- Saved units by the core number each stands on while it is away, and the next such number. -/
  saved : Tab Saved
  nextSaved : Nat
  /-- Runs of host and CXL addresses that the host does not back (R261): base and length. -/
  unbacked : List (Nat × Nat)
  links : Tab Link
  mgmt : Mgmt
  /-- Dies in S3 whose memory the turn in progress has asked for (R395). -/
  deep : List Nat
  deriving DecidableEq, Repr

/-! The parts after bring-up. Unlisted cores, strand cores, cells, dies and links read as these. -/

/-- The matrix array of a core after bring-up: free (R182). -/
def Matrix.initial : Matrix :=
  { holder := none, n := 0, slots := [], acc := [], queue := [], exec := none, latchA := none, latchB := none,
    gang := false, gangNo := 0, pend := [], nextPend := 0, reloc := none }

/-- The Cistern after bring-up (Table 13-1). -/
def Cistern.initial : Cistern :=
  { reg := List.range 24, scr := (List.range 12).map (· + 24), cac := (List.range 8).map (· + 36),
    til := (List.range 4).map (· + 44), places := [], regPtr := 0, lines := [], tiles := [], move := none,
    sumBanks := [], sumBytes := [], stamp := 0 }

/-- An S-core after bring-up: Table 13-1, load limit 128 (R298). -/
def Core.initial : Core :=
  { mx := Matrix.initial, ci := Cistern.initial, cmds := [], tlb := [], icache := [], victims := [],
    limit := 128, loads := 0, victimHits := 0, sfuFree := 0, windows := [], nextWindow := 0, fills := [], spillway := [], fwd := [],
    sent := 0, recv := 0, retired := 0, saving := false, grants := [], banks := [], returning := false }

/-- A strand core after bring-up: its first issue considers thread 0 first. -/
def StrandCore.initial : StrandCore :=
  { local_ := [], last := 3, itlb := [], dtlb := [], lines := [], fills := [], sent := 0, recv := 0,
    retired := 0, saving := false, fwd := [], spillway := [], grants := [] }

/-- A cell after bring-up. -/
def Cell.initial : Cell :=
  { l2tlb := [], walks := [], forming := [], nextForm := 0, dispatched := [],
    dbg := { owner := 0, dflags := 0, rmode := 0, edits := [], halted := [], frozen := false, traced := [], trace := [],
               diverged := [], pass := [] } }

/-- A die after bring-up (R291, R293, R344, Table 20-1). -/
def Die.initial : Die :=
  { bring := .ready, fenced := [],
    power := { st := .s0, entering := none, exiting := false, wake := false, idleSince := 0, lattol := 0,
               clklim := 0, thermal := 0, steps := 0, temp := 25, slept := 0, upBy := 0,
               asked := none },
    diePtr := 3, threadPtr := 1535, ctxPtr := 65535, holdFor := [], placedAt := none, serial := 0, waiting := [], parked := [],
    resps := [], frozen := false, held := [], reqs := [], nextReq := 0, nextOrder := 0, mergeCmds := [],
    scanCmds := [], sessions := [], ended := [], sinks := [], sinkDrops := [], nodeId := none, routes := [],
    pipes := [], grants := [] }

/-- A link after bring-up: DOWN, last read with its enable bit 0 (R344). -/
def Link.initial : Link :=
  { st := .down, since := 0, enabled := false, retrains := 0, drops := 0, held := [], out := [] }

/-- No correction yet. -/
def Corrected.initial : Corrected := ⟨0, 0, 0, 0, 0, 0⟩

/-- Package flash of a part that has reached READY: the firmware's version is not below the rollback counter (R390); no unit
failed in manufacture, and the clock ceiling is the full clock. DESIGN CHOICE. -/
def Flash.initial : Flash :=
  { fwver := Config.fwver, rollback := if Config.rollback ≤ Config.fwver then Config.rollback else Config.fwver, ceiling := 1750, fenced := [] }

/-- The identity record of a whole module (Table 20-3): version 1, form 2, both host ports, every unit of four dies. -/
def identInitial : Tab Byte :=
  let die (d : Nat) : List (Nat × Nat) :=
    (List.range 12).map (fun i => (32 + 32 * d + i, 255)) ++
      [(44 + 32 * d, 128), (45 + 32 * d, 1), (46 + 32 * d, 80), (47 + 32 * d, 8), (48 + 32 * d, 8),
       (49 + 32 * d, 24), (50 + 32 * d, 4), (51 + 32 * d, 2), (52 + 32 * d, 128), (55 + 32 * d, 1)]
  let fixed (l : List (Nat × Nat)) : Tab Byte := l.map (fun e => (e.1, BitVec.ofNat 8 e.2))
  fixed [(0, 1), (2, 2), (3, 1)] ++ (List.range 8).map (fun i => (4 + i, Config.serial i)) ++
    (bytesOf 4 Flash.initial.fwver.toNat ++ bytesOf 4 Flash.initial.rollback.toNat).zipIdx.map (fun e => (12 + e.2, e.1)) ++
    fixed ((die 0 ++ die 1) ++ (die 2 ++ die 3)) ++ (List.range 97).map (fun i => (160 + i, Config.idkey i))

/-- The management window after bring-up (Table 20-1) of an S4M module with 256 GB of LPDDR6 on each die: the form is a DESIGN CHOICE. -/
def Mgmt.initial : Mgmt :=
  { form := .module, attached := 2, lpddr := [(0, 256), (1, 256), (2, 256), (3, 256)], flash := Flash.initial,
    cxl := { cfg := [], hdm := [], answer := none }, phase := .ready, nokey := false, fail := 0, ctxbase := 0, ident := identInitial, lifeA := [], lifeB := [],
    hours := 0, boots := 1, corrected := [], retrains := [], walks := 0, qfull := 0,
    spdm := { version := false, caps := false, algs := false, asym := 0, hash := 0, response := [] } }

/-- The machine right after bring-up (R390): phase READY, nothing resident, memory zeroed. -/
def State.reset : State :=
  { now := 0, agenda := [], calendar := [], actor := none, draws := 0, mem := [], l2 := [], poison := [], struck := [], latent := [],
    units := [], teams := [], nextTeam := 0, clusters := [], nextCluster := 0, tasks := [], nextTask := 0, cores := [], scores := [],
    cells := [], dies := [], ctxs := [], saved := [], nextSaved := 65536, unbacked := [], links := [], mgmt := Mgmt.initial, deep := [] }

end Sys2Proof.Machine
end

