-- ==== Sys2Proof/Machine/Access.lean ====
section
/-! DEFINITION. Names and numbers of the parts of the package, reads and writes of the parts of State, and the agenda (00 R2 to R6; 01 R19). -/

namespace Sys2Proof.Machine

/-! Numbers (R4, R5, Table 1-3) -/

/-- Unit number of the group in a slot of a core. -/
def groupUid (core slot : Nat) : Nat := core * 128 + slot

/-- Unit number of the strand id.strand. -/
def strandUid (id : Nat) : Nat := 65536 + id

/-- Die of a core ID. -/
def coreDie (c : Nat) : Nat := c / 128

/-- Row of a core ID. -/
def coreRow (c : Nat) : Nat := c / 16 % 8

/-- Column of a core ID. -/
def coreCol (c : Nat) : Nat := c % 16

/-- Core ID of a die, row and column. -/
def coreId (die row col : Nat) : Nat := die * 128 + row * 16 + col

/-- Core index 12 × row + column on its die. -/
def coreIndex (c : Nat) : Nat := 12 * coreRow c + coreCol c

/-- Core ID of core index i of a die. -/
def coreOfIndex (die i : Nat) : Nat := coreId die (i / 12) (i % 12)

/-- A cell is named die × 24 + cell number; the cell of an S-core (R5). -/
def cellOfCore (c : Nat) : Nat := coreDie c * 24 + 6 * (coreRow c / 2) + coreCol c / 2

/-- The cell of a strand core, named die × 384 + index. -/
def cellOfScore (sc : Nat) : Nat := sc / 16

/-- The S-cores of a cell, in ascending core ID. -/
def coresOfCell (cell : Nat) : List Nat :=
  let d := cell / 24
  let r := 2 * (cell % 24 / 6)
  let c := 2 * (cell % 6)
  [coreId d r c, coreId d r (c + 1), coreId d (r + 1) c, coreId d (r + 1) (c + 1)]

/-! Parts of the state -/

namespace State

def unit? (s : State) (u : Nat) : Option UnitSt := Tab.find? s.units u
def putUnit (s : State) (u : Nat) (x : UnitSt) : State := { s with units := Tab.put s.units u x }
def modUnit (s : State) (u : Nat) (f : UnitSt → UnitSt) : State := { s with units := Tab.modify s.units u f }
/-- Rewrites every unit. -/
def mapUnits (s : State) (f : Nat → UnitSt → UnitSt) : State :=
  { s with units := s.units.map (fun (e : Nat × UnitSt) => (e.1, f e.1 e.2)) }
def team? (s : State) (t : Nat) : Option Team := Tab.find? s.teams t
def putTeam (s : State) (t : Nat) (x : Team) : State := { s with teams := Tab.put s.teams t x }
def modTeam (s : State) (t : Nat) (f : Team → Team) : State := { s with teams := Tab.modify s.teams t f }
def cluster? (s : State) (k : Nat) : Option Cluster := Tab.find? s.clusters k
def modCluster (s : State) (k : Nat) (f : Cluster → Cluster) : State := { s with clusters := Tab.modify s.clusters k f }
def task? (s : State) (t : Nat) : Option Task := Tab.find? s.tasks t
def modTask (s : State) (t : Nat) (f : Task → Task) : State := { s with tasks := Tab.modify s.tasks t f }
def core (s : State) (c : Nat) : Core := Tab.get Core.initial s.cores c
def putCore (s : State) (c : Nat) (x : Core) : State := { s with cores := Tab.put s.cores c x }
def modCore (s : State) (c : Nat) (f : Core → Core) : State := s.putCore c (f (s.core c))
def score (s : State) (c : Nat) : StrandCore := Tab.get StrandCore.initial s.scores c
def modScore (s : State) (c : Nat) (f : StrandCore → StrandCore) : State :=
  { s with scores := Tab.put s.scores c (f (s.score c)) }
def cell (s : State) (c : Nat) : Cell := Tab.get Cell.initial s.cells c
def modCell (s : State) (c : Nat) (f : Cell → Cell) : State := { s with cells := Tab.put s.cells c (f (s.cell c)) }
def die (s : State) (d : Nat) : Die := Tab.get Die.initial s.dies d
def modDie (s : State) (d : Nat) (f : Die → Die) : State := { s with dies := Tab.put s.dies d (f (s.die d)) }
def ctx? (s : State) (c : Nat) : Option Ctx := Tab.find? s.ctxs c
def modCtx (s : State) (c : Nat) (f : Ctx → Ctx) : State := { s with ctxs := Tab.modify s.ctxs c f }
def link (s : State) (k : Nat) : Link := Tab.get Link.initial s.links k
def modLink (s : State) (k : Nat) (f : Link → Link) : State := { s with links := Tab.put s.links k (f (s.link k)) }
def modMx (s : State) (c : Nat) (f : Matrix → Matrix) : State := s.modCore c (fun k => { k with mx := f k.mx })
def modCi (s : State) (c : Nat) (f : Cistern → Cistern) : State := s.modCore c (fun k => { k with ci := f k.ci })
def modDebug (s : State) (c : Nat) (f : Debug → Debug) : State := s.modCell c (fun k => { k with dbg := f k.dbg })

/-- Takes a turn later in this cycle. -/
def soon (s : State) (t : Turn) : State := { s with agenda := s.agenda ++ [t] }

/-- Takes a turn in d cycles. -/
def later (s : State) (d : Nat) (t : Turn) : State := { s with calendar := s.calendar ++ [(s.now + d, t)] }

/-- Takes an event after an unarchitected number of cycles, at least one (R433). -/
def laterFree (s : State) (i : Event) : State :=
  { s with calendar := s.calendar ++ [(s.now + 1 + Config.latency s.draws, .event i)], draws := s.draws + 1 }

/-- The event stands in the calendar or the agenda. -/
def planned (s : State) (i : Event) : Bool :=
  s.calendar.any (fun e => decide (e.2 = .event i)) || s.agenda.any (fun t => decide (t = .event i))

/-- Plans an event unless it is planned already. -/
def laterOnce (s : State) (i : Event) : State := if s.planned i then s else s.laterFree i

end State

/-! Units -/

namespace UnitSt

/-- The split at entry e. -/
def split? (un : UnitSt) (e : Nat) : Option Split :=
  match Tab.find? un.entries e with
  | some (.split x) => some x
  | _ => none

/-- Rewrites the split at entry e. -/
def modSplit (un : UnitSt) (e : Nat) (f : Split → Split) : UnitSt :=
  match un.split? e with
  | some x => { un with entries := Tab.put un.entries e (.split (f x)) }
  | none => un

/-- Every split with its entry. -/
def splits (un : UnitSt) : List (Nat × Split) :=
  un.entries.filterMap (fun x => match x.2 with | .split y => some (x.1, y) | .join _ => none)

/-- The running split (R95). -/
def running (un : UnitSt) : Option (Nat × Split) :=
  (un.splits.filter (fun x => decide (x.2.st = .running))).head?

/-- mops of entry e: the outstanding memory instructions that it counts (R93). -/
def mops (un : UnitSt) (e : Nat) : Nat := (un.ops.filter (fun o => o.2.holders.contains e)).length

/-- The core that holds the unit is an S-core; its die. -/
def die (un : UnitSt) : Nat := if un.at_.strand then un.at_.core / 384 else coreDie un.at_.core

/-- Its cell. -/
def cell (un : UnitSt) : Nat := if un.at_.strand then cellOfScore un.at_.core else cellOfCore un.at_.core

/-- id.strand of a strand. -/
def strandId (un : UnitSt) : Nat := un.at_.core * 4 + un.at_.slot

end UnitSt

/-- Counts a message sent by the core of a unit (R27). -/
def countSent (s : State) (un : UnitSt) : State :=
  if un.at_.strand then s.modScore un.at_.core (fun c => { c with sent := c.sent + 1 })
  else s.modCore un.at_.core (fun c => { c with sent := c.sent + 1 })

/-- Counts a message received by the core of a unit (R27). -/
def countRecv (s : State) (un : UnitSt) : State :=
  if un.at_.strand then s.modScore un.at_.core (fun c => { c with recv := c.recv + 1 })
  else s.modCore un.at_.core (fun c => { c with recv := c.recv + 1 })

end Sys2Proof.Machine
end

