-- ==== Sys2Proof/Machine/Memory.lean ====
section
/-! DEFINITION. Global memory at its home slices, the CAC role, and the wakes that writes give (14 R261 to R265, R273, R276; 15 R283; 16 R304; 18 R344; 19 R371; 20 R397, R398). -/

namespace Sys2Proof.Machine

/-- The canonical form of memory: addresses strictly rising, and no byte listed that reads as an unlisted one, which is 0 (R390). -/
def Memory.wf (m : List Host.Cell) : Bool := Tab.wf 0 m

/-! Tiers (Table 14-1) -/

/-- The tier of a physical address. -/
inductive Tier where
  | hbm (d : Nat)
  | lpddr (d : Nat)
  | cxl
  | host
  deriving DecidableEq, Repr

/-- A field of the identity record, little-endian (Table 20-3). -/
def identField (s : State) (off n : Nat) : Nat :=
  ofBytes ((List.range n).map (fun i => Tab.get 0 s.mgmt.ident (off + i)))

/-- Tier of a populated physical address; none when it is reserved or unpopulated (R261, R391). -/
def tierOf (s : State) (pa : Nat) : Option Tier :=
  if pa < 2 ^ 39 then
    if pa % 2 ^ 37 < identField s (52 + 32 * (pa / 2 ^ 37)) 2 * 10 ^ 9 then some (.hbm (pa / 2 ^ 37)) else none
  else if pa < 2 ^ 40 then none
  else if pa < 2 ^ 41 then
    if pa % 2 ^ 38 < identField s (54 + 32 * ((pa - 2 ^ 40) / 2 ^ 38)) 2 * 10 ^ 9 then
      some (.lpddr ((pa - 2 ^ 40) / 2 ^ 38)) else none
  else if pa < 2 ^ 44 then none
  else if pa < 2 ^ 46 then some .cxl
  else if pa < 2 ^ 48 then some .host
  else none

/-- log2 of the page size of a tier. -/
def Tier.pageLog : Tier → Nat
  | .hbm _ => 21
  | .lpddr _ => 16
  | .cxl => 16
  | .host => 12

/-- The tier is reached through the host (R264). -/
def Tier.viaHost : Tier → Bool
  | .cxl | .host => true
  | _ => false

/-- Die of the slices that home a line: the tier's die, and die 0 for host and CXL memory. -/
def homeDie (pa : Nat) : Nat :=
  if pa < 2 ^ 39 then pa / 2 ^ 37 else if pa < 2 ^ 41 then (pa - 2 ^ 40) / 2 ^ 38 % 4 else 0

/-- The procedure HomeSlice over n slices (R263). -/
def sliceOf (pa n : Nat) : Nat :=
  let x := pa / 128 % 2 ^ 41
  ((x % 65536 ^^^ x / 65536 % 65536 ^^^ x / 2 ^ 32) * n) / 65536

/-- The home slice of a line on its die; the lines of a fenced slice are homed on the slices that remain (R263, R391). -/
def homeSlice (s : State) (pa : Nat) : Nat :=
  let k := sliceOf pa 80
  let gone := (s.die (homeDie pa)).fenced
  if gone.contains (480 + k) then
    let left := (List.range 80).filter (fun i => !gone.contains (480 + i))
    left.getD (sliceOf pa left.length) k
  else k

/-- Row and column of a slice (Table 14-2). -/
def slicePos (k : Nat) : Nat × Nat :=
  if k < 4 then (0, 3 * k) else if k < 76 then ((k - 4) / 12 + 1, (k - 4) % 12) else (7, 3 * (k - 76))

/-- The core at whose mesh stop a line's home slice sits (R263). -/
def homeCore (s : State) (pa : Nat) : Nat :=
  let p := slicePos (homeSlice s pa)
  coreId (homeDie pa) p.1 p.2

/-! Wakes -/

/-- Dies in ascending order. -/
def dies4 : List Nat := [0, 1, 2, 3]

/-- Operation of the response at rhead of die d's ring, as an event of that die (R307, Table 16-5). -/
def responseEvent (d op : Nat) : Event :=
  match op with
  | 2 => .redirect d | 3 => .enter d | 4 => .retire d | 5 => .stop d | 6 => .inval d | 7 => .preempt d
  | 8 => .restore d | 9 => .migrate d | 10 => .freeze d | 11 => .thaw d | _ => .resume d

/-- Base of the context table. -/
def State.tableBase (s : State) : Nat := s.mgmt.ctxbase

/-- Events that a write of the byte at pa performed at its home slice wakes (R283, R286, R304, R305, R344, R371, R397). -/
def wakes (s : State) (pa : Nat) : List Event :=
  if s.mgmt.phase ≠ .running then [] else
  let o := pa - s.tableBase
  (if pa < s.tableBase then []
   else if o < 0x1000000 then [.contextEntryWake (o / 256)]
   else if o < 0x1004000 then
     let d := (o - 0x1000000) / 0x1000
     if o % 0x1000 < 64 then [.faultRecordWrite d]
     else if 128 ≤ o % 0x1000 ∧ o % 0x1000 < 192 then [.faultRecordWrite d, .resume d] else []
   else if 0x1008000 ≤ o ∧ o < 0x100C000 then
     if o % 0x1000 < 64 then [.fabricBlockWrite ((o - 0x1008000) / 0x1000)] else []
   else if 0x1010000 ≤ o ∧ o < 0x1028000 then
     if o % 0x400 < 128 then [.debugHalt ((o - 0x1010000) / 0x400)] else []
   else if 0x1028000 ≤ o ∧ o < 0x102A000 then [.grantMapWrite (o - 0x1028000)]
   else []) ++
  s.ctxs.flatMap (fun c => c.2.queues.filterMap (fun q =>
    if !q.2.deviceFed && decide (q.2.tailPa / 64 = pa / 64) then some (.queueTailWrite c.1 q.1) else none))

/-! The slices -/

/-- A byte as its home slice holds it (R273). -/
def rd8 (s : State) (pa : Nat) : Byte := Tab.get 0 s.mem pa

/-- Bytes from a physical address upward. -/
def rdBytes (s : State) (pa n : Nat) : List Byte := (List.range n).map (fun i => rd8 s (pa + i))

/-- A little-endian number of n bytes. -/
def rdNat (s : State) (pa n : Nat) : Nat := ofBytes (rdBytes s pa n)

/-- The host does not back the address: it answers a read with poison and refuses a write (R261). -/
def unbackedAt (s : State) (pa : Nat) : Bool :=
  s.unbacked.any (fun r => decide (r.1 ≤ pa) && decide (pa < r.1 + r.2)) &&
    (match tierOf s pa with | some t => t.viaHost | none => false)

/-- Whether any of the 64-bit words that hold the bytes is poisoned, or comes with poison from the host (R261, R398). -/
def poisoned (s : State) (pa n : Nat) : Bool :=
  (List.range ((pa + n - 1) / 8 - pa / 8 + 1)).any (fun i =>
    Tab.get false s.poison (pa / 8 + i) || unbackedAt s (8 * (pa / 8 + i)))

/-- An L2 line in its default condition: invalid for a host tier, clean, not cached by the host. -/
def L2Line.initial : L2Line := ⟨.i, false, false⟩

/-- The L2 line of a line number. -/
def l2Line (s : State) (line : Nat) : L2Line := Tab.get L2Line.initial s.l2 line

/-- Sets an L2 line. -/
def setL2 (s : State) (line : Nat) (x : L2Line) : State := { s with l2 := Tab.set L2Line.initial s.l2 line x }

/-- The turn in progress needs memory of a die; whether the die is without power is remembered until the turn's end (R395). -/
def reach (s : State) (d : Nat) : State :=
  if (s.die d).power.st = .s3 ∧ s.deep.contains d = false then { s with deep := d :: s.deep } else s

/-- A device read obtains the line: RdShared for a host tier (R264). -/
def obtainRead (s : State) (pa : Nat) : State :=
  let l := l2Line s (pa / 128)
  match tierOf s pa with
  | some t =>
    if t.viaHost then (if l.st = .i then setL2 s (pa / 128) { l with st := .s } else s) else reach s (homeDie pa)
  | none => s

/-- A device read of a run of bytes obtains its lines (R264). -/
def obtainRun (s : State) (pa n : Nat) : State :=
  (List.range ((pa + n - 1) / 128 - pa / 128 + 1)).foldl (fun s i => obtainRead s (128 * (pa / 128 + i))) s

/-- A device write obtains the line: RdOwn for a host tier, and the host's copy is invalidated (R264). -/
def obtainWrite (s : State) (pa : Nat) : State :=
  let l := l2Line s (pa / 128)
  match tierOf s pa with
  | some t =>
    let s := setL2 s (pa / 128) { st := if t.viaHost then .m else l.st, dirty := true, host := false }
    if t.viaHost then s else reach s (homeDie pa)
  | none => s

/-- The word of global memory that an error lies in. -/
def globalWord : ErrLoc → Option Nat
  | .memory pa | .l2 pa => some (pa / 8)
  | _ => none

/-- Words of 8 bytes that a write covers whole lose their poison, and single-bit errors in them are gone (R398). -/
def clearPoison (s : State) (ws : List (Nat × Byte)) : State :=
  let whole (w : Nat) : Bool := (List.range 8).all (fun i => ws.any (fun x => decide (x.1 = 8 * w + i)))
  let s := if s.poison = [] then s else { s with poison := s.poison.filter (fun e => !whole e.1) }
  if s.latent = [] then s else
  { s with latent := s.latent.filter (fun e => match globalWord e with | some w => !whole w | none => true) }

/-- One more correction of a die, in the counter that `f` raises (R398, Table 20-4). -/
def countCorrected (s : State) (d : Nat) (f : Corrected → Corrected) : State :=
  { s with mgmt := { s.mgmt with corrected := Tab.put s.mgmt.corrected d (f (Tab.get Corrected.initial s.mgmt.corrected d)) } }

/-- Single-bit errors that a read of words finds are corrected, written back and counted (R398). -/
def correctWords (s : State) (f : ErrLoc → Bool) : State :=
  if s.latent = [] then s else
  let s' := { s with latent := s.latent.filter (fun e => !f e) }
  (s.latent.filter f).foldl (fun s e => match e with
    | .memory pa => if pa < 2 ^ 39 then countCorrected s (homeDie pa) (fun c => { c with hbm := c.hbm + 1 }) else s
    | .l2 pa => countCorrected s (homeDie pa) (fun c => { c with l2 := c.l2 + 1 })
    | _ => s) s'

/-- The co-located slice keeps a core's CAC copy of a line homed on it current (R265). -/
def updateHomed (s : State) (ws : List (Nat × Byte)) : State :=
  ws.foldl (fun s w =>
    let c := homeCore s w.1
    match Tab.find? s.cores c with
    | none => s
    | some k =>
      match List.find? (fun l => decide (l.2.line = w.1 / 128)) k.ci.lines with
      | none => s
      | some (key, l) =>
        if Tab.get false l.dirty (w.1 % 128) then s
        else s.modCi c (fun ci => { ci with lines := Tab.put ci.lines key { l with data := Tab.set 0 l.data (w.1 % 128) w.2 } })) s

/-- Bytes stored at their home slices, without the wakes: the device's own writes to its blocks and rings. Bytes that the host refuses are lost (R261). -/
def poke (s : State) (ws : List (Nat × Byte)) : State :=
  let ws := if s.unbacked = [] then ws else ws.filter (fun w => !unbackedAt s w.1)
  let s := { s with mem := ws.foldl (fun m w => Tab.set 0 m w.1 w.2) s.mem }
  let s := (ws.map (fun w => w.1 / 128)).eraseDups.foldl (fun s l => obtainWrite s (128 * l)) s
  updateHomed (clearPoison s ws) ws

/-- The bytes of a run of addresses. -/
def run (pa : Nat) (bs : List Byte) : List (Nat × Byte) := bs.zipIdx.map (fun e => (pa + e.2, e.1))

/-- Bytes stored at their home slices as one write, with the wakes they give (R273). -/
def sliceWrite (s : State) (ws : List (Nat × Byte)) : State :=
  let evs := (ws.flatMap (fun w => wakes s w.1)).eraseDups
  let s := poke s ws
  evs.foldl (fun s i => if s.planned i then s else s.soon (.event i)) s

/-- Poisons the 64-bit words that the addresses lie in (R398). -/
def setPoison (s : State) (as : List Nat) : State :=
  { s with poison := as.foldl (fun p a => Tab.set false p (a / 8) true) s.poison }

/-! The CAC role (R251, R265) -/

/-- The CAC line that holds a line number, with its place. -/
def cacFind (k : Core) (line : Nat) : Option (Nat × CacLine) := List.find? (fun e => decide (e.2.line = line)) k.ci.lines

/-- The line is homed on the core (R263). -/
def homedOn (s : State) (c line : Nat) : Bool := decide (homeCore s (128 * line) = c)

/-- Sends a line's dirty bytes to its slice as one write; the copy stays, clean (R265). -/
def cacSend (s : State) (c line : Nat) : State :=
  match cacFind (s.core c) line with
  | none => s
  | some (key, l) =>
    if l.dirty = [] then s else
    let s := s.modCi c (fun ci => { ci with lines := Tab.put ci.lines key { l with dirty := [] } })
    sliceWrite s (l.dirty.map (fun e => (128 * line + e.1, Tab.get 0 l.data e.1)))

/-- Drops a line, its dirty bytes sent first (R265). -/
def cacDrop (s : State) (c line : Nat) : State :=
  let s := cacSend s c line
  s.modCi c (fun ci => { ci with lines := ci.lines.filter (fun e => decide (e.2.line ≠ line)) })

/-- Drops a line without sending anything. -/
def cacForget (s : State) (c line : Nat) : State :=
  s.modCi c (fun ci => { ci with lines := ci.lines.filter (fun e => decide (e.2.line ≠ line)) })

/-- Acquire of runs of global bytes: the CAC lines that hold any of them, not homed on the core, are dropped (R227, R265). -/
def acquireRuns (s : State) (c : Nat) (runs : List (Nat × Nat)) : State :=
  let meets (l : Nat) : Bool := runs.any (fun r => decide (r.1 < 128 * l + 128) && decide (128 * l < r.1 + r.2))
  ((s.core c).ci.lines.filterMap (fun e => if meets e.2.line && !homedOn s c e.2.line then some e.2.line else none)).foldl
    (fun s l => cacDrop s c l) s

/-- The set a line maps to under the core's CAC count (R251). -/
def cacSet (k : Core) (line : Nat) : Nat := line % (32 * k.ci.cac.length)

/-- A miss on the line allocates: not in a departing bank, nor while the CAC count changes (R254, R257). -/
def cacAllocates (k : Core) (line : Nat) : Bool :=
  match k.ci.move with
  | none => true
  | some m =>
    if decide (m.donor = .cac) || decide (m.recv = .cac) then
      match m.phase with
      | .prepare => !(decide (m.donor = .cac) && decide (k.ci.cac.length - m.k ≤ cacSet k line % k.ci.cac.length))
      | _ => false
    else true

/-- Least recently used of the ways of a full set: the place of the smallest stamp, lowest way first. -/
def lruWay (lines : Tab CacLine) (set : Nat) : Nat :=
  (List.range 8).foldl (fun best w =>
    match Tab.find? lines (set * 8 + w), Tab.find? lines best with
    | some x, some y => if x.used < y.used then set * 8 + w else best
    | _, _ => best) (set * 8)

/-- Fills a line into its set, replacing the least recently used way; the evicted line enters the victim store (R251, R298). -/
def cacFill (s : State) (c line : Nat) : State :=
  let k := s.core c
  if !cacAllocates k line then s else
  let set := cacSet k line
  let key := match (List.range 8).find? (fun w => (Tab.find? k.ci.lines (set * 8 + w)).isNone) with
    | some w => set * 8 + w
    | none => lruWay k.ci.lines set
  let s := match Tab.find? k.ci.lines key with
    | some o =>
      let s := cacSend s c o.line
      let s := cacForget s c o.line
      s.modCore c (fun k => { k with victims := (o.line :: k.victims).take 512 })
    | none => s
  let s := obtainRead s (128 * line)
  s.modCi c (fun ci =>
    { ci with
      lines := Tab.put ci.lines key
        { line := line, data := (List.range 128).foldl (fun t i => Tab.set 0 t i (rd8 s (128 * line + i))) [],
          dirty := [], used := ci.stamp, dirtyAt := 0 },
      stamp := ci.stamp + 1 })

/-- A move is changing the CAC count and has begun its Switch: accesses are served from L2 (Table 13-5). -/
def cacBypass (k : Core) : Bool :=
  match k.ci.move with
  | some m => (decide (m.donor = .cac) || decide (m.recv = .cac)) && decide (m.phase ≠ .prepare)
  | none => false

/-- Marks a line as used. -/
def cacTouch (s : State) (c key : Nat) : State :=
  s.modCi c (fun ci => { ci with
    lines := Tab.modify ci.lines key (fun l => { l with used := ci.stamp }), stamp := ci.stamp + 1 })

/-- A group's load makes the lines it needs ready: hit lines are used, missing ones fill (R265, R298). A line served from L2 during a move leaves no copy behind, dirty bytes sent first DESIGN CHOICE. -/
def cacLoad (s : State) (c line : Nat) : State :=
  if cacBypass (s.core c) then obtainRead (cacDrop s c line) (128 * line) else
  match cacFind (s.core c) line with
  | some (key, _) => cacTouch s c key
  | none => cacFill s c line

/-- A byte as a core's loads see it: the CAC copy, else the slice. -/
def coreByte (s : State) (c pa : Nat) : Byte :=
  match cacFind (s.core c) (pa / 128) with
  | some (_, l) => Tab.get 0 l.data (pa % 128)
  | none => rd8 s pa

/-- A group's store of bytes of one line: into the CAC copy, marked dirty, or to the slice (R265). Answers whether the bytes are still dirty. -/
def coreStore (s : State) (c : Nat) (ws : List (Nat × Byte)) (bypass : Bool) : State × Bool :=
  match ws with
  | [] => (s, false)
  | w :: _ =>
    let line := w.1 / 128
    if cacBypass (s.core c) then (sliceWrite (cacDrop s c line) ws, false) else
    match cacFind (s.core c) line with
    | some (key, l) =>
      if bypass then
        let s := cacSend s c line
        let s := s.modCi c (fun ci => { ci with lines := Tab.modify ci.lines key (fun l =>
          { l with data := ws.foldl (fun d w => Tab.set 0 d (w.1 % 128) w.2) l.data }) })
        (sliceWrite (cacTouch s c key) ws, false)
      else
        let l' := { l with
          data := ws.foldl (fun d w => Tab.set 0 d (w.1 % 128) w.2) l.data,
          dirty := ws.foldl (fun d w => Tab.set false d (w.1 % 128) true) l.dirty,
          dirtyAt := if l.dirty = [] then s.now else l.dirtyAt }
        (cacTouch (s.modCi c (fun ci => { ci with lines := Tab.put ci.lines key l' })) c key, true)
    | none => (sliceWrite s ws, false)

end Sys2Proof.Machine
end

