-- ==== Sys2Proof/Machine/Translate.lean ====
section
/-! DEFINITION. Page tables, walks and TLBs (14 R261, R262; 16 R309 to R311). -/

namespace Sys2Proof.Machine

/-- Trap causes (Table 16-1). -/
abbrev causeIllegalOp := 0x01
abbrev causeBadLine := 0x02
abbrev causeExecData := 0x03
abbrev causeBadTarget := 0x04
abbrev causeFallOff := 0x05
abbrev causePageAbsent := 0x10
abbrev causePagePerm := 0x11
abbrev causeMisaligned := 0x13
abbrev causeRoleRange := 0x14
abbrev causeStepLocal := 0x15
abbrev causeQueueDepth := 0x18
abbrev causeBkpt := 0x20
abbrev causeWatch := 0x21
abbrev causeStep := 0x22
abbrev causeTrap := 0x28
abbrev causeEngineError := 0x30
abbrev causeMachineCheck := 0x3F

/-- Bits [63:56] of an address copy bit 55 (R29). -/
def canonical (va : Nat) : Bool := bits va 63 56 == (if bit va 55 then 255 else 0)

/-- What a walk ends in: the leaf it installs, or a cause with the refused mark (R310). -/
inductive WalkEnd where
  | leaf (t : Tlb)
  | fail (cause : Nat) (refused : Bool)
  deriving DecidableEq, Repr

/-- A page of a tier: aligned, of the tier's page size, populated from end to end (R262). -/
def pageOk (s : State) (pa lg : Nat) : Bool :=
  match tierOf s pa, tierOf s (pa + 2 ^ lg - 1) with
  | some t, some t' => decide (t = t') && t.pageLog == lg && pa % 2 ^ lg == 0
  | _, _ => false

/-- Reserved bits of an entry (Table 16-6). -/
def pteClean (e : Nat) : Bool := bits e 11 6 == 0 && bits e 55 48 == 0

/-- The deciding leaf entry of a walk, accepted or refused (R310, R262). -/
def acceptLeaf (s : State) (ctx va e lg : Nat) : WalkEnd :=
  let pa := bits e 47 12 * 4096
  if pteClean e && pageOk s pa lg then
    .leaf { ctx := ctx, va := va / 2 ^ lg * 2 ^ lg, lg := lg, pa := pa, w := bit e 1, x := bit e 2 }
  else .fail causePagePerm true

/-- Level 0 of a walk (R310, steps 1 to 4). -/
def walkLevel0 (s : State) (ctx va table : Nat) : WalkEnd :=
  let first := rdNat s (table + 8 * (bits va 20 16 * 16)) 8
  if bit first 0 && bit first 3 && bits first 5 4 == 1 then acceptLeaf s ctx va first 16
  else
    let e := rdNat s (table + 8 * bits va 20 12) 8
    if !bit e 0 then .fail causePageAbsent false
    else if bit e 3 && bits e 5 4 == 0 then acceptLeaf s ctx va e 12
    else .fail causePagePerm true

/-- Levels 4 to 1 of a walk, then level 0 (R309, R310). -/
def walkFrom (s : State) (ctx va : Nat) : Nat → Nat → WalkEnd
  | 0, table => walkLevel0 s ctx va table
  | l + 1, table =>
    let ix := if l = 3 then bits va 55 48 else bits va (20 + 9 * (l + 1)) (12 + 9 * (l + 1))
    let e := rdNat s (table + 8 * ix) 8
    if !bit e 0 then .fail causePageAbsent false
    else if bit e 3 then
      if l = 0 && bits e 5 4 == 2 then acceptLeaf s ctx va e 21 else .fail causePagePerm true
    else if pteClean e && bits e 5 4 == 0 && (tierOf s (bits e 47 12 * 4096)).isSome then
      walkFrom s ctx va l (bits e 47 12 * 4096)
    else .fail causePagePerm true

/-- Address of the entry of a context (R389, Table 15-1). -/
def entryAt (s : State) (ctx : Nat) : Nat := s.tableBase + 256 * ctx

/-- The root of a context's page table: of a resident context the root it was taken up with, of context 0 the root its
entry holds now, for its rings are used whether it is resident or not (R304, R389) DEDUCED. -/
def rootOf (s : State) (ctx : Nat) : Option Nat :=
  match s.ctx? ctx with
  | some c => some c.ptroot
  | none => if ctx = 0 then some (rdNat s (entryAt s 0) 8) else none

/-- The walk of an address of a context (R309, R310). A context that is not resident maps nothing. -/
def walk (s : State) (ctx va : Nat) : WalkEnd :=
  match rootOf s ctx with
  | some root => walkFrom s ctx va 4 root
  | none => .fail causePageAbsent false

/-- The TLB entry covers the address. -/
def Tlb.covers (t : Tlb) (ctx va : Nat) : Bool := t.ctx == ctx && va / 2 ^ t.lg == t.va / 2 ^ t.lg

/-- The physical address of an address the entry covers. -/
def Tlb.phys (t : Tlb) (va : Nat) : Nat := t.pa + va % 2 ^ t.lg

/-- The first-level TLB that serves a unit: core TLB, or instruction or data TLB of a strand core (Table 16-7). -/
def firstTlb (s : State) (un : UnitSt) (fetch : Bool) : List Tlb :=
  if un.at_.strand then (if fetch then (s.score un.at_.core).itlb else (s.score un.at_.core).dtlb)
  else (s.core un.at_.core).tlb

/-- A translation found by a unit: first level, then the cell's L2 TLB (R311). -/
def lookup (s : State) (un : UnitSt) (fetch : Bool) (va : Nat) : Option Tlb :=
  match List.find? (fun t => t.covers un.at_.ctx va) (firstTlb s un fetch) with
  | some t => some t
  | none => List.find? (fun t => t.covers un.at_.ctx va) (s.cell un.cell).l2tlb

/-- Enters a translation in a TLB of n entries, the oldest leaving. -/
def enterTlb (n : Nat) (t : Tlb) (l : List Tlb) : List Tlb := if l.contains t then l else (t :: l).take n

/-- Enters a translation in a unit's first-level TLB (Table 16-7). -/
def fillFirst (s : State) (un : UnitSt) (fetch : Bool) (t : Tlb) : State :=
  if un.at_.strand then
    s.modScore un.at_.core (fun c =>
      if fetch then { c with itlb := enterTlb 16 t c.itlb } else { c with dtlb := enterTlb 32 t c.dtlb })
  else s.modCore un.at_.core (fun c => { c with tlb := enterTlb 64 t c.tlb })

/-- The 4 KiB page of an address, by which walks are merged (R311). -/
def pageOf (va : Nat) : Nat := va / 4096 * 4096

/-- Starts walks waiting in a cell while fewer than eight are in flight (R311). -/
def startWalks (s : State) (cell : Nat) : State :=
  let c := s.cell cell
  let room := 8 - (c.walks.filter (·.started)).length
  let go := (c.walks.filter (fun w => !w.started)).take room
  go.foldl (fun s w =>
    (s.modCell cell (fun c => { c with walks := c.walks.map (fun x =>
      if x.ctx = w.ctx && x.va = w.va then { x with started := true } else x) })).laterFree (.pageWalk cell w.ctx w.va)) s

/-- The walk answers for a 4 KiB piece of memory. -/
def WalkReq.serves (w : WalkReq) (ctx page : Nat) : Bool := w.ctx == ctx && (w.va == page || w.others.contains page)

/-- The page that a walk is for, as the table stands, holds an address. -/
def WalkReq.holds (s : State) (w : WalkReq) (ctx va : Nat) : Bool :=
  match walk s w.ctx w.va with
  | .leaf t => t.covers ctx va
  | .fail _ _ => false

/-- Asks a cell for the walk of the page that holds an address, once while it is in flight: a walk of the same page, which may be larger than 4 KiB, serves it too (R311). -/
def requestWalk (s : State) (cell ctx va : Nat) : State :=
  let page := pageOf va
  let ws := (s.cell cell).walks
  if ws.any (fun w => w.serves ctx page) then startWalks s cell
  else match List.find? (fun (w : WalkReq) => w.holds s ctx page) ws with
    | some w => s.modCell cell (fun c => { c with walks := c.walks.map (fun x =>
        if decide (x = w) then { x with others := page :: x.others } else x) })
    | none => startWalks (s.modCell cell (fun c => { c with walks := c.walks ++ [⟨ctx, page, false, []⟩] })) cell

/-- Outcome of the checks of one access of a unit: its physical address, the page whose walk it needs, or its failure. -/
inductive Chk where
  | ok (pa : Nat)
  | need (page : Nat)
  | bad (cause : Nat) (refused : Bool)
  deriving DecidableEq, Repr

/-- R29, R157, R159, R310: range, page span and translation of a global access of n bytes, with the permission it needs. -/
def checkGlobal (s : State) (un : UnitSt) (walked : List (Nat × Nat × Bool)) (fetch write : Bool) (va n : Nat) : Chk :=
  if !canonical va then .bad causePagePerm false
  else
    match lookup s un fetch va with
    | some t =>
      if va / 2 ^ t.lg ≠ (va + n - 1) / 2 ^ t.lg then .bad causeMisaligned false
      else if (write && !t.w) || (fetch && !t.x) then .bad causePagePerm false
      else .ok (t.phys va)
    | none =>
      match List.find? (fun e => decide (e.1 = pageOf va)) walked with
      | some (_, cause, refused) => .bad cause refused
      | none => .need (pageOf va)

/-- Translation of one byte through a context's page table by an engine, a service or the device itself, at the instant of its access. -/
def xlate (s : State) (ctx va : Nat) (write : Bool) : Chk :=
  if !canonical va then .bad causePagePerm false
  else match walk s ctx va with
    | .leaf t => if write && !t.w then .bad causePagePerm false else .ok (t.phys va)
    | .fail c r => .bad c r

/-- The table entries that a walk reads: physical addresses, from a level down (R309, R310). -/
def walkReads (s : State) (va : Nat) : Nat → Nat → List Nat
  | 0, table => [table + 8 * (bits va 20 16 * 16), table + 8 * bits va 20 12]
  | l + 1, table =>
    let at_ := table + 8 * (if l = 3 then bits va 55 48 else bits va (20 + 9 * (l + 1)) (12 + 9 * (l + 1)))
    let e := rdNat s at_ 8
    if bit e 0 && !bit e 3 && pteClean e && (tierOf s (bits e 47 12 * 4096)).isSome then
      at_ :: walkReads s va l (bits e 47 12 * 4096)
    else [at_]

/-- The part obtains the lines of the table entries that the walk of an address reads (R264). -/
def obtainWalk (s : State) (ctx va : Nat) : State :=
  match rootOf s ctx with
  | some root => (walkReads s va 4 root).foldl obtainRead s
  | none => s

/-- The part obtains the lines it reads for a span of a context's memory, those of the tables among them (R264). -/
def obtainVirt (s : State) (ctx va n : Nat) : State :=
  (List.range ((va % 128 + n + 127) / 128)).foldl (fun s i =>
    let a := (va / 128 + i) * 128 % 2 ^ 64
    let s := obtainWalk s ctx a
    match xlate s ctx a false with
    | .ok pa => obtainRead s pa
    | _ => s) s

/-- Bytes of a context's memory read by the device: none where a byte is not mapped. -/
def rdVirt (s : State) (ctx va n : Nat) : Option (List Byte) :=
  (List.range n).foldr (fun i acc =>
    match acc, xlate s ctx ((va + i) % 2 ^ 64) false with
    | some l, .ok pa => some (rd8 s pa :: l)
    | _, _ => none) (some [])

/-- A device write to an area a context names: dropped where a byte is not mapped for writing (R435). -/
def pokeVirt (s : State) (ctx va : Nat) (bs : List Byte) : State :=
  let ws := bs.zipIdx.map (fun e => (xlate s ctx ((va + e.2) % 2 ^ 64) true, e.1))
  if ws.all (fun w => match w.1 with | .ok _ => true | _ => false) then
    poke s (ws.filterMap (fun w => match w.1 with | .ok pa => some (pa, w.2) | _ => none))
  else s

/-- A parked split waits for the walk of a page. -/
def Wait.forPage (w : Wait) (page : Nat) : Bool :=
  match w with
  | .walk pages => pages.contains page
  | .walkFor p _ => p == page
  | _ => false

/-- The page walk of a cell completes: the leaf enters the L2 TLB, or the units that wait for the piece it was asked for learn how it failed (R310, R311); units that waited for another piece of the page look again. -/
def execPageWalk (cell ctx va : Nat) (s : State) : Host.Outcome State Fault Refusal :=
  if !(s.cell cell).walks.any (fun w => w.ctx == ctx && w.va == va) then .next s else
  let s := { obtainWalk s ctx va with mgmt := { s.mgmt with walks := s.mgmt.walks + 1 } }
  let s := s.modCell cell (fun c => { c with walks := c.walks.filter (fun w => !(w.ctx == ctx && w.va == va)) })
  let s := match walk s ctx va with
    | .leaf t => s.modCell cell (fun c => { c with l2tlb := enterTlb 4096 t c.l2tlb })
    | .fail cause refused =>
      s.mapUnits (fun _ un =>
        if un.cell == cell && un.at_.ctx == ctx then
          { un with entries := un.entries.map (fun (x : Nat × Entry) =>
            match x.2 with
            | .split sp =>
              match sp.wait with
              | some w => if w.forPage va then (x.1, .split { sp with walked := (va, cause, refused) :: sp.walked }) else x
              | none => x
            | .join _ => x) }
        else un)
  .next (startWalks s cell)

end Sys2Proof.Machine
end

