-- ==== Sys2Proof/Machine/Ops.lean ====
section
/-! DEFINITION. Lines and addresses of instructions, splits and joins, loops, the path signature and trace, taking a trap and returning from one (03 R65 to R69; 05 R92 to R107; 16 R302, R303, R308; 12 R243; 19 R380 to R383). -/

namespace Sys2Proof.Machine

/-! Addresses of code -/

/-- A 64-bit value from a natural number. -/
abbrev dw (n : Nat) : DWord := BitVec.ofNat 64 n

/-- Address of the line that holds an instruction address (R65). -/
def lineBase (pc : DWord) : DWord := dw (pc.toNat / 64 * 64)

/-- Slot number of an instruction address in its line (R65). -/
def headIx (pc : DWord) : Nat := pc.toNat % 64 / 2

/-- First pointer of the local code form (R90). -/
def localBase : Nat := 0xFF00000000000000

/-- The pointer is in local code form (R90). -/
def localForm (p : DWord) : Bool := p.toNat / 2 ^ 17 == localBase / 2 ^ 17

/-- A branch target (R66). -/
def targetAddr (pc : DWord) (t : Target) : DWord :=
  lineBase pc + (t.disp.signExtend 64) * 64 + dw (2 * t.head.val)

/-- The line a split has entered; a split that has entered none reads an empty line. -/
def Split.bytes (sp : Split) : List Byte := sp.line.getD []

/-- The sequential successor (R65); none when the line ends and does not continue. -/
def succ? (sp : Split) (pc : DWord) : Option DWord :=
  if headIx pc < lineH sp.bytes then some (pc + 2)
  else if lineCont sp.bytes then some (lineBase pc + 66) else none

/-- The return address of a call (R91), and the resume address of TRAP and BKPT (R102). -/
def returnAddr (sp : Split) (pc : DWord) : DWord :=
  if headIx pc < lineH sp.bytes then pc + 2 else lineBase pc + 66

/-! The lines a unit can fetch -/

/-- Bytes of strand local memory of a strand core. -/
def rdLocal (s : State) (sc off n : Nat) : List Byte := (List.range n).map (fun i => Tab.get 0 (s.score sc).local_ (off + i))

/-- Outcome of fetching a line: the line, a walk that is needed, or a trap with its cause, address and marks. -/
inductive Fetch where
  | line (l : List Byte) (s : State)
  | need (page : Nat)
  | trap (cause : Nat) (addr : DWord) (flags : Nat)
  deriving DecidableEq, Repr

/-- Fetches the 64 bytes that hold an address (R31, R66, R240): local memory, the copy of the instruction or line cache, or global memory through translation, which fills the cache. A line poisoned at its home slice is not executed (R303). -/
def fetchLine (s : State) (un : UnitSt) (sp : Split) (pc : DWord) : Fetch :=
  if sp.loc then
    if pc.toNat < localBase ∨ localBase + 65536 ≤ pc.toNat then .trap causeRoleRange pc 2
    else .line (rdLocal s un.at_.core (pc.toNat % 65536 / 64 * 64) 64) s
  else
    let base := lineBase pc
    let cached := if un.at_.strand then (s.score un.at_.core).lines else (s.core un.at_.core).icache
    match cached.find? (fun e => decide (e.1 = un.at_.ctx ∧ e.2.1 = base)) with
    | some e => .line e.2.2 s
    | none =>
      match checkGlobal s un sp.walked true false base.toNat 64 with
      | .need p => .need p
      | .bad c r => .trap c pc (2 + if r then 8 else 0)
      | .ok pa =>
        if poisoned s pa 64 then .trap causeMachineCheck pc 2 else
        let l := rdBytes s pa 64
        let s := match lookup s un true base.toNat with
          | some t => fillFirst s un true t
          | none => s
        let s := obtainRead s pa
        .line l (if un.at_.strand then
            s.modScore un.at_.core (fun c => { c with lines := (un.at_.ctx, base, l) :: c.lines })
          else s.modCore un.at_.core (fun c => { c with icache := (un.at_.ctx, base, l) :: c.icache }))

/-- The checks of Table 3-5 on entering a line at an address: the cause and ctl.trapaddr of the first that fails. -/
def fetchChecks (l : List Byte) (pc : DWord) : Option (Nat × DWord) :=
  if lineKind l = 1 ∨ lineKind l = 2 then some (causeExecData, lineBase pc)
  else if lineKind l = 3 ∨ !lineValid l then some (causeBadLine, lineBase pc)
  else if pc.toNat % 2 = 1 ∨ headIx pc = 0 ∨ lineH l < headIx pc then some (causeBadTarget, pc)
  else none

/-! Splits and joins -/

/-- Lanes a split must hold to stand for it: its lowest lane. -/
def Split.low (sp : Split) : Nat := lowLane sp.mask

/-- The mask lies within the lanes of the handler the unit is in (R308). -/
def inHandler (un : UnitSt) (m : Mask) : Bool :=
  match un.mode with
  | .handler _ lanes => m &&& ~~~lanes == 0
  | _ => false

/-- An access that the split has issued is still to be checked: its pages are being walked (R159). -/
def resolving (un : UnitSt) (e : Nat) : Bool := un.ops.any (fun (o : Nat × Op) => decide (o.2.stage = 3) && o.2.holders.contains e)

/-- May the split issue? In a unit that is to be saved only one does whose access has issued and must complete (R26, R313). In handler mode only one within the handler's lanes does (R308), and while a stepped instruction has not
retired only its own entry does (R373). A handler whose split divides goes on in all its parts DESIGN CHOICE. -/
def mayRun (un : UnitSt) (x : Nat × Split) : Bool :=
  (match un.mode with
   | .handler _ _ => inHandler un x.2.mask
   | _ => true) &&
  (match un.step with
   | .issued e _ => x.1 == e
   | _ => true) && (!un.stopped || resolving un x.1)

/-- Of two ready splits, whether the first is chosen before the second: fewer mops, then the lower lowest lane (R95). -/
def before (un : UnitSt) (a b : Nat × Split) : Bool :=
  decide (un.mops a.1 < un.mops b.1) || (decide (un.mops a.1 = un.mops b.1) && decide (a.2.low < b.2.low))

/-- The ready split R95 chooses. -/
def chosen (un : UnitSt) : Option (Nat × Split) :=
  (un.splits.filter (fun x => decide (x.2.st = .ready) && mayRun un x)).foldl
    (fun best x => match best with
      | none => some x
      | some b => if before un x b then some x else best) none

/-- Gives the role of running split to the one R95 chooses when no split runs. -/
def choose (un : UnitSt) : UnitSt :=
  match un.running with
  | some _ => un
  | none =>
    match chosen un with
    | some (e, _) => un.modSplit e (fun x => { x with st := .running })
    | none => un

/-- R95 when the split that ran has given the role up; a unit in which none ran chooses at its next selection, among all the
splits that have become ready in the cycle. -/
def passRole (old un : UnitSt) : UnitSt := if old.running.isSome then choose un else un

/-- Free entries of the reconvergence structure, lowest first (R93). -/
def freeEntries (un : UnitSt) : List Nat := (List.range 32).filter (fun e => (Tab.find? un.entries e).isNone)

/-- Moves a split to an address: a new line is entered, and no wait is left. -/
def Split.goto (sp : Split) (pc : DWord) (loc : Bool) : Split :=
  { sp with pc := pc, loc := loc, line := none, wait := none, stage := 0, walked := [], skip := 0 }

/-- Moves a split to its sequential successor: the line stays while the address lies in it. -/
def Split.step (sp : Split) (pc : DWord) : Split :=
  { sp with pc := pc, line := if lineBase pc = lineBase sp.pc then sp.line else none, wait := none, stage := 0, walked := [], skip := 0 }

/-- Replaces entry a by entry b among the holders of every outstanding operation (R93, R97). -/
def rehold (ops : Tab Op) (f : List Nat → List Nat) : Tab Op := ops.map (fun o => (o.1, { o.2 with holders := f o.2.holders }))

/-- A split at its reconvergence address arrives; a join that is complete becomes a split, and the test repeats outward (R97). -/
def arriveFrom (un : UnitSt) (e : Nat) : Nat → UnitSt
  | 0 => un
  | fuel + 1 =>
    match un.split? e with
    | none => un
    | some sp =>
      match sp.ra, sp.join with
      | some r, some j =>
        if sp.pc ≠ r then un else
        match Tab.find? un.entries j with
        | some (.join jn) =>
          let arrived := jn.arrived ||| sp.mask
          let un := { un with
            entries := Tab.put (Tab.del un.entries e) j (.join { jn with arrived := arrived }),
            ops := rehold un.ops (fun h => if h.contains e then (h.filter (· ≠ e)) ++ (if h.contains j then [] else [j]) else h) }
          if arrived = jn.expect then
            arriveFrom { un with entries := Tab.put un.entries j (.split
              { pc := jn.ra, mask := jn.expect, ra := jn.raOut, join := jn.joinOut, st := .ready, wait := none,
                stage := 0, loc := sp.loc, line := none, walked := [], skip := 0 }) } j fuel
          else un
        | _ => un
      | _, _ => un

/-- R97 for the split at entry e, then R95. -/
def arrive (un : UnitSt) (e : Nat) : UnitSt := passRole un (arriveFrom un e 33)

/-- Divides the split at entry e into parts given by mask, address and code space (R94). None when entries are too few. No rule
names the entries of the parts: the first keeps the split's own and the others take the lowest free ones DESIGN CHOICE. -/
def divide (un : UnitSt) (e : Nat) (sp : Split) (parts : List (Mask × Split)) : Option (UnitSt × List Nat) :=
  let free := freeEntries un
  if free.length + 1 < parts.length then none else
  let es := (e :: free).take parts.length
  let un := { un with
    entries := (parts.zip es).foldl (fun t p => Tab.put t p.2 (.split { p.1.2 with mask := p.1.1, ra := sp.ra, join := sp.join }))
      un.entries,
    ops := rehold un.ops (fun h => if h.contains e then (h.filter (· ≠ e)) ++ es else h) }
  some (un, es)

/-! Loops -/

/-- The end test at address Y (R105): the unit with its loops moved on, and the start address when a loop repeats. -/
def endTest (un : UnitSt) (y : DWord) : Nat → UnitSt × Option DWord
  | 0 => (un, none)
  | fuel + 1 =>
    match un.nest with
    | [] => (un, none)
    | k :: rest =>
      match Tab.find? un.loops k with
      | some r =>
        if r.fin = y then
          let n := Tab.get 0 un.regs.lc k
          if n.toNat ≤ 1 then
            endTest { un with nest := rest, loops := Tab.del un.loops k, regs := { un.regs with lc := Tab.set 0 un.regs.lc k 0 } } y fuel
          else ({ un with regs := { un.regs with lc := Tab.set 0 un.regs.lc k (n - 1) } }, some r.start)
        else (un, none)
      | none => (un, none)

/-- Loops left once the outermost active loop that does not hold the target is cancelled with every loop inside it (R106): the nest, innermost first. -/
def keepLoops (loops : Tab LoopRec) (t : DWord) (nest : List Nat) : List Nat :=
  nest.foldl (fun acc k =>
    match Tab.find? loops k with
    | some r => if r.start.toNat ≤ t.toNat ∧ t.toNat ≤ r.fin.toNat then acc ++ [k] else []
    | none => []) []

/-- Cancels loops for a taken transfer to t (R106). -/
def cancelLoops (un : UnitSt) (t : DWord) : UnitSt :=
  let n := keepLoops un.loops t un.nest
  { un with nest := n, loops := un.loops.filter (fun l => n.contains l.1) }

/-! Path signature and trace -/

/-- One byte of the CRC-64 of R380. -/
def foldByte (sig : DWord) (b : Nat) : DWord :=
  (List.range 8).foldl (fun x _ => if x.getLsbD 63 then (x <<< 1) ^^^ 0x42F0E1EBA9EA3693#64 else x <<< 1)
    (sig ^^^ (dw b <<< 56))

/-- The fold of a target into a signature (R380). -/
def foldSig (sig t : DWord) : DWord :=
  (List.range 8).foldl (fun x k => foldByte x (bits t.toNat (8 * k + 7) (8 * k))) sig

/-- The debug block of a cell (R371). -/
def debugBlock (s : State) (cell : Nat) : Nat := s.tableBase + 0x1010000 + 0x400 * cell

/-- The unit belongs to the context that holds the debug right in its cell (R372). -/
def debugged (s : State) (un : UnitSt) : Bool :=
  let d := (s.cell un.cell).dbg
  d.owner == un.at_.ctx && bit d.dflags 0

/-- Core ID and slot of a group as records name it. -/
def unitField (un : UnitSt) : Nat := un.at_.core % 512 + 512 * un.at_.slot

/-- A trace record of a group (Table 19-6). -/
def traceBytes (un : UnitSt) (kind lane : Nat) (a b : DWord) : List Byte :=
  bytesOf 1 kind ++ bytesOf 1 lane ++ bytesOf 2 0 ++ bytesOf 4 (unitField un) ++ bytesOf 8 a.toNat ++
    bytesOf 8 b.toNat ++ bytesOf 8 un.ctl.retired.toNat

/-- Writes a record to the trace ring of a cell and advances tidx (R382). -/
def appendTrace (s : State) (cell : Nat) (bs : List Byte) : State :=
  let blk := debugBlock s cell
  let idx := rdNat s (blk + 20) 4
  let at_ := rdNat s (blk + 8) 8 + 32 * (idx % 2 ^ rdNat s (blk + 16) 1)
  poke (pokeVirt s 0 at_ bs) (run (blk + 20) (bytesOf 4 (idx + 1)))

/-- Inserts before the first element that does not go first. -/
def insertBy {α : Type} (first : α → α → Bool) (x : α) : List α → List α
  | [] => [x]
  | y :: t => if first x y then x :: y :: t else y :: insertBy first x t

/-- Sorts by an order in which equals keep their places. -/
def sortBy {α : Type} (first : α → α → Bool) (l : List α) : List α := l.foldl (fun acc x => insertBy first x acc) []

/-- The records of a cycle are appended in ascending core ID and then group slot (R382). -/
def flushTrace (s : State) (cell : Nat) : State :=
  (sortBy (fun (a b : Nat × List Byte) => decide (a.1 < b.1)) (s.cell cell).dbg.trace).foldl (fun s r => appendTrace s cell r.2)
    (s.modDebug cell (fun d => { d with trace := [] }))

/-- A group of the owner is traced (R382). -/
def tracing (s : State) (un : UnitSt) : Bool :=
  !un.at_.strand && debugged s un && bit (s.cell un.cell).dbg.dflags 3

/-- A traced group emits a record for a target, SYNC when 256 records have followed the last, else BRANCH; a record of another kind
that stands in the place of a SYNC comes after one, which names its address, as a group's first record is always a SYNC (R383)
DESIGN CHOICE. -/
def emitTrace (s : State) (u : Nat) (un : UnitSt) (kind lane : Nat) (a b : DWord) : State :=
  let n := Tab.get 0 (s.cell un.cell).dbg.traced u
  let sync := traceBytes un 2 lane a un.ctl.pathsig
  let rs :=
    if kind = 1 then (if n % 256 = 0 then [sync] else [traceBytes un 1 lane a b])
    else (if n % 256 = 0 then [sync] else []) ++ [traceBytes un kind lane (if kind = 4 then 0 else a) b]
  s.modDebug un.cell (fun d => { d with
    traced := Tab.put d.traced u (n + rs.length)
    trace := d.trace ++ rs.map (fun r => (un.at_.core * 128 + un.at_.slot, r)) })

/-- Folds a taken target into the signature of a group and traces it (R380, R381, R383). -/
def foldTarget (s : State) (u : Nat) (lane : Nat) (t : DWord) : State :=
  match s.unit? u with
  | none => s
  | some un =>
    if un.at_.strand then s else
    let un := { un with ctl := { un.ctl with pathsig := foldSig un.ctl.pathsig t } }
    let s := s.putUnit u un
    if tracing s un then emitTrace s u un 1 lane t 0 else s

/-! Traps -/

/-- A trap record under construction: what a cause gives besides the split it stops. -/
structure TrapArgs where
  cause : Nat
  pc : DWord
  addr : DWord
  done : Mask := 0
  count : Nat := 0
  flags : Nat := 0
  stepped : DWord := 0
  deriving DecidableEq, Repr

/-- The record of a trap taken by a split of a unit at a cycle (Table 16-3). -/
def trapRecord (un : UnitSt) (e : Nat) (sp : Split) (now : Nat) (a : TrapArgs) : TrapRec :=
  { cause := a.cause, entry := e, lane := if un.at_.strand then 0 else sp.low, pc := a.pc, addr := a.addr,
    done := a.done, count := a.count,
    flags := a.flags + (if inHandler un sp.mask then 4 else 0),
    retired := un.ctl.retired.toNat, stepped := a.stepped, cycle := now, die := un.die,
    unit := if un.at_.strand then un.strandId else unitField un,
    succ := if a.cause = causeTrap ∨ a.cause = causeBkpt then some (returnAddr sp a.pc) else none }

/-- The fault-ring write of a die is tried soon (R305). -/
def wakeFaults (s : State) (d : Nat) : State :=
  if s.planned (.faultRecordWrite d) then s else s.soon (.event (.faultRecordWrite d))

/-- A trap of the split at entry e ends the step of the unit, when the instruction stepped is that split's (R379). -/
def endStep (un : UnitSt) (e : Nat) : StepSt :=
  match un.step with
  | .issued k _ => if k = e then .off else un.step
  | .armed => if un.running.map (·.1) = some e then .off else .armed
  | .off => .off

/-- TAKING A TRAP: the split at entry e enters the state trapped and stops issuing, its record is queued, and the group's other splits go on (R103). The trap registers take their values at delivery (R305). A stepped instruction that traps raises no STEP (R379). -/
def takeTrap (s : State) (u e : Nat) (a : TrapArgs) : State :=
  match s.unit? u with
  | none => s
  | some un =>
    match un.split? e with
    | none => s
    | some sp =>
      let r := trapRecord un e sp s.now a
      let un' := un.modSplit e (fun x => { x with st := .trapped, wait := none, walked := [] })
      wakeFaults (s.putUnit u (passRole un { un' with traps := un'.traps ++ [r], step := endStep un e })) r.die

/-- The trap of an instruction at its own address, with ctl.trapaddr there too. -/
def trapHere (s : State) (u e : Nat) (cause : Nat) : State :=
  match s.unit? u with
  | none => s
  | some un =>
    match un.split? e with
    | none => s
    | some sp => takeTrap s u e { cause := cause, pc := sp.pc, addr := sp.pc }

/-- A split goes on at an address: a trapped one is ready again (R307), and one that ends its handler goes on running (R308). The
line is entered afresh and the instruction at the address runs, also where the record was raised on the line of the end of a loop
of count 0, after which R104 alone would go on at Succ(end): the spec does not say which DESIGN CHOICE. -/
def resumeAt (un : UnitSt) (e : Nat) (pc : DWord) (skip : Mask) : UnitSt :=
  arrive (un.modSplit e (fun x =>
    { x.goto pc (un.at_.strand && localForm pc) with st := if x.st = .running then .running else .ready, skip := skip })) e

/-- The fault rings that take the records a unit has still to deliver are tried soon (R305). -/
def wakeTraps (s : State) (un : UnitSt) : State := (un.traps.map (·.die)).eraseDups.foldl wakeFaults s

/-- The record being handled is answered: the unit may deliver its next one (R103). -/
def answered (s : State) (u : Nat) : State :=
  match s.unit? u with
  | none => s
  | some un => wakeTraps (s.putUnit u { un with parked := none }) un

/-- The line that holds an address, as a fetch of the unit would read it; empty when it cannot be read. It serves where a record
holds no successor for the address: a handler that wrote ctl.trapaddr, or a unit restored from an image. -/
def peekLine (s : State) (un : UnitSt) (pc : DWord) : List Byte :=
  if un.at_.strand && localForm pc then rdLocal s un.at_.core (pc.toNat % 65536 / 64 * 64) 64
  else
    let cached := if un.at_.strand then (s.score un.at_.core).lines else (s.core un.at_.core).icache
    match cached.find? (fun e => decide (e.1 = un.at_.ctx ∧ e.2.1 = lineBase pc)) with
    | some e => e.2.2
    | none =>
      match xlate s un.at_.ctx (lineBase pc).toNat false with
      | .ok pa => rdBytes s pa 64
      | _ => []

/-- The resume address of a record answered at an address: the successor for TRAP and BKPT, else the address itself (R243, R307). -/
def resumePc (s : State) (un : UnitSt) (r : TrapRec) (pc : DWord) : DWord :=
  if r.cause = causeTrap ∨ r.cause = causeBkpt then
    match r.succ with
    | some n => if pc = r.pc then n else later pc
    | none => later pc
  else pc
where
  /-- The successor in the line that stands at the address. -/
  later (pc : DWord) : DWord := if headIx pc < lineH (peekLine s un pc) then pc + 2 else lineBase pc + 66

/-- RETURNING FROM A TRAP HANDLER: handler mode ends and the split resumes at ctl.trapaddr, or at its successor for TRAP and BKPT (R243). Where the handler's split has divided, the part that executes ERET is the one that resumes DESIGN CHOICE. -/
def returnFromHandler (s : State) (u e : Nat) : State :=
  match s.unit? u with
  | none => s
  | some un =>
    match un.mode, un.handled with
    | .handler _ _, some r =>
      let pc := resumePc s un r un.ctl.trapaddr
      let un := { un with mode := .live, handled := none }
      answered (s.putUnit u (resumeAt un e pc un.ctl.donemask)) u
    | _, _ => s

/-! Retiring an instruction -/

/-- Counts an instruction as retired by its unit and its core (R27, R320). -/
def countRetired (s : State) (u : Nat) : State :=
  match s.unit? u with
  | none => s
  | some un =>
    let s := s.putUnit u { un with ctl := { un.ctl with retired := un.ctl.retired + 1 } }
    if un.at_.strand then s.modScore un.at_.core (fun c => { c with retired := c.retired + 1 })
    else s.modCore un.at_.core (fun c => { c with retired := c.retired + 1 })

/-- The single-step trap of a unit whose stepped instruction, issued from entry e, has retired: for the split R95 runs next (R373, R379, Table 16-1). -/
def stepTrap (s : State) (u e : Nat) : State :=
  match s.unit? u with
  | none => s
  | some un =>
    match un.step with
    | .issued k x =>
      if k ≠ e then s else
      let un := choose { un with step := .off }
      match un.running with
      | some (n, sp) => takeTrap (s.putUnit u un) u n { cause := causeStep, pc := sp.pc, addr := sp.pc, stepped := x }
      | none => s.putUnit u un
    | _ => s

/-- The split at entry e, whose instruction at Y has retired without a taken transfer, goes on: end test, then its successor, else FALL_OFF (R105, R69). -/
def goOn (s : State) (u e : Nat) (y : DWord) : State :=
  match s.unit? u with
  | none => s
  | some un =>
    match un.split? e with
    | none => s
    | some sp =>
      match endTest un y 5 with
      | (un', some st) =>
        let s := s.putUnit u (un'.modSplit e (fun x => x.goto st sp.loc))
        let s := foldTarget s u sp.low st
        s.modUnit u (fun x => arrive x e)
      | (un', none) =>
        match succ? sp y with
        | some n => s.putUnit u (arrive (un'.modSplit e (fun x => { x with pc := y }.step n)) e)
        | none => takeTrap (s.putUnit u un') u e { cause := causeFallOff, pc := y, addr := y }

/-- A split takes a transfer to an address of a code space; loops are cancelled where `cancel` says so (R106). -/
def transfer (s : State) (u e : Nat) (t : DWord) (loc cancel : Bool) : State :=
  match s.unit? u with
  | none => s
  | some un =>
    match un.split? e with
    | none => s
    | some _ =>
      let un := if cancel then cancelLoops un t else un
      let un := un.modSplit e (fun x => x.goto t loc)
      s.putUnit u (arrive un e)

/-- An instruction of the running split has retired and makes no transfer. -/
def retire (s : State) (u e : Nat) : State :=
  match s.unit? u with
  | none => s
  | some un =>
    match un.split? e with
    | none => s
    | some sp => stepTrap (goOn (countRetired s u) u e sp.pc) u e

/-- Parks the split at entry e until its wait clears, at the stage its instruction has reached (R15). -/
def park (s : State) (u e : Nat) (w : Wait) (stage : Nat) : State :=
  s.modUnit u (fun un => passRole un (un.modSplit e (fun x => { x with st := .parked, wait := some w, stage := stage })))

/-- Lanes leave the group: they go from every join out to the outermost, empty joins are freed and complete ones become splits (R99). -/
def dropFromJoins (un : UnitSt) (lanes : Mask) : Option Nat → Nat → UnitSt
  | none, _ => un
  | some _, 0 => un
  | some j, fuel + 1 =>
    match Tab.find? un.entries j with
    | some (.join jn) =>
      let jn' := { jn with expect := jn.expect &&& ~~~lanes }
      let un := { un with entries :=
        if jn'.expect = 0 then Tab.del un.entries j else Tab.put un.entries j (.join jn') }
      dropFromJoins un lanes jn.joinOut fuel
    | _ => un

/-- Joins whose arrived lanes are all they expect become splits (R97, R99). -/
def completeJoins (un : UnitSt) : UnitSt :=
  un.entries.foldl (fun un e =>
    match Tab.find? un.entries e.1 with
    | some (.join jn) =>
      if jn.arrived = jn.expect then
        arriveFrom { un with entries := Tab.put un.entries e.1 (.split
          { pc := jn.ra, mask := jn.expect, ra := jn.raOut, join := jn.joinOut, st := .ready, wait := none,
            stage := 0, loc := false, line := none, walked := [], skip := 0 }) } e.1 33
      else un
    | _ => un) un

/-- The lanes of the split at entry e leave the group (R99). -/
def exitSplit (un : UnitSt) (e : Nat) : UnitSt :=
  match un.split? e with
  | none => un
  | some sp =>
    let left := { un with
      entries := Tab.del un.entries e, liveLanes := un.liveLanes &&& ~~~sp.mask,
      ops := rehold un.ops (fun h => h.filter (· ≠ e)) }
    passRole un (completeJoins (dropFromJoins left sp.mask sp.join 33))

/-! Sleep (R241) -/

/-- A sleeping split is ready and its SLEEP retires; the unit's next selection takes it into account (R95). -/
def endSleep (s : State) (u e : Nat) : State :=
  retire (s.modUnit u (fun un => un.modSplit e (fun x => { x with st := .ready, wait := none, stage := 0 }))) u e

/-- A record or a word for q0 ends the sleeps of a unit that name events (R241). -/
def wakeSleepers (s : State) (u : Nat) : State :=
  match s.unit? u with
  | none => s
  | some un => un.splits.foldl (fun s e => match e.2.wait with
      | some (.sleep _ _ true) => endSleep s u e.1
      | _ => s) s

end Sys2Proof.Machine
end

