-- ==== Sys2Proof/Machine/Places.lean ====
section
/-! DEFINITION. Bytes of the address spaces by place: reading, writing, poison (01 R29 to R31; 13 R250, R252; 20 R398). -/

namespace Sys2Proof.Machine

/-- The place n bytes on. -/
def Place.plus (p : Place) (n : Nat) : Place :=
  match p with
  | .glob pa => .glob (pa + n)
  | .scr t o => .scr t (o + n)
  | .til c o => .til c (o + n)
  | .loc c o => .loc c (o + n)

/-- Number that orders places, distinct for distinct places. -/
def Place.code : Place → Nat
  | .glob pa => pa
  | .scr t o => 2 ^ 59 + t * 2 ^ 24 + o
  | .til c o => 2 ^ 57 + c * 2 ^ 24 + o
  | .loc c o => 2 ^ 58 + c * 2 ^ 16 + o

/-- Core of a team, or the core it was placed on once it is gone. -/
def teamCore (s : State) (key : Nat) : Nat :=
  match s.team? key with
  | some t => t.core
  | none => key % 8192 / 16

/-- Core ID at a position of a cluster, where its team is or was last placed (R13, R318). -/
def coreAtPos (s : State) (k : Cluster) (p : Nat) : Nat :=
  match Tab.find? k.teams p with
  | some key => teamCore s key
  | none => k.origin + 16 * (p / k.w) + p % k.w

/-- Cores of a cluster by position. -/
def clusterCores (s : State) (k : Cluster) : List Nat := (List.range (k.w * k.h)).map (coreAtPos s k)

/-- Mesh steps between two cores, at least one. -/
def meshSteps (a b : Nat) : Nat :=
  max 1 ((coreRow a - coreRow b) + (coreRow b - coreRow a) + (coreCol a - coreCol b) + (coreCol b - coreCol a))

/-! Scratchpad -/

/-- A byte of a team's scratchpad. -/
def Team.byte (t : Team) (off : Nat) : Byte :=
  match Tab.find? t.scratch off with
  | some b => b
  | none => if off < t.scrBase then 0 else Config.freeByte (t.scrDraw + off)

/-- A scratchpad with a byte written; the high-water mark rises to the end of its granule (R250). -/
def Team.setByte (t : Team) (off : Nat) (b : Byte) : Team :=
  { t with scratch := if off < t.scrBase then Tab.set 0 t.scratch off b else Tab.put t.scratch off b,
           hiwater := max t.hiwater (off / 64 * 64 + 64) }

/-! One byte -/

/-- A byte at its place, global memory at the home slice. An access that issued before its team retired reads unspecified
bytes after it (R157 checks the range at issue; the spec states no byte there) DESIGN CHOICE. -/
def rdPlace (s : State) (p : Place) : Byte :=
  match p with
  | .glob pa => rd8 s pa
  | .scr t o => match s.team? t with | some x => x.byte o | none => Config.freeByte (s.now * 2 ^ 64 + p.code)
  | .til c o => match Tab.find? (s.core c).ci.tiles (o / 512) with | some x => Tab.get 0 x.data (o % 512) | none => 0
  | .loc c o => Tab.get 0 (s.score c).local_ o

/-- Bytes from a place upward. -/
def rdPlaces (s : State) (p : Place) (n : Nat) : List Byte := (List.range n).map (fun i => rdPlace s (p.plus i))

/-- A byte written at a place outside global memory. -/
def wrLocal (s : State) (p : Place) (b : Byte) : State :=
  match p with
  | .glob _ => s
  | .scr t o => s.modTeam t (fun x => x.setByte o b)
  | .til c o => s.modCi c (fun ci =>
      { ci with tiles := Tab.modify ci.tiles (o / 512) (fun x => { x with data := Tab.set 0 x.data (o % 512) b }) })
  | .loc c o => s.modScore c (fun x => { x with local_ := Tab.set 0 x.local_ o b })

/-! Poison outside global memory (R398) -/

/-- The protected 64-bit word of a place outside global memory. -/
def Place.word? : Place → Option ErrLoc
  | .glob _ => none
  | .scr t o => some (.scratch t (o / 8))
  | .til c o => some (.tile c (o / 8))
  | .loc c o => some (.localMem c (o / 8))

/-- Whether any word that holds the n bytes is poisoned. -/
def poisonedAt (s : State) (p : Place) (n : Nat) : Bool :=
  match p with
  | .glob pa => poisoned s pa n
  | p => (List.range n).any (fun i => match (p.plus i).word? with | some w => s.struck.contains w | none => false)

/-- Words that a run of written places covers whole lose their poison. -/
def clearStruck (s : State) (ws : List (Place × Byte)) : State :=
  if s.struck = [] then s else
  let covered (e : ErrLoc) : Nat :=
    (((ws.filter (fun w => decide (w.1.word? = some e))).map (fun w => w.1.code)).eraseDups).length
  { s with struck := s.struck.filter (fun e => decide (covered e < 8)) }

/-- Bytes written at places outside global memory, in order. -/
def wrPlaces (s : State) (ws : List (Place × Byte)) : State :=
  clearStruck (ws.foldl (fun s w => wrLocal s w.1 w.2) s) ws

/-- The n bytes of a value at a place. -/
def placeRun (p : Place) (bs : List Byte) : List (Place × Byte) := bs.zipIdx.map (fun e => (p.plus e.2, e.1))

end Sys2Proof.Machine
end

