-- ==== Sys2Proof/Machine/Trace.lean ====
section
/-! DEFINITION. Halts of the debug module, and recording and replay (19 R374, R384, R385). -/

namespace Sys2Proof.Machine

/-! Halts -/

/-- Cells a trigger from a unit reaches: those of its cluster's cores, or a strand's own (R374). -/
def triggerCells (s : State) (un : UnitSt) : List Nat :=
  if un.at_.strand then [un.cell]
  else
    match s.team? un.at_.team with
    | none => [un.cell]
    | some t =>
      match s.cluster? t.cluster with
      | none => [un.cell]
      | some k =>
        ((clusterCores s k).map cellOfCore).eraseDups

/-- A cell's module is armed for a context (R372). -/
def armed (s : State) (cell ctx : Nat) : Bool :=
  let d := (s.cell cell).dbg
  d.owner == ctx && bit d.dflags 0 && bit d.dflags 1

/-- Halts one cell for a context: its units stop and its copy engines freeze (R374). -/
def haltCell (s : State) (ctx : Nat) (from_ : Nat) (cell : Nat) : State :=
  let s := s.mapUnits (fun _ x => if x.cell == cell && x.at_.ctx == ctx && x.halted.isNone then { x with halted := some s.now } else x)
  s.modDebug cell (fun d => { d with frozen := true, halted := from_ :: d.halted })

/-- A trigger from a unit halts every cell it reaches that is armed (R374). -/
def crossTrigger (s : State) (u : Nat) (un : UnitSt) : State :=
  (triggerCells s un).foldl (fun s c => if armed s c un.at_.ctx then haltCell s un.at_.ctx u c else s) s

/-! Recording and replay -/

/-- The log slot of a group, when it keeps one (R384). -/
def logSlot (s : State) (un : UnitSt) : Option Nat :=
  if un.at_.strand || un.gather.isSome then none
  else match s.team? un.at_.team with
    | some t => some (rdNat s (debugBlock s un.cell + 24) 8 + 65536 * (32 * t.gteam + un.at_.gint))
    | none => none

/-- A divergence of a unit, in the split whose lowest lane is given, at the instruction at x (R385). -/
def diverge (s : State) (u lane : Nat) (un : UnitSt) (logged : DWord) (x : DWord) : State :=
  let blk := debugBlock s un.cell
  let s := poke s (run (blk + 4) (bytesOf 4 (rdNat s (blk + 4) 4 + 1)))
  let s := if tracing s un then emitTrace s u un 3 lane x logged else s
  let s := s.modDebug un.cell (fun d => { d with diverged := u :: d.diverged })
  if bit (s.cell un.cell).dbg.dflags 2 then crossTrigger s u un else s

/-- A number of n bytes of context 0's memory, 0 where it is not mapped. -/
def rdSys (s : State) (va n : Nat) : Nat := ofBytes ((rdVirt s 0 va n).getD [])

/-- A synchronising operation at x of a group's split, whose lowest lane is given, is logged or compared (R384, R385). -/
def logSync (s : State) (u lane : Nat) (x : DWord) : State :=
  match s.unit? u with
  | none => s
  | some un =>
    let d := (s.cell un.cell).dbg
    if !debugged s un || d.diverged.contains u then s else
    match logSlot s un with
    | none => s
    | some slot =>
      let k := un.replay
      let s1 := s.putUnit u { un with replay := k + 1 }
      if d.rmode = 1 then
        if k < 8184 then
          pokeVirt (pokeVirt s1 0 (slot + 64 + 8 * k) (bytesOf 8 un.ctl.retired.toNat)) 0 slot (bytesOf 8 (k + 1))
        else pokeVirt s1 0 (slot + 24) (bytesOf 1 (rdSys s (slot + 24) 1 / 2 * 2 + 1))
      else if d.rmode = 2 then
        if k < rdSys s slot 8 then
          if rdSys s (slot + 64 + 8 * k) 8 = un.ctl.retired.toNat then s1
          else diverge s1 u lane un (dw (rdSys s (slot + 64 + 8 * k) 8)) x
        else if bit (rdSys s (slot + 24) 1) 0 then s1
        else diverge s1 u lane un 0 x
      else s

/-- The exit of a group by the instruction at x is logged or compared, and traced (R383 to R385). -/
def logExit (s : State) (u lane : Nat) (x : DWord) : State :=
  match s.unit? u with
  | none => s
  | some un =>
    let d := (s.cell un.cell).dbg
    let s := if tracing s un then emitTrace s u un 4 lane x un.ctl.pathsig else s
    if !debugged s un || d.diverged.contains u then s else
    match logSlot s un with
    | none => s
    | some slot =>
      if d.rmode = 1 then
        let s := pokeVirt s 0 (slot + 8) (bytesOf 8 un.ctl.pathsig.toNat ++ bytesOf 8 un.ctl.retired.toNat)
        pokeVirt s 0 (slot + 24) (bytesOf 1 (2 + rdSys s (slot + 24) 1 % 2))
      else if d.rmode = 2 then
        if (un.replay < rdSys s slot 8) ∨ rdSys s (slot + 8) 8 ≠ un.ctl.pathsig.toNat ∨
            rdSys s (slot + 16) 8 ≠ un.ctl.retired.toNat then diverge s u lane un (dw (rdSys s (slot + 8) 8)) x
        else s
      else s

end Sys2Proof.Machine
end

