-- ==== Sys2Proof/Machine/Commands.lean ====
section
/-! DEFINITION. Assembly of engine commands and their passing to the engines; result queues (12 R225, R226, R231; 19 R363, R364). -/

namespace Sys2Proof.Machine

/-! Supersteps -/

/-- Barriers completed by the superstep grid of a group, as its core has been released to them; none outside superstep mode (R363). -/
def superCount (s : State) (un : UnitSt) : Option Nat :=
  if un.at_.strand then none else
  match s.task? un.at_.task with
  | some t =>
    if bit t.rec_.flags 0 && un.gather.isNone then
      some (match Tab.find? t.phase un.at_.core with | some p => p.1 | none => 0)
    else none
  | none => none

/-- The unit runs in a compute phase (R363). -/
def computePhase (s : State) (un : UnitSt) : Bool :=
  match superCount s un with
  | some c => c % 2 == 0
  | none => false

/-! Command registers -/

/-- Words of the command that begins with word 0 on a command register (R228, R233). -/
def commandLen (reg : Nat) (w0 : Word) : Nat := if reg = 0 then 8 else bits w0.toNat 11 8 + 1

/-- Assembly buffer of a command register. -/
def asmOf (un : UnitSt) (reg : Nat) : List Word := Tab.get [] un.eng.asm reg

/-- A push of this word completes a command (R226). -/
def completes (un : UnitSt) (reg : Nat) (w : Word) : Bool :=
  let l := asmOf un reg ++ [w]
  l.length == commandLen reg (l.headD 0)

/-- The next word, whatever it is, is the last of a command begun. The first word of a command is its last only when it says so
itself, which `crowded` finds once the word is known. -/
def mayComplete (un : UnitSt) (reg : Nat) : Bool :=
  let l := asmOf un reg
  !l.isEmpty && l.length + 1 == commandLen reg (l.headD 0)

/-- Entries of an engine (R226). -/
abbrev engineEntries := 32

/-- Commands that the engine of a command register holds. -/
def engineLoad (s : State) (un : UnitSt) (reg : Nat) : Nat :=
  if reg = 0 then (s.core un.at_.core).cmds.length
  else if reg = 1 then (s.die un.die).mergeCmds.length
  else (s.die un.die).scanCmds.length

/-- The engine of a command register has a free entry (R226). -/
def engineRoom (s : State) (un : UnitSt) (reg : Nat) : Bool := decide (engineLoad s un reg < engineEntries)

/-- Memory instructions (R93, R176): those whose operations count in mops. -/
def isMemory : Instr → Bool
  | .ld _ | .st _ | .gld _ | .sct _ | .lds _ | .sts _ | .ldsr _ | .stsr _ | .ldt _ | .stt _ | .ldl _ | .stl _ | .ldw _
  | .stw _ | .cmpst _ | .expld _ | .pref _ | .atomAdd _ | .atomMin _ | .atomMax _ | .atomAnd _ | .atomOr _ | .atomXor _
  | .atomExch _ | .atomCas _ | .atomFadd _ | .atomFmin _ | .atomFmax _ | .atomAddBf16x2 _ | .atomVismin _ | .redAdd _
  | .redMin _ | .redMax _ | .redFadd _ | .redAddBf16x2 _ | .atomlCas _ | .atomlAdd _ | .atomwCas _ | .atomwAdd _
  | .atomwExch _ | .discard _ | .cinv _ | .cwb _ | .cflush _ | .mlda _ | .mldb _ | .mst _ => true
  | _ => false

/-- Memory instructions that are subject to order: all but PREF (R163). -/
def isOrdered : Instr → Bool
  | .pref _ => false
  | i => isMemory i

/-- Outstanding memory instructions of a unit, which a command pushed now follows (R227). -/
def outstanding (un : UnitSt) : List Nat :=
  un.ops.filterMap (fun (x : Nat × Op) => if isOrdered x.2.instr then some x.1 else none)

/-- A memory instruction that a unit issued before its last push of a command has not been performed yet (R227). -/
def pushHeld (s : State) (u : Nat) (after : List Nat) : Bool :=
  match s.unit? u with
  | some un => after.any (fun k => (Tab.find? un.ops k).isSome)
  | none => false

/-- Word i of a command. -/
def cw (ws : List Word) (i : Nat) : Nat := (ws.getD i 0).toNat

/-- Registers a VFILL fills: first and count (Table 12-3). -/
def vfillSpan (ws : List Word) : Nat × Nat := (bits (cw ws 3) 9 0, bits (cw ws 3) 15 10 + 1)

/-- Sets the full/empty bits of consecutive v registers. -/
def setVfe (un : UnitSt) (r k : Nat) (f : Fe) : UnitSt :=
  let vfe := (List.range k).foldl (fun t i => Tab.set Fe.full t (r + i) f) un.regs.vfe
  { un with regs := { un.regs with vfe := vfe } }

/-- Event that performs a copy command (R229). -/
def copyEvent (core k op : Nat) : Event :=
  match op with
  | 1 => .fill core k | 2 => .vfill core k | 3 => .tsend core k | 4 => .plan core k | _ => .copy core k

/-- Register blocks of a group's allocation (R21). -/
def regblkOf (s : State) (un : UnitSt) : Nat :=
  match s.team? un.at_.team with
  | some t => t.regblk
  | none => 0

/-- Registers of a VFILL's span that lie in the allocation of its group (R229, R230). -/
def vfillRegs (s : State) (un : UnitSt) (ws : List Word) : Nat × Nat :=
  let sp := vfillSpan ws
  (sp.1, min sp.2 (8 * regblkOf s un - sp.1))

/-- A command passes to the copy engine: it joins the open batch, and a VFILL empties the registers of its span that lie in the allocation (R226, R231, R24). -/
def passCopy (s : State) (u : Nat) (un : UnitSt) (ws : List Word) : State :=
  let c := un.at_.core
  let k := s.now * 128 + un.at_.slot
  let op := bits (cw ws 0) 3 0
  let glob := bits (cw ws 0) 10 8 = 0 ∧ op = 0 ∨ bits (cw ws 0) 13 11 = 0 ∧ (op = 0 ∨ op = 1) ∨ bits (cw ws 0) 10 8 = 0 ∧ op = 2
  let cmd : CopyCmd :=
    { unit := u, slot := un.at_.slot, ctx := un.at_.ctx, team := un.at_.team, words := ws, batch := un.eng.batchNo, pos := 0,
      flags := 0, st := .live, malformed := computePhase s un && decide glob, addr := 0, failed := false, writes := [],
      rel := 0, plan := [], sends := 0, after := outstanding un }
  let b := Tab.get ⟨0, none, []⟩ un.eng.batches un.eng.batchNo.toNat
  let un := { un with eng := { un.eng with batches := Tab.put un.eng.batches un.eng.batchNo.toNat { b with left := b.left + 1 } } }
  let sp := vfillRegs s un ws
  let un := if op = 2 then setVfe un sp.1 sp.2 .pending else un
  let s := (s.putUnit u un).modCore c (fun x => { x with cmds := Tab.put x.cmds k cmd })
  if op = 4 then s.soon (.event (.plan c k)) else s.laterFree (copyEvent c k op)

/-- Event that performs a merge-unit or scan-out command (Table 12-6); an unknown code is answered by the first. -/
def fabricEvent (d reg k code : Nat) : Event :=
  if reg = 1 then match code with | 2 => .mergeClose d k | 3 => .frame d k | 4 => .absent d k | _ => .mergeOpen d k
  else match code with | 2 => .route d k | 3 => .unsink d k | _ => .sink d k

/-- Key of a command of e1 or e2: its cycle, then groups in ascending id.group, then strands in ascending id.strand (R226). -/
def fabricKey (now : Nat) (un : UnitSt) : Nat :=
  now * 2 ^ 18 + (if un.at_.strand then 2 ^ 17 + un.strandId else un.at_.slot * 512 + un.at_.core % 512)

/-- A command passes to the die's merge unit or scan-out engines (R226). -/
def passFabric (s : State) (u : Nat) (un : UnitSt) (reg : Nat) (ws : List Word) : State :=
  let d := un.die
  let cmd : FabCmd := { unit := u, ctx := un.at_.ctx, words := ws, after := outstanding un }
  let k := fabricKey s.now un
  let s := if reg = 1 then s.modDie d (fun x => { x with mergeCmds := Tab.put x.mergeCmds k cmd })
    else s.modDie d (fun x => { x with scanCmds := Tab.put x.scanCmds k cmd })
  s.laterFree (fabricEvent d reg k (bits (cw ws 0) 7 0))

/-- A word is pushed to a command register; the last word of a command passes it to its engine (R226). -/
def pushCommand (s : State) (u : Nat) (un : UnitSt) (reg : Nat) (w : Word) : State :=
  let l := asmOf un reg ++ [w]
  if completes un reg w then
    let un := { un with eng := { un.eng with asm := Tab.set [] un.eng.asm reg [] } }
    if reg = 0 then passCopy (s.putUnit u un) u un l else passFabric (s.putUnit u un) u un reg l
  else s.putUnit u { un with eng := { un.eng with asm := Tab.set [] un.eng.asm reg l } }

/-! Result queues -/

/-- Records of the result queue e(8 + r) of a unit. -/
def resultRecs (un : UnitSt) (r : Nat) : List ResRec := Tab.get [] un.eng.res r

/-- Words of the result queue e(8 + r) of a unit. -/
def resultQ (un : UnitSt) (r : Nat) : List Word := (resultRecs un r).flatMap (fun x => x.words)

/-- Records waiting for queue r come in whole, in order, while they fit in its 64 words; one that does not fit holds up those behind it for the queue (R226). -/
def takeRecords (un : UnitSt) (r : Nat) : UnitSt :=
  let z := un.eng.waiting.foldl (fun (st : List ResRec × List (Nat × ResRec) × Bool) w =>
    let n := (st.1.flatMap (fun x => x.words)).length + w.2.words.length
    if w.1 = r then
      if !st.2.2 && decide (n ≤ 64) then (st.1 ++ [w.2], st.2.1, false) else (st.1, st.2.1 ++ [w], true)
    else (st.1, st.2.1 ++ [w], st.2.2)) (resultRecs un r, [], false)
  { un with eng := { un.eng with res := Tab.set [] un.eng.res r z.1, waiting := z.2.1 } }

/-- A record is on its way to a result queue of a unit: it waits at the interface and RESULT_RECORD_APPEND takes it in (R226). It announces the runs of global bytes given (R227). -/
def sendRecord (s : State) (u r : Nat) (ws : List Word) (writes : List (Nat × Nat)) : State :=
  match s.unit? u with
  | none => s
  | some un =>
    (s.putUnit u { un with eng := { un.eng with waiting := un.eng.waiting ++ [(r, ⟨ws, writes, true⟩)] } }).laterFree (.resultRecordAppend u r)

/-- R226. -/
def execResultRecordAppend (u r : Nat) (s : State) : Host.Outcome State Fault Refusal :=
  .next (match s.unit? u with
    | none => s
    | some un =>
      let s := s.putUnit u (takeRecords un r)
      if (takeRecords un r).eng.waiting.length < un.eng.waiting.length then wakeSleepers s u else s)

end Sys2Proof.Machine
end

