-- ==== Sys2Proof/Machine/Operands.lean ====
section
/-! DEFINITION. Operand forms: which registers each instruction names, reading and writing them, the checks and waits they give, and the issue of one instruction (01 R18 to R25; 03 R61, R62, R70, R72; 06 R110 to R113). -/

namespace Sys2Proof.Machine

/-- The registers an instruction reads: each operand with the number of consecutive registers it stands for (R18, R111, R154). -/
def srcs : Instr → List (Operand × Nat)
  | .ret _ => [(.s 62, 2)]
  | .jmpi x => [(x.a, 2)]
  | .calli x => [(x.a, 2)]
  | .loop x => [(x.src, 1)]
  | .iadd x => [(x.a, 1), (x.b, 1)]
  | .isub x => [(x.a, 1), (x.b, 1)]
  | .iaddc x => [(x.a, 1), (x.b, 1)]
  | .isubb x => [(x.a, 1), (x.b, 1)]
  | .iaddi x => [(x.a, 1)]
  | .ineg x => [(x.a, 1)]
  | .iabs x => [(x.a, 1)]
  | .iadd64 x => [(x.a, 2), (x.b, 2)]
  | .isub64 x => [(x.a, 2), (x.b, 2)]
  | .iaddi64 x => [(x.a, 2)]
  | .imin x => [(x.a, 1), (x.b, 1)]
  | .imax x => [(x.a, 1), (x.b, 1)]
  | .icmpp x => [(x.a, 1), (x.b, 1)]
  | .icmppi x => [(x.a, 1)]
  | .sel x => [(x.a, 1), (x.b, 1)]
  | .and_ x => [(x.a, 1), (x.b, 1)]
  | .or_ x => [(x.a, 1), (x.b, 1)]
  | .xor_ x => [(x.a, 1), (x.b, 1)]
  | .not_ x => [(x.a, 1)]
  | .andi x => [(x.a, 1)]
  | .ori x => [(x.a, 1)]
  | .xori x => [(x.a, 1)]
  | .shl x => [(x.a, 1), (x.b, 1)]
  | .shr x => [(x.a, 1), (x.b, 1)]
  | .sar x => [(x.a, 1), (x.b, 1)]
  | .rol x => [(x.a, 1), (x.b, 1)]
  | .ror x => [(x.a, 1), (x.b, 1)]
  | .shli x => [(x.a, 1)]
  | .shri x => [(x.a, 1)]
  | .sari x => [(x.a, 1)]
  | .popc x => [(x.a, 1)]
  | .clz x => [(x.a, 1)]
  | .ctz x => [(x.a, 1)]
  | .brev x => [(x.a, 1)]
  | .mov x => [(x.a, if x.m then 2 else 1)]
  | .lea x => [(x.a, 2), (x.b, 1)]
  | .shl64 x => [(x.a, 2), (x.b, 1)]
  | .shr64 x => [(x.a, 2), (x.b, 1)]
  | .sar64 x => [(x.a, 2), (x.b, 1)]
  | .icmpp64 x => [(x.a, 2), (x.b, 2)]
  | .imul x => [(x.a, 1), (x.b, 1)]
  | .imulhi x => [(x.a, 1), (x.b, 1)]
  | .imad x => [(x.a, 1), (x.b, 1), (x.c, 1)]
  | .imulw x => [(x.a, 1), (x.b, 1)]
  | .imadw x => [(x.a, 1), (x.b, 1), (x.c, 2)]
  | .divstep x => [(x.a, 2), (x.b, 1)]
  | .divinit x => [(x.a, 1)]
  | .bfx x => [(x.a, 1), (x.b, 1)]
  | .bfi x => [(x.a, 1), (x.b, 1), (x.c, 1)]
  | .fadd x => [(x.a, 1), (x.b, 1)]
  | .fsub x => [(x.a, 1), (x.b, 1)]
  | .fmul x => [(x.a, 1), (x.b, 1)]
  | .ffma x => [(x.a, 1), (x.b, 1), (x.c, 1)]
  | .fmin x => [(x.a, 1), (x.b, 1)]
  | .fmax x => [(x.a, 1), (x.b, 1)]
  | .fcmpp x => [(x.a, 1), (x.b, 1)]
  | .fabs x => [(x.a, 1)]
  | .fneg x => [(x.a, 1)]
  | .fclass x => [(x.a, 1)]
  | .badd x => [(x.a, 1), (x.b, 1)]
  | .bsub x => [(x.a, 1), (x.b, 1)]
  | .bmul x => [(x.a, 1), (x.b, 1)]
  | .bfma x => [(x.a, 1), (x.b, 1), (x.c, 1)]
  | .bpadd x => [(x.a, 1), (x.b, 1)]
  | .bpsub x => [(x.a, 1), (x.b, 1)]
  | .bpmul x => [(x.a, 1), (x.b, 1)]
  | .bpfma x => [(x.a, 1), (x.b, 1), (x.c, 1)]
  | .bpmin x => [(x.a, 1), (x.b, 1)]
  | .bpmax x => [(x.a, 1), (x.b, 1)]
  | .bmin x => [(x.a, 1), (x.b, 1)]
  | .bmax x => [(x.a, 1), (x.b, 1)]
  | .bcmpp x => [(x.a, 1), (x.b, 1)]
  | .faddi x => [(x.a, 1)]
  | .fmuli x => [(x.a, 1)]
  | .ffmai x => [(x.a, 1), (x.b, 1)]
  | .rcp x => [(x.a, 1)]
  | .rsq x => [(x.a, 1)]
  | .sqrt x => [(x.a, 1)]
  | .exp2 x => [(x.a, 1)]
  | .log2 x => [(x.a, 1)]
  | .tanh x => [(x.a, 1)]
  | .sint x => [(x.a, 1)]
  | .cost x => [(x.a, 1)]
  | .sincost x => [(x.a, 1)]
  | .cvtfh x => [(x.a, 1)]
  | .cvthf x => [(x.a, 1)]
  | .packh x => [(x.a, 1), (x.b, 1)]
  | .cvtf8 x => [(x.a, 1), (x.b, 1), (x.c, 1)]
  | .cvtf4 x => [(x.a, 1), (x.b, 1), (x.c, 1)]
  | .cvt8f x => (x.a, 1) :: (match x.b with | none => [] | some o => [(o, 1)])
  | .cvt4f x => (x.a, 1) :: (match x.b with | none => [] | some o => [(o, 1)])
  | .mxpack x => [(x.a, 1)]
  | .mxunpk x => [(x.a, 1)]
  | .cvtfi x => [(x.a, 1)]
  | .cvtif x => [(x.a, if x.m.ty.wide then 2 else 1)]
  | .cvtii x => [(x.a, match x.m.width with | .w32 => 2 | _ => 1)]
  | .shfl x => [(x.a, 1), (x.b, 1)]
  | .shflup x => [(x.a, 1), (x.b, 1), (x.c, 1)]
  | .shfldn x => [(x.a, 1), (x.b, 1), (x.c, 1)]
  | .shflx x => [(x.a, 1), (x.b, 1)]
  | .pscan x => [(x.a, 1)]
  | .reduce x => [(x.a, 1)]
  | .match_ x => [(x.a, if x.m then 2 else 1)]
  | .ld x => [(x.base, if x.m.a64 then 2 else 1), (x.s, 2)]
  | .st x => [(x.d, x.m.ty.regs), (x.base, if x.m.a64 then 2 else 1), (x.s, 2)]
  | .gld x => [(x.base, if x.m.a64 then 2 else 1), (x.s, 2)]
  | .sct x => [(x.d, x.m.ty.regs), (x.base, if x.m.a64 then 2 else 1), (x.s, 2)]
  | .lds x => [(x.base, 1)]
  | .sts x => [(x.d, x.m.ty.regs), (x.base, 1)]
  | .ldsr x => [(x.base, 1)]
  | .stsr x => [(x.d, x.m.ty.regs), (x.base, 1)]
  | .ldt x => [(x.base, 1)]
  | .stt x => [(x.d, x.m.ty.regs), (x.base, 1)]
  | .ldl x => [(x.base, 1)]
  | .stl x => [(x.d, x.m.ty.regs), (x.base, 1)]
  | .ldw x => [(x.base, 1)]
  | .stw x => [(x.d, x.m.ty.regs), (x.base, 1)]
  | .cmpst x => [(x.d, x.m.ty.regs), (x.base, 2), (x.s, 1)]
  | .expld x => [(x.base, 2), (x.s, 1)]
  | .pref x => [(x.base, if x.m.a64 then 2 else 1), (x.s, 2)]
  | .atomAdd x => [(x.d, x.m.regs), (x.base, if x.m.a64 then 2 else 1), (x.s, 2)]
  | .atomMin x => [(x.d, x.m.regs), (x.base, if x.m.a64 then 2 else 1), (x.s, 2)]
  | .atomMax x => [(x.d, x.m.regs), (x.base, if x.m.a64 then 2 else 1), (x.s, 2)]
  | .atomAnd x => [(x.d, x.m.regs), (x.base, if x.m.a64 then 2 else 1), (x.s, 2)]
  | .atomOr x => [(x.d, x.m.regs), (x.base, if x.m.a64 then 2 else 1), (x.s, 2)]
  | .atomXor x => [(x.d, x.m.regs), (x.base, if x.m.a64 then 2 else 1), (x.s, 2)]
  | .atomExch x => [(x.d, x.m.regs), (x.base, if x.m.a64 then 2 else 1), (x.s, 2)]
  | .atomCas x => [(x.d, 2 * x.m.regs), (x.base, if x.m.a64 then 2 else 1), (x.s, 2)]
  | .atomFadd x => [(x.d, x.m.regs), (x.base, if x.m.a64 then 2 else 1), (x.s, 2)]
  | .atomFmin x => [(x.d, x.m.regs), (x.base, if x.m.a64 then 2 else 1), (x.s, 2)]
  | .atomFmax x => [(x.d, x.m.regs), (x.base, if x.m.a64 then 2 else 1), (x.s, 2)]
  | .atomAddBf16x2 x => [(x.d, x.m.regs), (x.base, if x.m.a64 then 2 else 1), (x.s, 2)]
  | .atomVismin x => [(x.d, x.m.regs), (x.base, if x.m.a64 then 2 else 1), (x.s, 2)]
  | .redAdd x => [(x.d, x.m.regs), (x.base, if x.m.a64 then 2 else 1), (x.s, 2)]
  | .redMin x => [(x.d, x.m.regs), (x.base, if x.m.a64 then 2 else 1), (x.s, 2)]
  | .redMax x => [(x.d, x.m.regs), (x.base, if x.m.a64 then 2 else 1), (x.s, 2)]
  | .redFadd x => [(x.d, x.m.regs), (x.base, if x.m.a64 then 2 else 1), (x.s, 2)]
  | .redAddBf16x2 x => [(x.d, x.m.regs), (x.base, if x.m.a64 then 2 else 1), (x.s, 2)]
  | .atomlCas x => [(x.d, 2 * x.m.regs), (x.base, 1)]
  | .atomlAdd x => [(x.d, x.m.regs), (x.base, 1)]
  | .atomwCas x => [(x.d, 2 * x.m.regs), (x.base, 1)]
  | .atomwAdd x => [(x.d, x.m.regs), (x.base, 1)]
  | .atomwExch x => [(x.d, x.m.regs), (x.base, 1)]
  | .fenceSurf x => [(x.base, 2)]
  | .discard x => [(x.base, 2), (x.s, 1)]
  | .cinv x => [(x.base, if x.m.a64 then 2 else 1), (x.s, 2)]
  | .cwb x => [(x.base, if x.m.a64 then 2 else 1), (x.s, 2)]
  | .cflush x => [(x.base, if x.m.a64 then 2 else 1), (x.s, 2)]
  | .mlda x => [(x.base, 1), (x.s, 1)]
  | .mldb x => [(x.base, 1), (x.s, 1)]
  | .mst x => [(x.base, if x.glb then 2 else 1), (x.s, 1)]
  | .barc x => [(x.a, 1)]
  | .chain x => [(x.a, 1)]
  | .enq x => [(x.base, if x.m.a64 then 2 else 1), (x.s, 2)]
  | .deq x => [(x.base, if x.m.a64 then 2 else 1), (x.s, 2)]
  | .launch x => [(x.base, if x.m.a64 then 2 else 1), (x.s, 2)]
  | .bwait x => [(x.a, 1)]
  | .poolq x => [(x.a, 1)]
  | .poolm x => [(x.a, 1)]
  | .svc x => (x.base, if x.a64 then 2 else 1) :: (match x.s with | none => [] | some o => [(o, 2)])
  | .ctlw x => [(x.a, if ctlWide x.n.val then 2 else 1)]
  | .sleep x => [(x.a, 1)]
  | _ => []

/-- The registers an instruction writes, as `srcs` gives those it reads. -/
def dsts : Instr → List (Operand × Nat)
  | .call _ => [(.s 62, 2)]
  | .calli x => [(x.d, 2)]
  | .iadd x => [(x.d, 1)]
  | .isub x => [(x.d, 1)]
  | .iaddc x => [(x.d, 1)]
  | .isubb x => [(x.d, 1)]
  | .iaddi x => [(x.d, 1)]
  | .ineg x => [(x.d, 1)]
  | .iabs x => [(x.d, 1)]
  | .iadd64 x => [(x.d, 2)]
  | .isub64 x => [(x.d, 2)]
  | .iaddi64 x => [(x.d, 2)]
  | .imin x => [(x.d, 1)]
  | .imax x => [(x.d, 1)]
  | .sel x => [(x.d, 1)]
  | .and_ x => [(x.d, 1)]
  | .or_ x => [(x.d, 1)]
  | .xor_ x => [(x.d, 1)]
  | .not_ x => [(x.d, 1)]
  | .andi x => [(x.d, 1)]
  | .ori x => [(x.d, 1)]
  | .xori x => [(x.d, 1)]
  | .shl x => [(x.d, 1)]
  | .shr x => [(x.d, 1)]
  | .sar x => [(x.d, 1)]
  | .rol x => [(x.d, 1)]
  | .ror x => [(x.d, 1)]
  | .shli x => [(x.d, 1)]
  | .shri x => [(x.d, 1)]
  | .sari x => [(x.d, 1)]
  | .popc x => [(x.d, 1)]
  | .clz x => [(x.d, 1)]
  | .ctz x => [(x.d, 1)]
  | .brev x => [(x.d, 1)]
  | .mov x => [(x.d, if x.m then 2 else 1)]
  | .movi x => [(x.d, 1)]
  | .movhi x => [(x.d, 1)]
  | .movk x => [(x.d, match x.m with | .w32 => 1 | _ => 2)]
  | .lea x => [(x.d, 2)]
  | .shl64 x => [(x.d, 2)]
  | .shr64 x => [(x.d, 2)]
  | .sar64 x => [(x.d, 2)]
  | .imul x => [(x.d, 1)]
  | .imulhi x => [(x.d, 1)]
  | .imad x => [(x.d, 1)]
  | .imulw x => [(x.d, 2)]
  | .imadw x => [(x.d, 2)]
  | .divstep x => [(x.d, 2)]
  | .divinit x => [(x.d, 2)]
  | .bfx x => [(x.d, 1)]
  | .bfi x => [(x.d, 1)]
  | .fadd x => [(x.d, 1)]
  | .fsub x => [(x.d, 1)]
  | .fmul x => [(x.d, 1)]
  | .ffma x => [(x.d, 1)]
  | .fmin x => [(x.d, 1)]
  | .fmax x => [(x.d, 1)]
  | .fabs x => [(x.d, 1)]
  | .fneg x => [(x.d, 1)]
  | .fclass x => [(x.d, 1)]
  | .badd x => [(x.d, 1)]
  | .bsub x => [(x.d, 1)]
  | .bmul x => [(x.d, 1)]
  | .bfma x => [(x.d, 1)]
  | .bpadd x => [(x.d, 1)]
  | .bpsub x => [(x.d, 1)]
  | .bpmul x => [(x.d, 1)]
  | .bpfma x => [(x.d, 1)]
  | .bpmin x => [(x.d, 1)]
  | .bpmax x => [(x.d, 1)]
  | .bmin x => [(x.d, 1)]
  | .bmax x => [(x.d, 1)]
  | .faddi x => [(x.d, 1)]
  | .fmuli x => [(x.d, 1)]
  | .ffmai x => [(x.d, 1)]
  | .rcp x => [(x.d, 1)]
  | .rsq x => [(x.d, 1)]
  | .sqrt x => [(x.d, 1)]
  | .exp2 x => [(x.d, 1)]
  | .log2 x => [(x.d, 1)]
  | .tanh x => [(x.d, 1)]
  | .sint x => [(x.d, 1)]
  | .cost x => [(x.d, 1)]
  | .sincost x => [(x.d, 2)]
  | .cvtfh x => [(x.d, 1)]
  | .cvthf x => [(x.d, 1)]
  | .packh x => [(x.d, 1)]
  | .cvtf8 x => [(x.d, 1)]
  | .cvtf4 x => [(x.d, 1)]
  | .cvt8f x => [(x.d, 1)]
  | .cvt4f x => [(x.d, 1)]
  | .mxpack x => [(x.d, 1)]
  | .mxunpk x => [(x.d, 1)]
  | .cvtfi x => [(x.d, if x.m.ty.wide then 2 else 1)]
  | .cvtif x => [(x.d, 1)]
  | .cvtii x => [(x.d, 1)]
  | .shfl x => [(x.d, 1)]
  | .shflup x => [(x.d, 1)]
  | .shfldn x => [(x.d, 1)]
  | .shflx x => [(x.d, 1)]
  | .ballot x => [(x.d, 1)]
  | .pscan x => [(x.d, 1)]
  | .reduce x => [(x.d, 1)]
  | .match_ x => [(x.d, 1)]
  | .ld x => [(x.d, x.m.ty.regs)]
  | .gld x => [(x.d, x.m.ty.regs)]
  | .lds x => [(x.d, x.m.ty.regs)]
  | .ldsr x => [(x.d, x.m.ty.regs)]
  | .ldt x => [(x.d, x.m.ty.regs)]
  | .ldl x => [(x.d, x.m.ty.regs)]
  | .ldw x => [(x.d, x.m.ty.regs)]
  | .cmpst x => [(x.s, 1)]
  | .expld x => [(x.d, x.m.ty.regs), (x.s, 1)]
  | .atomAdd x => [(x.d, x.m.regs)]
  | .atomMin x => [(x.d, x.m.regs)]
  | .atomMax x => [(x.d, x.m.regs)]
  | .atomAnd x => [(x.d, x.m.regs)]
  | .atomOr x => [(x.d, x.m.regs)]
  | .atomXor x => [(x.d, x.m.regs)]
  | .atomExch x => [(x.d, x.m.regs)]
  | .atomCas x => [(x.d, x.m.regs)]
  | .atomFadd x => [(x.d, x.m.regs)]
  | .atomFmin x => [(x.d, x.m.regs)]
  | .atomFmax x => [(x.d, x.m.regs)]
  | .atomAddBf16x2 x => [(x.d, x.m.regs)]
  | .atomVismin x => [(x.d, x.m.regs)]
  | .atomlCas x => [(x.d, x.m.regs)]
  | .atomlAdd x => [(x.d, x.m.regs)]
  | .atomwCas x => [(x.d, x.m.regs)]
  | .atomwAdd x => [(x.d, x.m.regs)]
  | .atomwExch x => [(x.d, x.m.regs)]
  | .mrsv x => [(x.a, 1)]
  | .gbar x => [(x.d, 1)]
  | .chain x => [(x.d, 1)]
  | .enq x => [(x.d, 1)]
  | .deq x => [(x.d, 1)]
  | .launch x => [(x.d, 1)]
  | .bclose x => [(x.d, 1)]
  | .poolq x => [(x.d, 1)]
  | .poolm x => [(x.d, 1)]
  | .poolw x => [(x.d, 1)]
  | .svc x => [(x.d, 1)]
  | .ctlr x => [(x.d, if ctlWide x.n.val then 2 else 1)]
  | _ => []

/-- Whether the destination is filled by a long-latency producer (R24, R132). -/
def longLat : Instr → Bool
  | .ld _ | .gld _ | .lds _ | .ldsr _ | .ldt _ | .ldl _ | .ldw _ | .expld _ | .atomAdd _ | .atomMin _ | .atomMax _ | .atomAnd _ | .atomOr _ | .atomXor _ | .atomExch _ | .atomFadd _ | .atomFmin _ | .atomFmax _ | .atomAddBf16x2 _ | .atomVismin _ | .atomCas _ | .atomlCas _ | .atomlAdd _ | .atomwCas _ | .atomwAdd _ | .atomwExch _ | .rcp _ | .rsq _ | .sqrt _ | .exp2 _ | .log2 _ | .tanh _ | .sint _ | .cost _ | .sincost _ => true
  | _ => false

/-- The hints and guard of an instruction (R58, R60); BRD, BRANY, BRALL and the loops act for the whole split (R89). -/
def hintOf : Instr → Hint
  | .nop h => h
  | .exit h => h
  | .yield_ h => h
  | .ret h => h
  | .trap x => x.h.hint
  | .br x => x.h.hint
  | .call x => x.h.hint
  | .jmpi x => x.h.hint
  | .calli x => x.h.hint
  | .brd x => x.hint
  | .brany x => x.hint
  | .brall x => x.hint
  | .loop x => x.hint
  | .loopi x => x.hint
  | .iadd x => x.h.hint
  | .isub x => x.h.hint
  | .iaddc x => x.h.hint
  | .isubb x => x.h.hint
  | .iaddi x => x.h.hint
  | .ineg x => x.h.hint
  | .iabs x => x.h.hint
  | .iadd64 x => x.h.hint
  | .isub64 x => x.h.hint
  | .iaddi64 x => x.h.hint
  | .imin x => x.h.hint
  | .imax x => x.h.hint
  | .icmpp x => x.h.hint
  | .icmppi x => x.h.hint
  | .sel x => x.h.hint
  | .and_ x => x.h.hint
  | .or_ x => x.h.hint
  | .xor_ x => x.h.hint
  | .not_ x => x.h.hint
  | .andi x => x.h.hint
  | .ori x => x.h.hint
  | .xori x => x.h.hint
  | .shl x => x.h.hint
  | .shr x => x.h.hint
  | .sar x => x.h.hint
  | .rol x => x.h.hint
  | .ror x => x.h.hint
  | .shli x => x.h.hint
  | .shri x => x.h.hint
  | .sari x => x.h.hint
  | .popc x => x.h.hint
  | .clz x => x.h.hint
  | .ctz x => x.h.hint
  | .brev x => x.h.hint
  | .mov x => x.h.hint
  | .movi x => x.h.hint
  | .movhi x => x.h.hint
  | .movk x => x.h.hint
  | .lea x => x.h.hint
  | .shl64 x => x.h.hint
  | .shr64 x => x.h.hint
  | .sar64 x => x.h.hint
  | .icmpp64 x => x.h.hint
  | .imul x => x.h.hint
  | .imulhi x => x.h.hint
  | .imad x => x.h.hint
  | .imulw x => x.h.hint
  | .imadw x => x.h.hint
  | .divstep x => x.h.hint
  | .divinit x => x.h.hint
  | .bfx x => x.h.hint
  | .bfi x => x.h.hint
  | .fadd x => x.h.hint
  | .fsub x => x.h.hint
  | .fmul x => x.h.hint
  | .ffma x => x.h.hint
  | .fmin x => x.h.hint
  | .fmax x => x.h.hint
  | .fcmpp x => x.h.hint
  | .fabs x => x.h.hint
  | .fneg x => x.h.hint
  | .fclass x => x.h.hint
  | .badd x => x.h.hint
  | .bsub x => x.h.hint
  | .bmul x => x.h.hint
  | .bfma x => x.h.hint
  | .bpadd x => x.h.hint
  | .bpsub x => x.h.hint
  | .bpmul x => x.h.hint
  | .bpfma x => x.h.hint
  | .bpmin x => x.h.hint
  | .bpmax x => x.h.hint
  | .bmin x => x.h.hint
  | .bmax x => x.h.hint
  | .bcmpp x => x.h.hint
  | .faddi x => x.h.hint
  | .fmuli x => x.h.hint
  | .ffmai x => x.h.hint
  | .rcp x => x.h.hint
  | .rsq x => x.h.hint
  | .sqrt x => x.h.hint
  | .exp2 x => x.h.hint
  | .log2 x => x.h.hint
  | .tanh x => x.h.hint
  | .sint x => x.h.hint
  | .cost x => x.h.hint
  | .sincost x => x.h.hint
  | .cvtfh x => x.h.hint
  | .cvthf x => x.h.hint
  | .packh x => x.h.hint
  | .cvtf8 x => x.h.hint
  | .cvtf4 x => x.h.hint
  | .cvt8f x => x.h.hint
  | .cvt4f x => x.h.hint
  | .mxpack x => x.h.hint
  | .mxunpk x => x.h.hint
  | .cvtfi x => x.h.hint
  | .cvtif x => x.h.hint
  | .cvtii x => x.h.hint
  | .shfl x => x.h.hint
  | .shflup x => x.h.hint
  | .shfldn x => x.h.hint
  | .shflx x => x.h.hint
  | .ballot x => x.h.hint
  | .voteany x => x.h.hint
  | .voteall x => x.h.hint
  | .voteuni x => x.h.hint
  | .pscan x => x.h.hint
  | .reduce x => x.h.hint
  | .match_ x => x.h.hint
  | .ld x => x.h.hint
  | .st x => x.h.hint
  | .gld x => x.h.hint
  | .sct x => x.h.hint
  | .lds x => x.h.hint
  | .sts x => x.h.hint
  | .ldsr x => x.h.hint
  | .stsr x => x.h.hint
  | .ldt x => x.h.hint
  | .stt x => x.h.hint
  | .ldl x => x.h.hint
  | .stl x => x.h.hint
  | .ldw x => x.h.hint
  | .stw x => x.h.hint
  | .cmpst x => x.h.hint
  | .expld x => x.h.hint
  | .pref x => x.h.hint
  | .atomAdd x => x.h.hint
  | .atomMin x => x.h.hint
  | .atomMax x => x.h.hint
  | .atomAnd x => x.h.hint
  | .atomOr x => x.h.hint
  | .atomXor x => x.h.hint
  | .atomExch x => x.h.hint
  | .atomCas x => x.h.hint
  | .atomFadd x => x.h.hint
  | .atomFmin x => x.h.hint
  | .atomFmax x => x.h.hint
  | .atomAddBf16x2 x => x.h.hint
  | .atomVismin x => x.h.hint
  | .redAdd x => x.h.hint
  | .redMin x => x.h.hint
  | .redMax x => x.h.hint
  | .redFadd x => x.h.hint
  | .redAddBf16x2 x => x.h.hint
  | .atomlCas x => x.h.hint
  | .atomlAdd x => x.h.hint
  | .atomwCas x => x.h.hint
  | .atomwAdd x => x.h.hint
  | .atomwExch x => x.h.hint
  | .fence x => x.h.hint
  | .fenceSurf x => x.h.hint
  | .discard x => x.h.hint
  | .cinv x => x.h.hint
  | .cwb x => x.h.hint
  | .cflush x => x.h.hint
  | .mrsv x => x.h.hint
  | .mrel h => h
  | .mlda x => x.h.hint
  | .mldb x => x.h.hint
  | .mma x => x.h.hint
  | .mmaF32 x => x.h.hint
  | .mzero x => x.h.hint
  | .mst x => x.h.hint
  | .gang x => x.h.hint
  | .gangMma x => x.h.hint
  | .bar x => x.h.hint
  | .barc x => x.h.hint
  | .gbar x => x.h.hint
  | .voteg x => x.h.hint
  | .sete x => x.h.hint
  | .setf x => x.h.hint
  | .chain x => x.h.hint
  | .enq x => x.h.hint
  | .deq x => x.h.hint
  | .launch x => x.h.hint
  | .migr x => x.h.hint
  | .rets h => h
  | .bclose x => x.h.hint
  | .bwait x => x.h.hint
  | .poolq x => x.h.hint
  | .poolm x => x.h.hint
  | .poolw x => x.h.hint
  | .svc x => x.h.hint
  | .ctlr x => x.h.hint
  | .ctlw x => x.h.hint
  | .isync x => x.h.hint
  | .sleep x => x.h.hint
  | .halt h => h
  | .bkpt x => x.h.hint
  | .eret h => h
  | _ => ⟨0, false⟩

/-- The guard an instruction acts under (R61); those whose specifier names a tested predicate have none here (R89). -/
def guardOf : Instr → Option Guard
  | .trap x => x.h.guard
  | .br x => x.h.guard
  | .call x => x.h.guard
  | .jmpi x => x.h.guard
  | .calli x => x.h.guard
  | .iadd x => x.h.guard
  | .isub x => x.h.guard
  | .iaddc x => x.h.guard
  | .isubb x => x.h.guard
  | .iaddi x => x.h.guard
  | .ineg x => x.h.guard
  | .iabs x => x.h.guard
  | .iadd64 x => x.h.guard
  | .isub64 x => x.h.guard
  | .iaddi64 x => x.h.guard
  | .imin x => x.h.guard
  | .imax x => x.h.guard
  | .icmpp x => x.h.guard
  | .icmppi x => x.h.guard
  | .sel x => x.h.guard
  | .and_ x => x.h.guard
  | .or_ x => x.h.guard
  | .xor_ x => x.h.guard
  | .not_ x => x.h.guard
  | .andi x => x.h.guard
  | .ori x => x.h.guard
  | .xori x => x.h.guard
  | .shl x => x.h.guard
  | .shr x => x.h.guard
  | .sar x => x.h.guard
  | .rol x => x.h.guard
  | .ror x => x.h.guard
  | .shli x => x.h.guard
  | .shri x => x.h.guard
  | .sari x => x.h.guard
  | .popc x => x.h.guard
  | .clz x => x.h.guard
  | .ctz x => x.h.guard
  | .brev x => x.h.guard
  | .mov x => x.h.guard
  | .movi x => x.h.guard
  | .movhi x => x.h.guard
  | .movk x => x.h.guard
  | .lea x => x.h.guard
  | .shl64 x => x.h.guard
  | .shr64 x => x.h.guard
  | .sar64 x => x.h.guard
  | .icmpp64 x => x.h.guard
  | .imul x => x.h.guard
  | .imulhi x => x.h.guard
  | .imad x => x.h.guard
  | .imulw x => x.h.guard
  | .imadw x => x.h.guard
  | .divstep x => x.h.guard
  | .divinit x => x.h.guard
  | .bfx x => x.h.guard
  | .bfi x => x.h.guard
  | .fadd x => x.h.guard
  | .fsub x => x.h.guard
  | .fmul x => x.h.guard
  | .ffma x => x.h.guard
  | .fmin x => x.h.guard
  | .fmax x => x.h.guard
  | .fcmpp x => x.h.guard
  | .fabs x => x.h.guard
  | .fneg x => x.h.guard
  | .fclass x => x.h.guard
  | .badd x => x.h.guard
  | .bsub x => x.h.guard
  | .bmul x => x.h.guard
  | .bfma x => x.h.guard
  | .bpadd x => x.h.guard
  | .bpsub x => x.h.guard
  | .bpmul x => x.h.guard
  | .bpfma x => x.h.guard
  | .bpmin x => x.h.guard
  | .bpmax x => x.h.guard
  | .bmin x => x.h.guard
  | .bmax x => x.h.guard
  | .bcmpp x => x.h.guard
  | .faddi x => x.h.guard
  | .fmuli x => x.h.guard
  | .ffmai x => x.h.guard
  | .rcp x => x.h.guard
  | .rsq x => x.h.guard
  | .sqrt x => x.h.guard
  | .exp2 x => x.h.guard
  | .log2 x => x.h.guard
  | .tanh x => x.h.guard
  | .sint x => x.h.guard
  | .cost x => x.h.guard
  | .sincost x => x.h.guard
  | .cvtfh x => x.h.guard
  | .cvthf x => x.h.guard
  | .packh x => x.h.guard
  | .cvtf8 x => x.h.guard
  | .cvtf4 x => x.h.guard
  | .cvt8f x => x.h.guard
  | .cvt4f x => x.h.guard
  | .mxpack x => x.h.guard
  | .mxunpk x => x.h.guard
  | .cvtfi x => x.h.guard
  | .cvtif x => x.h.guard
  | .cvtii x => x.h.guard
  | .shfl x => x.h.guard
  | .shflup x => x.h.guard
  | .shfldn x => x.h.guard
  | .shflx x => x.h.guard
  | .ballot x => x.h.guard
  | .voteany x => x.h.guard
  | .voteall x => x.h.guard
  | .voteuni x => x.h.guard
  | .pscan x => x.h.guard
  | .reduce x => x.h.guard
  | .match_ x => x.h.guard
  | .ld x => x.h.guard
  | .st x => x.h.guard
  | .gld x => x.h.guard
  | .sct x => x.h.guard
  | .lds x => x.h.guard
  | .sts x => x.h.guard
  | .ldsr x => x.h.guard
  | .stsr x => x.h.guard
  | .ldt x => x.h.guard
  | .stt x => x.h.guard
  | .ldl x => x.h.guard
  | .stl x => x.h.guard
  | .ldw x => x.h.guard
  | .stw x => x.h.guard
  | .cmpst x => x.h.guard
  | .expld x => x.h.guard
  | .pref x => x.h.guard
  | .atomAdd x => x.h.guard
  | .atomMin x => x.h.guard
  | .atomMax x => x.h.guard
  | .atomAnd x => x.h.guard
  | .atomOr x => x.h.guard
  | .atomXor x => x.h.guard
  | .atomExch x => x.h.guard
  | .atomCas x => x.h.guard
  | .atomFadd x => x.h.guard
  | .atomFmin x => x.h.guard
  | .atomFmax x => x.h.guard
  | .atomAddBf16x2 x => x.h.guard
  | .atomVismin x => x.h.guard
  | .redAdd x => x.h.guard
  | .redMin x => x.h.guard
  | .redMax x => x.h.guard
  | .redFadd x => x.h.guard
  | .redAddBf16x2 x => x.h.guard
  | .atomlCas x => x.h.guard
  | .atomlAdd x => x.h.guard
  | .atomwCas x => x.h.guard
  | .atomwAdd x => x.h.guard
  | .atomwExch x => x.h.guard
  | .fence x => x.h.guard
  | .fenceSurf x => x.h.guard
  | .discard x => x.h.guard
  | .cinv x => x.h.guard
  | .cwb x => x.h.guard
  | .cflush x => x.h.guard
  | .mrsv x => x.h.guard
  | .mlda x => x.h.guard
  | .mldb x => x.h.guard
  | .mma x => x.h.guard
  | .mmaF32 x => x.h.guard
  | .mzero x => x.h.guard
  | .mst x => x.h.guard
  | .gang x => x.h.guard
  | .gangMma x => x.h.guard
  | .bar x => x.h.guard
  | .barc x => x.h.guard
  | .gbar x => x.h.guard
  | .voteg x => x.h.guard
  | .sete x => x.h.guard
  | .setf x => x.h.guard
  | .chain x => x.h.guard
  | .enq x => x.h.guard
  | .deq x => x.h.guard
  | .launch x => x.h.guard
  | .migr x => x.h.guard
  | .bclose x => x.h.guard
  | .bwait x => x.h.guard
  | .poolq x => x.h.guard
  | .poolm x => x.h.guard
  | .poolw x => x.h.guard
  | .svc x => x.h.guard
  | .ctlr x => x.h.guard
  | .ctlw x => x.h.guard
  | .isync x => x.h.guard
  | .sleep x => x.h.guard
  | .bkpt x => x.h.guard
  | _ => none

/-! Reading -/

/-- A value that does not apply reads as this (R19). -/
abbrev noId : Word := 0xFFFFFFFF

/-- A word from a natural number. -/
abbrev w32 (n : Nat) : Word := BitVec.ofNat 32 n

/-- An identity value of a group (Table 1-3, R220). -/
def groupId (s : State) (un : UnitSt) (lane : Nat) (i : IdVal) : Word :=
  let t? := s.team? un.at_.team
  let k? := match t? with | some t => s.cluster? t.cluster | none => none
  let task? := s.task? un.at_.task
  let sump := un.gather.isSome
  match i with
  | .lane => w32 lane
  | .group => w32 un.at_.slot
  | .team => match t? with | some t => w32 t.slot | none => noId
  | .gint => w32 un.at_.gint
  | .core => w32 un.at_.core
  | .cell => w32 (cellOfCore un.at_.core % 24)
  | .die => w32 (coreDie un.at_.core)
  | .clorg => if sump then w32 un.at_.core else match k? with | some k => w32 k.origin | none => noId
  | .clshape => if sump then 0x11 else match k? with | some k => w32 (k.w + 16 * k.h) | none => noId
  | .clpos => if sump then 0 else match t?, k? with
    | some t, some k => w32 (t.pos % k.w + 16 * (t.pos / k.w) + 256 * t.pos)
    | _, _ => noId
  | .strand => noId
  | .ctx => w32 un.at_.ctx
  | .gteam => if sump then noId else match t? with | some t => w32 t.gteam | none => noId
  | .gteams => if sump then noId else match task?, k? with
    | some t, some k => w32 (t.rec_.count * (k.w * k.h))
    | _, _ => noId
  | .ngroups => match t? with | some t => w32 t.ngroups | none => noId
  | .depth => match task? with | some t => w32 t.depth | none => noId
  | .regblk => match t? with | some t => w32 t.regblk | none => noId
  | .clust => if sump then noId else match k? with | some k => w32 k.index | none => noId
  | .sthread => noId

/-- An identity value of a strand (Table 1-3). -/
def strandIdVal (s : State) (un : UnitSt) (i : IdVal) : Word :=
  match i with
  | .core => w32 ((coresOfCell un.cell).headD 0)
  | .cell => w32 (un.cell % 24)
  | .die => w32 un.die
  | .strand => w32 un.strandId
  | .ctx => w32 un.at_.ctx
  | .gteams => match s.task? un.at_.task with | some t => w32 t.rec_.count | none => noId
  | .depth => match s.task? un.at_.task with | some t => w32 t.depth | none => noId
  | .sthread => w32 un.at_.slot
  | _ => noId

/-- A port register of a unit. -/
def portOf (un : UnitSt) (r : Nat) : Port := Tab.get ⟨none, none, false, none⟩ un.regs.q r

/-- A v register of a lane. -/
def readV (un : UnitSt) (n lane : Nat) : Word := Tab.get 0 un.regs.v (n * 32 + lane)

/-- An s or x register. -/
def readS (un : UnitSt) (n : Nat) : Word := Tab.get 0 un.regs.s n

/-- The 32-bit value of a source operand in a lane (R19, R110). -/
def readOp (s : State) (un : UnitSt) (lane : Nat) : Operand → Word
  | .v n => readV un n.val lane
  | .s n => readS un n.val
  | .q n => (portOf un n.val).word.getD 0
  | .e n => (resultQ un (n.val - 8)).headD 0
  | .lc n => Tab.get 0 un.regs.lc n.val
  | .id i => if un.at_.strand then strandIdVal s un i else groupId s un lane i
  | .zero => 0

/-- The operand k registers on. -/
def Operand.next (o : Operand) (k : Nat) : Operand :=
  match o with
  | .v n => .v (Fin.ofNat 1024 (n.val + k))
  | .s n => .s (Fin.ofNat 64 (n.val + k))
  | o => o

/-- The value of a pair (R18, R111). -/
def readPair (s : State) (un : UnitSt) (lane : Nat) (o : Operand) : DWord :=
  pair (readOp s un lane o) (readOp s un lane (Operand.next o 1))

/-- A predicate in a lane; p15 reads true (R16). -/
def readP (un : UnitSt) (n : Fin 16) (lane : Nat) : Bool :=
  n.val == 15 || (Tab.get 0 un.regs.p n.val).getLsbD lane

/-- The mask of lanes in which a predicate holds. -/
def predMask (un : UnitSt) (n : Fin 16) : Mask := if n.val = 15 then BitVec.allOnes 32 else Tab.get 0 un.regs.p n.val

/-- Lanes of a mask in which a guard passes (R61). -/
def guardMask (un : UnitSt) (g : Option Guard) (m : Mask) : Mask :=
  match g with
  | none => m
  | some g => m &&& (if g.neg then ~~~(predMask un g.p) else predMask un g.p)

/-! Full/empty bits -/

/-- Full/empty condition of a v or s register; every other operand is full. -/
def feOf (un : UnitSt) : Operand → Fe
  | .v n => Tab.get Fe.full un.regs.vfe n.val
  | .s n => Tab.get Fe.full un.regs.sfe n.val
  | _ => .full

/-- Sets the full/empty condition of a v or s register. -/
def setFe (un : UnitSt) (o : Operand) (f : Fe) : UnitSt :=
  match o with
  | .v n => { un with regs := { un.regs with vfe := Tab.set Fe.full un.regs.vfe n.val f } }
  | .s n => { un with regs := { un.regs with sfe := Tab.set Fe.full un.regs.sfe n.val f } }
  | _ => un

/-- The k operands from o on. -/
def spanOf (o : Operand) (k : Nat) : List Operand :=
  match o with
  | .v n => (List.range k).map (fun i => .v (Fin.ofNat 1024 (n.val + i)))
  | .s n => (List.range k).map (fun i => .s (Fin.ofNat 64 (n.val + i)))
  | _ => [o]

/-- Every register an operand list names. -/
def allRegs (l : List (Operand × Nat)) : List Operand := l.flatMap (fun x => spanOf x.1 x.2)

/-- Marks every named register. -/
def setAllFe (un : UnitSt) (l : List (Operand × Nat)) (f : Fe) : UnitSt := (allRegs l).foldl (fun un o => setFe un o f) un

/-! Checks at issue that depend on the unit (R70) -/

/-- Port register n is bound, as an upstream or a downstream end (R22). -/
def bound (un : UnitSt) (n : Nat) : Bool := (portOf un n).peer.isSome

/-- One operand of k registers is legal in the unit at decode (R21). -/
def operandLegal (s : State) (un : UnitSt) (x : Operand × Nat) : Bool :=
  match x.1 with
  | .v n => !un.at_.strand && decide (n.val + x.2 ≤ 8 * regblkOf s un)
  | _ => true

/-- A port or queue that is read: bound and a receive register (R22); a result queue the unit has (Table 12-2). -/
def portSrc (un : UnitSt) : Operand → Bool
  | .q n => decide (n.val % 2 = 0) && bound un n.val
  | .e n => !(un.at_.strand && n.val == 8)
  | _ => true

/-- A port or command register that is written: bound and a send register (R22); a command register the unit has (Table 12-2). -/
def portDst (un : UnitSt) : Operand → Bool
  | .q n => decide (n.val % 2 = 1) && bound un n.val
  | .e n => decide (n.val < 3) && !(un.at_.strand && n.val == 0)
  | _ => true

/-- The ports, command registers and result queues an instruction names are ones it may use; the trap is at issue, so a guard that passes nowhere keeps it away (R22, R61, R225). -/
def portsLegal (un : UnitSt) (i : Instr) : Bool :=
  (srcs i).all (fun x => portSrc un x.1) && (dsts i).all (fun x => portDst un x.1)

/-- The scope suits the kind of unit (R153). -/
def scopeLegal (un : UnitSt) : Option Scope → Bool
  | some .str => un.at_.strand
  | some .grp => !un.at_.strand
  | _ => true

/-- The ordering scope an access names. -/
def ordScope : Instr → Option Scope
  | .ld x | .st x | .gld x | .sct x => x.m.ord
  | .lds x | .sts x | .ldsr x | .stsr x | .ldt x | .stt x | .ldl x | .stl x | .ldw x | .stw x => x.m.ord
  | .atomAdd x | .atomMin x | .atomMax x | .atomAnd x | .atomOr x | .atomXor x | .atomExch x | .atomCas x
  | .atomFadd x | .atomFmin x | .atomFmax x | .atomAddBf16x2 x | .atomVismin x
  | .redAdd x | .redMin x | .redMax x | .redFadd x | .redAddBf16x2 x => x.m.ord
  | .atomlCas x | .atomlAdd x | .atomwCas x | .atomwAdd x | .atomwExch x => x.m.ord
  | .fence x => some x.m.scope
  | _ => none

/-- Control registers kept for groups only (Table 1-5). -/
def ctlGroupOnly (n : Nat) : Bool := n == 5 || n == 7 || n == 9 || n == 10

/-- The other decode checks that depend on the kind of unit (R163, R167, R235, R239, R240). -/
def unitLegal (un : UnitSt) : Instr → Bool
  | .atomAdd x | .atomMin x | .atomMax x | .atomAnd x | .atomOr x | .atomXor x | .atomExch x | .atomCas x | .atomFadd x
  | .atomFmin x | .atomFmax x | .atomAddBf16x2 x | .atomVismin x => x.d.isV || un.at_.strand
  | .pref x => !(x.m.cac && un.at_.strand)
  | .svc x => !(x.s.isNone && un.at_.strand)
  | .ctlr x => !(ctlGroupOnly x.n.val && un.at_.strand)
  | .ctlw x => !(ctlGroupOnly x.n.val && un.at_.strand)
  | .isync x =>
    match x.scope with
    | .str => un.at_.strand
    | .grp | .team => false
    | _ => !un.at_.strand
  | .sete x => operandSpanOk x.d (x.k.val + 1)
  | .setf x => operandSpanOk x.d (x.k.val + 1)
  | _ => true
where
  /-- The span stays inside its register space (R209). -/
  operandSpanOk (o : Operand) (k : Nat) : Bool := Operand.span o k

/-- The class of the instruction suits the unit (R72). -/
def classLegal (un : UnitSt) (i : Instr) : Bool :=
  match i.cls with
  | .b => true
  | .g => !un.at_.strand
  | .s => un.at_.strand

/-- Registers an instruction names, read or written; SETE and SETF name a span (R209). -/
def named (i : Instr) : List (Operand × Nat) :=
  srcs i ++ dsts i ++
    (match i with
     | .sete x => [(x.d, x.k.val + 1)]
     | .setf x => [(x.d, x.k.val + 1)]
     | _ => [])

/-- The instruction is legal in the unit as it stands (R70); an illegal one traps ILLEGAL_OP whether or not its guard passes. -/
def legal (s : State) (un : UnitSt) (i : Instr) : Bool :=
  i.wf && classLegal un i && unitLegal un i && scopeLegal un (ordScope i) && (named i).all (operandLegal s un)

/-! Waits at issue (R22 to R24, R226) -/

/-- The operation is a faulted access of the split at entry e (R160). -/
def faultedAt (e : Nat) (o : Op) : Bool := decide (o.stage = 2) && o.holders.contains e

/-- The registers left pending by the faulted access that the split at this entry replays (R160, R161). -/
def ownPending (un : UnitSt) (e : Nat) : List Operand :=
  un.ops.flatMap (fun (o : Nat × Op) => if faultedAt e o.2 then o.2.dests else [])

/-- The partner of a receive port whose upstream has retired; the port is closing while a word that has left is on its way. -/
abbrev deadPeer := 131072

/-- Numbers that stand, in a word on its way, for a unit that has retired: they name the S-core or strand core whose interface takes the word (R27). -/
abbrev goneCore := 2 ^ 40
abbrev goneScore := 2 ^ 41

/-- The upstream of the port has retired, and no word of it is left (R211). -/
def Port.dead (p : Port) : Bool := p.peer == some (deadPeer, 0) && !p.closing && p.word.isNone

/-- A wait for the word of a retired upstream, which cannot come (R211). -/
def deadWait (un : UnitSt) : Wait → Bool
  | .portWord r => (portOf un r).dead
  | _ => false

/-- The wait of a source operand, if it is not ready. The access that a split replays reads its own pending destinations as they stand. -/
def srcWait (un : UnitSt) (e : Nat) (x : Operand × Nat) : Option Wait :=
  match x.1 with
  | .q n => if (portOf un n.val).word.isNone then some (.portWord n.val) else none
  | .e n => if resultQ un (n.val - 8) = [] then some (.result (n.val - 8)) else none
  | _ =>
    let own := ownPending un e
    let l := (spanOf x.1 x.2).filter (fun o => decide (feOf un o ≠ .full) && !own.contains o)
    if l = [] then none else some (.full l)

/-! Order among the operations of a unit (R270, R273) -/

/-- Place of a scope in Table 14-3. -/
def scopeNat : Scope → Nat
  | .str => 0 | .grp => 1 | .team => 2 | .clu => 3 | .die => 4 | .dev => 5 | .sys => 6

/-- Scope at which a memory instruction acquires. -/
def acquires (i : Instr) : Option Scope :=
  match i with
  | .st _ | .sct _ | .sts _ | .stsr _ | .stt _ | .stl _ | .stw _ | .redAdd _ | .redMin _ | .redMax _ | .redFadd _
  | .redAddBf16x2 _ | .fence _ => none
  | i => ordScope i

/-- Scope at which a memory instruction releases. -/
def releases (i : Instr) : Option Scope :=
  match i with
  | .ld _ | .gld _ | .lds _ | .ldsr _ | .ldt _ | .ldl _ | .ldw _ | .fence _ => none
  | i => ordScope i

/-- A scope takes in agents outside the unit. -/
def outer (o : Option Scope) : Bool :=
  match o with
  | some c => decide (2 ≤ scopeNat c)
  | none => false

/-- A scope has an action on the CAC (Table 14-3). -/
def outerCac (o : Option Scope) : Bool :=
  match o with
  | some c => decide (3 ≤ scopeNat c)
  | none => false

/-- Instructions that are releases of their unit without being memory instructions: they wait for every earlier memory instruction (R217, R270). A push is a release that its engine waits for (R227). -/
def unitRelease : Instr → Bool
  | .svc _ | .enq _ | .deq _ | .launch _ | .migr _ | .rets _ | .bar _ | .barc _ | .gbar _ | .voteg _ => true
  | _ => false

/-- Instructions that give events which an earlier acquire of the unit orders (R267, R270). -/
def givesEvents (i : Instr) : Bool :=
  isOrdered i || unitRelease i ||
    (match i with
     | .bwait _ => true
     | _ => false) ||
    (srcs i).any (fun x => match x.1 with | .e _ => true | _ => false)

/-- Outstanding memory instructions of the unit that satisfy a test, but for the faulted access that this split replays. -/
def memOps (un : UnitSt) (e : Nat) (f : Op → Bool) : List Nat :=
  un.ops.filterMap (fun (x : Nat × Op) =>
    if isMemory x.2.instr && f x.2 && !faultedAt e x.2 then some x.1 else none)

/-- Stage of a split that waits at a FENCE (R176). -/
abbrev fenceStage := 2

/-- Another split of the unit waits at a fence. -/
def fencePending (un : UnitSt) (e : Nat) : Bool := un.splits.any (fun x => decide (x.1 ≠ e ∧ x.2.stage = fenceStage))

/-- The wait that order within the unit gives an instruction: an earlier acquire, a fence that has not completed, and a release's earlier accesses (R176, R270). -/
def orderWait (un : UnitSt) (e : Nat) (i : Instr) : Option Wait :=
  if isOrdered i && fencePending un e then some (.mem (memOps un e (fun _ => true))) else
  let acq := if givesEvents i then memOps un e (fun o => outer (acquires o.instr)) else []
  let rel := if unitRelease i then memOps un e (fun o => isOrdered o.instr) else []
  if acq ≠ [] then some (.mem acq) else if rel ≠ [] then some (.mem rel) else none

/-- An earlier special-function result of the unit is still to be pushed to the register (R132). -/
def pushPending (un : UnitSt) (o : Operand) : Bool :=
  un.ops.any (fun (x : Nat × Op) => x.2.dests.contains o)

/-- The wait of a destination register: no producer may be pending (R24). -/
def regWait (un : UnitSt) (entry : Nat) (x : Operand × Nat) : Option Wait :=
  let own := ownPending un entry
  let l := (spanOf x.1 x.2).filter (fun o => decide (feOf un o = .pending) && !own.contains o)
  if l = [] then none else some (.settled l)

/-- A send port takes a word if the last one has arrived and the receive register is empty, or is popped as `pops` says (R22). -/
def roomWith (s : State) (un : UnitSt) (n : Nat) (pops : Nat → Nat → Bool) : Bool :=
  let p := portOf un n
  p.sent.isNone &&
    (match p.peer with
     | some (v, r) => match s.unit? v with | some x => (portOf x r).word.isNone || pops v r | none => true
     | none => true)

/-- The next instruction of a split, in the line it has entered. -/
def nextOf (sp : Split) : Option Instr := decode (codeAt sp.bytes (headIx sp.pc))

/-- A receive register is popped in this cycle: its unit is issuing or is still to issue an instruction that reads it, and the instruction is held up by nothing but send ports that make room in the same way (R22). `may` says which units can still issue. -/
def popsNow (s : State) (may : Nat → Bool) : Nat → Nat → Nat → Bool
  | 0, _, _ => true
  | fuel + 1, v, r =>
    may v &&
    match s.unit? v with
    | none => false
    | some un =>
      match un.running with
      | none => false
      | some (e, sp) =>
        if sp.line.isNone || decide (sp.stage ≠ 0) then false else
        match nextOf sp with
        | none => false
        | some i =>
          (srcs i).any (fun x => x.1 == .q (Fin.ofNat 16 r)) && legal s un i && portsLegal un i &&
          decide (guardMask un (guardOf i) sp.mask ≠ 0) && ((srcs i).findSome? (srcWait un e)).isNone && (orderWait un e i).isNone &&
          (dsts i).all (fun x => match x.1 with
            | .q n => !pushPending un x.1 && (longLat i || roomWith s un n.val (popsNow s may fuel))
            | .e n => !pushPending un x.1 && (longLat i || !mayComplete un n.val || engineRoom s un n.val)
            | _ => (regWait un e x).isNone)

/-- Units that are issuing or have an issue turn left in this cycle. -/
def issuesNow (s : State) (v : Nat) : Bool := s.actor == some v || s.agenda.contains (.issue v)

/-- A send port takes a word: the last one has arrived, and the receive register is empty or is popped in the same cycle (R22). -/
def portRoom (s : State) (un : UnitSt) (n : Nat) : Bool := roomWith s un n (popsNow s (issuesNow s) 64)

/-- The wait of a destination operand. A long-latency producer's port or command register is checked at its completion (R132). -/
def dstWait (s : State) (un : UnitSt) (entry : Nat) (long : Bool) (x : Operand × Nat) : Option Wait :=
  match x.1 with
  | .q n =>
    if pushPending un x.1 then some (.push x.1) else if !long && !portRoom s un n.val then some (.portRoom n.val) else none
  | .e n =>
    if pushPending un x.1 then some (.push x.1)
    else if !long && mayComplete un n.val && !engineRoom s un n.val then some (.engine n.val) else none
  | _ => regWait un entry x

/-- The last word of a VFILL waits for the registers of its span (R226). -/
def vfillWait (un : UnitSt) (x : Operand × Nat) : Option Wait :=
  match x.1 with
  | .e n =>
    let l := asmOf un 0
    if n.val = 0 ∧ l.length = 7 ∧ bits (cw l 0) 3 0 = 2 then
      let sp := vfillSpan l
      let regs := ((List.range (min sp.2 (1024 - sp.1))).map (fun i => Operand.v (Fin.ofNat 1024 (sp.1 + i)))).filter
        (fun o => decide (feOf un o = .pending))
      if regs ≠ [] then some (.settled regs) else none
    else none
  | _ => none

/-- The first wait of an instruction at issue: its sources, then its destinations, then order. -/
def hazard (s : State) (un : UnitSt) (e : Nat) (i : Instr) : Option Wait :=
  match (srcs i).findSome? (srcWait un e) with
  | some w => some w
  | none =>
    match (dsts i).findSome? (dstWait s un e (longLat i)) with
    | some w => some w
    | none =>
      match (dsts i).findSome? (vfillWait un) with
      | some w => some w
      | none => orderWait un e i

/-! Writing -/

/-- Writes a v register in the lanes of a mask and makes it full. -/
def writeV (un : UnitSt) (n : Nat) (m : Mask) (f : Nat → Word) : UnitSt :=
  let v := (lanesOf m).foldl (fun t l => Tab.set 0 t (n * 32 + l) (f l)) un.regs.v
  { un with regs := { un.regs with v := v, vfe := Tab.set Fe.full un.regs.vfe n .full } }

/-- Writes an s or x register and makes it full. -/
def writeS (un : UnitSt) (n : Nat) (w : Word) : UnitSt :=
  { un with regs := { un.regs with s := Tab.set 0 un.regs.s n w, sfe := Tab.set Fe.full un.regs.sfe n .full } }

/-- Writes a predicate in the lanes of a mask; p15 ignores it (R16, R113). -/
def writeP (un : UnitSt) (n : Fin 16) (m : Mask) (f : Nat → Bool) : UnitSt :=
  if n.val = 15 then un else
  let old := Tab.get 0 un.regs.p n.val
  { un with regs := { un.regs with p := Tab.set 0 un.regs.p n.val ((old &&& ~~~m) ||| (m &&& maskOf f)) } }

/-- A word leaves a send port for the receive register it is bound to (R22, R210). -/
def sendPort (s : State) (u : Nat) (un : UnitSt) (n : Nat) (w : Word) : State :=
  let p := portOf un n
  match p.peer with
  | none => s
  | some (v, r) =>
    let un := { un with regs := { un.regs with q := Tab.put un.regs.q n { p with sent := some w } } }
    let s := countSent (s.putUnit u un) un
    if 8 ≤ n then s.later 1 (.event (.portWordArrival v (r / 2) w)) else s.laterFree (.portWordArrival v (r / 2) w)

/-- A written lane of a v register loses its uncorrectable error (R303). -/
def clearVreg (s : State) (u n : Nat) (m : Mask) : State :=
  if s.struck = [] then s else
  { s with struck := s.struck.filter (fun e =>
      match e with
      | .vreg v k l => !(decide (v = u) && decide (k = n) && m.getLsbD l)
      | _ => true) }

/-- Writes one 32-bit destination: each lane of a v register, else the value of the lowest lane of the mask (R113). An empty mask writes nothing. -/
def writeOp (s : State) (u : Nat) (o : Operand) (m : Mask) (f : Nat → Word) : State :=
  if m = 0 then s else
  match s.unit? u with
  | none => s
  | some un =>
    match o with
    | .v n => clearVreg (s.putUnit u (writeV un n.val m f)) u n.val m
    | .s n => s.putUnit u (writeS un n.val (f (lowLane m)))
    | .q n => sendPort s u un n.val (f (lowLane m))
    | .e n => pushCommand s u un n.val (f (lowLane m))
    | .lc n => s.putUnit u { un with regs := { un.regs with lc := Tab.set 0 un.regs.lc n.val (f (lowLane m)) } }
    | _ => s

/-- Writes a pair destination (R18, R113). -/
def writePair (s : State) (u : Nat) (o : Operand) (m : Mask) (f : Nat → DWord) : State :=
  let s := writeOp s u o m (fun l => loWord (f l))
  match o with
  | .v _ | .s _ => writeOp s u (Operand.next o 1) m (fun l => hiWord (f l))
  | _ => s

/-! Popping -/

/-- A read pops a receive port; a binding that was closing ends (R22, R210). -/
def popPort (s : State) (u : Nat) (n : Nat) : State :=
  s.modUnit u (fun un =>
    let p := portOf un n
    let p := if p.closing && p.peer != some (deadPeer, 0) then ⟨none, none, false, none⟩ else { p with word := none }
    { un with regs := { un.regs with q := Tab.put un.regs.q n p } })

/-- A result queue without its first word. -/
def popRec : List ResRec → List ResRec
  | [] => []
  | x :: t => if x.words.length ≤ 1 then t else { x with words := x.words.drop 1, fresh := false } :: t

/-- A read pops one word of a result queue, and records that wait may come in. The pop of a record's first word is an acquire of the writes it announces (R226, R227). -/
def popResult (s : State) (u : Nat) (r : Nat) : State :=
  match s.unit? u with
  | none => s
  | some un =>
    let l := resultRecs un r
    let s := s.putUnit u { un with eng := { un.eng with res := Tab.set [] un.eng.res r (popRec l) } }
    let s := match l with
      | x :: _ => if x.fresh && !un.at_.strand then acquireRuns s un.at_.core x.writes else s
      | [] => s
    if un.eng.waiting.any (fun w => w.1 == r) then s.laterFree (.resultRecordAppend u r) else s

/-- Pops each port and result queue an instruction reads, once (R112). -/
def popAll (s : State) (u : Nat) (i : Instr) : State :=
  ((srcs i).map (·.1)).eraseDups.foldl (fun s o =>
    match o with
    | .q n => popPort s u n.val
    | .e n => popResult s u (n.val - 8)
    | _ => s) s

/-! Issuing -/

/-- An instruction at its issue: the unit as it was, its running split, and the lanes that act. -/
structure Issue where
  u : Nat
  un : UnitSt
  e : Nat
  sp : Split
  lanes : Mask
  instr : Instr
  deriving DecidableEq, Repr

/-- The lowest lane that acts. -/
def Issue.low (x : Issue) : Nat := lowLane x.lanes

/-- Majors 0x30 to 0x33 and the queue, port and engine operations that replay logs (R384); barriers, MIGR and RETS log themselves. -/
def isSync (i : Instr) : Bool :=
  (match i with
   | .atomAdd _ | .atomMin _ | .atomMax _ | .atomAnd _ | .atomOr _ | .atomXor _ | .atomExch _ | .atomCas _
   | .atomFadd _ | .atomFmin _ | .atomFmax _ | .atomAddBf16x2 _ | .atomVismin _ | .redAdd _ | .redMin _ | .redMax _
   | .redFadd _ | .redAddBf16x2 _ | .atomlCas _ | .atomlAdd _ | .atomwCas _ | .atomwAdd _ | .atomwExch _
   | .enq _ | .deq _ | .launch _ => true
   | _ => false) ||
  (srcs i ++ dsts i).any (fun x => match x.1 with | .q _ | .e _ => true | _ => false)

/-- The instruction is done, its ports having been popped: it is logged, it retires and its split goes on (R384). -/
def finishPopped (x : Issue) (s : State) : State :=
  retire (if isSync x.instr then logSync s x.u x.sp.low x.sp.pc else s) x.u x.e

/-- The instruction is done: its ports are popped, it retires and its split goes on (R112). -/
def finish (x : Issue) (s : State) : State := finishPopped x (popAll s x.u x.instr)

/-- What stands before the effect of an instruction: nothing issues; an illegal form traps; a guard that fails in every lane lets it retire; a port it may not use traps; a register, port or queue that is not ready, or order, parks it; a source with an uncorrectable error traps; else it acts. -/
inductive Ready where
  | idle
  | illegal (x : Issue)
  | off (x : Issue)
  | waits (x : Issue) (w : Wait)
  | broken (x : Issue) (cause : Nat)
  | acts (x : Issue)
  deriving DecidableEq, Repr

/-- The faulted access that a split replays is taken off the outstanding operations (R160). -/
def dropFaulted (un : UnitSt) (e : Nat) : UnitSt :=
  { un with ops := un.ops.filter (fun (o : Nat × Op) => !faultedAt e o.2) }

/-- The access that a split has issued and that waits for its translation (R159). -/
def pendingAccess (un : UnitSt) (e : Nat) : Option (Nat × Op) :=
  List.find? (fun (o : Nat × Op) => decide (o.2.stage = 3) && o.2.holders.contains e) un.ops

/-- A v register that the instruction reads holds an uncorrectable error in some lane (R303). -/
def readsBroken (s : State) (u : Nat) (i : Instr) : Bool :=
  if s.struck = [] then false else
  (allRegs (srcs i)).any (fun o => match o with
    | .v n => s.struck.any (fun e => match e with
      | .vreg v k _ => decide (v = u) && decide (k = n.val)
      | _ => false)
    | _ => false)

/-- How an instruction stands in a state (R61, R70, R24). An instruction that goes on from a stage it has reached acts at once. -/
def ready (i : Instr) (s : State) : Ready :=
  match s.actor with
  | none => .idle
  | some u =>
    match s.unit? u with
    | none => .idle
    | some un =>
      match un.running with
      | none => .idle
      | some (e, sp) =>
        let lanes := guardMask un (guardOf i) sp.mask
        let x : Issue := { u := u, un := un, e := e, sp := sp, lanes := lanes, instr := i }
        if sp.stage ≠ 0 then
          match pendingAccess un e with
          | some o => .acts { x with lanes := o.2.lanes }
          | none => .acts x
        else if !legal s un i then .illegal x
        else if x.lanes = 0 then .off x
        else if !portsLegal un i then .illegal x
        else match hazard s un e i with
          | some w => if deadWait un w then .broken x causeEngineError else .waits x w
          | none => if readsBroken s u i then .broken x causeMachineCheck else .acts x

/-- The issue of one instruction by the acting unit, its own effect given by `body` (R61, R70). -/
def issue (i : Instr) (s : State) (body : Issue → State → State) : Host.Outcome State Fault Refusal :=
  match ready i s with
  | .idle => .next s
  | .illegal x => .next (trapHere s x.u x.e causeIllegalOp)
  | .off x => .next (retire s x.u x.e)
  | .waits x w => .next (park s x.u x.e w x.sp.stage)
  | .broken x c => .next (trapHere s x.u x.e c)
  | .acts x => .next (body x s)

/-- An operation on registers: the value of each acting lane is written to d (R112, R113). -/
def alu (i : Instr) (s : State) (d : Operand) (f : Issue → Nat → Word) : Host.Outcome State Fault Refusal :=
  issue i s (fun x s => finish x (writeOp s x.u d x.lanes (f x)))

/-- An operation whose result is a pair. -/
def aluPair (i : Instr) (s : State) (d : Operand) (f : Issue → Nat → DWord) : Host.Outcome State Fault Refusal :=
  issue i s (fun x s => finish x (writePair s x.u d x.lanes (f x)))

/-- An operation whose result is a predicate. -/
def aluPred (i : Instr) (s : State) (pd : Fin 16) (f : Issue → Nat → Bool) : Host.Outcome State Fault Refusal :=
  issue i s (fun x s => finish x (s.modUnit x.u (fun un => writeP un pd x.lanes (f x))))

end Sys2Proof.Machine
end

