-- ==== Sys2Proof/Machine/Integer.lean ====
section
/-! DEFINITION. Meanings of the integer, logic, shift, move, multiply, division and bit-field instructions, majors 0x08 to 0x12 (06 R108 to R127). -/

namespace Sys2Proof.Machine

/-- What a meaning answers. -/
abbrev Out := Host.Outcome State Fault Refusal

/-- A source word of an issuing instruction. -/
def Issue.word (x : Issue) (s : State) (l : Nat) (o : Operand) : Word := readOp s x.un l o

/-- A source pair of an issuing instruction. -/
def Issue.dword (x : Issue) (s : State) (l : Nat) (o : Operand) : DWord := readPair s x.un l o

/-- R115. -/
def execIadd (y : Bin SatMode) (s : State) : Out :=
  alu (.iadd y) s y.d (fun x l => addWord y.m (x.word s l y.a) (x.word s l y.b))

/-- R115. -/
def execIsub (y : Bin SatMode) (s : State) : Out :=
  alu (.isub y) s y.d (fun x l => subWord y.m (x.word s l y.a) (x.word s l y.b))

/-- R116: the carry in of a lane. -/
def carryIn (y : BinP Bool) (x : Issue) (l : Nat) : Bool := !y.m && readP x.un y.pk l

/-- R116. -/
def execIaddc (y : BinP Bool) (s : State) : Out :=
  issue (.iaddc y) s (fun x s =>
    let r (l : Nat) := addCarry (x.word s l y.a) (x.word s l y.b) (carryIn y x l)
    finish x ((writeOp s x.u y.d x.lanes (fun l => (r l).1)).modUnit x.u (fun un => writeP un y.pk x.lanes (fun l => (r l).2))))

/-- R116. -/
def execIsubb (y : BinP Bool) (s : State) : Out :=
  issue (.isubb y) s (fun x s =>
    let r (l : Nat) := subBorrow (x.word s l y.a) (x.word s l y.b) (carryIn y x l)
    finish x ((writeOp s x.u y.d x.lanes (fun l => (r l).1)).modUnit x.u (fun un => writeP un y.pk x.lanes (fun l => (r l).2))))

/-- R115. -/
def execIaddi (y : ImmK SatMode) (s : State) : Out :=
  alu (.iaddi y) s y.d (fun x l => addWord y.m (x.word s l y.a) y.imm)

/-- R115. -/
def execIneg (y : Un Bool) (s : State) : Out := alu (.ineg y) s y.d (fun x l => negWord y.m (x.word s l y.a))

/-- R115. -/
def execIabs (y : Un Bool) (s : State) : Out := alu (.iabs y) s y.d (fun x l => absWord y.m (x.word s l y.a))

/-- R117. -/
def execIadd64 (y : Bin Unit) (s : State) : Out :=
  aluPair (.iadd64 y) s y.d (fun x l => x.dword s l y.a + x.dword s l y.b)

/-- R117. -/
def execIsub64 (y : Bin Unit) (s : State) : Out :=
  aluPair (.isub64 y) s y.d (fun x l => x.dword s l y.a - x.dword s l y.b)

/-- R117. -/
def execIaddi64 (y : ImmK Unit) (s : State) : Out :=
  aluPair (.iaddi64 y) s y.d (fun x l => x.dword s l y.a + y.imm.signExtend 64)

/-- R118. -/
def execImin (y : Bin Bool) (s : State) : Out :=
  alu (.imin y) s y.d (fun x l => minWord y.m (x.word s l y.a) (x.word s l y.b))

/-- R118. -/
def execImax (y : Bin Bool) (s : State) : Out :=
  alu (.imax y) s y.d (fun x l => maxWord y.m (x.word s l y.a) (x.word s l y.b))

/-- R119. -/
def execIcmpp (y : CmpP ICmpMod) (s : State) : Out :=
  aluPred (.icmpp y) s y.pd (fun x l =>
    combine y.m.or (compareInt y.m.cmp (readInt y.m.uns (x.word s l y.a)) (readInt y.m.uns (x.word s l y.b))) (readP x.un y.pk l))

/-- R119. -/
def execIcmppi (y : CmpI ICmpIMod) (s : State) : Out :=
  aluPred (.icmppi y) s y.pd (fun x l =>
    compareInt y.m.cmp (readInt y.m.uns (x.word s l y.a)) (readInt y.m.uns y.imm))

/-- R118. -/
def execSel (y : BinP Unit) (s : State) : Out :=
  alu (.sel y) s y.d (fun x l => if readP x.un y.pk l then x.word s l y.a else x.word s l y.b)

/-- R120. -/
def execAnd (y : Bin Unit) (s : State) : Out := alu (.and_ y) s y.d (fun x l => x.word s l y.a &&& x.word s l y.b)

/-- R120. -/
def execOr (y : Bin Unit) (s : State) : Out := alu (.or_ y) s y.d (fun x l => x.word s l y.a ||| x.word s l y.b)

/-- R120. -/
def execXor (y : Bin Unit) (s : State) : Out := alu (.xor_ y) s y.d (fun x l => x.word s l y.a ^^^ x.word s l y.b)

/-- R120. -/
def execNot (y : Un Unit) (s : State) : Out := alu (.not_ y) s y.d (fun x l => ~~~(x.word s l y.a))

/-- R120. -/
def execAndi (y : ImmK Unit) (s : State) : Out := alu (.andi y) s y.d (fun x l => x.word s l y.a &&& y.imm)

/-- R120. -/
def execOri (y : ImmK Unit) (s : State) : Out := alu (.ori y) s y.d (fun x l => x.word s l y.a ||| y.imm)

/-- R120. -/
def execXori (y : ImmK Unit) (s : State) : Out := alu (.xori y) s y.d (fun x l => x.word s l y.a ^^^ y.imm)

/-- R121. -/
def execShl (y : Bin Unit) (s : State) : Out :=
  alu (.shl y) s y.d (fun x l => shlBits (x.word s l y.a) (x.word s l y.b).toNat)

/-- R121. -/
def execShr (y : Bin Unit) (s : State) : Out :=
  alu (.shr y) s y.d (fun x l => shrBits (x.word s l y.a) (x.word s l y.b).toNat)

/-- R121. -/
def execSar (y : Bin Unit) (s : State) : Out :=
  alu (.sar y) s y.d (fun x l => sarBits (x.word s l y.a) (x.word s l y.b).toNat)

/-- R121. -/
def execRol (y : Bin Unit) (s : State) : Out :=
  alu (.rol y) s y.d (fun x l => (x.word s l y.a).rotateLeft ((x.word s l y.b).toNat % 32))

/-- R121. -/
def execRor (y : Bin Unit) (s : State) : Out :=
  alu (.ror y) s y.d (fun x l => (x.word s l y.a).rotateRight ((x.word s l y.b).toNat % 32))

/-- R121. -/
def execShli (y : Un (Fin 32)) (s : State) : Out := alu (.shli y) s y.d (fun x l => shlBits (x.word s l y.a) y.m.val)

/-- R121. -/
def execShri (y : Un (Fin 32)) (s : State) : Out := alu (.shri y) s y.d (fun x l => shrBits (x.word s l y.a) y.m.val)

/-- R121. -/
def execSari (y : Un (Fin 32)) (s : State) : Out := alu (.sari y) s y.d (fun x l => sarBits (x.word s l y.a) y.m.val)

/-- R122. -/
def execPopc (y : Un Unit) (s : State) : Out := alu (.popc y) s y.d (fun x l => popcWord (x.word s l y.a))

/-- R122. -/
def execClz (y : Un Unit) (s : State) : Out := alu (.clz y) s y.d (fun x l => w32 (clzNat 32 (x.word s l y.a).toNat))

/-- R122. -/
def execCtz (y : Un Unit) (s : State) : Out := alu (.ctz y) s y.d (fun x l => w32 (ctzNat 32 (x.word s l y.a).toNat))

/-- R122. -/
def execBrev (y : Un Unit) (s : State) : Out := alu (.brev y) s y.d (fun x l => brevWord (x.word s l y.a))

/-- R123. -/
def execMov (y : Un Bool) (s : State) : Out :=
  if y.m then aluPair (.mov y) s y.d (fun x l => x.dword s l y.a)
  else alu (.mov y) s y.d (fun x l => x.word s l y.a)

/-- R123. -/
def execMovi (y : MovImm) (s : State) : Out := alu (.movi y) s y.d (fun _ _ => y.imm.signExtend 32)

/-- R123. -/
def execMovhi (y : MovImm) (s : State) : Out := alu (.movhi y) s y.d (fun _ _ => y.imm.setWidth 32 <<< 16)

/-- R123. -/
def execMovk (y : MovK) (s : State) : Out :=
  match y.m with
  | .w32 => alu (.movk y) s y.d (fun _ _ => y.imm)
  | .sx64 => aluPair (.movk y) s y.d (fun _ _ => y.imm.signExtend 64)
  | .zx64 => aluPair (.movk y) s y.d (fun _ _ => y.imm.setWidth 64)

/-- R124. -/
def execLea (y : Bin LeaMod) (s : State) : Out :=
  aluPair (.lea y) s y.d (fun x l => leaValue y.m.uns y.m.k.val (x.dword s l y.a) (x.word s l y.b))

/-- R121. -/
def execShl64 (y : Bin Unit) (s : State) : Out :=
  aluPair (.shl64 y) s y.d (fun x l => shlBits (x.dword s l y.a) (x.word s l y.b).toNat)

/-- R121. -/
def execShr64 (y : Bin Unit) (s : State) : Out :=
  aluPair (.shr64 y) s y.d (fun x l => shrBits (x.dword s l y.a) (x.word s l y.b).toNat)

/-- R121. -/
def execSar64 (y : Bin Unit) (s : State) : Out :=
  aluPair (.sar64 y) s y.d (fun x l => sarBits (x.dword s l y.a) (x.word s l y.b).toNat)

/-- R119. -/
def execIcmpp64 (y : CmpP ICmpMod) (s : State) : Out :=
  aluPred (.icmpp64 y) s y.pd (fun x l =>
    combine y.m.or (compareInt y.m.cmp (readInt y.m.uns (x.dword s l y.a)) (readInt y.m.uns (x.dword s l y.b))) (readP x.un y.pk l))

/-- R125. -/
def execImul (y : Bin Unit) (s : State) : Out := alu (.imul y) s y.d (fun x l => x.word s l y.a * x.word s l y.b)

/-- R125. -/
def execImulhi (y : Bin Bool) (s : State) : Out :=
  alu (.imulhi y) s y.d (fun x l => mulHigh y.m (x.word s l y.a) (x.word s l y.b))

/-- R125. -/
def execImad (y : Tern Unit) (s : State) : Out :=
  alu (.imad y) s y.d (fun x l => x.word s l y.a * x.word s l y.b + x.word s l y.c)

/-- R125. -/
def execImulw (y : Bin Bool) (s : State) : Out :=
  aluPair (.imulw y) s y.d (fun x l => mulWide y.m (x.word s l y.a) (x.word s l y.b))

/-- R125. -/
def execImadw (y : Tern Bool) (s : State) : Out :=
  aluPair (.imadw y) s y.d (fun x l => madWide y.m (x.word s l y.a) (x.word s l y.b) (x.dword s l y.c))

/-- R126. -/
def execDivstep (y : Bin (Fin 4)) (s : State) : Out :=
  aluPair (.divstep y) s y.d (fun x l => divStep y.m.val (x.dword s l y.a) (x.word s l y.b))

/-- R126. -/
def execDivinit (y : Un Bool) (s : State) : Out := aluPair (.divinit y) s y.d (fun x l => divInit y.m (x.word s l y.a))

/-- R127. -/
def execBfx (y : Bin Bool) (s : State) : Out := alu (.bfx y) s y.d (fun x l => bfxWord y.m (x.word s l y.a) (x.word s l y.b))

/-- R127. -/
def execBfi (y : Tern Unit) (s : State) : Out :=
  alu (.bfi y) s y.d (fun x l => bfiWord (x.word s l y.a) (x.word s l y.b) (x.word s l y.c))

end Sys2Proof.Machine
end

