-- ==== Sys2Proof/Machine/Control.lean ====
section
/-! DEFINITION. Meanings of the control instructions, majors 0x00 to 0x03, but for EXIT (05 R88 to R107). -/

namespace Sys2Proof.Machine

/-- R101. -/
def execNop (h : Hint) (s : State) : Out := issue (.nop h) s finish

/-- R100, R295, R299. -/
def execYield (h : Hint) (s : State) : Out :=
  issue (.yield_ h) s (fun x s =>
    finish x (if x.un.at_.strand then s else s.modUnit x.u (fun un => { un with sched := { un.sched with age := s.now } })))

/-! Branches (R92, R94, R106, R107) -/

/-- A target with the lanes that take it and whether it lies in local code. -/
abbrev Take := Mask × DWord × Bool

/-- The unit after its taking parts cancel loops (R106). -/
def cancelFor (un : UnitSt) (ts : List Take) : UnitSt := ts.foldl (fun un t => cancelLoops un t.2.1) un

/-- Folds the distinct targets taken (R381). -/
def foldTakes (s : State) (u lane : Nat) (ts : List Take) : State := ts.foldl (fun s t => foldTarget s u lane t.2.1) s

/-- A branch of the running split: the taking lanes go to their targets and the others on, after `effect` on the registers. Too few entries trap ILLEGAL_OP before any effect (R92, R94). -/
def branch (x : Issue) (s : State) (ts : List Take) (cancel : Bool) (effect : State → State) : State :=
  let rest := x.sp.mask &&& ~~~x.lanes
  match (if rest = 0 then ts else []) with
  | [t] =>
    let s := foldTakes (effect (countRetired s x.u)) x.u x.sp.low ts
    stepTrap (transfer s x.u x.e t.2.1 t.2.2 cancel) x.u x.e
  | _ =>
    let parts := ts.map (fun t => (t.1, { x.sp.goto t.2.1 t.2.2 with st := .ready })) ++
      (if rest = 0 then [] else [(rest, { x.sp with st := .ready })])
    match divide x.un x.e x.sp parts with
    | none => trapHere s x.u x.e causeIllegalOp
    | some (un, es) =>
      let un := if cancel then cancelFor un ts else un
      let s := foldTakes (effect (countRetired (s.putUnit x.u un) x.u)) x.u x.sp.low ts
      let s := (es.take ts.length).foldl (fun s e => s.modUnit x.u (fun un => arriveFrom un e 33)) s
      let s := if rest = 0 then s else goOn s x.u (es.getD ts.length 0) x.sp.pc
      stepTrap (s.modUnit x.u choose) x.u x.e

/-- One target for every taking lane, in the code space of the branch (R31, R90). -/
def relTake (x : Issue) (t : Target) : List Take := [(x.lanes, targetAddr x.sp.pc t, x.sp.loc)]

/-- The code space of a pointer (R90). -/
def pointerTake (x : Issue) (m : Mask) (t : DWord) : Take := (m, t, x.un.at_.strand && localForm t)

/-- The distinct targets of a pointer operand, in ascending order of the lowest lane that takes each (R92, R381). -/
def pointerTakes (x : Issue) (f : Nat → DWord) : List Take :=
  ((lanesOf x.lanes).map f).eraseDups.map (fun t => pointerTake x (x.lanes &&& maskOf (fun l => f l == t)) t)

/-- R92. -/
def execBr (y : Branch) (s : State) : Out := issue (.br y) s (fun x s => branch x s (relTake x y.t) true id)

/-- R91, R92. -/
def execCall (y : Branch) (s : State) : Out :=
  issue (.call y) s (fun x s =>
    branch x s (relTake x y.t) false (fun s => writePair s x.u (.s 62) x.lanes (fun _ => returnAddr x.sp x.sp.pc)))

/-- R92. -/
def execJmpi (y : JumpInd) (s : State) : Out :=
  issue (.jmpi y) s (fun x s => branch x s (pointerTakes x (fun l => x.dword s l y.a)) true id)

/-- R91, R92. -/
def execCalli (y : CallInd) (s : State) : Out :=
  issue (.calli y) s (fun x s =>
    branch x s (pointerTakes x (fun l => x.dword s l y.a)) false
      (fun s => writePair s x.u y.d x.lanes (fun _ => returnAddr x.sp x.sp.pc)))

/-- R92. -/
def execRet (h : Hint) (s : State) : Out :=
  issue (.ret h) s (fun x s => branch x s [pointerTake x x.lanes (x.dword s 0 (.s 62))] false id)

/-! Divergent branches (R96, R98) -/

/-- Lanes in which the tested predicate of a branch holds. -/
def tested (x : Issue) (g : Guard) : Mask := guardMask x.un (some g) x.sp.mask

/-- The whole split takes a relative branch. -/
def takeWhole (x : Issue) (s : State) (t : Target) : State := branch { x with lanes := x.sp.mask } s (relTake x t) true id

/-- R96, R106, R107. -/
def execBrd (y : DivBranch) (s : State) : Out :=
  issue (.brd y) s (fun x s =>
    let tk := tested x y.g
    let fl := x.sp.mask &&& ~~~tk
    if fl = 0 then takeWhole x s y.t
    else if tk = 0 then finish x s
    else match freeEntries x.un with
      | e1 :: e2 :: _ =>
        let rc := targetAddr x.sp.pc y.rc
        let t := targetAddr x.sp.pc y.t
        let part : Split := { x.sp with ra := some rc, join := some x.e, st := .ready }
        let j : Join := { ra := rc, expect := x.sp.mask, arrived := 0, raOut := x.sp.ra, joinOut := x.sp.join }
        let es := Tab.put (Tab.put (Tab.put x.un.entries x.e (.join j))
          e1 (.split { part.goto t x.sp.loc with mask := tk })) e2 (.split { part with mask := fl })
        let ops := rehold x.un.ops (fun h => if h.contains x.e then h.filter (· ≠ x.e) ++ [e1, e2] else h)
        let un := cancelLoops { x.un with entries := es, ops := ops } t
        let s := foldTarget (countRetired (s.putUnit x.u un) x.u) x.u x.sp.low t
        let s := s.modUnit x.u (fun un => arriveFrom un e1 33)
        stepTrap ((goOn s x.u e2 x.sp.pc).modUnit x.u choose) x.u x.e
      | _ => trapHere s x.u x.e causeIllegalOp)

/-- R98. -/
def execBrany (y : TestBranch) (s : State) : Out :=
  issue (.brany y) s (fun x s => if tested x y.g = 0 then finish x s else takeWhole x s y.t)

/-- R98. -/
def execBrall (y : TestBranch) (s : State) : Out :=
  issue (.brall y) s (fun x s => if tested x y.g = x.sp.mask then takeWhole x s y.t else finish x s)

/-! TRAP (R102) -/

/-- The passing part of the running split traps at its instruction, and the failing part goes on; the instruction retires once,
after its record has noted the count before it (R102, R242, R303, R306) DEDUCED. -/
def trapPart (x : Issue) (s : State) (cause : Nat) : State :=
  let a : TrapArgs := { cause := cause, pc := x.sp.pc, addr := x.sp.pc }
  let rest := x.sp.mask &&& ~~~x.lanes
  if rest = 0 then countRetired (takeTrap s x.u x.e a) x.u
  else match divide x.un x.e x.sp [(x.lanes, { x.sp with st := .ready }), (rest, { x.sp with st := .ready })] with
    | some (un, [e1, e2]) =>
      (goOn (countRetired (takeTrap (s.putUnit x.u un) x.u e1 a) x.u) x.u e2 x.sp.pc).modUnit x.u choose
    | _ => trapHere s x.u x.e causeIllegalOp

/-- R102. -/
def execTrap (y : CodeImm) (s : State) : Out := issue (.trap y) s (fun x s => trapPart x s causeTrap)

/-! Hardware loops (R104) -/

/-- Stage of a split that is to enter the line of a loop's end and go on after it (R104). -/
abbrev skipStage := 1000

/-- Loop n and every loop inside it are cancelled, if it is active. -/
def cancelLoop (un : UnitSt) (n : Nat) : UnitSt :=
  if un.nest.contains n then
    let nest := (un.nest.dropWhile (· ≠ n)).drop 1
    { un with nest := nest, loops := un.loops.filter (fun l => nest.contains l.1) }
  else un

/-- LOOP and LOOPI with a count (R104). One that has a count and no successor begins its loop and falls off, and no end test is made (R69, R105). -/
def startLoop (x : Issue) (s : State) (n : Nat) (count : Word) (t : Target) : State :=
  let fin := targetAddr x.sp.pc t
  let un := cancelLoop x.un n
  let un := { un with regs := { un.regs with lc := Tab.set 0 un.regs.lc n count } }
  if count = 0 then
    let un := un.modSplit x.e (fun sp => { sp.goto fin sp.loc with stage := skipStage })
    countRetired (s.putUnit x.u un) x.u
  else
    let s := s.putUnit x.u
      { un with loops := Tab.put un.loops n { start := returnAddr x.sp x.sp.pc, fin := fin }, nest := n :: un.nest }
    match succ? x.sp x.sp.pc with
    | some _ => finish x s
    | none => takeTrap (countRetired s x.u) x.u x.e { cause := causeFallOff, pc := x.sp.pc, addr := x.sp.pc }

/-- R104. -/
def execLoop (y : LoopReg) (s : State) : Out :=
  issue (.loop y) s (fun x s => startLoop x s y.n.val (x.word s x.low y.src) y.fin)

/-- R104. -/
def execLoopi (y : LoopImm) (s : State) : Out := issue (.loopi y) s (fun x s => startLoop x s y.n.val y.count y.fin)

/-- A split that has entered the line of its loop's end without a trap goes on after it (R104); a step that the LOOP made ends here. -/
def skipLoop (s : State) (u e : Nat) : State :=
  match s.unit? u with
  | none => s
  | some un =>
    match un.split? e with
    | none => s
    | some sp =>
      match succ? sp sp.pc with
      | some n => stepTrap (s.putUnit u (arrive (un.modSplit e (fun x => x.step n)) e)) u e
      | none => takeTrap s u e { cause := causeFallOff, pc := sp.pc, addr := sp.pc }

end Sys2Proof.Machine
end

