-- ==== Sys2Proof/Machine/Producers.lean ====
section
/-! DEFINITION. Outstanding operations of a unit: starting one, filling the destinations of one, and its end (01 R24; 05 R93; 07 R132). -/

namespace Sys2Proof.Machine

/-- An operation as it starts. -/
def newOp (x : Issue) (lanes : Mask) (now : Nat) : Op :=
  { instr := x.instr, pc := x.sp.pc, lanes := lanes, holders := [], addr := [], place := [], data := [], dests := [],
    done := 0, count := 0, issued := now, stage := 0, fault := none }

/-- Adds an outstanding operation to a unit: its destination registers have a producer pending from now on (R24). -/
def addOp (un : UnitSt) (o : Op) : UnitSt :=
  let un := o.dests.foldl (fun un d => setFe un d .pending) un
  { un with ops := Tab.put un.ops un.nextOp o, nextOp := un.nextOp + 1 }

/-- Starts an operation whose completion, an event of the given kind, comes after an unarchitected time (R433). -/
def startOp (s : State) (u : Nat) (o : Op) (ev : Nat → Nat → Event) : State :=
  match s.unit? u with
  | none => s
  | some un => (s.putUnit u (addOp un o)).laterFree (ev u un.nextOp)

/-- Takes an operation off a unit's list. -/
def dropOp (s : State) (u k : Nat) : State := s.modUnit u (fun un => { un with ops := Tab.del un.ops k })

/-- Data word w of a lane of an operation. -/
def Op.word (o : Op) (lane w : Nat) : Word := Tab.get 0 o.data (lane * 16 + w)

/-- Sets data word w of a lane. -/
def Op.setWord (o : Op) (lane w : Nat) (x : Word) : Op := { o with data := Tab.set 0 o.data (lane * 16 + w) x }

/-- Fills the destination registers of an operation in order, register j from data word j, in the lanes of a mask (R24, R113). -/
def fillDests (s : State) (u : Nat) (o : Op) (m : Mask) : State :=
  o.dests.zipIdx.foldl (fun s d => writeOp s u d.1 m (fun l => o.word l d.2)) s

/-- Every register operand d names. -/
def destRegs (i : Instr) : List Operand := allRegs (dsts i)

end Sys2Proof.Machine
end

