-- ==== Sys2Proof/Machine/Float.lean ====
section
/-! DEFINITION. Floating-point values, rounding, flags and conversions on bit patterns (02 R32 to R54; 07 R134 to R144). Every finite value is a signed integer times a power of two, so every result is exact before its one rounding. -/

namespace Sys2Proof.Machine

/-! Formats (Table 2-1) -/

/-- What an all-ones exponent means. -/
inductive TopExp where
  /-- infinity and NaNs -/
  | ieee
  /-- finite but for the all-ones mantissa, a NaN -/
  | e4m3
  /-- finite -/
  | finite
  deriving DecidableEq, Repr

/-- A format: exponent bits, mantissa bits, bias, and the largest finite significand in units of its own last place. -/
structure FFmt where
  eb : Nat
  mb : Nat
  bias : Nat
  top : TopExp
  maxSig : Nat
  /-- log2 of the last place of the largest finite value -/
  qmax : Int
  deriving DecidableEq, Repr

def fmtF32 : FFmt := ⟨8, 23, 127, .ieee, 0xFFFFFF, 104⟩
def fmtBf16 : FFmt := ⟨8, 7, 127, .ieee, 0xFF, 120⟩
def fmtE4m3 : FFmt := ⟨4, 3, 7, .e4m3, 14, 5⟩
def fmtE5m2 : FFmt := ⟨5, 2, 15, .ieee, 7, 13⟩
def fmtE2m1 : FFmt := ⟨2, 1, 1, .finite, 3, 1⟩

/-- The format of a narrow operand (R64). -/
def narrowFmt : NarrowFmt → FFmt
  | .e4m3 => fmtE4m3
  | .e5m2 => fmtE5m2
  | .e2m1 => fmtE2m1

/-- Bits of a code of the format. -/
def FFmt.width (f : FFmt) : Nat := 1 + f.eb + f.mb

/-- log2 of the last place of the smallest normal. -/
def FFmt.qmin (f : FFmt) : Int := 1 - (f.bias : Int) - f.mb

/-- The sign bit in place. -/
def FFmt.sign (f : FFmt) (neg : Bool) : Nat := if neg then 2 ^ (f.eb + f.mb) else 0

/-- Infinity of an IEEE-like format. -/
def FFmt.inf (f : FFmt) (neg : Bool) : Nat := f.sign neg + (2 ^ f.eb - 1) * 2 ^ f.mb

/-- The canonical NaN of FP32 and BF16 (R41). -/
def FFmt.nan (f : FFmt) : Nat := f.inf false + 2 ^ (f.mb - 1)

/-- A floating-point value: the finite ones are ±m × 2^e, with m = 0 for the zeros. -/
inductive FV where
  | nan (sig : Bool)
  | inf (neg : Bool)
  | num (neg : Bool) (m : Nat) (e : Int)
  deriving DecidableEq, Repr

/-- The value of a bit pattern (R32). -/
def FFmt.decode (f : FFmt) (b : Nat) : FV :=
  let neg := b.testBit (f.eb + f.mb)
  let x := bits b (f.eb + f.mb - 1) f.mb
  let frac := b % 2 ^ f.mb
  if x = 0 then .num neg frac f.qmin
  else if x = 2 ^ f.eb - 1 ∧ f.top = .ieee then
    if frac = 0 then .inf neg else .nan (!frac.testBit (f.mb - 1))
  else if x = 2 ^ f.eb - 1 ∧ f.top = .e4m3 ∧ frac = 2 ^ f.mb - 1 then .nan false
  else .num neg (frac + 2 ^ f.mb) (f.qmin + (x - 1 : Nat))

/-- The pattern is a subnormal or a zero. -/
def FFmt.denormal (f : FFmt) (b : Nat) : Bool := bits b (f.eb + f.mb - 1) f.mb == 0

/-- An input operand, subnormals read as zeros of their sign under .FTZ (R40). -/
def FFmt.input (f : FFmt) (ftz : Bool) (b : Nat) : FV :=
  if ftz && f.denormal b then .num (b.testBit (f.eb + f.mb)) 0 0 else f.decode b

/-! Flags (Table 1-6) -/

abbrev flInv := 1
abbrev flDz := 2
abbrev flOvf := 4
abbrev flUnf := 8
abbrev flInx := 16

/-! Rounding (R37 to R40) -/

/-- The four rounding modes. -/
inductive RMode where
  | rne | rtz | rup | rdn
  deriving DecidableEq, Repr

/-- The mode ctl.round names (R27). -/
def modeOf (w : Word) : RMode :=
  match bits w.toNat 1 0 with
  | 0 => .rne
  | 1 => .rtz
  | 2 => .rup
  | _ => .rdn

/-- The rounding that applies: the modifier, else ctl.round (R37). -/
def rndMode (r : Rnd) (ctl : Word) : RMode :=
  match r with
  | .dyn => modeOf ctl
  | .rne => .rne
  | .rtz => .rtz
  | .rup => .rup
  | .rdn => .rdn

/-- m × 2^e rounded to a multiple of 2^q: the multiple and whether it is inexact. -/
def roundAt (r : RMode) (neg : Bool) (m : Nat) (e q : Int) : Nat × Bool :=
  if q ≤ e then (m * 2 ^ (e - q).toNat, false)
  else
    let k := (q - e).toNat
    let n := m / 2 ^ k
    let rest := m % 2 ^ k
    let half := 2 ^ (k - 1)
    let up := match r with
      | .rne => decide (half < rest) || (decide (rest = half) && n.testBit 0)
      | .rtz => false
      | .rup => decide (rest ≠ 0) && !neg
      | .rdn => decide (rest ≠ 0) && neg
    (if up then n + 1 else n, decide (rest ≠ 0))

/-- floor(log2 (m × 2^e)) for m > 0. -/
def log2Of (m : Nat) (e : Int) : Int := (Nat.log2 m : Int) + e

/-- A nonzero value rounded to a format: the significand n and last place q, and whether it is tiny, inexact, overflowing. -/
structure Rounded where
  n : Nat
  q : Int
  tiny : Bool
  inexact : Bool
  tooBig : Bool
  deriving DecidableEq, Repr

/-- Rounds ±m × 2^e, m > 0, with tininess judged after rounding at unbounded exponent (R37, R39). -/
def FFmt.round (f : FFmt) (r : RMode) (neg : Bool) (m : Nat) (e : Int) : Rounded :=
  let top := log2Of m e
  let qFree := top - f.mb
  let q := if qFree < f.qmin then f.qmin else qFree
  let t := roundAt r neg m e q
  let free := roundAt r neg m e qFree
  { n := t.1, q := q, inexact := t.2,
    tiny := decide (qFree < f.qmin) && !(decide (qFree + 1 = f.qmin) && decide (free.1 = 2 ^ (f.mb + 1))),
    tooBig := decide (f.qmax < q) || (decide (q = f.qmax) && decide (f.maxSig < t.1)) }

/-- The code of n × 2^q, with n at most 2^(mb+1) and q at least the smallest last place. -/
def FFmt.code (f : FFmt) (neg : Bool) (n : Nat) (q : Int) : Nat :=
  f.sign neg + (if n < 2 ^ f.mb then n else ((q - f.qmin).toNat + 1) * 2 ^ f.mb + (n - 2 ^ f.mb))

/-- The largest finite value of a sign. -/
def FFmt.largest (f : FFmt) (neg : Bool) : Nat := f.code neg f.maxSig f.qmax

/-- The value of Table 2-3. -/
def FFmt.overflow (f : FFmt) (r : RMode) (neg : Bool) : Nat :=
  match r, neg with
  | .rne, _ => f.inf neg
  | .rtz, _ => f.largest neg
  | .rup, false => f.inf false
  | .rup, true => f.largest true
  | .rdn, false => f.largest false
  | .rdn, true => f.inf true

/-- A result: bits and flags. -/
abbrev FRes := Nat × Nat

/-- A value delivered in FP32 or BF16 (R37 to R41). -/
def FFmt.deliver (f : FFmt) (r : RMode) (ftz : Bool) (v : FV) : FRes :=
  match v with
  | .nan _ => (f.nan, 0)
  | .inf neg => (f.inf neg, 0)
  | .num neg m e =>
    if m = 0 then (f.sign neg, 0) else
    let x := f.round r neg m e
    if x.tooBig then (f.overflow r neg, flOvf + flInx)
    else if ftz && x.tiny then (f.sign neg, flUnf + flInx)
    else (f.code neg x.n x.q, (if x.inexact then flInx else 0) + (if x.inexact && x.tiny then flUnf else 0))

/-! Arithmetic (R42, R43) -/

def FV.isSig : FV → Bool
  | .nan sig => sig
  | _ => false

def FV.isNan : FV → Bool
  | .nan _ => true
  | _ => false

def FV.isZero : FV → Bool
  | .num _ m _ => m == 0
  | _ => false

def FV.isInf : FV → Bool
  | .inf _ => true
  | _ => false

def FV.neg : FV → FV
  | .nan sig => .nan sig
  | .inf n => .inf (!n)
  | .num n m e => .num (!n) m e

/-- A signed integer from sign and magnitude. -/
def signed (neg : Bool) (m : Nat) : Int := if neg then -(m : Int) else m

/-- The exact sum of two values that are no NaNs; none for infinities of both signs (Table 2-4). -/
def FV.add (r : RMode) (a b : FV) : Option FV :=
  match a, b with
  | .inf n, .inf k => if n = k then some (.inf n) else none
  | .inf n, _ => some (.inf n)
  | _, .inf n => some (.inf n)
  | .num n m e, .num k l g =>
    let lo := min e g
    let t := signed n (m * 2 ^ (e - lo).toNat) + signed k (l * 2 ^ (g - lo).toNat)
    if t = 0 then
      some (.num (if m = 0 ∧ l = 0 ∧ n = true ∧ k = true then true else decide (r = .rdn)) 0 0)
    else some (.num (decide (t < 0)) t.natAbs lo)
  | _, _ => none

/-- The exact product of two values that are no NaNs; none for an infinity by a zero (Table 2-4). -/
def FV.mul (a b : FV) : Option FV :=
  match a, b with
  | .inf n, .inf k => some (.inf (n != k))
  | .inf n, .num k m _ => if m = 0 then none else some (.inf (n != k))
  | .num n m _, .inf k => if m = 0 then none else some (.inf (n != k))
  | .num n m e, .num k l g => some (.num (n != k) (m * l) (e + g))
  | _, _ => none

/-- Rounds an exact result, or delivers the canonical NaN with inv. -/
def FFmt.finish (f : FFmt) (r : RMode) (ftz : Bool) (v : Option FV) : FRes :=
  match v with
  | some v => f.deliver r ftz v
  | none => (f.nan, flInv)

/-- Addition (R42). -/
def FFmt.add (f : FFmt) (r : RMode) (ftz : Bool) (a b : FV) : FRes :=
  if a.isSig || b.isSig then (f.nan, flInv)
  else if a.isNan || b.isNan then (f.nan, 0)
  else f.finish r ftz (a.add r b)

/-- Multiplication (R42). -/
def FFmt.mul (f : FFmt) (r : RMode) (ftz : Bool) (a b : FV) : FRes :=
  if a.isSig || b.isSig then (f.nan, flInv)
  else if a.isNan || b.isNan then (f.nan, 0)
  else f.finish r ftz (a.mul b)

/-- The product is an infinity by a zero. -/
def infByZero (a b : FV) : Bool := (a.isInf && b.isZero) || (a.isZero && b.isInf)

/-- Fused multiply-add, the product not rounded (R42). -/
def FFmt.fma (f : FFmt) (r : RMode) (ftz : Bool) (a b c : FV) : FRes :=
  if a.isSig || b.isSig || c.isSig then (f.nan, flInv)
  else if infByZero a b then (f.nan, flInv)
  else if a.isNan || b.isNan || c.isNan then (f.nan, 0)
  else f.finish r ftz ((a.mul b).bind (fun p => p.add r c))

/-- The order of two values that are no NaNs, −0 and +0 equal: the sign of a − b. -/
def FV.order (a b : FV) : Int :=
  match a, b with
  | .inf n, .inf k => signed n 1 - signed k 1
  | .inf n, _ => signed n 1
  | _, .inf k => signed (!k) 1
  | .num n m e, .num k l g =>
    let lo := min e g
    signed n (m * 2 ^ (e - lo).toNat) - signed k (l * 2 ^ (g - lo).toNat)
  | _, _ => 0

/-- The sign of a value. -/
def FV.negative : FV → Bool
  | .nan _ => false
  | .inf n => n
  | .num n _ _ => n

/-- a stands before b when −0 counts as less than +0 (R43). -/
def FV.below (a b : FV) : Bool :=
  let o := a.order b
  decide (o < 0) || (decide (o = 0) && a.negative && !b.negative)

/-- An operand as it takes part in a minimum or maximum: its bits, or the zero it is read as (R135). -/
def FFmt.taken (f : FFmt) (ftz : Bool) (b : Nat) : Nat :=
  if ftz && f.denormal b then f.sign (b.testBit (f.eb + f.mb)) else b

/-- FMIN and FMAX on bit patterns (R43, R135). -/
def FFmt.minMax (f : FFmt) (max ftz : Bool) (a b : Nat) : FRes :=
  let x := f.decode (f.taken ftz a)
  let y := f.decode (f.taken ftz b)
  let fl := if x.isSig || y.isSig then flInv else 0
  if x.isNan && y.isNan then (f.nan, fl)
  else if x.isNan then (f.taken ftz b, fl)
  else if y.isNan then (f.taken ftz a, fl)
  else (if (if max then x.below y else y.below x) then f.taken ftz b else f.taken ftz a, 0)

/-- A comparison: result and flags (R136). -/
def FFmt.compare (f : FFmt) (c : FCmp) (ftz : Bool) (a b : Nat) : Bool × Nat :=
  let x := f.input ftz a
  let y := f.input ftz b
  let u := x.isNan || y.isNan
  let sig := x.isSig || y.isSig
  let o := x.order y
  let r := match c with
    | .eq => !u && decide (o = 0)
    | .ne => u || decide (o ≠ 0)
    | .lt => !u && decide (o < 0)
    | .le => !u && decide (o ≤ 0)
    | .gt => !u && decide (0 < o)
    | .ge => !u && decide (0 ≤ o)
    | .num => !u
    | .nan => u
  let ordered := match c with
    | .lt | .le | .gt | .ge => true
    | _ => false
  (r, if sig || (ordered && u) then flInv else 0)

/-- FCLASS (R137). -/
def FFmt.classify (f : FFmt) (b : Nat) : Nat :=
  match f.decode b with
  | .nan true => 1
  | .nan false => 2
  | .inf true => 4
  | .inf false => 512
  | .num n m _ =>
    if m = 0 then (if n then 32 else 64)
    else if f.denormal b then (if n then 16 else 128)
    else (if n then 8 else 256)

/-! Conversions (R35, R46 to R50, R139 to R144) -/

/-- A value converted to FP32 or BF16, where a signalling NaN sets inv (R47). -/
def FFmt.convert (f : FFmt) (r : RMode) (ftz : Bool) (v : FV) : FRes :=
  match v with
  | .nan sig => (f.nan, if sig then flInv else 0)
  | v => f.deliver r ftz v

/-- A narrow element widened to BF16 by an operand-read selector (R35). -/
def widenBf16 (f : FFmt) (b : Nat) : Nat := (fmtBf16.deliver .rne false (f.decode b)).1

/-- One step of the stochastic-rounding register (R44). -/
def lfsrStep (w : Word) : Word := if w.getLsbD 0 then (w >>> 1) ^^^ 0x80200003#32 else w >>> 1

/-- The seed of a lane or strand (R45). -/
def lfsrSeed (seed k : Nat) : Word :=
  let w : Word := BitVec.ofNat 32 seed ^^^ BitVec.ofNat 32 (k * 0x9E3779B9)
  if w = 0 then 1 else w

/-- RoundBF16SR with the random half-word r (R46). -/
def roundSr (ftz : Bool) (x r : Nat) : FRes :=
  match fmtF32.decode x with
  | .nan sig => (0x7FC0, if sig then flInv else 0)
  | .inf _ => (x / 65536, 0)
  | .num _ m _ =>
    if m = 0 then (x / 65536, 0)
    else if ftz && fmtF32.denormal x then (x / 2 ^ 31 * 32768, 0)
    else
      let y := x / 2 ^ 31 * 32768 + (x % 2 ^ 31 + r) / 65536
      let inex := decide (x % 65536 ≠ 0)
      let fl := (if inex then flInx else 0) + (if bits y 14 7 = 255 then flOvf else 0) +
        (if inex && fmtBf16.denormal y then flUnf else 0)
      (if ftz && fmtBf16.denormal y && decide (y % 32768 ≠ 0) then x / 2 ^ 31 * 32768 else y, fl)

/-- A value converted to FP8 or FP4 (R48, Table 2-5). -/
def FFmt.narrow (f : FFmt) (sat : Bool) (v : FV) : FRes :=
  match v with
  | .nan _ => (match f.top with | .e4m3 => 0x7F | .ieee => 0x7E | .finite => 0, flInv)
  | .inf neg =>
    match f.top, sat with
    | .finite, _ => (f.largest neg, flInv)
    | .e4m3, false => (f.sign neg + 0x7F, flInv)
    | .ieee, false => (f.inf neg, 0)
    | _, true => (f.largest neg, 0)
  | .num neg m e =>
    if m = 0 then (f.sign neg, 0) else
    let x := f.round .rne neg m e
    if x.tooBig then
      (match f.top, sat with
        | .e4m3, false => f.sign neg + 0x7F
        | .ieee, false => f.inf neg
        | _, _ => f.largest neg, flOvf + flInx)
    else (f.code neg x.n x.q, (if x.inexact then flInx else 0) + (if x.inexact && x.tiny then flUnf else 0))

/-- A narrow element times 2^(s − 127) as FP32 (R142). -/
def widenScaled (f : FFmt) (b s : Nat) : FRes :=
  if s = 255 then (fmtF32.nan, 0) else
  match f.decode b with
  | .num neg m e => fmtF32.deliver .rne false (.num neg m (e + s - 127))
  | v => fmtF32.deliver .rne false v

/-- The scale of an MX block (R49): none where step 1 applies. -/
def mxScale (f : FFmt) (xs : List FV) : Option Nat :=
  if xs.any (fun v => v.isNan || v.isInf) then none
  else
    let tops := xs.filterMap (fun v => match v with
      | .num _ m e => if m = 0 then none else some (log2Of m e)
      | _ => none)
    match tops with
    | [] => some 0
    | t :: ts =>
      let top := ts.foldl max t
      some ((max (top - (f.qmax + f.mb)) (-127) + 127).toNat)

/-- An element of an MX block under its scale (R49). -/
def mxElement (f : FFmt) (scale : Option Nat) (v : FV) : FRes :=
  match scale with
  | none => (0, flInv)
  | some s =>
    match v with
    | .num neg m e => f.narrow true (.num neg m (e + 127 - s))
    | v => f.narrow true v

/-- Range of an integer type (Table 2-2). -/
def intRange : IntTy → Int × Int
  | .i32 => (-2147483648, 2147483647)
  | .n32 => (0, 4294967295)
  | .i64 => (-9223372036854775808, 9223372036854775807)
  | .n64 => (0, 18446744073709551615)

/-- FP32 to an integer type (R50). -/
def floatToInt (t : IntTy) (r : RMode) (v : FV) : Int × Nat :=
  let (lo, hi) := intRange t
  match v with
  | .nan _ => (0, flInv)
  | .inf neg => (if neg then lo else hi, flInv)
  | .num neg m e =>
    let x := roundAt r neg m e 0
    let i := signed neg x.1
    if i < lo then (lo, flInv) else if hi < i then (hi, flInv) else (i, if x.2 then flInx else 0)

/-- An integer to FP32 (R50). -/
def intToFloat (r : RMode) (i : Int) : FRes := fmtF32.deliver r false (.num (decide (i < 0)) i.natAbs 0)

/-! Sums of the matrix array (R51) -/

/-- A term of MmaSum truncated to a multiple of 2^q: sign and multiple, and whether it changed. -/
def truncTerm (q : Int) (v : FV) : Int × Bool :=
  match v with
  | .num neg m e => let x := roundAt .rtz neg m e q; (signed neg x.1, x.2)
  | _ => (0, false)

/-- MmaSum (R51): window width W; the accumulator bits and the operand values in pairs. Flags are in the order of [4:0]. -/
def mmaSum (w : Nat) (c : FV) (ab : List (FV × FV)) : FRes :=
  if c.isNan || ab.any (fun p => p.1.isNan || p.2.isNan || infByZero p.1 p.2) then (fmtF32.nan, flInv)
  else
    let t := c :: ab.map (fun p => (p.1.mul p.2).getD (.num false 0 0))
    let pinf := t.any (fun v => v == .inf false)
    let ninf := t.any (fun v => v == .inf true)
    if pinf && ninf then (fmtF32.nan, flInv)
    else if pinf then (fmtF32.inf false, 0)
    else if ninf then (fmtF32.inf true, 0)
    else
      match t.filterMap (fun v => match v with
        | .num _ m e => if m = 0 then none else some (log2Of m e)
        | _ => none) with
      | [] => (fmtF32.sign (t.all (fun v => v.negative)), 0)
      | l :: ls =>
        let q := ls.foldl max l - w
        let ts := t.map (truncTerm q)
        let sum : Int := ts.foldl (fun a x => a + x.1) 0
        let inx := if ts.any (·.2) then flInx else 0
        if sum = 0 then (0, inx)
        else
          let r := fmtF32.deliver .rne false (.num (decide (sum < 0)) sum.natAbs q)
          (r.1, r.2 ||| inx)

end Sys2Proof.Machine
end

