-- ==== Sys2Proof/Machine/Special.lean ====
section
/-! DEFINITION. The special functions: the exact results of Table 2-7, and elsewhere a free value within the bound of Table 2-6 (02 R53, R54; 07 R138). -/

namespace Sys2Proof.Machine

/-- The functions of the special-function unit. -/
inductive SFn where
  | rcp | rsq | sqrt | exp2 | log2 | tanh | sint | cost
  deriving DecidableEq, Repr

/-- Number of a function among the free values. -/
def SFn.num : SFn → Nat
  | .rcp => 0 | .rsq => 1 | .sqrt => 2 | .exp2 => 3 | .log2 => 4 | .tanh => 5 | .sint => 6 | .cost => 7

/-! Exact results (Table 2-7) -/

/-- The exponent n of a value 2^n. -/
def powerOfTwo (m : Nat) (e : Int) : Option Int :=
  if m = 2 ^ Nat.log2 m then some (log2Of m e) else none

/-- 2^n as FP32, for n from −149 to 127. -/
def pow2F32 (neg : Bool) (n : Int) : Nat := (fmtF32.deliver .rne false (.num neg 1 n)).1

/-- Eighths of a turn of ±m × 2^e, modulo 8, when they are whole. -/
def eighths (m : Nat) (e : Int) : Option Nat :=
  if 0 ≤ e + 3 then some (m * 2 ^ (e + 3).toNat % 8)
  else
    let k := (-(e + 3)).toNat
    if m % 2 ^ k = 0 then some (m / 2 ^ k % 8) else none

/-- The square root of one half, correctly rounded. -/
def rootHalf (neg : Bool) : Nat := fmtF32.sign neg + 0x3F3504F3

/-- 1 with a sign. -/
def oneF32 (neg : Bool) : Nat := fmtF32.sign neg + 0x3F800000

/-- SINT at a whole number of eighths. -/
def sinEighth (neg : Bool) (j : Nat) : FRes :=
  match j with
  | 1 | 3 => (rootHalf neg, flInx)
  | 2 => (oneF32 neg, 0)
  | 5 | 7 => (rootHalf (!neg), flInx)
  | 6 => (oneF32 (!neg), 0)
  | _ => (fmtF32.sign neg, 0)

/-- COST at a whole number of eighths. -/
def cosEighth (j : Nat) : FRes :=
  match j with
  | 0 => (oneF32 false, 0)
  | 4 => (oneF32 true, 0)
  | 1 | 7 => (rootHalf false, flInx)
  | 3 | 5 => (rootHalf true, flInx)
  | _ => (0, 0)

/-- The result Table 2-7 gives for an input, if it gives one. -/
def tabulated (fn : SFn) (v : FV) : Option FRes :=
  match v with
  | .nan sig => some (fmtF32.nan, if sig then flInv else 0)
  | .inf neg =>
    match fn, neg with
    | .rcp, _ => some (fmtF32.sign neg, 0)
    | .rsq, true | .sqrt, true | .log2, true => some (fmtF32.nan, flInv)
    | .rsq, false => some (0, 0)
    | .sqrt, false | .exp2, false | .log2, false => some (fmtF32.inf false, 0)
    | .exp2, true => some (0, 0)
    | .tanh, _ => some (oneF32 neg, 0)
    | .sint, _ | .cost, _ => some (fmtF32.nan, flInv)
  | .num neg m e =>
    if m = 0 then
      match fn with
      | .rcp | .rsq => some (fmtF32.inf neg, flDz)
      | .sqrt | .tanh | .sint => some (fmtF32.sign neg, 0)
      | .exp2 | .cost => some (oneF32 false, 0)
      | .log2 => some (fmtF32.inf true, flDz)
    else
      match fn with
      | .rcp =>
        match powerOfTwo m e with
        | some n => if -126 ≤ n then some (pow2F32 neg (-n), 0) else none
        | none => none
      | .rsq => if neg then some (fmtF32.nan, flInv) else none
      | .sqrt =>
        if neg then some (fmtF32.nan, flInv) else
        match powerOfTwo m e with
        | some n => if n % 2 = 0 then some (pow2F32 false (n / 2), 0) else none
        | none => none
      | .exp2 =>
        if !neg && decide (7 ≤ log2Of m e) then some (fmtF32.inf false, flOvf + flInx)
        else if neg && decide (0 < (FV.num false m e).order (.num false 150 0)) then some (0, flUnf + flInx)
        else
          let x := roundAt .rtz neg m e 0
          if x.2 ∨ (neg ∧ x.1 = 150) then none else some (pow2F32 false (signed neg x.1), 0)
      | .log2 =>
        if neg then some (fmtF32.nan, flInv) else
        match powerOfTwo m e with
        | some n => some ((intToFloat .rne n).1, 0)
        | none => none
      | .tanh => none
      | .sint => (eighths m e).map (sinEighth neg)
      | .cost => (eighths m e).map cosEighth

/-! Enclosures elsewhere. Fixed-point numbers here count units of 2^−224, of which every finite FP32 value below 2^128 is a whole number. -/

/-- One in fixed point. -/
abbrev fixOne : Nat := 2 ^ 224

/-- Units by which a fixed-point value may fall short of what it stands for. -/
abbrev fixError : Int := 2 ^ 16

/-- Integer square root, one bit a step from bit k down. -/
def isqrtFrom (n : Nat) : Nat → Nat → Nat
  | 0, r => r
  | k + 1, r => let t := r + 2 ^ k; isqrtFrom n k (if t * t ≤ n then t else r)

/-- Integer square root of n below 2^480. -/
def isqrt (n : Nat) : Nat := isqrtFrom n 240 0

/-- 2^f for a fraction f in fixed point: a factor 2^(2^−i) for each bit of f, the first of which is r. -/
def expFrac (f : Nat) : Nat → Nat → Nat → Nat
  | 0, _, acc => acc
  | k + 1, r, acc => expFrac f k (isqrt (r * fixOne)) (if f.testBit k then acc * r / fixOne else acc)

/-- 2^(n + f) in fixed point times 2^−n. -/
def exp2Frac (f : Nat) : Nat := expFrac f 224 (isqrt (2 * fixOne * fixOne)) fixOne

/-- Bits of log2 of x in [1, 2), by squaring. -/
def logFrac : Nat → Nat → Nat → Nat
  | 0, _, acc => acc
  | k + 1, x, acc =>
    let y := x * x / fixOne
    if 2 * fixOne ≤ y then logFrac k (y / 2) (acc + 2 ^ k) else logFrac k y acc

/-- Terms of the sine series from term k on: t is the last term, x2 the squared angle. -/
def sinSeries (x2 : Int) : Nat → Nat → Int → Int → Int
  | 0, _, _, acc => acc
  | n + 1, k, t, acc =>
    let t' := -(t * x2 / (fixOne : Int)) / ((2 * k) * (2 * k + 1) : Nat)
    sinSeries x2 n (k + 1) t' (acc + t')

/-- 2π in fixed point. -/
def twoPi : Int := 169394340781386161353548496392429742335059390090588680449301447308593

/-- log2 of e in fixed point. -/
def log2e : Int := 38894981359329165016064799055747578848916264863948116579755768818905

/-- sin 2πr in fixed point, for r in fixed point from −1/2 to 1/2. -/
def sinTurns (r : Int) : Int :=
  let x := r * twoPi / (fixOne : Int)
  sinSeries (x * x / (fixOne : Int)) 40 1 x x

/-- m × 2^e in fixed point. -/
def toFix (neg : Bool) (m : Nat) (e : Int) : Int := signed neg (roundAt .rtz neg m e (-224)).1

/-- A turn reduced to −1/2 to 1/2. -/
def reduceTurn (r : Int) : Int := (r + fixOne / 2) % (fixOne : Int) - fixOne / 2

/-- Least and greatest integers between which a value lies, in units of 2^exp; equal when the value is exact. -/
structure Enclosure where
  lo : Int
  hi : Int
  exp : Int
  deriving DecidableEq, Repr

/-- A fixed-point value that may be off by `fixError`, known to lie from a to b. -/
def around (c a b : Int) : Enclosure := ⟨max a (c - fixError), min b (c + fixError), -224⟩

/-- An enclosure with a sign. -/
def Enclosure.withSign (x : Enclosure) (neg : Bool) : Enclosure := if neg then ⟨-x.hi, -x.lo, x.exp⟩ else x

/-- tanh of a magnitude in fixed point: (E − 1) / (E + 1) with E = 2^(2x log2 e). -/
def tanhFix (x : Int) : Int :=
  let y := 2 * x * log2e / (fixOne : Int)
  let E := (exp2Frac (y % (fixOne : Int)).toNat : Int) * (2 ^ (y / (fixOne : Int)).toNat : Nat)
  (E - fixOne) * (fixOne : Int) / (E + fixOne)

/-- Bounds between which f(x) lies at x = ±m × 2^e, m > 0, far closer than any FP32 code comes to an end of the bound of Table 2-6 unless it meets it. -/
def approx (fn : SFn) (neg : Bool) (m : Nat) (e : Int) : Enclosure :=
  let fix := toFix neg m e
  let one : Int := fixOne
  let k : Nat := if e % 2 = 0 then 240 else 241
  let r := isqrt (m * 2 ^ k)
  let whole := decide (r * r = m * 2 ^ k)
  match fn with
  | .rcp => Enclosure.withSign ⟨(2 ^ 160 / m : Nat), ((2 ^ 160 + m - 1) / m : Nat), -160 - e⟩ neg
  | .sqrt => ⟨r, if whole then r else r + 1, (e - k) / 2⟩
  | .rsq => ⟨(2 ^ 260 / (if whole then r else r + 1) : Nat), ((2 ^ 260 + r - 1) / r : Nat), -260 - (e - k) / 2⟩
  | .exp2 =>
    let c : Int := exp2Frac (fix % one).toNat
    ⟨c, min (2 * one) (c + fixError), fix / one - 224⟩
  | .log2 =>
    let n := log2Of m e * one
    around (n + (logFrac 210 (m * 2 ^ 224 / 2 ^ Nat.log2 m) 0 * 2 ^ 14 : Nat)) n (n + one)
  | .tanh =>
    (if 6 ≤ log2Of m e then ⟨one - 1, one, -224⟩ else around (tanhFix (toFix false m e)) 0 one).withSign neg
  | .sint => around (sinTurns (reduceTurn fix)) (-one) one
  | .cost => around (sinTurns (reduceTurn (fix + fixOne / 4))) (-one) one

/-- The bound of Table 2-6 at a value c × 2^e, in the same units. -/
def errorBound (fn : SFn) (red : Bool) (inUnit : Bool) (c e : Int) : Int :=
  let ulp := max (log2Of c.natAbs e) (-126) - 23
  let at_ (k : Int) : Int := (2 ^ (k - e).toNat : Nat)
  let rel (full redu : Nat) : Int := (if red then redu else full : Nat) * at_ ulp
  let abs (full redu : Int) : Int := at_ (if red then redu else full)
  match fn with
  | .rcp | .sqrt => rel 1 256
  | .rsq => rel 2 256
  | .exp2 => rel 2 512
  | .log2 => if inUnit then abs (-22) (-13) else rel 2 512
  | .tanh => if red then abs (-12) (-12) else max (rel 2 2) (abs (-24) (-24))
  | .sint | .cost => abs (-22) (-12)

/-- The end of an enclosure nearer to zero. -/
def Enclosure.small (x : Enclosure) : Int := if 0 ≤ x.lo then x.lo else x.hi

/-- Position of an FP32 pattern in the order of values, −0 just below +0. -/
def ordIndex (b : Nat) : Int := if b < 2 ^ 31 then b else -1 - ((b - 2 ^ 31 : Nat) : Int)

/-- The pattern at a position. -/
def ofOrdIndex (i : Int) : Nat := if 0 ≤ i then i.toNat else (-1 - i).toNat + 2 ^ 31

/-- Least and greatest FP32 patterns within the bound, by position. -/
def allowed (fn : SFn) (red : Bool) (neg : Bool) (m : Nat) (e : Int) : Int × Int :=
  let x := approx fn neg m e
  let inUnit := decide (-1 ≤ log2Of m e) && decide (log2Of m e ≤ 0)
  let b := errorBound fn red inUnit x.small x.exp
  let side (r : RMode) (i : Int) : Int :=
    ordIndex (fmtF32.deliver r false (.num (decide (i < 0)) i.natAbs x.exp)).1
  (side .rup (x.hi - b), side .rdn (x.lo + b))

/-- A special function of an FP32 pattern (R53): result and flags. Outside Table 2-7 the value is free within the bound, and it is the exact
result, not the value delivered, that decides unf (R39). DESIGN CHOICE: a reciprocal of a subnormal that exceeds the largest finite value, for which
Table 2-7 has no row, overflows to an infinity of its sign with ovf and inx; tininess is judged as rounding to nearest would have it, since the unit has no rounding mode. -/
def special (fn : SFn) (red ftz : Bool) (a : Nat) : FRes :=
  let v := fmtF32.input ftz a
  let flush (r : FRes) : FRes :=
    if ftz && fmtF32.denormal r.1 && decide (r.1 % 2 ^ 31 ≠ 0) then (fmtF32.sign (r.1.testBit 31), flUnf + flInx) else r
  match tabulated fn v with
  | some r => flush r
  | none =>
    match v with
    | .num neg m e =>
      let x := approx fn neg m e
      let exact := fmtF32.round .rne neg x.small.natAbs x.exp
      if fn = .rcp ∧ exact.tooBig then (fmtF32.inf neg, flOvf + flInx)
      else
        let (lo, hi) := allowed fn red neg m e
        let free := (Config.special fn.num red (BitVec.ofNat 32 a)).toNat
        let y := ofOrdIndex (lo + (free % ((hi - lo).toNat + 1) : Nat))
        flush (y, if exact.tiny then flUnf + flInx else flInx)
    | _ => (fmtF32.nan, 0)

end Sys2Proof.Machine
end

