-- ==== Sys2Proof/Machine/FloatOps.lean ====
section
/-! DEFINITION. Meanings of the floating-point, special-function and conversion instructions, majors 0x14 to 0x23, and the per-lane traps they raise (07 R128 to R144). -/

namespace Sys2Proof.Machine

/-! Per-lane traps (R133) -/

/-- Flags of the lanes of a mask, added to ctl.fpflags (R28). -/
def orFlags (un : UnitSt) (m : Mask) (fl : Nat → Nat) : UnitSt :=
  let f := (lanesOf m).foldl (fun t l => Tab.set 0 t l (Tab.get 0 t l ||| w32 (fl l))) un.ctl.fpflags
  { un with ctl := { un.ctl with fpflags := f } }

/-- Conditions raised in a lane whose traps are enabled there. -/
def enabledConds (un : UnitSt) (fl : Nat → Nat) (l : Nat) : Nat :=
  fl l &&& (Tab.get 0 un.ctl.trapmask l).toNat &&& 31

/-- The trapping lanes of a mask. -/
def trapLanes (un : UnitSt) (m : Mask) (fl : Nat → Nat) : Mask :=
  m &&& maskOf (fun l => enabledConds un fl l != 0)

/-- The cause of an arithmetic trap: the lowest enabled condition raised in a trapping lane. -/
def arithCause (un : UnitSt) (trp : Mask) (fl : Nat → Nat) : Nat :=
  8 + ctzNat 5 ((lanesOf trp).foldl (fun a l => a ||| enabledConds un fl l) 0)

/-- The end of an instruction that may trap lane by lane: flags are set; lanes that trap leave as a trapped split, or the whole split traps; `write` gives the effect in the lanes that do not trap (R133). -/
def settleLanes (x : Issue) (s : State) (fl : Nat → Nat) (write : Mask → State → State) : State :=
  let s := s.modUnit x.u (fun un => orFlags un x.lanes fl)
  let trp := trapLanes x.un x.lanes fl
  if trp = 0 then finish x (write x.lanes s) else
  let args : TrapArgs := { cause := arithCause x.un trp fl, pc := x.sp.pc, addr := x.sp.pc }
  let whole (s : State) : State := takeTrap (popAll s x.u x.instr) x.u x.e args
  if trp = x.sp.mask then whole s else
  match s.unit? x.u with
  | none => s
  | some un =>
    match divide un x.e x.sp [(x.sp.mask &&& ~~~trp, { x.sp with st := .ready }), (trp, { x.sp with st := .trapped })] with
    | some (un', [_, e2]) =>
      let s := write (x.lanes &&& ~~~trp) (s.putUnit x.u un')
      (finish x (takeTrap s x.u e2 args)).modUnit x.u choose
    | _ => whole s

/-- An operation of one 32-bit result per lane that may trap. -/
def fpOp (i : Instr) (s : State) (d : Operand) (f : Issue → Nat → FRes) : Out :=
  issue i s (fun x s => settleLanes x s (fun l => (f x l).2) (fun m s => writeOp s x.u d m (fun l => w32 (f x l).1)))

/-- The rounding mode of an instruction of the unit. -/
def Issue.mode (x : Issue) (r : Rnd) : RMode := rndMode r x.un.ctl.round

/-! Operand values (R130, R131) -/

/-- A number of a source register. -/
def Issue.nat (x : Issue) (s : State) (l : Nat) (o : Operand) : Nat := (readOp s x.un l o).toNat

/-- Element k of a register of narrow elements (R33). -/
def narrowElement (f : NarrowFmt) (w k : Nat) : Nat :=
  match f with
  | .e2m1 => bits w (4 * k + 3) (4 * k)
  | _ => bits w (8 * k + 7) (8 * k)

/-- Bits of a BF16 source: [15:0], or its narrow element widened (R131). -/
def bf16Src (n : Narrow) (sel : Option (Fin 8)) (w : Nat) : Nat :=
  match n.fmt, sel with
  | some f, some k => widenBf16 (narrowFmt f) (narrowElement f w k.val)
  | _, _ => w % 65536

/-- Bits of an FP32 source, or its narrow element widened (R131). -/
def f32Src (n : Narrow) (sel : Option (Fin 8)) (w : Nat) : Nat :=
  match n.fmt, sel with
  | some _, some _ => bf16Src n sel w * 65536
  | _, _ => w

/-! Arithmetic (R134) -/

/-- R134 in FP32: a op b. -/
def f32Bin (y : NBin ArithMod) (s : State) (i : Instr) (op : RMode → Bool → FV → FV → FRes) : Out :=
  fpOp i s y.d (fun x l =>
    op (x.mode y.m.rnd) y.m.ftz (fmtF32.input y.m.ftz (f32Src y.nar y.nar.a (x.nat s l y.a)))
      (fmtF32.input y.m.ftz (f32Src y.nar y.nar.b (x.nat s l y.b))))

/-- R134. -/
def execFadd (y : NBin ArithMod) (s : State) : Out := f32Bin y s (.fadd y) fmtF32.add

/-- R134. -/
def execFsub (y : NBin ArithMod) (s : State) : Out := f32Bin y s (.fsub y) (fun r z a b => fmtF32.add r z a b.neg)

/-- R134. -/
def execFmul (y : NBin ArithMod) (s : State) : Out := f32Bin y s (.fmul y) fmtF32.mul

/-- R134. -/
def execFfma (y : NTern ArithMod) (s : State) : Out :=
  fpOp (.ffma y) s y.d (fun x l =>
    fmtF32.fma (x.mode y.m.rnd) y.m.ftz (fmtF32.input y.m.ftz (f32Src y.nar y.nar.a (x.nat s l y.a)))
      (fmtF32.input y.m.ftz (f32Src y.nar y.nar.b (x.nat s l y.b))) (fmtF32.input y.m.ftz (x.nat s l y.c)))

/-- R135. -/
def execFmin (y : NBin ExactMod) (s : State) : Out :=
  fpOp (.fmin y) s y.d (fun x l => fmtF32.minMax false y.m.ftz (f32Src y.nar y.nar.a (x.nat s l y.a))
    (f32Src y.nar y.nar.b (x.nat s l y.b)))

/-- R135. -/
def execFmax (y : NBin ExactMod) (s : State) : Out :=
  fpOp (.fmax y) s y.d (fun x l => fmtF32.minMax true y.m.ftz (f32Src y.nar y.nar.a (x.nat s l y.a))
    (f32Src y.nar y.nar.b (x.nat s l y.b)))

/-- A comparison into pD (R136). -/
def fpCompare (i : Instr) (s : State) (pd pk : Fin 16) (m : FCmpMod) (f : Issue → Nat → Bool × Nat) : Out :=
  issue i s (fun x s => settleLanes x s (fun l => (f x l).2)
    (fun k s => s.modUnit x.u (fun un => writeP un pd k (fun l => combine m.or (f x l).1 (readP x.un pk l)))))

/-- R136. -/
def execFcmpp (y : NCmp FCmpMod) (s : State) : Out :=
  fpCompare (.fcmpp y) s y.pd y.pk y.m (fun x l => fmtF32.compare y.m.cmp y.m.ftz
    (f32Src y.nar y.nar.a (x.nat s l y.a)) (f32Src y.nar y.nar.b (x.nat s l y.b)))

/-- R137. -/
def execFabs (y : Un Bool) (s : State) : Out :=
  alu (.fabs y) s y.d (fun x l => x.word s l y.a &&& (if y.m then 0x7FFF7FFF else 0x7FFFFFFF))

/-- R137. -/
def execFneg (y : Un Bool) (s : State) : Out :=
  alu (.fneg y) s y.d (fun x l => x.word s l y.a ^^^ (if y.m then 0x80008000 else 0x80000000))

/-- R137. -/
def execFclass (y : Un Bool) (s : State) : Out :=
  alu (.fclass y) s y.d (fun x l =>
    w32 (if y.m then fmtBf16.classify (x.nat s l y.a % 65536) else fmtF32.classify (x.nat s l y.a)))

/-- R134 in BF16: a op b. -/
def bf16Bin (y : NBin ArithMod) (s : State) (i : Instr) (op : RMode → Bool → FV → FV → FRes) : Out :=
  fpOp i s y.d (fun x l =>
    op (x.mode y.m.rnd) y.m.ftz (fmtBf16.input y.m.ftz (bf16Src y.nar y.nar.a (x.nat s l y.a)))
      (fmtBf16.input y.m.ftz (bf16Src y.nar y.nar.b (x.nat s l y.b))))

/-- R134. -/
def execBadd (y : NBin ArithMod) (s : State) : Out := bf16Bin y s (.badd y) fmtBf16.add

/-- R134. -/
def execBsub (y : NBin ArithMod) (s : State) : Out := bf16Bin y s (.bsub y) (fun r z a b => fmtBf16.add r z a b.neg)

/-- R134. -/
def execBmul (y : NBin ArithMod) (s : State) : Out := bf16Bin y s (.bmul y) fmtBf16.mul

/-- R134. -/
def execBfma (y : NTern ArithMod) (s : State) : Out :=
  fpOp (.bfma y) s y.d (fun x l =>
    fmtBf16.fma (x.mode y.m.rnd) y.m.ftz (fmtBf16.input y.m.ftz (bf16Src y.nar y.nar.a (x.nat s l y.a)))
      (fmtBf16.input y.m.ftz (bf16Src y.nar y.nar.b (x.nat s l y.b))) (fmtBf16.input y.m.ftz (x.nat s l y.c % 65536)))

/-- Two halves computed on their own, flags united (R130, R133). -/
def halves (f : (Nat → Nat) → FRes) : FRes :=
  let lo := f (fun w => w % 65536)
  let hi := f (fun w => w / 65536 % 65536)
  (lo.1 + 65536 * hi.1, lo.2 ||| hi.2)

/-- R134 in BF16 pairs: a op b. -/
def pairBin (y : Bin ArithMod) (s : State) (i : Instr) (op : RMode → Bool → FV → FV → FRes) : Out :=
  fpOp i s y.d (fun x l => halves (fun h =>
    op (x.mode y.m.rnd) y.m.ftz (fmtBf16.input y.m.ftz (h (x.nat s l y.a))) (fmtBf16.input y.m.ftz (h (x.nat s l y.b)))))

/-- R134. -/
def execBpadd (y : Bin ArithMod) (s : State) : Out := pairBin y s (.bpadd y) fmtBf16.add

/-- R134. -/
def execBpsub (y : Bin ArithMod) (s : State) : Out := pairBin y s (.bpsub y) (fun r z a b => fmtBf16.add r z a b.neg)

/-- R134. -/
def execBpmul (y : Bin ArithMod) (s : State) : Out := pairBin y s (.bpmul y) fmtBf16.mul

/-- R134. -/
def execBpfma (y : Tern ArithMod) (s : State) : Out :=
  fpOp (.bpfma y) s y.d (fun x l => halves (fun h =>
    fmtBf16.fma (x.mode y.m.rnd) y.m.ftz (fmtBf16.input y.m.ftz (h (x.nat s l y.a)))
      (fmtBf16.input y.m.ftz (h (x.nat s l y.b))) (fmtBf16.input y.m.ftz (h (x.nat s l y.c)))))

/-- R135. -/
def execBpmin (y : Bin ExactMod) (s : State) : Out :=
  fpOp (.bpmin y) s y.d (fun x l => halves (fun h => fmtBf16.minMax false y.m.ftz (h (x.nat s l y.a)) (h (x.nat s l y.b))))

/-- R135. -/
def execBpmax (y : Bin ExactMod) (s : State) : Out :=
  fpOp (.bpmax y) s y.d (fun x l => halves (fun h => fmtBf16.minMax true y.m.ftz (h (x.nat s l y.a)) (h (x.nat s l y.b))))

/-- R135. -/
def execBmin (y : NBin ExactMod) (s : State) : Out :=
  fpOp (.bmin y) s y.d (fun x l => fmtBf16.minMax false y.m.ftz (bf16Src y.nar y.nar.a (x.nat s l y.a))
    (bf16Src y.nar y.nar.b (x.nat s l y.b)))

/-- R135. -/
def execBmax (y : NBin ExactMod) (s : State) : Out :=
  fpOp (.bmax y) s y.d (fun x l => fmtBf16.minMax true y.m.ftz (bf16Src y.nar y.nar.a (x.nat s l y.a))
    (bf16Src y.nar y.nar.b (x.nat s l y.b)))

/-- R136. -/
def execBcmpp (y : NCmp FCmpMod) (s : State) : Out :=
  fpCompare (.bcmpp y) s y.pd y.pk y.m (fun x l => fmtBf16.compare y.m.cmp y.m.ftz
    (bf16Src y.nar y.nar.a (x.nat s l y.a)) (bf16Src y.nar y.nar.b (x.nat s l y.b)))

/-- R134. -/
def execFaddi (y : ImmK ArithMod) (s : State) : Out :=
  fpOp (.faddi y) s y.d (fun x l =>
    fmtF32.add (x.mode y.m.rnd) y.m.ftz (fmtF32.input y.m.ftz (x.nat s l y.a)) (fmtF32.input y.m.ftz y.imm.toNat))

/-- R134. -/
def execFmuli (y : ImmK ArithMod) (s : State) : Out :=
  fpOp (.fmuli y) s y.d (fun x l =>
    fmtF32.mul (x.mode y.m.rnd) y.m.ftz (fmtF32.input y.m.ftz (x.nat s l y.a)) (fmtF32.input y.m.ftz y.imm.toNat))

/-- R134. -/
def execFfmai (y : ImmE ArithMod) (s : State) : Out :=
  fpOp (.ffmai y) s y.d (fun x l =>
    fmtF32.fma (x.mode y.m.rnd) y.m.ftz (fmtF32.input y.m.ftz (x.nat s l y.a)) (fmtF32.input y.m.ftz y.imm.toNat)
      (fmtF32.input y.m.ftz (x.nat s l y.b)))

/-! Special functions (R132, R138) -/

/-- Reduced precision is granted to the unit's context, as its core sees it (R397). -/
def reducedSfu (s : State) (un : UnitSt) : Bool :=
  if un.at_.strand then (s.score un.at_.core).grants.contains un.at_.ctx
  else (s.core un.at_.core).grants.contains un.at_.ctx

/-- A special function issues: flags and traps are decided, and the lanes that do not trap start (R138). -/
def sfuOp (i : Instr) (s : State) (a : Operand) (f : Bool → Nat → List Nat × Nat) : Out :=
  issue i s (fun x s =>
    let r (l : Nat) := f (reducedSfu s x.un) (x.nat s l a)
    settleLanes x s (fun l => (r l).2) (fun m s =>
      if m = 0 then s else
      let o := { newOp x m s.now with dests := destRegs i }
      let o := (lanesOf m).foldl (fun o l => (r l).1.zipIdx.foldl (fun o v => o.setWord l v.2 (w32 v.1)) o) o
      startOp s x.u o .producerCompletion))

/-- One special function. -/
def sfuOne (i : Instr) (s : State) (y : Un ExactMod) (fn : SFn) : Out :=
  sfuOp i s y.a (fun red a => let r := special fn red y.m.ftz a; ([r.1], r.2))

/-- R138. -/
def execRcp (y : Un ExactMod) (s : State) : Out := sfuOne (.rcp y) s y .rcp

/-- R138. -/
def execRsq (y : Un ExactMod) (s : State) : Out := sfuOne (.rsq y) s y .rsq

/-- R138. -/
def execSqrt (y : Un ExactMod) (s : State) : Out := sfuOne (.sqrt y) s y .sqrt

/-- R138. -/
def execExp2 (y : Un ExactMod) (s : State) : Out := sfuOne (.exp2 y) s y .exp2

/-- R138. -/
def execLog2 (y : Un ExactMod) (s : State) : Out := sfuOne (.log2 y) s y .log2

/-- R138. -/
def execTanh (y : Un ExactMod) (s : State) : Out := sfuOne (.tanh y) s y .tanh

/-- R138. -/
def execSint (y : Un ExactMod) (s : State) : Out := sfuOne (.sint y) s y .sint

/-- R138. -/
def execCost (y : Un ExactMod) (s : State) : Out := sfuOne (.cost y) s y .cost

/-- R138. -/
def execSincost (y : Un ExactMod) (s : State) : Out :=
  sfuOp (.sincost y) s y.a (fun red a =>
    let p := special .sint red y.m.ftz a
    let q := special .cost red y.m.ftz a
    ([p.1, q.1], p.2 ||| q.2))

/-! Conversions (R139 to R144) -/

/-- Steps the stochastic-rounding register of each acting lane n times (R44, R46). -/
def stepLfsr (x : Issue) (n : Nat) (s : State) : State :=
  s.modUnit x.u (fun un =>
    let r := (lanesOf x.lanes).foldl (fun t l => Tab.set 0 t l (Nat.repeat lfsrStep n (Tab.get 0 t l))) un.ctl.lfsr
    { un with ctl := { un.ctl with lfsr := r } })

/-- The stochastic-rounding register of a lane after k steps, its upper half (R46). -/
def randomHalf (x : Issue) (l k : Nat) : Nat := (Nat.repeat lfsrStep k (Tab.get 0 x.un.ctl.lfsr l)).toNat / 65536

/-- FP32 bits to BF16, the k-th stochastic conversion of the instruction in its lane (R46, R47). -/
def toBf16 (x : Issue) (m : NarrowingMod) (l k a : Nat) : FRes :=
  match m.rnd with
  | .sr => roundSr m.ftz a (randomHalf x l k)
  | .det r => fmtBf16.convert (x.mode r) m.ftz (fmtF32.input m.ftz a)

/-- A narrowing conversion, which steps the register n times where it rounds stochastically. -/
def narrowingOp (i : Instr) (s : State) (d : Operand) (m : NarrowingMod) (n : Nat) (f : Issue → Nat → FRes) : Out :=
  issue i s (fun x s =>
    let s := if m.rnd = .sr then stepLfsr x n s else s
    settleLanes x s (fun l => (f x l).2) (fun k s => writeOp s x.u d k (fun l => w32 (f x l).1)))

/-- R139. -/
def execCvtfh (y : Un NarrowingMod) (s : State) : Out :=
  narrowingOp (.cvtfh y) s y.d y.m 1 (fun x l => toBf16 x y.m l 0 (x.nat s l y.a))

/-- R139. -/
def execPackh (y : Bin NarrowingMod) (s : State) : Out :=
  narrowingOp (.packh y) s y.d y.m 2 (fun x l =>
    let lo := toBf16 x y.m l 0 (x.nat s l y.a)
    let hi := toBf16 x y.m l 1 (x.nat s l y.b)
    (lo.1 + 65536 * hi.1, lo.2 ||| hi.2))

/-- R140. -/
def execCvthf (y : Un HfMod) (s : State) : Out :=
  fpOp (.cvthf y) s y.d (fun x l =>
    let a := x.nat s l y.a
    fmtF32.convert .rne false (fmtBf16.input y.m.ftz (if y.m.hi then a / 65536 else a % 65536)))

/-- Source of a conversion to narrow formats: FP32, or BF16 [15:0] (R141). -/
def wideSrc (bf16 : Bool) (a : Nat) : FV := if bf16 then fmtBf16.decode (a % 65536) else fmtF32.decode a

/-- A word with n bits at position p replaced. -/
def replaceField (c p n v : Nat) : Nat := c - bits c (p + n - 1) p * 2 ^ p + v % 2 ^ n * 2 ^ p

/-- R141. -/
def execCvtf8 (y : Tern F8Mod) (s : State) : Out :=
  fpOp (.cvtf8 y) s y.d (fun x l =>
    let f := if y.m.e5m2 then fmtE5m2 else fmtE4m3
    let p := f.narrow y.m.sat (wideSrc y.m.bf16 (x.nat s l y.a))
    let q := f.narrow y.m.sat (wideSrc y.m.bf16 (x.nat s l y.b))
    (replaceField (x.nat s l y.c) (if y.m.hi then 16 else 0) 16 (p.1 + 256 * q.1), p.2 ||| q.2))

/-- R141. -/
def execCvtf4 (y : Tern F4Mod) (s : State) : Out :=
  fpOp (.cvtf4 y) s y.d (fun x l =>
    let p := fmtE2m1.narrow true (wideSrc y.m.bf16 (x.nat s l y.a))
    let q := fmtE2m1.narrow true (wideSrc y.m.bf16 (x.nat s l y.b))
    (replaceField (x.nat s l y.c) (8 * y.m.np.val) 8 (p.1 + 16 * q.1), p.2 ||| q.2))

/-- The scale of CVT8F and CVT4F (R142). -/
def elementScale (x : Issue) (s : State) (l : Nat) (b : Option Operand) : Nat :=
  match b with
  | some o => x.nat s l o % 256
  | none => 127

/-- R142. -/
def execCvt8f (y : OptB W8Mod) (s : State) : Out :=
  fpOp (.cvt8f y) s y.d (fun x l =>
    widenScaled (if y.m.e5m2 then fmtE5m2 else fmtE4m3) (bits (x.nat s l y.a) (8 * y.m.el.val + 7) (8 * y.m.el.val))
      (elementScale x s l y.b))

/-- R142. -/
def execCvt4f (y : OptB W4Mod) (s : State) : Out :=
  fpOp (.cvt4f y) s y.d (fun x l =>
    widenScaled fmtE2m1 (bits (x.nat s l y.a) (4 * y.m.el.val + 3) (4 * y.m.el.val)) (elementScale x s l y.b))

/-- R143: the scale of the block of the acting lanes, +0 standing for the others. -/
def blockScale (x : Issue) (s : State) (y : Un MxPMod) : Option Nat :=
  mxScale (narrowFmt y.m.fmt) ((lanesOf x.lanes).map (fun l => wideSrc y.m.bf16 (x.nat s l y.a)))

/-- R143. -/
def execMxpack (y : Un MxPMod) (s : State) : Out :=
  fpOp (.mxpack y) s y.d (fun x l =>
    let sc := blockScale x s y
    let r := mxElement (narrowFmt y.m.fmt) sc (wideSrc y.m.bf16 (x.nat s l y.a))
    (sc.getD 255 * 256 + r.1, r.2))

/-- R143. -/
def execMxunpk (y : Un MxUMod) (s : State) : Out :=
  fpOp (.mxunpk y) s y.d (fun x l =>
    let a := x.nat s l y.a
    widenScaled (narrowFmt y.m.fmt) (match y.m.fmt with | .e2m1 => a % 16 | _ => a % 256) (bits a 15 8))

/-- R144. -/
def execCvtfi (y : Un CvtIMod) (s : State) : Out :=
  issue (.cvtfi y) s (fun x s =>
    let r (l : Nat) := floatToInt y.m.ty (x.mode y.m.rnd) (fmtF32.decode (x.nat s l y.a))
    settleLanes x s (fun l => (r l).2) (fun k s =>
      if y.m.ty.wide then writePair s x.u y.d k (fun l => BitVec.ofInt 64 (r l).1)
      else writeOp s x.u y.d k (fun l => BitVec.ofInt 32 (r l).1)))

/-- The integer a source holds (R144). -/
def intSrc (t : IntTy) (x : Issue) (s : State) (l : Nat) (o : Operand) : Int :=
  match t with
  | .i32 => (readOp s x.un l o).toInt
  | .n32 => (readOp s x.un l o).toNat
  | .i64 => (readPair s x.un l o).toInt
  | .n64 => (readPair s x.un l o).toNat

/-- R144. -/
def execCvtif (y : Un CvtIMod) (s : State) : Out :=
  fpOp (.cvtif y) s y.d (fun x l => intToFloat (x.mode y.m.rnd) (intSrc y.m.ty x s l y.a))

/-- Bits of an integer width. -/
def intBits : IWidth → Nat
  | .w8 => 8
  | .w16 => 16
  | .w32 => 32

/-- CVTII of a source value (R144). -/
def changeWidth (m : CvtIIMod) (v : Int) : Word :=
  let w := intBits m.width
  if m.sat then
    BitVec.ofInt 32 (if m.sdst then clamp v (-(2 ^ (w - 1) : Nat)) ((2 ^ (w - 1) : Nat) - 1) else clamp v 0 ((2 ^ w : Nat) - 1))
  else
    let n := wrapInt w v
    BitVec.ofInt 32 (if m.sdst then sextNat w n else n)

/-- R144. -/
def execCvtii (y : Un CvtIIMod) (s : State) : Out :=
  alu (.cvtii y) s y.d (fun x l =>
    let v : Int := match y.m.width with
      | .w32 => readInt (!y.m.ssrc) (readPair s x.un l y.a)
      | _ => readInt (!y.m.ssrc) (readOp s x.un l y.a)
    changeWidth y.m v)

end Sys2Proof.Machine
end

