-- ==== Sys2Proof/Machine/Exchange.lean ====
section
/-! DEFINITION. Meanings of the lane-exchange instructions, majors 0x24 to 0x26 (08 R148 to R152). -/

namespace Sys2Proof.Machine

/-! Shuffles (R149) -/

/-- First lane of the segment of lane l, and the segment width. -/
def segment (m : SegMod) (l : Nat) : Nat × Nat :=
  let w := 32 / 2 ^ m.m.val
  (l - l % w, w)

/-- R149. -/
def execShfl (y : Bin SegMod) (s : State) : Out :=
  alu (.shfl y) s y.d (fun x l =>
    let (sb, w) := segment y.m l
    x.word s (sb + x.nat s l y.b % w) y.a)

/-- R149. -/
def execShflx (y : Bin SegMod) (s : State) : Out :=
  alu (.shflx y) s y.d (fun x l =>
    let (sb, w) := segment y.m l
    x.word s (sb + ((l - sb) ^^^ (x.nat s l y.b % w))) y.a)

/-- R149. -/
def execShflup (y : Tern SegMod) (s : State) : Out :=
  alu (.shflup y) s y.d (fun x l =>
    let (sb, w) := segment y.m l
    let k := x.nat s l y.b
    if w ≤ k ∨ l < sb + k then x.word s l y.c else x.word s (l - k) y.a)

/-- R149. -/
def execShfldn (y : Tern SegMod) (s : State) : Out :=
  alu (.shfldn y) s y.d (fun x l =>
    let (sb, w) := segment y.m l
    let k := x.nat s l y.b
    if w ≤ k ∨ sb + w ≤ l + k then x.word s l y.c else x.word s (l + k) y.a)

/-! Ballot and votes (R150) -/

/-- Participating lanes in which the predicate, inverted under .NOT, holds. -/
def voters (x : Issue) (pa : Fin 16) (inv : Bool) : Mask :=
  x.lanes &&& (if inv then ~~~(predMask x.un pa) else predMask x.un pa)

/-- R150. -/
def execBallot (y : Ballot) (s : State) : Out := alu (.ballot y) s y.d (fun x _ => voters x y.pa y.inv)

/-- R150. -/
def execVoteany (y : Vote) (s : State) : Out :=
  aluPred (.voteany y) s y.pd (fun x _ => decide (voters x y.pa y.inv ≠ 0))

/-- R150. -/
def execVoteall (y : Vote) (s : State) : Out :=
  aluPred (.voteall y) s y.pd (fun x _ => decide (voters x y.pa y.inv = x.lanes))

/-- R150. -/
def execVoteuni (y : Vote) (s : State) : Out :=
  aluPred (.voteuni y) s y.pd (fun x _ => decide (voters x y.pa false = x.lanes ∨ voters x y.pa false = 0))

/-! Scan, reduce and match (R151, R152) -/

/-- One step of a scan: value and flags. -/
def scanStep (m : ScanMod) (acc a : Word) : Word × Nat :=
  match m.op with
  | .add => (acc + a, 0)
  | .min => (minWord m.uns acc a, 0)
  | .max => (maxWord m.uns acc a, 0)
  | .fadd =>
    let r := fmtF32.add .rne false (fmtF32.decode acc.toNat) (fmtF32.decode a.toNat)
    (w32 r.1, r.2)

/-- The identity of a scan operation. -/
def scanId (m : ScanMod) : Word :=
  match m.op with
  | .add => 0
  | .min => if m.uns then 0xFFFFFFFF else 0x7FFFFFFF
  | .max => if m.uns then 0 else 0x80000000
  | .fadd => 0x80000000

/-- Values before and after each lane in ascending order, from the accumulated value and flags on. -/
def scanFrom (m : ScanMod) (f : Nat → Word) : List Nat → Word → Nat → List (Nat × Word × Word) × Word × Nat
  | [], acc, fl => ([], acc, fl)
  | l :: ls, acc, fl =>
    let r := scanStep m acc (f l)
    let t := scanFrom m f ls r.1 (fl ||| r.2)
    ((l, acc, r.1) :: t.1, t.2)

/-- The serial scan over the participating lanes: entries (lane, exclusive, inclusive), the total and the flags (R151). -/
def scan (m : ScanMod) (f : Nat → Word) (p : List Nat) : List (Nat × Word × Word) × Word × Nat :=
  match p with
  | [] => ([], 0, 0)
  | l :: ls =>
    let t := scanFrom m f ls (f l) 0
    ((l, scanId m, f l) :: t.1, t.2)

/-- R151. -/
def execPscan (y : Un ScanMod) (s : State) : Out :=
  issue (.pscan y) s (fun x s =>
    let t := scan y.m (fun l => x.word s l y.a) (lanesOf x.lanes)
    let v (l : Nat) : Word := match Tab.find? t.1 l with
      | some e => if y.m.excl then e.1 else e.2
      | none => 0
    finish x (writeOp (s.modUnit x.u (fun un => orFlags un x.lanes (fun _ => t.2.2))) x.u y.d x.lanes v))

/-- R151. -/
def execReduce (y : Un ScanMod) (s : State) : Out :=
  issue (.reduce y) s (fun x s =>
    let t := scan y.m (fun l => x.word s l y.a) (lanesOf x.lanes)
    finish x (writeOp (s.modUnit x.u (fun un => orFlags un x.lanes (fun _ => t.2.2))) x.u y.d x.lanes (fun _ => t.2.1)))

/-- R152. -/
def execMatch (y : Un Bool) (s : State) : Out :=
  alu (.match_ y) s y.d (fun x l =>
    let v (j : Nat) : DWord := if y.m then x.dword s j y.a else (x.word s j y.a).setWidth 64
    x.lanes &&& maskOf (fun j => v j == v l))

end Sys2Proof.Machine
end

