-- ==== Sys2Proof/Machine/LoadStore.lean ====
section
/-! DEFINITION. Loads and stores: address formation, checks, the issue of an access and its performance (08 R153 to R163; 14 R264, R265, R276; 19 R364, R367, R378). The meanings of majors 0x28 to 0x2E. -/

namespace Sys2Proof.Machine

/-! Access types (Table 8-3) -/

/-- Size of an access type in bytes. -/
def typeBytes : MType → Nat
  | .b32 => 4 | .b64 => 8 | .b128 => 16
  | .n8 | .i8 | .e4m3 | .e5m2 => 1
  | .n16 | .i16 | .bf16 => 2

/-- Register words a load of the type delivers for the bytes read. -/
def loadWords (ty : MType) (bs : List Byte) : List Word :=
  let n := ofBytes bs
  match ty with
  | .b32 | .n8 | .n16 => [w32 n]
  | .b64 => [w32 n, w32 (n / 2 ^ 32)]
  | .b128 => [w32 n, w32 (n / 2 ^ 32), w32 (n / 2 ^ 64), w32 (n / 2 ^ 96)]
  | .i8 => [BitVec.ofInt 32 (sextNat 8 n)]
  | .i16 => [BitVec.ofInt 32 (sextNat 16 n)]
  | .e4m3 => [w32 (widenScaled fmtE4m3 n 127).1]
  | .e5m2 => [w32 (widenScaled fmtE5m2 n 127).1]
  | .bf16 => [w32 (fmtF32.deliver .rne false (fmtBf16.decode n)).1]

/-- A value converted for a store of the type: its bits and flags. -/
def storeValue (ty : MType) (sat : Bool) (ws : List Word) : FRes :=
  let a := (ws.getD 0 0).toNat
  match ty with
  | .b32 | .n8 | .n16 | .i8 | .i16 => (a, 0)
  | .b64 => (a + 2 ^ 32 * (ws.getD 1 0).toNat, 0)
  | .b128 => (a + 2 ^ 32 * (ws.getD 1 0).toNat + 2 ^ 64 * (ws.getD 2 0).toNat + 2 ^ 96 * (ws.getD 3 0).toNat, 0)
  | .e4m3 => fmtE4m3.narrow sat (fmtF32.decode a)
  | .e5m2 => fmtE5m2.narrow sat (fmtF32.decode a)
  | .bf16 => fmtBf16.convert .rne false (fmtF32.decode a)

/-- The bytes a store of the type writes. -/
def storeBytes (ty : MType) (sat : Bool) (ws : List Word) : List Byte := bytesOf (typeBytes ty) (storeValue ty sat ws).1

/-! What an access instruction is -/

/-- The address spaces of Table 1-7. -/
inductive Space where
  | glob | scr | rmt | til | loc | win
  deriving DecidableEq, Repr

/-- Shape of an access: space, load, type, saturation, and whether it commits lane by lane (R161). -/
structure Shape where
  space : Space
  load : Bool
  ty : MType
  sat : Bool
  byLane : Bool
  deriving DecidableEq, Repr

/-- Shape of an access instruction, packed ones included. -/
def shapeOf : Instr → Option Shape
  | .ld x => some ⟨.glob, true, x.m.ty, false, false⟩
  | .st x => some ⟨.glob, false, x.m.ty, x.m.sat, false⟩
  | .gld x => some ⟨.glob, true, x.m.ty, false, true⟩
  | .sct x => some ⟨.glob, false, x.m.ty, x.m.sat, true⟩
  | .lds x => some ⟨.scr, true, x.m.ty, false, false⟩
  | .sts x => some ⟨.scr, false, x.m.ty, x.m.sat, false⟩
  | .ldsr x => some ⟨.rmt, true, x.m.ty, false, false⟩
  | .stsr x => some ⟨.rmt, false, x.m.ty, x.m.sat, false⟩
  | .ldt x => some ⟨.til, true, x.m.ty, false, false⟩
  | .stt x => some ⟨.til, false, x.m.ty, x.m.sat, false⟩
  | .ldl x => some ⟨.loc, true, x.m.ty, false, false⟩
  | .stl x => some ⟨.loc, false, x.m.ty, x.m.sat, false⟩
  | .ldw x => some ⟨.win, true, x.m.ty, false, false⟩
  | .stw x => some ⟨.win, false, x.m.ty, x.m.sat, false⟩
  | .cmpst x => some ⟨.glob, false, x.m.ty, false, true⟩
  | .expld x => some ⟨.glob, true, x.m.ty, false, true⟩
  | _ => none

/-! Address formation (R156) -/

/-- Value of a base: a 32-bit register extended, or a pair under .A64. -/
def baseValue (x : Issue) (s : State) (l : Nat) (base : Operand) (a64 : Bool) : DWord :=
  if a64 then x.dword s l base else (x.word s l base).setWidth 64

/-- The LD row of Table 8-4. -/
def globalAddr (x : Issue) (s : State) (l : Nat) (base : Operand) (off : BitVec 16) (a64 : Bool) (sr : Operand) : DWord :=
  x.dword s l sr + baseValue x s l base a64 + off.signExtend 64

/-- The LDS row of Table 8-4. -/
def offsetAddr (x : Issue) (s : State) (l : Nat) (base : Operand) (off : BitVec 16) : DWord :=
  (x.word s l base + off.signExtend 32).setWidth 64

/-! Checks of one lane (R157, R159, R257, R367, R378, R398) -/

/-- Outcome of the checks of one lane. -/
inductive LaneChk where
  | ok (p : Place)
  | need (page : Nat)
  | wait (core : Nat)
  | bad (cause : Nat) (addr : DWord) (refused : Bool)
  | halt
  deriving DecidableEq, Repr

/-- A move past Prepare changes the role's count (Table 13-5). -/
def roleMoving (k : Core) (r : Role) : Bool :=
  match k.ci.move with
  | some m => (decide (m.donor = r) || decide (m.recv = r)) && decide (m.phase ≠ .prepare)
  | none => false

/-- The scratchpads of a core are being relocated (R30, R182, R257). -/
def scrBusy (k : Core) : Bool := k.mx.reloc.isSome || roleMoving k .scr

/-- A write of n bytes meets the latched plan of a team (R367). -/
def latched (t : Team) (off n : Nat) : Bool :=
  match t.latch with
  | some (a, len) => decide (off < a + len) && decide (a < off + n)
  | none => false

/-- A scratchpad range of a team (R157). -/
def checkScr (s : State) (t : Option Nat) (off n : Nat) (write : Bool) (addr : DWord) : LaneChk :=
  match t with
  | none => .bad causeRoleRange addr false
  | some key =>
    match s.team? key with
    | none => .bad causeRoleRange addr false
    | some t =>
      if t.scrSize < off + n then .bad causeRoleRange addr false
      else if write && latched t off n then .bad causeRoleRange addr false
      else if scrBusy (s.core t.core) then .wait t.core
      else .ok (.scr key off)

/-- The team at a position of the unit's cluster; a team the Sump has formed stands alone in a rectangle of one core (R29, R220). -/
def teamAt (s : State) (un : UnitSt) (pos : Nat) : Option Nat :=
  match s.team? un.at_.team with
  | none => none
  | some t =>
    if t.sump then (if pos = 0 then some un.at_.team else none) else
    match s.cluster? t.cluster with
    | none => none
    | some k => if pos < k.w * k.h then Tab.find? k.teams pos else none

/-- A tile is being flushed by a move (R257). -/
def tileFlushing (k : Core) (tile : Nat) : Bool :=
  match k.ci.move with
  | some m => m.tiles.contains tile
  | none => false

/-- Watchpoint w of a debug block: address, length and flags (Table 19-4). -/
def watchPoint (s : State) (blk w : Nat) : Nat × Nat × Nat :=
  (rdNat s (blk + 128 + 16 * w) 8, rdNat s (blk + 136 + 16 * w) 4, rdNat s (blk + 140 + 16 * w) 1)

/-- The lowest byte of a global access that a watchpoint matches, and whether the watchpoint halts (R378). -/
def watchHit (s : State) (u e : Nat) (un : UnitSt) (va n : Nat) (read write : Bool) : Option (Nat × Bool) :=
  let d := (s.cell un.cell).dbg
  if !debugged s un || !bit d.dflags 1 || d.pass.contains (u, e) then none else
  let hits := (List.range 4).filterMap (fun w =>
    let (a, len, f) := watchPoint s (debugBlock s un.cell) w
    if ((read && bit f 0) || (write && bit f 1)) && decide (0 < len) && decide (a < va + n) && decide (va < a + len) then some (max a va, bit f 2)
    else none)
  hits.foldl (fun best h => match best with
    | none => some h
    | some b => if h.1 < b.1 then some h else some b) none

/-- A CAC copy that an S-core's load would hit holds an uncorrectable error. -/
def cacBroken (s : State) (un : UnitSt) (pa n : Nat) : Bool :=
  if s.struck = [] || un.at_.strand then false else
  s.struck.any (fun e => match e with
    | .cacLine c line off => decide (c = un.at_.core) && decide (line * 128 + off * 8 < pa + n) && decide (pa < line * 128 + off * 8 + 8)
    | _ => false)

/-- The checks of one lane of an access up to its place: range, page span and translation, watchpoints. -/
def checkPlace (s : State) (x : Issue) (sp : Split) (space : Space) (read write : Bool) (va : DWord) (n : Nat) : LaneChk :=
  let un := x.un
  let a := va.toNat
  match space with
    | .glob =>
      match checkGlobal s un sp.walked false write a n with
      | .need p => LaneChk.need p
      | .bad c r => .bad c va r
      | .ok pa =>
        match watchHit s x.u x.e un a n read write with
        | some (_, true) => .halt
        | some (b, false) => .bad causeWatch (dw b) false
        | none => .ok (.glob pa)
    | .scr => checkScr s (some un.at_.team) a n write va
    | .rmt =>
      if bits a 23 21 ≠ 0 ∨ bits a 31 28 ≠ 0 then .bad causeRoleRange va false
      else checkScr s (teamAt s un (bits a 27 24)) (bits a 20 0) n write va
    | .til =>
      let k := s.core un.at_.core
      match Tab.find? k.ci.tiles (a / 512) with
      | some t =>
        if t.team ≠ un.at_.team ∨ 512 < a % 512 + n ∨ tileFlushing k (a / 512) then .bad causeRoleRange va false
        else if roleMoving k .til then .wait un.at_.core
        else .ok (.til un.at_.core a)
      | none => .bad causeRoleRange va false
    | .loc => if a + n ≤ 65536 then .ok (.loc un.at_.core a) else .bad causeRoleRange va false
    | .win =>
      if bits a 31 25 ≠ 0 ∨ 383 < bits a 24 16 ∨ 65536 < a % 65536 + n then .bad causeRoleRange va false
      else .ok (.loc (un.at_.core / 384 * 384 + bits a 24 16) (a % 65536))

/-- A read of a place that holds an uncorrectable error is a machine check (R303, R398). -/
def checkErrors (s : State) (x : Issue) (read : Bool) (n : Nat) (r : LaneChk) : LaneChk :=
  match r with
  | .ok p =>
    if read && (poisonedAt s p n || (match p with | .glob pa => cacBroken s x.un pa n | _ => false)) then
      .bad causeMachineCheck x.sp.pc false
    else r
  | _ => r

/-- The checks of one lane of an access in their order: range, page span and translation, watchpoints, uncorrectable errors. -/
def checkLane (s : State) (x : Issue) (sp : Split) (space : Space) (read write : Bool) (va : DWord) (n : Nat) : LaneChk :=
  checkErrors s x read n (checkPlace s x sp space read write va n)

/-! Issue (R159 to R162) -/

/-- A group of compute class (R295). -/
def computeGroup (s : State) (un : UnitSt) : Bool :=
  !un.at_.strand && (match s.team? un.at_.team with | some t => !t.graphics | none => true)

/-- Counts a global load of a compute group in the core's window (R298). -/
def countLoad (s : State) (un : UnitSt) : State :=
  if computeGroup s un then s.modCore un.at_.core (fun k => { k with loads := k.loads + 1 }) else s

/-- Issues an access: its addresses and data are read now, its destinations have a producer pending, and it waits for its translation (R155, R159). -/
def beginAccess (x : Issue) (s : State) (lanes : Mask) (addr : Nat → DWord) (data : Nat → List Word) (dests : List Operand) : State :=
  s.modUnit x.u (fun un =>
    let o := { newOp x lanes s.now with stage := 3, holders := [x.e], dests := dests }
    let o := (lanesOf lanes).foldl (fun o l =>
      let o := { o with addr := Tab.put o.addr l (addr l) }
      (data l).zipIdx.foldl (fun o w => o.setWord l w.2 w.1) o) o
    addOp (dropFaulted un x.e) o)

/-- Address of a lane of an operation. -/
def Op.at_ (o : Op) (l : Nat) : DWord := Tab.get 0 o.addr l

/-- The data words of a lane of an operation. -/
def Op.words (o : Op) (l n : Nat) : List Word := (List.range n).map (fun w => o.word l w)

/-- Parks the split of an access until walks or a relocation have ended; the access goes on from there. -/
def holdAccess (x : Issue) (s : State) (w : Wait) : State :=
  let s := match w with
    | .walk pages => pages.foldl (fun s p => requestWalk s x.un.cell x.un.at_.ctx p) s
    | _ => s
  park s x.u x.e w 1

/-- The split of an access goes on to issue again when its unit is resumed after a watch halt (R374, R378). -/
def haltAccess (x : Issue) (s : State) : State :=
  let s := s.modUnit x.u (fun un => un.modSplit x.e (fun sp => { sp with stage := 1 }))
  let s := s.modDebug x.un.cell (fun d => { d with pass := (x.u, x.e) :: d.pass })
  crossTrigger s x.u x.un

/-- The watch pass of a split is used up. -/
def clearPass (x : Issue) (s : State) : State :=
  if (s.cell x.un.cell).dbg.pass.contains (x.u, x.e) then
    s.modDebug x.un.cell (fun d => { d with pass := d.pass.filter (fun p => decide (p ≠ (x.u, x.e))) })
  else s

/-- The translations that an access used enter the unit's first-level TLB (R311). -/
def fillTlbs (x : Issue) (o : Op) (lanes : List Nat) (s : State) : State :=
  ((lanes.filterMap (fun l => lookup s x.un false (o.at_ l).toNat)).eraseDups).foldl (fun s t => fillFirst s x.un false t) s

/-- Distinct cores and strand cores that an access reaches. The spec does not say how many messages an access of several lanes counts: the model counts one request and one reply for each distinct core (R27) DESIGN CHOICE. -/
def messageTargets (s : State) (o : Op) : List Nat :=
  (o.place.map (fun (e : Nat × Place) => match e.2 with
    | .scr t _ => teamCore s t
    | .loc c _ => c
    | _ => 0)).eraseDups

/-- The access is made by message between cores (R27). -/
def byMessage : Instr → Bool
  | .ldsr _ | .stsr _ | .ldw _ | .stw _ | .atomwCas _ | .atomwAdd _ | .atomwExch _ => true
  | _ => false

/-- Counts the requests an access sends. -/
def countRequests (x : Issue) (o : Op) (s : State) : State :=
  if byMessage x.instr then (messageTargets s o).foldl (fun s _ => countSent s x.un) s else s

/-- Counts what the targets receive and answer, and the replies the issuer receives, when an access is performed (R27). -/
def countReplies (un : UnitSt) (o : Op) (s : State) : State :=
  if byMessage o.instr then
    (messageTargets s o).foldl (fun s c =>
      let s := if un.at_.strand then s.modScore c (fun k => { k with recv := k.recv + 1, sent := k.sent + 1 })
        else s.modCore c (fun k => { k with recv := k.recv + 1, sent := k.sent + 1 })
      countRecv s un) s
  else s

/-- Sets the operation with key k. -/
def putOp (s : State) (u k : Nat) (o : Op) : State := s.modUnit u (fun un => { un with ops := Tab.put un.ops k o })

/-- The checks of every lane of an access that is still to be performed, in lane order. -/
def laneChecks (s : State) (x : Issue) (sh : Shape) (o : Op) : List (Nat × LaneChk) :=
  (lanesOf o.lanes).map (fun l => (l, checkLane s x x.sp sh.space sh.load (!sh.load) (o.at_ l) (typeBytes sh.ty)))

/-- The places of the lanes that passed. -/
def okPlaces (cs : List (Nat × LaneChk)) : Tab Place :=
  cs.filterMap (fun c => match c.2 with | .ok p => some (c.1, p) | _ => none)

/-- The failing lanes with cause, address and refused mark. -/
def badLanes (cs : List (Nat × LaneChk)) : List (Nat × Nat × DWord × Bool) :=
  cs.filterMap (fun c => match c.2 with | .bad k a r => some (c.1, k, a, r) | _ => none)

/-- Mask of the lanes listed. -/
def maskOfList (ls : List Nat) : Mask := maskOf (fun l => ls.contains l)

/-- What the checks ask for before any lane can be performed: a relocation to end, walks, or a watch halt. -/
def checksWait (cs : List (Nat × LaneChk)) : Option Wait :=
  match cs.findSome? (fun c => match c.2 with | .wait core => some core | _ => none) with
  | some core => some (.space core)
  | none =>
    let pages := (cs.filterMap (fun c => match c.2 with | .need p => some p | _ => none)).eraseDups
    if pages = [] then none else some (.walk pages)

/-- The access an instruction makes writes memory (fflags [0], Table 16-3): a store, an atomic, a reduction, MST, DISCARD or DEQ. -/
def storesTo (i : Instr) : Bool :=
  match shapeOf i with
  | some sh => !sh.load
  | none => match i with
    | .pref _ | .cinv _ | .cwb _ | .cflush _ | .mlda _ | .mldb _ | .enq _ | .launch _ | .migr _ | .fenceSurf _ | .svc _ => false
    | _ => true

/-- The flags of a fault record of an access (Table 16-3). -/
def faultFlags (write refused : Bool) : Nat := b2n write + 8 * b2n refused

/-- An access that no lane may perform: its split traps, its destinations stay pending under the fault (R160). -/
def failAccess (x : Issue) (s : State) (k : Nat) (o : Op) (write : Bool) (cause : Nat) (addr : DWord) (refused : Bool) : State :=
  let s := putOp s x.u k { o with stage := 2 }
  takeTrap s x.u x.e { cause := cause, pc := x.sp.pc, addr := addr, flags := faultFlags write refused }

/-- Starts the lanes of an access that are performed: it is in flight until its completion. -/
def launchAccess (x : Issue) (s : State) (k : Nat) (o : Op) (load : Bool) : State :=
  let s := clearPass x (countRequests x o (fillTlbs x o (lanesOf o.lanes) s))
  (putOp s x.u k o).laterFree (if load then .producerCompletion x.u k else .storeCompletion x.u k)

/-- Lanes that an access committing lane by lane does not perform: those of the done mask with which its split resumed, and in a handler those of ctl.donemask (R161). -/
def skipped (un : UnitSt) (sp : Split) : Mask := if inHandler un sp.mask then un.ctl.donemask else sp.skip

/-- An access that commits lane by lane is complete: ctl.donemask is 0 again, but for the mask of a record that is still to be answered (R161). -/
def clearDone (s : State) (u : Nat) : State :=
  s.modUnit u (fun un => if un.parked.isSome then un else { un with ctl := { un.ctl with donemask := 0 } })

/-- The split waits until the lanes that are performed have completed, and then traps (R161, R162). -/
def partAccess (x : Issue) (s : State) (k : Nat) (o : Op) (load : Bool) (places : Tab Place) (count : Bool)
    (bad : Nat × Nat × DWord × Bool) : State :=
  let m := maskOfList (places.map (·.1))
  let done := skipped x.un x.sp ||| m
  let o := { o with lanes := m, place := places, stage := 0, done := done,
                    count := if count then popCount 32 done.toNat else 0, fault := some (bad.2.1, bad.2.2.1, bad.2.2.2) }
  park (launchAccess x s k o load) x.u x.e (.access k) 1

/-- Goes on with an access that has issued: all lanes or none, or lane by lane (R160, R161). An SCT with failing lanes raises the conversion flags of every lane it was to perform, and an ST with failing lanes, of which none is performed, raises none: R154 says of the first that a lane whose conversion would trap sets its flags at each attempt, and of the other lanes nothing DESIGN CHOICE. -/
def resolveAccess (x : Issue) (s : State) (sh : Shape) : State :=
  match s.unit? x.u with
  | none => s
  | some un =>
    match pendingAccess un x.e with
    | none => s
    | some (k, o) =>
      let x := { x with un := un, lanes := o.lanes }
      let cs := laneChecks s x sh o
      if cs.any (fun c => c.2 == .halt) then haltAccess x s else
      match checksWait cs with
      | some w => holdAccess x s w
      | none =>
        let conv (l : Nat) : Nat := if sh.load then 0 else (storeValue sh.ty sh.sat (o.words l 4)).2
        match badLanes cs with
        | b :: _ =>
          if sh.byLane then
            let trp := trapLanes un o.lanes conv
            let s := s.modUnit x.u (fun un => orFlags un o.lanes conv)
            partAccess x s k o sh.load ((okPlaces cs).filter (fun p => !trp.getLsbD p.1)) false b
          else failAccess x s k o (!sh.load) b.2.1 b.2.2.1 b.2.2.2
        | [] =>
          let s := if sh.byLane then clearDone s x.u else s
          let o := { o with place := okPlaces cs, stage := 0 }
          if sh.load then finish x (launchAccess x s k o true)
          else
            settleLanes x (dropOp s x.u k) conv (fun m s =>
              if m = 0 then s else launchAccess x s k { o with lanes := m, place := o.place.filter (fun p => m.getLsbD p.1) } false)

/-- An access in a compute phase of a superstep grid traps (R364). -/
def stepLocal (x : Issue) (s : State) (addr : DWord) : State :=
  takeTrap s x.u x.e { cause := causeStepLocal, pc := x.sp.pc, addr := addr, flags := faultFlags (storesTo x.instr) false }

/-- A global or local access: R364, then its issue, then its checks. -/
def access (i : Instr) (s : State) (sh : Shape) (d : Operand) (addr : Issue → Nat → DWord) : Out :=
  issue i s (fun x s =>
    if x.sp.stage ≠ 0 then resolveAccess x s sh
    else if decide (sh.space = .glob) && computePhase s x.un then stepLocal x s (addr x x.low)
    else
      let q := if sh.byLane then x.lanes &&& ~~~skipped x.un x.sp else x.lanes
      let data (l : Nat) : List Word :=
        if sh.load then [] else (List.range sh.ty.regs).map (fun k => x.word s l (Operand.next d k))
      let s := if decide (sh.space = .glob) && sh.load then countLoad s x.un else s
      resolveAccess x (beginAccess x s q (addr x) data (if sh.load then destRegs i else [])) sh)

/-- R160. -/
def execLd (y : Mem MemMod) (s : State) : Out :=
  access (.ld y) s ⟨.glob, true, y.m.ty, false, false⟩ y.d (fun x l => globalAddr x s l y.base y.off y.m.a64 y.s)

/-- R160. -/
def execSt (y : Mem MemMod) (s : State) : Out :=
  access (.st y) s ⟨.glob, false, y.m.ty, y.m.sat, false⟩ y.d (fun x l => globalAddr x s l y.base y.off y.m.a64 y.s)

/-- R161. -/
def execGld (y : Mem MemMod) (s : State) : Out :=
  access (.gld y) s ⟨.glob, true, y.m.ty, false, true⟩ y.d (fun x l => globalAddr x s l y.base y.off y.m.a64 y.s)

/-- R161. -/
def execSct (y : Mem MemMod) (s : State) : Out :=
  access (.sct y) s ⟨.glob, false, y.m.ty, y.m.sat, true⟩ y.d (fun x l => globalAddr x s l y.base y.off y.m.a64 y.s)

/-- R160, R156. -/
def execLds (y : Loc MemMod) (s : State) : Out :=
  access (.lds y) s ⟨.scr, true, y.m.ty, false, false⟩ y.d (fun x l => offsetAddr x s l y.base y.off)

/-- R160, R156. -/
def execSts (y : Loc MemMod) (s : State) : Out :=
  access (.sts y) s ⟨.scr, false, y.m.ty, y.m.sat, false⟩ y.d (fun x l => offsetAddr x s l y.base y.off)

/-- R160, R156. -/
def execLdsr (y : Loc MemMod) (s : State) : Out :=
  access (.ldsr y) s ⟨.rmt, true, y.m.ty, false, false⟩ y.d (fun x l => offsetAddr x s l y.base y.off)

/-- R160, R156. -/
def execStsr (y : Loc MemMod) (s : State) : Out :=
  access (.stsr y) s ⟨.rmt, false, y.m.ty, y.m.sat, false⟩ y.d (fun x l => offsetAddr x s l y.base y.off)

/-- R160, R156. -/
def execLdt (y : Loc MemMod) (s : State) : Out :=
  access (.ldt y) s ⟨.til, true, y.m.ty, false, false⟩ y.d (fun x l => offsetAddr x s l y.base y.off)

/-- R160, R156. -/
def execStt (y : Loc MemMod) (s : State) : Out :=
  access (.stt y) s ⟨.til, false, y.m.ty, y.m.sat, false⟩ y.d (fun x l => offsetAddr x s l y.base y.off)

/-- R160, R156. -/
def execLdl (y : Loc MemMod) (s : State) : Out :=
  access (.ldl y) s ⟨.loc, true, y.m.ty, false, false⟩ y.d (fun x l => offsetAddr x s l y.base y.off)

/-- R160, R156. -/
def execStl (y : Loc MemMod) (s : State) : Out :=
  access (.stl y) s ⟨.loc, false, y.m.ty, y.m.sat, false⟩ y.d (fun x l => offsetAddr x s l y.base y.off)

/-- R160, R156. -/
def execLdw (y : Loc MemMod) (s : State) : Out :=
  access (.ldw y) s ⟨.win, true, y.m.ty, false, false⟩ y.d (fun x l => offsetAddr x s l y.base y.off)

/-- R160, R156. -/
def execStw (y : Loc MemMod) (s : State) : Out :=
  access (.stw y) s ⟨.win, false, y.m.ty, y.m.sat, false⟩ y.d (fun x l => offsetAddr x s l y.base y.off)

/-! Compress and expand (R162) -/

/-- The checks up to the first failing element. -/
def untilBad : List (Nat × LaneChk) → List (Nat × LaneChk)
  | [] => []
  | c :: cs => match c.2 with
    | .bad _ _ _ => [c]
    | _ => c :: untilBad cs

/-- Goes on with a compress or expand that has issued; its count holds the value the cursor register takes on completion. -/
def resolvePacked (x : Issue) (s : State) (sh : Shape) : State :=
  match s.unit? x.u with
  | none => s
  | some un =>
    match pendingAccess un x.e with
    | none => s
    | some (k, o) =>
      let x := { x with un := un, lanes := o.lanes }
      let cs := untilBad (laneChecks s x sh o)
      if cs.any (fun c => c.2 == .halt) then haltAccess x s else
      match checksWait cs with
      | some w => holdAccess x s w
      | none =>
        match badLanes cs with
        | b :: _ => partAccess x s k o true (okPlaces cs) true b
        | [] => finish x (launchAccess x s k { o with place := okPlaces cs, stage := 0 } true)

/-- CMPST and EXPLD: elements follow one another in lane order from the cursor on, and the cursor register, which is written on completion, has a producer pending until then (R162). The rule says so of EXPLD's d only; of the cursor it is a DESIGN CHOICE. -/
def packed (i : Instr) (s : State) (load : Bool) (ty : MType) (d base : Operand) (off : BitVec 16) (sr : Operand) : Out :=
  let sh : Shape := ⟨.glob, load, ty, false, true⟩
  issue i s (fun x s =>
    if x.sp.stage ≠ 0 then resolvePacked x s sh else
    let z := typeBytes ty
    let b := x.dword s x.low base + off.signExtend 64
    let n0 := (x.word s x.low sr).toNat
    let rank (l : Nat) : Nat := ((lanesOf x.lanes).takeWhile (· < l)).length
    let addr (l : Nat) : DWord := b + dw ((n0 + rank l) * z)
    let final := n0 + (lanesOf x.lanes).length
    if computePhase s x.un then stepLocal x s (addr x.low)
    else if b.toNat % z ≠ 0 then takeTrap s x.u x.e { cause := causeMisaligned, pc := x.sp.pc, addr := b, flags := b2n (!load) }
    else
      let s := if load then countLoad s x.un else s
      let data (l : Nat) : List Word := if load then [] else (List.range ty.regs).map (fun k => x.word s l (Operand.next d k))
      let s := beginAccess x s (x.lanes &&& ~~~skipped x.un x.sp) addr data (destRegs i)
      let s := s.modUnit x.u (fun un => match pendingAccess un x.e with
        | some (k, o) => { un with ops := Tab.put un.ops k { o with count := final } }
        | none => un)
      resolvePacked x s sh)

/-- R162. -/
def execCmpst (y : Mem PackMod) (s : State) : Out := packed (.cmpst y) s false y.m.ty y.d y.base y.off y.s

/-- R162. -/
def execExpld (y : Mem PackMod) (s : State) : Out := packed (.expld y) s true y.m.ty y.d y.base y.off y.s

/-! Prefetch (R163) -/

/-- R163, R364: lanes that fail a check are dropped, and no walk starts. -/
def execPref (y : MemN PrefMod) (s : State) : Out :=
  issue (.pref y) s (fun x s =>
    if computePhase s x.un then finish x s else
    let places : Tab Place := (lanesOf x.lanes).filterMap (fun l =>
      match checkGlobal s x.un [] false false (globalAddr x s l y.base y.off y.m.a64 y.s).toNat 1 with
      | .ok pa => some (l, .glob pa)
      | _ => none)
    let o := { newOp x (maskOfList (places.map (·.1))) s.now with
      holders := [x.e], place := places, addr := places.map (fun e => (e.1, globalAddr x s e.1 y.base y.off y.m.a64 y.s)) }
    finish x (startOp (countLoad s x.un) x.u o .storeCompletion))

end Sys2Proof.Machine
end

