-- ==== Sys2Proof/Machine/Atomics.lean ====
section
/-! DEFINITION. Atomics, fences, cache control and DISCARD: their issue and their performance (09 R165 to R179). The meanings of majors 0x30 to 0x35 but for FENCE.SURF. -/

namespace Sys2Proof.Machine

/-! Effects (R170 to R173) -/

/-- Operations of the atomic families. -/
inductive AOp where
  | add | min | max | and | or | xor | exch | cas | fadd | fmin | fmax | bf16x2 | vismin
  deriving DecidableEq, Repr

/-- FP32 addition of an atomic: RNE, no flush (R171). -/
def atomFadd (a b : Nat) : Nat := (fmtF32.add .rne false (fmtF32.decode a) (fmtF32.decode b)).1

/-- One BF16 half of ADD.BF16X2 (R172). -/
def atomHalf (a b : Nat) : Nat := (fmtBf16.add .rne false (fmtBf16.decode a) (fmtBf16.decode b)).1

/-- A step on a word of w bits: old value, data and compare value (R170 to R173). The BF16 pair is stepped half by half elsewhere. -/
def atomStep (op : AOp) (sgn : Bool) (w old v e : Nat) : Nat :=
  let below (a b : Nat) : Bool := if sgn then decide (sextNat w a < sextNat w b) else decide (a < b)
  match op with
  | .add => (old + v) % 2 ^ w
  | .min => if below v old then v else old
  | .max => if below old v then v else old
  | .and => old &&& v
  | .or => old ||| v
  | .xor => old ^^^ v
  | .exch => v
  | .cas => if old = e then v else old
  | .fadd => atomFadd old v
  | .fmin => (fmtF32.minMax false false old v).1
  | .fmax => (fmtF32.minMax true false old v).1
  | .bf16x2 => atomHalf (old % 65536) (v % 65536) + 65536 * atomHalf (old / 65536) (v / 65536)
  | .vismin => if v < old then v else old

/-- Operation, modifier and whether a value returns. -/
def atomOf : Instr → Option (AOp × AtomMod × Bool)
  | .atomAdd x => some (.add, x.m, true)
  | .atomMin x => some (.min, x.m, true)
  | .atomMax x => some (.max, x.m, true)
  | .atomAnd x => some (.and, x.m, true)
  | .atomOr x => some (.or, x.m, true)
  | .atomXor x => some (.xor, x.m, true)
  | .atomExch x => some (.exch, x.m, true)
  | .atomCas x => some (.cas, x.m, true)
  | .atomFadd x => some (.fadd, x.m, true)
  | .atomFmin x => some (.fmin, x.m, true)
  | .atomFmax x => some (.fmax, x.m, true)
  | .atomAddBf16x2 x => some (.bf16x2, x.m, true)
  | .atomVismin x => some (.vismin, x.m, true)
  | .redAdd x => some (.add, x.m, false)
  | .redMin x => some (.min, x.m, false)
  | .redMax x => some (.max, x.m, false)
  | .redFadd x => some (.fadd, x.m, false)
  | .redAddBf16x2 x => some (.bf16x2, x.m, false)
  | .atomlCas x => some (.cas, x.m, true)
  | .atomlAdd x => some (.add, x.m, true)
  | .atomwCas x => some (.cas, x.m, true)
  | .atomwAdd x => some (.add, x.m, true)
  | .atomwExch x => some (.exch, x.m, true)
  | _ => none

/-! Issue (R167, R168) -/

/-- Size of an atomic in bytes. -/
def atomBytes (m : AtomMod) : Nat := if m.b64 then 8 else 4

/-- The checks of one lane: range, alignment, translation with write permission (R168). -/
def checkAtomic (s : State) (x : Issue) (space : Space) (va : DWord) (z : Nat) : LaneChk :=
  match space with
  | .glob => if va.toNat % z ≠ 0 then .bad causeMisaligned va false else checkLane s x x.sp .glob true true va z
  | sp =>
    match checkPlace s x x.sp sp true true va z with
    | .ok p => if va.toNat % z ≠ 0 then .bad causeMisaligned va false else checkErrors s x true z (.ok p)
    | r => r

/-- Goes on with an atomic that has issued: all lanes or none (R168). -/
def resolveAtomic (x : Issue) (s : State) (space : Space) (z : Nat) (returns : Bool) : State :=
  match s.unit? x.u with
  | none => s
  | some un =>
    match pendingAccess un x.e with
    | none => s
    | some (k, o) =>
      let x := { x with un := un, lanes := o.lanes }
      let cs := (lanesOf o.lanes).map (fun l => (l, checkAtomic s x space (o.at_ l) z))
      if cs.any (fun c => c.2 == .halt) then haltAccess x s else
      match checksWait cs with
      | some w => holdAccess x s w
      | none =>
        match badLanes cs with
        | b :: _ => failAccess x s k o true b.2.1 b.2.2.1 b.2.2.2
        | [] => finish x (launchAccess x s k { o with place := okPlaces cs, stage := 0 } returns)

/-- An atomic on a space: n data registers, d written when a value returns. -/
def atomic (i : Instr) (s : State) (space : Space) (m : AtomMod) (n : Nat) (returns : Bool) (d : Operand)
    (addr : Issue → Nat → DWord) : Out :=
  issue i s (fun x s =>
    if x.sp.stage ≠ 0 then resolveAtomic x s space (atomBytes m) returns
    else if decide (space = .glob) && computePhase s x.un then stepLocal x s (addr x x.low)
    else
      let data (l : Nat) : List Word := (List.range n).map (fun k => x.word s l (Operand.next d k))
      resolveAtomic x (beginAccess x s x.lanes (addr x) data (if returns then destRegs i else [])) space (atomBytes m) returns)

/-- ATOM on global memory. -/
def atomGlobal (i : Instr) (s : State) (y : Mem AtomMod) (returns : Bool) : Out :=
  atomic i s .glob y.m (match i with | .atomCas _ => 2 * y.m.regs | _ => y.m.regs) returns y.d
    (fun x l => globalAddr x s l y.base y.off y.m.a64 y.s)

/-- ATOML and ATOMW. -/
def atomLocal (i : Instr) (s : State) (y : Loc AtomMod) (space : Space) (n : Nat) : Out :=
  atomic i s space y.m n true y.d (fun x l => offsetAddr x s l y.base y.off)

/-- R170. -/
def execAtomAdd (y : Mem AtomMod) (s : State) : Out := atomGlobal (.atomAdd y) s y true
/-- R170. -/
def execAtomMin (y : Mem AtomMod) (s : State) : Out := atomGlobal (.atomMin y) s y true
/-- R170. -/
def execAtomMax (y : Mem AtomMod) (s : State) : Out := atomGlobal (.atomMax y) s y true
/-- R170. -/
def execAtomAnd (y : Mem AtomMod) (s : State) : Out := atomGlobal (.atomAnd y) s y true
/-- R170. -/
def execAtomOr (y : Mem AtomMod) (s : State) : Out := atomGlobal (.atomOr y) s y true
/-- R170. -/
def execAtomXor (y : Mem AtomMod) (s : State) : Out := atomGlobal (.atomXor y) s y true
/-- R170. -/
def execAtomExch (y : Mem AtomMod) (s : State) : Out := atomGlobal (.atomExch y) s y true
/-- R170. -/
def execAtomCas (y : Mem AtomMod) (s : State) : Out := atomGlobal (.atomCas y) s y true
/-- R171. -/
def execAtomFadd (y : Mem AtomMod) (s : State) : Out := atomGlobal (.atomFadd y) s y true
/-- R171. -/
def execAtomFmin (y : Mem AtomMod) (s : State) : Out := atomGlobal (.atomFmin y) s y true
/-- R171. -/
def execAtomFmax (y : Mem AtomMod) (s : State) : Out := atomGlobal (.atomFmax y) s y true
/-- R172. -/
def execAtomAddBf16x2 (y : Mem AtomMod) (s : State) : Out := atomGlobal (.atomAddBf16x2 y) s y true
/-- R173. -/
def execAtomVismin (y : Mem AtomMod) (s : State) : Out := atomGlobal (.atomVismin y) s y true
/-- R174. -/
def execRedAdd (y : Mem AtomMod) (s : State) : Out := atomGlobal (.redAdd y) s y false
/-- R174. -/
def execRedMin (y : Mem AtomMod) (s : State) : Out := atomGlobal (.redMin y) s y false
/-- R174. -/
def execRedMax (y : Mem AtomMod) (s : State) : Out := atomGlobal (.redMax y) s y false
/-- R174. -/
def execRedFadd (y : Mem AtomMod) (s : State) : Out := atomGlobal (.redFadd y) s y false
/-- R174. -/
def execRedAddBf16x2 (y : Mem AtomMod) (s : State) : Out := atomGlobal (.redAddBf16x2 y) s y false
/-- R175. -/
def execAtomlCas (y : Loc AtomMod) (s : State) : Out := atomLocal (.atomlCas y) s y .loc (2 * y.m.regs)
/-- R175. -/
def execAtomlAdd (y : Loc AtomMod) (s : State) : Out := atomLocal (.atomlAdd y) s y .loc y.m.regs
/-- R175. -/
def execAtomwCas (y : Loc AtomMod) (s : State) : Out := atomLocal (.atomwCas y) s y .win (2 * y.m.regs)
/-- R175. -/
def execAtomwAdd (y : Loc AtomMod) (s : State) : Out := atomLocal (.atomwAdd y) s y .win y.m.regs
/-- R175. -/
def execAtomwExch (y : Loc AtomMod) (s : State) : Out := atomLocal (.atomwExch y) s y .win y.m.regs

/-! CAC actions of releases and acquires (R176, Table 14-3) -/

/-- Every dirty line of a core's CAC role is written back. -/
def writebackAll (s : State) (c : Nat) : State :=
  ((s.core c).ci.lines.filterMap (fun e => if e.2.dirty = [] then none else some e.2.line)).foldl (fun s l => cacSend s c l) s

/-- Every CAC line not homed on the core is invalidated, its dirty bytes sent first. -/
def invalidateCac (s : State) (c : Nat) : State :=
  ((s.core c).ci.lines.filterMap (fun e => if homedOn s c e.2.line then none else some e.2.line)).foldl (fun s l => cacDrop s c l) s

/-- The CAC action of a release of a unit at .CLU or wider. -/
def releaseCac (s : State) (un : UnitSt) : State := if un.at_.strand then s else writebackAll s un.at_.core

/-- The CAC action of an acquire of a unit at .CLU or wider. -/
def acquireCac (s : State) (un : UnitSt) : State := if un.at_.strand then s else invalidateCac s un.at_.core

/-! Fences and cache control (R176, R178) -/

/-- R176. -/
def execFence (y : Fence) (s : State) : Out :=
  issue (.fence y) s (fun x s =>
    let ops := memOps x.un x.e (fun _ => true)
    let wide := decide (3 ≤ scopeNat y.m.scope)
    let s := if wide && decide (y.m.kind ≠ .acq) then releaseCac s x.un else s
    if ops ≠ [] then park s x.u x.e (.mem ops) fenceStage
    else finish x (if wide && decide (y.m.kind ≠ .rel) then acquireCac s x.un else s))

/-- CINV, CWB and CFLUSH: lanes that fail a check are dropped, and no walk starts (R178, R364). The rule gives these instructions no access size: one byte is checked, so that no address spans a page DESIGN CHOICE. -/
def cacheControl (i : Instr) (s : State) (y : MemN A64Mod) : Out :=
  issue i s (fun x s =>
    let addr (l : Nat) : DWord := globalAddr x s l y.base y.off y.m.a64 y.s
    if computePhase s x.un then stepLocal x s (addr x.low) else
    let places : Tab Place := (lanesOf x.lanes).filterMap (fun l =>
      match checkGlobal s x.un [] false false (addr l).toNat 1 with
      | .ok pa => some (l, .glob pa)
      | _ => none)
    let o := { newOp x (maskOfList (places.map (·.1))) s.now with
      holders := [x.e], place := places, addr := places.map (fun e => (e.1, addr e.1)) }
    finish x (startOp s x.u o .storeCompletion))

/-- R178. -/
def execCinv (y : MemN A64Mod) (s : State) : Out := cacheControl (.cinv y) s y
/-- R178. -/
def execCwb (y : MemN A64Mod) (s : State) : Out := cacheControl (.cwb y) s y
/-- R178. -/
def execCflush (y : MemN A64Mod) (s : State) : Out := cacheControl (.cflush y) s y

/-! DISCARD (R179) -/

/-- The address is of host or CXL memory, or unpopulated. -/
def hostBacked (s : State) (pa : Nat) : Bool :=
  match tierOf s pa with
  | some t => t.viaHost
  | none => true

/-- Checks of the pages of a DISCARD in order: physical pages, or the cause and address of the first failure. -/
def discardPages (s : State) (ctx lg : Nat) : Nat → Nat → Tab Place → Nat → Except (Nat × Nat × Bool) (Tab Place)
  | 0, _, acc, _ => .ok acc
  | k + 1, va, acc, i =>
    if !canonical va then .error (causePagePerm, va, false) else
    match walk s ctx va with
    | .fail c r => .error (c, va, r)
    | .leaf t =>
      if t.lg ≠ lg ∨ t.w = false ∨ hostBacked s t.pa then .error (causePagePerm, va, false)
      else discardPages s ctx lg k ((va + 2 ^ lg) % 2 ^ 64) (acc ++ [(i, .glob t.pa)]) (i + 1)

/-- The part obtains the table entries that the walks of a range of pages read (R264). -/
def obtainPages (s : State) (ctx va lg k : Nat) : State :=
  (List.range k).foldl (fun s i => obtainWalk s ctx ((va + i * 2 ^ lg) % 2 ^ 64)) s

/-- R179: the whole range is checked before anything is dropped. -/
def execDiscard (y : MemN Unit) (s : State) : Out :=
  issue (.discard y) s (fun x s =>
    let a := x.dword s x.low y.base + y.off.signExtend 64
    let k := x.nat s x.low y.s
    if computePhase s x.un then stepLocal x s a
    else if k = 0 then finish x s
    else
      let trap (cause : Nat) (addr : DWord) (refused : Bool) : State :=
        takeTrap (obtainWalk s x.un.at_.ctx addr.toNat) x.u x.e { cause := cause, pc := x.sp.pc, addr := addr, flags := faultFlags true refused }
      if !canonical a.toNat then trap causePagePerm a false else
      match walk s x.un.at_.ctx a.toNat with
      | .fail c r => trap c a r
      | .leaf t =>
        if a.toNat % 2 ^ t.lg ≠ 0 then trap causeMisaligned a false
        else match discardPages s x.un.at_.ctx t.lg k a.toNat [] 0 with
          | .error (c, va, r) => trap c (dw va) r
          | .ok places =>
            let o := { newOp x x.lanes s.now with
              holders := [x.e], place := places, addr := places.map (fun e => (e.1, a + dw (e.1 * 2 ^ t.lg))), count := t.lg }
            finish x (startOp (obtainPages s x.un.at_.ctx a.toNat t.lg k) x.u o .storeCompletion))

/-! Performance at the home slice -/

/-- Lines and bytes of a line of a staging (Table 10-4): MLDB, format, no scale bytes. -/
def stageShape (b : Bool) (f : StageFmt) (ns : Bool) : Nat × Nat :=
  match b, f with
  | false, .bf16 | false, .f32 => (32, 96)
  | false, .e4m3 | false, .e5m2 => (32, 48)
  | false, .e2m1 => (32, 24)
  | true, .bf16 => (48, 64)
  | true, .f32 => (24, 128)
  | true, .e4m3 | true, .e5m2 => (48, if ns then 32 else 33)
  | true, .e2m1 => (48, if ns then 16 else 17)

/-- Bytes of an element that MST stores (Table 10-5). -/
def storeElement : StoreFmt → Nat
  | .f32 => 4 | .bf16 => 2 | .e4m3 | .e5m2 => 1

/-- Bytes of an access, for the order of R158: of a lane, a staged line or a stored row. -/
def opBytes (i : Instr) : Nat :=
  match i with
  | .mlda y => (stageShape false y.fmt y.ns).2
  | .mldb y => (stageShape true y.fmt y.ns).2
  | .mst y => 32 * storeElement y.fmt
  | i =>
    match shapeOf i with
    | some sh => typeBytes sh.ty
    | none => match atomOf i with
      | some (_, m, _) => atomBytes m
      | none => 0

/-- Bytes of one element or row of an operation. -/
def runBytes (o : Op) : Nat :=
  match o.instr with
  | .discard _ => 2 ^ o.count
  | i => opBytes i

/-- The runs of bytes of an operation: code of the first byte, and length. -/
def opRuns (o : Op) : List (Nat × Nat) :=
  o.place.map (fun (e : Nat × Place) => (e.2.code, runBytes o))

/-- Two operations share a byte. -/
def opsMeet (a b : Op) : Bool :=
  (opRuns a).any (fun p => (opRuns b).any (fun q => decide (p.1 < q.1 + q.2) && decide (q.1 < p.1 + p.2)))

/-- An earlier operation of the unit must be performed first: one that shares a byte or is not translated yet, and for a release every earlier memory instruction (R158, R159, R270). PREF neither waits nor is waited for (R163). -/
def mustWait (un : UnitSt) (k : Nat) (o : Op) : Bool :=
  isOrdered o.instr && un.ops.any (fun (e : Nat × Op) => decide (e.1 < k) && isOrdered e.2.instr &&
    (decide (e.2.stage = 3) || outer (releases o.instr) || (decide (e.2.stage = 0) && opsMeet e.2 o)))

/-- The bytes of the lanes of an operation, each with lane × 16 + index and place. -/
def laneBytes (o : Op) (n : Nat) : List (Nat × Place) :=
  o.place.flatMap (fun (e : Nat × Place) => (List.range n).map (fun i => (e.1 * 16 + i, e.2.plus i)))

/-- The bytes of an operation that lie in lines a core holds dirty (R265). -/
def stillDirty (s : State) (un : UnitSt) (o : Op) : List Nat :=
  if un.at_.strand then [] else
  match o.instr with
  | .mlda _ | .mldb _ => []
  | _ =>
    ((o.place.flatMap (fun (e : Nat × Place) => match e.2 with
      | .glob pa => (List.range (runBytes o)).filterMap (fun i =>
          match cacFind (s.core un.at_.core) ((pa + i) / 128) with
          | some (_, l) => if Tab.get false l.dirty ((pa + i) % 128) then some ((pa + i) / 128) else none
          | none => none)
      | _ => [])).eraseDups)

/-- An operation has been performed but for bytes that may be dirty in the CAC role, whose lines are sent within 1,024 cycles; its completion follows when none is (R93, R265). -/
def awaitSlices (s : State) (u k : Nat) : State :=
  match s.unit? u with
  | none => s
  | some un =>
    match Tab.find? un.ops k with
    | none => s
    | some o =>
      let s := putOp s u k { o with stage := 1 }
      match stillDirty s un o with
      | [] => s.soon (.event (.storeCompletion u k))
      | ls => ls.foldl (fun s l =>
          let ev := Event.cacWriteback un.at_.core l
          if s.planned ev then s
          else { s.later (1 + Config.latency s.draws % 1023) (.event ev) with draws := s.draws + 1 }) s

/-- A global load of a compute group that misses the CAC on a line of the victim store counts in V (R298). -/
def countVictim (s : State) (un : UnitSt) (lines : List Nat) : State :=
  let k := s.core un.at_.core
  if lines.any (fun l => (cacFind k l).isNone && k.victims.contains l) && computeGroup s un then
    s.modCore un.at_.core (fun k => { k with victimHits := k.victimHits + 1 }) else s

/-- The bytes a load reads, by lane × 16 + index; a group's global load goes through the CAC role (R265). -/
def loadBytes (s : State) (un : UnitSt) (o : Op) (n : Nat) : State × Tab Byte :=
  let bs := laneBytes o n
  let glob := bs.filterMap (fun b => match b.2 with | .glob pa => some (b.1, pa) | _ => none)
  let lines := (glob.map (fun b => b.2 / 128)).eraseDups
  if glob = [] then (s, bs.map (fun b => (b.1, rdPlace s b.2)))
  else if un.at_.strand then
    (lines.foldl (fun s l => obtainRead s (128 * l)) s, glob.map (fun b => (b.1, rd8 s b.2)))
  else
    let c := un.at_.core
    let s := countVictim s un lines
    lines.foldl (fun (st : State × Tab Byte) l =>
      let s := if outerCac (acquires o.instr) then obtainRead (cacDrop st.1 c l) (128 * l) else cacLoad st.1 c l
      (s, (glob.filter (fun b => b.2 / 128 = l)).foldl (fun t b => Tab.put t b.1 (coreByte s c b.2)) st.2)) (s, [])

/-- The bytes a store writes, in ascending lane order. -/
def storedBytes (o : Op) (sh : Shape) : List (Place × Byte) :=
  o.place.flatMap (fun (e : Nat × Place) => placeRun e.2 (storeBytes sh.ty sh.sat (o.words e.1 4)))

/-- A store is performed; answers whether some of its bytes stay dirty in the CAC role (R265). -/
def performStore (s : State) (un : UnitSt) (o : Op) (sh : Shape) : State × Bool :=
  let ws := storedBytes o sh
  let glob := ws.filterMap (fun w => match w.1 with | .glob pa => some (pa, w.2) | _ => none)
  if glob = [] then (wrPlaces s ws, false)
  else if un.at_.strand then (sliceWrite s glob, false)
  else
    let rel := outerCac (releases o.instr)
    let s := if rel then releaseCac s un else s
    ((glob.map (fun w => w.1 / 128)).eraseDups).foldl (fun (st : State × Bool) l =>
      let r := coreStore st.1 un.at_.core (glob.filter (fun w => w.1 / 128 = l)) rel
      (r.1, st.2 || r.2)) (s, false)

/-- Reads a number of n bytes at a place, at the slice or the local memory. -/
def rdNum (s : State) (p : Place) (n : Nat) : Nat := ofBytes (rdPlaces s p n)

/-- Writes a number of n bytes at a place. -/
def wrNum (s : State) (p : Place) (n v : Nat) : State :=
  match p with
  | .glob pa => sliceWrite s (run pa (bytesOf n v))
  | p => wrPlaces s (placeRun p (bytesOf n v))

/-- The lines an atomic of a group touches leave its core's CAC role, dirty bytes sent first (R168). -/
def atomDrop (s : State) (un : UnitSt) (o : Op) : State :=
  if un.at_.strand then s else
  ((o.place.filterMap (fun (e : Nat × Place) => match e.2 with | .glob pa => some (pa / 128) | _ => none)).eraseDups).foldl
    (fun s l => cacDrop s un.at_.core l) s

/-- The steps of an atomic in ascending lane order on the bytes from `part` on: the old values go to data words 8 and 9 of each lane (R169). -/
def atomLanes (s : State) (o : Op) (z part : Nat) (step : Nat → Nat → Nat → Nat) : State × Op :=
  o.place.foldl (fun (st : State × Op) (e : Nat × Place) =>
    let n := if z = 8 then 2 else 1
    let old := rdNum st.1 (e.2.plus part) z
    let val (k : Nat) : Nat := (o.word e.1 k).toNat + (if n = 2 then 2 ^ 32 * (o.word e.1 (k + 1)).toNat else 0)
    let s := wrNum st.1 (e.2.plus part) z (step old (val 0) (val n))
    let op := if z = 2 then
        st.2.setWord e.1 8 (st.2.word e.1 8 ||| w32 (old * 2 ^ (8 * part)))
      else (st.2.setWord e.1 8 (w32 old)).setWord e.1 9 (w32 (old / 2 ^ 32))
    (s, op)) (s, o)

/-- An atomic is performed. CAS takes its compare value first and its new value after it (R167). -/
def performAtomic (s : State) (un : UnitSt) (o : Op) (op : AOp) (m : AtomMod) : State × Op :=
  let z := atomBytes m
  atomLanes (atomDrop s un o) o z 0 (fun old a b =>
    match op with
    | .cas => atomStep .cas m.signed (8 * z) old b a
    | op => atomStep op m.signed (8 * z) old a 0)

/-- One half of a set of a BF16 pair atomic is performed, on the lanes of one word (R169, R172): 0 low, 1 high. -/
def performHalf (s : State) (un : UnitSt) (o : Op) (set : Nat) (h : Nat) : State × Op :=
  let r := atomLanes (atomDrop s un o) { o with place := o.place.filter (fun e => e.2.code == set) } 2 (2 * h)
    (fun old a _ => atomHalf old (a / 65536 ^ h % 65536))
  (r.1, { r.2 with place := o.place })

/-- The sets of an atomic: the codes of the distinct words it names, by their lowest lanes (R169). -/
def atomSets (o : Op) : List Nat := (o.place.map (fun (e : Nat × Place) => e.2.code)).eraseDups

/-- CINV, CWB, CFLUSH and PREF act on the line of a byte (R163, R178). -/
def performLine (s : State) (un : UnitSt) (i : Instr) (pa : Nat) : State :=
  let l := pa / 128
  match i with
  | .cinv _ => if un.at_.strand then s else cacDrop s un.at_.core l
  | .cwb _ => if un.at_.strand then s else cacSend s un.at_.core l
  | .cflush _ =>
    let s := if un.at_.strand then s else cacDrop s un.at_.core l
    setL2 s l { l2Line s l with dirty := false }
  | .pref y =>
    let s := obtainRead s pa
    if y.m.cac && (cacFind (s.core un.at_.core) l).isNone then cacFill s un.at_.core l else s
  | _ => s

/-- A DISCARD is performed on its pages of 2^lg bytes: the events of all its lines at one instant, their order and instants being left open (R179) DESIGN CHOICE. Another core's copy stays as it is, but for a line homed on that core, whose slice keeps the copy current as it does at any write (R265). -/
def performDiscard (s : State) (un : UnitSt) (o : Op) : State :=
  let pages := o.place.filterMap (fun (e : Nat × Place) => match e.2 with | .glob pa => some pa | _ => none)
  let inside (pa : Nat) : Bool := pages.any (fun p => decide (p ≤ pa) && decide (pa < p + 2 ^ o.count))
  let s := pages.foldl (fun s p => reach s (homeDie p)) s
  let s := { s with
    mem := s.mem.filter (fun e => !inside e.1),
    poison := s.poison.filter (fun e => !inside (8 * e.1)),
    l2 := s.l2.filter (fun e => !inside (128 * e.1)) }
  let zeroed (l : CacLine) : CacLine := { l with data := l.data.filter (fun b => Tab.get false l.dirty b.1) }
  let kept (c : Nat) (ls : Tab CacLine) : Tab CacLine :=
    if !un.at_.strand && c == un.at_.core then ls.filter (fun e => !inside (128 * e.2.line))
    else ls.map (fun e => if inside (128 * e.2.line) && homedOn s c e.2.line then (e.1, zeroed e.2) else e)
  { s with cores := s.cores.map (fun (c : Nat × Core) => (c.1, { c.2 with ci := { c.2.ci with lines := kept c.1 c.2.ci.lines } })) }

end Sys2Proof.Machine
end

