-- ==== Sys2Proof/Machine/Banks.lean ====
section
/-! DEFINITION. Where the roles of a Cistern put their bytes: register blocks and scratchpad rows (13 R249, R250). -/

namespace Sys2Proof.Machine

/-! Register blocks (R249) -/

/-- The lowest free block place of a bank. -/
def freePlace (places : Tab (Nat × Nat)) (bank : Nat) : Option Nat :=
  (List.range 32).find? (fun j => (Tab.find? places (bank * 32 + j)).isNone)

/-- Blocks k to k + n − 1 of a group mapped from a base bank on. -/
def mapFrom (m base u : Nat) : Nat → Nat → Tab (Nat × Nat) → Option (Tab (Nat × Nat))
  | 0, _, places => some places
  | n + 1, k, places =>
    let bank := (base + k) % m
    match freePlace places bank with
    | some j => mapFrom m base u n (k + 1) (Tab.put places (bank * 32 + j) (u, k))
    | none => none

/-- Maps n blocks of a group: the first base from the pointer on that serves (R249). -/
def mapGroup (ci : Cistern) (u n : Nat) : Option Cistern :=
  let m := ci.reg.length
  ((List.range m).map (fun i => (ci.regPtr + i) % m)).findSome? (fun base =>
    (mapFrom m base u n 0 ci.places).map (fun p => { ci with places := p, regPtr := (base + n) % m }))

/-- Maps several groups in order, all or none (R253). -/
def mapGroups (ci : Cistern) (n : Nat) : List Nat → Option Cistern
  | [] => some ci
  | u :: us => match mapGroup ci u n with
    | some ci => mapGroups ci n us
    | none => none

/-- A group gives up its blocks. -/
def freeBlocks (ci : Cistern) (u : Nat) : Cistern := { ci with places := ci.places.filter (fun e => decide (e.2.1 ≠ u)) }

/-- Some group holds a block in a bank of role index n or more. -/
def regHeld (ci : Cistern) (n : Nat) : Bool := ci.places.any (fun e => decide (n ≤ e.1 / 32))

/-! Scratchpad rows (R250) -/

/-- SCR banks outside staging. -/
def nScr (k : Core) : Nat := k.ci.scr.length - k.mx.n

/-- Rows of a scratchpad over n banks. -/
def rowsFor (size n : Nat) : Nat := if size = 0 then 0 else ceilDiv size (64 * n)

/-- Teams resident on a core, in ascending slot. -/
def teamsOf (s : State) (c : Nat) : List (Nat × Team) :=
  (List.range 16).filterMap (fun slot =>
    List.find? (fun (e : Nat × Team) => decide (e.2.core = c) && decide (e.2.slot = slot)) s.teams)

/-- The scratchpads of the resident teams fit in n banks (R182, R255). -/
def scrFits (s : State) (c n : Nat) : Bool :=
  let ts := teamsOf s c
  if n = 0 then ts.all (fun e => decide (e.2.scrSize = 0))
  else decide ((ts.foldl (fun h e => h + rowsFor e.2.scrSize n) 0) ≤ 512)

/-- Bytes of a team's scratchpad from its high-water mark on become undefined (R256); the others keep their values. -/
def Team.forget (t : Team) (draw : Nat) : Team :=
  let kept := (List.range (t.hiwater - t.scrBase)).foldl
    (fun m i => let o := t.scrBase + i; Tab.set 0 (Tab.del m o) o (t.byte o)) t.scratch
  { t with scratch := kept.filter (fun e => decide (e.1 < t.hiwater)), scrBase := t.hiwater, scrDraw := draw }

end Sys2Proof.Machine
end

