-- ==== Sys2Proof/Machine/Slots.lean ====
section
/-! DEFINITION. The slots of the Cistern's banks: which rows an access needs, and their service frame by frame (08 R164; 13 R244 to R246, R249 to R252). The operand reads of slot 2 have one requester, the array, whose own rule counts them (R195). -/

namespace Sys2Proof.Machine

/-! Rows: core, physical bank, row -/

/-- The row of a Cistern that holds the byte at a place, for an access of a unit on core c: a scratchpad granule (R250), a row of a tile (R252), or the half of a line that hits the CAC role (R164). -/
def rowAt (s : State) (c : Nat) (p : Place) : Option (Nat × Nat × Nat) :=
  match p with
  | .scr key off =>
    match s.team? key with
    | none => none
    | some t =>
      let k := s.core t.core
      let n := nScr k
      if n = 0 then none else (k.ci.scr[off / 64 % n]?).map (fun b => (t.core, b, t.scrRow + off / 64 / n))
  | .til core off =>
    let til := (s.core core).ci.til
    if til.length = 0 then none
    else (til[off / 512 % til.length]?).map (fun b => (core, b, 8 * (off / 512 / til.length) + off % 512 / 64))
  | .glob pa =>
    let k := s.core c
    let n := k.ci.cac.length
    match cacFind k (pa / 128) with
    | some (key, _) =>
      if n = 0 then none
      else (k.ci.cac[key / 8 % n]?).map (fun b => (c, b, 16 * (key / 8 / n) + 2 * (key % 8) + pa % 128 / 64))
    | none => none
  | .loc _ _ => none

/-- The two rows that a line to be filled takes; they are told by the line, for its way is chosen when it fills. -/
def fillRows (s : State) (c line : Nat) : List (Nat × Nat × Nat) :=
  let k := s.core c
  let n := k.ci.cac.length
  if n = 0 || !cacAllocates k line then []
  else match k.ci.cac[cacSet k line % n]? with
    | some b => [(c, b, 512 + 2 * line), (c, b, 513 + 2 * line)]
    | none => []

/-- Rows of a run of bytes at a place. -/
def runRows (s : State) (c : Nat) (p : Place) (n : Nat) : List (Nat × Nat × Nat) :=
  if n = 0 then [] else
  (p :: (List.range ((n + 62) / 64)).map (fun i => p.plus (min (n - 1) (64 * (i + 1))))).filterMap (rowAt s c)

/-- Rows of a register of a group (R249). -/
def regRows (s : State) (u c r : Nat) : List (Nat × Nat × Nat) :=
  let ci := (s.core c).ci
  match List.find? (fun (e : Nat × Nat × Nat) => decide (e.2 = (u, r / 8))) ci.places with
  | some (key, _) => match ci.reg[key / 32]? with
    | some b => (List.range 2).map (fun h => (c, b, 16 * (key % 32) + 2 * (r % 8) + h))
    | none => []
  | none => []

/-- Rows of a staging slot, written over n staging banks, which are the last of SCR (R185). -/
def slotRows (s : State) (c slot : Nat) : List (Nat × Nat × Nat) :=
  let k := s.core c
  let n := k.mx.n
  if n = 0 then [] else
  (List.range 48).filterMap (fun i =>
    let r := 48 * slot + i
    (k.ci.scr[k.ci.scr.length - n + r % n]?).map (fun b => (c, b, r / n)))

/-! Requests -/

/-- What a bank with nothing to serve holds. -/
def BankQ.idle : BankQ := ⟨[], none, 0⟩

/-- Requests of one requester that are at a bank. -/
def slotReqs (s : State) (who : SlotOf) : List SlotReq :=
  s.cores.flatMap (fun (c : Nat × Core) => c.2.banks.flatMap (fun (b : Nat × BankQ) => b.2.reqs.filter (fun r => decide (r.who = who))))

/-- Adds a request at a bank of a core. -/
def askBank (s : State) (core bank : Nat) (r : SlotReq) : State :=
  let add (q : BankQ) : BankQ := { q with reqs := q.reqs ++ [r] }
  s.modCore core (fun k => { k with banks := Tab.put k.banks bank (add (Tab.get BankQ.idle k.banks bank)) })

/-- Asks for the distinct rows of a list, at each bank for as many as lie there (R164). -/
def askSlots (s : State) (who : SlotOf) (cls : SlotClass) (rows : List (Nat × Nat × Nat)) : State :=
  let rows := rows.eraseDups
  ((rows.map (fun r => (r.1, r.2.1))).eraseDups).foldl (fun s b =>
    askBank s b.1 b.2 ⟨who, cls, (rows.filter (fun r => decide ((r.1, r.2.1) = b))).length⟩) s

/-- Takes away the requests that a test names. -/
def dropSlots (s : State) (p : SlotOf → Bool) : State :=
  { s with cores := s.cores.map (fun (c : Nat × Core) => (c.1, { c.2 with banks := c.2.banks.filterMap (fun (b : Nat × BankQ) =>
      let q := { b.2 with reqs := b.2.reqs.filter (fun r => !p r.who) }
      if q = BankQ.idle then none else some (b.1, q)) })) }

/-- A requester that needs rows asks for them, waits while any is still to be served, and goes on once all have been: its access
takes 4 × (r − 1) cycles more than one without a conflict, r being the most rows it needs from one bank (R164). -/
def withSlots (s : State) (who : SlotOf) (cls : SlotClass) (rows : List (Nat × Nat × Nat)) (wait go : State → State) : State :=
  match slotReqs s who with
  | [] => if rows = [] then go s else wait (askSlots s who cls rows)
  | l => if l.all (fun r => r.rows == 0) then go (dropSlots s (fun w => decide (w = who))) else wait s

/-! Service -/

/-- The first request that a test names and that still needs rows gets one. -/
def serveFirst (p : SlotReq → Bool) : List SlotReq → Option (SlotReq × List SlotReq)
  | [] => none
  | r :: l =>
    if p r && decide (r.rows ≠ 0) then some (r, { r with rows := r.rows - 1 } :: l)
    else (serveFirst p l).map (fun z => (z.1, r :: z.2))

/-- Number of a class in the round of slot 3. -/
def SlotClass.turn : SlotClass → Nat
  | .copy => 0 | .arrival => 1 | .staging => 2 | _ => 3

/-- The request that slot 3 serves: handshake traffic, else the classes in turn (R245). -/
def serveThree (b : BankQ) : BankQ :=
  match serveFirst (fun r => decide (r.cls = .handshake)) b.reqs with
  | some (_, l) => { b with reqs := l.filter (fun r => !(decide (r.cls = .handshake) && r.rows == 0)) }
  | none =>
    match (List.range 3).findSome? (fun i =>
      let t := (b.turn + i) % 3
      (serveFirst (fun r => r.cls.turn == t) b.reqs).map (fun z => (t, z.2))) with
    | some (t, l) => { b with reqs := l, turn := (t + 1) % 3 }
    | none => b

/-- A bank in one slot of its frame: at most one row, for a requester to whom the slot belongs (R244, R245). One access takes one of slots 0 and 1 in a frame (R164). -/
def serveSlot (slot : Nat) (b : BankQ) : BankQ :=
  match slot with
  | 0 => match serveFirst (fun r => decide (r.cls = .lanes)) b.reqs with
    | some (r, l) => { b with reqs := l, first := some r.who }
    | none => { b with first := none }
  | 1 => match serveFirst (fun r => decide (r.cls = .lanes) && decide (some r.who ≠ b.first)) b.reqs with
    | some (_, l) => { b with reqs := l, first := none }
    | none => { b with first := none }
  | 3 => serveThree b
  | _ => b

/-- The banks of a core in the slot of the present cycle (R244). -/
def serveBanks (s : State) (c : Nat) : State :=
  s.modCore c (fun k => { k with banks := k.banks.filterMap (fun (b : Nat × BankQ) =>
    let q := serveSlot (s.now % 4) b.2
    if q = BankQ.idle then none else some (b.1, q)) })

/-! Relocation (R182, R256) -/

/-- Counts of rows by physical bank, one more for a bank. -/
def addRows (t : Tab Nat) (bank n : Nat) : Tab Nat := Tab.set 0 t bank (Tab.get 0 t bank + n)

/-- Two counts of rows together. -/
def sumRows (a b : Tab Nat) : Tab Nat := b.foldl (fun t e => addRows t e.1 e.2) a

/-- The largest number in a table of counts. -/
def largest (t : Tab Nat) : Nat := t.foldl (fun m e => max m e.2) 0

/-- Handshake traffic: rows that the core itself moves, bank by bank (R245). -/
def handshake (s : State) (core : Nat) (rows : Tab Nat) : State :=
  rows.foldl (fun s e => askBank s core e.1 ⟨.core, .handshake, e.2⟩) s

/-- Rows read and written in each physical bank when a team's live granules move from row b over one list of banks to row b' over another. -/
def granuleTraffic (t : Team) (b : Nat) (from_ : List Nat) (b' : Nat) (to_ : List Nat) (acc : Tab Nat) : Tab Nat :=
  let at_ (l : List Nat) (b g : Nat) : Nat × Nat := (l.getD (g % l.length) 0, b + g / l.length)
  (List.range (ceilDiv t.hiwater 64)).foldl (fun acc g =>
    let p := at_ from_ b g
    let q := at_ to_ b' g
    if p = q then acc else addRows (addRows acc p.1 1) q.1 1) acc

/-- Lays the scratchpads of a core out again over other banks (R256): the state, and the rows that each physical bank reads and writes. -/
def relayout (s : State) (c : Nat) (from_ to_ : List Nat) : State × Tab Nat :=
  let r := (teamsOf s c).foldl (fun (st : State × Nat × Tab Nat) e =>
    let t := e.2
    let h := rowsFor t.scrSize to_.length
    let acc := granuleTraffic t t.scrRow from_ st.2.1 to_ st.2.2
    let t' := { t.forget st.1.draws with scrRow := st.2.1, scrRows := h }
    ({ st.1.putTeam e.1 t' with draws := st.1.draws + t.scrSize + 1 }, st.2.1 + h, acc)) (s, 0, [])
  (r.1, r.2.2)

/-- Relocates the scratchpads of a core for a change from n to n' of the banks of SCR by MRSV or MREL; the relocation lasts 4 cycles for each row of the busiest bank (R182, R256). -/
def relocate (s : State) (c n n' : Nat) (mrsv : Bool) : State :=
  let scr := (s.core c).ci.scr
  let (s, rows) := relayout s c (scr.take n) (scr.take n')
  let q := largest rows
  if q = 0 then s
  else (handshake (s.modMx c (fun m => { m with reloc := some (mrsv, s.now + 4 * q) })) c rows).later (4 * q) (.event (.relocationComplete c))

end Sys2Proof.Machine
end

