-- ==== Sys2Proof/Machine/Matrix.lean ====
section
/-! DEFINITION. The matrix array: reservation, staging, the queue, multiply, store and joint multiply (10 R180 to R198). The meanings of majors 0x36 to 0x3A and of the array's events. -/

namespace Sys2Proof.Machine

/-! The array -/

/-- Slots of n staging banks (R185). -/
def slotCount (n : Nat) : Nat := 32 * n / 3

/-- A slot of the array; an unlisted one is empty. -/
def Matrix.slot? (m : Matrix) (k : Nat) : Option StageSlot := Tab.find? m.slots k

/-- The team of a group holds its core's array (R181). -/
def holds (s : State) (un : UnitSt) : Bool := decide ((s.core un.at_.core).mx.holder = some un.at_.team)

/-- Some matrix instruction that a group issued has not finished (R194). -/
def matrixBusy (s : State) (u : Nat) (un : UnitSt) : Bool :=
  let m := (s.core un.at_.core).mx
  m.queue.any (fun e => decide (e.unit = u)) || (match m.exec with | some r => decide (r.entry.unit = u) | none => false) ||
    m.pend.any (fun p => decide (p.2.unit = u))

/-- A relocation or a boundary move is in progress on a core. -/
def arrayBusy (k : Core) : Bool := k.ci.move.isSome || k.mx.reloc.isSome

/-- The array gives back its staging banks and is free; relocation follows (R183). -/
def releaseArray (s : State) (c : Nat) : State :=
  let k := s.core c
  let n := nScr k
  let s := s.modMx c (fun m => { Matrix.initial with nextPend := m.nextPend, reloc := m.reloc })
  let s := dropSlots s (fun w => match w with | .pend k _ => decide (k = c) | _ => false)
  relocate s c n (n + k.mx.n) false

/-- The array of a team that has gone is released once nothing executes on it and no relocation or move is in progress (R184). -/
def freeGone (s : State) (c : Nat) : State :=
  let k := s.core c
  match k.mx.holder with
  | some key => if (s.team? key).isNone && k.mx.exec.isNone && !arrayBusy k then releaseArray s c else s
  | none => s

/-- Issue of a matrix instruction: a group with discarded entries traps ENGINE_ERROR in its place (R198). -/
def mxIssue (i : Instr) (s : State) (body : Issue → State → State) : Out :=
  issue i s (fun x s =>
    match x.un.discarded with
    | a :: _ =>
      let s := s.modUnit x.u (fun un => { un with
        discarded := [], ops := un.ops.filter (fun (o : Nat × Op) => !(decide (o.2.stage = 3) && o.2.holders.contains x.e)) })
      takeTrap s x.u x.e { cause := causeEngineError, pc := x.sp.pc, addr := a }
    | [] => body x s)

/-! Reservation (R182, R183) -/

/-- Status code of MRSV for n banks (Table 10-2). -/
def mrsvCode (s : State) (un : UnitSt) (n : Nat) : Nat :=
  let k := s.core un.at_.core
  if k.mx.holder = some un.at_.team then 0
  else if k.mx.holder.isSome then 1
  else if arrayBusy k then 3
  else if nScr k < n ∨ scrFits s un.at_.core (nScr k - n) = false then 2
  else 0

/-- A team takes the array with n staging banks (R182). -/
def acquireArray (s : State) (un : UnitSt) (n : Nat) : State :=
  let c := un.at_.core
  let b := nScr (s.core c)
  let s := s.modMx c (fun m => { Matrix.initial with holder := some un.at_.team, n := n, nextPend := m.nextPend })
  relocate s c b (b - n) true

/-- R182. -/
def execMrsv (y : Mrsv) (s : State) : Out :=
  mxIssue (.mrsv y) s (fun x s =>
    let code := mrsvCode s x.un (2 * y.half.val)
    let s := if code = 0 && !holds s x.un then acquireArray s x.un (2 * y.half.val) else s
    let s := s.modUnit x.u (fun un => writeP un y.pd x.sp.mask (fun _ => decide (code = 0)))
    finish x (writeOp s x.u y.a x.lanes (fun _ => w32 code)))

/-- R183. -/
def execMrel (h : Hint) (s : State) : Out :=
  mxIssue (.mrel h) s (fun x s =>
    let k := s.core x.un.at_.core
    if !holds s x.un then finish x s
    else if k.mx.gang then trapHere s x.u x.e causeIllegalOp
    else if k.mx.queue ≠ [] ∨ k.mx.exec.isSome ∨ k.mx.pend ≠ [] then park s x.u x.e .arrayDrain 0
    else if arrayBusy k then park s x.u x.e .array 0
    else finish x (releaseArray s x.un.at_.core))

/-- R182: the new interleave is in effect, and what waited for it goes on. -/
def execRelocationComplete (core : Nat) (s : State) : Out :=
  .next (match (s.core core).mx.reloc with
    | some (_, t) => if t ≤ s.now then freeGone (s.modMx core (fun m => { m with reloc := none })) core else s
    | none => s)

/-! Staging (R185 to R189) -/

/-- Element size of a source format in bytes (R187). -/
def stageElement : StageFmt → Nat
  | .bf16 => 2 | .f32 => 4 | _ => 1

/-- Tag of a staged slot (Table 10-4). -/
def stageTag (b : Bool) (f : StageFmt) : STag :=
  match b, f with
  | false, .f32 => .aF32 | false, _ => .aBf16 | true, .f32 => .bF32 | true, _ => .bBf16

/-- The staging instructions: MLDB, and the fields. -/
def stageOf : Instr → Option (Bool × Stage)
  | .mlda y => some (false, y)
  | .mldb y => some (true, y)
  | _ => none

/-- Space of a staging source. -/
def stageSpace : StageSpace → Space
  | .scr => .scr | .rmt => .rmt | .til => .til

/-- An address has the form of a staging's space (Table 1-7): of a cluster-remote one the other bits are zero, and every address has that of the tile store. -/
def stageForm (y : Stage) (a : Nat) : Bool := decide (y.space ≠ .rmt) || (bits a 23 21 == 0 && bits a 31 28 == 0)

/-- The checks of line q of a staging: range, then alignment (R187). -/
def checkLine (s : State) (x : Issue) (y : Stage) (n : Nat) (a : DWord) : LaneChk :=
  match checkLane s x x.sp (stageSpace y.space) true false a n with
  | .bad c b r => .bad c b r
  | r => if a.toNat % stageElement y.fmt ≠ 0 then .bad causeMisaligned a false else r

/-- An entry still to read a slot before a staging numbered k may write it (R190). -/
def namesSlot (i : Instr) (k : Nat) : Bool :=
  match i with
  | .mma y | .mmaF32 y | .gangMma y => decide (y.a.val = k) || decide (y.b.val = k)
  | _ => false

/-- MLDA and MLDB (R187). The form of R29 is asked of the address base + off; a later line that leaves it is out of range DESIGN CHOICE. -/
def staging (b : Bool) (y : Stage) (s : State) : Out :=
  let i : Instr := if b then .mldb y else .mlda y
  mxIssue i s (fun x s =>
    let c := x.un.at_.core
    let k := s.core c
    let sh := stageShape b y.fmt y.ns
    let st := bits (x.word s x.low y.s).toNat 15 0
    let tag := bits (x.word s x.low y.s).toNat 31 16
    let line (q : Nat) : DWord := (x.word s x.low y.base + y.off.signExtend 32 + w32 (q * st)).setWidth 64
    if !holds s x.un ∨ slotCount k.mx.n ≤ y.slot.val ∨ st % stageElement y.fmt ≠ 0 ∨
        stageForm y (line 0).toNat = false ∨ (y.space = .til ∧ k.ci.tiles.all (fun t => decide (t.2.team ≠ x.un.at_.team)) = true) then
      trapHere s x.u x.e causeIllegalOp
    else
      let cs := (List.range sh.1).map (fun q => (q, checkLine s x y sh.2 (line q)))
      match checksWait cs with
      | some w => park s x.u x.e w 0
      | none =>
        match badLanes cs with
        | z :: _ => takeTrap s x.u x.e { cause := z.2.1, pc := x.sp.pc, addr := z.2.2.1 }
        | [] =>
          let o := { newOp x x.lanes s.now with holders := [x.e], place := okPlaces cs }
          let n := k.mx.nextPend
          let p : PendStage :=
            { unit := x.u, op := x.un.nextOp, slot := y.slot.val, instr := i, pc := x.sp.pc,
              addr := (line 0).toNat, stride := st, tag := if y.space = .rmt then tag else 0, window := none, bytes := none }
          let old := (k.mx.slot? y.slot.val).getD ⟨false, stageTag b y.fmt, [], 0⟩
          let new : StageSlot := { old with full := false, tag := stageTag b y.fmt }
          let s := (s.modUnit x.u (fun un => addOp un o)).modMx c (fun m =>
            { m with slots := Tab.put m.slots y.slot.val new, pend := Tab.put m.pend n p, nextPend := n + 1 })
          let s := if y.space = .rmt then countSent s x.un else s
          finish x (s.laterFree (.stagingComplete c n)))

/-- R187. -/
def execMlda (y : Stage) (s : State) : Out := staging false y s

/-- R187. -/
def execMldb (y : Stage) (s : State) : Out := staging true y s

/-- A little-endian number at a position of a list of bytes. -/
def leAt (bs : List Byte) (i n : Nat) : Nat := ofBytes ((bs.drop i).take n)

/-- Element c of a line of narrow elements. -/
def narrowAt (line : List Byte) (f : StageFmt) (c : Nat) : Nat :=
  match f with
  | .e2m1 => (leAt line (c / 2) 1) / 16 ^ (c % 2) % 16
  | _ => leAt line c 1

/-- Format of narrow source elements. -/
def narrowStage : StageFmt → FFmt
  | .e4m3 => fmtE4m3 | .e5m2 => fmtE5m2 | _ => fmtE2m1

/-- A narrow element of MLDB under its scale, as BF16 with its flags (R187). -/
def scaledBf16 (f : FFmt) (e sc : Nat) : FRes :=
  if sc = 255 then (fmtBf16.nan, 0) else
  match f.decode e with
  | .nan _ => (fmtBf16.nan, 0)
  | .num neg m k => fmtBf16.deliver .rne false (.num neg m (k + sc - 127))
  | v => fmtBf16.deliver .rne false v

/-- The staged elements of a line in order, each with its flags (R187). -/
def stageLine (b : Bool) (y : Stage) (line : List Byte) : List FRes :=
  match y.fmt with
  | .bf16 => (List.range (if b then 32 else 48)).map (fun c => (leAt line (2 * c) 2, 0))
  | .f32 => (List.range (if b then 32 else 24)).map (fun c => (leAt line (4 * c) 4, 0))
  | f =>
    if b then
      let sc := if y.ns then 127 else leAt line (line.length - 1) 1
      (List.range 32).map (fun c => scaledBf16 (narrowStage f) (narrowAt line f c) sc)
    else (List.range 48).map (fun c => (widenBf16 (narrowStage f) (narrowAt line f c), 0))

/-- The staged tile of the bytes read, by line × 64 + element, with its flags. -/
def stageTile (b : Bool) (y : Stage) (bs : List Byte) : Tab Nat × Nat :=
  let sh := stageShape b y.fmt y.ns
  (List.range sh.1).foldl (fun (acc : Tab Nat × Nat) q =>
    (stageLine b y ((bs.drop (q * sh.2)).take sh.2)).zipIdx.foldl (fun (acc : Tab Nat × Nat) e =>
      (Tab.set 0 acc.1 (q * 64 + e.2) e.1.1, acc.2 ||| e.1.2)) acc) ([], 0)

/-- Core whose banks hold the source of a staging. -/
def sourceCore (s : State) (o : Op) (own : Nat) : Nat :=
  match o.place with
  | (_, .scr t _) :: _ => teamCore s t
  | _ => own

/-- The bytes of the lines of a staging as they stand; a source team that has retired reads as zeros (R188). -/
def readLines (s : State) (o : Op) : List Byte :=
  o.place.flatMap (fun e => match e.2 with
    | .scr t _ => if (s.team? t).isNone then List.replicate (runBytes o) 0 else rdPlaces s e.2 (runBytes o)
    | _ => rdPlaces s e.2 (runBytes o))

/-- The source banks of a staging serve it: no relocation, move or unperformed access stands before it (R189, R257). -/
def sourceReady (s : State) (p : PendStage) (o : Op) (own : Nat) : Bool :=
  let k := s.core (sourceCore s o own)
  (match s.unit? p.unit with | some un => !mustWait un p.op o | none => true) &&
    (match stageOf p.instr with
     | some (_, y) => if y.space = .til then !roleMoving k .til else !scrBusy k
     | none => true)

/-- A request of a multicast staging at the source core's interface: it joins an open window or opens one (R188). -/
def joinWindow (s : State) (c n src : Nat) (p : PendStage) (o : Op) : State :=
  let team := match o.place with | (_, .scr t _) :: _ => t | _ => 0
  let same (w : Window) : Bool :=
    decide (w.team = team) && decide (w.addr = p.addr) && decide (w.stride = p.stride) && decide (w.tag = p.tag) &&
      decide (s.now < w.opened + 64) &&
      (match stageOf w.instr, stageOf p.instr with
       | some (b, y), some (b', y') => b == b' && y.fmt == y'.fmt && y.ns == y'.ns
       | _, _ => false)
  let s := s.modCore src (fun k => { k with recv := k.recv + 1 })
  let mark (s : State) (w : Nat) : State :=
    s.modMx c (fun m => { m with pend := Tab.modify m.pend n (fun p => { p with window := some (src, w) }) })
  match List.find? (fun (w : Nat × Window) => same w.2) (s.core src).windows with
  | some (w, _) =>
    mark (s.modCore src (fun k => { k with windows := Tab.modify k.windows w (fun x => { x with req := x.req ++ [(c, n)] }) })) w
  | none =>
    let w := (s.core src).nextWindow
    let x : Window := { team := team, addr := p.addr, instr := p.instr, stride := p.stride, tag := p.tag,
                        opened := s.now, req := [(c, n)] }
    let s := s.modCore src (fun k => { k with windows := Tab.put k.windows w x, nextWindow := w + 1 })
    (mark s w).later 64 (.event (.multicastWindowRead src w))

/-- Bytes delivered to a pending staging, which its slot write follows. -/
def deliverLines (s : State) (c n : Nat) (bs : List Byte) : State :=
  let s := s.modMx c (fun m => { m with pend := Tab.modify m.pend n (fun p => { p with bytes := some bs }) })
  s.later 1 (.event (.stagingComplete c n))

/-- The rows of its source that a staging reads (R195). -/
def sourceRows (s : State) (o : Op) (own : Nat) : List (Nat × Nat × Nat) :=
  o.place.flatMap (fun e => runRows s own e.2 (runBytes o))

/-- R188: the one read of a window, sent to every requester; its data count once for each receiving core (R27). -/
def execMulticastWindowRead (core w : Nat) (s : State) : Out :=
  .next (match Tab.find? (s.core core).windows w with
    | none => s
    | some x =>
      if s.now < x.opened + 64 then s else
      let reqs := x.req.filterMap (fun r =>
        match Tab.find? (s.core r.1).mx.pend r.2 with
        | some p => match s.unit? p.unit with
          | some un => (Tab.find? un.ops p.op).map (fun o => (r, p, o))
          | none => none
        | none => none)
      if reqs.any (fun r => !sourceReady s r.2.1 r.2.2 core) then s.later 1 (.event (.multicastWindowRead core w)) else
      match reqs with
      | [] => dropSlots (s.modCore core (fun k => { k with windows := Tab.del k.windows w })) (fun z => decide (z = .window core w))
      | r :: _ =>
        withSlots s (.window core w) .arrival (sourceRows s r.2.2 core) (fun s => s.later 1 (.event (.multicastWindowRead core w))) (fun s =>
        let s := s.modCore core (fun k => { k with windows := Tab.del k.windows w })
        let bs := readLines s r.2.2
        let s := (reqs.map (fun r => r.1.1)).eraseDups.foldl (fun s c =>
          (s.modCore core (fun k => { k with sent := k.sent + 1 })).modCore c (fun k => { k with recv := k.recv + 1 })) s
        reqs.foldl (fun s r => deliverLines s r.1.1 r.1.2 bs) s))

/-- The slot of a staging may be written: earlier stagings into it are done, and earlier entries that name it have read it (R190). -/
def slotFree (m : Matrix) (n : Nat) (p : PendStage) : Bool :=
  !m.pend.any (fun q => decide (q.1 < n) && decide (q.2.slot = p.slot)) &&
    !m.queue.any (fun e => decide (e.seq ≤ n) && namesSlot e.instr p.slot)

/-- The slot of a staging becomes full, and its flags go to the issuing group (R187, R194). -/
def writeSlot (s : State) (c n : Nat) (p : PendStage) (b : Bool) (y : Stage) (bs : List Byte) : State :=
  let (t, fl) := stageTile b y bs
  let s := s.modMx c (fun m =>
    let pend := Tab.del m.pend n
    let slots := Tab.modify m.slots p.slot (fun x =>
      { x with data := t, version := x.version + 1, full := !pend.any (fun q => decide (q.2.slot = p.slot)) })
    { m with pend := pend, slots := slots })
  let s := s.modUnit p.unit (fun un => { un with ctl := { un.ctl with mflags := un.ctl.mflags ||| w32 fl } })
  awaitSlices s p.unit p.op

/-- R185, R187, R195: a pending staging reaches its source, reads it, or writes its slot, in slot 3 of the banks. A read of the core's own scratchpad or tiles, which Table 13-2 names in no class, is served among the staging writes DESIGN CHOICE. -/
def execStagingComplete (core k : Nat) (s : State) : Out :=
  .next (
    let m := (s.core core).mx
    let again (s : State) : State := s.later 1 (.event (.stagingComplete core k))
    match Tab.find? m.pend k with
    | none => s
    | some p =>
      match s.unit? p.unit, stageOf p.instr with
      | some un, some (b, y) =>
        match Tab.find? un.ops p.op with
        | none => s.modMx core (fun m => { m with pend := Tab.del m.pend k })
        | some o =>
          match p.bytes, p.window with
          | some bs, _ =>
            if slotFree m k p then
              withSlots s (.pend core k) .staging (slotRows s core p.slot) again (fun s => writeSlot s core k p b y bs)
            else again s
          | none, some _ => s
          | none, none =>
            let src := sourceCore s o core
            if p.tag ≠ 0 then joinWindow s core k src p o
            else if !sourceReady s p o core then again s
            else
              withSlots s (.pend core k) (if y.space = .rmt then .arrival else .staging) (sourceRows s o core) again (fun s =>
              let s := if y.space = .rmt then
                  (s.modCore src (fun k => { k with recv := k.recv + 1, sent := k.sent + 1 })).modCore core
                    (fun k => { k with recv := k.recv + 1 })
                else s
              deliverLines s core k (readLines s o))
      | _, _ => s.modMx core (fun m => { m with pend := Tab.del m.pend k }))

/-! The queue (R190) -/

/-- An entry joins the queue: in issue order, entries of one cycle in ascending slot. -/
def enqueue (q : List MEntry) (e : MEntry) : List MEntry :=
  let before := q.filter (fun x => decide (x.cycle < e.cycle) || decide (x.slot ≤ e.slot))
  before ++ [e] ++ q.filter (fun x => !(decide (x.cycle < e.cycle) || decide (x.slot ≤ e.slot)))

/-- Enters an instruction in the array's queue, or parks its split while the queue holds four (R190). -/
def enter (x : Issue) (s : State) (stage op : Nat) : State :=
  let c := x.un.at_.core
  let m := (s.core c).mx
  if 4 ≤ m.queue.length then park s x.u x.e .arrayRoom stage
  else
    let e : MEntry := { unit := x.u, op := op, instr := x.instr, pc := x.sp.pc, seq := m.nextPend, cycle := s.now,
                        slot := x.un.at_.slot }
    let joint := match x.instr with | .gangMma _ => 1 | _ => 0
    finish x (s.modMx c (fun m => { m with queue := enqueue m.queue e, gangNo := m.gangNo + joint }))

/-- Slot k has the tag an entry requires, full or pending (R191). -/
def slotTagged (m : Matrix) (k : Nat) (t : STag) : Bool :=
  match m.slot? k with
  | some x => decide (x.tag = t)
  | none => false

/-- MMA, MMA.F32 and GANG.MMA at issue (R181, R191, R197). -/
def multiply (i : Instr) (y : Mma) (ta tb : STag) (gang : Bool) (s : State) : Out :=
  mxIssue i s (fun x s =>
    let m := (s.core x.un.at_.core).mx
    if !holds s x.un ∨ slotCount m.n ≤ y.a.val ∨ slotCount m.n ≤ y.b.val ∨ slotTagged m y.a.val ta = false ∨
        slotTagged m y.b.val tb = false ∨ (gang = true ∧ m.gang = false) then
      trapHere s x.u x.e causeIllegalOp
    else
      enter x s 0 0)

/-- R191. -/
def execMma (y : Mma) (s : State) : Out := multiply (.mma y) y .aBf16 .bBf16 false s

/-- R191. -/
def execMmaF32 (y : Mma) (s : State) : Out := multiply (.mmaF32 y) y .aF32 .bF32 false s

/-- R197. -/
def execGangMma (y : Mma) (s : State) : Out := multiply (.gangMma y) y .aBf16 .bBf16 true s

/-- R192. -/
def execMzero (y : Mzero) (s : State) : Out :=
  mxIssue (.mzero y) s (fun x s =>
    if holds s x.un then enter x s 0 0 else trapHere s x.u x.e causeIllegalOp)

/-- The checks of a row of MST: range, alignment, translation (R193). -/
def checkRow (s : State) (x : Issue) (y : Mst) (a : DWord) : LaneChk :=
  let z := storeElement y.fmt
  if y.glb then
    if !canonical a.toNat then .bad causePagePerm a false
    else if a.toNat % z ≠ 0 then .bad causeMisaligned a false
    else checkLane s x x.sp .glob false true a (32 * z)
  else
    match checkLane s x x.sp .scr false true a (32 * z) with
    | .bad c b r => .bad c b r
    | r => if a.toNat % z ≠ 0 then .bad causeMisaligned a false else r

/-- Goes on with an MST that has issued: its rows are checked, then it enters the queue (R193). -/
def resolveMst (x : Issue) (s : State) (y : Mst) : State :=
  match s.unit? x.u with
  | none => s
  | some un =>
    match pendingAccess un x.e with
    | none => s
    | some (k, o) =>
      let x := { x with un := un }
      let cs := (List.range 32).map (fun i => (i, checkRow s x y (o.at_ i)))
      if cs.any (fun c => c.2 == .halt) then haltAccess x s else
      match checksWait cs with
      | some w => holdAccess x s w
      | none =>
        match badLanes cs with
        | b :: _ => failAccess x s k o true b.2.1 b.2.2.1 b.2.2.2
        | [] =>
          if 4 ≤ (s.core un.at_.core).mx.queue.length then park s x.u x.e .arrayRoom 1
          else
            let s := clearPass x (fillTlbs x o (if y.glb then List.range 32 else []) s)
            enter x (putOp s x.u k { o with stage := 0, place := okPlaces cs }) 1 k

/-- R193. -/
def execMst (y : Mst) (s : State) : Out :=
  mxIssue (.mst y) s (fun x s =>
    if x.sp.stage ≠ 0 then
      if holds s x.un then resolveMst x s y
      else trapHere (s.modUnit x.u (fun un => { un with ops := un.ops.filter (fun (o : Nat × Op) =>
        !(decide (o.2.stage = 3) && o.2.holders.contains x.e)) })) x.u x.e causeIllegalOp
    else
      let st := (x.word s x.low y.s).toNat
      let row (i : Nat) : DWord :=
        if y.glb then x.dword s x.low y.base + y.off.signExtend 64 + dw (i * st)
        else (x.word s x.low y.base + y.off.signExtend 32 + w32 (i * st)).setWidth 64
      if y.glb && computePhase s x.un then stepLocal x s (row 0)
      else if !holds s x.un ∨ st % storeElement y.fmt ≠ 0 then trapHere s x.u x.e causeIllegalOp
      else
        let s := beginAccess x s x.lanes row (fun _ => []) []
        let s := s.modUnit x.u (fun un => match pendingAccess un x.e with
          | some (k, o) => { un with ops := Tab.put un.ops k { o with addr := (List.range 32).map (fun i => (i, row i)) } }
          | none => un)
        resolveMst x s y)

/-! Execution (R191 to R195) -/

/-- The operand slot of an entry is full for it: no staging issued before it is still to write the slot. -/
def operandFull (m : Matrix) (e : MEntry) (k : Nat) : Bool :=
  !m.pend.any (fun p => decide (p.1 < e.seq) && decide (p.2.slot = k))

/-- Slot number and version, as a latch names a tile (R195). -/
def tileName (m : Matrix) (k : Nat) : Option (Nat × Nat) := (m.slot? k).map (fun x => (k, x.version))

/-- The data of a slot. -/
def tileData (m : Matrix) (k : Nat) : Tab Nat := match m.slot? k with | some x => x.data | none => []

/-- Starts the head entry: operands are read, and the entry occupies the array for the larger of its compute and read times (R195). `wired` is the A tile that comes from the row's origin. -/
def startEntry (s : State) (c : Nat) (wired : Option (Tab Nat)) : State :=
  let m := (s.core c).mx
  match m.queue with
  | [] => s
  | e :: rest =>
    let mul (y : Mma) (compute : Nat) : State :=
      let ua := if wired.isSome then 0 else b2n (decide (m.latchA ≠ tileName m y.a.val))
      let ub := b2n (decide (m.latchB ≠ tileName m y.b.val))
      let fin := s.now + max compute (4 * ceilDiv (48 * (ua + ub)) m.n)
      let run : MRun := { entry := e, a := wired.getD (tileData m y.a.val), b := tileData m y.b.val, fin := fin }
      (s.modMx c (fun m => { m with
        queue := rest, exec := some run, latchB := tileName m y.b.val,
        latchA := if wired.isSome then m.latchA else tileName m y.a.val })).later (fin - s.now) (.event (.matrixEntryFinish c))
    let plain (t : Nat) : State :=
      (s.modMx c (fun m => { m with queue := rest, exec := some { entry := e, a := [], b := [], fin := s.now + t } })).later t
        (.event (.matrixEntryFinish c))
    match e.instr with
    | .mma y => mul y 12
    | .gangMma y => mul y 12
    | .mmaF32 y => mul y 24
    | .mst _ => plain 16
    | _ => plain 1

/-- The head entry of an array can start by itself. -/
def headReady (m : Matrix) : Bool :=
  m.exec.isNone &&
    (match m.queue with
     | e :: _ => match e.instr with
       | .gangMma _ => false
       | .mma y | .mmaF32 y => operandFull m e y.a.val && operandFull m e y.b.val
       | _ => true
     | [] => false)

/-- R190: the head entry starts. -/
def execMatrixEntryStart (core : Nat) (s : State) : Out :=
  .next (if headReady (s.core core).mx then startEntry s core none else s)

/-! Joint operations (R196, R197) -/

/-- Teams of the cluster row of a team, by x; the team alone when it belongs to no cluster (R196, R220). -/
def rowTeams (s : State) (key : Nat) : List (Option Nat) :=
  match s.team? key with
  | none => []
  | some t =>
    match s.cluster? t.cluster with
    | none => [some key]
    | some k => (List.range k.w).map (fun x => Tab.find? k.teams (t.pos / k.w * k.w + x))

/-- Cores of the teams of a row; none when a team of the row is gone. -/
def rowCores (s : State) (key : Nat) : Option (List Nat) :=
  (rowTeams s key).foldr (fun t acc =>
    match t, acc with
    | some k, some l => (s.team? k).map (fun x => x.core :: l)
    | _, _ => none) (some [])

/-- The head of an array is a joint entry whose operands are full; the origin alone reads A. -/
def jointReady (m : Matrix) (origin : Bool) : Bool :=
  m.exec.isNone &&
    (match m.queue with
     | e :: _ => match e.instr with
       | .gangMma y => (!origin || operandFull m e y.a.val) && operandFull m e y.b.val
       | _ => false
     | [] => false)

/-- The cores of the row whose origin is the given core, when a joint operation can start on all of them. -/
def jointRow (s : State) (origin : Nat) : Option (List Nat) :=
  match (s.core origin).mx.holder with
  | none => none
  | some key =>
    match rowCores s key with
    | some (c :: cs) =>
      if c = origin && jointReady (s.core c).mx true &&
          cs.all (fun c => jointReady (s.core c).mx false) then some (c :: cs) else none
    | _ => none

/-- R197: the joint operation starts on every core of the row. -/
def execJointOperationStart (core : Nat) (s : State) : Out :=
  .next (match jointRow s core with
    | some (c :: cs) =>
      let a := match (s.core c).mx.queue with
        | e :: _ => match e.instr with | .gangMma y => tileData (s.core c).mx y.a.val | _ => []
        | [] => []
      cs.foldl (fun s c' =>
        let s := s.modCore c (fun k => { k with sent := k.sent + 1 })
        startEntry (s.modCore c' (fun k => { k with recv := k.recv + 1 })) c' (some a)) (startEntry s c none)
    | _ => s)

/-- Every team of a row has executed GANG k times (R196). -/
def gangMet (s : State) (key k : Nat) : Bool :=
  (rowTeams s key).all (fun t => match t with
    | some key => (match s.team? key with | some t => decide (k ≤ t.gangCount) | none => false)
    | none => false)

/-- Sets the gang mode of a row (R196). -/
def setGang (s : State) (key : Nat) (on : Bool) : State :=
  (rowTeams s key).foldl (fun s t => match t with
    | some key =>
      match s.team? key with
      | some t => s.modMx t.core (fun m =>
          if m.holder = some key then { m with gang := on, gangNo := 0 } else m)
      | none => s
    | none => s) s

/-- R196: stage 1 is a split whose barrier has completed. -/
def execGang (y : Gang) (s : State) : Out :=
  mxIssue (.gang y) s (fun x s =>
    if x.sp.stage ≠ 0 then finish x s
    else if !holds s x.un then trapHere s x.u x.e causeIllegalOp
    else
      let key := x.un.at_.team
      let s := s.modTeam key (fun t => { t with gangCount := t.gangCount + 1 })
      let k := match s.team? key with | some t => t.gangCount | none => 0
      if gangMet s key k then finish x (setGang s key (!y.last)) else park s x.u x.e (.gang k) 1)

/-- Entries of a queue before the first joint entry, and the rest. -/
def cutQueue : List MEntry → List MEntry × List MEntry
  | [] => ([], [])
  | e :: q =>
    match e.instr with
    | .gangMma _ => ([], e :: q)
    | _ => let r := cutQueue q; (e :: r.1, r.2)

/-- A discarded entry: its group learns its address, and an MST leaves its operations (R198). -/
def discardEntry (s : State) (e : MEntry) : State :=
  let s := s.modUnit e.unit (fun un => { un with discarded := un.discarded ++ [e.pc] })
  match e.instr with
  | .mst _ => awaitSlices (s.modUnit e.unit (fun un =>
      { un with ops := Tab.modify un.ops e.op (fun o => { o with place := [] }) })) e.unit e.op
  | _ => s

/-- Splits of a team's groups that still wait at the gang barrier: unit, entry and address (R198). -/
def gangWaiters (s : State) (key : Nat) : List (Nat × Nat × DWord) :=
  s.units.flatMap (fun (u : Nat × UnitSt) =>
    if u.2.at_.team = key && !u.2.at_.strand then
      u.2.splits.filterMap (fun e => match e.2.st, e.2.wait with
        | .parked, some (.gang k) => if gangMet s key k then none else some (u.1, e.1, e.2.pc)
        | _, _ => none)
    else [])

/-- R198: a core of a ganged row releases its array at its team's retirement. -/
def gangBreak (s0 : State) (key : Nat) : State :=
  let others := ((rowTeams s0 key).filterMap id).filter (· ≠ key)
  others.foldl (fun s k =>
    match s.team? k with
    | none => s
    | some t =>
      let cut := cutQueue (s.core t.core).mx.queue
      let ws := gangWaiters s0 k
      let s := s.modMx t.core (fun m => { m with gang := false, queue := cut.1 })
      let s := (s.modTeam k (fun t => { t with gangCount := 0 }))
      ws.foldl (fun s w => takeTrap s w.1 w.2.1 { cause := causeEngineError, pc := w.2.2, addr := w.2.2 }) (cut.2.foldl discardEntry s)) s0

/-- R184: a retiring team gives up its array; its queued entries are discarded, and the entry that executes ends first. -/
def retireArray (s : State) (key core : Nat) : State :=
  let m := (s.core core).mx
  if m.holder ≠ some key then s else
  let s := if m.gang then gangBreak s key else s
  let s := s.modMx core (fun m => { m with queue := [] })
  if m.exec.isSome ∨ arrayBusy (s.core core) then s else releaseArray s core

/-- Value of an accumulator element. -/
def accAt (m : Matrix) (acc i j : Nat) : Word := Tab.get 0 m.acc (acc * 1024 + i * 32 + j)

/-- An accumulator after a multiply with W the window of R51 and K products, and the flags raised. -/
def multiplied (m : Matrix) (acc k w : Nat) (f : FFmt) (a b : Tab Nat) : Tab Word × Nat :=
  let row (t : Tab Nat) (l e : Nat) : FV := f.decode (Tab.get 0 t (l * 64 + e))
  (List.range 32).foldl (fun st i =>
    let ai := (List.range k).map (row a i)
    (List.range 32).foldl (fun (st : Tab Word × Nat) j =>
      let r := mmaSum w (fmtF32.decode (accAt m acc i j).toNat) (ai.zip ((List.range k).map (fun q => row b q j)))
      (Tab.set 0 st.1 (acc * 1024 + i * 32 + j) (w32 r.1), st.2 ||| r.2)) st) (m.acc, 0)

/-- The accumulator set to +0. -/
def clearedAcc (t : Tab Word) (acc : Nat) : Tab Word := t.filter (fun e => decide (e.1 / 1024 ≠ acc))

/-- An element as MST stores it, with its flags (R193). -/
def storedElement (f : StoreFmt) (sat : Bool) (w : Word) : FRes :=
  match f with
  | .f32 => (w.toNat, 0)
  | .bf16 => fmtBf16.convert .rne false (fmtF32.decode w.toNat)
  | .e4m3 => fmtE4m3.narrow sat (fmtF32.decode w.toNat)
  | .e5m2 => fmtE5m2.narrow sat (fmtF32.decode w.toNat)

/-- The bytes of the rows of an MST with their places, and the flags. -/
def mstBytes (m : Matrix) (y : Mst) (o : Op) : List (Place × Byte) × Nat :=
  o.place.foldl (fun (acc : List (Place × Byte) × Nat) e =>
    let els := (List.range 32).map (fun j => storedElement y.fmt y.sat (accAt m y.acc.val e.1 j))
    (acc.1 ++ placeRun e.2 (els.flatMap (fun r => bytesOf (storeElement y.fmt) r.1)),
      els.foldl (fun f r => f ||| r.2) acc.2)) ([], 0)

/-- Stores bytes as a group of a core does: through its CAC role, or into a scratchpad. -/
def storePlaces (s : State) (c : Nat) (ws : List (Place × Byte)) : State :=
  let glob := ws.filterMap (fun w => match w.1 with | .glob pa => some (pa, w.2) | _ => none)
  if glob = [] then wrPlaces s ws
  else ((glob.map (fun w => w.1 / 128)).eraseDups).foldl (fun s l =>
    (coreStore s c (glob.filter (fun w => w.1 / 128 = l)) false).1) s

/-- The event that an array waits for, if it can make progress: its head entry or a joint operation starts. -/
def arrayEvent (s : State) (c : Nat) : Option Event :=
  if headReady (s.core c).mx then some (.matrixEntryStart c)
  else if (jointRow s c).isSome then some (.jointOperationStart c) else none

/-- The next entry of an array, or the next joint operation of its row, starts in the cycle in which one finishes (R195). -/
def wakeArray (s : State) (c : Nat) : State :=
  let origin := match (s.core c).mx.holder with
    | some key => (match rowCores s key with | some (o :: _) => o | _ => c)
    | none => c
  [c, origin].eraseDups.foldl (fun s c =>
    if (s.core c).saving then s else
    match arrayEvent s c with
    | some e => if s.planned e then s else s.soon (.event e)
    | none => s) s

/-- The entry has finished: its flags go to the issuing group, the next one starts, and the array is released when its team is gone (R184, R194). -/
def endEntry (s : State) (c : Nat) (e : MEntry) (fl : Nat) : State :=
  let s := s.modMx c (fun m => { m with exec := none })
  let s := s.modUnit e.unit (fun un =>
    if some un.at_.team = (s.core c).mx.holder then { un with ctl := { un.ctl with mflags := un.ctl.mflags ||| w32 fl } } else un)
  wakeArray (freeGone s c) c

/-- R191 to R194: the executing entry finishes. -/
def execMatrixEntryFinish (core : Nat) (s : State) : Out :=
  .next (
    let m := (s.core core).mx
    match m.exec with
    | none => s
    | some r =>
      if s.now < r.fin then s else
      let mul (y : Mma) (k w : Nat) (f : FFmt) : State :=
        let z := multiplied m y.acc.val k w f r.a r.b
        endEntry (s.modMx core (fun m => { m with acc := z.1 })) core r.entry z.2
      match r.entry.instr with
      | .mma y => mul y 48 47 fmtBf16
      | .gangMma y => mul y 48 47 fmtBf16
      | .mmaF32 y => mul y 24 63 fmtF32
      | .mzero y => endEntry (s.modMx core (fun m => { m with acc := clearedAcc m.acc y.acc.val })) core r.entry 0
      | .mst y =>
        match s.unit? r.entry.unit with
        | none => endEntry s core r.entry 0
        | some un =>
          match Tab.find? un.ops r.entry.op with
          | none => endEntry s core r.entry 0
          | some o =>
            if mustWait un r.entry.op o || (!y.glb && scrBusy (s.core core)) then s.later 1 (.event (.matrixEntryFinish core))
            else
              let z := mstBytes m y o
              let s := storePlaces s core z.1
              let s := if y.clr then s.modMx core (fun m => { m with acc := clearedAcc m.acc y.acc.val }) else s
              endEntry (awaitSlices s r.entry.unit r.entry.op) core r.entry z.2
      | _ => endEntry s core r.entry 0)

end Sys2Proof.Machine
end

