-- ==== Sys2Proof/Machine/Flow.lean ====
section
/-! DEFINITION. Barriers, full/empty bits and port chains (11 R203 to R212; 19 R363, R367, R369). The meanings of BAR, BARC, GBAR, VOTEG, SETE, SETF and CHAIN and of the barrier and port events. -/

namespace Sys2Proof.Machine

/-! Arrivals (R203) -/

/-- The splits of a unit that wait on a kind of barrier: entry, word, lanes, address. -/
def waitingAt (un : UnitSt) (k : BarKind) : List (Nat × Word × Mask × Split) :=
  un.splits.filterMap (fun e => match e.2.wait with
    | some (.barrier k' w m) => if k = k' then some (e.1, w, m, e.2) else none
    | _ => none)

/-- Lanes of the splits that wait on a kind. -/
def waitingMask (un : UnitSt) (k : BarKind) : Mask := (waitingAt un k).foldl (fun m e => m ||| e.2.2.2.mask) 0

/-- The group has arrived at a kind (R203). -/
def hasArrived (t : Team) (k : BarKind) (u : Nat) : Bool := t.arrivals.any (fun a => decide (a.kind = k) && decide (a.unit = u))

/-- Every group of the team that has not retired has arrived at a kind (R204, R206). -/
def teamArrived (t : Team) (k : BarKind) : Bool := t.groups.all (hasArrived t k)

/-- The arrivals at a kind are over. -/
def Team.clearKind (t : Team) (k : BarKind) : Team := { t with arrivals := t.arrivals.filter (fun a => decide (a.kind ≠ k)) }

/-- The waiting splits of a unit take the effect of their barrier and are ready together, not to issue before a cycle; the unit's next selection chooses among them (R95, R203, R204, R384). -/
def releaseSplits (s : State) (u : Nat) (k : BarKind) (notBefore : Nat) (eff : State → Nat → Word → Mask → State) : State :=
  match s.unit? u with
  | none => s
  | some un =>
    let s := (waitingAt un k).foldl (fun s e =>
      let s := s.modUnit u (fun un => un.modSplit e.1 (fun x => { x with st := .ready, wait := none, stage := 0 }))
      retire (logSync (eff s u e.2.1 e.2.2.1) u e.2.2.2.low e.2.2.2.pc) u e.1) s
    s.modUnit u (fun un => { un with sched := { un.sched with notBefore := max un.sched.notBefore notBefore } })

/-- The groups of a team that wait on a kind go on. -/
def releaseTeam (s : State) (key : Nat) (k : BarKind) (notBefore : Nat) (eff : State → Nat → Word → Mask → State) : State :=
  match s.team? key with
  | none => s
  | some t => t.groups.foldl (fun s u => releaseSplits s u k notBefore eff) (s.modTeam key (fun t => t.clearKind k))

/-- Splits of a unit that wait on a kind trap at their own addresses. -/
def trapWaiting (s : State) (u : Nat) (k : BarKind) (cause : Nat) : State :=
  match s.unit? u with
  | none => s
  | some un => (waitingAt un k).foldl (fun s e =>
      takeTrap s u e.1 { cause := cause, pc := e.2.2.2.pc, addr := e.2.2.2.pc }) s

/-! BARC (R205, R206) -/

/-- The fields of a rectangle word: x0, y0, w, h. -/
def rectOf (w : Nat) : Nat × Nat × Nat × Nat := (bits w 3 0, bits w 7 4, bits w 11 8, bits w 15 12)

/-- A rectangle word with the zero word written out (R205). -/
def fullRect (k : Cluster) (w : Nat) : Nat := if w = 0 then k.w * 256 + k.h * 4096 else w

/-- A position lies in a rectangle of the cluster. -/
def inRect (k : Cluster) (rect p : Nat) : Bool :=
  let (x0, y0, w, h) := rectOf rect
  decide (x0 ≤ p % k.w) && decide (p % k.w < x0 + w) && decide (y0 ≤ p / k.w) && decide (p / k.w < y0 + h)

/-- R205's checks of a nonzero word. -/
def rectOk (k : Cluster) (w p : Nat) : Bool :=
  let (x0, y0, rw, rh) := rectOf w
  decide (w = 0) ||
    (decide (w < 65536) && decide (1 ≤ rw) && decide (1 ≤ rh) && decide (x0 + rw ≤ k.w) && decide (y0 + rh ≤ k.h) && inRect k w p)

/-- The team at a position of a cluster, if it has not retired. -/
def teamAtPos (s : State) (k : Cluster) (p : Nat) : Option (Nat × Team) :=
  match Tab.find? k.teams p with
  | some key => (s.team? key).map (fun t => (key, t))
  | none => none

/-- An idle sweep. -/
def Sweep.initial : Sweep := ⟨[], [], [], [], []⟩

/-- The sweep of a rectangle. -/
def sweepOf (k : Cluster) (rect : Nat) : Sweep := (Tab.find? k.sweeps rect).getD Sweep.initial

/-- Rewrites a sweep. -/
def modSweep (s : State) (cl rect : Nat) (f : Sweep → Sweep) : State :=
  s.modCluster cl (fun k => { k with sweeps := Tab.put k.sweeps rect (f (sweepOf k rect)) })

/-- Cycles of a sweep's hop from one position to another: 4 for each mesh step between their cores (R206, R318). -/
def hopCycles (s : State) (k : Cluster) (p q : Nat) : Nat := 4 * meshSteps (coreAtPos s k p) (coreAtPos s k q)

/-- The release reaches the core at a position: the waiting team goes on, and the release travels on (R206, step 4). -/
def releaseAt (s : State) (cl rect p : Nat) : State :=
  match s.cluster? cl with
  | none => s
  | some k =>
    let (x0, y0, w, h) := rectOf rect
    let x := p % k.w
    let y := p / k.w
    let drop (l : List Nat) : List Nat := l.filter (· ≠ p)
    let s := modSweep s cl rect (fun z => ⟨drop z.arrived, drop z.rowSent, drop z.rowIn, drop z.colSent, drop z.colIn⟩)
    let s := match teamAtPos s k p with
      | some (key, t) =>
        match t.barcAt with
        | some (c, r) =>
          if r.toNat = rect then
            let s := invalidateCac s t.core
            releaseTeam (s.modTeam key (fun t => { t with barcAt := none })) key .barc (max s.now (c + 2)) (fun s _ _ _ => s)
          else s
        | none => s
      | none => s
    let send (s : State) (x y : Nat) : State :=
      (s.modCore (coreAtPos s k p) (fun c => { c with sent := c.sent + 1 })).later (hopCycles s k p (x + k.w * y)) (.event (.barcSweepRelease cl rect x y))
    let s := if x + 1 < x0 + w then send s (x + 1) y else s
    if x = x0 ∧ y + 1 < y0 + h then send s x (y + 1) else s

/-- The sweep as it stands at a position: arrivals that may go on are sent, and at the corner the barrier completes (R206, steps 1 to 4). A team that has retired is not expected. -/
def sweepStep (s : State) (cl rect p : Nat) : State :=
  match s.cluster? cl with
  | none => s
  | some k =>
    let (x0, y0, w, h) := rectOf rect
    let x := p % k.w
    let y := p / k.w
    let z := sweepOf k rect
    let here := z.arrived.contains p || (teamAtPos s k p).isNone
    let row := here && (decide (x + 1 = x0 + w) || z.rowIn.contains p)
    let col := row && decide (x = x0) && (decide (y + 1 = y0 + h) || z.colIn.contains p)
    let sent (s : State) : State := s.modCore (coreAtPos s k p) (fun c => { c with sent := c.sent + 1 })
    if row && decide (x0 < x) then
      if z.rowSent.contains p then s
      else (sent (modSweep s cl rect (fun z => { z with rowSent := p :: z.rowSent }))).later (hopCycles s k p (p - 1))
        (.event (.barcSweepArrival cl rect (x - 1) y false))
    else if col && decide (y0 < y) then
      if z.colSent.contains p then s
      else (sent (modSweep s cl rect (fun z => { z with colSent := p :: z.colSent }))).later (hopCycles s k p (p - k.w))
        (.event (.barcSweepArrival cl rect x (y - 1) true))
    else if col then releaseAt s cl rect p
    else s

/-- Every position of a rectangle. -/
def rectPositions (k : Cluster) (rect : Nat) : List Nat := (List.range (k.w * k.h)).filter (inRect k rect)

/-- Positions of a rectangle whose team has retired take part by themselves while a team waits. -/
def stepGone (s : State) (cl rect : Nat) : State :=
  match s.cluster? cl with
  | none => s
  | some k =>
    if (sweepOf k rect).arrived = [] then s else
    (rectPositions k rect).foldl (fun s p => if (teamAtPos s k p).isNone then sweepStep s cl rect p else s) s

/-- The team waits at BARC naming a rectangle. -/
def barcRect (s : State) (k : Cluster) (p : Nat) : Option Nat :=
  match teamAtPos s k p with
  | some (_, t) => t.barcAt.map (fun z => z.2.toNat)
  | none => none

/-- Some core of a rectangle holds a team that waits on another rectangle (R206). -/
def clashes (s : State) (k : Cluster) (rect : Nat) : Bool :=
  (rectPositions k rect).any (fun p => match barcRect s k p with | some r => decide (r ≠ rect) | none => false)

/-- An arrival that a position has sent on in a sweep is withdrawn, with every arrival that went on because of it: the position is to arrive again before the barrier completes. -/
def unsend (cl rect : Nat) : Nat → Nat → State → State
  | 0, _, s => s
  | fuel + 1, p, s =>
    match s.cluster? cl with
    | none => s
    | some k =>
      let z := sweepOf k rect
      let cut (s : State) (q : Nat) (column : Bool) : State :=
        let e := Turn.event (.barcSweepArrival cl rect (q % k.w) (q / k.w) column)
        let s := if s.calendar.any (fun x => x.2 == e) || s.agenda.contains e then
            s.modCore (coreAtPos s k q) (fun c => { c with recv := c.recv + 1 }) else s
        { s with calendar := s.calendar.filter (fun x => x.2 != e), agenda := s.agenda.filter (· != e) }
      if z.rowSent.contains p then
        unsend cl rect fuel (p - 1) (cut (modSweep s cl rect (fun z =>
          { z with rowSent := z.rowSent.filter (· ≠ p), rowIn := z.rowIn.filter (· ≠ p - 1) })) (p - 1) false)
      else if z.colSent.contains p then
        unsend cl rect fuel (p - k.w) (cut (modSweep s cl rect (fun z =>
          { z with colSent := z.colSent.filter (· ≠ p), colIn := z.colIn.filter (· ≠ p - k.w) })) (p - k.w) true)
      else s

/-- The waiting team at a position traps ENGINE_ERROR, and its rectangle waits for it again (R206). -/
def barcTrap (s : State) (cl p : Nat) : State :=
  match s.cluster? cl with
  | none => s
  | some k =>
    match teamAtPos s k p with
    | none => s
    | some (key, t) =>
      let rect := match t.barcAt with | some z => z.2.toNat | none => 0
      let s := unsend cl rect 32 p (modSweep s cl rect (fun z => { z with arrived := z.arrived.filter (· ≠ p) }))
      let s := s.modTeam key (fun t => { t.clearKind .barc with barcAt := none })
      t.groups.foldl (fun s u => trapWaiting s u .barc causeEngineError) s

/-- A team has arrived at BARC: teams whose rectangles clash trap, and the sweep goes on (R206). -/
def barcArrive (s : State) (key : Nat) (t : Team) (rect : Nat) : State :=
  match s.cluster? t.cluster with
  | none => releaseTeam s key .barc (s.now + 2) (fun s _ _ _ => invalidateCac s t.core)
  | some k =>
    let s := s.modTeam key (fun t => { t with barcAt := some (s.now, w32 rect) })
    let s := modSweep s t.cluster rect (fun z => { z with arrived := t.pos :: z.arrived })
    let bad := (List.range (k.w * k.h)).filter (fun p => match barcRect s k p with
      | some r => clashes s k r && (decide (p = t.pos) || inRect k r t.pos)
      | none => false)
    let s := bad.foldl (fun s p => barcTrap s t.cluster p) s
    stepGone (sweepStep s t.cluster rect t.pos) t.cluster rect

/-! Grid barriers (R207, R363, R367, R369) -/

/-- The superstep control block of a die (R368). -/
def superBlock (s : State) (d : Nat) : Nat := s.tableBase + 0x100C000 + 0x1000 * d

/-- The teams of a grid. -/
def gridTeams (s : State) (task : Nat) : List (Nat × Team) := s.teams.filter (fun e => decide (e.2.task = task) && !e.2.sump)

/-- The imbalance record of a completed barrier, written to the block of the serving die (R369). -/
def imbalance (s : State) (t : Task) (kind count : Nat) (ts : List Team) : State :=
  let blk := superBlock s t.die
  let ring := rdNat s blk 8
  if ring = 0 then s else
  let at_ (x : Team) : Nat := x.gridAt.getD 0
  let late := ts.foldl (fun m x => max m (at_ x)) 0
  let early := ts.foldl (fun m x => min m (at_ x)) late
  let last := ((ts.filter (fun x => decide (at_ x = late))).foldl (fun (b : Option Team) x =>
    match b with
    | some y => if x.gteam < y.gteam then some x else b
    | none => some x) none)
  let idx := rdNat s (blk + 16) 4
  let bs := bytesOf 2 t.ctx ++ bytesOf 1 kind ++ bytesOf 1 0 ++ bytesOf 4 count ++ bytesOf 8 t.rec_.desc.toNat ++
    bytesOf 8 early ++ bytesOf 8 late ++ bytesOf 8 (ts.foldl (fun n x => n + at_ x) 0) ++
    bytesOf 4 (t.rec_.count * (t.rec_.clw * t.rec_.clh)) ++ bytesOf 2 (match last with | some x => x.core | none => 0) ++
    bytesOf 2 0 ++ bytesOf 4 (match last with | some x => x.gteam | none => 0) ++ bytesOf 12 0
  poke (pokeVirt s 0 (ring + 64 * (idx % 2 ^ rdNat s (blk + 8) 1)) bs) (run (blk + 16) (bytesOf 4 (idx + 1)))

/-- Barriers of a grid whose release has reached a core. -/
def phaseAt (t : Task) (core : Nat) : Nat := match Tab.find? t.phase core with | some p => p.1 | none => 0

/-- A team of a grid has arrived at a kind of the barrier that is to complete next: an arrival at the last one stands until its release has reached the team's core (R207, R208). -/
def gridArrived (t : Task) (x : Team) (k : BarKind) : Bool :=
  teamArrived x k && x.gridAt.isSome && decide (phaseAt t x.core = t.barriers)

/-- Every team of a grid has arrived at a kind: the barrier completes, its record is written, and its release goes to every core (R207, R369). -/
def gridCheck (s : State) (task : Nat) (k : BarKind) : State :=
  match s.task? task with
  | none => s
  | some t =>
    let ts := gridTeams s task
    if ts = [] ∨ ts.any (fun e => !gridArrived t e.2 k) = true then s else
    let votes := ts.flatMap (fun e => (e.2.arrivals.filter (fun a => decide (a.kind = k))).map (fun a => (a.rect, a.vote)))
    let all := match votes with | v :: _ => v.1.getLsbD 0 | [] => false
    let vote := decide (k = .voteg) && (if all then votes.all (·.2) else votes.any (·.2))
    let count := t.barriers + 1
    let s := s.modTask task (fun t => { t with barriers := count, lastVote := vote })
    let s := imbalance s t (if k = .gbar then 0 else if vote then 2 else 1) count (ts.map (·.2))
    let cores := (ts.map (fun e => e.2.core)).eraseDups
    let bound := if (cores.map coreDie).eraseDups.length ≤ 1 then 96 else 480
    cores.foldl (fun s c =>
      { s.later (1 + Config.latency s.draws % bound) (.event (.gridBarrierRelease task c)) with draws := s.draws + 1 }) s

/-- The effect of a completed grid barrier on a waiting split: GBAR writes the count, VOTEG the vote (R207). -/
def gridEffect (count : Nat) (vote : Bool) (k : BarKind) (s : State) (u : Nat) (w : Word) (m : Mask) : State :=
  match k with
  | .gbar => if bit w.toNat 8 then writeOp s u (.s (Fin.ofNat 64 (bits w.toNat 5 0))) 1 (fun _ => w32 count) else s
  | _ => s.modUnit u (fun un => writeP un (Fin.ofNat 16 (bits w.toNat 7 4)) m (fun _ => vote))

/-- R207: the release of a grid barrier reaches a core, which takes the new phase (R363, R367). -/
def execGridBarrierRelease (task core : Nat) (s : State) : Out :=
  .next (match s.task? task with
    | none => s
    | some t =>
      if t.barriers ≤ phaseAt t core then s else
      let s := s.modTask task (fun t => { t with phase := Tab.put t.phase core (t.barriers, s.now) })
      let s := invalidateCac s core
      ((gridTeams s task).filter (fun e => decide (e.2.core = core))).foldl (fun s e =>
        let s := s.modTeam e.1 (fun x => { x with
          gridAt := none, latch := if t.lastVote && t.barriers % 2 == 1 then none else x.latch })
        let s := releaseTeam s e.1 .gbar s.now (gridEffect t.barriers t.lastVote .gbar)
        releaseTeam s e.1 .voteg s.now (gridEffect t.barriers t.lastVote .voteg)) s)

/-! Arrival of groups and teams -/

/-- The first arrival of a team at BARC. -/
def firstBarc (t : Team) : Option Arrival := t.arrivals.find? (fun a => decide (a.kind = BarKind.barc))

/-- What follows the arrival of a group at a kind, or the retirement of one: the team may have arrived (R204, R206, R207). -/
def teamCheck (s : State) (key : Nat) (k : BarKind) : State :=
  match s.team? key with
  | none => s
  | some t =>
    if t.groups = [] ∨ teamArrived t k = false then s else
    match k with
    | .bar => releaseTeam s key .bar (s.now + 2) (fun s _ _ _ => s)
    | .barc =>
      if t.barcAt.isSome then s else
      barcArrive s key t (match firstBarc t with | some a => a.rect.toNat | none => 0)
    | k =>
      if t.gridAt.isSome then s
      else gridCheck (s.modTeam key (fun t => { t with gridAt := some s.now })) t.task k

/-- A group arrives at a kind when its waiting splits hold all its live lanes (R203) and its earlier memory instructions are complete, the fence before the arrival: an exit that completes the arrival does not itself wait for them (R204, R206, R207). One that names another rectangle than the team's first traps (R206). -/
def groupArrive (s : State) (u : Nat) (k : BarKind) : State :=
  match s.unit? u with
  | none => s
  | some un =>
    match s.team? un.at_.team with
    | none => s
    | some t =>
      if un.liveLanes = 0 ∨ hasArrived t k u ∨ waitingMask un k ≠ un.liveLanes then s else
      if outstanding un ≠ [] then (if k = .bar then s else releaseCac s un) else
      let ws := waitingAt un k
      let rect := match ws with | e :: _ => e.2.1 | [] => 0
      let vote := if rect.getLsbD 0 then ws.all (fun e => e.2.1.getLsbD 1) else ws.any (fun e => e.2.1.getLsbD 1)
      let first := firstBarc t
      if k = .barc ∧ (ws.any (fun e => decide (e.2.1 ≠ (match first with | some a => a.rect | none => rect)))) = true then
        trapWaiting s u k causeIllegalOp
      else
        let a : Arrival :=
          { kind := k, unit := u, rect := rect, pc := (match ws with | e :: _ => e.2.2.2.pc | [] => 0), vote := vote, cycle := s.now }
        teamCheck (s.modTeam un.at_.team (fun t => { t with arrivals := t.arrivals ++ [a] })) un.at_.team k

/-- Arrivals that an exit, or the end of the memory instructions before it, may have completed (R99, R203). -/
def recheckGroup (s : State) (u : Nat) : State :=
  [BarKind.bar, .barc, .gbar, .voteg].foldl (fun s k => groupArrive s u k) s

/-- A split waits at a barrier, and its group may have arrived. -/
def waitBarrier (x : Issue) (s : State) (k : BarKind) (w : Word) : State :=
  groupArrive (park s x.u x.e (.barrier k w x.lanes) 1) x.u k

/-! Meanings -/

/-- R204. -/
def execBar (y : Bare) (s : State) : Out := issue (.bar y) s (fun x s => waitBarrier x s .bar 0)

/-- R205, R206. -/
def execBarc (y : SrcA) (s : State) : Out :=
  issue (.barc y) s (fun x s =>
    let w := (x.word s x.low y.a).toNat
    let t? := s.team? x.un.at_.team
    let k? := match t? with | some t => s.cluster? t.cluster | none => none
    let rect := match k? with | some k => fullRect k w | none => 0
    let ok := match t?, k? with
      | some t, some k => rectOk k w t.pos
      | _, _ => decide (w = 0 ∨ w = 0x1100)
    let first := match t? with
      | some t => firstBarc t
      | none => none
    let other := (waitingAt x.un .barc).any (fun e => decide (e.2.1.toNat ≠ rect))
    if !ok ∨ other = true ∨ (match first with | some a => decide (a.rect.toNat ≠ rect) | none => false) = true then
      trapHere s x.u x.e causeIllegalOp
    else waitBarrier x (popAll (releaseCac s x.un) x.u x.instr) .barc (w32 rect))

/-- R207. -/
def execGbar (y : DstD) (s : State) : Out :=
  issue (.gbar y) s (fun x s =>
    if (superCount s x.un).isNone then trapHere s x.u x.e causeIllegalOp
    else waitBarrier x (releaseCac s x.un) .gbar (match y.d with | .s n => w32 (256 + n.val) | _ => 0))

/-- R207. -/
def execVoteg (y : Vote) (s : State) : Out :=
  issue (.voteg y) s (fun x s =>
    if (superCount s x.un).isNone then trapHere s x.u x.e causeIllegalOp
    else
      let on := predMask x.un y.pa &&& x.lanes
      let t := if y.inv then decide (on = x.lanes) else decide (on ≠ 0)
      waitBarrier x (releaseCac s x.un) .voteg (w32 (b2n y.inv + 2 * b2n t + 16 * y.pd.val)))

/-- R206: an arrival message of the sweep reaches a core. -/
def execBarcSweepArrival (cl rect x y : Nat) (column : Bool) (s : State) : Out :=
  .next (match s.cluster? cl with
    | none => s
    | some k =>
      let p := y * k.w + x
      let s := s.modCore (coreAtPos s k p) (fun c => { c with recv := c.recv + 1 })
      let s := modSweep s cl rect (fun z => if column then { z with colIn := p :: z.colIn } else { z with rowIn := p :: z.rowIn })
      sweepStep s cl rect p)

/-- R206: a release message reaches a core. -/
def execBarcSweepRelease (cl rect x y : Nat) (s : State) : Out :=
  .next (match s.cluster? cl with
    | none => s
    | some k =>
      let p := y * k.w + x
      let s := s.modCore (coreAtPos s k p) (fun c => { c with recv := c.recv + 1 })
      stepGone (releaseAt s cl rect p) cl rect)

/-! SETE and SETF (R209, Table 1-4) -/

/-- A span of registers is treated from the k-th on; the split parks at one with a producer pending and goes on from there. -/
def treatSpan (x : Issue) (d : Operand) (n : Nat) (f : UnitSt → Operand → UnitSt) : Nat → State → State
  | 0, s => finish x s
  | m + 1, s =>
    match s.unit? x.u with
    | none => s
    | some un =>
      let o := Operand.next d (n - (m + 1))
      if feOf un o = .pending then park s x.u x.e (.settled [o]) (n - m)
      else treatSpan x d n f m (s.putUnit x.u (f un o))

/-- Fills held at the interface of a unit's core, first to last (R25). -/
def heldFills (s : State) (un : UnitSt) : List HeldFill :=
  if un.at_.strand then (s.score un.at_.core).fills else (s.core un.at_.core).fills

/-- Sets the fills held there. -/
def setFills (s : State) (un : UnitSt) (l : List HeldFill) : State :=
  if un.at_.strand then s.modScore un.at_.core (fun k => { k with fills := l }) else s.modCore un.at_.core (fun k => { k with fills := l })

/-- A fill is delivered: it writes every launched lane, from its one value or lane by lane, and the interface takes the message (R24, R27). -/
def deliverFill (s : State) (u : Nat) (un : UnitSt) (m : HeldFill) : State :=
  countRecv (writeOp s u m.r un.liveLanes (fun l => m.vals.getD (if m.vals.length = 1 then 0 else l) 0)) un

/-- A fill at the interface of a register is delivered when the register is empty with no producer, and is held otherwise (R24). -/
def offerFill (s : State) (un0 : UnitSt) (m : HeldFill) : State :=
  match s.unit? m.u with
  | none => s
  | some un => if feOf un m.r = .empty then deliverFill s m.u un m else setFills s un0 (heldFills s un0 ++ [m])

/-- The fills held at a unit's core are offered again, first to last, now that a register is empty (R25). -/
def offerFills (s : State) (un : UnitSt) : State := (heldFills s un).foldl (fun s m => offerFill s un m) (setFills s un [])

/-- R209: stage j of a split that waits names its j-th register. -/
def execSete (y : SetFE) (s : State) : Out :=
  issue (.sete y) s (fun x s =>
    let n := y.k.val + 1
    let s := treatSpan x y.d n (fun un o => setFe un o .empty) (n - (x.sp.stage - 1)) s
    offerFills s x.un)

/-- R209. -/
def execSetf (y : SetFE) (s : State) : Out :=
  issue (.setf y) s (fun x s =>
    let n := y.k.val + 1
    treatSpan x y.d n (fun un o => if feOf un o = .empty then setFe un o .full else un) (n - (x.sp.stage - 1)) s)

/-! Remote fills (R25) -/

/-- R24, R25: a fill reaches the interface of a register; it is delivered when the register is empty with no producer, else held, behind earlier fills of the register. -/
def execRemoteFill (u : Nat) (r : Operand) (vals : List Word) (s : State) : Out :=
  .next (match s.unit? u with
    | none => s
    | some un =>
      if (heldFills s un).any (fun m => decide (m.u = u) && decide (m.r = r)) then setFills s un (heldFills s un ++ [⟨u, r, vals⟩])
      else offerFill s un ⟨u, r, vals⟩)

/-! Ports (R210, R211) -/

/-- Port r of a unit. -/
def portAt (s : State) (u r : Nat) : Port := match s.unit? u with | some un => portOf un r | none => ⟨none, none, false, none⟩

/-- Sets a port of a unit. -/
def setPort (s : State) (u r : Nat) (p : Port) : State :=
  s.modUnit u (fun un => { un with regs := { un.regs with q := Tab.set ⟨none, none, false, none⟩ un.regs.q r p } })

/-- Ends the binding of send port r of a unit: the former downstream keeps a word that has left until it is read (R210, step 1). -/
def unbindSend (s : State) (u r : Nat) : State :=
  let p := portAt s u r
  match p.peer with
  | none => s
  | some (v, q) =>
    let d := portAt s v q
    let s := setPort s u r ⟨none, none, false, none⟩
    if d.word.isSome ∨ p.sent.isSome then setPort s v q { d with closing := true }
    else setPort s v q ⟨none, none, false, none⟩

/-- Binds send port 2k + 1 of a unit to receive port 2k of another (R210). -/
def bindPorts (s : State) (u v k : Nat) : State :=
  let s := setPort s u (2 * k + 1) ⟨some (v, 2 * k), none, false, none⟩
  setPort s v (2 * k) { portAt s v (2 * k) with peer := some (u, 2 * k + 1), closing := false }

/-- The unit an endpoint word names on a die (Table 11-3): none for a malformed word, and the kind. -/
def endpoint (die w : Nat) : Option (Nat × Bool) :=
  match bits w 31 30 with
  | 1 => if bits w 29 11 = 0 ∧ bits w 8 0 ≤ 383 then some (strandUid ((die * 384 + bits w 8 0) * 4 + bits w 10 9), true) else none
  | 2 => if bits w 29 14 = 0 then some (groupUid (die * 128 + bits w 6 0) (bits w 13 7), false) else none
  | _ => none

/-- Status of CHAIN for an endpoint other than unbind, and the unit to bind (Table 11-4). -/
def chainTarget (s : State) (un : UnitSt) (k w : Nat) : Nat × Option Nat :=
  match endpoint un.die w with
  | none => (2, none)
  | some (v, strand) =>
    match s.unit? v with
    | none => (2, none)
    | some x =>
      if x.at_.ctx ≠ un.at_.ctx ∨ (4 ≤ k ∧ (x.cell ≠ un.cell ∨ strand = un.at_.strand)) then (2, none)
      else match (portOf x (2 * k)).peer with
        | none => (0, some v)
        | some z => if z = (deadPeer, 0) ∧ (portOf x (2 * k)).closing = false then (0, some v) else (1, none)

/-- R210. -/
def execChain (y : Un (Fin 8)) (s : State) : Out :=
  issue (.chain y) s (fun x s =>
    let k := y.m.val
    let w := (x.word s x.low y.a).toNat
    if bits w 31 30 = 2 ∧ 12 ≤ bits w 3 0 then trapHere s x.u x.e causeIllegalOp
    else
      let s := unbindSend s x.u (2 * k + 1)
      let r := if bits w 31 30 = 0 then (if w = 0 then 0 else 2, none)
        else chainTarget s x.un k w
      let s := match r.2 with | some v => bindPorts s x.u v k | none => s
      finish x (writeOp s x.u y.d x.lanes (fun _ => w32 r.1)))

/-- R210: a word reaches its receive register, once a word that is being popped has left it; the message counts as received, also when the port is no longer bound and drops it, or when its unit has retired (R27). -/
def execPortWordArrival (u pair : Nat) (w : Word) (s : State) : Out :=
  .next (match s.unit? u with
    | none =>
      if goneScore ≤ u then s.modScore (u - goneScore) (fun c => { c with recv := c.recv + 1 })
      else if goneCore ≤ u then s.modCore (u - goneCore) (fun c => { c with recv := c.recv + 1 })
      else s
    | some un =>
      let p := portOf un (2 * pair)
      match p.peer with
      | none => countRecv s un
      | some (v, r) =>
        if p.word.isSome then s.later 1 (.event (.portWordArrival u pair w)) else
        let s := setPort s u (2 * pair) { p with word := some w, closing := p.closing && p.peer != some (deadPeer, 0) }
        let q := portAt s v r
        let s := if q.peer = some (u, 2 * pair) then setPort s v r { q with sent := none } else s
        let s := countRecv s un
        if pair = 0 then wakeSleepers s u else s)

/-- Splits of a unit that wait on a port trap ENGINE_ERROR at their instruction (R211). -/
def trapPort (s : State) (u : Nat) (w : Wait) : State :=
  match s.unit? u with
  | none => s
  | some un => un.splits.foldl (fun s e =>
      if e.2.wait = some w then takeTrap s u e.1 { cause := causeEngineError, pc := e.2.pc, addr := e.2.pc } else s) s

/-- The bindings of a unit that retires end (R211). -/
def retirePorts (s : State) (u : Nat) : State :=
  (List.range 8).foldl (fun s k =>
    let up := portAt s u (2 * k)
    let s := match up.peer with
      | some (v, r) =>
        if v = u ∨ (portAt s v r).peer ≠ some (u, 2 * k) then s
        else trapPort (setPort s v r ⟨none, none, false, none⟩) v (.portRoom r)
      | none => s
    let p := portAt s u (2 * k + 1)
    match p.peer with
    | some (v, q) =>
      if v = u then s else
      let d := portAt s v q
      let s := setPort s v q { d with closing := p.sent.isSome, peer := some (deadPeer, 0) }
      if p.sent.isSome ∨ d.word.isSome then s else trapPort s v (.portWord q)
    | none => s) s

end Sys2Proof.Machine
end

