-- ==== Sys2Proof/Machine/Place.lean ====
section
/-! DEFINITION. Task records, descriptors, and the placement of teams and strands (01 R12 to R14; 02 R45; 04 R85; 11 R212, R214; 13 R253; 15 R289 to R293). -/

namespace Sys2Proof.Machine

/-! Task records (Table 11-6) -/

/-- A cluster shape is legal: both 0 for a strand grid, else at most 12 cores of the mesh. -/
def shapeOk (w h : Nat) : Bool :=
  (w == 0 && h == 0) || (decide (1 ≤ w ∧ w ≤ 12) && decide (1 ≤ h ∧ h ≤ 8) && decide (w * h ≤ 12))

/-- A record of 64 bytes as Table 11-6 reads it, marked bad when a field breaks the table. -/
def parseTask (bs : List Byte) : TaskRec :=
  let f (o n : Nat) : Nat := leAt bs o n
  let ok := f 0 8 % 64 == 0 && decide (f 8 2 < 4) && shapeOk (f 16 1) (f 17 1) && f 18 2 == 0 &&
    decide (1 ≤ f 20 4 ∧ f 20 4 ≤ 2 ^ 24) && f 24 8 % 4 == 0 && f 32 32 == 0
  { desc := dw (f 0 8), flags := f 8 2, tag := f 10 2, dep0 := f 12 2, dep1 := f 14 2, clw := f 16 1, clh := f 17 1,
    count := f 20 4, args := dw (f 24 8), bad := !ok }

/-- The 64 bytes of a record. -/
def taskBytes (r : TaskRec) : List Byte :=
  bytesOf 8 r.desc.toNat ++ bytesOf 2 r.flags ++ bytesOf 2 r.tag ++ bytesOf 2 r.dep0 ++ bytesOf 2 r.dep1 ++ bytesOf 1 r.clw ++
    bytesOf 1 r.clh ++ bytesOf 2 0 ++ bytesOf 4 r.count ++ bytesOf 8 r.args.toNat ++ bytesOf 32 0

/-- The record is of a strand grid. -/
def TaskRec.strands (r : TaskRec) : Bool := r.clw == 0

/-- Superstep mode (Table 11-6). -/
def TaskRec.superstep (r : TaskRec) : Bool := bit r.flags 0

/-! Descriptors (Table 4-2) -/

/-- The fields of a descriptor line. -/
structure Desc where
  header : Nat
  version : Nat
  flags : Nat
  seed : Nat
  regblk : Nat
  groups : Nat
  args : Nat
  nmig : Nat
  scrmin : Nat
  scrpref : Nat
  tilmin : Nat
  tilpref : Nat
  cacmin : Nat
  cacpref : Nat
  reserved : Nat
  /-- disp, head, n, b of the four Sump records. -/
  sump : List (Int × Nat × Nat × Nat)
  deriving DecidableEq, Repr

/-- Reads a descriptor line. -/
def parseDesc (bs : List Byte) : Desc :=
  let f (o n : Nat) : Nat := leAt bs o n
  { header := f 0 2, version := f 2 2, flags := f 4 4, seed := f 8 4, regblk := f 12 1, groups := f 13 1, args := f 14 1,
    nmig := f 15 1, scrmin := f 16 2, scrpref := f 18 2, tilmin := f 20 1, tilpref := f 21 1, cacmin := f 22 1,
    cacpref := f 23 1, reserved := f 24 8,
    sump := (List.range 4).map (fun j => (sextNat 32 (f (32 + 8 * j) 4), f (36 + 8 * j) 1, f (37 + 8 * j) 1, f (38 + 8 * j) 2)) }

/-- The descriptor is of a strand program. -/
def Desc.strand (d : Desc) : Bool := bit d.flags 0

/-- A Sump record j keeps Table 15-3's ranges. -/
def sumpOk (d : Desc) (j : Nat) (r : Int × Nat × Nat × Nat) : Bool :=
  if j < d.nmig then
    decide (1 ≤ r.2.1 ∧ r.2.1 ≤ 31) && decide (1 ≤ r.2.2.1 ∧ r.2.2.1 ≤ 64) && decide (r.2.2.2 + r.2.2.1 ≤ 8 * d.regblk)
  else decide (r = (0, 0, 0, 0))

/-- BAD_DESC of Table 15-3, but for the read itself. -/
def descOk (d : Desc) (strands : Bool) : Bool :=
  d.header == 0x801F && d.version == 1 && decide (d.flags < 4) && d.strand == strands && d.reserved == 0 &&
  decide (d.args ≤ 32) && decide (d.nmig ≤ 4) && decide (d.scrmin ≤ d.scrpref) && decide (d.tilmin ≤ d.tilpref) &&
  decide (d.cacmin ≤ d.cacpref) && decide (d.scrpref ≤ 1216) && decide (d.tilpref ≤ 38) &&
  d.sump.zipIdx.all (fun r => sumpOk d r.2 r.1) &&
  (if strands then d.regblk == 0 && d.groups == 0 && d.nmig == 0 && d.scrpref == 0 && d.tilpref == 0 && d.cacpref == 0
   else decide (1 ≤ d.regblk ∧ d.regblk ≤ 128) && decide (1 ≤ d.groups ∧ d.groups ≤ 32) &&
     decide (2 ≤ d.cacmin) && decide (d.cacpref ≤ 40))

/-- Banks a kernel needs at least (R81): REG in whole banks of 32 KiB and at least 8, the scratchpad, TIL and CAC. -/
def minBanks (d : Desc) : Nat :=
  max 8 (ceilDiv (d.groups * d.regblk) 32) + ceilDiv d.scrmin 32 + d.tilmin + d.cacmin

/-- Cores of a die that self-test has not fenced. -/
def liveCores (s : State) (d : Nat) : Nat := 96 - ((s.die d).fenced.filter (· < 96)).length

/-- TOO_LARGE of Table 15-3, for a task that may use the given dies. -/
def tooLarge (s : State) (r : TaskRec) (d : Desc) (dies : List Nat) : Bool :=
  !r.strands &&
    (decide (1024 < d.groups * d.regblk) || decide (48 < minBanks d) ||
      (r.superstep && decide (dies.foldl (fun n e => n + liveCores s e) 0 < r.count * (r.clw * r.clh))))

/-! Admission (R253) -/

/-- The lowest free slot of a list of numbers in use. -/
def freeSlots (n : Nat) (used : Nat → Bool) : List Nat := (List.range n).filter (fun i => !used i)

/-- Free group slots of a core, lowest first. -/
def freeGroupSlots (s : State) (c : Nat) : List Nat := freeSlots 128 (fun i => (s.unit? (groupUid c i)).isSome)

/-- Free team slots of a core, lowest first. -/
def freeTeamSlots (s : State) (c : Nat) : List Nat :=
  let used := (teamsOf s c).map (fun e => e.2.slot)
  freeSlots 16 (fun i => used.contains i)

/-- A row of SCR that a team holds. -/
def rowUsed (ts : List (Nat × Team)) (r : Nat) : Bool :=
  ts.any (fun e => decide (e.2.scrRow ≤ r) && decide (r < e.2.scrRow + e.2.scrRows))

/-- The free runs of SCR rows of a core in ascending order: first row and length (R253). -/
def freeRuns (s : State) (c : Nat) : List (Nat × Nat) :=
  let ts := teamsOf s c
  (List.range 512).foldl (fun (l : List (Nat × Nat)) r =>
    if rowUsed ts r then l
    else match l.reverse with
      | (b, n) :: t => if b + n = r then ((b, n + 1) :: t).reverse else l ++ [(r, 1)]
      | [] => [(r, 1)]) []

/-- KiB that a run of rows over n banks holds. -/
def runKib (n rows : Nat) : Nat := rows * n / 16

/-- First row and size in bytes of the scratchpad that a core gives a team; none when no run holds the minimum (R253). -/
def scratchFor (s : State) (c : Nat) (d : Desc) : Option (Nat × Nat) :=
  let n := nScr (s.core c)
  let runs := if n = 0 then [] else freeRuns s c
  match runs.find? (fun r => decide (d.scrmin ≤ runKib n r.2)) with
  | some r => some (if min d.scrpref (runKib n r.2) = 0 then 0 else r.1, 1024 * min d.scrpref (runKib n r.2))
  | none => if d.scrmin = 0 then some (0, 0) else none

/-- What a core gives a team it admits: its team slot, group slots, Cistern with the groups mapped, scratchpad. -/
structure Room where
  slot : Nat
  groups : List Nat
  ci : Cistern
  scrRow : Nat
  scrSize : Nat
  deriving DecidableEq, Repr

/-- A core takes no new team at present: it is fenced, being saved or frozen, or its die is not running (R248, R313, R321, R394). -/
def coreClosed (s : State) (c : Nat) : Bool :=
  let k := s.core c
  let d := s.die (coreDie c)
  k.saving || k.returning || d.fenced.contains (coreIndex c) || d.frozen || decide (d.bring ≠ .ready) ||
    decide (d.power.st ≠ .s0)

/-- R253: the core admits a team of g groups. -/
def roomOn (s : State) (c : Nat) (d : Desc) (g : Nat) : Option Room :=
  let k := s.core c
  let groups := (freeGroupSlots s c).take g
  if coreClosed s c || arrayBusy k || decide (groups.length < g) || decide (k.ci.til.length < d.tilmin) ||
      decide (k.ci.cac.length < d.cacmin) then none
  else match freeTeamSlots s c, mapGroups k.ci d.regblk (groups.map (groupUid c)), scratchFor s c d with
    | slot :: _, some ci, some (row, size) => some ⟨slot, groups, ci, row, size⟩
    | _, _, _ => none

/-! New units (R14, R45) -/

/-- Launch parameters in the registers they load. -/
def argRegs (args : List Word) : Tab Word := args.zipIdx.foldl (fun t a => Tab.set 0 t a.2 a.1) []

/-- A unit as it is created at an entry point: one split that runs, nothing outstanding (R14). -/
def newUnit (at_ : Where) (mask : Mask) (entry : DWord) (args : List Word) (lfsr : Tab Word) (now : Nat) : UnitSt :=
  { at_ := at_, mode := .live, halted := none, stopped := false, liveLanes := mask,
    entries := [(0, .split { pc := entry, mask := mask, ra := none, join := none, st := .running, wait := none, stage := 0,
                             loc := false, line := none, walked := [], skip := 0 })],
    regs := { v := [], vfe := [], s := argRegs args, sfe := [], p := [], q := [], lc := [] }, loops := [], nest := [],
    ctl := { trapcause := 0, trapaddr := 0, trapmask := [], fpflags := [], mflags := 0, round := 0, donemask := 0,
             pathsig := 0, retired := 0, lfsr := lfsr },
    ops := [], nextOp := 0, traps := [], parked := none, handled := none,
    eng := { asm := [], res := [], waiting := [], batchNo := 1, closed := 0, batches := [], svcNo := 1, svcOut := [] },
    gather := none, sched := { age := now, wait := 0, gapEnd := 0, notBefore := now + 1 }, discarded := [], step := .off,
    replay := 0, edited := false }

/-! Placing a team -/

/-- What a team is placed for. -/
structure TeamSpec where
  ctx : Nat
  task : Nat
  cluster : Nat
  pos : Nat
  gteam : Nat
  addr : DWord
  desc : Desc
  groups : Nat
  graphics : Bool
  sump : Bool
  deriving DecidableEq, Repr

/-- Enters a team on a core that has room for it, without its units; answers its key. -/
def enterTeam (s : State) (c : Nat) (r : Room) (t : TeamSpec) : State × Nat :=
  let key := (s.nextTeam + 1) * 8192 + c * 16 + r.slot
  let n := nScr (s.core c)
  let team : Team :=
    { ctx := t.ctx, task := t.task, cluster := t.cluster, core := c, slot := r.slot, pos := t.pos,
      groups := r.groups.map (groupUid c), ngroups := t.groups, regblk := t.desc.regblk, gteam := t.gteam, desc := t.addr,
      graphics := t.graphics, poolRight := bit t.desc.flags 1, sump := t.sump, scrSize := r.scrSize, scrRow := r.scrRow,
      scrRows := rowsFor r.scrSize n, hiwater := 0, scratch := [], scrBase := 0, scrDraw := s.draws, poolw := some 0,
      arrivals := [], barcAt := none, gridAt := none, latch := none, planAt := none, edited := false, gangCount := 0 }
  let s := { (s.modCi c (fun _ => r.ci)) with nextTeam := s.nextTeam + 1, draws := s.draws + r.scrSize + 1 }
  (s.putTeam key team, key)

/-- Places a team of a grid with its groups, all lanes active, at the program's entry (R85, R291). What was written before the launch, and by the tasks it depends on, is seen by its first load: the core acquires (R270). -/
def placeTeam (s : State) (c : Nat) (r : Room) (t : TeamSpec) (args : List Word) : State × Nat :=
  let (s, key) := enterTeam s c r t
  let s := r.groups.zipIdx.foldl (fun s g =>
    let at_ : Where := { strand := false, ctx := t.ctx, core := c, slot := g.1, team := key, gint := g.2, task := t.task }
    let lfsr := lanes32.map (fun l => (l, lfsrSeed t.desc.seed (t.gteam * 1024 + g.2 * 32 + l)))
    s.putUnit (groupUid c g.1) (newUnit at_ (BitVec.allOnes 32) (t.addr + 66) args lfsr s.now)) s
  (invalidateCac s c, key)

/-- The launch bindings of a cluster's groups (R212). -/
def bindCluster (s : State) (k : Cluster) : State :=
  let group (p g : Nat) : Option Nat :=
    match Tab.find? k.teams p with
    | some key => match s.team? key with | some t => t.groups[g]? | none => none
    | none => none
  (List.range (k.w * k.h)).foldl (fun s p =>
    let x := p % k.w
    let y := p / k.w
    let n := match Tab.find? k.teams p with
      | some key => (match s.team? key with | some t => t.ngroups | none => 0)
      | none => 0
    (List.range n).foldl (fun s g =>
      let bind (s : State) (pair p' g' : Nat) : State :=
        match group p g, group p' g' with
        | some u, some v => bindPorts s u v pair
        | _, _ => s
      let s := bind s 1 ((x + 1) % k.w + k.w * y) g
      let s := bind s 2 (x + k.w * ((y + 1) % k.h)) g
      bind s 3 p ((g + 1) % n)) s) s

/-- Cores of the rectangle at an origin, in position order. -/
def rectCores (origin w h : Nat) : List Nat := (List.range (w * h)).map (fun p => origin + 16 * (p / w) + p % w)

/-- Rooms of every core of a rectangle, when all are allowed and roomOn the team. -/
def rectRooms (s : State) (d : Desc) (allowed : Nat → Bool) : List Nat → Option (List (Nat × Room))
  | [] => some []
  | c :: cs =>
    if !allowed c then none else
    match roomOn s c d d.groups, rectRooms s d allowed cs with
    | some r, some l => some ((c, r) :: l)
    | _, _ => none

/-- Origins of a die in ascending row, then column, at which a rectangle lies in the mesh. -/
def origins (die w h : Nat) : List Nat :=
  (List.range (9 - h)).flatMap (fun row => (List.range (13 - w)).map (fun col => coreId die row col))

/-- Dies of a mask in the order an engine tries them (R291). -/
def dieOrder (ptr mask : Nat) : List Nat := ((List.range 4).map (fun i => (ptr + 1 + i) % 4)).filter (fun d => bit mask d)

/-- The first rectangle on the dies given that admits the teams of a cluster. -/
def findRect (s : State) (d : Desc) (w h : Nat) (allowed : Nat → Bool) (dies : List Nat) : Option (List (Nat × Room)) :=
  dies.findSome? (fun e => (origins e w h).findSome? (fun o => rectRooms s d allowed (rectCores o w h)))

/-- Places one cluster of a task on the rooms found: its teams, their bindings, and the task's counts (R291). -/
def placeOn (s : State) (key : Nat) (t : Task) (d : Desc) (rooms : List (Nat × Room)) : State :=
  let r := t.rec_
  let cl := s.nextCluster + 1
  let spec (p : Nat) : TeamSpec :=
    { ctx := t.ctx, task := key, cluster := cl, pos := p, gteam := t.placed * (r.clw * r.clh) + p, addr := r.desc,
      desc := d, groups := d.groups, graphics := bit r.flags 1, sump := false }
  let (s, teams) := rooms.zipIdx.foldl (fun (st : State × Tab Nat) e =>
    let (s, k) := placeTeam st.1 e.1.1 e.1.2 (spec e.2) t.args
    (s, Tab.put st.2 e.2 k)) (s, [])
  let k : Cluster :=
    { task := key, ctx := t.ctx, origin := (match rooms with | e :: _ => e.1 | [] => 0), w := r.clw, h := r.clh,
      index := t.placed, teams := teams, sweeps := [] }
  let s := { s with clusters := Tab.put s.clusters cl k, nextCluster := cl }
  let s := bindCluster s k
  s.modTask key (fun t =>
    { t with st := .started, placed := t.placed + 1, live := t.live + 1, units := t.units + rooms.length })

/-! Placing a strand (R293) -/

/-- The free hardware thread a die gives next. -/
def freeThread (s : State) (die : Nat) : Option Nat :=
  let x := s.die die
  ((List.range 1536).map (fun i => (x.threadPtr + 1 + i) % 1536)).find? (fun t =>
    (s.unit? (strandUid (die * 1536 + t))).isNone && !x.fenced.contains (96 + t / 4))

/-- The die takes strands at present. -/
def strandsOpen (s : State) (d : Nat) : Bool :=
  let x := s.die d
  decide (x.bring = .ready) && decide (x.power.st = .s0) && !x.frozen

/-- Places one strand of a task at a thread of a die. -/
def placeThread (s : State) (key : Nat) (t : Task) (d : Desc) (die thread : Nat) : State :=
  let id := die * 1536 + thread
  let at_ : Where := { strand := true, ctx := t.ctx, core := id / 4, slot := id % 4, team := 0, gint := 0, task := key }
  let un := newUnit at_ 1 (t.rec_.desc + 66) t.args [(0, lfsrSeed d.seed t.placed)] s.now
  let s := (s.putUnit (strandUid id) un).modDie die (fun x => { x with threadPtr := thread })
  s.modTask key (fun t => { t with st := .started, placed := t.placed + 1, live := t.live + 1, units := t.units + 1 })

/-- The next strand of a task is placed on the first die with a free thread; answers the die. -/
def placeStrandOn (s : State) (key : Nat) (t : Task) (d : Desc) (dies : List Nat) : Option (State × Nat) :=
  dies.findSome? (fun e =>
    if !strandsOpen s e then none
    else (freeThread s e).map (fun th => (placeThread s key t d e th, e)))

/-! A grid's clusters -/

/-- The next cluster of a task is placed on the first rectangle that admits it; answers the die. -/
def placeNext (s : State) (key : Nat) (d : Desc) (allowed : Nat → Bool) (dies : List Nat) : Option (State × Nat) :=
  match s.task? key with
  | none => none
  | some t =>
    match findRect s d t.rec_.clw t.rec_.clh allowed dies with
    | some rooms => some (placeOn s key t d rooms, match rooms with | e :: _ => coreDie e.1 | [] => 0)
    | none => none

/-- All clusters of a superstep grid are placed in one pass, or none (R292); the die pointer moves with each. -/
def placeAll (s : State) (engine key : Nat) (d : Desc) (allowed : Nat → Bool) (mask : Nat) : Nat → Option State
  | 0 => some s
  | n + 1 =>
    match placeNext s key d allowed (dieOrder (s.die engine).diePtr mask) with
    | some (s, e) => placeAll (s.modDie engine (fun x => { x with diePtr := e })) engine key d allowed mask n
    | none => none

end Sys2Proof.Machine
end

