-- ==== Sys2Proof/Machine/Sump.lean ====
section
/-! DEFINITION. The Sump of a cell: gathering strands, dispatch and placement of gathered groups (11 R218 to R220, R222; 15 R300). The meanings of MIGR, SUMP_TIMEOUT and SUMP_PLACE. -/

namespace Sys2Proof.Machine

/-- Cycle of the first arrival among the strands a group still holds (R219, R300). -/
def Forming.since (f : Forming) : Nat := f.times.headD 0

/-- A formed group goes before another that was dispatched in the same cycle and began later (R300). -/
def goesBefore (a b : Forming) : Bool := decide (a.sent < b.sent) || (decide (a.sent = b.sent) && decide (a.since < b.since))

/-- Inserts a formed group among those that wait to be placed. -/
def insertFormed (f : Forming) : List Forming → List Forming
  | [] => [f]
  | g :: t => if goesBefore f g then f :: g :: t else g :: insertFormed f t

/-- Dispatches a forming group; one with no lane left is discarded (R300). -/
def dispatchForm (s : State) (cell k : Nat) : State :=
  match Tab.find? (s.cell cell).forming k with
  | none => s
  | some f =>
    s.modCell cell (fun c => { c with
      forming := Tab.del c.forming k,
      dispatched := if f.strands = [] then c.dispatched else insertFormed { f with sent := s.now } c.dispatched })

/-- Live strands of a grid on the strand cores of a cell. -/
def cellStrands (s : State) (cell task : Nat) : List (Nat × UnitSt) :=
  s.units.filter (fun (e : Nat × UnitSt) =>
    e.2.at_.strand && decide (e.2.at_.task = task) && decide (e.2.cell = cell) && !e.2.entries.isEmpty)

/-- Event 4 of R300: every live strand of a grid in a cell is parked at the Sump. -/
def flushGrid (s : State) (cell task : Nat) : State :=
  if (cellStrands s cell task).all (fun e => decide (e.2.mode = .gathered)) then
    ((s.cell cell).forming.filter (fun f => decide (f.2.task = task))).foldl (fun s f => dispatchForm s cell f.1) s
  else s

/-- The oldest forming group of a cell. -/
def oldestForm (c : Cell) : Option Nat :=
  (c.forming.foldl (fun (b : Option (Nat × Forming)) f => match b with
    | some x => if f.2.since < x.2.since then some f else b
    | none => some f) none).map (·.1)

/-- Cycles a forming group of a context waits (R283). -/
def sumpWait (s : State) (ctx : Nat) : Nat :=
  match s.ctx? ctx with
  | some x => if x.sumpto = 0 then 256 else x.sumpto
  | none => 256

/-- A strand joins the forming group of its key or opens one (R219, R300). -/
def joinForm (s : State) (u : Nat) (un : UnitSt) (desc : DWord) (j : Nat) (line : List Byte) (flush : Bool) : State :=
  let cell := un.cell
  let task := un.at_.task
  match List.find? (fun (f : Nat × Forming) => decide (f.2.task = task ∧ f.2.desc = desc ∧ f.2.j = j)) (s.cell cell).forming with
  | some (k, f) =>
    let s := s.modCell cell (fun c => { c with forming := Tab.put c.forming k { f with strands := f.strands ++ [u], times := f.times ++ [s.now] } })
    if flush || decide (31 ≤ f.strands.length) then dispatchForm s cell k else s
  | none =>
    let s := if 8 ≤ (s.cell cell).forming.length then
        (match oldestForm (s.cell cell) with | some k => dispatchForm s cell k | none => s)
      else s
    let k := (s.cell cell).nextForm
    let f : Forming := { task := task, desc := desc, j := j, strands := [u], times := [s.now], paused := 0, line := line, sent := 0 }
    let s := s.modCell cell (fun c => { c with forming := Tab.put c.forming k f, nextForm := k + 1 })
    if flush then dispatchForm s cell k
    else
      s.later (sumpWait s un.at_.ctx) (.event (.sumpTimeout cell k))

/-- Some strand of a forming group is halted; its timeout does not run meanwhile (R375). -/
def formHalted (s : State) (f : Forming) : Bool :=
  f.strands.any (fun u => match s.unit? u with | some un => un.halted.isSome | none => false)

/-- R300, event 2. -/
def execSumpTimeout (cell form : Nat) (s : State) : Out :=
  .next (match Tab.find? (s.cell cell).forming form with
    | none => s
    | some f =>
      let ctx := match s.task? f.task with | some t => t.ctx | none => 0
      if (s.die (cell / 24)).frozen then s.later 1 (.event (.sumpTimeout cell form))
      else if s.now < f.since + sumpWait s ctx + f.paused ∨ formHalted s f = true then s else dispatchForm s cell form)

/-- The first n registers of a strand. -/
def windowRegs (n : Nat) : List Operand := (List.range n).map (fun i => Operand.s (Fin.ofNat 64 i))

/-- R218, whose tests are of the record's header, version, kind and number of strand entries. DESIGN CHOICE: a record that breaks Table 4-2 in
another way (n of 0 or above 64, a head of 0, registers beyond those of the group) is used as it stands, with the register numbers reduced modulo 64: R85 refuses it at launch only. -/
def execMigr (y : Migr) (s : State) : Out :=
  issue (.migr y) s (fun x s =>
    let j := y.j.val
    let d : DWord := lineBase x.sp.pc + (y.disp.signExtend 64) * 64
    if 3 < j ∨ x.sp.loc = true ∨ x.un.nest ≠ [] then trapHere s x.u x.e causeIllegalOp
    else match checkLane s x x.sp .glob true false d 64 with
      | .need p => holdAccess x s (.walk [p])
      | .halt => haltAccess x s
      | .bad c a r => takeTrap s x.u x.e { cause := c, pc := x.sp.pc, addr := a, flags := faultFlags false r }
      | .wait c => holdAccess x s (.space c)
      | .ok p =>
        let line := rdPlaces s p 64
        let ds := parseDesc line
        let s := match p with | .glob pa => obtainRead s pa | _ => s
        let s := match lookup s x.un false d.toNat with | some t => fillFirst s x.un false t | none => s
        if ds.header ≠ 0x801F ∨ ds.version ≠ 1 ∨ ds.strand = true ∨ ds.nmig ≤ j then
          takeTrap s x.u x.e { cause := causeEngineError, pc := x.sp.pc, addr := d }
        else
          let n := (ds.sump.getD j (0, 0, 0, 0)).2.2.1
          let empty := (windowRegs n).filter (fun o => decide (feOf x.un o ≠ .full))
          if empty ≠ [] then park (clearPass x s) x.u x.e (.full empty) 1
          else
            let s := countRetired (clearPass x s) x.u
            let s := park s x.u x.e .sump 1
            let s := s.modUnit x.u (fun un => { un with mode := .gathered })
            flushGrid (joinForm s x.u x.un d j line y.fl) x.un.cell x.un.at_.task)

/-- A strand leaves a forming or formed group; it is then no arrival of it (R300). -/
def Forming.without (u : Nat) (f : Forming) : Forming :=
  let left := (f.strands.zip f.times).filter (fun (e : Nat × Nat) => decide (e.1 ≠ u))
  { f with strands := left.map (·.1), times := left.map (·.2) }

/-- The timeout of every forming group of a cell is looked at when it ends by the arrivals the group still holds. -/
def replanForms (s : State) (cell : Nat) : State :=
  (s.cell cell).forming.foldl (fun s (f : Nat × Forming) =>
    let ctx := match s.task? f.2.task with | some t => t.ctx | none => 0
    s.later (f.2.since + sumpWait s ctx + f.2.paused - s.now) (.event (.sumpTimeout cell f.1))) s

/-- A strand that is to be saved loses its lane; on resume it executes its MIGR again (R222). -/
def withdrawStrand (s : State) (u : Nat) : State :=
  match s.unit? u with
  | none => s
  | some un =>
    let s := s.modCell un.cell (fun c => { c with
      forming := (c.forming.map (fun (f : Nat × Forming) => (f.1, f.2.without u))).filter (fun f => !f.2.strands.isEmpty),
      dispatched := (c.dispatched.map (Forming.without u)).filter (fun f => !f.strands.isEmpty) })
    let s := replanForms s un.cell
    s.putUnit u (choose
      { un with
        mode := .live,
        entries := un.entries.map (fun (e : Nat × Entry) => match e.2 with
          | .split sp => (e.1, .split { sp with st := .ready, wait := none, stage := 0 })
          | .join _ => e),
        ctl := { un.ctl with retired := un.ctl.retired - 1 } })

/-! Placement of a formed group -/

/-- The lane values of the gathered strands (Table 11-8): the v window, predicates, trap masks, flags and LFSRs. -/
def gatherInto (s : State) (un : UnitSt) (strands : List Nat) (b n : Nat) : UnitSt :=
  strands.zipIdx.foldl (fun un e =>
    match s.unit? e.1 with
    | none => un
    | some st =>
      let l := e.2
      let v := (List.range n).foldl (fun t i => Tab.set 0 t ((b + i) * 32 + l) (readS st i)) un.regs.v
      let p := (List.range 15).foldl (fun t i =>
        if (Tab.get 0 st.regs.p i).getLsbD 0 then Tab.set 0 t i (Tab.get 0 t i ||| BitVec.ofNat 32 (2 ^ l)) else t) un.regs.p
      { un with
        regs := { un.regs with v := v, p := p },
        ctl := { un.ctl with
          trapmask := Tab.set 0 un.ctl.trapmask l (Tab.get 0 st.ctl.trapmask 0),
          fpflags := Tab.set 0 un.ctl.fpflags l (Tab.get 0 st.ctl.fpflags 0),
          lfsr := Tab.set 0 un.ctl.lfsr l (Tab.get 0 st.ctl.lfsr 0) } }) un

/-- Places a formed group on a core that has room: a team of one group whose lanes are the gathered strands (R219, R220). A lane that
holds no strand is seeded as R45 seeds the lanes of a group, from the descriptor's seed and id.gteam as the group reads it: no rule
says how, but no state is zero (R44) DESIGN CHOICE. -/
def placeFormed (s : State) (c : Nat) (r : Room) (f : Forming) (d : Desc) : State :=
  let ctx := match s.task? f.task with | some t => t.ctx | none => 0
  let graphics := match s.task? f.task with | some t => bit t.rec_.flags 1 | none => false
  let (disp, head, n, b) := d.sump.getD f.j (0, 0, 0, 0)
  let spec : TeamSpec :=
    { ctx := ctx, task := f.task, cluster := 0, pos := 0, gteam := 0, addr := f.desc, desc := d, groups := 1,
      graphics := graphics, sump := true }
  let (s, key) := enterTeam s c r spec
  let slot := r.groups.headD 0
  let at_ : Where := { strand := false, ctx := ctx, core := c, slot := slot, team := key, gint := 0, task := f.task }
  let k := f.strands.length
  let entry : DWord := f.desc + BitVec.ofInt 64 (disp * 64) + dw (2 * head)
  let lfsr := lanes32.map (fun l => (l, lfsrSeed d.seed ((2 ^ 32 - 1) * 1024 + l)))
  let un := newUnit at_ (maskOf (fun l => decide (l < k))) entry [] lfsr s.now
  let un := { gatherInto s un f.strands b n with
    gather := some { strands := f.strands.zipIdx.map (fun e => (e.2, e.1)), b := b, n := n, leaving := [] } }
  invalidateCac (s.putUnit (groupUid c slot) un) c

/-- R219: the formed group that was dispatched first is placed once a core of the cell has room. -/
def execSumpPlace (cell : Nat) (s : State) : Out :=
  .next (match (s.cell cell).dispatched with
    | [] => s
    | f :: rest =>
      let d := parseDesc f.line
      match (coresOfCell cell).findSome? (fun c => (roomOn s c d 1).map (fun r => (c, r))) with
      | some (c, r) => placeFormed (s.modCell cell (fun x => { x with dispatched := rest })) c r f d
      | none => s)

end Sys2Proof.Machine
end

