-- ==== Sys2Proof/Machine/Life.lean ====
section
/-! DEFINITION. The end of splits, groups, strands, teams, clusters and tasks (05 R99; 11 R211, R221; 12 R226; 13 R248; 15 R290). The meanings of EXIT and RETS. -/

namespace Sys2Proof.Machine

/-! Names of units in the parts that hold them -/

/-- Rewrites the unit an event names. -/
def Event.mapUnit (f : Nat → Nat) : Event → Event
  | .producerCompletion u k => .producerCompletion (f u) k
  | .remoteFill u r vals => .remoteFill (f u) r vals
  | .resultRecordAppend u r => .resultRecordAppend (f u) r
  | .sleepExpiry u e t => .sleepExpiry (f u) e t
  | .storeCompletion u k => .storeCompletion (f u) k
  | .portWordArrival u p w => .portWordArrival (f u) p w
  | e => e

/-- The unit an event acts on. -/
def Event.unit? : Event → Option Nat
  | .producerCompletion u _ | .remoteFill u _ _ | .resultRecordAppend u _ | .sleepExpiry u _ _ | .storeCompletion u _
  | .portWordArrival u _ _ => some u
  | _ => none

/-- Rewrites the unit a turn names. -/
def Turn.mapUnit (f : Nat → Nat) : Turn → Turn
  | .issue u => .issue (f u)
  | .event e => .event (e.mapUnit f)
  | t => t

/-- The unit a turn acts on. -/
def Turn.unit? : Turn → Option Nat
  | .issue u => some u
  | .event e => e.unit?
  | _ => none

/-- Rewrites a fabric command's unit. -/
def FabCmd.mapUnit (f : Nat → Nat) (c : FabCmd) : FabCmd := { c with unit := f c.unit }

/-- Applies a function to every value of a table. -/
def mapVals {α : Type} (t : Tab α) (f : α → α) : Tab α := t.map (fun e => (e.1, f e.2))

/-- Rewrites the unit whose access asks for rows. -/
def SlotOf.mapUnit (f : Nat → Nat) : SlotOf → SlotOf
  | .op u k => .op (f u) k
  | w => w

/-- Rewrites the units whose accesses a bank serves. -/
def BankQ.mapUnit (f : Nat → Nat) (b : BankQ) : BankQ :=
  { b with reqs := b.reqs.map (fun r => { r with who := r.who.mapUnit f }), first := b.first.map (SlotOf.mapUnit f) }

/-- Rewrites the units a core holds by name. -/
def Core.mapUnit (f : Nat → Nat) (k : Core) : Core :=
  { k with
    cmds := mapVals k.cmds (fun c => { c with unit := f c.unit })
    mx := { k.mx with
      queue := k.mx.queue.map (fun e => { e with unit := f e.unit })
      exec := k.mx.exec.map (fun r => { r with entry := { r.entry with unit := f r.entry.unit } })
      pend := mapVals k.mx.pend (fun p => { p with unit := f p.unit }) }
    ci := { k.ci with places := mapVals k.ci.places (fun b => (f b.1, b.2)) }
    fills := k.fills.map (fun m => { m with u := f m.u })
    banks := mapVals k.banks (BankQ.mapUnit f)
    spillway := k.spillway.map (Event.mapUnit f) }

/-- Rewrites the units a fault names. -/
def FaultOf.mapUnit (f : Nat → Nat) : FaultOf → FaultOf
  | .unit u e => .unit (f u) e
  | w => w

/-- Rewrites the units a die holds by name. -/
def Die.mapUnit (f : Nat → Nat) (d : Die) : Die :=
  { d with
    waiting := d.waiting.map (fun w => { w with what := w.what.mapUnit f })
    parked := mapVals d.parked (fun p => { p with what := p.what.mapUnit f })
    reqs := mapVals d.reqs (fun r => { r with unit := f r.unit })
    mergeCmds := mapVals d.mergeCmds (FabCmd.mapUnit f)
    scanCmds := mapVals d.scanCmds (FabCmd.mapUnit f)
    sessions := mapVals d.sessions (fun x => { x with closing := x.closing.map (FabCmd.mapUnit f) })
    sinks := mapVals d.sinks (fun x => { x with releasing := x.releasing.map (FabCmd.mapUnit f) }) }

/-- Rewrites the units a cell holds by name. -/
def Cell.mapUnit (f : Nat → Nat) (c : Cell) : Cell :=
  { c with dbg := { c.dbg with
      halted := c.dbg.halted.map f
      edits := c.dbg.edits.map (fun e => { e with unit := f e.unit })
      traced := c.dbg.traced.map (fun e => (f e.1, e.2))
      diverged := c.dbg.diverged.map f
      pass := c.dbg.pass.map (fun p => (f p.1, p.2)) } }

/-- Rewrites the units a unit holds by name. -/
def UnitSt.mapUnit (f : Nat → Nat) (un : UnitSt) : UnitSt :=
  { un with regs := { un.regs with
      q := mapVals un.regs.q (fun p => { p with peer := p.peer.map (fun z => (f z.1, z.2)) }) } }

/-- A unit takes another number, wherever it is named (R226, R319). -/
def renameUnit (s : State) (u v : Nat) : State :=
  let f (x : Nat) : Nat := if x = u then v else x
  { s with
    agenda := s.agenda.map (Turn.mapUnit f)
    calendar := s.calendar.map (fun e => (e.1, e.2.mapUnit f))
    units := mapVals s.units (UnitSt.mapUnit f)
    teams := mapVals s.teams (fun t => { t with
      groups := t.groups.map f, arrivals := t.arrivals.map (fun a => { a with unit := f a.unit }) })
    cores := mapVals s.cores (Core.mapUnit f)
    scores := mapVals s.scores (fun c => { c with
      fills := c.fills.map (fun m => { m with u := f m.u }), spillway := c.spillway.map (Event.mapUnit f) })
    cells := mapVals s.cells (Cell.mapUnit f)
    dies := mapVals s.dies (Die.mapUnit f)
    struck := s.struck.map (fun e => match e with | .vreg w r l => .vreg (f w) r l | e => e) }

/-- A word on its way to a unit that retires goes on to the interface of its core (R27). -/
def Turn.strand (u gone : Nat) : Turn → Turn
  | .event (.portWordArrival v p w) => .event (.portWordArrival (if v = u then gone else v) p w)
  | t => t

/-- The turns that act on a unit are taken no more, but for words on their way to it. -/
def purgeUnit (s : State) (u gone : Nat) : State :=
  { s with
    agenda := (s.agenda.map (Turn.strand u gone)).filter (fun t => decide (t.unit? ≠ some u))
    calendar := (s.calendar.map (fun (e : Nat × Turn) => (e.1, e.2.strand u gone))).filter (fun e => decide (e.2.unit? ≠ some u)) }

/-- Every name of a unit that has gone is replaced by a number no unit has: what arrives for it later is discarded (R226). -/
def forgetUnit (s : State) (u gone : Nat) : State :=
  let s := dropSlots (purgeUnit s u gone) (fun w => match w with | .op v _ => decide (v = u) | _ => false)
  let s := { s with
    struck := s.struck.filter (fun e => match e with | .vreg w _ _ => decide (w ≠ u) | _ => true)
    cores := mapVals s.cores (fun k => { k with
      fills := k.fills.filter (fun m => decide (m.u ≠ u)) })
    scores := mapVals s.scores (fun k => { k with fills := k.fills.filter (fun m => decide (m.u ≠ u)) })
    cells := mapVals s.cells (fun c => { c with dbg := { c.dbg with
      halted := c.dbg.halted.filter (· ≠ u)
      traced := Tab.del c.dbg.traced u
      diverged := c.dbg.diverged.filter (· ≠ u)
      pass := c.dbg.pass.filter (fun p => decide (p.1 ≠ u)) } }) }
  renameUnit s u deadPeer

/-! Tasks -/

/-- A task whose units have all been placed and have all retired retires (R290). -/
def taskCheck (s : State) (key : Nat) : State :=
  match s.task? key with
  | none => s
  | some t =>
    if t.st = .started ∧ t.placed = t.rec_.count ∧ t.live = 0 ∧ s.planned (.taskRetire key) = false then
      s.soon (.event (.taskRetire key))
    else s

/-- A cluster or strand of a task has retired. -/
def oneLess (s : State) (key : Nat) : State := taskCheck (s.modTask key (fun t => { t with live := t.live - 1 })) key

/-! Teams -/

/-- A team whose groups have all retired retires (R184, R206, R248, R328). -/
def retireTeam (s : State) (key : Nat) (t : Team) : State :=
  let s := if (s.core t.core).mx.holder = some key then s.modTask t.task (fun x => { x with mheld := true }) else s
  let s := retireArray s key t.core
  let s := s.modCi t.core (fun ci => { ci with tiles := ci.tiles.filter (fun e => decide (e.2.team ≠ key)) })
  let s := { s with
    teams := Tab.del s.teams key
    struck := s.struck.filter (fun e => match e with | .scratch k _ => decide (k ≠ key) | _ => true) }
  let s := if (teamsOf s t.core).isEmpty then s.modCore t.core (fun k => { k with returning := true }) else s
  let s := if (s.die (coreDie t.core)).pipes.any (fun p => p.stages.any (fun g => g.leaving.any (fun l => decide (l.1 = t.core)))) then
      s.soon (.event (.balancerDeferredMove (coreDie t.core) t.core)) else s
  if t.sump then s else
  match s.cluster? t.cluster with
  | none => s
  | some k =>
    if k.teams.any (fun e => (s.team? e.2).isSome) then
      let s := k.sweeps.foldl (fun s w => stepGone s t.cluster w.1) s
      gridCheck (gridCheck s t.task .gbar) t.task .voteg
    else
      let s := oneLess { s with clusters := Tab.del s.clusters t.cluster } t.task
      gridCheck (gridCheck s t.task .gbar) t.task .voteg

/-! Units -/

/-- A group or strand retires (R99, R211, R226). -/
def retireUnit (s : State) (u : Nat) : State :=
  match s.unit? u with
  | none => s
  | some un =>
    let s := retirePorts s u
    let s := if un.at_.strand then s
      else (s.modCi un.at_.core (fun ci => freeBlocks ci u)).modTeam un.at_.team (fun t =>
        { t with groups := t.groups.filter (· ≠ u), arrivals := t.arrivals.filter (fun a => decide (a.unit ≠ u)) })
    let s := { s with units := Tab.del s.units u }
    let s := forgetUnit s u ((if un.at_.strand then goneScore else goneCore) + un.at_.core)
    if un.at_.strand then flushGrid (oneLess s un.at_.task) un.cell un.at_.task
    else match s.team? un.at_.team with
      | none => s
      | some t =>
        if t.groups = [] then retireTeam s un.at_.team t
        else [BarKind.bar, .barc, .gbar, .voteg].foldl (fun s k => teamCheck s un.at_.team k) s

/-- Strands of a dispatched group whose lanes have exited retire once the memory instructions the group had outstanding then have
completed, so that the record of their task follows them (R290). -/
def retireLeaving (s : State) (u : Nat) : State :=
  match s.unit? u with
  | none => s
  | some un =>
    match un.gather with
    | none => s
    | some g =>
      let open_ (x : Nat × List Nat) : Bool := x.2.any (fun k => (Tab.find? un.ops k).isSome)
      let s := if g.leaving = [] then s else s.putUnit u { un with gather := some { g with leaving := g.leaving.filter open_ } }
      (g.leaving.filter (fun x => !open_ x)).foldl (fun s x => retireUnit s x.1) s

/-- A unit that has no split or join left retires once its memory instructions have completed (R99); one that waits at a barrier may have arrived at it now (R204). -/
def finishUnit (s : State) (u : Nat) : State :=
  let s := retireLeaving s u
  match s.unit? u with
  | none => s
  | some un =>
    if un.entries = [] ∧ un.ops.any (fun o => isMemory o.2.instr) = false then retireUnit s u
    else if un.splits.any (fun e => match e.2.wait with | some (.barrier _ _ _) => true | _ => false) && (outstanding un).isEmpty then
      recheckGroup s u
    else s

/-- Lanes leave the handler they run in; it ends with its last lane (R308). -/
def leaveHandler (un : UnitSt) (m : Mask) : UnitSt :=
  match un.mode with
  | .handler e lanes =>
    if lanes &&& ~~~m = 0 then { un with mode := .live, handled := none } else { un with mode := .handler e (lanes &&& ~~~m) }
  | _ => un

/-- The lanes of a split leave their group; the group may have arrived at a barrier, or be at its end (R99, R203, R385). -/
def leaveGroup (s : State) (u e : Nat) : State :=
  match s.unit? u with
  | none => s
  | some un =>
    match un.split? e with
    | none => s
    | some sp =>
      let left := leaveHandler un sp.mask
      let s := s.putUnit u (exitSplit left e)
      let s := if left.mode ≠ un.mode then wakeTraps s un else s
      let s := recheckGroup s u
      let s := if (exitSplit left e).entries = [] then logExit s u sp.low sp.pc else s
      finishUnit s u

/-- The strands gathered in lanes of a dispatched group. -/
def gatheredIn (un : UnitSt) (m : Mask) : List (Nat × Nat) :=
  match un.gather with
  | none => []
  | some g => (lanesOf m).filterMap (fun l => (Tab.find? g.strands l).map (fun v => (l, v)))

/-- Memory instructions of a unit that have not completed. -/
def memoryOps (un : UnitSt) : List Nat :=
  un.ops.filterMap (fun (x : Nat × Op) => if isMemory x.2.instr then some x.1 else none)

/-- The strands gathered in lanes that exit are to retire (R99, R221). -/
def markLeaving (un : UnitSt) (m : Mask) : UnitSt :=
  { un with gather := un.gather.map (fun g => { g with leaving := g.leaving ++ (gatheredIn un m).map (fun x => (x.2, memoryOps un)) }) }

/-- The lanes of a split exit; a lane of a dispatched group that exits retires its strand (R99, R221). -/
def exitLanes (s : State) (u e : Nat) : State :=
  match s.unit? u with
  | none => s
  | some un =>
    match un.split? e with
    | none => s
    | some sp => leaveGroup (s.putUnit u (markLeaving un sp.mask)) u e

/-- R99, R221: a stepped EXIT raises no STEP (R379). -/
def execExit (h : Hint) (s : State) : Out :=
  issue (.exit h) s (fun x s => (exitLanes (countRetired s x.u) x.u x.e).modUnit x.u (fun un => { un with step := endStep un x.e }))

/-! RETS (R221) -/

/-- A lane's state goes back to its strand, which resumes after its MIGR (Table 11-8, R219). -/
def returnStrand (s : State) (un : UnitSt) (b n l v : Nat) : State :=
  match s.unit? v with
  | none => s
  | some st =>
    let x := (List.range n).foldl (fun t i => Tab.set 0 t i (readV un (b + i) l)) st.regs.s
    let sfe := (List.range n).foldl (fun t i => Tab.set Fe.full t i .full) st.regs.sfe
    let p := (List.range 15).foldl (fun t i =>
      Tab.set 0 t i (if (Tab.get 0 un.regs.p i).getLsbD l then 1 else 0)) st.regs.p
    let st := { st with
      mode := .live, regs := { st.regs with s := x, sfe := sfe, p := p },
      ctl := { st.ctl with
        trapmask := Tab.set 0 st.ctl.trapmask 0 (Tab.get 0 un.ctl.trapmask l),
        fpflags := Tab.set 0 st.ctl.fpflags 0 (Tab.get 0 un.ctl.fpflags l),
        lfsr := Tab.set 0 st.ctl.lfsr 0 (Tab.get 0 un.ctl.lfsr l) } }
    match st.splits with
    | (e, sp) :: _ =>
      let s := s.putUnit v (st.modSplit e (fun x => { x with st := .ready, wait := none, stage := 0 }))
      stepTrap (goOn s v e sp.pc) v e
    | [] => s.putUnit v st

/-- R221. -/
def execRets (h : Hint) (s : State) : Out :=
  issue (.rets h) s (fun x s =>
    match x.un.gather with
    | none => trapHere s x.u x.e causeIllegalOp
    | some g =>
      if x.un.nest ≠ [] then trapHere s x.u x.e causeIllegalOp
      else
        let regs := (List.range g.n).map (fun i => Operand.v (Fin.ofNat 1024 (g.b + i)))
        let empty := regs.filter (fun o => decide (feOf x.un o ≠ .full))
        if empty ≠ [] then park s x.u x.e (.full empty) 1
        else match orderWait x.un x.e x.instr with
        | some w => park s x.u x.e w 1
        | none =>
          let s := releaseCac (countRetired s x.u) x.un
          let s := (gatheredIn x.un x.sp.mask).foldl (fun s l => returnStrand s x.un g.b g.n l.1 l.2) s
          (leaveGroup s x.u x.e).modUnit x.u (fun un => { un with step := endStep un x.e }))

end Sys2Proof.Machine
end

