-- ==== Sys2Proof/Machine/Complete.lean ====
section
/-! DEFINITION. Completion of outstanding operations: loads, stores, atomics, cache control, DISCARD and special functions (01 R24; 07 R132; 08 R158 to R163; 09 R167 to R179; 14 R265). -/

namespace Sys2Proof.Machine

/-- The entry of the split that waits for an access it issued. -/
def accessEntry (un : UnitSt) (k : Nat) : Option Nat :=
  (un.splits.find? (fun e => decide (e.2.wait = some (.access k)))).map (·.1)

/-- The cursor register of a compress or expand takes its final value (R162). -/
def writeCursor (s : State) (u : Nat) (o : Operand) (n : Nat) : State :=
  s.modUnit u (fun un => match o with
    | .s r => writeS un r.val (w32 n)
    | _ => un)

/-- An operation has completed: it leaves the unit, or, when some of its lanes failed a check, its split now traps with the lanes committed (R161, R162). -/
def endOp (s : State) (u k : Nat) : State :=
  match s.unit? u with
  | none => s
  | some un =>
    match Tab.find? un.ops k with
    | none => s
    | some o =>
      match o.fault, accessEntry un k with
      | some (cause, addr, refused), some e =>
        let s := if o.dests ≠ [] then putOp s u k { o with stage := 2, fault := none, place := [] } else dropOp s u k
        takeTrap s u e { cause := cause, pc := o.pc, addr := addr, done := o.done, count := o.count,
                         flags := faultFlags (storesTo o.instr) refused }
      | _, _ =>
        let s := match o.instr with
          | .cmpst y => clearDone (writeCursor s u y.s o.count) u
          | .expld y => clearDone (writeCursor s u y.s o.count) u
          | _ => s
        finishUnit (dropOp s u k) u

/-- Registers the destinations of an operation hold, in order, are written in the lanes performed; they become full unless a fault holds the operation (R24, R161). -/
def deliver (s : State) (u k : Nat) (o : Op) : State :=
  let s := fillDests s u (match o.instr with | .expld _ => { o with dests := o.dests.dropLast } | _ => o) o.lanes
  let s := s.modUnit u (fun un => o.dests.foldl (fun un d => setFe un d (if o.fault.isSome then .pending else .full)) un)
  endOp (putOp s u k o) u k

/-- A load is performed and delivered: each lane's bytes are converted by its type (R154, R158, R265). -/
def performLoad (s : State) (u k : Nat) (un : UnitSt) (o : Op) (sh : Shape) : State :=
  let n := typeBytes sh.ty
  let (s, bs) := loadBytes s un o n
  let o := o.place.foldl (fun o e =>
    let ws := loadWords sh.ty ((List.range n).map (fun i => Tab.get 0 bs (e.1 * 16 + i)))
    ws.zipIdx.foldl (fun o w => o.setWord e.1 w.2 w.1) o) o
  let s := countReplies un o s
  let s := if outerCac (acquires o.instr) then acquireCac s un else s
  deliver s u k o

/-- The old values of an atomic go to its destination registers (R168, R172). -/
def deliverAtomic (s : State) (u k : Nat) (un : UnitSt) (o : Op) : State :=
  let s := countReplies un o s
  let s := if outerCac (acquires o.instr) then acquireCac s un else s
  let o := (lanesOf o.lanes).foldl (fun o l => (o.setWord l 0 (o.word l 8)).setWord l 1 (o.word l 9)) o
  if o.dests = [] then endOp s u k else deliver s u k o

/-- The event that completes an operation. -/
def completion (u k : Nat) (o : Op) : Event := if o.dests = [] then .storeCompletion u k else .producerCompletion u k

/-- Data word of a lane that says which half of its set is still to be performed: 1 low, 2 high, 0 none. -/
abbrev halfWord := 12

/-- Sets of a pair atomic whose second half is still to be performed, with that half. -/
def halvesLeft (o : Op) : List (Nat × Nat) :=
  (o.place.filterMap (fun (e : Nat × Place) =>
    let h := (o.word e.1 halfWord).toNat
    if h = 0 then none else some (e.2.code, h - 1))).eraseDups

/-- Notes for the lanes of a set which half is left. -/
def noteHalf (o : Op) (set : Nat) (left : Word) : Op :=
  o.place.foldl (fun o e => if e.2.code = set then o.setWord e.1 halfWord left else o) o

/-- The first half of every set of a pair atomic is performed, the part choosing for each set which half goes first and whether the other goes with it (R172). -/
def firstHalves (s : State) (un : UnitSt) (o : Op) : State × Op :=
  (atomSets o).foldl (fun (st : State × Op) set =>
    let high := Config.freeBool st.1.draws
    let both := Config.freeBool (st.1.draws + 1)
    let a := performHalf { st.1 with draws := st.1.draws + 2 } un st.2 set (b2n high)
    if both then performHalf a.1 un a.2 set (b2n (!high))
    else (a.1, noteHalf a.2 set (if high then 1 else 2))) (s, o)

/-- The second half of one set, which the part chooses, is performed. -/
def secondHalf (s : State) (un : UnitSt) (o : Op) : State × Op :=
  let l := halvesLeft o
  match l[Config.latency s.draws % l.length]? with
  | some (set, h) =>
    let r := performHalf { s with draws := s.draws + 1 } un o set h
    (r.1, noteHalf r.2 set 0)
  | none => (s, o)

/-- A BF16 pair atomic is performed half by half and set by set, in an order and at instants the part chooses (R172); count is 1 once the first halves have been performed. -/
def performPair (s : State) (u k : Nat) (un : UnitSt) (o : Op) : State :=
  let r := if o.count = 0 then firstHalves s un o else secondHalf s un o
  if halvesLeft r.2 = [] then deliverAtomic r.1 u k un r.2
  else (putOp r.1 u k { r.2 with count := 1 }).laterFree (completion u k o)

/-- Single-bit errors in the words of global memory that an access reads are corrected (R398). -/
def correctPlaces (s : State) (o : Op) : State :=
  correctWords s (fun e => match globalWord e with
    | some w => o.place.any (fun x => match x.2 with | .glob pa => decide (pa / 8 ≤ w) && decide (w ≤ (pa + 15) / 8) | _ => false)
    | none => false)

/-- The elements of a compress or expand that stops at a failing one are committed: their lanes stand in ctl.donemask from now on (R162). -/
def commitDone (s : State) (u : Nat) (o : Op) : State :=
  match o.instr, o.fault with
  | .cmpst _, some _ | .expld _, some _ =>
    s.modUnit u (fun un => if un.parked.isSome then un else { un with ctl := { un.ctl with donemask := un.ctl.donemask ||| o.lanes } })
  | _, _ => s

/-- Lines of global memory that an operation names. -/
def lineList (o : Op) : List Nat := o.place.filterMap (fun (e : Nat × Place) => match e.2 with | .glob pa => some (pa / 128) | _ => none)

/-- An access whose turn has come is performed (R158). -/
def performAccess (s : State) (u k : Nat) (un : UnitSt) (o : Op) : State :=
  let s := correctPlaces s o
  match atomOf o.instr with
  | some (.bf16x2, _, _) => performPair (if o.count = 0 && outerCac (releases o.instr) then releaseCac s un else s) u k un o
  | some (op, m, _) =>
    let s := if outerCac (releases o.instr) then releaseCac s un else s
    let r := performAtomic s un o op m
    deliverAtomic r.1 u k un r.2
  | none =>
    match shapeOf o.instr with
    | some sh =>
      if sh.load then performLoad (commitDone s u o) u k un o sh
      else
        let r := performStore s un o sh
        let s := commitDone (countReplies un o r.1) u o
        if r.2 then awaitSlices s u k else endOp s u k
    | none =>
      match o.instr with
      | .discard _ => endOp (performDiscard s un o) u k
      | i =>
        let s := match i with
          | .pref y => if y.m.cac then countVictim s un (lineList o) else s
          | _ => s
        endOp (o.place.foldl (fun s e => match e.2 with | .glob pa => performLine s un i pa | _ => s) s) u k

/-- The dirty lines that an operation with a release waits for are sent at once (R176). -/
def hurry (s : State) (un : UnitSt) (o : Op) : State := if outerCac (releases o.instr) then releaseCac s un else s

/-- The rows that an access of a group needs in the Cistern: those of scratchpads and tiles, of lines that hit, and, for a load, of the lines it fills (R164, R245). -/
def opRows (s : State) (un : UnitSt) (o : Op) : List (Nat × Nat × Nat) :=
  match shapeOf o.instr with
  | some sh =>
    if un.at_.strand then [] else
    o.place.flatMap (fun (e : Nat × Place) =>
      let rows := runRows s un.at_.core e.2 (typeBytes sh.ty)
      match e.2 with
      | .glob pa => if sh.load && (cacFind (s.core un.at_.core) (pa / 128)).isNone then fillRows s un.at_.core (pa / 128) else rows
      | _ => rows)
  | none => []

/-- The class of slot that serves an access: LDSR and STSR arrive at their target core (R164). -/
def opClass (i : Instr) : SlotClass :=
  match i with
  | .ldsr _ | .stsr _ => .arrival
  | _ => .lanes

/-- A completion event of operation k of a unit that is a memory instruction: it is performed once every earlier operation it must follow has been and its banks have served it, and it ends once its bytes are at their slices (R158, R265). -/
def advanceOp (s : State) (u k : Nat) (un : UnitSt) (o : Op) : State :=
  match o.stage with
  | 0 =>
    if mustWait un k o then (hurry s un o).later 1 (.event (completion u k o))
    else withSlots s (.op u k) (opClass o.instr) (opRows s un o) (fun s => s.later 1 (.event (completion u k o)))
      (fun s => performAccess s u k un o)
  | 1 => if stillDirty s un o = [] then endOp s u k else s
  | _ => s

/-- The port or command register of a special function takes its word (R132, R226). -/
def pushReady (s : State) (un : UnitSt) (o : Op) : Bool :=
  o.dests.all (fun d => match d with
    | .q n => portRoom s un n.val
    | .e n => (!completes un n.val (o.word (lowLane o.lanes) 0) || engineRoom s un n.val) && (vfillWait un (d, 1)).isNone
    | _ => true)

/-- The result of a special function is delivered, or waits at the unit (R132, R138). A loop counter has no full/empty bit, so nothing tells a reader that the result is still to come: lc is written on completion, and an instruction issued before then reads its old value DESIGN CHOICE. -/
def endSpecial (s : State) (u k : Nat) (un : UnitSt) (o : Op) : State :=
  if !pushReady s un o then s.later 1 (.event (.producerCompletion u k))
  else
    let s := dropOp s u k
    let s := s.modUnit u (fun un => o.dests.foldl (fun un d => setFe un d .full) un)
    finishUnit (fillDests s u o o.lanes) u

/-- R24: a long-latency producer delivers its results. -/
def execProducerCompletion (u k : Nat) (s : State) : Out :=
  .next (match s.unit? u with
    | none => s
    | some un =>
      match Tab.find? un.ops k with
      | none => s
      | some o => if isMemory o.instr then advanceOp s u k un o else endSpecial s u k un o)

/-- R93, R158: a memory instruction without results is performed or completes. -/
def execStoreCompletion (u k : Nat) (s : State) : Out :=
  .next (match s.unit? u with
    | none => s
    | some un =>
      match Tab.find? un.ops k with
      | none => s
      | some o => if isMemory o.instr then advanceOp s u k un o else s)

/-- R265: a core sends the dirty bytes of a line. -/
def execCacWriteback (core line : Nat) (s : State) : Out := .next (cacSend s core line)

end Sys2Proof.Machine
end

