-- ==== Sys2Proof/Machine/Engines.lean ====
section
/-! DEFINITION. The copy engine, exchange plans and batches (12 R224, R228 to R232; 19 R365 to R367). The meanings of BCLOSE and BWAIT and of the copy-engine events but for TSEND. -/

namespace Sys2Proof.Machine

/-! Fields of a copy command (Table 12-3) -/

/-- The fields of a copy command. -/
structure CopyArgs where
  op : Nat
  cvt : Nat
  sspace : Nat
  dspace : Nat
  notify : Bool
  rows : Nat
  src : Nat
  dst : Nat
  len : Nat
  scope : Nat
  sstride : Int
  dstride : Int
  /-- Reserved bits are zero. -/
  clean : Bool
  deriving DecidableEq, Repr

/-- Reads the eight words. -/
def copyArgs (ws : List Word) : CopyArgs :=
  let w0 := cw ws 0
  { op := bits w0 3 0, cvt := bits w0 7 4, sspace := bits w0 10 8, dspace := bits w0 13 11, notify := bit w0 14,
    rows := bits w0 31 16, src := cw ws 1 + 2 ^ 32 * cw ws 2, dst := cw ws 3 + 2 ^ 32 * cw ws 4, len := bits (cw ws 5) 23 0,
    scope := bits (cw ws 5) 26 24, sstride := sextNat 32 (cw ws 6), dstride := sextNat 32 (cw ws 7),
    clean := !bit w0 15 && bits (cw ws 5) 31 27 == 0 }

/-- Bytes in and bytes out of one element group of a conversion (Table 12-4); none for a malformed code. -/
def cvtSize (cvt : Nat) : Option (Nat × Nat) :=
  match cvt with
  | 0 => some (1, 1) | 1 => some (1, 2) | 2 => some (1, 2) | 3 => some (1, 4) | 4 => some (1, 4) | 5 => some (1, 4)
  | 6 => some (2, 4) | 7 => some (4, 2) | 8 => some (4, 1) | 9 => some (4, 1) | _ => none

/-- Converts one element group: its bytes and flags (Table 12-4). -/
def cvtGroup (cvt : Nat) (bs : List Byte) : List Byte × Nat :=
  let n := ofBytes bs
  let out (k : Nat) (r : FRes) : List Byte × Nat := (bytesOf k r.1, r.2)
  match cvt with
  | 1 => (bytesOf 2 (widenBf16 fmtE4m3 n), 0)
  | 2 => (bytesOf 2 (widenBf16 fmtE5m2 n), 0)
  | 3 => (bytesOf 2 (widenBf16 fmtE2m1 (n % 16)) ++ bytesOf 2 (widenBf16 fmtE2m1 (n / 16)), 0)
  | 4 => (bytesOf 4 (widenScaled fmtE4m3 n 127).1, 0)
  | 5 => (bytesOf 4 (widenScaled fmtE5m2 n 127).1, 0)
  | 6 => out 4 (fmtF32.convert .rne false (fmtBf16.decode n))
  | 7 => out 2 (fmtBf16.convert .rne false (fmtF32.decode n))
  | 8 => out 1 (fmtE4m3.narrow true (fmtF32.decode n))
  | 9 => out 1 (fmtE5m2.narrow true (fmtF32.decode n))
  | _ => (bs, 0)

/-! Places of a command -/

/-- A byte of a command's source or destination: its place, a page fault, a range that fails, or a role that is being moved. -/
inductive Spot where
  | at_ (p : Place)
  | fault (cause : Nat) (refused : Bool)
  | range
  | wait
  deriving DecidableEq, Repr

/-- A scratchpad byte of a team. -/
def scrSpot (s : State) (key : Option Nat) (off : Nat) (write : Bool) : Spot :=
  match checkScr s key off 1 write 0 with
  | .ok p => .at_ p
  | .wait _ => .wait
  | _ => .range

/-- The byte at an address of a space, as a command of a team on a core names it (Table 1-7, R157, R257, R367). -/
def spot (s : State) (core : Nat) (cmd : CopyCmd) (space addr : Nat) (write : Bool) : Spot :=
  match space with
  | 0 =>
    match xlate s cmd.ctx addr write with
    | .ok pa => .at_ (.glob pa)
    | .bad c r => .fault c r
    | .need _ => .wait
  | 1 => scrSpot s (some cmd.team) addr write
  | 2 =>
    if bits addr 23 21 ≠ 0 ∨ bits addr 31 28 ≠ 0 then .range
    else
      let key := match s.team? cmd.team with
        | some t => match s.cluster? t.cluster with
          | some k => if bits addr 27 24 < k.w * k.h then Tab.find? k.teams (bits addr 27 24) else none
          | none => if bits addr 27 24 = 0 then some cmd.team else none
        | none => none
      scrSpot s key (bits addr 20 0) write
  | 3 =>
    let k := s.core core
    match Tab.find? k.ci.tiles (addr / 512) with
    | some t =>
      if t.team ≠ cmd.team ∨ tileFlushing k (addr / 512) then .range
      else if roleMoving k .til then .wait else .at_ (.til core addr)
    | none => .range
  | _ =>
    if bits addr 31 25 ≠ 0 ∨ 383 < bits addr 24 16 then .range
    else .at_ (.loc (coreDie core * 384 + bits addr 24 16) (addr % 65536))

/-- Address of byte j of row r. -/
def rowAddr (space base : Nat) (stride : Int) (r j : Nat) : Nat :=
  wrapInt (if space = 0 then 64 else 32) ((base : Int) + stride * r + j)

/-- Bits [63:56] of a global address copy bit 55 (Table 1-7). -/
def copiesSign (a : Nat) : Bool := if a / 2 ^ 55 % 2 = 0 then a / 2 ^ 56 == 0 else a / 2 ^ 56 == 255

/-- A row stays in its tile or in its core's local memory (R157), or is canonical at both ends. -/
def rowFits (space a len : Nat) : Bool :=
  match space with
  | 0 => copiesSign a && copiesSign ((a + len - 1) % 2 ^ 64)
  | 3 => decide (a % 512 + len ≤ 512)
  | 4 => decide (a % 65536 + len ≤ 65536)
  | _ => true

/-- Rows of a command are in range (Table 1-7, R157); none when a role is being moved. -/
def rowsOk (s : State) (core : Nat) (cmd : CopyCmd) (space base : Nat) (stride : Int) (rows len : Nat) (write : Bool) : Option Bool :=
  if len = 0 then some true
  else if space = 0 then some ((List.range (rows + 1)).all (fun r => rowFits 0 (rowAddr 0 base stride r 0) len))
  else if 5 ≤ space ∨ 2 ^ 32 ≤ base then some false
  else
    (List.range (rows + 1)).foldl (fun acc r =>
      if !rowFits space (rowAddr space base stride r 0) len then some false
      else
        (List.range len).foldl (fun acc j =>
          match acc, spot s core cmd space (rowAddr space base stride r j) write with
          | some false, _ => some false
          | _, .range => some false
          | _, .wait => none
          | acc, _ => acc) acc) (some true)

/-- Rows, and bytes read and written in each, of a command that moves bytes. -/
def copyRows (a : CopyArgs) : Nat × Nat × Nat :=
  if a.op = 1 then (a.rows, 0, a.len)
  else match cvtSize a.cvt with
    | some (i, o) => (a.rows, a.len, a.len / i * o)
    | none => (a.rows, 0, 0)

/-- The command breaks Table 12-3, Table 12-4 or R229 by its words alone, its group having `regs` v registers. -/
def badWords (a : CopyArgs) (ws : List Word) (regs : Nat) : Bool :=
  !a.clean || decide (5 ≤ a.op) || decide (a.len = 0 ∧ a.op ≠ 4) || decide ((a.scope < 2 ∨ 6 < a.scope) ∧ a.op ≠ 4) ||
  (match a.op with
   | 0 => match cvtSize a.cvt with
     | some (i, _) => decide (a.len % i ≠ 0) || decide (4 < a.sspace) || decide (4 < a.dspace)
     | none => true
   | 1 => a.cvt != 0 || decide (a.len % 4 ≠ 0) || decide (4 < a.sspace) || decide (4 < a.dspace)
   | 2 => match cvtSize a.cvt with
     | some (i, o) =>
       let sp := vfillSpan ws
       decide (4 < a.sspace) || a.dspace != 0 || a.rows != 0 || decide (a.len * o ≠ 128 * sp.2 * i) || decide (regs < sp.1 + sp.2) ||
         decide (cw ws 3 / 65536 ≠ 0) || decide (cw ws 4 ≠ 0)
     | none => true
   | 3 => a.cvt != 0 || (a.sspace != 1 && a.sspace != 3) || a.dspace != 0 || a.rows != 0 || a.len != 512
   | _ => a.cvt != 0 || a.sspace != 1 || a.dspace != 0 || a.rows != 0 || a.notify || a.dst != 0 || a.len != 0 || a.scope != 0 ||
       decide (a.sstride ≠ 0) || decide (a.dstride ≠ 0) || decide (2 ^ 32 ≤ a.src))

/-- Whether a command is malformed (R230); none while a role it uses is being moved. -/
def copyMalformed (s : State) (core : Nat) (cmd : CopyCmd) : Option Bool :=
  let a := copyArgs cmd.words
  let regs := match s.team? cmd.team with | some t => 8 * t.regblk | none => 0
  if cmd.malformed || badWords a cmd.words regs then some true
  else
    let r := copyRows a
    let src := if a.op = 1 ∨ a.op = 4 then some true
      else rowsOk s core cmd a.sspace (if a.op = 3 then a.src % 2 ^ 32 else a.src) a.sstride r.1 r.2.1 false
    let dst := if a.op = 0 ∨ a.op = 1 then rowsOk s core cmd a.dspace a.dst a.dstride r.1 r.2.2 true else some true
    match src, dst with
    | some false, _ => some true
    | _, some false => some true
    | some true, some true => some false
    | _, _ => none

/-! Exchange plans (Table 19-1) -/

/-- Bytes of a team's scratchpad. -/
def scrBytes (t : Team) (off n : Nat) : List Byte := (List.range n).map (fun i => t.byte (off + i))

/-- An entry of a plan: send cycle, target, granules, source and destination granule. -/
structure PlanEntry where
  off : Nat
  target : Nat
  len : Nat
  src : Nat
  dst : Nat
  deriving DecidableEq, Repr

/-- Reads an entry of 16 bytes. -/
def parseEntry (bs : List Byte) : PlanEntry :=
  { off := leAt bs 0 4, target := leAt bs 4 3, len := leAt bs 7 1 + 1, src := leAt bs 8 2, dst := leAt bs 10 2 }

/-- The entries of the plan at an offset, at most 256. -/
def planEntries (t : Team) (at_ : Nat) : List (List Byte) :=
  (List.range (min 256 (leAt (scrBytes t at_ 2) 0 2))).map (fun i => scrBytes t (at_ + 16 + 16 * i) 16)

/-- The team a send goes to; none when it has retired. -/
def planTarget (s : State) (task : Nat) (e : PlanEntry) : Option (Nat × Team) :=
  List.find? (fun (x : Nat × Team) => decide (x.2.gteam = e.target)) (gridTeams s task)

/-! Order of commands (R229) -/

/-- Runs of bytes of rows in a space: a name of the space and context, then first address and length. -/
def rowRuns (s : State) (core : Nat) (cmd : CopyCmd) (space base : Nat) (stride : Int) (rows len : Nat) : List (Nat × Nat × Nat) :=
  (List.range (rows + 1)).flatMap (fun r =>
    if len = 0 then [] else
    let a := rowAddr space base stride r 0
    if space = 0 then
      (2 ^ 60 + cmd.ctx, a, len) ::
        (List.range ((a % 4096 + len + 4095) / 4096)).filterMap (fun p =>
          let lo := max a ((a / 4096 + p) * 4096)
          let hi := min (a + len) ((a / 4096 + p + 1) * 4096)
          match xlate s cmd.ctx lo false with
          | .ok pa => some (2 ^ 61, pa, hi - lo)
          | _ => none)
    else match spot s core cmd space a false with
      | .at_ p => [(2 ^ 62, p.code, len)]
      | _ => [])

/-- The runs a command other than PLAN reads and the runs it writes. -/
def moveRuns (s : State) (core : Nat) (cmd : CopyCmd) : List (Nat × Nat × Nat) × List (Nat × Nat × Nat) :=
  let a := copyArgs cmd.words
  let r := copyRows a
  let src := if a.op = 1 then []
    else rowRuns s core cmd a.sspace (if a.op = 3 then a.src % 2 ^ 32 else a.src) a.sstride r.1 r.2.1
  let dst := if a.op = 0 ∨ a.op = 1 then rowRuns s core cmd a.dspace a.dst a.dstride r.1 r.2.2
    else if a.op = 2 then [(2 ^ 63 + cmd.unit, (vfillSpan cmd.words).1, (vfillSpan cmd.words).2)] else []
  (src, dst)

/-- Runs of the granules that a send reads and writes. -/
def sendRuns (s : State) (cmd : CopyCmd) (e : PlanEntry) : List (Nat × Nat × Nat) × List (Nat × Nat × Nat) :=
  let run (key g : Nat) : List (Nat × Nat × Nat) := [(2 ^ 62, (Place.scr key (64 * g)).code, 64 * e.len)]
  match s.team? cmd.team with
  | none => ([], [])
  | some t => (run cmd.team e.src, match planTarget s t.task e with | some (key, _) => run key e.dst | none => [])

/-- Runs of the plan itself, which a PLAN reads at its acceptance. -/
def tableRuns (s : State) (core : Nat) (cmd : CopyCmd) : List (Nat × Nat × Nat) × List (Nat × Nat × Nat) :=
  (rowRuns s core cmd 1 (copyArgs cmd.words).src 0 0 (16 + 16 * (match s.team? cmd.team with
    | some t => (planEntries t (copyArgs cmd.words).src).length
    | none => 0)), [])

/-- The runs a command still has to read and write: those of a PLAN are its table, until it is accepted, and the sends left. -/
def cmdRuns (s : State) (core : Nat) (cmd : CopyCmd) : List (Nat × Nat × Nat) × List (Nat × Nat × Nat) :=
  if (copyArgs cmd.words).op ≠ 4 then moveRuns s core cmd else
  let todo := if cmd.plan ≠ [] then cmd.plan.drop cmd.sends
    else match s.team? cmd.team with
      | some t => planEntries t (copyArgs cmd.words).src
      | none => []
  let sends := todo.map (fun bs => sendRuns s cmd (parseEntry bs))
  ((if cmd.plan = [] then (tableRuns s core cmd).1 else []) ++ sends.flatMap (·.1), sends.flatMap (·.2))

/-- Two lists of runs share a byte. -/
def runsMeet (a b : List (Nat × Nat × Nat)) : Bool :=
  a.any (fun x => b.any (fun y => decide (x.1 = y.1) && decide (x.2.1 < y.2.1 + y.2.2) && decide (y.2.1 < x.2.1 + x.2.2)))

/-- An earlier command of the engine touches a byte of the runs given, which command k reads and writes now, and has not been performed at it. -/
def runsWait (s : State) (core k : Nat) (r : List (Nat × Nat × Nat) × List (Nat × Nat × Nat)) : Bool :=
  (s.core core).cmds.any (fun c => decide (c.1 < k) && decide (c.2.st ≠ .done) && !c.2.malformed &&
    (let q := cmdRuns s core c.2
     runsMeet r.2 q.1 || runsMeet r.2 q.2 || runsMeet r.1 q.2))

/-- An earlier command of the engine holds the event of this one up. -/
def cmdWaits (s : State) (core k : Nat) (cmd : CopyCmd) : Bool :=
  runsWait s core k (if (copyArgs cmd.words).op = 4 then tableRuns s core cmd else moveRuns s core cmd)

/-- The copy engine of a core is stopped (R312, R321, R374). -/
def engineStopped (s : State) (core : Nat) : Bool :=
  (s.cell (cellOfCore core)).dbg.frozen || (s.die (coreDie core)).frozen

/-! Performing a command -/

/-- Progress of a command within its one event. -/
structure CopyRun where
  /-- Bytes written so far in this event, by place code, and in order. -/
  seen : Tab Byte
  out : List (Place × Byte)
  regs : List (Nat × Byte)
  bad : List Place
  pos : Nat
  flags : Nat
  draws : Nat
  /-- Lines of the context's memory that are read, by address. -/
  lines : List Nat
  stop : Option (Nat × Nat × Bool × Bool)
  deriving DecidableEq, Repr

/-- A source byte: the value before the command, or the one the command has written there, for the order of its bytes is not defined (R229). -/
def sourceByte (s : State) (r : CopyRun) (p : Place) : Byte :=
  match Tab.find? r.seen p.code with
  | some b => if Config.freeBool r.draws then b else rdPlace s p
  | none => rdPlace s p

/-- Source bytes of one element group, or the first that fails. -/
def sourceGroup (s : State) (core : Nat) (cmd : CopyCmd) (a : CopyArgs) (r : CopyRun) (row j : Nat) :
    Nat → Except (Nat × Nat × Bool) (List Byte × Bool × List Nat)
  | 0 => .ok ([], false, [])
  | n + 1 =>
    let addr := rowAddr a.sspace a.src a.sstride row j
    match spot s core cmd a.sspace addr false with
    | .at_ p =>
      match sourceGroup s core cmd a r row (j + 1) n with
      | .ok (l, b, ls) =>
        .ok (sourceByte s r p :: l, b || poisonedAt s p 1, (if a.sspace = 0 then [addr / 128] else []) ++ ls)
      | .error e => .error e
    | .fault c f => .error (c, addr, f)
    | _ => .error (causeRoleRange, addr, false)

/-- Writes the bytes of a group from byte i on. -/
def writeGroup (s : State) (core : Nat) (cmd : CopyCmd) (a : CopyArgs) (poison : Bool) (row j : Nat) : List Byte → CopyRun → CopyRun
  | [], r => r
  | b :: bs, r =>
    if r.stop.isSome then r
    else if a.op = 2 then
      writeGroup s core cmd a poison row (j + 1) bs { r with regs := r.regs ++ [(j, b)], pos := r.pos + 1 }
    else
      let addr := rowAddr a.dspace a.dst a.dstride row j
      match spot s core cmd a.dspace addr true with
      | .at_ p =>
        let bad := if poison then r.bad ++ [p] else r.bad
        writeGroup s core cmd a poison row (j + 1) bs
          { r with seen := Tab.put r.seen p.code b, out := r.out ++ [(p, b)], bad := bad, pos := r.pos + 1 }
      | .fault c f => { r with stop := some (c, addr, f, true) }
      | _ => { r with stop := some (causeRoleRange, addr, false, true) }

/-- Element groups of a command from its position on. -/
def copyGroups (s : State) (core : Nat) (cmd : CopyCmd) (a : CopyArgs) (i o rowOut : Nat) : Nat → CopyRun → CopyRun
  | 0, r => r
  | fuel + 1, r =>
    if r.stop.isSome then r
    else
      let row := r.pos / rowOut
      let j := r.pos % rowOut
      let g := j / o
      if a.op = 1 then
        let b := (bytesOf 4 (a.src % 2 ^ 32)).getD (j % 4) 0
        copyGroups s core cmd a i o rowOut fuel (writeGroup s core cmd a false row j [b] r)
      else match sourceGroup s core cmd a r row (g * i) i with
        | .error (c, addr, f) => { r with stop := some (c, addr, f, false) }
        | .ok (bs, poison, ls) =>
          let z := cvtGroup a.cvt bs
          let r := { r with flags := r.flags ||| z.2, draws := r.draws + 1, lines := (ls ++ r.lines).eraseDups }
          copyGroups s core cmd a i o rowOut fuel (writeGroup s core cmd a poison row j (z.1.drop (j % o)) r)

/-- Bytes written to v registers of a unit: byte p of the span starting at a register (R229). -/
def writeSpan (un : UnitSt) (reg : Nat) (ws : List (Nat × Byte)) : UnitSt :=
  let v := ws.foldl (fun t w =>
    let key := (reg + w.1 / 128) * 32 + w.1 % 128 / 4
    let old := (Tab.get 0 t key).toNat
    let sh := 256 ^ (w.1 % 4)
    Tab.set 0 t key (w32 (old - old / sh % 256 * sh + w.2.toNat * sh))) un.regs.v
  { un with regs := { un.regs with v := v } }

/-- Poison follows poisoned source bytes (R398). -/
def poisonPlaces (s : State) (ps : List Place) : State :=
  ps.foldl (fun s p => match p with
    | .glob pa => setPoison s [pa]
    | p => match p.word? with
      | some w => if s.struck.contains w then s else { s with struck := w :: s.struck }
      | none => s) s

/-- Consecutive global bytes as runs. -/
def joinRuns (ws : List (Place × Byte)) : List (Nat × Nat) :=
  (ws.foldl (fun (l : List (Nat × Nat)) w => match w.1, l with
    | .glob pa, (b, n) :: t => if b + n = pa then (b, n + 1) :: t else (pa, 1) :: l
    | .glob pa, [] => [(pa, 1)]
    | _, l => l) []).reverse

/-- Bytes that an engine or service writes: global ones at their slices as one write, the others at their banks (R273, R277). -/
def deviceWrite (s : State) (ws : List (Place × Byte)) : State :=
  let glob := ws.filterMap (fun w => match w.1 with | .glob pa => some (pa, w.2) | _ => none)
  let s := wrPlaces s ws
  if glob = [] then s else sliceWrite s glob

/-- A command as it stands. -/
def cmd? (s : State) (core k : Nat) : Option CopyCmd := Tab.find? (s.core core).cmds k

/-- Rewrites a command. -/
def modCmd (s : State) (core k : Nat) (f : CopyCmd → CopyCmd) : State :=
  s.modCore core (fun c => { c with cmds := Tab.modify c.cmds k f })

/-- A command has been performed; its completion follows (R229). -/
def cmdDone (s : State) (core k : Nat) : State :=
  (modCmd s core k (fun c => { c with st := .done })).laterFree (.copyComplete core k)

/-- A malformed command is not performed (R230). -/
def cmdMalformed (s : State) (core k : Nat) : State :=
  cmdDone (modCmd s core k (fun c => { c with malformed := true, addr := 0 })) core k

/-- A command parks on PAGE_ABSENT: its fault waits for the fault ring (R230, R305). -/
def parkCmd (s : State) (core k : Nat) (cmd : CopyCmd) (addr : Nat) (refused write : Bool) : State :=
  let s := modCmd s core k (fun c => { c with st := .parked none, addr := dw addr })
  let f : EngFault :=
    { what := .copy core k, ctx := cmd.ctx, cause := causePageAbsent, addr := dw addr, unit := core % 512 + 512 * cmd.slot,
      write := write, refused := refused, cycle := s.now }
  wakeFaults (s.modDie (coreDie core) (fun d => { d with waiting := d.waiting ++ [f] })) (coreDie core)

/-- The bytes of a COPY, FILL or VFILL are moved, up to the first that faults (R229, R230). -/
def moveBytes (s : State) (core k : Nat) (cmd : CopyCmd) : State :=
  let a := copyArgs cmd.words
  let (i, o) := if a.op = 1 then (4, 4) else (cvtSize a.cvt).getD (1, 1)
  let rowOut := (copyRows a).2.2
  let total := (a.rows + 1) * rowOut
  let r := copyGroups s core cmd a i o rowOut (total - cmd.pos)
    { seen := [], out := [], regs := [], bad := [], pos := cmd.pos, flags := cmd.flags, draws := s.draws, lines := [], stop := none }
  let s := r.lines.foldl (fun s l => obtainVirt s cmd.ctx (128 * l) 1) s
  let s := poisonPlaces (deviceWrite { s with draws := r.draws } r.out) r.bad
  let s := if a.op = 2 then s.modUnit cmd.unit (fun un => writeSpan un (vfillSpan cmd.words).1 r.regs) else s
  let s := modCmd s core k (fun c => { c with pos := r.pos, flags := r.flags, writes := c.writes ++ joinRuns r.out })
  match r.stop with
  | none => cmdDone s core k
  | some (c, addr, f, w) =>
    if c = causePageAbsent then parkCmd s core k cmd addr f w
    else cmdDone (modCmd s core k (fun c => { c with failed := true, addr := dw addr })) core k

/-- Rows of a run of places of a space, row by row of the command, that lie in a Cistern. -/
def spaceRows (s : State) (core : Nat) (cmd : CopyCmd) (space base : Nat) (stride : Int) (rows len : Nat) (write : Bool) : List (Nat × Nat × Nat) :=
  if space = 0 ∨ 4 ≤ space ∨ len = 0 then [] else
  (List.range (rows + 1)).flatMap (fun r =>
    match spot s core cmd space (rowAddr space base stride r 0) write with
    | .at_ p => runRows s core p len
    | _ => [])

/-- Rows of the Cistern that a command reads and writes (R164, R245): of SCR and TIL at its source and destination, of the registers of a VFILL; a PLAN is read at its acceptance, which the table names in no slot DESIGN CHOICE. -/
def cmdRows (s : State) (core : Nat) (cmd : CopyCmd) : List (Nat × Nat × Nat) :=
  let a := copyArgs cmd.words
  if a.op = 4 then [] else
  let r := copyRows a
  let src := if a.op = 1 then [] else spaceRows s core cmd a.sspace (if a.op = 3 then a.src % 2 ^ 32 else a.src) a.sstride r.1 r.2.1 false
  let dst := if a.op = 0 ∨ a.op = 1 then spaceRows s core cmd a.dspace a.dst a.dstride r.1 r.2.2 true
    else if a.op = 2 then
      (List.range (vfillSpan cmd.words).2).flatMap (fun i => regRows s cmd.unit core ((vfillSpan cmd.words).1 + i))
    else []
  src ++ dst

/-- A command's event: in slot 3 of the banks it needs (R245), it waits while its engine is stopped, while a memory instruction issued before its last push has not been performed (R227), while an earlier command touches its bytes, or while a role it uses is being moved (R229, R257). -/
def copyStep (s : State) (core k : Nat) (ev : Event) (body : CopyCmd → State → State) : State :=
  let again (s : State) : State := s.later 1 (.event ev)
  match cmd? s core k with
  | none => s
  | some cmd =>
    if cmd.st ≠ .live then s
    else if engineStopped s core || pushHeld s cmd.unit cmd.after then again s
    else match copyMalformed s core cmd with
      | none => again s
      | some true => cmdMalformed s core k
      | some false =>
        if cmdWaits s core k cmd then again s else withSlots s (.cmd core k) .copy (cmdRows s core cmd) again (body cmd)

/-- R229: COPY; an unknown operation is malformed. -/
def execCopy (core k : Nat) (s : State) : Out := .next (copyStep s core k (.copy core k) (fun cmd s => moveBytes s core k cmd))

/-- R229. -/
def execFill (core k : Nat) (s : State) : Out := .next (copyStep s core k (.fill core k) (fun cmd s => moveBytes s core k cmd))

/-- R229. -/
def execVfill (core k : Nat) (s : State) : Out := .next (copyStep s core k (.vfill core k) (fun cmd s => moveBytes s core k cmd))

/-! Exchange plans (R365 to R367) -/

/-- A plan keeps Table 19-1 and its sources lie in the scratchpad (R365, R366). -/
def planOk (t : Team) (at_ gteams : Nat) : Bool :=
  let n := leAt (scrBytes t at_ 2) 0 2
  let es := (planEntries t at_).map parseEntry
  at_ % 16 == 0 && decide (1 ≤ n ∧ n ≤ 256) && decide (at_ + 16 + 16 * n ≤ t.scrSize) && leAt (scrBytes t (at_ + 2) 14) 0 14 == 0 &&
  (planEntries t at_).all (fun bs => leAt bs 12 4 == 0) &&
  es.all (fun e => decide (e.target < gteams) && decide (64 * (e.src + e.len) ≤ t.scrSize)) &&
  (es.zip (es.drop 1)).all (fun e => decide (e.1.off ≤ e.2.off))

/-- Entry i of the plan that a command has read at its acceptance. -/
def sendOf (cmd : CopyCmd) (i : Nat) : Option PlanEntry := cmd.plan[i]?.map parseEntry

/-- Plans the send of entry i, when there is one; the command has been performed after its last send. -/
def planNext (s : State) (core k i : Nat) : State :=
  match cmd? s core k with
  | none => s
  | some cmd =>
    match sendOf cmd i with
    | some e =>
      { s.later (max 1 (cmd.rel + e.off - s.now) + Config.latency s.draws) (.event (.planSend core k i)) with draws := s.draws + 1 }
    | none => cmdDone s core k

/-- R366, R367: a PLAN is accepted: its plan is read and latched, and its sends begin. -/
def execPlan (core k : Nat) (s : State) : Out :=
  .next (copyStep s core k (.plan core k) (fun cmd s =>
    let at_ := (copyArgs cmd.words).src
    match s.team? cmd.team with
    | none => cmdMalformed s core k
    | some t =>
      match s.task? t.task with
      | none => cmdMalformed s core k
      | some g =>
        if scrBusy (s.core core) then s.later 1 (.event (.plan core k)) else
        let (c, rel) := (Tab.find? g.phase core).getD (0, 0)
        let latchOk := match t.latch with | some (a, _) => decide (a = at_) | none => true
        if !g.rec_.superstep || t.sump || c % 2 == 0 || decide (t.planAt = some c) || !latchOk ||
            !planOk t at_ (g.rec_.count * (g.rec_.clw * g.rec_.clh)) then cmdMalformed s core k
        else
          let n := leAt (scrBytes t at_ 2) 0 2
          let s := s.modTeam cmd.team (fun t =>
            { t with planAt := some c, latch := some (t.latch.getD (at_, 16 + 16 * n)) })
          planNext (modCmd s core k (fun c => { c with rel := rel, plan := planEntries t at_, sends := 0 })) core k 0))

/-- A send writes nothing and marks the command failed at an address, the first failure counting (R366). -/
def failSend (s : State) (core k addr : Nat) : State :=
  modCmd s core k (fun c => if c.failed then c else { c with failed := true, addr := dw addr })

/-- A send's granules are copied to the target team; one that passes the target's size, which is 0 once the team has retired (R157), or meets its latched plan, writes nothing and fails the command (R366, R367). -/
def performSend (s : State) (core k : Nat) (cmd : CopyCmd) (e : PlanEntry) : Option (Nat × Team) → State
  | none => failSend s core k (64 * e.dst)
  | some (key, x) =>
    let n := 64 * e.len
    if x.scrSize < 64 * e.dst + n then failSend s core k (64 * e.dst)
    else if latched x (64 * e.dst) n then failSend s core k 0
    else
      let src := (List.range n).map (fun j => Place.scr cmd.team (64 * e.src + j))
      let ws := src.zipIdx.map (fun p => (Place.scr key (64 * e.dst + p.2), rdPlace s p.1))
      let bad := (src.zipIdx.filter (fun p => poisonedAt s p.1 1)).map (fun p => Place.scr key (64 * e.dst + p.2))
      poisonPlaces (wrPlaces s ws) bad

/-- Rows of the Cisterns that a send reads and writes. -/
def sendRows (s : State) (core : Nat) (cmd : CopyCmd) (e : PlanEntry) (x : Option (Nat × Team)) : List (Nat × Nat × Nat) :=
  let rows (key g : Nat) : List (Nat × Nat × Nat) := runRows s core (.scr key (64 * g)) (64 * e.len)
  rows cmd.team e.src ++ (match x with | some (key, _) => rows key e.dst | none => [])

/-- R366: a send waits while its engine is stopped, a role it uses is being moved or an earlier command touches its granules (R229, R257), and for slot 3 of its banks (R245). -/
def execPlanSend (core k i : Nat) (s : State) : Out :=
  .next (match cmd? s core k with
    | none => s
    | some cmd =>
      match s.team? cmd.team with
      | none => cmdDone s core k
      | some t =>
        match sendOf cmd i with
        | none => s
        | some e =>
          let x := planTarget s t.task e
          let busy := scrBusy (s.core core) || (match x with | some z => scrBusy (s.core z.2.core) | none => false)
          if cmd.st ≠ .live ∨ cmd.sends ≠ i ∨ s.now < cmd.rel + e.off then s
          else if engineStopped s core || busy || runsWait s core k (sendRuns s cmd e) then s.later 1 (.event (.planSend core k i))
          else withSlots s (.cmd core k) .copy (sendRows s core cmd e x) (fun s => s.later 1 (.event (.planSend core k i))) (fun s =>
            planNext (modCmd (performSend s core k cmd e x) core k (fun c => { c with sends := i + 1 })) core k (i + 1)))

/-! Completion (R229 to R231) -/

/-- The batch of a command: one fewer outstanding, its writes, and the first failing address. -/
def endInBatch (un : UnitSt) (cmd : CopyCmd) : UnitSt :=
  let b := Tab.get ⟨0, none, []⟩ un.eng.batches cmd.batch.toNat
  let failed := if cmd.malformed || cmd.failed then some (b.failed.getD cmd.addr) else b.failed
  let b : Batch := { left := b.left - 1, failed := failed, writes := b.writes ++ cmd.writes }
  { un with eng := { un.eng with batches := Tab.put un.eng.batches cmd.batch.toNat b } }

/-- R229, R230: a command completes: its record is appended, its registers become full, and its entry frees. -/
def execCopyComplete (core k : Nat) (s : State) : Out :=
  .next (match cmd? s core k with
    | none => s
    | some cmd =>
      if cmd.st ≠ .done then s else
      let a := copyArgs cmd.words
      let bad := cmd.malformed || cmd.failed
      let cause := if !bad then 0 else if cmd.malformed || a.op == 4 then causeEngineError else causePagePerm
      let s := s.modCore core (fun c => { c with cmds := Tab.del c.cmds k })
      let s := s.modUnit cmd.unit (fun un =>
        let sp := vfillRegs s un cmd.words
        endInBatch (if a.op = 2 then setVfe un sp.1 sp.2 .full else un) cmd)
      if bad || a.notify then sendRecord s cmd.unit 0 [w32 (cause + 256 * cmd.flags), cmd.batch] cmd.writes else s)

/-! Batches (R231, R232) -/

/-- Number after a batch number. -/
def nextBatch (n : Word) : Word := if n = 0xFFFFFFFF then 1 else n + 1

/-- R231. -/
def execBclose (y : DstD) (s : State) : Out :=
  issue (.bclose y) s (fun x s =>
    let n := x.un.eng.batchNo
    let s := s.modUnit x.u (fun un => { un with eng := { un.eng with batchNo := nextBatch n, closed := un.eng.closed + 1 } })
    finish x (writeOp s x.u y.d x.lanes (fun _ => n)))

/-- Batch k is numbered n or lower: within 2^31 below n (R232). -/
def upTo (k n : Word) : Bool := decide ((n - k).toNat < 2 ^ 31)

/-- The number has been given to a batch (R231): as many numbers as the group has closed batches precede that of the open one, and 0 is none of them. -/
def given (un : UnitSt) (n : Word) : Bool :=
  let back := (un.eng.batchNo.toNat + (2 ^ 32 - 1) - n.toNat) % (2 ^ 32 - 1)
  decide (n ≠ 0) && decide (1 ≤ back ∧ back ≤ un.eng.closed)

/-- Batches numbered n or lower, lowest first. -/
def batchesTo (un : UnitSt) (n : Word) : List (Nat × Batch) :=
  let l := un.eng.batches.filter (fun b => upTo (w32 b.1) n && decide (w32 b.1 ≠ un.eng.batchNo))
  l.filter (fun b => b.1 > n.toNat) ++ l.filter (fun b => b.1 ≤ n.toNat)

/-- Every command of those batches has completed. -/
def batchesDone (un : UnitSt) (n : Word) : Bool := (batchesTo un n).all (fun b => b.2.left == 0)

/-- R232. -/
def execBwait (y : SrcA) (s : State) : Out :=
  issue (.bwait y) s (fun x s =>
    let n := match x.sp.wait with | some (.batch n) => n | _ => x.word s x.low y.a
    let first := decide (x.sp.stage = 0)
    if n ≠ 0 ∧ given x.un n = false then trapHere s x.u x.e causeIllegalOp
    else if n ≠ 0 ∧ batchesDone x.un n = false then
      park (if first then popAll s x.u x.instr else s) x.u x.e (.batch n) 1
    else
      let bs := if n = 0 then [] else batchesTo x.un n
      let s := acquireRuns s x.un.at_.core (bs.flatMap (fun b => b.2.writes))
      let s := s.modUnit x.u (fun un =>
        { un with eng := { un.eng with batches := un.eng.batches.filter (fun b => !bs.any (fun c => c.1 == b.1)) } })
      match bs.findSome? (fun b => b.2.failed) with
      | some a => takeTrap s x.u x.e { cause := causeEngineError, pc := x.sp.pc, addr := a }
      | none => if first then finish x s else finishPopped x s)

end Sys2Proof.Machine
end

