-- ==== Sys2Proof/Machine/System.lean ====
section
/-! DEFINITION. System control: control registers, ISYNC, SLEEP, HALT, BKPT and ERET (01 R27, R28; 12 R239 to R243). The meanings of major 0x3F and of SLEEP_EXPIRY. -/

namespace Sys2Proof.Machine

/-! Control registers (Table 1-5) -/

/-- Banks of a role in its list. -/
def roleBanks (ci : Cistern) (r : Role) : Nat :=
  match r with
  | .reg => ci.reg.length | .scr => ci.scr.length | .cac => ci.cac.length | .til => ci.til.length

/-- Banks of a role as ctl.poolroles and POOLQ show them: until a move completes, as they stood before it (R27, R254). -/
def shownBanks (ci : Cistern) (r : Role) : Nat :=
  match ci.move with
  | some m =>
    if m.phase ≠ .prepare then
      if m.donor = r then roleBanks ci r + m.k else if m.recv = r then roleBanks ci r - m.k else roleBanks ci r
    else roleBanks ci r
  | none => roleBanks ci r

/-- ctl.poolroles of a core. -/
def poolRoles (ci : Cistern) : Word :=
  w32 (shownBanks ci .reg + 2 ^ 8 * shownBanks ci .scr + 2 ^ 16 * shownBanks ci .cac + 2 ^ 24 * shownBanks ci .til)

/-- ctl.poolocc of a group. -/
def poolOcc (s : State) (un : UnitSt) : Word :=
  match s.team? un.at_.team with
  | some t => w32 (t.regblk + 2 ^ 8 * (t.scrSize / 1024))
  | none => 0

/-- Value of a control register in a lane. -/
def ctlValue (s : State) (un : UnitSt) (n l : Nat) : DWord :=
  let c := un.ctl
  let wide (w : Word) : DWord := w.setWidth 64
  match n with
  | 0 => wide c.trapcause
  | 1 => c.trapaddr
  | 2 => wide (Tab.get 0 c.trapmask l)
  | 3 => wide (Tab.get 0 c.fpflags l + 256 * c.mflags)
  | 4 => wide c.round
  | 5 => wide c.donemask
  | 6 => dw un.at_.ctx
  | 7 => c.pathsig
  | 8 => c.retired
  | 9 => wide (poolRoles (s.core un.at_.core).ci)
  | 10 => wide (poolOcc s un)
  | 11 => wide (if un.at_.strand then (s.score un.at_.core).sent else (s.core un.at_.core).sent)
  | 12 => wide (if un.at_.strand then (s.score un.at_.core).recv else (s.core un.at_.core).recv)
  | _ => wide (Tab.get 0 c.lfsr l)

/-- Numbers of the 64-bit control registers. -/
def ctlIsWide (n : Nat) : Bool := n == 1 || n == 7 || n == 8

/-- R239; a read of ctl.fpflags waits for the group's matrix instructions (R194). -/
def execCtlr (y : Ctlr) (s : State) : Out :=
  issue (.ctlr y) s (fun x s =>
    let n := y.n.val
    if n = 3 ∧ x.un.at_.strand = false ∧ matrixBusy s x.u x.un = true then park s x.u x.e .matrixDone 1
    else if ctlIsWide n then finish x (writePair s x.u y.d x.lanes (ctlValue s x.un n))
    else finish x (writeOp s x.u y.d x.lanes (fun l => loWord (ctlValue s x.un n l))))

/-- A per-lane control register with the passing lanes written. -/
def setLanes (t : Tab Word) (m : Mask) (f : Nat → Word) : Tab Word := (lanesOf m).foldl (fun t l => Tab.set 0 t l (f l)) t

/-- A value for ctl.lfsr, which never holds zero (R44). -/
def lfsrWord (w : Word) : Word := if w = 0 then 1 else w

/-- A control register written by CTLW: reserved bits ignore the write (Table 1-5, Table 1-6). Bits [12:8] of ctl.fpflags are uniform in a group; of a strand, which has no group and no matrix flags, they read 0 and ignore the write, as no rule gives them a meaning there DESIGN CHOICE. -/
def writeCtl (un : UnitSt) (n : Nat) (m : Mask) (f : Nat → DWord) : UnitSt :=
  let c := un.ctl
  let low := f (lowLane m)
  let word (l : Nat) : Word := loWord (f l)
  let c' := match n with
    | 0 => { c with trapcause := loWord low &&& 0x1FFF }
    | 1 => { c with trapaddr := low }
    | 2 => { c with trapmask := setLanes c.trapmask m (fun l => word l &&& 0x1F) }
    | 3 => { c with fpflags := setLanes c.fpflags m (fun l => word l &&& 0x1F),
                    mflags := if un.at_.strand then c.mflags else (loWord low >>> 8) &&& 0x1F }
    | 4 => { c with round := loWord low &&& 3 }
    | 5 => match un.mode with
      | .handler _ _ => { c with donemask := loWord low }
      | _ => c
    | 13 => { c with lfsr := setLanes c.lfsr m (fun l => lfsrWord (word l)) }
    | _ => c
  { un with ctl := c' }

/-- R239. -/
def execCtlw (y : Ctlw) (s : State) : Out :=
  issue (.ctlw y) s (fun x s =>
    let f (l : Nat) : DWord := if ctlIsWide y.n.val then x.dword s l y.a else (x.word s l y.a).setWidth 64
    finish x (s.modUnit x.u (fun un => writeCtl un y.n.val x.lanes f)))

/-! ISYNC (R240) -/

/-- S-cores whose instruction caches a scope empties. -/
def syncCores (s : State) (un : UnitSt) (scope : Scope) (c : Nat) : Bool :=
  match scope with
  | .clu =>
    match s.team? un.at_.team with
    | some t => match s.cluster? t.cluster with
      | some k => (clusterCores s k).contains c
      | none => decide (c = un.at_.core)
    | none => decide (c = un.at_.core)
  | .die => decide (coreDie c = coreDie un.at_.core)
  | _ => true

/-- The split enters the line of its next instruction afresh. -/
def refetch (s : State) (u e : Nat) : State := s.modUnit u (fun un => un.modSplit e (fun x => { x with line := none }))

/-- R240. -/
def execIsync (y : Isync) (s : State) : Out :=
  issue (.isync y) s (fun x s =>
    let ops := memOps x.un x.e (fun _ => true)
    let s := if x.un.at_.strand then s else releaseCac s x.un
    if ops ≠ [] then park s x.u x.e (.mem ops) fenceStage
    else
      let s := if x.un.at_.strand then s.modScore x.un.at_.core (fun c => { c with lines := [] })
        else { s with cores := s.cores.map (fun (c : Nat × Core) =>
          if syncCores s x.un y.scope c.1 then (c.1, { c.2 with icache := [] }) else c) }
      refetch (finish x s) x.u x.e)

/-! SLEEP (R241) -/

/-- R241. A sleep that pops a q or e register is a synchronising operation when it pops (R384). -/
def execSleep (y : Sleep) (s : State) : Out :=
  issue (.sleep y) s (fun x s =>
    let n := (x.word s x.low y.a).toNat
    if n = 0 ∧ y.ev = false then finish x s
    else
      let s := if isSync x.instr then logSync s x.u x.sp.low x.sp.pc else s
      let s := park (popAll s x.u x.instr) x.u x.e (.sleep s.now (if n = 0 then none else some (s.now + n)) y.ev) 1
      if n = 0 then s else s.later n (.event (.sleepExpiry x.u x.e s.now)))

/-- R241: the time of a sleep is over; halted cycles do not count (R375). -/
def execSleepExpiry (u entry stamp : Nat) (s : State) : Out :=
  .next (match s.unit? u with
    | none => s
    | some un =>
      match un.split? entry with
      | none => s
      | some sp =>
        match sp.wait with
        | some (.sleep t (some upto) _) =>
          if un.stopped || (s.die un.die).frozen then s.later 1 (.event (.sleepExpiry u entry stamp))
          else if t = stamp ∧ upto ≤ s.now ∧ un.halted.isNone then endSleep s u entry else s
        | _ => s)

/-- The sleeps of a unit go on after cycles that do not count: those for which it was halted or not resident (R241, R375). -/
def extendSleep (s : State) (u e h : Nat) (sp : Split) : State :=
  match sp.wait with
  | some (.sleep t (some upto) ev) =>
    (s.modUnit u (fun un => un.modSplit e (fun x => { x with wait := some (.sleep t (some (upto + h)) ev) }))).later
      (upto + h - s.now) (.event (.sleepExpiry u e t))
  | _ => s

/-- Every sleep of a unit. -/
def extendSleeps (s : State) (u h : Nat) : State :=
  match s.unit? u with
  | some un => un.splits.foldl (fun s x => extendSleep s u x.1 h x.2) s
  | none => s

/-! HALT, BKPT and ERET -/

/-- R242, R374. -/
def execHalt (h : Hint) (s : State) : Out :=
  issue (.halt h) s (fun x s =>
    if armed s x.un.cell x.un.at_.ctx then crossTrigger (finish x s) x.u x.un
    else trapPart x s causeBkpt)

/-- R242. -/
def execBkpt (y : CodeImm) (s : State) : Out := issue (.bkpt y) s (fun x s => trapPart x s causeBkpt)

/-- R243. -/
def execEret (h : Hint) (s : State) : Out :=
  issue (.eret h) s (fun x s =>
    match x.un.mode with
    | .handler _ _ => stepTrap (returnFromHandler (countRetired s x.u) x.u x.e) x.u x.e
    | _ => trapHere s x.u x.e causeIllegalOp)

end Sys2Proof.Machine
end

