-- ==== Sys2Proof/Machine/Pools.lean ====
section
/-! DEFINITION. Moving the boundaries of a Cistern and reading its pools (12 R236 to R238; 13 R247, R248, R254 to R260). The meanings of POOLM, POOLW and POOLQ and of the move events but for TILE_FLUSH. -/

namespace Sys2Proof.Machine

/-- Role of a code (R236). -/
def roleOf (n : Nat) : Role :=
  match n % 4 with
  | 0 => .reg | 1 => .scr | 2 => .cac | _ => .til

/-- Code of a role. -/
def Role.code : Role → Nat
  | .reg => 0 | .scr => 1 | .cac => 2 | .til => 3

/-- Fewest banks a role keeps (Table 13-1). -/
def Role.floor : Role → Nat
  | .reg => 8 | .scr => 0 | .cac => 2 | .til => 0

/-- A tile lies in the banks that depart when TIL gives k of n (R255). -/
def tileDeparts (n k t : Nat) : Bool := decide (n - k ≤ t % n) || decide (64 * (n - k) ≤ t)

/-- Open tiles in departing banks, in ascending number. -/
def departingTiles (ci : Cistern) (k : Nat) : List Nat :=
  (ci.tiles.map (·.1)).filter (tileDeparts ci.til.length k)

/-- The code POOLM writes (Table 12-8). -/
def poolStatus (s : State) (un : UnitSt) (w : Nat) (m : PoolMMod) : Nat :=
  let k := s.core un.at_.core
  let donor := roleOf w
  let recv := roleOf (w / 4)
  let n := bits w 9 4
  let right := match s.team? un.at_.team with | some t => t.poolRight | none => false
  if un.at_.gint ≠ 0 ∧ right = false then 7
  else if 1024 ≤ w ∨ n = 0 ∨ donor = recv ∨ (recv = .reg ∧ 32 < k.ci.reg.length + n) then 8
  else if arrayBusy k then 1
  else if roleBanks k.ci donor < donor.floor + n then 2
  else match donor with
    | .scr =>
      if 0 < k.mx.n then 6
      else if !scrFits s un.at_.core (nScr k - n) || (!m.reloc && (teamsOf s un.at_.core).any (fun t => decide (0 < t.2.hiwater))) then 4
      else 0
    | .reg => if regHeld k.ci (k.ci.reg.length - n) && !m.wait then 3 else 0
    | .til => if !m.flush && !(departingTiles k.ci n).isEmpty then 5 else 0
    | .cac => 0

/-- The first frame boundary from a cycle on (R244). -/
def frameFrom (t : Nat) : Nat := (t + 3) / 4 * 4

/-- Prepare has ended before cycle t: Switch begins at the first frame boundary from t on (R254). -/
def planSwitch (s : State) (core t : Nat) : State :=
  (s.modCi core (fun ci => { ci with move := ci.move.map (fun m => { m with due := some (frameFrom t) }) })).later
    (frameFrom t - s.now) (.event (.moveSwitch core))

/-- The flush of a tile is due in cycle t (R255). -/
def flushAt (s : State) (core tile t : Nat) : State :=
  (s.modCi core (fun ci => { ci with move := ci.move.map (fun m => { m with due := some t }) })).later (t - s.now) (.event (.tileFlush core tile))

/-- The phase a move is in, or the flush of its next tile, has come to its end: an event planned for an earlier move of the core ends nothing (R254). -/
def Move.ends (m : Move) (now : Nat) (p : Phase) : Bool :=
  decide (m.phase = p) && (match m.due with | some t => decide (t ≤ now) | none => false)

/-- Dirty lines in each departing CAC bank, by physical bank, and the lines there (Table 13-4). -/
def departingLines (k : Core) (n : Nat) : Tab Nat × List Nat :=
  let cac := k.ci.cac.length
  k.ci.lines.foldl (fun st e =>
    let bank := cacSet k e.2.line % cac
    if cac - n ≤ bank then
      (if e.2.dirty = [] then st.1 else addRows st.1 (k.ci.cac.getD bank 0) 2, e.2.line :: st.2)
    else st) ([], [])

/-- A move is accepted and Prepare begins (R254, R255). -/
def acceptMove (s : State) (un : UnitSt) (w : Nat) (m : PoolMMod) : State :=
  let c := un.at_.core
  let k := s.core c
  let donor := roleOf w
  let n := bits w 9 4
  let tiles := if donor = .til ∧ m.flush = true then departingTiles k.ci n else []
  let mv : Move :=
    { donor := donor, recv := roleOf (w / 4), k := n, team := un.at_.team, reloc := m.reloc,
      wait := decide (donor = .reg) && m.wait && regHeld k.ci (k.ci.reg.length - n), flush := decide (donor = .til) && m.flush,
      phase := .prepare, since := s.now, due := none, tiles := tiles }
  let s := (s.modCi c (fun ci => { ci with move := some mv })).modTeam un.at_.team (fun t => { t with poolw := none })
  match donor with
  | .cac =>
    let d := departingLines k n
    planSwitch (d.2.foldl (fun s l => cacDrop s c l) (handshake s c d.1)) c (s.now + 1 + 4 * largest d.1)
  | .til =>
    match tiles with
    | t :: _ => flushAt { s with draws := s.draws + 1 } c t (s.now + 33 + Config.latency s.draws)
    | [] => planSwitch s c (s.now + 1)
  | _ => if mv.wait then s else planSwitch s c (s.now + 1)

/-- R236. -/
def execPoolm (y : Un PoolMMod) (s : State) : Out :=
  issue (.poolm y) s (fun x s =>
    let w := (x.word s x.low y.a).toNat
    let code := poolStatus s x.un w y.m
    finish x (writeOp (if code = 0 then acceptMove s x.un w y.m else s) x.u y.d x.lanes (fun _ => w32 code)))

/-- R255: a REG .WAIT Prepare ends. -/
def execMoveWaitRelease (core : Nat) (s : State) : Out :=
  .next (match (s.core core).ci.move with
    | some m =>
      if m.wait && decide (m.phase = .prepare) && !regHeld (s.core core).ci ((s.core core).ci.reg.length - m.k) then
        planSwitch (s.modCi core (fun ci => { ci with move := some { m with wait := false } })) core (s.now + 1)
      else s
    | none => s)

/-! Switch, Rebuild, Complete -/

/-- Banks of a role. -/
def roleList (ci : Cistern) (r : Role) : List Nat :=
  match r with
  | .reg => ci.reg | .scr => ci.scr | .cac => ci.cac | .til => ci.til

/-- Sets the list of a role. -/
def setRole (ci : Cistern) (r : Role) (l : List Nat) : Cistern :=
  match r with
  | .reg => { ci with reg := l } | .scr => { ci with scr := l } | .cac => { ci with cac := l } | .til => { ci with til := l }

/-- The lists after a move; banks that SCR receives stand before its n staging banks (R247). -/
def moveBanks (ci : Cistern) (m : Move) (staging : Nat) : Cistern :=
  let from_ := roleList ci m.donor
  let gone := from_.drop (from_.length - m.k)
  let ci := setRole ci m.donor (from_.take (from_.length - m.k))
  let dest := roleList ci m.recv
  let keep := if m.recv = .scr then dest.length - staging else dest.length
  setRole ci m.recv (dest.take keep ++ gone ++ dest.drop keep)

/-- R247, R254: the lists change. -/
def execMoveSwitch (core : Nat) (s : State) : Out :=
  .next (match (s.core core).ci.move with
    | some m =>
      if m.ends s.now .prepare ∧ m.wait = false ∧ m.tiles = [] then
        let s := s.modCore core (fun k => { k with ci := { moveBanks k.ci m k.mx.n with move := some { m with phase := .switch, due := some (s.now + 4) } } })
        s.later 4 (.event (.moveRebuild core))
      else s
    | none => s)

/-- The list of a role before the move whose Switch has changed it. -/
def listBefore (ci : Cistern) (m : Move) (r : Role) (staging : Nat) : List Nat :=
  let l := roleList ci r
  if m.donor = r then
    let recv := roleList ci m.recv
    let keep := recv.length - (if m.recv = .scr then staging else 0)
    l ++ (recv.take keep).drop (keep - m.k)
  else if m.recv = r then
    let keep := l.length - (if r = .scr then staging else 0)
    l.take (keep - m.k) ++ l.drop keep
  else l

/-- Bank index and set of a CAC line under n banks (R251). -/
def cacPlace (n line : Nat) : Nat × Nat := (line % (32 * n) % n, line % (32 * n) / n)

/-- CAC lines whose place changes are written back when dirty, and dropped; the rest keep theirs (R256). Answers the rows each physical bank reads. -/
def rebuildCac (s : State) (core : Nat) (from_ to_ : List Nat) : State × Tab Nat :=
  let lines := (s.core core).ci.lines
  let moved (e : Nat × CacLine) : Bool := decide (cacPlace from_.length e.2.line ≠ cacPlace to_.length e.2.line)
  let rows := (lines.filter (fun e => moved e && decide (e.2.dirty ≠ []))).foldl
    (fun t e => addRows t (from_.getD (cacPlace from_.length e.2.line).1 0) 2) []
  let s := (lines.filter moved).foldl (fun s e => cacDrop s core e.2.line) s
  let s := s.modCi core (fun ci => { ci with
    lines := ci.lines.foldl (fun t e => Tab.put t (e.2.line % (32 * to_.length) * 8 + e.1 % 8) e.2) [] })
  (s, rows)

/-- Rows each physical bank reads and writes when the open tiles move to their places in another list (R252, R256). -/
def rebuildTil (ci : Cistern) (from_ to_ : List Nat) : Tab Nat :=
  let at_ (l : List Nat) (t : Nat) : Nat × Nat := (l.getD (t % l.length) 0, t / l.length)
  if from_ = [] ∨ to_ = [] then [] else
  ci.tiles.foldl (fun t e =>
    let p := at_ from_ e.1
    let q := at_ to_ e.1
    if p = q then t else addRows (addRows t p.1 8) q.1 8) []

/-- Lays out again the roles that a move has changed: the state, and the rows each physical bank reads and writes (R256). -/
def rebuild (s : State) (core : Nat) (m : Move) : State × Tab Nat :=
  let changed (r : Role) : Bool := decide (m.donor = r) || decide (m.recv = r)
  let ci := (s.core core).ci
  let n := (s.core core).mx.n
  let old (r : Role) : List Nat := listBefore ci m r n
  let data (l : List Nat) : List Nat := l.take (l.length - n)
  let (s, q1) := if changed .scr then relayout s core (data (old .scr)) (data ci.scr) else (s, [])
  let (s, q2) := if changed .cac then rebuildCac s core (old .cac) ci.cac else (s, [])
  let q3 := if changed .til then rebuildTil ci (old .til) ci.til else []
  (s, sumRows q1 (sumRows q2 q3))

/-- R256: Rebuild takes 4 cycles for each row of the busiest bank, all of it handshake traffic. -/
def execMoveRebuild (core : Nat) (s : State) : Out :=
  .next (match (s.core core).ci.move with
    | some m =>
      if m.ends s.now .switch then
        let r := rebuild s core m
        let q := largest r.2
        let s := handshake (r.1.modCi core (fun ci => { ci with move := some { m with phase := .rebuild, due := some (s.now + 4 * q) } })) core r.2
        if q = 0 then s.soon (.event (.moveComplete core)) else s.later (4 * q) (.event (.moveComplete core))
      else s
    | none => s)

/-- A move ends with an outcome for its team's POOLW (R237); an array whose team has gone meanwhile is released (R184). -/
def endMove (s : State) (core : Nat) (m : Move) (code : Nat) : State :=
  freeGone ((s.modCi core (fun ci => { ci with move := none })).modTeam m.team (fun t => { t with poolw := some code })) core

/-- R254: the move has completed. -/
def execMoveComplete (core : Nat) (s : State) : Out :=
  .next (match (s.core core).ci.move with
    | some m => if m.ends s.now .rebuild then endMove s core m 0 else s
    | none => s)

/-- R237. -/
def execPoolw (y : DstD) (s : State) : Out :=
  issue (.poolw y) s (fun x s =>
    match s.team? x.un.at_.team with
    | some t =>
      match t.poolw with
      | some v => finish x (writeOp s x.u y.d x.lanes (fun _ => w32 v))
      | none => park s x.u x.e .poolw 1
    | none => finish x (writeOp s x.u y.d x.lanes (fun _ => 0)))

/-! POOLQ (R238, R260) -/

/-- Bytes a role has in use on a core. -/
def roleBytes (s : State) (core : Nat) (r : Role) : Nat :=
  let ci := (s.core core).ci
  match r with
  | .reg => 1024 * ci.places.length
  | .cac => 128 * ci.lines.length
  | .scr => (teamsOf s core).foldl (fun n t => n + t.2.hiwater) 0
  | .til => 512 * ci.tiles.length

/-- Cycles that a die has spent in S0 since its bring-up. -/
def s0Cycles (s : State) (d : Nat) : Nat := s.now - (s.die d).power.slept

/-- One cycle more in the sums of a listed core (R260). -/
def tickPools (s : State) (core : Nat) : State :=
  let k := s.core core
  let add (t : Tab Int) (r : Role) (n : Int) : Tab Int := Tab.set 0 t r.code (Tab.get 0 t r.code + n)
  let roles := [Role.reg, .scr, .cac, .til]
  let banks := roles.foldl (fun t r => add t r ((shownBanks k.ci r : Int) - roleBanks Cistern.initial r)) k.ci.sumBanks
  let bytes := roles.foldl (fun t r => add t r (roleBytes s core r)) k.ci.sumBytes
  if banks = k.ci.sumBanks ∧ bytes = k.ci.sumBytes then s
  else s.modCi core (fun ci => { ci with sumBanks := banks, sumBytes := bytes })

/-- Item 4: the move in progress. -/
def moveWord (ci : Cistern) : Nat :=
  match ci.move with
  | none => 0
  | some m =>
    let waits := decide (m.phase = .prepare) && (m.wait || m.flush) ||
      (decide (m.phase = .rebuild) && (decide (m.donor = .scr) || decide (m.recv = .scr)))
    1 + 2 * m.donor.code + 8 * m.recv.code + 32 * m.k + 2048 * b2n waits

/-- The value of an item. -/
def poolItem (s : State) (core : Nat) (r : Role) (item : Nat) : DWord :=
  let ci := (s.core core).ci
  match item with
  | 0 => dw (shownBanks ci r)
  | 1 => dw (roleBytes s core r)
  | 2 => BitVec.ofInt 64 ((s0Cycles s (coreDie core) : Int) * roleBanks Cistern.initial r + Tab.get 0 ci.sumBanks r.code)
  | 3 => BitVec.ofInt 64 (Tab.get 0 ci.sumBytes r.code)
  | _ => dw (moveWord ci)

/-- R238. Items 2 and 3 write a pair, which must lie in the allocation and have no producer pending. -/
def execPoolq (y : Un Unit) (s : State) : Out :=
  issue (.poolq y) s (fun x s =>
    let w := (x.word s x.low y.a).toNat
    let item := bits w 4 2
    let pairItem := decide (item = 2 ∨ item = 3)
    let open_ := (spanOf y.d 2).filter (fun o => decide (feOf x.un o = .pending))
    if 32 ≤ w ∨ 5 ≤ item ∨ (pairItem = true ∧ (y.d.pairReg = false ∨ operandLegal s x.un (y.d, 2) = false)) then
      trapHere s x.u x.e causeIllegalOp
    else if pairItem = true ∧ open_ ≠ [] then park s x.u x.e (.settled open_) 0
    else
      let v := poolItem s x.un.at_.core (roleOf w) item
      finish x (if pairItem then writePair s x.u y.d x.lanes (fun _ => v) else writeOp s x.u y.d x.lanes (fun _ => loWord v)))

/-! Return of the role lists (R248) -/

/-- The last team of a core has left and nothing of a move or of the array stands in the way. -/
def mayReturn (s : State) (core : Nat) : Bool :=
  let k := s.core core
  k.returning && (teamsOf s core).isEmpty && !arrayBusy k && k.mx.exec.isNone && k.mx.holder.isNone

/-- R248. -/
def execRoleListReturn (core : Nat) (s : State) : Out :=
  .next (if !mayReturn s core then s else
    let s := writebackAll s core
    s.modCore core (fun k => { k with
      ci := { k.ci with reg := Cistern.initial.reg, scr := Cistern.initial.scr, cac := Cistern.initial.cac,
                        til := Cistern.initial.til, lines := [], tiles := [] },
      limit := 128, returning := false }))

end Sys2Proof.Machine
end

