-- ==== Sys2Proof/Machine/Services.lean ====
section
/-! DEFINITION. Requests to the pooled render services: their packets, acceptance and END records, and fences on surfaces (09 R177; 12 R235; 17 R323 to R329, R333). The meanings of SVC, FENCE.SURF, SERVICE_ACCEPT and END_RECORD. -/

namespace Sys2Proof.Machine

/-! Surfaces (Table 17-4) -/

/-- A registered surface. -/
structure Surf where
  base : Nat
  w : Nat
  h : Nat
  pitch : Nat
  fmt : Nat
  target : Bool
  sampled : Bool
  deriving DecidableEq, Repr

/-- Bytes of a pixel of a format. -/
def fmtBytes (f : Nat) : Nat := if f = 1 ∨ f = 3 then 8 else 4

/-- Bytes of a pixel of a surface. -/
def Surf.bpp (f : Surf) : Nat := fmtBytes f.fmt

/-- Address of a pixel. -/
def Surf.at_ (f : Surf) (x y : Nat) : Nat := f.base + y * f.pitch + x * f.bpp

/-- Reads a surface entry of 32 bytes; none when it is not registered (R326). -/
def parseSurf (bs : List Byte) : Option Surf :=
  let f (o n : Nat) : Nat := leAt bs o n
  let w := f 8 2
  let h := f 10 2
  if f 0 8 ≠ 0 ∧ f 0 8 % 64 = 0 ∧ (1 ≤ w ∧ w ≤ 8192) ∧ (1 ≤ h ∧ h ≤ 8192) ∧ f 16 1 ≤ 4 ∧ f 12 4 % 64 = 0 ∧
      w * fmtBytes (f 16 1) ≤ f 12 4 ∧ f 17 1 < 4 ∧ f 18 14 = 0 ∧ canonical (f 0 8) = true then
    some ⟨f 0 8, w, h, f 12 4, f 16 1, bit (f 17 1) 0, bit (f 17 1) 1⟩
  else none

/-- The graphics state block of a context: its address. -/
def gstateOf (s : State) (ctx : Nat) : Nat := rdNat s (entryAt s ctx + 8) 8

/-- The block of a context can be read and has version 1 (Table 17-2). -/
def gstateOk (s : State) (ctx : Nat) : Bool :=
  decide (gstateOf s ctx ≠ 0) &&
    (match rdVirt s ctx (gstateOf s ctx) 64 with | some bs => leAt bs 0 2 == 1 | none => false)

/-- A surface entry of a context as it stands in memory. -/
def readSurf (s : State) (ctx i : Nat) : Option (List Byte) := rdVirt s ctx (gstateOf s ctx + 64 + 32 * i) 32

/-- A surface as a request read it at its acceptance. -/
def Req.surf (r : Req) (i : Nat) : Option Surf :=
  match Tab.find? r.surfaces i with
  | some bs => parseSurf bs
  | none => none

/-! Packets (Tables 17-5, 17-6, 17-10) -/

/-- A field of a packet. -/
def Req.f (r : Req) (o n : Nat) : Nat := leAt r.packet o n

/-- Bytes a to b of a packet are zero. -/
def Req.zero (r : Req) (a b : Nat) : Bool := r.f a (b + 1 - a) == 0

/-- Packet byte 0. -/
def Req.op (r : Req) : Nat := r.f 0 1

/-- A raster packet breaks Table 17-5 or R327. -/
def rasterBad (r : Req) : Bool :=
  let k := r.f 4 2
  let hs := r.f 6 1
  let homes := if hs = 255 then r.zero 10 15 else decide (hs < 64 ∧ 1 ≤ r.f 14 2 ∧ r.f 14 2 ≤ 64)
  let w := r.f 14 2
  let h := r.f 16 2
  let span := decide (1 ≤ w ∧ w ≤ 8192) && decide (1 ≤ h ∧ h ≤ 8192)
  let til := r.f 8 2 == 1
  !(r.zero 1 1 && r.zero 36 63 &&
    (match r.op with
     | 0 => !r.strand && r.zero 8 9 && r.zero 16 23 && r.zero 32 35 && decide (1 ≤ k ∧ k ≤ 64) && decide (r.f 7 1 ≤ 1) && homes
     | 1 => r.zero 4 5 && r.zero 18 19 && decide (r.f 7 1 ≤ 2) && decide (r.f 8 2 ≤ 1) && span &&
         decide (1 ≤ r.f 20 4 ∧ r.f 20 4 ≤ 65536) && r.f 24 8 % 16 == 0 && til == (hs == 255) &&
         (if til then !r.strand && r.f 10 2 % 8 == 0 && r.f 12 2 % 8 == 0 && w % 8 == 0 && h % 8 == 0 else decide (hs < 64))
     | 2 => !r.strand && r.zero 8 9 && r.zero 16 35 && decide (1 ≤ k ∧ k ≤ 64) && decide (r.f 7 1 ≤ 1) && homes
     | 3 => !r.strand && r.zero 6 35 && decide (1 ≤ k ∧ k ≤ 64)
     | 4 => r.zero 2 5 && r.zero 7 9 && r.zero 18 23 && r.zero 32 35 && decide (hs < 64) && span
     | _ => false))

/-- A TRACE packet breaks Table 17-6. -/
def traceBad (r : Req) : Bool :=
  !(r.op == 0 && r.zero 1 1 && decide (1 ≤ r.f 2 2 ∧ r.f 2 2 ≤ 1024) && decide (r.f 4 1 ≤ 1) && decide (r.f 5 1 ≤ 8) &&
    r.zero 6 7 && r.f 16 8 % 32 == 0 && r.f 24 8 % 16 == 0 && r.zero 32 63)

/-- A SAMPLE packet breaks Table 17-10. -/
def sampleBad (r : Req) : Bool :=
  !(r.op == 0 && r.zero 1 1 && decide (1 ≤ r.f 2 2 ∧ r.f 2 2 ≤ 1024) && decide (r.f 4 1 < 64) && decide (r.f 5 1 ≤ 1) &&
    decide (r.f 6 1 ≤ 1) && r.zero 7 7 && r.f 8 8 % 8 == 0 && r.f 16 8 % 16 == 0 && r.zero 24 63)

/-- BAD_PACKET of Table 17-2. -/
def Req.bad (r : Req) : Bool :=
  match r.svc with
  | .ras => rasterBad r
  | .trv => traceBad r
  | .tex => sampleBad r

/-- The request uses the tile store. -/
def Req.usesTiles (r : Req) : Bool := decide (r.svc = .ras) && (decide (r.op = 0 ∨ r.op = 2 ∨ r.op = 3) || (r.op == 1 && r.f 8 2 == 1))

/-- Tiles a request names, in order: first and count (R329). -/
def Req.tileSpan (r : Req) : Nat × Nat :=
  if !r.usesTiles then (0, 0) else (r.f 2 2, if r.op = 1 then r.f 14 2 / 8 * (r.f 16 2 / 8) else r.f 4 2)

/-! Tiles (R327) -/

/-- A tile meets TILE_STATE at a request of a team. -/
def tileOffends (k : Core) (team : Nat) (opens : Bool) (t : Nat) : Bool :=
  let n := k.ci.til.length
  let departs := match k.ci.move with
    | some m => decide (m.donor = .til) && decide (m.phase = .prepare) && tileDeparts n m.k t
    | none => false
  decide (64 * n ≤ t) || departs ||
    (match Tab.find? k.ci.tiles t with
     | some x => opens || decide (x.team ≠ team)
     | none => !opens)

/-- The first tile of a span that offends; numbers past the store offend, so few need be looked at. -/
def firstOffending (k : Core) (r : Req) : Option Nat :=
  let sp := r.tileSpan
  ((List.range (min sp.2 4096)).map (fun i => sp.1 + i)).find? (tileOffends k r.team (r.op == 0))

/-! Acceptance (R323, R326) -/

/-- The surface that a request names in its packet. -/
def Req.named (r : Req) : Option Nat :=
  match r.svc with
  | .ras => if r.op = 3 ∨ r.f 6 1 = 255 then none else some (r.f 6 1)
  | .trv => none
  | .tex => some (r.f 4 1)

/-- The home surfaces of the tiles that a request names. -/
def homesOf (k : Core) (r : Req) : List Nat :=
  if r.svc = .ras ∧ ((r.op = 1 ∧ r.usesTiles = true) ∨ (r.op = 2 ∧ r.f 6 1 = 255)) then
    ((List.range (min r.tileSpan.2 4096)).filterMap (fun i =>
      match Tab.find? k.ci.tiles (r.tileSpan.1 + i) with
      | some t => t.home.map (·.1)
      | none => none)).eraseDups
  else []

/-- The surface a packet names serves the request (R329, R338). -/
def namedOk (r : Req) : Bool :=
  match r.named with
  | none => true
  | some i =>
    match r.surf i with
    | none => false
    | some f =>
      match r.svc with
      | .ras => f.target && (decide (r.op ≠ 1) || f.fmt == 3)
      | _ => f.sampled && decide (f.fmt = 0 ∨ f.fmt = 1 ∨ f.fmt = 4)

/-- An open tile serves a DRAW or a RESOLVE: pixel size and destination (R329). -/
def tileServes (r : Req) (t : Tile) : Bool :=
  match r.op with
  | 1 => t.bpp == 8 && (match t.home with
      | none => true
      | some h => match r.surf h.1 with | some f => f.fmt == 3 | none => false)
  | 2 =>
    match r.named with
    | some i => (match r.surf i with | some f => f.bpp == t.bpp | none => false)
    | none => match t.home with
      | none => true
      | some h => match r.surf h.1 with | some f => f.target && f.bpp == t.bpp | none => false
  | _ => true

/-- Every tile of a request serves it. -/
def tilesServe (k : Core) (r : Req) : Bool :=
  !r.usesTiles || decide (r.op = 0) || (List.range (min r.tileSpan.2 4096)).all (fun i =>
    match Tab.find? k.ci.tiles (r.tileSpan.1 + i) with
    | some t => tileServes r t
    | none => true)

/-- The request with the surface entries it needs, read now; none when one cannot be read. -/
def withSurfaces (s : State) (r : Req) : Option Req :=
  let need := (match r.named with | some i => [i] | none => []) ++ homesOf (s.core r.core) r
  need.foldl (fun acc i => match acc, readSurf s r.ctx i with
    | some r, some bs => some { r with surfaces := Tab.put r.surfaces i bs }
    | _, _ => none) (some r)

/-- Status, word 4 and the request as it is accepted: BAD_PACKET, BAD_GSTATE, BAD_SURFACE and TILE_STATE, in that order (Table 17-2). -/
def judge (s : State) (r : Req) : Nat × Nat × Req :=
  if r.bad then (1, 0, r)
  else if !gstateOk s r.ctx then (5, 0, r)
  else match withSurfaces s r with
    | none => (5, 0, r)
    | some r =>
      if !namedOk r then (2, 0, r)
      else match firstOffending (s.core r.core) r with
        | some t => (3, t, r)
        | none => if !tilesServe (s.core r.core) r then (2, 0, r) else (0, 0, r)

/-- Units of a kind on a die (Table 20-3). -/
def serviceUnits (s : State) (d : Nat) : SvcKind → Nat
  | .ras => identField s (47 + 32 * d) 1
  | .trv => identField s (48 + 32 * d) 1
  | .tex => identField s (49 + 32 * d) 1

/-- A request of the die, by number. -/
def req? (s : State) (d k : Nat) : Option Req := Tab.find? (s.die d).reqs k

/-- Rewrites a request. -/
def modReq (s : State) (d k : Nat) (f : Req → Req) : State := s.modDie d (fun x => { x with reqs := Tab.modify x.reqs k f })

/-- The event that does the work of a request. -/
def Req.event (r : Req) (d k : Nat) : Event :=
  match r.svc with
  | .ras => match r.op with | 0 => .rasterOpen d k | 1 => .draw d k | 2 => .resolve d k | 3 => .rasterClose d k | _ => .clear d k
  | .trv => .trace d k
  | .tex => .sample d k

/-- The request ends with a status; its END record follows. -/
def endReq (s : State) (d k status where_ : Nat) : State :=
  (modReq s d k (fun r => { r with st := .done, status := status, where_ := where_ })).laterFree (.endRecord d k)

/-- A tile as OPEN leaves it before its pixels are written: owner, home and pixel size; its bytes have no stated value (R330). -/
def openTile (s : State) (r : Req) (i : Nat) : State :=
  let t := r.f 2 2 + i
  let tw := r.f 14 2
  let home := if r.f 6 1 = 255 then none else some (r.f 6 1, r.f 10 2 + i % tw, r.f 12 2 + i / tw)
  let bpp := match r.surf (r.f 6 1) with | some f => f.bpp | none => 8
  let data := (List.range 512).foldl (fun m j => Tab.set 0 m j (Config.freeByte (s.draws + j))) []
  { (s.modCi r.core (fun ci => { ci with tiles := Tab.put ci.tiles t ⟨r.team, home, bpp, data⟩ })) with draws := s.draws + 512 }

/-- A request may be accepted now: a unit of its kind is free, an earlier request of its issuer is not pending, and an OPEN waits for a move of its core to end (R235, R323, R328, Table 13-5). -/
def mayAccept (s : State) (d k : Nat) (r : Req) : Bool :=
  let x := s.die d
  let busy := (x.reqs.filter (fun (e : Nat × Req) => decide (e.2.svc = r.svc) && decide (e.2.st = .accepted))).length
  decide (busy < serviceUnits s d r.svc) && !x.frozen &&
    !x.reqs.any (fun (e : Nat × Req) => decide (e.1 < k) && decide (e.2.unit = r.unit) && decide (e.2.st = .pending)) &&
    !(r.usesTiles && decide (r.op = 0) && (s.core r.core).ci.move.isSome)

/-- The part obtains the lines of the graphics state that an acceptance reads (R264). -/
def obtainState (s : State) (ctx : Nat) (surfaces : List Nat) : State :=
  if gstateOf s ctx = 0 then s else
  surfaces.foldl (fun s i => obtainVirt s ctx (gstateOf s ctx + 64 + 32 * i) 32) (obtainVirt s ctx (gstateOf s ctx) 64)

/-- R323. A raster request names its tiles even where it ends with TILE_STATE, BAD_SURFACE or BAD_GSTATE, so that later ones wait for its record (R333); numbers past any store name no tile. -/
def execServiceAccept (die k : Nat) (s : State) : Out :=
  .next (match req? s die k with
    | none => s
    | some r =>
      if r.st ≠ .pending then s
      else if !mayAccept s die k r then s.later 1 (.event (.serviceAccept die k))
      else
        let n := (s.die die).nextOrder
        let j := judge s r
        let s := obtainState s r.ctx (j.2.2.surfaces.map (·.1))
        let sp := r.tileSpan
        let r := { j.2.2 with
          st := .accepted, order := n, accepted := s.now,
          tiles := if j.1 = 1 then [] else (List.range (min sp.2 4096)).map (fun i => sp.1 + i) }
        let s := s.modDie die (fun x => { x with reqs := Tab.put x.reqs k r, nextOrder := n + 1 })
        if j.1 ≠ 0 then endReq s die k j.1 j.2.1
        else
          let s := if r.svc = .ras ∧ r.op = 0 then (List.range sp.2).foldl (fun s i => openTile s r i) s else s
          s.laterFree (r.event die k))

/-! END records (R324, R325) -/

/-- Code of a service in Table 17-1. -/
def svcNumber : SvcKind → Nat
  | .ras => 0 | .trv => 1 | .tex => 2

/-- The five words of an END record. -/
def endWords (r : Req) : List Word :=
  [r.no, w32 (r.status + 256 * svcNumber r.svc + 1024 * (r.op % 64)), w32 r.count, w32 r.aux, w32 r.where_]

/-- R324: the record goes to the reply queue that the SVC named. -/
def execEndRecord (die k : Nat) (s : State) : Out :=
  .next (match req? s die k with
    | none => s
    | some r =>
      if r.st ≠ .done then s else
      let s := s.modDie die (fun x => { x with reqs := Tab.del x.reqs k })
      let s := s.modUnit r.unit (fun un => { un with eng := { un.eng with
        svcOut := Tab.set 0 un.eng.svcOut r.rq (Tab.get 0 un.eng.svcOut r.rq - 1) } })
      sendRecord s r.unit (r.rq + 2) (endWords r) r.writes)

/-! The work of an accepted request -/

/-- A request waits for earlier accepted raster requests that name one of its tiles (R333). -/
def Req.blocked (r : Req) (s : State) (d : Nat) : Bool :=
  (s.die d).reqs.any (fun (e : Nat × Req) =>
    decide (e.2.svc = .ras) && decide (e.2.st ≠ .pending) && decide (e.2.order < r.order) && decide (e.2.core = r.core) &&
      e.2.tiles.any (fun t => r.tiles.contains t))

/-- One stretch of the work of a request: the state, what it counts, and the address of the fault that ends it. -/
structure Work where
  s : State
  count : Nat := 0
  aux : Nat := 0
  writes : List (Nat × Nat) := []
  fault : Option Nat := none
  deriving DecidableEq, Repr

/-- The global line that holds a written byte joins the announced runs. -/
def Work.note (w : Work) (pa : Nat) : Work :=
  let l := (pa / 128 * 128, 128)
  if w.writes.contains l then w else { w with writes := l :: w.writes }

/-- Rows of TIL that a stretch of a request's work writes: all of a tile that it opens, else those it changes (R245). -/
def tileRows (a b : State) (r : Req) : List (Nat × Nat × Nat) :=
  r.tiles.flatMap (fun t =>
    match Tab.find? (a.core r.core).ci.tiles t, Tab.find? (b.core r.core).ci.tiles t with
    | some x, some y =>
      (List.range 8).filterMap (fun i =>
        if r.op = 0 && t == r.f 2 2 + r.pos ||
            (List.range 64).any (fun j => decide (Tab.get 0 x.data (64 * i + j) ≠ Tab.get 0 y.data (64 * i + j)))
        then rowAt b r.core (.til r.core (512 * t + 64 * i)) else none)
    | _, _ => [])

/-- One event of a request of a kind: it waits for its tiles, for a TIL move and for the rows of TIL that its last stretch has written to be served, does the next stretch of its work, and goes on until all is done or a fault ends it (R324, R333, Table 13-5). Tiles that an earlier request has closed meanwhile meet TILE_STATE (R327). -/
def serve (s : State) (d k : Nat) (f : Req → Bool) (total : Req → Nat) (body : State → Req → Work) : State :=
  match req? s d k with
  | none => s
  | some r =>
    if r.st ≠ .accepted ∨ f r = false then s
    else if (r.pos = 0 ∧ r.blocked s d = true) ∨ (r.usesTiles = true ∧ roleMoving (s.core r.core) .til = true) then
      s.later 1 (.event (r.event d k))
    else withSlots s (.req d k) .arrival [] (fun s => s.later 1 (.event (r.event d k))) (fun s =>
      if r.pos ≠ 0 ∧ total r ≤ r.pos then endReq s d k 0 0 else
      let gone := if r.pos = 0 then r.tiles.find? (fun t => match Tab.find? (s.core r.core).ci.tiles t with
          | some x => decide (x.team ≠ r.team)
          | none => true) else none
      match gone with
      | some t => endReq s d k 3 t
      | none => go s r)
where
  /-- The next stretch. -/
  go (s : State) (r : Req) : State :=
    let w := body s r
    let rows := tileRows s w.s r
    let s := modReq w.s d k (fun r => { r with
      pos := r.pos + 1, count := r.count + w.count, aux := r.aux + w.aux,
      writes := r.writes ++ w.writes.filter (fun l => !r.writes.contains l) })
    match w.fault with
    | some a => endReq s d k 4 (a % 2 ^ 32)
    | none =>
      if r.pos + 1 < total r ∨ rows ≠ [] then (askSlots s (.req d k) .arrival rows).laterFree (r.event d k) else endReq s d k 0 0

/-- Bytes of a context's memory as a service reads them: the bytes and whether one is poisoned, or the address that faults (R323, R398). -/
def fetchSpan (s : State) (ctx va n : Nat) : Except Nat (List Byte × Bool) :=
  (List.range n).foldl (fun acc i => match acc with
    | .error a => .error a
    | .ok (bs, p) =>
      match xlate s ctx ((va + i) % 2 ^ 64) false with
      | .ok pa => .ok (bs ++ [rd8 s pa], p || poisoned s pa 1)
      | _ => .error ((va + i) % 2 ^ 64)) (.ok ([], false))

/-- Bytes that a service writes to a context's memory as one write, poisoned where what it read was (R398). -/
def Work.put (w : Work) (ctx va : Nat) (bs : List Byte) (poison : Bool) : Work :=
  match xlate w.s ctx va true with
  | .ok pa =>
    let s := sliceWrite w.s (run pa bs)
    let s := if poison then setPoison s ((List.range bs.length).map (fun i => pa + i)) else s
    { w with s := s }.note pa
  | _ => { w with fault := some va }

/-- VisMin at a pixel of a surface: an ATOM.VISMIN event at its home slice (R173, R332). -/
def Work.vismin (w : Work) (ctx va key : Nat) (poison : Bool) : Work :=
  match xlate w.s ctx va true with
  | .ok pa =>
    let bad := poison || poisoned w.s pa 8
    let s := sliceWrite w.s (run pa (bytesOf 8 (min key (rdNat w.s pa 8))))
    let s := if bad then setPoison s [pa] else s
    { w with s := s }.note pa
  | _ => { w with fault := some va }

/-! SVC (R235) -/

/-- A request is passed to the services of the die: it is pending until one accepts it. -/
def newRequest (x : Issue) (s : State) (y : Svc) (packet : List Byte) : State :=
  let d := x.un.die
  let k := (s.die d).nextReq
  let r : Req :=
    { unit := x.u, strand := x.un.at_.strand, team := x.un.at_.team, core := x.un.at_.core, ctx := x.un.at_.ctx, svc := y.svc,
      rq := y.rq.val, no := x.un.eng.svcNo, packet := packet, st := .pending, status := 0, count := 0, aux := 0, where_ := 0,
      order := 0, accepted := 0, tiles := [], surfaces := [], pos := 0, writes := [] }
  let s := s.modDie d (fun z => { z with reqs := Tab.put z.reqs k r, nextReq := k + 1 })
  let s := s.modUnit x.u (fun un => { un with eng := { un.eng with
    svcNo := un.eng.svcNo + 1, svcOut := Tab.set 0 un.eng.svcOut r.rq (Tab.get 0 un.eng.svcOut r.rq + 1) } })
  park (s.laterFree (.serviceAccept d k)) x.u x.e (.svcAccept k r.no) 1

/-- The packet is checked and read once fewer than 32 requests are outstanding on the queue. -/
def sendRequest (x : Issue) (s : State) (y : Svc) (adr : DWord) : State :=
  match checkLane s x x.sp (if y.s.isNone then .scr else .glob) true false adr 64 with
  | .need p => park (requestWalk s x.un.cell x.un.at_.ctx p) x.u x.e (.walkFor p adr) 1
  | .halt => haltAccess x s
  | .bad c a r => takeTrap s x.u x.e { cause := c, pc := x.sp.pc, addr := a, flags := faultFlags false r }
  | .wait c => park s x.u x.e (.space c) 0
  | .ok p =>
    if 32 ≤ Tab.get 0 x.un.eng.svcOut y.rq.val then park s x.u x.e (.svcRoom y.rq.val adr) 1
    else
      let s := clearPass x (releaseCac s x.un)
      let s := match p with | .glob pa => obtainRead s pa | _ => s
      let s := match y.s, lookup s x.un false adr.toNat with
        | some _, some t => fillFirst s x.un false t
        | _, _ => s
      newRequest x s y (rdPlaces s p 64)

/-- R235, R364. -/
def execSvc (y : Svc) (s : State) : Out :=
  issue (.svc y) s (fun x s =>
    match x.sp.stage, x.sp.wait with
    | 1, some (.svcAccept k no) =>
      match req? s x.un.die k with
      | some r =>
        if r.st = .pending then park s x.u x.e (.svcAccept k no) 1
        else finish x (writeOp s x.u y.d x.lanes (fun _ => no))
      | none => finish x (writeOp s x.u y.d x.lanes (fun _ => no))
    | 1, some (.walkFor _ a) => sendRequest x s y a
    | 1, some (.svcRoom _ a) => sendRequest x s y a
    | _, _ =>
      let adr := match y.s with
        | some r => globalAddr x s x.low y.base y.off y.a64 r
        | none => offsetAddr x s x.low y.base y.off
      if y.s.isSome && computePhase s x.un then stepLocal x s adr
      else if adr.toNat % 64 ≠ 0 then takeTrap s x.u x.e { cause := causeMisaligned, pc := x.sp.pc, addr := adr }
      else sendRequest x s y adr)

/-! FENCE.SURF (R177) -/

/-- The bases of the surfaces a request writes. -/
def Req.bases (r : Req) : List Nat :=
  if decide (r.svc = .ras) && decide (r.op = 1 ∨ r.op = 2 ∨ r.op = 4) then
    r.surfaces.filterMap (fun e => (parseSurf e.2).map (·.base))
  else []

/-- The address is the base of a registered surface of a context. -/
def isSurface (s : State) (ctx a : Nat) : Bool :=
  gstateOk s ctx && (List.range 64).any (fun i =>
    match readSurf s ctx i with
    | some bs => (match parseSurf bs with | some f => f.base == a | none => false)
    | none => false)

/-- Accepted requests of a context that may still write the surface at a base: die and number. -/
def surfaceReqs (s : State) (ctx a : Nat) : List (Nat × Nat) :=
  dies4.flatMap (fun d => (s.die d).reqs.filterMap (fun (e : Nat × Req) =>
    if decide (e.2.ctx = ctx) && decide (e.2.st = .accepted) && e.2.bases.contains a then some (d, e.1) else none))

/-- The requests of a list that are still being performed. -/
def stillServed (s : State) (l : List (Nat × Nat)) : List (Nat × Nat) :=
  l.filter (fun e => match req? s e.1 e.2 with | some r => decide (r.st = .accepted) | none => false)

/-- R177, R364: an acquire fence that also waits for the passes accepted before it that write the surface. -/
def execFenceSurf (y : FenceSurf) (s : State) : Out :=
  issue (.fenceSurf y) s (fun x s =>
    let a := x.dword s x.low y.base + y.off.signExtend 64
    let live (l : List Nat) : List Nat := l.filter (fun k => (Tab.find? x.un.ops k).isSome)
    match x.sp.stage, x.sp.wait with
    | 2, some (.surface reqs ops) =>
      if stillServed s reqs ≠ [] ∨ live ops ≠ [] then park s x.u x.e (.surface reqs ops) fenceStage
      else finish x (acquireCac s x.un)
    | _, _ =>
      if computePhase s x.un then stepLocal x s a
      else
        let ops := memOps x.un x.e (fun _ => true)
        let reqs := if isSurface s x.un.at_.ctx a.toNat then surfaceReqs s x.un.at_.ctx a.toNat else []
        if ops ≠ [] ∨ reqs ≠ [] then park s x.u x.e (.surface reqs ops) fenceStage
        else finish x (acquireCac s x.un))

end Sys2Proof.Machine
end

