-- ==== Sys2Proof/Machine/Raster.lean ====
section
/-! DEFINITION. The rasteriser, tile flushes and the settling of moves (13 R255, R259; 17 R328 to R332). -/

namespace Sys2Proof.Machine

/-! Exact arithmetic on FP32 values (R331) -/

/-- A finite FP32 value in units of 2^-149. -/
def unitsOf (b : Nat) : Option Int :=
  match fmtF32.decode b with
  | .num neg m e => some (signed neg (m * 2 ^ (e + 149).toNat))
  | _ => none

/-- RoundFP32RNE of the quotient n / d, in units of 2^e, with d positive. A zero quotient is +0. -/
def roundQuot (n : Int) (d : Nat) (e : Int) : Nat :=
  if n = 0 then 0 else
  let k := Nat.log2 d + 64 - Nat.log2 n.natAbs
  let x := n.natAbs * 2 ^ k
  let m := 2 * (x / d) + b2n (decide (x % d ≠ 0))
  (fmtF32.deliver .rne false (.num (decide (n < 0)) m (e - k - 1))).1

/-- The same for a denominator of either sign. -/
def roundRatio (n d : Int) (e : Int) : Nat := roundQuot (if d < 0 then -n else n) d.natAbs e

/-- A vertex, in units of 2^-149. -/
structure Vertex where
  x : Int
  y : Int
  z : Int
  deriving DecidableEq, Repr

/-- Reads a vertex of 16 bytes; none when a coordinate is NaN or infinite. -/
def parseVertex (bs : List Byte) : Option Vertex :=
  match unitsOf (leAt bs 0 4), unitsOf (leAt bs 4 4), unitsOf (leAt bs 8 4) with
  | some x, some y, some z => some ⟨x, y, z⟩
  | _, _, _ => none

/-- E of R331 for the edge from a to b at a point. -/
def edgeAt (a b : Vertex) (px py : Int) : Int := (b.x - a.x) * (py - a.y) - (b.y - a.y) * (px - a.x)

/-- The edge test of R331 for a triangle of sign sg. -/
def insideEdge (sg : Int) (a b : Vertex) (e : Int) : Bool :=
  decide (0 < sg * e) ||
    (decide (e = 0) && (decide (0 < sg * (b.y - a.y)) || (decide (b.y = a.y) && decide (sg * (b.x - a.x) < 0))))

/-- Centre of a pixel, in units of 2^-149. -/
def centre (p : Nat) : Int := (2 * (p : Int) + 1) * 2 ^ 148

/-- A triangle with its area and sign. -/
structure Tri where
  a : Vertex
  b : Vertex
  c : Vertex
  ar : Int
  deriving DecidableEq, Repr

/-- The fragment of a triangle at a pixel: its depth as FP32 bits; none outside (R331). -/
def fragment (t : Tri) (px py : Nat) : Option Nat :=
  let x := centre px
  let y := centre py
  let sg : Int := if t.ar < 0 then -1 else 1
  let e0 := edgeAt t.b t.c x y
  let e1 := edgeAt t.c t.a x y
  let e2 := edgeAt t.a t.b x y
  if insideEdge sg t.b t.c e0 && insideEdge sg t.c t.a e1 && insideEdge sg t.a t.b e2 then
    some (roundRatio (e0 * t.a.z + e1 * t.b.z + e2 * t.c.z) t.ar (-149))
  else none

/-- A triangle that the cull mode keeps (R331). -/
def keepTri (cull : Nat) (a b c : Vertex) : Option Tri :=
  let ar := edgeAt a b c.x c.y
  if ar = 0 ∨ (cull = 1 ∧ ar < 0) ∨ (cull = 2 ∧ 0 < ar) then none else some ⟨a, b, c, ar⟩

/-! Where pixels lie -/

/-- The clipped region of a DRAW or CLEAR: x, y, width, height (R329). -/
def Req.region (r : Req) (f : Option Surf) : Nat × Nat × Nat × Nat :=
  let x := r.f 10 2
  let y := r.f 12 2
  match f with
  | some f => (x, y, min (r.f 14 2) (f.w - x), min (r.f 16 2) (f.h - y))
  | none => (x, y, r.f 14 2, r.f 16 2)

/-- Place of a pixel in the tiles of a DRAW (R329, R327). -/
def tilePixel (r : Req) (px py : Nat) : Place :=
  let x := px - r.f 10 2
  let y := py - r.f 12 2
  .til r.core ((r.f 2 2 + y / 8 * (r.f 14 2 / 8) + x / 8) * 512 + (8 * (y % 8) + x % 8) * 8)

/-- VisMin at a pixel of the tile store (R332). -/
def Work.tileMin (w : Work) (p : Place) (key : Nat) (poison : Bool) : Work :=
  let bad := poison || poisonedAt w.s p 8
  let s := wrPlaces w.s (placeRun p (bytesOf 8 (min key (ofBytes (rdPlaces w.s p 8)))))
  { w with s := if bad then poisonPlaces s [p] else s }

/-- One pixel of a triangle (R331, R332). A FAULT ends the request at that pixel, which is not counted. -/
def drawPixel (r : Req) (f : Option Surf) (t : Tri) (prim : Nat) (poison : Bool) (w : Work) (px py : Nat) : Work :=
  if w.fault.isSome then w else
  match fragment t px py with
  | none => w
  | some z =>
    if z = 0x80000000 ∨ z < 0x80000000 ∧ z ≤ 0x7F800000 then
      let key := z % 2 ^ 31 * 2 ^ 32 + prim % 2 ^ 32
      let w' := match f with
        | some f => w.vismin r.ctx (f.at_ px py) key poison
        | none => w.tileMin (tilePixel r px py) key poison
      if w'.fault.isSome then w' else { w' with count := w'.count + 1 }
    else { w with count := w.count + 1, aux := w.aux + 1 }

/-- Every pixel of a region in ascending y, then x. -/
def overRegion (g : Nat × Nat × Nat × Nat) (f : Work → Nat → Nat → Work) (w : Work) : Work :=
  (List.range g.2.2.2).foldl (fun w j => (List.range g.2.2.1).foldl (fun w i => f w (g.1 + i) (g.2.1 + j)) w) w

/-- The target surface of a DRAW or CLEAR; none for tiles. -/
def Req.target (r : Req) : Option Surf := match r.named with | some i => r.surf i | none => none

/-- Triangle i of a DRAW (R331, R332). -/
def drawTri (s : State) (r : Req) : Work :=
  let s := obtainVirt s r.ctx ((r.f 24 8 + 48 * r.pos) % 2 ^ 64) 48
  match fetchSpan s r.ctx ((r.f 24 8 + 48 * r.pos) % 2 ^ 64) 48 with
  | .error a => { s := s, fault := some a }
  | .ok (bs, poison) =>
    match parseVertex (bs.take 16), parseVertex ((bs.drop 16).take 16), parseVertex ((bs.drop 32).take 16) with
    | some a, some b, some c =>
      match keepTri (r.f 7 1) a b c with
      | none => { s := s, aux := 1 }
      | some t => overRegion (r.region r.target) (drawPixel r r.target t (r.f 32 4 + r.pos) poison) { s := s }
    | _, _, _ => { s := s, aux := 1 }

/-- R331. -/
def execDraw (die k : Nat) (s : State) : Out :=
  .next (serve s die k (fun r => decide (r.svc = .ras) && r.op == 1) (fun r => r.f 20 4) drawTri)

/-! OPEN, RESOLVE, CLOSE, CLEAR (R330) -/

/-- Bytes of a tile from a pixel on, with its pixel size. -/
def pixelPlace (core t p bpp : Nat) : Place := .til core (t * 512 + p * bpp)

/-- Tile i of an OPEN is filled, or loaded from its home. -/
def openPixels (s : State) (r : Req) : Work :=
  let t := r.f 2 2 + r.pos
  match Tab.find? (s.core r.core).ci.tiles t with
  | none => { s := s, count := 1 }
  | some tile =>
    let fill := bytesOf tile.bpp (r.f 24 8)
    let src := match tile.home with
      | some h => if r.f 7 1 = 1 then (r.surf h.1).map (fun f => (f, 8 * h.2.1, 8 * h.2.2)) else none
      | none => none
    let put (w : Work) (p : Nat) (bs : List Byte) (poison : Bool) : Work :=
      let pl := pixelPlace r.core t p tile.bpp
      let s := wrPlaces w.s (placeRun pl bs)
      { w with s := if poison then poisonPlaces s [pl] else s }
    let w := (List.range 64).foldl (fun (w : Work) p =>
      if w.fault.isSome then w else
      match src with
      | none => put w p fill false
      | some (f, x0, y0) =>
        let x := x0 + p % 8
        let y := y0 + p / 8
        if x < f.w ∧ y < f.h then
          let w := { w with s := obtainVirt w.s r.ctx (f.at_ x y) tile.bpp }
          match fetchSpan w.s r.ctx (f.at_ x y) tile.bpp with
          | .ok (bs, poison) => put w p bs poison
          | .error a => { w with fault := some a }
        else put w p fill false) { s := s }
    if w.fault.isSome then w else { w with count := 1 }

/-- R330. -/
def execRasterOpen (die k : Nat) (s : State) : Out :=
  .next (serve s die k (fun r => decide (r.svc = .ras) && r.op == 0) (fun r => r.f 4 2) openPixels)

/-- One pixel written to a surface: a VISMIN event at a VIS64 pixel, else a store (R330). -/
def Work.pixel (w : Work) (ctx : Nat) (f : Surf) (x y : Nat) (bs : List Byte) (poison : Bool) : Work :=
  if w.fault.isSome then w else
  let w' := if f.fmt = 3 then w.vismin ctx (f.at_ x y) (ofBytes bs) poison else w.put ctx (f.at_ x y) bs poison
  if w'.fault.isSome then w' else { w' with count := w'.count + 1 }

/-- The pixels of a tile that lie inside a surface are written to it, with tile coordinates (R330). -/
def tileOut (w : Work) (ctx core t bpp : Nat) (f : Surf) (hx hy : Nat) : Work :=
  (List.range 64).foldl (fun w p =>
    let x := 8 * hx + p % 8
    let y := 8 * hy + p / 8
    if x < f.w ∧ y < f.h then
      let pl := pixelPlace core t p bpp
      w.pixel ctx f x y (rdPlaces w.s pl bpp) (poisonedAt w.s pl bpp)
    else w) w

/-- A tile is closed without a write. -/
def closeTile (s : State) (core t : Nat) : State := s.modCi core (fun ci => { ci with tiles := Tab.del ci.tiles t })

/-- Tile i of a RESOLVE. -/
def resolveTile (s : State) (r : Req) : Work :=
  let t := r.f 2 2 + r.pos
  match Tab.find? (s.core r.core).ci.tiles t with
  | none => { s := s }
  | some tile =>
    let tw := r.f 14 2
    let dst := match r.named with
      | some i => (r.surf i).map (fun f => (f, r.f 10 2 + r.pos % tw, r.f 12 2 + r.pos / tw))
      | none => match tile.home with
        | some h => (r.surf h.1).map (fun f => (f, h.2.1, h.2.2))
        | none => none
    let w : Work := match dst with
      | some (f, hx, hy) => tileOut { s := s } r.ctx r.core t tile.bpp f hx hy
      | none => { s := s }
    if w.fault.isNone && bit (r.f 7 1) 0 then { w with s := closeTile w.s r.core t } else w

/-- R330. -/
def execResolve (die k : Nat) (s : State) : Out :=
  .next (serve s die k (fun r => decide (r.svc = .ras) && r.op == 2) (fun r => r.f 4 2) resolveTile)

/-- R330. -/
def execRasterClose (die k : Nat) (s : State) : Out :=
  .next (serve s die k (fun r => decide (r.svc = .ras) && r.op == 3) (fun r => r.f 4 2)
    (fun s r => { s := closeTile s r.core (r.f 2 2 + r.pos), count := 1 }))

/-- One row of a CLEAR. -/
def clearRow (s : State) (r : Req) : Work :=
  match r.target with
  | none => { s := s }
  | some f =>
    let g := r.region r.target
    if g.2.2.2 = 0 then { s := s }
    else overRegion (g.1, g.2.1 + r.pos, g.2.2.1, 1) (fun w x y => w.pixel r.ctx f x y (bytesOf f.bpp (r.f 24 8)) false) { s := s }

/-- R330. -/
def execClear (die k : Nat) (s : State) : Out :=
  .next (serve s die k (fun r => decide (r.svc = .ras) && r.op == 4) (fun r => (r.region r.target).2.2.2) clearRow)

/-! Tile flushes (R255, R328) -/

/-- Raster requests accepted before a cycle that name a tile of a core and have not ended their work. -/
def tileServed (s : State) (core t since : Nat) : Bool :=
  (s.die (coreDie core)).reqs.any (fun (e : Nat × Req) =>
    decide (e.2.st = .accepted) && decide (e.2.core = core) && decide (e.2.accepted < since) && e.2.tiles.contains t)

/-- A tile of a departing bank is written to its home, if that is still registered with its pixel size, and closed (Table 13-4). -/
def flushTile (s : State) (core t : Nat) : State :=
  match Tab.find? (s.core core).ci.tiles t with
  | none => s
  | some tile =>
    let ctx := match s.team? tile.team with | some x => x.ctx | none => 0
    let home : Option (Surf × Nat × Nat) := match tile.home with
      | some h =>
        match if gstateOk s ctx then readSurf s ctx h.1 else none with
        | some bs => match parseSurf bs with
          | some f => if f.bpp = tile.bpp then some (f, h.2.1, h.2.2) else none
          | none => none
        | none => none
      | none => none
    let s := match home with
      | some (f, hx, hy) => (tileOut { s := s } ctx core t tile.bpp f hx hy).s
      | none => s
    closeTile s core t

/-- R255: the next tile of a .FLUSH move, in ascending number; its eight rows are read as handshake traffic (R245). -/
def execTileFlush (core tile : Nat) (s : State) : Out :=
  .next (match (s.core core).ci.move with
    | none => s
    | some m =>
      match m.tiles with
      | [] => s
      | t :: rest =>
        if t ≠ tile ∨ m.ends s.now .prepare = false then s
        else if tileServed s core t m.since then flushAt s core t (s.now + 1)
        else
          let s := match rowAt s core (.til core (512 * t)) with
            | some (c, b, _) => handshake s c [(b, 8)]
            | none => s
          let s := flushTile s core t
          let s := s.modCi core (fun ci => { ci with move := some { m with tiles := rest } })
          match rest with
          | n :: _ => flushAt { s with draws := s.draws + 1 } core n (s.now + 33 + Config.latency s.draws)
          | [] => planSwitch s core (s.now + 1))

/-! Settling a move (R259) -/

/-- A move is settled before a save: it rolls back while it waits in Prepare, a tile flush that has begun being performed first, or completes at once (Table 13-6). -/
def settleMove (s : State) (core : Nat) : State :=
  match (s.core core).ci.move with
  | none => s
  | some m =>
    if m.phase = .prepare ∧ (m.wait = true ∨ (m.flush = true ∧ m.tiles ≠ [])) then
      let s := match m.tiles with
        | t :: _ => if m.since < s.now ∧ tileServed s core t m.since = false then flushTile s core t else s
        | [] => s
      endMove s core m 9
    else
      let s := if m.phase = .prepare then s.modCore core (fun k => { k with ci := moveBanks k.ci m k.mx.n }) else s
      let s := if m.phase = .rebuild then s else (rebuild s core m).1
      endMove s core m 0

end Sys2Proof.Machine
end

