-- ==== Sys2Proof/Machine/Rays.lean ====
section
/-! DEFINITION. The traversal units and the texture filter units (17 R334 to R339). The meanings of TRACE and SAMPLE. -/

namespace Sys2Proof.Machine

/-! Fractions: a numerator and a positive denominator -/

/-- An exact quotient. -/
structure Frac where
  n : Int
  d : Nat
  deriving DecidableEq, Repr

/-- The quotient of two integers, the divisor not 0. -/
def Frac.of (n d : Int) : Frac := if d < 0 then ⟨-n, d.natAbs⟩ else ⟨n, d.natAbs⟩

/-- a ≤ b. -/
def Frac.le (a b : Frac) : Bool := decide (a.n * b.d ≤ b.n * a.d)

/-- a = b. -/
def Frac.same (a b : Frac) : Bool := decide (a.n * b.d = b.n * a.d)

/-! Rays (Table 17-7) -/

/-- A bound of the parameter: minus infinity, a number in units of 2^-149, or plus infinity. -/
inductive Bound where
  | low
  | num (i : Int)
  | high
  deriving DecidableEq, Repr

/-- Reads a bound; none for a NaN. -/
def boundOf (b : Nat) : Option Bound :=
  match fmtF32.decode b with
  | .nan _ => none
  | .inf true => some .low
  | .inf false => some .high
  | .num neg m e => some (.num (signed neg (m * 2 ^ (e + 149).toNat)))

/-- Three coordinates in units of 2^-149. -/
structure Vec where
  x : Int
  y : Int
  z : Int
  deriving DecidableEq, Repr

/-- Three finite FP32 values. -/
def parseVec (bs : List Byte) (o : Nat) : Option Vec :=
  match unitsOf (leAt bs o 4), unitsOf (leAt bs (o + 4) 4), unitsOf (leAt bs (o + 8) 4) with
  | some x, some y, some z => some ⟨x, y, z⟩
  | _, _, _ => none

def Vec.sub (a b : Vec) : Vec := ⟨a.x - b.x, a.y - b.y, a.z - b.z⟩
def Vec.dot (a b : Vec) : Int := a.x * b.x + a.y * b.y + a.z * b.z
def Vec.cross (a b : Vec) : Vec := ⟨a.y * b.z - a.z * b.y, a.z * b.x - a.x * b.z, a.x * b.y - a.y * b.x⟩

/-- A ray. -/
structure Ray where
  o : Vec
  d : Vec
  tmin : Bound
  tmax : Bound
  deriving DecidableEq, Repr

/-- Reads a ray of 32 bytes; none when it is invalid (R334). -/
def parseRay (bs : List Byte) : Option Ray :=
  match parseVec bs 0, parseVec bs 16, boundOf (leAt bs 12 4), boundOf (leAt bs 28 4) with
  | some o, some d, some a, some b => if d = ⟨0, 0, 0⟩ then none else some ⟨o, d, a, b⟩
  | _, _, _, _ => none

/-- The parameter bounds from below and from above as fractions; none when no real parameter satisfies them. -/
def Ray.limits (r : Ray) : Option (List Frac × List Frac) :=
  let lo := match r.tmin with | .low => some [] | .num i => some [⟨i, 2 ^ 149⟩] | .high => none
  let hi := match r.tmax with | .high => some [] | .num i => some [⟨i, 2 ^ 149⟩] | .low => none
  match lo, hi with
  | some a, some b => some (a, b)
  | _, _ => none

/-- Every lower bound is at most every upper bound. -/
def boundsMeet (lo hi : List Frac) : Bool := lo.all (fun a => hi.all (fun b => a.le b))

/-! Boxes (R336) -/

/-- Bounds that one axis of a closed box sets on the parameter; none when the axis is met by nothing. -/
def axisBounds (o d : Int) (lo hi : Bound) : Option (List Frac × List Frac) :=
  let above := match lo with | .low => some [] | .num i => some [i - o] | .high => none
  let below := match hi with | .high => some [] | .num i => some [i - o] | .low => none
  match above, below with
  | some a, some b =>
    if d = 0 then (if a.all (fun x => decide (x ≤ 0)) && b.all (fun x => decide (0 ≤ x)) then some ([], []) else none)
    else
      let a := a.map (fun x => Frac.of x d)
      let b := b.map (fun x => Frac.of x d)
      if 0 < d then some (a, b) else some (b, a)
  | _, _ => none

/-- A box has lo > hi on an axis. -/
def boxEmpty (lo hi : Bound) : Bool :=
  match lo, hi with
  | .high, .high | .low, _ | _, .high => false
  | .num a, .num b => decide (b < a)
  | _, _ => true

/-- One axis of child c of a node, as FP32 bounds. -/
def childAxis (node : List Byte) (c a : Nat) : Option (Bound × Bound) :=
  match boundOf (leAt node (32 * c + 4 * a) 4), boundOf (leAt node (32 * c + 12 + 4 * a) 4) with
  | some lo, some hi => if boxEmpty lo hi then none else some (lo, hi)
  | _, _ => none

/-- The exact segment of a ray meets the closed box of child c of a node (R336). -/
def meetsChild (r : Ray) (node : List Byte) (c : Nat) : Bool :=
  match r.limits, childAxis node c 0, childAxis node c 1, childAxis node c 2 with
  | some l, some x, some y, some z =>
    match axisBounds r.o.x r.d.x x.1 x.2, axisBounds r.o.y r.d.y y.1 y.2, axisBounds r.o.z r.d.z z.1 z.2 with
    | some a, some b, some e => boundsMeet (l.1 ++ a.1 ++ b.1 ++ e.1) (l.2 ++ a.2 ++ b.2 ++ e.2)
    | _, _, _ => false
  | _, _, _, _ => false

/-! Hits (R336) -/

/-- A hit: its parameter, the weights of vertices 1 and 2, its primitive, and where its triangle lies. -/
structure Hit where
  t : Frac
  u : Frac
  v : Frac
  prim : Nat
  leaf : Nat
  j : Nat
  deriving DecidableEq, Repr

/-- The hit of triangle j of a leaf at an address, if there is one. -/
def triHit (r : Ray) (leaf : List Byte) (addr j : Nat) : Option Hit :=
  match r.limits, parseVec leaf (48 * j), parseVec leaf (48 * j + 12), parseVec leaf (48 * j + 24) with
  | some l, some a, some b, some c =>
    let e1 := b.sub a
    let e2 := c.sub a
    let p := r.d.cross e2
    let det := e1.dot p
    if det = 0 then none else
    let w := r.o.sub a
    let q := w.cross e1
    let u := Frac.of (w.dot p) det
    let v := Frac.of (r.d.dot q) det
    let t := Frac.of (e2.dot q) det
    let inside := decide (0 ≤ u.n) && decide (0 ≤ v.n) && decide (u.n + v.n ≤ u.d)
    if inside && boundsMeet l.1 [t] && boundsMeet [t] l.2 then some ⟨t, u, v, leAt leaf (48 * j + 36) 4, addr, j⟩ else none
  | _, _, _, _ => none

/-- Of two hits, the first is reported: least t, then lower primitive, leaf address and j. -/
def Hit.before (a b : Hit) : Bool :=
  if a.t.same b.t then
    decide (a.prim < b.prim) || (decide (a.prim = b.prim) &&
      (decide (a.leaf < b.leaf) || (decide (a.leaf = b.leaf) && decide (a.j < b.j))))
  else a.t.le b.t

/-! Walking a structure (R335, R336) -/

/-- How far the walk of a ray has come: pointers still to follow, those followed, the best hit, poison, and how it ended. -/
structure Walk where
  todo : List Nat
  seen : List Nat := []
  best : Option Hit := none
  poison : Bool := false
  fault : Option Nat := none
  overrun : Bool := false
  deriving DecidableEq, Repr

/-- A pointer that is not read as empty (Table 17-9). -/
def pointerLive (p : Nat) : Bool := decide (p % 8 = 2) || (decide (p % 8 = 1) && !bit p 6)

/-- Follows one pointer. -/
def walkStep (s : State) (ctx : Nat) (r : Ray) (w : Walk) : Walk :=
  match w.todo with
  | [] => w
  | p :: rest =>
    let w := { w with todo := rest }
    if !pointerLive p || w.seen.contains p then w
    else if 65536 ≤ w.seen.length then { w with overrun := true }
    else
      let a := p / 64 * 64
      let w := { w with seen := p :: w.seen }
      if p % 8 = 1 then
        match fetchSpan s ctx a 128 with
        | .error f => { w with fault := some f }
        | .ok (node, bad) =>
          let next := (List.range 4).filterMap (fun c => if meetsChild r node c then some (leAt node (32 * c + 24) 8) else none)
          { w with todo := next ++ w.todo, poison := w.poison || bad }
      else
        let n := bits p 5 3 + 1
        match fetchSpan s ctx a (48 * n) with
        | .error f => { w with fault := some f }
        | .ok (leaf, bad) =>
          let hits := (List.range n).filterMap (triHit r leaf a)
          let best := hits.foldl (fun b h => match b with
            | none => some h
            | some x => if h.before x then some h else b) w.best
          { w with best := best, poison := w.poison || bad }

/-- Follows pointers until none is left, a fault or an overrun. -/
def walkAll (s : State) (ctx : Nat) (r : Ray) : Nat → Walk → Walk
  | 0, w => w
  | n + 1, w => if w.todo = [] ∨ w.fault.isSome ∨ w.overrun then w else walkAll s ctx r n (walkStep s ctx r w)

/-- tmin > tmax, or no real parameter lies between them. -/
def Ray.misses (r : Ray) : Bool :=
  match r.limits with
  | none => true
  | some l => !boundsMeet l.1 l.2

/-- The 16 bytes of a result (Table 17-7). -/
def missBytes (prim : Nat) : List Byte := bytesOf 4 0x7F800000 ++ bytesOf 4 prim ++ bytesOf 8 0

/-- The result of a hit in closest mode. -/
def hitBytes (h : Hit) : List Byte :=
  bytesOf 4 (roundQuot h.t.n h.t.d 0) ++ bytesOf 4 h.prim ++ bytesOf 4 (roundQuot h.u.n h.u.d 0) ++
    bytesOf 4 (roundQuot h.v.n h.v.d 0)

/-- Ray i of a TRACE: its result, whether it is invalid, poison, or the address that faults. In occlusion mode a hit leaves bytes 8 to 11 without a stated value. -/
def traceRay (s : State) (r : Req) : Work :=
  let s := obtainVirt s r.ctx ((r.f 16 8 + 32 * r.pos) % 2 ^ 64) 32
  match fetchSpan s r.ctx ((r.f 16 8 + 32 * r.pos) % 2 ^ 64) 32 with
  | .error a => { s := s, fault := some a }
  | .ok (bs, bad) =>
    let out (s : State) (res : List Byte) (inv poison : Bool) : Work :=
      let w : Work := Work.put { s := s } r.ctx ((r.f 24 8 + 16 * r.pos) % 2 ^ 64) res poison
      if w.fault.isSome then w else { w with count := 1, aux := b2n inv }
    match parseRay bs with
    | none => out s (missBytes 0xFFFFFFFE) true bad
    | some ray =>
      if ray.misses then out s (missBytes 0xFFFFFFFF) false bad
      else
        let w := walkAll s r.ctx ray 400000 { todo := [r.f 8 8] }
        let s := w.seen.foldl (fun s p => obtainVirt s r.ctx (p / 64 * 64) (if p % 8 = 1 then 128 else 48 * (bits p 5 3 + 1))) s
        match w.fault with
        | some a => { s := s, fault := some a }
        | none =>
          let bad := bad || w.poison
          if w.overrun then out s (missBytes 0xFFFFFFFE) true bad
          else match w.best with
            | none => out s (missBytes 0xFFFFFFFF) false bad
            | some h =>
              if r.f 4 1 = 0 then out s (hitBytes h) false bad
              else out { s with draws := s.draws + 4 }
                (bytesOf 8 0 ++ (List.range 4).map (fun i => Config.freeByte (s.draws + i)) ++ bytesOf 4 0) false bad

/-- R334 to R337: the box filter changes no result. -/
def execTrace (die k : Nat) (s : State) : Out :=
  .next (serve s die k (fun r => decide (r.svc = .trv)) (fun r => r.f 2 2) traceRay)

/-! Texture filtering (R338, R339) -/

/-- The four channels of a texel as FP32 bits. -/
def texelChannels (fmt : Nat) (bs : List Byte) : List Nat :=
  match fmt with
  | 0 => (List.range 4).map (fun i => roundQuot (leAt bs i 1) 255 0)
  | 1 => (List.range 4).map (fun i => (fmtF32.deliver .rne false (fmtBf16.decode (leAt bs (2 * i) 2))).1)
  | _ => [leAt bs 0 4, 0, 0, 0x3F800000]

/-- An index mapped into a surface (R339). -/
def wrapIndex (wrap : Bool) (n : Nat) (i : Int) : Nat := if wrap then (i % (n : Int)).toNat else min i.toNat (n - 1)

/-- The part obtains the lines of texels (R264). -/
def obtainTexels (s : State) (r : Req) (f : Surf) (l : List (Int × Int)) : State :=
  let wrap := r.f 6 1 == 1
  l.foldl (fun s e => obtainVirt s r.ctx (f.at_ (wrapIndex wrap f.w e.1) (wrapIndex wrap f.h e.2)) f.bpp) s

/-- Reads texel (i, j): channels and poison, or the address that faults. -/
def texel (s : State) (r : Req) (f : Surf) (i j : Int) : Except Nat (List Nat × Bool) :=
  let wrap := r.f 6 1 == 1
  match fetchSpan s r.ctx (f.at_ (wrapIndex wrap f.w i) (wrapIndex wrap f.h j)) f.bpp with
  | .ok (bs, p) => .ok (texelChannels f.fmt bs, p)
  | .error a => .error a

/-- A channel of a bilinear sample: the exact weighted sum rounded once; no value is stated when a texel is not finite. -/
def blend (ws : List Int) (cs : List Nat) : Option Nat :=
  (ws.zip cs).foldl (fun acc e => match acc, unitsOf e.2 with
    | some t, some v => some (t + e.1 * v)
    | _, _ => none) (some (0 : Int)) |>.map (fun t => roundQuot t 65536 (-149))

/-- The four channels of a bilinear sample from four texels; unstated ones are free values, counted from the draw given. -/
def blendAll (draw : Nat) (ws : List Int) (ts : List (List Nat)) : List Nat :=
  (List.range 4).map (fun c =>
    match blend ws (ts.map (fun t => t.getD c 0)) with
    | some x => x
    | none => ofBytes ((List.range 4).map (fun i => Config.freeByte (draw + 4 * c + i))))

/-- Sample i of a SAMPLE (R339). -/
def sampleOne (s : State) (r : Req) : Work :=
  match r.surf (r.f 4 1) with
  | none => { s := s }
  | some f =>
    let s := obtainVirt s r.ctx ((r.f 8 8 + 8 * r.pos) % 2 ^ 64) 8
    match fetchSpan s r.ctx ((r.f 8 8 + 8 * r.pos) % 2 ^ 64) 8 with
    | .error a => { s := s, fault := some a }
    | .ok (bs, bad) =>
      let out (s : State) (cs : List Nat) (poison : Bool) : Work :=
        let w : Work := Work.put { s := s } r.ctx ((r.f 16 8 + 16 * r.pos) % 2 ^ 64) (cs.flatMap (bytesOf 4)) poison
        if w.fault.isSome then w else { w with count := 1 }
      match unitsOf (leAt bs 0 4), unitsOf (leAt bs 4 4) with
      | some u, some v =>
        let x := u * f.w
        let y := v * f.h
        let one : Int := 2 ^ 149
        if r.f 5 1 = 0 then
          let s := obtainTexels s r f [(x / one, y / one)]
          match texel s r f (x / one) (y / one) with
          | .error a => { s := s, fault := some a }
          | .ok (cs, p) => out s cs (bad || p)
        else
          let x := x - 2 ^ 148
          let y := y - 2 ^ 148
          let i := x / one
          let j := y / one
          let a := (x - i * one) * 256 / one
          let b := (y - j * one) * 256 / one
          let s := obtainTexels s r f [(i, j), (i + 1, j), (i, j + 1), (i + 1, j + 1)]
          match texel s r f i j, texel s r f (i + 1) j, texel s r f i (j + 1), texel s r f (i + 1) (j + 1) with
          | .ok t0, .ok t1, .ok t2, .ok t3 =>
            let ws := [(256 - a) * (256 - b), a * (256 - b), (256 - a) * b, a * b]
            out { s with draws := s.draws + 16 } (blendAll s.draws ws [t0.1, t1.1, t2.1, t3.1]) (bad || t0.2 || t1.2 || t2.2 || t3.2)
          | .error e, _, _, _ | _, .error e, _, _ | _, _, .error e, _ | _, _, _, .error e => { s := s, fault := some e }
      | _, _ => out s [0x7FC00000, 0x7FC00000, 0x7FC00000, 0x7FC00000] bad

/-- R338, R339. -/
def execSample (die k : Nat) (s : State) : Out :=
  .next (serve s die k (fun r => decide (r.svc = .tex)) (fun r => r.f 2 2) sampleOne)

end Sys2Proof.Machine
end

