-- ==== Sys2Proof/Machine/Balancer.lean ====
section
/-! DEFINITION. Stage pipelines and the balancer (15 R301; 17 R340, R341). The meanings of BALANCER_SAMPLE and BALANCER_DEFERRED_MOVE. -/

namespace Sys2Proof.Machine

/-! Queues -/

/-- Occupied slots of a queue of a resident context (R286). -/
def queueDepth (s : State) (ctx q : Nat) : Nat :=
  match s.ctx? ctx with
  | some c => match Tab.find? c.queues q with
    | some x => (x.tail + 2 ^ 32 - x.head) % 2 ^ 32
    | none => 0
  | none => 0

/-! Setting a pipeline up (R341) -/

/-- Offset of pipeline i in the graphics state block (Table 17-3). -/
def pipeOffset (i : Nat) : Nat := 2112 + 320 * i

/-- Stage i of a pipeline table keeps Table 17-11 and its queue is device-fed. -/
def stageOk (c : Ctx) (bs : List Byte) (i : Nat) : Bool :=
  let f (o n : Nat) : Nat := leAt bs (64 + 32 * i + o) n
  (match Tab.find? c.queues (f 0 1) with | some q => q.deviceFed | none => false) && decide (f 0 1 < 16) &&
    decide (1 ≤ f 1 1 ∧ f 1 1 ≤ 96) && f 2 2 == 0 && decide (f 8 4 < f 4 4) && f 12 4 == 0 && f 28 4 == 0

/-- Cores of a die that a stage of some pipeline holds. -/
def heldCores (s : State) (d : Nat) : List Nat := (s.die d).pipes.flatMap (fun p => p.stages.flatMap (fun g => g.cores))

/-- Stages given their cores in turn, in ascending core index; none when too few remain. -/
def giveCores (bs : List Byte) (free : List Nat) : List Nat → Option (List PipeStage)
  | [] => some []
  | i :: is =>
    let f (o n : Nat) : Nat := leAt bs (64 + 32 * i + o) n
    let n := f 1 1
    if free.length < n then none else
    (giveCores bs (free.drop n) is).map (fun l =>
      ⟨f 0 1, f 4 4, f 8 4, free.take n, 0, []⟩ :: l)

/-- The cores field of a stage: bit 12 × row + column for each core. -/
def coresField (cores : List Nat) : List Byte := bytesOf 12 (cores.foldl (fun m c => m + 2 ^ coreIndex c) 0)

/-- Writes the cores field of a stage of a pipeline (R341, R435). -/
def writeCores (s : State) (ctx i stage : Nat) (cores : List Nat) : State :=
  pokeVirt s ctx (gstateOf s ctx + pipeOffset i + 64 + 32 * stage + 16) (coresField cores)

/-- Sets up pipeline i of a context that has become resident. -/
def setupPipeline (s : State) (ctx i : Nat) : State :=
  match s.ctx? ctx, if gstateOk s ctx then rdVirt s ctx (gstateOf s ctx + pipeOffset i) 320 else none with
  | some c, some bs =>
    let s := obtainVirt s ctx (gstateOf s ctx + pipeOffset i) 320
    let n := leAt bs 1 1
    let d := leAt bs 0 1
    if n = 0 then s else
    let ids := List.range (min n 8)
    let free := ((List.range 96).filter (fun j => !(s.die d).fenced.contains j)).map (coreOfIndex d)
    let free := free.filter (fun k => !(heldCores s d).contains k)
    let ok := decide (n ≤ 8) && decide (d < 4) && bit c.dies d && leAt bs 2 62 == 0 && ids.all (stageOk c bs)
    match if ok then giveCores bs free ids else none with
    | some stages =>
      let s := s.modDie d (fun x => { x with pipes := x.pipes ++ [⟨ctx, i, stages⟩] })
      stages.zipIdx.foldl (fun s g => writeCores s ctx i g.2 g.1.cores) s
    | none => ids.foldl (fun s j => writeCores s ctx i j []) s
  | _, _ => s

/-- The stage pipelines of a context are set up in order. -/
def setupPipelines (s : State) (ctx : Nat) : State := setupPipeline (setupPipeline s ctx 0) ctx 1

/-- A context that leaves gives its cores back. -/
def dropPipelines (s : State) (ctx : Nat) : State :=
  dies4.foldl (fun s d =>
    if (s.die d).pipes.any (fun p => decide (p.ctx = ctx)) then
      s.modDie d (fun x => { x with pipes := x.pipes.filter (fun p => decide (p.ctx ≠ ctx)) })
    else s) s

/-- Whether tasks of a queue of a context may be placed on a core: any core for a queue that feeds no stage, else the stage's cores that are not to leave it (R341). -/
def stageAllows (s : State) (ctx : Nat) (src : Source) (core : Nat) : Bool :=
  match src with
  | .pool => true
  | .queue q =>
    let gs := dies4.flatMap (fun d => (s.die d).pipes.flatMap (fun p =>
      if p.ctx = ctx then p.stages.filter (fun g => g.queue == q) else []))
    gs.isEmpty || gs.any (fun g => g.cores.contains core && !g.leaving.any (fun l => decide (l.1 = core)))

/-! Sampling (R301) -/

/-- A core holds a team of the pipeline. -/
def holdsPipe (s : State) (p : Pipeline) (core : Nat) : Bool :=
  (teamsOf s core).any (fun e => decide (e.2.ctx = p.ctx) &&
    (match s.task? e.2.task with
     | some t => (match t.src with | .queue q => p.stages.any (fun g => g.queue == q) | .pool => false)
     | none => false))

/-- A core holds a team of a stage. -/
def holdsStage (s : State) (ctx : Nat) (g : PipeStage) (core : Nat) : Bool :=
  (teamsOf s core).any (fun e => decide (e.2.ctx = ctx) &&
    (match s.task? e.2.task with
     | some t => decide (t.src = .queue g.queue)
     | none => false))

/-- Groups resident on a core. -/
def groupsOn (s : State) (core : Nat) : Nat := (teamsOf s core).foldl (fun n e => n + e.2.groups.length) 0

/-- Cores of a stage that are not marked to leave it. -/
def PipeStage.staying (g : PipeStage) : List Nat := g.cores.filter (fun c => !g.leaving.any (fun l => decide (l.1 = c)))

/-- The number that is best in a list under an order; the first of equals. -/
def bestOf (better : Nat → Nat → Bool) : List Nat → Option Nat
  | [] => none
  | x :: xs => some (xs.foldl (fun b y => if better y b then y else b) x)

/-- Cores in ascending core ID. -/
def insertCore (c : Nat) (l : List Nat) : List Nat := l.filter (· < c) ++ c :: l.filter (c < ·)

/-- A core moves from one stage to another, and both cores fields are rewritten. -/
def moveCore (s : State) (d : Nat) (p : Pipeline) (from_ to_ core : Nat) : State :=
  let stages := p.stages.zipIdx.map (fun g =>
    if g.2 = from_ then { g.1 with cores := g.1.cores.filter (· ≠ core), leaving := g.1.leaving.filter (fun l => decide (l.1 ≠ core)) }
    else if g.2 = to_ then { g.1 with cores := insertCore core g.1.cores } else g.1)
  let s := s.modDie d (fun x => { x with pipes := x.pipes.map (fun q =>
    if q.ctx = p.ctx ∧ q.index = p.index then { q with stages := stages } else q) })
  [from_, to_].foldl (fun s i => match stages[i]? with
    | some g => writeCores s p.ctx p.index i g.cores
    | none => s) s

/-- Replaces a pipeline of a die. -/
def setPipe (s : State) (d : Nat) (p : Pipeline) : State :=
  s.modDie d (fun x => { x with pipes := x.pipes.map (fun q => if q.ctx = p.ctx ∧ q.index = p.index then p else q) })

/-- One pipeline is sampled, and at most one of its cores moves or is marked. -/
def samplePipe (s : State) (d : Nat) (p : Pipeline) : State :=
  let stages := p.stages.map (fun g => { g with hot := if g.hi < queueDepth s p.ctx g.queue then g.hot + 1 else 0 })
  let p := { p with stages := stages }
  let s := setPipe s d p
  let at_ (i : Nat) : PipeStage := stages.getD i ⟨0, 0, 0, [], 0, []⟩
  let q (i : Nat) : Nat := queueDepth s p.ctx (at_ i).queue
  let ids := List.range stages.length
  let hot := ids.filter (fun i => decide (4 ≤ (at_ i).hot))
  let cold := ids.filter (fun i => decide (q i < (at_ i).lo) && decide (2 ≤ (at_ i).staying.length))
  match bestOf (fun a b => decide ((q b : Int) - (at_ b).hi < (q a : Int) - (at_ a).hi)) hot,
      bestOf (fun a b => decide ((at_ b).cores.length ≤ (at_ a).cores.length)) cold with
  | some to_, some from_ =>
    let reset (p : Pipeline) : Pipeline :=
      { p with stages := p.stages.zipIdx.map (fun g => if g.2 = to_ then { g.1 with hot := 0 } else g.1) }
    let p := reset p
    let s := setPipe s d p
    match (at_ from_).staying.find? (fun c => !holdsPipe s p c) with
    | some c => moveCore s d p from_ to_ c
    | none =>
      match bestOf (fun a b => decide (groupsOn s a < groupsOn s b)) (at_ from_).staying with
      | some c => setPipe s d { p with stages := p.stages.zipIdx.map (fun g =>
          if g.2 = from_ then { g.1 with leaving := g.1.leaving ++ [(c, to_)] } else g.1) }
      | none => s
  | _, _ => s

/-- R301: at every cycle divisible by 1,024. -/
def execBalancerSample (die : Nat) (s : State) : Out :=
  .next (if s.now % 1024 = 0 then (s.die die).pipes.foldl (fun s p => samplePipe s die p) s else s)

/-- R301: a marked core moves when its last team of the stage has retired. -/
def execBalancerDeferredMove (die core : Nat) (s : State) : Out :=
  .next ((s.die die).pipes.foldl (fun s p =>
    p.stages.zipIdx.foldl (fun s g =>
      match g.1.leaving.find? (fun l => decide (l.1 = core)) with
      | some l => if holdsStage s p.ctx g.1 core then s else moveCore s die p g.2 l.2 core
      | none => s) s) s)

end Sys2Proof.Machine
end

