-- ==== Sys2Proof/Machine/Queue.lean ====
section
/-! DEFINITION. Contexts, task queues, the pending-launch pool and the queue engines (11 R214 to R217; 15 R283 to R294). The meanings of ENQ, DEQ and LAUNCH and of the events of residency, placement and retirement. -/

namespace Sys2Proof.Machine

/-! Context entries (Table 15-1) -/

/-- Bytes a to b are zero. -/
def zeroSpan (bs : List Byte) (a b : Nat) : Bool := leAt bs a (b + 1 - a) == 0

/-- An entry that may become resident (R284). -/
def entryOk (ctx : Nat) (bs : List Byte) : Bool :=
  let f (o n : Nat) : Nat := leAt bs o n
  f 16 2 == ctx && decide (1 ≤ f 18 1 ∧ f 18 1 < 16) && decide (f 20 4 < 2) && zeroSpan bs 26 31 && zeroSpan bs 41 43 &&
    zeroSpan bs 48 63 && zeroSpan bs 192 255 && f 0 8 % 4096 == 0 && f 8 8 % 64 == 0 && f 32 8 % 32 == 0 &&
    (f 32 8 == 0 || decide (4 ≤ f 40 1 ∧ f 40 1 ≤ 16)) &&
    (List.range 16).all (fun q => f (64 + 8 * q) 8 % 64 == 0)

/-- Context places of a die in use (R284). -/
def placesUsed (s : State) (d : Nat) : Nat := (s.ctxs.filter (fun (e : Nat × Ctx) => bit e.2.dies d)).length

/-- Every die of a mask has been brought up and has a free place. -/
def placesFree (s : State) (mask : Nat) : Bool :=
  dies4.all (fun d => !bit mask d || (decide (placesUsed s d < 1024) && decide ((s.die d).bring = .ready)))

/-- The serving die of a mask: the lowest. -/
def servingDie (mask : Nat) : Nat := (dies4.find? (fun d => bit mask d)).getD 0

/-- Queue q of a context as the engine reads it from its control block; none when it is not set up (R285). -/
def readQueue (s : State) (ctx : Nat) (qcb : Nat) : Option Queue :=
  if qcb = 0 then none else
  match rdVirt s ctx ((qcb + 64) % 2 ^ 64) 64, xlate s ctx qcb false with
  | some bs, .ok pa =>
    let f (o n : Nat) : Nat := leAt bs o n
    let ok := f 0 8 % 64 == 0 && decide (4 ≤ f 8 1 ∧ f 8 1 ≤ 16) && decide (f 9 1 < 2) && zeroSpan bs 10 15 && f 16 8 % 32 == 0 &&
      decide (4 ≤ f 24 1 ∧ f 24 1 ≤ 16) && zeroSpan bs 25 63
    let idx := (rdVirt s ctx ((qcb + 128) % 2 ^ 64) 8).getD []
    if ok then
      some { qcb := dw qcb, tailPa := pa, ring := dw (f 0 8), logsize := f 8 1, deviceFed := f 9 1 == 1, ret := dw (f 16 8),
             retlog := f 24 1, tail := rdNat s pa 4, head := leAt idx 0 4, retidx := leAt idx 4 4, current := none,
             fault := none, zero := false }
    else none
  | _, _ => none

/-- A context becomes resident: its places, its queues and its pipelines (R284, R285, R341). -/
def enterCtx (s : State) (ctx : Nat) (bs : List Byte) : State :=
  let f (o n : Nat) : Nat := leAt bs o n
  let c : Ctx :=
    { dies := f 18 1, taking := true, ptroot := f 0 8, sumpto := f 24 2, lret := dw (f 32 8),
      lretlog := f 40 1, lretidx := f 44 4, queues := [], lastQueue := 15 }
  let s := { s with ctxs := Tab.put s.ctxs ctx c }
  let queues : Tab Queue := (List.range 16).filterMap (fun q => (readQueue s ctx (f (64 + 8 * q) 8)).map (fun x => (q, x)))
  let s := (List.range 16).foldl (fun s q => if f (64 + 8 * q) 8 = 0 then s else obtainVirt s ctx (f (64 + 8 * q) 8) 136) s
  setupPipelines (s.modCtx ctx (fun c => { c with queues := queues })) ctx

/-- Writes the state byte of an entry. -/
def writeCtxState (s : State) (ctx v : Nat) : State := poke s (run (entryAt s ctx + 19) (bytesOf 1 v))

/-- R284. -/
def execContextEntryWake (ctx : Nat) (s : State) : Out :=
  .next (
    let bs := rdBytes s (entryAt s ctx) 256
    let asks := bit (leAt bs 20 4) 0
    match s.ctx? ctx with
    | some _ => s.modCtx ctx (fun c => { c with taking := asks })
    | none =>
      if !asks ∨ 65536 ≤ ctx then s
      else if entryOk ctx bs && placesFree s (leAt bs 18 1) then enterCtx (writeCtxState s ctx 1) ctx bs
      else writeCtxState s ctx 2)

/-- A context that is asked to leave may: no unit of it is resident, parked or saved, and no task of it holds an entry of a pending-launch pool (R284). -/
def mayLeave (s : State) (ctx : Nat) : Bool :=
  match s.ctx? ctx with
  | none => false
  | some c =>
    !c.taking && !s.saved.any (fun (e : Nat × Saved) => decide (e.2.ctx = ctx)) && !s.units.any (fun (e : Nat × UnitSt) => decide (e.2.at_.ctx = ctx)) &&
      !s.tasks.any (fun (e : Nat × Task) => decide (e.2.ctx = ctx) && decide (e.2.src = .pool) && decide (e.2.slot ≠ .none))

/-- TLB entries of the package that satisfy a test are dropped (R311). -/
def dropTlbs (s : State) (f : Tlb → Bool) : State :=
  { s with
    cores := s.cores.map (fun (e : Nat × Core) => (e.1, { e.2 with tlb := e.2.tlb.filter (fun t => !f t) }))
    scores := s.scores.map (fun (e : Nat × StrandCore) => (e.1, { e.2 with
      itlb := e.2.itlb.filter (fun t => !f t), dtlb := e.2.dtlb.filter (fun t => !f t) }))
    cells := s.cells.map (fun (e : Nat × Cell) => (e.1, { e.2 with l2tlb := e.2.l2tlb.filter (fun t => !f t) })) }

/-- R284: a context leaves its places. -/
def execContextLeave (ctx : Nat) (s : State) : Out :=
  .next (if !mayLeave s ctx then s else
    let s := dropTlbs (dropPipelines s ctx) (fun t => t.ctx = ctx)
    let s := { s with
      ctxs := Tab.del s.ctxs ctx, tasks := s.tasks.filter (fun (e : Nat × Task) => decide (e.2.ctx ≠ ctx)) }
    writeCtxState s ctx 0)

/-! Queues -/

/-- A queue of a resident context. -/
def queue? (s : State) (ctx q : Nat) : Option Queue :=
  match s.ctx? ctx with
  | some c => Tab.find? c.queues q
  | none => none

/-- Rewrites a queue. -/
def modQueue (s : State) (ctx q : Nat) (f : Queue → Queue) : State :=
  s.modCtx ctx (fun c => { c with queues := Tab.modify c.queues q f })

/-- R286: the serving engine reads the tail of a host-fed queue. -/
def execQueueTailWrite (ctx q : Nat) (s : State) : Out :=
  .next (match queue? s ctx q with
    | some x => if x.deviceFed then s else modQueue s ctx q (fun x => { x with tail := rdNat s x.tailPa 4 })
    | none => s)

/-- Address of record i of a ring. -/
def Queue.slotAt (x : Queue) (i : Nat) : Nat := (x.ring.toNat + 64 * (i % 2 ^ x.logsize)) % 2 ^ 64

/-- Records in a queue's ring. -/
def Queue.count (x : Queue) : Nat := (x.tail + 2 ^ 32 - x.head) % 2 ^ 32

/-- Tasks of a queue that wait in a slot, in acceptance order. -/
def waitingTasks (s : State) (ctx q : Nat) (f : Slot → Bool) : List (Nat × Task) :=
  s.tasks.filter (fun (e : Nat × Task) =>
    decide (e.2.ctx = ctx) && decide (e.2.src = .queue q) && decide (e.2.st = .waiting) && f e.2.slot)

/-- The task waits for a ring slot. -/
def Slot.isReserve : Slot → Bool
  | .reserve _ _ | .freed => true
  | _ => false

/-- A record is placed in the ring of a device-fed queue: the engine writes it and advances tail (R286). -/
def pushRing (s : State) (ctx q : Nat) (x : Queue) (r : TaskRec) : State :=
  let t := (x.tail + 1) % 2 ^ 32
  let s := pokeVirt s ctx (x.slotAt x.tail) (taskBytes r)
  let s := pokeVirt s ctx x.qcb.toNat (bytesOf 4 t)
  modQueue s ctx q (fun x => { x with tail := t })

/-- The oldest ENQ held in reserve moves into the ring once a slot is free (R216). -/
def moveReserve (s : State) (ctx q : Nat) : State :=
  match queue? s ctx q, waitingTasks s ctx q Slot.isReserve with
  | some x, (k, t) :: _ =>
    if x.count < 2 ^ x.logsize then pushRing (s.modTask k (fun t => { t with slot := .ring })) ctx q x t.rec_ else s
  | _, _ => s

/-- The first record of a ring is removed: head advances, and a reserve may move in (R286). -/
def popRing (s : State) (ctx q : Nat) (x : Queue) : State :=
  let h := (x.head + 1) % 2 ^ 32
  let s := pokeVirt s ctx (x.qcb.toNat + 128) (bytesOf 4 h)
  moveReserve (modQueue s ctx q (fun x => { x with head := h, zero := false })) ctx q

/-- A task as it is accepted (R287). -/
def newTask (ctx : Nat) (r : TaskRec) (src : Source) (slot : Slot) (die depth : Nat) : Task :=
  { ctx := ctx, rec_ := r, src := src, slot := slot, die := die, depth := depth, st := .waiting, desc := [], args := [],
    placed := 0, live := 0, units := 0, mheld := false, status := 0, reason := 0, deq := false, barriers := 0, lastVote := false,
    phase := [], fault := none }

/-- Enters a task under the next acceptance number. -/
def addTask (s : State) (t : Task) : State × Nat :=
  ({ s with tasks := Tab.put s.tasks s.nextTask t, nextTask := s.nextTask + 1 }, s.nextTask)

/-- The read of a ring slot: its bytes, 64 zero bytes where the slot is to be removed as such, or a placement fault (R286). -/
inductive SlotRead where
  | bytes (bs : List Byte)
  | absent (addr : Nat) (refused : Bool)
  deriving DecidableEq, Repr

/-- Reads the ring slot at head. -/
def readSlot (s : State) (ctx : Nat) (x : Queue) : SlotRead :=
  let zero := List.replicate 64 (0 : Byte)
  let a := x.slotAt x.head
  if x.zero then .bytes zero else
  match xlate s ctx a false with
  | .ok pa => .bytes (rdBytes s pa 64)
  | .bad c r => if c = causePageAbsent then .absent a r else .bytes zero
  | .need _ => .bytes zero

/-- A failure of an engine or a placement waits for the fault ring (R305). -/
def raiseEngine (s : State) (d : Nat) (f : EngFault) : State :=
  wakeFaults (s.modDie d (fun x => { x with waiting := x.waiting ++ [f] })) d

/-- The placement fault of a ring slot. -/
def slotFault (s : State) (d ctx q addr : Nat) (refused : Bool) : State :=
  raiseEngine (modQueue s ctx q (fun x => { x with fault := some 0 })) d
    { what := .slot ctx q, ctx := ctx, cause := causePageAbsent, addr := dw addr, unit := q, write := false, refused := refused, cycle := s.now }

/-! Retirement (R290) -/

/-- The record of a retired task (Table 15-4). -/
def retireBytes (s : State) (t : Task) : List Byte :=
  bytesOf 8 t.rec_.desc.toNat ++ bytesOf 2 t.rec_.tag ++
    bytesOf 1 (match t.src with | .queue q => q | .pool => 16) ++ bytesOf 1 t.depth ++ bytesOf 1 t.status ++
    bytesOf 1 t.reason ++ bytesOf 1 (b2n t.deq + 2 * b2n t.mheld) ++ bytesOf 1 0 ++ bytesOf 8 s.now ++ bytesOf 4 t.units ++ bytesOf 4 0

/-- Writes a retirement record and then the index (R290). -/
def writeRetirement (s : State) (t : Task) : State :=
  match t.src with
  | .queue q =>
    match queue? s t.ctx q with
    | some x =>
      if x.ret = 0 then s else
      let i := (x.retidx + 1) % 2 ^ 32
      let s := pokeVirt s t.ctx ((x.ret.toNat + 32 * (x.retidx % 2 ^ x.retlog)) % 2 ^ 64) (retireBytes s t)
      let s := pokeVirt s t.ctx (x.qcb.toNat + 132) (bytesOf 4 i)
      modQueue s t.ctx q (fun x => { x with retidx := i })
    | none => s
  | .pool =>
    match s.ctx? t.ctx with
    | some c =>
      if c.lret = 0 then s else
      let i := (c.lretidx + 1) % 2 ^ 32
      let s := pokeVirt s t.ctx ((c.lret.toNat + 32 * (c.lretidx % 2 ^ c.lretlog)) % 2 ^ 64) (retireBytes s t)
      let s := poke s (run (entryAt s t.ctx + 44) (bytesOf 4 i))
      s.modCtx t.ctx (fun c => { c with lretidx := i })
    | none => s

/-- No engine holds its dies for a superstep grid any longer (R292). -/
def stopHolding (s : State) (key : Nat) : State :=
  { s with dies := s.dies.map (fun (e : Nat × Die) => (e.1, { e.2 with holdFor := e.2.holdFor.filter (· ≠ key) })) }

/-- The record of a device-fed queue's head task is removed from the ring, its task being dispatched or taken. -/
def leaveRing (s : State) (key : Nat) : State :=
  match s.task? key with
  | none => s
  | some t =>
    match t.src, t.slot with
    | .queue q, .ring => match queue? s t.ctx q with
      | some x => popRing (s.modTask key (fun t => { t with slot := .none })) t.ctx q x
      | none => s
    | _, _ => s

/-- A task retires: its record is written, its tag is resolved, and it is gone. -/
def retireTask (s : State) (key : Nat) : State :=
  match s.task? key with
  | none => s
  | some t =>
    let s := { writeRetirement s t with tasks := Tab.del (writeRetirement s t).tasks key }
    let s := match t.src with
      | .queue q => modQueue s t.ctx q (fun x => if x.current = some key then { x with current := none } else x)
      | .pool => s
    stopHolding s key

/-- A task has retired, or has been refused: nothing of it is left to place or to run. -/
def Task.ended (t : Task) : Bool :=
  decide (t.st = .retired) || (decide (t.st = .started) && decide (t.placed = t.rec_.count) && decide (t.live = 0))

/-- R290. -/
def execTaskRetire (task : Nat) (s : State) : Out :=
  .next (match s.task? task with
    | some t => if t.ended then retireTask s task else s
    | none => s)

/-- A task is refused: no unit of it runs (R289). -/
def refuseTask (s : State) (key reason : Nat) : State :=
  let s := (leaveRing s key).modTask key (fun t => { t with st := .retired, status := 1, reason := reason, slot := .none })
  let s := match s.task? key with
    | some t => stopHolding (match t.src with
      | .queue q => modQueue s t.ctx q (fun x => if x.current = some key then { x with current := none } else x)
      | .pool => s) key
    | none => s
  s.soon (.event (.taskRetire key))

/-! Dependencies (R287) -/

/-- A tag is carried by a task of the context that was accepted before and has not retired. -/
def tagOpen (s : State) (ctx before tag : Nat) : Bool :=
  decide (tag ≠ 0) && s.tasks.any (fun (e : Nat × Task) => decide (e.1 < before) && decide (e.2.ctx = ctx) && decide (e.2.rec_.tag = tag))

/-- A record's dependencies are resolved for a task accepted under a number. -/
def depsDone (s : State) (ctx before : Nat) (r : TaskRec) : Bool := !tagOpen s ctx before r.dep0 && !tagOpen s ctx before r.dep1

/-! The engines (R288 to R293) -/

/-- The serving engine of a context. -/
def Ctx.serving (c : Ctx) : Nat := servingDie c.dies

/-- A queue's next record is taken up as its head task (R286, R288). The record of a host-fed queue is removed from the ring then (R286); that of a device-fed one, for which the rules name no instant, once the task is dispatched or refused, or taken by DEQ DESIGN CHOICE. -/
def takeHead (s : State) (d ctx q : Nat) (x : Queue) : State :=
  if x.current.isSome || x.fault.isSome || x.count == 0 then s else
  let s := obtainVirt s ctx (x.slotAt x.head) 64
  match readSlot s ctx x with
  | .absent a r => slotFault s d ctx q a r
  | .bytes bs =>
    let r := parseTask bs
    match (if x.deviceFed then waitingTasks s ctx q (fun l => decide (l = .ring)) else []) with
    | (k, _) :: _ =>
      modQueue (s.modTask k (fun t => { t with rec_ := r })) ctx q (fun x => { x with current := some k, zero := false })
    | [] =>
      let (s, k) := addTask s (newTask ctx r (.queue q) .none d (b2n x.deviceFed))
      popRing (modQueue s ctx q (fun x => { x with current := some k })) ctx q x

/-- Every queue that a die's engine serves, and whose context takes tasks, has a head task if it has a record. -/
def takeHeads (s : State) (d : Nat) : State :=
  s.ctxs.foldl (fun s (c : Nat × Ctx) =>
    if c.2.taking && c.2.serving == d then c.2.queues.foldl (fun s q => match queue? s c.1 q.1 with
      | some x => takeHead s d c.1 q.1 x
      | none => s) s
    else s) s

/-- Why a first placement attempt refuses, or the fault it meets (R289). -/
inductive Tried where
  | go (desc : List Byte) (args : List Word)
  | refuse (reason : Nat)
  | fault (addr : Nat) (refused : Bool)
  deriving DecidableEq, Repr

/-- The first failing byte of a read by the engine: cause, address and refused mark. -/
def readFault (s : State) (ctx va n : Nat) : Option (Nat × Nat × Bool) :=
  (List.range n).findSome? (fun i => match xlate s ctx ((va + i) % 2 ^ 64) false with
    | .bad c r => some (c, (va + i) % 2 ^ 64, r)
    | _ => none)

/-- Dies of a task. -/
def taskDies (s : State) (t : Task) : Nat :=
  match t.src with
  | .pool => 2 ^ t.die
  | .queue _ => match s.ctx? t.ctx with | some c => c.dies | none => 0

/-- The reads and checks of a first placement attempt (R289, Table 15-3). -/
def tryTask (s : State) (t : Task) : Tried :=
  let r := t.rec_
  if r.bad then .refuse 1 else
  match readFault s t.ctx r.desc.toNat 64 with
  | some (c, a, f) => if c = causePageAbsent then .fault a f else .refuse 2
  | none =>
    let bs := (rdVirt s t.ctx r.desc.toNat 64).getD []
    let d := parseDesc bs
    if !descOk d r.strands then .refuse 2
    else if tooLarge s r d (dies4.filter (fun e => bit (taskDies s t) e)) then .refuse 3
    else if decide (r.args = 0) != decide (d.args = 0) then .refuse 4
    else match readFault s t.ctx r.args.toNat (4 * d.args) with
      | some (c, a, f) => if c = causePageAbsent then .fault a f else .refuse 4
      | none =>
        if r.superstep && r.strands then .refuse 5
        else
          let as := (rdVirt s t.ctx r.args.toNat (4 * d.args)).getD []
          .go bs ((List.range d.args).map (fun i => w32 (leAt as (4 * i) 4)))

/-- The first placement attempt of a task: what it read is kept; a failure refuses the task or waits as a placement fault. -/
def firstTry (s : State) (d key : Nat) : State :=
  match s.task? key with
  | none => s
  | some t =>
    if t.desc ≠ [] ∨ t.fault.isSome ∨ t.st ≠ .waiting then s else
    match tryTask s t with
    | .go bs as =>
      (obtainVirt (obtainVirt s t.ctx t.rec_.desc.toNat 64) t.ctx t.rec_.args.toNat (4 * as.length)).modTask key (fun t => { t with desc := bs, args := as })
    | .refuse n => refuseTask s key n
    | .fault a f =>
      raiseEngine (s.modTask key (fun t => { t with fault := some 0 })) d
        { what := .task key, ctx := t.ctx, cause := causePageAbsent, addr := dw a,
          unit := (match t.src with | .queue q => q | .pool => 16), write := false, refused := f, cycle := s.now }

/-- Resident contexts on a die, from the one after a context ID on, wrapping round. -/
def ctxOrder (s : State) (d ptr : Nat) : List Nat :=
  let l := s.ctxs.filterMap (fun (c : Nat × Ctx) => if bit c.2.dies d then some c.1 else none)
  l.filter (ptr < ·) ++ l.filter (· ≤ ptr)

/-- A task still has units to place and nothing holds it up. -/
def Task.open_ (t : Task) : Bool := decide (t.st ≠ .retired) && decide (t.placed < t.rec_.count ∨ t.rec_.bad = true) && t.fault.isNone

/-- Tasks of a context in the pool of a die, and those that ENQ holds in a reserve slot there: deepest first, then in acceptance order (R288, R294). -/
def poolTasks (s : State) (d ctx : Nat) : List Nat :=
  let l := s.tasks.filter (fun (e : Nat × Task) =>
    decide (e.2.ctx = ctx) && e.2.open_ && (match e.2.src, e.2.slot with
      | .pool, _ => decide (e.2.die = d)
      | _, .reserve d' _ => decide (d' = d)
      | _, _ => false))
  ((List.range 16).reverse).flatMap (fun dp => l.filterMap (fun e => if e.2.depth = dp then some e.1 else none))

/-- Head tasks of the queues of a context, from the queue after the one served last on. -/
def headTasks (s : State) (d ctx : Nat) : List Nat :=
  match s.ctx? ctx with
  | none => []
  | some c =>
    if c.serving ≠ d then [] else
    ((List.range 16).map (fun i => (c.lastQueue + 1 + i) % 16)).filterMap (fun q =>
      match Tab.find? c.queues q with
      | some x => match x.current with
        | some k => match s.task? k with
          | some t => if t.open_ then some k else none
          | none => none
        | none => none
      | none => none)

/-- The tasks of an engine in the order in which it considers them, those that wait for tags left out (R288). -/
def candidates (s : State) (d : Nat) : List Nat :=
  ((ctxOrder s d (s.die d).ctxPtr).flatMap (fun c => poolTasks s d c ++ headTasks s d c)).filter (fun k =>
    match s.task? k with
    | some t => depsDone s t.ctx k t.rec_
    | none => false)

/-- An engine looks at its work: heads are taken, tasks make their first attempts, and the superstep grids that wait hold their dies (R286, R289, R292). -/
def engineLook (s : State) (d : Nat) : State :=
  let s := takeHeads s d
  let s := (candidates s d).foldl (fun s k => firstTry s d k) s
  let s := takeHeads s d
  let wait := (candidates s d).filter (fun k => match s.task? k with
    | some t => t.rec_.superstep && decide (t.desc ≠ []) && decide (k ∉ (s.die d).holdFor)
    | none => false)
  if wait = [] then s else s.modDie d (fun x => { x with holdFor := x.holdFor ++ wait })

/-- Dies on which an engine may place teams of a task: none that a waiting superstep grid holds (R292). Of two such grids the one that has waited longer is not held up by the other DESIGN CHOICE. -/
def openDies (s : State) (d key : Nat) (t : Task) : Nat :=
  let held (e : Nat) : Bool := ((s.die d).holdFor.takeWhile (· ≠ key)).any (fun k => match s.task? k with
    | some h => bit (taskDies s h) e
    | none => false)
  dies4.foldl (fun m e => if bit (taskDies s t) e && !held e then m + 2 ^ e else m) 0

/-- The kinds of grid an engine places. -/
inductive GridKind where
  | cluster | strand | superstep
  deriving DecidableEq, Repr

/-- The kind of a task's grid. -/
def TaskRec.kind (r : TaskRec) : GridKind := if r.strands then .strand else if r.superstep then .superstep else .cluster

/-- The state after one placement of a task, and the die it used; none when there is no room (R291 to R293). -/
def tryPlace (s : State) (d key : Nat) (t : Task) : Option (State × Nat) :=
  if t.desc = [] then none else
  let desc := parseDesc t.desc
  let allowed (c : Nat) : Bool := stageAllows s t.ctx t.src c
  match t.rec_.kind with
  | .strand => placeStrandOn s key t desc (dieOrder (s.die d).diePtr (taskDies s t))
  | .cluster => placeNext s key desc allowed (dieOrder (s.die d).diePtr (openDies s d key t))
  | .superstep => (placeAll s d key desc allowed (openDies s d key t) t.rec_.count).map (fun s => (s, (s.die d).diePtr))

/-- The first task that can be placed, with its grid's kind (R288). -/
def choice (s : State) (d : Nat) : Option (Nat × Task) :=
  (candidates s d).findSome? (fun k => match s.task? k with
    | some t => (tryPlace s d k t).map (fun _ => (k, t))
    | none => none)

/-- A task all of whose units have been placed gives up its slot and its queue's head (R216, R288). -/
def afterPlacement (s : State) (key : Nat) : State :=
  match s.task? key with
  | none => s
  | some t =>
    if t.placed < t.rec_.count then s else
    let s := s.modTask key (fun t => { t with slot := .none })
    let s := match t.src with
      | .queue q => modQueue s t.ctx q (fun x => if x.current = some key then { x with current := none } else x)
      | .pool => s
    taskCheck (stopHolding s key) key

/-- The engine of a die may act in this cycle. -/
def engineFree (s : State) (d : Nat) : Bool :=
  let x := s.die d
  decide (x.placedAt ≠ some s.now) && !x.frozen && decide (x.bring = .ready) && decide (x.power.st = .s0)

/-- One placement by the engine of a die, if the task it chooses is of the kind given (R288). -/
def enginePlace (s : State) (d : Nat) (kind : GridKind) : State :=
  if !engineFree s d then s else
  let s := engineLook s d
  match choice s d with
  | none => s
  | some (k, t) =>
    if t.rec_.kind ≠ kind then s else
    match tryPlace s d k t with
    | none => s
    | some (s, e) =>
      let s := leaveRing s k
      let s := s.modDie d (fun x => { x with diePtr := e, ctxPtr := t.ctx, placedAt := some s.now })
      let s := match t.src with
        | .queue q => s.modCtx t.ctx (fun c => { c with lastQueue := q })
        | .pool => s
      afterPlacement s k

/-- R291. -/
def execPlaceCluster (die : Nat) (s : State) : Out := .next (enginePlace s die .cluster)

/-- R293. -/
def execPlaceStrand (die : Nat) (s : State) : Out := .next (enginePlace s die .strand)

/-- R292. -/
def execPlaceSuperstepGrid (die : Nat) (s : State) : Out := .next (enginePlace s die .superstep)

/-! ENQ and LAUNCH (R216) -/

/-- id.depth of a unit. -/
def depthOf (s : State) (un : UnitSt) : Nat := match s.task? un.at_.task with | some t => t.depth | none => 0

/-- Shared pool entries of a die in use. -/
def sharedUsed (s : State) (d : Nat) : Nat :=
  (s.tasks.filter (fun (e : Nat × Task) => decide (e.2.slot = .shared) && decide (e.2.die = d))).length

/-- The reserve slot of a context at a depth on a die is free. -/
def reserveFree (s : State) (ctx d dp : Nat) : Bool :=
  !s.tasks.any (fun (e : Nat × Task) => decide (e.2.ctx = ctx) && decide (e.2.slot = .reserve d dp))

/-- A free ring slot of a queue, none of its tasks waiting in reserve for one. -/
def ringFree (s : State) (ctx q : Nat) : Bool :=
  match queue? s ctx q with
  | some x => decide (x.count < 2 ^ x.logsize) && (waitingTasks s ctx q Slot.isReserve).isEmpty
  | none => false

/-- The slot Take gives a record at a depth, if one is free: the ring or the shared pool before the reserve. -/
def takeSlot (s : State) (un : UnitSt) (q : Option Nat) (dp : Nat) : Option Slot :=
  let c := un.at_.ctx
  match q with
  | some q => if ringFree s c q then some .ring else if reserveFree s c un.die dp then some (.reserve un.die dp) else none
  | none => if sharedUsed s un.die < 4096 then some .shared else if reserveFree s c un.die dp then some (.reserve un.die dp) else none

/-- The task is accepted in a slot (R216, R287). -/
def acceptTask (s : State) (un : UnitSt) (q : Option Nat) (dp : Nat) (r : TaskRec) (slot : Slot) : State :=
  let die := match q, s.ctx? un.at_.ctx with
    | some _, some c => c.serving
    | _, _ => un.die
  let src : Source := match q with | some q => .queue q | none => .pool
  let s := (addTask s (newTask un.at_.ctx r src slot die dp)).1
  match q, slot with
  | some q, .ring => match queue? s un.at_.ctx q with
    | some x => pushRing s un.at_.ctx q x r
    | none => s
  | _, _ => s

/-- ENQ and LAUNCH parks and FULL returns are counted (Table 20-4). -/
def countFull (s : State) : State := { s with mgmt := { s.mgmt with qfull := s.mgmt.qfull + 1 } }

/-- Take, for a record already read and checked. -/
def takeStep (x : Issue) (s : State) (y : Mem QueueMod) (q : Option Nat) (bs : List Byte) (parked : Bool) : State :=
  let answer (s : State) (code : Nat) : State := finish x (writeOp s x.u y.d x.lanes (fun _ => w32 code))
  let dp := depthOf s x.un + 1
  match takeSlot s x.un q dp with
  | some slot => answer (acceptTask s x.un q dp (parseTask bs) slot) 0
  | none =>
    if y.m.nb then answer (countFull s) 1
    else park (if parked then s else countFull s) x.u x.e (.take bs) 1

/-- A queue that ENQ may use: set up and device-fed (R215, R286). -/
def enqQueue (s : State) (ctx q : Nat) : Bool := match queue? s ctx q with | some x => x.deviceFed | none => false

/-- The record address has been formed: it is checked, the record is read, and Take begins. -/
def submitAt (x : Issue) (s : State) (y : Mem QueueMod) (q : Option Nat) (adr : DWord) : State :=
  match checkLane s x x.sp .glob true false adr 64 with
  | .need p => park (requestWalk s x.un.cell x.un.at_.ctx p) x.u x.e (.walkFor p adr) 1
  | .halt => haltAccess x s
  | .bad c a r => takeTrap s x.u x.e { cause := c, pc := x.sp.pc, addr := a, flags := faultFlags false r }
  | .wait c => park s x.u x.e (.space c) 0
  | .ok p =>
    let s := clearPass x (releaseCac s x.un)
    let s := match p with | .glob pa => obtainRead s pa | _ => s
    let s := match lookup s x.un false adr.toNat with | some t => fillFirst s x.un false t | none => s
    let bs := rdPlaces s p 64
    let answer (s : State) (code : Nat) : State := finish x (writeOp s x.u y.d x.lanes (fun _ => w32 code))
    if (match q with | some q => !enqQueue s x.un.at_.ctx q | none => false) then answer s 2
    else if (parseTask bs).bad then answer s 3
    else takeStep x s y q bs false

/-- ENQ and LAUNCH (R216, R364). -/
def submit (i : Instr) (s : State) (y : Mem QueueMod) (q : Option Nat) : Out :=
  issue i s (fun x s =>
    match x.sp.stage, x.sp.wait with
    | 1, some (.take bs) => takeStep x s y q bs true
    | 1, some (.walkFor _ a) => submitAt x s y q a
    | _, _ =>
      let adr := globalAddr x s x.low y.base y.off y.m.a64 y.s
      if depthOf s x.un = 15 then takeTrap s x.u x.e { cause := causeQueueDepth, pc := x.sp.pc, addr := x.sp.pc }
      else if computePhase s x.un then stepLocal x s adr
      else if adr.toNat % 64 ≠ 0 then takeTrap s x.u x.e { cause := causeMisaligned, pc := x.sp.pc, addr := adr }
      else submitAt x s y q adr)

/-- R216. -/
def execEnq (y : Mem QueueMod) (s : State) : Out := submit (.enq y) s y (some y.m.queue.val)

/-- R216. -/
def execLaunch (y : Mem QueueMod) (s : State) : Out := submit (.launch y) s y none

/-! DEQ (R217) -/

/-- The task that the engine has taken up as the head of a queue, while no unit of it has been placed. -/
def waitingHead (s : State) (x : Queue) : Option (Nat × Task) :=
  match x.current with
  | none => none
  | some k => match s.task? k with
    | some t => if t.st = .waiting then some (k, t) else none
    | none => none

/-- What DEQ finds at the head of a queue: its status, and with ACCEPTED the record's bytes. A task that the engine has taken up stays the head until a unit of it is placed, in a host-fed queue too, where its record has left the ring DESIGN CHOICE. A slot that cannot be read holds the queue. -/
def headOf (s : State) (ctx q : Nat) : Nat × List Byte :=
  match queue? s ctx q with
  | none => (2, [])
  | some x =>
    match waitingHead s x with
    | some (k, t) => if depsDone s ctx k t.rec_ then (0, taskBytes t.rec_) else (5, [])
    | none =>
    if x.count = 0 then (4, []) else
    match readSlot s ctx x with
    | .absent _ _ => (5, [])
    | .bytes bs =>
      let before := match (if x.deviceFed then waitingTasks s ctx q (fun l => decide (l = .ring)) else []) with
        | (k, _) :: _ => k
        | [] => s.nextTask
      if depsDone s ctx before (parseTask bs) then (0, bs) else (5, bs)

/-- The head is removed by a DEQ: it counts as retired (R217). -/
def removeHead (s : State) (ctx q : Nat) (bs : List Byte) : State :=
  match queue? s ctx q with
  | none => s
  | some x =>
    match waitingHead s x with
    | some (key, _) => retireTask ((leaveRing s key).modTask key (fun t => { t with st := .retired, slot := .none, deq := true })) key
    | none =>
    let die := match s.ctx? ctx with | some c => c.serving | none => 0
    let (s, key) := match (if x.deviceFed then waitingTasks s ctx q (fun l => decide (l = .ring)) else []) with
      | (k, _) :: _ => (s, k)
      | [] => addTask s (newTask ctx (parseTask bs) (.queue q) .none die (b2n x.deviceFed))
    let s := s.modTask key (fun t => { t with rec_ := parseTask bs, st := .retired, slot := .none, deq := true })
    retireTask (popRing s ctx q x) key

/-- A store of 64 bytes by a unit, performed at its slice at once; its own CAC copy follows. -/
def storeNow (s : State) (un : UnitSt) (pa : Nat) (bs : List Byte) : State :=
  if un.at_.strand then sliceWrite s (run pa bs) else (coreStore s un.at_.core (run pa bs) true).1

/-- The buffer address has been formed. -/
def dequeueAt (x : Issue) (s : State) (y : Mem QueueMod) (adr : DWord) : State :=
  match checkLane s x x.sp .glob false true adr 64 with
  | .need p => park (requestWalk s x.un.cell x.un.at_.ctx p) x.u x.e (.walkFor p adr) 1
  | .halt => haltAccess x s
  | .bad c a r => takeTrap s x.u x.e { cause := c, pc := x.sp.pc, addr := a, flags := faultFlags true r }
  | .wait c => park s x.u x.e (.space c) 0
  | .ok p =>
    let s := clearPass x (releaseCac s x.un)
    let s := match lookup s x.un false adr.toNat with | some t => fillFirst s x.un false t | none => s
    let s := match queue? s x.un.at_.ctx y.m.queue.val with | some z => obtainVirt s x.un.at_.ctx (z.slotAt z.head) 64 | none => s
    let (code, bs) := headOf s x.un.at_.ctx y.m.queue.val
    let s := match p with
      | .glob pa => if code = 0 then removeHead (storeNow s x.un pa bs) x.un.at_.ctx y.m.queue.val bs else s
      | _ => s
    finish x (writeOp (acquireCac s x.un) x.u y.d x.lanes (fun _ => w32 code))

/-- R217, R364. -/
def execDeq (y : Mem QueueMod) (s : State) : Out :=
  issue (.deq y) s (fun x s =>
    match x.sp.stage, x.sp.wait with
    | 1, some (.walkFor _ a) => dequeueAt x s y a
    | _, _ =>
      let adr := globalAddr x s x.low y.base y.off y.m.a64 y.s
      if computePhase s x.un then stepLocal x s adr
      else if adr.toNat % 64 ≠ 0 then takeTrap s x.u x.e { cause := causeMisaligned, pc := x.sp.pc, addr := adr, flags := faultFlags true false }
      else dequeueAt x s y adr)

end Sys2Proof.Machine
end

