-- ==== Sys2Proof/Machine/Faults.lean ====
section
/-! DEFINITION. The fault rings and the responses that answer faults, end contexts and drop translations (05 R103; 16 R304 to R308, R311, R312, R322). -/

namespace Sys2Proof.Machine

/-! The fault control block (Table 16-2) -/

/-- Address of the fault control block of a die. -/
def faultBlock (s : State) (d : Nat) : Nat := s.tableBase + 0x1000000 + 0x1000 * d

/-- Address in context 0 of slot i of a ring whose address and log2 count stand at an offset of a block; none when the log lies outside 4 to 16 or the ring is not aligned. -/
def ringSlot (s : State) (d off i : Nat) : Option Nat :=
  let ring := rdNat s (faultBlock s d + off) 8
  let lg := rdNat s (faultBlock s d + off + 8) 1
  if 4 ≤ lg ∧ lg ≤ 16 ∧ ring % 64 = 0 then some ((ring + 64 * (i % 2 ^ lg)) % 2 ^ 64) else none

/-! Records that are due (R103, R305) -/

/-- Of two records of a group, the first is delivered first: earlier cycle, then lower lane. -/
def TrapRec.before (a b : TrapRec) : Bool := decide (a.cycle < b.cycle) || (decide (a.cycle = b.cycle) && decide (a.lane < b.lane))

/-- The record a unit may deliver next: none while one is unanswered; in handler mode only one raised there, by a split of the handler (R103, R308). -/
def dueTrap (un : UnitSt) : Option TrapRec :=
  if un.parked.isSome then none else
  let l : List TrapRec := match un.mode with
    | .handler _ _ => un.traps.filter (fun r => bit r.flags 2)
    | _ => un.traps
  match l with
  | [] => none
  | r :: rs => some (rs.foldl (fun b x => if x.before b then x else b) r)

/-- A record that waits to be written: a unit's, or an engine fault of the die by its place in the list. -/
inductive Due where
  | unit (u : Nat) (r : TrapRec)
  | engine (i : Nat) (f : EngFault)
  deriving DecidableEq, Repr

/-- Position of a record in the order of R305. -/
def Due.rank (s : State) : Due → Nat
  | .unit u r =>
    match s.unit? u with
    | some un => r.cycle * 2 ^ 20 + (if un.at_.strand then 2 ^ 18 + r.unit else r.unit % 512 * 512 + r.unit / 512)
    | none => 0
  | .engine _ f => f.cycle * 2 ^ 20 + (match f.what with | .copy core _ => core % 512 * 512 + 256 + f.unit / 512 | _ => 2 ^ 19)

/-- The record of a die that is written next: of those raised on it, by units that may since have moved or been saved (R305, R306). -/
def nextDue (s : State) (d : Nat) : Option Due :=
  let units := s.units.filterMap (fun (e : Nat × UnitSt) =>
    (dueTrap e.2).bind (fun r => if r.die = d then some (Due.unit e.1 r) else none))
  let engines := (s.die d).waiting.zipIdx.map (fun f => Due.engine f.2 f.1)
  match (if d < 4 then units ++ engines else []) with
  | [] => none
  | x :: xs => some (xs.foldl (fun b y => if y.rank s < b.rank s then y else b) x)

/-- Context, kind, cause, pc, address, unit, done mask, count, lane, flags, retired and stepped of a record (Table 16-3). -/
def recordBytes (serial ctx kind cause pc addr unit done count lane flags retired stepped : Nat) : List Byte :=
  bytesOf 4 serial ++ bytesOf 2 ctx ++ bytesOf 1 kind ++ bytesOf 1 cause ++ bytesOf 8 pc ++ bytesOf 8 addr ++ bytesOf 4 unit ++
    bytesOf 4 done ++ bytesOf 4 count ++ bytesOf 1 lane ++ bytesOf 1 flags ++ bytesOf 2 0 ++ bytesOf 8 retired ++
    bytesOf 8 stepped ++ bytesOf 8 0

/-- The bytes of a unit's record; its unit field is as it stood when the record was raised. -/
def unitRecord (un : UnitSt) (serial : Nat) (r : TrapRec) : List Byte :=
  recordBytes serial un.at_.ctx (b2n un.at_.strand) r.cause r.pc.toNat r.addr.toNat r.unit
    r.done.toNat r.count r.lane r.flags r.retired r.stepped.toNat

/-- The bytes of an engine or placement fault's record. -/
def engineRecord (serial : Nat) (f : EngFault) : List Byte :=
  recordBytes serial f.ctx (match f.what with | .copy _ _ => 2 | _ => 3) f.cause 0 f.addr.toNat f.unit 0 0 0
    (b2n f.write + 8 * b2n f.refused) 0 0

/-- The serial after one (R306). -/
def nextSerial (n : Nat) : Nat := if (n + 1) % 2 ^ 32 = 0 then 1 else (n + 1) % 2 ^ 32

/-- Delivery of a unit's record: the trap registers take its values (R103, R305). -/
def deliverTrap (un : UnitSt) (serial : Nat) (r : TrapRec) : UnitSt :=
  { un with
    parked := some (serial, r), traps := un.traps.erase r,
    ctl := { un.ctl with trapcause := w32 (r.cause + 256 * r.lane), trapaddr := r.addr, donemask := r.done } }

/-- The fault is parked under a serial. -/
def parkFault (s : State) (d serial : Nat) (p : Parked) : State :=
  s.modDie d (fun x => { x with serial := serial, parked := Tab.put x.parked serial p })

/-- The handler strand of a die learns of a record (R305). -/
def notifyHandler (s : State) (d serial pa : Nat) : State :=
  let h := rdNat s (faultBlock s d + 24) 4
  match s.unit? (strandUid h) with
  | some un => if un.at_.strand ∧ un.at_.ctx = 0 ∧ un.die = d then sendRecord s (strandUid h) 7 [w32 serial] [(pa, 64)] else s
  | none => s

/-- A copy command, a queue or a task learns the serial of its fault. -/
def markFault (s : State) (serial : Nat) : FaultOf → State
  | .copy core k => modCmd s core k (fun c => { c with st := .parked (some serial) })
  | .slot ctx q => modQueue s ctx q (fun x => { x with fault := some serial })
  | .task t => s.modTask t (fun x => { x with fault := some serial })
  | _ => s

/-- One record is written at the ring slot at pa, and fidx advances (R305). -/
def writeRecord (s : State) (d pa : Nat) (w : Due) : State :=
  let n := nextSerial (s.die d).serial
  let fidx := rdNat s (faultBlock s d + 16) 4
  let s := match w with
    | .unit u r =>
      match s.unit? u with
      | some un =>
        let s := poke s (run pa (unitRecord un n r))
        let s := s.putUnit u (deliverTrap un n r)
        parkFault s d n { what := .unit u r.entry, ctx := un.at_.ctx, cause := r.cause, pc := r.pc, handler := bit r.flags 2 }
      | none => s
    | .engine i f =>
      let s := poke s (run pa (engineRecord n f))
      let s := s.modDie d (fun x => { x with waiting := x.waiting.eraseIdx i })
      parkFault (markFault s n f.what) d n { what := f.what, ctx := f.ctx, cause := f.cause, pc := 0, handler := false }
  let s := poke s (run (faultBlock s d + 16) (bytesOf 4 ((fidx + 1) % 2 ^ 32)))
  notifyHandler s d n pa

/-- R305: the next due record of a die is written if its ring has room and can be written. -/
def execFaultRecordWrite (die : Nat) (s : State) : Out :=
  .next (match nextDue s die with
    | none => s
    | some w =>
      let blk := faultBlock s die
      let used := (rdNat s (blk + 16) 4 + 2 ^ 32 - rdNat s (blk + 20) 4) % 2 ^ 32
      match ringSlot s die 0 (rdNat s (blk + 16) 4) with
      | none => s
      | some va =>
        if 2 ^ rdNat s (blk + 8) 1 ≤ used then s else
        match xlate s 0 va true with
        | .ok pa =>
          let s := writeRecord s die pa w
          if (nextDue s die).isSome then wakeFaults s die else s
        | _ => s)

/-! Responses (R307) -/

/-- The 64 bytes of the response at rhead and its address, if rtail has passed it and it can be read. -/
def response? (s : State) (d : Nat) : Option (Nat × List Byte) :=
  let blk := faultBlock s d
  if rdNat s (blk + 128) 4 = rdNat s (blk + 192) 4 then none else
  match ringSlot s d 64 (rdNat s (blk + 192) 4) with
  | none => none
  | some va => (rdVirt s 0 va 64).map (fun bs => (va, bs))

/-- A field of a response. -/
def rf (bs : List Byte) (o n : Nat) : Nat := leAt bs o n

/-- The status of a response is written. -/
def respond (s : State) (va status : Nat) : State := pokeVirt s 0 (va + 1) (bytesOf 1 status)

abbrev stDone := 0
abbrev stNoFault := 1
abbrev stBadResponse := 2
abbrev stBusy := 3
abbrev stNoRoom := 4
abbrev stGanged := 5

/-- The response at rhead is begun: rhead advances. -/
def beginResponse (s : State) (d : Nat) : State :=
  let a := faultBlock s d + 192
  poke s (run a (bytesOf 4 ((rdNat s a 4 + 1) % 2 ^ 32)))

/-- The next response of the die is looked at later in this cycle. -/
def nextResponse (s : State) (d : Nat) : State :=
  match response? s d with
  | some r => let e := responseEvent d (rf r.2 0 1); if s.planned e then s else s.soon (.event e)
  | none => s

/-- An event of the responses of a die: the response at rhead, if its operation is among those given, is begun and acted on; the event of another operation follows in its place. -/
def onResponse (s : State) (d : Nat) (mine : Nat → Bool) (body : State → Nat → List Byte → State) : State :=
  match response? s d with
  | none => s
  | some (va, bs) =>
    let s := obtainVirt s 0 va 64
    if mine (rf bs 0 1) then
      let s := beginResponse s d
      nextResponse (if rf bs 32 32 = 0 then body s va bs else respond s va stBadResponse) d
    else nextResponse s d

/-- The parked fault that a response answers: none when its serial names no fault of its context. -/
def answers (s : State) (d : Nat) (bs : List Byte) : Option Parked :=
  match Tab.find? (s.die d).parked (rf bs 4 4) with
  | some p => if p.ctx = rf bs 2 2 then some p else none
  | none => none

/-- The fault of a response is no longer parked. -/
def unpark (s : State) (d : Nat) (bs : List Byte) : State := s.modDie d (fun x => { x with parked := Tab.del x.parked (rf bs 4 4) })

/-- The unit or copy command of a fault has been saved: it stands on a core number no die has. -/
def FaultOf.away : FaultOf → Bool
  | .unit u _ => decide (groupUid 65536 0 ≤ u)
  | .copy core _ => decide (65536 ≤ core)
  | _ => false

/-- The answer to the fault of a unit that has been saved takes effect once the unit is back (R306, R307). -/
def deferAnswer (s : State) (d va : Nat) (bs : List Byte) : State :=
  s.modDie d (fun x => { x with resps := x.resps ++ [{ slot := dw va, bytes := bs, stage := 0, since := s.now, targets := [] }] })

/-- The access that a trapped split was to replay is given up: its destinations stay empty with no producer (R24, R160); the cursor of a compress or expand, which keeps its value, is full again (R162). -/
def abandonAccess (un : UnitSt) (e : Nat) : UnitSt :=
  let ds := ownPending un e
  let cursors := un.ops.flatMap (fun (o : Nat × Op) => if faultedAt e o.2 then (match o.2.instr with
    | .cmpst y => [y.s]
    | .expld y => [y.s]
    | _ => []) else [])
  let un := dropFaulted un e
  let un := ds.foldl (fun un d => if feOf un d = .pending then setFe un d .empty else un) un
  cursors.foldl (fun un d => if feOf un d = .empty then setFe un d .full else un) un

/-- Causes raised by a fetch (Table 16-1). -/
def fetchCause (c : Nat) : Bool := decide (2 ≤ c) && decide (c ≤ 5)

/-- Causes for which ENTER is allowed (Table 16-1). -/
def mayEnter (c : Nat) : Bool :=
  decide (1 ≤ c ∧ c ≤ 5) || decide (8 ≤ c ∧ c ≤ 12) || [0x18, 0x20, 0x22, 0x28].contains c

/-- Status of RESUME, REDIRECT, ENTER or RETIRE, by its operation code, for a parked fault (R307). -/
def answerStatus (op : Nat) (p : Parked) : Nat :=
  let ofUnit := match p.what with | .unit _ _ => true | _ => false
  match op with
  | 1 => if ofUnit && (fetchCause p.cause || p.cause == causeMachineCheck) then stBadResponse else stDone
  | 2 => if ofUnit then stDone else stBadResponse
  | 3 => if ofUnit && mayEnter p.cause && !p.handler then stDone else stBadResponse
  | _ => stDone

/-- A trapped split enters handler mode at an address (R308). -/
def enterHandler (s : State) (u e : Nat) (r : TrapRec) (addr : DWord) : State :=
  s.modUnit u (fun un =>
    let un := { un with entries := un.entries.map (fun (x : Nat × Entry) => match x.2 with
      | .split sp => (x.1, .split (if x.1 = e then { sp.goto addr (un.at_.strand && localForm addr) with st := SplitSt.running }
          else if sp.st = SplitSt.running then { sp with st := .ready } else sp))
      | .join _ => x) }
    { un with
      mode := .handler e (match un.split? e with | some sp => sp.mask | none => 0), parked := none, handled := some r,
      ctl := { un.ctl with trapcause := w32 (r.cause + 256 * r.lane), trapaddr := r.addr, donemask := r.done } })

/-- The answer to a trapped unit, by operation code (Table 16-5). -/
def answerUnit (s : State) (op u e : Nat) (cause : Nat) (bs : List Byte) : State :=
  match s.unit? u with
  | none => s
  | some un =>
    match un.parked with
    | none => s
    | some (_, r) =>
      match op with
      | 1 =>
        let s := if cause = causeWatch then s.modDebug un.cell (fun d => { d with pass := (u, e) :: d.pass }) else s
        let un := if un.at_.strand then un else { un with ctl := { un.ctl with donemask := w32 (rf bs 16 4) } }
        answered (s.putUnit u (resumeAt un e (resumePc s un r r.pc) (if un.at_.strand then 0 else w32 (rf bs 16 4)))) u
      | 2 =>
        let un := abandonAccess { un with ctl := { un.ctl with donemask := 0 } } e
        answered (s.putUnit u (resumeAt un e (dw (rf bs 8 8)) 0)) u
      | 3 => enterHandler s u e r (dw (rf bs 8 8))
      | _ =>
        let un := abandonAccess { un with parked := none, ctl := { un.ctl with donemask := 0 } } e
        wakeTraps (exitLanes (s.putUnit u un) u e) un

/-- The answer to a parked copy command (R230). -/
def answerCopy (s : State) (op core k : Nat) : State :=
  match cmd? s core k with
  | none => s
  | some c =>
    match c.st with
    | .parked _ =>
      if op = 1 then (modCmd s core k (fun c => { c with st := .live })).laterFree (copyEvent core k (bits (cw c.words 0) 3 0))
      else cmdDone (modCmd s core k (fun c => { c with failed := true })) core k
    | _ => s

/-- The answer to a placement fault (R286, R289). -/
def answerPlacement (s : State) (op : Nat) : FaultOf → State
  | .slot ctx q => modQueue s ctx q (fun x => { x with fault := none, zero := if op = 4 then true else x.zero })
  | .task t =>
    let s := s.modTask t (fun x => { x with fault := none })
    if op = 4 then refuseTask s t 2 else s
  | _ => s

/-- RESUME, REDIRECT, ENTER and RETIRE: the fault is answered (R307, Table 16-5). -/
def answer (op : Nat) (d : Nat) (s : State) (va : Nat) (bs : List Byte) : State :=
  match answers s d bs with
  | none => respond s va stNoFault
  | some p =>
    if answerStatus op p ≠ stDone then respond s va (answerStatus op p) else
    if p.what.away then deferAnswer s d va bs else
    match p.what with
    | .unit u e => respond (answerUnit (unpark s d bs) op u e p.cause bs) va stDone
    | .copy core k => respond (answerCopy (unpark s d bs) op core k) va stDone
    | w => respond (answerPlacement (unpark s d bs) op w) va stDone

/-- R307: RESUME; an operation code of 0 or above 11 is a bad response. -/
def execResume (die : Nat) (s : State) : Out :=
  .next (onResponse s die (fun op => decide (op ≤ 1 ∨ 11 < op)) (fun s va bs =>
    if rf bs 0 1 = 1 then answer 1 die s va bs else respond s va stBadResponse))

/-- R307. -/
def execRedirect (die : Nat) (s : State) : Out := .next (onResponse s die (· == 2) (answer 2 die))

/-- R308. -/
def execEnter (die : Nat) (s : State) : Out := .next (onResponse s die (· == 3) (answer 3 die))

/-- R307. -/
def execRetire (die : Nat) (s : State) : Out := .next (onResponse s die (· == 4) (answer 4 die))

/-! INVAL (R311) -/

/-- The entry covers some byte of a range. -/
def Tlb.meets (t : Tlb) (ctx a n : Nat) : Bool := t.ctx == ctx && decide (t.va < a + n) && decide (a < t.va + 2 ^ t.lg)

/-- An access of a context begun by a cycle, of an address in a range, is still outstanding. -/
def accessOpen (s : State) (ctx a n since : Nat) : Bool :=
  s.units.any (fun (e : Nat × UnitSt) => decide (e.2.at_.ctx = ctx) && e.2.ops.any (fun (o : Nat × Op) =>
    isMemory o.2.instr && decide (o.2.stage < 2) && decide (o.2.issued ≤ since) &&
      o.2.addr.any (fun (x : Nat × DWord) => decide (x.2.toNat < a + n) && decide (a < x.2.toNat + opBytes o.2.instr))))

/-- The context, first address and length of an INVAL. -/
def invalRange (bs : List Byte) : Nat × Nat × Nat := (rf bs 2 2, rf bs 8 8, 4096 * rf bs 20 4)

/-- INVALs of a die whose accesses have completed get their status. -/
def settleInvals (s : State) (d : Nat) : State :=
  let z := (s.die d).resps.filter (fun r => rf r.bytes 0 1 == 6)
  let z := z.filter (fun r => let g := invalRange r.bytes; !accessOpen s g.1 g.2.1 g.2.2 r.since)
  let s := s.modDie d (fun x => { x with resps := x.resps.filter (fun r => !z.contains r) })
  z.foldl (fun s r => respond s r.slot.toNat stDone) s

/-- R311: the entries are dropped, and the status follows when the accesses that used them have completed. -/
def execInval (die : Nat) (s : State) : Out :=
  .next (
    let s := onResponse s die (· == 6) (fun s va bs =>
      let g := invalRange bs
      let s := dropTlbs s (fun t => t.meets g.1 g.2.1 g.2.2)
      s.modDie die (fun x => { x with resps := x.resps ++ [{ slot := dw va, bytes := bs, stage := 0, since := s.now, targets := [] }] }))
    let s := settleInvals s die
    if (s.die die).resps.any (fun r => rf r.bytes 0 1 == 6) then s.later 1 (.event (.inval die)) else s)

end Sys2Proof.Machine
end

