-- ==== Sys2Proof/Machine/Image.lean ====
section
/-! DEFINITION. The saved image of a team or strand: its bytes, and what a restore reads back from them (16 R314, R315, Tables 16-8 and 16-9). -/

namespace Sys2Proof.Machine

/-- The bytes of an item in a field of n bytes. -/
def fieldOf (n : Nat) (bs : List Byte) : List Byte := (bs ++ List.replicate n 0).take n

/-- A name of an entry in one byte, all ones for none. -/
def nameByte (o : Option Nat) : List Byte := bytesOf 1 (o.getD 255)

/-- An address of eight bytes, all ones for none. -/
def addrBytes (o : Option DWord) : List Byte := bytesOf 8 (match o with | some a => a.toNat | none => 2 ^ 64 - 1)

/-- A set of numbers below n as bits. -/
def bitsOf (n : Nat) (f : Nat → Bool) : Nat := (List.range n).foldl (fun m i => if f i then m + 2 ^ i else m) 0

/-- The words of a list as bytes. -/
def wordBytes (ws : List Word) : List Byte := ws.flatMap (fun w => bytesOf 4 w.toNat)

/-- The words at an offset. -/
def wordsAt (bs : List Byte) (o n : Nat) : List Word := (List.range n).map (fun i => w32 (leAt bs (o + 4 * i) 4))

/-! Parts of a group record (Table 16-9) -/

/-- The code of a split's state. -/
def splitCode : SplitSt → Nat
  | .running => 0 | .ready => 1 | .parked => 2 | .trapped => 3

/-- The 32 bytes of an entry. -/
def entryBytes (o : Option Entry) : List Byte :=
  match o with
  | none => List.replicate 32 0
  | some (.split x) =>
    bytesOf 1 1 ++ bytesOf 1 (splitCode x.st) ++ nameByte x.join ++ bytesOf 1 255 ++ bytesOf 4 x.mask.toNat ++ bytesOf 8 0 ++
      bytesOf 8 x.pc.toNat ++ addrBytes x.ra
  | some (.join x) =>
    bytesOf 1 2 ++ bytesOf 2 0 ++ nameByte x.joinOut ++ bytesOf 4 x.expect.toNat ++ bytesOf 4 x.arrived.toNat ++ bytesOf 4 0 ++
      bytesOf 8 x.ra.toNat ++ addrBytes x.raOut

/-- The 20 bytes of a loop record. -/
def loopBytes (un : UnitSt) (i : Nat) : List Byte :=
  let l := (Tab.find? un.loops i).getD ⟨0, 0⟩
  bytesOf 4 (Tab.get 0 un.regs.lc i).toNat ++ bytesOf 8 (l.start.toNat / 2 * 2 + b2n (un.nest.contains i)) ++ bytesOf 8 l.fin.toNat

/-- The endpoint word of a unit (Table 11-3). -/
def endpointWord (s : State) (u : Nat) : Nat :=
  match s.unit? u with
  | some x =>
    if x.at_.strand then 2 ^ 30 + x.at_.core % 384 + 2 ^ 9 * x.at_.slot else 2 ^ 31 + x.at_.core % 128 + 2 ^ 7 * x.at_.slot
  | none => 0

/-- The bytes of a port: its word and the endpoint word of its binding. -/
def portBytes (s : State) (un : UnitSt) (r : Nat) : List Byte :=
  let p := portOf un r
  bytesOf 4 (p.word.getD 0).toNat ++ bytesOf 4 (match p.peer with | some (v, _) => endpointWord s v | none => 0)

/-- The batches: open number, highest completed, failed mark, failing address. -/
def batchBytes (un : UnitSt) : List Byte :=
  let closed := un.eng.batches.filter (fun b => w32 b.1 ≠ un.eng.batchNo)
  let first := match closed.filter (fun b => b.2.left ≠ 0) with | b :: _ => w32 b.1 | [] => un.eng.batchNo
  let failed := closed.findSome? (fun b => b.2.failed)
  bytesOf 4 un.eng.batchNo.toNat ++ bytesOf 4 (first - 1).toNat ++ bytesOf 4 (b2n failed.isSome) ++
    bytesOf 4 ((failed.getD 0).toNat % 2 ^ 32)

/-- The assembly buffers and their word counts. -/
def asmBytes (un : UnitSt) : List Byte :=
  [0, 1, 2].flatMap (fun r => fieldOf 64 (wordBytes (asmOf un r))) ++ [0, 1, 2].flatMap (fun r => bytesOf 2 (asmOf un r).length) ++
    bytesOf 2 0

/-- A result queue: its count and 64 words. -/
def resultBytes (un : UnitSt) (r : Nat) : List Byte :=
  bytesOf 4 (resultQ un r).length ++ fieldOf 256 (wordBytes (resultQ un r))

/-- The parked copy command of a unit. -/
def parkedCopy (s : State) (u : Nat) (un : UnitSt) : Option CopyCmd :=
  if un.at_.strand then none else
  (List.find? (fun (e : Nat × CopyCmd) => decide (e.2.unit = u) && (match e.2.st with | .parked _ => true | _ => false))
    (s.core un.at_.core).cmds).map (·.2)

/-- The lane-to-strand section of a gathered group. -/
def sumpBytes (s : State) (un : UnitSt) : List Byte :=
  match un.gather with
  | none => List.replicate 136 0
  | some g => bytesOf 2 g.b ++ bytesOf 2 g.n ++ lanes32.flatMap (fun l => bytesOf 4 (match Tab.find? g.strands l with
      | some v => (match s.unit? v with | some x => x.strandId | none => 2 ^ 32 - 1)
      | none => 2 ^ 32 - 1)) ++ bytesOf 4 0

/-- The parked fault record of a unit. -/
def faultBytes (un : UnitSt) : List Byte :=
  match un.parked with
  | some (n, r) => unitRecord un n r
  | none => List.replicate 64 0

/-- A per-lane register. -/
def laneBytes32 (f : Nat → Word) : List Byte := lanes32.flatMap (fun l => bytesOf 4 (f l).toNat)

/-- Bytes 0 to 543 of a record: registers, full/empty bits, predicates, loops. -/
def recordHead (un : UnitSt) : List Byte :=
  (List.range 64).flatMap (fun i => bytesOf 4 (readS un i).toNat) ++
    bytesOf 128 (bitsOf 1024 (fun i => decide (Tab.get Fe.full un.regs.vfe i = .full))) ++
    bytesOf 8 (bitsOf 64 (fun i => decide (Tab.get Fe.full un.regs.sfe i = .full))) ++
    bytesOf 2 (bitsOf 16 (fun i => (portOf un i).word.isSome)) ++ bytesOf 6 0 ++
    (List.range 16).flatMap (fun i => bytesOf 4 (predMask un (Fin.ofNat 16 i)).toNat) ++
    (List.range 4).flatMap (loopBytes un)

/-- Bytes 544 to 1,567: the reconvergence structure, or a strand's PC. -/
def recordSplits (un : UnitSt) : List Byte :=
  if un.at_.strand then fieldOf 1024 (bytesOf 8 (match un.splits with | e :: _ => e.2.pc.toNat | [] => 0))
  else (List.range 32).flatMap (fun i => entryBytes (Tab.find? un.entries i))

/-- Bytes 1,568 to 1,991: control registers. -/
def recordCtl (un : UnitSt) : List Byte :=
  let c := un.ctl
  bytesOf 4 c.trapcause.toNat ++ bytesOf 4 c.round.toNat ++ bytesOf 4 c.donemask.toNat ++ bytesOf 4 0 ++
    bytesOf 8 c.trapaddr.toNat ++ bytesOf 8 c.pathsig.toNat ++ bytesOf 8 c.retired.toNat ++
    laneBytes32 (fun l => Tab.get 0 c.trapmask l) ++ laneBytes32 (fun l => Tab.get 0 c.fpflags l + 256 * c.mflags) ++
    laneBytes32 (fun l => Tab.get 0 c.lfsr l)

/-- Bytes 1,992 on: fault, ports, engine windows, Sump. -/
def recordTail (s : State) (u : Nat) (un : UnitSt) : List Byte :=
  faultBytes un ++ (List.range 16).flatMap (portBytes s un) ++ batchBytes un ++ asmBytes un ++
    (List.range 8).flatMap (resultBytes un) ++
    (match parkedCopy s u un with
     | some c => fieldOf 32 (wordBytes c.words) ++ bytesOf 8 c.pos
     | none => List.replicate 40 0) ++ sumpBytes s un

/-- The record of a unit. -/
def unitImage (s : State) (u : Nat) (un : UnitSt) : List Byte :=
  fieldOf (if un.at_.strand then 4096 else 8192) (recordHead un ++ recordSplits un ++ recordCtl un ++ recordTail s u un)

/-! Reading a record back -/

/-- An entry as its bytes give it; the bytes that its own state would have written leave it as it is, with its wait. -/
def entryFrom (own : Option Entry) (bs : List Byte) : Option Entry :=
  if entryBytes own = bs then own else
  let name (o : Nat) : Option Nat := if leAt bs o 1 < 32 then some (leAt bs o 1) else none
  let addr (o : Nat) : Option DWord := if leAt bs o 8 = 2 ^ 64 - 1 then none else some (dw (leAt bs o 8))
  match leAt bs 0 1 with
  | 1 =>
    let st : SplitSt := match leAt bs 1 1 with | 0 => .running | 3 => .trapped | _ => .ready
    some (.split { pc := dw (leAt bs 16 8), mask := w32 (leAt bs 4 4), ra := addr 24, join := name 2, st := st, wait := none,
                   stage := 0, loc := false, line := none, walked := [], skip := 0 })
  | 2 => some (.join { ra := dw (leAt bs 16 8), expect := w32 (leAt bs 4 4), arrived := w32 (leAt bs 8 4), raOut := addr 24, joinOut := name 3 })
  | _ => none

/-- A full/empty bit as an image gives it: an empty register keeps its pending producer (R26). -/
def feFrom (own : Fe) (full : Bool) : Fe := if full then .full else if own = .pending then .pending else .empty

/-- The registers an image gives. -/
def regsFrom (r : Regs) (bs : List Byte) : Regs :=
  { r with
    s := (List.range 64).foldl (fun t i => Tab.set 0 t i (w32 (leAt bs (4 * i) 4))) []
    vfe := (List.range 1024).foldl (fun t i => Tab.set Fe.full t i (feFrom (Tab.get Fe.full t i) (bit (leAt bs (256 + i / 8) 1) (i % 8)))) r.vfe
    sfe := (List.range 64).foldl (fun t i => Tab.set Fe.full t i (feFrom (Tab.get Fe.full t i) (bit (leAt bs (384 + i / 8) 1) (i % 8)))) r.sfe
    p := (List.range 15).foldl (fun t i => Tab.set 0 t i (w32 (leAt bs (400 + 4 * i) 4))) []
    lc := (List.range 4).foldl (fun t i => Tab.set 0 t i (w32 (leAt bs (464 + 20 * i) 4))) []
    q := (List.range 16).foldl (fun t i =>
      let p := Tab.get ⟨none, none, false, none⟩ t i
      Tab.set ⟨none, none, false, none⟩ t i
        { p with word := if bit (leAt bs 392 2) i then some (w32 (leAt bs (2056 + 8 * i) 4)) else none }) r.q }

/-- The loop records an image gives; the active ones keep their nesting. -/
def loopsFrom (un : UnitSt) (bs : List Byte) : UnitSt :=
  let rec_ (i : Nat) : LoopRec := ⟨dw (leAt bs (468 + 20 * i) 8 / 2 * 2), dw (leAt bs (476 + 20 * i) 8)⟩
  let on (i : Nat) : Bool := bit (leAt bs (468 + 20 * i) 8) 0
  { un with
    loops := (List.range 4).foldl (fun t i => if Tab.find? t i = none ∧ rec_ i = ⟨0, 0⟩ then t else Tab.put t i (rec_ i)) un.loops
    nest := un.nest.filter on ++ (List.range 4).filter (fun i => on i && !un.nest.contains i) }

/-- The control registers an image gives. -/
def ctlFrom (un : UnitSt) (bs : List Byte) : UnitSt :=
  let lane (o l : Nat) : Word := w32 (leAt bs (o + 4 * l) 4)
  let all (o : Nat) (m : Word) : Tab Word := lanes32.foldl (fun t l => Tab.set 0 t l (lane o l &&& m)) []
  { un with ctl :=
    { trapcause := w32 (leAt bs 1568 4) &&& 0x1FFF, round := w32 (leAt bs 1572 4) &&& 3, donemask := w32 (leAt bs 1576 4),
      trapaddr := dw (leAt bs 1584 8), pathsig := dw (leAt bs 1592 8), retired := dw (leAt bs 1600 8),
      trapmask := all 1608 0x1F, fpflags := all 1736 0x1F, mflags := (lane 1736 0 >>> 8) &&& 0x1F,
      lfsr := lanes32.foldl (fun t l => Tab.set 0 t l (lfsrWord (lane 1864 l))) [] } }

/-- The engine windows an image gives. -/
def engFrom (un : UnitSt) (bs : List Byte) : UnitSt :=
  let asm := [0, 1, 2].foldl (fun t r => Tab.set [] t r (wordsAt bs (2200 + 64 * r) (min 16 (leAt bs (2392 + 2 * r) 2)))) un.eng.asm
  let res := (List.range 8).foldl (fun t r =>
    let own := resultBytes un r
    if 2660 + 260 * r ≤ bs.length ∧ (bs.drop (2400 + 260 * r)).take 260 ≠ own then
      Tab.set [] t r [⟨wordsAt bs (2404 + 260 * r) (min 64 (leAt bs (2400 + 260 * r) 4)), [], true⟩]
    else t) un.eng.res
  { un with eng := { un.eng with asm := asm, res := res, batchNo := w32 (leAt bs 2184 4) } }

/-- The splits an image gives. -/
def splitsFrom (un : UnitSt) (bs : List Byte) : UnitSt :=
  if un.at_.strand then
    { un with entries := un.entries.map (fun (e : Nat × Entry) => match e.2 with
        | .split sp => (e.1, .split (if sp.pc = dw (leAt bs 544 8) then sp
            else { sp.goto (dw (leAt bs 544 8)) (localForm (dw (leAt bs 544 8))) with
                   st := if sp.st = SplitSt.parked then SplitSt.ready else sp.st, wait := none, stage := 0 }))
        | .join _ => e) }
  else
    { un with entries := (List.range 32).filterMap (fun i =>
        (entryFrom (Tab.find? un.entries i) ((bs.drop (544 + 32 * i)).take 32)).map (fun e => (i, e))) }

/-- A strand keeps one lane of predicates and of per-lane registers (R17, R314). -/
def oneLane (un : UnitSt) : UnitSt :=
  if !un.at_.strand then un else
  let low (t : Tab Word) : Tab Word := t.filter (fun e => decide (e.1 = 0))
  { un with
    regs := { un.regs with p := un.regs.p.foldl (fun t e => Tab.set 0 t e.1 (e.2 &&& 1)) [] }
    ctl := { un.ctl with trapmask := low un.ctl.trapmask, fpflags := low un.ctl.fpflags, lfsr := low un.ctl.lfsr, mflags := 0 } }

/-- A unit as its record gives it (R315). -/
def unitFrom (un : UnitSt) (bs : List Byte) : UnitSt :=
  oneLane <| engFrom (ctlFrom (loopsFrom (splitsFrom { un with regs := regsFrom un.regs bs } bs) bs) bs) bs

/-! Team images (R314, Table 16-8) -/

/-- The register blocks of a group, block-major as R249 orders them: each register's 32 lanes in turn. -/
def blockBytes (un : UnitSt) (blocks : Nat) : List Byte :=
  (List.range (8 * blocks)).flatMap (fun n => lanes32.flatMap (fun l => bytesOf 4 (readV un n l).toNat))

/-- The v registers an image gives. -/
def blocksFrom (un : UnitSt) (bs : List Byte) : UnitSt :=
  { un with regs := { un.regs with
      v := (List.range (bs.length / 4)).foldl (fun t i => Tab.set 0 t i (w32 (leAt bs (4 * i) 4))) [] } }

/-- The tiles of a team on a core. -/
def teamTiles (s : State) (c key : Nat) : List (Nat × Tile) := (s.core c).ci.tiles.filter (fun (e : Nat × Tile) => decide (e.2.team = key))

/-- The array is held by a team. -/
def heldBy (s : State) (c key : Nat) : Bool := decide ((s.core c).mx.holder = some key)

/-- Superstep mode of a team's task. -/
def inSuperstep (s : State) (t : Team) : Bool := match s.task? t.task with | some x => x.rec_.superstep && !t.sump | none => false

/-- The header of a team image, for n messages in the Spillway. -/
def headerBytes (s : State) (key : Nat) (t : Team) (n : Nat) : List Byte :=
  let m := (s.core t.core).mx
  let held := heldBy s t.core key
  let sup := inSuperstep s t
  let edited := t.edited || t.groups.any (fun u => match s.unit? u with | some un => un.edited | none => false)
  let (w, h) := match s.cluster? t.cluster with | some k => (k.w, k.h) | none => (1, 1)
  fieldOf 64 (
    bytesOf 2 1 ++ bytesOf 1 0 ++ bytesOf 1 t.groups.length ++ bytesOf 2 t.ctx ++ bytesOf 1 t.regblk ++ bytesOf 1 (if held then m.n else 0) ++
    bytesOf 4 (b2n edited + 2 * b2n held + 4 * b2n (held && m.gang) + 8 * b2n t.sump + 16 * b2n sup + 32 * b2n t.graphics) ++
    bytesOf 4 t.scrSize ++ bytesOf 4 t.hiwater ++ bytesOf 4 (teamTiles s t.core key).length ++
    bytesOf 4 (w + 16 * h + 256 * t.pos) ++ bytesOf 4 (t.poolw.getD 0) ++ bytesOf 8 t.desc.toNat ++ bytesOf 4 (144 * n) ++
    bytesOf 4 t.gteam ++
    bytesOf 8 (if sup then (match t.latch with | some (a, l) => a + 2 ^ 32 * l | none => 2 ^ 64 - 1) else 0) ++
    bytesOf 4 (if sup then (match s.task? t.task with | some x => x.barriers | none => 0) else 0))

/-! Matrix state (Table 10-7)

The table orders the state; the widths and places of what it does not size are the model's DESIGN CHOICE: words of four bytes, a staging
slot's elements line by line, 32 bytes for a queue entry and 48 for a pending staging. -/

/-- Code of a staged tag. -/
def STag.code : STag → Nat
  | .aBf16 => 0 | .aF32 => 1 | .bBf16 => 2 | .bF32 => 3

/-- Tag of a code. -/
def tagOfCode (n : Nat) : STag :=
  match n with
  | 0 => .aBf16 | 1 => .aF32 | 2 => .bBf16 | _ => .bF32

/-- Elements of a line of a staged tile, and bytes of an element: each tile has 3 KiB (Table 10-4). -/
def STag.line : STag → Nat × Nat
  | .aBf16 => (48, 2) | .aF32 => (24, 4) | .bBf16 => (32, 2) | .bF32 => (32, 4)

/-- The 3 KiB of a slot, and its state and tag. -/
def slotBytes (o : Option StageSlot) : List Byte :=
  match o with
  | none => List.replicate 3074 0
  | some x =>
    let (w, z) := x.tag.line
    (List.range (3072 / z)).flatMap (fun i => bytesOf z (Tab.get 0 x.data (i / w * 64 + i % w))) ++
      bytesOf 1 (if x.full then 2 else 1) ++ bytesOf 1 x.tag.code

/-- A slot as its bytes give it; a slot that stays one keeps the count of its writes. -/
def slotFrom (own : Option StageSlot) (bs : List Byte) : Option StageSlot :=
  let tag := tagOfCode (leAt bs 3073 1)
  let (w, z) := tag.line
  if leAt bs 3072 1 = 0 then none
  else some { full := leAt bs 3072 1 == 2, tag := tag, version := (own.map (·.version)).getD 0,
              data := (List.range (3072 / z)).foldl (fun t i => Tab.set 0 t (i / w * 64 + i % w) (leAt bs (z * i) z)) [] }

/-- The bytes of an instruction as it is encoded. -/
def instrBytes (i : Instr) : List Byte :=
  fieldOf 16 (match encode i with | some c => bytesOf 4 c.head ++ c.tail.flatMap (bytesOf 4) | none => [])

/-- id.gint of a unit. -/
def gintOf (s : State) (u : Nat) : Nat := match s.unit? u with | some un => un.at_.gint | none => 0

/-- A queue entry that has not started: its address, issuing group and instruction. -/
def queueBytes (s : State) (e : MEntry) : List Byte :=
  bytesOf 8 e.pc.toNat ++ bytesOf 4 (gintOf s e.unit) ++ bytesOf 4 1 ++ instrBytes e.instr

/-- A staging that is not yet full: its instruction, address and slot. -/
def pendBytes (s : State) (p : PendStage) : List Byte :=
  bytesOf 8 p.pc.toNat ++ bytesOf 4 (gintOf s p.unit) ++ bytesOf 4 p.slot ++ bytesOf 8 p.addr ++ bytesOf 4 p.stride ++ bytesOf 4 p.tag ++
    instrBytes p.instr

/-- A latch by its slot number, all ones for none. -/
def latchBytes (o : Option (Nat × Nat)) : List Byte := bytesOf 4 (match o with | some (k, _) => k | none => 2 ^ 32 - 1)

/-- Bytes before the staging section: header word and accumulators. -/
abbrev stagingAt := 4 + 32768

/-- The matrix state of a team on a core. -/
def matrixBytes (s : State) (t : Team) : List Byte :=
  let m := (s.core t.core).mx
  bytesOf 4 (t.slot + 2 ^ 16 * m.n) ++ (List.range 8192).flatMap (fun i => bytesOf 4 (Tab.get 0 m.acc i).toNat) ++
    (List.range (slotCount m.n)).flatMap (fun k => slotBytes (m.slot? k)) ++ latchBytes m.latchA ++ latchBytes m.latchB ++
    fieldOf 128 (m.queue.flatMap (queueBytes s)) ++ bytesOf 4 (b2n m.gang) ++ bytesOf 4 t.gangCount ++ bytesOf 4 m.gangNo ++
    bytesOf 4 m.pend.length ++ m.pend.flatMap (fun p => pendBytes s p.2)

/-- A latch as an image gives it: the slot's contents are read again. -/
def latchFrom (slots : Tab StageSlot) (bs : List Byte) (o : Nat) : Option (Nat × Nat) :=
  let k := leAt bs o 4
  (Tab.find? slots k).map (fun x => (k, x.version))

/-- The array as an image gives it: accumulators, slots, latches and gang words; its queue and its pending stagings stay those of the groups' own outstanding instructions. -/
def matrixFrom (m : Matrix) (bs : List Byte) : Matrix :=
  let k := slotCount m.n
  let slots := (List.range k).filterMap (fun i => (slotFrom (m.slot? i) ((bs.drop (stagingAt + 3074 * i)).take 3074)).map (fun x => (i, x)))
  let o := stagingAt + 3074 * k
  { m with
    acc := (List.range 8192).foldl (fun t i => Tab.set 0 t i (w32 (leAt bs (4 + 4 * i) 4))) [], slots := slots
    latchA := latchFrom slots bs o, latchB := latchFrom slots bs (o + 4), gang := leAt bs (o + 136) 4 != 0, gangNo := leAt bs (o + 144) 4 }

/-- The sections of a team image in order; those of the messages, whose bytes the spec does not lay out, are free bytes. -/
def teamSections (s : State) (key : Nat) (t : Team) (n : Nat) : List (List Byte) :=
  let un (u : Nat) : List Byte := match s.unit? u with | some x => unitImage s u x | none => List.replicate 8192 0
  let vs (u : Nat) : List Byte := match s.unit? u with | some x => blockBytes x t.regblk | none => []
  let free (k m : Nat) : List Byte := (List.range m).map (fun i => Config.freeByte (s.draws + k + i))
  [headerBytes s key t n, t.groups.flatMap un, t.groups.flatMap vs, (List.range t.hiwater).map t.byte,
   (teamTiles s t.core key).flatMap (fun e => bytesOf 4 e.1 ++ List.replicate 60 0 ++ (List.range 512).map (fun i => Tab.get 0 e.2.data i)),
   if heldBy s t.core key then matrixBytes s t else [], free 0 (144 * n)]

/-- Offsets of the sections: each begins at the next boundary of 4 KiB. -/
def sectionStarts : Nat → List (List Byte) → List Nat
  | _, [] => []
  | o, x :: xs => o :: sectionStarts (o + ceilDiv x.length 4096 * 4096) xs

/-- The image of a team is written at an address of context 0. -/
def writeTeamImage (s : State) (key : Nat) (t : Team) (area n : Nat) : State :=
  let secs := teamSections s key t n
  let s' := ((sectionStarts area secs).zip secs).foldl (fun s e => pokeVirt s 0 e.1 e.2) s
  { s' with draws := s.draws + 144 * n }

/-- A section of an image as it stands in memory. -/
def readSection (s : State) (a n : Nat) : List Byte := (rdVirt s 0 a n).getD (List.replicate n 0)

/-- The part obtains the lines of an image that it reads (R264). -/
def obtainSections (s : State) (area : Nat) (l : List (Nat × Nat)) : State := l.foldl (fun s e => obtainVirt s 0 (area + e.1) e.2) s

/-! What the tail of a record gives back (R315): each field whose bytes are no longer those the save wrote -/

/-- The unit of a context on a die with an id.strand. -/
def strandNamed (s : State) (ctx id : Nat) : Option Nat :=
  (List.find? (fun (e : Nat × UnitSt) => e.2.at_.strand && decide (e.2.at_.ctx = ctx) && decide (e.2.strandId = id)) s.units).map (·.1)

/-- A parked fault as its record gives it, of the split that was trapped. -/
def faultFrom (un : UnitSt) (bs : List Byte) : Option (Nat × TrapRec) :=
  let own := un.parked.map (·.2)
  let e := match own with
    | some r => r.entry
    | none => match un.splits.find? (fun x => decide (x.2.st = .trapped)) with | some x => x.1 | none => 0
  if bs.all (· == 0) then none
  else some (leAt bs 0 4,
    { cause := leAt bs 7 1, entry := e, lane := leAt bs 36 1, pc := dw (leAt bs 8 8), addr := dw (leAt bs 16 8), done := w32 (leAt bs 28 4),
      count := leAt bs 32 4, flags := leAt bs 37 1, retired := leAt bs 40 8, stepped := dw (leAt bs 48 8),
      cycle := (own.map (·.cycle)).getD 0, die := (own.map (·.die)).getD 0, unit := leAt bs 24 4, succ := own.bind (·.succ) })

/-- The batches that an image gives: those numbered up to the highest completed one are done, and a failure is the latest one's. -/
def batchesFrom (un : UnitSt) (bs : List Byte) : UnitSt :=
  let top := w32 (leAt bs 2188 4)
  let l := un.eng.batches.filter (fun b => !upTo (w32 b.1) top)
  let failed : Option DWord := if leAt bs 2192 4 = 0 then none else some (dw (leAt bs 2196 4))
  { un with eng := { un.eng with batches := if failed.isSome then Tab.put l top.toNat ⟨0, failed, []⟩ else l } }

/-- The Sump section that an image gives. -/
def gatherFrom (s : State) (un : UnitSt) (bs : List Byte) : UnitSt :=
  { un with gather := un.gather.map (fun g => { g with
      b := leAt bs 4520 2, n := leAt bs 4522 2
      strands := lanes32.foldl (fun t l => match strandNamed s un.at_.ctx (leAt bs (4524 + 4 * l) 4) with
        | some v => Tab.put t l v
        | none => Tab.del t l) [] }) }

/-- The parts of a record from byte 1,992 on that have been edited, for a unit that goes to a die. -/
def tailFrom (s : State) (die u : Nat) (old bs : List Byte) : State :=
  let edited (o n : Nat) : Bool := decide ((old.drop o).take n ≠ (bs.drop o).take n)
  let s := if edited 1992 64 then s.modUnit u (fun un => { un with parked := faultFrom un ((bs.drop 1992).take 64) }) else s
  let s := if edited 2184 16 then s.modUnit u (fun un => batchesFrom un bs) else s
  let s := if edited 4520 136 then s.modUnit u (fun un => gatherFrom s un bs) else s
  let s := (List.range 16).foldl (fun s r =>
    if edited (2060 + 8 * r) 4 then
      let peer := (endpoint die (leAt bs (2060 + 8 * r) 4)).map (fun z => (z.1, if r % 2 = 1 then r - 1 else r + 1))
      setPort s u r { portAt s u r with peer := peer.filter (fun z => (s.unit? z.1).isSome) }
    else s) s
  if edited 4480 40 then
    { s with cores := mapVals s.cores (fun k => { k with cmds := mapVals k.cmds (fun c =>
        match c.st with
        | .parked _ => if c.unit = u then { c with words := wordsAt bs 4480 8, pos := leAt bs 4512 8 } else c
        | _ => c) }) }
  else s

/-- The state of a saved team is taken from its image, field by field where the image lays it out (R315), given the records that the save wrote and the die it goes to. -/
def readTeamImage (s : State) (die key area : Nat) (wrote : List (List Byte)) : State :=
  match s.team? key with
  | none => s
  | some t =>
    let g := t.groups.length
    let tiles := teamTiles s t.core key
    let a1 := area + 4096
    let a2 := a1 + 8192 * g
    let a3 := a2 + ceilDiv (1024 * t.regblk * g) 4096 * 4096
    let a4 := a3 + ceilDiv t.hiwater 4096 * 4096
    let a5 := a4 + ceilDiv (576 * tiles.length) 4096 * 4096
    let held := heldBy s t.core key
    let mx := if held then (matrixBytes s t).length else 0
    let s := obtainSections s 0 [(area, 64), (a1, 8192 * g), (a2, 1024 * t.regblk * g), (a3, t.hiwater), (a4, 576 * tiles.length), (a5, mx)]
    let head := readSection s area 64
    let s := (t.groups.zip wrote).zipIdx.foldl (fun s u => tailFrom s die u.1.1 u.1.2 (readSection s (a1 + 8192 * u.2) 8192)) s
    let s := if held then
        let bs := readSection s a5 mx
        (s.modMx t.core (fun m => matrixFrom m bs)).modTeam key (fun t => { t with gangCount := leAt bs (stagingAt + 3074 * slotCount (s.core t.core).mx.n + 140) 4 })
      else s
    let s := if bit (leAt head 8 4) 4 then s.modTask t.task (fun x => { x with barriers := leAt head 56 4 }) else s
    let s := t.groups.zipIdx.foldl (fun s u => s.modUnit u.1 (fun un =>
      blocksFrom (unitFrom un (readSection s (a1 + 8192 * u.2) 8192)) (readSection s (a2 + 1024 * t.regblk * u.2) (1024 * t.regblk)))) s
    let bytes := readSection s a3 t.hiwater
    let latch := leAt head 48 8
    let s := s.modTeam key (fun t =>
      { bytes.zipIdx.foldl (fun t b => t.setByte b.2 b.1) t with
        edited := bit (leAt head 8 4) 0, poolw := some (leAt head 28 4),
        latch := if bit (leAt head 8 4) 4 then (if latch = 2 ^ 64 - 1 then none else some (latch % 2 ^ 32, latch / 2 ^ 32)) else t.latch })
    tiles.zipIdx.foldl (fun s e =>
      let bs := readSection s (a4 + 576 * e.2 + 64) 512
      s.modCi t.core (fun ci => { ci with tiles := Tab.modify ci.tiles e.1.1 (fun x =>
        { x with data := bs.zipIdx.foldl (fun m b => Tab.set 0 m b.2 b.1) [] }) })) s

end Sys2Proof.Machine
end

