-- ==== Sys2Proof/Machine/Save.lean ====
section
/-! DEFINITION. Saving units and restoring them, and messages for units that are away (01 R26; 10 R199, R200; 11 R208, R222; 13 R259; 14 R280; 16 R313 to R317; 19 R370). A saved unit stands on a core number no die has, from 65,536 on, with everything that travels with it. -/

namespace Sys2Proof.Machine

/-! Messages for stopped units (R316) -/

/-- Some group of a team is stopped. -/
def teamStopped (s : State) (t : Team) : Bool := t.groups.any (fun u => match s.unit? u with | some un => un.stopped | none => false)

/-- The stopped team whose scratchpad an LDSR or STSR of a running unit reaches, once the access may be performed (R158, R316). -/
def remoteAccess (s : State) (u k : Nat) : Option Nat :=
  match s.unit? u with
  | none => none
  | some un =>
    match Tab.find? un.ops k with
    | none => none
    | some o =>
      if un.stopped || o.stage != 0 || mustWait un k o then none else
      match o.instr with
      | .ldsr _ | .stsr _ => o.place.findSome? (fun (e : Nat × Place) => match e.2 with
          | .scr key _ => match s.team? key with | some t => if teamStopped s t then some key else none | none => none
          | _ => none)
      | _ => none

/-- A message that brings the lines of a .RMT staging to its core (R200). -/
def operandTag (s : State) (e : Event) : Option Nat :=
  match e with
  | .stagingComplete core n => match Tab.find? (s.core core).mx.pend n with
    | some p => match stageOf p.instr, p.bytes with
      | some (_, y), some _ => if y.space = .rmt then some p.tag else none
      | _, _ => none
    | none => none
  | _ => none

/-- The team that a message is for. -/
def messageTeam (s : State) (e : Event) : Option Nat :=
  let of_ (u : Nat) : Option Nat := (s.unit? u).bind (fun un => if un.at_.strand then none else some un.at_.team)
  match e with
  | .portWordArrival u _ _ | .remoteFill u _ _ | .resultRecordAppend u _ => of_ u
  | .barcSweepArrival cl _ x y _ | .barcSweepRelease cl _ x y =>
    (s.cluster? cl).bind (fun k => (teamAtPos s k (x + k.w * y)).map (·.1))
  | .gridBarrierRelease task core => (List.find? (fun (t : Nat × Team) => decide (t.2.core = core)) (gridTeams s task)).map (·.1)
  | .producerCompletion u k | .storeCompletion u k => remoteAccess s u k
  | .stagingComplete core _ => if (operandTag s e).isSome then (s.core core).mx.holder else none
  | _ => none

/-- Entries of the Spillway that a message takes, each of at most 128 bytes: one for each line of a staged tile (R316). -/
def entriesOf (s : State) (e : Event) : Nat :=
  match e with
  | .stagingComplete core n => match Tab.find? (s.core core).mx.pend n with
    | some p => match stageOf p.instr with | some (b, y) => (stageShape b y.fmt y.ns).1 | none => 1
    | none => 1
  | _ => 1

/-- Entries that messages take. -/
def entryCount (s : State) (l : List Event) : Nat := l.foldl (fun n e => n + entriesOf s e) 0

/-- The unit, or the core of the team, that a message is addressed to: a strand core or not, and its number. -/
def addressee (s : State) (e : Event) (stopped : Bool) : Option (Bool × Nat) :=
  let unit (u : Nat) : Option (Bool × Nat) := match s.unit? u with
    | some un => if un.stopped || !stopped then some (un.at_.strand, un.at_.core) else none
    | none => none
  let at_ (cl x y : Nat) : Option (Bool × Nat) := match s.cluster? cl with
    | some k => match teamAtPos s k (x + k.w * y) with
      | some (_, t) => if teamStopped s t || !stopped then some (false, t.core) else none
      | none => none
    | none => none
  match e with
  | .portWordArrival u _ _ | .remoteFill u _ _ | .resultRecordAppend u _ => unit u
  | .producerCompletion u k | .storeCompletion u k =>
    if stopped then (remoteAccess s u k).bind (fun key => (s.team? key).map (fun t => (false, t.core))) else unit u
  | .stagingComplete core _ =>
    if (operandTag s e).isNone then none else
    match (s.core core).mx.holder.bind s.team? with
    | some t => if teamStopped s t || !stopped then some (false, core) else none
    | none => none
  | .barcSweepArrival cl _ x y _ | .barcSweepRelease cl _ x y => at_ cl x y
  | .gridBarrierRelease task core =>
    if (gridTeams s task).any (fun t => decide (t.2.core = core) && (teamStopped s t.2 || !stopped)) then some (false, core) else none
  | _ => none

/-- Die of a core or strand core. -/
def dieOfSite (a : Bool × Nat) : Nat := if a.1 then a.2 / 384 else coreDie a.2

/-- Messages held for a core. -/
def spillOf (s : State) (a : Bool × Nat) : List Event := if a.1 then (s.score a.2).spillway else (s.core a.2).spillway

/-- Rewrites the messages held for a core. -/
def setSpill (s : State) (a : Bool × Nat) (l : List Event) : State :=
  if a.1 then s.modScore a.2 (fun c => { c with spillway := l }) else s.modCore a.2 (fun c => { c with spillway := l })

/-- A message for a frozen die, or for a stopped unit, does not take effect now: it is held at its interface, enters the Spillway, or waits in the mesh while the Spillway's 448 entries are full; for a saved unit it waits at its sender (R316, R317, R321). -/
def deferEvent (s : State) (e : Event) : Option State :=
  match (addressee s e false).filter (fun a => (s.die (dieOfSite a)).frozen) with
  | some a => some (s.modDie (dieOfSite a) (fun d => { d with held := d.held ++ [e] }))
  | none =>
    match addressee s e true with
    | some a =>
      if a.2 < 65536 ∧ 448 < entryCount s (spillOf s a) + entriesOf s e then some (s.later 1 (.event e)) else some (setSpill s a (spillOf s a ++ [e]))
    | none => none

/-- The messages held for a core take effect in the order in which they arrived; the matrix operands come after all others, in ascending tag (R200, R316). -/
def replaySpill (s : State) (a : Bool × Nat) : State :=
  let l := spillOf s a
  let late := sortBy (fun x y => decide (((operandTag s x).getD 0) < (operandTag s y).getD 0)) (l.filter (fun e => (operandTag s e).isSome))
  let s' := setSpill s a []
  { s' with agenda := s.agenda ++ (l.filter (fun e => (operandTag s e).isNone) ++ late).map Turn.event }

/-! Moving a team or strand from one core number to another -/

/-- A fault comes to name another unit or command. -/
def moveFault (s : State) (a b : FaultOf) : State :=
  let f (w : FaultOf) : FaultOf := if w = a then b else w
  { s with dies := mapVals s.dies (fun d => { d with
      waiting := d.waiting.map (fun x => { x with what := f x.what }), parked := mapVals d.parked (fun p => { p with what := f p.what }) }) }

/-- The copy commands of a unit pass from one core to another. -/
def carryCmds (s : State) (u c c' slot : Nat) : State :=
  ((s.core c).cmds.filter (fun (e : Nat × CopyCmd) => decide (e.2.unit = u))).foldl (fun s e =>
    let k := e.1 / 128 * 128 + slot
    let s := s.modCore c (fun x => { x with cmds := Tab.del x.cmds e.1 })
    moveFault (s.modCore c' (fun x => { x with cmds := Tab.put x.cmds k { e.2 with slot := slot } })) (.copy c e.1) (.copy c' k)) s

/-- The remote fills held for a unit pass with it (R26). -/
def carryFills (s : State) (u c c' : Nat) : State :=
  let l := (s.core c).fills
  let s := s.modCore c (fun x => { x with fills := l.filter (fun m => decide (m.u ≠ u)) })
  s.modCore c' (fun x => { x with fills := x.fills ++ l.filter (fun m => decide (m.u = u)) })

/-- The remote fills held for a strand pass with it. -/
def carryStrandFills (s : State) (u c c' : Nat) : State :=
  let l := (s.score c).fills
  let s := s.modScore c (fun x => { x with fills := l.filter (fun m => decide (m.u ≠ u)) })
  s.modScore c' (fun x => { x with fills := x.fills ++ l.filter (fun m => decide (m.u = u)) })

/-- A group takes its place on another core: its name, its commands and its held fills go with it. -/
def carryGroup (s : State) (u c' slot : Nat) : State :=
  match s.unit? u with
  | none => s
  | some un =>
    let c := un.at_.core
    let v := groupUid c' slot
    let s := s.modCi c (fun ci => freeBlocks ci u)
    let s := { s with units := Tab.put (Tab.del s.units u) v { un with at_ := { un.at_ with core := c', slot := slot } } }
    let s := renameUnit s u v
    carryFills (carryCmds s v c c' slot) v c c'

/-- A pending staging as it leaves: what it has read of its own core is read again on resume, and, when its whole cluster leaves, it asks its window again (R199, R200). -/
def carryPend (asks : Bool) (p : PendStage) : PendStage :=
  match stageOf p.instr with
  | some (_, y) => if y.space = .rmt then (if asks then { p with window := none } else p) else { p with bytes := none }
  | none => p

/-- The array a team holds passes with it: queue, slots, accumulators and pending stagings stay as they are (R199). When its whole cluster leaves, a staging that had joined a multicast window asks again unless its lines have come; otherwise the window goes on answering it (R200). -/
def carryArray (s : State) (c c' : Nat) (asks : Bool) : State :=
  let m := (s.core c).mx
  let drop (t : Turn) : Bool := match t with | .event (.stagingComplete k _) => decide (k ≠ c) | _ => true
  let s := s.modMx c' (fun _ => { m with pend := mapVals m.pend (carryPend asks) })
  let s := s.modMx c (fun _ => { Matrix.initial with nextPend := m.nextPend, reloc := m.reloc })
  let s := dropSlots s (fun w => match w with | .pend k _ => decide (k = c) | _ => false)
  let dest (r : Nat × Nat) : Nat × Nat := if r.1 = c then (c', r.2) else r
  { s with
    agenda := s.agenda.filter drop
    calendar := s.calendar.filter (fun e => drop e.2)
    cores := mapVals s.cores (fun k => { k with windows := mapVals k.windows (fun w => { w with req := w.req.map dest }) }) }

/-- The windows that teams of a core serve as source pass with them to a core that has none (R188). -/
def carryWindows (s : State) (c c' : Nat) : State :=
  let k := s.core c
  let s := s.modCore c' (fun x => { x with windows := k.windows, nextWindow := max x.nextWindow k.nextWindow })
  let s := dropSlots (s.modCore c (fun x => { x with windows := [] })) (fun w => match w with | .window k _ => decide (k = c) | _ => false)
  let dest (r : Nat × Nat) : Nat × Nat := if r.1 = c then (c', r.2) else r
  { s with cores := mapVals s.cores (fun x => { x with mx := { x.mx with pend := mapVals x.mx.pend (fun p => { p with window := p.window.map dest }) } }) }

/-- The open tiles of a team pass to another core, at their numbers. -/
def carryTiles (s : State) (key c c' : Nat) (homes : Bool) : State :=
  let ts := teamTiles s c key
  let s := s.modCi c (fun ci => { ci with tiles := ci.tiles.filter (fun (e : Nat × Tile) => decide (e.2.team ≠ key)) })
  let s := s.modCi c' (fun ci => { ci with
    tiles := ts.foldl (fun t e => Tab.put t e.1 (if homes then e.2 else { e.2 with home := none })) ci.tiles })
  { s with struck := s.struck.map (fun e => match e with
      | .tile k off => if k = c ∧ ts.any (fun (t : Nat × Tile) => decide (t.1 = off / 64)) then .tile c' off else e
      | e => e) }

/-- Superstep phases and barrier releases on their way follow a team to another core (R208, R370). -/
def carryPhase (s : State) (task c c' : Nat) : State :=
  let s := s.modTask task (fun t => { t with phase := match Tab.find? t.phase c with | some p => Tab.put t.phase c' p | none => t.phase })
  let also (t : Turn) : Bool := decide (t = .event (.gridBarrierRelease task c))
  let dest : Turn := .event (.gridBarrierRelease task c')
  { s with
    agenda := s.agenda ++ (s.agenda.filter also).map (fun _ => dest)
    calendar := s.calendar ++ (s.calendar.filter (fun e => also e.2)).map (fun e => (e.1, dest)) }

/-- A team passes to another core number and the slots given; its array passes separately. -/
def carryTeam (s : State) (key c' slot : Nat) (groups : List Nat) (homes : Bool) : State :=
  match s.team? key with
  | none => s
  | some t =>
    let c := t.core
    let s := (t.groups.zip groups).foldl (fun s g => carryGroup s g.1 c' g.2) s
    let s := carryTiles s key c c' homes
    let s := s.modTeam key (fun t => { t with core := c', slot := slot })
    let s := carryPhase s t.task c c'
    let l := (s.core c).spillway.map (fun e => match e with | .stagingComplete k n => if k = c ∧ heldBy s c' key = true then Event.stagingComplete c' n else e | e => e)
    let mine (e : Event) : Bool := decide (messageTeam s e = some key)
    setSpill (setSpill s (false, c) (l.filter (fun e => !mine e))) (false, c') ((s.core c').spillway ++ l.filter mine)

/-- Windows that a team served as source are closed (R188). -/
def dropWindows (s : State) (c key : Nat) : State :=
  s.modCore c (fun k => { k with windows := k.windows.filter (fun (w : Nat × Window) => decide (w.2.team ≠ key)) })

/-! Which units a save takes (R313) -/

/-- The teams of a grid in ascending id.gteam. -/
def byGteam (ts : List (Nat × Team)) : List Nat :=
  let top := ts.foldl (fun m t => max m (t.2.gteam + 1)) 0
  (List.range top).flatMap (fun g => ts.filterMap (fun t => if t.2.gteam = g then some t.1 else none))

/-- The teams that are saved with a team: its superstep grid, its cluster, or itself. -/
def teamSet (s : State) (key : Nat) (t : Team) : List Nat :=
  if t.sump then [key]
  else if inSuperstep s t then byGteam (gridTeams s t.task)
  else match s.cluster? t.cluster with
    | some k => (List.range (k.w * k.h)).filterMap (fun p => (teamAtPos s k p).map (·.1))
    | none => [key]

/-- The teams, or the strand, that an argument names: none when it names no live unit of the context. -/
def saveTargets (s : State) (ctx arg : Nat) : Option (List Nat) :=
  match bits arg 31 30 with
  | 0 =>
    if bits arg 29 13 ≠ 0 then none else
    match (teamsOf s (bits arg 8 0)).find? (fun t => decide (t.2.slot = bits arg 12 9) && decide (t.2.ctx = ctx)) with
    | some (key, t) => some (teamSet s key t)
    | none => none
  | 1 =>
    if bits arg 29 13 ≠ 0 ∨ 383 < bits arg 8 0 then none else
    let u := strandUid ((bits arg 12 11 * 384 + bits arg 8 0) * 4 + bits arg 10 9)
    match s.unit? u with
    | some un => if un.at_.ctx = ctx then some [u] else none
    | none => none
  | _ => none

/-- The response saves or restores strands. -/
def ofStrand (bs : List Byte) : Bool := bits (rf bs 20 4) 31 30 == 1

/-- Core of a target. -/
def targetCore (s : State) (strand : Bool) (k : Nat) : Nat :=
  if strand then (match s.unit? k with | some un => un.at_.core | none => 0) else teamCore s k

/-- Units of a target. -/
def targetUnits (s : State) (strand : Bool) (k : Nat) : List Nat :=
  if strand then [k] else match s.team? k with | some t => t.groups | none => []

/-- A core, or strand core, that is saving or migrating, or that holds a halted unit (R313, R374). -/
def siteBusy (s : State) (strand : Bool) (c : Nat) : Bool :=
  (if strand then (s.score c).saving else (s.core c).saving) ||
    s.units.any (fun (e : Nat × UnitSt) => e.2.at_.strand == strand && decide (e.2.at_.core = c) && e.2.halted.isSome)

/-- Forwarding and hold entries of a core. -/
def siteFwd (s : State) (strand : Bool) (c : Nat) : List Fwd := if strand then (s.score c).fwd else (s.core c).fwd

/-- Rewrites the entries of a core, a strand core being named 4,096 plus its number. -/
def modFwd (s : State) (site : Nat) (f : List Fwd → List Fwd) : State :=
  if 4096 ≤ site then s.modScore (site - 4096) (fun c => { c with fwd := f c.fwd }) else s.modCore site (fun c => { c with fwd := f c.fwd })

/-- The name of a core in route updates. -/
def siteName (strand : Bool) (c : Nat) : Nat := if strand then 4096 + c else c

/-- Marks a core as saving or no longer so. -/
def setSaving (s : State) (strand : Bool) (c : Nat) (b : Bool) : State :=
  if strand then s.modScore c (fun x => { x with saving := b }) else s.modCore c (fun x => { x with saving := b })

/-- Bytes of the save area that n units of a kind take. -/
def areaBytes (strand : Bool) (n : Nat) : Nat := if strand then 4096 else 2097152 * n

/-- Context 0 maps every page of an area writable. -/
def areaMapped (s : State) (a n : Nat) : Bool :=
  (List.range (n / 4096)).all (fun i => match xlate s 0 ((a + 4096 * i) % 2 ^ 64) true with | .ok _ => true | _ => false)

/-! Stopping and draining (R313, steps 1 to 4) -/

/-- Units stop issuing. -/
def stopUnits (s : State) (us : List Nat) : State := us.foldl (fun s u => s.modUnit u (fun un => { un with stopped := true })) s

/-- Units may issue again, from the next cycle on. -/
def goUnits (s : State) (us : List Nat) : State :=
  us.foldl (fun s u => s.modUnit u (fun un =>
    { un with stopped := false, sched := { un.sched with notBefore := max un.sched.notBefore (s.now + 1) } })) s

/-- The strand stands in a forming or formed group that has not been placed (R222). -/
def atSump (s : State) (u : Nat) (un : UnitSt) : Bool :=
  let c := s.cell un.cell
  c.forming.any (fun (f : Nat × Forming) => f.2.strands.contains u) || c.dispatched.any (fun f => f.strands.contains u)

/-- An operation that waits in the array's queue or as a pending staging, and is saved there (Table 10-7). -/
def waitsInArray (m : Matrix) (u k : Nat) : Bool :=
  m.queue.any (fun e => decide (e.unit = u) && decide (e.op = k) && (match e.instr with | .mst _ => true | _ => false)) ||
    m.pend.any (fun p => decide (p.2.unit = u) && decide (p.2.op = k))

/-- Nothing of a unit is outstanding but what a fault holds (R26, R226, R280). -/
def unitDrained (s : State) (u : Nat) : Bool :=
  match s.unit? u with
  | none => true
  | some un =>
    let k := s.core un.at_.core
    decide (un.mode ≠ .gathered) &&
      un.ops.all (fun (o : Nat × Op) => decide (o.2.stage = 2) || (!un.at_.strand && waitsInArray k.mx u o.1)) &&
      un.splits.all (fun x => match x.2.wait with | some (.svcAccept _ _) => false | _ => true) &&
      (un.at_.strand || k.cmds.all (fun (c : Nat × CopyCmd) => decide (c.2.unit ≠ u) || (match c.2.st with | .parked _ => true | _ => false)))

/-- A team is ready to leave: its units have drained, its raster requests have ended, and its core's array and roles are at rest (R199, R259, R328). -/
def teamDrained (s : State) (key : Nat) : Bool :=
  match s.team? key with
  | none => true
  | some t =>
    let k := s.core t.core
    t.groups.all (unitDrained s) && k.ci.move.isNone && k.mx.reloc.isNone &&
      (k.mx.exec.isNone || k.mx.holder != some key) &&
      dies4.all (fun d => (s.die d).reqs.all (fun (r : Nat × Req) => decide (r.2.svc ≠ .ras) || decide (r.2.team ≠ key)))

/-- A target is ready to leave. -/
def targetDrained (s : State) (strand : Bool) (k : Nat) : Bool := if strand then unitDrained s k else teamDrained s k

/-- PREEMPT is taken: its checks, and step 1. -/
def beginSave (d : Nat) (s : State) (va : Nat) (bs : List Byte) : State :=
  let strand := ofStrand bs
  let area := rf bs 24 8
  match saveTargets s (rf bs 2 2) (rf bs 20 4) with
  | none => respond s va stBadResponse
  | some ts =>
    let cores := (ts.map (targetCore s strand)).eraseDups
    if area % 4096 ≠ 0 ∨ areaMapped s area (areaBytes strand ts.length) = false then respond s va stBadResponse
    else if cores.any (siteBusy s strand) then respond s va stBusy
    else if cores.any (fun c => decide (16 < (siteFwd s strand c).length + (ts.filter (fun k => decide (targetCore s strand k = c))).length)) then
      respond s va stNoRoom
    else
      let s := cores.foldl (fun s c => setSaving s strand c true) s
      let s := stopUnits s (ts.flatMap (targetUnits s strand))
      let s := if strand then ts.foldl (fun s u => match s.unit? u with
          | some un => if atSump s u un then withdrawStrand s u else s
          | none => s) s
        else s
      s.modDie d (fun x => { x with resps := x.resps ++ [{ slot := dw va, bytes := bs, stage := 0, since := s.now, targets := ts }] })

/-! Leaving (R313, steps 4 to 7) -/

/-- Core numbers where saved units stand. -/
def enterSaved (s : State) (x : Saved) : State := { s with saved := Tab.put s.saved s.nextSaved x, nextSaved := s.nextSaved + 1 }

/-- A team leaves for its save area, which is image i of its set. -/
def saveTeam (s : State) (ctx area set key i : Nat) : State :=
  match s.team? key with
  | none => s
  | some t =>
    let c := t.core
    let f := s.nextSaved
    let n := nScr (s.core c)
    let held := heldBy s c key
    let staged := (s.core c).mx.n
    let s := writebackAll s c
    let msgs := entryCount s ((s.core c).spillway.filter (fun e => decide (messageTeam s e = some key)))
    let s := writeTeamImage s key t ((area + 2097152 * i) % 2 ^ 64) msgs
    let wrote := t.groups.map (fun u => match s.unit? u with | some un => unitImage s u un | none => [])
    let s := enterSaved s { ctx := ctx, area := dw area, set := set, strand := false, unit := key, home := c, since := s.now, wrote := wrote }
    let s := dropWindows s c key
    let s := if held then carryArray s c f true else s
    let s := carryTeam s key f t.slot (t.groups.zipIdx.map (·.2)) false
    let s := s.modTeam key (fun t => t.forget s.draws)
    let s := { s with draws := s.draws + t.scrSize + 1 }
    let s := if held then relocate s c n (n + staged) false else s
    let s := modFwd s c (fun l => l ++ [{ unit := key, dest := none, agents := [] }])
    let s := if (teamsOf s c).isEmpty then s.modCore c (fun k => { k with returning := true }) else s
    s.soon (.event (.balancerDeferredMove (coreDie c) c))

/-- A strand leaves for its save area. -/
def saveStrand (s : State) (ctx area u : Nat) : State :=
  match s.unit? u with
  | none => s
  | some un =>
    let sc := un.at_.core
    let f := s.nextSaved
    let bytes := unitImage s u un
    let s := pokeVirt s 0 area bytes
    let s := enterSaved s { ctx := ctx, area := dw area, set := f, strand := true, unit := u, home := 4096 + sc, since := s.now, wrote := [bytes] }
    let l := (s.score sc).spillway
    let mine (e : Event) : Bool := match e with
      | .portWordArrival v _ _ | .remoteFill v _ _ | .resultRecordAppend v _ => decide (v = u)
      | _ => false
    let s := setSpill (setSpill s (true, sc) (l.filter (fun e => !mine e))) (true, f) (l.filter mine)
    let v := groupUid f 0
    let s := { s with units := Tab.put (Tab.del s.units u) v { un with at_ := { un.at_ with core := f, slot := 0 } } }
    let s := carryStrandFills (renameUnit s u v) v sc f
    flushGrid (modFwd s (4096 + sc) (fun l => l ++ [{ unit := u, dest := none, agents := [] }])) un.cell un.at_.task

/-- A save whose units have all drained ends: images, hold entries, DONE. -/
def endSave (s : State) (r : Resp) : State :=
  let strand := ofStrand r.bytes
  let cores := (r.targets.map (targetCore s strand)).eraseDups
  let set := s.nextSaved
  let ctx := rf r.bytes 2 2
  let area := rf r.bytes 24 8
  let s := r.targets.zipIdx.foldl (fun s k => if strand then saveStrand s ctx area k.1 else saveTeam s ctx area set k.1 k.2) s
  let s := cores.foldl (fun s c => setSaving s strand c false) s
  respond s r.slot.toNat stDone

/-- Responses of a die with an operation code that are still in progress. -/
def inProgress (s : State) (d op : Nat) : List Resp := (s.die d).resps.filter (fun r => rf r.bytes 0 1 == op)

/-- A response is no longer in progress. -/
def dropResp (s : State) (d : Nat) (r : Resp) : State := s.modDie d (fun x => { x with resps := x.resps.erase r })

/-- R313: a PREEMPT is taken; of those whose units have drained the moves of their cores are settled (step 3, R259), and they end. -/
def execPreempt (die : Nat) (s : State) : Out :=
  .next (
    let s := onResponse s die (· == 7) (beginSave die)
    let s := (inProgress s die 7).foldl (fun s r =>
      let s := if ofStrand r.bytes = false ∧ (r.targets.flatMap (targetUnits s false)).all (unitDrained s) = true then
          ((r.targets.map (teamCore s)).eraseDups).foldl settleMove s
        else s
      if r.targets.all (targetDrained s (ofStrand r.bytes)) then endSave (dropResp s die r) r else s) s
    if inProgress s die 7 = [] then s else s.later 1 (.event (.preempt die)))

/-! Coming back (R315) -/

/-- What a core gives a team that comes back: slots, register places, scratchpad row. -/
structure Berth where
  slot : Nat
  groups : List Nat
  ci : Cistern
  row : Nat
  deriving DecidableEq, Repr

/-- The pool minimums of a team's descriptor hold on a core (R253). -/
def poolMinimums (s : State) (k : Core) (t : Team) : Bool :=
  match rdVirt s t.ctx t.desc.toNat 64 with
  | some bs => decide ((parseDesc bs).tilmin ≤ k.ci.til.length) && decide ((parseDesc bs).cacmin ≤ k.ci.cac.length)
  | none => true

/-- A core has room for a team that comes back, under R253. -/
def berth (s : State) (c : Nat) (t : Team) (tiles : List Nat) : Option Berth :=
  let k := s.core c
  let rows := rowsFor t.scrSize (nScr k)
  let row := if t.scrSize = 0 then some 0
    else if nScr k = 0 then none
    else ((freeRuns s c).find? (fun r => decide (rows ≤ r.2))).map (·.1)
  let slots := (freeGroupSlots s c).take t.groups.length
  if coreClosed s c || k.ci.move.isSome || !poolMinimums s k t || decide (slots.length < t.groups.length) ||
      tiles.any (fun i => decide (64 * k.ci.til.length ≤ i) || (Tab.find? k.ci.tiles i).isSome) then none
  else match freeTeamSlots s c, mapGroups k.ci t.regblk (slots.map (groupUid c)), row with
    | slot :: _, some ci, some r => some ⟨slot, slots, ci, r⟩
    | _, _, _ => none

/-- The array of a core can be given to a team that comes back with n staging banks (R182). -/
def arrayOpen (s : State) (c n : Nat) : Bool :=
  let k := s.core c
  k.mx.holder.isNone && k.mx.exec.isNone && decide (n ≤ nScr k) && scrFits s c (nScr k - n)

/-- A team comes back to a core, if the core admits it. -/
def landTeam (s : State) (key c : Nat) : Option State :=
  match s.team? key with
  | none => some s
  | some t =>
    let f := t.core
    let held := heldBy s f key
    let staged := (s.core f).mx.n
    if arrayBusy (s.core c) || (held && !arrayOpen s c staged) then none else
    let b := nScr (s.core c)
    let s := if held then relocate (carryArray s f c true) c b (b - staged) true else s
    match berth s c t ((teamTiles s f key).map (·.1)) with
    | none => none
    | some r =>
      let s := carryTeam s key c r.slot r.groups false
      let s := s.modCi c (fun ci => { ci with places := r.ci.places, regPtr := r.ci.regPtr })
      some (s.modTeam key (fun t => { t with scrRow := r.row, scrRows := rowsFor t.scrSize (nScr (s.core c)) }))

/-- The teams of a cluster come back, at an origin, all or none. -/
def landCluster (s : State) (k : Nat) (c : Cluster) (o : Nat) : Option State :=
  let src : Source := match s.task? c.task with | some t => t.src | none => .pool
  let s' := (List.range (c.w * c.h)).foldl (fun (s : Option State) p =>
    match s with
    | none => none
    | some s =>
      match teamAtPos s c p with
      | none => some s
      | some (key, _) =>
        let x := o + 16 * (p / c.w) + p % c.w
        if stageAllows s c.ctx src x then landTeam s key x else none) (some s)
  s'.map (fun s => s.modCluster k (fun c => { c with origin := o }))

/-- A cluster comes back to the first rectangle of a die that admits it (R291). -/
def placeCluster (s : State) (die k : Nat) : Option State :=
  match s.cluster? k with
  | none => some s
  | some c => (origins die c.w c.h).findSome? (fun o => landCluster s k c o)

/-- A set of teams comes back to a die. -/
def landSet (s : State) (die : Nat) (keys : List Nat) : Option State :=
  let sumps := keys.filter (fun k => match s.team? k with | some t => t.sump | none => false)
  let clusters := (keys.filterMap (fun k => match s.team? k with | some t => if t.sump then none else some t.cluster | none => none)).eraseDups
  let s' := clusters.foldl (fun (s : Option State) k => match s with | some s => placeCluster s die k | none => none) (some s)
  sumps.foldl (fun (s : Option State) k => match s with
    | some s => (origins die 1 1).findSome? (fun c => landTeam s k c)
    | none => none) s'

/-- A strand comes back to a free thread of its own strand core. -/
def landStrand (s : State) (die f : Nat) (x : Saved) : Option (State × Nat) :=
  let sc := x.home - 4096
  if sc / 384 ≠ die ∨ strandsOpen s die = false then none else
  match ((List.range 4).find? (fun i => (s.unit? (strandUid (sc * 4 + i))).isNone)), s.unit? (groupUid f 0) with
  | some i, some un =>
    let u := groupUid f 0
    let v := strandUid (sc * 4 + i)
    let l := (s.score f).spillway
    let s := { s with units := Tab.put (Tab.del s.units u) v { un with at_ := { un.at_ with core := sc, slot := i } } }
    some (setSpill (setSpill (carryStrandFills (renameUnit s u v) v f sc) (true, f) []) (true, sc) ((s.score sc).spillway ++ l.map (Event.mapUnit (fun w => if w = u then v else w))), v)
  | _, _ => none

/-! Route updates (R317) -/

abbrev sumpAgent := 2 ^ 40
abbrev engineAgent := 2 ^ 40 + 1
abbrev queueAgent := 2 ^ 40 + 2

/-- The agents that hold a route to units: cluster peers, port partners, the Sump, engines that owe records, the queue engine. -/
def routeAgents (s : State) (key : Nat) (strand : Bool) (us : List Nat) : List Nat :=
  let peers : List Nat := if strand then [] else match s.team? key with
    | some t => match s.cluster? t.cluster with
      | some k => (k.teams.filter (fun (e : Nat × Nat) => decide (e.2 ≠ key) && (s.team? e.2).isSome)).map (fun e => 2 ^ 20 + e.2)
      | none => []
    | none => []
  let ports := (us.flatMap (fun u => match s.unit? u with
    | some un => un.regs.q.filterMap (fun (p : Nat × Port) => p.2.peer.map (·.1))
    | none => [])).filter (fun v => !us.contains v && decide (v ≠ deadPeer))
  let owed := dies4.any (fun d => (s.die d).reqs.any (fun (r : Nat × Req) => us.contains r.2.unit) ||
    (s.die d).mergeCmds.any (fun (c : Nat × FabCmd) => us.contains c.2.unit) || (s.die d).scanCmds.any (fun (c : Nat × FabCmd) => us.contains c.2.unit))
  let sump := strand || us.any (fun u => match s.unit? u with | some un => un.gather.isSome | none => false)
  (peers ++ ports).eraseDups ++ (if sump then [sumpAgent] else []) ++ (if owed then [engineAgent] else []) ++ [queueAgent]

/-- Route updates go out for an entry, whose agents are now known. -/
def sendRoutes (s : State) (site unit : Nat) (agents : List Nat) : State :=
  let s := modFwd s site (fun l => l.map (fun e => if e.unit = unit then { e with agents := agents } else e))
  agents.foldl (fun s a => s.laterFree (.routeUpdate site unit a)) s

/-- R317: an agent has the update; what it sent through the entry has been delivered, and it acknowledges. -/
def execRouteUpdate (core u agent : Nat) (s : State) : Out := .next (s.laterFree (.routeUpdateAck core u agent))

/-- R317: the entry is freed once every agent has acknowledged. -/
def execRouteUpdateAck (core u agent : Nat) (s : State) : Out :=
  .next (modFwd s core (fun l => (l.map (fun e => if e.unit = u then { e with agents := e.agents.filter (· ≠ agent) } else e)).filter
    (fun e => !(decide (e.unit = u) && e.agents.isEmpty && !(l.filter (fun x => decide (x.unit = u))).all (fun x => x.agents.isEmpty)))))

/-! Running again -/

/-- The pending stagings and windows of a core go on, after every held message; those whose operands the Spillway held are among these (R200). -/
def resumeArray (s : State) (c : Nat) : State :=
  let s := (s.core c).mx.pend.foldl (fun s (p : Nat × PendStage) =>
    if (p.2.window.isSome && p.2.bytes.isNone) || (operandTag s (.stagingComplete c p.1)).isSome then s else s.later 1 (.event (.stagingComplete c p.1))) s
  (s.core c).windows.foldl (fun s (w : Nat × Window) => s.later (w.2.opened + 64 - s.now + 1) (.event (.multicastWindowRead c w.1))) s

/-- Answers to faults of units that were away take effect (R306). -/
def lateAnswers (s : State) : State :=
  dies4.foldl (fun s d =>
    let l := (s.die d).resps.filter (fun r => decide (1 ≤ rf r.bytes 0 1 ∧ rf r.bytes 0 1 ≤ 4))
    let s := s.modDie d (fun x => { x with resps := x.resps.filter (fun r => !l.contains r) })
    l.foldl (fun s r => answer (rf r.bytes 0 1) d s r.slot.toNat r.bytes) s) s

/-- A team that has come back after a number of cycles runs: its sleeps go on (R241), its cache begins with an acquire, its messages are replayed, its records wait for the die's fault ring. -/
def wakeTeam (s : State) (key site away : Nat) : State :=
  match s.team? key with
  | none => s
  | some t =>
    let s := t.groups.foldl (fun s u => extendSleeps s u away) s
    let s := wakeFaults (replaySpill (goUnits (invalidateCac s t.core) t.groups) (false, t.core)) (coreDie t.core)
    sendRoutes s site key (routeAgents s key false t.groups)

/-- The saved set that a RESTORE names: that of its context with the area, the latest; else one whose header the image at the area has, or, of strands, whose bytes: an image of a strand has no header. -/
def savedSet (s : State) (ctx area : Nat) : Option Nat :=
  let mine := s.saved.filter (fun (e : Nat × Saved) => decide (e.2.ctx = ctx))
  let head := readSection s area 64
  match (mine.filter (fun e => decide (e.2.area.toNat = area))).reverse with
  | e :: _ => some e.2.set
  | [] => (List.find? (fun (e : Nat × Saved) => match e.2.strand, s.team? e.2.unit with
      | true, _ => decide (e.2.wrote = [readSection s area 4096])
      | false, some t => e.1 == e.2.set && leAt head 0 2 == 1 && leAt head 4 2 == ctx && leAt head 32 8 == t.desc.toNat && leAt head 44 4 == t.gteam
      | _, _ => false) mine).map (fun e => e.2.set)

/-- RESTORE (R315). -/
def restoreAt (s : State) (va : Nat) (bs : List Byte) : State :=
  let area := rf bs 24 8
  let die := rf bs 20 4
  match (if 4 ≤ die then none else savedSet s (rf bs 2 2) area) with
  | none => respond s va stBadResponse
  | some set =>
    let xs := s.saved.filter (fun (e : Nat × Saved) => decide (e.2.set = set))
    let gone := s.saved.filter (fun (e : Nat × Saved) => decide (e.2.set ≠ set))
    if xs.any (fun e => e.2.strand) then
      match xs with
      | (f, x) :: _ =>
        let s1 := obtainVirt s 0 area 4096
        let s1 := tailFrom s1 die (groupUid f 0) (x.wrote.headD []) (readSection s area 4096)
        let s1 := s1.modUnit (groupUid f 0) (fun un => unitFrom un (readSection s area 4096))
        match landStrand s1 die f x with
        | none => respond s va stNoRoom
        | some (s, u) =>
          let sc := x.home - 4096
          let s := { s with saved := gone, scores := s.scores.filter (fun (e : Nat × StrandCore) => decide (e.1 ≠ f)) }
          let s := wakeFaults (replaySpill (goUnits (extendSleeps s u (s.now - x.since)) [u]) (true, sc)) (sc / 384)
          respond (lateAnswers (sendRoutes s x.home x.unit (routeAgents s 0 true [u]))) va stDone
      | [] => respond s va stBadResponse
    else
      let keys := xs.map (fun e => e.2.unit)
      let s1 := xs.zipIdx.foldl (fun s k => readTeamImage s die k.1.2.unit ((area + 2097152 * k.2) % 2 ^ 64) k.1.2.wrote) s
      match landSet s1 die keys with
      | none => respond s va stNoRoom
      | some s =>
        let s := { s with saved := gone, cores := s.cores.filter (fun (e : Nat × Core) => !xs.any (fun x => decide (x.1 = e.1))) }
        let s := xs.foldl (fun s (e : Nat × Saved) => wakeTeam s e.2.unit e.2.home (s.now - e.2.since)) s
        let s := ((keys.map (teamCore s)).eraseDups).foldl resumeArray s
        respond (lateAnswers s) va stDone

/-- R315. -/
def execRestore (die : Nat) (s : State) : Out := .next (onResponse s die (· == 8) restoreAt)

end Sys2Proof.Machine
end

