-- ==== Sys2Proof/Machine/Migrate.lean ====
section
/-! DEFINITION. Live migration, gang stop and STOP (01 R20; 13 R259; 16 R316 to R322; 18 R357). -/

namespace Sys2Proof.Machine

/-! MIGRATE (R318, R319) -/

/-- The lists of Table 13-1. -/
def initialLists (ci : Cistern) : Bool :=
  decide (ci.reg = Cistern.initial.reg) && decide (ci.scr = Cistern.initial.scr) && decide (ci.cac = Cistern.initial.cac) &&
    decide (ci.til = Cistern.initial.til)

/-- A core ID that names an S-core. -/
def realCore (c : Nat) : Bool := decide (c < 512) && decide (c % 16 < 12)

/-- The destination core may take a migration. -/
def mayReceive (s : State) (a b : Nat) : Bool :=
  let k := s.core b
  decide (coreDie a = coreDie b) && realCore b && !(s.die (coreDie b)).fenced.contains (coreIndex b) && (teamsOf s b).isEmpty &&
    !arrayBusy k && k.mx.holder.isNone && initialLists k.ci && !k.saving

/-- MIGRATE is taken: its checks, and the phase Stop. -/
def beginMigrate (d : Nat) (s : State) (va : Nat) (bs : List Byte) : State :=
  let arg := rf bs 20 4
  let a := bits arg 8 0
  let b := bits arg 24 16
  let ts := teamsOf s a
  if bits arg 15 9 ≠ 0 ∨ bits arg 31 25 ≠ 0 ∨ realCore a = false then respond s va stBadResponse
  else if siteBusy s false a then respond s va stBusy
  else if (s.core a).mx.gang then respond s va stGanged
  else if mayReceive s a b = false ∨ 16 < (s.core a).fwd.length + ts.length then respond s va stNoRoom
  else
    let s := setSaving (setSaving s false a true) false b true
    let s := stopUnits s (ts.flatMap (fun t => t.2.groups))
    s.modDie d (fun x => { x with
      resps := x.resps ++ [{ slot := dw va, bytes := bs, stage := 0, since := s.now, targets := ts.map (·.1) }] })

/-- The source core is ready to stream. -/
def migrateReady (s : State) (a : Nat) : Bool :=
  let k := s.core a
  (teamsOf s a).all (fun t => teamDrained s t.1) && !arrayBusy k && k.mx.exec.isNone &&
    (match k.mx.holder with | some key => (teamsOf s a).any (fun t => decide (t.1 = key)) | none => true)

/-- Bytes that stream: used rows, group records and matrix state. -/
def streamBytes (s : State) (a : Nat) : Nat :=
  let k := s.core a
  roleBytes s a .reg + roleBytes s a .scr + roleBytes s a .til +
    (teamsOf s a).foldl (fun n t => n + 8192 * t.2.groups.length) 0 + (if k.mx.holder.isSome then 32768 * (1 + k.mx.n) else 0)

/-- A team streams to another core, where it keeps its slots. -/
def streamTeam (s : State) (b key : Nat) : State :=
  match s.team? key with
  | none => s
  | some t =>
    let a := t.core
    let slots := t.groups.map (fun u => match s.unit? u with | some un => un.at_.slot | none => 0)
    let s := carryTeam s key b t.slot slots true
    let s := s.modCi b (fun ci => (mapGroups ci t.regblk (slots.map (groupUid b))).getD ci)
    let s := s.modTeam key (fun t => t.forget s.draws)
    let s := { s with draws := s.draws + t.scrSize + 1 }
    let s := if t.pos = 0 then s.modCluster t.cluster (fun k => { k with origin := b }) else s
    modFwd s a (fun l => l ++ [{ unit := key, dest := some b, agents := [] }])

/-- The phase Stream: the destination takes the role counts, and everything of the teams passes to it. -/
def stream (s : State) (d : Nat) (r : Resp) : State :=
  let arg := rf r.bytes 20 4
  let a := bits arg 8 0
  let b := bits arg 24 16
  let n := streamBytes s a
  let s := writebackAll s a
  let ci := (s.core a).ci
  let s := s.modCore b (fun k => { k with
    returning := false, ci := { k.ci with reg := ci.reg, scr := ci.scr, cac := ci.cac, til := ci.til, lines := [] } })
  let s := carryWindows (carryArray s a b false) a b
  let s := r.targets.foldl (fun s key => streamTeam s b key) s
  let s := s.modCore a (fun k => { k with returning := true })
  let s := s.modDie d (fun x => { x with resps := x.resps.map (fun q => if q = r then { q with stage := 1, since := s.now } else q) })
  s.later (max 1 (ceilDiv n 128)) (.event (.migrationResume b))

/-- R319: once the units of the source core have drained its move is settled (R313, step 3), and it streams. -/
def execMigrate (die : Nat) (s : State) : Out :=
  .next (
    let s := onResponse s die (· == 9) (beginMigrate die)
    let s := (inProgress s die 9).foldl (fun s r =>
      let a := bits (rf r.bytes 20 4) 8 0
      let s := if r.stage = 0 ∧ (teamsOf s a).all (fun t => t.2.groups.all (unitDrained s)) = true then settleMove s a else s
      if r.stage = 0 && migrateReady s (bits (rf r.bytes 20 4) 8 0) then stream s die r else s) s
    if (inProgress s die 9).any (fun r => r.stage == 0) then s.later 1 (.event (.migrate die)) else s)

/-- R319: the phase Resume. -/
def execMigrationResume (core : Nat) (s : State) : Out :=
  .next (dies4.foldl (fun s d =>
    (inProgress s d 9).foldl (fun s r =>
      let arg := rf r.bytes 20 4
      let a := bits arg 8 0
      if r.stage = 0 ∨ bits arg 24 16 ≠ core then s else
      let s := setSaving (setSaving (dropResp s d r) false a false) false core false
      let s := r.targets.foldl (fun s key => wakeTeam s key a (s.now - r.since)) s
      let s := (resumeArray s core).soon (.event (.balancerDeferredMove (coreDie a) a))
      respond s r.slot.toNat stDone) s) s)

/-! Gang stop (R320, R321) -/

/-- A stop record. -/
def stopRecord (name sent recv now retired : Nat) : List Byte :=
  bytesOf 2 name ++ bytesOf 2 0 ++ bytesOf 4 sent ++ bytesOf 4 recv ++ bytesOf 4 0 ++ bytesOf 8 now ++ bytesOf 8 retired

/-- The stop records of a die: S-cores by core ID, then strand cores by index. -/
def stopRecords (s : State) (d : Nat) : List (List Byte) :=
  (((List.range 96).filter (fun i => !(s.die d).fenced.contains i)).map (fun i =>
    let c := coreOfIndex d i
    let k := s.core c
    stopRecord c k.sent.toNat k.recv.toNat s.now k.retired)) ++
  ((List.range 384).filter (fun i => !(s.die d).fenced.contains (96 + i))).map (fun i =>
    let k := s.score (d * 384 + i)
    stopRecord (2 ^ 15 + i) k.sent.toNat k.recv.toNat s.now k.retired)

/-- Dies of a mask that run. -/
def runningDies (s : State) (mask : Nat) : List Nat := dies4.filter (fun d => bit mask d && decide ((s.die d).bring = .ready))

/-- R321. -/
def execFreeze (die : Nat) (s : State) : Out :=
  .next (onResponse s die (· == 10) (fun s va bs =>
    let arg := rf bs 20 4
    if 16 ≤ arg then respond s va stBadResponse else
    let ds := runningDies s arg
    let s := ds.foldl (fun s d => s.modDie d (fun x => { x with frozen := true })) s
    let s := pokeVirt s 0 (rf bs 24 8) ((ds.flatMap (stopRecords s)).flatten)
    respond s va stDone))

/-- R321. -/
def execThaw (die : Nat) (s : State) : Out :=
  .next (onResponse s die (· == 11) (fun s va bs =>
    let arg := rf bs 20 4
    if 16 ≤ arg then respond s va stBadResponse else
    let s := (dies4.filter (fun d => bit arg d)).foldl (fun s d =>
      let l := (s.die d).held
      let s := s.modDie d (fun x => { x with frozen := false, held := [] })
      { s with agenda := s.agenda ++ l.map Turn.event }) s
    respond s va stDone))

/-! STOP (R322) -/

/-- What of a context's faults and responses is dropped; saves in progress end without effect. -/
def stopFaults (s : State) (ctx : Nat) : State :=
  dies4.foldl (fun s d =>
    let ends (r : Resp) : Bool := decide (rf r.bytes 2 2 = ctx) && (decide (rf r.bytes 0 1 ≤ 4) || decide (rf r.bytes 0 1 = 7))
    let l := (s.die d).resps.filter ends
    let s := s.modDie d (fun x => { x with
      waiting := x.waiting.filter (fun w => decide (w.ctx ≠ ctx)), parked := x.parked.filter (fun (p : Nat × Parked) => decide (p.2.ctx ≠ ctx))
      resps := x.resps.filter (fun r => !ends r) })
    l.foldl (fun s r =>
      let strand := ofStrand r.bytes
      let s := if rf r.bytes 0 1 = 7 then ((r.targets.map (targetCore s strand)).eraseDups).foldl (fun s c => setSaving s strand c false) s else s
      respond s r.slot.toNat (if rf r.bytes 0 1 = 7 then stBadResponse else stNoFault)) s) s

/-- Copy commands of a context parked on a fault are discarded. -/
def stopCopies (s : State) (ctx : Nat) : State :=
  { s with cores := mapVals s.cores (fun k => { k with cmds := k.cmds.filter (fun (c : Nat × CopyCmd) =>
      decide (c.2.ctx ≠ ctx) || (match c.2.st with | .parked _ => false | _ => true)) }) }

/-- Strands of a context leave the Sumps. -/
def stopSumps (s : State) (ctx : Nat) : State :=
  let gone (u : Nat) : Bool := match s.unit? u with | some un => decide (un.at_.ctx = ctx) | none => false
  let cut (f : Forming) : Forming := { f with strands := f.strands.filter (fun u => !gone u) }
  { s with cells := mapVals s.cells (fun c => { c with
      forming := (mapVals c.forming cut).filter (fun (f : Nat × Forming) => !f.2.strands.isEmpty)
      dispatched := (c.dispatched.map cut).filter (fun f => !f.strands.isEmpty) }) }

/-- Slots and pool entries of a context's tasks are free; those that have not started stay queued, and placement faults are dropped. -/
def stopTasks (s : State) (ctx : Nat) : State :=
  let s := { s with tasks := mapVals s.tasks (fun (t : Task) =>
    if t.ctx ≠ ctx then t else
    { t with
      fault := none
      st := if t.st = TaskSt.started then TaskSt.retired else t.st
      status := if t.st = TaskSt.started then 2 else t.status
      slot := match t.slot with | .reserve _ _ => .freed | .shared => .none | x => x }) }
  s.modCtx ctx (fun c => { c with queues := mapVals c.queues (fun q => { q with fault := none, zero := false }) })

/-- No barrier of a context is under way. -/
def stopBarriers (s : State) (ctx : Nat) : State :=
  { s with
    teams := mapVals s.teams (fun t => if t.ctx = ctx then { t with arrivals := [], barcAt := none, gridAt := none } else t)
    clusters := mapVals s.clusters (fun k => if k.ctx = ctx then { k with sweeps := [] } else k) }

/-- The turn keeps a session of a die alive, or watches one of its nodes. -/
def Turn.tends (die session : Nat) (t : Turn) : Bool :=
  match t with
  | .event (.keepAliveSend d i) => decide (d = die ∧ i = session)
  | .event (.childTimeout d i _ _) => decide (d = die ∧ i = session)
  | _ => false

/-- A session is no longer open on a die, which goes on counting the late packets of the session that last had its ID, those it held among them (R354). -/
def endSession (s : State) (d id : Nat) (x : Session) : State :=
  let x : Session := { x with late := (x.late + x.held.length) % 2 ^ 32, held := [], closing := none }
  let s := s.modDie d (fun z => { z with
    sessions := Tab.del z.sessions id, ended := Tab.put z.ended id x
    held := z.held.filter (fun e => !Turn.tends d id (.event e)) })
  { s with
    agenda := s.agenda.filter (fun t => !t.tends d id)
    calendar := s.calendar.filter (fun e => !e.2.tends d id) }

/-- The sessions of a context close on every die, their held packets are discarded, and no frame record is posted: its sinks, which alone may be bound to them (R358), are bound to no session (R357). -/
def stopSessions (s : State) (ctx : Nat) : State :=
  let s := dies4.foldl (fun s d =>
    ((s.die d).sessions.filter (fun (e : Nat × Session) => decide (e.2.ctx = ctx))).foldl (fun s e => endSession s d e.1 e.2) s) s
  { s with dies := mapVals s.dies (fun d => { d with
      sinks := mapVals d.sinks (fun k => if k.ctx = ctx then { k with frames := [], route := none } else k) }) }

/-- Every unit of a context ends (R322). -/
def stopUnitsOf (s : State) (ctx : Nat) : State :=
  let us := s.units.filterMap (fun (e : Nat × UnitSt) => if e.2.at_.ctx = ctx then some e.1 else none)
  let s := us.foldl retireUnit s
  let away := (s.saved.filter (fun (e : Nat × Saved) => decide (e.2.ctx = ctx))).map (·.1)
  { s with
    saved := s.saved.filter (fun (e : Nat × Saved) => decide (e.2.ctx ≠ ctx))
    cores := s.cores.filter (fun (e : Nat × Core) => !away.contains e.1)
    scores := s.scores.filter (fun (e : Nat × StrandCore) => !away.contains e.1) }

/-- R322. -/
def execStop (die : Nat) (s : State) : Out :=
  .next (onResponse s die (· == 5) (fun s va bs =>
    let ctx := rf bs 2 2
    let s := stopBarriers (stopSumps (stopCopies (stopFaults s ctx) ctx) ctx) ctx
    let s := stopUnitsOf (stopSessions (stopTasks s ctx) ctx) ctx
    let gone := s.tasks.filterMap (fun (e : Nat × Task) => if e.2.ctx = ctx ∧ e.2.st = .retired ∧ e.2.status = 2 then some e.1 else none)
    respond (gone.foldl retireTask s) va stDone))

end Sys2Proof.Machine
end

