-- ==== Sys2Proof/Machine/Fabric.lean ====
section
/-! DEFINITION. Links, routers and the merge unit (18 R342 to R358). The meanings of TSEND, of the merge commands and of the fabric's events. -/

namespace Sys2Proof.Machine

/-! The fabric control block (Table 18-1) -/

/-- Address of the fabric control block of a die. -/
def fabricBlock (s : State) (d : Nat) : Nat := s.tableBase + 0x1008000 + 0x1000 * d

/-- The die a link belongs to (R342). -/
def linkDie (l : Nat) : Nat := if l < 5 then 0 else if l < 10 then 1 else if l < 14 then 2 else 3

/-- Code of a link state. -/
def linkCode : LinkSt → Nat
  | .down => 0 | .up => 1 | .retrain => 2

/-- State and counters of a link are written to its die's block. -/
def writeLink (s : State) (l : Nat) : State :=
  let x := s.link l
  let b := fabricBlock s (linkDie l)
  poke (poke s (run (b + 16 + l) (bytesOf 1 (linkCode x.st)))) (run (b + 1152 + 8 * l) (bytesOf 4 x.retrains ++ bytesOf 4 x.drops))

/-- Packets are discarded and counted in the drops of a link. -/
def countDrops (s : State) (l n : Nat) : State :=
  if n = 0 then s else writeLink (s.modLink l (fun x => { x with drops := (x.drops + n) % 2 ^ 32 })) l

/-! The merge tree (R348) -/

/-- End of the left child of a span. -/
def midOf (lo hi : Nat) : Nat := lo + ceilDiv (hi - lo) 2

/-- The nodes of the tree under a span. -/
def nodesFrom : Nat → Nat → Nat → List (Nat × Nat)
  | 0, _, _ => []
  | f + 1, lo, hi =>
    if hi ≤ lo + 1 then [] else (lo, hi) :: (nodesFrom f lo (midOf lo hi) ++ nodesFrom f (midOf lo hi) hi)

/-- The nodes of a tree of n ranks. -/
def treeNodes (n : Nat) : List (Nat × Nat) := nodesFrom 10 0 n

/-- The node whose child is a span; none for the root and for a span that is not in the tree. -/
def parentOf (n a b : Nat) : Option (Nat × Nat) :=
  (treeNodes n).find? (fun p => decide ((a, b) = (p.1, midOf p.1 p.2)) || decide ((a, b) = (midOf p.1 p.2, p.2)))

/-- Height of a node. -/
def heightOf (lo hi : Nat) : Nat := ((List.range 10).find? (fun h => decide (hi - lo ≤ 2 ^ h))).getD 0

/-! Operators (R349, Table 18-3) -/

/-- A BF16 channel of a pixel, widened to FP32. -/
def channel (p i : Nat) : FV := fmtBf16.decode (bits p (16 * i + 15) (16 * i))

/-- The combination of two covered pixels, a in front. -/
def combinePixel (op a b : Nat) : Nat :=
  match op with
  | 0 =>
    let da := a % 2 ^ 32
    let db := b % 2 ^ 32
    if (fmtF32.compare .le false da db).1 || (fmtF32.decode db).isNan then a else b
  | 1 =>
    let one : FV := .num false 1 0
    let f := (fmtF32.add .rne false one (fmtF32.decode ((fmtF32.convert .rne false (channel a 3)).1 ^^^ 0x80000000))).1
    (List.range 4).foldl (fun p i =>
      let c := (fmtF32.fma .rne false (fmtF32.decode f) (channel b i) (channel a i)).1
      p + 2 ^ (16 * i) * (fmtBf16.convert .rne false (fmtF32.decode c)).1) 0
  | 2 => (List.range 2).foldl (fun p i =>
      p + 2 ^ (32 * i) * (fmtF32.add .rne false (fmtF32.decode (bits a (32 * i + 31) (32 * i))) (fmtF32.decode (bits b (32 * i + 31) (32 * i)))).1) 0
  | _ => (List.range 4).foldl (fun p i => p + 2 ^ (16 * i) * (fmtBf16.add .rne false (channel a i) (channel b i)).1) 0

/-- Pixel p of a tile, its 8 bytes as a number. -/
def packetPixel (t : TilePacket) (p : Nat) : Nat := ofBytes ((List.range 8).map (fun i => Tab.get 0 t.payload (8 * p + i)))

/-- Writes a pixel of a payload. -/
def setPixel (t : Tab Byte) (p v : Nat) : Tab Byte := (bytesOf 8 v).zipIdx.foldl (fun t b => Tab.set 0 t (8 * p + b.2) b.1) t

/-- The payload and coverage of two children combined pixel by pixel. -/
def combineTiles (op : Nat) (a b : Option TilePacket) : Tab Byte × DWord :=
  let has (t : Option TilePacket) (p : Nat) : Bool := match t with | some x => x.cover.getLsbD p | none => false
  let px (t : Option TilePacket) (p : Nat) : Nat := match t with | some x => packetPixel x p | none => 0
  (List.range 64).foldl (fun (st : Tab Byte × DWord) p =>
    match has a p, has b p with
    | true, true => (setPixel st.1 p (combinePixel op (px a p) (px b p)), st.2 ||| dw (2 ^ p))
    | true, false => (setPixel st.1 p (px a p), st.2 ||| dw (2 ^ p))
    | false, true => (setPixel st.1 p (px b p), st.2 ||| dw (2 ^ p))
    | _, _ => st) ([], 0)

/-! Sessions -/

/-- A session of a die. -/
def session? (s : State) (d id : Nat) : Option Session := Tab.find? (s.die d).sessions id

/-- Rewrites a session. -/
def modSession (s : State) (d id : Nat) (f : Session → Session) : State :=
  s.modDie d (fun x => { x with sessions := Tab.modify x.sessions id f })

/-- A node of a session on its die. -/
def Session.node? (x : Session) (lo hi : Nat) : Option Node := x.nodes.find? (fun n => decide (n.lo = lo ∧ n.hi = hi))

/-- Rewrites a node. -/
def Session.modNode (x : Session) (lo hi : Nat) (f : Node → Node) : Session :=
  { x with nodes := x.nodes.map (fun n => if n.lo = lo ∧ n.hi = hi then f n else n) }

/-- A frame begun on the die. -/
def Session.frame? (x : Session) (f : Nat) : Option Frame := x.frames.find? (fun r => decide (r.no = f))

/-- The packet held of a child of a node for a tile of a frame. -/
def Session.heldAs (x : Session) (n : Node) (left : Bool) (f tx ty : Nat) : Option TilePacket :=
  let a := if left then n.lo else midOf n.lo n.hi
  let b := if left then midOf n.lo n.hi else n.hi
  x.held.find? (fun t => decide (t.rank = a ∧ t.rank + t.span + 1 = b ∧ t.frame = f ∧ t.tx = tx ∧ t.ty = ty))

/-- Tiles of the region. -/
def Session.region (x : Session) : List (Nat × Nat) :=
  (List.range x.th).flatMap (fun j => (List.range x.tw).map (fun i => (x.tx0 + i, x.ty0 + j)))

/-- Emit of R353: the node's output for a tile, the children's buffers freed. -/
def emitTile (id : Nat) (x : Session) (n : Node) (f tx ty : Nat) : Session × TilePacket :=
  let a := x.heldAs n true f tx ty
  let b := x.heldAs n false f tx ty
  let z := combineTiles x.op a b
  let miss (t : Option TilePacket) (lo : Nat) : Nat := match t with | some y => y.firstmiss | none => lo
  let num (t : Option TilePacket) : Nat := match t with | some y => y.present | none => 0
  let out : TilePacket :=
    { session := id, frame := f, tx := tx, ty := ty, rank := n.lo, opfmt := x.op + 16 * x.op, span := n.hi - n.lo - 1,
      present := num a + num b, firstmiss := min (miss a n.lo) (miss b (midOf n.lo n.hi)), cover := z.2, payload := z.1 }
  let x := { x with held := x.held.filter (fun t => decide (a ≠ some t) && decide (b ≠ some t)) }
  (x.modNode n.lo n.hi (fun n => { n with emitted := (f, tx, ty) :: n.emitted }), out)

/-- A packet begins at the router of a die, on a channel: 8 but for tiles bound for a node (R345). -/
def sendPacket (s : State) (d dest : Nat) (body : PacketBody) (chan : Nat := 8) : State :=
  s.soon (.event (.packetForward d { dest := dest, hops := 0, link := none, chan := chan, body := body }))

/-- A root tile goes to the delivery die. -/
def sendRoot (s : State) (d : Nat) (x : Session) (t : TilePacket) (late : Bool) : State :=
  sendPacket s d x.dnode (.root t x.engine x.sink x.n x.tx0 x.ty0 x.tw x.th (b2n late))

/-- The output of a span goes to its parent's host, or to the scan-out engine (R348). -/
def sendOutput (s : State) (d : Nat) (x : Session) (t : TilePacket) (late : Bool) : State :=
  match parentOf x.n t.rank (t.rank + t.span + 1) with
  | some p => sendPacket s d (x.ranks.getD p.1 0) (.tile t) (heightOf p.1 p.2 - 1)
  | none => sendRoot s d x t late

/-- Tiles of a frame for which a node holds a packet. -/
def Session.pending (x : Session) (n : Node) (f : Nat) : List (Nat × Nat) :=
  ((x.held.filter (fun t => decide (t.frame = f) &&
    (decide (t.rank = n.lo ∧ t.rank + t.span + 1 = midOf n.lo n.hi) || decide (t.rank = midOf n.lo n.hi ∧ t.rank + t.span + 1 = n.hi)))).map
    (fun t => (t.tx, t.ty))).eraseDups

/-- The rank table's counters are written (R347, R435). -/
def writeCounters (s : State) (x : Session) : State :=
  pokeVirt s x.ctx ((x.rtab.toNat + 512) % 2 ^ 64)
    (bytesOf 4 x.late ++ bytesOf 4 x.dup ++ bytesOf 4 x.absent.length ++ bytesOf 4 x.framesClosed)

/-- A session that has accepted CLOSE and has no open frame closes (R357). -/
def checkClosing (s : State) (d id : Nat) : State :=
  match session? s d id with
  | some x => if x.closing.isSome && x.frames.all (fun f => f.closed) then s.soon (.event (.sessionClose d id)) else s
  | none => s

/-- A frame has closed on the die (R352, R347). -/
def frameClosed (s : State) (d id f : Nat) : State :=
  let s := modSession s d id (fun x => { x with
    frames := x.frames.map (fun r => if r.no = f then { r with closed := true } else r)
    sent := x.sent.filter (fun t => decide (t.1 ≠ f)), framesClosed := (x.framesClosed + 1) % 2 ^ 32 })
  let s := match session? s d id with | some x => writeCounters s x | none => s
  checkClosing s d id

/-- What a node does in the cycle after its deadline: pending tiles are emitted, at the root every tile, and the frame closes there (R353). -/
def closeNode (s : State) (d id f lo hi : Nat) : State :=
  match session? s d id with
  | none => s
  | some x =>
    match x.node? lo hi with
    | none => s
    | some n =>
      if n.closed.contains f then s else
      let root := decide (lo = 0 ∧ hi = x.n)
      let done (t : Nat × Nat) : Bool := n.emitted.contains (f, t.1, t.2)
      let tiles := if root then x.region.filter (fun t => !done t) else x.pending n f
      let s := tiles.foldl (fun s t =>
        match session? s d id with
        | none => s
        | some x => match x.node? lo hi with
          | none => s
          | some n =>
            let z := emitTile id x n f t.1 t.2
            sendOutput (modSession s d id (fun _ => z.1)) d x z.2 true) s
      let s := modSession s d id (fun x => x.modNode lo hi (fun n =>
        { n with closed := f :: n.closed, emitted := n.emitted.filter (fun e => decide (e.1 ≠ f)) }))
      let s := if root then sendPacket s d x.dnode (.rootDone id f x.engine x.sink) else s
      match session? s d id with
      | some x => if x.nodes.all (fun n => n.closed.contains f) then frameClosed s d id f else s
      | none => s

/-- A frame of budget 0 closes at a node that has emitted every tile of the region (R352). -/
def closeWhole (s : State) (d id f lo hi : Nat) : State :=
  match session? s d id with
  | none => s
  | some x =>
    match x.node? lo hi, x.frame? f with
    | some n, some r =>
      if r.budget = 0 ∧ r.passed = false ∧ x.region.all (fun t => n.emitted.contains (f, t.1, t.2)) = true then closeNode s d id f lo hi else s
    | _, _ => s

/-- A tile is emitted at a node if both children are held, or one is and the other is absent, in a frame that has begun (R353). -/
def settleTile (s : State) (d id lo hi f tx ty : Nat) : State :=
  match session? s d id with
  | none => s
  | some x =>
    match x.node? lo hi, x.frame? f with
    | some n, some _ =>
      let a := (x.heldAs n true f tx ty).isSome
      let b := (x.heldAs n false f tx ty).isSome
      if a && b || a && n.absentR || b && n.absentL then
        let z := emitTile id x n f tx ty
        closeWhole (sendOutput (modSession s d id (fun _ => z.1)) d x z.2 false) d id f lo hi
      else s
    | _, _ => s

/-- The cycle after the deadline of a frame at a node: none without one (R352). -/
def closeTime (r : Frame) (h : Nat) : Option Nat :=
  if r.passed then some (r.start + 1)
  else if r.budget = 0 then none
  else some (r.start + 64 * r.budget + (h - 1) * r.step + 1)

/-- The frame begins on the die: its packets are combined, and its deadlines run (R352). -/
def beginFrame (s : State) (d id : Nat) (r : Frame) : State :=
  let s := modSession s d id (fun x => { x with frames := x.frames ++ [r] })
  match session? s d id with
  | none => s
  | some x =>
    let s := x.nodes.foldl (fun s n =>
      let s := (x.pending n r.no).foldl (fun s t => settleTile s d id n.lo n.hi r.no t.1 t.2) s
      match closeTime r (heightOf n.lo n.hi) with
      | some t => s.later (t - s.now) (.event (.nodeDeadline d id r.no n.lo n.hi))
      | none => s) s
    if x.nodes = [] then
      match closeTime r 0 with
      | some t => s.later (t - s.now) (.event (.leafFrameClose d id r.no))
      | none => s
    else s

/-- A leaf-only die closes a frame of budget 0 once it has sent every tile of the region (R352). -/
def checkLeaf (s : State) (d id f : Nat) : State :=
  match session? s d id with
  | none => s
  | some x =>
    match x.frame? f with
    | some r =>
      if x.nodes = [] ∧ r.closed = false ∧ r.budget = 0 ∧ r.passed = false ∧ x.region.all (fun t => x.sent.contains (f, t.1, t.2)) = true then
        frameClosed s d id f
      else s
    | none => s

/-! TSEND (R351) -/

/-- The leaf packet of a TSEND. -/
def leafPacket (s : State) (core : Nat) (cmd : CopyCmd) (x : Session) : TilePacket :=
  let a := copyArgs cmd.words
  let bs := (List.range 512).map (fun j => match spot s core cmd a.sspace (rowAddr a.sspace (cw cmd.words 1) 0 0 j) false with
    | .at_ p => rdPlace s p
    | _ => 0)
  { session := cw cmd.words 3 % 65536, frame := cw cmd.words 2, tx := bits (cw cmd.words 4) 11 0, ty := bits (cw cmd.words 4) 23 12,
    rank := x.rank, opfmt := x.op + 16 * x.op, span := 0, present := 1, firstmiss := 0xFFFF,
    cover := pair (cmd.words.getD 6 0) (cmd.words.getD 7 0), payload := bs.zipIdx.foldl (fun t b => Tab.set 0 t b.2 b.1) [] }

/-- R351. -/
def execTsend (core k : Nat) (s : State) : Out :=
  .next (copyStep s core k (.tsend core k) (fun cmd s =>
    let d := coreDie core
    let id := cw cmd.words 3 % 65536
    let tx := bits (cw cmd.words 4) 11 0
    let ty := bits (cw cmd.words 4) 23 12
    match session? s d id with
    | none => cmdMalformed s core k
    | some x =>
      if x.ctx ≠ cmd.ctx ∨ cw cmd.words 3 / 65536 ≠ 0 ∨ cw cmd.words 4 / 2 ^ 24 ≠ 0 ∨ tx < x.tx0 ∨ x.tx0 + x.tw ≤ tx ∨ ty < x.ty0 ∨ x.ty0 + x.th ≤ ty then
        cmdMalformed s core k
      else
        let t := leafPacket s core cmd x
        let s := if x.absent.contains x.rank then modSession s d id (fun x => { x with late := (x.late + 1) % 2 ^ 32 })
          else sendOutput s d x t false
        let s := modSession s d id (fun x => { x with sent := (t.frame, tx, ty) :: x.sent })
        cmdDone (checkLeaf s d id t.frame) core k))

/-! Acknowledgements (R234) -/

/-- Header fields of a command: code, ack, object. -/
def FabCmd.code (c : FabCmd) : Nat := bits (cw c.words 0) 7 0
def FabCmd.ack (c : FabCmd) : Nat := bits (cw c.words 0) 14 12
def FabCmd.object (c : FabCmd) : Nat := bits (cw c.words 0) 31 16

/-- The acknowledgement word of a status. -/
def ackWord (c : FabCmd) (status : Nat) : Word := w32 (c.code + 256 * status + 65536 * c.object)

/-- Posts records to the queue an ack field names, unless it is 7. -/
def postAck (s : State) (c : FabCmd) (ws : List Word) : State :=
  if c.ack = 7 then s else sendRecord s c.unit (c.ack + 1) ws []

/-- Statuses of Table 18-5. -/
abbrev fsOk := 0
abbrev fsNoSession := 1
abbrev fsSessionBusy := 2
abbrev fsNoRoom := 3
abbrev fsBadField := 4
abbrev fsFrameOrder := 5
abbrev fsFramesFull := 6
abbrev fsNoSink := 7
abbrev fsSinkBusy := 8
abbrev fsBadCommand := 0xFF

/-- A merge or scan-out command is performed in its turn, once the memory instructions issued before its last push have been performed (R227): its words are checked against Table 12-6, it leaves the engine's queue, and `body` acts and may answer its status. -/
def fabricStep (s : State) (d k reg : Nat) (ev : Event) (words : Nat) (body : State → FabCmd → State × Option Nat) : State :=
  let q := if reg = 1 then (s.die d).mergeCmds else (s.die d).scanCmds
  match Tab.find? q k with
  | none => s
  | some c =>
    if q.any (fun (e : Nat × FabCmd) => decide (e.1 < k)) || pushHeld s c.unit c.after then s.later 1 (.event ev) else
    let s := s.modDie d (fun x => if reg = 1 then { x with mergeCmds := Tab.del x.mergeCmds k } else { x with scanCmds := Tab.del x.scanCmds k })
    let known := if reg = 1 then decide (1 ≤ c.code ∧ c.code ≤ 4) else decide (1 ≤ c.code ∧ c.code ≤ 3)
    if !known || c.words.length != words then postAck s c [ackWord c fsBadCommand]
    else if bit (cw c.words 0) 15 || (reg == 2 && bits c.object 15 10 != 0) then postAck s c [ackWord c fsBadField]
    else match body s c with
      | (s, some st) => postAck s c [ackWord c st]
      | (s, none) => s

/-! OPEN (R346, R347) -/

/-- A field of OPEN lies outside Table 18-2. -/
def openBad (ws : List Word) : Bool :=
  let w (i : Nat) : Nat := cw ws i
  let n := bits (w 1) 16 8
  let tw := bits (w 3) 11 0
  let th := bits (w 3) 23 12
  decide (3 < bits (w 1) 3 0) || decide (bits (w 1) 7 4 ≠ bits (w 1) 3 0) || decide (n < 1 ∨ 256 < n) || decide (bits (w 1) 23 17 ≠ 0) ||
    decide (n ≤ bits (w 1) 31 24) || decide (bits (w 2) 31 24 ≠ 0) || decide (tw < 1 ∨ 1024 < tw ∨ th < 1 ∨ 1024 < th ∨ 65536 < tw * th) ||
    decide (bits (w 3) 31 24 ≠ 0) || decide (bits (w 4) 31 22 ≠ 0) || decide (w 5 % 64 ≠ 0) ||
    decide (bits (w 7) 12 0 < 1 ∨ 4096 < bits (w 7) 12 0) || decide (bits (w 7) 31 13 ≠ 0)

/-- The session an OPEN makes, with its nodes (R348). -/
def newSession (s : State) (c : FabCmd) (ranks : List Nat) : Session :=
  let w (i : Nat) : Nat := cw c.words i
  let n := bits (w 1) 16 8
  let rank := bits (w 1) 31 24
  let node (p : Nat × Nat) : Node :=
    { lo := p.1, hi := p.2, absentL := false, absentR := false, heardL := s.now, heardR := s.now, linkL := none, linkR := none,
      closed := [], emitted := [] }
  { ctx := c.ctx, op := bits (w 1) 3 0, n := n, rank := rank, tx0 := bits (w 2) 11 0, ty0 := bits (w 2) 23 12,
    tw := bits (w 3) 11 0, th := bits (w 3) 23 12, dnode := bits (w 4) 11 0, engine := bits (w 4) 13 12, sink := bits (w 4) 21 14,
    rtab := pair (c.words.getD 5 0) (c.words.getD 6 0), ranks := ranks, slots := bits (w 7) 12 0,
    nodes := ((treeNodes n).filter (fun p => decide (p.1 = rank))).map node, frames := [], highest := none, held := [], sent := [],
    absent := [], closing := none, late := 0, dup := 0, framesClosed := 0, opened := s.now }

/-- R346, R347. -/
def execMergeOpen (die k : Nat) (s : State) : Out :=
  .next (fabricStep s die k 1 (.mergeOpen die k) 8 (fun s c =>
    let id := c.object
    let x := s.die die
    let n := bits (cw c.words 1) 16 8
    if openBad c.words then (s, some fsBadField)
    else if (session? s die id).isSome then (s, some fsSessionBusy)
    else if 64 ≤ x.sessions.length ∨ 4096 < x.sessions.foldl (fun m e => m + e.2.slots) (bits (cw c.words 7) 12 0) then (s, some fsNoRoom)
    else
    let s := obtainVirt s c.ctx (cw c.words 5 + 2 ^ 32 * cw c.words 6) 528
    match rdVirt s c.ctx (cw c.words 5 + 2 ^ 32 * cw c.words 6) 528 with
      | none => (s, some fsBadField)
      | some bs =>
        let ranks := (List.range n).map (fun i => leAt bs (2 * i) 2)
        let z := newSession s c ranks
        if x.nodeId ≠ some (ranks.getD z.rank 0) ∨ ranks.eraseDups.length ≠ n then (s, some fsBadField)
        else
          let s := s.modDie die (fun x => { x with sessions := Tab.put x.sessions id z, ended := Tab.del x.ended id })
          let s := s.later 4096 (.event (.keepAliveSend die id))
          (z.nodes.foldl (fun s p => s.later 16384 (.event (.childTimeout die id p.lo p.hi))) s, some fsOk)))

/-! CLOSE (R357) -/

/-- The session a command names, in its context. -/
def ownSession (s : State) (d : Nat) (c : FabCmd) : Option Session := (session? s d c.object).filter (fun x => decide (x.ctx = c.ctx))

/-- R357: an open frame of budget 0 closes at once. -/
def execMergeClose (die k : Nat) (s : State) : Out :=
  .next (fabricStep s die k 1 (.mergeClose die k) 1 (fun s c =>
    match ownSession s die c with
    | none => (s, some fsNoSession)
    | some x =>
      if x.closing.isSome then (s, some fsNoSession) else
      let id := c.object
      let s := modSession s die id (fun x => { x with closing := some c })
      let s := (x.frames.filter (fun f => !f.closed && decide (f.budget = 0) && !f.passed)).foldl (fun s f =>
        if x.nodes = [] then frameClosed s die id f.no
        else (x.nodes.reverse).foldl (fun s n => closeNode s die id f.no n.lo n.hi) s) s
      (checkClosing s die id, none)))

/-- R357: the session closes; packets it still held are late. -/
def execSessionClose (die session : Nat) (s : State) : Out :=
  .next (match session? s die session with
    | none => s
    | some x =>
      match x.closing with
      | none => s
      | some c =>
        if x.frames.any (fun f => !f.closed) then s else
        let s := if x.held = [] then s else writeCounters s { x with late := (x.late + x.held.length) % 2 ^ 32 }
        postAck (endSession s die session x) c [ackWord c fsOk])

/-! FRAME (R352) -/

/-- Frames below f that hold packets on the die and have not begun there, lowest first. -/
def Session.unbegun (x : Session) (f : Nat) : List Nat :=
  let l := (x.held.filter (fun t => decide (t.frame < f) && (x.frame? t.frame).isNone)).map (fun t => t.frame)
  (l.eraseDups.foldl (fun acc g => acc.filter (· < g) ++ g :: acc.filter (g < ·)) [])

/-- R352. -/
def execFrame (die k : Nat) (s : State) : Out :=
  .next (fabricStep s die k 1 (.frame die k) 3 (fun s c =>
    match ownSession s die c with
    | none => (s, some fsNoSession)
    | some x =>
      let id := c.object
      let f := cw c.words 1
      if x.closing.isSome then (s, some fsNoSession)
      else if (match x.highest with | some h => decide (f ≤ h) | none => false) = true then (s, some fsFrameOrder)
      else if 4 ≤ (x.frames.filter (fun r => !r.closed)).length then (s, some fsFramesFull)
      else
        let s := modSession s die id (fun x => { x with highest := some f })
        let s := (x.unbegun f).foldl (fun s g =>
          beginFrame s die id { no := g, start := s.now, budget := 0, step := 0, passed := true, closed := false }) s
        let s := beginFrame s die id { no := f, start := s.now, budget := bits (cw c.words 2) 15 0, step := bits (cw c.words 2) 31 16,
                                       passed := false, closed := false }
        (checkLeaf s die id f, some fsOk)))

/-- R353: the cycle after a node's deadline. -/
def execNodeDeadline (die session frame lo hi : Nat) (s : State) : Out :=
  .next (match session? s die session with
    | none => s
    | some x =>
      match x.frame? frame with
      | none => s
      | some r =>
        match closeTime r (heightOf lo hi) with
        | some t => if t ≤ s.now then closeNode s die session frame lo hi else s
        | none => s)

/-- R352: a leaf-only die closes a frame. -/
def execLeafFrameClose (die session frame : Nat) (s : State) : Out :=
  .next (match session? s die session with
    | none => s
    | some x =>
      match x.frame? frame with
      | none => s
      | some r =>
        match closeTime r 0 with
        | some t =>
          if s.now < t ∨ r.closed = true ∨ x.nodes ≠ [] then s
          else
            let s := if x.n = 1 then sendPacket s die x.dnode (.rootDone session frame x.engine x.sink) else s
            frameClosed s die session frame
        | none => s)

/-! Tile packets at a node (R353, R354) -/

/-- A packet counts as late on a session of the die. -/
def countLate (s : State) (d id : Nat) : State := modSession s d id (fun x => { x with late := (x.late + 1) % 2 ^ 32 })

/-- A packet counts as duplicate or misrouted. -/
def countDup (s : State) (d id : Nat) : State := modSession s d id (fun x => { x with dup := (x.dup + 1) % 2 ^ 32 })

/-- A node has heard from a child. -/
def hear (s : State) (d id : Nat) (p : Nat × Nat) (left : Bool) (link : Option Nat) : State :=
  modSession s d id (fun x => x.modNode p.1 p.2 (fun n =>
    if left then { n with heardL := s.now, linkL := link } else { n with heardR := s.now, linkR := link }))

/-- A packet that is neither late nor a duplicate is held and may complete its tile. -/
def holdTile (s : State) (d id : Nat) (n : Node) (t : TilePacket) : State :=
  settleTile (modSession s d id (fun x => { x with held := x.held ++ [t] })) d id n.lo n.hi t.frame t.tx t.ty

/-- R353, R354: a packet waits at its node while the buffers are full, which hears from its child once. -/
def execTilePacketArrival (die : Nat) (p : Packet) (s : State) : Out :=
  .next (match p.body with
    | .tile t =>
      let id := t.session
      match session? s die id with
      | none => s.modDie die (fun d => { d with ended := Tab.modify d.ended id (fun x => { x with late := (x.late + 1) % 2 ^ 32 }) })
      | some x =>
        let hi := t.rank + t.span + 1
        match (parentOf x.n t.rank hi).bind (fun q => x.node? q.1 q.2) with
        | none => countDup s die id
        | some n =>
          let left := decide (hi = midOf n.lo n.hi)
          let gone := if left then n.absentL else n.absentR
          let late := gone || n.emitted.contains (t.frame, t.tx, t.ty) || n.closed.contains t.frame
          let other := x.heldAs n (!left) t.frame t.tx t.ty
          let s1 := if p.heard then s else hear s die id (n.lo, n.hi) left p.link
          if late then countLate s1 die id
          else if (x.heldAs n left t.frame t.tx t.ty).isSome then countDup s1 die id
          else if x.slots ≤ x.held.length ∧ (other.isNone ∨ (x.frame? t.frame).isNone) then
            s1.later 1 (.event (.tilePacketArrival die { p with heard := true }))
          else
            let begins := (x.frame? t.frame).isNone && (match x.highest with | some h => decide (t.frame < h) | none => false)
            if begins then
              let s := modSession s1 die id (fun x => { x with held := x.held ++ [t] })
              beginFrame s die id { no := t.frame, start := s.now, budget := 0, step := 0, passed := true, closed := false }
            else holdTile s1 die id n t
    | _ => s)

/-! Absent contributors (R355) -/

/-- A rank joins those declared absent. -/
def addRanks (l rs : List Nat) : List Nat := rs.foldl (fun l r => if l.contains r then l else l ++ [r]) l

/-- A child of a node is declared absent: the node no longer waits for it. -/
def declareAbsent (s : State) (d id lo hi : Nat) (left : Bool) (ranks : List Nat) : State :=
  let s := modSession s d id (fun x => { x.modNode lo hi (fun n => if left then { n with absentL := true } else { n with absentR := true }) with
    absent := addRanks x.absent ranks })
  match session? s d id with
  | none => s
  | some x =>
    match x.node? lo hi with
    | none => s
    | some n => x.frames.foldl (fun s f => (x.pending n f.no).foldl (fun s t => settleTile s d id lo hi f.no t.1 t.2) s) s

/-- Ranks of a span. -/
def spanRanks (a b : Nat) : List Nat := (List.range (b - a)).map (a + ·)

/-- R355, point 1: ABSENT is accepted and its notices are sent. -/
def execAbsent (die k : Nat) (s : State) : Out :=
  .next (fabricStep s die k 1 (.absent die k) 2 (fun s c =>
    match ownSession s die c with
    | none => (s, some fsNoSession)
    | some x =>
      let r := cw c.words 1
      if 256 ≤ r ∨ x.n ≤ r then (s, some fsBadField)
      else
        let s := modSession s die c.object (fun x => { x with absent := addRanks x.absent [r] })
        (((treeNodes x.n).filter (fun q => decide (q.1 ≤ r ∧ r < q.2))).foldl (fun s q =>
          sendPacket s die (x.ranks.getD q.1 0) (.absent c.object r q.1 q.2)) s, some fsOk)))

/-- R355, point 1: a notice reaches a node. -/
def execAbsentNotice (die : Nat) (p : Packet) (s : State) : Out :=
  .next (match p.body with
    | .absent id r lo hi =>
      match session? s die id with
      | none => s
      | some x =>
        let m := midOf lo hi
        if x.node? lo hi = none then s
        else if r = lo ∧ m = lo + 1 then declareAbsent s die id lo hi true [r]
        else if r = m ∧ hi = m + 1 then declareAbsent s die id lo hi false [r]
        else modSession s die id (fun x => { x with absent := addRanks x.absent [r] })
    | _ => s)

/-- R355, point 2: the spans a die hosts tell their parents' hosts that they live. -/
def execKeepAliveSend (die session : Nat) (s : State) : Out :=
  .next (match session? s die session with
    | none => s
    | some x =>
      let spans := (x.rank, x.rank + 1) :: x.nodes.map (fun n => (n.lo, n.hi))
      let s := spans.foldl (fun s q => match parentOf x.n q.1 q.2 with
        | some p => sendPacket s die (x.ranks.getD p.1 0) (.keepAlive session q.1 q.2)
        | none => s) s
      s.later 4096 (.event (.keepAliveSend die session)))

/-- R355, point 2. -/
def execKeepAliveArrival (die : Nat) (p : Packet) (s : State) : Out :=
  .next (match p.body with
    | .keepAlive id lo hi =>
      match session? s die id with
      | none => s
      | some x => match parentOf x.n lo hi with
        | some q => hear s die id q (decide (hi = midOf q.1 q.2)) p.link
        | none => s
    | _ => s)

/-- R355, point 2: a child that has been silent for 16,384 cycles is declared absent. -/
def execChildTimeout (die session lo hi : Nat) (s : State) : Out :=
  .next (match session? s die session with
    | none => s
    | some x =>
      match x.node? lo hi with
      | none => s
      | some n =>
        let m := midOf lo hi
        let s := if !n.absentL && decide (n.heardL + 16384 ≤ s.now) then declareAbsent s die session lo hi true (spanRanks lo m) else s
        let s := if !n.absentR && decide (n.heardR + 16384 ≤ s.now) then declareAbsent s die session lo hi false (spanRanks m hi) else s
        let next := ((if n.absentL then [] else [n.heardL + 16384]) ++ (if n.absentR then [] else [n.heardR + 16384])).filter (s.now < ·)
        match next with
        | [] => s
        | t :: ts => s.later (ts.foldl min t - s.now) (.event (.childTimeout die session lo hi)))

/-! Links (R343, R344) -/

/-- A link becomes DOWN: its packets are discarded, and children last heard on it are absent (R343, R355). -/
def linkDown (s : State) (l : Nat) : State :=
  let x := s.link l
  if x.st = .down then s else
  let s := s.modLink l (fun x => { x with st := .down, since := s.now, held := [], drops := (x.drops + x.held.length) % 2 ^ 32 })
  let s := writeLink s l
  dies4.foldl (fun s d => (s.die d).sessions.foldl (fun s (e : Nat × Session) =>
    e.2.nodes.foldl (fun s n =>
      let m := midOf n.lo n.hi
      let s := if n.linkL = some l && !n.absentL then declareAbsent s d e.1 n.lo n.hi true (spanRanks n.lo m) else s
      if n.linkR = some l && !n.absentR then declareAbsent s d e.1 n.lo n.hi false (spanRanks m n.hi) else s) s) s) s

/-- A link enters RETRAIN: it must be UP again within 32,768 cycles. -/
def linkTrain (s : State) (l : Nat) (count : Bool) : State :=
  let s := s.modLink l (fun x => { x with
    st := .retrain, since := s.now, retrains := if count then (x.retrains + 1) % 2 ^ 32 else x.retrains })
  let s := if count then { s with mgmt := { s.mgmt with retrains := Tab.put s.mgmt.retrains l (Tab.get 0 s.mgmt.retrains l + 1) } } else s
  (writeLink s l).later 32768 (.event (.linkDownTimeout l s.now))

/-- A link with packets to send takes its turn, once for all of them. -/
def planSend (s : State) (l : Nat) : State :=
  if s.calendar.any (fun e => decide (e.2 = .linkSend l)) then s
  else { s with calendar := s.calendar ++ [(s.now + 1, .linkSend l)] }

/-- The header of a tile packet (Table 18-4). -/
def tileHeader (t : TilePacket) : List Byte :=
  bytesOf 2 t.session ++ bytesOf 4 t.frame ++ bytesOf 3 (t.tx % 2 ^ 12 + 2 ^ 12 * (t.ty % 2 ^ 12)) ++ bytesOf 1 t.rank ++ bytesOf 1 t.opfmt ++
    bytesOf 1 t.span ++ bytesOf 2 t.present ++ bytesOf 2 t.firstmiss ++ bytesOf 8 t.cover.toNat ++ List.replicate 8 0

/-- The contents of a packet on a link: of a tile its header and its payload, 17 beats (R342, R350); the rules lay out no other packet. -/
def packetBytes (b : PacketBody) : List Byte :=
  match b with
  | .tile t | .root t .. => tileHeader t ++ (List.range 512).map (fun i => Tab.get 0 t.payload i)
  | _ => []

/-- The first packet of each channel that waits on a link, with the place it has there. -/
def channelHeads (l : List Packet) : List (Nat × Packet) :=
  l.zipIdx.filterMap (fun e => if (l.take e.2).any (fun q => decide (q.chan = e.1.chan)) then none else some (e.2, e.1))

/-- A link that is UP sends the first packet of every channel whose buffer at the receiving end has room (R342): when that is, the part at the other end decides. -/
def linkSend (s : State) (l : Nat) : State :=
  let x := s.link l
  if x.st ≠ .up ∨ x.held = [] then s else
  let heads := channelHeads x.held
  let go := heads.zipIdx.filterMap (fun e => if Config.freeBool (s.draws + e.2) then some e.1 else none)
  let s := { s with draws := s.draws + heads.length }
  let t : State := s.modLink l (fun x => { x with
    held := (x.held.zipIdx.filter (fun e => !go.any (fun g => decide (g.1 = e.2)))).map (·.1)
    out := x.out ++ go.map (fun g => (g.2, packetBytes g.2.body)) })
  if (t.link l).held = [] then t else planSend t l

/-- R343. -/
def execLinkRetrain (link : Nat) (s : State) : Out :=
  .next (if link < 18 ∧ (s.link link).st = .up then linkTrain s link true else s)

/-- R343: held packets are then sent. -/
def execLinkUp (link : Nat) (s : State) : Out :=
  .next (if link < 18 ∧ (s.link link).st = .retrain then
      planSend (writeLink (s.modLink link (fun x => { x with st := .up, since := s.now })) link) link
    else s)

/-- R343. -/
def execLinkDownTimeout (link stamp : Nat) (s : State) : Out :=
  .next (let x := s.link link
    if x.st = .retrain ∧ x.since = stamp ∧ stamp + 32768 ≤ s.now then linkDown s link else s)

/-- Node ID of a router, when it is not disabled: the package numbers of the four blocks agree, and its own names its die (R344). -/
def routerNode (s : State) (d : Nat) : Option Nat :=
  let id (e : Nat) : Nat := rdNat s (fabricBlock s e) 2
  if id d % 4 = d ∧ dies4.all (fun e => decide (bits (id e) 11 2 = bits (id d) 11 2)) = true then some (id d % 4096) else none

/-- Links of a die. -/
def linksOf (d : Nat) : List Nat := (List.range 18).filter (fun l => decide (linkDie l = d))

/-- A router acts on the block it has read: the enables of its links and the route table. -/
def routerAct (s : State) (d : Nat) : State :=
  let node := routerNode s d
  let en := rdNat s (fabricBlock s d + 4) 4
  let routes := (List.range 1024).foldl (fun t p => Tab.put t p (rdNat s (fabricBlock s d + 64 + p) 1)) ([] : Tab Nat)
  let s := s.modDie d (fun x => { x with nodeId := node, routes := if node.isSome then routes else x.routes })
  (linksOf d).foldl (fun s l =>
    let on := node.isSome && bit en l
    let was := (s.link l).enabled
    let s := s.modLink l (fun x => { x with enabled := on })
    if !on then linkDown s l
    else if !was && decide ((s.link l).st = .down) then linkTrain s l false else s) s

/-- R344: a write to the block's first line wakes the router; the write may enable or disable the package's other routers. -/
def execFabricBlockWrite (die : Nat) (s : State) : Out :=
  .next (if 4 ≤ die then s else
    let s := routerAct s die
    dies4.foldl (fun s d => if d ≠ die && decide ((s.die d).bring = .ready) && decide ((s.die d).nodeId ≠ routerNode s d) then routerAct s d else s) s)

/-! Routing (R345) -/

/-- A packet reaches its die: the event that takes it in. -/
def arrival (d : Nat) (p : Packet) : Event :=
  match p.body with
  | .tile _ => .tilePacketArrival d p
  | .root .. | .rootDone .. => .rootTileDelivery d p
  | .keepAlive .. => .keepAliveArrival d p
  | .absent .. => .absentNotice d p

/-- A packet leaves by a link of this die. -/
def crossLink (s : State) (l : Nat) (p : Packet) : State :=
  let x := s.link l
  if 16 ≤ p.hops then countDrops s l 1 else
  let p := { p with hops := p.hops + 1 }
  match x.st with
  | .up => planSend (s.modLink l (fun x => { x with held := x.held ++ [p] })) l
  | .retrain => s.modLink l (fun x => { x with held := x.held ++ [p] })
  | .down => countDrops s l 1

/-- R345. -/
def execPacketForward (die : Nat) (p : Packet) (s : State) : Out :=
  .next (match (s.die die).nodeId with
    | none => let l := Tab.get 255 (s.die die).routes (p.dest / 4); countDrops s (if l < 18 then l else 0) 1
    | some me =>
      if p.dest / 4 = me / 4 then
        if p.dest % 4 = die then s.laterFree (arrival die p)
        else if (s.die (p.dest % 4)).bring = .ready ∨ (s.die (p.dest % 4)).power.st = .s3 then s.laterFree (.packetForward (p.dest % 4) p)
        else countDrops s 0 1
      else
        let l := Tab.get 255 (s.die die).routes (p.dest / 4)
        if 18 ≤ l then countDrops s 0 1
        else if (s.link l).st = .down then countDrops s l 1
        else if linkDie l = die then crossLink s l p
        else s.laterFree (.packetForward (linkDie l) p))

end Sys2Proof.Machine
end

