-- ==== Sys2Proof/Machine/Scanout.lean ====
section
/-! DEFINITION. The scan-out engines (18 R359 to R362). The meanings of SINK, ROUTE and UNSINK and of the events of delivery. -/

namespace Sys2Proof.Machine

/-- Key of a sink: its engine and its number. -/
def sinkKey (engine sink : Nat) : Nat := engine * 256 + sink

/-- Sink that an object field names (Table 12-5). -/
def FabCmd.sinkKey (c : FabCmd) : Nat := bits c.object 9 0

/-- A bound sink. -/
def sink? (s : State) (d k : Nat) : Option Sink := Tab.find? (s.die d).sinks k

/-- Rewrites a sink. -/
def modSink (s : State) (d k : Nat) (f : Sink → Sink) : State := s.modDie d (fun x => { x with sinks := Tab.modify x.sinks k f })

/-- Bytes of a pixel of a sink format (Table 18-6). -/
def sinkBpp (format : Nat) : Nat := if format = 0 then 4 else 8

/-- Unit named by word 5 of SINK: a group or a strand of the die. -/
def sinkEndpoint (d w : Nat) : Option Nat :=
  match endpoint d (w - bits w 29 27 * 2 ^ 27) with
  | some (u, _) => some u
  | none => none

/-- A field of SINK lies outside Table 18-6. -/
def sinkBad (d : Nat) (ws : List Word) : Bool :=
  let w (i : Nat) : Nat := cw ws i
  let width := bits (w 3) 13 0
  let height := bits (w 3) 27 14
  decide (w 1 % 64 ≠ 0) || decide (width < 1 ∨ 8192 < width ∨ height < 1 ∨ 8192 < height) || decide (2 < bits (w 3) 31 28) ||
    decide (w 4 % 64 ≠ 0) || decide (w 4 < width * sinkBpp (bits (w 3) 31 28)) || (sinkEndpoint d (w 5)).isNone ||
    decide (5 < bits (w 5) 29 27)

/-- Word 5 of SINK names a group on a core whose column is 12 to 15 (R4). -/
def sinkNowhere (ws : List Word) : Bool := decide (bits (cw ws 5) 31 30 = 2 ∧ 12 ≤ bits (cw ws 5) 3 0)

/-- R359: a core ID that identifies no core completes the command with ENGINE_ERROR (R4). -/
def execSink (die k : Nat) (s : State) : Out :=
  .next (fabricStep s die k 2 (.sink die k) 6 (fun s c =>
    let w (i : Nat) : Nat := cw c.words i
    if sinkBad die c.words then (s, some fsBadField)
    else if sinkNowhere c.words then (s, some causeEngineError)
    else if identField s (50 + 32 * die) 1 ≤ c.sinkKey / 256 then (s, some fsNoRoom)
    else if (sink? s die c.sinkKey).isSome then (s, some fsSinkBusy)
    else
      let x : Sink :=
        { ctx := c.ctx, base := pair (c.words.getD 1 0) (c.words.getD 2 0), width := bits (w 3) 13 0, height := bits (w 3) 27 14,
          format := bits (w 3) 31 28, pitch := w 4, endpoint := (sinkEndpoint die (w 5)).getD 0, rq := bits (w 5) 29 27, route := none, epoch := 0, opened := 0,
          frames := [], newest := [], lines := [], posted := none, releasing := none }
      (s.modDie die (fun d => { d with sinks := Tab.put d.sinks c.sinkKey x }), some fsOk)))

/-- The sink a command names, bound in its context and not being released. -/
def ownSink (s : State) (d : Nat) (c : FabCmd) : Option Sink :=
  (sink? s d c.sinkKey).filter (fun x => decide (x.ctx = c.ctx) && x.releasing.isNone)

/-- A session is bound to a sink: its frames are numbered anew, unless it is the one that is bound already. -/
def bindSession (z : Sink) (id opened : Nat) : Sink :=
  if z.route = some id ∧ z.opened = opened then z
  else { z with route := some id, opened := opened, epoch := z.epoch + 1, newest := [], posted := none }

/-- R359. -/
def execRoute (die k : Nat) (s : State) : Out :=
  .next (fabricStep s die k 2 (.route die k) 2 (fun s c =>
    let id := cw c.words 1
    if 65536 ≤ id then (s, some fsBadField)
    else if (ownSink s die c).isNone then (s, some fsNoSink)
    else match session? s die id with
      | some x =>
        if x.ctx = c.ctx then (modSink s die c.sinkKey (fun z => bindSession z id x.opened), some fsOk) else (s, some fsNoSession)
      | none => (s, some fsNoSession)))

/-- The event that releases a sink. -/
def releaseSink (s : State) (d k : Nat) : State := s.soon (.event (.sinkRelease d (k / 256) (k % 256)))

/-- R359: the sink is released after its current frame. -/
def execUnsink (die k : Nat) (s : State) : Out :=
  .next (fabricStep s die k 2 (.unsink die k) 1 (fun s c =>
    match ownSink s die c with
    | none => (s, some fsNoSink)
    | some x =>
      let s := modSink s die c.sinkKey (fun z => { z with releasing := some c })
      (if x.frames = [] then releaseSink s die c.sinkKey else s, none)))

/-- Drop count of an engine. -/
def dropCount (s : State) (d engine : Nat) : Nat := Tab.get 0 (s.die d).sinkDrops engine

/-- R361: the sink is free again; UNSINK posts its two records. -/
def execSinkRelease (die engine sink : Nat) (s : State) : Out :=
  .next (match sink? s die (sinkKey engine sink) with
    | none => s
    | some x =>
      match x.releasing with
      | none => s
      | some c =>
        if x.frames ≠ [] then s else
        let s := s.modDie die (fun d => { d with sinks := Tab.del d.sinks (sinkKey engine sink) })
        postAck (postAck s c [ackWord c fsOk]) c [ackWord c fsOk, 0, 0, 0, w32 (dropCount s die engine)])

/-! Delivery (R360, R361) -/

/-- A root tile is discarded and counted (R361). -/
def dropRoot (s : State) (d engine : Nat) : State :=
  s.modDie d (fun x => { x with sinkDrops := Tab.put x.sinkDrops engine ((Tab.get 0 x.sinkDrops engine + 1) % 2 ^ 32) })

/-- The format suits the operator (R359). -/
def suits (op format : Nat) : Bool :=
  match op with
  | 0 => format == 0 || format == 2
  | 1 => format == 0 || format == 1
  | _ => format == 2

/-- RNE(min(max(c, 0), 1) × 255), NaN giving 0. -/
def unitByte (c : FV) : Nat :=
  match c with
  | .nan _ => 0
  | .inf neg => if neg then 0 else 255
  | .num neg m e => if neg then 0 else min 255 (roundAt .rne false (255 * m) e 0).1

/-- The pixel written for pixel value v of a tile (R360), as a number of the format's size. -/
def sinkPixel (op format v : Nat) : Nat :=
  if format ≠ 0 then v
  else if op = 0 then v / 2 ^ 32
  else (List.range 4).foldl (fun n i => n + 2 ^ (8 * i) * unitByte (channel v i)) 0

/-- Writes pixel p of a root tile to the sink: clipped, lost, or the physical line written (R360, R435). -/
def writePixel (s : State) (x : Sink) (t : TilePacket) (tx0 ty0 p : Nat) : State × Bool × Bool × Option Nat :=
  let px := 8 * (t.tx - tx0) + p % 8
  let py := 8 * (t.ty - ty0) + p / 8
  if x.width ≤ px ∨ x.height ≤ py then (s, true, false, none)
  else
    let v := if t.cover.getLsbD p then sinkPixel (t.opfmt % 16) x.format (packetPixel t p) else 0
    match xlate s x.ctx ((x.base.toNat + py * x.pitch + px * sinkBpp x.format) % 2 ^ 64) true with
    | .ok pa => (sliceWrite s (run pa (bytesOf (sinkBpp x.format) v)), false, false, some (pa / 128))
    | _ => (s, false, true, none)

/-- A root tile is written: the sink with what its frame record will say of it (R360, R361). -/
def writeRoot (s : State) (d k n tx0 ty0 : Nat) (late : Bool) (x : Sink) (t : TilePacket) : State :=
  let z := (List.range 64).foldl (fun (z : State × Bool × Bool × List Nat) p =>
    let r := writePixel z.1 x t tx0 ty0 p
    (r.1, z.2.1 || r.2.1, z.2.2.1 || r.2.2.1, match r.2.2.2 with | some l => if z.2.2.2.contains l then z.2.2.2 else l :: z.2.2.2 | none => z.2.2.2))
    (s, false, false, x.lines)
  modSink z.1 d k (fun x => { x with
    lines := z.2.2.2
    newest := (t.tx, t.ty, t.frame) :: x.newest.filter (fun e => decide ((e.1, e.2.1) ≠ (t.tx, t.ty)))
    frames := x.frames.map (fun f => if f.frame = t.frame ∧ f.epoch = x.epoch then
      { f with tiles := f.tiles + 1, incomplete := f.incomplete + (if t.present < n then 1 else 0), firstmiss := min f.firstmiss t.firstmiss,
               maxmiss := max f.maxmiss (n - t.present), deadline := f.deadline || late, clipped := f.clipped || z.2.1,
               lost := f.lost || z.2.2.1 } else f) })

/-- A frame of a sink, by its binding and number. -/
def Sink.frame? (x : Sink) (epoch f : Nat) : Option SinkFrame := x.frames.find? (fun r => decide (r.epoch = epoch ∧ r.frame = f))

/-- Rewrites a frame of a sink. -/
def modSinkFrame (s : State) (d k epoch f : Nat) (g : SinkFrame → SinkFrame) : State :=
  modSink s d k (fun x => { x with frames := x.frames.map (fun r => if r.epoch = epoch ∧ r.frame = f then g r else r) })

/-- A frame is finished; its record is due (R361). -/
def finishFrame (s : State) (d k epoch f : Nat) : State :=
  (modSinkFrame s d k epoch f (fun r => { r with done := true })).soon (.event (.frameRecord d (k / 256) (k % 256) f))

/-- A root tile of a frame counts as delivered; the last one finishes it. -/
def delivered (s : State) (d k epoch f : Nat) : State :=
  let s := modSinkFrame s d k epoch f (fun r => { r with left := r.left - 1 })
  match (sink? s d k).bind (fun x => x.frame? epoch f) with
  | some r => if r.left = 0 ∧ r.done = false then finishFrame s d k epoch f else s
  | none => s

/-- A frame begins at a sink with its first root tile. -/
def newSinkFrame (x : Sink) (t : TilePacket) (tiles : Nat) : SinkFrame :=
  let again := match x.posted with | some h => decide (t.frame ≤ h) | none => false
  { frame := t.frame, session := t.session, epoch := x.epoch, again := again, left := tiles, tiles := 0, incomplete := 0, firstmiss := 0xFFFF, maxmiss := 0,
    deadline := false, clipped := false, lost := false, done := false }

/-- A root tile reaches a sink with a matching ROUTE and a suitable format. -/
def takeRoot (s : State) (d k : Nat) (x : Sink) (t : TilePacket) (n tx0 ty0 tiles : Nat) (late : Bool) : State :=
  let older := x.newest.any (fun e => decide ((e.1, e.2.1) = (t.tx, t.ty) ∧ t.frame < e.2.2))
  if (x.frame? x.epoch t.frame).isNone && (x.releasing.isSome || older) then dropRoot s d (k / 256)
  else
    let s := if (x.frame? x.epoch t.frame).isSome then s
      else modSink s d k (fun x => { x with frames := x.frames ++ [newSinkFrame x t tiles] })
    delivered (if older then dropRoot s d (k / 256) else writeRoot s d k n tx0 ty0 late x t) d k x.epoch t.frame

/-- The turn carries a root tile of a frame of a session that has not been delivered. -/
def carriesRoot (session frame : Nat) (t : Turn) : Bool :=
  match t with
  | .event (.packetForward _ p) | .event (.rootTileDelivery _ p) =>
    match p.body with
    | .root t .. => decide (t.session = session ∧ t.frame = frame)
    | _ => false
  | _ => false

/-- R360, R361: a root tile, or the end of a frame at the root, reaches the delivery die. -/
def execRootTileDelivery (die : Nat) (p : Packet) (s : State) : Out :=
  .next (match p.body with
    | .root t engine sink n tx0 ty0 tw th late =>
      let k := sinkKey (engine % 4) (sink % 256)
      match sink? s die k with
      | some x =>
        if x.route = some t.session && suits (t.opfmt % 16) x.format then takeRoot s die k x t n tx0 ty0 (tw * th) (decide (late ≠ 0))
        else dropRoot s die (engine % 4)
      | none => dropRoot s die (engine % 4)
    | .rootDone session frame engine sink =>
      let k := sinkKey (engine % 4) (sink % 256)
      if s.agenda.any (carriesRoot session frame) || s.calendar.any (fun e => carriesRoot session frame e.2) then
        s.later 1 (.event (.rootTileDelivery die p))
      else match (sink? s die k).bind (fun x => x.frames.find? (fun r => decide (r.session = session ∧ r.frame = frame) && !r.done)) with
        | some r => finishFrame (modSinkFrame s die k r.epoch frame (fun r => { r with deadline := true })) die k r.epoch frame
        | none => s
    | _ => s)

/-- The words of a frame record (Table 18-7). -/
def frameWords (k : Nat) (r : SinkFrame) : List Word :=
  [w32 (r.session + 65536 * (k % 256) + 2 ^ 24 * (k / 256)), w32 r.frame, w32 r.tiles, w32 r.incomplete,
   w32 (r.firstmiss % 65536 + 65536 * r.maxmiss), w32 (b2n r.deadline + 2 * b2n r.clipped + 4 * b2n r.lost)]

/-- R361: records of a sink are posted in frame order, once for a frame. -/
def execFrameRecord (die engine sink frame : Nat) (s : State) : Out :=
  .next (
    let k := sinkKey engine sink
    match sink? s die k with
    | none => s
    | some x =>
      match x.frames.find? (fun r => decide (r.frame = frame) && r.done) with
      | none => s
      | some r =>
        if x.frames.any (fun f => decide (f.epoch < r.epoch) || (decide (f.epoch = r.epoch) && decide (f.frame < frame))) then s else
        let s := if r.again then s else sendRecord s x.endpoint (x.rq + 2) (frameWords k r) (x.lines.map (fun l => (128 * l, 128)))
        let s := modSink s die k (fun x => { x with
          frames := x.frames.filter (fun f => decide (f.frame ≠ frame ∨ f.epoch ≠ r.epoch))
          posted := if r.again || r.epoch != x.epoch then x.posted else some frame })
        match sink? s die k with
        | none => s
        | some x =>
          let s := if x.frames = [] ∧ x.releasing.isSome = true then releaseSink s die k else s
          x.frames.foldl (fun s f => if f.done then s.soon (.event (.frameRecord die engine sink f.frame)) else s) s)

end Sys2Proof.Machine
end

