-- ==== Sys2Proof/Machine/Schedule.lean ====
section
/-! DEFINITION. Fetching, waking parked splits and choosing what issues (01 R15, R24; 03 R65 to R67; 07 R132; 15 R295 to R299). The meanings of ISSUE_SELECT, STRAND_ISSUE_SELECT and LOAD_LIMIT_WINDOW. -/

namespace Sys2Proof.Machine

/-! Which units may issue -/

/-- A die runs: it has been brought up, is in S0 and is not frozen (R321, R390, R394). -/
def dieRuns (s : State) (d : Nat) : Bool :=
  let x := s.die d
  decide (x.bring = .ready) && decide (x.power.st = .s0) && !x.frozen

/-- The unit is resident on a running die and neither halted nor gathered, nor stopped, unless an access of it must still complete (R26, R218, R313, R375). -/
def mayIssue (s : State) (un : UnitSt) : Bool :=
  un.halted.isNone && (!un.stopped || un.splits.any (fun x => resolving un x.1)) && decide (un.mode ≠ .gathered) && dieRuns s un.die && decide (un.at_.core < 65536)

/-! The next instruction -/

/-- The running split enters the line of its next instruction: the line is fetched and checked (R66, R67, Table 3-5). -/
def enterLine (s : State) (u e : Nat) (un : UnitSt) (sp : Split) : State :=
  match fetchLine s un sp sp.pc with
  | .line l s =>
    match fetchChecks l sp.pc with
    | some (c, a) => takeTrap s u e { cause := c, pc := a, addr := a, flags := 2 }
    | none => s.modUnit u (fun un => un.modSplit e (fun x => { x with line := some l }))
  | .need p => park (requestWalk s un.cell un.at_.ctx p) u e (.walk [p]) sp.stage
  | .trap c a f => takeTrap s u e { cause := c, pc := sp.pc, addr := a, flags := f }

/-! Waking (R15, R24) -/

/-- A wait has cleared. -/
def waitOver (s : State) (u e : Nat) (un : UnitSt) (sp : Split) (w : Wait) : Bool :=
  let k := s.core un.at_.core
  let walking (p : Nat) : Bool := (s.cell un.cell).walks.any (fun w => w.serves un.at_.ctx p)
  let outstanding (i : Nat) : Bool := match Tab.find? un.ops i with | some o => !faultedAt e o | none => false
  match w with
  | .full l => l.all (fun o => decide (feOf un o = .full))
  | .settled l => l.all (fun o => decide (feOf un o ≠ .pending))
  | .portWord r => (portOf un r).word.isSome
  | .portRoom r => portRoom s un r
  | .result r => !(resultQ un r).isEmpty
  | .engine r => engineRoom s un r
  | .push o => !pushPending un o
  | .mem ops => !ops.any outstanding
  | .batch n => batchesDone un n
  | .poolw => match s.team? un.at_.team with | some t => t.poolw.isSome | none => true
  | .take _ =>
    let q := match nextOf sp with | some (.enq y) => some y.m.queue.val | _ => none
    (takeSlot s un q (depthOf s un + 1)).isSome
  | .svcRoom rq _ => decide (Tab.get 0 un.eng.svcOut rq < 32)
  | .svcAccept i _ => match req? s un.die i with | some r => decide (r.st ≠ .pending) | none => true
  | .walkFor p _ => !walking p
  | .walk ps => !ps.any walking
  | .surface reqs ops => (stillServed s reqs).isEmpty && !ops.any (fun i => (Tab.find? un.ops i).isSome)
  | .array => !arrayBusy k
  | .arrayDrain => k.mx.queue.isEmpty && k.mx.exec.isNone && k.mx.pend.isEmpty
  | .arrayRoom => decide (k.mx.queue.length < 4)
  | .gang n => gangMet s un.at_.team n
  | .space c => !arrayBusy (s.core c)
  | .matrixDone => !matrixBusy s u un
  | .barrier .. | .sleep .. | .access _ | .sump => false

/-- The parked splits of a unit whose waits have cleared are ready, at the stage they had reached, and a unit in which none runs chooses among all that are ready (R95). -/
def wakeUnit (s : State) (u : Nat) : State :=
  match s.unit? u with
  | none => s
  | some un =>
    let passed := un.splits.filter (fun x => decide (x.2.st = .parked) &&
      (match x.2.wait with | some w => waitOver s u x.1 un x.2 w | none => true))
    let un := if un.stopped then un.splits.foldl (fun un x =>
        if x.2.st = .running ∧ resolving un x.1 = false then un.modSplit x.1 (fun y => { y with st := .ready }) else un) un
      else un
    s.putUnit u (choose (passed.foldl (fun un x => un.modSplit x.1 (fun y => { y with st := .ready })) un))

/-- Instructions that enter the array's queue (R190). -/
def entersArray : Instr → Bool
  | .mma _ | .mmaF32 _ | .gangMma _ | .mzero _ | .mst _ => true
  | _ => false

/-- The unit may be given an issue slot in this cycle. -/
def mayTakeSlot (s : State) (v : Nat) : Bool :=
  match s.unit? v with
  | some un => mayIssue s un && decide (un.sched.notBefore ≤ s.now)
  | none => false

/-- The wait that the next instruction of the running split would park for (R22 to R24, R190, R226). A write to a full port stays a
candidate while the reader may issue the read that makes room in the same cycle (R22); when the reader is then given no slot, the
writer parks at its own DESIGN CHOICE. -/
def issueWait (s : State) (u : Nat) (un : UnitSt) (sp : Split) : Option Wait :=
  if sp.stage ≠ 0 then none else
  match nextOf sp with
  | none => none
  | some i =>
    match ready i { s with actor := some u } with
    | .waits _ (.portRoom r) => if roomWith s un r (popsNow s (mayTakeSlot s) 64) then none else some (.portRoom r)
    | .waits _ w => some w
    | .acts _ => if entersArray i && holds s un && decide (4 ≤ (s.core un.at_.core).mx.queue.length) then some .arrayRoom else none
    | _ => none

/-- The unit's running split is brought to its next instruction, splits that would park being parked and the next taking their place (R15, R95). -/
def settle (s : State) (u : Nat) : Nat → State
  | 0 => s
  | n + 1 =>
    match s.unit? u with
    | none => s
    | some un =>
      match un.running with
      | none => s
      | some (e, sp) =>
        if sp.line.isNone then settle (enterLine s u e un sp) u n
        else if sp.stage = skipStage then settle (skipLoop s u e) u n
        else match issueWait s u un sp with
          | some w => settle (park s u e w 0) u n
          | none => s

/-- A unit as it stands before a selection. -/
def prepare (s : State) (u : Nat) : State :=
  match s.unit? u with
  | some un => if mayIssue s un then settle (wakeUnit s u) u 132 else s
  | none => s

/-! Selection on an S-core (R295 to R298) -/

/-- A group of the set C, with what its ranking takes into account. -/
structure Candidate where
  u : Nat
  age : Nat
  wait : Nat
  team : Nat
  graphics : Bool
  /-- Its next instruction is a global load (R298). -/
  load : Bool
  giveWay : Bool
  /-- Its next instruction is for the special-function unit (R132). -/
  special : Bool
  deriving DecidableEq, Repr

/-- Global loads (R298). -/
def isGlobalLoad : Instr → Bool
  | .ld _ | .gld _ | .expld _ | .pref _ => true
  | _ => false

/-- Instructions of majors 0x1C and 0x1D. -/
def isSpecial : Instr → Bool
  | .rcp _ | .rsq _ | .sqrt _ | .exp2 _ | .log2 _ | .tanh _ | .sint _ | .cost _ | .sincost _ => true
  | _ => false

/-- The group is a member of C in this cycle. -/
def candidate (s : State) (u : Nat) : Option Candidate :=
  match s.unit? u with
  | none => none
  | some un =>
    match un.running with
    | none => none
    | some (_, sp) =>
      let graphics := !computeGroup s un
      let i := if sp.stage = 0 then nextOf sp else none
      if !mayIssue s un || sp.line.isNone || decide (s.now < un.sched.notBefore) || (graphics && decide (s.now < un.sched.gapEnd)) then none
      else some { u := u, age := un.sched.age, wait := un.sched.wait, team := un.at_.team, graphics := graphics,
                  load := (match i with | some i => isGlobalLoad i | none => false)
                  giveWay := (match i with | some i => graphics && (hintOf i).gw | none => false)
                  special := (match i with | some i => isSpecial i | none => false) }

/-- Older, ties to the lower id.group. -/
def Candidate.older (a b : Candidate) : Bool := decide (a.age < b.age) || (decide (a.age = b.age) && decide (a.u < b.u))

/-- The group is starving. -/
def Candidate.starving (c : Candidate) : Bool := decide (1024 ≤ c.wait)

/-- Longest wait first, ties to the lower id.group. -/
def Candidate.hungrier (a b : Candidate) : Bool := decide (b.wait < a.wait) || (decide (a.wait = b.wait) && decide (a.u < b.u))

/-- Groups of compute class on a core that are older than a group. -/
def olderCompute (s : State) (us : List Nat) (c : Candidate) : Nat :=
  (us.filter (fun v => match s.unit? v with
    | some x => computeGroup s x && (decide (x.sched.age < c.age) || (decide (x.sched.age = c.age) && decide (v < c.u)))
    | none => false)).length

/-- A give-way group goes after every older group, and after every group of another team that does not give way (R296). -/
def placeGiveWay (l : List Candidate) (w : Candidate) : List Candidate :=
  let at_ := l.zipIdx.foldl (fun n d => if (!d.1.giveWay && decide (d.1.team ≠ w.team)) || d.1.older w then d.2 + 1 else n) 0
  l.take at_ ++ w :: l.drop at_

/-- Rank of R296. -/
def rank (e : List Candidate) : List Candidate :=
  let rest := sortBy Candidate.older (e.filter (fun c => !c.starving))
  sortBy Candidate.hungrier (e.filter (fun c => c.starving)) ++
    (rest.filter (·.giveWay)).foldl placeGiveWay (rest.filter (fun c => !c.giveWay))

/-- The groups that issue, in rank order: at most four, and one special-function instruction when its unit accepts. -/
def takeSlots (free : Bool) (l : List Candidate) : List Nat :=
  (l.foldl (fun (st : List Nat × Bool) c =>
    if 4 ≤ st.1.length ∨ (c.special = true ∧ st.2 = false) then st else (st.1 ++ [c.u], st.2 && !c.special)) ([], free)).1

/-- Groups resident on a core. -/
def coreUnits (s : State) (core : Nat) : List Nat :=
  s.units.filterMap (fun (e : Nat × UnitSt) => if !e.2.at_.strand && decide (e.2.at_.core = core) then some e.1 else none)

/-- R296. -/
def execIssueSelect (core : Nat) (s : State) : Out :=
  .next (
    let us := coreUnits s core
    let s := us.foldl prepare s
    let c := us.filterMap (candidate s)
    let e := c.filter (fun x => x.starving || x.graphics || !x.load || decide (olderCompute s us x < (s.core core).limit))
    let issued := takeSlots (decide ((s.core core).sfuFree ≤ s.now)) (rank e)
    let s := c.foldl (fun s x => s.modUnit x.u (fun un =>
      { un with sched := { un.sched with wait := if issued.contains x.u then 0 else un.sched.wait + 1 } })) s
    issued.foldl (fun s u => s.soon (.issue u)) s)

/-- R298: the limit after a window with n loads, v of them victims. -/
def newLimit (l n v : Nat) : Nat :=
  if n < 4 * v then (if 12 ≤ l then l - 8 else 4)
  else if 16 * v < n ∨ n = 0 then (if l = 4 then 8 else min (l + 8) 128)
  else l

/-- R298: at the end of each window of 4,096 cycles. -/
def execLoadLimitWindow (core : Nat) (s : State) : Out :=
  .next (if s.now % 4096 = 0 then
      s.modCore core (fun k => { k with limit := newLimit k.limit k.loads k.victimHits, loads := 0, victimHits := 0 })
    else s)

/-! Selection on a strand core (R299) -/

/-- The strand of a thread of a strand core. -/
def threadUid (sc thread : Nat) : Nat := strandUid (sc * 4 + thread)

/-- R299: threads are considered from the one after the last to issue on, so that one that yields comes last. -/
def execStrandIssueSelect (sc : Nat) (s : State) : Out :=
  .next (
    let s := (List.range 4).foldl (fun s t => prepare s (threadUid sc t)) s
    let order := (List.range 4).map (fun i => ((s.score sc).last + 1 + i) % 4)
    match order.find? (fun t => (candidate s (threadUid sc t)).isSome) with
    | some t => (s.modScore sc (fun c => { c with last := t })).soon (.issue (threadUid sc t))
    | none => s)

/-! The issue turn -/

/-- What an issue leaves besides the instruction's effect: the step that was armed begins (R373), and at the first issue of an instruction the gap of a graphics group, and the special-function unit busy for four cycles (R132, R295). -/
def markIssue (s : State) (u : Nat) (un : UnitSt) (e : Nat) (sp : Split) (i : Instr) : State :=
  let s := if un.step = .armed then s.modUnit u (fun un => { un with step := .issued e sp.pc }) else s
  if sp.stage ≠ 0 ∨ un.at_.strand = true then s else
  let gap := match (hintOf i).gap.val with | 0 => 0 | 1 => 1 | 2 => 2 | _ => 4
  let s := if computeGroup s un then s
    else s.modUnit u (fun un => { un with sched := { un.sched with gapEnd := s.now + 1 + gap } })
  if isSpecial i then s.modCore un.at_.core (fun k => { k with sfuFree := s.now + 4 }) else s

/-- A unit's turn to issue: what stands before its next instruction is dealt with, and the instruction that issues, if one does, is answered with the state it issues in. -/
def issueTurn (s : State) (u : Nat) : State × Option Instr :=
  let enter (s : State) : State :=
    match s.unit? u with
    | some un => match un.running with
      | some (e, sp) => if sp.line.isNone then enterLine s u e un sp else s
      | none => s
    | none => s
  match s.unit? u with
  | none => (s, none)
  | some un =>
    if !mayIssue s un then (s, none) else
    let s := enter s
    match s.unit? u with
    | none => (s, none)
    | some un =>
      match un.running with
      | none => (s, none)
      | some (e, sp) =>
        if sp.line.isNone then (s, none)
        else if sp.stage = skipStage then (skipLoop s u e, none)
        else match nextOf sp with
          | none => (trapHere s u e causeIllegalOp, none)
          | some i => ({ markIssue s u un e sp i with actor := some u }, some i)

/-- An engine that holds more commands than it has entries for, one of them just passed: a command of one word, whose last word found the engine full (R226). -/
def crowded (s t : State) (un : UnitSt) : Option Nat :=
  [1, 2].find? (fun r => decide (engineEntries < engineLoad t un r) && decide (engineLoad s un r < engineLoad t un r))

/-- What an instruction issued by the acting unit answers, when every engine has taken what it pushed; else its split parks where it stands, with nothing done, until an entry frees (R226). -/
def unlessCrowded (s : State) (o : Out) : Out :=
  match o, s.actor with
  | .next t, some u =>
    match s.unit? u with
    | none => o
    | some un => match un.running, crowded s t un with
      | some (e, sp), some r => .next (park s u e (.engine r) sp.stage)
      | _, _ => o
  | _, _ => o

end Sys2Proof.Machine
end

