-- ==== Sys2Proof/Machine/Debug.lean ====
section
/-! DEFINITION. The debug module (19 R371 to R379). The meanings of its commands and of the revocation of its right. A write to lines 0 or 1 of a debug block wakes the module at DEBUG_HALT, which passes other commands on. -/

namespace Sys2Proof.Machine

/-! The block (Table 19-4) -/

/-- A field of the block of a cell's module. -/
def debugField (s : State) (cell off n : Nat) : Nat := rdNat s (debugBlock s cell + off) n

/-- Statuses of R373. -/
abbrev dbDone := 0
abbrev dbNoRight := 1
abbrev dbNotHalted := 2
abbrev dbBadCommand := 3
abbrev dbBufferFull := 4

/-- The module writes a command's status. -/
def debugStatus (s : State) (cell code : Nat) : State := poke s (run (debugBlock s cell + 65) (bytesOf 1 code))

/-- A command waits: its status reads 0xFF. -/
def debugPending (s : State) (cell : Nat) : Bool := debugField s cell 65 1 == 255

/-- The owner holds the debug right (R372). -/
def hasRight (d : Debug) : Bool := bit d.dflags 0

/-- The unit word that names every unit of the owner in the cell. -/
abbrev wholeCell := 0xFFFFFFFF

/-- The unit that a unit word names, if it is a live unit of the owner in the cell. -/
def debugUnit (s : State) (cell w : Nat) : Option Nat :=
  let u := if bits w 31 30 = 0 ∧ bits w 29 16 = 0 then some (groupUid (bits w 8 0) (bits w 15 9))
    else if bits w 31 30 = 1 ∧ bits w 29 11 = 0 ∧ bits w 8 0 < 384 then some (threadUid (cell / 24 * 384 + bits w 8 0) (bits w 10 9))
    else none
  u.filter (fun v => match s.unit? v with
    | some un => decide (un.cell = cell) && decide (un.at_.ctx = (s.cell cell).dbg.owner) && decide (un.at_.core < 65536)
    | none => false)

/-- A command with an operation code is performed: with the right, `body` acts and answers its status. -/
def debugCommand (s : State) (cell op : Nat) (body : State → State × Nat) : State :=
  if cell < 96 ∧ debugPending s cell = true ∧ debugField s cell 64 1 = op then
    if hasRight (s.cell cell).dbg then
      let r := body s
      debugStatus r.1 cell r.2
    else debugStatus s cell dbNoRight
  else s

/-- A command on a named unit that must be halted. -/
def onHalted (s : State) (cell : Nat) (body : Nat → UnitSt → State × Nat) : State × Nat :=
  match debugUnit s cell (debugField s cell 68 4) with
  | none => (s, dbBadCommand)
  | some u =>
    match s.unit? u with
    | none => (s, dbBadCommand)
    | some un => if un.halted.isSome then body u un else (s, dbNotHalted)

/-! Resuming (R374, R375, R377) -/

/-- The forming group that holds a strand does not count the cycles since a halt, once none of its strands is halted any more. -/
def extendForm (s : State) (cell u t : Nat) : State :=
  match List.find? (fun (f : Nat × Forming) => f.2.strands.contains u) (s.cell cell).forming with
  | none => s
  | some (k, f) =>
    if formHalted s f then s
    else replanForms (s.modCell cell (fun c => { c with
      forming := Tab.put c.forming k { f with paused := f.paused + (s.now - max t f.since) } })) cell

/-- Edits of a unit that resumes can no longer be committed (R373). -/
def staleEdits (s : State) (cell u : Nat) : State :=
  s.modDebug cell (fun d => { d with edits := d.edits.map (fun e => if e.unit = u then { e with stale := true } else e) })

/-- A halted unit runs again from the next cycle on: the cycles it was halted for count neither for its sleeps nor for its Sump timeout. -/
def resumeUnit (s : State) (u : Nat) : State :=
  match s.unit? u with
  | none => s
  | some un =>
    match un.halted with
    | none => s
    | some t =>
      let s := s.putUnit u { un with halted := none, sched := { un.sched with notBefore := max un.sched.notBefore (s.now + 1) } }
      let s := extendSleeps s u (s.now - t)
      staleEdits (extendForm s un.cell u t) un.cell u

/-- A cell resumes: the halted units of its owner run again, and its copy engines go on. -/
def resumeCell (s : State) (cell : Nat) : State :=
  let us := s.units.filterMap (fun (e : Nat × UnitSt) =>
    if decide (e.2.cell = cell) && decide (e.2.at_.ctx = (s.cell cell).dbg.owner) && e.2.halted.isSome then some e.1 else none)
  (us.foldl resumeUnit s).modDebug cell (fun d => { d with frozen := false, halted := [] })

/-- Cells halted by a trigger that halted the given cell. -/
def haltedWith (s : State) (cell : Nat) : List Nat :=
  let l := (s.cell cell).dbg.halted
  let owner := (s.cell cell).dbg.owner
  (List.range 96).filter (fun c => decide (c = cell) ||
    (decide ((s.cell c).dbg.owner = owner) && (s.cell c).dbg.halted.any (fun u => l.contains u)))

/-! Commands (Table 19-5) -/

/-- The event of a command. -/
def debugEvent (cell op : Nat) : Option Event :=
  match op with
  | 2 => some (.debugResume cell) | 3 => some (.debugStep cell) | 4 => some (.debugRead cell) | 5 => some (.debugWrite cell)
  | 6 => some (.commit cell) | 7 => some (.drop cell) | _ => none

/-- HALT: a cross-trigger from the named unit, or of the cell alone (R374). -/
def haltCommand (s : State) (cell : Nat) : State × Nat :=
  let w := debugField s cell 68 4
  let owner := (s.cell cell).dbg.owner
  if w = wholeCell then (if armed s cell owner then haltCell s owner (2 ^ 32 + cell) cell else s, dbDone)
  else match debugUnit s cell w with
    | none => (s, dbBadCommand)
    | some u => match s.unit? u with
      | some un => (crossTrigger s u un, dbDone)
      | none => (s, dbBadCommand)

/-- R371, R373, R374: the module reads its block; a right taken away is revoked first, HALT is performed, and another command goes to its own event. -/
def execDebugHalt (cell : Nat) (s : State) : Out :=
  .next (if 96 ≤ cell then s else
    let d := (s.cell cell).dbg
    let owner := debugField s cell 0 2
    let flags := debugField s cell 2 1
    if hasRight d && (decide (owner ≠ d.owner) || !bit flags 0) then s.soon (.event (.debugRevoke cell))
    else
      let s := s.modDebug cell (fun d => { d with
        owner := owner, dflags := flags, rmode := debugField s cell 3 1, traced := if bit flags 3 then d.traced else [] })
      if !debugPending s cell then s
      else if !hasRight (s.cell cell).dbg then debugStatus s cell dbNoRight
      else if debugField s cell 64 1 = 1 then debugCommand s cell 1 (fun s => haltCommand s cell)
      else match debugEvent cell (debugField s cell 64 1) with
        | some e => if s.planned e then s else s.soon (.event e)
        | none => debugStatus s cell dbBadCommand)

/-- R373. -/
def execDebugResume (cell : Nat) (s : State) : Out :=
  .next (debugCommand s cell 2 (fun s =>
    let w := debugField s cell 68 4
    if w = wholeCell ∨ (debugUnit s cell w).isSome = true then ((haltedWith s cell).foldl resumeCell s, dbDone)
    else (s, dbBadCommand)))

/-- R373, R379: the unit issues one instruction, on whose retirement it traps STEP. -/
def execDebugStep (cell : Nat) (s : State) : Out :=
  .next (debugCommand s cell 3 (fun s => onHalted s cell (fun u _ =>
    ((resumeUnit s u).modUnit u (fun un => { un with step := .armed }), dbDone))))

/-! Unit state by offset (R376) -/

/-- Bytes of a unit's record. -/
def recordSize (un : UnitSt) : Nat := if un.at_.strand then 4096 else 8192

/-- Register and lane of an offset of a v register in the allocation of a group. -/
def vregAt (s : State) (un : UnitSt) (off : Nat) : Option (Nat × Nat) :=
  if off < 8192 ∨ un.at_.strand = true ∨ off % 4 ≠ 0 ∨ 8 * regblkOf s un ≤ (off - 8192) / 128 then none
  else some ((off - 8192) / 128, (off - 8192) % 128 / 4)

/-- The 8 bytes at an offset; those of a v register have zeros above its value. -/
def readState (s : State) (u : Nat) (un : UnitSt) (off : Nat) : Option Nat :=
  if off < recordSize un ∧ off % 8 = 0 then some (leAt (unitImage s u un) off 8)
  else (vregAt s un off).map (fun r => (readV un r.1 r.2).toNat)

/-- R376. -/
def execDebugRead (cell : Nat) (s : State) : Out :=
  .next (debugCommand s cell 4 (fun s => onHalted s cell (fun u un =>
    match readState s u un (debugField s cell 72 4) with
    | some v => (poke s (run (debugBlock s cell + 80) (bytesOf 8 v)), dbDone)
    | none => (s, dbBadCommand))))

/-- Offsets that WRITE takes. -/
def writable (s : State) (un : UnitSt) (off : Nat) : Bool :=
  (vregAt s un off).isSome ||
    (decide (off < recordSize un) && decide (off % 8 = 0) && !decide (1992 ≤ off ∧ off < 4656) && decide (off ≠ 1592) && decide (off ≠ 1600))

/-- R373. -/
def execDebugWrite (cell : Nat) (s : State) : Out :=
  .next (debugCommand s cell 5 (fun s => onHalted s cell (fun u un =>
    let off := debugField s cell 72 4
    if !writable s un off then (s, dbBadCommand)
    else if 64 ≤ (s.cell cell).dbg.edits.length then (s, dbBufferFull)
    else (s.modDebug cell (fun d => { d with edits := d.edits ++ [⟨u, off, dw (debugField s cell 80 8), false⟩] }), dbDone))))

/-- An edit of a unit: the value stands at the offset, full/empty bits unchanged, and the unit is marked edited. -/
def applyEdit (s : State) (u off : Nat) (v : DWord) : State :=
  match s.unit? u with
  | none => s
  | some un =>
    let x := match vregAt s un off with
      | some r => writeV un r.1 (BitVec.ofNat 32 (2 ^ r.2)) (fun _ => loWord v)
      | none =>
        let bs := unitImage s u un
        unitFrom un (bs.take off ++ bytesOf 8 v.toNat ++ bs.drop (off + 8))
    let un' := { x with regs := { x.regs with vfe := un.regs.vfe, sfe := un.regs.sfe, q := un.regs.q } }
    s.putUnit u (choose { un' with edited := true })

/-- R373, R376. -/
def execCommit (cell : Nat) (s : State) : Out :=
  .next (debugCommand s cell 6 (fun s =>
    let l := (s.cell cell).dbg.edits
    if l.any (fun e => e.stale || (match s.unit? e.unit with | some un => un.halted.isNone | none => true)) then (s, dbNotHalted)
    else ((l.foldl (fun s e => applyEdit s e.unit e.off e.value) s).modDebug cell (fun d => { d with edits := [] }), dbDone)))

/-- R373. -/
def execDrop (cell : Nat) (s : State) : Out :=
  .next (debugCommand s cell 7 (fun s => (s.modDebug cell (fun d => { d with edits := [] }), dbDone)))

/-- R377: the halted units of the former owner resume, the edit buffer is discarded, and a command still pending ends with NO_RIGHT. -/
def execDebugRevoke (cell : Nat) (s : State) : Out :=
  .next (if 96 ≤ cell then s else
    let owner := debugField s cell 0 2
    let flags := debugField s cell 2 1
    let d := (s.cell cell).dbg
    if !(hasRight d && (decide (owner ≠ d.owner) || !bit flags 0)) then s else
    let s := resumeCell s cell
    let s := s.modDebug cell (fun d => { d with
      owner := owner, dflags := flags, rmode := debugField s cell 3 1, edits := [], traced := [], diverged := [], pass := [] })
    if debugPending s cell then debugStatus s cell dbNoRight else s)

end Sys2Proof.Machine
end

