-- ==== Sys2Proof/Machine/Power.lean ====
section
/-! DEFINITION. Bring-up, power states, clocks and the lifetime record (20 R390, R391, R394 to R396, R399). The meanings of POWER_ON to LINKS, of the power events, of LATTOL_WRITE, CLKLIM_WRITE, THERMAL_STEP and LIFETIME_RECORD_WRITE. -/

namespace Sys2Proof.Machine

/-- Rewrites the power of a die. -/
def modPower (s : State) (d : Nat) (f : Power → Power) : State := s.modDie d (fun x => { x with power := f x.power })

/-- Rewrites the management state. -/
def State.modMgmt (s : State) (f : Mgmt → Mgmt) : State := { s with mgmt := f s.mgmt }

/-! The lifetime record (R399, Table 20-4) -/

/-- CRC-32 of a list of bytes. -/
def crc32 (bs : List Byte) : Nat :=
  let step (c : BitVec 32) (b : Byte) : BitVec 32 :=
    (List.range 8).foldl (fun x _ => if x.getLsbD 0 then (x >>> 1) ^^^ 0xEDB88320#32 else x >>> 1) (c ^^^ b.setWidth 32)
  (bs.foldl step 0xFFFFFFFF#32 ^^^ 0xFFFFFFFF#32).toNat

/-- Bytes of a copy of the record. -/
def lifeBytes (t : Tab Byte) (o n : Nat) : List Byte := (List.range n).map (fun i => Tab.get 0 t (o + i))

/-- A field of a copy. -/
def lifeField (t : Tab Byte) (o : Nat) : Nat := ofBytes (lifeBytes t o 4)

/-- The copy's checksum holds. -/
def lifeValid (t : Tab Byte) : Bool := lifeField t 4092 == crc32 (lifeBytes t 0 4092)

/-- The copy that LIFE shows: the valid one with the higher sequence; none is valid before the first write. -/
def lifeShown (m : Mgmt) : Tab Byte :=
  if lifeValid m.lifeA && (!lifeValid m.lifeB || decide (lifeField m.lifeB 0 ≤ lifeField m.lifeA 0)) then m.lifeA
  else if lifeValid m.lifeB then m.lifeB else []

/-- A counter held at its maximum. -/
def saturated (w n : Nat) : Nat := min n (2 ^ w - 1)

/-- The 5 °C band of a temperature, from below 30 °C to 100 °C and above. -/
def tempBand (t : Nat) : Nat := if t < 30 then 0 else min 15 ((t - 25) / 5)

/-- Bytes 16 to 271: hours of each die in each band. -/
def tempBytes (s : State) (old : Tab Byte) (hour : Bool) : List Byte :=
  dies4.flatMap (fun d => (List.range 16).flatMap (fun b =>
    let n := lifeField old (16 + 64 * d + 4 * b)
    bytesOf 4 (saturated 32 (n + b2n (hour && decide (tempBand (s.die d).power.temp = b))))))

/-- Bytes 272 to 399: the events of each die. -/
def eventBytes (s : State) : List Byte :=
  dies4.flatMap (fun d =>
    let c := Tab.get Corrected.initial s.mgmt.corrected d
    [0, c.hbm, c.l2, c.cistern, c.local_, c.parity, c.uncorrected, (s.die d).fenced.length].flatMap
      (fun n => bytesOf 4 (saturated 32 n)))

/-- Bytes 0 to 495 of the record that follows a copy. -/
def lifeHead (s : State) (old : Tab Byte) (hour : Bool) : List Byte :=
  let m := s.mgmt
  [lifeField old 0 + 1, m.hours, m.boots].flatMap (fun n => bytesOf 4 (saturated 32 n)) ++ bytesOf 4 0 ++
    tempBytes s old hour ++ eventBytes s ++
    (List.range 18).flatMap (fun l => bytesOf 4 (saturated 32 (Tab.get 0 m.retrains l))) ++
    bytesOf 8 0 ++ bytesOf 8 (saturated 64 m.walks) ++ bytesOf 8 (saturated 64 m.qfull)

/-- The older copy is written with the next sequence number. -/
def writeLife (s : State) (hour : Bool) : State :=
  let old := lifeShown s.mgmt
  let head := lifeHead s old hour
  let crc := crc32 (head ++ List.replicate (4092 - head.length) 0)
  let t := (head ++ List.replicate (4092 - head.length) 0 ++ bytesOf 4 crc).zipIdx.foldl
    (fun (t : Tab Byte) (b : Byte × Nat) => if b.1 = 0 then t else t ++ [(b.2, b.1)]) []
  let a := s.mgmt.lifeA
  s.modMgmt (fun m => if old = a ∧ lifeValid a = true then { m with lifeB := t } else { m with lifeA := t })

/-- R399: an hour of power-on time has passed. -/
def execLifetimeRecordWrite (s : State) : Out :=
  .next (writeLife (s.modMgmt (fun m => { m with hours := m.hours + 1 })) true)

/-! Conditions of the power states (R394, Table 20-5) -/

/-- Depth of a state. -/
def PState.depth : PState → Nat
  | .s0 => 0 | .s1 => 1 | .s2 => 2 | .s3 => 3

/-- Entry time in µs. -/
def PState.entry : PState → Nat
  | .s0 => 0 | .s1 => 1 | .s2 => 10 | .s3 => 100

/-- Exit latency in µs. -/
def PState.exit : PState → Nat
  | .s0 => 0 | .s1 => 2 | .s2 => 40 | .s3 => 2000

/-- Cycles of a number of µs at the clock of die 0, on whose time base cycles count (R320, R396). -/
def cyclesOf (s : State) (us : Nat) : Nat := us * (1750 - 50 * (s.die 0).power.steps)

/-- A split of a resident unit is ready, or would be. -/
def unitReady (s : State) (u : Nat) (un : UnitSt) : Bool :=
  un.halted.isNone && !un.stopped && decide (un.mode ≠ .gathered) && decide (un.at_.core < 65536) &&
    un.splits.any (fun x => match x.2.st with
      | .running | .ready => mayRun un x
      | .parked => match x.2.wait with | some w => waitOver s u x.1 un x.2 w | none => true
      | .trapped => false)

/-- Some engine would place a unit on the die, were it in S0. -/
def placeable (s : State) (d : Nat) : Bool :=
  let s := modPower s d (fun w => { w with st := .s0 })
  dies4.any (fun e =>
    let s := engineLook s e
    match choice s e with
    | some (k, t) => match tryPlace s e k t with
      | some (_, f) => decide (f = d) || (t.rec_.superstep && bit (taskDies s t) d)
      | none => false
    | none => false)

/-- There is work on a die: a ready unit, copy-engine, service, merge or scan-out work, a formed group or a grid to place. -/
def dieWork (s : State) (d : Nat) : Bool :=
  let x := s.die d
  s.units.any (fun (e : Nat × UnitSt) => decide (e.2.die = d) && unitReady s e.1 e.2) ||
  s.cores.any (fun (e : Nat × Core) => decide (coreDie e.1 = d) && e.2.cmds.any (fun c => decide (c.2.st = .live))) ||
  s.cells.any (fun (e : Nat × Cell) => decide (e.1 / 24 = d) && !e.2.dispatched.isEmpty) ||
  x.reqs.any (fun r => decide (r.2.st ≠ .done)) || !x.mergeCmds.isEmpty || !x.scanCmds.isEmpty ||
  x.sessions.any (fun e => !e.2.held.isEmpty || e.2.frames.any (fun f => !f.closed)) ||
  x.sinks.any (fun e => e.2.releasing.isSome || e.2.frames.any (fun f => !f.done)) ||
  (!s.ctxs.isEmpty && placeable s d)

/-- A session is open or a sink bound on the die. -/
def dieLinked (s : State) (d : Nat) : Bool := !(s.die d).sessions.isEmpty || !(s.die d).sinks.isEmpty

/-- A context that names the die is resident. -/
def dieNamed (s : State) (d : Nat) : Bool := s.ctxs.any (fun (e : Nat × Ctx) => bit e.2.dies d)

/-- Traffic for memory of dies in S3 has brought the die back of late, or is bringing another one back: it stays out of S3 meanwhile,
so that what needs several dies finds them awake together. The 4,096 cycles are those of S1. DESIGN CHOICE: R394 and R395 do not say how soon a die that traffic has brought back may enter S3 again. -/
def calledUp (s : State) (d : Nat) : Bool :=
  (match (s.die d).power.asked with | some t => decide (s.now < t + 4096) | none => false) ||
    dies4.any (fun e => let w := (s.die e).power
      decide (e ≠ d) && decide (w.st = .s3) && (w.exiting || w.wake) && w.asked.isSome)

/-- The entry conditions of a state hold, and the die's tolerance admits it. -/
def mayEnterState (s : State) (d : Nat) (p : PState) : Bool :=
  let w := (s.die d).power
  let idle := s.now - w.idleSince
  decide (p.exit ≤ w.lattol) && !dieWork s d &&
  match p with
  | .s0 => true
  | .s1 => decide (4096 ≤ idle)
  | .s2 => decide (65536 ≤ idle) && !dieLinked s d
  | .s3 => decide (d ≠ 0) && !dieNamed s d && !dieLinked s d && !calledUp s d

/-- The deepest state a die may enter. -/
def powerTarget (s : State) (d : Nat) : PState :=
  ([PState.s3, .s2, .s1].find? (mayEnterState s d)).getD .s0

/-- The state a die is in is too deep for its tolerance, or its conditions have ceased to hold. -/
def mustWake (s : State) (d : Nat) : Bool :=
  let w := (s.die d).power
  decide (w.lattol < w.st.exit) || dieWork s d ||
    (decide (2 ≤ w.st.depth) && dieLinked s d) || (decide (w.st = .s3) && dieNamed s d)

/-! Entering and leaving -/

/-- What a die loses in S3, and has lost before power is applied: everything on it, its record keeping only what die 0 holds for it. -/
def clearDie (s : State) (d : Nat) : State :=
  let x := s.die d
  let s := (linksOf d).foldl linkDown s
  { s with
    cores := s.cores.filter (fun (e : Nat × Core) => decide (coreDie e.1 ≠ d))
    scores := s.scores.filter (fun (e : Nat × StrandCore) => decide (e.1 / 384 ≠ d))
    cells := s.cells.filter (fun (e : Nat × Cell) => decide (e.1 / 24 ≠ d))
    l2 := s.l2.filter (fun (e : Nat × L2Line) => decide (homeDie (128 * e.1) ≠ d))
    links := s.links.map (fun (e : Nat × Link) => if linkDie e.1 = d then (e.1, { e.2 with enabled := false }) else e)
    struck := s.struck.filter (fun e => match e with
      | .tile c _ | .cacLine c _ _ => decide (coreDie c ≠ d)
      | .localMem c _ => decide (c / 384 ≠ d)
      | _ => true)
    dies := Tab.put s.dies d { Die.initial with bring := x.bring, fenced := x.fenced, power := x.power, held := x.held } }

/-- R394: the idle count has expired, or the tolerance has risen: the die begins to enter the deepest state it may. -/
def execIdleTimeout (die : Nat) (s : State) : Out :=
  .next (
    let x := s.die die
    let p := powerTarget s die
    if 4 ≤ die ∨ x.bring ≠ .ready ∨ x.frozen = true ∨ x.power.entering.isSome = true ∨ x.power.exiting = true ∨ p.depth ≤ x.power.st.depth then s
    else
      let s := if p = .s3 then (linksOf die).foldl linkDown (writeLife s false) else s
      (modPower s die (fun w => { w with st := p, entering := some p, wake := false })).later (cyclesOf s p.entry)
        (.event (.powerEntryComplete die)))

/-- The exit of a die begins: from S3 by bring-up (R394, R395). -/
def beginExit (s : State) (d : Nat) : State :=
  let p := (s.die d).power.st
  let s := modPower s d (fun w => { w with exiting := true, wake := false })
  if p = .s3 then s.soon (.event (.powerOn d)) else s.later (cyclesOf s p.exit) (.event (.powerExitComplete d))

/-- R394: the entry is complete; a wake that arrived meanwhile begins the exit. -/
def execPowerEntryComplete (die : Nat) (s : State) : Out :=
  .next (match (s.die die).power.entering with
    | none => s
    | some p =>
      let woken := (s.die die).power.wake
      let s := if p = .s3 then clearDie s die else s
      let s := modPower s die (fun w => { w with entering := none })
      if woken then beginExit s die else s)

/-- R394, R395: a wake begins the exit, or waits for the entry in progress. -/
def execPowerWake (die : Nat) (s : State) : Out :=
  .next (
    let w := (s.die die).power
    if 4 ≤ die ∨ w.st = .s0 ∨ w.exiting = true then s
    else if w.entering.isSome then modPower s die (fun w => { w with wake := true })
    else beginExit s die)

/-- Sites of a die, as grant arrivals name them: S-cores by ID, strand cores from 4,096. -/
def sitesOf (d : Nat) : List Nat :=
  (List.range 96).map (coreOfIndex d) ++ (List.range 384).map (fun i => 4096 + 384 * d + i)

/-- A die that has come back from S3 takes up its blocks in memory and the grants again. -/
def rejoin (s : State) (d : Nat) : State :=
  let polls : List Event := [.fabricBlockWrite d, .faultRecordWrite d, .resume d] ++ (List.range 24).map (fun i => Event.debugHalt (24 * d + i))
  let grants := (s.die 0).grants.flatMap (fun c => (sitesOf d).map (fun k => Event.grantArrival k c true))
  (if s.mgmt.phase = .running then polls ++ grants else []).foldl (fun s e => s.soon (.event e)) s

/-- R394: the die is back in S0; what was held for it takes effect. Its idle count goes on unless there is work on it. -/
def execPowerExitComplete (die : Nat) (s : State) : Out :=
  .next (
    let x := s.die die
    if x.power.exiting = false ∨ x.bring ≠ .ready then s else
    let deep := decide (x.power.st = .s3)
    let s := s.modDie die (fun x => { x with
      held := [],
      power := { x.power with
        st := .s0, exiting := false, wake := false, slept := if deep then s.now else x.power.slept } })
    let s := if dieWork s die then modPower s die (fun w => { w with idleSince := s.now }) else s
    let s := if deep then rejoin s die else s
    { s with agenda := s.agenda ++ x.held.map Turn.event })

/-- A die that is asleep is woken, once. -/
def wakeDie (s : State) (d : Nat) : State :=
  let w := (s.die d).power
  if w.st = .s0 ∨ w.exiting = true ∨ w.wake = true ∨ s.planned (.powerWake d) = true then s else s.soon (.event (.powerWake d))

/-- Traffic for the memory of a die in S3 is held, and the die is brought back (R395). -/
def askDie (s : State) (d : Nat) : State := wakeDie (modPower s d (fun w => { w with asked := some s.now })) d

/-- The dies in S3 whose memory a turn from `s` to `t` has asked for. -/
def deepDies (s t : State) : List Nat := t.deep.filter (fun d => !s.deep.contains d)

/-- What a turn answers, unless it needs memory of a die in S3: then none of it takes effect, the dies it needs are brought back, and `again` says how the turn is taken up later (R395). -/
def unlessDeep (s : State) (again : Nat → State → State) (o : Host.Outcome State Fault Refusal) : Host.Outcome State Fault Refusal :=
  match o with
  | .next t => match deepDies s t with
    | [] => o
    | d :: ds => .next (again d ((d :: ds).foldl askDie s))
  | o => o

/-- R394: a die's tolerance changes. -/
def setLattol (s : State) (d : Nat) (v : Word) : State :=
  if 4 ≤ d then s else
  let s := modPower s d (fun w => { w with lattol := v.toNat })
  if decide (v.toNat < (s.die d).power.st.exit) then wakeDie s d
  else if (s.die d).power.st.depth < (powerTarget s d).depth then s.soon (.event (.idleTimeout d)) else s

/-- R396: the clock limit of a die, held to 23. -/
def setClklim (s : State) (d : Nat) (v : Word) : State :=
  if 4 ≤ d then s else modPower s d (fun w => { w with clklim := min 23 (bits v.toNat 4 0) })

/-- The management window's registers take writes: READY has been reached (R388). -/
def windowOpen (s : State) : Bool := decide (s.mgmt.phase = .ready ∨ s.mgmt.phase = .running)

/-- R394. -/
def execLattolWrite (die : Nat) (v : Word) (s : State) : Out := .next (if windowOpen s then setLattol s die v else s)

/-- R396. -/
def execClklimWrite (die : Nat) (v : Word) (s : State) : Out := .next (if windowOpen s then setClklim s die v else s)

/-- R396: at a Cistern frame boundary the larger of the limit and the thermal steps comes into force. -/
def applyClock (s : State) (d : Nat) : State :=
  let w := (s.die d).power
  let k := max w.clklim w.thermal
  if s.now % 4 = 0 ∧ w.steps ≠ k then modPower s d (fun w => { w with steps := k }) else s

/-- R396: once each millisecond, with the junction temperature. -/
def execThermalStep (die temp : Nat) (s : State) : Out :=
  .next (if 4 ≤ die then s else modPower s die (fun w => { w with
    temp := temp,
    thermal := if 100 < temp then min 23 (w.thermal + 1) else if temp < 95 then w.thermal - 1 else w.thermal }))

/-! Bring-up (R390) -/

/-- A part of a form before power is applied, with what the integrator attached: `n` HBM4 stacks of a die supplied alone, and GB of LPDDR6 by die. -/
def unpowered (f : Form) (n : Nat) (lpddr : Tab Nat) : State :=
  { State.reset with
    dies := dies4.map (fun d => (d, { Die.initial with bring := .off }))
    mgmt := { Mgmt.initial with form := f, attached := n, lpddr := lpddr, phase := .firmware, ident := [], boots := 0 } }

/-- A two-way outcome that the spec leaves to the part. -/
def draw (s : State) : Bool × State := (Config.freeBool s.draws, { s with draws := s.draws + 1 })

/-- A part supplied as a Salip die is die 0 alone; the other dies are absent (R434). -/
def dieAbsent (s : State) (d : Nat) : Bool := decide (s.mgmt.form = .die) && decide (d ≠ 0)

/-- HBM4 stacks that a die has attached and that are not fenced. -/
def dieStacks (s : State) (d : Nat) : List Nat :=
  (List.range (if s.mgmt.form = .die then s.mgmt.attached else 2)).filter (fun i => !(s.die d).fenced.contains (604 + i))

/-- The fields of a die in the identity record (Table 20-3); a die that is absent or fenced has none. Each stack that remains counts
its half of the die's 128 GB (R3, R434). A package has no LPDDR6 (Table 0-3). -/
def identDie (s : State) (d : Nat) : List Byte :=
  let gone := (s.die d).fenced
  let left (base n : Nat) : Nat := ((List.range n).filter (fun i => !gone.contains (base + i))).length
  let hbm := dieStacks s d
  bytesOf 12 (((List.range 96).filter (fun i => !gone.contains i)).foldl (fun m i => m + 2 ^ i) 0) ++
    bytesOf 2 (left 96 384) ++ bytesOf 1 (left 480 80) ++ bytesOf 1 (left 560 8) ++ bytesOf 1 (left 568 8) ++
    bytesOf 1 (left 576 24) ++ bytesOf 1 (left 600 4) ++
    bytesOf 1 hbm.length ++ bytesOf 2 (64 * hbm.length) ++ bytesOf 2 (if s.mgmt.form = .package then 0 else Tab.get 0 s.mgmt.lpddr d)

/-- Bytes of the identity record are written. -/
def putIdent (s : State) (o : Nat) (bs : List Byte) : State :=
  s.modMgmt (fun m => { m with ident := bs.zipIdx.foldl (fun t b => Tab.put t (o + b.2) b.1) m.ident })

/-- Phase READY is reached when every die has finished. -/
def settlePhase (s : State) : State :=
  if s.mgmt.phase = .links ∧ dies4.all (fun d => dieAbsent s d || decide ((s.die d).bring = .ready) || decide ((s.die d).bring = .fenced)) = true
  then s.modMgmt (fun m => { m with phase := .ready }) else s

/-- A step has failed: die 0 stops the device, another die is fenced and no longer counted. -/
def bringFail (s : State) (d code : Nat) : State :=
  if d = 0 then s.modMgmt (fun m => { m with phase := .failed, fail := code })
  else settlePhase (putIdent (s.modDie d (fun x => { x with bring := .fenced })) (32 + 32 * d) (List.replicate 24 0))

/-- A die is at a step of its bring-up; once die 0 has failed no die goes further (R390). -/
def atStep (s : State) (d : Nat) (b : BringUp) : Bool :=
  decide ((s.die d).bring = b) && (decide (d = 0) || decide (s.mgmt.phase ≠ .failed))

/-- A die goes on to its next step, which ends so that the `left` steps after it may still end in time (R390); die 0's step is the phase
that STATUS shows before READY. -/
def bringNext (s : State) (d : Nat) (b : BringUp) (p : MPhase) (left : Nat) (e : State → Event × State) : State :=
  let s := s.modDie d (fun x => { x with bring := b })
  let s := if d = 0 then s.modMgmt (fun m => { m with phase := p }) else s
  let r := e s
  let n := max 1 ((s.die d).power.upBy - s.now - left)
  { r.2 with draws := r.2.draws + 1 }.later (1 + Config.latency r.2.draws % n) (.event r.1)

/-- R390, R395: power is applied to a die, or restored after S3: bring-up takes at most 1 s, or 2 ms. -/
def execPowerOn (die : Nat) (s : State) : Out :=
  .next (
    let x := s.die die
    if 4 ≤ die ∨ dieAbsent s die = true ∨ (die ≠ 0 ∧ s.mgmt.phase = .failed) ∨
      ¬ (x.bring = .off ∨ (x.power.st = .s3 ∧ x.power.exiting = true ∧ x.bring = .ready)) then s
    else
      let s := if x.bring = .off then modPower (clearDie s die) die (fun _ => Die.initial.power) else s
      let s := modPower s die (fun w => { w with upBy := s.now + cyclesOf s (if x.bring = .off then 10 ^ 6 else 2000) })
      let s := if die = 0 then s.modMgmt (fun m => { m with boots := m.boots + 1, ctxbase := 0, nokey := false, fail := 0 }) else s
      bringNext s die .firmware .firmware 3 (fun s =>
        let (image, s) := draw s
        let (config, s) := draw s
        (.firmware die (if !image then 1 else if !config then 3 else 0), s)))

/-- What the FIRMWARE step ends in: the signature of the image (1) or of the configuration record (3) does not hold, or the image is
older than the rollback counter (2). DESIGN CHOICE: the order of the three, which the spec does not give. -/
def firmwareCode (s : State) (fail : Nat) : Nat :=
  if fail = 1 ∨ fail = 3 then fail else if s.mgmt.flash.fwver < s.mgmt.flash.rollback then 2 else 0

/-- R390: the firmware image and the configuration record have been verified, with what verification found: 1 the image's signature does not hold, 3 the configuration record's. -/
def execFirmware (die fail : Nat) (s : State) : Out :=
  .next (if !atStep s die .firmware then s
    else if firmwareCode s fail ≠ 0 then bringFail s die (firmwareCode s fail)
    else bringNext s die .selftest .selftest 2 (fun s =>
      let (pass, s) := draw s
      (.selftest die pass ((List.range 606).filter (fun i => Config.freeBool (s.draws + i))), { s with draws := s.draws + 606 })))

/-- R390: failing units are fenced, with those the configuration record names. -/
def execSelftest (die : Nat) (pass : Bool) (fenced : List Nat) (s : State) : Out :=
  .next (if !atStep s die .selftest then s
    else if !pass then bringFail s die 4
    else bringNext (s.modDie die (fun x => { x with fenced := (fenced ++ Tab.get [] s.mgmt.flash.fenced die).eraseDups })) die .memory .memory 1 (fun s =>
      let (ok, s) := draw s
      (.memory die ok, s)))

/-- An address of a die's own memory tiers. -/
def ownMemory (d pa : Nat) : Bool := decide (pa < 2 ^ 41) && decide (homeDie pa = d)

/-- Of two stacks attached to a die supplied alone, one may not train: it is fenced (R434). -/
def trainStacks (s : State) (d : Nat) : State :=
  if s.mgmt.form ≠ .die ∨ (dieStacks s d).length < 2 then s else
  let (both, s) := draw s
  let (first, s) := draw s
  if both then s else s.modDie d (fun x => { x with fenced := (if first then 604 else 605) :: x.fenced })

/-- R390, R434: a die's memory is trained and zeroed; what S3 keeps is kept (Table 20-5). With no stack left the training fails. -/
def execMemory (die : Nat) (pass : Bool) (s : State) : Out :=
  .next (if !atStep s die .memory then s
    else if !pass || (dieStacks s die).isEmpty then bringFail s die 6
    else
      let s := trainStacks s die
      let s := if (s.die die).power.st = .s3 then s else { s with
        mem := s.mem.filter (fun (e : Nat × Byte) => !ownMemory die e.1)
        poison := s.poison.filter (fun (e : Nat × Bool) => !ownMemory die (8 * e.1))
        latent := s.latent.filter (fun e => match globalWord e with | some w => !ownMemory die (8 * w) | none => true) }
      bringNext s die .links .links 0 (fun s =>
        let (ok, s) := draw s
        let (key, s) := draw s
        (.links die ok key, s)))

/-- What bring-up of die 0 writes of the identity record besides the fields of dies (Table 20-3). -/
def identPart (s : State) (key : Bool) : State :=
  let (both, s) := draw s
  let form : Byte := match s.mgmt.form with | .die => 0 | .package => 1 | .module => 2
  let s := putIdent s 0 (bytesOf 2 1 ++ [form, if both then 1 else 0] ++ (List.range 8).map Config.serial ++
    bytesOf 4 s.mgmt.flash.fwver.toNat ++ bytesOf 4 s.mgmt.flash.rollback.toNat)
  putIdent s 160 (if key then (List.range 97).map Config.idkey else List.replicate 97 0)

/-- R390 to R392: the links are trained, the key reconstructed and the identity record written. -/
def execLinks (die : Nat) (pass key : Bool) (s : State) : Out :=
  .next (if !atStep s die .links then s
    else if !pass then bringFail s die 5
    else
      let s := putIdent (s.modDie die (fun x => { x with bring := .ready })) (32 + 32 * die) (identDie s die)
      let s := if die = 0 then identPart (s.modMgmt (fun m => { m with nokey := !key })) key else s
      let s := settlePhase s
      if (s.die die).power.exiting then s.soon (.event (.powerExitComplete die)) else s)

end Sys2Proof.Machine
end

