-- ==== Sys2Proof/Machine/HostSide.lean ====
section
/-! DEFINITION. What the host and the outside world do: snoops and CXL.mem requests, the management window, SPDM, the grant map and soft errors (14 R264; 20 R386 to R389, R392, R393, R397, R398). -/

namespace Sys2Proof.Machine

/-- The events that writes of bytes wake, each planned once. -/
def wakeAll (s : State) (evs : List Event) : State := evs.eraseDups.foldl (fun s e => if s.planned e then s else s.soon (.event e)) s

/-! Coherence with the host (R264) -/

/-- A byte lies in a tier that is reached through the host. -/
def hostTier (s : State) (pa : Nat) : Bool := match tierOf s pa with | some t => t.viaHost | none => false

/-- R264, R283: a snoop downgrades or invalidates a line at its home slice, and dirty data go back with the response; an invalidation wakes what watches the line. -/
def execHostSnoop (line : Nat) (inval : Bool) (s : State) : Out :=
  .next (if !hostTier s (128 * line) then s else
    let l := l2Line s line
    let s := wakeDie s 0
    let s := setL2 s line { l with st := if inval then .i else if l.st = .i then .i else .s, dirty := false }
    if inval then wakeAll s ((List.range 128).flatMap (fun i => wakes s (128 * line + i))) else s)

/-- The host writes bytes of memory it owns: the slice's line has been invalidated by its snoop (R264). -/
def hostWrite (s : State) (pa : Nat) (data : List Byte) : State :=
  let ws := run pa data
  if !ws.all (fun w => hostTier s w.1) then s else
  let s := (ws.map (fun w => w.1 / 128)).eraseDups.foldl (fun s l => setL2 s l { l2Line s l with st := .i, dirty := false }) s
  let s := { s with mem := ws.foldl (fun m w => Tab.set 0 m w.1 w.2) s.mem }
  wakeAll (updateHomed (clearPoison s ws) ws) (ws.flatMap (fun w => wakes s w.1))

/-- The host backs a run of its addresses, or no longer does (R261). -/
def hostBacks (s : State) (pa n : Nat) (on : Bool) : State :=
  let left := s.unbacked.filter (fun r => decide (r ≠ (pa, n)))
  { s with unbacked := if on then left else (pa, n) :: left }

/-- Byte address of a request. -/
def reqAddr : CxlReq → Nat
  | .read pa _ => pa
  | .write pa _ => pa

/-- The bytes a request touches. -/
def reqSpan : CxlReq → List Nat
  | .read pa _ => (List.range 64).map (fun i => pa / 64 * 64 + i)
  | .write pa bs => (List.range bs.length).map (pa + ·)

/-- A byte lies in populated HBM4 or LPDDR6. -/
def deviceTier (s : State) (pa : Nat) : Bool := match tierOf s pa with | some t => !t.viaHost | none => false

/-- The 64 bytes that a host's read returns, with poison where any of them is poisoned (R386, R398). -/
def answerHost (s : State) (pa : Nat) : State :=
  let a : CxlAnswer := { pa := pa / 64 * 64, data := rdBytes s (pa / 64 * 64) 64, poison := poisoned s (pa / 64 * 64) 64 }
  s.modMgmt (fun m => { m with cxl := { m.cxl with answer := some a } })

/-- R264, R386: a request for device memory, at the device's physical address, is served at the home slice: a read returns its data. One
for a die in S3 is held at die 0, and the die is brought back (R394, R395). -/
def execCxlMemRequest (r : CxlReq) (s : State) : Out :=
  .next (if !(reqSpan r).all (deviceTier s) then s else
    let d := homeDie (reqAddr r)
    let s := wakeDie s d
    if (s.die d).power.st = .s3 then s.modDie d (fun x => { x with held := x.held ++ [.cxlMemRequest r] })
    else match r with
      | .read pa shared =>
        let s := correctWords s (fun e => match globalWord e with | some w => decide (w / 8 = pa / 64) | none => false)
        answerHost (if shared then setL2 s (pa / 128) { l2Line s (pa / 128) with host := true } else s) pa
      | .write pa bs => sliceWrite s (run pa bs))

/-- The device's physical address of an address the host uses, by the decoders it has programmed (R386). -/
def Cxl.decode (c : Cxl) (hpa : Nat) : Option Nat :=
  c.hdm.findSome? (fun e => if e.2.base ≤ hpa ∧ hpa < e.2.base + e.2.size then some (e.2.dpa + (hpa - e.2.base)) else none)

/-- A request at the host's own addresses reaches the device's memory through a decoder; one that no decoder takes has no effect. -/
def hostMem (s : State) (r : CxlReq) : State :=
  match s.mgmt.cxl.decode (reqAddr r) with
  | none => s
  | some pa => s.soon (.event (.cxlMemRequest (match r with | .read _ shared => .read pa shared | .write _ bs => .write pa bs)))

/-- The host writes configuration space, whose layout is that of the CXL standard and not the spec's: the bytes are held as written. DESIGN CHOICE. -/
def cfgWrite (s : State) (off : Nat) (bs : List Byte) : State :=
  s.modMgmt (fun m => { m with cxl := { m.cxl with
    cfg := (run off bs).foldl (fun t w => if w.1 < 4096 then Tab.set 0 t w.1 w.2 else t) m.cxl.cfg } })

/-- The host programs a decoder (R386). -/
def hdmWrite (s : State) (i : Nat) (x : Hdm) : State :=
  s.modMgmt (fun m => { m with cxl := { m.cxl with hdm := Tab.put m.cxl.hdm i x } })

/-- A slice gives up a line of a host tier: DirtyEvict hands its data to the host, CleanEvict none; it holds the line no longer (R386). -/
def evictSlice (s : State) (line : Nat) : State :=
  if hostTier s (128 * line) then setL2 s line { l2Line s line with st := .i, dirty := false } else s

/-! The management window (R388, R389) -/

/-- Byte of STATUS, as a number of 32 bits (Table 20-2). -/
def statusWord (s : State) : Nat :=
  let m := s.mgmt
  let phase := match m.phase with
    | .firmware => 0 | .selftest => 1 | .memory => 2 | .links => 3 | .ready => 4 | .running => 5 | .failed => 6
  phase + 8 * bitsOf 4 (fun d => decide ((s.die d).bring = .ready)) + 128 * b2n m.nokey + 2 ^ 16 * m.fail

/-- PWR of a die. -/
def powerWord (s : State) (d : Nat) : Nat :=
  let w := (s.die d).power
  w.st.depth + 4 * w.steps + 128 * b2n (decide (w.thermal ≠ 0)) + 256 * (w.temp % 256)

/-- A byte of the window as the host reads it: until READY is reached only STATUS and the identity record are readable. -/
def windowByte (s : State) (off : Nat) : Byte :=
  let part (n o : Nat) : Byte := BitVec.ofNat 8 (n / 256 ^ o)
  if off < 4 then part (statusWord s) off
  else if 0x400 ≤ off ∧ off < 0x800 then Tab.get 0 s.mgmt.ident (off - 0x400)
  else if !windowOpen s then 0
  else if 8 ≤ off ∧ off < 16 then part s.mgmt.ctxbase (off - 8)
  else if 0x20 ≤ off ∧ off < 0x30 then part (s.die ((off - 0x20) / 4)).power.lattol (off % 4)
  else if 0x30 ≤ off ∧ off < 0x40 then part (powerWord s ((off - 0x30) / 4)) (off % 4)
  else if 0x40 ≤ off ∧ off < 0x50 then part (s.die ((off - 0x40) / 4)).power.clklim (off % 4)
  else if 0x1000 ≤ off ∧ off < 0x2000 then Tab.get 0 (lifeShown s.mgmt) (off - 0x1000)
  else 0

/-- An access of the window that is no unsupported request. -/
def windowAccess (off size : Nat) : Bool := decide (size = 4 ∨ size = 8) && decide (off % size = 0) && decide (off + size ≤ 65536)

/-- What the host reads: none for an unsupported request. -/
def windowRead (s : State) (off size : Nat) : Option Nat :=
  if windowAccess off size then some (ofBytes ((List.range size).map (fun i => windowByte s (off + i)))) else none

/-- A base that the device starts on: aligned to 32 MiB, in the populated HBM4 of die 0 or in the host tier (R389). -/
def baseOk (s : State) (b : Nat) : Bool :=
  decide (b % 2 ^ 25 = 0) && (decide (tierOf s b = some (.hbm 0)) || decide (tierOf s b = some .host))

/-- Events that the table calls for when the device first reads it: those of the bytes it already holds, and every router's
reading of its block (R389, R344) DEDUCED. -/
def tableEvents (s : State) : List Event :=
  dies4.map Event.fabricBlockWrite ++ (s.mem.filter (fun (e : Nat × Byte) => decide (s.tableBase ≤ e.1 ∧ e.1 < s.tableBase + 2 ^ 25))).flatMap
    (fun (e : Nat × Byte) => wakes s e.1)

/-- The device starts on the context table. -/
def startDevice (s : State) : State :=
  let s := s.modMgmt (fun m => { m with phase := .running })
  wakeAll s (tableEvents s)

/-- A write of CTL. -/
def writeCtl0 (s : State) (v : Word) : State :=
  if v.getLsbD 0 ∧ s.mgmt.phase = .ready ∧ baseOk s s.mgmt.ctxbase = true then startDevice s else s

/-- R389. -/
def execGo (v : Word) (s : State) : Out := .next (writeCtl0 s v)

/-- A write of one 32-bit word of the window. -/
def writeWindowWord (s : State) (off : Nat) (v : Word) : State :=
  let b := s.mgmt.ctxbase
  if off = 8 then if s.mgmt.phase = .ready then s.modMgmt (fun m => { m with ctxbase := b / 2 ^ 32 * 2 ^ 32 + v.toNat }) else s
  else if off = 12 then if s.mgmt.phase = .ready then s.modMgmt (fun m => { m with ctxbase := v.toNat * 2 ^ 32 + b % 2 ^ 32 }) else s
  else if off = 0x10 then writeCtl0 s v
  else if 0x20 ≤ off ∧ off < 0x30 then setLattol s ((off - 0x20) / 4) v
  else if 0x40 ≤ off ∧ off < 0x50 then setClklim s ((off - 0x40) / 4) v
  else s

/-- R388: an access that is no 4 or 8 aligned bytes, one before READY, and one of a read-only register have no effect. -/
def execMgmtWindowWrite (off size v : Nat) (s : State) : Out :=
  .next (if !windowAccess off size || !windowOpen s then s
    else
      let s := writeWindowWord s off (w32 v)
      if size = 8 then writeWindowWord s (off + 4) (w32 (v / 2 ^ 32)) else s)

/-! SPDM (R392, R393) -/

/-- Bytes that DMTF's standard fixes, or that are the part's own, and the spec does not give. -/
def spdmReply (kind arg : Nat) : List Byte := (List.range (Config.spdmLength kind arg)).map (Config.spdmByte kind arg)

/-- The head of a response: the version agreed, its code and two parameters, as DMTF's standard lays it out. PRESUMED. -/
def spdmHead (code p1 p2 : Byte) : List Byte := [Config.spdmByte 0 0 0, code, p1, p2]

/-- An SPDM error by its code of DMTF's standard. PRESUMED. -/
def spdmError (code data : Byte) : List Byte := spdmHead 0x7F code data

/-- SPDM versions 1.2 and 1.3, as the VERSION response of DMTF's standard gives them (R393). PRESUMED layout. -/
def spdmVersions : List Byte := [0x10, 0x04, 0, 0, 0, 2, 0x00, 0x12, 0x00, 0x13]

/-- P-384 and SHA-384 are selected, by their bits in the ALGORITHMS response of DMTF's standard (R393). PRESUMED layout. -/
def spdmAlgorithms : List Byte :=
  spdmHead 0x63 0 0 ++ bytesOf 2 36 ++ [1, 0] ++ bytesOf 4 4 ++ bytesOf 4 0x80 ++ bytesOf 4 0x02 ++ List.replicate 16 0

/-- The certificate chain of slot 0, in package flash (R393). -/
def spdmChain : List Byte := spdmReply 0x02 0

/-- The error UnexpectedRequest. -/
def unexpectedRequest : List Byte := spdmError 0x04 0

/-- The error InvalidRequest. -/
def invalidRequest : List Byte := spdmError 0x01 0

/-- Sets what SPDM has agreed and its response. -/
def spdm (s : State) (f : Spdm → Spdm) : State := s.modMgmt (fun m => { m with spdm := f m.spdm })

/-- R393: a version request begins the exchange anew. -/
def execGetVersion (s : State) : Out :=
  .next (spdm s (fun x => { x with version := true, caps := false, algs := false, response := spdmVersions }))

/-- R393. -/
def execGetCapabilities (s : State) : Out :=
  .next (spdm s (fun x =>
    if x.version then { x with caps := true, algs := false, response := spdmReply 0x61 0 } else { x with response := unexpectedRequest }))

/-- The requester offers both algorithms that the part does: P-384 is bit 7 of its asymmetric algorithms and SHA-384 bit 1 of its digests, by DMTF's standard. PRESUMED. -/
def offersBoth (asym hash : Nat) : Bool := bit asym 7 && bit hash 1

/-- R393: P-384 and SHA-384 are agreed, if the requester offers them. PRESUMED: an offer without them is an invalid request. -/
def execNegotiateAlgorithms (s : State) : Out :=
  .next (spdm s (fun x =>
    if !x.caps then { x with response := unexpectedRequest }
    else if offersBoth x.asym x.hash then { x with algs := true, response := spdmAlgorithms }
    else { x with algs := false, response := invalidRequest }))

/-- A request that the negotiation must have come before. -/
def afterAlgorithms (s : State) (r : List Byte) : State :=
  spdm s (fun x => { x with response := if x.algs then r else unexpectedRequest })

/-- R393: the digest of the chain of slot 0. -/
def execGetDigests (s : State) : Out := .next (afterAlgorithms s (spdmHead 0x01 0 1 ++ sha384 spdmChain))

/-- R393: the chain of slot 0. -/
def execGetCertificate (slot : Nat) (s : State) : Out :=
  .next (afterAlgorithms s (if slot = 0 then spdmHead 0x02 0 0 ++ spdmChain else invalidRequest))

/-- R393: signed with the identity key, so refused while there is none. -/
def execChallenge (slot nonce : Nat) (s : State) : Out :=
  .next (afterAlgorithms s
    (if s.mgmt.nokey then unexpectedRequest else if slot = 0 then spdmReply 0x03 nonce else invalidRequest))

/-- The digest of a measurement: 1 the firmware image's and 2 the configuration record's, whose bytes the spec does not give, 3 that of bytes 0 to 159 of the identity record (R393). -/
def measurement (s : State) (index : Nat) : List Byte :=
  if index = 3 then sha384 ((List.range 160).map (fun i => Tab.get 0 s.mgmt.ident i))
  else (List.range 48).map (Config.spdmByte 0x60 index)

/-- A measurement in its block of DMTF's standard: index, specification, size, kind of value, size and digest. PRESUMED. -/
def measurementBlock (s : State) (index : Nat) : List Byte :=
  [BitVec.ofNat 8 index, 1] ++ bytesOf 2 51 ++ [BitVec.ofNat 8 (index - 1)] ++ bytesOf 2 48 ++ measurement s index

/-- The indexes that a request asks for: all with 255, none with 0, which asks for their number, as DMTF's standard numbers them. PRESUMED. -/
def measurementsAsked (index : Nat) : Option (List Nat) :=
  if index = 0 then some [] else if index = 255 then some [1, 2, 3] else if index ≤ 3 then some [index] else none

/-- A MEASUREMENTS response: the blocks asked for, then what DMTF's standard puts behind them, a nonce and the signature among it. PRESUMED layout. -/
def measurementReply (s : State) (is : List Nat) (signed : Bool) : List Byte :=
  let blocks := is.flatMap (measurementBlock s)
  spdmHead 0x60 (if is = [] then 3 else 0) 0 ++ [BitVec.ofNat 8 is.length] ++ bytesOf 3 blocks.length ++ blocks ++ spdmReply 0x60 (b2n signed)

/-- R393: the digests of the firmware image, of the configuration record, and of bytes 0 to 159 of the identity record. -/
def execGetMeasurements (index : Nat) (signed : Bool) (s : State) : Out :=
  .next (afterAlgorithms s
    (if signed && s.mgmt.nokey then unexpectedRequest
     else match measurementsAsked index with
       | some is => measurementReply s is signed
       | none => invalidRequest))

/-- The requester puts its offer into the DOE mailbox, from which NEGOTIATE_ALGORITHMS takes it (R393). -/
def spdmOffer (s : State) (asym hash : Nat) : State := spdm s (fun x => { x with asym := asym, hash := hash })

/-- Any other request is not supported (R393), which the error UnsupportedRequest of DMTF's standard says. PRESUMED. -/
def spdmOther (s : State) (code : Nat) : State := spdm s (fun x => { x with response := spdmError 0x07 (BitVec.ofNat 8 code) })

/-! The grant map (R397) -/

/-- Cycle of the latest arrival of a grant at a site that is still to come. -/
def grantDue (s : State) (site ctx : Nat) : Nat :=
  s.calendar.foldl (fun m e => match e.2 with
    | .event (.grantArrival k c _) => if k = site ∧ c = ctx then max m e.1 else m
    | _ => m) 0

/-- A bit is carried to a site: it reaches it within 4,096 cycles, and after the bits of earlier writes. -/
def carryGrant (s : State) (ctx : Nat) (on : Bool) (site : Nat) : State :=
  let t := max (s.now + 1 + Config.latency s.draws % 4096) (grantDue s site ctx)
  { s with calendar := s.calendar ++ [(t, .event (.grantArrival site ctx on))], draws := s.draws + 1 }

/-- R397: die 0's queue engine reads the byte and carries each bit that has changed. -/
def execGrantMapWrite (byte : Nat) (s : State) : Out :=
  .next (if 8192 ≤ byte ∨ s.mgmt.phase ≠ .running then s else
    let v := (rd8 s (s.tableBase + 0x1028000 + byte)).toNat
    (List.range 8).foldl (fun s i =>
      let c := 8 * byte + i
      let on := bit v i
      if (s.die 0).grants.contains c = on then s
      else
        let s := s.modDie 0 (fun x => { x with grants := if on then c :: x.grants else x.grants.filter (· ≠ c) })
        (dies4.flatMap sitesOf).foldl (fun s k => carryGrant s c on k) s) s)

/-- R397: the core follows the bit from this cycle on. -/
def execGrantArrival (core ctx : Nat) (granted : Bool) (s : State) : Out :=
  .next (
    let f (l : List Nat) : List Nat := if granted then ctx :: l.filter (· ≠ ctx) else l.filter (· ≠ ctx)
    if core < 4096 then s.modCore core (fun k => { k with grants := f k.grants })
    else s.modScore (core - 4096) (fun k => { k with grants := f k.grants }))

/-! Soft errors (R398) -/

/-- A word outside global memory is struck. -/
def strike (s : State) (l : ErrLoc) : State := if s.struck.contains l then s else { s with struck := l :: s.struck }

/-- An error in a word of a Cistern bank or of local memory: one bit is corrected and counted, two bits poison it. -/
def strikeBank (s : State) (l : ErrLoc) (d : Nat) (isLocal double : Bool) : State :=
  if double then strike (countCorrected s d (fun c => { c with uncorrected := c.uncorrected + 1 })) l
  else countCorrected s d (fun c => if isLocal then { c with local_ := c.local_ + 1 } else { c with cistern := c.cistern + 1 })

/-- An error in a word of global memory. -/
def strikeMemory (s : State) (l : ErrLoc) (pa : Nat) (double : Bool) : State :=
  if double then setPoison (countCorrected s (homeDie pa) (fun c => { c with uncorrected := c.uncorrected + 1 })) [pa]
  else if s.latent.contains l then s else { s with latent := l :: s.latent }

/-- A parity error in a core's instruction cache or TLB: one entry, which the spec does not say, is dropped. -/
def dropEntry (s : State) (core : Nat) : State :=
  let n := Config.latency s.draws
  let s := { s with draws := s.draws + 1 }
  let d := if core < 4096 then coreDie core else (core - 4096) / 384
  let s := countCorrected s d (fun c => { c with parity := c.parity + 1 })
  if core < 4096 then
    s.modCore core (fun k =>
      let i := n % (k.icache.length + k.tlb.length)
      { k with icache := k.icache.eraseIdx i, tlb := if k.icache.length ≤ i then k.tlb.eraseIdx (i - k.icache.length) else k.tlb })
  else
    s.modScore (core - 4096) (fun k =>
      let i := n % (k.lines.length + k.itlb.length + k.dtlb.length)
      let j := i - k.lines.length
      { k with
        lines := k.lines.eraseIdx i
        itlb := if k.lines.length ≤ i then k.itlb.eraseIdx j else k.itlb
        dtlb := if k.lines.length + k.itlb.length ≤ i then k.dtlb.eraseIdx (j - k.itlb.length) else k.dtlb })

/-- R398. A double error in a memory tier under a newer L2 copy is gone when that copy is written back. -/
def execSoftError (l : ErrLoc) (double : Bool) (s : State) : Out :=
  .next (match l with
    | .memory pa => if deviceTier s pa && !(l2Line s (pa / 128)).dirty then strikeMemory s l pa double else s
    | .l2 pa => if (tierOf s pa).isSome then strikeMemory s l pa double else s
    | .scratch t _ => match s.team? t with | some x => strikeBank s l (coreDie x.core) false double | none => s
    | .tile c o => if (Tab.find? (s.core c).ci.tiles (o / 64)).isSome then strikeBank s l (coreDie c) false double else s
    | .vreg u _ _ => match s.unit? u with
      | some un => if un.at_.strand then s else strikeBank s l un.die false double
      | none => s
    | .cacLine c line _ => if (cacFind (s.core c) line).isSome then strikeBank s l (coreDie c) false double else s
    | .localMem sc _ => strikeBank s l (sc / 384) true double
    | .parity c => dropEntry s c)

/-- R398: every word of HBM4 and LPDDR6 is read on the dies that are not in S3. -/
def execPatrolScrub (s : State) : Out :=
  .next (correctWords s (fun e => match e with
    | .memory pa => decide ((s.die (homeDie pa)).power.st ≠ .s3)
    | _ => false))

end Sys2Proof.Machine
end

