-- ==== Sys2Proof/Machine/Cycle.lean ====
section
/-! DEFINITION. The turns of a cycle: the meaning of each event, messages that are held, and what a new cycle brings (00 R1, R433; 01 R24; 15 R295, R298, R301; 16 R316, R321; 20 R394, R395). -/

namespace Sys2Proof.Machine

/-- The meaning of an event: that of its row of the opcode table. -/
def runEvent (e : Event) (s : State) : Out :=
  match e with
  | .producerCompletion u k => execProducerCompletion u k s
  | .remoteFill u r vals => execRemoteFill u r vals s
  | .pageWalk cell ctx va => execPageWalk cell ctx va s
  | .cacWriteback core line => execCacWriteback core line s
  | .resultRecordAppend u r => execResultRecordAppend u r s
  | .issueSelect core => execIssueSelect core s
  | .strandIssueSelect sc => execStrandIssueSelect sc s
  | .loadLimitWindow core => execLoadLimitWindow core s
  | .sleepExpiry u entry stamp => execSleepExpiry u entry stamp s
  | .barcSweepArrival cl rect x y column => execBarcSweepArrival cl rect x y column s
  | .barcSweepRelease cl rect x y => execBarcSweepRelease cl rect x y s
  | .gridBarrierRelease task core => execGridBarrierRelease task core s
  | .matrixEntryStart core => execMatrixEntryStart core s
  | .matrixEntryFinish core => execMatrixEntryFinish core s
  | .stagingComplete core k => execStagingComplete core k s
  | .multicastWindowRead core w => execMulticastWindowRead core w s
  | .jointOperationStart core => execJointOperationStart core s
  | .moveSwitch core => execMoveSwitch core s
  | .moveRebuild core => execMoveRebuild core s
  | .moveComplete core => execMoveComplete core s
  | .tileFlush core tile => execTileFlush core tile s
  | .moveWaitRelease core => execMoveWaitRelease core s
  | .roleListReturn core => execRoleListReturn core s
  | .copy core k => execCopy core k s
  | .fill core k => execFill core k s
  | .vfill core k => execVfill core k s
  | .tsend core k => execTsend core k s
  | .plan core k => execPlan core k s
  | .planSend core k i => execPlanSend core k i s
  | .copyComplete core k => execCopyComplete core k s
  | .mergeOpen die k => execMergeOpen die k s
  | .mergeClose die k => execMergeClose die k s
  | .frame die k => execFrame die k s
  | .absent die k => execAbsent die k s
  | .sink die k => execSink die k s
  | .route die k => execRoute die k s
  | .unsink die k => execUnsink die k s
  | .sinkRelease die engine sink => execSinkRelease die engine sink s
  | .serviceAccept die k => execServiceAccept die k s
  | .rasterOpen die k => execRasterOpen die k s
  | .draw die k => execDraw die k s
  | .resolve die k => execResolve die k s
  | .rasterClose die k => execRasterClose die k s
  | .clear die k => execClear die k s
  | .trace die k => execTrace die k s
  | .sample die k => execSample die k s
  | .endRecord die k => execEndRecord die k s
  | .contextEntryWake ctx => execContextEntryWake ctx s
  | .contextLeave ctx => execContextLeave ctx s
  | .queueTailWrite ctx q => execQueueTailWrite ctx q s
  | .placeCluster die => execPlaceCluster die s
  | .placeStrand die => execPlaceStrand die s
  | .placeSuperstepGrid die => execPlaceSuperstepGrid die s
  | .taskRetire task => execTaskRetire task s
  | .sumpTimeout cell form => execSumpTimeout cell form s
  | .sumpPlace cell => execSumpPlace cell s
  | .balancerSample die => execBalancerSample die s
  | .balancerDeferredMove die core => execBalancerDeferredMove die core s
  | .faultRecordWrite die => execFaultRecordWrite die s
  | .resume die => execResume die s
  | .redirect die => execRedirect die s
  | .enter die => execEnter die s
  | .retire die => execRetire die s
  | .stop die => execStop die s
  | .inval die => execInval die s
  | .preempt die => execPreempt die s
  | .restore die => execRestore die s
  | .migrate die => execMigrate die s
  | .migrationResume core => execMigrationResume core s
  | .freeze die => execFreeze die s
  | .thaw die => execThaw die s
  | .routeUpdate core u agent => execRouteUpdate core u agent s
  | .routeUpdateAck core u agent => execRouteUpdateAck core u agent s
  | .hostSnoop line inval => execHostSnoop line inval s
  | .cxlMemRequest r => execCxlMemRequest r s
  | .linkRetrain link => execLinkRetrain link s
  | .linkUp link => execLinkUp link s
  | .linkDownTimeout link stamp => execLinkDownTimeout link stamp s
  | .fabricBlockWrite die => execFabricBlockWrite die s
  | .packetForward die p => execPacketForward die p s
  | .tilePacketArrival die p => execTilePacketArrival die p s
  | .nodeDeadline die session frame lo hi => execNodeDeadline die session frame lo hi s
  | .leafFrameClose die session frame => execLeafFrameClose die session frame s
  | .keepAliveSend die session => execKeepAliveSend die session s
  | .keepAliveArrival die p => execKeepAliveArrival die p s
  | .childTimeout die session lo hi => execChildTimeout die session lo hi s
  | .absentNotice die p => execAbsentNotice die p s
  | .sessionClose die session => execSessionClose die session s
  | .rootTileDelivery die p => execRootTileDelivery die p s
  | .frameRecord die engine sink frame => execFrameRecord die engine sink frame s
  | .go v => execGo v s
  | .lattolWrite die v => execLattolWrite die v s
  | .clklimWrite die v => execClklimWrite die v s
  | .mgmtWindowWrite off size v => execMgmtWindowWrite off size v s
  | .powerOn die => execPowerOn die s
  | .firmware die fail => execFirmware die fail s
  | .selftest die pass fenced => execSelftest die pass fenced s
  | .memory die pass => execMemory die pass s
  | .links die pass key => execLinks die pass key s
  | .idleTimeout die => execIdleTimeout die s
  | .powerEntryComplete die => execPowerEntryComplete die s
  | .powerWake die => execPowerWake die s
  | .powerExitComplete die => execPowerExitComplete die s
  | .thermalStep die temp => execThermalStep die temp s
  | .grantMapWrite byte => execGrantMapWrite byte s
  | .grantArrival core ctx granted => execGrantArrival core ctx granted s
  | .patrolScrub => execPatrolScrub s
  | .lifetimeRecordWrite => execLifetimeRecordWrite s
  | .getVersion => execGetVersion s
  | .getCapabilities => execGetCapabilities s
  | .negotiateAlgorithms => execNegotiateAlgorithms s
  | .getDigests => execGetDigests s
  | .getCertificate slot => execGetCertificate slot s
  | .challenge slot nonce => execChallenge slot nonce s
  | .getMeasurements index signed => execGetMeasurements index signed s
  | .debugHalt cell => execDebugHalt cell s
  | .debugResume cell => execDebugResume cell s
  | .debugStep cell => execDebugStep cell s
  | .debugRead cell => execDebugRead cell s
  | .debugWrite cell => execDebugWrite cell s
  | .commit cell => execCommit cell s
  | .drop cell => execDrop cell s
  | .debugRevoke cell => execDebugRevoke cell s
  | .storeCompletion u k => execStoreCompletion u k s
  | .portWordArrival u pair w => execPortWordArrival u pair w s
  | .relocationComplete core => execRelocationComplete core s
  | .softError l double => execSoftError l double s

/-! Messages that do not take effect now -/

/-- Dies in S1 or deeper that a context's entry names, or that it is resident on: a write of the entry wakes the engine of each (R283, R394); those in S3 only a request for residency brings back (R395). -/
def entryDies (s : State) (ctx : Nat) : List Nat :=
  let named := match s.ctx? ctx with
    | some c => c.dies
    | none => leAt (rdBytes s (entryAt s ctx) 256) 18 1
  dies4.filter (fun d => bit named d && decide ((s.die d).power.st ≠ .s0) && decide ((s.die d).power.st ≠ .s3))

/-- The die whose engine, router or debug module an event wakes (R394). -/
def wokenDie (s : State) : Event → Option Nat
  | .queueTailWrite ctx _ => (s.ctx? ctx).map (fun c => servingDie c.dies)
  | .contextEntryWake ctx => some (((entryDies s ctx).head?).getD ((s.ctx? ctx).elim 0 (fun c => servingDie c.dies)))
  | .faultRecordWrite d | .resume d | .redirect d | .enter d | .retire d | .stop d | .inval d | .preempt d | .restore d
  | .migrate d | .freeze d | .thaw d | .fabricBlockWrite d | .packetForward d _ | .tilePacketArrival d _
  | .keepAliveArrival d _ | .absentNotice d _ | .rootTileDelivery d _ => some d
  | .debugHalt c | .debugResume c | .debugStep c | .debugRead c | .debugWrite c | .commit c | .drop c | .debugRevoke c =>
    some (c / 24)
  | .grantMapWrite _ => some 0
  | _ => none

/-- An event that a die without power takes up when it is back, or never: a poll of its blocks. -/
def isPoll : Event → Bool
  | .packetForward _ _ | .queueTailWrite _ _ | .contextEntryWake _ => false
  | _ => true

/-- An event is held for a die until it is back in S0. -/
def holdFor (s : State) (d : Nat) (e : Event) : State :=
  (wakeDie s d).modDie d (fun x => if x.held.contains e then x else { x with held := x.held ++ [e] })

/-- A write of a context's entry wakes every die that the entry names (R283, R394). -/
def wakeNamed (s : State) : Event → State
  | .contextEntryWake ctx => (entryDies s ctx).foldl wakeDie s
  | _ => s

/-- A die in S3 that a context asking for residency names (R395). -/
def deepDie (s : State) (ctx : Nat) : Option Nat :=
  let bs := rdBytes s (entryAt s ctx) 256
  if (s.ctx? ctx).isSome || !bit (leAt bs 20 4) 0 then none
  else dies4.find? (fun d => bit (leAt bs 18 1) d && decide ((s.die d).power.st = .s3))

/-- The die of the unit or core that an event would let go on. -/
def unitDie (s : State) (e : Event) : Option Nat :=
  match e with
  | .sleepExpiry u _ _ => (s.unit? u).map UnitSt.die
  | e => (addressee s e false).map dieOfSite

/-- A message for a unit that is stopped or a die that is frozen or asleep does not take effect now (R316, R321, R394, R395). -/
def holdEvent (s : State) (e : Event) : Option State :=
  match deferEvent s e with
  | some s => some s
  | none =>
    match (match e with | .contextEntryWake ctx => deepDie s ctx | _ => none) with
    | some d => some (holdFor s d e)
    | none => match (wokenDie s e).orElse (fun _ => unitDie s e) with
      | none => none
      | some d =>
        let x := s.die d
        if x.power.st = .s3 then (if isPoll e then some s else some (holdFor s d e))
        else if x.bring ≠ .ready then some s
        else if x.power.st ≠ .s0 then some (holdFor (wakeNamed s e) d e)
        else none

/-! The acts of the outside world that are no row of the opcode table -/

/-- A TLB entry of a core, of a strand core (from 4,096) or of a cell (from 8,192) is evicted (R311). -/
def evictTlb (s : State) (place index : Nat) : State :=
  if place < 4096 then s.modCore place (fun k => { k with tlb := k.tlb.eraseIdx index })
  else if place < 8192 then
    s.modScore (place - 4096) (fun k => { k with
      itlb := k.itlb.eraseIdx index, dtlb := if k.itlb.length ≤ index then k.dtlb.eraseIdx (index - k.itlb.length) else k.dtlb })
  else s.modCell (place - 8192) (fun k => { k with l2tlb := k.l2tlb.eraseIdx index })

/-- A copy of a line leaves the instruction cache of a core, or the line cache of a strand core (from 4,096) (R240). -/
def evictCode (s : State) (core index : Nat) : State :=
  if core < 4096 then s.modCore core (fun k => { k with icache := k.icache.eraseIdx index })
  else s.modScore (core - 4096) (fun k => { k with lines := k.lines.eraseIdx index })

/-- A turn other than an issue. -/
def takeTurn (s : State) : Turn → Out
  | .issue _ => .next s
  | .event e => match holdEvent s e with
    | some s => .next s
    | none => unlessDeep s (fun d t => holdFor t d e) (runEvent e s)
  | .hostWrite pa data => .next (hostWrite s pa data)
  | .hostBacks pa n on => .next (hostBacks s pa n on)
  | .linkSend l => .next (linkSend s l)
  | .evict place index => .next (evictTlb s place index)
  | .evictLine core index => .next (evictCode s core index)
  | .evictSlice line => .next (evictSlice s line)
  | .cfgWrite off data => .next (cfgWrite s off data)
  | .hdmWrite i x => .next (hdmWrite s i x)
  | .hostMem r => .next (hostMem s r)
  | .spdmOffer asym hash => .next (spdmOffer s asym hash)
  | .spdmOther code => .next (spdmOther s code)

/-! A new cycle -/

/-- A core of the package that runs. -/
def coreRuns (s : State) (c : Nat) : Bool := decide (c < 512) && dieRuns s (coreDie c)

/-- Cores on which a group may be selected. -/
def issuingCores (s : State) : List Nat :=
  ((s.units.filter (fun (e : Nat × UnitSt) => !e.2.at_.strand && coreRuns s e.2.at_.core)).map (fun e => e.2.at_.core)).eraseDups

/-- Strand cores on which a strand may be selected. -/
def issuingStrands (s : State) : List Nat :=
  ((s.units.filter (fun (e : Nat × UnitSt) => e.2.at_.strand && decide (e.2.at_.core < 1536) && dieRuns s (e.2.at_.core / 384))).map
    (fun e => e.2.at_.core)).eraseDups

/-- What the state of a core calls for. -/
def coreEvents (s : State) (c : Nat) (k : Core) : List Event :=
  if !coreRuns s c then [] else
  (if k.saving then [] else (arrayEvent s c).toList) ++
  (match k.ci.move with
    | some m => if m.wait && decide (m.phase = .prepare) then [.moveWaitRelease c] else []
    | none => []) ++
  (if k.returning then [.roleListReturn c] else []) ++
  k.ci.lines.filterMap (fun l => if l.2.dirty ≠ [] ∧ l.2.dirtyAt + 1023 ≤ s.now then some (.cacWriteback c l.2.line) else none)

/-- Operations whose bytes have reached their slices. -/
def unitEvents (s : State) (u : Nat) (un : UnitSt) : List Event :=
  un.ops.filterMap (fun o => if o.2.stage = 1 ∧ stillDirty s un o.2 = [] then some (completion u o.1 o.2) else none)

/-- What a die's engine, balancer and power call for. -/
def dieEvents (s : State) (d : Nat) : List Event :=
  let x := s.die d
  if x.bring ≠ .ready then (if x.power.st = .s3 ∧ x.power.exiting = false ∧ x.power.wake = false ∧ mustWake s d = true then [.powerWake d] else [])
  else if x.frozen then []
  else if x.power.st ≠ .s0 then
    (if x.power.exiting = false ∧ x.power.wake = false ∧ mustWake s d = true then [.powerWake d]
     else if x.power.entering.isNone ∧ x.power.exiting = false ∧ x.power.st.depth < (powerTarget s d).depth then [.idleTimeout d] else [])
  else
    (if s.ctxs.any (fun (c : Nat × Ctx) => bit c.2.dies d) then
      [match choice (engineLook s d) d with
        | some (_, t) => match t.rec_.kind with
          | .cluster => Event.placeCluster d
          | .strand => .placeStrand d
          | .superstep => .placeSuperstepGrid d
        | none => .placeCluster d]
     else []) ++
    (if s.now % 1024 = 0 ∧ x.pipes ≠ [] then [.balancerSample d] else []) ++
    (if x.power.lattol ≠ 0 ∧ powerTarget s d ≠ .s0 then [.idleTimeout d] else [])

/-- What the state at the start of a cycle calls for, besides what has been planned. -/
def derivedEvents (s : State) : List Event :=
  s.cores.flatMap (fun (e : Nat × Core) => coreEvents s e.1 e.2) ++
  s.units.flatMap (fun (e : Nat × UnitSt) => unitEvents s e.1 e.2) ++
  s.cells.filterMap (fun (e : Nat × Cell) =>
    if e.2.dispatched ≠ [] ∧ dieRuns s (e.1 / 24) = true then some (.sumpPlace e.1) else none) ++
  s.ctxs.filterMap (fun (e : Nat × Ctx) => if mayLeave s e.1 then some (.contextLeave e.1) else none) ++
  dies4.flatMap (dieEvents s)

/-- Completions are taken before the other turns that are due, in ascending order of the units they name. -/
def completionOf : Turn → Option Nat
  | .event (.producerCompletion u _) | .event (.storeCompletion u _) => some u
  | _ => none

/-- Turns that are due, in the order in which they are taken. -/
def orderDue (l : List Turn) : List Turn :=
  sortBy (fun a b => decide ((completionOf a).getD 0 < (completionOf b).getD 0)) (l.filter (fun t => (completionOf t).isSome)) ++
    l.filter (fun t => (completionOf t).isNone)

/-- A sweep of BARC that reaches a core: its groups may issue from that very cycle (R206). -/
def isSweep : Turn → Bool
  | .event (.barcSweepArrival _ _ _ _ _) => true
  | .event (.barcSweepRelease _ _ _ _) => true
  | _ => false

/-- What passes with the cycle itself: occupancy sums, clocks, idle counts (R260, R394, R396). -/
def tickDie (s : State) (d : Nat) : State :=
  let s := applyClock s d
  let w := (s.die d).power
  if w.st ≠ .s0 then modPower s d (fun w => { w with slept := w.slept + 1 })
  else if dieWork s d then modPower s d (fun w => { w with idleSince := s.now }) else s

/-- Windows of the load limit that end as a cycle begins, whose selections are made under the new limits (R298). -/
def windowEnds (s : State) : List Event :=
  if s.now % 4096 = 0 then s.cores.filterMap (fun (e : Nat × Core) => if coreRuns s e.1 then some (.loadLimitWindow e.1) else none) else []

/-- A cell's trace records are written, unless the die of their memory is in S3: then they stay and it is brought back (R395). -/
def traceOut (s : State) (cell : Nat) : State :=
  let t := flushTrace s cell
  match deepDies s t with
  | [] => t
  | ds => ds.foldl askDie s

/-- A new cycle begins: the trace records of the last are appended and the banks serve a slot, then come BARC's sweeps, the windows of the load limit, selections on every core, what is due, and what the state calls for. -/
def nextCycle (s : State) : State :=
  let s := s.cells.foldl (fun s (c : Nat × Cell) => if c.2.dbg.trace = [] then s else traceOut s c.1) s
  let s := { s with now := s.now + 1 }
  let s := (s.cores.filter (fun (e : Nat × Core) => decide (e.2.banks ≠ []))).foldl (fun s e => serveBanks s e.1) s
  let s := (s.cores.filter (fun (e : Nat × Core) => decide (e.1 < 512) && decide ((s.die (coreDie e.1)).power.st = .s0))).foldl
    (fun s e => tickPools s e.1) s
  let s := dies4.foldl tickDie s
  let due := (s.calendar.filter (fun e => decide (e.1 ≤ s.now))).map (·.2)
  let selects := (issuingCores s).map Event.issueSelect ++ (issuingStrands s).map Event.strandIssueSelect
  { s with
    calendar := s.calendar.filter (fun e => decide (s.now < e.1))
    agenda := due.filter isSweep ++ (windowEnds s ++ selects).map Turn.event ++ orderDue (due.filter (fun t => !isSweep t)) ++ (derivedEvents s).map Turn.event }

end Sys2Proof.Machine
end

