-- ==== Sys2Proof/Machine/Dispatch.lean ====
section
/-! DEFINITION. The meaning of every row of the opcode table: one arm for each constructor of Instr, in the table's order. -/

namespace Sys2Proof.Machine

/-- The meaning of an instruction or event. -/
def exec (i : Instr) (s : State) : Host.Outcome State Fault Refusal :=
  match i with
  | .nop x => Sys2Proof.Machine.execNop x s
  | .exit x => Sys2Proof.Machine.execExit x s
  | .yield_ x => Sys2Proof.Machine.execYield x s
  | .ret x => Sys2Proof.Machine.execRet x s
  | .trap x => Sys2Proof.Machine.execTrap x s
  | .br x => Sys2Proof.Machine.execBr x s
  | .call x => Sys2Proof.Machine.execCall x s
  | .jmpi x => Sys2Proof.Machine.execJmpi x s
  | .calli x => Sys2Proof.Machine.execCalli x s
  | .brd x => Sys2Proof.Machine.execBrd x s
  | .brany x => Sys2Proof.Machine.execBrany x s
  | .brall x => Sys2Proof.Machine.execBrall x s
  | .loop x => Sys2Proof.Machine.execLoop x s
  | .loopi x => Sys2Proof.Machine.execLoopi x s
  | .iadd x => Sys2Proof.Machine.execIadd x s
  | .isub x => Sys2Proof.Machine.execIsub x s
  | .iaddc x => Sys2Proof.Machine.execIaddc x s
  | .isubb x => Sys2Proof.Machine.execIsubb x s
  | .iaddi x => Sys2Proof.Machine.execIaddi x s
  | .ineg x => Sys2Proof.Machine.execIneg x s
  | .iabs x => Sys2Proof.Machine.execIabs x s
  | .iadd64 x => Sys2Proof.Machine.execIadd64 x s
  | .isub64 x => Sys2Proof.Machine.execIsub64 x s
  | .iaddi64 x => Sys2Proof.Machine.execIaddi64 x s
  | .imin x => Sys2Proof.Machine.execImin x s
  | .imax x => Sys2Proof.Machine.execImax x s
  | .icmpp x => Sys2Proof.Machine.execIcmpp x s
  | .icmppi x => Sys2Proof.Machine.execIcmppi x s
  | .sel x => Sys2Proof.Machine.execSel x s
  | .and_ x => Sys2Proof.Machine.execAnd x s
  | .or_ x => Sys2Proof.Machine.execOr x s
  | .xor_ x => Sys2Proof.Machine.execXor x s
  | .not_ x => Sys2Proof.Machine.execNot x s
  | .andi x => Sys2Proof.Machine.execAndi x s
  | .ori x => Sys2Proof.Machine.execOri x s
  | .xori x => Sys2Proof.Machine.execXori x s
  | .shl x => Sys2Proof.Machine.execShl x s
  | .shr x => Sys2Proof.Machine.execShr x s
  | .sar x => Sys2Proof.Machine.execSar x s
  | .rol x => Sys2Proof.Machine.execRol x s
  | .ror x => Sys2Proof.Machine.execRor x s
  | .shli x => Sys2Proof.Machine.execShli x s
  | .shri x => Sys2Proof.Machine.execShri x s
  | .sari x => Sys2Proof.Machine.execSari x s
  | .popc x => Sys2Proof.Machine.execPopc x s
  | .clz x => Sys2Proof.Machine.execClz x s
  | .ctz x => Sys2Proof.Machine.execCtz x s
  | .brev x => Sys2Proof.Machine.execBrev x s
  | .mov x => Sys2Proof.Machine.execMov x s
  | .movi x => Sys2Proof.Machine.execMovi x s
  | .movhi x => Sys2Proof.Machine.execMovhi x s
  | .movk x => Sys2Proof.Machine.execMovk x s
  | .lea x => Sys2Proof.Machine.execLea x s
  | .shl64 x => Sys2Proof.Machine.execShl64 x s
  | .shr64 x => Sys2Proof.Machine.execShr64 x s
  | .sar64 x => Sys2Proof.Machine.execSar64 x s
  | .icmpp64 x => Sys2Proof.Machine.execIcmpp64 x s
  | .imul x => Sys2Proof.Machine.execImul x s
  | .imulhi x => Sys2Proof.Machine.execImulhi x s
  | .imad x => Sys2Proof.Machine.execImad x s
  | .imulw x => Sys2Proof.Machine.execImulw x s
  | .imadw x => Sys2Proof.Machine.execImadw x s
  | .divstep x => Sys2Proof.Machine.execDivstep x s
  | .divinit x => Sys2Proof.Machine.execDivinit x s
  | .bfx x => Sys2Proof.Machine.execBfx x s
  | .bfi x => Sys2Proof.Machine.execBfi x s
  | .fadd x => Sys2Proof.Machine.execFadd x s
  | .fsub x => Sys2Proof.Machine.execFsub x s
  | .fmul x => Sys2Proof.Machine.execFmul x s
  | .ffma x => Sys2Proof.Machine.execFfma x s
  | .fmin x => Sys2Proof.Machine.execFmin x s
  | .fmax x => Sys2Proof.Machine.execFmax x s
  | .fcmpp x => Sys2Proof.Machine.execFcmpp x s
  | .fabs x => Sys2Proof.Machine.execFabs x s
  | .fneg x => Sys2Proof.Machine.execFneg x s
  | .fclass x => Sys2Proof.Machine.execFclass x s
  | .badd x => Sys2Proof.Machine.execBadd x s
  | .bsub x => Sys2Proof.Machine.execBsub x s
  | .bmul x => Sys2Proof.Machine.execBmul x s
  | .bfma x => Sys2Proof.Machine.execBfma x s
  | .bpadd x => Sys2Proof.Machine.execBpadd x s
  | .bpsub x => Sys2Proof.Machine.execBpsub x s
  | .bpmul x => Sys2Proof.Machine.execBpmul x s
  | .bpfma x => Sys2Proof.Machine.execBpfma x s
  | .bpmin x => Sys2Proof.Machine.execBpmin x s
  | .bpmax x => Sys2Proof.Machine.execBpmax x s
  | .bmin x => Sys2Proof.Machine.execBmin x s
  | .bmax x => Sys2Proof.Machine.execBmax x s
  | .bcmpp x => Sys2Proof.Machine.execBcmpp x s
  | .faddi x => Sys2Proof.Machine.execFaddi x s
  | .fmuli x => Sys2Proof.Machine.execFmuli x s
  | .ffmai x => Sys2Proof.Machine.execFfmai x s
  | .rcp x => Sys2Proof.Machine.execRcp x s
  | .rsq x => Sys2Proof.Machine.execRsq x s
  | .sqrt x => Sys2Proof.Machine.execSqrt x s
  | .exp2 x => Sys2Proof.Machine.execExp2 x s
  | .log2 x => Sys2Proof.Machine.execLog2 x s
  | .tanh x => Sys2Proof.Machine.execTanh x s
  | .sint x => Sys2Proof.Machine.execSint x s
  | .cost x => Sys2Proof.Machine.execCost x s
  | .sincost x => Sys2Proof.Machine.execSincost x s
  | .cvtfh x => Sys2Proof.Machine.execCvtfh x s
  | .cvthf x => Sys2Proof.Machine.execCvthf x s
  | .packh x => Sys2Proof.Machine.execPackh x s
  | .cvtf8 x => Sys2Proof.Machine.execCvtf8 x s
  | .cvtf4 x => Sys2Proof.Machine.execCvtf4 x s
  | .cvt8f x => Sys2Proof.Machine.execCvt8f x s
  | .cvt4f x => Sys2Proof.Machine.execCvt4f x s
  | .mxpack x => Sys2Proof.Machine.execMxpack x s
  | .mxunpk x => Sys2Proof.Machine.execMxunpk x s
  | .cvtfi x => Sys2Proof.Machine.execCvtfi x s
  | .cvtif x => Sys2Proof.Machine.execCvtif x s
  | .cvtii x => Sys2Proof.Machine.execCvtii x s
  | .shfl x => Sys2Proof.Machine.execShfl x s
  | .shflup x => Sys2Proof.Machine.execShflup x s
  | .shfldn x => Sys2Proof.Machine.execShfldn x s
  | .shflx x => Sys2Proof.Machine.execShflx x s
  | .ballot x => Sys2Proof.Machine.execBallot x s
  | .voteany x => Sys2Proof.Machine.execVoteany x s
  | .voteall x => Sys2Proof.Machine.execVoteall x s
  | .voteuni x => Sys2Proof.Machine.execVoteuni x s
  | .pscan x => Sys2Proof.Machine.execPscan x s
  | .reduce x => Sys2Proof.Machine.execReduce x s
  | .match_ x => Sys2Proof.Machine.execMatch x s
  | .ld x => Sys2Proof.Machine.execLd x s
  | .st x => Sys2Proof.Machine.execSt x s
  | .gld x => Sys2Proof.Machine.execGld x s
  | .sct x => Sys2Proof.Machine.execSct x s
  | .lds x => Sys2Proof.Machine.execLds x s
  | .sts x => Sys2Proof.Machine.execSts x s
  | .ldsr x => Sys2Proof.Machine.execLdsr x s
  | .stsr x => Sys2Proof.Machine.execStsr x s
  | .ldt x => Sys2Proof.Machine.execLdt x s
  | .stt x => Sys2Proof.Machine.execStt x s
  | .ldl x => Sys2Proof.Machine.execLdl x s
  | .stl x => Sys2Proof.Machine.execStl x s
  | .ldw x => Sys2Proof.Machine.execLdw x s
  | .stw x => Sys2Proof.Machine.execStw x s
  | .cmpst x => Sys2Proof.Machine.execCmpst x s
  | .expld x => Sys2Proof.Machine.execExpld x s
  | .pref x => Sys2Proof.Machine.execPref x s
  | .atomAdd x => Sys2Proof.Machine.execAtomAdd x s
  | .atomMin x => Sys2Proof.Machine.execAtomMin x s
  | .atomMax x => Sys2Proof.Machine.execAtomMax x s
  | .atomAnd x => Sys2Proof.Machine.execAtomAnd x s
  | .atomOr x => Sys2Proof.Machine.execAtomOr x s
  | .atomXor x => Sys2Proof.Machine.execAtomXor x s
  | .atomExch x => Sys2Proof.Machine.execAtomExch x s
  | .atomCas x => Sys2Proof.Machine.execAtomCas x s
  | .atomFadd x => Sys2Proof.Machine.execAtomFadd x s
  | .atomFmin x => Sys2Proof.Machine.execAtomFmin x s
  | .atomFmax x => Sys2Proof.Machine.execAtomFmax x s
  | .atomAddBf16x2 x => Sys2Proof.Machine.execAtomAddBf16x2 x s
  | .atomVismin x => Sys2Proof.Machine.execAtomVismin x s
  | .redAdd x => Sys2Proof.Machine.execRedAdd x s
  | .redMin x => Sys2Proof.Machine.execRedMin x s
  | .redMax x => Sys2Proof.Machine.execRedMax x s
  | .redFadd x => Sys2Proof.Machine.execRedFadd x s
  | .redAddBf16x2 x => Sys2Proof.Machine.execRedAddBf16x2 x s
  | .atomlCas x => Sys2Proof.Machine.execAtomlCas x s
  | .atomlAdd x => Sys2Proof.Machine.execAtomlAdd x s
  | .atomwCas x => Sys2Proof.Machine.execAtomwCas x s
  | .atomwAdd x => Sys2Proof.Machine.execAtomwAdd x s
  | .atomwExch x => Sys2Proof.Machine.execAtomwExch x s
  | .fence x => Sys2Proof.Machine.execFence x s
  | .fenceSurf x => Sys2Proof.Machine.execFenceSurf x s
  | .discard x => Sys2Proof.Machine.execDiscard x s
  | .cinv x => Sys2Proof.Machine.execCinv x s
  | .cwb x => Sys2Proof.Machine.execCwb x s
  | .cflush x => Sys2Proof.Machine.execCflush x s
  | .mrsv x => Sys2Proof.Machine.execMrsv x s
  | .mrel x => Sys2Proof.Machine.execMrel x s
  | .mlda x => Sys2Proof.Machine.execMlda x s
  | .mldb x => Sys2Proof.Machine.execMldb x s
  | .mma x => Sys2Proof.Machine.execMma x s
  | .mmaF32 x => Sys2Proof.Machine.execMmaF32 x s
  | .mzero x => Sys2Proof.Machine.execMzero x s
  | .mst x => Sys2Proof.Machine.execMst x s
  | .gang x => Sys2Proof.Machine.execGang x s
  | .gangMma x => Sys2Proof.Machine.execGangMma x s
  | .bar x => Sys2Proof.Machine.execBar x s
  | .barc x => Sys2Proof.Machine.execBarc x s
  | .gbar x => Sys2Proof.Machine.execGbar x s
  | .voteg x => Sys2Proof.Machine.execVoteg x s
  | .sete x => Sys2Proof.Machine.execSete x s
  | .setf x => Sys2Proof.Machine.execSetf x s
  | .chain x => Sys2Proof.Machine.execChain x s
  | .enq x => Sys2Proof.Machine.execEnq x s
  | .deq x => Sys2Proof.Machine.execDeq x s
  | .launch x => Sys2Proof.Machine.execLaunch x s
  | .migr x => Sys2Proof.Machine.execMigr x s
  | .rets x => Sys2Proof.Machine.execRets x s
  | .bclose x => Sys2Proof.Machine.execBclose x s
  | .bwait x => Sys2Proof.Machine.execBwait x s
  | .poolq x => Sys2Proof.Machine.execPoolq x s
  | .poolm x => Sys2Proof.Machine.execPoolm x s
  | .poolw x => Sys2Proof.Machine.execPoolw x s
  | .svc x => Sys2Proof.Machine.execSvc x s
  | .ctlr x => Sys2Proof.Machine.execCtlr x s
  | .ctlw x => Sys2Proof.Machine.execCtlw x s
  | .isync x => Sys2Proof.Machine.execIsync x s
  | .sleep x => Sys2Proof.Machine.execSleep x s
  | .halt x => Sys2Proof.Machine.execHalt x s
  | .bkpt x => Sys2Proof.Machine.execBkpt x s
  | .eret x => Sys2Proof.Machine.execEret x s
  | .producerCompletion u k => Sys2Proof.Machine.execProducerCompletion u k s
  | .remoteFill u r vals => Sys2Proof.Machine.execRemoteFill u r vals s
  | .pageWalk cell ctx va => Sys2Proof.Machine.execPageWalk cell ctx va s
  | .cacWriteback core line => Sys2Proof.Machine.execCacWriteback core line s
  | .resultRecordAppend u r => Sys2Proof.Machine.execResultRecordAppend u r s
  | .issueSelect core => Sys2Proof.Machine.execIssueSelect core s
  | .strandIssueSelect sc => Sys2Proof.Machine.execStrandIssueSelect sc s
  | .loadLimitWindow core => Sys2Proof.Machine.execLoadLimitWindow core s
  | .sleepExpiry u entry stamp => Sys2Proof.Machine.execSleepExpiry u entry stamp s
  | .barcSweepArrival cl rect x y column => Sys2Proof.Machine.execBarcSweepArrival cl rect x y column s
  | .barcSweepRelease cl rect x y => Sys2Proof.Machine.execBarcSweepRelease cl rect x y s
  | .gridBarrierRelease task core => Sys2Proof.Machine.execGridBarrierRelease task core s
  | .matrixEntryStart core => Sys2Proof.Machine.execMatrixEntryStart core s
  | .matrixEntryFinish core => Sys2Proof.Machine.execMatrixEntryFinish core s
  | .stagingComplete core k => Sys2Proof.Machine.execStagingComplete core k s
  | .multicastWindowRead core w => Sys2Proof.Machine.execMulticastWindowRead core w s
  | .jointOperationStart core => Sys2Proof.Machine.execJointOperationStart core s
  | .moveSwitch core => Sys2Proof.Machine.execMoveSwitch core s
  | .moveRebuild core => Sys2Proof.Machine.execMoveRebuild core s
  | .moveComplete core => Sys2Proof.Machine.execMoveComplete core s
  | .tileFlush core tile => Sys2Proof.Machine.execTileFlush core tile s
  | .moveWaitRelease core => Sys2Proof.Machine.execMoveWaitRelease core s
  | .roleListReturn core => Sys2Proof.Machine.execRoleListReturn core s
  | .copy core k => Sys2Proof.Machine.execCopy core k s
  | .fill core k => Sys2Proof.Machine.execFill core k s
  | .vfill core k => Sys2Proof.Machine.execVfill core k s
  | .tsend core k => Sys2Proof.Machine.execTsend core k s
  | .plan core k => Sys2Proof.Machine.execPlan core k s
  | .planSend core k n => Sys2Proof.Machine.execPlanSend core k n s
  | .copyComplete core k => Sys2Proof.Machine.execCopyComplete core k s
  | .mergeOpen die k => Sys2Proof.Machine.execMergeOpen die k s
  | .mergeClose die k => Sys2Proof.Machine.execMergeClose die k s
  | .frame die k => Sys2Proof.Machine.execFrame die k s
  | .absent die k => Sys2Proof.Machine.execAbsent die k s
  | .sink die k => Sys2Proof.Machine.execSink die k s
  | .route die k => Sys2Proof.Machine.execRoute die k s
  | .unsink die k => Sys2Proof.Machine.execUnsink die k s
  | .sinkRelease die engine sink => Sys2Proof.Machine.execSinkRelease die engine sink s
  | .serviceAccept die k => Sys2Proof.Machine.execServiceAccept die k s
  | .rasterOpen die k => Sys2Proof.Machine.execRasterOpen die k s
  | .draw die k => Sys2Proof.Machine.execDraw die k s
  | .resolve die k => Sys2Proof.Machine.execResolve die k s
  | .rasterClose die k => Sys2Proof.Machine.execRasterClose die k s
  | .clear die k => Sys2Proof.Machine.execClear die k s
  | .trace die k => Sys2Proof.Machine.execTrace die k s
  | .sample die k => Sys2Proof.Machine.execSample die k s
  | .endRecord die k => Sys2Proof.Machine.execEndRecord die k s
  | .contextEntryWake ctx => Sys2Proof.Machine.execContextEntryWake ctx s
  | .contextLeave ctx => Sys2Proof.Machine.execContextLeave ctx s
  | .queueTailWrite ctx q => Sys2Proof.Machine.execQueueTailWrite ctx q s
  | .placeCluster die => Sys2Proof.Machine.execPlaceCluster die s
  | .placeStrand die => Sys2Proof.Machine.execPlaceStrand die s
  | .placeSuperstepGrid die => Sys2Proof.Machine.execPlaceSuperstepGrid die s
  | .taskRetire task => Sys2Proof.Machine.execTaskRetire task s
  | .sumpTimeout cell form => Sys2Proof.Machine.execSumpTimeout cell form s
  | .sumpPlace cell => Sys2Proof.Machine.execSumpPlace cell s
  | .balancerSample die => Sys2Proof.Machine.execBalancerSample die s
  | .balancerDeferredMove die core => Sys2Proof.Machine.execBalancerDeferredMove die core s
  | .faultRecordWrite die => Sys2Proof.Machine.execFaultRecordWrite die s
  | .resume die => Sys2Proof.Machine.execResume die s
  | .redirect die => Sys2Proof.Machine.execRedirect die s
  | .enter die => Sys2Proof.Machine.execEnter die s
  | .retire die => Sys2Proof.Machine.execRetire die s
  | .stop die => Sys2Proof.Machine.execStop die s
  | .inval die => Sys2Proof.Machine.execInval die s
  | .preempt die => Sys2Proof.Machine.execPreempt die s
  | .restore die => Sys2Proof.Machine.execRestore die s
  | .migrate die => Sys2Proof.Machine.execMigrate die s
  | .migrationResume core => Sys2Proof.Machine.execMigrationResume core s
  | .freeze die => Sys2Proof.Machine.execFreeze die s
  | .thaw die => Sys2Proof.Machine.execThaw die s
  | .routeUpdate core u agent => Sys2Proof.Machine.execRouteUpdate core u agent s
  | .routeUpdateAck core u agent => Sys2Proof.Machine.execRouteUpdateAck core u agent s
  | .hostSnoop line inval => Sys2Proof.Machine.execHostSnoop line inval s
  | .cxlMemRequest r => Sys2Proof.Machine.execCxlMemRequest r s
  | .linkRetrain link => Sys2Proof.Machine.execLinkRetrain link s
  | .linkUp link => Sys2Proof.Machine.execLinkUp link s
  | .linkDownTimeout link stamp => Sys2Proof.Machine.execLinkDownTimeout link stamp s
  | .fabricBlockWrite die => Sys2Proof.Machine.execFabricBlockWrite die s
  | .packetForward die p => Sys2Proof.Machine.execPacketForward die p s
  | .tilePacketArrival die p => Sys2Proof.Machine.execTilePacketArrival die p s
  | .nodeDeadline die session frame lo hi => Sys2Proof.Machine.execNodeDeadline die session frame lo hi s
  | .leafFrameClose die session frame => Sys2Proof.Machine.execLeafFrameClose die session frame s
  | .keepAliveSend die session => Sys2Proof.Machine.execKeepAliveSend die session s
  | .keepAliveArrival die p => Sys2Proof.Machine.execKeepAliveArrival die p s
  | .childTimeout die session lo hi => Sys2Proof.Machine.execChildTimeout die session lo hi s
  | .absentNotice die p => Sys2Proof.Machine.execAbsentNotice die p s
  | .sessionClose die session => Sys2Proof.Machine.execSessionClose die session s
  | .rootTileDelivery die p => Sys2Proof.Machine.execRootTileDelivery die p s
  | .frameRecord die engine sink frame => Sys2Proof.Machine.execFrameRecord die engine sink frame s
  | .go v => Sys2Proof.Machine.execGo v s
  | .lattolWrite die v => Sys2Proof.Machine.execLattolWrite die v s
  | .clklimWrite die v => Sys2Proof.Machine.execClklimWrite die v s
  | .mgmtWindowWrite off size v => Sys2Proof.Machine.execMgmtWindowWrite off size v s
  | .powerOn die => Sys2Proof.Machine.execPowerOn die s
  | .firmware die fail => Sys2Proof.Machine.execFirmware die fail s
  | .selftest die pass fenced => Sys2Proof.Machine.execSelftest die pass fenced s
  | .memory die pass => Sys2Proof.Machine.execMemory die pass s
  | .links die pass key => Sys2Proof.Machine.execLinks die pass key s
  | .idleTimeout die => Sys2Proof.Machine.execIdleTimeout die s
  | .powerEntryComplete die => Sys2Proof.Machine.execPowerEntryComplete die s
  | .powerWake die => Sys2Proof.Machine.execPowerWake die s
  | .powerExitComplete die => Sys2Proof.Machine.execPowerExitComplete die s
  | .thermalStep die temp => Sys2Proof.Machine.execThermalStep die temp s
  | .grantMapWrite byte => Sys2Proof.Machine.execGrantMapWrite byte s
  | .grantArrival core ctx granted => Sys2Proof.Machine.execGrantArrival core ctx granted s
  | .patrolScrub => Sys2Proof.Machine.execPatrolScrub s
  | .lifetimeRecordWrite => Sys2Proof.Machine.execLifetimeRecordWrite s
  | .getVersion => Sys2Proof.Machine.execGetVersion s
  | .getCapabilities => Sys2Proof.Machine.execGetCapabilities s
  | .negotiateAlgorithms => Sys2Proof.Machine.execNegotiateAlgorithms s
  | .getDigests => Sys2Proof.Machine.execGetDigests s
  | .getCertificate slot => Sys2Proof.Machine.execGetCertificate slot s
  | .challenge slot nonce => Sys2Proof.Machine.execChallenge slot nonce s
  | .getMeasurements index signed => Sys2Proof.Machine.execGetMeasurements index signed s
  | .debugHalt cell => Sys2Proof.Machine.execDebugHalt cell s
  | .debugResume cell => Sys2Proof.Machine.execDebugResume cell s
  | .debugStep cell => Sys2Proof.Machine.execDebugStep cell s
  | .debugRead cell => Sys2Proof.Machine.execDebugRead cell s
  | .debugWrite cell => Sys2Proof.Machine.execDebugWrite cell s
  | .commit cell => Sys2Proof.Machine.execCommit cell s
  | .drop cell => Sys2Proof.Machine.execDrop cell s
  | .debugRevoke cell => Sys2Proof.Machine.execDebugRevoke cell s
  | .storeCompletion u k => Sys2Proof.Machine.execStoreCompletion u k s
  | .portWordArrival u pair w => Sys2Proof.Machine.execPortWordArrival u pair w s
  | .relocationComplete core => Sys2Proof.Machine.execRelocationComplete core s
  | .softError l double => Sys2Proof.Machine.execSoftError l double s

end Sys2Proof.Machine
end

