-- ==== Sys2Proof/Machine/Step.lean ====
section
/-! DEFINITION. One turn of the machine: a unit issues, an event takes effect, or a new cycle begins. -/

namespace Sys2Proof.Machine

/-- What an instruction answers, with no unit acting any more. -/
def endIssue (o : Host.Outcome State Fault Refusal) : Host.Outcome State Fault Refusal :=
  match o with
  | .next s => .next { s with actor := none }
  | o => o

/-- A unit's turn to issue: its next instruction is fetched, decoded and performed. -/
def issueStep (u : Nat) (s : State) : Host.Outcome State Fault Refusal :=
  match s.unit? u with
  | none => .fault (.noUnit u)
  | some _ =>
    unlessDeep s (fun _ t => t) (match issueTurn s u with
      | (s, none) => .next s
      | (s, some i) => endIssue (unlessCrowded s (exec i s)))

/-- The first turn of the agenda is taken; when none is left the next cycle begins. -/
def step (s : State) : Host.Outcome State Fault Refusal :=
  match s.agenda with
  | [] => .next (nextCycle s)
  | .issue u :: rest => issueStep u { s with agenda := rest }
  | t :: rest => takeTurn { s with agenda := rest } t

/-! The host's placing of one instruction -/

/-- Physical and virtual address of the line that withFetchWord stores. -/
def wordBase : Nat := 65536

/-- Where the placed unit stands: a group of team `key` on core 0, or the strand of thread 0 of strand core 0. -/
def wordWhere (strand : Bool) (key task : Nat) : Where :=
  { strand := strand, ctx := 0, core := 0, slot := 0, team := if strand then 0 else key, gint := 0, task := task }

/-- The team of the placed group: one group of 1,024 registers, and 64 KiB of scratchpad. -/
def wordTeam (s : State) : Team :=
  { ctx := 0, task := s.nextTask, cluster := s.nextCluster, core := 0, slot := 0, pos := 0, groups := [groupUid 0 0], ngroups := 1,
    regblk := 128, gteam := 0, desc := 0, graphics := false, poolRight := true, sump := false, scrSize := 65536, scrRow := 0,
    scrRows := rowsFor 65536 12, hiwater := 0, scratch := [], scrBase := 65536, scrDraw := s.draws, poolw := some 0,
    arrivals := [], barcAt := none, gridAt := none, latch := none, planAt := none, edited := false, gangCount := 0 }

/-- The task of the placed unit. -/
def wordTask (strand : Bool) : Task :=
  { ctx := 0, rec_ := { desc := 0, flags := 0, tag := 0, dep0 := 0, dep1 := 0, clw := if strand then 0 else 1, clh := if strand then 0 else 1,
                        count := 1, args := 0, bad := false },
    src := .pool, slot := .none, die := 0, depth := 0, st := .started, desc := [], args := [], placed := 1, live := 1, units := 1,
    mheld := false, status := 0, reason := 0, deq := false, barriers := 0, lastVote := false, phase := [], fault := none }

/-- The cluster of the placed team. -/
def wordCluster (s : State) (key : Nat) : Cluster :=
  { task := s.nextTask, ctx := 0, origin := 0, w := 1, h := 1, index := 0, teams := [(0, key)], sweeps := [] }

/-- The context of the placed unit, if none with its number is resident. -/
def wordCtx : Ctx :=
  { dies := 1, taking := true, ptroot := 0, sumpto := 0, lret := 0, lretlog := 4, lretidx := 0, queues := [], lastQueue := 15 }

/-- The translation of the page that holds the line. -/
def wordTlb : Tlb := { ctx := 0, va := 0, lg := 21, pa := 0, w := true, x := true }

/-- A unit is placed whose next instruction is the first of the line. -/
def placeWordUnit (s : State) (strand : Bool) : State :=
  let key := (s.nextTeam + 1) * 8192
  let mask : Mask := if strand then 1 else BitVec.allOnes 32
  let un := newUnit (wordWhere strand key s.nextTask) mask (dw (wordBase + 2)) [] (lanes32.map (fun l => (l, lfsrSeed 0 l))) s.now
  let u := if strand then strandUid 0 else groupUid 0 0
  { s with
    units := Tab.put s.units u un
    teams := if strand then s.teams else Tab.put s.teams key (wordTeam s)
    nextTeam := s.nextTeam + 1
    clusters := if strand then s.clusters else Tab.put s.clusters s.nextCluster (wordCluster s key)
    nextCluster := s.nextCluster + 1
    tasks := Tab.put s.tasks s.nextTask (wordTask strand)
    nextTask := s.nextTask + 1
    ctxs := if (s.ctx? 0).isSome then s.ctxs else Tab.put s.ctxs 0 wordCtx
    agenda := [.issue u] }

/-- The line is stored, and the caches of the unit's core translate its page and hold no older copy of it. -/
def placeWordLine (s : State) (strand : Bool) (line : List Byte) : State :=
  let s := { s with mem := (run wordBase line).foldl (fun (m : Tab Byte) (w : Nat × Byte) => Tab.set 0 m w.1 w.2) s.mem }
  let other (e : Nat × DWord × List Byte) : Bool := !(decide (e.1 = 0) && decide (e.2.1 = dw wordBase))
  if strand then s.modScore 0 (fun c => { c with itlb := wordTlb :: c.itlb, dtlb := wordTlb :: c.dtlb, lines := c.lines.filter other })
  else s.modCore 0 (fun c => { c with tlb := wordTlb :: c.tlb, icache := c.icache.filter other })

/-- The state with an instruction, numbered as the opcode table numbers its bits, stored where the next step fetches (the host's fixed name): a program comes to run by being loaded from outside, as a task in a queue. -/
def State.withFetchWord (s : State) (nbits w : Nat) : State :=
  let strand := match decodeTableWord nbits w with
    | some i => decide (i.cls = .s)
    | none => false
  placeWordLine (placeWordUnit s strand) strand (lineOf (codeOfTableWord (w % 2 ^ nbits)) true)

end Sys2Proof.Machine
end

