-- ==== Sys2Proof/Safety.lean ====
section
/-! DEFINITION. What counts as a good state and a safe run, and the terms the statements are written in. -/

namespace Sys2Proof.Safety

open Sys2Proof.Machine

/-! Good states -/

/-- The global memory of a state is in its canonical form. -/
def MemoryOk (s : State) : Prop := Memory.wf s.mem = true

/-- No fault and no refusal within n steps. -/
def SafeFor (n : Nat) (s : State) : Prop := ∃ t, Sys2Proof.core.run n s = .next t

/-- A run of any length goes on. -/
def Safe (s : State) : Prop := ∀ n, SafeFor n s

/-! What an instruction that acts leaves behind -/

/-- The instruction acts: a unit is issuing, its running split has a lane whose guard passes, the form is legal in it, and no
register, port, queue or order makes it wait. -/
def Acts (i : Instr) (s : State) (c : Issue) : Prop := ready i s = .acts c

/-- It writes one word per lane to d, retires, and its split goes on. -/
def wrote (s : State) (c : Issue) (d : Operand) (f : Nat → Word) : State := finish c (writeOp s c.u d c.lanes f)

/-- It writes a pair to d, retires, and its split goes on. -/
def wrotePair (s : State) (c : Issue) (d : Operand) (f : Nat → DWord) : State := finish c (writePair s c.u d c.lanes f)

/-- It writes a predicate, retires, and its split goes on. -/
def wrotePred (s : State) (c : Issue) (pd : Fin 16) (f : Nat → Bool) : State :=
  finish c (s.modUnit c.u (fun un => writeP un pd c.lanes f))

/-- Conditions were raised in its lanes and none of them traps: flags are set, one word per lane is written, it retires. -/
def wroteFlags (s : State) (c : Issue) (d : Operand) (f : Nat → FRes) : State :=
  finish c (writeOp (s.modUnit c.u (fun un => orFlags un c.lanes (fun l => (f l).2))) c.u d c.lanes (fun l => w32 (f l).1))

/-- As wroteFlags, for a comparison into pD combined with pK. -/
def comparedFlags (s : State) (c : Issue) (pd pk : Fin 16) (or : Bool) (f : Nat → Bool × Nat) : State :=
  wrotePred (s.modUnit c.u (fun un => orFlags un c.lanes (fun l => (f l).2))) c pd
    (fun l => if or then (f l).1 || readP c.un pk l else (f l).1 && readP c.un pk l)

/-- A long-latency producer starts: flags are set, its destinations have a producer pending, its words stand by, it retires. -/
def started (s : State) (c : Issue) (f : Nat → List Nat × Nat) : State :=
  let o := { newOp c c.lanes s.now with dests := destRegs c.instr }
  let o := (lanesOf c.lanes).foldl (fun o l => (f l).1.zipIdx.foldl (fun o v => o.setWord l v.2 (w32 v.1)) o) o
  finish c (startOp (s.modUnit c.u (fun un => orFlags un c.lanes (fun l => (f l).2))) c.u o .producerCompletion)

/-- No lane of the instruction has an enabled trap condition among those raised. -/
def NoTrap (c : Issue) (fl : Nat → Nat) : Prop := trapLanes c.un c.lanes fl = 0

/-! Accesses as the spec describes them (files 08 and 09) -/

/-- The LD row of Table 8-4: Wide(s) + ext(base) + sext(off), mod 2^64. -/
def wideAddr (base s : Operand) (off : BitVec 16) (a64 : Bool) (st : State) (c : Issue) (l : Nat) : DWord :=
  BitVec.ofInt 64 ((c.dword st l s).toNat + (if a64 then (c.dword st l base).toNat else (c.word st l base).toNat : Nat) + off.toInt)

/-- The LDS row of Table 8-4: n(base) + sext(off), mod 2^32. -/
def nearAddr (base : Operand) (off : BitVec 16) (st : State) (c : Issue) (l : Nat) : DWord :=
  BitVec.ofNat 64 (((c.word st l base).toNat + off.toInt) % 2 ^ 32).toNat

/-- The n data registers from d on, as a lane reads them. -/
def dataWords (d : Operand) (n : Nat) (st : State) (c : Issue) (l : Nat) : List Word :=
  (List.range n).map (fun k => c.word st l (Operand.next d k))

/-- The split issues its access now, none of its accesses waits for translation, and R364 does not forbid it. -/
def Fresh (s : State) (c : Issue) (global : Bool) : Prop :=
  c.sp.stage = 0 ∧ pendingAccess c.un c.e = none ∧ (global = true → computePhase s c.un = false)

/-- The lanes an access has still to perform (R161). -/
def toPerform (c : Issue) (sh : Shape) : Mask := if sh.byLane then c.lanes &&& ~~~skipped c.un c.sp else c.lanes

/-- The state once an access has issued and is to be checked. -/
def issuedIn (s : State) (c : Issue) (sh : Shape) (addr : Nat → DWord) (data : Nat → List Word) : State :=
  beginAccess c (if decide (sh.space = .glob) && sh.load then countLoad s c.un else s) (toPerform c sh) addr data
    (if sh.load then destRegs c.instr else [])

/-- An access stands among the unit's outstanding operations, with its lanes, addresses, data and destinations. -/
def Stands (c : Issue) (s1 : State) (q : Mask) (addr : Nat → DWord) (data : Nat → List Word) (dests : List Operand)
    (un : UnitSt) (o : Op) : Prop :=
  s1.unit? c.u = some un ∧ Tab.find? un.ops c.un.nextOp = some o ∧ o.instr = c.instr ∧ o.pc = c.sp.pc ∧ o.lanes = q ∧ o.dests = dests ∧
    ∀ l ∈ lanesOf q, o.at_ l = addr l ∧ o.words l (data l).length = data l

/-- Every lane passes its checks, at the places given. -/
def AllPass (s1 : State) (c : Issue) (sh : Shape) (addr : Nat → DWord) (place : Nat → Place) : Prop :=
  ∀ l ∈ lanesOf c.lanes, checkLane s1 c c.sp sh.space sh.load (!sh.load) (addr l) (typeBytes sh.ty) = .ok (place l)

/-- Lane f is the lowest that fails; every other passes or fails. -/
def FirstFails (s1 : State) (c : Issue) (sh : Shape) (addr : Nat → DWord) (f cause : Nat) (at_ : DWord) (refused : Bool) : Prop :=
  let r (l : Nat) : LaneChk := checkLane s1 c c.sp sh.space sh.load (!sh.load) (addr l) (typeBytes sh.ty)
  f ∈ lanesOf c.lanes ∧ r f = .bad cause at_ refused ∧ (∀ l ∈ lanesOf c.lanes, l < f → ∃ p, r l = .ok p) ∧
    ∀ l ∈ lanesOf c.lanes, (∃ p, r l = .ok p) ∨ ∃ k a b, r l = .bad k a b

/-- A load issues, and where every lane passes its checks it is in flight and retires (R155, R159, R160, R161). -/
def LoadIssues (i : Instr) (sh : Shape) (addr : State → Issue → Nat → DWord) : Prop :=
  ∀ s c (place : Nat → Place), Acts i s c → Fresh s c (decide (sh.space = .glob)) →
    let s1 := issuedIn s c sh (addr s c) (fun _ => [])
    ∃ un o, Stands c s1 (toPerform c sh) (addr s c) (fun _ => []) (destRegs i) un o ∧
      let c1 := { c with un := un, lanes := o.lanes }
      (AllPass s1 c1 sh (addr s c) place → exec i s = .next (finish c
        (launchAccess c1 (if sh.byLane then clearDone s1 c.u else s1) c.un.nextOp
          { o with place := (lanesOf o.lanes).map (fun l => (l, place l)), stage := 0 } true)))

/-- A store issues, and where every lane passes its checks and no conversion traps it is in flight and retires. -/
def StoreIssues (i : Instr) (sh : Shape) (d : Operand) (addr : State → Issue → Nat → DWord) : Prop :=
  ∀ s c (place : Nat → Place), Acts i s c → Fresh s c (decide (sh.space = .glob)) →
    let data := dataWords d sh.ty.regs s c
    let s1 := issuedIn s c sh (addr s c) data
    ∃ un o, Stands c s1 (toPerform c sh) (addr s c) data [] un o ∧
      let c1 := { c with un := un, lanes := o.lanes }
      let flags (l : Nat) : Nat := (storeValue sh.ty sh.sat (o.words l 4)).2
      let s2 := (dropOp (if sh.byLane then clearDone s1 c.u else s1) c.u c.un.nextOp).modUnit c.u (fun un => orFlags un o.lanes flags)
      (AllPass s1 c1 sh (addr s c) place → NoTrap c1 flags → exec i s = .next (finish c
        (if o.lanes = 0 then s2 else launchAccess c1 s2 c.un.nextOp
          { o with place := (lanesOf o.lanes).map (fun l => (l, place l)), stage := 0 } false)))

/-- An access with a lane that fails performs nothing: its operation stays under the fault, and its split traps with the cause and
address of the lowest failing lane and an empty done mask (R160). -/
def AllOrNothing (i : Instr) (sh : Shape) (addr : State → Issue → Nat → DWord) (data : State → Issue → Nat → List Word) : Prop :=
  ∀ s c un f cause at_ refused, Acts i s c → Fresh s c (decide (sh.space = .glob)) →
    let s1 := issuedIn s c sh (addr s c) (data s c)
    s1.unit? c.u = some un →
    FirstFails s1 { c with un := un } sh (addr s c) f cause at_ refused →
    ∃ o, Tab.find? un.ops c.un.nextOp = some o ∧ exec i s = .next
      (takeTrap (putOp s1 c.u c.un.nextOp { o with stage := 2 }) c.u c.e
        { cause := cause, pc := c.sp.pc, addr := at_, done := 0, flags := b2n (!sh.load) + 8 * b2n refused })

/-- An atomic issues, and where every lane passes its checks it is in flight and retires (R167, R168). -/
def AtomicIssues (i : Instr) (space : Space) (m : AtomMod) (n : Nat) (returns : Bool) (d : Operand)
    (addr : State → Issue → Nat → DWord) : Prop :=
  ∀ s c (place : Nat → Place), Acts i s c → Fresh s c (decide (space = .glob)) →
    let s1 := beginAccess c s c.lanes (addr s c) (dataWords d n s c) (if returns then destRegs i else [])
    ∃ un o, Stands c s1 c.lanes (addr s c) (dataWords d n s c) (if returns then destRegs i else []) un o ∧
      ((∀ l ∈ lanesOf c.lanes, checkAtomic s1 { c with un := un } space (addr s c l) (if m.b64 then 8 else 4) = .ok (place l)) →
        exec i s = .next (finish c (launchAccess { c with un := un } s1 c.un.nextOp
          { o with place := (lanesOf c.lanes).map (fun l => (l, place l)), stage := 0 } returns)))

/-- CMPST and EXPLD issue; their elements follow one another from the cursor on, lane by lane, and where each passes its checks the
access is in flight, with the count that the cursor takes on completion behind the last element (R162). -/
def PackedIssues (i : Instr) (load : Bool) (ty : MType) (d base sr : Operand) (off : BitVec 16) : Prop :=
  ∀ s c (place : Nat → Place), Acts i s c → Fresh s c true →
    let b := BitVec.ofInt 64 ((c.dword s c.low base).toNat + off.toInt)
    let n0 := (c.word s c.low sr).toNat
    let sh : Shape := ⟨.glob, load, ty, false, true⟩
    let addr (l : Nat) : DWord :=
      BitVec.ofNat 64 (b.toNat + (n0 + (lanesOf c.lanes).countP (fun k => decide (k < l))) * typeBytes ty)
    let data (l : Nat) : List Word := if load then [] else dataWords d ty.regs s c l
    let s1 := beginAccess c (if load then countLoad s c.un else s) (toPerform c sh) addr data (destRegs i)
    b.toNat % typeBytes ty = 0 →
    ∃ un o, Stands c s1 (toPerform c sh) addr data (destRegs i) un o ∧
      let o := { o with count := n0 + (lanesOf c.lanes).length }
      let s2 := putOp s1 c.u c.un.nextOp o
      let c1 := { c with un := { un with ops := Tab.put un.ops c.un.nextOp o }, lanes := o.lanes }
      (AllPass s2 c1 sh addr place → exec i s = .next (finish c (launchAccess c1 s2 c.un.nextOp
        { o with place := (lanesOf o.lanes).map (fun l => (l, place l)), stage := 0 } true)))

/-- PREF, CINV, CWB and CFLUSH start for the lanes whose line translates without a walk; the others are dropped (R163, R178). -/
def LineIssues (i : Instr) (base sr : Operand) (off : BitVec 16) (a64 : Bool) (counted : Bool) : Prop :=
  ∀ s c, Acts i s c → computePhase s c.un = false →
    let places : Tab Place := (lanesOf c.lanes).filterMap (fun l =>
      match checkGlobal s c.un [] false false (wideAddr base sr off a64 s c l).toNat 1 with
      | .ok pa => some (l, .glob pa)
      | _ => none)
    exec i s = .next (finish c (startOp (if counted then countLoad s c.un else s) c.u
      { newOp c (maskOf (fun l => (places.map (·.1)).contains l)) s.now with
        holders := [c.e], place := places, addr := places.map (fun e => (e.1, wideAddr base sr off a64 s c e.1)) } .storeCompletion))

/-! Frames: what an instruction leaves as it was -/

/-- What a register instruction may write: v, s and loop registers, predicates, and the flags and random state of its lanes. -/
structure Results where
  regs : List Operand := []
  preds : List (Fin 16) := []
  flags : Bool := false
  /-- It takes lanes from ctl.donemask (R161). -/
  done : Bool := false

/-- The results of the control, integer, float and exchange instructions (files 05 to 08). -/
def results : Instr → Option Results
  | .iadd y => some { regs := [y.d] }
  | .isub y => some { regs := [y.d] }
  | .iaddc y => some { regs := [y.d], preds := [y.pk] }
  | .isubb y => some { regs := [y.d], preds := [y.pk] }
  | .iaddi y => some { regs := [y.d] }
  | .ineg y => some { regs := [y.d] }
  | .iabs y => some { regs := [y.d] }
  | .iadd64 y => some { regs := [y.d, Operand.next y.d 1] }
  | .isub64 y => some { regs := [y.d, Operand.next y.d 1] }
  | .iaddi64 y => some { regs := [y.d, Operand.next y.d 1] }
  | .imin y => some { regs := [y.d] }
  | .imax y => some { regs := [y.d] }
  | .icmpp y => some { preds := [y.pd] }
  | .icmppi y => some { preds := [y.pd] }
  | .sel y => some { regs := [y.d] }
  | .and_ y => some { regs := [y.d] }
  | .or_ y => some { regs := [y.d] }
  | .xor_ y => some { regs := [y.d] }
  | .not_ y => some { regs := [y.d] }
  | .andi y => some { regs := [y.d] }
  | .ori y => some { regs := [y.d] }
  | .xori y => some { regs := [y.d] }
  | .shl y => some { regs := [y.d] }
  | .shr y => some { regs := [y.d] }
  | .sar y => some { regs := [y.d] }
  | .rol y => some { regs := [y.d] }
  | .ror y => some { regs := [y.d] }
  | .shli y => some { regs := [y.d] }
  | .shri y => some { regs := [y.d] }
  | .sari y => some { regs := [y.d] }
  | .popc y => some { regs := [y.d] }
  | .clz y => some { regs := [y.d] }
  | .ctz y => some { regs := [y.d] }
  | .brev y => some { regs := [y.d] }
  | .mov y => some { regs := if y.m then [y.d, Operand.next y.d 1] else [y.d] }
  | .movi y => some { regs := [y.d] }
  | .movhi y => some { regs := [y.d] }
  | .movk y => some { regs := if y.m = .w32 then [y.d] else [y.d, Operand.next y.d 1] }
  | .lea y => some { regs := [y.d, Operand.next y.d 1] }
  | .shl64 y => some { regs := [y.d, Operand.next y.d 1] }
  | .shr64 y => some { regs := [y.d, Operand.next y.d 1] }
  | .sar64 y => some { regs := [y.d, Operand.next y.d 1] }
  | .icmpp64 y => some { preds := [y.pd] }
  | .imul y => some { regs := [y.d] }
  | .imulhi y => some { regs := [y.d] }
  | .imad y => some { regs := [y.d] }
  | .imulw y => some { regs := [y.d, Operand.next y.d 1] }
  | .imadw y => some { regs := [y.d, Operand.next y.d 1] }
  | .divstep y => some { regs := [y.d, Operand.next y.d 1] }
  | .divinit y => some { regs := [y.d, Operand.next y.d 1] }
  | .bfx y => some { regs := [y.d] }
  | .bfi y => some { regs := [y.d] }
  | .fadd y => some { regs := [y.d], flags := true }
  | .fsub y => some { regs := [y.d], flags := true }
  | .fmul y => some { regs := [y.d], flags := true }
  | .ffma y => some { regs := [y.d], flags := true }
  | .fmin y => some { regs := [y.d], flags := true }
  | .fmax y => some { regs := [y.d], flags := true }
  | .fcmpp y => some { preds := [y.pd], flags := true }
  | .fabs y => some { regs := [y.d] }
  | .fneg y => some { regs := [y.d] }
  | .fclass y => some { regs := [y.d] }
  | .badd y => some { regs := [y.d], flags := true }
  | .bsub y => some { regs := [y.d], flags := true }
  | .bmul y => some { regs := [y.d], flags := true }
  | .bfma y => some { regs := [y.d], flags := true }
  | .bpadd y => some { regs := [y.d], flags := true }
  | .bpsub y => some { regs := [y.d], flags := true }
  | .bpmul y => some { regs := [y.d], flags := true }
  | .bpfma y => some { regs := [y.d], flags := true }
  | .bpmin y => some { regs := [y.d], flags := true }
  | .bpmax y => some { regs := [y.d], flags := true }
  | .bmin y => some { regs := [y.d], flags := true }
  | .bmax y => some { regs := [y.d], flags := true }
  | .bcmpp y => some { preds := [y.pd], flags := true }
  | .faddi y => some { regs := [y.d], flags := true }
  | .fmuli y => some { regs := [y.d], flags := true }
  | .ffmai y => some { regs := [y.d], flags := true }
  | .rcp y => some { regs := [y.d], flags := true }
  | .rsq y => some { regs := [y.d], flags := true }
  | .sqrt y => some { regs := [y.d], flags := true }
  | .exp2 y => some { regs := [y.d], flags := true }
  | .log2 y => some { regs := [y.d], flags := true }
  | .tanh y => some { regs := [y.d], flags := true }
  | .sint y => some { regs := [y.d], flags := true }
  | .cost y => some { regs := [y.d], flags := true }
  | .sincost y => some { regs := [y.d, Operand.next y.d 1], flags := true }
  | .cvtfh y => some { regs := [y.d], flags := true }
  | .packh y => some { regs := [y.d], flags := true }
  | .cvthf y => some { regs := [y.d], flags := true }
  | .cvtf8 y => some { regs := [y.d], flags := true }
  | .cvtf4 y => some { regs := [y.d], flags := true }
  | .cvt8f y => some { regs := [y.d], flags := true }
  | .cvt4f y => some { regs := [y.d], flags := true }
  | .mxpack y => some { regs := [y.d], flags := true }
  | .mxunpk y => some { regs := [y.d], flags := true }
  | .cvtfi y => some { regs := if y.m.ty.wide then [y.d, Operand.next y.d 1] else [y.d], flags := true }
  | .cvtif y => some { regs := [y.d], flags := true }
  | .cvtii y => some { regs := [y.d] }
  | .shfl y => some { regs := [y.d] }
  | .shflx y => some { regs := [y.d] }
  | .shflup y => some { regs := [y.d] }
  | .shfldn y => some { regs := [y.d] }
  | .ballot y => some { regs := [y.d] }
  | .voteany y => some { preds := [y.pd] }
  | .voteall y => some { preds := [y.pd] }
  | .voteuni y => some { preds := [y.pd] }
  | .pscan y => some { regs := [y.d], flags := true }
  | .reduce y => some { regs := [y.d], flags := true }
  | .match_ y => some { regs := [y.d] }
  | .nop _ | .yield_ _ | .br _ | .jmpi _ | .ret _ | .brd _ | .brany _ | .brall _ | .trap _ => some {}
  | .call _ => some { regs := [.s 62, .s 63] }
  | .calli y => some { regs := [y.d, Operand.next y.d 1] }
  | .loop y => some { regs := [.lc y.n] }
  | .loopi y => some { regs := [.lc y.n] }
  | _ => none

/-- The results of the loads, stores, atomics and cache operations at their issue: the flags of a conversion, and the done mask. -/
def accessResults (i : Instr) : Option Results :=
  match i with
  | .cmpst _ | .expld _ => some {}
  | .pref _ | .cinv _ | .cwb _ | .cflush _ => some {}
  | i =>
    match shapeOf i, atomOf i with
    | some sh, _ => some { flags := !sh.load, done := sh.byLane }
    | none, some _ => some {}
    | none, none => none

/-- The instruction names no port and no engine queue. -/
def NoPorts (i : Instr) : Prop := ∀ x ∈ srcs i ++ dsts i, ∀ n, x.1 ≠ .q n ∧ x.1 ≠ .e n

/-- Every register of a unit but the results named keeps its value; a loop register may also count down at the end of a loop (R105). -/
def RegsKept (un un' : UnitSt) (r : Results) : Prop :=
  (∀ n : Fin 1024, ∀ l < 32, .v n ∉ r.regs → readV un' n.val l = readV un n.val l) ∧
  (∀ n : Fin 64, .s n ∉ r.regs → readS un' n.val = readS un n.val) ∧
  (∀ n : Fin 16, n ∉ r.preds → ∀ l, readP un' n l = readP un n l) ∧
  (un.nest = [] → ∀ n : Fin 4, .lc n ∉ r.regs → Tab.get 0 un'.regs.lc n.val = Tab.get 0 un.regs.lc n.val) ∧
  un'.regs.q = un.regs.q ∧ un'.eng = un.eng

/-- Every control register keeps its value but the counts of retirement and of the path, and what the results name. -/
def CtlKept (un un' : UnitSt) (r : Results) : Prop :=
  un'.ctl = { un.ctl with
    retired := un'.ctl.retired, pathsig := un'.ctl.pathsig, fpflags := un'.ctl.fpflags, lfsr := un'.ctl.lfsr, donemask := un'.ctl.donemask } ∧
  (r.flags = false → ∀ l, Tab.get 0 un'.ctl.fpflags l = Tab.get 0 un.ctl.fpflags l ∧ Tab.get 0 un'.ctl.lfsr l = Tab.get 0 un.ctl.lfsr l) ∧
  (r.done = false → un'.ctl.donemask = un.ctl.donemask)

/-- The frame of an instruction that has acted: every place of memory reads as before, no other unit has changed, and the unit keeps
every register but its results. With the debug right on the unit's cell traces, logs and watch halts may follow (file 19). -/
def Kept (s t : State) (c : Issue) (r : Results) : Prop :=
  (debugged s c.un = false → t.mem = s.mem ∧ (∀ p, rdPlace t p = rdPlace s p) ∧ (∀ k, (t.core k).ci = (s.core k).ci) ∧
    ∀ v, v ≠ c.u → t.unit? v = s.unit? v) ∧
  t.teams = s.teams ∧ (∀ k, (t.score k).local_ = (s.score k).local_) ∧ (∀ k, (t.core k).mx = (s.core k).mx) ∧
  t.tasks = s.tasks ∧ t.ctxs = s.ctxs ∧ t.mgmt = s.mgmt ∧
  ∃ un', t.unit? c.u = some un' ∧ RegsKept c.un un' r ∧ CtlKept c.un un' r

/-! Arithmetic as the spec writes it -/

/-- A word read as the overflow mode reads it: i(a), or n(a) under .SAT.N32. -/
def number (m : SatMode) (a : Word) : Int :=
  match m with
  | .satN32 => (a.toNat : Int)
  | _ => a.toInt

/-- Clamp of an exact result. -/
def limited (m : SatMode) (t : Int) : Int :=
  match m with
  | .wrap => t
  | .satI32 => max (-2 ^ 31) (min (2 ^ 31 - 1) t)
  | .satN32 => max 0 (min (2 ^ 32 - 1) t)

/-- n(a) or i(a). -/
def asInt {w : Nat} (uns : Bool) (a : BitVec w) : Int := if uns then (a.toNat : Int) else a.toInt

/-- Cmp of R109. -/
def cmpHolds (c : Cmp) (a b : Int) : Bool :=
  match c with
  | .eq => a == b
  | .ne => !(a == b)
  | .lt => decide (a < b)
  | .le => decide (a < b) || a == b
  | .gt => !(decide (a < b) || a == b)
  | .ge => !decide (a < b)

/-- The word whose bit i is f i. -/
def ofBits (f : Nat → Bool) : Word := BitVec.ofNat 32 (((List.range 32).map (fun i => if f i then 2 ^ i else 0)).sum)

/-- i(a) shifted right by k, floored; beyond the width only the sign is left. -/
def floorShift {w : Nat} (a : BitVec w) (k : Nat) : Int :=
  if k < w then a.toInt / 2 ^ k else if a.toInt < 0 then -1 else 0

end Sys2Proof.Safety
end

