-- ==== Sys2Proof/Certificates/Slice0/Obligations.lean ====
section
/-! DEFINITION. The statements for the provers, file by file of the spec. A statement of several parts names each part first. -/

section Statements

open Sys2Proof Sys2Proof.Machine Sys2Proof.Safety

/-- R115: IADD, ISUB, IADDI, INEG and IABS complete, and write the exact result clamped as the overflow mode says. -/
def Sys2Proof.Claims.AddSubtract : Prop :=
  (∀ y s c, Acts (.iadd y) s c → exec (.iadd y) s = .next (wrote s c y.d (fun l =>
    BitVec.ofInt 32 (limited y.m (number y.m (c.word s l y.a) + number y.m (c.word s l y.b)))))) ∧
  (∀ y s c, Acts (.isub y) s c → exec (.isub y) s = .next (wrote s c y.d (fun l =>
    BitVec.ofInt 32 (limited y.m (number y.m (c.word s l y.a) - number y.m (c.word s l y.b)))))) ∧
  (∀ y s c, Acts (.iaddi y) s c → exec (.iaddi y) s = .next (wrote s c y.d (fun l =>
    BitVec.ofInt 32 (limited y.m (number y.m (c.word s l y.a) + number y.m y.imm))))) ∧
  (∀ y s c, Acts (.ineg y) s c → exec (.ineg y) s = .next (wrote s c y.d (fun l =>
    BitVec.ofInt 32 (limited (if y.m then .satI32 else .wrap) (0 - (c.word s l y.a).toInt))))) ∧
  (∀ y s c, Acts (.iabs y) s c → exec (.iabs y) s = .next (wrote s c y.d (fun l =>
    BitVec.ofInt 32 (limited (if y.m then .satI32 else .wrap) |(c.word s l y.a).toInt|))))

/-- R116: IADDC and ISUBB complete; the carry or borrow comes from pK unless .C0 or .B0 is given, and goes to pK. -/
def Sys2Proof.Claims.CarryChain : Prop :=
  (∀ y s c, Acts (.iaddc y) s c →
    let t (l : Nat) : Nat := (c.word s l y.a).toNat + (c.word s l y.b).toNat + (if !y.m && readP c.un y.pk l then 1 else 0)
    exec (.iaddc y) s = .next (finish c ((writeOp s c.u y.d c.lanes (fun l => BitVec.ofNat 32 (t l))).modUnit c.u
      (fun un => writeP un y.pk c.lanes (fun l => decide (t l ≥ 2 ^ 32)))))) ∧
  (∀ y s c, Acts (.isubb y) s c →
    let t (l : Nat) : Int := ((c.word s l y.a).toNat : Int) - (c.word s l y.b).toNat - (if !y.m && readP c.un y.pk l then 1 else 0)
    exec (.isubb y) s = .next (finish c ((writeOp s c.u y.d c.lanes (fun l => BitVec.ofInt 32 (t l))).modUnit c.u
      (fun un => writeP un y.pk c.lanes (fun l => decide (t l < 0))))))

/-- R117: IADD64, ISUB64 and IADDI64 complete with the 64-bit sum or difference; both halves are written in the same step. -/
def Sys2Proof.Claims.WideAdd : Prop :=
  (∀ y s c, Acts (.iadd64 y) s c → exec (.iadd64 y) s = .next (wrotePair s c y.d (fun l =>
    BitVec.ofNat 64 ((c.dword s l y.a).toNat + (c.dword s l y.b).toNat)))) ∧
  (∀ y s c, Acts (.isub64 y) s c → exec (.isub64 y) s = .next (wrotePair s c y.d (fun l =>
    BitVec.ofInt 64 ((c.dword s l y.a).toInt - (c.dword s l y.b).toInt)))) ∧
  (∀ y s c, Acts (.iaddi64 y) s c → exec (.iaddi64 y) s = .next (wrotePair s c y.d (fun l =>
    BitVec.ofInt 64 ((c.dword s l y.a).toInt + y.imm.toInt))))

/-- The 32-bit and 64-bit adds, subtracts, negations and carry chains complete with their results. -/
def Obligations.AddsAndSubtracts : Prop :=
  Claims.AddSubtract ∧ Claims.CarryChain ∧ Claims.WideAdd

/-- R118: IMIN, IMAX and SEL complete with the smaller, the larger, or the operand that pK selects. -/
def Sys2Proof.Claims.MinMaxSelect : Prop :=
  (∀ y s c, Acts (.imin y) s c → exec (.imin y) s = .next (wrote s c y.d (fun l =>
    if asInt y.m (c.word s l y.a) ≤ asInt y.m (c.word s l y.b) then c.word s l y.a else c.word s l y.b))) ∧
  (∀ y s c, Acts (.imax y) s c → exec (.imax y) s = .next (wrote s c y.d (fun l =>
    if asInt y.m (c.word s l y.b) ≤ asInt y.m (c.word s l y.a) then c.word s l y.a else c.word s l y.b))) ∧
  (∀ y s c, Acts (.sel y) s c → exec (.sel y) s = .next (wrote s c y.d (fun l =>
    if readP c.un y.pk l then c.word s l y.a else c.word s l y.b)))

/-- R119 with R109: ICMPP, ICMPPI and ICMPP64 complete; the comparison is combined with pK by and or by or. -/
def Sys2Proof.Claims.IntegerCompare : Prop :=
  (∀ y s c, Acts (.icmpp y) s c → exec (.icmpp y) s = .next (wrotePred s c y.pd (fun l =>
    let r := cmpHolds y.m.cmp (asInt y.m.uns (c.word s l y.a)) (asInt y.m.uns (c.word s l y.b))
    if y.m.or then r || readP c.un y.pk l else r && readP c.un y.pk l))) ∧
  (∀ y s c, Acts (.icmppi y) s c → exec (.icmppi y) s = .next (wrotePred s c y.pd (fun l =>
    cmpHolds y.m.cmp (asInt y.m.uns (c.word s l y.a)) (asInt y.m.uns y.imm)))) ∧
  (∀ y s c, Acts (.icmpp64 y) s c → exec (.icmpp64 y) s = .next (wrotePred s c y.pd (fun l =>
    let r := cmpHolds y.m.cmp (asInt y.m.uns (c.dword s l y.a)) (asInt y.m.uns (c.dword s l y.b))
    if y.m.or then r || readP c.un y.pk l else r && readP c.un y.pk l)))

/-- R120: the logic instructions complete, bit by bit. -/
def Sys2Proof.Claims.Logic : Prop :=
  (∀ y s c, Acts (.and_ y) s c → exec (.and_ y) s = .next (wrote s c y.d (fun l =>
    ofBits (fun i => (c.word s l y.a).getLsbD i && (c.word s l y.b).getLsbD i)))) ∧
  (∀ y s c, Acts (.or_ y) s c → exec (.or_ y) s = .next (wrote s c y.d (fun l =>
    ofBits (fun i => (c.word s l y.a).getLsbD i || (c.word s l y.b).getLsbD i)))) ∧
  (∀ y s c, Acts (.xor_ y) s c → exec (.xor_ y) s = .next (wrote s c y.d (fun l =>
    ofBits (fun i => (c.word s l y.a).getLsbD i ^^ (c.word s l y.b).getLsbD i)))) ∧
  (∀ y s c, Acts (.not_ y) s c → exec (.not_ y) s = .next (wrote s c y.d (fun l =>
    ofBits (fun i => !(c.word s l y.a).getLsbD i)))) ∧
  (∀ y s c, Acts (.andi y) s c → exec (.andi y) s = .next (wrote s c y.d (fun l =>
    ofBits (fun i => (c.word s l y.a).getLsbD i && y.imm.getLsbD i)))) ∧
  (∀ y s c, Acts (.ori y) s c → exec (.ori y) s = .next (wrote s c y.d (fun l =>
    ofBits (fun i => (c.word s l y.a).getLsbD i || y.imm.getLsbD i)))) ∧
  (∀ y s c, Acts (.xori y) s c → exec (.xori y) s = .next (wrote s c y.d (fun l =>
    ofBits (fun i => (c.word s l y.a).getLsbD i ^^ y.imm.getLsbD i))))

/-- The minima, maxima, selects, integer comparisons and logic instructions complete with their results. -/
def Obligations.SelectsComparesLogic : Prop :=
  Claims.MinMaxSelect ∧ Claims.IntegerCompare ∧ Claims.Logic

/-- R121: the shifts and rotates complete, with an amount of the width or more as the table gives it. -/
def Sys2Proof.Claims.Shifts : Prop :=
  (∀ y s c, Acts (.shl y) s c → exec (.shl y) s = .next (wrote s c y.d (fun l =>
    let k := (c.word s l y.b).toNat
    if k < 32 then BitVec.ofNat 32 ((c.word s l y.a).toNat * 2 ^ k) else 0))) ∧
  (∀ y s c, Acts (.shr y) s c → exec (.shr y) s = .next (wrote s c y.d (fun l =>
    let k := (c.word s l y.b).toNat
    if k < 32 then BitVec.ofNat 32 ((c.word s l y.a).toNat / 2 ^ k) else 0))) ∧
  (∀ y s c, Acts (.sar y) s c → exec (.sar y) s = .next (wrote s c y.d (fun l =>
    BitVec.ofInt 32 (floorShift (c.word s l y.a) (c.word s l y.b).toNat)))) ∧
  (∀ y s c, Acts (.rol y) s c → exec (.rol y) s = .next (wrote s c y.d (fun l =>
    let k := (c.word s l y.b).toNat % 32
    (c.word s l y.a) <<< k ||| (c.word s l y.a) >>> (32 - k)))) ∧
  (∀ y s c, Acts (.ror y) s c → exec (.ror y) s = .next (wrote s c y.d (fun l =>
    let k := (c.word s l y.b).toNat % 32
    (c.word s l y.a) >>> k ||| (c.word s l y.a) <<< (32 - k)))) ∧
  (∀ y s c, Acts (.shli y) s c → exec (.shli y) s = .next (wrote s c y.d (fun l =>
    BitVec.ofNat 32 ((c.word s l y.a).toNat * 2 ^ y.m.val)))) ∧
  (∀ y s c, Acts (.shri y) s c → exec (.shri y) s = .next (wrote s c y.d (fun l =>
    BitVec.ofNat 32 ((c.word s l y.a).toNat / 2 ^ y.m.val)))) ∧
  (∀ y s c, Acts (.sari y) s c → exec (.sari y) s = .next (wrote s c y.d (fun l =>
    BitVec.ofInt 32 ((c.word s l y.a).toInt / 2 ^ y.m.val)))) ∧
  (∀ y s c, Acts (.shl64 y) s c → exec (.shl64 y) s = .next (wrotePair s c y.d (fun l =>
    let k := (c.word s l y.b).toNat
    if k < 64 then BitVec.ofNat 64 ((c.dword s l y.a).toNat * 2 ^ k) else 0))) ∧
  (∀ y s c, Acts (.shr64 y) s c → exec (.shr64 y) s = .next (wrotePair s c y.d (fun l =>
    let k := (c.word s l y.b).toNat
    if k < 64 then BitVec.ofNat 64 ((c.dword s l y.a).toNat / 2 ^ k) else 0))) ∧
  (∀ y s c, Acts (.sar64 y) s c → exec (.sar64 y) s = .next (wrotePair s c y.d (fun l =>
    BitVec.ofInt 64 (floorShift (c.dword s l y.a) (c.word s l y.b).toNat))))

/-- R122: the bit counts and the reversal complete. -/
def Sys2Proof.Claims.BitCounts : Prop :=
  (∀ y s c, Acts (.popc y) s c → exec (.popc y) s = .next (wrote s c y.d (fun l =>
    BitVec.ofNat 32 ((List.range 32).countP (fun i => (c.word s l y.a).getLsbD i))))) ∧
  (∀ y s c, Acts (.clz y) s c → exec (.clz y) s = .next (wrote s c y.d (fun l =>
    BitVec.ofNat 32 (((List.range 32).find? (fun i => (c.word s l y.a).getLsbD (31 - i))).getD 32)))) ∧
  (∀ y s c, Acts (.ctz y) s c → exec (.ctz y) s = .next (wrote s c y.d (fun l =>
    BitVec.ofNat 32 (((List.range 32).find? (fun i => (c.word s l y.a).getLsbD i)).getD 32)))) ∧
  (∀ y s c, Acts (.brev y) s c → exec (.brev y) s = .next (wrote s c y.d (fun l =>
    ofBits (fun i => (c.word s l y.a).getLsbD (31 - i)))))

/-- R127: BFX and BFI complete. -/
def Sys2Proof.Claims.BitFields : Prop :=
  (∀ y s c, Acts (.bfx y) s c → exec (.bfx y) s = .next (wrote s c y.d (fun l =>
    let pos := (c.word s l y.b).toNat % 256
    let len := min ((c.word s l y.b).toNat / 256 % 256) 32
    ofBits (fun i =>
      if y.m then decide (0 < len) && (c.word s l y.a).getLsbD (min (pos + min i (len - 1)) 31)
      else decide (i < len) && (c.word s l y.a).getLsbD (pos + i))))) ∧
  (∀ y s c, Acts (.bfi y) s c → exec (.bfi y) s = .next (wrote s c y.d (fun l =>
    let pos := (c.word s l y.b).toNat % 256
    let len := min ((c.word s l y.b).toNat / 256 % 256) 32
    ofBits (fun i => if pos ≤ i ∧ i < pos + len then (c.word s l y.a).getLsbD (i - pos) else (c.word s l y.c).getLsbD i))))

/-- The shifts, rotates, bit counts and bit fields complete with their results. -/
def Obligations.ShiftsCountsFields : Prop :=
  Claims.Shifts ∧ Claims.BitCounts ∧ Claims.BitFields

/-- R123 and R124: the moves and LEA complete. -/
def Sys2Proof.Claims.MovesAndAddresses : Prop :=
  (∀ y s c, Acts (.mov y) s c → exec (.mov y) s = .next
    (if y.m then wrotePair s c y.d (fun l => c.dword s l y.a) else wrote s c y.d (fun l => c.word s l y.a))) ∧
  (∀ y s c, Acts (.movi y) s c → exec (.movi y) s = .next (wrote s c y.d (fun _ => BitVec.ofInt 32 y.imm.toInt))) ∧
  (∀ y s c, Acts (.movhi y) s c → exec (.movhi y) s = .next (wrote s c y.d (fun _ => BitVec.ofNat 32 (y.imm.toNat * 2 ^ 16)))) ∧
  (∀ y s c, Acts (.movk y) s c → exec (.movk y) s = .next
    (match y.m with
     | .w32 => wrote s c y.d (fun _ => y.imm)
     | .sx64 => wrotePair s c y.d (fun _ => BitVec.ofInt 64 y.imm.toInt)
     | .zx64 => wrotePair s c y.d (fun _ => BitVec.ofNat 64 y.imm.toNat))) ∧
  (∀ y s c, Acts (.lea y) s c → exec (.lea y) s = .next (wrotePair s c y.d (fun l =>
    BitVec.ofInt 64 ((c.dword s l y.a).toInt + asInt y.m.uns (c.word s l y.b) * 2 ^ y.m.k.val))))

/-- R125: the multiply family completes; each product is exact before it is reduced. -/
def Sys2Proof.Claims.Multiply : Prop :=
  (∀ y s c, Acts (.imul y) s c → exec (.imul y) s = .next (wrote s c y.d (fun l =>
    BitVec.ofNat 32 ((c.word s l y.a).toNat * (c.word s l y.b).toNat)))) ∧
  (∀ y s c, Acts (.imulhi y) s c → exec (.imulhi y) s = .next (wrote s c y.d (fun l =>
    BitVec.ofInt 32 (asInt y.m (c.word s l y.a) * asInt y.m (c.word s l y.b) / 2 ^ 32)))) ∧
  (∀ y s c, Acts (.imad y) s c → exec (.imad y) s = .next (wrote s c y.d (fun l =>
    BitVec.ofNat 32 ((c.word s l y.a).toNat * (c.word s l y.b).toNat + (c.word s l y.c).toNat)))) ∧
  (∀ y s c, Acts (.imulw y) s c → exec (.imulw y) s = .next (wrotePair s c y.d (fun l =>
    BitVec.ofInt 64 (asInt y.m (c.word s l y.a) * asInt y.m (c.word s l y.b))))) ∧
  (∀ y s c, Acts (.imadw y) s c → exec (.imadw y) s = .next (wrotePair s c y.d (fun l =>
    BitVec.ofInt 64 (asInt y.m (c.word s l y.a) * asInt y.m (c.word s l y.b) + asInt y.m (c.dword s l y.c)))))

/-- The moves, address sums and multiplies complete with their results. -/
def Obligations.MovesAndMultiplies : Prop :=
  Claims.MovesAndAddresses ∧ Claims.Multiply

/-- R126: DIVINIT and DIVSTEP complete. -/
def Sys2Proof.Claims.DivideSteps : Prop :=
  (∀ y s c, Acts (.divinit y) s c → exec (.divinit y) s = .next (wrotePair s c y.d (fun l =>
    if y.m then BitVec.ofNat 64 (c.word s l y.a).toInt.natAbs else BitVec.ofNat 64 (c.word s l y.a).toNat))) ∧
  (∀ y s c, Acts (.divstep y) s c → exec (.divstep y) s = .next (wrotePair s c y.d (fun l =>
    let r := Nat.repeat (fun (st : Nat × Nat) =>
      let t := 2 * st.2 + st.1 / 2 ^ 31
      let q := st.1 * 2 % 2 ^ 32
      if (c.word s l y.b).toNat ≤ t then (q + 1, (t - (c.word s l y.b).toNat) % 2 ^ 32) else (q, t % 2 ^ 32))
      (2 ^ y.m.val) ((loWord (c.dword s l y.a)).toNat, (hiWord (c.dword s l y.a)).toNat)
    BitVec.ofNat 64 (r.1 + 2 ^ 32 * r.2))))

/-- R126: DIVINIT and steps that develop 32 bits in all give the quotient and the remainder; with divisor 0, all ones and x. -/
def Sys2Proof.Claims.DivisionExact : Prop :=
  ∀ (x d : Word) (ks : List (Fin 4)), (ks.map (fun k => 2 ^ k.val)).sum = 32 →
    ks.foldl (fun a k => divStep k.val a d) (divInit false x) =
      if d = 0 then pair (BitVec.allOnes 32) x else pair (x / d) (x % d)

/-- DIVINIT and DIVSTEP complete, and 32 developed bits give quotient and remainder. -/
def Obligations.Division : Prop :=
  Claims.DivideSteps ∧ Claims.DivisionExact

/-- R134, FP32: addition, subtraction, multiplication and fused multiply-add complete with the once-rounded result where no
enabled condition is raised. -/
def Sys2Proof.Claims.FloatArithmetic : Prop :=
  let src (z : Bool) (n : Nat) : FV := fmtF32.input z n
  (∀ y s c, Acts (.fadd y) s c →
    let r (l : Nat) := fmtF32.add (c.mode y.m.rnd) y.m.ftz (src y.m.ftz (f32Src y.nar y.nar.a (c.nat s l y.a)))
      (src y.m.ftz (f32Src y.nar y.nar.b (c.nat s l y.b)))
    NoTrap c (fun l => (r l).2) → exec (.fadd y) s = .next (wroteFlags s c y.d r)) ∧
  (∀ y s c, Acts (.fsub y) s c →
    let r (l : Nat) := fmtF32.add (c.mode y.m.rnd) y.m.ftz (src y.m.ftz (f32Src y.nar y.nar.a (c.nat s l y.a)))
      (src y.m.ftz (f32Src y.nar y.nar.b (c.nat s l y.b))).neg
    NoTrap c (fun l => (r l).2) → exec (.fsub y) s = .next (wroteFlags s c y.d r)) ∧
  (∀ y s c, Acts (.fmul y) s c →
    let r (l : Nat) := fmtF32.mul (c.mode y.m.rnd) y.m.ftz (src y.m.ftz (f32Src y.nar y.nar.a (c.nat s l y.a)))
      (src y.m.ftz (f32Src y.nar y.nar.b (c.nat s l y.b)))
    NoTrap c (fun l => (r l).2) → exec (.fmul y) s = .next (wroteFlags s c y.d r)) ∧
  (∀ y s c, Acts (.ffma y) s c →
    let r (l : Nat) := fmtF32.fma (c.mode y.m.rnd) y.m.ftz (src y.m.ftz (f32Src y.nar y.nar.a (c.nat s l y.a)))
      (src y.m.ftz (f32Src y.nar y.nar.b (c.nat s l y.b))) (src y.m.ftz (c.nat s l y.c))
    NoTrap c (fun l => (r l).2) → exec (.ffma y) s = .next (wroteFlags s c y.d r)) ∧
  (∀ y s c, Acts (.faddi y) s c →
    let r (l : Nat) := fmtF32.add (c.mode y.m.rnd) y.m.ftz (src y.m.ftz (c.nat s l y.a)) (src y.m.ftz y.imm.toNat)
    NoTrap c (fun l => (r l).2) → exec (.faddi y) s = .next (wroteFlags s c y.d r)) ∧
  (∀ y s c, Acts (.fmuli y) s c →
    let r (l : Nat) := fmtF32.mul (c.mode y.m.rnd) y.m.ftz (src y.m.ftz (c.nat s l y.a)) (src y.m.ftz y.imm.toNat)
    NoTrap c (fun l => (r l).2) → exec (.fmuli y) s = .next (wroteFlags s c y.d r)) ∧
  (∀ y s c, Acts (.ffmai y) s c →
    let r (l : Nat) := fmtF32.fma (c.mode y.m.rnd) y.m.ftz (src y.m.ftz (c.nat s l y.a)) (src y.m.ftz y.imm.toNat)
      (src y.m.ftz (c.nat s l y.b))
    NoTrap c (fun l => (r l).2) → exec (.ffmai y) s = .next (wroteFlags s c y.d r))

/-- R134, BF16 and BF16 pairs: the same in bits 15 to 0, or in both halves with the flags united. -/
def Sys2Proof.Claims.Bf16Arithmetic : Prop :=
  let src (z : Bool) (n : Nat) : FV := fmtBf16.input z n
  let both (f : (Nat → Nat) → FRes) : FRes :=
    ((f (fun w => w % 65536)).1 + 65536 * (f (fun w => w / 65536 % 65536)).1,
      (f (fun w => w % 65536)).2 ||| (f (fun w => w / 65536 % 65536)).2)
  (∀ y s c, Acts (.badd y) s c →
    let r (l : Nat) := fmtBf16.add (c.mode y.m.rnd) y.m.ftz (src y.m.ftz (bf16Src y.nar y.nar.a (c.nat s l y.a)))
      (src y.m.ftz (bf16Src y.nar y.nar.b (c.nat s l y.b)))
    NoTrap c (fun l => (r l).2) → exec (.badd y) s = .next (wroteFlags s c y.d r)) ∧
  (∀ y s c, Acts (.bsub y) s c →
    let r (l : Nat) := fmtBf16.add (c.mode y.m.rnd) y.m.ftz (src y.m.ftz (bf16Src y.nar y.nar.a (c.nat s l y.a)))
      (src y.m.ftz (bf16Src y.nar y.nar.b (c.nat s l y.b))).neg
    NoTrap c (fun l => (r l).2) → exec (.bsub y) s = .next (wroteFlags s c y.d r)) ∧
  (∀ y s c, Acts (.bmul y) s c →
    let r (l : Nat) := fmtBf16.mul (c.mode y.m.rnd) y.m.ftz (src y.m.ftz (bf16Src y.nar y.nar.a (c.nat s l y.a)))
      (src y.m.ftz (bf16Src y.nar y.nar.b (c.nat s l y.b)))
    NoTrap c (fun l => (r l).2) → exec (.bmul y) s = .next (wroteFlags s c y.d r)) ∧
  (∀ y s c, Acts (.bfma y) s c →
    let r (l : Nat) := fmtBf16.fma (c.mode y.m.rnd) y.m.ftz (src y.m.ftz (bf16Src y.nar y.nar.a (c.nat s l y.a)))
      (src y.m.ftz (bf16Src y.nar y.nar.b (c.nat s l y.b))) (src y.m.ftz (c.nat s l y.c % 65536))
    NoTrap c (fun l => (r l).2) → exec (.bfma y) s = .next (wroteFlags s c y.d r)) ∧
  (∀ y s c, Acts (.bpadd y) s c →
    let r (l : Nat) := both (fun h => fmtBf16.add (c.mode y.m.rnd) y.m.ftz (src y.m.ftz (h (c.nat s l y.a)))
      (src y.m.ftz (h (c.nat s l y.b))))
    NoTrap c (fun l => (r l).2) → exec (.bpadd y) s = .next (wroteFlags s c y.d r)) ∧
  (∀ y s c, Acts (.bpsub y) s c →
    let r (l : Nat) := both (fun h => fmtBf16.add (c.mode y.m.rnd) y.m.ftz (src y.m.ftz (h (c.nat s l y.a)))
      (src y.m.ftz (h (c.nat s l y.b))).neg)
    NoTrap c (fun l => (r l).2) → exec (.bpsub y) s = .next (wroteFlags s c y.d r)) ∧
  (∀ y s c, Acts (.bpmul y) s c →
    let r (l : Nat) := both (fun h => fmtBf16.mul (c.mode y.m.rnd) y.m.ftz (src y.m.ftz (h (c.nat s l y.a)))
      (src y.m.ftz (h (c.nat s l y.b))))
    NoTrap c (fun l => (r l).2) → exec (.bpmul y) s = .next (wroteFlags s c y.d r)) ∧
  (∀ y s c, Acts (.bpfma y) s c →
    let r (l : Nat) := both (fun h => fmtBf16.fma (c.mode y.m.rnd) y.m.ftz (src y.m.ftz (h (c.nat s l y.a)))
      (src y.m.ftz (h (c.nat s l y.b))) (src y.m.ftz (h (c.nat s l y.c))))
    NoTrap c (fun l => (r l).2) → exec (.bpfma y) s = .next (wroteFlags s c y.d r))

/-- The FP32, BF16 and BF16-pair arithmetic completes with its result and flags where nothing traps. -/
def Obligations.FloatingArithmetic : Prop :=
  Claims.FloatArithmetic ∧ Claims.Bf16Arithmetic

/-- R135 and R136: the minima, maxima and comparisons of floats complete. -/
def Sys2Proof.Claims.FloatMinMaxCompare : Prop :=
  let lo (w : Nat) : Nat := w % 65536
  let hi (w : Nat) : Nat := w / 65536 % 65536
  (∀ y s c, Acts (.fmin y) s c →
    let r (l : Nat) := fmtF32.minMax false y.m.ftz (f32Src y.nar y.nar.a (c.nat s l y.a)) (f32Src y.nar y.nar.b (c.nat s l y.b))
    NoTrap c (fun l => (r l).2) → exec (.fmin y) s = .next (wroteFlags s c y.d r)) ∧
  (∀ y s c, Acts (.fmax y) s c →
    let r (l : Nat) := fmtF32.minMax true y.m.ftz (f32Src y.nar y.nar.a (c.nat s l y.a)) (f32Src y.nar y.nar.b (c.nat s l y.b))
    NoTrap c (fun l => (r l).2) → exec (.fmax y) s = .next (wroteFlags s c y.d r)) ∧
  (∀ y s c, Acts (.bmin y) s c →
    let r (l : Nat) := fmtBf16.minMax false y.m.ftz (bf16Src y.nar y.nar.a (c.nat s l y.a)) (bf16Src y.nar y.nar.b (c.nat s l y.b))
    NoTrap c (fun l => (r l).2) → exec (.bmin y) s = .next (wroteFlags s c y.d r)) ∧
  (∀ y s c, Acts (.bmax y) s c →
    let r (l : Nat) := fmtBf16.minMax true y.m.ftz (bf16Src y.nar y.nar.a (c.nat s l y.a)) (bf16Src y.nar y.nar.b (c.nat s l y.b))
    NoTrap c (fun l => (r l).2) → exec (.bmax y) s = .next (wroteFlags s c y.d r)) ∧
  (∀ y s c, Acts (.bpmin y) s c →
    let p (l : Nat) := fmtBf16.minMax false y.m.ftz (lo (c.nat s l y.a)) (lo (c.nat s l y.b))
    let q (l : Nat) := fmtBf16.minMax false y.m.ftz (hi (c.nat s l y.a)) (hi (c.nat s l y.b))
    let r (l : Nat) : FRes := ((p l).1 + 65536 * (q l).1, (p l).2 ||| (q l).2)
    NoTrap c (fun l => (r l).2) → exec (.bpmin y) s = .next (wroteFlags s c y.d r)) ∧
  (∀ y s c, Acts (.bpmax y) s c →
    let p (l : Nat) := fmtBf16.minMax true y.m.ftz (lo (c.nat s l y.a)) (lo (c.nat s l y.b))
    let q (l : Nat) := fmtBf16.minMax true y.m.ftz (hi (c.nat s l y.a)) (hi (c.nat s l y.b))
    let r (l : Nat) : FRes := ((p l).1 + 65536 * (q l).1, (p l).2 ||| (q l).2)
    NoTrap c (fun l => (r l).2) → exec (.bpmax y) s = .next (wroteFlags s c y.d r)) ∧
  (∀ y s c, Acts (.fcmpp y) s c →
    let r (l : Nat) := fmtF32.compare y.m.cmp y.m.ftz (f32Src y.nar y.nar.a (c.nat s l y.a)) (f32Src y.nar y.nar.b (c.nat s l y.b))
    NoTrap c (fun l => (r l).2) → exec (.fcmpp y) s = .next (comparedFlags s c y.pd y.pk y.m.or r)) ∧
  (∀ y s c, Acts (.bcmpp y) s c →
    let r (l : Nat) := fmtBf16.compare y.m.cmp y.m.ftz (bf16Src y.nar y.nar.a (c.nat s l y.a)) (bf16Src y.nar y.nar.b (c.nat s l y.b))
    NoTrap c (fun l => (r l).2) → exec (.bcmpp y) s = .next (comparedFlags s c y.pd y.pk y.m.or r))

/-- R137: FABS, FNEG and FCLASS complete; they raise no condition. -/
def Sys2Proof.Claims.FloatSigns : Prop :=
  (∀ y s c, Acts (.fabs y) s c → exec (.fabs y) s = .next (wrote s c y.d (fun l =>
    ofBits (fun i => (c.word s l y.a).getLsbD i && !(decide (i = 31) || (y.m && decide (i = 15))))))) ∧
  (∀ y s c, Acts (.fneg y) s c → exec (.fneg y) s = .next (wrote s c y.d (fun l =>
    ofBits (fun i => (c.word s l y.a).getLsbD i ^^ (decide (i = 31) || (y.m && decide (i = 15))))))) ∧
  (∀ y s c, Acts (.fclass y) s c → exec (.fclass y) s = .next (wrote s c y.d (fun l =>
    w32 (if y.m then fmtBf16.classify (c.nat s l y.a % 65536) else fmtF32.classify (c.nat s l y.a)))))

/-- The floating minima, maxima, comparisons, sign operations and FCLASS complete. -/
def Obligations.FloatComparesAndSigns : Prop :=
  Claims.FloatMinMaxCompare ∧ Claims.FloatSigns

/-- R138, R132: a special function completes by starting in the lanes that act; its result reaches d later, as data word 0 and,
for SINCOST, 1. -/
def Sys2Proof.Claims.SpecialFunctions : Prop :=
  let one (fn : SFn) (y : Un ExactMod) (s : State) (c : Issue) (l : Nat) : List Nat × Nat :=
    ([(special fn (reducedSfu s c.un) y.m.ftz (c.nat s l y.a)).1], (special fn (reducedSfu s c.un) y.m.ftz (c.nat s l y.a)).2)
  let two (y : Un ExactMod) (s : State) (c : Issue) (l : Nat) : List Nat × Nat :=
    let p := special .sint (reducedSfu s c.un) y.m.ftz (c.nat s l y.a)
    let q := special .cost (reducedSfu s c.un) y.m.ftz (c.nat s l y.a)
    ([p.1, q.1], p.2 ||| q.2)
  (∀ y s c, Acts (.rcp y) s c → NoTrap c (fun l => (one .rcp y s c l).2) →
    exec (.rcp y) s = .next (started s c (one .rcp y s c))) ∧
  (∀ y s c, Acts (.rsq y) s c → NoTrap c (fun l => (one .rsq y s c l).2) →
    exec (.rsq y) s = .next (started s c (one .rsq y s c))) ∧
  (∀ y s c, Acts (.sqrt y) s c → NoTrap c (fun l => (one .sqrt y s c l).2) →
    exec (.sqrt y) s = .next (started s c (one .sqrt y s c))) ∧
  (∀ y s c, Acts (.exp2 y) s c → NoTrap c (fun l => (one .exp2 y s c l).2) →
    exec (.exp2 y) s = .next (started s c (one .exp2 y s c))) ∧
  (∀ y s c, Acts (.log2 y) s c → NoTrap c (fun l => (one .log2 y s c l).2) →
    exec (.log2 y) s = .next (started s c (one .log2 y s c))) ∧
  (∀ y s c, Acts (.tanh y) s c → NoTrap c (fun l => (one .tanh y s c l).2) →
    exec (.tanh y) s = .next (started s c (one .tanh y s c))) ∧
  (∀ y s c, Acts (.sint y) s c → NoTrap c (fun l => (one .sint y s c l).2) →
    exec (.sint y) s = .next (started s c (one .sint y s c))) ∧
  (∀ y s c, Acts (.cost y) s c → NoTrap c (fun l => (one .cost y s c l).2) →
    exec (.cost y) s = .next (started s c (one .cost y s c))) ∧
  (∀ y s c, Acts (.sincost y) s c → NoTrap c (fun l => (two y s c l).2) →
    exec (.sincost y) s = .next (started s c (two y s c)))

/-- R139 to R144: the conversions complete. A stochastic conversion also steps ctl.lfsr of each acting lane (R46). -/
def Sys2Proof.Claims.Conversions : Prop :=
  let step (y : NRnd) (n : Nat) (c : Issue) (s : State) : State := if y = .sr then stepLfsr c n s else s
  (∀ y s c, Acts (.cvtfh y) s c →
    let r (l : Nat) := toBf16 c y.m l 0 (c.nat s l y.a)
    NoTrap c (fun l => (r l).2) → exec (.cvtfh y) s = .next (wroteFlags (step y.m.rnd 1 c s) c y.d r)) ∧
  (∀ y s c, Acts (.packh y) s c →
    let r (l : Nat) : FRes := ((toBf16 c y.m l 0 (c.nat s l y.a)).1 + 65536 * (toBf16 c y.m l 1 (c.nat s l y.b)).1,
      (toBf16 c y.m l 0 (c.nat s l y.a)).2 ||| (toBf16 c y.m l 1 (c.nat s l y.b)).2)
    NoTrap c (fun l => (r l).2) → exec (.packh y) s = .next (wroteFlags (step y.m.rnd 2 c s) c y.d r)) ∧
  (∀ y s c, Acts (.cvthf y) s c →
    let r (l : Nat) := fmtF32.convert .rne false (fmtBf16.input y.m.ftz (if y.m.hi then c.nat s l y.a / 65536 else c.nat s l y.a % 65536))
    NoTrap c (fun l => (r l).2) → exec (.cvthf y) s = .next (wroteFlags s c y.d r)) ∧
  (∀ y s c, Acts (.cvtf8 y) s c →
    let f := if y.m.e5m2 then fmtE5m2 else fmtE4m3
    let p (l : Nat) := f.narrow y.m.sat (wideSrc y.m.bf16 (c.nat s l y.a))
    let q (l : Nat) := f.narrow y.m.sat (wideSrc y.m.bf16 (c.nat s l y.b))
    let r (l : Nat) : FRes := (replaceField (c.nat s l y.c) (if y.m.hi then 16 else 0) 16 ((p l).1 + 256 * (q l).1), (p l).2 ||| (q l).2)
    NoTrap c (fun l => (r l).2) → exec (.cvtf8 y) s = .next (wroteFlags s c y.d r)) ∧
  (∀ y s c, Acts (.cvtf4 y) s c →
    let p (l : Nat) := fmtE2m1.narrow true (wideSrc y.m.bf16 (c.nat s l y.a))
    let q (l : Nat) := fmtE2m1.narrow true (wideSrc y.m.bf16 (c.nat s l y.b))
    let r (l : Nat) : FRes := (replaceField (c.nat s l y.c) (8 * y.m.np.val) 8 ((p l).1 + 16 * (q l).1), (p l).2 ||| (q l).2)
    NoTrap c (fun l => (r l).2) → exec (.cvtf4 y) s = .next (wroteFlags s c y.d r)) ∧
  (∀ y s c, Acts (.cvt8f y) s c →
    let r (l : Nat) := widenScaled (if y.m.e5m2 then fmtE5m2 else fmtE4m3) (c.nat s l y.a / 2 ^ (8 * y.m.el.val) % 256)
      (match y.b with | some o => c.nat s l o % 256 | none => 127)
    NoTrap c (fun l => (r l).2) → exec (.cvt8f y) s = .next (wroteFlags s c y.d r)) ∧
  (∀ y s c, Acts (.cvt4f y) s c →
    let r (l : Nat) := widenScaled fmtE2m1 (c.nat s l y.a / 2 ^ (4 * y.m.el.val) % 16)
      (match y.b with | some o => c.nat s l o % 256 | none => 127)
    NoTrap c (fun l => (r l).2) → exec (.cvt4f y) s = .next (wroteFlags s c y.d r)) ∧
  (∀ y s c, Acts (.mxpack y) s c →
    let sc := mxScale (narrowFmt y.m.fmt) ((lanesOf c.lanes).map (fun l => wideSrc y.m.bf16 (c.nat s l y.a)))
    let e (l : Nat) := mxElement (narrowFmt y.m.fmt) sc (wideSrc y.m.bf16 (c.nat s l y.a))
    let r (l : Nat) : FRes := (sc.getD 255 * 256 + (e l).1, (e l).2)
    NoTrap c (fun l => (r l).2) → exec (.mxpack y) s = .next (wroteFlags s c y.d r)) ∧
  (∀ y s c, Acts (.mxunpk y) s c →
    let r (l : Nat) := widenScaled (narrowFmt y.m.fmt) (c.nat s l y.a % (if y.m.fmt = .e2m1 then 16 else 256)) (c.nat s l y.a / 256 % 256)
    NoTrap c (fun l => (r l).2) → exec (.mxunpk y) s = .next (wroteFlags s c y.d r)) ∧
  (∀ y s c, Acts (.cvtfi y) s c →
    let r (l : Nat) := floatToInt y.m.ty (c.mode y.m.rnd) (fmtF32.decode (c.nat s l y.a))
    let fl := s.modUnit c.u (fun un => orFlags un c.lanes (fun l => (r l).2))
    NoTrap c (fun l => (r l).2) → exec (.cvtfi y) s = .next
      (if y.m.ty.wide then wrotePair fl c y.d (fun l => BitVec.ofInt 64 (r l).1) else wrote fl c y.d (fun l => BitVec.ofInt 32 (r l).1))) ∧
  (∀ y s c, Acts (.cvtif y) s c →
    let r (l : Nat) := intToFloat (c.mode y.m.rnd) (match y.m.ty with
      | .i32 => (c.word s l y.a).toInt
      | .n32 => ((c.word s l y.a).toNat : Int)
      | .i64 => (c.dword s l y.a).toInt
      | .n64 => ((c.dword s l y.a).toNat : Int))
    NoTrap c (fun l => (r l).2) → exec (.cvtif y) s = .next (wroteFlags s c y.d r)) ∧
  (∀ y s c, Acts (.cvtii y) s c → exec (.cvtii y) s = .next (wrote s c y.d (fun l =>
    let v : Int := if y.m.width = .w32 then asInt (!y.m.ssrc) (c.dword s l y.a) else asInt (!y.m.ssrc) (c.word s l y.a)
    let w : Nat := match y.m.width with | .w8 => 8 | .w16 => 16 | .w32 => 32
    let low : Int := v % 2 ^ w
    BitVec.ofInt 32
      (if y.m.sat then (if y.m.sdst then max (-2 ^ (w - 1)) (min (2 ^ (w - 1) - 1) v) else max 0 (min (2 ^ w - 1) v))
       else if y.m.sdst ∧ 2 ^ (w - 1) ≤ low then low - 2 ^ w else low))))

/-- The special functions start, and the conversions complete, where nothing traps. -/
def Obligations.SpecialsAndConversions : Prop :=
  Claims.SpecialFunctions ∧ Claims.Conversions

/-- R133: conditions enabled in every lane of the split trap the whole instruction with no result written; enabled in some, they
divide the split, and the other lanes complete. -/
def Obligations.ArithmeticTraps : Prop :=
  ∀ (c : Issue) (s : State) (fl : Nat → Nat) (write : Mask → State → State),
    let trp := trapLanes c.un c.lanes fl
    let s' := s.modUnit c.u (fun un => orFlags un c.lanes fl)
    let a : TrapArgs := { cause := arithCause c.un trp fl, pc := c.sp.pc, addr := c.sp.pc }
    trp ≠ 0 →
    (trp = c.sp.mask → settleLanes c s fl write = takeTrap (popAll s' c.u c.instr) c.u c.e a) ∧
    (∀ un un' e2, trp ≠ c.sp.mask → s'.unit? c.u = some un →
      divide un c.e c.sp [(c.sp.mask &&& ~~~trp, { c.sp with st := .ready }), (trp, { c.sp with st := .trapped })] = some (un', [c.e, e2]) →
      settleLanes c s fl write = finish c (takeTrap (write (c.lanes &&& ~~~trp) (s'.putUnit c.u un')) c.u e2 a))

/-- R37: the four roundings of m × 2^e to a multiple of 2^q, as inequalities between exact integers. -/
def Obligations.RoundingModes : Prop :=
  ∀ (r : RMode) (neg : Bool) (m : Nat) (e q : Int), e < q →
    let k := (q - e).toNat
    let n := (roundAt r neg m e q).1
    ((roundAt r neg m e q).2 = true ↔ ¬ 2 ^ k ∣ m) ∧
    (match r with
     | .rtz => n * 2 ^ k ≤ m ∧ m < (n + 1) * 2 ^ k
     | .rup => if neg then n * 2 ^ k ≤ m ∧ m < (n + 1) * 2 ^ k else m ≤ n * 2 ^ k ∧ n * 2 ^ k < m + 2 ^ k
     | .rdn => if neg then m ≤ n * 2 ^ k ∧ n * 2 ^ k < m + 2 ^ k else n * 2 ^ k ≤ m ∧ m < (n + 1) * 2 ^ k
     | .rne => 2 * m ≤ (2 * n + 1) * 2 ^ k ∧ 2 * n * 2 ^ k ≤ 2 * m + 2 ^ k ∧
         ((2 * m = (2 * n + 1) * 2 ^ k ∨ 2 * n * 2 ^ k = 2 * m + 2 ^ k) → n % 2 = 0))

/-- R32, R37: an FP32 or BF16 code that is no NaN names a value that rounds to that code, raising nothing, in every mode. -/
def Obligations.CodesRoundToThemselves : Prop :=
  ∀ (f : FFmt) (r : RMode) (b : Nat), f = fmtF32 ∨ f = fmtBf16 → b < 2 ^ f.width → (f.decode b).isNan = false →
    f.deliver r false (f.decode b) = (b, 0)

/-- R149: the shuffles complete; a lane reads lane j of its segment of W lanes, or takes c where j falls outside. -/
def Sys2Proof.Claims.Shuffles : Prop :=
  (∀ y s c, Acts (.shfl y) s c → exec (.shfl y) s = .next (wrote s c y.d (fun l =>
    let w := 32 / 2 ^ y.m.m.val
    c.word s (l / w * w + (c.word s l y.b).toNat % w) y.a))) ∧
  (∀ y s c, Acts (.shflx y) s c → exec (.shflx y) s = .next (wrote s c y.d (fun l =>
    let w := 32 / 2 ^ y.m.m.val
    c.word s (l / w * w + (l % w ^^^ (c.word s l y.b).toNat % w)) y.a))) ∧
  (∀ y s c, Acts (.shflup y) s c → exec (.shflup y) s = .next (wrote s c y.d (fun l =>
    let w := 32 / 2 ^ y.m.m.val
    if (c.word s l y.b).toNat ≤ l % w then c.word s (l - (c.word s l y.b).toNat) y.a else c.word s l y.c))) ∧
  (∀ y s c, Acts (.shfldn y) s c → exec (.shfldn y) s = .next (wrote s c y.d (fun l =>
    let w := 32 / 2 ^ y.m.m.val
    if l % w + (c.word s l y.b).toNat < w then c.word s (l + (c.word s l y.b).toNat) y.a else c.word s l y.c)))

/-- R150, R152: BALLOT, the votes and MATCH complete, over the lanes that act. -/
def Sys2Proof.Claims.VotesAndMatch : Prop :=
  (∀ y s c, Acts (.ballot y) s c → exec (.ballot y) s = .next (wrote s c y.d (fun _ =>
    ofBits (fun i => c.lanes.getLsbD i && (readP c.un y.pa i ^^ y.inv))))) ∧
  (∀ y s c, Acts (.voteany y) s c → exec (.voteany y) s = .next (wrotePred s c y.pd (fun _ =>
    (lanesOf c.lanes).any (fun i => readP c.un y.pa i ^^ y.inv)))) ∧
  (∀ y s c, Acts (.voteall y) s c → exec (.voteall y) s = .next (wrotePred s c y.pd (fun _ =>
    (lanesOf c.lanes).all (fun i => readP c.un y.pa i ^^ y.inv)))) ∧
  (∀ y s c, Acts (.voteuni y) s c → exec (.voteuni y) s = .next (wrotePred s c y.pd (fun _ =>
    (lanesOf c.lanes).all (fun i => readP c.un y.pa i) || (lanesOf c.lanes).all (fun i => !readP c.un y.pa i)))) ∧
  (∀ y s c, Acts (.match_ y) s c → exec (.match_ y) s = .next (wrote s c y.d (fun l =>
    ofBits (fun j => c.lanes.getLsbD j &&
      (if y.m then c.dword s j y.a == c.dword s l y.a else c.word s j y.a == c.word s l y.a)))))

/-- The shuffles, BALLOT, the votes and MATCH complete with their results. -/
def Obligations.LaneExchange : Prop :=
  Claims.Shuffles ∧ Claims.VotesAndMatch

/-- R151: PSCAN and REDUCE complete; lane l combines the acting lanes up to l, or before l, in ascending order; under .FADD the
flags of every step reach every acting lane and nothing traps. -/
def Obligations.ScansAndReductions : Prop :=
  let op (m : ScanMod) (p a : Word) : Word := match m.op with
    | .add => BitVec.ofNat 32 (p.toNat + a.toNat)
    | .min => if asInt m.uns p ≤ asInt m.uns a then p else a
    | .max => if asInt m.uns a ≤ asInt m.uns p then p else a
    | .fadd => w32 (fmtF32.add .rne false (fmtF32.decode p.toNat) (fmtF32.decode a.toNat)).1
  let unit (m : ScanMod) : Word := match m.op with
    | .add => 0
    | .min => if m.uns then BitVec.allOnes 32 else 0x7FFFFFFF
    | .max => if m.uns then 0 else 0x80000000
    | .fadd => 0x80000000
  let total (m : ScanMod) (f : Nat → Word) (ls : List Nat) : Word := match ls with
    | [] => unit m
    | j :: js => js.foldl (fun p k => op m p (f k)) (f j)
  let raised (m : ScanMod) (f : Nat → Word) (ls : List Nat) : Nat := (ls.drop 1).foldl (fun fl k =>
      if m.op = .fadd then
        fl ||| (fmtF32.add .rne false (fmtF32.decode (total m f (ls.filter (· < k))).toNat) (fmtF32.decode (f k).toNat)).2
      else fl) 0
  (∀ y s c, Acts (.pscan y) s c →
    let f (l : Nat) := c.word s l y.a
    exec (.pscan y) s = .next (wrote (s.modUnit c.u (fun un => orFlags un c.lanes (fun _ => raised y.m f (lanesOf c.lanes)))) c y.d
      (fun l => total y.m f ((lanesOf c.lanes).filter (fun j => if y.m.excl then decide (j < l) else decide (j ≤ l)))))) ∧
  (∀ y s c, Acts (.reduce y) s c → c.lanes ≠ 0 →
    let f (l : Nat) := c.word s l y.a
    exec (.reduce y) s = .next (wrote (s.modUnit c.u (fun un => orFlags un c.lanes (fun _ => raised y.m f (lanesOf c.lanes)))) c y.d
      (fun _ => total y.m f (lanesOf c.lanes))))

/-- R92, R66, R90, R91: a transfer taken by the whole split completes: the split stands at its target, the loops that do not hold
it end for BR and JMPI, and CALL and CALLI leave the address after them. -/
def Sys2Proof.Claims.Branches : Prop :=
  let near (c : Issue) (t : Target) : DWord :=
    BitVec.ofInt 64 (64 * ((c.sp.pc.toNat / 64 : Nat) + t.disp.toInt) + 2 * t.head.val)
  let far (c : Issue) (t : DWord) : Bool := c.un.at_.strand && decide (t.toNat / 2 ^ 17 = 0xFF00000000000000 / 2 ^ 17)
  let went (s : State) (c : Issue) (t : DWord) (loc cancel : Bool) (link : State → State) : State :=
    stepTrap (transfer (foldTarget (link (countRetired s c.u)) c.u c.sp.low t) c.u c.e t loc cancel) c.u c.e
  let after (c : Issue) : DWord := if c.sp.pc.toNat % 64 / 2 < lineH c.sp.bytes then c.sp.pc + 2
    else BitVec.ofNat 64 (c.sp.pc.toNat / 64 * 64 + 66)
  (∀ y s c, Acts (.br y) s c → c.lanes = c.sp.mask →
    exec (.br y) s = .next (went s c (near c y.t) c.sp.loc true id)) ∧
  (∀ y s c, Acts (.call y) s c → c.lanes = c.sp.mask →
    exec (.call y) s = .next (went s c (near c y.t) c.sp.loc false (fun s => writePair s c.u (.s 62) c.lanes (fun _ => after c)))) ∧
  (∀ y s c t, Acts (.jmpi y) s c → c.lanes = c.sp.mask → c.lanes ≠ 0 → (∀ l ∈ lanesOf c.lanes, c.dword s l y.a = t) →
    exec (.jmpi y) s = .next (went s c t (far c t) true id)) ∧
  (∀ y s c t, Acts (.calli y) s c → c.lanes = c.sp.mask → c.lanes ≠ 0 → (∀ l ∈ lanesOf c.lanes, c.dword s l y.a = t) →
    exec (.calli y) s = .next (went s c t (far c t) false (fun s => writePair s c.u y.d c.lanes (fun _ => after c)))) ∧
  (∀ h s c, Acts (.ret h) s c → c.lanes = c.sp.mask →
    let t := pair (readS c.un 62) (readS c.un 63)
    exec (.ret h) s = .next (went s c t (far c t) false id))

/-- R101, R100, R102, R104, R99: NOP, YIELD, TRAP, the loops and EXIT complete. -/
def Sys2Proof.Claims.OtherControl : Prop :=
  (∀ h s c, Acts (.nop h) s c → exec (.nop h) s = .next (finish c s)) ∧
  (∀ h s c, Acts (.yield_ h) s c → exec (.yield_ h) s = .next (finish c
    (if c.un.at_.strand then s else s.modUnit c.u (fun un => { un with sched := { un.sched with age := s.now } })))) ∧
  (∀ y s c, Acts (.trap y) s c → c.lanes = c.sp.mask → exec (.trap y) s = .next
    (countRetired (takeTrap s c.u c.e { cause := 0x28, pc := c.sp.pc, addr := c.sp.pc }) c.u)) ∧
  (∀ y s c, Acts (.trap y) s c → c.sp.mask &&& ~~~c.lanes ≠ 0 → ∀ un e2,
    divide c.un c.e c.sp [(c.lanes, { c.sp with st := .ready }), (c.sp.mask &&& ~~~c.lanes, { c.sp with st := .ready })] =
      some (un, [c.e, e2]) →
    exec (.trap y) s = .next ((goOn (countRetired
      (takeTrap (s.putUnit c.u un) c.u c.e { cause := 0x28, pc := c.sp.pc, addr := c.sp.pc }) c.u) c.u e2 c.sp.pc).modUnit c.u choose)) ∧
  (∀ y s c start, Acts (.loop y) s c → c.word s c.low y.src ≠ 0 → succ? c.sp c.sp.pc = some start →
    let un := cancelLoop c.un y.n.val
    exec (.loop y) s = .next (finish c (s.putUnit c.u { un with
      regs := { un.regs with lc := Tab.set 0 un.regs.lc y.n.val (c.word s c.low y.src) }
      loops := Tab.put un.loops y.n.val { start := start, fin := targetAddr c.sp.pc y.fin }
      nest := y.n.val :: un.nest }))) ∧
  (∀ y s c start, Acts (.loopi y) s c → y.count ≠ 0 → succ? c.sp c.sp.pc = some start →
    let un := cancelLoop c.un y.n.val
    exec (.loopi y) s = .next (finish c (s.putUnit c.u { un with
      regs := { un.regs with lc := Tab.set 0 un.regs.lc y.n.val y.count }
      loops := Tab.put un.loops y.n.val { start := start, fin := targetAddr c.sp.pc y.fin }
      nest := y.n.val :: un.nest }))) ∧
  (∀ y s c, Acts (.loop y) s c → c.word s c.low y.src = 0 →
    let un := cancelLoop c.un y.n.val
    exec (.loop y) s = .next (countRetired (s.putUnit c.u
      (UnitSt.modSplit { un with regs := { un.regs with lc := Tab.set 0 un.regs.lc y.n.val 0 } } c.e
        (fun sp => { sp.goto (targetAddr c.sp.pc y.fin) sp.loc with stage := skipStage }))) c.u)) ∧
  (∀ y s c, Acts (.loopi y) s c → y.count = 0 →
    let un := cancelLoop c.un y.n.val
    exec (.loopi y) s = .next (countRetired (s.putUnit c.u
      (UnitSt.modSplit { un with regs := { un.regs with lc := Tab.set 0 un.regs.lc y.n.val 0 } } c.e
        (fun sp => { sp.goto (targetAddr c.sp.pc y.fin) sp.loc with stage := skipStage }))) c.u)) ∧
  (∀ h s c, Acts (.exit h) s c → exec (.exit h) s = .next
    ((exitLanes (countRetired s c.u) c.u c.e).modUnit c.u (fun un => { un with step := endStep un c.e })))

/-- Branches, calls, returns, loops, TRAP, EXIT, NOP and YIELD complete. -/
def Obligations.TransfersOfControl : Prop :=
  Claims.Branches ∧ Claims.OtherControl

/-- R92, R94: a guard that passes in some lanes only divides the split, where an entry is free; with none it traps ILLEGAL_OP. -/
def Sys2Proof.Claims.DividingBranch : Prop :=
  ∀ y s c, Acts (.br y) s c → c.sp.mask &&& ~~~c.lanes ≠ 0 →
    let t := targetAddr c.sp.pc y.t
    let cut := divide c.un c.e c.sp [(c.lanes, { c.sp.goto t c.sp.loc with st := .ready }),
      (c.sp.mask &&& ~~~c.lanes, { c.sp with st := .ready })]
    (freeEntries c.un = [] → exec (.br y) s = .next (trapHere s c.u c.e causeIllegalOp)) ∧
    (∀ un e2, cut = some (un, [c.e, e2]) → exec (.br y) s = .next (stepTrap ((goOn
      ((foldTarget (countRetired (s.putUnit c.u (cancelLoops un t)) c.u) c.u c.sp.low t).modUnit c.u (fun un => arriveFrom un c.e 33))
      c.u e2 c.sp.pc).modUnit c.u choose) c.u c.e)) ∧
    (∀ e2 rest, freeEntries c.un = e2 :: rest → ∃ un, cut = some (un, [c.e, e2]))

/-- R96, R98: BRD, BRANY and BRALL complete. A BRD that divides replaces its entry by a join that expects the split's lanes at rc,
and puts the two parts into the two lowest free entries; with fewer free it traps ILLEGAL_OP. -/
def Sys2Proof.Claims.TestingBranches : Prop :=
  let holds (c : Issue) (g : Guard) (i : Nat) : Bool := readP c.un g.p i ^^ g.neg
  let went (s : State) (c : Issue) (t : DWord) : State :=
    stepTrap (transfer (foldTarget (countRetired s c.u) c.u c.sp.low t) c.u c.e t c.sp.loc true) c.u c.e
  (∀ y s c, Acts (.brany y) s c → exec (.brany y) s = .next
    (if (lanesOf c.sp.mask).any (holds c y.g) then went s c (targetAddr c.sp.pc y.t) else finish c s)) ∧
  (∀ y s c, Acts (.brall y) s c → exec (.brall y) s = .next
    (if (lanesOf c.sp.mask).all (holds c y.g) then went s c (targetAddr c.sp.pc y.t) else finish c s)) ∧
  (∀ y s c, Acts (.brd y) s c → c.sp.mask ≠ 0 →
    ((∀ l ∈ lanesOf c.sp.mask, holds c y.g l = true) → exec (.brd y) s = .next (went s c (targetAddr c.sp.pc y.t))) ∧
    ((∀ l ∈ lanesOf c.sp.mask, holds c y.g l = false) → exec (.brd y) s = .next (finish c s)) ∧
    ((∃ l ∈ lanesOf c.sp.mask, holds c y.g l = true) → (∃ l ∈ lanesOf c.sp.mask, holds c y.g l = false) →
      ((freeEntries c.un).length < 2 → exec (.brd y) s = .next (trapHere s c.u c.e causeIllegalOp)) ∧
      (∀ e1 e2 more, freeEntries c.un = e1 :: e2 :: more →
        let t := targetAddr c.sp.pc y.t
        let take := ofBits (fun i => c.sp.mask.getLsbD i && holds c y.g i)
        let part : Split := { c.sp with ra := some (targetAddr c.sp.pc y.rc), join := some c.e, st := .ready }
        let j : Join := { ra := targetAddr c.sp.pc y.rc, expect := c.sp.mask, arrived := 0, raOut := c.sp.ra, joinOut := c.sp.join }
        let un : UnitSt := { c.un with
          entries := Tab.put (Tab.put (Tab.put c.un.entries c.e (.join j)) e1 (.split { part.goto t c.sp.loc with mask := take }))
            e2 (.split { part with mask := c.sp.mask &&& ~~~take })
          ops := rehold c.un.ops (fun h => if h.contains c.e then h.filter (· ≠ c.e) ++ [e1, e2] else h) }
        exec (.brd y) s = .next (stepTrap ((goOn
          ((foldTarget (countRetired (s.putUnit c.u (cancelLoops un t)) c.u) c.u c.sp.low t).modUnit c.u (fun un => arriveFrom un e1 33))
          c.u e2 c.sp.pc).modUnit c.u choose) c.u c.e))))

/-- A branch whose guard divides the split, BRD, BRANY and BRALL. -/
def Obligations.DivergentBranches : Prop :=
  Claims.DividingBranch ∧ Claims.TestingBranches

/-- A strand with splits or joins of its own, none of which waits at a barrier, through which no gathered strand leaves, and whose
operation k is outstanding and next to be performed; its accesses need no row of a Cistern. -/
def Sys2Proof.Claims.Performs (s : State) (u k : Nat) (un : UnitSt) (o : Op) : Prop :=
  s.unit? u = some un ∧ Tab.find? un.ops k = some o ∧ un.at_.strand = true ∧ un.entries ≠ [] ∧ un.gather = none ∧
  (∀ e ∈ un.splits, ∀ a b d, e.2.wait ≠ some (.barrier a b d)) ∧ slotReqs s (.op u k) = [] ∧
  isMemory o.instr = true ∧ o.stage = 0 ∧ mustWait un k o = false ∧ o.fault = none

/-- R156, R155, R160, R161: the loads form their addresses by Table 8-4 and complete by starting: where every lane passes its
checks the access is in flight, its destinations wait for it, and the instruction retires. -/
def Sys2Proof.Claims.LoadsIssue : Prop :=
  (∀ y : Mem MemMod, LoadIssues (.ld y) ⟨.glob, true, y.m.ty, false, false⟩ (wideAddr y.base y.s y.off y.m.a64)) ∧
  (∀ y : Mem MemMod, LoadIssues (.gld y) ⟨.glob, true, y.m.ty, false, true⟩ (wideAddr y.base y.s y.off y.m.a64)) ∧
  (∀ y : Loc MemMod, LoadIssues (.lds y) ⟨.scr, true, y.m.ty, false, false⟩ (nearAddr y.base y.off)) ∧
  (∀ y : Loc MemMod, LoadIssues (.ldsr y) ⟨.rmt, true, y.m.ty, false, false⟩ (nearAddr y.base y.off)) ∧
  (∀ y : Loc MemMod, LoadIssues (.ldt y) ⟨.til, true, y.m.ty, false, false⟩ (nearAddr y.base y.off)) ∧
  (∀ y : Loc MemMod, LoadIssues (.ldl y) ⟨.loc, true, y.m.ty, false, false⟩ (nearAddr y.base y.off)) ∧
  (∀ y : Loc MemMod, LoadIssues (.ldw y) ⟨.win, true, y.m.ty, false, false⟩ (nearAddr y.base y.off))

/-- R156, R155, R160, R161: the stores form their addresses by Table 8-4, read their data at issue, and complete by starting. -/
def Sys2Proof.Claims.StoresIssue : Prop :=
  (∀ y : Mem MemMod, StoreIssues (.st y) ⟨.glob, false, y.m.ty, y.m.sat, false⟩ y.d (wideAddr y.base y.s y.off y.m.a64)) ∧
  (∀ y : Mem MemMod, StoreIssues (.sct y) ⟨.glob, false, y.m.ty, y.m.sat, true⟩ y.d (wideAddr y.base y.s y.off y.m.a64)) ∧
  (∀ y : Loc MemMod, StoreIssues (.sts y) ⟨.scr, false, y.m.ty, y.m.sat, false⟩ y.d (nearAddr y.base y.off)) ∧
  (∀ y : Loc MemMod, StoreIssues (.stsr y) ⟨.rmt, false, y.m.ty, y.m.sat, false⟩ y.d (nearAddr y.base y.off)) ∧
  (∀ y : Loc MemMod, StoreIssues (.stt y) ⟨.til, false, y.m.ty, y.m.sat, false⟩ y.d (nearAddr y.base y.off)) ∧
  (∀ y : Loc MemMod, StoreIssues (.stl y) ⟨.loc, false, y.m.ty, y.m.sat, false⟩ y.d (nearAddr y.base y.off)) ∧
  (∀ y : Loc MemMod, StoreIssues (.stw y) ⟨.win, false, y.m.ty, y.m.sat, false⟩ y.d (nearAddr y.base y.off))

/-- The loads and stores complete by starting, where every lane passes its checks. -/
def Obligations.AccessesIssue : Prop :=
  Claims.LoadsIssue ∧ Claims.StoresIssue

/-- R160: the accesses other than GLD and SCT are performed for all lanes or for none. -/
def Obligations.AccessesFailWhole : Prop :=
  (∀ y : Mem MemMod, AllOrNothing (.ld y) ⟨.glob, true, y.m.ty, false, false⟩ (wideAddr y.base y.s y.off y.m.a64) (fun _ _ _ => [])) ∧
  (∀ y : Mem MemMod, AllOrNothing (.st y) ⟨.glob, false, y.m.ty, y.m.sat, false⟩ (wideAddr y.base y.s y.off y.m.a64)
    (dataWords y.d y.m.ty.regs)) ∧
  (∀ y : Loc MemMod, AllOrNothing (.lds y) ⟨.scr, true, y.m.ty, false, false⟩ (nearAddr y.base y.off) (fun _ _ _ => [])) ∧
  (∀ y : Loc MemMod, AllOrNothing (.sts y) ⟨.scr, false, y.m.ty, y.m.sat, false⟩ (nearAddr y.base y.off) (dataWords y.d y.m.ty.regs)) ∧
  (∀ y : Loc MemMod, AllOrNothing (.ldsr y) ⟨.rmt, true, y.m.ty, false, false⟩ (nearAddr y.base y.off) (fun _ _ _ => [])) ∧
  (∀ y : Loc MemMod, AllOrNothing (.stsr y) ⟨.rmt, false, y.m.ty, y.m.sat, false⟩ (nearAddr y.base y.off) (dataWords y.d y.m.ty.regs)) ∧
  (∀ y : Loc MemMod, AllOrNothing (.ldt y) ⟨.til, true, y.m.ty, false, false⟩ (nearAddr y.base y.off) (fun _ _ _ => [])) ∧
  (∀ y : Loc MemMod, AllOrNothing (.stt y) ⟨.til, false, y.m.ty, y.m.sat, false⟩ (nearAddr y.base y.off) (dataWords y.d y.m.ty.regs)) ∧
  (∀ y : Loc MemMod, AllOrNothing (.ldl y) ⟨.loc, true, y.m.ty, false, false⟩ (nearAddr y.base y.off) (fun _ _ _ => [])) ∧
  (∀ y : Loc MemMod, AllOrNothing (.stl y) ⟨.loc, false, y.m.ty, y.m.sat, false⟩ (nearAddr y.base y.off) (dataWords y.d y.m.ty.regs)) ∧
  (∀ y : Loc MemMod, AllOrNothing (.ldw y) ⟨.win, true, y.m.ty, false, false⟩ (nearAddr y.base y.off) (fun _ _ _ => [])) ∧
  (∀ y : Loc MemMod, AllOrNothing (.stw y) ⟨.win, false, y.m.ty, y.m.sat, false⟩ (nearAddr y.base y.off) (dataWords y.d y.m.ty.regs))

/-- R162, R163, R178: CMPST and EXPLD pack their elements from the cursor on; PREF and the cache controls start for the lanes whose
line translates, and drop the others. -/
def Sys2Proof.Claims.PackedAndLines : Prop :=
  (∀ y : Mem PackMod, PackedIssues (.cmpst y) false y.m.ty y.d y.base y.s y.off) ∧
  (∀ y : Mem PackMod, PackedIssues (.expld y) true y.m.ty y.d y.base y.s y.off) ∧
  (∀ y : MemN PrefMod, LineIssues (.pref y) y.base y.s y.off y.m.a64 true) ∧
  (∀ y : MemN A64Mod, LineIssues (.cinv y) y.base y.s y.off y.m.a64 false) ∧
  (∀ y : MemN A64Mod, LineIssues (.cwb y) y.base y.s y.off y.m.a64 false) ∧
  (∀ y : MemN A64Mod, LineIssues (.cflush y) y.base y.s y.off y.m.a64 false)

/-- Table 8-3 (R154): the registers a load delivers for the bytes read, and the bytes a store writes for its registers. -/
def Sys2Proof.Claims.AccessTypes : Prop :=
  (∀ b0 b1 b2 b3 : Byte, loadWords .b32 [b0, b1, b2, b3] = [b3 ++ b2 ++ b1 ++ b0]) ∧
  (∀ b : Byte, loadWords .n8 [b] = [b.setWidth 32] ∧ loadWords .i8 [b] = [b.signExtend 32]) ∧
  (∀ b0 b1 : Byte, loadWords .n16 [b0, b1] = [(b1 ++ b0).setWidth 32] ∧ loadWords .i16 [b0, b1] = [(b1 ++ b0).signExtend 32]) ∧
  (∀ l h : List Byte, l.length = 4 → h.length = 4 → loadWords .b64 (l ++ h) = loadWords .b32 l ++ loadWords .b32 h) ∧
  (∀ l h : List Byte, l.length = 8 → h.length = 8 → loadWords .b128 (l ++ h) = loadWords .b64 l ++ loadWords .b64 h) ∧
  (∀ b0 b1 : Byte, (fmtBf16.decode (b1 ++ b0).toNat).isNan = false → loadWords .bf16 [b0, b1] = [b1 ++ b0 ++ (0#16)]) ∧
  (∀ b0 b1 : Byte, (fmtBf16.decode (b1 ++ b0).toNat).isNan = true → loadWords .bf16 [b0, b1] = [0x7FC00000]) ∧
  (∀ sat (w : Word), storeBytes .b32 sat [w] = [w.setWidth 8, (w >>> 8).setWidth 8, (w >>> 16).setWidth 8, (w >>> 24).setWidth 8]) ∧
  (∀ sat (w : Word), storeBytes .n8 sat [w] = [w.setWidth 8] ∧ storeBytes .n16 sat [w] = [w.setWidth 8, (w >>> 8).setWidth 8]) ∧
  (∀ sat (v w : Word), storeBytes .b64 sat [v, w] = storeBytes .b32 sat [v] ++ storeBytes .b32 sat [w]) ∧
  (∀ sat (v w x y : Word), storeBytes .b128 sat [v, w, x, y] = storeBytes .b64 sat [v, w] ++ storeBytes .b64 sat [x, y])

/-- CMPST, EXPLD, PREF and the cache controls complete; what each access type delivers and stores. -/
def Obligations.PackedLinesTypes : Prop :=
  Claims.PackedAndLines ∧ Claims.AccessTypes

/-- R158, R265, R261: a strand's store to global memory completes: it is performed at the home slices in ascending lane order, so a
byte that several lanes write keeps the value of the highest such lane; a byte that no lane writes, or that the host refuses, keeps its value. -/
def Sys2Proof.Claims.StoreReachesMemory : Prop :=
  ∀ s u k un o sh, Claims.Performs s u k un o → atomOf o.instr = none → shapeOf o.instr = some sh →
    sh.load = false → (∀ e ∈ o.place, ∃ pa, e.2 = .glob pa) →
    ∃ t, exec (.storeCompletion u k) s = .next t ∧
    ∀ a, rd8 t a = if unbackedAt s a then rd8 s a else
      (((o.place.flatMap (fun (e : Nat × Place) =>
        (storeBytes sh.ty sh.sat (o.words e.1 4)).zipIdx.map (fun b => (e.2.code + b.2, b.1)))).reverse.find?
          (fun w => w.1 == a)).map (·.2)).getD (rd8 s a)

/-- R154, R158, R24: a strand's load from global memory completes: it delivers to its register the word of the bytes at the home slices. -/
def Sys2Proof.Claims.LoadDelivers : Prop :=
  ∀ s u k un o sh pa, Claims.Performs s u k un o → shapeOf o.instr = some sh → sh.load = true →
    (match o.instr with | .expld _ => False | _ => True) → o.lanes = 1 → o.place = [(0, .glob pa)] →
    ∃ t, exec (.producerCompletion u k) s = .next t ∧
    (∀ a, rd8 t a = rd8 s a) ∧
    ∀ n : Fin 64, o.dests = [.s n] → sh.ty.regs = 1 → ∃ un', t.unit? u = some un' ∧ Tab.find? un'.ops k = none ∧
      feOf un' (.s n) = .full ∧
      readS un' n.val = (loadWords sh.ty ((List.range (typeBytes sh.ty)).map (fun i => rd8 s (pa + i)))).headD 0

/-- R169, R170, R168: ATOM.ADD.B32 of a strand on one word completes: the word takes the sum, the register takes the old value, and
every byte outside the word keeps its value. -/
def Sys2Proof.Claims.AtomicAddPerformed : Prop :=
  ∀ s u k un (o : Op) (y : Mem AtomMod) pa n, Claims.Performs s u k un o → o.instr = .atomAdd y → y.m.b64 = false →
    o.lanes = 1 → o.place = [(0, .glob pa)] → o.dests = [.s n] → (∀ i < 4, unbackedAt s (pa + i) = false) →
    ∃ t, exec (.producerCompletion u k) s = .next t ∧
    rdNat t pa 4 = (rdNat s pa 4 + (o.word 0 0).toNat) % 2 ^ 32 ∧
    (∀ a, (a < pa ∨ pa + 4 ≤ a) → rd8 t a = rd8 s a) ∧
    ∃ un', t.unit? u = some un' ∧ readS un' n.val = BitVec.ofNat 32 (rdNat s pa 4) ∧ feOf un' (.s n) = .full

/-- A strand's store reaches memory, its load delivers memory's bytes, its ATOM.ADD is one step. -/
def Obligations.MemoryIsReachedAndRead : Prop :=
  Claims.StoreReachesMemory ∧ Claims.LoadDelivers ∧ Claims.AtomicAddPerformed

/-- R167, R168: the atomics complete by starting, where every lane is in range, aligned and translated with write permission. -/
def Sys2Proof.Claims.AtomicsIssue : Prop :=
  (∀ y : Mem AtomMod,
    let g (i : Instr) (k : Nat) (r : Bool) : Prop := AtomicIssues i .glob y.m (k * y.m.regs) r y.d (wideAddr y.base y.s y.off y.m.a64)
    g (.atomAdd y) 1 true ∧ g (.atomMin y) 1 true ∧ g (.atomMax y) 1 true ∧ g (.atomAnd y) 1 true ∧ g (.atomOr y) 1 true ∧
    g (.atomXor y) 1 true ∧ g (.atomExch y) 1 true ∧ g (.atomCas y) 2 true ∧ g (.atomFadd y) 1 true ∧ g (.atomFmin y) 1 true ∧
    g (.atomFmax y) 1 true ∧ g (.atomAddBf16x2 y) 1 true ∧ g (.atomVismin y) 1 true ∧ g (.redAdd y) 1 false ∧
    g (.redMin y) 1 false ∧ g (.redMax y) 1 false ∧ g (.redFadd y) 1 false ∧ g (.redAddBf16x2 y) 1 false) ∧
  (∀ y : Loc AtomMod,
    let g (i : Instr) (sp : Space) (k : Nat) : Prop := AtomicIssues i sp y.m (k * y.m.regs) true y.d (nearAddr y.base y.off)
    g (.atomlCas y) .loc 2 ∧ g (.atomlAdd y) .loc 1 ∧ g (.atomwCas y) .win 2 ∧ g (.atomwAdd y) .win 1 ∧ g (.atomwExch y) .win 1)

/-- R170 to R173: one lane's step of an atomic on a word of w bits, from the old value, the data and the compare value. -/
def Sys2Proof.Claims.AtomicSteps : Prop :=
  ∀ (w : Nat) (old v e : BitVec w), 0 < w →
    let f (op : AOp) (sgn : Bool) : Nat := atomStep op sgn w old.toNat v.toNat e.toNat
    (∀ g, f .add g = (old + v).toNat) ∧
    f .min false = (if v.toNat < old.toNat then v else old).toNat ∧ f .min true = (if v.toInt < old.toInt then v else old).toNat ∧
    f .max false = (if old.toNat < v.toNat then v else old).toNat ∧ f .max true = (if old.toInt < v.toInt then v else old).toNat ∧
    (∀ g, f .and g = (old &&& v).toNat) ∧ (∀ g, f .or g = (old ||| v).toNat) ∧ (∀ g, f .xor g = (old ^^^ v).toNat) ∧
    (∀ g, f .exch g = v.toNat) ∧ (∀ g, f .cas g = (if old = e then v else old).toNat) ∧
    (∀ g, f .vismin g = (if v.toNat < old.toNat then v else old).toNat) ∧
    (∀ g, f .fadd g = (fmtF32.add .rne false (fmtF32.decode old.toNat) (fmtF32.decode v.toNat)).1)

/-- R176, R179: FENCE completes when nothing of its unit is outstanding, with the CAC action of its scope and kind; DISCARD completes
at once for no page, and starts where every page passes its checks. -/
def Sys2Proof.Claims.FenceAndDiscard : Prop :=
  (∀ y s c, Acts (.fence y) s c → memOps c.un c.e (fun _ => true) = [] →
    let wide := 3 ≤ scopeNat y.m.scope
    let s1 := if wide ∧ y.m.kind ≠ .acq then releaseCac s c.un else s
    exec (.fence y) s = .next (finish c (if wide ∧ y.m.kind ≠ .rel then acquireCac s1 c.un else s1))) ∧
  (∀ y s c, Acts (.discard y) s c → computePhase s c.un = false → c.word s c.low y.s = 0 →
    exec (.discard y) s = .next (finish c s)) ∧
  (∀ y s c p places, Acts (.discard y) s c → computePhase s c.un = false → c.word s c.low y.s ≠ 0 →
    let a := BitVec.ofInt 64 ((c.dword s c.low y.base).toNat + y.off.toInt)
    canonical a.toNat = true → walk s c.un.at_.ctx a.toNat = .leaf p → a.toNat % 2 ^ p.lg = 0 →
    discardPages s c.un.at_.ctx p.lg (c.word s c.low y.s).toNat a.toNat [] 0 = .ok places →
    exec (.discard y) s = .next (finish c (startOp (obtainPages s c.un.at_.ctx a.toNat p.lg (c.word s c.low y.s).toNat) c.u
      { newOp c c.lanes s.now with holders := [c.e], place := places, count := p.lg,
                                   addr := places.map (fun e => (e.1, a + BitVec.ofNat 64 (e.1 * 2 ^ p.lg))) } .storeCompletion)))

/-- The atomics, FENCE and DISCARD complete; the step each atomic takes on its word. -/
def Obligations.AtomicsAndFences : Prop :=
  Claims.AtomicsIssue ∧ Claims.AtomicSteps ∧ Claims.FenceAndDiscard

/-- R182, R183, Table 10-2: MRSV completes with the code of its case, and with code 0 takes the array where the team does not hold
it yet; MREL gives an idle array back, and does nothing where the team holds none. -/
def Sys2Proof.Claims.ArrayReservation : Prop :=
  let mine (s : State) (c : Issue) : Matrix := (s.core c.un.at_.core).mx
  (∀ y s c code, Acts (.mrsv y) s c → c.un.discarded = [] →
    let n := 2 * y.half.val
    (code = 0 ∧ (mine s c).holder = some c.un.at_.team ∨
      code = 1 ∧ (∃ k, (mine s c).holder = some k ∧ k ≠ c.un.at_.team) ∨
      code = 3 ∧ (mine s c).holder = none ∧ arrayBusy (s.core c.un.at_.core) = true ∨
      code = 2 ∧ (mine s c).holder = none ∧ arrayBusy (s.core c.un.at_.core) = false ∧
        (nScr (s.core c.un.at_.core) < n ∨ scrFits s c.un.at_.core (nScr (s.core c.un.at_.core) - n) = false) ∨
      code = 0 ∧ (mine s c).holder = none ∧ arrayBusy (s.core c.un.at_.core) = false ∧ n ≤ nScr (s.core c.un.at_.core) ∧
        scrFits s c.un.at_.core (nScr (s.core c.un.at_.core) - n) = true) →
    exec (.mrsv y) s = .next (finish c (writeOp
      ((if code = 0 ∧ (mine s c).holder = none then acquireArray s c.un n else s).modUnit c.u
        (fun un => writeP un y.pd c.sp.mask (fun _ => decide (code = 0)))) c.u y.a c.lanes (fun _ => BitVec.ofNat 32 code)))) ∧
  (∀ h s c, Acts (.mrel h) s c → c.un.discarded = [] → (mine s c).holder ≠ some c.un.at_.team →
    exec (.mrel h) s = .next (finish c s)) ∧
  (∀ h s c, Acts (.mrel h) s c → c.un.discarded = [] → (mine s c).holder = some c.un.at_.team → (mine s c).gang = false →
    (mine s c).queue = [] → (mine s c).exec = none → (mine s c).pend = [] → arrayBusy (s.core c.un.at_.core) = false →
    exec (.mrel h) s = .next (finish c (releaseArray s c.un.at_.core)))

/-- R187: MLDA and MLDB complete where the team holds the array, the slot exists, the stride suits the format and every line passes
its checks: the slot is no longer full, and the staging is under way. -/
def Sys2Proof.Claims.StagingIssues : Prop :=
  let go (b : Bool) (y : Stage) (i : Instr) : Prop :=
    ∀ s c (place : Nat → Place), Acts i s c → c.un.discarded = [] →
      let core := c.un.at_.core
      let m := (s.core core).mx
      let stride := (c.word s c.low y.s).toNat % 65536
      let line (q : Nat) : DWord := BitVec.ofNat 64 (((c.word s c.low y.base).toNat + y.off.toInt + q * stride) % 2 ^ 32).toNat
      let z := match y.fmt with | .bf16 => 2 | .f32 => 4 | _ => 1
      m.holder = some c.un.at_.team → y.slot.val < 32 * m.n / 3 → stride % z = 0 →
      (y.space = .rmt → (line 0).toNat / 2 ^ 21 % 8 = 0 ∧ (line 0).toNat / 2 ^ 28 % 16 = 0) →
      (y.space = .til → ∃ t ∈ (s.core core).ci.tiles, t.2.team = c.un.at_.team) →
      (∀ q < (stageShape b y.fmt y.ns).1,
        checkLane s c c.sp (stageSpace y.space) true false (line q) (stageShape b y.fmt y.ns).2 = .ok (place q) ∧
          (line q).toNat % z = 0) →
      let o := { newOp c c.lanes s.now with
        holders := [c.e], place := (List.range (stageShape b y.fmt y.ns).1).map (fun q => (q, place q)) }
      let p : PendStage :=
        { unit := c.u, op := c.un.nextOp, slot := y.slot.val, instr := i, pc := c.sp.pc, addr := (line 0).toNat, stride := stride,
          tag := if y.space = .rmt then (c.word s c.low y.s).toNat / 65536 else 0, window := none, bytes := none }
      let slot : StageSlot := { (m.slot? y.slot.val).getD ⟨false, stageTag b y.fmt, [], 0⟩ with full := false, tag := stageTag b y.fmt }
      let s1 := (s.modUnit c.u (fun un => addOp un o)).modMx core (fun m =>
        { m with slots := Tab.put m.slots y.slot.val slot, pend := Tab.put m.pend m.nextPend p, nextPend := m.nextPend + 1 })
      exec i s = .next (finish c ((if y.space = .rmt then countSent s1 c.un else s1).laterFree (.stagingComplete core m.nextPend)))
  (∀ y, go false y (.mlda y)) ∧ (∀ y, go true y (.mldb y))

/-- R190 to R193, R197: MMA, MMA.F32, GANG.MMA and MZERO complete by entering the array's queue, which holds fewer than four, behind
the entries of earlier cycles and lower slots, a joint entry counted; MST does so with its rows checked. -/
def Sys2Proof.Claims.ArrayEntries : Prop :=
  let queued (s : State) (c : Issue) (op : Nat) (un : UnitSt) : State :=
    let e : MEntry :=
      { unit := c.u, op := op, instr := c.instr, pc := c.sp.pc, seq := (s.core un.at_.core).mx.nextPend, cycle := s.now,
        slot := un.at_.slot }
    let first (x : MEntry) : Bool := decide (x.cycle < s.now ∨ x.slot ≤ un.at_.slot)
    s.modMx un.at_.core (fun m => { m with
      queue := m.queue.filter first ++ [e] ++ m.queue.filter (fun x => !first x),
      gangNo := m.gangNo + (match c.instr with | .gangMma _ => 1 | _ => 0) })
  let room (s : State) (c : Issue) : Prop := c.un.discarded = [] ∧ (s.core c.un.at_.core).mx.holder = some c.un.at_.team ∧
    (s.core c.un.at_.core).mx.queue.length < 4
  let tagged (s : State) (c : Issue) (k : Nat) (t : STag) : Prop := k < 32 * (s.core c.un.at_.core).mx.n / 3 ∧
    ∃ x, (s.core c.un.at_.core).mx.slot? k = some x ∧ x.tag = t
  (∀ y s c, Acts (.mma y) s c → room s c → tagged s c y.a.val .aBf16 → tagged s c y.b.val .bBf16 →
    exec (.mma y) s = .next (finish c (queued s c 0 c.un))) ∧
  (∀ y s c, Acts (.mmaF32 y) s c → room s c → tagged s c y.a.val .aF32 → tagged s c y.b.val .bF32 →
    exec (.mmaF32 y) s = .next (finish c (queued s c 0 c.un))) ∧
  (∀ y s c, Acts (.gangMma y) s c → room s c → (s.core c.un.at_.core).mx.gang = true →
    tagged s c y.a.val .aBf16 → tagged s c y.b.val .bBf16 → exec (.gangMma y) s = .next (finish c (queued s c 0 c.un))) ∧
  (∀ y s c, Acts (.mzero y) s c → room s c → exec (.mzero y) s = .next (finish c (queued s c 0 c.un))) ∧
  (∀ y s c (place : Nat → Place), Acts (.mst y) s c → Fresh s c y.glb → room s c →
    let stride := (c.word s c.low y.s).toNat
    let row (i : Nat) : DWord :=
      if y.glb then BitVec.ofInt 64 ((c.dword s c.low y.base).toNat + y.off.toInt + i * stride)
      else BitVec.ofNat 64 (((c.word s c.low y.base).toNat + y.off.toInt + i * stride) % 2 ^ 32).toNat
    stride % storeElement y.fmt = 0 →
    let s1 := beginAccess c s c.lanes row (fun _ => []) []
    ∃ un o, s1.unit? c.u = some un ∧ Tab.find? un.ops c.un.nextOp = some o ∧
      let o' := { o with addr := (List.range 32).map (fun i => (i, row i)) }
      let s2 := putOp s1 c.u c.un.nextOp o'
      let c2 := { c with un := { un with ops := Tab.put un.ops c.un.nextOp o' } }
      ((∀ i < 32, checkRow s2 c2 y (row i) = .ok (place i)) →
        exec (.mst y) s = .next (finish c (queued (putOp (clearPass c2 (fillTlbs c2 o' (if y.glb then List.range 32 else []) s2)) c.u
          c.un.nextOp { o' with stage := 0, place := (List.range 32).map (fun i => (i, place i)) }) c c.un.nextOp un))))

/-- R196: GANG completes at once where every core of the row has executed it as often; it then sets, or with .LAST ends, gang mode in
the row. In a row of one core that is always so. -/
def Sys2Proof.Claims.GangBarrier : Prop :=
  (∀ y s c t, Acts (.gang y) s c → c.un.discarded = [] → c.sp.stage = 0 →
    (s.core c.un.at_.core).mx.holder = some c.un.at_.team → s.team? c.un.at_.team = some t →
    let s1 := s.modTeam c.un.at_.team (fun t => { t with gangCount := t.gangCount + 1 })
    (gangMet s1 c.un.at_.team (t.gangCount + 1) = true →
      exec (.gang y) s = .next (finish c (setGang s1 c.un.at_.team (!y.last)))) ∧
    (gangMet s1 c.un.at_.team (t.gangCount + 1) = false →
      exec (.gang y) s = .next (park s1 c.u c.e (.gang (t.gangCount + 1)) 1)) ∧
    (∀ k, s.cluster? t.cluster = some k → k.w = 1 → Tab.find? k.teams (t.pos / k.w * k.w) = some c.un.at_.team →
      gangMet s1 c.un.at_.team (t.gangCount + 1) = true)) ∧
  (∀ y s c, Acts (.gang y) s c → c.un.discarded = [] → c.sp.stage ≠ 0 → exec (.gang y) s = .next (finish c s))

/-- The matrix instructions complete: reservation, staging, the queue of entries, joint mode. -/
def Obligations.ArrayInstructions : Prop :=
  Claims.ArrayReservation ∧ Claims.StagingIssues ∧ Claims.ArrayEntries ∧ Claims.GangBarrier

/-- R51, R191: the product of an MMA: each element of the accumulator becomes the joint sum of itself and its k products, and every
other accumulator keeps its elements. -/
def Obligations.MatrixProducts : Prop :=
  ∀ (m : Matrix) (acc k w : Nat) (f : FFmt) (a b : Tab Nat) (i j : Nat), i < 32 → j < 32 →
    let t := (multiplied m acc k w f a b).1
    Tab.get 0 t (acc * 1024 + i * 32 + j) = BitVec.ofNat 32 (mmaSum w (fmtF32.decode (accAt m acc i j).toNat)
      ((List.range k).map (fun q => (f.decode (Tab.get 0 a (i * 64 + q)), f.decode (Tab.get 0 b (q * 64 + j)))))).1 ∧
    ∀ acc', acc' ≠ acc → Tab.get 0 t (acc' * 1024 + i * 32 + j) = accAt m acc' i j

/-- R203, R204: a split at BAR waits; where its unit has no access outstanding and it is the last its team waits for, every waiting split of the team goes on, at the
earliest two cycles later. -/
def Sys2Proof.Claims.TeamBarrier : Prop :=
  ∀ y s c t un, Acts (.bar y) s c → s.team? c.un.at_.team = some t →
    let s1 := park s c.u c.e (.barrier .bar 0 c.lanes) 1
    s1.unit? c.u = some un → un.liveLanes ≠ 0 → un.at_.team = c.un.at_.team → outstanding un = [] →
    (waitingMask un .bar ≠ un.liveLanes → exec (.bar y) s = .next s1) ∧
    (waitingMask un .bar = un.liveLanes → c.u ∈ t.groups → hasArrived t .bar c.u = false →
      (∀ g ∈ t.groups, g ≠ c.u → hasArrived t .bar g = true) →
      exec (.bar y) s = .next (releaseTeam s1 c.un.at_.team .bar (s.now + 2) (fun s _ _ _ => s)))

/-- R205, R207: BARC with a word that R205 allows, and GBAR and VOTEG in a superstep grid, release the unit's writes and arrive. -/
def Sys2Proof.Claims.ClusterAndGridArrive : Prop :=
  (∀ y s c t k, Acts (.barc y) s c → s.team? c.un.at_.team = some t → s.cluster? t.cluster = some k →
    let w := (c.word s c.low y.a).toNat
    let rect := if w = 0 then 256 * k.w + 4096 * k.h else w
    (w = 0 ∨ rectOk k w t.pos = true) → (∀ x ∈ waitingAt c.un .barc, x.2.1.toNat = rect) →
    (∀ a, firstBarc t = some a → a.rect.toNat = rect) →
    exec (.barc y) s = .next (groupArrive (park (popAll (releaseCac s c.un) c.u c.instr) c.u c.e
      (.barrier .barc (BitVec.ofNat 32 rect) c.lanes) 1) c.u .barc)) ∧
  (∀ y s c n, Acts (.gbar y) s c → superCount s c.un ≠ none → y.d = .s n →
    exec (.gbar y) s = .next (groupArrive (park (releaseCac s c.un) c.u c.e
      (.barrier .gbar (BitVec.ofNat 32 (256 + n.val)) c.lanes) 1) c.u .gbar)) ∧
  (∀ y s c, Acts (.gbar y) s c → superCount s c.un ≠ none → (∀ n, y.d ≠ .s n) →
    exec (.gbar y) s = .next (groupArrive (park (releaseCac s c.un) c.u c.e (.barrier .gbar 0 c.lanes) 1) c.u .gbar)) ∧
  (∀ y s c, Acts (.voteg y) s c → superCount s c.un ≠ none →
    let holds (l : Nat) : Bool := readP c.un y.pa l
    let vote := if y.inv then (lanesOf c.lanes).all holds else (lanesOf c.lanes).any holds
    exec (.voteg y) s = .next (groupArrive (park (releaseCac s c.un) c.u c.e
      (.barrier .voteg (BitVec.ofNat 32 (b2n y.inv + 2 * b2n vote + 16 * y.pd.val)) c.lanes) 1) c.u .voteg))

/-- BAR, BARC, GBAR and VOTEG: a split waits, arrives, and is released when all have arrived. -/
def Obligations.BarriersArrive : Prop :=
  Claims.TeamBarrier ∧ Claims.ClusterAndGridArrive

/-- R209: SETE and SETF complete where no register of the span has a producer pending: SETE empties each
and the fills held at the core are offered again, SETF fills each empty one. -/
def Sys2Proof.Claims.FullAndEmpty : Prop :=
  let span (y : SetFE) : List Operand := (List.range (y.k.val + 1)).map (fun j => Operand.next y.d j)
  (∀ y s c, Acts (.sete y) s c → c.sp.stage = 0 → (∀ o ∈ span y, feOf c.un o ≠ .pending) →
    let s1 := finish c (s.putUnit c.u ((span y).foldl (fun un o => setFe un o .empty) c.un))
    exec (.sete y) s = .next (offerFills s1 c.un)) ∧
  (∀ y s c, Acts (.setf y) s c → c.sp.stage = 0 → (∀ o ∈ span y, feOf c.un o ≠ .pending) →
    exec (.setf y) s = .next (finish c (s.putUnit c.u
      ((span y).foldl (fun un o => if feOf un o = .empty then setFe un o .full else un) c.un))))

/-- R210, Tables 11-3 and 11-4: CHAIN completes: the old binding ends, and a word of zero unbinds; a word that names a free receive
port binds it; otherwise the status says why. -/
def Sys2Proof.Claims.PortChain : Prop :=
  ∀ y s c, Acts (.chain y) s c →
    let w := (c.word s c.low y.a).toNat
    let s1 := unbindSend s c.u (2 * y.m.val + 1)
    let ends (s : State) (code : Nat) : State := finish c (writeOp s c.u y.d c.lanes (fun _ => BitVec.ofNat 32 code))
    (w = 0 → exec (.chain y) s = .next (ends s1 0)) ∧
    (0 < w → w < 2 ^ 30 → exec (.chain y) s = .next (ends s1 2)) ∧
    (2 ^ 30 ≤ w → ¬ (w / 2 ^ 30 = 2 ∧ 12 ≤ w % 16) →
      (∀ v, chainTarget s1 c.un y.m.val w = (0, some v) → exec (.chain y) s = .next (ends (bindPorts s1 c.u v y.m.val) 0)) ∧
      (∀ k, chainTarget s1 c.un y.m.val w = (k, none) → exec (.chain y) s = .next (ends s1 k))) ∧
    (w / 2 ^ 30 = 2 → 12 ≤ w % 16 → exec (.chain y) s = .next (trapHere s c.u c.e causeIllegalOp))

/-- SETE, SETF and CHAIN complete with the full/empty bits and bindings the rules give. -/
def Obligations.FullEmptyAndPorts : Prop :=
  Claims.FullAndEmpty ∧ Claims.PortChain

/-- R216, R217: ENQ, LAUNCH and DEQ complete where the address is aligned and passes its checks. A record that is bad or a queue that
is not there gives its status; a record with a slot free is accepted with status 0; DEQ gives the status of the queue's head, and
with status 0 writes the record and removes it. -/
def Sys2Proof.Claims.QueueOps : Prop :=
  let at_ (s : State) (c : Issue) (y : Mem QueueMod) : DWord := wideAddr y.base y.s y.off y.m.a64 s c c.low
  let ready (s : State) (c : Issue) (y : Mem QueueMod) (write : Bool) (pa : Nat) : Prop :=
    c.sp.stage = 0 ∧ computePhase s c.un = false ∧ (at_ s c y).toNat % 64 = 0 ∧
      checkLane s c c.sp .glob (!write) write (at_ s c y) 64 = .ok (.glob pa)
  let filled (s : State) (c : Issue) (a : DWord) : State :=
    match lookup s c.un false a.toNat with | some t => fillFirst s c.un false t | none => s
  let answer (s : State) (c : Issue) (y : Mem QueueMod) (code : Nat) : State :=
    finish c (writeOp s c.u y.d c.lanes (fun _ => BitVec.ofNat 32 code))
  let submits (i : Instr) (y : Mem QueueMod) (q : Option Nat) : Prop :=
    ∀ s c pa, Acts i s c → depthOf s c.un ≠ 15 → ready s c y false pa →
      let s1 := filled (obtainRead (clearPass c (releaseCac s c.un)) pa) c (at_ s c y)
      let r := parseTask (rdPlaces s1 (.glob pa) 64)
      ((∃ n, q = some n ∧ enqQueue s1 c.un.at_.ctx n = false) → exec i s = .next (answer s1 c y 2)) ∧
      ((∀ n, q = some n → enqQueue s1 c.un.at_.ctx n = true) →
        (r.bad = true → exec i s = .next (answer s1 c y 3)) ∧
        (∀ slot, r.bad = false → takeSlot s1 c.un q (depthOf s1 c.un + 1) = some slot →
          exec i s = .next (answer (acceptTask s1 c.un q (depthOf s1 c.un + 1) r slot) c y 0)) ∧
        (r.bad = false → takeSlot s1 c.un q (depthOf s1 c.un + 1) = none → y.m.nb = true →
          exec i s = .next (answer (countFull s1) c y 1)))
  (∀ y, submits (.enq y) y (some y.m.queue.val)) ∧
  (∀ y, submits (.launch y) y none) ∧
  (∀ y s c pa, Acts (.deq y) s c → ready s c y true pa →
    let s0 := filled (clearPass c (releaseCac s c.un)) c (at_ s c y)
    let s1 := match queue? s0 c.un.at_.ctx y.m.queue.val with
      | some z => obtainVirt s0 c.un.at_.ctx (z.slotAt z.head) 64
      | none => s0
    let h := headOf s1 c.un.at_.ctx y.m.queue.val
    exec (.deq y) s = .next (answer (acquireCac
      (if h.1 = 0 then removeHead (storeNow s1 c.un pa h.2) c.un.at_.ctx y.m.queue.val h.2 else s1) c.un) c y h.1))

/-- R218, R219, R221: MIGR of a strand outside loops and local code completes by gathering it: it is counted as retired, waits, and
joins the forming group of its descriptor. RETS of a gathered group outside loops, whose window is full and whose earlier accesses
are complete, sends each lane's state back
to its strand, and the lanes leave. -/
def Sys2Proof.Claims.GatherAndReturn : Prop :=
  (∀ y s c pa, Acts (.migr y) s c → y.j.val ≤ 3 → c.sp.loc = false → c.un.nest = [] →
    let d : DWord := BitVec.ofInt 64 ((c.sp.pc.toNat / 64 * 64 : Nat) + y.disp.toInt * 64)
    checkLane s c c.sp .glob true false d 64 = .ok (.glob pa) →
    let s1 := match lookup (obtainRead s pa) c.un false d.toNat with
      | some t => fillFirst (obtainRead s pa) c.un false t
      | none => obtainRead s pa
    let line := rdPlaces s (.glob pa) 64
    let ds := parseDesc line
    ds.header = 0x801F → ds.version = 1 → ds.strand = false → y.j.val < ds.nmig →
    (∀ o ∈ windowRegs (ds.sump.getD y.j.val (0, 0, 0, 0)).2.2.1, feOf c.un o = .full) →
    exec (.migr y) s = .next (flushGrid (joinForm
      ((park (countRetired (clearPass c s1) c.u) c.u c.e .sump 1).modUnit c.u (fun un => { un with mode := .gathered }))
      c.u c.un d y.j.val line y.fl) c.un.cell c.un.at_.task)) ∧
  (∀ h s c g, Acts (.rets h) s c → c.un.gather = some g → c.un.nest = [] → orderWait c.un c.e c.instr = none →
    (∀ i < g.n, feOf c.un (.v (Fin.ofNat 1024 (g.b + i))) = .full) →
    let s1 := (gatheredIn c.un c.sp.mask).foldl (fun s l => returnStrand s c.un g.b g.n l.1 l.2) (releaseCac (countRetired s c.u) c.un)
    exec (.rets h) s = .next ((leaveGroup s1 c.u c.e).modUnit c.u (fun un => { un with step := endStep un c.e }))) ∧
  (∀ h s c, Acts (.rets h) s c → c.un.gather = none → exec (.rets h) s = .next (trapHere s c.u c.e causeIllegalOp))

/-- ENQ, LAUNCH and DEQ complete with their status; MIGR gathers a strand and RETS returns it. -/
def Obligations.QueuesAndGathering : Prop :=
  Claims.QueueOps ∧ Claims.GatherAndReturn

/-- R231, R232, R236 to R238: the batch and pool instructions complete. -/
def Sys2Proof.Claims.BatchesAndPools : Prop :=
  (∀ y s c, Acts (.bclose y) s c → exec (.bclose y) s = .next (finish c (writeOp
    (s.modUnit c.u (fun un => { un with eng := { un.eng with
      batchNo := nextBatch c.un.eng.batchNo, closed := un.eng.closed + 1 } })) c.u y.d c.lanes (fun _ => c.un.eng.batchNo)))) ∧
  (∀ y s c, Acts (.bwait y) s c → c.sp.stage = 0 → c.sp.wait = none →
    let n := c.word s c.low y.a
    let bs := if n = 0 then [] else batchesTo c.un n
    let s1 := (acquireRuns s c.un.at_.core (bs.flatMap (fun b => b.2.writes))).modUnit c.u (fun un =>
      { un with eng := { un.eng with batches := un.eng.batches.filter (fun b => !bs.any (fun c => c.1 == b.1)) } })
    (n = 0 ∨ given c.un n = true ∧ batchesDone c.un n = true) →
    (bs.findSome? (fun b => b.2.failed) = none → exec (.bwait y) s = .next (finish c s1)) ∧
    (∀ a, bs.findSome? (fun b => b.2.failed) = some a → exec (.bwait y) s = .next
      (takeTrap s1 c.u c.e { cause := causeEngineError, pc := c.sp.pc, addr := a }))) ∧
  (∀ y s c, Acts (.poolq y) s c →
    let w := (c.word s c.low y.a).toNat
    let v := poolItem s c.un.at_.core (roleOf w) (w / 4)
    (w < 20 → w / 4 ≠ 2 → w / 4 ≠ 3 → exec (.poolq y) s = .next (finish c (writeOp s c.u y.d c.lanes (fun _ => loWord v)))) ∧
    ((w / 4 = 2 ∨ w / 4 = 3) → y.d.pairReg = true → operandLegal s c.un (y.d, 2) = true →
      (∀ o ∈ spanOf y.d 2, feOf c.un o ≠ .pending) →
      exec (.poolq y) s = .next (finish c (writePair s c.u y.d c.lanes (fun _ => v)))) ∧
    (20 ≤ w → exec (.poolq y) s = .next (trapHere s c.u c.e causeIllegalOp))) ∧
  (∀ y s c, Acts (.poolm y) s c →
    let w := (c.word s c.low y.a).toNat
    let code := poolStatus s c.un w y.m
    exec (.poolm y) s = .next (finish c (writeOp (if code = 0 then acceptMove s c.un w y.m else s) c.u y.d c.lanes
      (fun _ => BitVec.ofNat 32 code)))) ∧
  (∀ y s c t v, Acts (.poolw y) s c → s.team? c.un.at_.team = some t → t.poolw = some v →
    exec (.poolw y) s = .next (finish c (writeOp s c.u y.d c.lanes (fun _ => BitVec.ofNat 32 v))))

/-- R235, R323: SVC sends its packet and waits; once its request has been accepted it completes with the request's number. -/
def Sys2Proof.Claims.ServiceCall : Prop :=
  (∀ y s c k no, Acts (.svc y) s c → c.sp.stage = 1 → c.sp.wait = some (.svcAccept k no) →
    (∀ r, req? s c.un.die k = some r → r.st ≠ .pending) →
    exec (.svc y) s = .next (finish c (writeOp s c.u y.d c.lanes (fun _ => no)))) ∧
  (∀ y s c p, Acts (.svc y) s c → c.sp.stage = 0 → (y.s.isSome = true → computePhase s c.un = false) →
    let adr := match y.s with
      | some r => wideAddr y.base r y.off y.a64 s c c.low
      | none => nearAddr y.base y.off s c c.low
    adr.toNat % 64 = 0 → checkLane s c c.sp (if y.s.isNone then .scr else .glob) true false adr 64 = .ok p →
    Tab.get 0 c.un.eng.svcOut y.rq.val < 32 →
    let s1 := clearPass c (releaseCac s c.un)
    let s2 := match p with | .glob pa => obtainRead s1 pa | _ => s1
    let s3 := match y.s, lookup s2 c.un false adr.toNat with
      | some _, some t => fillFirst s2 c.un false t
      | _, _ => s2
    exec (.svc y) s = .next (newRequest c s3 y (rdPlaces s3 p 64)))

/-- R177: FENCE.SURF completes when nothing of its unit is outstanding and no accepted pass still writes the surface. -/
def Sys2Proof.Claims.SurfaceFence : Prop :=
  (∀ y s c, Acts (.fenceSurf y) s c → c.sp.stage = 0 → computePhase s c.un = false → memOps c.un c.e (fun _ => true) = [] →
    (let a := BitVec.ofInt 64 ((c.dword s c.low y.base).toNat + y.off.toInt)
     isSurface s c.un.at_.ctx a.toNat = true → surfaceReqs s c.un.at_.ctx a.toNat = []) →
    exec (.fenceSurf y) s = .next (finish c (acquireCac s c.un))) ∧
  (∀ y s c reqs ops, Acts (.fenceSurf y) s c → c.sp.stage = fenceStage → c.sp.wait = some (.surface reqs ops) →
    stillServed s reqs = [] → (∀ k ∈ ops, Tab.find? c.un.ops k = none) →
    exec (.fenceSurf y) s = .next (finish c (acquireCac s c.un)))

/-- The batch and pool instructions, SVC and FENCE.SURF complete. -/
def Obligations.PoolsServicesSurfaces : Prop :=
  Claims.BatchesAndPools ∧ Claims.ServiceCall ∧ Claims.SurfaceFence

/-- Table 1-5, R239: CTLR writes the control register's value, a 64-bit one as a pair, and CTLW writes the bits that are not
reserved; ctl.lfsr takes 1 for 0. -/
def Sys2Proof.Claims.ControlRegisters : Prop :=
  let value (s : State) (un : UnitSt) (n l : Nat) : Word := match n with
    | 0 => un.ctl.trapcause
    | 2 => Tab.get 0 un.ctl.trapmask l
    | 3 => Tab.get 0 un.ctl.fpflags l + 256 * un.ctl.mflags
    | 4 => un.ctl.round
    | 5 => un.ctl.donemask
    | 6 => BitVec.ofNat 32 un.at_.ctx
    | 9 => poolRoles (s.core un.at_.core).ci
    | 10 => poolOcc s un
    | 11 => if un.at_.strand then (s.score un.at_.core).sent else (s.core un.at_.core).sent
    | 12 => if un.at_.strand then (s.score un.at_.core).recv else (s.core un.at_.core).recv
    | _ => Tab.get 0 un.ctl.lfsr l
  (∀ y s c, Acts (.ctlr y) s c → c.un.at_.ctx < 65536 →
    (y.n.val = 1 → exec (.ctlr y) s = .next (wrotePair s c y.d (fun _ => c.un.ctl.trapaddr))) ∧
    (y.n.val = 7 → exec (.ctlr y) s = .next (wrotePair s c y.d (fun _ => c.un.ctl.pathsig))) ∧
    (y.n.val = 8 → exec (.ctlr y) s = .next (wrotePair s c y.d (fun _ => c.un.ctl.retired))) ∧
    (y.n.val ∉ [1, 7, 8] → (y.n.val = 3 → c.un.at_.strand = false → matrixBusy s c.u c.un = false) →
      exec (.ctlr y) s = .next (wrote s c y.d (value s c.un y.n.val)))) ∧
  (∀ y s c, Acts (.ctlw y) s c →
    let w (l : Nat) : Word := c.word s l y.a
    let low : Word := w c.low
    let did (f : Ctl → Ctl) : Prop := exec (.ctlw y) s = .next (finish c (s.modUnit c.u (fun un => { un with ctl := f un.ctl })))
    let lanes (t : Tab Word) (f : Word → Word) : Tab Word := (lanesOf c.lanes).foldl (fun t l => Tab.set 0 t l (f (w l))) t
    (y.n.val = 0 → did (fun k => { k with trapcause := low &&& 0x1FFF })) ∧
    (y.n.val = 1 → did (fun k => { k with trapaddr := c.dword s c.low y.a })) ∧
    (y.n.val = 2 → did (fun k => { k with trapmask := lanes k.trapmask (fun x => x &&& 0x1F) })) ∧
    (y.n.val = 3 → did (fun k => { k with
      fpflags := lanes k.fpflags (fun x => x &&& 0x1F)
      mflags := if c.un.at_.strand then k.mflags else (low >>> 8) &&& 0x1F })) ∧
    (y.n.val = 4 → did (fun k => { k with round := low &&& 3 })) ∧
    (y.n.val = 5 → (∃ h m, c.un.mode = .handler h m) → did (fun k => { k with donemask := low })) ∧
    (y.n.val = 5 → (∀ h m, c.un.mode ≠ .handler h m) → did id) ∧
    (y.n.val = 13 → did (fun k => { k with lfsr := lanes k.lfsr (fun x => if x = 0 then 1 else x) })))

/-- R240, R241: ISYNC completes when nothing of its unit is outstanding: the lines its scope takes in are dropped and the split
enters the next line afresh. SLEEP of 0 cycles without .EV completes at once; any other waits, and its expiry lets it go on. -/
def Sys2Proof.Claims.SyncAndSleep : Prop :=
  (∀ y s c, Acts (.isync y) s c → memOps c.un c.e (fun _ => true) = [] → c.un.at_.strand = true →
    exec (.isync y) s = .next (refetch (finish c (s.modScore c.un.at_.core (fun k => { k with lines := [] }))) c.u c.e)) ∧
  (∀ y s c, Acts (.isync y) s c → memOps c.un c.e (fun _ => true) = [] → c.un.at_.strand = false →
    let s1 := releaseCac s c.un
    exec (.isync y) s = .next (refetch (finish c { s1 with cores := s1.cores.map (fun k =>
      if syncCores s1 c.un y.scope k.1 then (k.1, { k.2 with icache := [] }) else k) }) c.u c.e)) ∧
  (∀ y s c, Acts (.sleep y) s c → c.word s c.low y.a = 0 → y.ev = false → exec (.sleep y) s = .next (finish c s)) ∧
  (∀ y s c, Acts (.sleep y) s c → c.word s c.low y.a ≠ 0 →
    let n := (c.word s c.low y.a).toNat
    let s1 := if isSync c.instr then logSync s c.u c.sp.low c.sp.pc else s
    exec (.sleep y) s = .next ((park (popAll s1 c.u c.instr) c.u c.e (.sleep s.now (some (s.now + n)) y.ev) 1).later n
      (.event (.sleepExpiry c.u c.e s.now)))) ∧
  (∀ s u e t un sp upto ev, s.unit? u = some un → un.split? e = some sp → sp.wait = some (.sleep t (some upto) ev) → upto ≤ s.now →
    un.stopped = false → (s.die un.die).frozen = false → un.halted = none →
    exec (.sleepExpiry u e t) s = .next (retire (s.modUnit u (fun un => un.modSplit e
      (fun x => { x with st := .ready, wait := none, stage := 0 }))) u e))

/-- CTLR, CTLW, ISYNC and SLEEP complete with the registers and waits the rules give. -/
def Obligations.ControlAndSleep : Prop :=
  Claims.ControlRegisters ∧ Claims.SyncAndSleep

/-- R242, R243: BKPT, and HALT where its cell is not armed for its context, trap with cause BKPT like TRAP; an armed HALT completes
and the cell's trigger fires. ERET in handler mode returns; outside it is illegal. -/
def Sys2Proof.Claims.BreakAndReturn : Prop :=
  (∀ y s c, Acts (.bkpt y) s c → c.lanes = c.sp.mask → exec (.bkpt y) s = .next
    (countRetired (takeTrap s c.u c.e { cause := causeBkpt, pc := c.sp.pc, addr := c.sp.pc }) c.u)) ∧
  (∀ h s c, Acts (.halt h) s c → c.lanes = c.sp.mask → armed s c.un.cell c.un.at_.ctx = false → exec (.halt h) s = .next
    (countRetired (takeTrap s c.u c.e { cause := causeBkpt, pc := c.sp.pc, addr := c.sp.pc }) c.u)) ∧
  (∀ h s c, Acts (.halt h) s c → armed s c.un.cell c.un.at_.ctx = true →
    exec (.halt h) s = .next (crossTrigger (finish c s) c.u c.un)) ∧
  (∀ h s c k m, Acts (.eret h) s c → c.un.mode = .handler k m →
    exec (.eret h) s = .next (stepTrap (returnFromHandler (countRetired s c.u) c.u c.e) c.u c.e)) ∧
  (∀ h s c, Acts (.eret h) s c → (∀ k m, c.un.mode ≠ .handler k m) → exec (.eret h) s = .next (trapHere s c.u c.e causeIllegalOp))

/-- R103, R305, Table 16-3: TAKING A TRAP stops the split, queues a record of the cause, the address, the lanes done and the retired
count for the handler, gives another ready split the unit, and leaves every register and all of memory alone. -/
def Sys2Proof.Claims.TrapEntry : Prop :=
  ∀ s u e un sp a, s.unit? u = some un → un.split? e = some sp →
    let t := takeTrap s u e a
    let r : TrapRec :=
      { cause := a.cause, entry := e, lane := if un.at_.strand then 0 else sp.low, pc := a.pc, addr := a.addr, done := a.done,
        count := a.count, flags := a.flags + (match un.mode with | .handler _ m => if sp.mask &&& ~~~m = 0 then 4 else 0 | _ => 0),
        retired := un.ctl.retired.toNat, stepped := a.stepped, cycle := s.now, die := un.die,
        unit := if un.at_.strand then un.strandId else unitField un,
        succ := if a.cause = causeTrap ∨ a.cause = causeBkpt then some (returnAddr sp a.pc) else none }
    t.mem = s.mem ∧ (∀ v, v ≠ u → t.unit? v = s.unit? v) ∧
    ∃ un', t.unit? u = some un' ∧ un'.traps = un.traps ++ [r] ∧ un'.regs = un.regs ∧ un'.ctl = un.ctl ∧ un'.mode = un.mode ∧
      un'.step = endStep un e ∧ un'.split? e = some { sp with st := .trapped, wait := none, walked := [] } ∧
      Turn.event (.faultRecordWrite un.die) ∈ t.agenda ++ t.calendar.map (·.2)

/-- R243, R307: a return from a handler ends handler mode, and a split with no join goes on at ctl.trapaddr, or after the instruction
there for TRAP and BKPT. -/
def Sys2Proof.Claims.HandlerReturn : Prop :=
  ∀ s u e m un r, s.unit? u = some un → un.mode = .handler e m → un.handled = some r →
    ∀ sp, un.split? e = some sp → sp.ra = none →
    let t := returnFromHandler s u e
    t.mem = s.mem ∧ ∃ un', t.unit? u = some un' ∧ un'.mode = .live ∧ un'.handled = none ∧ un'.parked = none ∧ un'.regs = un.regs ∧
      un'.ctl = un.ctl ∧ ∃ sp', un'.split? e = some sp' ∧ sp'.mask = sp.mask ∧ sp'.wait = none ∧
        (r.cause ≠ causeTrap → r.cause ≠ causeBkpt → sp'.pc = un.ctl.trapaddr) ∧
        (r.cause = causeTrap ∨ r.cause = causeBkpt →
          (∀ n, r.succ = some n → un.ctl.trapaddr = r.pc → sp'.pc = n) ∧
          (r.succ = none ∨ un.ctl.trapaddr ≠ r.pc →
            (headIx un.ctl.trapaddr < lineH (peekLine s un un.ctl.trapaddr) → sp'.pc = un.ctl.trapaddr + 2) ∧
            (lineH (peekLine s un un.ctl.trapaddr) ≤ headIx un.ctl.trapaddr → sp'.pc = lineBase un.ctl.trapaddr + 66)))

/-- BKPT, HALT and ERET; what taking a trap saves and where a handler returns. -/
def Obligations.TrapsAndHandlers : Prop :=
  Claims.BreakAndReturn ∧ Claims.TrapEntry ∧ Claims.HandlerReturn

/-- R310, R311: a page walk that finds a leaf completes: the leaf is in the cell's L2 TLB and the walk is over. One that fails leaves
every TLB as it was. -/
def Sys2Proof.Claims.PageWalkEnds : Prop :=
  (∀ s cell ctx va p, (s.cell cell).walks.any (fun w => w.ctx == ctx && w.va == va) = true → walk s ctx va = .leaf p →
    ∃ t, exec (.pageWalk cell ctx va) s = .next t ∧ p ∈ (t.cell cell).l2tlb ∧
      (t.cell cell).walks.any (fun w => w.ctx == ctx && w.va == va) = false ∧ t.mem = s.mem ∧ t.units = s.units) ∧
  (∀ s cell ctx va cause refused, (s.cell cell).walks.any (fun w => w.ctx == ctx && w.va == va) = true →
    walk s ctx va = .fail cause refused →
    ∃ t, exec (.pageWalk cell ctx va) s = .next t ∧ (t.cell cell).l2tlb = (s.cell cell).l2tlb ∧
      (t.cell cell).walks.any (fun w => w.ctx == ctx && w.va == va) = false ∧ t.mem = s.mem ∧
      ∀ u un e sp, s.unit? u = some un → un.cell = cell → un.at_.ctx = ctx → un.split? e = some sp → sp.wait = some (.walk [va]) →
        ∃ un' sp', t.unit? u = some un' ∧ un'.split? e = some sp' ∧ sp'.walked = (va, cause, refused) :: sp.walked)

/-- R24, R25: a remote fill that finds its register empty and none held before it is written in every live lane, and the register is
full; one that finds it otherwise is held at the core's interface, behind the earlier ones. -/
def Sys2Proof.Claims.RemoteFillDelivered : Prop :=
  (∀ s u un (n : Fin 1024) vals, s.unit? u = some un → feOf un (.v n) = .empty → un.at_.strand = false → un.liveLanes ≠ 0 →
    (s.core un.at_.core).fills.any (fun m => decide (m.u = u) && decide (m.r = .v n)) = false →
    ∃ t un', exec (.remoteFill u (.v n) vals) s = .next t ∧ t.mem = s.mem ∧ t.unit? u = some un' ∧ feOf un' (.v n) = .full ∧
      ∀ l ∈ lanesOf un.liveLanes, readV un' n.val l = vals.getD (if vals.length = 1 then 0 else l) 0) ∧
  (∀ s u un (n : Fin 64) vals, s.unit? u = some un → feOf un (.s n) = .empty → un.at_.strand = true → 0 ∈ lanesOf un.liveLanes →
    (s.score un.at_.core).fills.any (fun m => decide (m.u = u) && decide (m.r = .s n)) = false →
    ∃ t un', exec (.remoteFill u (.s n) vals) s = .next t ∧ t.mem = s.mem ∧ t.unit? u = some un' ∧ feOf un' (.s n) = .full ∧
      readS un' n.val = vals.headD 0) ∧
  (∀ s u un r vals, s.unit? u = some un → un.at_.strand = false → feOf un r ≠ .empty →
    ∃ t, exec (.remoteFill u r vals) s = .next t ∧ t.units = s.units ∧
      (t.core un.at_.core).fills = (s.core un.at_.core).fills ++ [⟨u, r, vals⟩]) ∧
  (∀ s u un r vals, s.unit? u = some un → un.at_.strand = true → feOf un r ≠ .empty →
    ∃ t, exec (.remoteFill u r vals) s = .next t ∧ t.units = s.units ∧
      (t.score un.at_.core).fills = (s.score un.at_.core).fills ++ [⟨u, r, vals⟩])

/-- R226: a record that fits in the 64 words of its result queue is appended whole, behind the words there; one that does not fit
waits. -/
def Sys2Proof.Claims.ResultRecords : Prop :=
  ∀ s u un (r : Nat) (rec : ResRec), s.unit? u = some un → un.eng.waiting = [(r, rec)] →
    (∀ x ∈ un.splits, ∀ t n, x.2.wait ≠ some (.sleep t n true)) →
    ∃ t un', exec (.resultRecordAppend u r) s = .next t ∧ t.unit? u = some un' ∧ un'.regs = un.regs ∧
      ((resultQ un r).length + rec.words.length ≤ 64 → resultQ un' r = resultQ un r ++ rec.words ∧ un'.eng.waiting = []) ∧
      (64 < (resultQ un r).length + rec.words.length → resultQ un' r = resultQ un r ∧ un'.eng.waiting = [(r, rec)])

/-- R298: at the end of a window the load limit of a core moves by the loads counted and those that found their line in the victim
store. -/
def Sys2Proof.Claims.LoadLimit : Prop :=
  ∀ s core, s.now % 4096 = 0 → ∃ t, exec (.loadLimitWindow core) s = .next t ∧
    let k := s.core core
    let n := k.loads
    let v := k.victimHits
    let l := k.limit
    (t.core core).loads = 0 ∧ (t.core core).victimHits = 0 ∧
    (n < 4 * v → 12 ≤ l → (t.core core).limit = l - 8) ∧
    (n < 4 * v → l < 12 → (t.core core).limit = 4) ∧
    (¬ n < 4 * v → 16 * v < n ∨ n = 0 → (t.core core).limit = if l = 4 then 8 else min (l + 8) 128) ∧
    (¬ n < 4 * v → ¬ (16 * v < n ∨ n = 0) → (t.core core).limit = l)

/-- Page walks end, remote fills and result records are delivered, the load limit moves. -/
def Obligations.UnitEvents : Prop :=
  Claims.PageWalkEnds ∧ Claims.RemoteFillDelivered ∧ Claims.ResultRecords ∧ Claims.LoadLimit

/-- R296: of the groups ranked, at most four issue, in rank order, and at most one of them to the special-function unit; a starving
group ranks before every group that is not. -/
def Sys2Proof.Claims.SelectionRank : Prop :=
  (∀ free l, (takeSlots free l).length ≤ 4 ∧ (takeSlots free l).Sublist (l.map (·.u))) ∧
  (∀ l a b, a ∈ l → b ∈ l → a.wait ≥ 1024 → b.wait < 1024 →
    ∃ x y z, rank l = x ++ a :: y ++ b :: z) ∧
  (∀ l c, c ∈ rank l ↔ c ∈ l) ∧
  ∀ l, (∀ c ∈ l, c.special = true) → (takeSlots true l).length ≤ 1 ∧ takeSlots false l = []

/-- R296, R299: a selection completes. A group alone in C issues in this cycle where nothing withholds it; a strand core gives its
turn to the first thread, after the one that issued last, whose next instruction would not park. -/
def Sys2Proof.Claims.Selections : Prop :=
  (∀ s core u x, coreUnits s core = [u] → prepare s u = s → candidate s u = some x →
    (x.graphics = true ∨ x.load = false ∨ x.wait ≥ 1024 ∨ 0 < (s.core core).limit) →
    (x.special = true → (s.core core).sfuFree ≤ s.now) →
    exec (.issueSelect core) s = .next ((s.modUnit u (fun un => { un with sched := { un.sched with wait := 0 } })).soon (.issue u))) ∧
  (∀ s sc k, (∀ t < 4, prepare s (threadUid sc t) = s) → k < 4 →
    let thread (i : Nat) : Nat := ((s.score sc).last + 1 + i) % 4
    (∀ i < k, candidate s (threadUid sc (thread i)) = none) → (candidate s (threadUid sc (thread k))).isSome = true →
    exec (.strandIssueSelect sc) s = .next
      ((s.modScore sc (fun c => { c with last := thread k })).soon (.issue (threadUid sc (thread k)))))

/-- The rank of groups that may issue, and the selections of a core and a strand core. -/
def Obligations.IssueSelection : Prop :=
  Claims.SelectionRank ∧ Claims.Selections

/-- R265: sending the dirty bytes of a line a core holds merges them at the slice as a single write, where the host
does not refuse them; the copy stays and is clean. -/
def Sys2Proof.Claims.DirtyBytesSent : Prop :=
  ∀ s core line key l, cacFind (s.core core) line = some (key, l) → l.dirty ≠ [] → (l.dirty.map (·.1)).Nodup →
    ((s.core core).ci.lines.map (·.2.line)).Nodup → (∀ e ∈ l.dirty, e.1 < 128) →
    (∀ e ∈ l.dirty, unbackedAt s (128 * line + e.1) = false) →
    ∃ t, exec (.cacWriteback core line) s = .next t ∧
      (∀ i < 128, rd8 t (128 * line + i) = if i ∈ l.dirty.map (·.1) then Tab.get 0 l.data i else rd8 s (128 * line + i)) ∧
      (∀ a, (a < 128 * line ∨ 128 * line + 128 ≤ a) → rd8 t a = rd8 s a) ∧
      ∃ l', cacFind (t.core core) line = some (key, l') ∧ l'.dirty = []

/-- R210, R22: a word that reaches a bound receive register fills it and leaves its sender's buffer; while the register
still holds a word it waits a cycle; at an unbound one it is counted and dropped. -/
def Sys2Proof.Claims.PortWords : Prop :=
  (∀ s u v pair w un x r, s.unit? u = some un → s.unit? v = some x →
    (portOf un (2 * pair)).peer = some (v, r) → (portOf x r).peer = some (u, 2 * pair) →
    (portOf un (2 * pair)).word = none → (∀ y ∈ un.splits, ∀ t n, y.2.wait ≠ some (.sleep t n true)) →
    ∃ t un' x', exec (.portWordArrival u pair w) s = .next t ∧ t.unit? u = some un' ∧ t.unit? v = some x' ∧
      (portOf un' (2 * pair)).word = some w ∧ (portOf un' (2 * pair)).peer = some (v, r) ∧ (portOf x' r).sent = none ∧ t.mem = s.mem) ∧
  (∀ s u pair w un z, s.unit? u = some un → (portOf un (2 * pair)).peer = some z → (portOf un (2 * pair)).word ≠ none →
    exec (.portWordArrival u pair w) s = .next (s.later 1 (.event (.portWordArrival u pair w)))) ∧
  (∀ s u pair w un, s.unit? u = some un → (portOf un (2 * pair)).peer = none →
    exec (.portWordArrival u pair w) s = .next (if un.at_.strand
      then s.modScore un.at_.core (fun c => { c with recv := c.recv + 1 })
      else s.modCore un.at_.core (fun c => { c with recv := c.recv + 1 })))

/-- R206: an arrival message is counted, marked in its sweep, and the sweep goes on from its position; a release message is counted
and releases the team at its position. -/
def Sys2Proof.Claims.ClusterSweeps : Prop :=
  (∀ s cl k rect x y column, s.cluster? cl = some k →
    let p := y * k.w + x
    exec (.barcSweepArrival cl rect x y column) s = .next (sweepStep
      ((s.modCore (coreAtPos s k p) (fun c => { c with recv := c.recv + 1 })).modCluster cl (fun k => { k with
        sweeps := Tab.put k.sweeps rect (let z := sweepOf k rect
          if column then { z with colIn := p :: z.colIn } else { z with rowIn := p :: z.rowIn }) })) cl rect p)) ∧
  (∀ s cl k x y, s.cluster? cl = some k → k.w < 16 → k.h < 16 → 0 < x → x < k.w →
    let p := y * k.w + x
    let rect := k.w * 256 + k.h * 4096
    p ∈ (sweepOf k rect).arrived → p ∉ (sweepOf k rect).rowSent →
    ∃ t, exec (.barcSweepArrival cl rect x y false) s = .next t ∧
      (s.now + 4 * meshSteps (coreAtPos s k p) (coreAtPos s k (p - 1)), Turn.event (.barcSweepArrival cl rect (x - 1) y false))
        ∈ t.calendar) ∧
  (∀ s cl k rect x y, s.cluster? cl = some k →
    let p := y * k.w + x
    exec (.barcSweepRelease cl rect x y) s = .next
      (stepGone (releaseAt (s.modCore (coreAtPos s k p) (fun c => { c with recv := c.recv + 1 })) cl rect p) cl rect))

/-- R207, R363: the release of a grid barrier reaches a core, which takes the new phase; its CAC lines are given up and its teams'
waiting groups go on. A release already taken does nothing. -/
def Sys2Proof.Claims.GridRelease : Prop :=
  (∀ s task core t, s.task? task = some t → ((Tab.find? t.phase core).getD (0, 0)).1 < t.barriers →
    (gridTeams s task).filter (fun e => decide (e.2.core = core)) = [] →
    exec (.gridBarrierRelease task core) s = .next
      (invalidateCac (s.modTask task (fun t => { t with phase := Tab.put t.phase core (t.barriers, s.now) })) core)) ∧
  (∀ s task core t key tm, s.task? task = some t → ((Tab.find? t.phase core).getD (0, 0)).1 < t.barriers →
    (gridTeams s task).filter (fun e => decide (e.2.core = core)) = [(key, tm)] →
    let s1 := invalidateCac (s.modTask task (fun t => { t with phase := Tab.put t.phase core (t.barriers, s.now) })) core
    let s2 := s1.modTeam key (fun x => { x with
      gridAt := none, latch := if t.lastVote = true ∧ t.barriers % 2 = 1 then none else x.latch })
    let s3 := releaseTeam s2 key .gbar s2.now (gridEffect t.barriers t.lastVote .gbar)
    exec (.gridBarrierRelease task core) s = .next (releaseTeam s3 key .voteg s3.now (gridEffect t.barriers t.lastVote .voteg))) ∧
  (∀ s task core t, s.task? task = some t → t.barriers ≤ ((Tab.find? t.phase core).getD (0, 0)).1 →
    exec (.gridBarrierRelease task core) s = .next s)

/-- Dirty bytes, port words, cluster sweeps and grid releases arrive. -/
def Obligations.MessagesArrive : Prop :=
  Claims.DirtyBytesSent ∧ Claims.PortWords ∧ Claims.ClusterSweeps ∧ Claims.GridRelease

/-- R190, R195: the head entry of an idle array whose operand slots are full starts: it reads its tiles, names them in the latches,
leaves the queue, and finishes after the larger of its compute and read times. MST takes 16 cycles, MZERO one. -/
def Sys2Proof.Claims.EntryStarts : Prop :=
  (∀ s core e rest (y : Mma) compute, (e.instr = .mma y ∧ compute = 12 ∨ e.instr = .mmaF32 y ∧ compute = 24) →
    let m := (s.core core).mx
    m.exec = none → m.queue = e :: rest → operandFull m e y.a.val = true → operandFull m e y.b.val = true →
    let ua := if m.latchA = tileName m y.a.val then 0 else 1
    let ub := if m.latchB = tileName m y.b.val then 0 else 1
    let fin := s.now + max compute (4 * ceilDiv (48 * (ua + ub)) m.n)
    ∃ t r, exec (.matrixEntryStart core) s = .next t ∧ (t.core core).mx.exec = some r ∧ r.entry = e ∧ r.a = tileData m y.a.val ∧
      r.b = tileData m y.b.val ∧ r.fin = fin ∧ (t.core core).mx.queue = rest ∧ (t.core core).mx.acc = m.acc ∧
      (t.core core).mx.latchA = tileName m y.a.val ∧ (t.core core).mx.latchB = tileName m y.b.val ∧
      (fin, Turn.event (.matrixEntryFinish core)) ∈ t.calendar) ∧
  (∀ s core e rest k, ((∃ y, e.instr = .mst y) ∧ k = 16 ∨ (∃ y, e.instr = .mzero y) ∧ k = 1) →
    let m := (s.core core).mx
    m.exec = none → m.queue = e :: rest →
    ∃ t r, exec (.matrixEntryStart core) s = .next t ∧ (t.core core).mx.exec = some r ∧ r.entry = e ∧ r.fin = s.now + k ∧
      (t.core core).mx.queue = rest ∧ (t.core core).mx.acc = m.acc ∧
      (s.now + k, Turn.event (.matrixEntryFinish core)) ∈ t.calendar)

/-- R191, R192, R194: an entry that finishes leaves its accumulator multiplied or +0, raises its flags in the group that issued it
while the team holds the array, and leaves the array free for the next entry. -/
def Sys2Proof.Claims.EntryFinishes : Prop :=
  let ends (s t : State) (core : Nat) (e : MEntry) (fl : Nat) : Prop :=
    (t.core core).mx.exec = none ∧ (t.core core).mx.queue = (s.core core).mx.queue ∧ t.mem = s.mem ∧
      ∀ un, s.unit? e.unit = some un → (s.core core).mx.holder = some un.at_.team →
        ∃ un', t.unit? e.unit = some un' ∧ un'.ctl.mflags = un.ctl.mflags ||| BitVec.ofNat 32 fl ∧ un'.regs = un.regs
  let held (s : State) (core : Nat) (r : MRun) : Prop :=
    (s.core core).mx.exec = some r ∧ r.fin ≤ s.now ∧ ∃ key tm, (s.core core).mx.holder = some key ∧ s.team? key = some tm
  (∀ s core r (y : Mma) k w f, held s core r →
    (r.entry.instr = .mma y ∧ k = 48 ∧ w = 47 ∧ f = fmtBf16 ∨ r.entry.instr = .gangMma y ∧ k = 48 ∧ w = 47 ∧ f = fmtBf16 ∨
      r.entry.instr = .mmaF32 y ∧ k = 24 ∧ w = 63 ∧ f = fmtF32) →
    let z := multiplied (s.core core).mx y.acc.val k w f r.a r.b
    ∃ t, exec (.matrixEntryFinish core) s = .next t ∧ (t.core core).mx.acc = z.1 ∧ ends s t core r.entry z.2) ∧
  (∀ s core r y, held s core r → r.entry.instr = .mzero y →
    ∃ t, exec (.matrixEntryFinish core) s = .next t ∧ ends s t core r.entry 0 ∧
      ∀ acc i j, i < 32 → j < 32 → accAt (t.core core).mx acc i j = if acc = y.acc.val then 0 else accAt (s.core core).mx acc i j)

/-- R193: an MST that finishes stores the 32 rows of its accumulator in its format, with .CLR clears the accumulator, and raises the
flags of the conversions. -/
def Sys2Proof.Claims.MatrixStoreFinishes : Prop :=
  ∀ s core r (y : Mst) un o, (s.core core).mx.exec = some r → r.fin ≤ s.now → r.entry.instr = .mst y →
    s.unit? r.entry.unit = some un → Tab.find? un.ops r.entry.op = some o → mustWait un r.entry.op o = false →
    (y.glb = false → scrBusy (s.core core) = false) →
    let rows := o.place.flatMap (fun (e : Nat × Place) => placeRun e.2
      (((List.range 32).map (fun j => storedElement y.fmt y.sat (accAt (s.core core).mx y.acc.val e.1 j))).flatMap
        (fun r => bytesOf (storeElement y.fmt) r.1)))
    let flags := ((o.place.flatMap (fun (e : Nat × Place) =>
      (List.range 32).map (fun j => (storedElement y.fmt y.sat (accAt (s.core core).mx y.acc.val e.1 j)).2))).foldl (· ||| ·) 0)
    let s1 := storePlaces s core rows
    let s2 := if y.clr then s1.modMx core (fun m => { m with acc := m.acc.filter (fun e => decide (e.1 / 1024 ≠ y.acc.val)) }) else s1
    exec (.matrixEntryFinish core) s = .next (endEntry (awaitSlices s2 r.entry.unit r.entry.op) core r.entry flags)

/-- R185, R187, R190, R195: a staging that has its bytes writes its slot once it may and the banks of its rows have given their slots:
the slot holds the tile, is full unless another staging
into it is under way, and its conversions' flags go to the group. Before, it asks the banks for them. One that has none, with no multicast,
reads its lines so. -/
def Sys2Proof.Claims.StagingEnds : Prop :=
  let served (s : State) (core k : Nat) (rows : List (Nat × Nat × Nat)) : Prop :=
    (∀ r ∈ slotReqs s (.pend core k), r.rows = 0) ∧ (slotReqs s (.pend core k) = [] → rows = [])
  (∀ s core k p un b y o bs x, Tab.find? (s.core core).mx.pend k = some p → s.unit? p.unit = some un →
    stageOf p.instr = some (b, y) → Tab.find? un.ops p.op = some o → p.bytes = some bs → slotFree (s.core core).mx k p = true →
    Tab.find? (s.core core).mx.slots p.slot = some x → served s core k (slotRows s core p.slot) →
    ∃ t un' x', exec (.stagingComplete core k) s = .next t ∧ Tab.find? (t.core core).mx.pend k = none ∧
      Tab.find? (t.core core).mx.slots p.slot = some x' ∧ x'.data = (stageTile b y bs).1 ∧ x'.version = x.version + 1 ∧
      (x'.full = true ↔ ∀ q ∈ (s.core core).mx.pend, q.1 ≠ k → q.2.slot ≠ p.slot) ∧
      t.unit? p.unit = some un' ∧ un'.ctl.mflags = un.ctl.mflags ||| BitVec.ofNat 32 (stageTile b y bs).2) ∧
  (∀ s core k p un b y o, Tab.find? (s.core core).mx.pend k = some p → s.unit? p.unit = some un →
    stageOf p.instr = some (b, y) → y.space ≠ .rmt → Tab.find? un.ops p.op = some o → p.bytes = none → p.window = none → p.tag = 0 →
    sourceReady s p o core = true → served s core k (sourceRows s o core) →
    ∃ t p', exec (.stagingComplete core k) s = .next t ∧ Tab.find? (t.core core).mx.pend k = some p' ∧
      p'.bytes = some (readLines s o) ∧ (s.now + 1, Turn.event (.stagingComplete core k)) ∈ t.calendar) ∧
  (∀ s core k p un b y o bs, Tab.find? (s.core core).mx.pend k = some p → s.unit? p.unit = some un →
    stageOf p.instr = some (b, y) → Tab.find? un.ops p.op = some o → p.bytes = some bs → slotFree (s.core core).mx k p = true →
    slotReqs s (.pend core k) = [] → slotRows s core p.slot ≠ [] →
    exec (.stagingComplete core k) s = .next
      ((askSlots s (.pend core k) .staging (slotRows s core p.slot)).later 1 (.event (.stagingComplete core k))))

/-- Entries of the array start and finish, MST stores its rows, stagings end. -/
def Obligations.ArrayEvents : Prop :=
  Claims.EntryStarts ∧ Claims.EntryFinishes ∧ Claims.MatrixStoreFinishes ∧ Claims.StagingEnds

/-- R188, R27: 64 cycles after it opened, and once the source's banks have served it, a window's one read of the source's lines goes
to every requester, its data counted once for each receiving core. -/
def Sys2Proof.Claims.WindowRead : Prop :=
  ∀ s core w x (reqs : List ((Nat × Nat) × PendStage × Op)), Tab.find? (s.core core).windows w = some x → x.opened + 64 ≤ s.now →
    reqs ≠ [] → x.req = reqs.map (·.1) →
    (∀ r ∈ reqs, Tab.find? (s.core r.1.1).mx.pend r.1.2 = some r.2.1 ∧
      (∃ un, s.unit? r.2.1.unit = some un ∧ Tab.find? un.ops r.2.1.op = some r.2.2) ∧ sourceReady s r.2.1 r.2.2 core = true) →
    ∀ r₀ rest, reqs = r₀ :: rest →
    slotReqs s (.window core w) ≠ [] → (∀ q ∈ slotReqs s (.window core w), q.rows = 0) →
    let s1 := (dropSlots s (fun z => decide (z = .window core w))).modCore core (fun k => { k with windows := Tab.del k.windows w })
    let s2 := (reqs.map (fun r => r.1.1)).eraseDups.foldl (fun s c =>
      (s.modCore core (fun k => { k with sent := k.sent + 1 })).modCore c (fun k => { k with recv := k.recv + 1 })) s1
    exec (.multicastWindowRead core w) s = .next (reqs.foldl (fun s r => deliverLines s r.1.1 r.1.2 (readLines s1 r₀.2.2)) s2)

/-- R197: a joint operation starts on every core of the row in one cycle, all with the origin's A tile. -/
def Sys2Proof.Claims.JointStart : Prop :=
  ∀ s c cs y e rest, jointRow s c = some (c :: cs) → (s.core c).mx.queue = e :: rest → e.instr = .gangMma y →
    exec (.jointOperationStart c) s = .next (cs.foldl (fun s c' => startEntry ((s.modCore c (fun k => { k with sent := k.sent + 1 })).modCore
      c' (fun k => { k with recv := k.recv + 1 })) c' (some (tileData (s.core c).mx y.a.val))) (startEntry s c none)) ∧
    ∀ (wired : Option (Tab Nat)), ∃ r, ((startEntry s c wired).core c).mx.exec = some r ∧ r.entry = e ∧
      r.a = wired.getD (tileData (s.core c).mx y.a.val) ∧ r.b = tileData (s.core c).mx y.b.val

/-- R182, R254, R256: a relocation that is over is over, and an array whose team has gone is then released; a Switch at its frame
boundary changes the lists of donor and receiver and no other; a Rebuild follows four cycles later, takes four cycles for each row of
the bank with the most, and ends with the move complete and outcome 0 for POOLW. -/
def Sys2Proof.Claims.MovePhases : Prop :=
  (∀ s core b at_, (s.core core).mx.reloc = some (b, at_) → at_ ≤ s.now →
    exec (.relocationComplete core) s = .next (freeGone (s.modMx core (fun m => { m with reloc := none })) core)) ∧
  (∀ s core m d, (s.core core).ci.move = some m → m.phase = .prepare → m.due = some d → d ≤ s.now → m.wait = false → m.tiles = [] →
    m.donor ≠ m.recv →
    let ci := (s.core core).ci
    let from_ := roleList ci m.donor
    let dest := roleList ci m.recv
    let keep := if m.recv = .scr then dest.length - (s.core core).mx.n else dest.length
    ∃ t, exec (.moveSwitch core) s = .next t ∧ t.mem = s.mem ∧
      let ci' := (t.core core).ci
      ci'.move = some { m with phase := .switch, due := some (s.now + 4) } ∧ roleList ci' m.donor = from_.take (from_.length - m.k) ∧
      roleList ci' m.recv = dest.take keep ++ from_.drop (from_.length - m.k) ++ dest.drop keep ∧
      (∀ r, r ≠ m.donor → r ≠ m.recv → roleList ci' r = roleList ci r) ∧
      (s.now + 4, Turn.event (.moveRebuild core)) ∈ t.calendar) ∧
  (∀ s core m d, (s.core core).ci.move = some m → m.phase = .switch → m.due = some d → d ≤ s.now →
    let q := largest (rebuild s core m).2
    ∃ t, exec (.moveRebuild core) s = .next t ∧
      (t.core core).ci.move = some { m with phase := .rebuild, due := some (s.now + 4 * q) } ∧
      (q = 0 → Turn.event (.moveComplete core) ∈ t.agenda) ∧
      (q ≠ 0 → (s.now + 4 * q, Turn.event (.moveComplete core)) ∈ t.calendar)) ∧
  (∀ s core m tm d, (s.core core).ci.move = some m → m.phase = .rebuild → m.due = some d → d ≤ s.now → s.team? m.team = some tm →
    (∀ key, (s.core core).mx.holder = some key → (s.team? key).isSome = true) →
    ∃ t tm', exec (.moveComplete core) s = .next t ∧ t.mem = s.mem ∧ (t.core core).ci.move = none ∧
      (∀ r, roleList (t.core core).ci r = roleList (s.core core).ci r) ∧ t.team? m.team = some tm' ∧ tm'.poolw = some 0) ∧
  (∀ s core m, (s.core core).ci.move = some m → m.wait = true → m.phase = .prepare →
    regHeld (s.core core).ci ((s.core core).ci.reg.length - m.k) = false →
    exec (.moveWaitRelease core) s =
      .next (planSwitch (s.modCi core (fun ci => { ci with move := some { m with wait := false } })) core (s.now + 1)))

/-- R248, Table 13-1: when the last team of a core has left, its lists return to bring-up, no line or tile is left, and the load limit
is 128. -/
def Sys2Proof.Claims.ListsReturn : Prop :=
  ∀ s core, mayReturn s core = true → ∃ t, exec (.roleListReturn core) s = .next t ∧
    (t.core core).ci.reg = List.range 24 ∧ (t.core core).ci.scr = (List.range 12).map (· + 24) ∧
    (t.core core).ci.cac = (List.range 8).map (· + 36) ∧ (t.core core).ci.til = (List.range 4).map (· + 44) ∧
    (t.core core).ci.lines = [] ∧ (t.core core).ci.tiles = [] ∧ (t.core core).limit = 128

/-- Multicast windows, joint starts, the phases of a boundary move, and the lists' return. -/
def Obligations.MulticastAndMoves : Prop :=
  Claims.WindowRead ∧ Claims.JointStart ∧ Claims.MovePhases ∧ Claims.ListsReturn

/-- R227, R245: what stands before a command's event is over: no memory instruction that its unit issued before the last push is
outstanding, and the banks of the rows given have given their slots. -/
def Sys2Proof.Claims.CommandServed (s : State) (core k : Nat) (cmd : CopyCmd) (rows : List (Nat × Nat × Nat)) : Prop :=
  pushHeld s cmd.unit cmd.after = false ∧ (∀ r ∈ slotReqs s (.cmd core k), r.rows = 0) ∧
    (slotReqs s (.cmd core k) = [] → rows = [])

/-- R229: a COPY of one row of bytes inside the scratchpad of its team, its source and destination apart: the destination holds the
source's bytes, nothing else changes, and the command is done. -/
def Sys2Proof.Claims.CopyMovesBytes : Prop :=
  ∀ s core k cmd tm, cmd? s core k = some cmd → cmd.st = .live → cmd.pos = 0 → engineStopped s core = false →
    copyMalformed s core cmd = some false → cmdWaits s core k cmd = false → Claims.CommandServed s core k cmd (cmdRows s core cmd) → s.team? cmd.team = some tm →
    let a := copyArgs cmd.words
    a.op = 0 → a.cvt = 0 → a.rows = 0 → a.sspace = 1 → a.dspace = 1 → (a.src + a.len ≤ a.dst ∨ a.dst + a.len ≤ a.src) →
    tm.scrSize ≤ 2 ^ 24 →
    ∃ t tm' c, exec (.copy core k) s = .next t ∧ t.mem = s.mem ∧ t.units = s.units ∧ t.team? cmd.team = some tm' ∧
      (∀ j < a.len, tm'.byte (a.dst + j) = tm.byte (a.src + j)) ∧
      (∀ o, (o < a.dst ∨ a.dst + a.len ≤ o) → tm'.byte o = tm.byte o) ∧ cmd? t core k = some c ∧ c.st = .done

/-- R229: a FILL of one row of global memory writes its word over and over and no other byte; a VFILL from the scratchpad puts byte p of
its source in byte p of its registers, register by register and lane by lane, and no other register changes. -/
def Sys2Proof.Claims.FillsWriteBytes : Prop :=
  (∀ s core k cmd (pa : Nat), cmd? s core k = some cmd → cmd.st = .live → cmd.pos = 0 → engineStopped s core = false →
    copyMalformed s core cmd = some false → cmdWaits s core k cmd = false → Claims.CommandServed s core k cmd (cmdRows s core cmd) →
    let a := copyArgs cmd.words
    a.op = 1 → a.rows = 0 → a.dspace = 0 → a.dst + a.len ≤ 2 ^ 64 →
    (∀ j < a.len, xlate s cmd.ctx (a.dst + j) true = .ok (pa + j) ∧ unbackedAt s (pa + j) = false) →
    ∃ t c, exec (.fill core k) s = .next t ∧ t.units = s.units ∧ t.teams = s.teams ∧
      (∀ j < a.len, rd8 t (pa + j) = (bytesOf 4 (a.src % 2 ^ 32)).getD (j % 4) 0) ∧
      (∀ b, (b < pa ∨ pa + a.len ≤ b) → rd8 t b = rd8 s b) ∧ cmd? t core k = some c ∧ c.st = .done) ∧
  (∀ s core k cmd tm un, cmd? s core k = some cmd → cmd.st = .live → cmd.pos = 0 → engineStopped s core = false →
    copyMalformed s core cmd = some false → cmdWaits s core k cmd = false → Claims.CommandServed s core k cmd (cmdRows s core cmd) → s.team? cmd.team = some tm → s.unit? cmd.unit = some un →
    let a := copyArgs cmd.words
    let span := vfillSpan cmd.words
    a.op = 2 → a.cvt = 0 → a.sspace = 1 → tm.scrSize ≤ 2 ^ 24 →
    ∃ t un' c, exec (.vfill core k) s = .next t ∧ t.mem = s.mem ∧ t.teams = s.teams ∧ t.unit? cmd.unit = some un' ∧
      (∀ i < span.2, ∀ l < 32, readV un' (span.1 + i) l = BitVec.ofNat 32 (ofBytes (scrBytes tm (a.src + 128 * i + 4 * l) 4))) ∧
      (∀ n l, l < 32 → (n < span.1 ∨ span.1 + span.2 ≤ n) → readV un' n l = readV un n l) ∧
      cmd? t core k = some c ∧ c.st = .done)

/-- COPY, FILL and VFILL move the bytes they name and no others. -/
def Obligations.CopyEngineMovesBytes : Prop :=
  Claims.CopyMovesBytes ∧ Claims.FillsWriteBytes

/-- R366, R367: a PLAN that keeps the rules reads and latches its plan and plans its first send at the release's cycle plus the
entry's offset or later. A send writes the source granules, as they are, at the target team and nothing else, and counts itself; to a
team that has retired it writes nothing, and the command fails. -/
def Sys2Proof.Claims.ExchangePlans : Prop :=
  (∀ s core k cmd tm g c rel, cmd? s core k = some cmd → cmd.st = .live → engineStopped s core = false →
    copyMalformed s core cmd = some false → cmdWaits s core k cmd = false → Claims.CommandServed s core k cmd (cmdRows s core cmd) →
    s.team? cmd.team = some tm → s.task? tm.task = some g →
    scrBusy (s.core core) = false → (Tab.find? g.phase core).getD (0, 0) = (c, rel) → g.rec_.superstep = true → tm.sump = false →
    c % 2 = 1 → tm.planAt ≠ some c → tm.latch = none →
    let at_ := (copyArgs cmd.words).src
    let n := leAt (scrBytes tm at_ 2) 0 2
    planOk tm at_ (g.rec_.count * (g.rec_.clw * g.rec_.clh)) = true →
    ∃ t tm' c' d, exec (.plan core k) s = .next t ∧ t.team? cmd.team = some tm' ∧ tm'.latch = some (at_, 16 + 16 * n) ∧
      tm'.planAt = some c ∧ cmd? t core k = some c' ∧ c'.plan = (List.range n).map (fun i => scrBytes tm (at_ + 16 + 16 * i) 16) ∧
      c'.sends = 0 ∧ c'.rel = rel ∧ (d, Turn.event (.planSend core k 0)) ∈ t.calendar ∧ s.now < d ∧
      rel + leAt (scrBytes tm (at_ + 16) 16) 0 4 ≤ d) ∧
  (∀ s core k i cmd tm key x e, cmd? s core k = some cmd → s.team? cmd.team = some tm → cmd.st = .live → cmd.sends = i →
    sendOf cmd i = some e → cmd.rel + e.off ≤ s.now → planTarget s tm.task e = some (key, x) →
    s.team? key = some x → engineStopped s core = false → scrBusy (s.core core) = false → scrBusy (s.core x.core) = false →
    runsWait s core k (sendRuns s cmd e) = false → Claims.CommandServed s core k cmd (sendRows s core cmd e (some (key, x))) →
    let n := 64 * e.len
    64 * e.dst + n ≤ x.scrSize → latched x (64 * e.dst) n = false →
    ∃ t x' c, exec (.planSend core k i) s = .next t ∧ t.mem = s.mem ∧ t.units = s.units ∧ t.team? key = some x' ∧
      (∀ j < n, x'.byte (64 * e.dst + j) = tm.byte (64 * e.src + j)) ∧
      (∀ o, (o < 64 * e.dst ∨ 64 * e.dst + n ≤ o) → x'.byte o = x.byte o) ∧ cmd? t core k = some c ∧ c.sends = i + 1) ∧
  (∀ s core k i cmd tm e, cmd? s core k = some cmd → s.team? cmd.team = some tm → cmd.st = .live → cmd.sends = i → cmd.failed = false →
    sendOf cmd i = some e → cmd.rel + e.off ≤ s.now → planTarget s tm.task e = none → engineStopped s core = false →
    scrBusy (s.core core) = false → runsWait s core k (sendRuns s cmd e) = false →
    Claims.CommandServed s core k cmd (sendRows s core cmd e none) →
    ∃ t c, exec (.planSend core k i) s = .next t ∧ t.mem = s.mem ∧ t.teams = s.teams ∧ cmd? t core k = some c ∧ c.sends = i + 1 ∧
      c.failed = true ∧ c.addr = BitVec.ofNat 64 (64 * e.dst))

/-- R229 to R231: a command that completes frees its entry, counts in its batch, makes the span of a VFILL full, and sends its record
where it failed or asks for one: cause, flags and batch. -/
def Sys2Proof.Claims.CommandCompletes : Prop :=
  ∀ s core k cmd un, cmd? s core k = some cmd → cmd.st = .done → s.unit? cmd.unit = some un →
    let a := copyArgs cmd.words
    let bad := cmd.malformed || cmd.failed
    let cause := if bad = false then 0 else if cmd.malformed = true ∨ a.op = 4 then causeEngineError else causePagePerm
    let b := Tab.get ⟨0, none, []⟩ un.eng.batches cmd.batch.toNat
    ∃ t un' b', exec (.copyComplete core k) s = .next t ∧ t.mem = s.mem ∧ cmd? t core k = none ∧ t.unit? cmd.unit = some un' ∧
      Tab.find? un'.eng.batches cmd.batch.toNat = some b' ∧ b'.left = b.left - 1 ∧ b'.writes = b.writes ++ cmd.writes ∧
      (bad = false → b'.failed = b.failed) ∧ (bad = true → b'.failed = some (b.failed.getD cmd.addr)) ∧
      (∀ tm, a.op = 2 → s.team? un.at_.team = some tm → (vfillSpan cmd.words).1 + (vfillSpan cmd.words).2 ≤ 8 * tm.regblk →
        ∀ i < (vfillSpan cmd.words).2, Tab.get .full un'.regs.vfe ((vfillSpan cmd.words).1 + i) = .full) ∧
      un'.eng.waiting = un.eng.waiting ++ (if bad || a.notify then
        [(0, ⟨[BitVec.ofNat 32 (cause + 256 * cmd.flags), cmd.batch], cmd.writes, true⟩)] else [])

/-- PLAN and its sends keep to the exchange rules; a command that completes is recorded. -/
def Obligations.PlansAndCompletions : Prop :=
  Claims.ExchangePlans ∧ Claims.CommandCompletes

/-- R346, R347, R357, R234: OPEN binds a session whose fields and rank table pass its checks, and acknowledges; CLOSE marks the
session and, with no frame open, has it close; a session that closes is gone, and its CLOSE is acknowledged. -/
def Sys2Proof.Claims.SessionsOpenAndClose : Prop :=
  let takes (s : State) (die k : Nat) (c : FabCmd) (code words : Nat) : Prop :=
    Tab.find? (s.die die).mergeCmds k = some c ∧ (∀ e ∈ (s.die die).mergeCmds, k ≤ e.1) ∧ c.code = code ∧ c.words.length = words ∧
      bit (cw c.words 0) 15 = false ∧ pushHeld s c.unit c.after = false
  let acked (s t : State) (c : FabCmd) (st : Nat) : Prop := c.ack ≠ 7 → ∀ un, s.unit? c.unit = some un →
    ∃ un', t.unit? c.unit = some un' ∧ un'.eng.waiting = un.eng.waiting ++ [(c.ack + 1, ⟨[ackWord c st], [], true⟩)]
  (∀ s die k c bs, takes s die k c 1 8 → openBad c.words = false → session? s die c.object = none →
    (s.die die).sessions.length < 64 →
    ((s.die die).sessions.map (·.2.slots)).sum + bits (cw c.words 7) 12 0 ≤ 4096 →
    rdVirt s c.ctx (cw c.words 5 + 2 ^ 32 * cw c.words 6) 528 = some bs →
    let n := bits (cw c.words 1) 16 8
    let ranks := (List.range n).map (fun i => leAt bs (2 * i) 2)
    let x := newSession s c ranks
    (s.die die).nodeId = some (ranks.getD x.rank 0) → ranks.Nodup →
    ∃ t, exec (.mergeOpen die k) s = .next t ∧ session? t die c.object = some x ∧ x.ctx = c.ctx ∧ x.n = n ∧
      x.rank = bits (cw c.words 1) 31 24 ∧ x.frames = [] ∧ x.closing = none ∧ Tab.find? (t.die die).mergeCmds k = none ∧
      (s.now + 4096, Turn.event (.keepAliveSend die c.object)) ∈ t.calendar ∧ acked s t c 0) ∧
  (∀ s die k c x, takes s die k c 2 1 → session? s die c.object = some x → x.ctx = c.ctx → x.closing = none →
    (∀ f ∈ x.frames, f.closed = true) →
    ∃ t x', exec (.mergeClose die k) s = .next t ∧ session? t die c.object = some x' ∧ x'.closing = some c ∧
      Turn.event (.sessionClose die c.object) ∈ t.agenda) ∧
  (∀ s die id x c, session? s die id = some x → x.closing = some c → (∀ f ∈ x.frames, f.closed = true) →
    ∃ t, exec (.sessionClose die id) s = .next t ∧ session? t die id = none ∧ acked s t c 0)

/-- R352, R355: FRAME begins its frame on the die and sets the deadline of every node it hosts; ABSENT adds a rank to those declared
absent and sends a notice to the host of every node above it. -/
def Sys2Proof.Claims.FramesAndAbsence : Prop :=
  let takes (s : State) (die k : Nat) (c : FabCmd) (code words : Nat) : Prop :=
    Tab.find? (s.die die).mergeCmds k = some c ∧ (∀ e ∈ (s.die die).mergeCmds, k ≤ e.1) ∧ c.code = code ∧ c.words.length = words ∧
      bit (cw c.words 0) 15 = false ∧ pushHeld s c.unit c.after = false
  (∀ s die k c x, takes s die k c 3 3 → session? s die c.object = some x → x.ctx = c.ctx → x.closing = none →
    let f := cw c.words 1
    (∀ h, x.highest = some h → h < f) → (x.frames.filter (fun r => !r.closed)).length < 4 → x.unbegun f = [] → x.frame? f = none →
    let budget := bits (cw c.words 2) 15 0
    let step := bits (cw c.words 2) 31 16
    ∃ t x' r, exec (.frame die k) s = .next t ∧ session? t die c.object = some x' ∧ x'.highest = some f ∧ x'.frame? f = some r ∧
      r.start = s.now ∧ r.budget = budget ∧ r.step = step ∧ r.passed = false ∧
      (budget ≠ 0 → ∀ n ∈ x.nodes, (s.now + 64 * budget + (heightOf n.lo n.hi - 1) * step + 1,
        Turn.event (.nodeDeadline die c.object f n.lo n.hi)) ∈ t.calendar)) ∧
  (∀ s die k c x, takes s die k c 4 2 → session? s die c.object = some x → x.ctx = c.ctx →
    let r := cw c.words 1
    r < x.n → r < 256 →
    ∃ t x', exec (.absent die k) s = .next t ∧ session? t die c.object = some x' ∧ r ∈ x'.absent ∧
      ∀ q ∈ treeNodes x.n, q.1 ≤ r → r < q.2 → Turn.event (.packetForward die
        { dest := x.ranks.getD q.1 0, hops := 0, link := none, chan := 8, body := .absent c.object r q.1 q.2 }) ∈ t.agenda)

/-- R352, R353: past its deadline a node closes the frame, and the root says that it is done; a die with leaves only closes it too. -/
def Sys2Proof.Claims.FramesClose : Prop :=
  (∀ s die id f lo hi x n r tm, session? s die id = some x → x.frame? f = some r → closeTime r (heightOf lo hi) = some tm → tm ≤ s.now →
    x.node? lo hi = some n → n.closed.contains f = false →
    ∃ t x' n', exec (.nodeDeadline die id f lo hi) s = .next t ∧ session? t die id = some x' ∧ x'.node? lo hi = some n' ∧
      n'.closed.contains f = true ∧
      (lo = 0 → hi = x.n → Turn.event (.packetForward die
        { dest := x.dnode, hops := 0, link := none, chan := 8, body := .rootDone id f x.engine x.sink }) ∈ t.agenda)) ∧
  (∀ s die id f x r tm, session? s die id = some x → x.frame? f = some r → closeTime r 0 = some tm → tm ≤ s.now → r.closed = false →
    x.nodes = [] →
    ∃ t x', exec (.leafFrameClose die id f) s = .next t ∧ session? t die id = some x' ∧ x'.frame? f = some { r with closed := true } ∧
      x'.framesClosed = (x.framesClosed + 1) % 2 ^ 32)

/-- Merge sessions open, begin and close frames, declare absence and close. -/
def Obligations.SessionsAndFrames : Prop :=
  Claims.SessionsOpenAndClose ∧ Claims.FramesAndAbsence ∧ Claims.FramesClose

/-- R353, R348, R349: a tile packet that is neither late nor a duplicate is held where its partner is missing, and where its partner is
held the two are combined, freed and sent on to the parent's host, covering what either covered. -/
def Sys2Proof.Claims.TilesCombine : Prop :=
  let comes (s : State) (die : Nat) (p : Packet) (tp : TilePacket) (x : Session) (n : Node) (left : Bool) : Prop :=
    p.body = .tile tp ∧ session? s die tp.session = some x ∧
      (parentOf x.n tp.rank (tp.rank + tp.span + 1)).bind (fun q => x.node? q.1 q.2) = some n ∧
      left = decide (tp.rank + tp.span + 1 = midOf n.lo n.hi) ∧ (if left then n.absentL else n.absentR) = false ∧
      n.emitted.contains (tp.frame, tp.tx, tp.ty) = false ∧ n.closed.contains tp.frame = false ∧
      x.heldAs n left tp.frame tp.tx tp.ty = none
  (∀ s die p tp x n left, comes s die p tp x n left → x.heldAs n (!left) tp.frame tp.tx tp.ty = none →
    (if left then n.absentR else n.absentL) = false → x.held.length < x.slots →
    ((x.frame? tp.frame).isSome = true ∨ ∀ h, x.highest = some h → h ≤ tp.frame) →
    ∃ t x', exec (.tilePacketArrival die p) s = .next t ∧ session? t die tp.session = some x' ∧ x'.held = x.held ++ [tp] ∧
      x'.late = x.late ∧ x'.dup = x.dup) ∧
  (∀ s die p tp x n left other, comes s die p tp x n left → x.heldAs n (!left) tp.frame tp.tx tp.ty = some other →
    (x.frame? tp.frame).isSome = true →
    ∃ t out, exec (.tilePacketArrival die p) s = .next t ∧ out.rank = n.lo ∧ out.frame = tp.frame ∧ out.tx = tp.tx ∧ out.ty = tp.ty ∧
      out.present = tp.present + other.present ∧ out.cover = tp.cover ||| other.cover ∧
      (∀ q, parentOf x.n n.lo n.hi = some q → Turn.event (.packetForward die
        { dest := x.ranks.getD q.1 0, hops := 0, link := none, chan := heightOf q.1 q.2 - 1, body := .tile out }) ∈ t.agenda) ∧
      (parentOf x.n n.lo n.hi = none → Turn.event (.packetForward die
        { dest := x.dnode, hops := 0, link := none, chan := 8, body := .root out x.engine x.sink x.n x.tx0 x.ty0 x.tw x.th 0 }) ∈ t.agenda)) ∧
  (∀ op (a b : TilePacket) i, i < 64 →
    let z := combineTiles op (some a) (some b)
    let pixel := ofBytes ((List.range 8).map (fun j => Tab.get 0 z.1 (8 * i + j)))
    (a.cover.getLsbD i = true → b.cover.getLsbD i = false → pixel = packetPixel a i % 2 ^ 64) ∧
    (a.cover.getLsbD i = false → b.cover.getLsbD i = true → pixel = packetPixel b i % 2 ^ 64) ∧
    (a.cover.getLsbD i = true → b.cover.getLsbD i = true → pixel = combinePixel op (packetPixel a i) (packetPixel b i) % 2 ^ 64) ∧
    z.2.getLsbD i = (a.cover.getLsbD i || b.cover.getLsbD i))

/-- R355, point 2: keep-alives go out every 4,096 cycles, are heard, and a child silent for 16,384 cycles is declared absent, as is a
rank that a notice names. -/
def Sys2Proof.Claims.Contributors : Prop :=
  (∀ s die id x, session? s die id = some x → ∃ t, exec (.keepAliveSend die id) s = .next t ∧
    (s.now + 4096, Turn.event (.keepAliveSend die id)) ∈ t.calendar ∧
    ∀ q ∈ (x.rank, x.rank + 1) :: x.nodes.map (fun n => (n.lo, n.hi)), ∀ p, parentOf x.n q.1 q.2 = some p →
      Turn.event (.packetForward die { dest := x.ranks.getD p.1 0, hops := 0, link := none, chan := 8, body := .keepAlive id q.1 q.2 }) ∈ t.agenda) ∧
  (∀ s die p id lo hi x q n, p.body = .keepAlive id lo hi → session? s die id = some x → parentOf x.n lo hi = some q →
    x.node? q.1 q.2 = some n →
    ∃ t x' n', exec (.keepAliveArrival die p) s = .next t ∧ session? t die id = some x' ∧ x'.node? q.1 q.2 = some n' ∧
      (hi = midOf q.1 q.2 → n'.heardL = s.now ∧ n'.linkL = p.link) ∧ (hi ≠ midOf q.1 q.2 → n'.heardR = s.now ∧ n'.linkR = p.link)) ∧
  (∀ s die id lo hi x n, session? s die id = some x → x.node? lo hi = some n → n.absentL = false → n.heardL + 16384 ≤ s.now →
    ∃ t x' n', exec (.childTimeout die id lo hi) s = .next t ∧ session? t die id = some x' ∧ x'.node? lo hi = some n' ∧
      n'.absentL = true ∧ ∀ r, lo ≤ r → r < midOf lo hi → r ∈ x'.absent) ∧
  (∀ s die p id r lo hi x n, p.body = .absent id r lo hi → session? s die id = some x → x.node? lo hi = some n →
    (r = lo ∧ midOf lo hi = lo + 1 ∨ r = midOf lo hi ∧ hi = r + 1) →
    ∃ t x' n', exec (.absentNotice die p) s = .next t ∧ session? t die id = some x' ∧ x'.node? lo hi = some n' ∧ r ∈ x'.absent ∧
      (r = lo ∧ midOf lo hi = lo + 1 → n'.absentL = true) ∧ (¬ (r = lo ∧ midOf lo hi = lo + 1) → n'.absentR = true))

/-- R351: a TSEND that passes its checks makes a leaf packet of its 512 bytes and coverage, sends it to the host of its leaf's parent,
and is done. -/
def Sys2Proof.Claims.TileSent : Prop :=
  ∀ s core k cmd tm x p, cmd? s core k = some cmd → cmd.st = .live → engineStopped s core = false →
    copyMalformed s core cmd = some false → cmdWaits s core k cmd = false → Claims.CommandServed s core k cmd (cmdRows s core cmd) →
    s.team? cmd.team = some tm → tm.scrSize ≤ 2 ^ 24 →
    (copyArgs cmd.words).op = 3 → (copyArgs cmd.words).sspace = 1 →
    let id := cw cmd.words 3
    let tx := bits (cw cmd.words 4) 11 0
    let ty := bits (cw cmd.words 4) 23 12
    id < 65536 → cw cmd.words 4 < 2 ^ 24 → session? s (coreDie core) id = some x → x.ctx = cmd.ctx →
    x.tx0 ≤ tx → tx < x.tx0 + x.tw → x.ty0 ≤ ty → ty < x.ty0 + x.th → x.absent.contains x.rank = false →
    parentOf x.n x.rank (x.rank + 1) = some p →
    ∃ t c tp, exec (.tsend core k) s = .next t ∧ cmd? t core k = some c ∧ c.st = .done ∧
      Turn.event (.packetForward (coreDie core)
        { dest := x.ranks.getD p.1 0, hops := 0, link := none, chan := heightOf p.1 p.2 - 1, body := .tile tp }) ∈ t.agenda ∧
      tp.session = id ∧ tp.frame = cw cmd.words 2 ∧ tp.tx = tx ∧ tp.ty = ty ∧ tp.rank = x.rank ∧ tp.present = 1 ∧
      tp.cover = pair (cmd.words.getD 6 0) (cmd.words.getD 7 0) ∧
      ∀ j < 512, Tab.get 0 tp.payload j = tm.byte (cw cmd.words 1 + j)

/-- Tiles are sent, held, combined and sent on; contributors are heard or declared absent. -/
def Obligations.TilesMerge : Prop :=
  Claims.TilesCombine ∧ Claims.Contributors ∧ Claims.TileSent

/-- R342 to R344: a link that loses its lock retrains, counted, with 32,768 cycles to come back, the packets it holds kept; it comes
back and takes its turn to send them, or goes down with them dropped and counted. A turn neither loses, repeats nor reorders a packet of
any channel. -/
def Sys2Proof.Claims.LinkStates : Prop :=
  (∀ s l, l < 18 → (s.link l).st = .up → ∃ t, exec (.linkRetrain l) s = .next t ∧ (t.link l).st = .retrain ∧ (t.link l).since = s.now ∧
    (t.link l).retrains = ((s.link l).retrains + 1) % 2 ^ 32 ∧ (t.link l).held = (s.link l).held ∧
    (s.now + 32768, Turn.event (.linkDownTimeout l s.now)) ∈ t.calendar) ∧
  (∀ s l, l < 18 → (s.link l).st = .retrain → ∃ t, exec (.linkUp l) s = .next t ∧ (t.link l).st = .up ∧
    (t.link l).held = (s.link l).held ∧ (t.link l).out = (s.link l).out ∧ ∃ c, (c, Turn.linkSend l) ∈ t.calendar) ∧
  (∀ s l at_, (s.link l).st = .retrain → (s.link l).since = at_ → at_ + 32768 ≤ s.now → ∃ t, exec (.linkDownTimeout l at_) s = .next t ∧
    (t.link l).st = .down ∧ (t.link l).held = [] ∧ (t.link l).drops = ((s.link l).drops + (s.link l).held.length) % 2 ^ 32 ∧
    (t.link l).out = (s.link l).out) ∧
  (∀ s l c, let of_ (x : Link) : List Packet := (x.out.map (·.1)).filter (fun p => decide (p.chan = c)) ++
      x.held.filter (fun p => decide (p.chan = c))
    of_ ((linkSend s l).link l) = of_ (s.link l))

/-- R344, R345: a router takes its node number and its links' enables from its block; it keeps a packet for its own die, sends one for
another package by its route with one hop more, and drops what it cannot route. -/
def Sys2Proof.Claims.Routing : Prop :=
  (∀ s die, die < 4 → ∃ t, exec (.fabricBlockWrite die) s = .next t ∧ (t.die die).nodeId = routerNode s die ∧
    ∀ l ∈ linksOf die, (t.link l).enabled =
      ((routerNode s die).isSome && bit (rdNat s (fabricBlock s die + 4) 4) l)) ∧
  (∀ s die p me, (s.die die).nodeId = some me → p.dest / 4 = me / 4 → p.dest % 4 = die →
    exec (.packetForward die p) s = .next (s.laterFree (match p.body with
      | .tile _ => .tilePacketArrival die p
      | .root .. | .rootDone .. => .rootTileDelivery die p
      | .keepAlive .. => .keepAliveArrival die p
      | .absent .. => .absentNotice die p))) ∧
  (∀ s die p me l, (s.die die).nodeId = some me → p.dest / 4 ≠ me / 4 → Tab.get 255 (s.die die).routes (p.dest / 4) = l → l < 18 →
    linkDie l = die → p.hops < 16 → (s.link l).st = .up → ∃ t, exec (.packetForward die p) s = .next t ∧
    (t.link l).held = (s.link l).held ++ [{ p with hops := p.hops + 1 }] ∧ (t.link l).out = (s.link l).out ∧
      (∃ c, (c, Turn.linkSend l) ∈ t.calendar) ∧ t.mem = s.mem) ∧
  (∀ s die p, (s.die die).nodeId = none →
    let r := Tab.get 255 (s.die die).routes (p.dest / 4)
    let l := if r < 18 then r else 0
    ∃ t, exec (.packetForward die p) s = .next t ∧ (t.link l).drops = ((s.link l).drops + 1) % 2 ^ 32 ∧
      ∀ l, (t.link l).out = (s.link l).out ∧ (t.link l).held = (s.link l).held)

/-- R359, R361: SINK binds a free sink, ROUTE gives it a session of its context, whose frames
are numbered anew unless it is bound to it already, UNSINK has it released once no frame is being
delivered, and its release frees it and posts two records. -/
def Sys2Proof.Claims.Sinks : Prop :=
  let takes (s : State) (die k : Nat) (c : FabCmd) (code words : Nat) : Prop :=
    Tab.find? (s.die die).scanCmds k = some c ∧ (∀ e ∈ (s.die die).scanCmds, k ≤ e.1) ∧ c.code = code ∧ c.words.length = words ∧
      bit (cw c.words 0) 15 = false ∧ c.object < 1024 ∧ pushHeld s c.unit c.after = false
  (∀ s die k c, takes s die k c 1 6 → sinkBad die c.words = false → sinkNowhere c.words = false → c.sinkKey / 256 < identField s (50 + 32 * die) 1 →
    sink? s die c.sinkKey = none →
    ∃ t x, exec (.sink die k) s = .next t ∧ sink? t die c.sinkKey = some x ∧ x.ctx = c.ctx ∧
      x.base = pair (c.words.getD 1 0) (c.words.getD 2 0) ∧ x.width = bits (cw c.words 3) 13 0 ∧ x.height = bits (cw c.words 3) 27 14 ∧
      x.format = bits (cw c.words 3) 31 28 ∧ x.pitch = cw c.words 4 ∧ x.route = none ∧ x.frames = []) ∧
  (∀ s die k c x z, takes s die k c 2 2 → cw c.words 1 < 65536 → sink? s die c.sinkKey = some x → x.ctx = c.ctx → x.releasing = none →
    session? s die (cw c.words 1) = some z → z.ctx = c.ctx →
    ∃ t, exec (.route die k) s = .next t ∧ sink? t die c.sinkKey = some
      (if x.route = some (cw c.words 1) ∧ x.opened = z.opened then x
       else { x with route := some (cw c.words 1), opened := z.opened, epoch := x.epoch + 1, newest := [], posted := none })) ∧
  (∀ s die k c x, takes s die k c 3 1 → sink? s die c.sinkKey = some x → x.ctx = c.ctx → x.releasing = none → x.frames = [] →
    ∃ t, exec (.unsink die k) s = .next t ∧ sink? t die c.sinkKey = some { x with releasing := some c } ∧
      Turn.event (.sinkRelease die (c.sinkKey / 256) (c.sinkKey % 256)) ∈ t.agenda) ∧
  (∀ s die e k x c un, sink? s die (sinkKey e k) = some x → x.releasing = some c → x.frames = [] → c.ack ≠ 7 →
    s.unit? c.unit = some un →
    ∃ t un', exec (.sinkRelease die e k) s = .next t ∧ sink? t die (sinkKey e k) = none ∧ t.unit? c.unit = some un' ∧
      un'.eng.waiting = un.eng.waiting ++ [(c.ack + 1, ⟨[ackWord c 0], [], true⟩),
        (c.ack + 1, ⟨[ackWord c 0, 0, 0, 0, BitVec.ofNat 32 (dropCount s die e)], [], true⟩)])

/-- R360, R361: a root tile is taken by the sink its session is routed to, pixel by pixel, a pixel not covered being zeros, and dropped
and counted elsewhere; the record of a finished frame is posted with its counts and the frame is over. -/
def Sys2Proof.Claims.RootTiles : Prop :=
  (∀ s die p (tp : TilePacket) engine sk n tx0 ty0 tw th late x, p.body = .root tp engine sk n tx0 ty0 tw th late → engine < 4 → sk < 256 →
    sink? s die (sinkKey engine sk) = some x → x.route = some tp.session → suits (tp.opfmt % 16) x.format = true →
    exec (.rootTileDelivery die p) s = .next (takeRoot s die (sinkKey engine sk) x tp n tx0 ty0 (tw * th) (decide (late ≠ 0)))) ∧
  (∀ s die p (tp : TilePacket) engine sk n tx0 ty0 tw th late, p.body = .root tp engine sk n tx0 ty0 tw th late → engine < 4 → sk < 256 →
    (∀ x, sink? s die (sinkKey engine sk) = some x → x.route ≠ some tp.session ∨ suits (tp.opfmt % 16) x.format = false) →
    ∃ t, exec (.rootTileDelivery die p) s = .next t ∧ t.mem = s.mem ∧ dropCount t die engine = (dropCount s die engine + 1) % 2 ^ 32) ∧
  (∀ s x tp tx0 ty0 i pa, 
    let px := 8 * (tp.tx - tx0) + i % 8
    let py := 8 * (tp.ty - ty0) + i / 8
    let bpp := if x.format = 0 then 4 else 8
    px < x.width → py < x.height → (∀ j < bpp, unbackedAt s (pa + j) = false) → xlate s x.ctx ((x.base.toNat + py * x.pitch + px * bpp) % 2 ^ 64) true = .ok pa →
    let t := (writePixel s x tp tx0 ty0 i).1
    (∀ j < bpp, rd8 t (pa + j) = (bytesOf bpp (if tp.cover.getLsbD i then sinkPixel (tp.opfmt % 16) x.format (packetPixel tp i) else 0)).getD j 0) ∧
    ∀ a, (a < pa ∨ pa + bpp ≤ a) → rd8 t a = rd8 s a) ∧
  (∀ s die e k f x r un, sink? s die (sinkKey e k) = some x →
    List.find? (fun (r : SinkFrame) => decide (r.frame = f) && r.done) x.frames = some r → r.again = false → r.epoch = x.epoch →
    (∀ z ∈ x.frames, r.epoch < z.epoch ∨ r.epoch = z.epoch ∧ f ≤ z.frame) → s.unit? x.endpoint = some un →
    ∃ t un' x', exec (.frameRecord die e k f) s = .next t ∧ t.unit? x.endpoint = some un' ∧
      un'.eng.waiting = un.eng.waiting ++ [(x.rq + 2, ⟨frameWords (sinkKey e k) r, x.lines.map (fun l => (128 * l, 128)), true⟩)] ∧
      sink? t die (sinkKey e k) = some x' ∧ x'.posted = some f ∧ x'.frame? r.epoch f = none)

/-- Links, routing, sinks and root tiles. -/
def Obligations.LinksAndSinks : Prop :=
  Claims.LinkStates ∧ Claims.Routing ∧ Claims.Sinks ∧ Claims.RootTiles

/-- R323, R324, R326: a request that may be accepted takes the next acceptance number; one that meets a refusal of Table 17-2 ends with
its status, and any other is performed. The END record of a request that has ended goes to its queue with number, status, counts and
word 4, announces its writes, and frees its place. -/
def Sys2Proof.Claims.RequestsServed : Prop :=
  (∀ s die k r, req? s die k = some r → r.st = .pending → mayAccept s die k r = true →
    let j := judge s r
    ∃ t r', exec (.serviceAccept die k) s = .next t ∧ req? t die k = some r' ∧ r'.order = (s.die die).nextOrder ∧
      (t.die die).nextOrder = (s.die die).nextOrder + 1 ∧ r'.accepted = s.now ∧
      (j.1 = 0 → r'.st = .accepted ∧ ∃ d, (d, Turn.event (r.event die k)) ∈ t.calendar) ∧
      (j.1 ≠ 0 → r'.st = .done ∧ r'.status = j.1 ∧ r'.where_ = j.2.1 ∧ ∃ d, (d, Turn.event (.endRecord die k)) ∈ t.calendar)) ∧
  (∀ s r, (r.bad = true → (judge s r).1 = 1) ∧
    (r.bad = false → gstateOk s r.ctx = false → (judge s r).1 = 5) ∧
    (∀ q, r.bad = false → gstateOk s r.ctx = true → withSurfaces s r = some q → namedOk q = false → (judge s r).1 = 2) ∧
    (∀ q x, r.bad = false → gstateOk s r.ctx = true → withSurfaces s r = some q → namedOk q = true →
      firstOffending (s.core q.core) q = some x → (judge s r).1 = 3 ∧ (judge s r).2.1 = x) ∧
    (∀ q, r.bad = false → gstateOk s r.ctx = true → withSurfaces s r = some q → namedOk q = true →
      firstOffending (s.core q.core) q = none → (judge s r).1 = if tilesServe (s.core q.core) q then 0 else 2)) ∧
  (∀ s die k r un, req? s die k = some r → r.st = .done → s.unit? r.unit = some un →
    ∃ t un', exec (.endRecord die k) s = .next t ∧ req? t die k = none ∧ t.mem = s.mem ∧ t.unit? r.unit = some un' ∧
      Tab.get 0 un'.eng.svcOut r.rq = Tab.get 0 un.eng.svcOut r.rq - 1 ∧
      un'.eng.waiting = un.eng.waiting ++ [(r.rq + 2, ⟨[r.no, BitVec.ofNat 32 (r.status + 256 * svcNumber r.svc + 1024 * (r.op % 64)),
        BitVec.ofNat 32 r.count, BitVec.ofNat 32 r.aux, BitVec.ofNat 32 r.where_], r.writes, true⟩)])

/-- R324, R329 to R339, R245: the event of an accepted request whose tiles are free and still its own does the next stretch of its
work, adds up its counts, and asks the banks for the rows of TIL it wrote; it goes on, or, once all is done and its rows are served,
ends with status 0; a fault ends it with FAULT and the address. -/
def Sys2Proof.Claims.RequestWork : Prop :=
  let works (ev : Nat → Nat → Instr) (kind : Req → Prop) (total : Req → Nat) (body : State → Req → Work) : Prop :=
    ∀ s die k r, req? s die k = some r → r.st = .accepted → kind r → (r.pos = 0 → r.blocked s die = false) →
      (r.usesTiles = true → roleMoving (s.core r.core) .til = false) →
      (slotReqs s (.req die k) = [] → r.pos = 0 ∨ r.pos < total r →
      (r.pos = 0 → ∀ x ∈ r.tiles, ∃ tile, Tab.find? (s.core r.core).ci.tiles x = some tile ∧ tile.team = r.team) →
      let w := body s r
      let rows := tileRows s w.s r
      let s1 := modReq w.s die k (fun r => { r with
        pos := r.pos + 1, count := r.count + w.count, aux := r.aux + w.aux,
        writes := r.writes ++ w.writes.filter (fun l => !r.writes.contains l) })
      exec (ev die k) s = .next (match w.fault with
        | some a => endReq s1 die k 4 (a % 2 ^ 32)
        | none => if r.pos + 1 < total r ∨ rows ≠ [] then (askSlots s1 (.req die k) .arrival rows).laterFree (r.event die k)
          else endReq s1 die k 0 0)) ∧
      (slotReqs s (.req die k) ≠ [] → (∀ q ∈ slotReqs s (.req die k), q.rows = 0) → r.pos ≠ 0 → total r ≤ r.pos →
        exec (ev die k) s = .next (endReq (dropSlots s (fun z => decide (z = .req die k))) die k 0 0))
  works .rasterOpen (fun r => r.svc = .ras ∧ r.op = 0) (fun r => r.f 4 2) openPixels ∧
  works .draw (fun r => r.svc = .ras ∧ r.op = 1) (fun r => r.f 20 4) drawTri ∧
  works .resolve (fun r => r.svc = .ras ∧ r.op = 2) (fun r => r.f 4 2) resolveTile ∧
  works .rasterClose (fun r => r.svc = .ras ∧ r.op = 3) (fun r => r.f 4 2)
    (fun s r => { s := closeTile s r.core (r.f 2 2 + r.pos), count := 1 }) ∧
  works .clear (fun r => r.svc = .ras ∧ r.op = 4) (fun r => (r.region r.target).2.2.2) clearRow ∧
  works .trace (fun r => r.svc = .trv) (fun r => r.f 2 2) traceRay ∧
  works .sample (fun r => r.svc = .tex) (fun r => r.f 2 2) sampleOne

/-- R330 to R332, R339: what a stretch of work writes. A tile is filled pixel by pixel; a pixel of a surface takes its bytes, at a VIS64
one and in a DRAW the smaller of the new key and what stood there; a nearest sample writes its texel's channels; an invalid ray has
primitive 0xFFFFFFFE and one that cannot hit 0xFFFFFFFF. -/
def Sys2Proof.Claims.ServicePixels : Prop :=
  (∀ s r tile, Tab.find? (s.core r.core).ci.tiles (r.f 2 2 + r.pos) = some tile → (tile.bpp = 4 ∨ tile.bpp = 8) →
    (tile.home = none ∨ r.f 7 1 ≠ 1) →
    let w := openPixels s r
    w.count = 1 ∧ w.fault = none ∧ w.s.mem = s.mem ∧ ∃ tile', Tab.find? (w.s.core r.core).ci.tiles (r.f 2 2 + r.pos) = some tile' ∧
      ∀ p < 64, ∀ j < tile.bpp, Tab.get 0 tile'.data (p * tile.bpp + j) = (bytesOf tile.bpp (r.f 24 8)).getD j 0) ∧
  (∀ (w : Work) ctx va bs pa, xlate w.s ctx va true = .ok pa → (∀ j < bs.length, unbackedAt w.s (pa + j) = false) →
    let z := w.put ctx va bs false
    z.fault = w.fault ∧ (pa / 128 * 128, 128) ∈ z.writes ∧ (∀ j < bs.length, rd8 z.s (pa + j) = bs.getD j 0) ∧
      ∀ a, (a < pa ∨ pa + bs.length ≤ a) → rd8 z.s a = rd8 w.s a) ∧
  (∀ (w : Work) ctx va key pa, xlate w.s ctx va true = .ok pa → key < 2 ^ 64 → (∀ j < 8, unbackedAt w.s (pa + j) = false) →
    let z := w.vismin ctx va key false
    z.fault = w.fault ∧ rdNat z.s pa 8 = min key (rdNat w.s pa 8) ∧ ∀ a, (a < pa ∨ pa + 8 ≤ a) → rd8 z.s a = rd8 w.s a) ∧
  (∀ r f t prim (w : Work) px py z, w.fault = none → fragment t px py = some z → (z ≤ 0x7F800000 ∨ z = 0x80000000) →
    let w' := w.vismin r.ctx (f.at_ px py) (z % 2 ^ 31 * 2 ^ 32 + prim % 2 ^ 32) false
    w'.fault = none → drawPixel r (some f) t prim false w px py = { w' with count := w'.count + 1 }) ∧
  (∀ s r f bs (u v : Int) cs p, r.surf (r.f 4 1) = some f →
    let s1 := obtainVirt s r.ctx ((r.f 8 8 + 8 * r.pos) % 2 ^ 64) 8
    fetchSpan s1 r.ctx ((r.f 8 8 + 8 * r.pos) % 2 ^ 64) 8 = .ok (bs, false) → unitsOf (leAt bs 0 4) = some u →
    unitsOf (leAt bs 4 4) = some v → r.f 5 1 = 0 →
    let at_ : Int × Int := (u * f.w / 2 ^ 149, v * f.h / 2 ^ 149)
    let s2 := obtainTexels s1 r f [at_]
    texel s2 r f at_.1 at_.2 = .ok (cs, p) →
    let w := Work.put { s := s2 } r.ctx ((r.f 16 8 + 16 * r.pos) % 2 ^ 64) (cs.flatMap (bytesOf 4)) p
    w.fault = none → sampleOne s r = { w with count := 1 }) ∧
  (∀ s r bs, let s1 := obtainVirt s r.ctx ((r.f 16 8 + 32 * r.pos) % 2 ^ 64) 32
    fetchSpan s1 r.ctx ((r.f 16 8 + 32 * r.pos) % 2 ^ 64) 32 = .ok (bs, false) →
    let out (prim : Nat) : Work :=
      Work.put { s := s1 } r.ctx ((r.f 24 8 + 16 * r.pos) % 2 ^ 64) (bytesOf 4 0x7F800000 ++ bytesOf 4 prim ++ bytesOf 8 0) false
    (parseRay bs = none → (out 0xFFFFFFFE).fault = none → traceRay s r = { out 0xFFFFFFFE with count := 1, aux := 1 }) ∧
    (∀ ray, parseRay bs = some ray → ray.misses = true → (out 0xFFFFFFFF).fault = none →
      traceRay s r = { out 0xFFFFFFFF with count := 1, aux := 0 }))

/-- R255: a flush move writes and closes the next departing tile, in its cycle, once no request serves it, and goes on at least 33
cycles later; after the last, its Switch is planned at a frame boundary. -/
def Sys2Proof.Claims.TileFlushes : Prop :=
  ∀ s core m x rest d0, (s.core core).ci.move = some m → m.tiles = x :: rest → m.phase = .prepare → m.due = some d0 → d0 ≤ s.now →
    tileServed s core x m.since = false →
    ∃ t m', exec (.tileFlush core x) s = .next t ∧ Tab.find? (t.core core).ci.tiles x = none ∧
      (t.core core).ci.move = some m' ∧ m' = { m with tiles := rest, due := m'.due } ∧
      (∀ y more, rest = y :: more → ∃ d, s.now + 33 ≤ d ∧ m'.due = some d ∧ (d, Turn.event (.tileFlush core y)) ∈ t.calendar) ∧
      (rest = [] → ∃ d, s.now < d ∧ d % 4 = 0 ∧ m'.due = some d ∧ (d, Turn.event (.moveSwitch core)) ∈ t.calendar)

/-- Service requests are accepted, refused, worked and ended; what a stretch of work writes. -/
def Obligations.RenderServices : Prop :=
  Claims.RequestsServed ∧ Claims.RequestWork ∧ Claims.ServicePixels ∧ Claims.TileFlushes

/-- R284, R286: a written entry that asks to be resident, keeps Table 15-1 and finds places makes its context resident; one that breaks
the table or finds none is refused with state 2; a resident one is told to take tasks or to leave. A context that may leave is gone,
with its tasks. A tail write is read by the serving engine. -/
def Sys2Proof.Claims.Residency : Prop :=
  (∀ s ctx, s.ctx? ctx = none → ctx < 65536 →
    let bs := rdBytes s (entryAt s ctx) 256
    bit (leAt bs 20 4) 0 = true →
    (entryOk ctx bs = true → placesFree s (leAt bs 18 1) = true → ∃ t c, exec (.contextEntryWake ctx) s = .next t ∧
      t.ctx? ctx = some c ∧ c.dies = leAt bs 18 1 ∧ c.taking = true ∧ c.ptroot = leAt bs 0 8 ∧ c.sumpto = leAt bs 24 2 ∧
      c.lret = BitVec.ofNat 64 (leAt bs 32 8) ∧ t.units = s.units ∧ ∀ x, x ≠ ctx → t.ctx? x = s.ctx? x) ∧
    (¬ (entryOk ctx bs = true ∧ placesFree s (leAt bs 18 1) = true) → unbackedAt s (entryAt s ctx + 19) = false → ∃ t, exec (.contextEntryWake ctx) s = .next t ∧
      t.ctx? ctx = none ∧ rd8 t (entryAt s ctx + 19) = 2)) ∧
  (∀ s ctx c, s.ctx? ctx = some c → ∃ t, exec (.contextEntryWake ctx) s = .next t ∧
    t.ctx? ctx = some { c with taking := bit (leAt (rdBytes s (entryAt s ctx) 256) 20 4) 0 } ∧ t.mem = s.mem) ∧
  (∀ s ctx, mayLeave s ctx = true → unbackedAt s (entryAt s ctx + 19) = false → ∃ t, exec (.contextLeave ctx) s = .next t ∧ t.ctx? ctx = none ∧
    (∀ x ∈ t.tasks, x.2.ctx ≠ ctx) ∧ (∀ core, ∀ x ∈ (t.core core).tlb, x.ctx ≠ ctx) ∧
    rd8 t (entryAt s ctx + 19) = 0 ∧ t.units = s.units) ∧
  (∀ s ctx q x, queue? s ctx q = some x → x.deviceFed = false → ∃ t, exec (.queueTailWrite ctx q) s = .next t ∧ t.mem = s.mem ∧
    queue? t ctx q = some { x with tail := rdNat s x.tailPa 4 })

/-- R290: a task that has ended is gone; where its source has a retirement ring, its record is placed and the ring's index advances. -/
def Sys2Proof.Claims.TaskRetires : Prop :=
  (∀ s k tk, s.task? k = some tk → tk.ended = true → ∃ t, exec (.taskRetire k) s = .next t ∧ t.task? k = none ∧ t.units = s.units) ∧
  (∀ s k tk q x, s.task? k = some tk → tk.ended = true → tk.src = .queue q → queue? s tk.ctx q = some x → x.ret ≠ 0 →
    ∃ t x', exec (.taskRetire k) s = .next t ∧ queue? t tk.ctx q = some x' ∧ x'.retidx = (x.retidx + 1) % 2 ^ 32) ∧
  (∀ s k tk c, s.task? k = some tk → tk.ended = true → tk.src = .pool → s.ctx? tk.ctx = some c → c.lret ≠ 0 →
    ∃ t c', exec (.taskRetire k) s = .next t ∧ t.ctx? tk.ctx = some c' ∧ c'.lretidx = (c.lretidx + 1) % 2 ^ 32)

/-- R288, R291 to R293: an engine that may act places a unit of the task it chooses, where that is of the event's kind, frees the
task's slot in its ring, and moves its pointers. A strand goes to the first free thread after the last; a unit is made with its program's entry, its arguments in its
registers and everything else zero. -/
def Sys2Proof.Claims.Placements : Prop :=
  let places (i : Instr) (d : Nat) (kind : GridKind) : Prop := ∀ s k tk s2 e, engineFree s d = true →
    let s1 := engineLook s d
    choice s1 d = some (k, tk) → tk.rec_.kind = kind → tryPlace s1 d k tk = some (s2, e) →
    let s3 := (leaveRing s2 k).modDie d (fun x => { x with diePtr := e, ctxPtr := tk.ctx, placedAt := some s.now })
    exec i s = .next (afterPlacement (match tk.src with
      | .queue q => s3.modCtx tk.ctx (fun c => { c with lastQueue := q })
      | .pool => s3) k)
  (∀ d, places (.placeCluster d) d .cluster ∧ places (.placeStrand d) d .strand ∧ places (.placeSuperstepGrid d) d .superstep) ∧
  (∀ s die i, i < 1536 →
    let thread (i : Nat) : Nat := ((s.die die).threadPtr + 1 + i) % 1536
    let free (j : Nat) : Prop := s.unit? (strandUid (die * 1536 + j)) = none ∧ 96 + j / 4 ∉ (s.die die).fenced
    (∀ j < i, ¬ free (thread j)) → free (thread i) → freeThread s die = some (thread i)) ∧
  (∀ s key tk d die thread, s.task? key = some tk →
    let t := placeThread s key tk d die thread
    ∃ un tk', t.unit? (strandUid (die * 1536 + thread)) = some un ∧ un.at_.strand = true ∧ un.at_.ctx = tk.ctx ∧ un.liveLanes = 1 ∧
      un.mode = .live ∧ t.task? key = some tk' ∧ tk'.placed = tk.placed + 1 ∧ tk'.live = tk.live + 1 ∧
      (t.die die).threadPtr = thread ∧ t.mem = s.mem ∧
      ∃ sp, un.running = some (0, sp) ∧ sp.pc = tk.rec_.desc + 66 ∧ sp.mask = 1) ∧
  (∀ s c r spec args,
    let t := (placeTeam s c r spec args).1
    ∀ g ∈ r.groups, ∃ un sp, t.unit? (groupUid c g) = some un ∧ un.at_.core = c ∧ un.at_.slot = g ∧ un.at_.ctx = spec.ctx ∧
      un.liveLanes = BitVec.allOnes 32 ∧ un.running = some (0, sp) ∧ sp.pc = spec.addr + 66 ∧ sp.mask = BitVec.allOnes 32 ∧
      un.sched.notBefore = s.now + 1) ∧
  (∀ at_ mask entry args lfsr now,
    let un := newUnit at_ mask entry args lfsr now
    (∀ n l, readV un n l = 0) ∧ (∀ n, readS un n = args.getD n 0) ∧ (∀ o, feOf un o = .full) ∧
    (∀ (n : Fin 16) l, n.val ≠ 15 → readP un n l = false) ∧ un.ctl.retired = 0 ∧ un.ctl.pathsig = 0 ∧ un.ctl.round = 0)

/-- Contexts come and leave, tasks retire, units are placed with their initial state. -/
def Obligations.ContextsAndPlacement : Prop :=
  Claims.Residency ∧ Claims.TaskRetires ∧ Claims.Placements

/-- R300, R219, Table 11-8: a forming group whose time has run is dispatched; the first dispatched is placed on a core of its cell with
room, as a group whose lane l holds strand l's window in v(b) to v(b + n - 1), its predicates, trap mask, flags and random state. -/
def Sys2Proof.Claims.SumpGroups : Prop :=
  (∀ s cell k f tk, Tab.find? (s.cell cell).forming k = some f → s.task? f.task = some tk → (s.die (cell / 24)).frozen = false →
    f.since + sumpWait s tk.ctx + f.paused ≤ s.now → formHalted s f = false → f.strands ≠ [] →
    ∃ t, exec (.sumpTimeout cell k) s = .next t ∧ Tab.find? (t.cell cell).forming k = none ∧
      { f with sent := s.now } ∈ (t.cell cell).dispatched ∧ t.units = s.units) ∧
  (∀ s cell f rest c r, (s.cell cell).dispatched = f :: rest →
    let d := parseDesc f.line
    let z := d.sump.getD f.j (0, 0, 0, 0)
    let n := z.2.2.1
    let b := z.2.2.2
    (coresOfCell cell).findSome? (fun c => (roomOn s c d 1).map (fun r => (c, r))) = some (c, r) → f.strands.length ≤ 32 →
    ∃ t un sp, exec (.sumpPlace cell) s = .next t ∧ t.unit? (groupUid c (r.groups.headD 0)) = some un ∧
      un.running = some (0, sp) ∧ sp.pc = f.desc + BitVec.ofInt 64 (z.1 * 64) + BitVec.ofNat 64 (2 * z.2.1) ∧
      (∀ l < 32, sp.mask.getLsbD l = decide (l < f.strands.length)) ∧ (t.cell cell).dispatched = rest ∧
      ∀ l u st, f.strands[l]? = some u → s.unit? u = some st →
        (∀ i < n, readV un (b + i) l = readS st i) ∧ (∀ p : Fin 16, p.val ≠ 15 → readP un p l = readP st p 0) ∧
        Tab.get 0 un.ctl.trapmask l = Tab.get 0 st.ctl.trapmask 0 ∧ Tab.get 0 un.ctl.fpflags l = Tab.get 0 st.ctl.fpflags 0 ∧
        Tab.get 0 un.ctl.lfsr l = Tab.get 0 st.ctl.lfsr 0)

/-- R301: at every cycle divisible by 1,024 each pipeline is sampled: a stage's hot count rises while its queue is above its high mark
and is 0 otherwise, and nothing moves while no stage is hot for four samples. A core that moves leaves one stage and joins another; a
marked core moves once no team of its stage is left on it. -/
def Sys2Proof.Claims.Balancing : Prop :=
  (∀ s die, s.now % 1024 = 0 →
    exec (.balancerSample die) s = .next ((s.die die).pipes.foldl (fun s p => samplePipe s die p) s)) ∧
  (∀ s die p, 
    let stages := p.stages.map (fun g => { g with hot := if g.hi < queueDepth s p.ctx g.queue then g.hot + 1 else 0 })
    (∀ g ∈ stages, g.hot < 4) → samplePipe s die p = setPipe s die { p with stages := stages }) ∧
  (∀ s die p i j core g h, (s.die die).pipes = [p] → i ≠ j → p.stages[i]? = some g → p.stages[j]? = some h →
    ∃ p' g' h', ((moveCore s die p i j core).die die).pipes = [p'] ∧ p'.stages[i]? = some g' ∧ p'.stages[j]? = some h' ∧
      core ∉ g'.cores ∧ core ∈ h'.cores ∧ (∀ c, c ≠ core → (c ∈ g'.cores ↔ c ∈ g.cores)) ∧
      ∀ c, c ≠ core → (c ∈ h'.cores ↔ c ∈ h.cores)) ∧
  (∀ s die p i g l core, (s.die die).pipes = [p] → p.stages[i]? = some g → g.leaving.find? (fun l => decide (l.1 = core)) = some l →
    (∀ k h, p.stages[k]? = some h → k ≠ i → ∀ x ∈ h.leaving, x.1 ≠ core) → holdsStage s p.ctx g core = false →
    exec (.balancerDeferredMove die core) s = .next (moveCore s die p i l.2 core))

/-- Forming groups are dispatched and placed; pipelines are sampled and cores moved. -/
def Obligations.SumpAndBalancer : Prop :=
  Claims.SumpGroups ∧ Claims.Balancing

/-- A die has taken the response at an address of its ring: its line is obtained, and the ring's head has advanced. -/
def Sys2Proof.Claims.Begun (s : State) (d va : Nat) : State := beginResponse (obtainVirt s 0 va 64) d

/-- The response at the head of a die's ring, with its operation and its reserved field zero. -/
def Sys2Proof.Claims.Responds (s : State) (d op va : Nat) (bs : List Byte) : Prop :=
  response? s d = some (va, bs) ∧ rf bs 0 1 = op ∧ rf bs 32 32 = 0

/-- A response that answers the parked fault of a unit that is on a core. -/
def Sys2Proof.Claims.Answers (s : State) (d op va : Nat) (bs : List Byte) (p : Parked) (u e : Nat) (un : UnitSt) (sp : Split) (n : Nat) (r : TrapRec) : Prop :=
  Claims.Responds s d op va bs ∧ answers s d bs = some p ∧ p.what = .unit u e ∧ u < groupUid 65536 0 ∧ s.unit? u = some un ∧
    un.parked = some (n, r) ∧ un.split? e = some sp ∧ sp.ra = none

/-- R305, R306, R103: the next due record of a die goes to its ring's next slot under the next serial, the ring's index advances, the
trap registers take the record's values and the fault is parked under its serial. -/
def Sys2Proof.Claims.FaultRecords : Prop :=
  (∀ s d u r un va pa, d < 4 → nextDue s d = some (.unit u r) → s.unit? u = some un →
    let blk := faultBlock s d
    let fidx := rdNat s (blk + 16) 4
    ringSlot s d 0 fidx = some va → (fidx + 2 ^ 32 - rdNat s (blk + 20) 4) % 2 ^ 32 < 2 ^ rdNat s (blk + 8) 1 →
    xlate s 0 va true = .ok pa → (∀ i < 64, unbackedAt s (pa + i) = false) → (∀ i < 4, unbackedAt s (blk + 16 + i) = false) → (∀ i < 4, ¬ (pa ≤ blk + 16 + i ∧ blk + 16 + i < pa + 64)) →
    let n := nextSerial (s.die d).serial
    ∃ t un', exec (.faultRecordWrite d) s = .next t ∧ rdBytes t pa 64 = unitRecord un n r ∧
      rdNat t (blk + 16) 4 = (fidx + 1) % 2 ^ 32 ∧ t.unit? u = some un' ∧ un'.parked = some (n, r) ∧ un'.traps = un.traps.erase r ∧
      un'.regs = un.regs ∧
      un'.ctl = { un.ctl with trapcause := w32 (r.cause + 256 * r.lane), trapaddr := r.addr, donemask := r.done } ∧
      (t.die d).serial = n ∧
      Tab.find? (t.die d).parked n = some
        { what := .unit u r.entry, ctx := un.at_.ctx, cause := r.cause, pc := r.pc, handler := bit r.flags 2 }) ∧
  (∀ un r, dueTrap un = some r → r ∈ un.traps ∧ un.parked = none ∧ (∀ e m, un.mode = .handler e m → bit r.flags 2 = true) ∧
    ∀ x ∈ un.traps, (∀ e m, un.mode = .handler e m → bit x.flags 2 = true) → x.before r = false) ∧
  (∀ n, nextSerial n ≠ 0 ∧ nextSerial n < 2 ^ 32)

/-- R307, R308: RESUME goes on at the record's address, REDIRECT at the response's, ENTER runs the handler there alone, and RETIRE ends the
lanes; the fault is answered. A serial that names no fault of the context gets NO_FAULT, an unknown operation BAD_RESPONSE. -/
def Sys2Proof.Claims.FaultAnswers : Prop :=
  (∀ s d va bs p u e un sp n r, Claims.Answers s d 1 va bs p u e un sp n r → fetchCause p.cause = false → p.cause ≠ causeMachineCheck →
    r.cause ≠ causeTrap → r.cause ≠ causeBkpt →
    ∃ t un' sp', exec (.resume d) s = .next t ∧ t.unit? u = some un' ∧ un'.parked = none ∧ un'.regs = un.regs ∧ un'.mode = un.mode ∧
      un'.ctl = (if un.at_.strand then un.ctl else { un.ctl with donemask := w32 (rf bs 16 4) }) ∧
      un'.split? e = some sp' ∧ sp'.pc = r.pc ∧ sp'.mask = sp.mask ∧ sp'.wait = none ∧
      Tab.find? (t.die d).parked (rf bs 4 4) = none) ∧
  (∀ s d va bs p u e un sp n r, Claims.Answers s d 2 va bs p u e un sp n r →
    ∃ t un' sp', exec (.redirect d) s = .next t ∧ t.unit? u = some un' ∧ un'.parked = none ∧
      un'.ctl = { un.ctl with donemask := 0 } ∧ un'.ops = un.ops.filter (fun (o : Nat × Op) => !faultedAt e o.2) ∧
      un'.split? e = some sp' ∧ sp'.pc = dw (rf bs 8 8) ∧ sp'.mask = sp.mask ∧ sp'.wait = none ∧
      Tab.find? (t.die d).parked (rf bs 4 4) = none) ∧
  (∀ s d va bs p u e un sp n r, Claims.Answers s d 3 va bs p u e un sp n r → mayEnter p.cause = true → p.handler = false →
    ∃ t un' sp', exec (.enter d) s = .next t ∧ t.unit? u = some un' ∧ un'.mode = .handler e sp.mask ∧ un'.handled = some r ∧ un'.parked = none ∧
      un'.regs = un.regs ∧
      un'.ctl = { un.ctl with trapcause := w32 (r.cause + 256 * r.lane), trapaddr := r.addr, donemask := r.done } ∧
      un'.split? e = some sp' ∧ sp'.pc = dw (rf bs 8 8) ∧ sp'.mask = sp.mask ∧ sp'.st = .running ∧
      (∀ x ∈ un'.splits, x.1 ≠ e → x.2.st ≠ .running)) ∧
  (∀ s d va bs p u e un sp n r, Claims.Answers s d 4 va bs p u e un sp n r →
    let un' := abandonAccess { un with parked := none, ctl := { un.ctl with donemask := 0 } } e
    exec (.retire d) s = .next (nextResponse (respond (wakeTraps (exitLanes
      ((unpark (Claims.Begun s d va) d bs).putUnit u un') u e) un') va stDone) d)) ∧
  (∀ s d va bs, answers s d bs = none →
    let t := nextResponse (respond (Claims.Begun s d va) va stNoFault) d
    (Claims.Responds s d 1 va bs → exec (.resume d) s = .next t) ∧ (Claims.Responds s d 2 va bs → exec (.redirect d) s = .next t) ∧
    (Claims.Responds s d 3 va bs → exec (.enter d) s = .next t) ∧ (Claims.Responds s d 4 va bs → exec (.retire d) s = .next t)) ∧
  (∀ s d va bs op, Claims.Responds s d op va bs → op = 0 ∨ 11 < op →
    exec (.resume d) s = .next (nextResponse (respond (Claims.Begun s d va) va stBadResponse) d)) ∧
  (∀ s d va bs p core k c x, Claims.Responds s d 1 va bs → answers s d bs = some p → p.what = .copy core k → core < 65536 →
    cmd? s core k = some c → c.st = .parked x → ∃ t, exec (.resume d) s = .next t ∧ cmd? t core k = some { c with st := .live })

/-- Fault records are written, and RESUME, REDIRECT, ENTER and RETIRE answer them. -/
def Obligations.FaultsAndResponses : Prop :=
  Claims.FaultRecords ∧ Claims.FaultAnswers

/-- R311: INVAL drops every translation that covers a byte of its range, and stays open only while an access begun before it does. -/
def Sys2Proof.Claims.Invalidates : Prop :=
  ∀ s d va bs, Claims.Responds s d 6 va bs →
    let ctx := rf bs 2 2
    let a := rf bs 8 8
    let n := 4096 * rf bs 20 4
    let hits (x : Tlb) : Prop := x.ctx = ctx ∧ x.va < a + n ∧ a < x.va + 2 ^ x.lg
    ∃ t, exec (.inval d) s = .next t ∧ t.units = s.units ∧
      (∀ c, ∀ x ∈ (t.core c).tlb, ¬ hits x) ∧ (∀ c, ∀ x ∈ (t.score c).itlb ++ (t.score c).dtlb, ¬ hits x) ∧
      (∀ c, ∀ x ∈ (t.cell c).l2tlb, ¬ hits x) ∧
      ∀ r ∈ (t.die d).resps, rf r.bytes 0 1 = 6 →
        accessOpen s (rf r.bytes 2 2) (rf r.bytes 8 8) (4096 * rf r.bytes 20 4) r.since = true

/-- R322, R357: STOP ends every unit of the context, closes its sessions without a record, drops its faults, and retires its tasks with
status 2. -/
def Sys2Proof.Claims.StopsContext : Prop :=
  (∀ s d va bs, Claims.Responds s d 5 va bs →
    let ctx := rf bs 2 2
    let s1 := stopTasks (stopBarriers (stopSumps (stopCopies (stopFaults (Claims.Begun s d va) ctx) ctx) ctx) ctx) ctx
    let s2 := stopUnitsOf (stopSessions s1 ctx) ctx
    let ended := s2.tasks.filterMap (fun (e : Nat × Task) => if e.2.ctx = ctx ∧ e.2.st = .retired ∧ e.2.status = 2 then some e.1 else none)
    exec (.stop d) s = .next (nextResponse (respond (ended.foldl retireTask s2) va stDone) d)) ∧
  (∀ s ctx d, d < 4 → ∀ e ∈ ((stopFaults s ctx).die d).parked, e.2.ctx ≠ ctx) ∧
  (∀ s ctx d, d < 4 → ∀ e ∈ ((stopSessions s ctx).die d).sessions, e.2.ctx ≠ ctx) ∧
  (∀ s ctx, ∀ e ∈ (stopTasks s ctx).tasks, e.2.ctx = ctx → e.2.st ≠ .started ∧ e.2.fault = none) ∧
  (∀ s ctx core, ∀ e ∈ ((stopCopies s ctx).core core).cmds, e.2.ctx = ctx → ∀ x, e.2.st ≠ .parked x)

/-- INVAL drops translations, and STOP ends a context's units, sessions, faults and tasks. -/
def Obligations.InvalidatesAndStops : Prop :=
  Claims.Invalidates ∧ Claims.StopsContext

/-- R259, R313, R315, R317: a save whose units have drained settles the moves of its cores, and ends in its image, a saved entry and a
hold entry; a strand that comes back has what its image holds and runs; a route update is acknowledged, and an entry is freed once every
agent has acknowledged. -/
def Sys2Proof.Claims.SavesAndRestores : Prop :=
  (∀ s d r, response? s d = none → (s.die d).resps = [r] → rf r.bytes 0 1 = 7 →
    let strand := ofStrand r.bytes
    let s1 := if strand = false ∧ (r.targets.flatMap (targetUnits s false)).all (unitDrained s) = true then
        ((r.targets.map (teamCore s)).eraseDups).foldl settleMove s
      else s
    r.targets.all (targetDrained s1 strand) = true →
    let t := endSave (dropResp s1 d r) r
    exec (.preempt d) s = .next (if inProgress t d 7 = [] then t else t.later 1 (.event (.preempt d)))) ∧
  (∀ s ctx area u un, s.unit? u = some un → u ≠ groupUid s.nextSaved 0 →
    let t := saveStrand s ctx area u
    let v := groupUid s.nextSaved 0
    ∃ un', t.unit? u = none ∧ t.unit? v = some un' ∧ un'.ctl = un.ctl ∧ un'.entries = un.entries ∧ un'.regs.s = un.regs.s ∧
      un'.regs.p = un.regs.p ∧ un'.at_ = { un.at_ with core := s.nextSaved, slot := 0 } ∧
      Tab.find? t.saved s.nextSaved =
        some { ctx := ctx, area := dw area, set := s.nextSaved, strand := true, unit := u, home := 4096 + un.at_.core,
               since := s.now, wrote := [unitImage s u un] } ∧
      t.nextSaved = s.nextSaved + 1 ∧ { unit := u, dest := none, agents := [] } ∈ (t.score un.at_.core).fwd) ∧
  (∀ s d va bs set f x, Claims.Responds s d 8 va bs →
    let s0 := Claims.Begun s d va
    let die := rf bs 20 4
    let area := rf bs 24 8
    die < 4 → savedSet s0 (rf bs 2 2) area = some set →
    s.saved.filter (fun (e : Nat × Saved) => decide (e.2.set = set)) = [(f, x)] → x.strand = true →
    let image := readSection s0 area 4096
    let s1 := tailFrom (obtainVirt s0 0 area 4096) die (groupUid f 0) (x.wrote.headD []) image
    ∀ un s2 u, s1.unit? (groupUid f 0) = some un →
    let back := unitFrom un image
    landStrand (s1.modUnit (groupUid f 0) (fun _ => back)) die f x = some (s2, u) →
    (∀ e ∈ back.splits, ∀ t m ev, e.2.wait ≠ some (.sleep t (some m) ev)) →
    (∀ k, ∀ r ∈ (s.die k).resps, ¬ (1 ≤ rf r.bytes 0 1 ∧ rf r.bytes 0 1 ≤ 4)) →
    ∃ t un', exec (.restore d) s = .next t ∧ t.unit? u = some un' ∧ un'.stopped = false ∧ un'.ctl = back.ctl ∧
      un'.entries = back.entries ∧ un'.regs.s = back.regs.s ∧ un'.at_.core = x.home - 4096 ∧
      s.now < un'.sched.notBefore ∧ t.saved = s.saved.filter (fun (e : Nat × Saved) => decide (e.2.set ≠ set))) ∧
  (∀ s core u agent, ∃ t n, exec (.routeUpdate core u agent) s = .next t ∧ s.now < n ∧
    t.calendar = s.calendar ++ [(n, .event (.routeUpdateAck core u agent))] ∧ t.units = s.units ∧ t.cores = s.cores) ∧
  (∀ s core e agent, core < 4096 → (s.core core).fwd = [e] → e.agents = [agent] →
    ∃ t, exec (.routeUpdateAck core e.unit agent) s = .next t ∧ (t.core core).fwd = [] ∧ t.units = s.units) ∧
  (∀ s core e agent, core < 4096 → (s.core core).fwd = [e] → (e.agents.filter (· ≠ agent)) ≠ [] →
    ∃ t, exec (.routeUpdateAck core e.unit agent) s = .next t ∧
      (t.core core).fwd = [{ e with agents := e.agents.filter (· ≠ agent) }])

/-- R259, R318, R319: a migration whose source has drained settles its move and streams its teams to the destination core, at their slots; on resumption no
group of them is stopped. -/
def Sys2Proof.Claims.Migrates : Prop :=
  (∀ s d r, response? s d = none → (s.die d).resps = [r] → rf r.bytes 0 1 = 9 → r.stage = 0 →
    let a := bits (rf r.bytes 20 4) 8 0
    let s1 := if (teamsOf s a).all (fun t => t.2.groups.all (unitDrained s)) = true then settleMove s a else s
    let t := stream s1 d r
    migrateReady s1 a = true →
      exec (.migrate d) s = .next (if (inProgress t d 9).any (fun r => r.stage == 0) then t.later 1 (.event (.migrate d)) else t)) ∧
  (∀ s b key tm, s.team? key = some tm → ∃ tm', (streamTeam s b key).team? key = some tm' ∧ tm'.core = b ∧ tm'.slot = tm.slot ∧
    tm'.pos = tm.pos ∧ tm'.scrSize = tm.scrSize) ∧
  (∀ s d r core, d < 4 → (∀ k, k ≠ d → (s.die k).resps = []) → (s.die d).resps = [r] → rf r.bytes 0 1 = 9 → r.stage ≠ 0 →
    bits (rf r.bytes 20 4) 24 16 = core →
    ∃ t, exec (.migrationResume core) s = .next t ∧ (t.die d).resps = [] ∧
      ∀ key ∈ r.targets, ∀ tm, s.team? key = some tm → ∀ u ∈ tm.groups, ∀ un, t.unit? u = some un → un.stopped = false)

/-- R320, R321: FREEZE stops the dies of its mask that run; THAW lets the dies of its mask go on, and what was held for them takes
effect. -/
def Sys2Proof.Claims.FreezesAndThaws : Prop :=
  (∀ s d va bs, Claims.Responds s d 10 va bs → rf bs 20 4 < 16 → ∃ t, exec (.freeze d) s = .next t ∧
    ∀ k < 4, (bit (rf bs 20 4) k = true → (s.die k).bring = .ready → (t.die k).frozen = true) ∧
      (¬ (bit (rf bs 20 4) k = true ∧ (s.die k).bring = .ready) → (t.die k).frozen = (s.die k).frozen)) ∧
  (∀ s d va bs, Claims.Responds s d 11 va bs → rf bs 20 4 < 16 → ∃ t, exec (.thaw d) s = .next t ∧
    ∀ k < 4, (bit (rf bs 20 4) k = true → (t.die k).frozen = false ∧ (t.die k).held = [] ∧
        ∀ e ∈ (s.die k).held, Turn.event e ∈ t.agenda) ∧
      (bit (rf bs 20 4) k = false → (t.die k).frozen = (s.die k).frozen ∧ (t.die k).held = (s.die k).held)) ∧
  (∀ s d va bs op, Claims.Responds s d op va bs → op = 10 ∨ op = 11 → 16 ≤ rf bs 20 4 →
    exec (if op = 10 then .freeze d else .thaw d) s = .next (nextResponse (respond (Claims.Begun s d va) va stBadResponse) d))

/-- Pre-emption, restore, migration, FREEZE and THAW. -/
def Obligations.SavesAndMigrations : Prop :=
  Claims.SavesAndRestores ∧ Claims.Migrates ∧ Claims.FreezesAndThaws

/-- R264, R386: a snoop downgrades or invalidates its line, and takes its dirty data; a CXL.mem request is served at the home slice, a read's
64 bytes going to the host, or is held for a die in S3. -/
def Sys2Proof.Claims.HostAccesses : Prop :=
  (∀ s line inval, hostTier s (128 * line) = true → ∃ t, exec (.hostSnoop line inval) s = .next t ∧ t.mem = s.mem ∧ t.units = s.units ∧
    l2Line t line = { l2Line s line with st := if inval then .i else if (l2Line s line).st = .i then .i else .s, dirty := false } ∧
    ∀ k, k ≠ line → l2Line t k = l2Line s k) ∧
  (∀ s pa bs, (reqSpan (.write pa bs)).all (deviceTier s) = true → (s.die (homeDie pa)).power.st ≠ .s3 →
    ∃ t, exec (.cxlMemRequest (.write pa bs)) s = .next t ∧ rdBytes t pa bs.length = bs ∧
      ∀ a, ¬ (pa ≤ a ∧ a < pa + bs.length) → rd8 t a = rd8 s a) ∧
  (∀ s pa shared, (reqSpan (.read pa shared)).all (deviceTier s) = true → (s.die (homeDie pa)).power.st ≠ .s3 →
    ∃ t, exec (.cxlMemRequest (.read pa shared)) s = .next t ∧ t.mem = s.mem ∧ (shared = true → (l2Line t (pa / 128)).host = true) ∧
      t.mgmt.cxl.answer = some { pa := pa / 64 * 64, data := rdBytes s (pa / 64 * 64) 64, poison := poisoned s (pa / 64 * 64) 64 }) ∧
  (∀ s r, (reqSpan r).all (deviceTier s) = true → (s.die (homeDie (reqAddr r))).power.st = .s3 →
    ∃ t, exec (.cxlMemRequest r) s = .next t ∧ t.mem = s.mem ∧
      (t.die (homeDie (reqAddr r))).held = (s.die (homeDie (reqAddr r))).held ++ [.cxlMemRequest r])

/-- R388, R389: CTXBASE is writable until the device starts; a write of 1 to CTL starts it on a base that suits, and every router then reads
its block; an access that is not 4 or 8 aligned bytes, or comes before READY, has no effect. LATTOL and CLKLIM are each die's own. -/
def Sys2Proof.Claims.ManagementWindow : Prop :=
  (∀ s v, s.mgmt.phase = .ready → ∃ t, exec (.mgmtWindowWrite 8 8 v) s = .next t ∧ t.mgmt.ctxbase = v % 2 ^ 64 ∧ t.mem = s.mem) ∧
  (∀ s v, s.mgmt.phase = .running → exec (.mgmtWindowWrite 8 8 v) s = .next s) ∧
  (∀ s off size v, windowAccess off size = false ∨ windowOpen s = false → exec (.mgmtWindowWrite off size v) s = .next s) ∧
  (∀ s v, exec (.mgmtWindowWrite 0x10 4 v) s = exec (.go (w32 v)) s) ∧
  (∀ s d v, d < 4 → exec (.mgmtWindowWrite (0x20 + 4 * d) 4 v) s = exec (.lattolWrite d (w32 v)) s ∧
    exec (.mgmtWindowWrite (0x40 + 4 * d) 4 v) s = exec (.clklimWrite d (w32 v)) s) ∧
  (∀ s (v : Word), v.getLsbD 0 = true → s.mgmt.phase = .ready → baseOk s s.mgmt.ctxbase = true →
    ∃ t, exec (.go v) s = .next t ∧ t.mgmt = { s.mgmt with phase := .running } ∧ t.mem = s.mem ∧ t.units = s.units ∧
      ∀ d < 4, t.planned (.fabricBlockWrite d) = true) ∧
  (∀ s (v : Word), ¬ (v.getLsbD 0 = true ∧ s.mgmt.phase = .ready ∧ baseOk s s.mgmt.ctxbase = true) → exec (.go v) s = .next s)

/-- R397: die 0 takes the bits of the byte as grants and carries each that changed to every core and strand core; a core follows a bit
from its arrival on. -/
def Sys2Proof.Claims.GrantMap : Prop :=
  (∀ s byte, byte < 8192 → s.mgmt.phase = .running →
    let v := (rd8 s (s.tableBase + 0x1028000 + byte)).toNat
    ∃ t, exec (.grantMapWrite byte) s = .next t ∧ t.mem = s.mem ∧
      (∀ c, c ∈ (t.die 0).grants ↔ if c / 8 = byte then bit v (c % 8) = true else c ∈ (s.die 0).grants) ∧
      ∀ i < 8, ((s.die 0).grants.contains (8 * byte + i)) ≠ bit v i → ∀ k ∈ dies4.flatMap sitesOf,
        ∃ n, s.now < n ∧ (n, Turn.event (.grantArrival k (8 * byte + i) (bit v i))) ∈ t.calendar) ∧
  (∀ s k ctx on, ∃ t, exec (.grantArrival k ctx on) s = .next t ∧ t.units = s.units ∧ t.mem = s.mem ∧
    (k < 4096 → ∀ c, c ∈ (t.core k).grants ↔ if c = ctx then on = true else c ∈ (s.core k).grants) ∧
    (4096 ≤ k → ∀ c, c ∈ (t.score (k - 4096)).grants ↔ if c = ctx then on = true else c ∈ (s.score (k - 4096)).grants))

/-- R393: a version request begins anew and is answered with versions 1.2 and 1.3; capabilities and algorithms follow in that order;
digests, certificate, challenge and measurements follow the algorithms, and without the identity key nothing is signed. The bytes around
what R393 names are laid out as the model presumes of DMTF's standard, and a request for another slot or index is answered as it presumes. -/
def Sys2Proof.Claims.Attestation : Prop :=
  (∀ s, ∃ t, exec .getVersion s = .next t ∧ t.mgmt.spdm = { s.mgmt.spdm with version := true, caps := false, algs := false, response := spdmVersions } ∧
    t.units = s.units ∧ t.mem = s.mem) ∧
  (∀ s, ∃ t, exec .getCapabilities s = .next t ∧ (s.mgmt.spdm.version = true → t.mgmt.spdm.caps = true ∧ t.mgmt.spdm.algs = false) ∧
    (s.mgmt.spdm.version = false → t.mgmt.spdm = { s.mgmt.spdm with response := unexpectedRequest })) ∧
  (∀ s, ∃ t, exec .negotiateAlgorithms s = .next t ∧ t.units = s.units ∧ t.mem = s.mem ∧
    (s.mgmt.spdm.caps = true → s.mgmt.spdm.asym.testBit 7 = true ∧ s.mgmt.spdm.hash.testBit 1 = true →
      t.mgmt.spdm = { s.mgmt.spdm with algs := true, response := spdmAlgorithms }) ∧
    (s.mgmt.spdm.caps = true → s.mgmt.spdm.asym.testBit 7 = false ∨ s.mgmt.spdm.hash.testBit 1 = false →
      t.mgmt.spdm = { s.mgmt.spdm with algs := false, response := invalidRequest }) ∧
    (s.mgmt.spdm.caps = false → t.mgmt.spdm = { s.mgmt.spdm with response := unexpectedRequest })) ∧
  (∀ s i, (i = .getDigests ∨ (∃ slot, i = .getCertificate slot) ∨ (∃ slot nonce, i = .challenge slot nonce) ∨
      ∃ index signed, i = .getMeasurements index signed) →
    ∃ t r, exec i s = .next t ∧ t.mgmt = { s.mgmt with spdm := { s.mgmt.spdm with response := r } } ∧ t.units = s.units ∧ t.mem = s.mem ∧
      (s.mgmt.spdm.algs = false → r = unexpectedRequest)) ∧
  (∀ s, s.mgmt.spdm.algs = true →
    (∃ t, exec .getDigests s = .next t ∧ t.mgmt.spdm.response = spdmHead 0x01 0 1 ++ sha384 spdmChain) ∧
    (∃ t, exec (.getCertificate 0) s = .next t ∧ t.mgmt.spdm.response = spdmHead 0x02 0 0 ++ spdmChain) ∧
    (∀ slot, slot ≠ 0 → ∃ t, exec (.getCertificate slot) s = .next t ∧ t.mgmt.spdm.response = invalidRequest) ∧
    (∀ slot nonce, s.mgmt.nokey = true → ∃ t, exec (.challenge slot nonce) s = .next t ∧ t.mgmt.spdm.response = unexpectedRequest) ∧
    (∀ nonce, s.mgmt.nokey = false → ∃ t, exec (.challenge 0 nonce) s = .next t ∧ t.mgmt.spdm.response = spdmReply 3 nonce) ∧
    (∀ slot nonce, slot ≠ 0 → s.mgmt.nokey = false →
      ∃ t, exec (.challenge slot nonce) s = .next t ∧ t.mgmt.spdm.response = invalidRequest) ∧
    (∀ index, s.mgmt.nokey = true → ∃ t, exec (.getMeasurements index true) s = .next t ∧ t.mgmt.spdm.response = unexpectedRequest))

/-- R393: where the algorithms are agreed, and the key is at hand if a signature is asked for, measurements 1 to 3 are answered one at a
time, all together, or by their number, and measurement 3 is the SHA-384 digest of bytes 0 to 159 of the identity record. The block's
layout, and the indexes 0 and 255, are those the model presumes of DMTF's standard. -/
def Sys2Proof.Claims.Measurements : Prop :=
  (∀ s index signed, s.mgmt.spdm.algs = true → signed = false ∨ s.mgmt.nokey = false →
    ∃ t, exec (.getMeasurements index signed) s = .next t ∧ t.units = s.units ∧ t.mem = s.mem ∧
      (index = 0 → t.mgmt.spdm.response = spdmHead 0x60 3 0 ++ [0, 0, 0, 0] ++ spdmReply 0x60 (b2n signed)) ∧
      (1 ≤ index → index ≤ 3 → t.mgmt.spdm.response =
        spdmHead 0x60 0 0 ++ [1] ++ bytesOf 3 (measurementBlock s index).length ++ measurementBlock s index ++ spdmReply 0x60 (b2n signed)) ∧
      (index = 255 → t.mgmt.spdm.response = measurementReply s [1, 2, 3] signed) ∧
      (3 < index → index ≠ 255 → t.mgmt.spdm.response = invalidRequest)) ∧
  (∀ s, measurement s 3 = sha384 ((List.range 160).map (fun k => Tab.get 0 s.mgmt.ident k)))

/-- R398: a single-bit error changes nothing but waits to be corrected; a double error poisons its word and is counted; a scrub corrects
every single error of the dies not in S3. -/
def Sys2Proof.Claims.SoftErrors : Prop :=
  (∀ s pa, deviceTier s pa = true → (l2Line s (pa / 128)).dirty = false →
    (∃ t, exec (.softError (.memory pa) false) s = .next t ∧ .memory pa ∈ t.latent ∧ t.mem = s.mem ∧ t.poison = s.poison ∧
      t.units = s.units) ∧
    (∃ t, exec (.softError (.memory pa) true) s = .next t ∧ Tab.get false t.poison (pa / 8) = true ∧
      (∀ w, w ≠ pa / 8 → Tab.get false t.poison w = Tab.get false s.poison w) ∧ t.mem = s.mem ∧
      (Tab.get Corrected.initial t.mgmt.corrected (homeDie pa)).uncorrected =
        (Tab.get Corrected.initial s.mgmt.corrected (homeDie pa)).uncorrected + 1)) ∧
  (∀ s u r l un, s.unit? u = some un → un.at_.strand = false →
    (∃ t, exec (.softError (.vreg u r l) true) s = .next t ∧ .vreg u r l ∈ t.struck ∧ t.units = s.units) ∧
    (∃ t, exec (.softError (.vreg u r l) false) s = .next t ∧ t.struck = s.struck ∧ t.units = s.units ∧
      (Tab.get Corrected.initial t.mgmt.corrected un.die).cistern = (Tab.get Corrected.initial s.mgmt.corrected un.die).cistern + 1)) ∧
  (∀ s, ∃ t, exec .patrolScrub s = .next t ∧ t.mem = s.mem ∧ t.poison = s.poison ∧ t.units = s.units ∧
    ∀ pa, .memory pa ∈ t.latent → (s.die (homeDie pa)).power.st = .s3)

/-- Host accesses, the management window, the grant map, attestation and soft errors. -/
def Obligations.HostAndAttestation : Prop :=
  Claims.HostAccesses ∧ Claims.ManagementWindow ∧ Claims.GrantMap ∧ Claims.Attestation ∧ Claims.Measurements ∧ Claims.SoftErrors

/-- R394 to R396, R399: the host's limits take effect on their die; the thermal step follows the junction temperature; power states are
entered when the idle time and the tolerance admit them, a wake leaves them, and S3 loses what stands on the die; each hour the record's
older copy is written. -/
def Sys2Proof.Claims.PowerStates : Prop :=
  (∀ s d (v : Word), windowOpen s = true → d < 4 →
    (∃ t, exec (.lattolWrite d v) s = .next t ∧ (t.die d).power = { (s.die d).power with lattol := v.toNat } ∧ t.units = s.units ∧
      (v.toNat < (s.die d).power.st.exit → (s.die d).power.exiting = false → (s.die d).power.wake = false →
        (s.die d).power.st ≠ .s0 → t.planned (.powerWake d) = true)) ∧
    (∃ t, exec (.clklimWrite d v) s = .next t ∧ (t.die d).power = { (s.die d).power with clklim := min 23 (v.toNat % 32) } ∧
      t.units = s.units)) ∧
  (∀ s d temp, d < 4 → ∃ t, exec (.thermalStep d temp) s = .next t ∧ t.units = s.units ∧
    (t.die d).power = { (s.die d).power with
      temp := temp,
      thermal := if 100 < temp then min 23 ((s.die d).power.thermal + 1) else if temp < 95 then (s.die d).power.thermal - 1
        else (s.die d).power.thermal }) ∧
  (∀ s d, d < 4 → (s.die d).bring = .ready → (s.die d).frozen = false → (s.die d).power.entering = none →
    (s.die d).power.exiting = false → (s.die d).power.st.depth < (powerTarget s d).depth →
    ∃ t, exec (.idleTimeout d) s = .next t ∧ (t.die d).power.st = powerTarget s d ∧ (t.die d).power.entering = some (powerTarget s d) ∧
      (powerTarget s d ≠ .s3 →
        (s.now + cyclesOf s (powerTarget s d).entry, Turn.event (.powerEntryComplete d)) ∈ t.calendar ∧ t.units = s.units)) ∧
  (∀ s d p, (s.die d).power.entering = some p → (s.die d).power.wake = false →
    ∃ t, exec (.powerEntryComplete d) s = .next t ∧ (t.die d).power.entering = none ∧ (t.die d).power.st = (s.die d).power.st ∧
      (p = .s3 → (∀ c, coreDie c = d → t.core c = Core.initial) ∧ (t.die d).held = (s.die d).held)) ∧
  (∀ s d, d < 4 → (s.die d).power.st ≠ .s0 → (s.die d).power.exiting = false → (s.die d).power.entering = none →
    ∃ t, exec (.powerWake d) s = .next t ∧ (t.die d).power.exiting = true ∧ t.units = s.units ∧
      ((s.die d).power.st = .s3 → Turn.event (.powerOn d) ∈ t.agenda) ∧
      ((s.die d).power.st ≠ .s3 →
        (s.now + cyclesOf s (s.die d).power.st.exit, Turn.event (.powerExitComplete d)) ∈ t.calendar)) ∧
  (∀ s d, (s.die d).power.exiting = true → (s.die d).bring = .ready →
    ∃ t, exec (.powerExitComplete d) s = .next t ∧ (t.die d).power.st = .s0 ∧ (t.die d).power.exiting = false ∧
      ((t.die d).power.idleSince = s.now ∨ (t.die d).power.idleSince = (s.die d).power.idleSince) ∧ (t.die d).held = [] ∧ ∀ e ∈ (s.die d).held, Turn.event e ∈ t.agenda) ∧
  (∀ s, ∃ t, exec .lifetimeRecordWrite s = .next t ∧ t.mgmt.hours = s.mgmt.hours + 1 ∧ t.units = s.units ∧
    (t.mgmt.lifeA = s.mgmt.lifeA ∨ t.mgmt.lifeB = s.mgmt.lifeB))

/-- R390, R391, R434: a die comes up through firmware verification, self-test, memory and links, in 1 s from power-on or 2 ms from S3; a
failing step fails die 0 with its code and fences another die; fenced units are recorded, memory reads zero, and READY is reached with
the last die. Once die 0 has failed no die goes further. -/
def Sys2Proof.Claims.BringsUp : Prop :=
  (∀ s d, d < 4 → dieAbsent s d = false → d = 0 ∨ s.mgmt.phase ≠ .failed →
    (s.die d).bring = .off ∨ ((s.die d).bring = .ready ∧ (s.die d).power.st = .s3 ∧ (s.die d).power.exiting = true) →
    ∃ t n f, exec (.powerOn d) s = .next t ∧ (t.die d).bring = .firmware ∧ (n, Turn.event (.firmware d f)) ∈ t.calendar ∧
      (t.die d).power.upBy = s.now + cyclesOf t (if (s.die d).bring = .off then 10 ^ 6 else 2000) ∧
      s.now < n ∧ n ≤ max (s.now + 1) (t.die d).power.upBy) ∧
  (∀ s d, atStep s d .firmware = true → s.mgmt.flash.rollback ≤ s.mgmt.flash.fwver →
    ∃ t n pass fenced, exec (.firmware d 0) s = .next t ∧ (t.die d).bring = .selftest ∧
    (n, Turn.event (.selftest d pass fenced)) ∈ t.calendar ∧ s.now < n ∧ n ≤ max (s.now + 1) (s.die d).power.upBy ∧ t.mem = s.mem) ∧
  (∀ s, (s.die 0).bring = .firmware →
    (∀ f, f = 1 ∨ f = 3 → ∃ t, exec (.firmware 0 f) s = .next t ∧ t.mgmt = { s.mgmt with phase := .failed, fail := f } ∧ t.mem = s.mem) ∧
    (s.mgmt.flash.fwver < s.mgmt.flash.rollback →
      ∃ t, exec (.firmware 0 0) s = .next t ∧ t.mgmt = { s.mgmt with phase := .failed, fail := 2 } ∧ t.mem = s.mem)) ∧
  (∀ s fenced key, ((s.die 0).bring = .selftest → ∃ t, exec (.selftest 0 false fenced) s = .next t ∧
      t.mgmt = { s.mgmt with phase := .failed, fail := 4 } ∧ t.mem = s.mem) ∧
    ((s.die 0).bring = .memory → ∃ t, exec (.memory 0 false) s = .next t ∧
      t.mgmt = { s.mgmt with phase := .failed, fail := 6 } ∧ t.mem = s.mem) ∧
    ((s.die 0).bring = .links → ∃ t, exec (.links 0 false key) s = .next t ∧
      t.mgmt = { s.mgmt with phase := .failed, fail := 5 } ∧ t.mem = s.mem)) ∧
  (∀ s d i fenced key, d ≠ 0 → s.mgmt.phase ≠ .failed →
    ((s.die d).bring = .firmware ∧ (i = .firmware d 1 ∨ i = .firmware d 3)) ∨ ((s.die d).bring = .selftest ∧ i = .selftest d false fenced) ∨
      ((s.die d).bring = .memory ∧ i = .memory d false) ∨ ((s.die d).bring = .links ∧ i = .links d false key) →
    ∃ t, exec i s = .next t ∧ (t.die d).bring = .fenced ∧ t.mem = s.mem ∧ ∀ k < 24, Tab.get 0 t.mgmt.ident (32 + 32 * d + k) = 0) ∧
  (∀ s d fenced, atStep s d .selftest = true → ∃ t n pass, exec (.selftest d true fenced) s = .next t ∧ (t.die d).bring = .memory ∧
    (∀ k, k ∈ (t.die d).fenced ↔ k ∈ fenced ∨ k ∈ Tab.get [] s.mgmt.flash.fenced d) ∧
    (n, Turn.event (.memory d pass)) ∈ t.calendar ∧ s.now < n ∧ n ≤ max (s.now + 1) (s.die d).power.upBy) ∧
  (∀ s d, atStep s d .memory = true → dieStacks s d ≠ [] → ∃ t n pass key, exec (.memory d true) s = .next t ∧ (t.die d).bring = .links ∧
    (n, Turn.event (.links d pass key)) ∈ t.calendar ∧ s.now < n ∧ n ≤ max (s.now + 1) (s.die d).power.upBy ∧
    ((s.die d).power.st ≠ .s3 → ∀ a, rd8 t a = if ownMemory d a then 0 else rd8 s a) ∧ ((s.die d).power.st = .s3 → t.mem = s.mem)) ∧
  (∀ s d key, atStep s d .links = true → ∃ t, exec (.links d true key) s = .next t ∧ (t.die d).bring = .ready ∧ t.mem = s.mem ∧
    (s.mgmt.phase = .links →
      (∀ k < 4, k ≠ d → dieAbsent s k = true ∨ (s.die k).bring = .ready ∨ (s.die k).bring = .fenced) → t.mgmt.phase = .ready) ∧
    (d = 0 → t.mgmt.nokey = !key))

/-- Power states, limits, thermal steps, the lifetime record, and bring-up of a die. -/
def Obligations.PowerAndBringUp : Prop :=
  Claims.PowerStates ∧ Claims.BringsUp

/-- The memory of the block of a cell's module takes writes. -/
def Sys2Proof.Claims.BlockBacked (s : State) (cell : Nat) : Prop := ∀ i < 128, unbackedAt s (debugBlock s cell + i) = false

/-- A command with the debug right waits in the block of a cell's module. -/
def Sys2Proof.Claims.Commands (s : State) (cell op : Nat) : Prop :=
  cell < 96 ∧ BlockBacked s cell ∧ debugPending s cell = true ∧ debugField s cell 64 1 = op ∧ hasRight (s.cell cell).dbg = true

/-- The status byte of the block of a cell's module. -/
def Sys2Proof.Claims.statusOf (s : State) (cell : Nat) : Nat := debugField s cell 65 1

/-- R371 to R377: the module reads its owner and flags; HALT of the cell stops every unit of the owner there, RESUME lets them run, STEP
one of them for one instruction; without the right a command ends with NO_RIGHT; revocation resumes the units and discards the edits. -/
def Sys2Proof.Claims.DebugRuns : Prop :=
  (∀ s cell, cell < 96 → debugPending s cell = false →
    let owner := debugField s cell 0 2
    let flags := debugField s cell 2 1
    (hasRight (s.cell cell).dbg = false ∨ owner = (s.cell cell).dbg.owner ∧ bit flags 0 = true) →
    ∃ t, exec (.debugHalt cell) s = .next t ∧ t.units = s.units ∧ t.mem = s.mem ∧ (t.cell cell).dbg.owner = owner ∧
      (t.cell cell).dbg.dflags = flags ∧ (t.cell cell).dbg.rmode = debugField s cell 3 1) ∧
  (∀ s cell, Claims.Commands s cell 1 → debugField s cell 0 2 = (s.cell cell).dbg.owner →
    bit (debugField s cell 2 1) 0 = true → bit (debugField s cell 2 1) 1 = true → debugField s cell 68 4 = wholeCell →
    ∃ t, exec (.debugHalt cell) s = .next t ∧ Claims.statusOf t cell = dbDone ∧ (t.cell cell).dbg.frozen = true ∧
      ∀ u un, s.unit? u = some un → ∃ un', t.unit? u = some un' ∧ un'.regs = un.regs ∧ un'.ctl = un.ctl ∧ un'.entries = un.entries ∧
        un'.halted = (if un.cell = cell ∧ un.at_.ctx = (s.cell cell).dbg.owner ∧ un.halted = none then some s.now else un.halted)) ∧
  (∀ s cell, Claims.Commands s cell 2 → debugField s cell 68 4 = wholeCell →
    ∃ t, exec (.debugResume cell) s = .next t ∧ Claims.statusOf t cell = dbDone ∧ (t.cell cell).dbg.frozen = false ∧
      ∀ u un, t.unit? u = some un → un.cell = cell → un.at_.ctx = (s.cell cell).dbg.owner → un.halted = none) ∧
  (∀ s cell u un, Claims.Commands s cell 3 → debugUnit s cell (debugField s cell 68 4) = some u → s.unit? u = some un → un.halted ≠ none →
    ∃ t un', exec (.debugStep cell) s = .next t ∧ Claims.statusOf t cell = dbDone ∧ t.unit? u = some un' ∧ un'.halted = none ∧ un'.step = .armed ∧
      un'.regs = un.regs ∧ un'.ctl = un.ctl ∧ ∀ v, v ≠ u → t.unit? v = s.unit? v) ∧
  (∀ s cell op i, cell < 96 → Claims.BlockBacked s cell → debugPending s cell = true → debugField s cell 64 1 = op → hasRight (s.cell cell).dbg = false →
    (op, i) ∈ [(2, Instr.debugResume cell), (3, .debugStep cell), (4, .debugRead cell), (5, .debugWrite cell), (6, .commit cell),
      (7, .drop cell)] →
    ∃ t, exec i s = .next t ∧ t.units = s.units ∧ t.cells = s.cells ∧ Claims.statusOf t cell = dbNoRight) ∧
  (∀ s cell, cell < 96 → hasRight (s.cell cell).dbg = true →
    (debugField s cell 0 2 ≠ (s.cell cell).dbg.owner ∨ bit (debugField s cell 2 1) 0 = false) →
    exec (.debugHalt cell) s = .next (s.soon (.event (.debugRevoke cell))) ∧
    ∃ t, exec (.debugRevoke cell) s = .next t ∧ (t.cell cell).dbg.owner = debugField s cell 0 2 ∧ (t.cell cell).dbg.edits = [] ∧
      (Claims.BlockBacked s cell → debugPending s cell = true → Claims.statusOf t cell = dbNoRight) ∧
      ∀ u un, t.unit? u = some un → un.cell = cell → un.at_.ctx = (s.cell cell).dbg.owner → un.halted = none)

/-- R373, R376: READ places the 8 bytes at an offset of a halted unit's state in the block; WRITE enters an edit in the buffer, COMMIT
gives the registers their edits, DROP discards them; a unit that is not halted, or has not been since its WRITE, is refused. -/
def Sys2Proof.Claims.DebugEdits : Prop :=
  (∀ s cell u un v, Claims.Commands s cell 4 → debugUnit s cell (debugField s cell 68 4) = some u → s.unit? u = some un → un.halted ≠ none →
    readState s u un (debugField s cell 72 4) = some v →
    ∃ t, exec (.debugRead cell) s = .next t ∧ Claims.statusOf t cell = dbDone ∧ debugField t cell 80 8 = v % 2 ^ 64 ∧ t.units = s.units) ∧
  (∀ s cell u un, Claims.Commands s cell 5 → debugUnit s cell (debugField s cell 68 4) = some u → s.unit? u = some un → un.halted ≠ none →
    let off := debugField s cell 72 4
    let l := (s.cell cell).dbg.edits
    writable s un off = true →
    (l.length < 64 → ∃ t, exec (.debugWrite cell) s = .next t ∧ Claims.statusOf t cell = dbDone ∧ t.units = s.units ∧
      (t.cell cell).dbg.edits = l ++ [⟨u, off, dw (debugField s cell 80 8), false⟩]) ∧
    (64 ≤ l.length → ∃ t, exec (.debugWrite cell) s = .next t ∧ Claims.statusOf t cell = dbBufferFull ∧ t.units = s.units ∧
      (t.cell cell).dbg.edits = l)) ∧
  (∀ s cell u un op i, Claims.Commands s cell op → debugUnit s cell (debugField s cell 68 4) = some u → s.unit? u = some un →
    un.halted = none → (op, i) ∈ [(3, Instr.debugStep cell), (4, .debugRead cell), (5, .debugWrite cell)] →
    ∃ t, exec i s = .next t ∧ Claims.statusOf t cell = dbNotHalted ∧ t.units = s.units ∧ t.cells = s.cells) ∧
  (∀ s cell u un v k, Claims.Commands s cell 6 → s.unit? u = some un → un.halted ≠ none → k < 32 → (s.cell cell).dbg.edits = [⟨u, 8 * k, v, false⟩] →
    ∃ t un', exec (.commit cell) s = .next t ∧ Claims.statusOf t cell = dbDone ∧ (t.cell cell).dbg.edits = [] ∧ t.unit? u = some un' ∧
      readS un' (2 * k) = loWord v ∧ readS un' (2 * k + 1) = hiWord v ∧ un'.edited = true ∧ un'.regs.v = un.regs.v) ∧
  (∀ s cell u un v off n l, Claims.Commands s cell 6 → s.unit? u = some un → un.halted ≠ none → vregAt s un off = some (n, l) →
    (s.cell cell).dbg.edits = [⟨u, off, v, false⟩] →
    ∃ t un', exec (.commit cell) s = .next t ∧ Claims.statusOf t cell = dbDone ∧ (t.cell cell).dbg.edits = [] ∧ t.unit? u = some un' ∧
      readV un' n l = loWord v ∧ (∀ m i, i < 32 → m ≠ n ∨ i ≠ l → readV un' m i = readV un m i) ∧
      (∀ o, feOf un' o = feOf un o) ∧ un'.regs.s = un.regs.s ∧ un'.ctl = un.ctl ∧
      un'.edited = true) ∧
  (∀ s cell e, Claims.Commands s cell 6 → e ∈ (s.cell cell).dbg.edits →
    e.stale = true ∨ s.unit? e.unit = none ∨ (∃ un, s.unit? e.unit = some un ∧ un.halted = none) →
    ∃ t, exec (.commit cell) s = .next t ∧ Claims.statusOf t cell = dbNotHalted ∧ t.units = s.units ∧ t.cells = s.cells) ∧
  (∀ s cell, Claims.Commands s cell 7 → ∃ t, exec (.drop cell) s = .next t ∧ Claims.statusOf t cell = dbDone ∧ (t.cell cell).dbg.edits = [] ∧
    t.units = s.units)

/-- The debug module: halt, resume, step, revocation, reads and edits of a halted unit. -/
def Obligations.DebugModule : Prop :=
  Claims.DebugRuns ∧ Claims.DebugEdits

/-- Table 3-6, R58 to R64: the decoder reads every encoded well-formed instruction back, with every operand and modifier. -/
def Obligations.DecodeOfEncode : Prop :=
  ∀ i c, encode i = some c → i.wf = true → decode c = some i

/-- R70, Table 3-6: what the decoder reads is a well-formed instruction of the core, and has an encoding that reads back as it. -/
def Obligations.DecodedIsWellFormed : Prop :=
  ∀ c i, decode c = some i → i.wf = true ∧ ∃ c', encode i = some c' ∧ decode c' = some i

/-- R55 to R60: a line of one head whose tail has the length the head gives is valid, and its slot 1 and tail words read back. -/
def Obligations.LinesReadBack : Prop :=
  ∀ c cont, c.head < 2 ^ 16 → c.tail.length = c.head / 2 ^ 14 → (∀ w ∈ c.tail, w < 2 ^ 32) →
    (lineOf c cont).length = 64 ∧ lineH (lineOf c cont) = 1 ∧ lineCont (lineOf c cont) = cont ∧ lineKind (lineOf c cont) = 0 ∧
      lineValid (lineOf c cont) = true ∧ codeAt (lineOf c cont) 1 = c

/-- Tables 3-2 to 3-6, Examples 3-1, 6-2 and 9-1, Table 10-8: words of the spec and words built field by field from its tables, and the
instructions they stand for; and code points, lengths and fields that R64, R70 and R71 call illegal. -/
def Obligations.WordsFromTheSpec : Prop :=
  let h : Hdr := ⟨⟨0, false⟩, none⟩
  decode ⟨0x0000, []⟩ = some (.nop ⟨0, false⟩) ∧
  decode ⟨0x4040, [0x00002800]⟩ = some (.trap ⟨h, 5⟩) ∧
  decode ⟨0x4100, [0x002FFFFD]⟩ = some (.br ⟨h, ⟨-3, 2⟩⟩) ∧
  decode ⟨0x8801, [0x00001001, 0x90000003]⟩ = some (.iadd ⟨⟨⟨0, false⟩, some ⟨2, true⟩⟩, .v 1, .v 2, .v 3, .wrap⟩) ∧
  decode ⟨0x4C50, [0x07C04007]⟩ = some (.shli ⟨h, .v 7, .v 8, 31⟩) ∧
  decode ⟨0x4E10, [0x00032404]⟩ = some (.movi ⟨h, .s 4, 100⟩) ∧
  decode ⟨0x8E30, [0x000186A0, 0x00000002]⟩ = some (.movk ⟨h, .v 2, 100000, .w32⟩) ∧
  decode ⟨0x9435, [0x0000580A, 0x1800680C]⟩ =
    some (.ffma ⟨⟨⟨1, false⟩, some ⟨3, false⟩⟩, .v 10, .v 11, .v 12, .v 13, ⟨none, none, none⟩, ⟨.dyn, false⟩⟩) ∧
  decode ⟨0x9400, [0x82C01001, 0x00000003]⟩ = some (.fadd ⟨h, .v 1, .v 2, .v 3, ⟨some .e5m2, some 3, none⟩, ⟨.dyn, false⟩⟩) ∧
  decode ⟨0x6500, [0x00401C05]⟩ = some (.ballot ⟨h, .s 5, 3, true⟩) ∧
  decode ⟨0xA800, [0x00001001, 0x0406FFFC]⟩ = some (.ld ⟨h, .v 1, .v 2, -4, .s 6, ⟨.b32, false, false, none⟩⟩) ∧
  decode ⟨0xAC00, [0x00201401, 0x00000008]⟩ = some (.ldl ⟨h, .s 1, .s 2, 8, ⟨.b32, false, false, none⟩⟩) ∧
  decode ⟨0x7400, [0x05400000]⟩ = some (.fence ⟨h, ⟨.dev, .rel⟩⟩) ∧
  decode ⟨0x7600, [0x01206001]⟩ = some (.mrsv ⟨h, 1, .s 12, 4⟩) ∧
  decode ⟨0xB700, [0x00202000, 0x04080000]⟩ = some (.mlda ⟨h, 0, .s 4, 0, .s 8, .bf16, false, .scr⟩) ∧
  decode ⟨0xBD30, [0x04E02402, 0x04060000]⟩ = some (.enq ⟨h, .s 2, .s 4, 0, .s 6, ⟨3, true, false⟩⟩) ∧
  decode ⟨0xBE50, [0x02A01401, 0x04040010]⟩ = some (.svc ⟨h, .s 1, .s 2, 16, some (.s 4), .tex, 2, false⟩) ∧
  decode ⟨0x7F00, [0x01400403]⟩ = some (.ctlr ⟨h, .s 3, 5⟩) ∧
  decode ⟨0x5300, [0]⟩ = none ∧ decode ⟨0x4800, [0]⟩ = none ∧ decode ⟨0x0001, []⟩ = none ∧
  decode ⟨0x9400, [0x02C01001, 0x00000003]⟩ = none ∧ decode ⟨0x4C50, [0x0FC04007]⟩ = none

/-- A unit's turn runs the instruction that the head at its split's pc and its tail words decode to; where the split has no line yet, the
line is fetched and checked first (R57, R60, R66, R67, R70). The turn keeps the instruction's effect but where it has completed a command
that found no room (R226), or needs memory of a die in S3 (R395). -/
def Sys2Proof.Claims.StepRuns : Prop :=
  (∀ s u rest un e sp l i, s.agenda = .issue u :: rest →
    let s0 := { s with agenda := rest }
    s.unit? u = some un → mayIssue s0 un = true → un.running = some (e, sp) → sp.stage ≠ skipStage →
    sp.line = some l → decode (codeAt l (headIx sp.pc)) = some i →
    let x := { markIssue s0 u un e sp i with actor := some u }
    step s = unlessDeep s0 (fun _ t => t) (endIssue (unlessCrowded x (exec i x)))) ∧
  (∀ s u rest un e sp l s1 i, s.agenda = .issue u :: rest →
    let s0 := { s with agenda := rest }
    s.unit? u = some un → mayIssue s0 un = true → un.running = some (e, sp) → sp.stage ≠ skipStage →
    un.split? e = some sp → (∀ x ∈ un.splits, x.2.st = .running → x = (e, sp)) → sp.line = none → fetchLine s0 un sp sp.pc = .line l s1 → fetchChecks l sp.pc = none →
    decode (codeAt l (headIx sp.pc)) = some i →
    let sp' := { sp with line := some l }
    let un' := un.modSplit e (fun _ => sp')
    let x := { markIssue (s1.putUnit u un') u un' e sp' i with actor := some u }
    step s = unlessDeep s0 (fun _ t => t) (endIssue (unlessCrowded x (exec i x)))) ∧
  (∀ s u rest un e sp l, s.agenda = .issue u :: rest →
    let s0 := { s with agenda := rest }
    s.unit? u = some un → mayIssue s0 un = true → un.running = some (e, sp) → sp.stage ≠ skipStage →
    sp.line = some l → decode (codeAt l (headIx sp.pc)) = none →
    step s = unlessDeep s0 (fun _ t => t) (.next (trapHere s0 u e causeIllegalOp))) ∧
  (∀ s t, endIssue (.next s) = .next t → t = { s with actor := none }) ∧
  (∀ s t, (∀ u un, s.actor = some u → s.unit? u = some un → crowded s t un = none) → unlessCrowded s (.next t) = .next t) ∧
  (∀ s again t, (∀ d ∈ t.deep, d ∈ s.deep) → unlessDeep s again (.next t) = .next t) ∧
  (∀ s, s.agenda = [] → step s = .next (nextCycle s)) ∧
  (∀ s e rest, s.agenda = .event e :: rest →
    let s0 := { s with agenda := rest }
    holdEvent s0 e = none → step s = unlessDeep s0 (fun d t => holdFor t d e) (runEvent e s0)) ∧
  (∀ s u rest, s.agenda = .issue u :: rest → s.unit? u = none → step s = .fault (.noUnit u)) ∧
  (∀ i s, ∃ t, exec i s = .next t)

/-- An event of the agenda runs the instruction of the same name: the part's events are the opcode table's rows. -/
def Sys2Proof.Claims.EventTurns : Prop :=
  (∀ u k s, runEvent (.producerCompletion u k) s = exec (.producerCompletion u k) s) ∧
  (∀ u r vals s, runEvent (.remoteFill u r vals) s = exec (.remoteFill u r vals) s) ∧
  (∀ cell ctx va s, runEvent (.pageWalk cell ctx va) s = exec (.pageWalk cell ctx va) s) ∧
  (∀ core line s, runEvent (.cacWriteback core line) s = exec (.cacWriteback core line) s) ∧
  (∀ u r s, runEvent (.resultRecordAppend u r) s = exec (.resultRecordAppend u r) s) ∧
  (∀ core s, runEvent (.issueSelect core) s = exec (.issueSelect core) s) ∧
  (∀ sc s, runEvent (.strandIssueSelect sc) s = exec (.strandIssueSelect sc) s) ∧
  (∀ core s, runEvent (.loadLimitWindow core) s = exec (.loadLimitWindow core) s) ∧
  (∀ u entry stamp s, runEvent (.sleepExpiry u entry stamp) s = exec (.sleepExpiry u entry stamp) s) ∧
  (∀ cl rect x y column s, runEvent (.barcSweepArrival cl rect x y column) s = exec (.barcSweepArrival cl rect x y column) s) ∧
  (∀ cl rect x y s, runEvent (.barcSweepRelease cl rect x y) s = exec (.barcSweepRelease cl rect x y) s) ∧
  (∀ task core s, runEvent (.gridBarrierRelease task core) s = exec (.gridBarrierRelease task core) s) ∧
  (∀ core s, runEvent (.matrixEntryStart core) s = exec (.matrixEntryStart core) s) ∧
  (∀ core s, runEvent (.matrixEntryFinish core) s = exec (.matrixEntryFinish core) s) ∧
  (∀ core k s, runEvent (.stagingComplete core k) s = exec (.stagingComplete core k) s) ∧
  (∀ core w s, runEvent (.multicastWindowRead core w) s = exec (.multicastWindowRead core w) s) ∧
  (∀ core s, runEvent (.jointOperationStart core) s = exec (.jointOperationStart core) s) ∧
  (∀ core s, runEvent (.moveSwitch core) s = exec (.moveSwitch core) s) ∧
  (∀ core s, runEvent (.moveRebuild core) s = exec (.moveRebuild core) s) ∧
  (∀ core s, runEvent (.moveComplete core) s = exec (.moveComplete core) s) ∧
  (∀ core tile s, runEvent (.tileFlush core tile) s = exec (.tileFlush core tile) s) ∧
  (∀ core s, runEvent (.moveWaitRelease core) s = exec (.moveWaitRelease core) s) ∧
  (∀ core s, runEvent (.roleListReturn core) s = exec (.roleListReturn core) s) ∧
  (∀ core k s, runEvent (.copy core k) s = exec (.copy core k) s) ∧
  (∀ core k s, runEvent (.fill core k) s = exec (.fill core k) s) ∧
  (∀ core k s, runEvent (.vfill core k) s = exec (.vfill core k) s) ∧
  (∀ core k s, runEvent (.tsend core k) s = exec (.tsend core k) s) ∧
  (∀ core k s, runEvent (.plan core k) s = exec (.plan core k) s) ∧
  (∀ core k i s, runEvent (.planSend core k i) s = exec (.planSend core k i) s) ∧
  (∀ core k s, runEvent (.copyComplete core k) s = exec (.copyComplete core k) s) ∧
  (∀ die k s, runEvent (.mergeOpen die k) s = exec (.mergeOpen die k) s) ∧
  (∀ die k s, runEvent (.mergeClose die k) s = exec (.mergeClose die k) s) ∧
  (∀ die k s, runEvent (.frame die k) s = exec (.frame die k) s) ∧
  (∀ die k s, runEvent (.absent die k) s = exec (.absent die k) s) ∧
  (∀ die k s, runEvent (.sink die k) s = exec (.sink die k) s) ∧
  (∀ die k s, runEvent (.route die k) s = exec (.route die k) s) ∧
  (∀ die k s, runEvent (.unsink die k) s = exec (.unsink die k) s) ∧
  (∀ die engine sink s, runEvent (.sinkRelease die engine sink) s = exec (.sinkRelease die engine sink) s) ∧
  (∀ die k s, runEvent (.serviceAccept die k) s = exec (.serviceAccept die k) s) ∧
  (∀ die k s, runEvent (.rasterOpen die k) s = exec (.rasterOpen die k) s) ∧
  (∀ die k s, runEvent (.draw die k) s = exec (.draw die k) s) ∧
  (∀ die k s, runEvent (.resolve die k) s = exec (.resolve die k) s) ∧
  (∀ die k s, runEvent (.rasterClose die k) s = exec (.rasterClose die k) s) ∧
  (∀ die k s, runEvent (.clear die k) s = exec (.clear die k) s) ∧
  (∀ die k s, runEvent (.trace die k) s = exec (.trace die k) s) ∧
  (∀ die k s, runEvent (.sample die k) s = exec (.sample die k) s) ∧
  (∀ die k s, runEvent (.endRecord die k) s = exec (.endRecord die k) s) ∧
  (∀ ctx s, runEvent (.contextEntryWake ctx) s = exec (.contextEntryWake ctx) s) ∧
  (∀ ctx s, runEvent (.contextLeave ctx) s = exec (.contextLeave ctx) s) ∧
  (∀ ctx q s, runEvent (.queueTailWrite ctx q) s = exec (.queueTailWrite ctx q) s) ∧
  (∀ die s, runEvent (.placeCluster die) s = exec (.placeCluster die) s) ∧
  (∀ die s, runEvent (.placeStrand die) s = exec (.placeStrand die) s) ∧
  (∀ die s, runEvent (.placeSuperstepGrid die) s = exec (.placeSuperstepGrid die) s) ∧
  (∀ task s, runEvent (.taskRetire task) s = exec (.taskRetire task) s) ∧
  (∀ cell form s, runEvent (.sumpTimeout cell form) s = exec (.sumpTimeout cell form) s) ∧
  (∀ cell s, runEvent (.sumpPlace cell) s = exec (.sumpPlace cell) s) ∧
  (∀ die s, runEvent (.balancerSample die) s = exec (.balancerSample die) s) ∧
  (∀ die core s, runEvent (.balancerDeferredMove die core) s = exec (.balancerDeferredMove die core) s) ∧
  (∀ die s, runEvent (.faultRecordWrite die) s = exec (.faultRecordWrite die) s) ∧
  (∀ die s, runEvent (.resume die) s = exec (.resume die) s) ∧
  (∀ die s, runEvent (.redirect die) s = exec (.redirect die) s) ∧
  (∀ die s, runEvent (.enter die) s = exec (.enter die) s) ∧
  (∀ die s, runEvent (.retire die) s = exec (.retire die) s) ∧
  (∀ die s, runEvent (.stop die) s = exec (.stop die) s) ∧
  (∀ die s, runEvent (.inval die) s = exec (.inval die) s) ∧
  (∀ die s, runEvent (.preempt die) s = exec (.preempt die) s) ∧
  (∀ die s, runEvent (.restore die) s = exec (.restore die) s) ∧
  (∀ die s, runEvent (.migrate die) s = exec (.migrate die) s) ∧
  (∀ core s, runEvent (.migrationResume core) s = exec (.migrationResume core) s) ∧
  (∀ die s, runEvent (.freeze die) s = exec (.freeze die) s) ∧
  (∀ die s, runEvent (.thaw die) s = exec (.thaw die) s) ∧
  (∀ core u agent s, runEvent (.routeUpdate core u agent) s = exec (.routeUpdate core u agent) s) ∧
  (∀ core u agent s, runEvent (.routeUpdateAck core u agent) s = exec (.routeUpdateAck core u agent) s) ∧
  (∀ line inval s, runEvent (.hostSnoop line inval) s = exec (.hostSnoop line inval) s) ∧
  (∀ r s, runEvent (.cxlMemRequest r) s = exec (.cxlMemRequest r) s) ∧
  (∀ link s, runEvent (.linkRetrain link) s = exec (.linkRetrain link) s) ∧
  (∀ link s, runEvent (.linkUp link) s = exec (.linkUp link) s) ∧
  (∀ link stamp s, runEvent (.linkDownTimeout link stamp) s = exec (.linkDownTimeout link stamp) s) ∧
  (∀ die s, runEvent (.fabricBlockWrite die) s = exec (.fabricBlockWrite die) s) ∧
  (∀ die p s, runEvent (.packetForward die p) s = exec (.packetForward die p) s) ∧
  (∀ die p s, runEvent (.tilePacketArrival die p) s = exec (.tilePacketArrival die p) s) ∧
  (∀ die session frame lo hi s, runEvent (.nodeDeadline die session frame lo hi) s = exec (.nodeDeadline die session frame lo hi) s) ∧
  (∀ die session frame s, runEvent (.leafFrameClose die session frame) s = exec (.leafFrameClose die session frame) s) ∧
  (∀ die session s, runEvent (.keepAliveSend die session) s = exec (.keepAliveSend die session) s) ∧
  (∀ die p s, runEvent (.keepAliveArrival die p) s = exec (.keepAliveArrival die p) s) ∧
  (∀ die session lo hi s, runEvent (.childTimeout die session lo hi) s = exec (.childTimeout die session lo hi) s) ∧
  (∀ die p s, runEvent (.absentNotice die p) s = exec (.absentNotice die p) s) ∧
  (∀ die session s, runEvent (.sessionClose die session) s = exec (.sessionClose die session) s) ∧
  (∀ die p s, runEvent (.rootTileDelivery die p) s = exec (.rootTileDelivery die p) s) ∧
  (∀ die engine sink frame s, runEvent (.frameRecord die engine sink frame) s = exec (.frameRecord die engine sink frame) s) ∧
  (∀ v s, runEvent (.go v) s = exec (.go v) s) ∧
  (∀ die v s, runEvent (.lattolWrite die v) s = exec (.lattolWrite die v) s) ∧
  (∀ die v s, runEvent (.clklimWrite die v) s = exec (.clklimWrite die v) s) ∧
  (∀ off size v s, runEvent (.mgmtWindowWrite off size v) s = exec (.mgmtWindowWrite off size v) s) ∧
  (∀ die s, runEvent (.powerOn die) s = exec (.powerOn die) s) ∧
  (∀ die fail s, runEvent (.firmware die fail) s = exec (.firmware die fail) s) ∧
  (∀ die pass fenced s, runEvent (.selftest die pass fenced) s = exec (.selftest die pass fenced) s) ∧
  (∀ die pass s, runEvent (.memory die pass) s = exec (.memory die pass) s) ∧
  (∀ die pass key s, runEvent (.links die pass key) s = exec (.links die pass key) s) ∧
  (∀ die s, runEvent (.idleTimeout die) s = exec (.idleTimeout die) s) ∧
  (∀ die s, runEvent (.powerEntryComplete die) s = exec (.powerEntryComplete die) s) ∧
  (∀ die s, runEvent (.powerWake die) s = exec (.powerWake die) s) ∧
  (∀ die s, runEvent (.powerExitComplete die) s = exec (.powerExitComplete die) s) ∧
  (∀ die temp s, runEvent (.thermalStep die temp) s = exec (.thermalStep die temp) s) ∧
  (∀ byte s, runEvent (.grantMapWrite byte) s = exec (.grantMapWrite byte) s) ∧
  (∀ core ctx granted s, runEvent (.grantArrival core ctx granted) s = exec (.grantArrival core ctx granted) s) ∧
  (∀ s, runEvent .patrolScrub s = exec .patrolScrub s) ∧
  (∀ s, runEvent .lifetimeRecordWrite s = exec .lifetimeRecordWrite s) ∧
  (∀ s, runEvent .getVersion s = exec .getVersion s) ∧
  (∀ s, runEvent .getCapabilities s = exec .getCapabilities s) ∧
  (∀ s, runEvent .negotiateAlgorithms s = exec .negotiateAlgorithms s) ∧
  (∀ s, runEvent .getDigests s = exec .getDigests s) ∧
  (∀ slot s, runEvent (.getCertificate slot) s = exec (.getCertificate slot) s) ∧
  (∀ slot nonce s, runEvent (.challenge slot nonce) s = exec (.challenge slot nonce) s) ∧
  (∀ index signed s, runEvent (.getMeasurements index signed) s = exec (.getMeasurements index signed) s) ∧
  (∀ cell s, runEvent (.debugHalt cell) s = exec (.debugHalt cell) s) ∧
  (∀ cell s, runEvent (.debugResume cell) s = exec (.debugResume cell) s) ∧
  (∀ cell s, runEvent (.debugStep cell) s = exec (.debugStep cell) s) ∧
  (∀ cell s, runEvent (.debugRead cell) s = exec (.debugRead cell) s) ∧
  (∀ cell s, runEvent (.debugWrite cell) s = exec (.debugWrite cell) s) ∧
  (∀ cell s, runEvent (.commit cell) s = exec (.commit cell) s) ∧
  (∀ cell s, runEvent (.drop cell) s = exec (.drop cell) s) ∧
  (∀ cell s, runEvent (.debugRevoke cell) s = exec (.debugRevoke cell) s) ∧
  (∀ u k s, runEvent (.storeCompletion u k) s = exec (.storeCompletion u k) s) ∧
  (∀ u pair w s, runEvent (.portWordArrival u pair w) s = exec (.portWordArrival u pair w) s) ∧
  (∀ core s, runEvent (.relocationComplete core) s = exec (.relocationComplete core) s) ∧
  (∀ l double s, runEvent (.softError l double) s = exec (.softError l double) s)

/-- A step runs the instruction decoded at the pc of the unit whose turn it is, or the event of its turn. -/
def Obligations.StepRunsDecoded : Prop :=
  Claims.StepRuns ∧ Claims.EventTurns

/-- R61, R70, R24, R303: what an instruction of the core does before its effect. An illegal form traps ILLEGAL_OP; with the guard false in
every lane it retires with no other effect; where a register, port, queue or order is not ready its split waits; a source with an
uncorrectable error, or a port whose upstream has retired, traps. -/
def Sys2Proof.Claims.BeforeTheEffect : Prop :=
  ∀ i s, (encode i).isSome = true →
    (∀ c, ready i s = .illegal c → exec i s = .next (trapHere s c.u c.e causeIllegalOp)) ∧
    (∀ c, ready i s = .off c → exec i s = .next (retire s c.u c.e)) ∧
    (∀ c w, ready i s = .waits c w → exec i s = .next (park s c.u c.e w c.sp.stage)) ∧
    (∀ c k, ready i s = .broken c k → exec i s = .next (trapHere s c.u c.e k)) ∧
    (ready i s = .idle → exec i s = .next s)

/-- R61, R70, R72, R24: when an instruction acts. It is legal for the unit, its guard passes in some lane, and neither its registers nor
the order make it wait; a class that does not suit the unit is illegal; a unit with nothing outstanding and all its registers full has no
wait for registers. -/
def Sys2Proof.Claims.WhenItActs : Prop :=
  (∀ i s u un e sp, s.actor = some u → s.unit? u = some un → un.running = some (e, sp) → sp.stage = 0 → legal s un i = true →
    guardMask un (Sys2Proof.Machine.guardOf i) sp.mask ≠ 0 → portsLegal un i = true → hazard s un e i = none → readsBroken s u i = false →
    Acts i s { u := u, un := un, e := e, sp := sp, lanes := guardMask un (Sys2Proof.Machine.guardOf i) sp.mask, instr := i }) ∧
  (∀ i s un, i.cls = .g → un.at_.strand = true → legal s un i = false) ∧
  (∀ i s un, i.cls = .s → un.at_.strand = false → legal s un i = false) ∧
  (∀ i s un, i.wf = false → legal s un i = false) ∧
  (∀ un g m l, (guardMask un (some g) m).getLsbD l = (m.getLsbD l && (readP un g.p l != g.neg))) ∧
  (∀ un m, guardMask un none m = m)

/-- What comes before an instruction's effect: illegal forms, guards, waits, broken sources; and when it acts. -/
def Obligations.WhenInstructionsAct : Prop :=
  Claims.BeforeTheEffect ∧ Claims.WhenItActs

/-- Files 05, 06 and 08: a control, integer or lane-exchange instruction that acts completes, and leaves every place of memory, every
other unit, every register but its results, every predicate but its own and every flag as they were. -/
def Sys2Proof.Claims.RegisterFrames : Prop :=
  ∀ i r s c, results i = some r → r.flags = false → NoPorts i → Acts i s c → ∃ t, exec i s = .next t ∧ Kept s t c r

/-- File 07: a floating-point instruction or conversion that acts, trapping or not, leaves the same as they were but the flags, and the
random state of stochastic rounding, of its lanes. -/
def Sys2Proof.Claims.FloatFrames : Prop :=
  (∀ i r s c, results i = some r → r.flags = true → NoPorts i → Acts i s c → ∃ t, exec i s = .next t ∧ Kept s t c r) ∧
  (∀ un m fl l, ¬ m.getLsbD l = true → Tab.get 0 (orFlags un m fl).ctl.fpflags l = Tab.get 0 un.ctl.fpflags l)

/-- A register instruction leaves memory, other units and every register but its results as they were. -/
def Obligations.RegisterInstructionFrames : Prop :=
  Claims.RegisterFrames ∧ Claims.FloatFrames

/-- Files 08 and 09: a load, store, atomic or cache operation that acts issues without changing a place of memory, another unit or a
register; its effect follows when it is performed. -/
def Sys2Proof.Claims.AccessFrames : Prop :=
  ∀ i r s c, accessResults i = some r → NoPorts i → Acts i s c → ∃ t, exec i s = .next t ∧ Kept s t c r

/-- R265, R273: a group's store of bytes of one line is what its core's loads then read there, whether the line is cached or not, and every
other byte reads as before; a cached store leaves the home slice as it was, and a write at the slice changes only its own bytes. While a
move takes the cache out of use, a store goes to the slice (R257); the host loses a write to memory that it does not back (R261). -/
def Sys2Proof.Claims.StoredBytes : Prop :=
  (∀ s c (ws : List (Nat × Byte)) bypass line, (∀ w ∈ ws, w.1 / 128 = line) → (∀ a, a / 128 = line → unbackedAt s a = false) →
    cacBypass (s.core c) = false ∨ cacFind (s.core c) line = none → Tab.rising (s.core c).ci.lines = true →
    (∀ x ∈ (s.core c).ci.lines, ∀ y ∈ (s.core c).ci.lines, x.2.line = y.2.line → x = y) →
    ∀ a, coreByte (coreStore s c ws bypass).1 c a = ((ws.reverse.find? (fun w => w.1 == a)).map (·.2)).getD (coreByte s c a)) ∧
  (∀ s c (w : Nat × Byte) ws key l, cacBypass (s.core c) = false → cacFind (s.core c) (w.1 / 128) = some (key, l) →
    (coreStore s c (w :: ws) false).1.mem = s.mem) ∧
  (∀ s c (w : Nat × Byte) ws bypass, cacBypass (s.core c) = true → cacFind ((coreStore s c (w :: ws) bypass).1.core c) (w.1 / 128) = none) ∧
  (∀ s (ws : List (Nat × Byte)) a, rd8 (sliceWrite s ws) a =
    if unbackedAt s a = true then rd8 s a else ((ws.reverse.find? (fun w => w.1 == a)).map (·.2)).getD (rd8 s a)) ∧
  (∀ s (ws : List (Nat × Byte)), (sliceWrite s ws).units = s.units ∧ (sliceWrite s ws).teams = s.teams) ∧
  (∀ (t : Team) o b, (t.setByte o b).byte o = b ∧ ∀ k, k ≠ o → (t.setByte o b).byte k = t.byte k)

/-- An access issues without changing a register or memory; a store then changes its bytes and no others. -/
def Obligations.AccessFramesAndStores : Prop :=
  Claims.AccessFrames ∧ Claims.StoredBytes

/-- R390, Table 13-1, R298, R344: right after bring-up memory reads zero, the phase is READY, nothing is resident, every Cistern has the
lists of its table, the load limit is 128, and every link is DOWN. -/
def Obligations.AfterBringUp : Prop :=
  let s := State.reset
  (∀ a, rd8 s a = 0) ∧ s.mgmt.phase = .ready ∧ s.ctxs = [] ∧ s.units = [] ∧ s.tasks = [] ∧ s.now = 0 ∧ s.agenda = [] ∧
    s.mgmt.ctxbase = 0 ∧
    (∀ c, (s.core c).ci.reg = List.range 24 ∧ (s.core c).ci.scr = (List.range 12).map (· + 24) ∧
      (s.core c).ci.cac = (List.range 8).map (· + 36) ∧ (s.core c).ci.til = (List.range 4).map (· + 44) ∧
      (s.core c).ci.places = [] ∧ (s.core c).ci.lines = [] ∧ (s.core c).limit = 128 ∧ (s.core c).mx.holder = none) ∧
    (∀ k, (s.link k).st = .down) ∧ (∀ d, (s.die d).power.st = .s0 ∧ (s.die d).parked = [] ∧ (s.die d).sessions = []) ∧ MemoryOk s

/-- Every operation that writes memory keeps it canonical, reads give what was last written, and places that differ do not meet. -/
def Obligations.MemoryReadsAndWrites : Prop :=
  (∀ s ws, MemoryOk s → MemoryOk (poke s ws)) ∧ (∀ s ws, MemoryOk s → MemoryOk (sliceWrite s ws)) ∧
  (∀ s c line, MemoryOk s → MemoryOk (cacDrop s c line)) ∧ (∀ s c ws b, MemoryOk s → MemoryOk (coreStore s c ws b).1) ∧
  (∀ s ctx va bs, MemoryOk s → MemoryOk (pokeVirt s ctx va bs)) ∧ (∀ s pa bs, MemoryOk s → MemoryOk (hostWrite s pa bs)) ∧
  (∀ s pa bs, (∀ i < bs.length, unbackedAt s (pa + i) = false) → rdBytes (poke s (run pa bs)) pa bs.length = bs) ∧
  (∀ s pa bs a, (¬ (pa ≤ a ∧ a < pa + bs.length) ∨ unbackedAt s a = true) → rd8 (poke s (run pa bs)) a = rd8 s a) ∧
  (∀ s t, MemoryOk s → MemoryOk t → (∀ a, rd8 s a = rd8 t a) → s.mem = t.mem)

/-- The canonical form of memory is kept by every step of the machine, from every state. -/
def Obligations.CanonicalMemoryKept : Prop :=
  ∀ s t, MemoryOk s → step s = .next t → MemoryOk t

end Statements
end

