-- ==== Sys2Proof/Laws/Encoding.lean ====
section
/-! SUPPORT. What the decoder reads from an encoded head and tail, shape by shape: fields, modifiers, formats. -/

namespace Sys2Proof

theorem bit_eq (n i : Nat) : bit n i = decide (n / 2 ^ i % 2 = 1) := by
  rw [bit, Nat.testBit_eq_decide_div_mod_eq]

theorem bits_code (n code h g : Nat) (hc : code < 1024) (hh : h < 4) (w : Nat) (hw : w < 2) (hg : g < 2) :
    let x := n * 16384 + code * 16 + h * 4 + w * 2 + g
    x / 16384 = n ∧ bits x 13 4 = code ∧ bits x 3 2 = h ∧ x / 2 ^ 1 % 2 = w ∧ x / 2 ^ 0 % 2 = g := by
  intro x
  simp only [bits, x]
  norm_num
  omega

theorem b2n_lt (b : Bool) : b2n b < 2 := by cases b <;> decide

@[simp] theorem fin_ofNat_val {n : Nat} [NeZero n] (x : Fin n) : Fin.ofNat n x.val = x := by
  ext; simp [Fin.ofNat, Nat.mod_eq_of_lt x.isLt]

theorem bool_of_b2n (b : Bool) : decide (b2n b = 1) = b := by cases b <;> rfl

theorem guardBit_lt (g : Option Guard) : guardBit g < 2 := b2n_lt _

/-- The decoder finds the length, code, hints and guard bit that the head was made from. -/
theorem decode_head {n code g : Nat} {h : Hint} {tail : List Nat} (hn : tail.length = n) (hc : code < 1024) (hg : g < 2) :
    decode ⟨headWord n code h g, tail⟩ =
      (match parseBody code ⟨h, decide (g = 1), tail⟩ with
       | some i => if i.wf then some i else none
       | none => none) := by
  obtain ⟨gap, gw⟩ := h
  obtain ⟨h1, h2, h3, h4, h5⟩ := bits_code n code gap.val g hc gap.isLt (b2n gw) (b2n_lt gw) hg
  simp only [decode, headWord, bit_eq, h1, h2, h3, h4, h5, hn, bool_of_b2n, fin_ofNat_val, if_true] <;> rfl

/-- As `decode_head`, for a body that parses to a well-formed instruction. -/
theorem decode_of {n code g : Nat} {h : Hint} {tail : List Nat} {i : Instr} {f : Enc → Option Instr} (hn : tail.length = n)
    (hc : code < 1024) (hg : g < 2) (hb : parseBody code = f) (hf : f ⟨h, decide (g = 1), tail⟩ = some i)
    (hw : i.wf = true) : decode ⟨headWord n code h g, tail⟩ = some i := by
  rw [decode_head hn hc hg, hb, hf]
  simp [hw]

/-! Fields -/

theorem IdVal.ofCode_code (i : IdVal) : IdVal.ofCode i.code = some i := by cases i <;> rfl

theorem IdVal.code_lt (i : IdVal) : i.code < 19 := by cases i <;> decide

theorem Operand.code_lt (o : Operand) : o.code < 2048 := by
  cases o <;> simp only [Operand.code] <;> try omega
  have := IdVal.code_lt (by assumption)
  omega

theorem Operand.ofCode_code (o : Operand) : Operand.ofCode o.code = some o := by
  cases o with
  | v n => have := n.isLt; simp [Operand.ofCode, Operand.code]
  | s n => revert n; decide
  | q n => revert n; decide
  | e n => revert n; decide
  | lc n => revert n; decide
  | id i => cases i <;> rfl
  | zero => rfl

theorem guardBits_lt (g : Option Guard) : guardBits g < 32 := by
  rcases g with _ | ⟨p, b⟩
  · decide
  · have := p.isLt; have := b2n_lt b; simp only [guardBits]; omega

/-- The guard of a last tail word is the one whose bits it holds. -/
theorem guardOf_bits {w : Nat} (g : Option Guard) (h : w / 2 ^ 27 = guardBits g) :
    guardOf (decide (guardBit g = 1)) w = some g := by
  rcases g with _ | ⟨p, b⟩
  · have h1 : bits w 31 27 = 0 := by simp only [bits, h, guardBits, Nat.zero_mod]
    simp [guardOf, guardBit, b2n, h1]
  · have hp := p.isLt
    have hb := b2n_lt b
    simp only [guardBits] at h
    have h1 : bits w 30 27 = p.val := by simp only [bits]; rw [h]; omega
    have h2 : w / 2 ^ 31 = b2n b := by
      rw [show (2 : Nat) ^ 31 = 2 ^ 27 * 16 by norm_num, ← Nat.div_div_eq_div_mul, h]; omega
    have h3 : b2n b % 2 = b2n b := Nat.mod_eq_of_lt hb
    have h4 : bit w 31 = b := by rw [bit_eq, h2, h3, bool_of_b2n]
    simp [guardOf, guardBit, b2n, h1, h4]

/-- Fields of a word laid out as format A lays it. -/
theorem wordA_fields {d a m : Nat} (g : Option Guard) (hd : d < 2048) (ha : a < 2048) (hm : m < 32) :
    let w := wordA d a m g
    bits w 10 0 = d ∧ bits w 21 11 = a ∧ bits w 26 22 = m ∧ w / 2 ^ 27 = guardBits g ∧
      bits w 10 4 = d / 16 ∧ bits w 10 3 = d / 8 ∧ bits w 3 0 = d % 16 ∧ bits w 2 0 = d % 8 ∧ bits w 8 0 = d % 512 ∧
      bits w 21 0 = d + a * 2 ^ 11 ∧ bits w 21 15 = a / 16 ∧ bits w 14 11 = a % 16 ∧ bits w 26 23 = m / 2 ∧
      w / 2 ^ 22 % 2 = m % 2 ∧ bits w 26 3 = (d + a * 2 ^ 11 + m * 2 ^ 22) / 8 ∧
      bits w 26 0 = d + a * 2 ^ 11 + m * 2 ^ 22 ∧ bits w 26 11 = a + m * 2 ^ 11 ∧ bits w 26 25 = m / 8 ∧
      bits w 24 22 = m % 8 ∧ bits w 26 9 = (d + a * 2 ^ 11 + m * 2 ^ 22) / 512 ∧ bits w 25 22 = m % 16 ∧
      w / 2 ^ 26 % 2 = m / 16 := by
  intro w
  have hg := guardBits_lt g
  simp only [bits, w, wordA]
  norm_num
  omega

/-- Fields of the first word of format C. -/
theorem word0_fields {d a m : Nat} (hd : d < 2048) (ha : a < 2048) (hm : m < 1024) :
    let w := d + a * 2 ^ 11 + m * 2 ^ 22
    bits w 10 0 = d ∧ bits w 21 11 = a ∧ bits w 10 4 = d / 16 ∧ bits w 3 0 = d % 16 ∧
      bits w 25 22 = m % 16 ∧ bits w 29 26 = m / 16 % 16 ∧ bits w 31 30 = m / 256 := by
  intro w
  simp only [bits, w]
  norm_num
  omega

/-- Fields of the first word of format M. -/
theorem wordM0_fields {d a m : Nat} (hd : d < 2048) (ha : a < 2048) (hm : m < 1024) :
    let w := wordM0 d a m
    bits w 10 0 = d ∧ bits w 21 11 = a ∧ bits w 31 22 = m ∧
      bits w 10 9 = d / 512 ∧ bits w 8 0 = d % 512 ∧ bits w 31 28 = m / 64 ∧ bits w 24 22 = m % 8 ∧
      bits w 27 26 = m / 16 % 4 ∧ w / 2 ^ 25 % 2 = m / 8 % 2 ∧ w / 2 ^ 26 % 2 = m / 16 % 2 ∧ w / 2 ^ 27 % 2 = m / 32 % 2 ∧
      bits w 10 3 = d / 8 ∧ bits w 2 0 = d % 8 ∧ bits w 31 29 = m / 128 ∧ bits w 23 22 = m % 4 ∧
      w / 2 ^ 28 % 2 = m / 64 % 2 ∧ bits w 26 24 = m / 4 % 8 := by
  intro w
  simp only [bits, w, wordM0]
  norm_num
  omega

/-- Fields of the second word of format M. -/
theorem wordM1_fields (off : BitVec 16) {s : Nat} (g : Option Guard) (hs : s < 2048) :
    let w := wordM1 off s g
    offM w = off ∧ bits w 26 16 = s ∧ w / 2 ^ 27 = guardBits g := by
  intro w
  have hg := guardBits_lt g
  have ho := off.isLt
  have h1 : bits w 15 0 = off.toNat := by simp only [bits, w, wordM1]; norm_num; omega
  refine ⟨?_, ?_, ?_⟩
  · rw [offM, h1]; simp
  · simp only [bits, w, wordM1]; norm_num; omega
  · simp only [w, wordM1]; norm_num; omega

/-- Fields of a format J word. -/
theorem wordJ_fields {d : Nat} (i : BitVec 16) (g : Option Guard) (hd : d < 2048) :
    let w := wordJ d i g
    immJ w = i ∧ bits w 10 0 = d ∧ w / 2 ^ 27 = guardBits g := by
  intro w
  have hg := guardBits_lt g
  have ho := i.isLt
  have h1 : bits w 26 11 = i.toNat := by simp only [bits, w, wordJ]; norm_num; omega
  refine ⟨?_, ?_, ?_⟩
  · rw [immJ, h1]; simp
  · simp only [bits, w, wordJ]; norm_num; omega
  · simp only [w, wordJ]; norm_num; omega

theorem targetBits_lt (t : Target) : targetBits t < 2 ^ 25 := by
  have := t.disp.isLt
  have := t.head.isLt
  simp only [targetBits]
  norm_num at *
  omega

/-- A branch target is read from the low 25 bits of a word. -/
theorem targetOf_bits {w : Nat} (t : Target) (h : w % 2 ^ 25 = targetBits t) : targetOf w = t := by
  have h1 := t.disp.isLt
  have h2 := t.head.isLt
  have e1 : bits w 19 0 = t.disp.toNat := by
    simp only [bits, targetBits] at *; norm_num at *; omega
  have e2 : bits w 24 20 = t.head.val := by
    simp only [bits, targetBits] at *; norm_num at *; omega
  simp only [targetOf, e1, e2, fin_ofNat_val]
  simp

/-- Fields of a format B word. -/
theorem wordB_fields (t : Target) {m : Nat} (g : Option Guard) (hm : m < 4) :
    let w := wordB t m g
    targetOf w = t ∧ bits w 26 25 = m ∧ w / 2 ^ 27 = guardBits g ∧ bits w 31 27 = guardBits g := by
  intro w
  have hg := guardBits_lt g
  have ht := targetBits_lt t
  refine ⟨targetOf_bits t ?_, ?_, ?_, ?_⟩ <;> simp only [bits, w, wordB] <;> norm_num at * <;> omega

/-! Modifiers -/

theorem pUnit_c (m : Unit) : pUnit (cUnit m) = some m := rfl
theorem pBool_c (m : Bool) : pBool (cBool m) = some m := by cases m <;> rfl
theorem pSat_c (m : SatMode) : pSat (cSat m) = some m := by cases m <;> rfl
theorem pFin4_c (m : Fin 4) : pFin4 (cFin4 m) = some m := by simp [pFin4, cFin4, m.isLt]
theorem pFin8_c (m : Fin 8) : pFin8 (cFin8 m) = some m := by simp [pFin8, cFin8, m.isLt]
theorem pFin32_c (m : Fin 32) : pFin32 (cFin32 m) = some m := by simp [pFin32, cFin32]
theorem pICmp_c (m : ICmpMod) : pICmp (cICmp m) = some m := by
  obtain ⟨c, u, o⟩ := m; cases c <;> cases u <;> cases o <;> rfl
theorem pICmpI_c (m : ICmpIMod) : pICmpI (cICmpI m) = some m := by obtain ⟨c, u⟩ := m; cases c <;> cases u <;> rfl
theorem pMovK_c (m : MovKMode) : pMovK (cMovK m) = some m := by cases m <;> rfl
theorem pLea_c (m : LeaMod) : pLea (cLea m) = some m := by
  obtain ⟨k, u⟩ := m; revert k; cases u <;> decide
theorem pArith_c (m : ArithMod) : pArith (cArith m) = some m := by obtain ⟨r, f⟩ := m; cases r <;> cases f <;> rfl
theorem pNarrowing_c (m : NarrowingMod) : pNarrowing (cNarrowing m) = some m := by
  obtain ⟨r, f⟩ := m
  cases r with
  | det r => cases r <;> cases f <;> rfl
  | sr => cases f <;> rfl
theorem pExact_c (m : ExactMod) : pExact (cExact m) = some m := by obtain ⟨f⟩ := m; cases f <;> rfl
theorem pFCmp_c (m : FCmpMod) : pFCmp (cFCmp m) = some m := by
  obtain ⟨c, u, o⟩ := m; cases c <;> cases u <;> cases o <;> rfl
theorem pHf_c (m : HfMod) : pHf (cHf m) = some m := by obtain ⟨a, b⟩ := m; cases a <;> cases b <;> rfl
theorem pF8_c (m : F8Mod) : pF8 (cF8 m) = some m := by
  obtain ⟨a, b, c, d⟩ := m; cases a <;> cases b <;> cases c <;> cases d <;> rfl
theorem pF4_c (m : F4Mod) : pF4 (cF4 m) = some m := by obtain ⟨a, b⟩ := m; revert a; cases b <;> decide
theorem pW8_c (m : W8Mod) : pW8 (cW8 m) = some m := by obtain ⟨a, b⟩ := m; revert b; cases a <;> decide
theorem pW4_c (m : W4Mod) : pW4 (cW4 m) = some m := by obtain ⟨a⟩ := m; revert a; decide
theorem pMxP_c (m : MxPMod) : pMxP (cMxP m) = some m := by obtain ⟨a, b⟩ := m; cases a <;> cases b <;> rfl
theorem pMxU_c (m : MxUMod) : pMxU (cMxU m) = some m := by obtain ⟨a⟩ := m; cases a <;> rfl
theorem pCvtI_c (m : CvtIMod) : pCvtI (cCvtI m) = some m := by obtain ⟨a, b⟩ := m; cases a <;> cases b <;> rfl
theorem pCvtII_c (m : CvtIIMod) : pCvtII (cCvtII m) = some m := by
  obtain ⟨a, b, c, d⟩ := m; cases a <;> cases b <;> cases c <;> cases d <;> rfl
theorem pSeg_c (m : SegMod) : pSeg (cSeg m) = some m := by obtain ⟨m⟩ := m; simp [pSeg, cSeg, m.isLt]
theorem pScan_c (m : ScanMod) : pScan (cScan m) = some m := by
  obtain ⟨a, b, c⟩ := m; cases a <;> cases b <;> cases c <;> rfl
theorem ordOf_bits (o : Option Scope) : ordOf (bit (ordBits o) 0) (ordBits o / 2) = some o := by
  rcases o with _ | c
  · rfl
  · cases c <;> rfl
theorem pMemG_c (m : MemMod) : pMemG (cMemG m) = some m := by
  obtain ⟨t, s, a, o⟩ := m
  rcases o with _ | o
  · cases t <;> cases s <;> cases a <;> rfl
  · cases t <;> cases s <;> cases a <;> cases o <;> rfl
theorem pAtomG_c (m : AtomMod) : pAtomG (cAtomG m) = some m := by
  obtain ⟨t, s, a, o⟩ := m
  rcases o with _ | o
  · cases t <;> cases s <;> cases a <;> rfl
  · cases t <;> cases s <;> cases a <;> cases o <;> rfl
theorem pPack_c (m : PackMod) : pPack (cPack m) = some m := by obtain ⟨t⟩ := m; cases t <;> rfl
theorem pPref_c (m : PrefMod) : pPref (cPref m) = some m := by obtain ⟨a, b⟩ := m; cases a <;> cases b <;> rfl
theorem pA64_c (m : A64Mod) : pA64 (cA64 m) = some m := by obtain ⟨a⟩ := m; cases a <;> rfl
theorem pQEnq_c (m : QueueMod) : pQEnq (cQEnq m) = some m := by
  obtain ⟨q, n, a⟩ := m; revert q; cases n <;> cases a <;> decide
theorem pFence_c (m : FenceMod) : pFence (cFence m) = some m := by obtain ⟨a, b⟩ := m; cases a <;> cases b <;> rfl
theorem pPoolM_c (m : PoolMMod) : pPoolM (cPoolM m) = some m := by
  obtain ⟨a, b, c⟩ := m; cases a <;> cases b <;> cases c <;> rfl

theorem cUnit_lt (m : Unit) : cUnit m < 32 := by simp [cUnit]
theorem cBool_lt (m : Bool) : cBool m < 32 := by cases m <;> decide
theorem cSat_lt (m : SatMode) : cSat m < 32 := by cases m <;> decide
theorem cFin4_lt (m : Fin 4) : cFin4 m < 32 := by have := m.isLt; simp only [cFin4]; omega
theorem cFin8_lt (m : Fin 8) : cFin8 m < 32 := by have := m.isLt; simp only [cFin8]; omega
theorem cFin32_lt (m : Fin 32) : cFin32 m < 32 := m.isLt
theorem cICmp_lt (m : ICmpMod) : cICmp m < 32 := by obtain ⟨c, u, o⟩ := m; cases c <;> cases u <;> cases o <;> decide
theorem cICmpI_lt (m : ICmpIMod) : cICmpI m < 32 := by obtain ⟨c, u⟩ := m; cases c <;> cases u <;> decide
theorem cMovK_lt (m : MovKMode) : cMovK m < 32 := by cases m <;> decide
theorem cLea_lt (m : LeaMod) : cLea m < 32 := by
  obtain ⟨k, u⟩ := m; have := k.isLt; have := b2n_lt u; simp only [cLea]; omega
theorem cArith_lt (m : ArithMod) : cArith m < 32 := by obtain ⟨r, f⟩ := m; cases r <;> cases f <;> decide
theorem cNarrowing_lt (m : NarrowingMod) : cNarrowing m < 32 := by
  obtain ⟨r, f⟩ := m
  cases r with
  | det r => cases r <;> cases f <;> decide
  | sr => cases f <;> decide
theorem cExact_lt (m : ExactMod) : cExact m < 32 := by obtain ⟨f⟩ := m; cases f <;> decide
theorem cFCmp_lt (m : FCmpMod) : cFCmp m < 32 := by obtain ⟨c, u, o⟩ := m; cases c <;> cases u <;> cases o <;> decide
theorem cHf_lt (m : HfMod) : cHf m < 32 := by obtain ⟨a, b⟩ := m; cases a <;> cases b <;> decide
theorem cF8_lt (m : F8Mod) : cF8 m < 32 := by
  obtain ⟨a, b, c, d⟩ := m; cases a <;> cases b <;> cases c <;> cases d <;> decide
theorem cF4_lt (m : F4Mod) : cF4 m < 32 := by
  obtain ⟨a, b⟩ := m; have := a.isLt; have := b2n_lt b; simp only [cF4]; omega
theorem cW8_lt (m : W8Mod) : cW8 m < 16 := by
  obtain ⟨a, b⟩ := m; have := b.isLt; have := b2n_lt a; simp only [cW8]; omega
theorem cW4_lt (m : W4Mod) : cW4 m < 16 := by obtain ⟨a⟩ := m; have := a.isLt; simp only [cW4]; omega
theorem cMxP_lt (m : MxPMod) : cMxP m < 32 := by obtain ⟨a, b⟩ := m; cases a <;> cases b <;> decide
theorem cMxU_lt (m : MxUMod) : cMxU m < 32 := by obtain ⟨a⟩ := m; cases a <;> decide
theorem cCvtI_lt (m : CvtIMod) : cCvtI m < 32 := by obtain ⟨a, b⟩ := m; cases a <;> cases b <;> decide
theorem cCvtII_lt (m : CvtIIMod) : cCvtII m < 32 := by
  obtain ⟨a, b, c, d⟩ := m; cases a <;> cases b <;> cases c <;> cases d <;> decide
theorem cSeg_lt (m : SegMod) : cSeg m < 32 := by obtain ⟨m⟩ := m; have := m.isLt; simp only [cSeg]; omega
theorem cScan_lt (m : ScanMod) : cScan m < 32 := by obtain ⟨a, b, c⟩ := m; cases a <;> cases b <;> cases c <;> decide
theorem mtypeCode_lt (t : MType) : mtypeCode t < 16 := by cases t <;> decide
theorem ordBits_lt (o : Option Scope) : ordBits o < 16 := by
  rcases o with _ | c
  · decide
  · cases c <;> decide
theorem cMemG_lt (m : MemMod) : cMemG m < 1024 := by
  obtain ⟨t, s, a, o⟩ := m
  have := mtypeCode_lt t; have := b2n_lt s; have := b2n_lt a; have := ordBits_lt o
  simp only [cMemG]; omega
theorem cAtomG_lt (m : AtomMod) : cAtomG m < 1024 := by
  obtain ⟨t, s, a, o⟩ := m
  have := b2n_lt t; have := b2n_lt s; have := b2n_lt a; have := ordBits_lt o
  simp only [cAtomG]; omega
theorem cPack_lt (m : PackMod) : cPack m < 1024 := by obtain ⟨t⟩ := m; cases t <;> decide
theorem cPref_lt (m : PrefMod) : cPref m < 1024 := by obtain ⟨a, b⟩ := m; cases a <;> cases b <;> decide
theorem cA64_lt (m : A64Mod) : cA64 m < 1024 := by obtain ⟨a⟩ := m; cases a <;> decide
theorem cQEnq_lt (m : QueueMod) : cQEnq m < 1024 := by
  obtain ⟨q, n, a⟩ := m; have := q.isLt; have := b2n_lt n; have := b2n_lt a; simp only [cQEnq]; omega
theorem cFence_lt (m : FenceMod) : cFence m < 32 := by obtain ⟨a, b⟩ := m; cases a <;> cases b <;> decide
theorem cPoolM_lt (m : PoolMMod) : cPoolM m < 32 := by
  obtain ⟨a, b, c⟩ := m; cases a <;> cases b <;> cases c <;> decide
theorem stageFmt_c (f : StageFmt) : stageFmtOf (stageFmtCode f) = some f ∧ stageFmtCode f < 8 := by
  cases f <;> exact ⟨rfl, by decide⟩
theorem stageSpace_c (f : StageSpace) : stageSpaceOf (stageSpaceCode f) = some f ∧ stageSpaceCode f < 4 := by
  cases f <;> exact ⟨rfl, by decide⟩
theorem storeFmt_c (f : StoreFmt) : storeFmtOf (storeFmtCode f) = some f ∧ storeFmtCode f < 8 := by
  cases f <;> exact ⟨rfl, by decide⟩
theorem svc_c (f : SvcKind) : svcOf (svcCode f) = some f ∧ svcCode f < 4 := by cases f <;> exact ⟨rfl, by decide⟩
theorem scope_c (f : Scope) : scopeOf (scopeCode f) = some f ∧ scopeCode f < 8 := by cases f <;> exact ⟨rfl, by decide⟩

theorem narrowBits_lt (n : Narrow) : narrowBits n < 1024 := by
  obtain ⟨f, a, b⟩ := n
  rcases f with _ | _ | _ | _ <;> rcases a with _ | a <;> rcases b with _ | b <;> simp only [narrowBits] <;> omega

theorem narrowFields_bits {w : Nat} (n : Narrow) (h1 : bits w 25 22 = narrowBits n % 16)
    (h2 : bits w 29 26 = narrowBits n / 16 % 16) (h3 : bits w 31 30 = narrowBits n / 256) : narrowFields w = some n := by
  obtain ⟨f, a, b⟩ := n
  simp only [narrowFields, h1, h2, h3]
  clear h1 h2 h3
  rcases a with _ | a <;> rcases b with _ | b
  · rcases f with _ | f
    · rfl
    · cases f <;> rfl
  · revert b; rcases f with _ | f
    · decide
    · cases f <;> decide
  · revert a; rcases f with _ | f
    · decide
    · cases f <;> decide
  · revert a b; rcases f with _ | f
    · decide
    · cases f <;> decide

end Sys2Proof
end

