-- ==== Sys2Proof/Laws/Tab.lean ====
section
/-! SUPPORT. What reads of a table give after a write, and that the table operations keep the canonical form. -/

namespace Sys2Proof.Tab

variable {α : Type}

@[simp] theorem find?_nil (k : Nat) : find? ([] : Tab α) k = none := rfl

theorem find?_cons (e : Nat × α) (t : Tab α) (k : Nat) : find? (e :: t) k = if e.1 = k then some e.2 else find? t k := rfl

theorem find?_del_self (m : Tab α) (k : Nat) : find? (del m k) k = none := by
  induction m with
  | nil => rfl
  | cons e t ih =>
    simp only [del]
    split
    · exact ih
    · simp [find?, *]

theorem find?_del_ne (m : Tab α) {k j : Nat} (h : j ≠ k) : find? (del m k) j = find? m j := by
  induction m with
  | nil => rfl
  | cons e t ih =>
    simp only [del, find?]
    split
    · rw [ih, if_neg]; omega
    · simp only [find?, ih]

theorem find?_ins_self (m : Tab α) (k : Nat) (v : α) (h : find? m k = none) : find? (ins m k v) k = some v := by
  induction m with
  | nil => simp [ins, find?]
  | cons e t ih =>
    simp only [find?] at h
    split at h
    · cases h
    · simp only [ins]
      split
      · simp [find?]
      · simp [find?, ih h, *]

theorem find?_ins_ne (m : Tab α) {k j : Nat} (v : α) (h : j ≠ k) : find? (ins m k v) j = find? m j := by
  induction m with
  | nil => simp [ins, find?, Ne.symm h]
  | cons e t ih =>
    simp only [ins]
    split
    · simp [find?, Ne.symm h]
    · simp [find?, ih]

@[simp] theorem find?_put_self (m : Tab α) (k : Nat) (v : α) : find? (put m k v) k = some v :=
  find?_ins_self _ _ _ (find?_del_self m k)

theorem find?_put_ne (m : Tab α) {k j : Nat} (v : α) (h : j ≠ k) : find? (put m k v) j = find? m j := by
  rw [put, find?_ins_ne _ _ h, find?_del_ne _ h]

theorem find?_put (m : Tab α) (k j : Nat) (v : α) : find? (put m k v) j = if j = k then some v else find? m j := by
  by_cases h : j = k
  · subst h; simp
  · rw [find?_put_ne _ _ h, if_neg h]

@[simp] theorem get_put_self (d : α) (m : Tab α) (k : Nat) (v : α) : get d (put m k v) k = v := by simp [get]

theorem get_put_ne (d : α) (m : Tab α) {k j : Nat} (v : α) (h : j ≠ k) : get d (put m k v) j = get d m j := by
  simp [get, find?_put_ne _ _ h]

theorem get_put (d : α) (m : Tab α) (k j : Nat) (v : α) : get d (put m k v) j = if j = k then v else get d m j := by
  by_cases h : j = k
  · subst h; simp
  · rw [get_put_ne _ _ _ h, if_neg h]

variable [DecidableEq α]

@[simp] theorem get_set_self (d : α) (m : Tab α) (k : Nat) (v : α) : get d (set d m k v) k = v := by
  unfold set
  split
  · simp [get, find?_del_self, *]
  · simp

theorem get_set_ne (d : α) (m : Tab α) {k j : Nat} (v : α) (h : j ≠ k) : get d (set d m k v) j = get d m j := by
  unfold set
  split
  · simp [get, find?_del_ne _ h]
  · exact get_put_ne d m v h

theorem get_set (d : α) (m : Tab α) (k j : Nat) (v : α) : get d (set d m k v) j = if j = k then v else get d m j := by
  by_cases h : j = k
  · subst h; simp
  · rw [get_set_ne _ _ _ h, if_neg h]

omit [DecidableEq α] in
theorem find?_modify (m : Tab α) (k j : Nat) (f : α → α) :
    find? (modify m k f) j = if j = k then (find? m k).map f else find? m j := by
  unfold modify
  split
  · by_cases h : j = k
    · subst h; simp [*]
    · simp [h]
  · rw [find?_put]
    simp [*]

omit [DecidableEq α] in
theorem find?_modify_ne (m : Tab α) {k j : Nat} (f : α → α) (h : j ≠ k) : find? (modify m k f) j = find? m j := by
  rw [find?_modify, if_neg h]

omit [DecidableEq α] in
@[simp] theorem find?_modify_self (m : Tab α) (k : Nat) (f : α → α) : find? (modify m k f) k = (find? m k).map f := by
  rw [find?_modify, if_pos rfl]

/-! The canonical form -/

omit [DecidableEq α] in
theorem risingFrom_mono {m : Tab α} : ∀ {a b : Nat}, risingFrom a m = true → b ≤ a → risingFrom b m = true := by
  cases m with
  | nil => intros; rfl
  | cons e t =>
    intro a b h hb
    simp only [risingFrom, Bool.and_eq_true, decide_eq_true_eq] at h ⊢
    exact ⟨by omega, h.2⟩

omit [DecidableEq α] in
theorem risingFrom_del (m : Tab α) (k : Nat) : ∀ a, risingFrom a m = true → risingFrom a (del m k) = true := by
  induction m with
  | nil => intro a h; exact h
  | cons e t ih =>
    intro a h
    simp only [risingFrom, Bool.and_eq_true, decide_eq_true_eq] at h
    simp only [del]
    split
    · exact ih a (risingFrom_mono h.2 (by omega))
    · simp only [risingFrom, Bool.and_eq_true, decide_eq_true_eq]
      exact ⟨h.1, ih _ h.2⟩

omit [DecidableEq α] in
theorem risingFrom_ins (m : Tab α) (k : Nat) (v : α) :
    ∀ a, risingFrom a m = true → a ≤ k → find? m k = none → risingFrom a (ins m k v) = true := by
  induction m with
  | nil => intro a _ hk _; simp [ins, risingFrom, hk]
  | cons e t ih =>
    intro a h hk hn
    simp only [risingFrom, Bool.and_eq_true, decide_eq_true_eq] at h
    simp only [find?] at hn
    split at hn
    · cases hn
    · simp only [ins]
      split
      · simp only [risingFrom, Bool.and_eq_true, decide_eq_true_eq]
        exact ⟨hk, by omega, h.2⟩
      · simp only [risingFrom, Bool.and_eq_true, decide_eq_true_eq]
        exact ⟨h.1, ih _ h.2 (by omega) hn⟩

omit [DecidableEq α] in
theorem rising_put {m : Tab α} (h : rising m = true) (k : Nat) (v : α) : rising (put m k v) = true :=
  risingFrom_ins _ k v 0 (risingFrom_del m k 0 h) (Nat.zero_le k) (find?_del_self m k)

theorem noDefault_del {d : α} {m : Tab α} (h : noDefault d m = true) (k : Nat) : noDefault d (del m k) = true := by
  induction m with
  | nil => rfl
  | cons e t ih =>
    simp only [noDefault, List.all_cons, Bool.and_eq_true] at h
    simp only [del]
    split
    · exact ih h.2
    · simp only [noDefault, List.all_cons, Bool.and_eq_true]
      exact ⟨h.1, ih h.2⟩

theorem noDefault_ins {d : α} {m : Tab α} (h : noDefault d m = true) (k : Nat) {v : α} (hv : v ≠ d) :
    noDefault d (ins m k v) = true := by
  induction m with
  | nil => simp [ins, noDefault, hv]
  | cons e t ih =>
    simp only [noDefault, List.all_cons, Bool.and_eq_true] at h
    simp only [ins]
    split
    · simp only [noDefault, List.all_cons, Bool.and_eq_true, decide_eq_true_eq]
      exact ⟨hv, by simpa using h.1, h.2⟩
    · simp only [noDefault, List.all_cons, Bool.and_eq_true]
      exact ⟨h.1, ih h.2⟩

theorem wf_iff {d : α} {m : Tab α} : wf d m = true ↔ rising m = true ∧ noDefault d m = true := by simp [wf]

theorem wf_nil (d : α) : wf d ([] : Tab α) = true := rfl

theorem wf_del {d : α} {m : Tab α} (h : wf d m = true) (k : Nat) : wf d (del m k) = true :=
  wf_iff.2 ⟨risingFrom_del m k 0 (wf_iff.1 h).1, noDefault_del (wf_iff.1 h).2 k⟩

/-- A write keeps the canonical form. -/
theorem wf_set {d : α} {m : Tab α} (h : wf d m = true) (k : Nat) (v : α) : wf d (set d m k v) = true := by
  unfold set
  split
  · exact wf_del h k
  · exact wf_iff.2 ⟨rising_put (wf_iff.1 h).1 k v, noDefault_ins (noDefault_del (wf_iff.1 h).2 k) k ‹_›⟩

/-- A run of writes keeps the canonical form. -/
theorem wf_foldl_set {β : Type} {d : α} (l : List β) (k : β → Nat) (v : β → α) :
    ∀ {m : Tab α}, wf d m = true → wf d (l.foldl (fun m w => set d m (k w) (v w)) m) = true := by
  induction l with
  | nil => intro m h; exact h
  | cons b t ih => intro m h; exact ih (wf_set h _ _)

omit [DecidableEq α] in
theorem risingFrom_filter (m : Tab α) (p : Nat × α → Bool) : ∀ a, risingFrom a m = true → risingFrom a (m.filter p) = true := by
  induction m with
  | nil => intro a h; exact h
  | cons e t ih =>
    intro a h
    simp only [risingFrom, Bool.and_eq_true, decide_eq_true_eq] at h
    simp only [List.filter_cons]
    split
    · simp only [risingFrom, Bool.and_eq_true, decide_eq_true_eq]
      exact ⟨h.1, ih _ h.2⟩
    · exact ih a (risingFrom_mono h.2 (by omega))

/-- Leaving entries out keeps the canonical form. -/
theorem wf_filter {d : α} {m : Tab α} (h : wf d m = true) (p : Nat × α → Bool) : wf d (m.filter p) = true := by
  refine wf_iff.2 ⟨risingFrom_filter m p 0 (wf_iff.1 h).1, ?_⟩
  have := (wf_iff.1 h).2
  simp only [noDefault, List.all_eq_true] at this ⊢
  intro e he
  exact this e (List.mem_filter.1 he).1

/-! Two writes at one key, and tables that read alike -/

omit [DecidableEq α] in
theorem del_del (m : Tab α) (k : Nat) : del (del m k) k = del m k := by
  induction m with
  | nil => rfl
  | cons e t ih =>
    simp only [del]
    split
    · exact ih
    · simp [del, ih, *]

omit [DecidableEq α] in
theorem del_ins (m : Tab α) (k : Nat) (v : α) : del (ins m k v) k = del m k := by
  induction m with
  | nil => simp [ins, del]
  | cons e t ih =>
    simp only [ins]
    split
    · simp [del]
    · simp only [del, ih]

omit [DecidableEq α] in
/-- The later of two writes at one key stands. -/
@[simp] theorem put_put (m : Tab α) (k : Nat) (v w : α) : put (put m k v) k w = put m k w := by
  simp [put, del_ins, del_del]

omit [DecidableEq α] in
theorem modify_put (m : Tab α) (k : Nat) (v : α) (f : α → α) : modify (put m k v) k f = put m k (f v) := by
  simp [modify]

omit [DecidableEq α] in
theorem modify_of_find {m : Tab α} {k : Nat} {v : α} (h : find? m k = some v) (f : α → α) : modify m k f = put m k (f v) := by
  simp [modify, h]

omit [DecidableEq α] in
theorem modify_modify (m : Tab α) (k : Nat) (f g : α → α) : modify (modify m k f) k g = modify m k (fun x => g (f x)) := by
  cases h : find? m k with
  | none => simp [modify, h]
  | some v => rw [modify_of_find h, modify_put, modify_of_find h]

omit [DecidableEq α] in
theorem find?_of_risingFrom {m : Tab α} : ∀ {a k : Nat}, risingFrom a m = true → k < a → find? m k = none := by
  induction m with
  | nil => intros; rfl
  | cons e t ih =>
    intro a k h hk
    simp only [risingFrom, Bool.and_eq_true, decide_eq_true_eq] at h
    simp only [find?]
    rw [if_neg (by omega)]
    exact ih h.2 (by omega)

omit [DecidableEq α] in
theorem get_head {d : α} {k : Nat} {v : α} {t : Tab α} : get d ((k, v) :: t) k = v := by simp [get, find?]

/-- Canonical tables that read alike are equal. -/
theorem ext_of_wf {d : α} {m n : Tab α} (hm : wf d m = true) (hn : wf d n = true) (h : ∀ k, get d m k = get d n k) : m = n := by
  suffices H : ∀ (m n : Tab α) (a b : Nat), risingFrom a m = true → risingFrom b n = true → noDefault d m = true →
      noDefault d n = true → (∀ k, get d m k = get d n k) → m = n from
    H m n 0 0 (wf_iff.1 hm).1 (wf_iff.1 hn).1 (wf_iff.1 hm).2 (wf_iff.1 hn).2 h
  clear hm hn h m n
  intro m
  induction m with
  | nil =>
    intro n a b _ _ _ hn h
    cases n with
    | nil => rfl
    | cons e t =>
      have := h e.1
      simp only [noDefault, List.all_cons, Bool.and_eq_true, decide_eq_true_eq] at hn
      simp [get, find?] at this
      exact absurd this.symm hn.1
  | cons e t ih =>
    intro n a b ra rb dm dn h
    cases n with
    | nil =>
      have := h e.1
      simp only [noDefault, List.all_cons, Bool.and_eq_true, decide_eq_true_eq] at dm
      simp [get, find?] at this
      exact absurd this dm.1
    | cons g u =>
      obtain ⟨k, v⟩ := e
      obtain ⟨j, w⟩ := g
      simp only [risingFrom, Bool.and_eq_true, decide_eq_true_eq] at ra rb
      simp only [noDefault, List.all_cons, Bool.and_eq_true, decide_eq_true_eq] at dm dn
      have hk := h k
      have hj := h j
      have hkj : k = j := by
        rcases Nat.lt_trichotomy k j with lt | eq | gt
        · exfalso
          rw [get_head] at hk
          simp only [get, find?] at hk
          rw [if_neg (by omega), find?_of_risingFrom rb.2 (by omega)] at hk
          exact dm.1 hk
        · exact eq
        · exfalso
          rw [get_head] at hj
          simp only [get, find?] at hj
          rw [if_neg (by omega), find?_of_risingFrom ra.2 (by omega)] at hj
          exact dn.1 hj.symm
      subst hkj
      rw [get_head, get_head] at hk
      subst hk
      congr 1
      refine ih u (k + 1) (k + 1) ra.2 rb.2 dm.2 dn.2 (fun i => ?_)
      by_cases hi : i = k
      · subst hi
        simp [get, find?_of_risingFrom ra.2 (Nat.lt_succ_self _), find?_of_risingFrom rb.2 (Nat.lt_succ_self _)]
      · have := h i
        simpa [get, find?, Ne.symm hi] using this

end Sys2Proof.Tab
end

