-- ==== Sys2Proof/Laws/State.lean ====
section
/-! SUPPORT. What each update of State leaves in each field and part, so that no proof unfolds an update of the record. -/

namespace Sys2Proof.Machine.State

variable (s : State)

/-! putUnit -/

@[simp] theorem putUnit_now (u : Nat) (x : UnitSt) : (s.putUnit u x).now = s.now := rfl
@[simp] theorem putUnit_agenda (u : Nat) (x : UnitSt) : (s.putUnit u x).agenda = s.agenda := rfl
@[simp] theorem putUnit_calendar (u : Nat) (x : UnitSt) : (s.putUnit u x).calendar = s.calendar := rfl
@[simp] theorem putUnit_actor (u : Nat) (x : UnitSt) : (s.putUnit u x).actor = s.actor := rfl
@[simp] theorem putUnit_draws (u : Nat) (x : UnitSt) : (s.putUnit u x).draws = s.draws := rfl
@[simp] theorem putUnit_mem (u : Nat) (x : UnitSt) : (s.putUnit u x).mem = s.mem := rfl
@[simp] theorem putUnit_l2 (u : Nat) (x : UnitSt) : (s.putUnit u x).l2 = s.l2 := rfl
@[simp] theorem putUnit_poison (u : Nat) (x : UnitSt) : (s.putUnit u x).poison = s.poison := rfl
@[simp] theorem putUnit_struck (u : Nat) (x : UnitSt) : (s.putUnit u x).struck = s.struck := rfl
@[simp] theorem putUnit_latent (u : Nat) (x : UnitSt) : (s.putUnit u x).latent = s.latent := rfl
theorem putUnit_units (u : Nat) (x : UnitSt) : (s.putUnit u x).units = Tab.put s.units u x := rfl
@[simp] theorem putUnit_teams (u : Nat) (x : UnitSt) : (s.putUnit u x).teams = s.teams := rfl
@[simp] theorem putUnit_nextTeam (u : Nat) (x : UnitSt) : (s.putUnit u x).nextTeam = s.nextTeam := rfl
@[simp] theorem putUnit_clusters (u : Nat) (x : UnitSt) : (s.putUnit u x).clusters = s.clusters := rfl
@[simp] theorem putUnit_nextCluster (u : Nat) (x : UnitSt) : (s.putUnit u x).nextCluster = s.nextCluster := rfl
@[simp] theorem putUnit_tasks (u : Nat) (x : UnitSt) : (s.putUnit u x).tasks = s.tasks := rfl
@[simp] theorem putUnit_nextTask (u : Nat) (x : UnitSt) : (s.putUnit u x).nextTask = s.nextTask := rfl
@[simp] theorem putUnit_cores (u : Nat) (x : UnitSt) : (s.putUnit u x).cores = s.cores := rfl
@[simp] theorem putUnit_scores (u : Nat) (x : UnitSt) : (s.putUnit u x).scores = s.scores := rfl
@[simp] theorem putUnit_cells (u : Nat) (x : UnitSt) : (s.putUnit u x).cells = s.cells := rfl
@[simp] theorem putUnit_dies (u : Nat) (x : UnitSt) : (s.putUnit u x).dies = s.dies := rfl
@[simp] theorem putUnit_ctxs (u : Nat) (x : UnitSt) : (s.putUnit u x).ctxs = s.ctxs := rfl
@[simp] theorem putUnit_saved (u : Nat) (x : UnitSt) : (s.putUnit u x).saved = s.saved := rfl
@[simp] theorem putUnit_nextSaved (u : Nat) (x : UnitSt) : (s.putUnit u x).nextSaved = s.nextSaved := rfl
@[simp] theorem putUnit_unbacked (u : Nat) (x : UnitSt) : (s.putUnit u x).unbacked = s.unbacked := rfl
@[simp] theorem putUnit_links (u : Nat) (x : UnitSt) : (s.putUnit u x).links = s.links := rfl
@[simp] theorem putUnit_mgmt (u : Nat) (x : UnitSt) : (s.putUnit u x).mgmt = s.mgmt := rfl
@[simp] theorem putUnit_deep (u : Nat) (x : UnitSt) : (s.putUnit u x).deep = s.deep := rfl
@[simp] theorem team_putUnit (u : Nat) (x : UnitSt) (j : Nat) : (s.putUnit u x).team? j = s.team? j := rfl
@[simp] theorem cluster_putUnit (u : Nat) (x : UnitSt) (j : Nat) : (s.putUnit u x).cluster? j = s.cluster? j := rfl
@[simp] theorem task_putUnit (u : Nat) (x : UnitSt) (j : Nat) : (s.putUnit u x).task? j = s.task? j := rfl
@[simp] theorem core_putUnit (u : Nat) (x : UnitSt) (j : Nat) : (s.putUnit u x).core j = s.core j := rfl
@[simp] theorem score_putUnit (u : Nat) (x : UnitSt) (j : Nat) : (s.putUnit u x).score j = s.score j := rfl
@[simp] theorem cell_putUnit (u : Nat) (x : UnitSt) (j : Nat) : (s.putUnit u x).cell j = s.cell j := rfl
@[simp] theorem die_putUnit (u : Nat) (x : UnitSt) (j : Nat) : (s.putUnit u x).die j = s.die j := rfl
@[simp] theorem ctx_putUnit (u : Nat) (x : UnitSt) (j : Nat) : (s.putUnit u x).ctx? j = s.ctx? j := rfl
@[simp] theorem link_putUnit (u : Nat) (x : UnitSt) (j : Nat) : (s.putUnit u x).link j = s.link j := rfl

/-! modUnit -/

@[simp] theorem modUnit_now (u : Nat) (f : UnitSt → UnitSt) : (s.modUnit u f).now = s.now := rfl
@[simp] theorem modUnit_agenda (u : Nat) (f : UnitSt → UnitSt) : (s.modUnit u f).agenda = s.agenda := rfl
@[simp] theorem modUnit_calendar (u : Nat) (f : UnitSt → UnitSt) : (s.modUnit u f).calendar = s.calendar := rfl
@[simp] theorem modUnit_actor (u : Nat) (f : UnitSt → UnitSt) : (s.modUnit u f).actor = s.actor := rfl
@[simp] theorem modUnit_draws (u : Nat) (f : UnitSt → UnitSt) : (s.modUnit u f).draws = s.draws := rfl
@[simp] theorem modUnit_mem (u : Nat) (f : UnitSt → UnitSt) : (s.modUnit u f).mem = s.mem := rfl
@[simp] theorem modUnit_l2 (u : Nat) (f : UnitSt → UnitSt) : (s.modUnit u f).l2 = s.l2 := rfl
@[simp] theorem modUnit_poison (u : Nat) (f : UnitSt → UnitSt) : (s.modUnit u f).poison = s.poison := rfl
@[simp] theorem modUnit_struck (u : Nat) (f : UnitSt → UnitSt) : (s.modUnit u f).struck = s.struck := rfl
@[simp] theorem modUnit_latent (u : Nat) (f : UnitSt → UnitSt) : (s.modUnit u f).latent = s.latent := rfl
theorem modUnit_units (u : Nat) (f : UnitSt → UnitSt) : (s.modUnit u f).units = Tab.modify s.units u f := rfl
@[simp] theorem modUnit_teams (u : Nat) (f : UnitSt → UnitSt) : (s.modUnit u f).teams = s.teams := rfl
@[simp] theorem modUnit_nextTeam (u : Nat) (f : UnitSt → UnitSt) : (s.modUnit u f).nextTeam = s.nextTeam := rfl
@[simp] theorem modUnit_clusters (u : Nat) (f : UnitSt → UnitSt) : (s.modUnit u f).clusters = s.clusters := rfl
@[simp] theorem modUnit_nextCluster (u : Nat) (f : UnitSt → UnitSt) : (s.modUnit u f).nextCluster = s.nextCluster := rfl
@[simp] theorem modUnit_tasks (u : Nat) (f : UnitSt → UnitSt) : (s.modUnit u f).tasks = s.tasks := rfl
@[simp] theorem modUnit_nextTask (u : Nat) (f : UnitSt → UnitSt) : (s.modUnit u f).nextTask = s.nextTask := rfl
@[simp] theorem modUnit_cores (u : Nat) (f : UnitSt → UnitSt) : (s.modUnit u f).cores = s.cores := rfl
@[simp] theorem modUnit_scores (u : Nat) (f : UnitSt → UnitSt) : (s.modUnit u f).scores = s.scores := rfl
@[simp] theorem modUnit_cells (u : Nat) (f : UnitSt → UnitSt) : (s.modUnit u f).cells = s.cells := rfl
@[simp] theorem modUnit_dies (u : Nat) (f : UnitSt → UnitSt) : (s.modUnit u f).dies = s.dies := rfl
@[simp] theorem modUnit_ctxs (u : Nat) (f : UnitSt → UnitSt) : (s.modUnit u f).ctxs = s.ctxs := rfl
@[simp] theorem modUnit_saved (u : Nat) (f : UnitSt → UnitSt) : (s.modUnit u f).saved = s.saved := rfl
@[simp] theorem modUnit_nextSaved (u : Nat) (f : UnitSt → UnitSt) : (s.modUnit u f).nextSaved = s.nextSaved := rfl
@[simp] theorem modUnit_unbacked (u : Nat) (f : UnitSt → UnitSt) : (s.modUnit u f).unbacked = s.unbacked := rfl
@[simp] theorem modUnit_links (u : Nat) (f : UnitSt → UnitSt) : (s.modUnit u f).links = s.links := rfl
@[simp] theorem modUnit_mgmt (u : Nat) (f : UnitSt → UnitSt) : (s.modUnit u f).mgmt = s.mgmt := rfl
@[simp] theorem modUnit_deep (u : Nat) (f : UnitSt → UnitSt) : (s.modUnit u f).deep = s.deep := rfl
@[simp] theorem team_modUnit (u : Nat) (f : UnitSt → UnitSt) (j : Nat) : (s.modUnit u f).team? j = s.team? j := rfl
@[simp] theorem cluster_modUnit (u : Nat) (f : UnitSt → UnitSt) (j : Nat) : (s.modUnit u f).cluster? j = s.cluster? j := rfl
@[simp] theorem task_modUnit (u : Nat) (f : UnitSt → UnitSt) (j : Nat) : (s.modUnit u f).task? j = s.task? j := rfl
@[simp] theorem core_modUnit (u : Nat) (f : UnitSt → UnitSt) (j : Nat) : (s.modUnit u f).core j = s.core j := rfl
@[simp] theorem score_modUnit (u : Nat) (f : UnitSt → UnitSt) (j : Nat) : (s.modUnit u f).score j = s.score j := rfl
@[simp] theorem cell_modUnit (u : Nat) (f : UnitSt → UnitSt) (j : Nat) : (s.modUnit u f).cell j = s.cell j := rfl
@[simp] theorem die_modUnit (u : Nat) (f : UnitSt → UnitSt) (j : Nat) : (s.modUnit u f).die j = s.die j := rfl
@[simp] theorem ctx_modUnit (u : Nat) (f : UnitSt → UnitSt) (j : Nat) : (s.modUnit u f).ctx? j = s.ctx? j := rfl
@[simp] theorem link_modUnit (u : Nat) (f : UnitSt → UnitSt) (j : Nat) : (s.modUnit u f).link j = s.link j := rfl

/-! mapUnits -/

@[simp] theorem mapUnits_now (f : Nat → UnitSt → UnitSt) : (s.mapUnits f).now = s.now := rfl
@[simp] theorem mapUnits_agenda (f : Nat → UnitSt → UnitSt) : (s.mapUnits f).agenda = s.agenda := rfl
@[simp] theorem mapUnits_calendar (f : Nat → UnitSt → UnitSt) : (s.mapUnits f).calendar = s.calendar := rfl
@[simp] theorem mapUnits_actor (f : Nat → UnitSt → UnitSt) : (s.mapUnits f).actor = s.actor := rfl
@[simp] theorem mapUnits_draws (f : Nat → UnitSt → UnitSt) : (s.mapUnits f).draws = s.draws := rfl
@[simp] theorem mapUnits_mem (f : Nat → UnitSt → UnitSt) : (s.mapUnits f).mem = s.mem := rfl
@[simp] theorem mapUnits_l2 (f : Nat → UnitSt → UnitSt) : (s.mapUnits f).l2 = s.l2 := rfl
@[simp] theorem mapUnits_poison (f : Nat → UnitSt → UnitSt) : (s.mapUnits f).poison = s.poison := rfl
@[simp] theorem mapUnits_struck (f : Nat → UnitSt → UnitSt) : (s.mapUnits f).struck = s.struck := rfl
@[simp] theorem mapUnits_latent (f : Nat → UnitSt → UnitSt) : (s.mapUnits f).latent = s.latent := rfl
theorem mapUnits_units (f : Nat → UnitSt → UnitSt) : (s.mapUnits f).units = s.units.map (fun (e : Nat × UnitSt) => (e.1, f e.1 e.2)) := rfl
@[simp] theorem mapUnits_teams (f : Nat → UnitSt → UnitSt) : (s.mapUnits f).teams = s.teams := rfl
@[simp] theorem mapUnits_nextTeam (f : Nat → UnitSt → UnitSt) : (s.mapUnits f).nextTeam = s.nextTeam := rfl
@[simp] theorem mapUnits_clusters (f : Nat → UnitSt → UnitSt) : (s.mapUnits f).clusters = s.clusters := rfl
@[simp] theorem mapUnits_nextCluster (f : Nat → UnitSt → UnitSt) : (s.mapUnits f).nextCluster = s.nextCluster := rfl
@[simp] theorem mapUnits_tasks (f : Nat → UnitSt → UnitSt) : (s.mapUnits f).tasks = s.tasks := rfl
@[simp] theorem mapUnits_nextTask (f : Nat → UnitSt → UnitSt) : (s.mapUnits f).nextTask = s.nextTask := rfl
@[simp] theorem mapUnits_cores (f : Nat → UnitSt → UnitSt) : (s.mapUnits f).cores = s.cores := rfl
@[simp] theorem mapUnits_scores (f : Nat → UnitSt → UnitSt) : (s.mapUnits f).scores = s.scores := rfl
@[simp] theorem mapUnits_cells (f : Nat → UnitSt → UnitSt) : (s.mapUnits f).cells = s.cells := rfl
@[simp] theorem mapUnits_dies (f : Nat → UnitSt → UnitSt) : (s.mapUnits f).dies = s.dies := rfl
@[simp] theorem mapUnits_ctxs (f : Nat → UnitSt → UnitSt) : (s.mapUnits f).ctxs = s.ctxs := rfl
@[simp] theorem mapUnits_saved (f : Nat → UnitSt → UnitSt) : (s.mapUnits f).saved = s.saved := rfl
@[simp] theorem mapUnits_nextSaved (f : Nat → UnitSt → UnitSt) : (s.mapUnits f).nextSaved = s.nextSaved := rfl
@[simp] theorem mapUnits_unbacked (f : Nat → UnitSt → UnitSt) : (s.mapUnits f).unbacked = s.unbacked := rfl
@[simp] theorem mapUnits_links (f : Nat → UnitSt → UnitSt) : (s.mapUnits f).links = s.links := rfl
@[simp] theorem mapUnits_mgmt (f : Nat → UnitSt → UnitSt) : (s.mapUnits f).mgmt = s.mgmt := rfl
@[simp] theorem mapUnits_deep (f : Nat → UnitSt → UnitSt) : (s.mapUnits f).deep = s.deep := rfl
@[simp] theorem team_mapUnits (f : Nat → UnitSt → UnitSt) (j : Nat) : (s.mapUnits f).team? j = s.team? j := rfl
@[simp] theorem cluster_mapUnits (f : Nat → UnitSt → UnitSt) (j : Nat) : (s.mapUnits f).cluster? j = s.cluster? j := rfl
@[simp] theorem task_mapUnits (f : Nat → UnitSt → UnitSt) (j : Nat) : (s.mapUnits f).task? j = s.task? j := rfl
@[simp] theorem core_mapUnits (f : Nat → UnitSt → UnitSt) (j : Nat) : (s.mapUnits f).core j = s.core j := rfl
@[simp] theorem score_mapUnits (f : Nat → UnitSt → UnitSt) (j : Nat) : (s.mapUnits f).score j = s.score j := rfl
@[simp] theorem cell_mapUnits (f : Nat → UnitSt → UnitSt) (j : Nat) : (s.mapUnits f).cell j = s.cell j := rfl
@[simp] theorem die_mapUnits (f : Nat → UnitSt → UnitSt) (j : Nat) : (s.mapUnits f).die j = s.die j := rfl
@[simp] theorem ctx_mapUnits (f : Nat → UnitSt → UnitSt) (j : Nat) : (s.mapUnits f).ctx? j = s.ctx? j := rfl
@[simp] theorem link_mapUnits (f : Nat → UnitSt → UnitSt) (j : Nat) : (s.mapUnits f).link j = s.link j := rfl

/-! putTeam -/

@[simp] theorem putTeam_now (k : Nat) (x : Team) : (s.putTeam k x).now = s.now := rfl
@[simp] theorem putTeam_agenda (k : Nat) (x : Team) : (s.putTeam k x).agenda = s.agenda := rfl
@[simp] theorem putTeam_calendar (k : Nat) (x : Team) : (s.putTeam k x).calendar = s.calendar := rfl
@[simp] theorem putTeam_actor (k : Nat) (x : Team) : (s.putTeam k x).actor = s.actor := rfl
@[simp] theorem putTeam_draws (k : Nat) (x : Team) : (s.putTeam k x).draws = s.draws := rfl
@[simp] theorem putTeam_mem (k : Nat) (x : Team) : (s.putTeam k x).mem = s.mem := rfl
@[simp] theorem putTeam_l2 (k : Nat) (x : Team) : (s.putTeam k x).l2 = s.l2 := rfl
@[simp] theorem putTeam_poison (k : Nat) (x : Team) : (s.putTeam k x).poison = s.poison := rfl
@[simp] theorem putTeam_struck (k : Nat) (x : Team) : (s.putTeam k x).struck = s.struck := rfl
@[simp] theorem putTeam_latent (k : Nat) (x : Team) : (s.putTeam k x).latent = s.latent := rfl
@[simp] theorem putTeam_units (k : Nat) (x : Team) : (s.putTeam k x).units = s.units := rfl
theorem putTeam_teams (k : Nat) (x : Team) : (s.putTeam k x).teams = Tab.put s.teams k x := rfl
@[simp] theorem putTeam_nextTeam (k : Nat) (x : Team) : (s.putTeam k x).nextTeam = s.nextTeam := rfl
@[simp] theorem putTeam_clusters (k : Nat) (x : Team) : (s.putTeam k x).clusters = s.clusters := rfl
@[simp] theorem putTeam_nextCluster (k : Nat) (x : Team) : (s.putTeam k x).nextCluster = s.nextCluster := rfl
@[simp] theorem putTeam_tasks (k : Nat) (x : Team) : (s.putTeam k x).tasks = s.tasks := rfl
@[simp] theorem putTeam_nextTask (k : Nat) (x : Team) : (s.putTeam k x).nextTask = s.nextTask := rfl
@[simp] theorem putTeam_cores (k : Nat) (x : Team) : (s.putTeam k x).cores = s.cores := rfl
@[simp] theorem putTeam_scores (k : Nat) (x : Team) : (s.putTeam k x).scores = s.scores := rfl
@[simp] theorem putTeam_cells (k : Nat) (x : Team) : (s.putTeam k x).cells = s.cells := rfl
@[simp] theorem putTeam_dies (k : Nat) (x : Team) : (s.putTeam k x).dies = s.dies := rfl
@[simp] theorem putTeam_ctxs (k : Nat) (x : Team) : (s.putTeam k x).ctxs = s.ctxs := rfl
@[simp] theorem putTeam_saved (k : Nat) (x : Team) : (s.putTeam k x).saved = s.saved := rfl
@[simp] theorem putTeam_nextSaved (k : Nat) (x : Team) : (s.putTeam k x).nextSaved = s.nextSaved := rfl
@[simp] theorem putTeam_unbacked (k : Nat) (x : Team) : (s.putTeam k x).unbacked = s.unbacked := rfl
@[simp] theorem putTeam_links (k : Nat) (x : Team) : (s.putTeam k x).links = s.links := rfl
@[simp] theorem putTeam_mgmt (k : Nat) (x : Team) : (s.putTeam k x).mgmt = s.mgmt := rfl
@[simp] theorem putTeam_deep (k : Nat) (x : Team) : (s.putTeam k x).deep = s.deep := rfl
@[simp] theorem unit_putTeam (k : Nat) (x : Team) (j : Nat) : (s.putTeam k x).unit? j = s.unit? j := rfl
@[simp] theorem cluster_putTeam (k : Nat) (x : Team) (j : Nat) : (s.putTeam k x).cluster? j = s.cluster? j := rfl
@[simp] theorem task_putTeam (k : Nat) (x : Team) (j : Nat) : (s.putTeam k x).task? j = s.task? j := rfl
@[simp] theorem core_putTeam (k : Nat) (x : Team) (j : Nat) : (s.putTeam k x).core j = s.core j := rfl
@[simp] theorem score_putTeam (k : Nat) (x : Team) (j : Nat) : (s.putTeam k x).score j = s.score j := rfl
@[simp] theorem cell_putTeam (k : Nat) (x : Team) (j : Nat) : (s.putTeam k x).cell j = s.cell j := rfl
@[simp] theorem die_putTeam (k : Nat) (x : Team) (j : Nat) : (s.putTeam k x).die j = s.die j := rfl
@[simp] theorem ctx_putTeam (k : Nat) (x : Team) (j : Nat) : (s.putTeam k x).ctx? j = s.ctx? j := rfl
@[simp] theorem link_putTeam (k : Nat) (x : Team) (j : Nat) : (s.putTeam k x).link j = s.link j := rfl

/-! modTeam -/

@[simp] theorem modTeam_now (k : Nat) (f : Team → Team) : (s.modTeam k f).now = s.now := rfl
@[simp] theorem modTeam_agenda (k : Nat) (f : Team → Team) : (s.modTeam k f).agenda = s.agenda := rfl
@[simp] theorem modTeam_calendar (k : Nat) (f : Team → Team) : (s.modTeam k f).calendar = s.calendar := rfl
@[simp] theorem modTeam_actor (k : Nat) (f : Team → Team) : (s.modTeam k f).actor = s.actor := rfl
@[simp] theorem modTeam_draws (k : Nat) (f : Team → Team) : (s.modTeam k f).draws = s.draws := rfl
@[simp] theorem modTeam_mem (k : Nat) (f : Team → Team) : (s.modTeam k f).mem = s.mem := rfl
@[simp] theorem modTeam_l2 (k : Nat) (f : Team → Team) : (s.modTeam k f).l2 = s.l2 := rfl
@[simp] theorem modTeam_poison (k : Nat) (f : Team → Team) : (s.modTeam k f).poison = s.poison := rfl
@[simp] theorem modTeam_struck (k : Nat) (f : Team → Team) : (s.modTeam k f).struck = s.struck := rfl
@[simp] theorem modTeam_latent (k : Nat) (f : Team → Team) : (s.modTeam k f).latent = s.latent := rfl
@[simp] theorem modTeam_units (k : Nat) (f : Team → Team) : (s.modTeam k f).units = s.units := rfl
theorem modTeam_teams (k : Nat) (f : Team → Team) : (s.modTeam k f).teams = Tab.modify s.teams k f := rfl
@[simp] theorem modTeam_nextTeam (k : Nat) (f : Team → Team) : (s.modTeam k f).nextTeam = s.nextTeam := rfl
@[simp] theorem modTeam_clusters (k : Nat) (f : Team → Team) : (s.modTeam k f).clusters = s.clusters := rfl
@[simp] theorem modTeam_nextCluster (k : Nat) (f : Team → Team) : (s.modTeam k f).nextCluster = s.nextCluster := rfl
@[simp] theorem modTeam_tasks (k : Nat) (f : Team → Team) : (s.modTeam k f).tasks = s.tasks := rfl
@[simp] theorem modTeam_nextTask (k : Nat) (f : Team → Team) : (s.modTeam k f).nextTask = s.nextTask := rfl
@[simp] theorem modTeam_cores (k : Nat) (f : Team → Team) : (s.modTeam k f).cores = s.cores := rfl
@[simp] theorem modTeam_scores (k : Nat) (f : Team → Team) : (s.modTeam k f).scores = s.scores := rfl
@[simp] theorem modTeam_cells (k : Nat) (f : Team → Team) : (s.modTeam k f).cells = s.cells := rfl
@[simp] theorem modTeam_dies (k : Nat) (f : Team → Team) : (s.modTeam k f).dies = s.dies := rfl
@[simp] theorem modTeam_ctxs (k : Nat) (f : Team → Team) : (s.modTeam k f).ctxs = s.ctxs := rfl
@[simp] theorem modTeam_saved (k : Nat) (f : Team → Team) : (s.modTeam k f).saved = s.saved := rfl
@[simp] theorem modTeam_nextSaved (k : Nat) (f : Team → Team) : (s.modTeam k f).nextSaved = s.nextSaved := rfl
@[simp] theorem modTeam_unbacked (k : Nat) (f : Team → Team) : (s.modTeam k f).unbacked = s.unbacked := rfl
@[simp] theorem modTeam_links (k : Nat) (f : Team → Team) : (s.modTeam k f).links = s.links := rfl
@[simp] theorem modTeam_mgmt (k : Nat) (f : Team → Team) : (s.modTeam k f).mgmt = s.mgmt := rfl
@[simp] theorem modTeam_deep (k : Nat) (f : Team → Team) : (s.modTeam k f).deep = s.deep := rfl
@[simp] theorem unit_modTeam (k : Nat) (f : Team → Team) (j : Nat) : (s.modTeam k f).unit? j = s.unit? j := rfl
@[simp] theorem cluster_modTeam (k : Nat) (f : Team → Team) (j : Nat) : (s.modTeam k f).cluster? j = s.cluster? j := rfl
@[simp] theorem task_modTeam (k : Nat) (f : Team → Team) (j : Nat) : (s.modTeam k f).task? j = s.task? j := rfl
@[simp] theorem core_modTeam (k : Nat) (f : Team → Team) (j : Nat) : (s.modTeam k f).core j = s.core j := rfl
@[simp] theorem score_modTeam (k : Nat) (f : Team → Team) (j : Nat) : (s.modTeam k f).score j = s.score j := rfl
@[simp] theorem cell_modTeam (k : Nat) (f : Team → Team) (j : Nat) : (s.modTeam k f).cell j = s.cell j := rfl
@[simp] theorem die_modTeam (k : Nat) (f : Team → Team) (j : Nat) : (s.modTeam k f).die j = s.die j := rfl
@[simp] theorem ctx_modTeam (k : Nat) (f : Team → Team) (j : Nat) : (s.modTeam k f).ctx? j = s.ctx? j := rfl
@[simp] theorem link_modTeam (k : Nat) (f : Team → Team) (j : Nat) : (s.modTeam k f).link j = s.link j := rfl

/-! modCluster -/

@[simp] theorem modCluster_now (k : Nat) (f : Cluster → Cluster) : (s.modCluster k f).now = s.now := rfl
@[simp] theorem modCluster_agenda (k : Nat) (f : Cluster → Cluster) : (s.modCluster k f).agenda = s.agenda := rfl
@[simp] theorem modCluster_calendar (k : Nat) (f : Cluster → Cluster) : (s.modCluster k f).calendar = s.calendar := rfl
@[simp] theorem modCluster_actor (k : Nat) (f : Cluster → Cluster) : (s.modCluster k f).actor = s.actor := rfl
@[simp] theorem modCluster_draws (k : Nat) (f : Cluster → Cluster) : (s.modCluster k f).draws = s.draws := rfl
@[simp] theorem modCluster_mem (k : Nat) (f : Cluster → Cluster) : (s.modCluster k f).mem = s.mem := rfl
@[simp] theorem modCluster_l2 (k : Nat) (f : Cluster → Cluster) : (s.modCluster k f).l2 = s.l2 := rfl
@[simp] theorem modCluster_poison (k : Nat) (f : Cluster → Cluster) : (s.modCluster k f).poison = s.poison := rfl
@[simp] theorem modCluster_struck (k : Nat) (f : Cluster → Cluster) : (s.modCluster k f).struck = s.struck := rfl
@[simp] theorem modCluster_latent (k : Nat) (f : Cluster → Cluster) : (s.modCluster k f).latent = s.latent := rfl
@[simp] theorem modCluster_units (k : Nat) (f : Cluster → Cluster) : (s.modCluster k f).units = s.units := rfl
@[simp] theorem modCluster_teams (k : Nat) (f : Cluster → Cluster) : (s.modCluster k f).teams = s.teams := rfl
@[simp] theorem modCluster_nextTeam (k : Nat) (f : Cluster → Cluster) : (s.modCluster k f).nextTeam = s.nextTeam := rfl
theorem modCluster_clusters (k : Nat) (f : Cluster → Cluster) : (s.modCluster k f).clusters = Tab.modify s.clusters k f := rfl
@[simp] theorem modCluster_nextCluster (k : Nat) (f : Cluster → Cluster) : (s.modCluster k f).nextCluster = s.nextCluster := rfl
@[simp] theorem modCluster_tasks (k : Nat) (f : Cluster → Cluster) : (s.modCluster k f).tasks = s.tasks := rfl
@[simp] theorem modCluster_nextTask (k : Nat) (f : Cluster → Cluster) : (s.modCluster k f).nextTask = s.nextTask := rfl
@[simp] theorem modCluster_cores (k : Nat) (f : Cluster → Cluster) : (s.modCluster k f).cores = s.cores := rfl
@[simp] theorem modCluster_scores (k : Nat) (f : Cluster → Cluster) : (s.modCluster k f).scores = s.scores := rfl
@[simp] theorem modCluster_cells (k : Nat) (f : Cluster → Cluster) : (s.modCluster k f).cells = s.cells := rfl
@[simp] theorem modCluster_dies (k : Nat) (f : Cluster → Cluster) : (s.modCluster k f).dies = s.dies := rfl
@[simp] theorem modCluster_ctxs (k : Nat) (f : Cluster → Cluster) : (s.modCluster k f).ctxs = s.ctxs := rfl
@[simp] theorem modCluster_saved (k : Nat) (f : Cluster → Cluster) : (s.modCluster k f).saved = s.saved := rfl
@[simp] theorem modCluster_nextSaved (k : Nat) (f : Cluster → Cluster) : (s.modCluster k f).nextSaved = s.nextSaved := rfl
@[simp] theorem modCluster_unbacked (k : Nat) (f : Cluster → Cluster) : (s.modCluster k f).unbacked = s.unbacked := rfl
@[simp] theorem modCluster_links (k : Nat) (f : Cluster → Cluster) : (s.modCluster k f).links = s.links := rfl
@[simp] theorem modCluster_mgmt (k : Nat) (f : Cluster → Cluster) : (s.modCluster k f).mgmt = s.mgmt := rfl
@[simp] theorem modCluster_deep (k : Nat) (f : Cluster → Cluster) : (s.modCluster k f).deep = s.deep := rfl
@[simp] theorem unit_modCluster (k : Nat) (f : Cluster → Cluster) (j : Nat) : (s.modCluster k f).unit? j = s.unit? j := rfl
@[simp] theorem team_modCluster (k : Nat) (f : Cluster → Cluster) (j : Nat) : (s.modCluster k f).team? j = s.team? j := rfl
@[simp] theorem task_modCluster (k : Nat) (f : Cluster → Cluster) (j : Nat) : (s.modCluster k f).task? j = s.task? j := rfl
@[simp] theorem core_modCluster (k : Nat) (f : Cluster → Cluster) (j : Nat) : (s.modCluster k f).core j = s.core j := rfl
@[simp] theorem score_modCluster (k : Nat) (f : Cluster → Cluster) (j : Nat) : (s.modCluster k f).score j = s.score j := rfl
@[simp] theorem cell_modCluster (k : Nat) (f : Cluster → Cluster) (j : Nat) : (s.modCluster k f).cell j = s.cell j := rfl
@[simp] theorem die_modCluster (k : Nat) (f : Cluster → Cluster) (j : Nat) : (s.modCluster k f).die j = s.die j := rfl
@[simp] theorem ctx_modCluster (k : Nat) (f : Cluster → Cluster) (j : Nat) : (s.modCluster k f).ctx? j = s.ctx? j := rfl
@[simp] theorem link_modCluster (k : Nat) (f : Cluster → Cluster) (j : Nat) : (s.modCluster k f).link j = s.link j := rfl

/-! modTask -/

@[simp] theorem modTask_now (k : Nat) (f : Task → Task) : (s.modTask k f).now = s.now := rfl
@[simp] theorem modTask_agenda (k : Nat) (f : Task → Task) : (s.modTask k f).agenda = s.agenda := rfl
@[simp] theorem modTask_calendar (k : Nat) (f : Task → Task) : (s.modTask k f).calendar = s.calendar := rfl
@[simp] theorem modTask_actor (k : Nat) (f : Task → Task) : (s.modTask k f).actor = s.actor := rfl
@[simp] theorem modTask_draws (k : Nat) (f : Task → Task) : (s.modTask k f).draws = s.draws := rfl
@[simp] theorem modTask_mem (k : Nat) (f : Task → Task) : (s.modTask k f).mem = s.mem := rfl
@[simp] theorem modTask_l2 (k : Nat) (f : Task → Task) : (s.modTask k f).l2 = s.l2 := rfl
@[simp] theorem modTask_poison (k : Nat) (f : Task → Task) : (s.modTask k f).poison = s.poison := rfl
@[simp] theorem modTask_struck (k : Nat) (f : Task → Task) : (s.modTask k f).struck = s.struck := rfl
@[simp] theorem modTask_latent (k : Nat) (f : Task → Task) : (s.modTask k f).latent = s.latent := rfl
@[simp] theorem modTask_units (k : Nat) (f : Task → Task) : (s.modTask k f).units = s.units := rfl
@[simp] theorem modTask_teams (k : Nat) (f : Task → Task) : (s.modTask k f).teams = s.teams := rfl
@[simp] theorem modTask_nextTeam (k : Nat) (f : Task → Task) : (s.modTask k f).nextTeam = s.nextTeam := rfl
@[simp] theorem modTask_clusters (k : Nat) (f : Task → Task) : (s.modTask k f).clusters = s.clusters := rfl
@[simp] theorem modTask_nextCluster (k : Nat) (f : Task → Task) : (s.modTask k f).nextCluster = s.nextCluster := rfl
theorem modTask_tasks (k : Nat) (f : Task → Task) : (s.modTask k f).tasks = Tab.modify s.tasks k f := rfl
@[simp] theorem modTask_nextTask (k : Nat) (f : Task → Task) : (s.modTask k f).nextTask = s.nextTask := rfl
@[simp] theorem modTask_cores (k : Nat) (f : Task → Task) : (s.modTask k f).cores = s.cores := rfl
@[simp] theorem modTask_scores (k : Nat) (f : Task → Task) : (s.modTask k f).scores = s.scores := rfl
@[simp] theorem modTask_cells (k : Nat) (f : Task → Task) : (s.modTask k f).cells = s.cells := rfl
@[simp] theorem modTask_dies (k : Nat) (f : Task → Task) : (s.modTask k f).dies = s.dies := rfl
@[simp] theorem modTask_ctxs (k : Nat) (f : Task → Task) : (s.modTask k f).ctxs = s.ctxs := rfl
@[simp] theorem modTask_saved (k : Nat) (f : Task → Task) : (s.modTask k f).saved = s.saved := rfl
@[simp] theorem modTask_nextSaved (k : Nat) (f : Task → Task) : (s.modTask k f).nextSaved = s.nextSaved := rfl
@[simp] theorem modTask_unbacked (k : Nat) (f : Task → Task) : (s.modTask k f).unbacked = s.unbacked := rfl
@[simp] theorem modTask_links (k : Nat) (f : Task → Task) : (s.modTask k f).links = s.links := rfl
@[simp] theorem modTask_mgmt (k : Nat) (f : Task → Task) : (s.modTask k f).mgmt = s.mgmt := rfl
@[simp] theorem modTask_deep (k : Nat) (f : Task → Task) : (s.modTask k f).deep = s.deep := rfl
@[simp] theorem unit_modTask (k : Nat) (f : Task → Task) (j : Nat) : (s.modTask k f).unit? j = s.unit? j := rfl
@[simp] theorem team_modTask (k : Nat) (f : Task → Task) (j : Nat) : (s.modTask k f).team? j = s.team? j := rfl
@[simp] theorem cluster_modTask (k : Nat) (f : Task → Task) (j : Nat) : (s.modTask k f).cluster? j = s.cluster? j := rfl
@[simp] theorem core_modTask (k : Nat) (f : Task → Task) (j : Nat) : (s.modTask k f).core j = s.core j := rfl
@[simp] theorem score_modTask (k : Nat) (f : Task → Task) (j : Nat) : (s.modTask k f).score j = s.score j := rfl
@[simp] theorem cell_modTask (k : Nat) (f : Task → Task) (j : Nat) : (s.modTask k f).cell j = s.cell j := rfl
@[simp] theorem die_modTask (k : Nat) (f : Task → Task) (j : Nat) : (s.modTask k f).die j = s.die j := rfl
@[simp] theorem ctx_modTask (k : Nat) (f : Task → Task) (j : Nat) : (s.modTask k f).ctx? j = s.ctx? j := rfl
@[simp] theorem link_modTask (k : Nat) (f : Task → Task) (j : Nat) : (s.modTask k f).link j = s.link j := rfl

/-! putCore -/

@[simp] theorem putCore_now (c : Nat) (x : Core) : (s.putCore c x).now = s.now := rfl
@[simp] theorem putCore_agenda (c : Nat) (x : Core) : (s.putCore c x).agenda = s.agenda := rfl
@[simp] theorem putCore_calendar (c : Nat) (x : Core) : (s.putCore c x).calendar = s.calendar := rfl
@[simp] theorem putCore_actor (c : Nat) (x : Core) : (s.putCore c x).actor = s.actor := rfl
@[simp] theorem putCore_draws (c : Nat) (x : Core) : (s.putCore c x).draws = s.draws := rfl
@[simp] theorem putCore_mem (c : Nat) (x : Core) : (s.putCore c x).mem = s.mem := rfl
@[simp] theorem putCore_l2 (c : Nat) (x : Core) : (s.putCore c x).l2 = s.l2 := rfl
@[simp] theorem putCore_poison (c : Nat) (x : Core) : (s.putCore c x).poison = s.poison := rfl
@[simp] theorem putCore_struck (c : Nat) (x : Core) : (s.putCore c x).struck = s.struck := rfl
@[simp] theorem putCore_latent (c : Nat) (x : Core) : (s.putCore c x).latent = s.latent := rfl
@[simp] theorem putCore_units (c : Nat) (x : Core) : (s.putCore c x).units = s.units := rfl
@[simp] theorem putCore_teams (c : Nat) (x : Core) : (s.putCore c x).teams = s.teams := rfl
@[simp] theorem putCore_nextTeam (c : Nat) (x : Core) : (s.putCore c x).nextTeam = s.nextTeam := rfl
@[simp] theorem putCore_clusters (c : Nat) (x : Core) : (s.putCore c x).clusters = s.clusters := rfl
@[simp] theorem putCore_nextCluster (c : Nat) (x : Core) : (s.putCore c x).nextCluster = s.nextCluster := rfl
@[simp] theorem putCore_tasks (c : Nat) (x : Core) : (s.putCore c x).tasks = s.tasks := rfl
@[simp] theorem putCore_nextTask (c : Nat) (x : Core) : (s.putCore c x).nextTask = s.nextTask := rfl
theorem putCore_cores (c : Nat) (x : Core) : (s.putCore c x).cores = Tab.put s.cores c x := rfl
@[simp] theorem putCore_scores (c : Nat) (x : Core) : (s.putCore c x).scores = s.scores := rfl
@[simp] theorem putCore_cells (c : Nat) (x : Core) : (s.putCore c x).cells = s.cells := rfl
@[simp] theorem putCore_dies (c : Nat) (x : Core) : (s.putCore c x).dies = s.dies := rfl
@[simp] theorem putCore_ctxs (c : Nat) (x : Core) : (s.putCore c x).ctxs = s.ctxs := rfl
@[simp] theorem putCore_saved (c : Nat) (x : Core) : (s.putCore c x).saved = s.saved := rfl
@[simp] theorem putCore_nextSaved (c : Nat) (x : Core) : (s.putCore c x).nextSaved = s.nextSaved := rfl
@[simp] theorem putCore_unbacked (c : Nat) (x : Core) : (s.putCore c x).unbacked = s.unbacked := rfl
@[simp] theorem putCore_links (c : Nat) (x : Core) : (s.putCore c x).links = s.links := rfl
@[simp] theorem putCore_mgmt (c : Nat) (x : Core) : (s.putCore c x).mgmt = s.mgmt := rfl
@[simp] theorem putCore_deep (c : Nat) (x : Core) : (s.putCore c x).deep = s.deep := rfl
@[simp] theorem unit_putCore (c : Nat) (x : Core) (j : Nat) : (s.putCore c x).unit? j = s.unit? j := rfl
@[simp] theorem team_putCore (c : Nat) (x : Core) (j : Nat) : (s.putCore c x).team? j = s.team? j := rfl
@[simp] theorem cluster_putCore (c : Nat) (x : Core) (j : Nat) : (s.putCore c x).cluster? j = s.cluster? j := rfl
@[simp] theorem task_putCore (c : Nat) (x : Core) (j : Nat) : (s.putCore c x).task? j = s.task? j := rfl
@[simp] theorem score_putCore (c : Nat) (x : Core) (j : Nat) : (s.putCore c x).score j = s.score j := rfl
@[simp] theorem cell_putCore (c : Nat) (x : Core) (j : Nat) : (s.putCore c x).cell j = s.cell j := rfl
@[simp] theorem die_putCore (c : Nat) (x : Core) (j : Nat) : (s.putCore c x).die j = s.die j := rfl
@[simp] theorem ctx_putCore (c : Nat) (x : Core) (j : Nat) : (s.putCore c x).ctx? j = s.ctx? j := rfl
@[simp] theorem link_putCore (c : Nat) (x : Core) (j : Nat) : (s.putCore c x).link j = s.link j := rfl

/-! modCore -/

@[simp] theorem modCore_now (c : Nat) (f : Core → Core) : (s.modCore c f).now = s.now := rfl
@[simp] theorem modCore_agenda (c : Nat) (f : Core → Core) : (s.modCore c f).agenda = s.agenda := rfl
@[simp] theorem modCore_calendar (c : Nat) (f : Core → Core) : (s.modCore c f).calendar = s.calendar := rfl
@[simp] theorem modCore_actor (c : Nat) (f : Core → Core) : (s.modCore c f).actor = s.actor := rfl
@[simp] theorem modCore_draws (c : Nat) (f : Core → Core) : (s.modCore c f).draws = s.draws := rfl
@[simp] theorem modCore_mem (c : Nat) (f : Core → Core) : (s.modCore c f).mem = s.mem := rfl
@[simp] theorem modCore_l2 (c : Nat) (f : Core → Core) : (s.modCore c f).l2 = s.l2 := rfl
@[simp] theorem modCore_poison (c : Nat) (f : Core → Core) : (s.modCore c f).poison = s.poison := rfl
@[simp] theorem modCore_struck (c : Nat) (f : Core → Core) : (s.modCore c f).struck = s.struck := rfl
@[simp] theorem modCore_latent (c : Nat) (f : Core → Core) : (s.modCore c f).latent = s.latent := rfl
@[simp] theorem modCore_units (c : Nat) (f : Core → Core) : (s.modCore c f).units = s.units := rfl
@[simp] theorem modCore_teams (c : Nat) (f : Core → Core) : (s.modCore c f).teams = s.teams := rfl
@[simp] theorem modCore_nextTeam (c : Nat) (f : Core → Core) : (s.modCore c f).nextTeam = s.nextTeam := rfl
@[simp] theorem modCore_clusters (c : Nat) (f : Core → Core) : (s.modCore c f).clusters = s.clusters := rfl
@[simp] theorem modCore_nextCluster (c : Nat) (f : Core → Core) : (s.modCore c f).nextCluster = s.nextCluster := rfl
@[simp] theorem modCore_tasks (c : Nat) (f : Core → Core) : (s.modCore c f).tasks = s.tasks := rfl
@[simp] theorem modCore_nextTask (c : Nat) (f : Core → Core) : (s.modCore c f).nextTask = s.nextTask := rfl
theorem modCore_cores (c : Nat) (f : Core → Core) : (s.modCore c f).cores = Tab.put s.cores c (f (s.core c)) := rfl
@[simp] theorem modCore_scores (c : Nat) (f : Core → Core) : (s.modCore c f).scores = s.scores := rfl
@[simp] theorem modCore_cells (c : Nat) (f : Core → Core) : (s.modCore c f).cells = s.cells := rfl
@[simp] theorem modCore_dies (c : Nat) (f : Core → Core) : (s.modCore c f).dies = s.dies := rfl
@[simp] theorem modCore_ctxs (c : Nat) (f : Core → Core) : (s.modCore c f).ctxs = s.ctxs := rfl
@[simp] theorem modCore_saved (c : Nat) (f : Core → Core) : (s.modCore c f).saved = s.saved := rfl
@[simp] theorem modCore_nextSaved (c : Nat) (f : Core → Core) : (s.modCore c f).nextSaved = s.nextSaved := rfl
@[simp] theorem modCore_unbacked (c : Nat) (f : Core → Core) : (s.modCore c f).unbacked = s.unbacked := rfl
@[simp] theorem modCore_links (c : Nat) (f : Core → Core) : (s.modCore c f).links = s.links := rfl
@[simp] theorem modCore_mgmt (c : Nat) (f : Core → Core) : (s.modCore c f).mgmt = s.mgmt := rfl
@[simp] theorem modCore_deep (c : Nat) (f : Core → Core) : (s.modCore c f).deep = s.deep := rfl
@[simp] theorem unit_modCore (c : Nat) (f : Core → Core) (j : Nat) : (s.modCore c f).unit? j = s.unit? j := rfl
@[simp] theorem team_modCore (c : Nat) (f : Core → Core) (j : Nat) : (s.modCore c f).team? j = s.team? j := rfl
@[simp] theorem cluster_modCore (c : Nat) (f : Core → Core) (j : Nat) : (s.modCore c f).cluster? j = s.cluster? j := rfl
@[simp] theorem task_modCore (c : Nat) (f : Core → Core) (j : Nat) : (s.modCore c f).task? j = s.task? j := rfl
@[simp] theorem score_modCore (c : Nat) (f : Core → Core) (j : Nat) : (s.modCore c f).score j = s.score j := rfl
@[simp] theorem cell_modCore (c : Nat) (f : Core → Core) (j : Nat) : (s.modCore c f).cell j = s.cell j := rfl
@[simp] theorem die_modCore (c : Nat) (f : Core → Core) (j : Nat) : (s.modCore c f).die j = s.die j := rfl
@[simp] theorem ctx_modCore (c : Nat) (f : Core → Core) (j : Nat) : (s.modCore c f).ctx? j = s.ctx? j := rfl
@[simp] theorem link_modCore (c : Nat) (f : Core → Core) (j : Nat) : (s.modCore c f).link j = s.link j := rfl

/-! modScore -/

@[simp] theorem modScore_now (c : Nat) (f : StrandCore → StrandCore) : (s.modScore c f).now = s.now := rfl
@[simp] theorem modScore_agenda (c : Nat) (f : StrandCore → StrandCore) : (s.modScore c f).agenda = s.agenda := rfl
@[simp] theorem modScore_calendar (c : Nat) (f : StrandCore → StrandCore) : (s.modScore c f).calendar = s.calendar := rfl
@[simp] theorem modScore_actor (c : Nat) (f : StrandCore → StrandCore) : (s.modScore c f).actor = s.actor := rfl
@[simp] theorem modScore_draws (c : Nat) (f : StrandCore → StrandCore) : (s.modScore c f).draws = s.draws := rfl
@[simp] theorem modScore_mem (c : Nat) (f : StrandCore → StrandCore) : (s.modScore c f).mem = s.mem := rfl
@[simp] theorem modScore_l2 (c : Nat) (f : StrandCore → StrandCore) : (s.modScore c f).l2 = s.l2 := rfl
@[simp] theorem modScore_poison (c : Nat) (f : StrandCore → StrandCore) : (s.modScore c f).poison = s.poison := rfl
@[simp] theorem modScore_struck (c : Nat) (f : StrandCore → StrandCore) : (s.modScore c f).struck = s.struck := rfl
@[simp] theorem modScore_latent (c : Nat) (f : StrandCore → StrandCore) : (s.modScore c f).latent = s.latent := rfl
@[simp] theorem modScore_units (c : Nat) (f : StrandCore → StrandCore) : (s.modScore c f).units = s.units := rfl
@[simp] theorem modScore_teams (c : Nat) (f : StrandCore → StrandCore) : (s.modScore c f).teams = s.teams := rfl
@[simp] theorem modScore_nextTeam (c : Nat) (f : StrandCore → StrandCore) : (s.modScore c f).nextTeam = s.nextTeam := rfl
@[simp] theorem modScore_clusters (c : Nat) (f : StrandCore → StrandCore) : (s.modScore c f).clusters = s.clusters := rfl
@[simp] theorem modScore_nextCluster (c : Nat) (f : StrandCore → StrandCore) : (s.modScore c f).nextCluster = s.nextCluster := rfl
@[simp] theorem modScore_tasks (c : Nat) (f : StrandCore → StrandCore) : (s.modScore c f).tasks = s.tasks := rfl
@[simp] theorem modScore_nextTask (c : Nat) (f : StrandCore → StrandCore) : (s.modScore c f).nextTask = s.nextTask := rfl
@[simp] theorem modScore_cores (c : Nat) (f : StrandCore → StrandCore) : (s.modScore c f).cores = s.cores := rfl
theorem modScore_scores (c : Nat) (f : StrandCore → StrandCore) : (s.modScore c f).scores = Tab.put s.scores c (f (s.score c)) := rfl
@[simp] theorem modScore_cells (c : Nat) (f : StrandCore → StrandCore) : (s.modScore c f).cells = s.cells := rfl
@[simp] theorem modScore_dies (c : Nat) (f : StrandCore → StrandCore) : (s.modScore c f).dies = s.dies := rfl
@[simp] theorem modScore_ctxs (c : Nat) (f : StrandCore → StrandCore) : (s.modScore c f).ctxs = s.ctxs := rfl
@[simp] theorem modScore_saved (c : Nat) (f : StrandCore → StrandCore) : (s.modScore c f).saved = s.saved := rfl
@[simp] theorem modScore_nextSaved (c : Nat) (f : StrandCore → StrandCore) : (s.modScore c f).nextSaved = s.nextSaved := rfl
@[simp] theorem modScore_unbacked (c : Nat) (f : StrandCore → StrandCore) : (s.modScore c f).unbacked = s.unbacked := rfl
@[simp] theorem modScore_links (c : Nat) (f : StrandCore → StrandCore) : (s.modScore c f).links = s.links := rfl
@[simp] theorem modScore_mgmt (c : Nat) (f : StrandCore → StrandCore) : (s.modScore c f).mgmt = s.mgmt := rfl
@[simp] theorem modScore_deep (c : Nat) (f : StrandCore → StrandCore) : (s.modScore c f).deep = s.deep := rfl
@[simp] theorem unit_modScore (c : Nat) (f : StrandCore → StrandCore) (j : Nat) : (s.modScore c f).unit? j = s.unit? j := rfl
@[simp] theorem team_modScore (c : Nat) (f : StrandCore → StrandCore) (j : Nat) : (s.modScore c f).team? j = s.team? j := rfl
@[simp] theorem cluster_modScore (c : Nat) (f : StrandCore → StrandCore) (j : Nat) : (s.modScore c f).cluster? j = s.cluster? j := rfl
@[simp] theorem task_modScore (c : Nat) (f : StrandCore → StrandCore) (j : Nat) : (s.modScore c f).task? j = s.task? j := rfl
@[simp] theorem core_modScore (c : Nat) (f : StrandCore → StrandCore) (j : Nat) : (s.modScore c f).core j = s.core j := rfl
@[simp] theorem cell_modScore (c : Nat) (f : StrandCore → StrandCore) (j : Nat) : (s.modScore c f).cell j = s.cell j := rfl
@[simp] theorem die_modScore (c : Nat) (f : StrandCore → StrandCore) (j : Nat) : (s.modScore c f).die j = s.die j := rfl
@[simp] theorem ctx_modScore (c : Nat) (f : StrandCore → StrandCore) (j : Nat) : (s.modScore c f).ctx? j = s.ctx? j := rfl
@[simp] theorem link_modScore (c : Nat) (f : StrandCore → StrandCore) (j : Nat) : (s.modScore c f).link j = s.link j := rfl

/-! modCell -/

@[simp] theorem modCell_now (c : Nat) (f : Cell → Cell) : (s.modCell c f).now = s.now := rfl
@[simp] theorem modCell_agenda (c : Nat) (f : Cell → Cell) : (s.modCell c f).agenda = s.agenda := rfl
@[simp] theorem modCell_calendar (c : Nat) (f : Cell → Cell) : (s.modCell c f).calendar = s.calendar := rfl
@[simp] theorem modCell_actor (c : Nat) (f : Cell → Cell) : (s.modCell c f).actor = s.actor := rfl
@[simp] theorem modCell_draws (c : Nat) (f : Cell → Cell) : (s.modCell c f).draws = s.draws := rfl
@[simp] theorem modCell_mem (c : Nat) (f : Cell → Cell) : (s.modCell c f).mem = s.mem := rfl
@[simp] theorem modCell_l2 (c : Nat) (f : Cell → Cell) : (s.modCell c f).l2 = s.l2 := rfl
@[simp] theorem modCell_poison (c : Nat) (f : Cell → Cell) : (s.modCell c f).poison = s.poison := rfl
@[simp] theorem modCell_struck (c : Nat) (f : Cell → Cell) : (s.modCell c f).struck = s.struck := rfl
@[simp] theorem modCell_latent (c : Nat) (f : Cell → Cell) : (s.modCell c f).latent = s.latent := rfl
@[simp] theorem modCell_units (c : Nat) (f : Cell → Cell) : (s.modCell c f).units = s.units := rfl
@[simp] theorem modCell_teams (c : Nat) (f : Cell → Cell) : (s.modCell c f).teams = s.teams := rfl
@[simp] theorem modCell_nextTeam (c : Nat) (f : Cell → Cell) : (s.modCell c f).nextTeam = s.nextTeam := rfl
@[simp] theorem modCell_clusters (c : Nat) (f : Cell → Cell) : (s.modCell c f).clusters = s.clusters := rfl
@[simp] theorem modCell_nextCluster (c : Nat) (f : Cell → Cell) : (s.modCell c f).nextCluster = s.nextCluster := rfl
@[simp] theorem modCell_tasks (c : Nat) (f : Cell → Cell) : (s.modCell c f).tasks = s.tasks := rfl
@[simp] theorem modCell_nextTask (c : Nat) (f : Cell → Cell) : (s.modCell c f).nextTask = s.nextTask := rfl
@[simp] theorem modCell_cores (c : Nat) (f : Cell → Cell) : (s.modCell c f).cores = s.cores := rfl
@[simp] theorem modCell_scores (c : Nat) (f : Cell → Cell) : (s.modCell c f).scores = s.scores := rfl
theorem modCell_cells (c : Nat) (f : Cell → Cell) : (s.modCell c f).cells = Tab.put s.cells c (f (s.cell c)) := rfl
@[simp] theorem modCell_dies (c : Nat) (f : Cell → Cell) : (s.modCell c f).dies = s.dies := rfl
@[simp] theorem modCell_ctxs (c : Nat) (f : Cell → Cell) : (s.modCell c f).ctxs = s.ctxs := rfl
@[simp] theorem modCell_saved (c : Nat) (f : Cell → Cell) : (s.modCell c f).saved = s.saved := rfl
@[simp] theorem modCell_nextSaved (c : Nat) (f : Cell → Cell) : (s.modCell c f).nextSaved = s.nextSaved := rfl
@[simp] theorem modCell_unbacked (c : Nat) (f : Cell → Cell) : (s.modCell c f).unbacked = s.unbacked := rfl
@[simp] theorem modCell_links (c : Nat) (f : Cell → Cell) : (s.modCell c f).links = s.links := rfl
@[simp] theorem modCell_mgmt (c : Nat) (f : Cell → Cell) : (s.modCell c f).mgmt = s.mgmt := rfl
@[simp] theorem modCell_deep (c : Nat) (f : Cell → Cell) : (s.modCell c f).deep = s.deep := rfl
@[simp] theorem unit_modCell (c : Nat) (f : Cell → Cell) (j : Nat) : (s.modCell c f).unit? j = s.unit? j := rfl
@[simp] theorem team_modCell (c : Nat) (f : Cell → Cell) (j : Nat) : (s.modCell c f).team? j = s.team? j := rfl
@[simp] theorem cluster_modCell (c : Nat) (f : Cell → Cell) (j : Nat) : (s.modCell c f).cluster? j = s.cluster? j := rfl
@[simp] theorem task_modCell (c : Nat) (f : Cell → Cell) (j : Nat) : (s.modCell c f).task? j = s.task? j := rfl
@[simp] theorem core_modCell (c : Nat) (f : Cell → Cell) (j : Nat) : (s.modCell c f).core j = s.core j := rfl
@[simp] theorem score_modCell (c : Nat) (f : Cell → Cell) (j : Nat) : (s.modCell c f).score j = s.score j := rfl
@[simp] theorem die_modCell (c : Nat) (f : Cell → Cell) (j : Nat) : (s.modCell c f).die j = s.die j := rfl
@[simp] theorem ctx_modCell (c : Nat) (f : Cell → Cell) (j : Nat) : (s.modCell c f).ctx? j = s.ctx? j := rfl
@[simp] theorem link_modCell (c : Nat) (f : Cell → Cell) (j : Nat) : (s.modCell c f).link j = s.link j := rfl

/-! modDie -/

@[simp] theorem modDie_now (d : Nat) (f : Die → Die) : (s.modDie d f).now = s.now := rfl
@[simp] theorem modDie_agenda (d : Nat) (f : Die → Die) : (s.modDie d f).agenda = s.agenda := rfl
@[simp] theorem modDie_calendar (d : Nat) (f : Die → Die) : (s.modDie d f).calendar = s.calendar := rfl
@[simp] theorem modDie_actor (d : Nat) (f : Die → Die) : (s.modDie d f).actor = s.actor := rfl
@[simp] theorem modDie_draws (d : Nat) (f : Die → Die) : (s.modDie d f).draws = s.draws := rfl
@[simp] theorem modDie_mem (d : Nat) (f : Die → Die) : (s.modDie d f).mem = s.mem := rfl
@[simp] theorem modDie_l2 (d : Nat) (f : Die → Die) : (s.modDie d f).l2 = s.l2 := rfl
@[simp] theorem modDie_poison (d : Nat) (f : Die → Die) : (s.modDie d f).poison = s.poison := rfl
@[simp] theorem modDie_struck (d : Nat) (f : Die → Die) : (s.modDie d f).struck = s.struck := rfl
@[simp] theorem modDie_latent (d : Nat) (f : Die → Die) : (s.modDie d f).latent = s.latent := rfl
@[simp] theorem modDie_units (d : Nat) (f : Die → Die) : (s.modDie d f).units = s.units := rfl
@[simp] theorem modDie_teams (d : Nat) (f : Die → Die) : (s.modDie d f).teams = s.teams := rfl
@[simp] theorem modDie_nextTeam (d : Nat) (f : Die → Die) : (s.modDie d f).nextTeam = s.nextTeam := rfl
@[simp] theorem modDie_clusters (d : Nat) (f : Die → Die) : (s.modDie d f).clusters = s.clusters := rfl
@[simp] theorem modDie_nextCluster (d : Nat) (f : Die → Die) : (s.modDie d f).nextCluster = s.nextCluster := rfl
@[simp] theorem modDie_tasks (d : Nat) (f : Die → Die) : (s.modDie d f).tasks = s.tasks := rfl
@[simp] theorem modDie_nextTask (d : Nat) (f : Die → Die) : (s.modDie d f).nextTask = s.nextTask := rfl
@[simp] theorem modDie_cores (d : Nat) (f : Die → Die) : (s.modDie d f).cores = s.cores := rfl
@[simp] theorem modDie_scores (d : Nat) (f : Die → Die) : (s.modDie d f).scores = s.scores := rfl
@[simp] theorem modDie_cells (d : Nat) (f : Die → Die) : (s.modDie d f).cells = s.cells := rfl
theorem modDie_dies (d : Nat) (f : Die → Die) : (s.modDie d f).dies = Tab.put s.dies d (f (s.die d)) := rfl
@[simp] theorem modDie_ctxs (d : Nat) (f : Die → Die) : (s.modDie d f).ctxs = s.ctxs := rfl
@[simp] theorem modDie_saved (d : Nat) (f : Die → Die) : (s.modDie d f).saved = s.saved := rfl
@[simp] theorem modDie_nextSaved (d : Nat) (f : Die → Die) : (s.modDie d f).nextSaved = s.nextSaved := rfl
@[simp] theorem modDie_unbacked (d : Nat) (f : Die → Die) : (s.modDie d f).unbacked = s.unbacked := rfl
@[simp] theorem modDie_links (d : Nat) (f : Die → Die) : (s.modDie d f).links = s.links := rfl
@[simp] theorem modDie_mgmt (d : Nat) (f : Die → Die) : (s.modDie d f).mgmt = s.mgmt := rfl
@[simp] theorem modDie_deep (d : Nat) (f : Die → Die) : (s.modDie d f).deep = s.deep := rfl
@[simp] theorem unit_modDie (d : Nat) (f : Die → Die) (j : Nat) : (s.modDie d f).unit? j = s.unit? j := rfl
@[simp] theorem team_modDie (d : Nat) (f : Die → Die) (j : Nat) : (s.modDie d f).team? j = s.team? j := rfl
@[simp] theorem cluster_modDie (d : Nat) (f : Die → Die) (j : Nat) : (s.modDie d f).cluster? j = s.cluster? j := rfl
@[simp] theorem task_modDie (d : Nat) (f : Die → Die) (j : Nat) : (s.modDie d f).task? j = s.task? j := rfl
@[simp] theorem core_modDie (d : Nat) (f : Die → Die) (j : Nat) : (s.modDie d f).core j = s.core j := rfl
@[simp] theorem score_modDie (d : Nat) (f : Die → Die) (j : Nat) : (s.modDie d f).score j = s.score j := rfl
@[simp] theorem cell_modDie (d : Nat) (f : Die → Die) (j : Nat) : (s.modDie d f).cell j = s.cell j := rfl
@[simp] theorem ctx_modDie (d : Nat) (f : Die → Die) (j : Nat) : (s.modDie d f).ctx? j = s.ctx? j := rfl
@[simp] theorem link_modDie (d : Nat) (f : Die → Die) (j : Nat) : (s.modDie d f).link j = s.link j := rfl

/-! modCtx -/

@[simp] theorem modCtx_now (c : Nat) (f : Ctx → Ctx) : (s.modCtx c f).now = s.now := rfl
@[simp] theorem modCtx_agenda (c : Nat) (f : Ctx → Ctx) : (s.modCtx c f).agenda = s.agenda := rfl
@[simp] theorem modCtx_calendar (c : Nat) (f : Ctx → Ctx) : (s.modCtx c f).calendar = s.calendar := rfl
@[simp] theorem modCtx_actor (c : Nat) (f : Ctx → Ctx) : (s.modCtx c f).actor = s.actor := rfl
@[simp] theorem modCtx_draws (c : Nat) (f : Ctx → Ctx) : (s.modCtx c f).draws = s.draws := rfl
@[simp] theorem modCtx_mem (c : Nat) (f : Ctx → Ctx) : (s.modCtx c f).mem = s.mem := rfl
@[simp] theorem modCtx_l2 (c : Nat) (f : Ctx → Ctx) : (s.modCtx c f).l2 = s.l2 := rfl
@[simp] theorem modCtx_poison (c : Nat) (f : Ctx → Ctx) : (s.modCtx c f).poison = s.poison := rfl
@[simp] theorem modCtx_struck (c : Nat) (f : Ctx → Ctx) : (s.modCtx c f).struck = s.struck := rfl
@[simp] theorem modCtx_latent (c : Nat) (f : Ctx → Ctx) : (s.modCtx c f).latent = s.latent := rfl
@[simp] theorem modCtx_units (c : Nat) (f : Ctx → Ctx) : (s.modCtx c f).units = s.units := rfl
@[simp] theorem modCtx_teams (c : Nat) (f : Ctx → Ctx) : (s.modCtx c f).teams = s.teams := rfl
@[simp] theorem modCtx_nextTeam (c : Nat) (f : Ctx → Ctx) : (s.modCtx c f).nextTeam = s.nextTeam := rfl
@[simp] theorem modCtx_clusters (c : Nat) (f : Ctx → Ctx) : (s.modCtx c f).clusters = s.clusters := rfl
@[simp] theorem modCtx_nextCluster (c : Nat) (f : Ctx → Ctx) : (s.modCtx c f).nextCluster = s.nextCluster := rfl
@[simp] theorem modCtx_tasks (c : Nat) (f : Ctx → Ctx) : (s.modCtx c f).tasks = s.tasks := rfl
@[simp] theorem modCtx_nextTask (c : Nat) (f : Ctx → Ctx) : (s.modCtx c f).nextTask = s.nextTask := rfl
@[simp] theorem modCtx_cores (c : Nat) (f : Ctx → Ctx) : (s.modCtx c f).cores = s.cores := rfl
@[simp] theorem modCtx_scores (c : Nat) (f : Ctx → Ctx) : (s.modCtx c f).scores = s.scores := rfl
@[simp] theorem modCtx_cells (c : Nat) (f : Ctx → Ctx) : (s.modCtx c f).cells = s.cells := rfl
@[simp] theorem modCtx_dies (c : Nat) (f : Ctx → Ctx) : (s.modCtx c f).dies = s.dies := rfl
theorem modCtx_ctxs (c : Nat) (f : Ctx → Ctx) : (s.modCtx c f).ctxs = Tab.modify s.ctxs c f := rfl
@[simp] theorem modCtx_saved (c : Nat) (f : Ctx → Ctx) : (s.modCtx c f).saved = s.saved := rfl
@[simp] theorem modCtx_nextSaved (c : Nat) (f : Ctx → Ctx) : (s.modCtx c f).nextSaved = s.nextSaved := rfl
@[simp] theorem modCtx_unbacked (c : Nat) (f : Ctx → Ctx) : (s.modCtx c f).unbacked = s.unbacked := rfl
@[simp] theorem modCtx_links (c : Nat) (f : Ctx → Ctx) : (s.modCtx c f).links = s.links := rfl
@[simp] theorem modCtx_mgmt (c : Nat) (f : Ctx → Ctx) : (s.modCtx c f).mgmt = s.mgmt := rfl
@[simp] theorem modCtx_deep (c : Nat) (f : Ctx → Ctx) : (s.modCtx c f).deep = s.deep := rfl
@[simp] theorem unit_modCtx (c : Nat) (f : Ctx → Ctx) (j : Nat) : (s.modCtx c f).unit? j = s.unit? j := rfl
@[simp] theorem team_modCtx (c : Nat) (f : Ctx → Ctx) (j : Nat) : (s.modCtx c f).team? j = s.team? j := rfl
@[simp] theorem cluster_modCtx (c : Nat) (f : Ctx → Ctx) (j : Nat) : (s.modCtx c f).cluster? j = s.cluster? j := rfl
@[simp] theorem task_modCtx (c : Nat) (f : Ctx → Ctx) (j : Nat) : (s.modCtx c f).task? j = s.task? j := rfl
@[simp] theorem core_modCtx (c : Nat) (f : Ctx → Ctx) (j : Nat) : (s.modCtx c f).core j = s.core j := rfl
@[simp] theorem score_modCtx (c : Nat) (f : Ctx → Ctx) (j : Nat) : (s.modCtx c f).score j = s.score j := rfl
@[simp] theorem cell_modCtx (c : Nat) (f : Ctx → Ctx) (j : Nat) : (s.modCtx c f).cell j = s.cell j := rfl
@[simp] theorem die_modCtx (c : Nat) (f : Ctx → Ctx) (j : Nat) : (s.modCtx c f).die j = s.die j := rfl
@[simp] theorem link_modCtx (c : Nat) (f : Ctx → Ctx) (j : Nat) : (s.modCtx c f).link j = s.link j := rfl

/-! modLink -/

@[simp] theorem modLink_now (k : Nat) (f : Link → Link) : (s.modLink k f).now = s.now := rfl
@[simp] theorem modLink_agenda (k : Nat) (f : Link → Link) : (s.modLink k f).agenda = s.agenda := rfl
@[simp] theorem modLink_calendar (k : Nat) (f : Link → Link) : (s.modLink k f).calendar = s.calendar := rfl
@[simp] theorem modLink_actor (k : Nat) (f : Link → Link) : (s.modLink k f).actor = s.actor := rfl
@[simp] theorem modLink_draws (k : Nat) (f : Link → Link) : (s.modLink k f).draws = s.draws := rfl
@[simp] theorem modLink_mem (k : Nat) (f : Link → Link) : (s.modLink k f).mem = s.mem := rfl
@[simp] theorem modLink_l2 (k : Nat) (f : Link → Link) : (s.modLink k f).l2 = s.l2 := rfl
@[simp] theorem modLink_poison (k : Nat) (f : Link → Link) : (s.modLink k f).poison = s.poison := rfl
@[simp] theorem modLink_struck (k : Nat) (f : Link → Link) : (s.modLink k f).struck = s.struck := rfl
@[simp] theorem modLink_latent (k : Nat) (f : Link → Link) : (s.modLink k f).latent = s.latent := rfl
@[simp] theorem modLink_units (k : Nat) (f : Link → Link) : (s.modLink k f).units = s.units := rfl
@[simp] theorem modLink_teams (k : Nat) (f : Link → Link) : (s.modLink k f).teams = s.teams := rfl
@[simp] theorem modLink_nextTeam (k : Nat) (f : Link → Link) : (s.modLink k f).nextTeam = s.nextTeam := rfl
@[simp] theorem modLink_clusters (k : Nat) (f : Link → Link) : (s.modLink k f).clusters = s.clusters := rfl
@[simp] theorem modLink_nextCluster (k : Nat) (f : Link → Link) : (s.modLink k f).nextCluster = s.nextCluster := rfl
@[simp] theorem modLink_tasks (k : Nat) (f : Link → Link) : (s.modLink k f).tasks = s.tasks := rfl
@[simp] theorem modLink_nextTask (k : Nat) (f : Link → Link) : (s.modLink k f).nextTask = s.nextTask := rfl
@[simp] theorem modLink_cores (k : Nat) (f : Link → Link) : (s.modLink k f).cores = s.cores := rfl
@[simp] theorem modLink_scores (k : Nat) (f : Link → Link) : (s.modLink k f).scores = s.scores := rfl
@[simp] theorem modLink_cells (k : Nat) (f : Link → Link) : (s.modLink k f).cells = s.cells := rfl
@[simp] theorem modLink_dies (k : Nat) (f : Link → Link) : (s.modLink k f).dies = s.dies := rfl
@[simp] theorem modLink_ctxs (k : Nat) (f : Link → Link) : (s.modLink k f).ctxs = s.ctxs := rfl
@[simp] theorem modLink_saved (k : Nat) (f : Link → Link) : (s.modLink k f).saved = s.saved := rfl
@[simp] theorem modLink_nextSaved (k : Nat) (f : Link → Link) : (s.modLink k f).nextSaved = s.nextSaved := rfl
@[simp] theorem modLink_unbacked (k : Nat) (f : Link → Link) : (s.modLink k f).unbacked = s.unbacked := rfl
theorem modLink_links (k : Nat) (f : Link → Link) : (s.modLink k f).links = Tab.put s.links k (f (s.link k)) := rfl
@[simp] theorem modLink_mgmt (k : Nat) (f : Link → Link) : (s.modLink k f).mgmt = s.mgmt := rfl
@[simp] theorem modLink_deep (k : Nat) (f : Link → Link) : (s.modLink k f).deep = s.deep := rfl
@[simp] theorem unit_modLink (k : Nat) (f : Link → Link) (j : Nat) : (s.modLink k f).unit? j = s.unit? j := rfl
@[simp] theorem team_modLink (k : Nat) (f : Link → Link) (j : Nat) : (s.modLink k f).team? j = s.team? j := rfl
@[simp] theorem cluster_modLink (k : Nat) (f : Link → Link) (j : Nat) : (s.modLink k f).cluster? j = s.cluster? j := rfl
@[simp] theorem task_modLink (k : Nat) (f : Link → Link) (j : Nat) : (s.modLink k f).task? j = s.task? j := rfl
@[simp] theorem core_modLink (k : Nat) (f : Link → Link) (j : Nat) : (s.modLink k f).core j = s.core j := rfl
@[simp] theorem score_modLink (k : Nat) (f : Link → Link) (j : Nat) : (s.modLink k f).score j = s.score j := rfl
@[simp] theorem cell_modLink (k : Nat) (f : Link → Link) (j : Nat) : (s.modLink k f).cell j = s.cell j := rfl
@[simp] theorem die_modLink (k : Nat) (f : Link → Link) (j : Nat) : (s.modLink k f).die j = s.die j := rfl
@[simp] theorem ctx_modLink (k : Nat) (f : Link → Link) (j : Nat) : (s.modLink k f).ctx? j = s.ctx? j := rfl

/-! modMx -/

@[simp] theorem modMx_now (c : Nat) (f : Matrix → Matrix) : (s.modMx c f).now = s.now := rfl
@[simp] theorem modMx_agenda (c : Nat) (f : Matrix → Matrix) : (s.modMx c f).agenda = s.agenda := rfl
@[simp] theorem modMx_calendar (c : Nat) (f : Matrix → Matrix) : (s.modMx c f).calendar = s.calendar := rfl
@[simp] theorem modMx_actor (c : Nat) (f : Matrix → Matrix) : (s.modMx c f).actor = s.actor := rfl
@[simp] theorem modMx_draws (c : Nat) (f : Matrix → Matrix) : (s.modMx c f).draws = s.draws := rfl
@[simp] theorem modMx_mem (c : Nat) (f : Matrix → Matrix) : (s.modMx c f).mem = s.mem := rfl
@[simp] theorem modMx_l2 (c : Nat) (f : Matrix → Matrix) : (s.modMx c f).l2 = s.l2 := rfl
@[simp] theorem modMx_poison (c : Nat) (f : Matrix → Matrix) : (s.modMx c f).poison = s.poison := rfl
@[simp] theorem modMx_struck (c : Nat) (f : Matrix → Matrix) : (s.modMx c f).struck = s.struck := rfl
@[simp] theorem modMx_latent (c : Nat) (f : Matrix → Matrix) : (s.modMx c f).latent = s.latent := rfl
@[simp] theorem modMx_units (c : Nat) (f : Matrix → Matrix) : (s.modMx c f).units = s.units := rfl
@[simp] theorem modMx_teams (c : Nat) (f : Matrix → Matrix) : (s.modMx c f).teams = s.teams := rfl
@[simp] theorem modMx_nextTeam (c : Nat) (f : Matrix → Matrix) : (s.modMx c f).nextTeam = s.nextTeam := rfl
@[simp] theorem modMx_clusters (c : Nat) (f : Matrix → Matrix) : (s.modMx c f).clusters = s.clusters := rfl
@[simp] theorem modMx_nextCluster (c : Nat) (f : Matrix → Matrix) : (s.modMx c f).nextCluster = s.nextCluster := rfl
@[simp] theorem modMx_tasks (c : Nat) (f : Matrix → Matrix) : (s.modMx c f).tasks = s.tasks := rfl
@[simp] theorem modMx_nextTask (c : Nat) (f : Matrix → Matrix) : (s.modMx c f).nextTask = s.nextTask := rfl
theorem modMx_cores (c : Nat) (f : Matrix → Matrix) : (s.modMx c f).cores = (s.modCore c (fun k => { k with mx := f k.mx })).cores := rfl
@[simp] theorem modMx_scores (c : Nat) (f : Matrix → Matrix) : (s.modMx c f).scores = s.scores := rfl
@[simp] theorem modMx_cells (c : Nat) (f : Matrix → Matrix) : (s.modMx c f).cells = s.cells := rfl
@[simp] theorem modMx_dies (c : Nat) (f : Matrix → Matrix) : (s.modMx c f).dies = s.dies := rfl
@[simp] theorem modMx_ctxs (c : Nat) (f : Matrix → Matrix) : (s.modMx c f).ctxs = s.ctxs := rfl
@[simp] theorem modMx_saved (c : Nat) (f : Matrix → Matrix) : (s.modMx c f).saved = s.saved := rfl
@[simp] theorem modMx_nextSaved (c : Nat) (f : Matrix → Matrix) : (s.modMx c f).nextSaved = s.nextSaved := rfl
@[simp] theorem modMx_unbacked (c : Nat) (f : Matrix → Matrix) : (s.modMx c f).unbacked = s.unbacked := rfl
@[simp] theorem modMx_links (c : Nat) (f : Matrix → Matrix) : (s.modMx c f).links = s.links := rfl
@[simp] theorem modMx_mgmt (c : Nat) (f : Matrix → Matrix) : (s.modMx c f).mgmt = s.mgmt := rfl
@[simp] theorem modMx_deep (c : Nat) (f : Matrix → Matrix) : (s.modMx c f).deep = s.deep := rfl
@[simp] theorem unit_modMx (c : Nat) (f : Matrix → Matrix) (j : Nat) : (s.modMx c f).unit? j = s.unit? j := rfl
@[simp] theorem team_modMx (c : Nat) (f : Matrix → Matrix) (j : Nat) : (s.modMx c f).team? j = s.team? j := rfl
@[simp] theorem cluster_modMx (c : Nat) (f : Matrix → Matrix) (j : Nat) : (s.modMx c f).cluster? j = s.cluster? j := rfl
@[simp] theorem task_modMx (c : Nat) (f : Matrix → Matrix) (j : Nat) : (s.modMx c f).task? j = s.task? j := rfl
@[simp] theorem score_modMx (c : Nat) (f : Matrix → Matrix) (j : Nat) : (s.modMx c f).score j = s.score j := rfl
@[simp] theorem cell_modMx (c : Nat) (f : Matrix → Matrix) (j : Nat) : (s.modMx c f).cell j = s.cell j := rfl
@[simp] theorem die_modMx (c : Nat) (f : Matrix → Matrix) (j : Nat) : (s.modMx c f).die j = s.die j := rfl
@[simp] theorem ctx_modMx (c : Nat) (f : Matrix → Matrix) (j : Nat) : (s.modMx c f).ctx? j = s.ctx? j := rfl
@[simp] theorem link_modMx (c : Nat) (f : Matrix → Matrix) (j : Nat) : (s.modMx c f).link j = s.link j := rfl

/-! modCi -/

@[simp] theorem modCi_now (c : Nat) (f : Cistern → Cistern) : (s.modCi c f).now = s.now := rfl
@[simp] theorem modCi_agenda (c : Nat) (f : Cistern → Cistern) : (s.modCi c f).agenda = s.agenda := rfl
@[simp] theorem modCi_calendar (c : Nat) (f : Cistern → Cistern) : (s.modCi c f).calendar = s.calendar := rfl
@[simp] theorem modCi_actor (c : Nat) (f : Cistern → Cistern) : (s.modCi c f).actor = s.actor := rfl
@[simp] theorem modCi_draws (c : Nat) (f : Cistern → Cistern) : (s.modCi c f).draws = s.draws := rfl
@[simp] theorem modCi_mem (c : Nat) (f : Cistern → Cistern) : (s.modCi c f).mem = s.mem := rfl
@[simp] theorem modCi_l2 (c : Nat) (f : Cistern → Cistern) : (s.modCi c f).l2 = s.l2 := rfl
@[simp] theorem modCi_poison (c : Nat) (f : Cistern → Cistern) : (s.modCi c f).poison = s.poison := rfl
@[simp] theorem modCi_struck (c : Nat) (f : Cistern → Cistern) : (s.modCi c f).struck = s.struck := rfl
@[simp] theorem modCi_latent (c : Nat) (f : Cistern → Cistern) : (s.modCi c f).latent = s.latent := rfl
@[simp] theorem modCi_units (c : Nat) (f : Cistern → Cistern) : (s.modCi c f).units = s.units := rfl
@[simp] theorem modCi_teams (c : Nat) (f : Cistern → Cistern) : (s.modCi c f).teams = s.teams := rfl
@[simp] theorem modCi_nextTeam (c : Nat) (f : Cistern → Cistern) : (s.modCi c f).nextTeam = s.nextTeam := rfl
@[simp] theorem modCi_clusters (c : Nat) (f : Cistern → Cistern) : (s.modCi c f).clusters = s.clusters := rfl
@[simp] theorem modCi_nextCluster (c : Nat) (f : Cistern → Cistern) : (s.modCi c f).nextCluster = s.nextCluster := rfl
@[simp] theorem modCi_tasks (c : Nat) (f : Cistern → Cistern) : (s.modCi c f).tasks = s.tasks := rfl
@[simp] theorem modCi_nextTask (c : Nat) (f : Cistern → Cistern) : (s.modCi c f).nextTask = s.nextTask := rfl
theorem modCi_cores (c : Nat) (f : Cistern → Cistern) : (s.modCi c f).cores = (s.modCore c (fun k => { k with ci := f k.ci })).cores := rfl
@[simp] theorem modCi_scores (c : Nat) (f : Cistern → Cistern) : (s.modCi c f).scores = s.scores := rfl
@[simp] theorem modCi_cells (c : Nat) (f : Cistern → Cistern) : (s.modCi c f).cells = s.cells := rfl
@[simp] theorem modCi_dies (c : Nat) (f : Cistern → Cistern) : (s.modCi c f).dies = s.dies := rfl
@[simp] theorem modCi_ctxs (c : Nat) (f : Cistern → Cistern) : (s.modCi c f).ctxs = s.ctxs := rfl
@[simp] theorem modCi_saved (c : Nat) (f : Cistern → Cistern) : (s.modCi c f).saved = s.saved := rfl
@[simp] theorem modCi_nextSaved (c : Nat) (f : Cistern → Cistern) : (s.modCi c f).nextSaved = s.nextSaved := rfl
@[simp] theorem modCi_unbacked (c : Nat) (f : Cistern → Cistern) : (s.modCi c f).unbacked = s.unbacked := rfl
@[simp] theorem modCi_links (c : Nat) (f : Cistern → Cistern) : (s.modCi c f).links = s.links := rfl
@[simp] theorem modCi_mgmt (c : Nat) (f : Cistern → Cistern) : (s.modCi c f).mgmt = s.mgmt := rfl
@[simp] theorem modCi_deep (c : Nat) (f : Cistern → Cistern) : (s.modCi c f).deep = s.deep := rfl
@[simp] theorem unit_modCi (c : Nat) (f : Cistern → Cistern) (j : Nat) : (s.modCi c f).unit? j = s.unit? j := rfl
@[simp] theorem team_modCi (c : Nat) (f : Cistern → Cistern) (j : Nat) : (s.modCi c f).team? j = s.team? j := rfl
@[simp] theorem cluster_modCi (c : Nat) (f : Cistern → Cistern) (j : Nat) : (s.modCi c f).cluster? j = s.cluster? j := rfl
@[simp] theorem task_modCi (c : Nat) (f : Cistern → Cistern) (j : Nat) : (s.modCi c f).task? j = s.task? j := rfl
@[simp] theorem score_modCi (c : Nat) (f : Cistern → Cistern) (j : Nat) : (s.modCi c f).score j = s.score j := rfl
@[simp] theorem cell_modCi (c : Nat) (f : Cistern → Cistern) (j : Nat) : (s.modCi c f).cell j = s.cell j := rfl
@[simp] theorem die_modCi (c : Nat) (f : Cistern → Cistern) (j : Nat) : (s.modCi c f).die j = s.die j := rfl
@[simp] theorem ctx_modCi (c : Nat) (f : Cistern → Cistern) (j : Nat) : (s.modCi c f).ctx? j = s.ctx? j := rfl
@[simp] theorem link_modCi (c : Nat) (f : Cistern → Cistern) (j : Nat) : (s.modCi c f).link j = s.link j := rfl

/-! modDebug -/

@[simp] theorem modDebug_now (c : Nat) (f : Debug → Debug) : (s.modDebug c f).now = s.now := rfl
@[simp] theorem modDebug_agenda (c : Nat) (f : Debug → Debug) : (s.modDebug c f).agenda = s.agenda := rfl
@[simp] theorem modDebug_calendar (c : Nat) (f : Debug → Debug) : (s.modDebug c f).calendar = s.calendar := rfl
@[simp] theorem modDebug_actor (c : Nat) (f : Debug → Debug) : (s.modDebug c f).actor = s.actor := rfl
@[simp] theorem modDebug_draws (c : Nat) (f : Debug → Debug) : (s.modDebug c f).draws = s.draws := rfl
@[simp] theorem modDebug_mem (c : Nat) (f : Debug → Debug) : (s.modDebug c f).mem = s.mem := rfl
@[simp] theorem modDebug_l2 (c : Nat) (f : Debug → Debug) : (s.modDebug c f).l2 = s.l2 := rfl
@[simp] theorem modDebug_poison (c : Nat) (f : Debug → Debug) : (s.modDebug c f).poison = s.poison := rfl
@[simp] theorem modDebug_struck (c : Nat) (f : Debug → Debug) : (s.modDebug c f).struck = s.struck := rfl
@[simp] theorem modDebug_latent (c : Nat) (f : Debug → Debug) : (s.modDebug c f).latent = s.latent := rfl
@[simp] theorem modDebug_units (c : Nat) (f : Debug → Debug) : (s.modDebug c f).units = s.units := rfl
@[simp] theorem modDebug_teams (c : Nat) (f : Debug → Debug) : (s.modDebug c f).teams = s.teams := rfl
@[simp] theorem modDebug_nextTeam (c : Nat) (f : Debug → Debug) : (s.modDebug c f).nextTeam = s.nextTeam := rfl
@[simp] theorem modDebug_clusters (c : Nat) (f : Debug → Debug) : (s.modDebug c f).clusters = s.clusters := rfl
@[simp] theorem modDebug_nextCluster (c : Nat) (f : Debug → Debug) : (s.modDebug c f).nextCluster = s.nextCluster := rfl
@[simp] theorem modDebug_tasks (c : Nat) (f : Debug → Debug) : (s.modDebug c f).tasks = s.tasks := rfl
@[simp] theorem modDebug_nextTask (c : Nat) (f : Debug → Debug) : (s.modDebug c f).nextTask = s.nextTask := rfl
@[simp] theorem modDebug_cores (c : Nat) (f : Debug → Debug) : (s.modDebug c f).cores = s.cores := rfl
@[simp] theorem modDebug_scores (c : Nat) (f : Debug → Debug) : (s.modDebug c f).scores = s.scores := rfl
theorem modDebug_cells (c : Nat) (f : Debug → Debug) : (s.modDebug c f).cells = (s.modCell c (fun k => { k with dbg := f k.dbg })).cells := rfl
@[simp] theorem modDebug_dies (c : Nat) (f : Debug → Debug) : (s.modDebug c f).dies = s.dies := rfl
@[simp] theorem modDebug_ctxs (c : Nat) (f : Debug → Debug) : (s.modDebug c f).ctxs = s.ctxs := rfl
@[simp] theorem modDebug_saved (c : Nat) (f : Debug → Debug) : (s.modDebug c f).saved = s.saved := rfl
@[simp] theorem modDebug_nextSaved (c : Nat) (f : Debug → Debug) : (s.modDebug c f).nextSaved = s.nextSaved := rfl
@[simp] theorem modDebug_unbacked (c : Nat) (f : Debug → Debug) : (s.modDebug c f).unbacked = s.unbacked := rfl
@[simp] theorem modDebug_links (c : Nat) (f : Debug → Debug) : (s.modDebug c f).links = s.links := rfl
@[simp] theorem modDebug_mgmt (c : Nat) (f : Debug → Debug) : (s.modDebug c f).mgmt = s.mgmt := rfl
@[simp] theorem modDebug_deep (c : Nat) (f : Debug → Debug) : (s.modDebug c f).deep = s.deep := rfl
@[simp] theorem unit_modDebug (c : Nat) (f : Debug → Debug) (j : Nat) : (s.modDebug c f).unit? j = s.unit? j := rfl
@[simp] theorem team_modDebug (c : Nat) (f : Debug → Debug) (j : Nat) : (s.modDebug c f).team? j = s.team? j := rfl
@[simp] theorem cluster_modDebug (c : Nat) (f : Debug → Debug) (j : Nat) : (s.modDebug c f).cluster? j = s.cluster? j := rfl
@[simp] theorem task_modDebug (c : Nat) (f : Debug → Debug) (j : Nat) : (s.modDebug c f).task? j = s.task? j := rfl
@[simp] theorem core_modDebug (c : Nat) (f : Debug → Debug) (j : Nat) : (s.modDebug c f).core j = s.core j := rfl
@[simp] theorem score_modDebug (c : Nat) (f : Debug → Debug) (j : Nat) : (s.modDebug c f).score j = s.score j := rfl
@[simp] theorem die_modDebug (c : Nat) (f : Debug → Debug) (j : Nat) : (s.modDebug c f).die j = s.die j := rfl
@[simp] theorem ctx_modDebug (c : Nat) (f : Debug → Debug) (j : Nat) : (s.modDebug c f).ctx? j = s.ctx? j := rfl
@[simp] theorem link_modDebug (c : Nat) (f : Debug → Debug) (j : Nat) : (s.modDebug c f).link j = s.link j := rfl

/-! soon -/

@[simp] theorem soon_now (t : Turn) : (s.soon t).now = s.now := rfl
theorem soon_agenda (t : Turn) : (s.soon t).agenda = s.agenda ++ [t] := rfl
@[simp] theorem soon_calendar (t : Turn) : (s.soon t).calendar = s.calendar := rfl
@[simp] theorem soon_actor (t : Turn) : (s.soon t).actor = s.actor := rfl
@[simp] theorem soon_draws (t : Turn) : (s.soon t).draws = s.draws := rfl
@[simp] theorem soon_mem (t : Turn) : (s.soon t).mem = s.mem := rfl
@[simp] theorem soon_l2 (t : Turn) : (s.soon t).l2 = s.l2 := rfl
@[simp] theorem soon_poison (t : Turn) : (s.soon t).poison = s.poison := rfl
@[simp] theorem soon_struck (t : Turn) : (s.soon t).struck = s.struck := rfl
@[simp] theorem soon_latent (t : Turn) : (s.soon t).latent = s.latent := rfl
@[simp] theorem soon_units (t : Turn) : (s.soon t).units = s.units := rfl
@[simp] theorem soon_teams (t : Turn) : (s.soon t).teams = s.teams := rfl
@[simp] theorem soon_nextTeam (t : Turn) : (s.soon t).nextTeam = s.nextTeam := rfl
@[simp] theorem soon_clusters (t : Turn) : (s.soon t).clusters = s.clusters := rfl
@[simp] theorem soon_nextCluster (t : Turn) : (s.soon t).nextCluster = s.nextCluster := rfl
@[simp] theorem soon_tasks (t : Turn) : (s.soon t).tasks = s.tasks := rfl
@[simp] theorem soon_nextTask (t : Turn) : (s.soon t).nextTask = s.nextTask := rfl
@[simp] theorem soon_cores (t : Turn) : (s.soon t).cores = s.cores := rfl
@[simp] theorem soon_scores (t : Turn) : (s.soon t).scores = s.scores := rfl
@[simp] theorem soon_cells (t : Turn) : (s.soon t).cells = s.cells := rfl
@[simp] theorem soon_dies (t : Turn) : (s.soon t).dies = s.dies := rfl
@[simp] theorem soon_ctxs (t : Turn) : (s.soon t).ctxs = s.ctxs := rfl
@[simp] theorem soon_saved (t : Turn) : (s.soon t).saved = s.saved := rfl
@[simp] theorem soon_nextSaved (t : Turn) : (s.soon t).nextSaved = s.nextSaved := rfl
@[simp] theorem soon_unbacked (t : Turn) : (s.soon t).unbacked = s.unbacked := rfl
@[simp] theorem soon_links (t : Turn) : (s.soon t).links = s.links := rfl
@[simp] theorem soon_mgmt (t : Turn) : (s.soon t).mgmt = s.mgmt := rfl
@[simp] theorem soon_deep (t : Turn) : (s.soon t).deep = s.deep := rfl
@[simp] theorem unit_soon (t : Turn) (j : Nat) : (s.soon t).unit? j = s.unit? j := rfl
@[simp] theorem team_soon (t : Turn) (j : Nat) : (s.soon t).team? j = s.team? j := rfl
@[simp] theorem cluster_soon (t : Turn) (j : Nat) : (s.soon t).cluster? j = s.cluster? j := rfl
@[simp] theorem task_soon (t : Turn) (j : Nat) : (s.soon t).task? j = s.task? j := rfl
@[simp] theorem core_soon (t : Turn) (j : Nat) : (s.soon t).core j = s.core j := rfl
@[simp] theorem score_soon (t : Turn) (j : Nat) : (s.soon t).score j = s.score j := rfl
@[simp] theorem cell_soon (t : Turn) (j : Nat) : (s.soon t).cell j = s.cell j := rfl
@[simp] theorem die_soon (t : Turn) (j : Nat) : (s.soon t).die j = s.die j := rfl
@[simp] theorem ctx_soon (t : Turn) (j : Nat) : (s.soon t).ctx? j = s.ctx? j := rfl
@[simp] theorem link_soon (t : Turn) (j : Nat) : (s.soon t).link j = s.link j := rfl

/-! later -/

@[simp] theorem later_now (d : Nat) (t : Turn) : (s.later d t).now = s.now := rfl
@[simp] theorem later_agenda (d : Nat) (t : Turn) : (s.later d t).agenda = s.agenda := rfl
theorem later_calendar (d : Nat) (t : Turn) : (s.later d t).calendar = s.calendar ++ [(s.now + d, t)] := rfl
@[simp] theorem later_actor (d : Nat) (t : Turn) : (s.later d t).actor = s.actor := rfl
@[simp] theorem later_draws (d : Nat) (t : Turn) : (s.later d t).draws = s.draws := rfl
@[simp] theorem later_mem (d : Nat) (t : Turn) : (s.later d t).mem = s.mem := rfl
@[simp] theorem later_l2 (d : Nat) (t : Turn) : (s.later d t).l2 = s.l2 := rfl
@[simp] theorem later_poison (d : Nat) (t : Turn) : (s.later d t).poison = s.poison := rfl
@[simp] theorem later_struck (d : Nat) (t : Turn) : (s.later d t).struck = s.struck := rfl
@[simp] theorem later_latent (d : Nat) (t : Turn) : (s.later d t).latent = s.latent := rfl
@[simp] theorem later_units (d : Nat) (t : Turn) : (s.later d t).units = s.units := rfl
@[simp] theorem later_teams (d : Nat) (t : Turn) : (s.later d t).teams = s.teams := rfl
@[simp] theorem later_nextTeam (d : Nat) (t : Turn) : (s.later d t).nextTeam = s.nextTeam := rfl
@[simp] theorem later_clusters (d : Nat) (t : Turn) : (s.later d t).clusters = s.clusters := rfl
@[simp] theorem later_nextCluster (d : Nat) (t : Turn) : (s.later d t).nextCluster = s.nextCluster := rfl
@[simp] theorem later_tasks (d : Nat) (t : Turn) : (s.later d t).tasks = s.tasks := rfl
@[simp] theorem later_nextTask (d : Nat) (t : Turn) : (s.later d t).nextTask = s.nextTask := rfl
@[simp] theorem later_cores (d : Nat) (t : Turn) : (s.later d t).cores = s.cores := rfl
@[simp] theorem later_scores (d : Nat) (t : Turn) : (s.later d t).scores = s.scores := rfl
@[simp] theorem later_cells (d : Nat) (t : Turn) : (s.later d t).cells = s.cells := rfl
@[simp] theorem later_dies (d : Nat) (t : Turn) : (s.later d t).dies = s.dies := rfl
@[simp] theorem later_ctxs (d : Nat) (t : Turn) : (s.later d t).ctxs = s.ctxs := rfl
@[simp] theorem later_saved (d : Nat) (t : Turn) : (s.later d t).saved = s.saved := rfl
@[simp] theorem later_nextSaved (d : Nat) (t : Turn) : (s.later d t).nextSaved = s.nextSaved := rfl
@[simp] theorem later_unbacked (d : Nat) (t : Turn) : (s.later d t).unbacked = s.unbacked := rfl
@[simp] theorem later_links (d : Nat) (t : Turn) : (s.later d t).links = s.links := rfl
@[simp] theorem later_mgmt (d : Nat) (t : Turn) : (s.later d t).mgmt = s.mgmt := rfl
@[simp] theorem later_deep (d : Nat) (t : Turn) : (s.later d t).deep = s.deep := rfl
@[simp] theorem unit_later (d : Nat) (t : Turn) (j : Nat) : (s.later d t).unit? j = s.unit? j := rfl
@[simp] theorem team_later (d : Nat) (t : Turn) (j : Nat) : (s.later d t).team? j = s.team? j := rfl
@[simp] theorem cluster_later (d : Nat) (t : Turn) (j : Nat) : (s.later d t).cluster? j = s.cluster? j := rfl
@[simp] theorem task_later (d : Nat) (t : Turn) (j : Nat) : (s.later d t).task? j = s.task? j := rfl
@[simp] theorem core_later (d : Nat) (t : Turn) (j : Nat) : (s.later d t).core j = s.core j := rfl
@[simp] theorem score_later (d : Nat) (t : Turn) (j : Nat) : (s.later d t).score j = s.score j := rfl
@[simp] theorem cell_later (d : Nat) (t : Turn) (j : Nat) : (s.later d t).cell j = s.cell j := rfl
@[simp] theorem die_later (d : Nat) (t : Turn) (j : Nat) : (s.later d t).die j = s.die j := rfl
@[simp] theorem ctx_later (d : Nat) (t : Turn) (j : Nat) : (s.later d t).ctx? j = s.ctx? j := rfl
@[simp] theorem link_later (d : Nat) (t : Turn) (j : Nat) : (s.later d t).link j = s.link j := rfl

/-! laterFree -/

@[simp] theorem laterFree_now (i : Event) : (s.laterFree i).now = s.now := rfl
@[simp] theorem laterFree_agenda (i : Event) : (s.laterFree i).agenda = s.agenda := rfl
theorem laterFree_calendar (i : Event) : (s.laterFree i).calendar = s.calendar ++ [(s.now + 1 + Config.latency s.draws, .event i)] := rfl
@[simp] theorem laterFree_actor (i : Event) : (s.laterFree i).actor = s.actor := rfl
theorem laterFree_draws (i : Event) : (s.laterFree i).draws = s.draws + 1 := rfl
@[simp] theorem laterFree_mem (i : Event) : (s.laterFree i).mem = s.mem := rfl
@[simp] theorem laterFree_l2 (i : Event) : (s.laterFree i).l2 = s.l2 := rfl
@[simp] theorem laterFree_poison (i : Event) : (s.laterFree i).poison = s.poison := rfl
@[simp] theorem laterFree_struck (i : Event) : (s.laterFree i).struck = s.struck := rfl
@[simp] theorem laterFree_latent (i : Event) : (s.laterFree i).latent = s.latent := rfl
@[simp] theorem laterFree_units (i : Event) : (s.laterFree i).units = s.units := rfl
@[simp] theorem laterFree_teams (i : Event) : (s.laterFree i).teams = s.teams := rfl
@[simp] theorem laterFree_nextTeam (i : Event) : (s.laterFree i).nextTeam = s.nextTeam := rfl
@[simp] theorem laterFree_clusters (i : Event) : (s.laterFree i).clusters = s.clusters := rfl
@[simp] theorem laterFree_nextCluster (i : Event) : (s.laterFree i).nextCluster = s.nextCluster := rfl
@[simp] theorem laterFree_tasks (i : Event) : (s.laterFree i).tasks = s.tasks := rfl
@[simp] theorem laterFree_nextTask (i : Event) : (s.laterFree i).nextTask = s.nextTask := rfl
@[simp] theorem laterFree_cores (i : Event) : (s.laterFree i).cores = s.cores := rfl
@[simp] theorem laterFree_scores (i : Event) : (s.laterFree i).scores = s.scores := rfl
@[simp] theorem laterFree_cells (i : Event) : (s.laterFree i).cells = s.cells := rfl
@[simp] theorem laterFree_dies (i : Event) : (s.laterFree i).dies = s.dies := rfl
@[simp] theorem laterFree_ctxs (i : Event) : (s.laterFree i).ctxs = s.ctxs := rfl
@[simp] theorem laterFree_saved (i : Event) : (s.laterFree i).saved = s.saved := rfl
@[simp] theorem laterFree_nextSaved (i : Event) : (s.laterFree i).nextSaved = s.nextSaved := rfl
@[simp] theorem laterFree_unbacked (i : Event) : (s.laterFree i).unbacked = s.unbacked := rfl
@[simp] theorem laterFree_links (i : Event) : (s.laterFree i).links = s.links := rfl
@[simp] theorem laterFree_mgmt (i : Event) : (s.laterFree i).mgmt = s.mgmt := rfl
@[simp] theorem laterFree_deep (i : Event) : (s.laterFree i).deep = s.deep := rfl
@[simp] theorem unit_laterFree (i : Event) (j : Nat) : (s.laterFree i).unit? j = s.unit? j := rfl
@[simp] theorem team_laterFree (i : Event) (j : Nat) : (s.laterFree i).team? j = s.team? j := rfl
@[simp] theorem cluster_laterFree (i : Event) (j : Nat) : (s.laterFree i).cluster? j = s.cluster? j := rfl
@[simp] theorem task_laterFree (i : Event) (j : Nat) : (s.laterFree i).task? j = s.task? j := rfl
@[simp] theorem core_laterFree (i : Event) (j : Nat) : (s.laterFree i).core j = s.core j := rfl
@[simp] theorem score_laterFree (i : Event) (j : Nat) : (s.laterFree i).score j = s.score j := rfl
@[simp] theorem cell_laterFree (i : Event) (j : Nat) : (s.laterFree i).cell j = s.cell j := rfl
@[simp] theorem die_laterFree (i : Event) (j : Nat) : (s.laterFree i).die j = s.die j := rfl
@[simp] theorem ctx_laterFree (i : Event) (j : Nat) : (s.laterFree i).ctx? j = s.ctx? j := rfl
@[simp] theorem link_laterFree (i : Event) (j : Nat) : (s.laterFree i).link j = s.link j := rfl

/-! Parts after an update of their own kind -/

theorem unit_putUnit (u v : Nat) (x : UnitSt) : (s.putUnit u x).unit? v = if v = u then some x else s.unit? v := Tab.find?_put ..
@[simp] theorem unit_putUnit_self (u : Nat) (x : UnitSt) : (s.putUnit u x).unit? u = some x := Tab.find?_put_self ..
theorem unit_putUnit_ne {u v : Nat} (x : UnitSt) (h : v ≠ u) : (s.putUnit u x).unit? v = s.unit? v := Tab.find?_put_ne _ _ h
theorem unit_modUnit (u v : Nat) (f : UnitSt → UnitSt) : (s.modUnit u f).unit? v = if v = u then (s.unit? u).map f else s.unit? v :=
  Tab.find?_modify ..
@[simp] theorem unit_modUnit_self (u : Nat) (f : UnitSt → UnitSt) : (s.modUnit u f).unit? u = (s.unit? u).map f := by simp [unit_modUnit]
theorem unit_modUnit_ne {u v : Nat} (f : UnitSt → UnitSt) (h : v ≠ u) : (s.modUnit u f).unit? v = s.unit? v := by simp [unit_modUnit, h]
theorem team_putTeam (k j : Nat) (x : Team) : (s.putTeam k x).team? j = if j = k then some x else s.team? j := Tab.find?_put ..
theorem team_modTeam (k j : Nat) (f : Team → Team) : (s.modTeam k f).team? j = if j = k then (s.team? k).map f else s.team? j :=
  Tab.find?_modify ..
@[simp] theorem team_modTeam_self (k : Nat) (f : Team → Team) : (s.modTeam k f).team? k = (s.team? k).map f := by simp [team_modTeam]
theorem cluster_modCluster (k j : Nat) (f : Cluster → Cluster) :
    (s.modCluster k f).cluster? j = if j = k then (s.cluster? k).map f else s.cluster? j := Tab.find?_modify ..
theorem task_modTask (k j : Nat) (f : Task → Task) : (s.modTask k f).task? j = if j = k then (s.task? k).map f else s.task? j :=
  Tab.find?_modify ..
@[simp] theorem task_modTask_self (k : Nat) (f : Task → Task) : (s.modTask k f).task? k = (s.task? k).map f := by simp [task_modTask]
theorem ctx_modCtx (k j : Nat) (f : Ctx → Ctx) : (s.modCtx k f).ctx? j = if j = k then (s.ctx? k).map f else s.ctx? j :=
  Tab.find?_modify ..
@[simp] theorem ctx_modCtx_self (k : Nat) (f : Ctx → Ctx) : (s.modCtx k f).ctx? k = (s.ctx? k).map f := by simp [ctx_modCtx]
theorem core_putCore (c j : Nat) (x : Core) : (s.putCore c x).core j = if j = c then x else s.core j := Tab.get_put ..
theorem core_modCore (c j : Nat) (f : Core → Core) : (s.modCore c f).core j = if j = c then f (s.core c) else s.core j := Tab.get_put ..
@[simp] theorem core_modCore_self (c : Nat) (f : Core → Core) : (s.modCore c f).core c = f (s.core c) := by simp [core_modCore]
theorem core_modCore_ne {c j : Nat} (f : Core → Core) (h : j ≠ c) : (s.modCore c f).core j = s.core j := by simp [core_modCore, h]
@[simp] theorem core_modMx_self (c : Nat) (f : Matrix → Matrix) : (s.modMx c f).core c = { s.core c with mx := f (s.core c).mx } := by
  simp [modMx]
theorem core_modMx_ne {c j : Nat} (f : Matrix → Matrix) (h : j ≠ c) : (s.modMx c f).core j = s.core j := core_modCore_ne _ _ h
@[simp] theorem core_modCi_self (c : Nat) (f : Cistern → Cistern) : (s.modCi c f).core c = { s.core c with ci := f (s.core c).ci } := by
  simp [modCi]
theorem core_modCi_ne {c j : Nat} (f : Cistern → Cistern) (h : j ≠ c) : (s.modCi c f).core j = s.core j := core_modCore_ne _ _ h
theorem score_modScore (c j : Nat) (f : StrandCore → StrandCore) :
    (s.modScore c f).score j = if j = c then f (s.score c) else s.score j := Tab.get_put ..
@[simp] theorem score_modScore_self (c : Nat) (f : StrandCore → StrandCore) : (s.modScore c f).score c = f (s.score c) := by
  simp [score_modScore]
theorem cell_modCell (c j : Nat) (f : Cell → Cell) : (s.modCell c f).cell j = if j = c then f (s.cell c) else s.cell j := Tab.get_put ..
@[simp] theorem cell_modCell_self (c : Nat) (f : Cell → Cell) : (s.modCell c f).cell c = f (s.cell c) := by simp [cell_modCell]
theorem cell_modCell_ne {c j : Nat} (f : Cell → Cell) (h : j ≠ c) : (s.modCell c f).cell j = s.cell j := by simp [cell_modCell, h]
@[simp] theorem cell_modDebug_self (c : Nat) (f : Debug → Debug) : (s.modDebug c f).cell c = { s.cell c with dbg := f (s.cell c).dbg } := by
  simp [modDebug]
theorem die_modDie (d j : Nat) (f : Die → Die) : (s.modDie d f).die j = if j = d then f (s.die d) else s.die j := Tab.get_put ..
@[simp] theorem die_modDie_self (d : Nat) (f : Die → Die) : (s.modDie d f).die d = f (s.die d) := by simp [die_modDie]
theorem die_modDie_ne {d j : Nat} (f : Die → Die) (h : j ≠ d) : (s.modDie d f).die j = s.die j := by simp [die_modDie, h]
theorem link_modLink (k j : Nat) (f : Link → Link) : (s.modLink k f).link j = if j = k then f (s.link k) else s.link j := Tab.get_put ..
@[simp] theorem link_modLink_self (k : Nat) (f : Link → Link) : (s.modLink k f).link k = f (s.link k) := by simp [link_modLink]
theorem link_modLink_ne {k j : Nat} (f : Link → Link) (h : j ≠ k) : (s.modLink k f).link j = s.link j := by simp [link_modLink, h]

/-- What is planned stands in the calendar under its cycle. -/
theorem mem_later (d : Nat) (t : Turn) : (s.now + d, t) ∈ (s.later d t).calendar := by simp [later_calendar]
theorem mem_laterFree (i : Event) : (s.now + 1 + Config.latency s.draws, .event i) ∈ (s.laterFree i).calendar := by simp [laterFree_calendar]
theorem mem_soon (t : Turn) : t ∈ (s.soon t).agenda := by simp [soon_agenda]

end Sys2Proof.Machine.State
end

