-- ==== Sys2Proof/Laws/Memory.lean ====
section
/-! SUPPORT. What the shared operations on memory can do: each keeps the canonical form, and leaves every part of the state but those it names. -/

namespace Sys2Proof.Machine

/-- A fold of steps each of which keeps a part of the state keeps that part. -/
theorem foldl_keeps {σ β α : Type} (f : σ → β → σ) (g : σ → α) (h : ∀ s b, g (f s b) = g s) :
    ∀ (l : List β) s, g (l.foldl f s) = g s
  | [], _ => rfl
  | b :: l, s => by rw [List.foldl_cons, foldl_keeps f g h l, h]

/-- What a fold of writes leaves at a key: the last value written there, or what stood there. -/
theorem get_foldl_set {α : Type} [DecidableEq α] (d : α) (ws : List (Nat × α)) :
    ∀ (m : Tab α) (a : Nat), Tab.get d (ws.foldl (fun m w => Tab.set d m w.1 w.2) m) a =
      ((ws.reverse.find? (fun w => w.1 == a)).map (·.2)).getD (Tab.get d m a) := by
  induction ws with
  | nil => intro m a; rfl
  | cons w ws ih =>
    intro m a
    rw [List.foldl_cons, ih, Tab.get_set, List.reverse_cons, List.find?_append]
    cases h : ws.reverse.find? (fun w => w.1 == a) with
    | some x => simp
    | none =>
      by_cases e : w.1 = a
      · simp [e]
      · simp [e, Ne.symm e]

/-! Writes at the slices -/

/-- The parts that a write at the slices may change, erased. -/
def besideMemory (s : State) : State := { s with mem := [], l2 := [], poison := [], latent := [], cores := [], deep := [] }

theorem besideMemory_modCi (s : State) (c : Nat) (f : Cistern → Cistern) : besideMemory (s.modCi c f) = besideMemory s := rfl

theorem besideMemory_setL2 (s : State) (k : Nat) (x : L2Line) : besideMemory (setL2 s k x) = besideMemory s := rfl

theorem besideMemory_reach (s : State) (d : Nat) : besideMemory (reach s d) = besideMemory s := by
  unfold reach; split <;> rfl

theorem mem_reach (s : State) (d : Nat) : (reach s d).mem = s.mem := by unfold reach; split <;> rfl

theorem besideMemory_obtainWrite (s : State) (pa : Nat) : besideMemory (obtainWrite s pa) = besideMemory s := by
  unfold obtainWrite
  split
  · split
    · rfl
    · rw [besideMemory_reach, besideMemory_setL2]
  · rfl

theorem mem_obtainWrite (s : State) (pa : Nat) : (obtainWrite s pa).mem = s.mem := by
  unfold obtainWrite
  split
  · split
    · rfl
    · rw [mem_reach]; rfl
  · rfl

theorem besideMemory_clearPoison (s : State) (ws : List (Nat × Byte)) : besideMemory (clearPoison s ws) = besideMemory s := by
  unfold clearPoison
  dsimp only
  split <;> split <;> rfl

theorem mem_clearPoison (s : State) (ws : List (Nat × Byte)) : (clearPoison s ws).mem = s.mem := by
  unfold clearPoison
  dsimp only
  split <;> split <;> rfl

/-- One step of the update of the copies at their home cores changes a CAC line at most. -/
theorem updateHomed_keeps {α : Type} (g : State → α) (h : ∀ s c f, g (s.modCi c f) = g s) (s : State) (ws : List (Nat × Byte)) :
    g (updateHomed s ws) = g s := by
  unfold updateHomed
  refine foldl_keeps _ g (fun s w => ?_) ws s
  dsimp only
  split
  · rfl
  · split
    · rfl
    · split
      · rfl
      · exact h _ _ _

theorem besideMemory_updateHomed (s : State) (ws : List (Nat × Byte)) : besideMemory (updateHomed s ws) = besideMemory s :=
  updateHomed_keeps besideMemory (fun _ _ _ => rfl) s ws

theorem mem_updateHomed (s : State) (ws : List (Nat × Byte)) : (updateHomed s ws).mem = s.mem :=
  updateHomed_keeps State.mem (fun _ _ _ => rfl) s ws

/-- The bytes of a write that the host does not lose (R261). -/
def backed (s : State) (ws : List (Nat × Byte)) : List (Nat × Byte) :=
  if s.unbacked = [] then ws else ws.filter (fun w => !unbackedAt s w.1)

/-- A write of bytes changes memory as its backed bytes say. -/
theorem mem_poke (s : State) (ws : List (Nat × Byte)) :
    (poke s ws).mem = (backed s ws).foldl (fun m w => Tab.set 0 m w.1 w.2) s.mem := by
  unfold poke backed
  simp only [mem_updateHomed, mem_clearPoison]
  rw [foldl_keeps _ State.mem (fun s l => mem_obtainWrite s (128 * l))]

/-- A write of bytes changes nothing but memory, the lines' states, poison, the copies in CACs, and the dies it asks for. -/
theorem besideMemory_poke (s : State) (ws : List (Nat × Byte)) : besideMemory (poke s ws) = besideMemory s := by
  unfold poke
  simp only [besideMemory_updateHomed, besideMemory_clearPoison]
  rw [foldl_keeps _ besideMemory (fun s l => besideMemory_obtainWrite s (128 * l))]
  rfl

theorem units_poke (s : State) (ws : List (Nat × Byte)) : (poke s ws).units = s.units := by
  have h := congrArg State.units (besideMemory_poke s ws)
  exact h

theorem wf_poke {s : State} (h : Memory.wf s.mem = true) (ws : List (Nat × Byte)) : Memory.wf (poke s ws).mem = true := by
  rw [mem_poke]
  exact Tab.wf_foldl_set (backed s ws) (fun w : Nat × Byte => w.1) (fun w => w.2) h

/-- Waking plans events and changes nothing else. -/
theorem plan_keeps {α : Type} (g : State → α) (h : ∀ s t, g (State.soon s t) = g s) (evs : List Event) (s : State) :
    g (evs.foldl (fun s i => if s.planned i then s else s.soon (.event i)) s) = g s :=
  foldl_keeps _ g (fun s i => by split <;> first | rfl | exact h _ _) evs s

theorem mem_sliceWrite (s : State) (ws : List (Nat × Byte)) : (sliceWrite s ws).mem = (poke s ws).mem :=
  plan_keeps State.mem (fun _ _ => rfl) _ _

/-- What a write at the slices and what it wakes may change, erased. -/
def besideSlices (s : State) : State := { besideMemory s with agenda := [] }

theorem besideSlices_sliceWrite (s : State) (ws : List (Nat × Byte)) : besideSlices (sliceWrite s ws) = besideSlices s := by
  have h := plan_keeps besideSlices (fun _ _ => rfl) ((ws.flatMap (fun w => wakes s w.1)).eraseDups) (poke s ws)
  have h' : besideSlices (poke s ws) = besideSlices s := congrArg (fun s => { s with agenda := [] }) (besideMemory_poke s ws)
  unfold sliceWrite
  exact h.trans h'

theorem wf_sliceWrite {s : State} (h : Memory.wf s.mem = true) (ws : List (Nat × Byte)) : Memory.wf (sliceWrite s ws).mem = true := by
  rw [mem_sliceWrite]
  exact wf_poke h ws

/-! A core's own accesses -/

theorem wf_cacSend {s : State} (h : Memory.wf s.mem = true) (c line : Nat) : Memory.wf (cacSend s c line).mem = true := by
  unfold cacSend
  split
  · exact h
  · split
    · exact h
    · refine wf_sliceWrite ?_ _
      exact h

theorem wf_cacDrop {s : State} (h : Memory.wf s.mem = true) (c line : Nat) : Memory.wf (cacDrop s c line).mem = true :=
  wf_cacSend h c line

theorem mem_cacTouch (s : State) (c key : Nat) : (cacTouch s c key).mem = s.mem := rfl

theorem wf_coreStore {s : State} (h : Memory.wf s.mem = true) (c : Nat) (ws : List (Nat × Byte)) (b : Bool) :
    Memory.wf (coreStore s c ws b).1.mem = true := by
  unfold coreStore
  split
  · exact h
  · dsimp only
    split
    · exact wf_sliceWrite (wf_cacDrop h _ _) _
    · split
      · split
        · refine wf_sliceWrite (s := cacTouch _ _ _) ?_ _
          exact wf_cacSend h _ _
        · exact h
      · exact wf_sliceWrite h _

/-! Writes by virtual address -/

theorem besideMemory_pokeVirt (s : State) (ctx va : Nat) (bs : List Byte) : besideMemory (pokeVirt s ctx va bs) = besideMemory s := by
  unfold pokeVirt
  dsimp only
  split
  · exact besideMemory_poke s _
  · rfl

theorem wf_pokeVirt {s : State} (h : Memory.wf s.mem = true) (ctx va : Nat) (bs : List Byte) :
    Memory.wf (pokeVirt s ctx va bs).mem = true := by
  unfold pokeVirt
  dsimp only
  split
  · exact wf_poke h _
  · exact h

/-! The host's writes -/

theorem wf_hostWrite {s : State} (h : Memory.wf s.mem = true) (pa : Nat) (bs : List Byte) : Memory.wf (hostWrite s pa bs).mem = true := by
  unfold hostWrite
  dsimp only
  split
  · exact h
  · unfold wakeAll
    rw [plan_keeps State.mem (fun _ _ => rfl), mem_updateHomed, mem_clearPoison]
    refine Tab.wf_foldl_set (run pa bs) (fun w : Nat × Byte => w.1) (fun w => w.2) ?_
    have e : ∀ (l : List Nat) s, (l.foldl (fun s l => setL2 s l { l2Line s l with st := .i, dirty := false }) s).mem = s.mem :=
      foldl_keeps _ State.mem (fun _ _ => rfl)
    rw [e]
    exact h

/-- Memory after reset lists nothing, which is the canonical form. -/
theorem wf_reset : Memory.wf State.reset.mem = true := rfl

end Sys2Proof.Machine
end

