-- ==== Sys2Proof/Laws/Shapes.lean ====
section
/-! SUPPORT. Each format's parser reads back the tail its encoder writes. -/

namespace Sys2Proof

/-- What the parsers see of a guarded head. -/
abbrev encOf (h : Hdr) (tail : List Nat) : Enc := ⟨h.hint, decide (guardBit h.guard = 1), tail⟩

theorem bv_ofNat {n : Nat} (x : BitVec n) : BitVec.ofNat n x.toNat = x := by simp

theorem pN_e (k : Hint → Instr) (code : Nat) (x : Hint) : pN k ⟨x, decide (0 = 1), (eN code x).tail⟩ = some (k x) := rfl

theorem pJT_e (k : CodeImm → Instr) (code : Nat) (x : CodeImm) : pJT k (encOf x.h (eJT code x).tail) = some (k x) := by
  obtain ⟨h1, h2, h3⟩ := wordJ_fields (d := 0) x.imm x.h.guard (by decide)
  simp only [pJT, eJT, h1, h2, guardOf_bits _ h3, if_true]

theorem pJD_e (k : MovImm → Instr) (code : Nat) (x : MovImm) : pJD k (encOf x.h (eJD code x).tail) = some (k x) := by
  obtain ⟨h1, h2, h3⟩ := wordJ_fields x.imm x.h.guard x.d.code_lt
  simp only [pJD, eJD, h1, h2, guardOf_bits _ h3, Operand.ofCode_code]

theorem pB_e (k : Branch → Instr) (code : Nat) (x : Branch) : pB k (encOf x.h (eB code x).tail) = some (k x) := by
  obtain ⟨h1, h2, h3, -⟩ := wordB_fields x.t (m := 0) x.h.guard (by decide)
  simp only [pB, eB, h1, h2, guardOf_bits _ h3]
  rfl

theorem pBg_e (k : TestBranch → Instr) (code : Nat) (x : TestBranch) :
    pBg k ⟨x.hint, decide (1 = 1), (eBg code x).tail⟩ = some (k x) := by
  obtain ⟨h1, h2, h3, -⟩ := wordB_fields x.t (m := 0) (some x.g) (by decide)
  have hg := guardOf_bits _ h3
  simp only [guardBit, Option.isSome, b2n, if_true] at hg
  simp only [pBg, eBg, h1, h2, hg, if_true]

theorem pJmpi_e (k : JumpInd → Instr) (code : Nat) (x : JumpInd) : pJmpi k (encOf x.h (eJmpi code x).tail) = some (k x) := by
  obtain ⟨h1, h2, h3, h4, -⟩ := wordA_fields (d := 0) (m := 0) x.h.guard (by decide) x.a.code_lt (by decide)
  simp only [pJmpi, eJmpi, h1, h2, h3, guardOf_bits _ h4, Operand.ofCode_code]
  rfl

theorem pCalli_e (k : CallInd → Instr) (code : Nat) (x : CallInd) :
    pCalli k (encOf x.h (eCalli code x).tail) = some (k x) := by
  obtain ⟨h1, h2, h3, h4, -⟩ := wordA_fields (m := 0) x.h.guard x.d.code_lt x.a.code_lt (by decide)
  simp only [pCalli, eCalli, h1, h2, h3, guardOf_bits _ h4, Operand.ofCode_code]
  rfl

theorem pBrd_e (k : DivBranch → Instr) (code : Nat) (x : DivBranch) :
    pBrd k ⟨x.hint, decide (1 = 1), (eBrd code x).tail⟩ = some (k x) := by
  obtain ⟨h1, h2, h3, -⟩ := wordB_fields x.t (m := 0) (some x.g) (by decide)
  have hg := guardOf_bits _ h3
  simp only [guardBit, Option.isSome, b2n, if_true] at hg
  have hr := targetBits_lt x.rc
  have h5 : bits (targetBits x.rc) 31 25 = 0 := by simp only [bits]; norm_num at *; omega
  have h6 : targetOf (targetBits x.rc) = x.rc := targetOf_bits _ (Nat.mod_eq_of_lt hr)
  simp only [pBrd, eBrd, h1, h2, h5, h6, hg]
  rfl

theorem pLoop_e (k : LoopReg → Instr) (code : Nat) (x : LoopReg) :
    pLoop k ⟨x.hint, decide (0 = 1), (eLoop code x).tail⟩ = some (k x) := by
  obtain ⟨h1, h2, h3, h4⟩ := wordB_fields x.fin (m := x.n.val) none x.n.isLt
  have hs := x.src.code_lt
  have h5 : bits x.src.code 31 11 = 0 := by simp only [bits]; norm_num; omega
  have h6 : bits x.src.code 10 0 = x.src.code := by simp only [bits]; norm_num; omega
  have h7 : bits (wordB x.fin x.n.val none) 31 27 = 0 := h4
  simp only [pLoop, eLoop, h1, h2, h5, h6, h7, Operand.ofCode_code, fin_ofNat_val]
  rfl

theorem pLoopi_e (k : LoopImm → Instr) (code : Nat) (x : LoopImm) :
    pLoopi k ⟨x.hint, decide (0 = 1), (eLoopi code x).tail⟩ = some (k x) := by
  obtain ⟨h1, h2, h3, h4⟩ := wordB_fields x.fin (m := x.n.val) none x.n.isLt
  have h7 : bits (wordB x.fin x.n.val none) 31 27 = 0 := h4
  simp only [pLoopi, eLoopi, bv_ofNat, fin_ofNat_val, h1, h2, h7, fin_ofNat_val]
  rfl

section
variable {μ : Type} {pm : Nat → Option μ} {code m : Nat}

theorem pUn_e (k : Un μ → Instr) (x : Un μ) (hm : m < 32) (hp : pm m = some x.m) :
    pUn pm k (encOf x.h (eUn code m x).tail) = some (k x) := by
  obtain ⟨h1, h2, h3, h4, -⟩ := wordA_fields x.h.guard x.d.code_lt x.a.code_lt hm
  simp only [pUn, eUn, h1, h2, h3, hp, guardOf_bits _ h4, Operand.ofCode_code]

/-- The first word of format C with no narrow fields. -/
theorem word0_plain {d a : Nat} (hd : d < 2048) (ha : a < 2048) :
    let w := d + a * 2 ^ 11
    bits w 10 0 = d ∧ bits w 21 11 = a ∧ bits w 31 22 = 0 ∧ bits w 10 4 = d / 16 ∧ bits w 3 0 = d % 16 ∧
      bits w 10 3 = d / 8 ∧ bits w 2 0 = d % 8 ∧ bits w 31 20 = a / 512 ∧ bits w 19 11 = a % 512 := by
  intro w
  simp only [bits, w]
  norm_num
  omega

theorem pUnC_e (k : Un μ → Instr) (x : Un μ) (hm : m < 32) (hp : pm m = some x.m) :
    pUnC pm k (encOf x.h (eUnC code m x).tail) = some (k x) := by
  obtain ⟨h1, h2, h3, h4, h5, h6, h7, h8, h9, h10, -⟩ := wordA_fields (d := 0) (a := 0) x.h.guard (by decide) (by decide) hm
  obtain ⟨g1, g2, g3, -⟩ := word0_plain x.d.code_lt x.a.code_lt
  simp only [pUnC, eUnC, g1, g2, g3, h3, h10, hp, guardOf_bits _ h4, Operand.ofCode_code]
  rfl

theorem pBin_e (k : Bin μ → Instr) (x : Bin μ) (hm : m < 32) (hp : pm m = some x.m) :
    pBin pm k (encOf x.h (eBin code m x).tail) = some (k x) := by
  obtain ⟨h1, h2, h3, h4, -⟩ := wordA_fields (a := 0) x.h.guard x.b.code_lt (by decide) hm
  obtain ⟨g1, g2, g3, -⟩ := word0_plain x.d.code_lt x.a.code_lt
  simp only [pBin, eBin, g1, g2, g3, h1, h2, h3, hp, guardOf_bits _ h4, Operand.ofCode_code]
  rfl

theorem pred_lt (p : Fin 16) : p.val < 2048 ∧ p.val / 16 = 0 ∧ p.val % 16 = p.val := by
  have := p.isLt
  omega

theorem pBinP_e (k : BinP μ → Instr) (x : BinP μ) (hm : m < 32) (hp : pm m = some x.m) :
    pBinP pm k (encOf x.h (eBinP code m x).tail) = some (k x) := by
  obtain ⟨p1, p2, p3⟩ := pred_lt x.pk
  obtain ⟨h1, h2, h3, h4, -, -, -, -, -, -, h5, h6, -⟩ := wordA_fields x.h.guard x.b.code_lt p1 hm
  obtain ⟨g1, g2, g3, -⟩ := word0_plain x.d.code_lt x.a.code_lt
  rw [p2] at h5
  rw [p3] at h6
  simp only [pBinP, eBinP, fin_ofNat_val, g1, g2, g3, h1, h3, h5, h6, hp, guardOf_bits _ h4, Operand.ofCode_code]
  rfl

theorem pTern_e (k : Tern μ → Instr) (x : Tern μ) (hm : m < 32) (hp : pm m = some x.m) :
    pTern pm k (encOf x.h (eTern code m x).tail) = some (k x) := by
  obtain ⟨h1, h2, h3, h4, -⟩ := wordA_fields x.h.guard x.b.code_lt x.c.code_lt hm
  obtain ⟨g1, g2, g3, -⟩ := word0_plain x.d.code_lt x.a.code_lt
  simp only [pTern, eTern, g1, g2, g3, h1, h2, h3, hp, guardOf_bits _ h4, Operand.ofCode_code]
  rfl

theorem pOptB_e (k : OptB μ → Instr) (x : OptB μ) (hm : m < 16) (hp : pm m = some x.m) :
    pOptB pm k (encOf x.h (eOptB code m x).tail) = some (k x) := by
  obtain ⟨h, d, a, b, md⟩ := x
  obtain ⟨g1, g2, g3, -⟩ := word0_plain d.code_lt a.code_lt
  rcases b with _ | b
  · obtain ⟨h1, h2, h3, h4, -, -, -, -, -, -, -, -, -, -, -, -, -, -, -, -, h5, h6⟩ :=
      wordA_fields (d := 0) (a := 0) (m := m) h.guard (by decide) (by decide) (by omega)
    have e1 : m % 16 = m := Nat.mod_eq_of_lt hm
    have e2 : m / 16 = 0 := Nat.div_eq_of_lt hm
    rw [e1] at h5
    rw [e2] at h6
    simp only [pOptB, eOptB, g1, g2, g3, h1, h2, h5, h6, bit_eq, isZeroField, guardOf_bits _ h4, Operand.ofCode_code,
      show pm m = some md from hp]
    rfl
  · obtain ⟨h1, h2, h3, h4, -, -, -, -, -, -, -, -, -, -, -, -, -, -, -, -, h5, h6⟩ :=
      wordA_fields (a := 0) (m := m + 16) h.guard b.code_lt (by decide) (by omega)
    have e1 : (m + 16) % 16 = m := by omega
    have e2 : (m + 16) / 16 = 1 := by omega
    rw [e1] at h5
    rw [e2] at h6
    simp only [pOptB, eOptB, g1, g2, g3, h1, h2, h5, h6, bit_eq, guardOf_bits _ h4, Operand.ofCode_code,
      show pm m = some md from hp]
    rfl

theorem pCmpP_e (k : CmpP μ → Instr) (x : CmpP μ) (hm : m < 32) (hp : pm m = some x.m) :
    pCmpP pm k (encOf x.h (eCmpP code m x).tail) = some (k x) := by
  obtain ⟨p1, p2, p3⟩ := pred_lt x.pk
  obtain ⟨q1, q2, q3⟩ := pred_lt x.pd
  obtain ⟨h1, h2, h3, h4, -, -, -, -, -, -, h5, h6, -⟩ := wordA_fields x.h.guard x.b.code_lt p1 hm
  obtain ⟨g1, g2, g3, g4, g5, -⟩ := word0_plain q1 x.a.code_lt
  rw [p2] at h5
  rw [p3] at h6
  rw [q2] at g4
  rw [q3] at g5
  simp only [pCmpP, eCmpP, fin_ofNat_val, g2, g3, g4, g5, h1, h3, h5, h6, hp, guardOf_bits _ h4, Operand.ofCode_code]
  rfl

theorem pCmpI_e (k : CmpI μ → Instr) (x : CmpI μ) (hm : m < 32) (hp : pm m = some x.m) :
    pCmpI pm k (encOf x.h (eCmpI code m x).tail) = some (k x) := by
  obtain ⟨q1, q2, q3⟩ := pred_lt x.pd
  obtain ⟨h1, h2, h3, h4, h5, -, h6, -⟩ := wordA_fields x.h.guard q1 x.a.code_lt hm
  rw [q2] at h5
  rw [q3] at h6
  simp only [pCmpI, eCmpI, bv_ofNat, fin_ofNat_val, h2, h3, h5, h6, hp, guardOf_bits _ h4, Operand.ofCode_code]
  rfl

theorem pImmK_e (k : ImmK μ → Instr) (x : ImmK μ) (hm : m < 32) (hp : pm m = some x.m) :
    pImmK pm k (encOf x.h (eImmK code m x).tail) = some (k x) := by
  obtain ⟨h1, h2, h3, h4, -⟩ := wordA_fields x.h.guard x.d.code_lt x.a.code_lt hm
  simp only [pImmK, eImmK, bv_ofNat, h1, h2, h3, hp, guardOf_bits _ h4, Operand.ofCode_code]

theorem pImmE_e (k : ImmE μ → Instr) (x : ImmE μ) (hm : m < 32) (hp : pm m = some x.m) :
    pImmE pm k (encOf x.h (eImmE code m x).tail) = some (k x) := by
  obtain ⟨h1, h2, h3, h4, -⟩ := wordA_fields (a := 0) x.h.guard x.b.code_lt (by decide) hm
  obtain ⟨g1, g2, g3, -⟩ := word0_plain x.d.code_lt x.a.code_lt
  simp only [pImmE, eImmE, bv_ofNat, g1, g2, g3, h1, h2, h3, hp, guardOf_bits _ h4, Operand.ofCode_code]
  rfl

theorem pNBin_e (k : NBin μ → Instr) (x : NBin μ) (hm : m < 32) (hp : pm m = some x.m) :
    pNBin pm k (encOf x.h (eNBin code m x).tail) = some (k x) := by
  obtain ⟨h1, h2, h3, h4, -⟩ := wordA_fields (a := 0) x.h.guard x.b.code_lt (by decide) hm
  obtain ⟨g1, g2, -, -, n1, n2, n3⟩ := word0_fields x.d.code_lt x.a.code_lt (narrowBits_lt x.nar)
  simp only [pNBin, eNBin, g1, g2, h1, h2, h3, hp, guardOf_bits _ h4, narrowFields_bits _ n1 n2 n3, Operand.ofCode_code]
  rfl

theorem pNTern_e (k : NTern μ → Instr) (x : NTern μ) (hm : m < 32) (hp : pm m = some x.m) :
    pNTern pm k (encOf x.h (eNTern code m x).tail) = some (k x) := by
  obtain ⟨h1, h2, h3, h4, -⟩ := wordA_fields x.h.guard x.b.code_lt x.c.code_lt hm
  obtain ⟨g1, g2, -, -, n1, n2, n3⟩ := word0_fields x.d.code_lt x.a.code_lt (narrowBits_lt x.nar)
  simp only [pNTern, eNTern, g1, g2, h1, h2, h3, hp, guardOf_bits _ h4, narrowFields_bits _ n1 n2 n3, Operand.ofCode_code]

theorem pNCmp_e (k : NCmp μ → Instr) (x : NCmp μ) (hm : m < 32) (hp : pm m = some x.m) :
    pNCmp pm k (encOf x.h (eNCmp code m x).tail) = some (k x) := by
  obtain ⟨p1, p2, p3⟩ := pred_lt x.pk
  obtain ⟨q1, q2, q3⟩ := pred_lt x.pd
  obtain ⟨h1, h2, h3, h4, -, -, -, -, -, -, h5, h6, -⟩ := wordA_fields x.h.guard x.b.code_lt p1 hm
  obtain ⟨-, g2, g4, g5, n1, n2, n3⟩ := word0_fields q1 x.a.code_lt (narrowBits_lt x.nar)
  rw [p2] at h5
  rw [p3] at h6
  rw [q2] at g4
  rw [q3] at g5
  simp only [pNCmp, eNCmp, fin_ofNat_val, g2, g4, g5, h1, h3, h5, h6, hp, guardOf_bits _ h4, narrowFields_bits _ n1 n2 n3, Operand.ofCode_code]
  rfl

theorem pMem_e (k : Mem μ → Instr) (x : Mem μ) (hm : m < 1024) (hp : pm m = some x.m) :
    pMem pm k (encOf x.h (eMem code m x).tail) = some (k x) := by
  obtain ⟨h1, h2, h3⟩ := wordM1_fields x.off x.h.guard x.s.code_lt
  obtain ⟨g1, g2, g3, -⟩ := wordM0_fields x.d.code_lt x.base.code_lt hm
  simp only [pMem, eMem, g1, g2, g3, h1, h2, hp, guardOf_bits _ h3, Operand.ofCode_code]

theorem pLoc_e (k : Loc μ → Instr) (x : Loc μ) (hm : m < 1024) (hp : pm m = some x.m) :
    pLoc pm k (encOf x.h (eLoc code m x).tail) = some (k x) := by
  obtain ⟨h1, h2, h3⟩ := wordM1_fields x.off (s := 0) x.h.guard (by decide)
  obtain ⟨g1, g2, g3, -⟩ := wordM0_fields x.d.code_lt x.base.code_lt hm
  simp only [pLoc, eLoc, g1, g2, g3, h1, h2, hp, guardOf_bits _ h3, Operand.ofCode_code]
  rfl

theorem pMemN_e (k : MemN μ → Instr) (x : MemN μ) (hm : m < 1024) (hp : pm m = some x.m) :
    pMemN pm k (encOf x.h (eMemN code m x).tail) = some (k x) := by
  obtain ⟨h1, h2, h3⟩ := wordM1_fields x.off x.h.guard x.s.code_lt
  obtain ⟨g1, g2, g3, -⟩ := wordM0_fields (d := 0) (by decide) x.base.code_lt hm
  simp only [pMemN, eMemN, g1, g2, g3, h1, h2, hp, guardOf_bits _ h3, Operand.ofCode_code, if_true]

end

theorem pMovKK_e (k : MovK → Instr) (code : Nat) (x : MovK) : pMovKK k (encOf x.h (eMovKK code x).tail) = some (k x) := by
  obtain ⟨h1, h2, h3, h4, -⟩ := wordA_fields (a := 0) x.h.guard x.d.code_lt (by decide) (cMovK_lt x.m)
  simp only [pMovKK, eMovKK, bv_ofNat, h1, h2, h3, pMovK_c, guardOf_bits _ h4, Operand.ofCode_code]
  rfl

theorem b2n_small (b : Bool) : b2n b < 32 ∧ b2n b / 2 = 0 ∧ decide (b2n b % 2 = 1) = b := by cases b <;> decide

theorem pBallot_e (k : Ballot → Instr) (code : Nat) (x : Ballot) : pBallot k (encOf x.h (eBallot code x).tail) = some (k x) := by
  obtain ⟨p1, p2, p3⟩ := pred_lt x.pa
  obtain ⟨b1, b2, b3⟩ := b2n_small x.inv
  obtain ⟨h1, -, -, h4, -, -, -, -, -, -, h5, h6, h7, h8, -⟩ := wordA_fields x.h.guard x.d.code_lt p1 b1
  rw [p2] at h5
  rw [p3] at h6
  rw [b2] at h7
  simp only [pBallot, eBallot, h1, h5, h6, h7, h8, bit_eq, b3, guardOf_bits _ h4, Operand.ofCode_code, fin_ofNat_val]
  rfl

theorem pVote_e (k : Vote → Instr) (code : Nat) (x : Vote) : pVote k (encOf x.h (eVote code x).tail) = some (k x) := by
  obtain ⟨p1, p2, p3⟩ := pred_lt x.pa
  obtain ⟨q1, q2, q3⟩ := pred_lt x.pd
  obtain ⟨b1, b2, b3⟩ := b2n_small x.inv
  obtain ⟨-, -, -, h4, h5, -, h6, -, -, -, h7, h8, h9, h10, -⟩ := wordA_fields x.h.guard q1 p1 b1
  rw [q2] at h5
  rw [q3] at h6
  rw [p2] at h7
  rw [p3] at h8
  rw [b2] at h9
  simp only [pVote, eVote, h5, h6, h7, h8, h9, h10, bit_eq, b3, guardOf_bits _ h4, fin_ofNat_val]
  rfl

theorem pFenceI_e (k : Fence → Instr) (code : Nat) (x : Fence) : pFenceI k (encOf x.h (eFenceI code x).tail) = some (k x) := by
  obtain ⟨-, -, h3, h4, -, -, -, -, -, h5, -⟩ :=
    wordA_fields (d := 0) (a := 0) x.h.guard (by decide) (by decide) (cFence_lt x.m)
  simp only [pFenceI, eFenceI, h3, h5, pFence_c, guardOf_bits _ h4]
  rfl

theorem pFenceSurf_e (k : FenceSurf → Instr) (code : Nat) (x : FenceSurf) :
    pFenceSurf k (encOf x.h (eFenceSurf code x).tail) = some (k x) := by
  obtain ⟨h, b, o, y⟩ := x
  obtain ⟨h1, h2, h3⟩ := wordM1_fields o (s := 0) h.guard (by decide)
  cases y
  · obtain ⟨g1, g2, g3, -⟩ := wordM0_fields (d := 0) (m := 0x2C0) (by decide) b.code_lt (by decide)
    change pFenceSurf k ⟨h.hint, decide (guardBit h.guard = 1), [wordM0 0 b.code 0x2C0, wordM1 o 0 h.guard]⟩ = _
    generalize wordM0 0 b.code 0x2C0 = w at *
    simp only [pFenceSurf, g1, g2, g3, h1, h2, guardOf_bits _ h3, Operand.ofCode_code]
    rfl
  · obtain ⟨g1, g2, g3, -⟩ := wordM0_fields (d := 0) (m := 0x340) (by decide) b.code_lt (by decide)
    change pFenceSurf k ⟨h.hint, decide (guardBit h.guard = 1), [wordM0 0 b.code 0x340, wordM1 o 0 h.guard]⟩ = _
    generalize wordM0 0 b.code 0x340 = w at *
    simp only [pFenceSurf, g1, g2, g3, h1, h2, guardOf_bits _ h3, Operand.ofCode_code]
    rfl

theorem pMrsv_e (k : Mrsv → Instr) (code : Nat) (x : Mrsv) : pMrsv k (encOf x.h (eMrsv code x).tail) = some (k x) := by
  obtain ⟨q1, q2, q3⟩ := pred_lt x.pd
  obtain ⟨-, h2, h3, h4, h5, -, h6, -⟩ := wordA_fields x.h.guard q1 x.a.code_lt x.half.isLt
  rw [q2] at h5
  rw [q3] at h6
  simp only [pMrsv, eMrsv, h2, h3, h5, h6, guardOf_bits _ h4, Operand.ofCode_code, fin_ofNat_val, if_true]

theorem pStage_e (k : Stage → Instr) (code : Nat) (x : Stage) : pStage k (encOf x.h (eStage code x).tail) = some (k x) := by
  obtain ⟨h, sl, b, o, s, f, ns, sp⟩ := x
  obtain ⟨f1, f2⟩ := stageFmt_c f
  obtain ⟨s1, s2⟩ := stageSpace_c sp
  have hn := b2n_lt ns
  have hsl := sl.isLt
  obtain ⟨h1, h2, h3⟩ := wordM1_fields o h.guard s.code_lt
  have hm : stageFmtCode f + 8 * b2n ns + 16 * stageSpaceCode sp < 1024 := by omega
  obtain ⟨-, g2, -, g4, g5, g6, g7, g8, g9, -⟩ := wordM0_fields (d := sl.val) (by omega) b.code_lt hm
  rw [show sl.val / 512 = 0 by omega] at g4
  rw [show sl.val % 512 = sl.val by omega] at g5
  rw [show (stageFmtCode f + 8 * b2n ns + 16 * stageSpaceCode sp) / 64 = 0 by omega] at g6
  rw [show (stageFmtCode f + 8 * b2n ns + 16 * stageSpaceCode sp) % 8 = stageFmtCode f by omega] at g7
  rw [show (stageFmtCode f + 8 * b2n ns + 16 * stageSpaceCode sp) / 16 % 4 = stageSpaceCode sp by omega] at g8
  rw [show (stageFmtCode f + 8 * b2n ns + 16 * stageSpaceCode sp) / 8 % 2 = b2n ns by omega] at g9
  change pStage k ⟨h.hint, decide (guardBit h.guard = 1),
    [wordM0 sl.val b.code (stageFmtCode f + 8 * b2n ns + 16 * stageSpaceCode sp), wordM1 o s.code h.guard]⟩ = _
  generalize wordM0 sl.val b.code (stageFmtCode f + 8 * b2n ns + 16 * stageSpaceCode sp) = w at *
  simp only [pStage, g2, g4, g5, g6, g7, g8, bit_eq, g9, bool_of_b2n, h1, h2, f1, s1, guardOf_bits _ h3,
    Operand.ofCode_code, fin_ofNat_val]
  rfl

theorem pMma_e (k : Mma → Instr) (code : Nat) (x : Mma) : pMma k (encOf x.h (eMma code x).tail) = some (k x) := by
  have ha := x.acc.isLt
  have hb := x.a.isLt
  have hc := x.b.isLt
  obtain ⟨-, -, -, h4, -, -, -, -, h5, -, -, -, -, -, -, -, -, -, -, h6, -⟩ :=
    wordA_fields (d := x.b.val) (a := 0) (m := 0) x.h.guard (by omega) (by decide) (by decide)
  obtain ⟨-, -, -, -, -, g1, g2, g3, g4⟩ := word0_plain (d := x.acc.val) (a := x.a.val) (by omega) (by omega)
  rw [show x.b.val % 512 = x.b.val by omega] at h5
  rw [show (x.b.val + 0 * 2 ^ 11 + 0 * 2 ^ 22) / 512 = 0 by omega] at h6
  rw [show x.acc.val / 8 = 0 by omega] at g1
  rw [show x.acc.val % 8 = x.acc.val by omega] at g2
  rw [show x.a.val / 512 = 0 by omega] at g3
  rw [show x.a.val % 512 = x.a.val by omega] at g4
  simp only [pMma, eMma, g1, g2, g3, g4, h5, h6, guardOf_bits _ h4, fin_ofNat_val]
  rfl

theorem pMzero_e (k : Mzero → Instr) (code : Nat) (x : Mzero) : pMzero k (encOf x.h (eMzero code x).tail) = some (k x) := by
  have ha := x.acc.isLt
  obtain ⟨-, -, -, h4, -, -, -, h5, -, -, -, -, -, -, h6, -⟩ :=
    wordA_fields (d := x.acc.val) (a := 0) (m := 0) x.h.guard (by omega) (by decide) (by decide)
  rw [show x.acc.val % 8 = x.acc.val by omega] at h5
  rw [show (x.acc.val + 0 * 2 ^ 11 + 0 * 2 ^ 22) / 8 = 0 by omega] at h6
  simp only [pMzero, eMzero, h5, h6, guardOf_bits _ h4, fin_ofNat_val, if_true]

theorem pMst_e (k : Mst → Instr) (code : Nat) (x : Mst) : pMst k (encOf x.h (eMst code x).tail) = some (k x) := by
  obtain ⟨h, ac, b, o, s, f, sa, cl, gl⟩ := x
  obtain ⟨f1, f2⟩ := storeFmt_c f
  have b1 := b2n_lt sa
  have b2 := b2n_lt cl
  have b3 := b2n_lt gl
  have ha := ac.isLt
  obtain ⟨h1, h2, h3⟩ := wordM1_fields o h.guard s.code_lt
  have hm : storeFmtCode f + 8 * b2n sa + 16 * b2n cl + 32 * b2n gl < 1024 := by omega
  obtain ⟨-, g2, -, -, -, g6, g7, -, g9, g10, g11, g12, g13, -⟩ :=
    wordM0_fields (d := ac.val) (by omega) b.code_lt hm
  rw [show ac.val / 8 = 0 by omega] at g12
  rw [show ac.val % 8 = ac.val by omega] at g13
  rw [show (storeFmtCode f + 8 * b2n sa + 16 * b2n cl + 32 * b2n gl) / 64 = 0 by omega] at g6
  rw [show (storeFmtCode f + 8 * b2n sa + 16 * b2n cl + 32 * b2n gl) % 8 = storeFmtCode f by omega] at g7
  rw [show (storeFmtCode f + 8 * b2n sa + 16 * b2n cl + 32 * b2n gl) / 8 % 2 = b2n sa by omega] at g9
  rw [show (storeFmtCode f + 8 * b2n sa + 16 * b2n cl + 32 * b2n gl) / 16 % 2 = b2n cl by omega] at g10
  rw [show (storeFmtCode f + 8 * b2n sa + 16 * b2n cl + 32 * b2n gl) / 32 % 2 = b2n gl by omega] at g11
  change pMst k ⟨h.hint, decide (guardBit h.guard = 1),
    [wordM0 ac.val b.code (storeFmtCode f + 8 * b2n sa + 16 * b2n cl + 32 * b2n gl), wordM1 o s.code h.guard]⟩ = _
  generalize wordM0 ac.val b.code (storeFmtCode f + 8 * b2n sa + 16 * b2n cl + 32 * b2n gl) = w at *
  simp only [pMst, g2, g6, g7, bit_eq, g9, g10, g11, g12, g13, bool_of_b2n, h1, h2, f1, guardOf_bits _ h3,
    Operand.ofCode_code, fin_ofNat_val]
  rfl

theorem pGang_e (k : Gang → Instr) (code : Nat) (x : Gang) : pGang k (encOf x.h (eGang code x).tail) = some (k x) := by
  obtain ⟨b1, b2, b3⟩ := b2n_small x.last
  obtain ⟨-, -, -, h4, -, -, -, -, -, h5, -, -, h6, h7, -⟩ :=
    wordA_fields (d := 0) (a := 0) x.h.guard (by decide) (by decide) b1
  rw [b2] at h6
  simp only [pGang, eGang, h5, h6, h7, bit_eq, b3, guardOf_bits _ h4]
  rfl

theorem pBare_e (k : Bare → Instr) (code : Nat) (x : Bare) : pBare k (encOf x.h (eBare code x).tail) = some (k x) := by
  obtain ⟨-, -, -, h4, -, -, -, -, -, -, -, -, -, -, -, h5, -⟩ :=
    wordA_fields (d := 0) (a := 0) (m := 0) x.h.guard (by decide) (by decide) (by decide)
  simp only [pBare, eBare, h5, guardOf_bits _ h4]
  rfl

theorem pSrcA_e (k : SrcA → Instr) (code : Nat) (x : SrcA) : pSrcA k (encOf x.h (eSrcA code x).tail) = some (k x) := by
  obtain ⟨h1, h2, h3, h4, -⟩ := wordA_fields (d := 0) (m := 0) x.h.guard (by decide) x.a.code_lt (by decide)
  simp only [pSrcA, eSrcA, h1, h2, h3, guardOf_bits _ h4, Operand.ofCode_code]
  rfl

theorem pDstD_e (k : DstD → Instr) (code : Nat) (x : DstD) : pDstD k (encOf x.h (eDstD code x).tail) = some (k x) := by
  obtain ⟨h1, -, -, h4, -, -, -, -, -, -, -, -, -, -, -, -, h5, -⟩ :=
    wordA_fields (a := 0) (m := 0) x.h.guard x.d.code_lt (by decide) (by decide)
  simp only [pDstD, eDstD, h1, h5, guardOf_bits _ h4, Operand.ofCode_code]
  rfl

theorem pSetFE_e (k : SetFE → Instr) (code : Nat) (x : SetFE) : pSetFE k (encOf x.h (eSetFE code x).tail) = some (k x) := by
  obtain ⟨h1, h2, h3, h4, -⟩ := wordA_fields (a := 0) x.h.guard x.d.code_lt (by decide) x.k.isLt
  simp only [pSetFE, eSetFE, h1, h2, h3, guardOf_bits _ h4, Operand.ofCode_code, fin_ofNat_val, if_true]

theorem pMigr_e (k : Migr → Instr) (code : Nat) (x : Migr) : pMigr k (encOf x.h (eMigr code x).tail) = some (k x) := by
  obtain ⟨h, fl, d, j⟩ := x
  obtain ⟨h1, h2, h3, -⟩ := wordB_fields ⟨d, j⟩ (m := 0) h.guard (by decide)
  simp only [targetOf, Target.mk.injEq] at h1
  have e1 : bits (b2n fl) 31 1 = 0 := by cases fl <;> decide
  have e2 : bit (b2n fl) 0 = fl := by cases fl <;> decide
  simp only [pMigr, eMigr, e1, e2, h1.1, h1.2, h2, guardOf_bits _ h3]
  rfl

theorem pSvc_e (k : Svc → Instr) (code : Nat) (x : Svc) : pSvc k (encOf x.h (eSvc code x).tail) = some (k x) := by
  obtain ⟨h, d, b, o, s, sv, rq, a⟩ := x
  obtain ⟨f1, f2⟩ := svc_c sv
  have hr := rq.isLt
  have ha := b2n_lt a
  have hz : ∀ z, z < 2 → svcCode sv + 4 * rq.val + 32 * b2n a + 64 * z < 1024 := by intro z hz; omega
  have fields : ∀ z, z < 2 → let m := svcCode sv + 4 * rq.val + 32 * b2n a + 64 * z
      m / 32 % 2 = b2n a ∧ m / 128 = 0 ∧ m % 4 = svcCode sv ∧ m / 64 % 2 = z ∧ m / 4 % 8 = rq.val := by
    intro z hz; omega
  rcases s with _ | s
  · obtain ⟨h1, h2, h3⟩ := wordM1_fields o (s := 0) h.guard (by decide)
    obtain ⟨m1, m2, m3, m4, m5⟩ := fields 1 (by decide)
    have hm := hz 1 (by decide)
    change pSvc k ⟨h.hint, decide (guardBit h.guard = 1),
      [wordM0 d.code b.code (svcCode sv + 4 * rq.val + 32 * b2n a + 64 * 1), wordM1 o 0 h.guard]⟩ = _
    generalize svcCode sv + 4 * rq.val + 32 * b2n a + 64 * 1 = m at *
    obtain ⟨g1, g2, -, -, -, -, -, -, -, -, g3, -, -, g4, g5, g6, g7⟩ := wordM0_fields d.code_lt b.code_lt hm
    rw [m1] at g3
    rw [m2] at g4
    rw [m3] at g5
    rw [m4] at g6
    rw [m5] at g7
    simp only [pSvc, g1, g2, g3, g4, g5, g6, g7, h1, h2, f1, bit_eq, isZeroField, bool_of_b2n, guardOf_bits _ h3,
      Operand.ofCode_code, fin_ofNat_val]
    rfl
  · obtain ⟨h1, h2, h3⟩ := wordM1_fields o h.guard s.code_lt
    obtain ⟨m1, m2, m3, m4, m5⟩ := fields 0 (by decide)
    have hm := hz 0 (by decide)
    change pSvc k ⟨h.hint, decide (guardBit h.guard = 1),
      [wordM0 d.code b.code (svcCode sv + 4 * rq.val + 32 * b2n a + 64 * 0), wordM1 o s.code h.guard]⟩ = _
    generalize svcCode sv + 4 * rq.val + 32 * b2n a + 64 * 0 = m at *
    obtain ⟨g1, g2, -, -, -, -, -, -, -, -, g3, -, -, g4, g5, g6, g7⟩ := wordM0_fields d.code_lt b.code_lt hm
    rw [m1] at g3
    rw [m2] at g4
    rw [m3] at g5
    rw [m4] at g6
    rw [m5] at g7
    simp only [pSvc, g1, g2, g3, g4, g5, g6, g7, h1, h2, f1, bit_eq, bool_of_b2n, guardOf_bits _ h3,
      Operand.ofCode_code, fin_ofNat_val]
    rfl

theorem pCtlr_e (k : Ctlr → Instr) (code : Nat) (x : Ctlr) : pCtlr k (encOf x.h (eCtlr code x).tail) = some (k x) := by
  obtain ⟨h1, h2, h3, h4, -⟩ := wordA_fields (a := 0) x.h.guard x.d.code_lt (by decide) x.n.isLt
  simp only [pCtlr, eCtlr, h1, h2, h3, guardOf_bits _ h4, Operand.ofCode_code, fin_ofNat_val, if_true]

theorem pCtlw_e (k : Ctlw → Instr) (code : Nat) (x : Ctlw) : pCtlw k (encOf x.h (eCtlw code x).tail) = some (k x) := by
  obtain ⟨h1, h2, h3, h4, -⟩ := wordA_fields (d := 0) x.h.guard (by decide) x.a.code_lt x.n.isLt
  simp only [pCtlw, eCtlw, h1, h2, h3, guardOf_bits _ h4, Operand.ofCode_code, fin_ofNat_val, if_true]

theorem pIsync_e (k : Isync → Instr) (code : Nat) (x : Isync) : pIsync k (encOf x.h (eIsync code x).tail) = some (k x) := by
  obtain ⟨s1, s2⟩ := scope_c x.scope
  obtain ⟨-, -, -, h4, -, -, -, -, -, h5, -, -, -, -, -, -, -, h6, h7, -⟩ :=
    wordA_fields (d := 0) (a := 0) (m := scopeCode x.scope) x.h.guard (by decide) (by decide) (by omega)
  rw [show scopeCode x.scope / 8 = 0 by omega] at h6
  rw [show scopeCode x.scope % 8 = scopeCode x.scope by omega] at h7
  simp only [pIsync, eIsync, h5, h6, h7, s1, guardOf_bits _ h4]
  rfl

theorem pSleep_e (k : Sleep → Instr) (code : Nat) (x : Sleep) : pSleep k (encOf x.h (eSleep code x).tail) = some (k x) := by
  obtain ⟨b1, b2, b3⟩ := b2n_small x.ev
  obtain ⟨h1, h2, -, h4, -, -, -, -, -, -, -, -, h5, h6, -⟩ :=
    wordA_fields (d := 0) x.h.guard (by decide) x.a.code_lt b1
  rw [b2] at h5
  simp only [pSleep, eSleep, h1, h2, h5, h6, bit_eq, b3, guardOf_bits _ h4, Operand.ofCode_code]
  rfl

/-! The decoder on what each encoder writes -/

theorem dec_pN {k : Hint → Instr} {code : Nat} {x : Hint} (hc : code < 1024)
    (hb : parseBody code = pN k) (hw : (k x).wf = true) : decode (eN code x) = some (k x) :=
  decode_of (n := 0) (h := x) (g := 0) (tail := (eN code x).tail) rfl hc (by decide) hb (pN_e k code x) hw

theorem dec_pJT {k : CodeImm → Instr} {code : Nat} {x : CodeImm} (hc : code < 1024)
    (hb : parseBody code = pJT k) (hw : (k x).wf = true) : decode (eJT code x) = some (k x) :=
  decode_of (n := 1) (h := x.h.hint) (g := (guardBit x.h.guard)) (tail := (eJT code x).tail) rfl hc (guardBit_lt _) hb (pJT_e k code x) hw

theorem dec_pJD {k : MovImm → Instr} {code : Nat} {x : MovImm} (hc : code < 1024)
    (hb : parseBody code = pJD k) (hw : (k x).wf = true) : decode (eJD code x) = some (k x) :=
  decode_of (n := 1) (h := x.h.hint) (g := (guardBit x.h.guard)) (tail := (eJD code x).tail) rfl hc (guardBit_lt _) hb (pJD_e k code x) hw

theorem dec_pB {k : Branch → Instr} {code : Nat} {x : Branch} (hc : code < 1024)
    (hb : parseBody code = pB k) (hw : (k x).wf = true) : decode (eB code x) = some (k x) :=
  decode_of (n := 1) (h := x.h.hint) (g := (guardBit x.h.guard)) (tail := (eB code x).tail) rfl hc (guardBit_lt _) hb (pB_e k code x) hw

theorem dec_pBg {k : TestBranch → Instr} {code : Nat} {x : TestBranch} (hc : code < 1024)
    (hb : parseBody code = pBg k) (hw : (k x).wf = true) : decode (eBg code x) = some (k x) :=
  decode_of (n := 1) (h := x.hint) (g := 1) (tail := (eBg code x).tail) rfl hc (by decide) hb (pBg_e k code x) hw

theorem dec_pJmpi {k : JumpInd → Instr} {code : Nat} {x : JumpInd} (hc : code < 1024)
    (hb : parseBody code = pJmpi k) (hw : (k x).wf = true) : decode (eJmpi code x) = some (k x) :=
  decode_of (n := 1) (h := x.h.hint) (g := (guardBit x.h.guard)) (tail := (eJmpi code x).tail) rfl hc (guardBit_lt _) hb (pJmpi_e k code x) hw

theorem dec_pCalli {k : CallInd → Instr} {code : Nat} {x : CallInd} (hc : code < 1024)
    (hb : parseBody code = pCalli k) (hw : (k x).wf = true) : decode (eCalli code x) = some (k x) :=
  decode_of (n := 1) (h := x.h.hint) (g := (guardBit x.h.guard)) (tail := (eCalli code x).tail) rfl hc (guardBit_lt _) hb (pCalli_e k code x) hw

theorem dec_pBrd {k : DivBranch → Instr} {code : Nat} {x : DivBranch} (hc : code < 1024)
    (hb : parseBody code = pBrd k) (hw : (k x).wf = true) : decode (eBrd code x) = some (k x) :=
  decode_of (n := 2) (h := x.hint) (g := 1) (tail := (eBrd code x).tail) rfl hc (by decide) hb (pBrd_e k code x) hw

theorem dec_pLoop {k : LoopReg → Instr} {code : Nat} {x : LoopReg} (hc : code < 1024)
    (hb : parseBody code = pLoop k) (hw : (k x).wf = true) : decode (eLoop code x) = some (k x) :=
  decode_of (n := 2) (h := x.hint) (g := 0) (tail := (eLoop code x).tail) rfl hc (by decide) hb (pLoop_e k code x) hw

theorem dec_pLoopi {k : LoopImm → Instr} {code : Nat} {x : LoopImm} (hc : code < 1024)
    (hb : parseBody code = pLoopi k) (hw : (k x).wf = true) : decode (eLoopi code x) = some (k x) :=
  decode_of (n := 2) (h := x.hint) (g := 0) (tail := (eLoopi code x).tail) rfl hc (by decide) hb (pLoopi_e k code x) hw

theorem dec_pUn {μ : Type} {pm : Nat → Option μ} {k : Un μ → Instr} {code m : Nat} {x : Un μ} (hc : code < 1024)
    (hb : parseBody code = pUn pm k) (hm : m < 32) (hp : pm m = some x.m) (hw : (k x).wf = true) :
    decode (eUn code m x) = some (k x) :=
  decode_of (n := 1) (h := x.h.hint) (g := (guardBit x.h.guard)) (tail := (eUn code m x).tail) rfl hc (guardBit_lt _) hb (pUn_e k x hm hp) hw

theorem dec_pUnC {μ : Type} {pm : Nat → Option μ} {k : Un μ → Instr} {code m : Nat} {x : Un μ} (hc : code < 1024)
    (hb : parseBody code = pUnC pm k) (hm : m < 32) (hp : pm m = some x.m) (hw : (k x).wf = true) :
    decode (eUnC code m x) = some (k x) :=
  decode_of (n := 2) (h := x.h.hint) (g := (guardBit x.h.guard)) (tail := (eUnC code m x).tail) rfl hc (guardBit_lt _) hb (pUnC_e k x hm hp) hw

theorem dec_pBin {μ : Type} {pm : Nat → Option μ} {k : Bin μ → Instr} {code m : Nat} {x : Bin μ} (hc : code < 1024)
    (hb : parseBody code = pBin pm k) (hm : m < 32) (hp : pm m = some x.m) (hw : (k x).wf = true) :
    decode (eBin code m x) = some (k x) :=
  decode_of (n := 2) (h := x.h.hint) (g := (guardBit x.h.guard)) (tail := (eBin code m x).tail) rfl hc (guardBit_lt _) hb (pBin_e k x hm hp) hw

theorem dec_pBinP {μ : Type} {pm : Nat → Option μ} {k : BinP μ → Instr} {code m : Nat} {x : BinP μ} (hc : code < 1024)
    (hb : parseBody code = pBinP pm k) (hm : m < 32) (hp : pm m = some x.m) (hw : (k x).wf = true) :
    decode (eBinP code m x) = some (k x) :=
  decode_of (n := 2) (h := x.h.hint) (g := (guardBit x.h.guard)) (tail := (eBinP code m x).tail) rfl hc (guardBit_lt _) hb (pBinP_e k x hm hp) hw

theorem dec_pTern {μ : Type} {pm : Nat → Option μ} {k : Tern μ → Instr} {code m : Nat} {x : Tern μ} (hc : code < 1024)
    (hb : parseBody code = pTern pm k) (hm : m < 32) (hp : pm m = some x.m) (hw : (k x).wf = true) :
    decode (eTern code m x) = some (k x) :=
  decode_of (n := 2) (h := x.h.hint) (g := (guardBit x.h.guard)) (tail := (eTern code m x).tail) rfl hc (guardBit_lt _) hb (pTern_e k x hm hp) hw

theorem dec_pOptB {μ : Type} {pm : Nat → Option μ} {k : OptB μ → Instr} {code m : Nat} {x : OptB μ} (hc : code < 1024)
    (hb : parseBody code = pOptB pm k) (hm : m < 16) (hp : pm m = some x.m) (hw : (k x).wf = true) :
    decode (eOptB code m x) = some (k x) :=
  decode_of (n := 2) (h := x.h.hint) (g := (guardBit x.h.guard)) (tail := (eOptB code m x).tail) rfl hc (guardBit_lt _) hb (pOptB_e k x hm hp) hw

theorem dec_pCmpP {μ : Type} {pm : Nat → Option μ} {k : CmpP μ → Instr} {code m : Nat} {x : CmpP μ} (hc : code < 1024)
    (hb : parseBody code = pCmpP pm k) (hm : m < 32) (hp : pm m = some x.m) (hw : (k x).wf = true) :
    decode (eCmpP code m x) = some (k x) :=
  decode_of (n := 2) (h := x.h.hint) (g := (guardBit x.h.guard)) (tail := (eCmpP code m x).tail) rfl hc (guardBit_lt _) hb (pCmpP_e k x hm hp) hw

theorem dec_pCmpI {μ : Type} {pm : Nat → Option μ} {k : CmpI μ → Instr} {code m : Nat} {x : CmpI μ} (hc : code < 1024)
    (hb : parseBody code = pCmpI pm k) (hm : m < 32) (hp : pm m = some x.m) (hw : (k x).wf = true) :
    decode (eCmpI code m x) = some (k x) :=
  decode_of (n := 2) (h := x.h.hint) (g := (guardBit x.h.guard)) (tail := (eCmpI code m x).tail) rfl hc (guardBit_lt _) hb (pCmpI_e k x hm hp) hw

theorem dec_pImmK {μ : Type} {pm : Nat → Option μ} {k : ImmK μ → Instr} {code m : Nat} {x : ImmK μ} (hc : code < 1024)
    (hb : parseBody code = pImmK pm k) (hm : m < 32) (hp : pm m = some x.m) (hw : (k x).wf = true) :
    decode (eImmK code m x) = some (k x) :=
  decode_of (n := 2) (h := x.h.hint) (g := (guardBit x.h.guard)) (tail := (eImmK code m x).tail) rfl hc (guardBit_lt _) hb (pImmK_e k x hm hp) hw

theorem dec_pImmE {μ : Type} {pm : Nat → Option μ} {k : ImmE μ → Instr} {code m : Nat} {x : ImmE μ} (hc : code < 1024)
    (hb : parseBody code = pImmE pm k) (hm : m < 32) (hp : pm m = some x.m) (hw : (k x).wf = true) :
    decode (eImmE code m x) = some (k x) :=
  decode_of (n := 3) (h := x.h.hint) (g := (guardBit x.h.guard)) (tail := (eImmE code m x).tail) rfl hc (guardBit_lt _) hb (pImmE_e k x hm hp) hw

theorem dec_pNBin {μ : Type} {pm : Nat → Option μ} {k : NBin μ → Instr} {code m : Nat} {x : NBin μ} (hc : code < 1024)
    (hb : parseBody code = pNBin pm k) (hm : m < 32) (hp : pm m = some x.m) (hw : (k x).wf = true) :
    decode (eNBin code m x) = some (k x) :=
  decode_of (n := 2) (h := x.h.hint) (g := (guardBit x.h.guard)) (tail := (eNBin code m x).tail) rfl hc (guardBit_lt _) hb (pNBin_e k x hm hp) hw

theorem dec_pNTern {μ : Type} {pm : Nat → Option μ} {k : NTern μ → Instr} {code m : Nat} {x : NTern μ} (hc : code < 1024)
    (hb : parseBody code = pNTern pm k) (hm : m < 32) (hp : pm m = some x.m) (hw : (k x).wf = true) :
    decode (eNTern code m x) = some (k x) :=
  decode_of (n := 2) (h := x.h.hint) (g := (guardBit x.h.guard)) (tail := (eNTern code m x).tail) rfl hc (guardBit_lt _) hb (pNTern_e k x hm hp) hw

theorem dec_pNCmp {μ : Type} {pm : Nat → Option μ} {k : NCmp μ → Instr} {code m : Nat} {x : NCmp μ} (hc : code < 1024)
    (hb : parseBody code = pNCmp pm k) (hm : m < 32) (hp : pm m = some x.m) (hw : (k x).wf = true) :
    decode (eNCmp code m x) = some (k x) :=
  decode_of (n := 2) (h := x.h.hint) (g := (guardBit x.h.guard)) (tail := (eNCmp code m x).tail) rfl hc (guardBit_lt _) hb (pNCmp_e k x hm hp) hw

theorem dec_pMem {μ : Type} {pm : Nat → Option μ} {k : Mem μ → Instr} {code m : Nat} {x : Mem μ} (hc : code < 1024)
    (hb : parseBody code = pMem pm k) (hm : m < 1024) (hp : pm m = some x.m) (hw : (k x).wf = true) :
    decode (eMem code m x) = some (k x) :=
  decode_of (n := 2) (h := x.h.hint) (g := (guardBit x.h.guard)) (tail := (eMem code m x).tail) rfl hc (guardBit_lt _) hb (pMem_e k x hm hp) hw

theorem dec_pLoc {μ : Type} {pm : Nat → Option μ} {k : Loc μ → Instr} {code m : Nat} {x : Loc μ} (hc : code < 1024)
    (hb : parseBody code = pLoc pm k) (hm : m < 1024) (hp : pm m = some x.m) (hw : (k x).wf = true) :
    decode (eLoc code m x) = some (k x) :=
  decode_of (n := 2) (h := x.h.hint) (g := (guardBit x.h.guard)) (tail := (eLoc code m x).tail) rfl hc (guardBit_lt _) hb (pLoc_e k x hm hp) hw

theorem dec_pMemN {μ : Type} {pm : Nat → Option μ} {k : MemN μ → Instr} {code m : Nat} {x : MemN μ} (hc : code < 1024)
    (hb : parseBody code = pMemN pm k) (hm : m < 1024) (hp : pm m = some x.m) (hw : (k x).wf = true) :
    decode (eMemN code m x) = some (k x) :=
  decode_of (n := 2) (h := x.h.hint) (g := (guardBit x.h.guard)) (tail := (eMemN code m x).tail) rfl hc (guardBit_lt _) hb (pMemN_e k x hm hp) hw

theorem dec_pMovKK {k : MovK → Instr} {code : Nat} {x : MovK} (hc : code < 1024)
    (hb : parseBody code = pMovKK k) (hw : (k x).wf = true) : decode (eMovKK code x) = some (k x) :=
  decode_of (n := 2) (h := x.h.hint) (g := (guardBit x.h.guard)) (tail := (eMovKK code x).tail) rfl hc (guardBit_lt _) hb (pMovKK_e k code x) hw

theorem dec_pBallot {k : Ballot → Instr} {code : Nat} {x : Ballot} (hc : code < 1024)
    (hb : parseBody code = pBallot k) (hw : (k x).wf = true) : decode (eBallot code x) = some (k x) :=
  decode_of (n := 1) (h := x.h.hint) (g := (guardBit x.h.guard)) (tail := (eBallot code x).tail) rfl hc (guardBit_lt _) hb (pBallot_e k code x) hw

theorem dec_pVote {k : Vote → Instr} {code : Nat} {x : Vote} (hc : code < 1024)
    (hb : parseBody code = pVote k) (hw : (k x).wf = true) : decode (eVote code x) = some (k x) :=
  decode_of (n := 1) (h := x.h.hint) (g := (guardBit x.h.guard)) (tail := (eVote code x).tail) rfl hc (guardBit_lt _) hb (pVote_e k code x) hw

theorem dec_pFenceI {k : Fence → Instr} {code : Nat} {x : Fence} (hc : code < 1024)
    (hb : parseBody code = pFenceI k) (hw : (k x).wf = true) : decode (eFenceI code x) = some (k x) :=
  decode_of (n := 1) (h := x.h.hint) (g := (guardBit x.h.guard)) (tail := (eFenceI code x).tail) rfl hc (guardBit_lt _) hb (pFenceI_e k code x) hw

theorem dec_pFenceSurf {k : FenceSurf → Instr} {code : Nat} {x : FenceSurf} (hc : code < 1024)
    (hb : parseBody code = pFenceSurf k) (hw : (k x).wf = true) : decode (eFenceSurf code x) = some (k x) :=
  decode_of (n := 2) (h := x.h.hint) (g := (guardBit x.h.guard)) (tail := (eFenceSurf code x).tail) rfl hc (guardBit_lt _) hb (pFenceSurf_e k code x) hw

theorem dec_pMrsv {k : Mrsv → Instr} {code : Nat} {x : Mrsv} (hc : code < 1024)
    (hb : parseBody code = pMrsv k) (hw : (k x).wf = true) : decode (eMrsv code x) = some (k x) :=
  decode_of (n := 1) (h := x.h.hint) (g := (guardBit x.h.guard)) (tail := (eMrsv code x).tail) rfl hc (guardBit_lt _) hb (pMrsv_e k code x) hw

theorem dec_pStage {k : Stage → Instr} {code : Nat} {x : Stage} (hc : code < 1024)
    (hb : parseBody code = pStage k) (hw : (k x).wf = true) : decode (eStage code x) = some (k x) :=
  decode_of (n := 2) (h := x.h.hint) (g := (guardBit x.h.guard)) (tail := (eStage code x).tail) rfl hc (guardBit_lt _) hb (pStage_e k code x) hw

theorem dec_pMma {k : Mma → Instr} {code : Nat} {x : Mma} (hc : code < 1024)
    (hb : parseBody code = pMma k) (hw : (k x).wf = true) : decode (eMma code x) = some (k x) :=
  decode_of (n := 2) (h := x.h.hint) (g := (guardBit x.h.guard)) (tail := (eMma code x).tail) rfl hc (guardBit_lt _) hb (pMma_e k code x) hw

theorem dec_pMzero {k : Mzero → Instr} {code : Nat} {x : Mzero} (hc : code < 1024)
    (hb : parseBody code = pMzero k) (hw : (k x).wf = true) : decode (eMzero code x) = some (k x) :=
  decode_of (n := 1) (h := x.h.hint) (g := (guardBit x.h.guard)) (tail := (eMzero code x).tail) rfl hc (guardBit_lt _) hb (pMzero_e k code x) hw

theorem dec_pMst {k : Mst → Instr} {code : Nat} {x : Mst} (hc : code < 1024)
    (hb : parseBody code = pMst k) (hw : (k x).wf = true) : decode (eMst code x) = some (k x) :=
  decode_of (n := 2) (h := x.h.hint) (g := (guardBit x.h.guard)) (tail := (eMst code x).tail) rfl hc (guardBit_lt _) hb (pMst_e k code x) hw

theorem dec_pGang {k : Gang → Instr} {code : Nat} {x : Gang} (hc : code < 1024)
    (hb : parseBody code = pGang k) (hw : (k x).wf = true) : decode (eGang code x) = some (k x) :=
  decode_of (n := 1) (h := x.h.hint) (g := (guardBit x.h.guard)) (tail := (eGang code x).tail) rfl hc (guardBit_lt _) hb (pGang_e k code x) hw

theorem dec_pBare {k : Bare → Instr} {code : Nat} {x : Bare} (hc : code < 1024)
    (hb : parseBody code = pBare k) (hw : (k x).wf = true) : decode (eBare code x) = some (k x) :=
  decode_of (n := 1) (h := x.h.hint) (g := (guardBit x.h.guard)) (tail := (eBare code x).tail) rfl hc (guardBit_lt _) hb (pBare_e k code x) hw

theorem dec_pSrcA {k : SrcA → Instr} {code : Nat} {x : SrcA} (hc : code < 1024)
    (hb : parseBody code = pSrcA k) (hw : (k x).wf = true) : decode (eSrcA code x) = some (k x) :=
  decode_of (n := 1) (h := x.h.hint) (g := (guardBit x.h.guard)) (tail := (eSrcA code x).tail) rfl hc (guardBit_lt _) hb (pSrcA_e k code x) hw

theorem dec_pDstD {k : DstD → Instr} {code : Nat} {x : DstD} (hc : code < 1024)
    (hb : parseBody code = pDstD k) (hw : (k x).wf = true) : decode (eDstD code x) = some (k x) :=
  decode_of (n := 1) (h := x.h.hint) (g := (guardBit x.h.guard)) (tail := (eDstD code x).tail) rfl hc (guardBit_lt _) hb (pDstD_e k code x) hw

theorem dec_pSetFE {k : SetFE → Instr} {code : Nat} {x : SetFE} (hc : code < 1024)
    (hb : parseBody code = pSetFE k) (hw : (k x).wf = true) : decode (eSetFE code x) = some (k x) :=
  decode_of (n := 1) (h := x.h.hint) (g := (guardBit x.h.guard)) (tail := (eSetFE code x).tail) rfl hc (guardBit_lt _) hb (pSetFE_e k code x) hw

theorem dec_pMigr {k : Migr → Instr} {code : Nat} {x : Migr} (hc : code < 1024)
    (hb : parseBody code = pMigr k) (hw : (k x).wf = true) : decode (eMigr code x) = some (k x) :=
  decode_of (n := 2) (h := x.h.hint) (g := (guardBit x.h.guard)) (tail := (eMigr code x).tail) rfl hc (guardBit_lt _) hb (pMigr_e k code x) hw

theorem dec_pSvc {k : Svc → Instr} {code : Nat} {x : Svc} (hc : code < 1024)
    (hb : parseBody code = pSvc k) (hw : (k x).wf = true) : decode (eSvc code x) = some (k x) :=
  decode_of (n := 2) (h := x.h.hint) (g := (guardBit x.h.guard)) (tail := (eSvc code x).tail) rfl hc (guardBit_lt _) hb (pSvc_e k code x) hw

theorem dec_pCtlr {k : Ctlr → Instr} {code : Nat} {x : Ctlr} (hc : code < 1024)
    (hb : parseBody code = pCtlr k) (hw : (k x).wf = true) : decode (eCtlr code x) = some (k x) :=
  decode_of (n := 1) (h := x.h.hint) (g := (guardBit x.h.guard)) (tail := (eCtlr code x).tail) rfl hc (guardBit_lt _) hb (pCtlr_e k code x) hw

theorem dec_pCtlw {k : Ctlw → Instr} {code : Nat} {x : Ctlw} (hc : code < 1024)
    (hb : parseBody code = pCtlw k) (hw : (k x).wf = true) : decode (eCtlw code x) = some (k x) :=
  decode_of (n := 1) (h := x.h.hint) (g := (guardBit x.h.guard)) (tail := (eCtlw code x).tail) rfl hc (guardBit_lt _) hb (pCtlw_e k code x) hw

theorem dec_pIsync {k : Isync → Instr} {code : Nat} {x : Isync} (hc : code < 1024)
    (hb : parseBody code = pIsync k) (hw : (k x).wf = true) : decode (eIsync code x) = some (k x) :=
  decode_of (n := 1) (h := x.h.hint) (g := (guardBit x.h.guard)) (tail := (eIsync code x).tail) rfl hc (guardBit_lt _) hb (pIsync_e k code x) hw

theorem dec_pSleep {k : Sleep → Instr} {code : Nat} {x : Sleep} (hc : code < 1024)
    (hb : parseBody code = pSleep k) (hw : (k x).wf = true) : decode (eSleep code x) = some (k x) :=
  decode_of (n := 1) (h := x.h.hint) (g := (guardBit x.h.guard)) (tail := (eSleep code x).tail) rfl hc (guardBit_lt _) hb (pSleep_e k code x) hw

end Sys2Proof
end

