-- ==== Sys2Proof/Laws/PerInstr.lean ====
section
/-! SUPPORT. The family RoundTrip: of each constructor, that the decoder reads an encoded well-formed instruction back. -/

namespace Sys2Proof.Laws.RoundTrip

/-- Decoding what the encoder writes for a well-formed instruction gives the instruction (Table 3-6; R58 to R64). -/
def Statement (i : Instr) : Prop := ∀ c, encode i = some c → i.wf = true → decode c = some i

theorem of_eq {i : Instr} {a : Code} (he : encode i = some a) (hd : i.wf = true → decode a = some i) : Statement i :=
  fun _ h hw => (Option.some.inj (he.symm.trans h)) ▸ hd hw

theorem nop x : Statement (.nop x) := of_eq rfl (dec_pN (by decide) rfl)
theorem exit x : Statement (.exit x) := of_eq rfl (dec_pN (by decide) rfl)
theorem yield_ x : Statement (.yield_ x) := of_eq rfl (dec_pN (by decide) rfl)
theorem ret x : Statement (.ret x) := of_eq rfl (dec_pN (by decide) rfl)
theorem trap x : Statement (.trap x) := of_eq rfl (dec_pJT (by decide) rfl)
theorem br x : Statement (.br x) := of_eq rfl (dec_pB (by decide) rfl)
theorem call x : Statement (.call x) := of_eq rfl (dec_pB (by decide) rfl)
theorem jmpi x : Statement (.jmpi x) := of_eq rfl (dec_pJmpi (by decide) rfl)
theorem calli x : Statement (.calli x) := of_eq rfl (dec_pCalli (by decide) rfl)
theorem brd x : Statement (.brd x) := of_eq rfl (dec_pBrd (by decide) rfl)
theorem brany x : Statement (.brany x) := of_eq rfl (dec_pBg (by decide) rfl)
theorem brall x : Statement (.brall x) := of_eq rfl (dec_pBg (by decide) rfl)
theorem loop x : Statement (.loop x) := of_eq rfl (dec_pLoop (by decide) rfl)
theorem loopi x : Statement (.loopi x) := of_eq rfl (dec_pLoopi (by decide) rfl)
theorem iadd x : Statement (.iadd x) := of_eq rfl (dec_pBin (by decide) rfl (cSat_lt _) (pSat_c _))
theorem isub x : Statement (.isub x) := of_eq rfl (dec_pBin (by decide) rfl (cSat_lt _) (pSat_c _))
theorem iaddc x : Statement (.iaddc x) := of_eq rfl (dec_pBinP (by decide) rfl (cBool_lt _) (pBool_c _))
theorem isubb x : Statement (.isubb x) := of_eq rfl (dec_pBinP (by decide) rfl (cBool_lt _) (pBool_c _))
theorem iaddi x : Statement (.iaddi x) := of_eq rfl (dec_pImmK (by decide) rfl (cSat_lt _) (pSat_c _))
theorem ineg x : Statement (.ineg x) := of_eq rfl (dec_pUn (by decide) rfl (cBool_lt _) (pBool_c _))
theorem iabs x : Statement (.iabs x) := of_eq rfl (dec_pUn (by decide) rfl (cBool_lt _) (pBool_c _))
theorem iadd64 x : Statement (.iadd64 x) := of_eq rfl (dec_pBin (by decide) rfl (cUnit_lt _) (pUnit_c _))
theorem isub64 x : Statement (.isub64 x) := of_eq rfl (dec_pBin (by decide) rfl (cUnit_lt _) (pUnit_c _))
theorem iaddi64 x : Statement (.iaddi64 x) := of_eq rfl (dec_pImmK (by decide) rfl (cUnit_lt _) (pUnit_c _))
theorem imin x : Statement (.imin x) := of_eq rfl (dec_pBin (by decide) rfl (cBool_lt _) (pBool_c _))
theorem imax x : Statement (.imax x) := of_eq rfl (dec_pBin (by decide) rfl (cBool_lt _) (pBool_c _))
theorem icmpp x : Statement (.icmpp x) := of_eq rfl (dec_pCmpP (by decide) rfl (cICmp_lt _) (pICmp_c _))
theorem icmppi x : Statement (.icmppi x) := of_eq rfl (dec_pCmpI (by decide) rfl (cICmpI_lt _) (pICmpI_c _))
theorem sel x : Statement (.sel x) := of_eq rfl (dec_pBinP (by decide) rfl (cUnit_lt _) (pUnit_c _))
theorem and_ x : Statement (.and_ x) := of_eq rfl (dec_pBin (by decide) rfl (cUnit_lt _) (pUnit_c _))
theorem or_ x : Statement (.or_ x) := of_eq rfl (dec_pBin (by decide) rfl (cUnit_lt _) (pUnit_c _))
theorem xor_ x : Statement (.xor_ x) := of_eq rfl (dec_pBin (by decide) rfl (cUnit_lt _) (pUnit_c _))
theorem not_ x : Statement (.not_ x) := of_eq rfl (dec_pUn (by decide) rfl (cUnit_lt _) (pUnit_c _))
theorem andi x : Statement (.andi x) := of_eq rfl (dec_pImmK (by decide) rfl (cUnit_lt _) (pUnit_c _))
theorem ori x : Statement (.ori x) := of_eq rfl (dec_pImmK (by decide) rfl (cUnit_lt _) (pUnit_c _))
theorem xori x : Statement (.xori x) := of_eq rfl (dec_pImmK (by decide) rfl (cUnit_lt _) (pUnit_c _))
theorem shl x : Statement (.shl x) := of_eq rfl (dec_pBin (by decide) rfl (cUnit_lt _) (pUnit_c _))
theorem shr x : Statement (.shr x) := of_eq rfl (dec_pBin (by decide) rfl (cUnit_lt _) (pUnit_c _))
theorem sar x : Statement (.sar x) := of_eq rfl (dec_pBin (by decide) rfl (cUnit_lt _) (pUnit_c _))
theorem rol x : Statement (.rol x) := of_eq rfl (dec_pBin (by decide) rfl (cUnit_lt _) (pUnit_c _))
theorem ror x : Statement (.ror x) := of_eq rfl (dec_pBin (by decide) rfl (cUnit_lt _) (pUnit_c _))
theorem shli x : Statement (.shli x) := of_eq rfl (dec_pUn (by decide) rfl (cFin32_lt _) (pFin32_c _))
theorem shri x : Statement (.shri x) := of_eq rfl (dec_pUn (by decide) rfl (cFin32_lt _) (pFin32_c _))
theorem sari x : Statement (.sari x) := of_eq rfl (dec_pUn (by decide) rfl (cFin32_lt _) (pFin32_c _))
theorem popc x : Statement (.popc x) := of_eq rfl (dec_pUn (by decide) rfl (cUnit_lt _) (pUnit_c _))
theorem clz x : Statement (.clz x) := of_eq rfl (dec_pUn (by decide) rfl (cUnit_lt _) (pUnit_c _))
theorem ctz x : Statement (.ctz x) := of_eq rfl (dec_pUn (by decide) rfl (cUnit_lt _) (pUnit_c _))
theorem brev x : Statement (.brev x) := of_eq rfl (dec_pUn (by decide) rfl (cUnit_lt _) (pUnit_c _))
theorem mov x : Statement (.mov x) := of_eq rfl (dec_pUn (by decide) rfl (cBool_lt _) (pBool_c _))
theorem movi x : Statement (.movi x) := of_eq rfl (dec_pJD (by decide) rfl)
theorem movhi x : Statement (.movhi x) := of_eq rfl (dec_pJD (by decide) rfl)
theorem movk x : Statement (.movk x) := of_eq rfl (dec_pMovKK (by decide) rfl)
theorem lea x : Statement (.lea x) := of_eq rfl (dec_pBin (by decide) rfl (cLea_lt _) (pLea_c _))
theorem shl64 x : Statement (.shl64 x) := of_eq rfl (dec_pBin (by decide) rfl (cUnit_lt _) (pUnit_c _))
theorem shr64 x : Statement (.shr64 x) := of_eq rfl (dec_pBin (by decide) rfl (cUnit_lt _) (pUnit_c _))
theorem sar64 x : Statement (.sar64 x) := of_eq rfl (dec_pBin (by decide) rfl (cUnit_lt _) (pUnit_c _))
theorem icmpp64 x : Statement (.icmpp64 x) := of_eq rfl (dec_pCmpP (by decide) rfl (cICmp_lt _) (pICmp_c _))
theorem imul x : Statement (.imul x) := of_eq rfl (dec_pBin (by decide) rfl (cUnit_lt _) (pUnit_c _))
theorem imulhi x : Statement (.imulhi x) := of_eq rfl (dec_pBin (by decide) rfl (cBool_lt _) (pBool_c _))
theorem imad x : Statement (.imad x) := of_eq rfl (dec_pTern (by decide) rfl (cUnit_lt _) (pUnit_c _))
theorem imulw x : Statement (.imulw x) := of_eq rfl (dec_pBin (by decide) rfl (cBool_lt _) (pBool_c _))
theorem imadw x : Statement (.imadw x) := of_eq rfl (dec_pTern (by decide) rfl (cBool_lt _) (pBool_c _))
theorem divstep x : Statement (.divstep x) := of_eq rfl (dec_pBin (by decide) rfl (cFin4_lt _) (pFin4_c _))
theorem divinit x : Statement (.divinit x) := of_eq rfl (dec_pUn (by decide) rfl (cBool_lt _) (pBool_c _))
theorem bfx x : Statement (.bfx x) := of_eq rfl (dec_pBin (by decide) rfl (cBool_lt _) (pBool_c _))
theorem bfi x : Statement (.bfi x) := of_eq rfl (dec_pTern (by decide) rfl (cUnit_lt _) (pUnit_c _))
theorem fadd x : Statement (.fadd x) := of_eq rfl (dec_pNBin (by decide) rfl (cArith_lt _) (pArith_c _))
theorem fsub x : Statement (.fsub x) := of_eq rfl (dec_pNBin (by decide) rfl (cArith_lt _) (pArith_c _))
theorem fmul x : Statement (.fmul x) := of_eq rfl (dec_pNBin (by decide) rfl (cArith_lt _) (pArith_c _))
theorem ffma x : Statement (.ffma x) := of_eq rfl (dec_pNTern (by decide) rfl (cArith_lt _) (pArith_c _))
theorem fmin x : Statement (.fmin x) := of_eq rfl (dec_pNBin (by decide) rfl (cExact_lt _) (pExact_c _))
theorem fmax x : Statement (.fmax x) := of_eq rfl (dec_pNBin (by decide) rfl (cExact_lt _) (pExact_c _))
theorem fcmpp x : Statement (.fcmpp x) := of_eq rfl (dec_pNCmp (by decide) rfl (cFCmp_lt _) (pFCmp_c _))
theorem fabs x : Statement (.fabs x) := of_eq rfl (dec_pUn (by decide) rfl (cBool_lt _) (pBool_c _))
theorem fneg x : Statement (.fneg x) := of_eq rfl (dec_pUn (by decide) rfl (cBool_lt _) (pBool_c _))
theorem fclass x : Statement (.fclass x) := of_eq rfl (dec_pUn (by decide) rfl (cBool_lt _) (pBool_c _))
theorem badd x : Statement (.badd x) := of_eq rfl (dec_pNBin (by decide) rfl (cArith_lt _) (pArith_c _))
theorem bsub x : Statement (.bsub x) := of_eq rfl (dec_pNBin (by decide) rfl (cArith_lt _) (pArith_c _))
theorem bmul x : Statement (.bmul x) := of_eq rfl (dec_pNBin (by decide) rfl (cArith_lt _) (pArith_c _))
theorem bfma x : Statement (.bfma x) := of_eq rfl (dec_pNTern (by decide) rfl (cArith_lt _) (pArith_c _))
theorem bpadd x : Statement (.bpadd x) := of_eq rfl (dec_pBin (by decide) rfl (cArith_lt _) (pArith_c _))
theorem bpsub x : Statement (.bpsub x) := of_eq rfl (dec_pBin (by decide) rfl (cArith_lt _) (pArith_c _))
theorem bpmul x : Statement (.bpmul x) := of_eq rfl (dec_pBin (by decide) rfl (cArith_lt _) (pArith_c _))
theorem bpfma x : Statement (.bpfma x) := of_eq rfl (dec_pTern (by decide) rfl (cArith_lt _) (pArith_c _))
theorem bpmin x : Statement (.bpmin x) := of_eq rfl (dec_pBin (by decide) rfl (cExact_lt _) (pExact_c _))
theorem bpmax x : Statement (.bpmax x) := of_eq rfl (dec_pBin (by decide) rfl (cExact_lt _) (pExact_c _))
theorem bmin x : Statement (.bmin x) := of_eq rfl (dec_pNBin (by decide) rfl (cExact_lt _) (pExact_c _))
theorem bmax x : Statement (.bmax x) := of_eq rfl (dec_pNBin (by decide) rfl (cExact_lt _) (pExact_c _))
theorem bcmpp x : Statement (.bcmpp x) := of_eq rfl (dec_pNCmp (by decide) rfl (cFCmp_lt _) (pFCmp_c _))
theorem faddi x : Statement (.faddi x) := of_eq rfl (dec_pImmK (by decide) rfl (cArith_lt _) (pArith_c _))
theorem fmuli x : Statement (.fmuli x) := of_eq rfl (dec_pImmK (by decide) rfl (cArith_lt _) (pArith_c _))
theorem ffmai x : Statement (.ffmai x) := of_eq rfl (dec_pImmE (by decide) rfl (cArith_lt _) (pArith_c _))
theorem rcp x : Statement (.rcp x) := of_eq rfl (dec_pUn (by decide) rfl (cExact_lt _) (pExact_c _))
theorem rsq x : Statement (.rsq x) := of_eq rfl (dec_pUn (by decide) rfl (cExact_lt _) (pExact_c _))
theorem sqrt x : Statement (.sqrt x) := of_eq rfl (dec_pUn (by decide) rfl (cExact_lt _) (pExact_c _))
theorem exp2 x : Statement (.exp2 x) := of_eq rfl (dec_pUn (by decide) rfl (cExact_lt _) (pExact_c _))
theorem log2 x : Statement (.log2 x) := of_eq rfl (dec_pUn (by decide) rfl (cExact_lt _) (pExact_c _))
theorem tanh x : Statement (.tanh x) := of_eq rfl (dec_pUn (by decide) rfl (cExact_lt _) (pExact_c _))
theorem sint x : Statement (.sint x) := of_eq rfl (dec_pUn (by decide) rfl (cExact_lt _) (pExact_c _))
theorem cost x : Statement (.cost x) := of_eq rfl (dec_pUn (by decide) rfl (cExact_lt _) (pExact_c _))
theorem sincost x : Statement (.sincost x) := of_eq rfl (dec_pUn (by decide) rfl (cExact_lt _) (pExact_c _))
theorem cvtfh x : Statement (.cvtfh x) := of_eq rfl (dec_pUn (by decide) rfl (cNarrowing_lt _) (pNarrowing_c _))
theorem cvthf x : Statement (.cvthf x) := of_eq rfl (dec_pUn (by decide) rfl (cHf_lt _) (pHf_c _))
theorem packh x : Statement (.packh x) := of_eq rfl (dec_pBin (by decide) rfl (cNarrowing_lt _) (pNarrowing_c _))
theorem cvtf8 x : Statement (.cvtf8 x) := of_eq rfl (dec_pTern (by decide) rfl (cF8_lt _) (pF8_c _))
theorem cvtf4 x : Statement (.cvtf4 x) := of_eq rfl (dec_pTern (by decide) rfl (cF4_lt _) (pF4_c _))
theorem cvt8f x : Statement (.cvt8f x) := of_eq rfl (dec_pOptB (by decide) rfl (cW8_lt _) (pW8_c _))
theorem cvt4f x : Statement (.cvt4f x) := of_eq rfl (dec_pOptB (by decide) rfl (cW4_lt _) (pW4_c _))
theorem mxpack x : Statement (.mxpack x) := of_eq rfl (dec_pUnC (by decide) rfl (cMxP_lt _) (pMxP_c _))
theorem mxunpk x : Statement (.mxunpk x) := of_eq rfl (dec_pUnC (by decide) rfl (cMxU_lt _) (pMxU_c _))
theorem cvtfi x : Statement (.cvtfi x) := of_eq rfl (dec_pUn (by decide) rfl (cCvtI_lt _) (pCvtI_c _))
theorem cvtif x : Statement (.cvtif x) := of_eq rfl (dec_pUn (by decide) rfl (cCvtI_lt _) (pCvtI_c _))
theorem cvtii x : Statement (.cvtii x) := of_eq rfl (dec_pUn (by decide) rfl (cCvtII_lt _) (pCvtII_c _))
theorem shfl x : Statement (.shfl x) := of_eq rfl (dec_pBin (by decide) rfl (cSeg_lt _) (pSeg_c _))
theorem shflup x : Statement (.shflup x) := of_eq rfl (dec_pTern (by decide) rfl (cSeg_lt _) (pSeg_c _))
theorem shfldn x : Statement (.shfldn x) := of_eq rfl (dec_pTern (by decide) rfl (cSeg_lt _) (pSeg_c _))
theorem shflx x : Statement (.shflx x) := of_eq rfl (dec_pBin (by decide) rfl (cSeg_lt _) (pSeg_c _))
theorem ballot x : Statement (.ballot x) := of_eq rfl (dec_pBallot (by decide) rfl)
theorem voteany x : Statement (.voteany x) := of_eq rfl (dec_pVote (by decide) rfl)
theorem voteall x : Statement (.voteall x) := of_eq rfl (dec_pVote (by decide) rfl)
theorem voteuni x : Statement (.voteuni x) := of_eq rfl (dec_pVote (by decide) rfl)
theorem pscan x : Statement (.pscan x) := of_eq rfl (dec_pUn (by decide) rfl (cScan_lt _) (pScan_c _))
theorem reduce x : Statement (.reduce x) := of_eq rfl (dec_pUn (by decide) rfl (cScan_lt _) (pScan_c _))
theorem match_ x : Statement (.match_ x) := of_eq rfl (dec_pUn (by decide) rfl (cBool_lt _) (pBool_c _))
theorem ld x : Statement (.ld x) := of_eq rfl (dec_pMem (by decide) rfl (cMemG_lt _) (pMemG_c _))
theorem st x : Statement (.st x) := of_eq rfl (dec_pMem (by decide) rfl (cMemG_lt _) (pMemG_c _))
theorem gld x : Statement (.gld x) := of_eq rfl (dec_pMem (by decide) rfl (cMemG_lt _) (pMemG_c _))
theorem sct x : Statement (.sct x) := of_eq rfl (dec_pMem (by decide) rfl (cMemG_lt _) (pMemG_c _))
theorem lds x : Statement (.lds x) := of_eq rfl (dec_pLoc (by decide) rfl (cMemG_lt _) (pMemG_c _))
theorem sts x : Statement (.sts x) := of_eq rfl (dec_pLoc (by decide) rfl (cMemG_lt _) (pMemG_c _))
theorem ldsr x : Statement (.ldsr x) := of_eq rfl (dec_pLoc (by decide) rfl (cMemG_lt _) (pMemG_c _))
theorem stsr x : Statement (.stsr x) := of_eq rfl (dec_pLoc (by decide) rfl (cMemG_lt _) (pMemG_c _))
theorem ldt x : Statement (.ldt x) := of_eq rfl (dec_pLoc (by decide) rfl (cMemG_lt _) (pMemG_c _))
theorem stt x : Statement (.stt x) := of_eq rfl (dec_pLoc (by decide) rfl (cMemG_lt _) (pMemG_c _))
theorem ldl x : Statement (.ldl x) := of_eq rfl (dec_pLoc (by decide) rfl (cMemG_lt _) (pMemG_c _))
theorem stl x : Statement (.stl x) := of_eq rfl (dec_pLoc (by decide) rfl (cMemG_lt _) (pMemG_c _))
theorem ldw x : Statement (.ldw x) := of_eq rfl (dec_pLoc (by decide) rfl (cMemG_lt _) (pMemG_c _))
theorem stw x : Statement (.stw x) := of_eq rfl (dec_pLoc (by decide) rfl (cMemG_lt _) (pMemG_c _))
theorem cmpst x : Statement (.cmpst x) := of_eq rfl (dec_pMem (by decide) rfl (cPack_lt _) (pPack_c _))
theorem expld x : Statement (.expld x) := of_eq rfl (dec_pMem (by decide) rfl (cPack_lt _) (pPack_c _))
theorem pref x : Statement (.pref x) := of_eq rfl (dec_pMemN (by decide) rfl (cPref_lt _) (pPref_c _))
theorem atomAdd x : Statement (.atomAdd x) := of_eq rfl (dec_pMem (by decide) rfl (cAtomG_lt _) (pAtomG_c _))
theorem atomMin x : Statement (.atomMin x) := of_eq rfl (dec_pMem (by decide) rfl (cAtomG_lt _) (pAtomG_c _))
theorem atomMax x : Statement (.atomMax x) := of_eq rfl (dec_pMem (by decide) rfl (cAtomG_lt _) (pAtomG_c _))
theorem atomAnd x : Statement (.atomAnd x) := of_eq rfl (dec_pMem (by decide) rfl (cAtomG_lt _) (pAtomG_c _))
theorem atomOr x : Statement (.atomOr x) := of_eq rfl (dec_pMem (by decide) rfl (cAtomG_lt _) (pAtomG_c _))
theorem atomXor x : Statement (.atomXor x) := of_eq rfl (dec_pMem (by decide) rfl (cAtomG_lt _) (pAtomG_c _))
theorem atomExch x : Statement (.atomExch x) := of_eq rfl (dec_pMem (by decide) rfl (cAtomG_lt _) (pAtomG_c _))
theorem atomCas x : Statement (.atomCas x) := of_eq rfl (dec_pMem (by decide) rfl (cAtomG_lt _) (pAtomG_c _))
theorem atomFadd x : Statement (.atomFadd x) := of_eq rfl (dec_pMem (by decide) rfl (cAtomG_lt _) (pAtomG_c _))
theorem atomFmin x : Statement (.atomFmin x) := of_eq rfl (dec_pMem (by decide) rfl (cAtomG_lt _) (pAtomG_c _))
theorem atomFmax x : Statement (.atomFmax x) := of_eq rfl (dec_pMem (by decide) rfl (cAtomG_lt _) (pAtomG_c _))
theorem atomAddBf16x2 x : Statement (.atomAddBf16x2 x) := of_eq rfl (dec_pMem (by decide) rfl (cAtomG_lt _) (pAtomG_c _))
theorem atomVismin x : Statement (.atomVismin x) := of_eq rfl (dec_pMem (by decide) rfl (cAtomG_lt _) (pAtomG_c _))
theorem redAdd x : Statement (.redAdd x) := of_eq rfl (dec_pMem (by decide) rfl (cAtomG_lt _) (pAtomG_c _))
theorem redMin x : Statement (.redMin x) := of_eq rfl (dec_pMem (by decide) rfl (cAtomG_lt _) (pAtomG_c _))
theorem redMax x : Statement (.redMax x) := of_eq rfl (dec_pMem (by decide) rfl (cAtomG_lt _) (pAtomG_c _))
theorem redFadd x : Statement (.redFadd x) := of_eq rfl (dec_pMem (by decide) rfl (cAtomG_lt _) (pAtomG_c _))
theorem redAddBf16x2 x : Statement (.redAddBf16x2 x) := of_eq rfl (dec_pMem (by decide) rfl (cAtomG_lt _) (pAtomG_c _))
theorem atomlCas x : Statement (.atomlCas x) := of_eq rfl (dec_pLoc (by decide) rfl (cAtomG_lt _) (pAtomG_c _))
theorem atomlAdd x : Statement (.atomlAdd x) := of_eq rfl (dec_pLoc (by decide) rfl (cAtomG_lt _) (pAtomG_c _))
theorem atomwCas x : Statement (.atomwCas x) := of_eq rfl (dec_pLoc (by decide) rfl (cAtomG_lt _) (pAtomG_c _))
theorem atomwAdd x : Statement (.atomwAdd x) := of_eq rfl (dec_pLoc (by decide) rfl (cAtomG_lt _) (pAtomG_c _))
theorem atomwExch x : Statement (.atomwExch x) := of_eq rfl (dec_pLoc (by decide) rfl (cAtomG_lt _) (pAtomG_c _))
theorem fence x : Statement (.fence x) := of_eq rfl (dec_pFenceI (by decide) rfl)
theorem fenceSurf x : Statement (.fenceSurf x) := of_eq rfl (dec_pFenceSurf (by decide) rfl)
theorem discard x : Statement (.discard x) := of_eq rfl (dec_pMemN (by decide) rfl (show (0 : Nat) < 1024 by decide) (pUnit_c _))
theorem cinv x : Statement (.cinv x) := of_eq rfl (dec_pMemN (by decide) rfl (cA64_lt _) (pA64_c _))
theorem cwb x : Statement (.cwb x) := of_eq rfl (dec_pMemN (by decide) rfl (cA64_lt _) (pA64_c _))
theorem cflush x : Statement (.cflush x) := of_eq rfl (dec_pMemN (by decide) rfl (cA64_lt _) (pA64_c _))
theorem mrsv x : Statement (.mrsv x) := of_eq rfl (dec_pMrsv (by decide) rfl)
theorem mrel x : Statement (.mrel x) := of_eq rfl (dec_pN (by decide) rfl)
theorem mlda x : Statement (.mlda x) := of_eq rfl (dec_pStage (by decide) rfl)
theorem mldb x : Statement (.mldb x) := of_eq rfl (dec_pStage (by decide) rfl)
theorem mma x : Statement (.mma x) := of_eq rfl (dec_pMma (by decide) rfl)
theorem mmaF32 x : Statement (.mmaF32 x) := of_eq rfl (dec_pMma (by decide) rfl)
theorem mzero x : Statement (.mzero x) := of_eq rfl (dec_pMzero (by decide) rfl)
theorem mst x : Statement (.mst x) := of_eq rfl (dec_pMst (by decide) rfl)
theorem gang x : Statement (.gang x) := of_eq rfl (dec_pGang (by decide) rfl)
theorem gangMma x : Statement (.gangMma x) := of_eq rfl (dec_pMma (by decide) rfl)
theorem bar x : Statement (.bar x) := of_eq rfl (dec_pBare (by decide) rfl)
theorem barc x : Statement (.barc x) := of_eq rfl (dec_pSrcA (by decide) rfl)
theorem gbar x : Statement (.gbar x) := of_eq rfl (dec_pDstD (by decide) rfl)
theorem voteg x : Statement (.voteg x) := of_eq rfl (dec_pVote (by decide) rfl)
theorem sete x : Statement (.sete x) := of_eq rfl (dec_pSetFE (by decide) rfl)
theorem setf x : Statement (.setf x) := of_eq rfl (dec_pSetFE (by decide) rfl)
theorem chain x : Statement (.chain x) := of_eq rfl (dec_pUn (by decide) rfl (cFin8_lt _) (pFin8_c _))
theorem enq x : Statement (.enq x) := of_eq rfl (dec_pMem (by decide) rfl (cQEnq_lt _) (pQEnq_c _))
theorem deq x : Statement (.deq x) := of_eq rfl (dec_pMem (by decide) rfl (cQEnq_lt _) (pQEnq_c _))
theorem launch x : Statement (.launch x) := of_eq rfl (dec_pMem (by decide) rfl (cQEnq_lt _) (pQEnq_c _))
theorem migr x : Statement (.migr x) := of_eq rfl (dec_pMigr (by decide) rfl)
theorem rets x : Statement (.rets x) := of_eq rfl (dec_pN (by decide) rfl)
theorem bclose x : Statement (.bclose x) := of_eq rfl (dec_pDstD (by decide) rfl)
theorem bwait x : Statement (.bwait x) := of_eq rfl (dec_pSrcA (by decide) rfl)
theorem poolq x : Statement (.poolq x) := of_eq rfl (dec_pUn (by decide) rfl (cUnit_lt _) (pUnit_c _))
theorem poolm x : Statement (.poolm x) := of_eq rfl (dec_pUnC (by decide) rfl (cPoolM_lt _) (pPoolM_c _))
theorem poolw x : Statement (.poolw x) := of_eq rfl (dec_pDstD (by decide) rfl)
theorem svc x : Statement (.svc x) := of_eq rfl (dec_pSvc (by decide) rfl)
theorem ctlr x : Statement (.ctlr x) := of_eq rfl (dec_pCtlr (by decide) rfl)
theorem ctlw x : Statement (.ctlw x) := of_eq rfl (dec_pCtlw (by decide) rfl)
theorem isync x : Statement (.isync x) := of_eq rfl (dec_pIsync (by decide) rfl)
theorem sleep x : Statement (.sleep x) := of_eq rfl (dec_pSleep (by decide) rfl)
theorem halt x : Statement (.halt x) := of_eq rfl (dec_pN (by decide) rfl)
theorem bkpt x : Statement (.bkpt x) := of_eq rfl (dec_pJT (by decide) rfl)
theorem eret x : Statement (.eret x) := of_eq rfl (dec_pN (by decide) rfl)
theorem producerCompletion x0 x1 : Statement (.producerCompletion x0 x1) := fun _ h _ => nomatch h
theorem remoteFill x0 x1 x2 : Statement (.remoteFill x0 x1 x2) := fun _ h _ => nomatch h
theorem pageWalk x0 x1 x2 : Statement (.pageWalk x0 x1 x2) := fun _ h _ => nomatch h
theorem cacWriteback x0 x1 : Statement (.cacWriteback x0 x1) := fun _ h _ => nomatch h
theorem resultRecordAppend x0 x1 : Statement (.resultRecordAppend x0 x1) := fun _ h _ => nomatch h
theorem issueSelect x0 : Statement (.issueSelect x0) := fun _ h _ => nomatch h
theorem strandIssueSelect x0 : Statement (.strandIssueSelect x0) := fun _ h _ => nomatch h
theorem loadLimitWindow x0 : Statement (.loadLimitWindow x0) := fun _ h _ => nomatch h
theorem sleepExpiry x0 x1 x2 : Statement (.sleepExpiry x0 x1 x2) := fun _ h _ => nomatch h
theorem barcSweepArrival x0 x1 x2 x3 x4 : Statement (.barcSweepArrival x0 x1 x2 x3 x4) := fun _ h _ => nomatch h
theorem barcSweepRelease x0 x1 x2 x3 : Statement (.barcSweepRelease x0 x1 x2 x3) := fun _ h _ => nomatch h
theorem gridBarrierRelease x0 x1 : Statement (.gridBarrierRelease x0 x1) := fun _ h _ => nomatch h
theorem matrixEntryStart x0 : Statement (.matrixEntryStart x0) := fun _ h _ => nomatch h
theorem matrixEntryFinish x0 : Statement (.matrixEntryFinish x0) := fun _ h _ => nomatch h
theorem stagingComplete x0 x1 : Statement (.stagingComplete x0 x1) := fun _ h _ => nomatch h
theorem multicastWindowRead x0 x1 : Statement (.multicastWindowRead x0 x1) := fun _ h _ => nomatch h
theorem jointOperationStart x0 : Statement (.jointOperationStart x0) := fun _ h _ => nomatch h
theorem moveSwitch x0 : Statement (.moveSwitch x0) := fun _ h _ => nomatch h
theorem moveRebuild x0 : Statement (.moveRebuild x0) := fun _ h _ => nomatch h
theorem moveComplete x0 : Statement (.moveComplete x0) := fun _ h _ => nomatch h
theorem tileFlush x0 x1 : Statement (.tileFlush x0 x1) := fun _ h _ => nomatch h
theorem moveWaitRelease x0 : Statement (.moveWaitRelease x0) := fun _ h _ => nomatch h
theorem roleListReturn x0 : Statement (.roleListReturn x0) := fun _ h _ => nomatch h
theorem copy x0 x1 : Statement (.copy x0 x1) := fun _ h _ => nomatch h
theorem fill x0 x1 : Statement (.fill x0 x1) := fun _ h _ => nomatch h
theorem vfill x0 x1 : Statement (.vfill x0 x1) := fun _ h _ => nomatch h
theorem tsend x0 x1 : Statement (.tsend x0 x1) := fun _ h _ => nomatch h
theorem plan x0 x1 : Statement (.plan x0 x1) := fun _ h _ => nomatch h
theorem planSend x0 x1 x2 : Statement (.planSend x0 x1 x2) := fun _ h _ => nomatch h
theorem copyComplete x0 x1 : Statement (.copyComplete x0 x1) := fun _ h _ => nomatch h
theorem mergeOpen x0 x1 : Statement (.mergeOpen x0 x1) := fun _ h _ => nomatch h
theorem mergeClose x0 x1 : Statement (.mergeClose x0 x1) := fun _ h _ => nomatch h
theorem frame x0 x1 : Statement (.frame x0 x1) := fun _ h _ => nomatch h
theorem absent x0 x1 : Statement (.absent x0 x1) := fun _ h _ => nomatch h
theorem sink x0 x1 : Statement (.sink x0 x1) := fun _ h _ => nomatch h
theorem route x0 x1 : Statement (.route x0 x1) := fun _ h _ => nomatch h
theorem unsink x0 x1 : Statement (.unsink x0 x1) := fun _ h _ => nomatch h
theorem sinkRelease x0 x1 x2 : Statement (.sinkRelease x0 x1 x2) := fun _ h _ => nomatch h
theorem serviceAccept x0 x1 : Statement (.serviceAccept x0 x1) := fun _ h _ => nomatch h
theorem rasterOpen x0 x1 : Statement (.rasterOpen x0 x1) := fun _ h _ => nomatch h
theorem draw x0 x1 : Statement (.draw x0 x1) := fun _ h _ => nomatch h
theorem resolve x0 x1 : Statement (.resolve x0 x1) := fun _ h _ => nomatch h
theorem rasterClose x0 x1 : Statement (.rasterClose x0 x1) := fun _ h _ => nomatch h
theorem clear x0 x1 : Statement (.clear x0 x1) := fun _ h _ => nomatch h
theorem trace x0 x1 : Statement (.trace x0 x1) := fun _ h _ => nomatch h
theorem sample x0 x1 : Statement (.sample x0 x1) := fun _ h _ => nomatch h
theorem endRecord x0 x1 : Statement (.endRecord x0 x1) := fun _ h _ => nomatch h
theorem contextEntryWake x0 : Statement (.contextEntryWake x0) := fun _ h _ => nomatch h
theorem contextLeave x0 : Statement (.contextLeave x0) := fun _ h _ => nomatch h
theorem queueTailWrite x0 x1 : Statement (.queueTailWrite x0 x1) := fun _ h _ => nomatch h
theorem placeCluster x0 : Statement (.placeCluster x0) := fun _ h _ => nomatch h
theorem placeStrand x0 : Statement (.placeStrand x0) := fun _ h _ => nomatch h
theorem placeSuperstepGrid x0 : Statement (.placeSuperstepGrid x0) := fun _ h _ => nomatch h
theorem taskRetire x0 : Statement (.taskRetire x0) := fun _ h _ => nomatch h
theorem sumpTimeout x0 x1 : Statement (.sumpTimeout x0 x1) := fun _ h _ => nomatch h
theorem sumpPlace x0 : Statement (.sumpPlace x0) := fun _ h _ => nomatch h
theorem balancerSample x0 : Statement (.balancerSample x0) := fun _ h _ => nomatch h
theorem balancerDeferredMove x0 x1 : Statement (.balancerDeferredMove x0 x1) := fun _ h _ => nomatch h
theorem faultRecordWrite x0 : Statement (.faultRecordWrite x0) := fun _ h _ => nomatch h
theorem resume x0 : Statement (.resume x0) := fun _ h _ => nomatch h
theorem redirect x0 : Statement (.redirect x0) := fun _ h _ => nomatch h
theorem enter x0 : Statement (.enter x0) := fun _ h _ => nomatch h
theorem retire x0 : Statement (.retire x0) := fun _ h _ => nomatch h
theorem stop x0 : Statement (.stop x0) := fun _ h _ => nomatch h
theorem inval x0 : Statement (.inval x0) := fun _ h _ => nomatch h
theorem preempt x0 : Statement (.preempt x0) := fun _ h _ => nomatch h
theorem restore x0 : Statement (.restore x0) := fun _ h _ => nomatch h
theorem migrate x0 : Statement (.migrate x0) := fun _ h _ => nomatch h
theorem migrationResume x0 : Statement (.migrationResume x0) := fun _ h _ => nomatch h
theorem freeze x0 : Statement (.freeze x0) := fun _ h _ => nomatch h
theorem thaw x0 : Statement (.thaw x0) := fun _ h _ => nomatch h
theorem routeUpdate x0 x1 x2 : Statement (.routeUpdate x0 x1 x2) := fun _ h _ => nomatch h
theorem routeUpdateAck x0 x1 x2 : Statement (.routeUpdateAck x0 x1 x2) := fun _ h _ => nomatch h
theorem hostSnoop x0 x1 : Statement (.hostSnoop x0 x1) := fun _ h _ => nomatch h
theorem cxlMemRequest x0 : Statement (.cxlMemRequest x0) := fun _ h _ => nomatch h
theorem linkRetrain x0 : Statement (.linkRetrain x0) := fun _ h _ => nomatch h
theorem linkUp x0 : Statement (.linkUp x0) := fun _ h _ => nomatch h
theorem linkDownTimeout x0 x1 : Statement (.linkDownTimeout x0 x1) := fun _ h _ => nomatch h
theorem fabricBlockWrite x0 : Statement (.fabricBlockWrite x0) := fun _ h _ => nomatch h
theorem packetForward x0 x1 : Statement (.packetForward x0 x1) := fun _ h _ => nomatch h
theorem tilePacketArrival x0 x1 : Statement (.tilePacketArrival x0 x1) := fun _ h _ => nomatch h
theorem nodeDeadline x0 x1 x2 x3 x4 : Statement (.nodeDeadline x0 x1 x2 x3 x4) := fun _ h _ => nomatch h
theorem leafFrameClose x0 x1 x2 : Statement (.leafFrameClose x0 x1 x2) := fun _ h _ => nomatch h
theorem keepAliveSend x0 x1 : Statement (.keepAliveSend x0 x1) := fun _ h _ => nomatch h
theorem keepAliveArrival x0 x1 : Statement (.keepAliveArrival x0 x1) := fun _ h _ => nomatch h
theorem childTimeout x0 x1 x2 x3 : Statement (.childTimeout x0 x1 x2 x3) := fun _ h _ => nomatch h
theorem absentNotice x0 x1 : Statement (.absentNotice x0 x1) := fun _ h _ => nomatch h
theorem sessionClose x0 x1 : Statement (.sessionClose x0 x1) := fun _ h _ => nomatch h
theorem rootTileDelivery x0 x1 : Statement (.rootTileDelivery x0 x1) := fun _ h _ => nomatch h
theorem frameRecord x0 x1 x2 x3 : Statement (.frameRecord x0 x1 x2 x3) := fun _ h _ => nomatch h
theorem go x0 : Statement (.go x0) := fun _ h _ => nomatch h
theorem lattolWrite x0 x1 : Statement (.lattolWrite x0 x1) := fun _ h _ => nomatch h
theorem clklimWrite x0 x1 : Statement (.clklimWrite x0 x1) := fun _ h _ => nomatch h
theorem mgmtWindowWrite x0 x1 x2 : Statement (.mgmtWindowWrite x0 x1 x2) := fun _ h _ => nomatch h
theorem powerOn x0 : Statement (.powerOn x0) := fun _ h _ => nomatch h
theorem firmware x0 x1 : Statement (.firmware x0 x1) := fun _ h _ => nomatch h
theorem selftest x0 x1 x2 : Statement (.selftest x0 x1 x2) := fun _ h _ => nomatch h
theorem memory x0 x1 : Statement (.memory x0 x1) := fun _ h _ => nomatch h
theorem links x0 x1 x2 : Statement (.links x0 x1 x2) := fun _ h _ => nomatch h
theorem idleTimeout x0 : Statement (.idleTimeout x0) := fun _ h _ => nomatch h
theorem powerEntryComplete x0 : Statement (.powerEntryComplete x0) := fun _ h _ => nomatch h
theorem powerWake x0 : Statement (.powerWake x0) := fun _ h _ => nomatch h
theorem powerExitComplete x0 : Statement (.powerExitComplete x0) := fun _ h _ => nomatch h
theorem thermalStep x0 x1 : Statement (.thermalStep x0 x1) := fun _ h _ => nomatch h
theorem grantMapWrite x0 : Statement (.grantMapWrite x0) := fun _ h _ => nomatch h
theorem grantArrival x0 x1 x2 : Statement (.grantArrival x0 x1 x2) := fun _ h _ => nomatch h
theorem patrolScrub : Statement (.patrolScrub) := fun _ h _ => nomatch h
theorem lifetimeRecordWrite : Statement (.lifetimeRecordWrite) := fun _ h _ => nomatch h
theorem getVersion : Statement (.getVersion) := fun _ h _ => nomatch h
theorem getCapabilities : Statement (.getCapabilities) := fun _ h _ => nomatch h
theorem negotiateAlgorithms : Statement (.negotiateAlgorithms) := fun _ h _ => nomatch h
theorem getDigests : Statement (.getDigests) := fun _ h _ => nomatch h
theorem getCertificate x0 : Statement (.getCertificate x0) := fun _ h _ => nomatch h
theorem challenge x0 x1 : Statement (.challenge x0 x1) := fun _ h _ => nomatch h
theorem getMeasurements x0 x1 : Statement (.getMeasurements x0 x1) := fun _ h _ => nomatch h
theorem debugHalt x0 : Statement (.debugHalt x0) := fun _ h _ => nomatch h
theorem debugResume x0 : Statement (.debugResume x0) := fun _ h _ => nomatch h
theorem debugStep x0 : Statement (.debugStep x0) := fun _ h _ => nomatch h
theorem debugRead x0 : Statement (.debugRead x0) := fun _ h _ => nomatch h
theorem debugWrite x0 : Statement (.debugWrite x0) := fun _ h _ => nomatch h
theorem commit x0 : Statement (.commit x0) := fun _ h _ => nomatch h
theorem drop x0 : Statement (.drop x0) := fun _ h _ => nomatch h
theorem debugRevoke x0 : Statement (.debugRevoke x0) := fun _ h _ => nomatch h
theorem storeCompletion x0 x1 : Statement (.storeCompletion x0 x1) := fun _ h _ => nomatch h
theorem portWordArrival x0 x1 x2 : Statement (.portWordArrival x0 x1 x2) := fun _ h _ => nomatch h
theorem relocationComplete x0 : Statement (.relocationComplete x0) := fun _ h _ => nomatch h
theorem softError x0 x1 : Statement (.softError x0 x1) := fun _ h _ => nomatch h

end Sys2Proof.Laws.RoundTrip
end

