-- ==== Sys2Proof/Laws/Steps.lean ====
section
/-! SUPPORT. What a turn, an issue and the operations every meaning ends in can do: one inversion each, so that no proof unfolds the step. -/

namespace Sys2Proof.Machine

/-! The answers -/

/-- A turn keeps its effect, or needs memory of dies in S3 and brings those back instead. -/
theorem unlessDeep_cases {s t : State} {again : Nat → State → State} {o : Out} (h : unlessDeep s again o = .next t) :
    (o = .next t ∧ deepDies s t = []) ∨
      ∃ x d ds, o = .next x ∧ deepDies s x = d :: ds ∧ t = again d ((d :: ds).foldl askDie s) := by
  unfold unlessDeep at h
  split at h
  · rename_i x
    split at h
    · cases h
      exact .inl ⟨rfl, by assumption⟩
    · rename_i d ds e
      cases h
      exact .inr ⟨x, d, ds, rfl, e, rfl⟩
  · rename_i hn
    exact absurd h (hn t)

/-- An instruction keeps its effect, or has completed a command that found no room and waits for room. -/
theorem unlessCrowded_cases {s t : State} {o : Out} (h : unlessCrowded s o = .next t) :
    o = .next t ∨ ∃ x u un e sp r, o = .next x ∧ s.actor = some u ∧ s.unit? u = some un ∧ un.running = some (e, sp) ∧
      crowded s x un = some r ∧ t = park s u e (.engine r) sp.stage := by
  unfold unlessCrowded at h
  split at h
  · rename_i x u hu
    split at h
    · exact .inl h
    · rename_i un hun
      split at h
      · rename_i e sp r hr hc
        cases h
        exact .inr ⟨x, u, un, e, sp, r, rfl, hu, hun, hr, hc, rfl⟩
      · exact .inl h
  · exact .inl h

theorem endIssue_next {t : State} {o : Out} (h : endIssue o = .next t) : ∃ x, o = .next x ∧ t = { x with actor := none } := by
  unfold endIssue at h
  split at h
  · rename_i x
    cases h
    exact ⟨x, rfl, rfl⟩
  · rename_i hn
    exact absurd h (hn t)

/-- The step takes the first turn of the agenda, or begins a new cycle. -/
theorem step_cases {s t : State} (h : step s = .next t) :
    (s.agenda = [] ∧ t = nextCycle s) ∨
      (∃ u rest, s.agenda = .issue u :: rest ∧ issueStep u { s with agenda := rest } = .next t) ∨
      ∃ x rest, s.agenda = x :: rest ∧ takeTurn { s with agenda := rest } x = .next t := by
  unfold step at h
  split at h
  · rename_i e
    exact .inl ⟨e, (Host.Outcome.next.inj h).symm⟩
  · rename_i u rest e
    exact .inr (.inl ⟨u, rest, e, h⟩)
  · rename_i x rest _ e
    exact .inr (.inr ⟨x, rest, e, h⟩)

/-- An event turn is held, or runs the event. -/
theorem eventTurn_cases {s t : State} {e : Event} (h : takeTurn s (.event e) = .next t) :
    holdEvent s e = some t ∨ (holdEvent s e = none ∧ unlessDeep s (fun d t => holdFor t d e) (runEvent e s) = .next t) := by
  cases hx : holdEvent s e with
  | some x =>
    simp only [takeTurn, hx] at h
    exact .inl (congrArg some (Host.Outcome.next.inj h))
  | none =>
    simp only [takeTurn, hx] at h
    exact .inr ⟨rfl, h⟩

/-- An instruction of the core does nothing without a unit, traps, retires with its guard off, waits, or acts (R61, R70, R24). -/
theorem issue_cases {i : Instr} {s t : State} {body : Issue → State → State} (h : issue i s body = .next t) :
    (ready i s = .idle ∧ t = s) ∨ (∃ x, ready i s = .illegal x ∧ t = trapHere s x.u x.e causeIllegalOp) ∨
      (∃ x, ready i s = .off x ∧ t = retire s x.u x.e) ∨ (∃ x w, ready i s = .waits x w ∧ t = park s x.u x.e w x.sp.stage) ∨
      (∃ x c, ready i s = .broken x c ∧ t = trapHere s x.u x.e c) ∨ ∃ x, ready i s = .acts x ∧ t = body x s := by
  unfold issue at h
  split at h <;> rename_i e <;> cases h
  · exact .inl ⟨e, rfl⟩
  · exact .inr (.inl ⟨_, e, rfl⟩)
  · exact .inr (.inr (.inl ⟨_, e, rfl⟩))
  · exact .inr (.inr (.inr (.inl ⟨_, _, e, rfl⟩)))
  · exact .inr (.inr (.inr (.inr (.inl ⟨_, _, e, rfl⟩))))
  · exact .inr (.inr (.inr (.inr (.inr ⟨_, e, rfl⟩))))

/-! What the endings change -/

/-- The parts that the unit in turn and the plans may change, erased. -/
def besideUnits (s : State) : State := { s with units := [], agenda := [] }

theorem besideUnits_putUnit (s : State) (u : Nat) (x : UnitSt) : besideUnits (s.putUnit u x) = besideUnits s := rfl

theorem besideUnits_modUnit (s : State) (u : Nat) (f : UnitSt → UnitSt) : besideUnits (s.modUnit u f) = besideUnits s := rfl

/-- A split that waits changes its unit and nothing else. -/
theorem besideUnits_park (s : State) (u e : Nat) (w : Wait) (n : Nat) : besideUnits (park s u e w n) = besideUnits s := rfl

theorem besideUnits_wakeFaults (s : State) (d : Nat) : besideUnits (wakeFaults s d) = besideUnits s := by
  unfold wakeFaults; split <;> rfl

theorem unit_wakeFaults (s : State) (d v : Nat) : (wakeFaults s d).unit? v = s.unit? v := by
  unfold wakeFaults; split <;> rfl

/-- A trap changes its unit and wakes the die's writer, and changes nothing else (R303, R305). -/
theorem besideUnits_takeTrap (s : State) (u e : Nat) (a : TrapArgs) : besideUnits (takeTrap s u e a) = besideUnits s := by
  unfold takeTrap
  split
  · rfl
  · split
    · rfl
    · rw [besideUnits_wakeFaults]; rfl

theorem besideUnits_trapHere (s : State) (u e c : Nat) : besideUnits (trapHere s u e c) = besideUnits s := by
  unfold trapHere
  split
  · rfl
  · split
    · rfl
    · exact besideUnits_takeTrap _ _ _ _

theorem mem_takeTrap (s : State) (u e : Nat) (a : TrapArgs) : (takeTrap s u e a).mem = s.mem := by
  have h := congrArg State.mem (besideUnits_takeTrap s u e a)
  exact h

/-- A split's waiting leaves every other unit as it was. -/
theorem unit_park {s : State} {u v : Nat} (h : v ≠ u) (e : Nat) (w : Wait) (n : Nat) : (park s u e w n).unit? v = s.unit? v :=
  Tab.find?_modify_ne _ _ h

/-- A trap leaves every other unit as it was. -/
theorem unit_takeTrap {s : State} {u v : Nat} (h : v ≠ u) (e : Nat) (a : TrapArgs) : (takeTrap s u e a).unit? v = s.unit? v := by
  unfold takeTrap
  split
  · rfl
  · split
    · rfl
    · rw [unit_wakeFaults]
      exact Tab.find?_put_ne _ _ h

end Sys2Proof.Machine
end

