-- ==== Sys2Proof/Tests/Slice0.lean ====
section
/-! SUPPORT. The model's own tests: ill-formed terms, words written out from the spec's encodings, single steps on small states with results computed by hand from the spec, and, for the hypotheses of every statement, a state and operands that meet them. -/

namespace Sys2Proof.Tests

open Sys2Proof Sys2Proof.Machine Sys2Proof.Safety

set_option maxRecDepth 100000

/-! One theorem at a time: each checks a state of its own. -/

set_option Elab.async false

/-! Small states -/

/-- The first unit of a kind. -/
def uid (strand : Bool) : Nat := if strand then strandUid 0 else groupUid 0 0

/-- A group, or a strand, about to perform its first instruction, with page 0 translated and nothing else in the machine. -/
def ground (strand : Bool) : State :=
  { placeWordLine (placeWordUnit State.reset strand) strand [] with agenda := [], actor := some (uid strand) }

/-- The placed group. -/
def g0 : State := ground false

/-- The placed strand. -/
def s0 : State := ground true

/-- The team of the placed group. -/
def key0 : Nat := 8192

/-- Changes the placed unit. -/
def onUnit (strand : Bool) (s : State) (f : UnitSt → UnitSt) : State := s.modUnit (uid strand) f

/-- Changes the placed group. -/
def onG (f : UnitSt → UnitSt) (s : State := g0) : State := onUnit false s f

/-- Changes the running split of the placed group. -/
def onSplit (f : Split → Split) (s : State := g0) : State := onG (fun un => un.modSplit 0 f) s

/-- Gives an s register of the placed group a value. -/
def withS (n : Nat) (w : Word) (s : State := g0) : State :=
  onG (fun un => { un with regs := { un.regs with s := Tab.set 0 un.regs.s n w } }) s

/-- Gives predicate 1 of the placed group a mask. -/
def withP (m : Mask) (s : State := g0) : State := onG (fun un => { un with regs := { un.regs with p := [(1, m)] } }) s

/-- The line of the running split. -/
def withLine (l : List Byte) (s : State := g0) : State := onSplit (fun sp => { sp with line := some l }) s

/-- The instruction acts, and the issue meets the condition. -/
def acted (i : Instr) (s : State) (p : Issue → Bool := fun _ => true) : Bool :=
  match ready i s with
  | .acts c => p c
  | _ => false

/-- What `acted` says, as the statements say it. -/
theorem acts_of_acted {i : Instr} {s : State} {p : Issue → Bool} (h : acted i s p = true) : ∃ c, Acts i s c ∧ p c = true := by
  unfold acted at h
  unfold Acts
  split at h
  · exact ⟨_, ‹_›, h⟩
  · contradiction

/-- The state that an instruction leaves, the state before it where there is none. -/
def after (i : Instr) (s : State) : State :=
  match exec i s with
  | .next t => t
  | _ => s

/-- The placed unit. -/
def unitOf (strand : Bool) (s : State) : UnitSt := (s.unit? (uid strand)).getD (newUnit (wordWhere strand 0 0) 0 0 [] [] 0)

/-- Hint and guard absent. -/
def h0 : Hdr := ⟨⟨0, false⟩, none⟩

/-- The guard p1. -/
def h1 : Hdr := ⟨⟨0, false⟩, some ⟨1, false⟩⟩

/-- No narrow operand. -/
def nar0 : Narrow := ⟨none, none, none⟩

/-- Rounding by ctl.round, subnormals kept. -/
def ar : ArithMod := ⟨.dyn, false⟩

/-- Subnormals kept. -/
def ex : ExactMod := ⟨false⟩

/-- A 32-bit access. -/
def m32 : MemMod := ⟨.b32, false, false, none⟩

/-! Ill-formed terms are refused -/

/-- Operand rules: a destination may be no identity value and no result queue, a source no command register; pairs are even; a uniform
base is an s pair; widths, spans and the kinds of destination that an entry names. -/
theorem test_wf_refuses_operands :
    (([.iadd ⟨h0, .id .core, .v 1, .v 2, .wrap⟩, .iadd ⟨h0, .e 8, .v 1, .v 2, .wrap⟩, .iadd ⟨h0, .v 0, .e 7, .v 2, .wrap⟩,
       .iadd64 ⟨h0, .v 1, .v 2, .v 4, ()⟩, .iadd64 ⟨h0, .v 2, .id .lane, .v 4, ()⟩, .jmpi ⟨h0, .zero⟩, .loop ⟨⟨0, false⟩, 0, .v 1, ⟨0, 2⟩⟩,
       .shfl ⟨h0, .s 1, .v 1, .v 2, ⟨0⟩⟩, .ballot ⟨h0, .q 1, 3, false⟩, .ld ⟨h0, .v 1, .v 2, 0, .v 4, m32⟩,
       .ld ⟨h0, .v 2, .v 8, 0, .s 4, ⟨.b128, false, false, none⟩⟩, .lds ⟨h0, .s 2, .v 8, 0, m32⟩, .ldl ⟨h0, .v 1, .s 2, 0, m32⟩,
       .ld ⟨h0, .v 1, .q 0, 0, .s 4, m32⟩, .st ⟨h0, .q 0, .v 2, 0, .s 4, m32⟩, .gld ⟨h0, .s 1, .v 2, 0, .s 4, m32⟩,
       .atomAdd ⟨h0, .zero, .v 2, 0, .s 4, ⟨false, false, false, none⟩⟩, .cmpst ⟨h0, .v 1, .zero, 0, .s 4, ⟨.b32⟩⟩, .gbar ⟨h0, .v 1⟩,
       .sete ⟨h0, .v 1020, 4⟩, .setf ⟨h0, .s 60, 4⟩, .ctlw ⟨h0, .q 0, 4⟩] : List Instr).map Instr.wf).any id = false := by decide +kernel

/-- Modifier rules: .N32 of a scan, narrow fields without a format, the element of an FP8 field, .SAT and signed types of a store, a load's
.SAT, .A64 of the 32-bit spaces, the types of CMPST and EXPLD, a signed atomic, sizes of the floating atomics, MRSV's count, .NS without a
narrow format, .NB of DEQ, a queue number of LAUNCH, and control registers that are not there, are read-only, or are pairs. -/
theorem test_wf_refuses_modifiers :
    (([.pscan ⟨h0, .v 1, .v 2, ⟨.add, true, false⟩⟩, .reduce ⟨h0, .v 1, .v 2, ⟨.add, false, true⟩⟩,
       .fadd ⟨h0, .v 1, .v 2, .v 3, ⟨none, some 0, none⟩, ar⟩, .fadd ⟨h0, .v 1, .v 2, .v 3, ⟨some .e4m3, none, none⟩, ar⟩,
       .fadd ⟨h0, .v 1, .v 2, .v 3, ⟨some .e5m2, some 4, none⟩, ar⟩, .st ⟨h0, .v 1, .v 2, 0, .s 4, ⟨.i8, false, false, none⟩⟩,
       .st ⟨h0, .v 1, .v 2, 0, .s 4, ⟨.b32, true, false, none⟩⟩, .ld ⟨h0, .v 1, .v 2, 0, .s 4, ⟨.e4m3, true, false, none⟩⟩,
       .lds ⟨h0, .v 1, .v 2, 0, ⟨.b32, false, true, none⟩⟩, .cmpst ⟨h0, .v 4, .s 2, 0, .s 4, ⟨.b128⟩⟩,
       .expld ⟨h0, .v 1, .s 2, 0, .s 4, ⟨.bf16⟩⟩, .atomAdd ⟨h0, .v 1, .v 2, 0, .s 4, ⟨false, true, false, none⟩⟩,
       .atomFadd ⟨h0, .v 2, .v 4, 0, .s 4, ⟨true, false, false, none⟩⟩, .atomVismin ⟨h0, .v 2, .v 4, 0, .s 4, ⟨false, false, false, none⟩⟩,
       .mrsv ⟨h0, 1, .s 12, 0⟩, .mrsv ⟨h0, 1, .s 12, 17⟩, .mlda ⟨h0, 0, .s 4, 0, .s 8, .e4m3, true, .scr⟩,
       .mldb ⟨h0, 0, .s 4, 0, .s 8, .bf16, true, .scr⟩, .mst ⟨h0, 0, .s 4, 0, .s 8, .f32, true, false, false⟩,
       .deq ⟨h0, .s 2, .s 4, 0, .s 6, ⟨3, true, false⟩⟩, .launch ⟨h0, .s 2, .s 4, 0, .s 6, ⟨3, false, false⟩⟩,
       .ctlr ⟨h0, .s 3, 14⟩, .ctlr ⟨h0, .s 3, 1⟩, .ctlw ⟨h0, .s 4, 6⟩] : List Instr).map Instr.wf).any id = false := by decide +kernel

/-! Instructions that act: the hypotheses of the statements about registers (files 05 to 07), of their frames, and of WhenItActs -/

/-- File 06. -/
def integerForms : List Instr :=
  [.iadd ⟨h0, .v 1, .v 2, .v 3, .wrap⟩, .isub ⟨h0, .v 1, .v 2, .v 3, .wrap⟩, .iaddc ⟨h0, .v 1, .v 2, .v 3, 4, false⟩,
    .isubb ⟨h0, .v 1, .v 2, .v 3, 4, false⟩, .iaddi ⟨h0, .v 1, .v 2, 7, .satI32⟩, .ineg ⟨h0, .v 1, .v 2, true⟩,
    .iabs ⟨h0, .v 1, .v 2, true⟩, .iadd64 ⟨h0, .v 2, .v 4, .v 6, ()⟩, .isub64 ⟨h0, .v 2, .v 4, .v 6, ()⟩,
    .iaddi64 ⟨h0, .v 2, .v 4, 7, ()⟩, .imin ⟨h0, .v 1, .v 2, .v 3, true⟩, .imax ⟨h0, .v 1, .v 2, .v 3, true⟩,
    .icmpp ⟨h0, 1, .v 2, .v 3, 4, ⟨.lt, false, true⟩⟩, .icmppi ⟨h0, 1, .v 2, 3, ⟨.lt, false⟩⟩, .sel ⟨h0, .v 1, .v 2, .v 3, 4, ()⟩,
    .and_ ⟨h0, .v 1, .v 2, .v 3, ()⟩, .or_ ⟨h0, .v 1, .v 2, .v 3, ()⟩, .xor_ ⟨h0, .v 1, .v 2, .v 3, ()⟩,
    .shl ⟨h0, .v 1, .v 2, .v 3, ()⟩, .shr ⟨h0, .v 1, .v 2, .v 3, ()⟩, .sar ⟨h0, .v 1, .v 2, .v 3, ()⟩, .rol ⟨h0, .v 1, .v 2, .v 3, ()⟩,
    .ror ⟨h0, .v 1, .v 2, .v 3, ()⟩, .imul ⟨h0, .v 1, .v 2, .v 3, ()⟩, .not_ ⟨h0, .v 1, .v 2, ()⟩, .popc ⟨h0, .v 1, .v 2, ()⟩,
    .clz ⟨h0, .v 1, .v 2, ()⟩, .ctz ⟨h0, .v 1, .v 2, ()⟩, .brev ⟨h0, .v 1, .v 2, ()⟩, .andi ⟨h0, .v 1, .v 2, 0xFFFF, ()⟩,
    .ori ⟨h0, .v 1, .v 2, 0xFFFF, ()⟩, .xori ⟨h0, .v 1, .v 2, 0xFFFF, ()⟩, .shli ⟨h0, .v 1, .v 2, 31⟩, .shri ⟨h0, .v 1, .v 2, 31⟩,
    .sari ⟨h0, .v 1, .v 2, 31⟩, .mov ⟨h0, .v 2, .v 4, true⟩, .mov ⟨h0, .zero, .id .lane, false⟩, .movi ⟨h0, .s 4, 0x8000⟩,
    .movhi ⟨h0, .s 4, 0x8000⟩, .movk ⟨h0, .v 2, 5, .w32⟩, .movk ⟨h0, .v 2, 5, .sx64⟩, .movk ⟨h0, .v 2, 5, .zx64⟩,
    .lea ⟨h0, .v 2, .v 4, .v 6, ⟨7, true⟩⟩, .shl64 ⟨h0, .v 2, .v 4, .v 6, ()⟩, .shr64 ⟨h0, .v 2, .v 4, .v 6, ()⟩,
    .sar64 ⟨h0, .v 2, .v 4, .v 6, ()⟩, .icmpp64 ⟨h0, 1, .v 2, .v 4, 4, ⟨.lt, false, true⟩⟩, .imulhi ⟨h0, .v 1, .v 2, .v 3, true⟩,
    .bfx ⟨h0, .v 1, .v 2, .v 3, true⟩, .imad ⟨h0, .v 1, .v 2, .v 3, .v 4, ()⟩, .bfi ⟨h0, .v 1, .v 2, .v 3, .v 4, ()⟩,
    .imulw ⟨h0, .v 2, .v 4, .v 6, true⟩, .imadw ⟨h0, .v 2, .v 4, .v 6, .v 8, true⟩, .divstep ⟨h0, .v 2, .v 4, .v 6, 3⟩,
    .divinit ⟨h0, .v 2, .v 4, true⟩]

/-- File 07. -/
def floatForms : List Instr :=
  [.fadd ⟨h0, .v 1, .v 2, .v 3, nar0, ar⟩, .fsub ⟨h0, .v 1, .v 2, .v 3, nar0, ar⟩, .fmul ⟨h0, .v 1, .v 2, .v 3, nar0, ar⟩,
    .badd ⟨h0, .v 1, .v 2, .v 3, nar0, ar⟩, .bsub ⟨h0, .v 1, .v 2, .v 3, nar0, ar⟩, .bmul ⟨h0, .v 1, .v 2, .v 3, nar0, ar⟩,
    .ffma ⟨h0, .v 1, .v 2, .v 3, .v 4, nar0, ar⟩, .bfma ⟨h0, .v 1, .v 2, .v 3, .v 4, nar0, ar⟩, .fmin ⟨h0, .v 1, .v 2, .v 3, nar0, ex⟩,
    .fmax ⟨h0, .v 1, .v 2, .v 3, nar0, ex⟩, .bmin ⟨h0, .v 1, .v 2, .v 3, nar0, ex⟩, .bmax ⟨h0, .v 1, .v 2, .v 3, nar0, ex⟩,
    .fcmpp ⟨h0, 1, .v 2, .v 3, 4, nar0, ⟨.num, false, false⟩⟩, .bcmpp ⟨h0, 1, .v 2, .v 3, 4, nar0, ⟨.num, false, false⟩⟩,
    .fabs ⟨h0, .v 1, .v 2, true⟩, .fneg ⟨h0, .v 1, .v 2, true⟩, .fclass ⟨h0, .v 1, .v 2, true⟩, .bpadd ⟨h0, .v 1, .v 2, .v 3, ar⟩,
    .bpsub ⟨h0, .v 1, .v 2, .v 3, ar⟩, .bpmul ⟨h0, .v 1, .v 2, .v 3, ar⟩, .bpfma ⟨h0, .v 1, .v 2, .v 3, .v 4, ar⟩,
    .bpmin ⟨h0, .v 1, .v 2, .v 3, ex⟩, .bpmax ⟨h0, .v 1, .v 2, .v 3, ex⟩, .faddi ⟨h0, .v 1, .v 2, 0x3F800000, ar⟩,
    .fmuli ⟨h0, .v 1, .v 2, 0x3F800000, ar⟩, .ffmai ⟨h0, .v 1, .v 2, .v 3, 0x3F800000, ar⟩, .rcp ⟨h0, .v 1, .v 2, ex⟩,
    .rsq ⟨h0, .v 1, .v 2, ex⟩, .sqrt ⟨h0, .v 1, .v 2, ex⟩, .exp2 ⟨h0, .v 1, .v 2, ex⟩, .log2 ⟨h0, .v 1, .v 2, ex⟩,
    .tanh ⟨h0, .v 1, .v 2, ex⟩, .sint ⟨h0, .v 1, .v 2, ex⟩, .cost ⟨h0, .v 1, .v 2, ex⟩, .sincost ⟨h0, .v 2, .v 4, ex⟩,
    .cvtfh ⟨h0, .v 1, .v 2, ⟨.sr, false⟩⟩, .cvthf ⟨h0, .v 1, .v 2, ⟨true, false⟩⟩, .packh ⟨h0, .v 1, .v 2, .v 3, ⟨.det .rup, true⟩⟩,
    .cvtf8 ⟨h0, .v 1, .v 2, .v 3, .v 4, ⟨true, true, true, true⟩⟩, .cvtf4 ⟨h0, .v 1, .v 2, .v 3, .v 4, ⟨3, true⟩⟩,
    .cvt8f ⟨h0, .v 1, .v 2, some (.v 3), ⟨true, 3⟩⟩, .cvt4f ⟨h0, .v 1, .v 2, none, ⟨7⟩⟩, .mxpack ⟨h0, .v 1, .v 2, ⟨.e2m1, true⟩⟩,
    .mxunpk ⟨h0, .v 1, .v 2, ⟨.e2m1⟩⟩, .cvtfi ⟨h0, .v 2, .v 4, ⟨.rtz, .i64⟩⟩, .cvtif ⟨h0, .v 1, .v 2, ⟨.rtz, .n32⟩⟩,
    .cvtii ⟨h0, .v 1, .v 2, ⟨.w8, true, true, true⟩⟩]

/-- Lane exchange. -/
def exchangeForms : List Instr :=
  [.shfl ⟨h0, .v 1, .v 2, .v 3, ⟨5⟩⟩, .shflx ⟨h0, .v 1, .v 2, .v 3, ⟨5⟩⟩, .shflup ⟨h0, .v 1, .v 2, .v 3, .v 4, ⟨0⟩⟩,
    .shfldn ⟨h0, .v 1, .v 2, .v 3, .v 4, ⟨0⟩⟩, .ballot ⟨h0, .s 5, 3, true⟩, .voteany ⟨h0, 1, 3, true⟩, .voteall ⟨h0, 1, 3, true⟩,
    .voteuni ⟨h0, 1, 3, true⟩, .match_ ⟨h0, .v 1, .v 2, true⟩, .pscan ⟨h0, .v 1, .v 2, ⟨.fadd, false, true⟩⟩,
    .reduce ⟨h0, .s 1, .v 2, ⟨.min, true, false⟩⟩]

/-- AddsAndSubtracts to Division, with the guard absent and with it true in the odd lanes. -/
theorem test_integer_forms_act :
    integerForms.all (fun i => acted i g0 (fun c => decide (c.lanes = BitVec.allOnes 32))) = true := by decide +kernel

/-- FloatingArithmetic, FloatComparesAndSigns, SpecialsAndConversions: they act, and no condition is enabled whichever are raised. -/
theorem test_float_forms_act :
    floatForms.all (fun i => acted i g0 (fun c => decide (trapLanes c.un c.lanes (fun _ => 31) = 0))) = true := by decide +kernel

/-- LaneExchange, ScansAndReductions. -/
theorem test_exchange_forms_act : exchangeForms.all (fun i => acted i g0 (fun c => decide (c.lanes ≠ 0))) = true := by decide +kernel

/-- RegisterInstructionFrames: each has results, with flags just for those of file 07 that raise conditions, and names no port. -/
theorem test_register_forms_have_results :
    ((integerForms ++ exchangeForms.take 9).all (fun i => match results i with | some r => !r.flags | none => false) &&
      (integerForms ++ floatForms ++ exchangeForms).all (fun i => (results i).isSome &&
        (srcs i ++ dsts i).all (fun x => match x.1 with | .q _ => false | .e _ => false | _ => true))) = true := by decide +kernel

/-- ArithmeticTraps: a condition enabled in every lane; in some lanes, with an entry free for the division. -/
theorem test_arithmetic_trap_hypotheses :
    let i : Instr := .fadd ⟨h0, .v 1, .v 2, .v 3, nar0, ar⟩
    let all := onG (fun un => { un with ctl := { un.ctl with trapmask := lanes32.map (fun l => (l, 31)) } })
    let one := onG (fun un => { un with ctl := { un.ctl with trapmask := [(3, 31)] } })
    (acted i all (fun c => decide (trapLanes c.un c.lanes (fun _ => 1) = c.sp.mask)) &&
      acted i one (fun c =>
        let trp := trapLanes c.un c.lanes (fun _ => 1)
        decide (trp = 8 ∧ trp ≠ c.sp.mask) &&
          (match divide c.un c.e c.sp [(c.sp.mask &&& ~~~trp, { c.sp with st := .ready }), (trp, { c.sp with st := .trapped })] with
           | some (_, es) => decide (es = [0, 1])
           | none => false))) = true := by decide +kernel

/-- Division: amounts of steps that develop 32 bits; RoundingModes: a position above the last; CodesRoundToThemselves: a code that is no NaN. -/
theorem test_arithmetic_hypotheses :
    (([3, 3, 3, 3] : List (Fin 4)).map (fun k => 2 ^ k.val)).sum = 32 ∧ (-3 : Int) < 2 ∧
      (fmtF32.decode 0x7F800000).isNan = false ∧ (fmtBf16.decode 0x8001).isNan = false ∧ 0x8001 < 2 ^ fmtBf16.width := by decide +kernel

/-! Control flow (file 05) -/

/-- No hint. -/
def hi0 : Hint := ⟨0, false⟩

/-- Head 2 of the line before. -/
def tgt : Target := ⟨-1, 2⟩

/-- The group stands at the NOP of a line of one head, with the next line behind it. -/
def inLine : State := withLine (lineOf ⟨0, []⟩ true)

/-- The parts of a split whose lanes l take a branch. -/
def parts (c : Issue) (l : Mask) : List (Mask × Split) :=
  [(l, { c.sp with st := .ready }), (c.sp.mask &&& ~~~l, { c.sp with st := .ready })]

/-- TransfersOfControl: transfers of the whole split, their targets uniform, TRAP of the whole split, and the rest. -/
theorem test_transfer_hypotheses :
    ([Instr.br ⟨h0, tgt⟩, .call ⟨h0, tgt⟩, .jmpi ⟨h0, .v 2⟩, .calli ⟨h0, .s 4, .v 2⟩, .ret hi0, .trap ⟨h0, 5⟩, .nop hi0, .yield_ hi0,
       .exit hi0].all (fun i =>
      acted i g0 (fun c => decide (c.lanes = c.sp.mask ∧ c.lanes ≠ 0) && (lanesOf c.lanes).all (fun l => c.dword g0 l (.v 2) == 0)))) = true := by
  decide +kernel

/-- TransfersOfControl: a TRAP that divides; a loop begins with a count of one and a successor, and is skipped with a count of zero. -/
theorem test_divided_trap_and_loop_hypotheses :
    (acted (.trap ⟨h1, 5⟩) (withP 5) (fun c =>
        match divide c.un c.e c.sp (parts c c.lanes) with | some (_, es) => decide (c.sp.mask &&& ~~~c.lanes ≠ 0 ∧ es = [0, 1]) | none => false) &&
      acted (.loop ⟨hi0, 3, .s 1, tgt⟩) (withS 1 1 inLine) (fun c =>
        decide (c.word (withS 1 1 inLine) c.low (.s 1) ≠ 0) && (succ? c.sp c.sp.pc).isSome) &&
      acted (.loopi ⟨hi0, 3, 1, tgt⟩) inLine (fun c => (succ? c.sp c.sp.pc).isSome) &&
      acted (.loop ⟨hi0, 3, .zero, tgt⟩) inLine (fun c => c.word inLine c.low .zero == 0) &&
      acted (.loopi ⟨hi0, 3, 0, tgt⟩) inLine) = true := by decide +kernel

/-- Every entry of the reconvergence structure is taken, but for n. -/
def crowdedEntries (n : Nat) (s : State) : State :=
  onG (fun un => { un with entries := (List.range (32 - n)).map (fun i =>
    (i, if i = 0 then un.entries.head?.elim (.join ⟨0, 0, 0, none, none⟩) (·.2) else .join ⟨0, 1, 0, none, none⟩)) }) s

/-- DivergentBranches: a guard that passes in two lanes, with no entry free and with an entry free; BRD with all lanes, with none, and with
some and one entry, and two, free. -/
theorem test_divergence_hypotheses :
    let some_ := withP 5
    let partly (c : Issue) : Bool := decide (c.sp.mask &&& ~~~c.lanes ≠ 0)
    let brd : Instr := .brd ⟨hi0, ⟨1, false⟩, tgt, tgt⟩
    let holds (c : Issue) (l : Nat) : Bool := readP c.un 1 l
    let mixed (c : Issue) : Bool := (lanesOf c.sp.mask).any (holds c) && (lanesOf c.sp.mask).any (fun l => !holds c l)
    (acted (.br ⟨h1, tgt⟩) some_ (fun c => partly c && decide ((freeEntries c.un).length = 31) && (divide c.un c.e c.sp (parts c c.lanes)).isSome) &&
      acted (.br ⟨h1, tgt⟩) (crowdedEntries 0 some_) (fun c => partly c && decide (freeEntries c.un = [])) &&
      acted brd (withP (BitVec.allOnes 32)) (fun c => (lanesOf c.sp.mask).all (holds c) && decide (c.sp.mask ≠ 0)) &&
      acted brd g0 (fun c => (lanesOf c.sp.mask).all (fun l => !holds c l)) &&
      acted brd some_ (fun c => mixed c && decide (2 ≤ (freeEntries c.un).length)) &&
      acted brd (crowdedEntries 1 some_) (fun c => mixed c && decide ((freeEntries c.un).length = 1)) &&
      acted (.brany ⟨hi0, ⟨1, false⟩, tgt⟩) some_ && acted (.brall ⟨hi0, ⟨1, true⟩, tgt⟩) g0) = true := by decide +kernel

/-! Accesses (files 08 and 09) -/

/-- The bytes from pa on. -/
def withBytes (pa : Nat) (bs : List Byte) (s : State := g0) : State :=
  { s with mem := (run pa bs).foldl (fun (m : Tab Byte) (w : Nat × Byte) => Tab.set 0 m w.1 w.2) s.mem }

/-- A table of four levels at 0x40000 that maps the first 2 MiB to themselves. -/
def tables : Tab Byte :=
  [(0x40000, 0x01), (0x40001, 0x10), (0x40002, 0x04), (0x41000, 0x01), (0x41001, 0x20), (0x41002, 0x04),
   (0x42000, 0x01), (0x42001, 0x30), (0x42002, 0x04), (0x43000, 0x2F)]

/-- Context 0 has that table; what memory holds stands below it. Of the identity record there is what die 0 has: service units, scan-out
engines, HBM4. -/
def mapped (s : State) : State :=
  { s.modCtx 0 (fun c => { c with ptroot := 0x40000 }) with
    mem := s.mem ++ tables, mgmt := { s.mgmt with ident := [(47, 8), (48, 8), (49, 24), (50, 4), (52, 128)] } }

/-- The table stands in memory, context 0 has it, and so has die 0 the memory that it maps. -/
def maps (s : State) : Bool :=
  decide (rootOf s 0 = some 0x40000 ∧ rdNat s 0x40000 8 = 0x41001 ∧ rdNat s 0x41000 8 = 0x42001 ∧ rdNat s 0x42000 8 = 0x43001 ∧
    rdNat s 0x43000 8 = 0x2F ∧ (tierOf s 0x41000).isSome ∧ (tierOf s 0x42000).isSome ∧ (tierOf s 0x43000).isSome ∧ pageOk s 0 21)

/-- Under that table the first 2 MiB are mapped to themselves. -/
theorem xlate_of_maps {s : State} {va : Nat} (w : Bool) (h : maps s = true) (hv : va < 2 ^ 21) : xlate s 0 va w = .ok va := by
  obtain ⟨hr, h4, h3, h2, h1, t1, t2, t3, hp⟩ := of_decide_eq_true h
  have z (hi lo : Nat) (hlo : 21 ≤ lo) : bits va hi lo = 0 := by
    have : va / 2 ^ lo = 0 := Nat.div_eq_of_lt (lt_of_lt_of_le hv (Nat.pow_le_pow_right (by decide) hlo))
    simp [bits, this]
  have zb : bit va 55 = false := Nat.testBit_lt_two_pow (lt_of_lt_of_le hv (by decide))
  have ix (l : Nat) : (if l = 3 then bits va 55 48 else bits va (20 + 9 * (l + 1)) (12 + 9 * (l + 1))) = 0 := by
    split
    · exact z _ _ (by decide)
    · exact z _ _ (by omega)
  have step (l t e u : Nat) (hr : rdNat s t 8 = e) (h0 : bit e 0 = true) (h3 : bit e 3 = false)
      (hc : (pteClean e && bits e 5 4 == 0) = true) (hu : bits e 47 12 * 4096 = u) (ht : (tierOf s u).isSome = true) :
      walkFrom s 0 va (l + 1) t = walkFrom s 0 va l u := by
    simp [walkFrom, ix l, hr, h0, h3, hu, ht, (Bool.and_eq_true_iff.1 hc).1, (beq_iff_eq.1 (Bool.and_eq_true_iff.1 hc).2)]
  have e0 : bits 0x2F 47 12 * 4096 = 0 := by decide
  have ec : pteClean 0x2F = true := by decide
  have eb : bit 0x2F 0 = true ∧ bit 0x2F 1 = true ∧ bit 0x2F 2 = true ∧ bit 0x2F 3 = true ∧ bits 0x2F 5 4 = 2 := by decide
  have last : walkFrom s 0 va 1 0x43000 = .leaf { ctx := 0, va := va / 2 ^ 21 * 2 ^ 21, lg := 21, pa := 0, w := true, x := true } := by
    rw [walkFrom]
    simp only [ix 0, h1, Nat.mul_zero, Nat.add_zero, eb, acceptLeaf, e0, ec, hp]
    simp
  have hw : walk s 0 va = walkFrom s 0 va 1 0x43000 := by
    simp only [walk, hr]
    rw [step 3 _ _ _ h4 (by decide) (by decide) (by decide) (by decide) t1, step 2 _ _ _ h3 (by decide) (by decide) (by decide) (by decide) t2,
      step 1 _ _ _ h2 (by decide) (by decide) (by decide) (by decide) t3]
  have hc : canonical va = true := by simp [canonical, z, zb]
  simp [xlate, hc, hw, last, Tlb.phys]
  exact hv

/-- Under that table a span of the first 2 MiB reads as memory holds it. -/
theorem rdVirt_of_maps {s : State} {va n : Nat} (h : maps s = true) (hv : va + n ≤ 2 ^ 21) : rdVirt s 0 va n = some (rdBytes s va n) := by
  have (l : List Nat) (hl : ∀ i ∈ l, i < n) : l.foldr (fun i acc => match acc, xlate s 0 ((va + i) % 2 ^ 64) false with
      | some l, .ok pa => some (rd8 s pa :: l)
      | _, _ => none) (some []) = some (l.map (fun i => rd8 s (va + i))) := by
    induction l with
    | nil => rfl
    | cons a l ih =>
      have := hl a (List.mem_cons_self ..)
      have hm : (va + a) % 2 ^ 64 = va + a := Nat.mod_eq_of_lt (by omega)
      rw [List.foldr_cons, ih (fun i hi => hl i (List.mem_cons_of_mem _ hi)), hm, xlate_of_maps _ h (by omega)]; rfl
  exact this _ (fun i hi => List.mem_range.1 hi)

/-- An access is fresh and every lane passes its checks: the hypotheses of its issue (AccessesIssue). -/
def passes (i : Instr) (sh : Shape) (addr : State → Issue → Nat → DWord) (data : State → Issue → Nat → List Word) (s : State) : Bool :=
  acted i s (fun c =>
    decide (c.sp.stage = 0) && (pendingAccess c.un c.e).isNone && !computePhase s c.un &&
    let s1 := issuedIn s c sh (addr s c) (data s c)
    match s1.unit? c.u with
    | none => false
    | some un => (lanesOf c.lanes).all (fun l =>
        match checkLane s1 { c with un := un } c.sp sh.space sh.load (!sh.load) (addr s c l) (typeBytes sh.ty) with
        | .ok _ => true
        | _ => false))

/-- No lane's check wants a page walk and the lowest lane fails: the hypotheses of AccessesFailWhole. -/
def failsFirst (i : Instr) (sh : Shape) (addr : State → Issue → Nat → DWord) (data : State → Issue → Nat → List Word) (s : State) : Bool :=
  acted i s (fun c =>
    decide (c.sp.stage = 0) && (pendingAccess c.un c.e).isNone && !computePhase s c.un &&
    let s1 := issuedIn s c sh (addr s c) (data s c)
    match s1.unit? c.u with
    | none => false
    | some un =>
      let r (l : Nat) := checkLane s1 { c with un := un } c.sp sh.space sh.load (!sh.load) (addr s c l) (typeBytes sh.ty)
      (match r c.low with | .bad .. => true | _ => false) &&
        (lanesOf c.lanes).all (fun l => match r l with | .ok _ | .bad .. => true | _ => false))

/-- An open tile of the placed team. -/
def withTile (s : State := g0) : State :=
  s.modCi 0 (fun ci => { ci with tiles := [(0, { team := key0, home := none, bpp := 4, data := [] })] })

/-- No data. -/
def noData (_ : State) (_ : Issue) (_ : Nat) : List Word := []

/-- A load and a store of a wide base. -/
def wide (ld : Bool) : Mem MemMod := ⟨h0, .v 1, .v 2, if ld then 0x7FFC else 0x7FF8, .s 6, m32⟩

/-- A load and a store of a near base. -/
def near (o : BitVec 16) : Loc MemMod := ⟨h0, .v 1, .v 2, o, m32⟩

/-- The same of a strand. -/
def nearS (o : BitVec 16) : Loc MemMod := ⟨h0, .s 1, .s 2, o, m32⟩

theorem test_load_hypotheses :
    (passes (.ld (wide true)) ⟨.glob, true, .b32, false, false⟩ (wideAddr (.v 2) (.s 6) 0x7FFC false) noData g0 &&
      passes (.gld (wide true)) ⟨.glob, true, .b32, false, true⟩ (wideAddr (.v 2) (.s 6) 0x7FFC false) noData g0 &&
      passes (.lds (near 0x7FFC)) ⟨.scr, true, .b32, false, false⟩ (nearAddr (.v 2) 0x7FFC) noData g0 &&
      passes (.ldsr (near 4)) ⟨.rmt, true, .b32, false, false⟩ (nearAddr (.v 2) 4) noData g0 &&
      passes (.ldt (near 508)) ⟨.til, true, .b32, false, false⟩ (nearAddr (.v 2) 508) noData withTile &&
      passes (.ldl (nearS 0x7FFC)) ⟨.loc, true, .b32, false, false⟩ (nearAddr (.s 2) 0x7FFC) noData s0 &&
      passes (.ldw (nearS 4)) ⟨.win, true, .b32, false, false⟩ (nearAddr (.s 2) 4) noData s0) = true := by decide +kernel

theorem test_store_hypotheses :
    (passes (.st (wide false)) ⟨.glob, false, .b32, false, false⟩ (wideAddr (.v 2) (.s 6) 0x7FF8 false) (dataWords (.v 1) 1) g0 &&
      passes (.sct (wide false)) ⟨.glob, false, .b32, false, true⟩ (wideAddr (.v 2) (.s 6) 0x7FF8 false) (dataWords (.v 1) 1) g0 &&
      passes (.sts (near 0)) ⟨.scr, false, .b32, false, false⟩ (nearAddr (.v 2) 0) (dataWords (.v 1) 1) g0 &&
      passes (.stsr (near 0)) ⟨.rmt, false, .b32, false, false⟩ (nearAddr (.v 2) 0) (dataWords (.v 1) 1) g0 &&
      passes (.stt (near 0)) ⟨.til, false, .b32, false, false⟩ (nearAddr (.v 2) 0) (dataWords (.v 1) 1) withTile &&
      passes (.stl (nearS 0)) ⟨.loc, false, .b32, false, false⟩ (nearAddr (.s 2) 0) (dataWords (.s 1) 1) s0 &&
      passes (.stw (nearS 0)) ⟨.win, false, .b32, false, false⟩ (nearAddr (.s 2) 0) (dataWords (.s 1) 1) s0) = true := by decide +kernel

/-- AccessesFailWhole: an address whose top bits do not copy bit 55, one that no role has, a tile that is not open, beyond local memory. -/
theorem test_failing_access_hypotheses :
    let far := onG (fun un => { un with regs := { un.regs with s := [(7, 0x01000000)] } })
    (failsFirst (.ld (wide true)) ⟨.glob, true, .b32, false, false⟩ (wideAddr (.v 2) (.s 6) 0x7FFC false) noData far &&
      failsFirst (.st (wide false)) ⟨.glob, false, .b32, false, false⟩ (wideAddr (.v 2) (.s 6) 0x7FF8 false) (dataWords (.v 1) 1) far &&
      failsFirst (.lds (near (-4))) ⟨.scr, true, .b32, false, false⟩ (nearAddr (.v 2) (-4)) noData g0 &&
      failsFirst (.sts (near (-4))) ⟨.scr, false, .b32, false, false⟩ (nearAddr (.v 2) (-4)) (dataWords (.v 1) 1) g0 &&
      failsFirst (.ldsr (near (-4))) ⟨.rmt, true, .b32, false, false⟩ (nearAddr (.v 2) (-4)) noData g0 &&
      failsFirst (.stsr (near (-4))) ⟨.rmt, false, .b32, false, false⟩ (nearAddr (.v 2) (-4)) (dataWords (.v 1) 1) g0 &&
      failsFirst (.ldt (near 508)) ⟨.til, true, .b32, false, false⟩ (nearAddr (.v 2) 508) noData g0 &&
      failsFirst (.stt (near 512)) ⟨.til, false, .b32, false, false⟩ (nearAddr (.v 2) 512) (dataWords (.v 1) 1) withTile &&
      failsFirst (.ldl (nearS (-4))) ⟨.loc, true, .b32, false, false⟩ (nearAddr (.s 2) (-4)) noData s0 &&
      failsFirst (.stl (nearS (-4))) ⟨.loc, false, .b32, false, false⟩ (nearAddr (.s 2) (-4)) (dataWords (.s 1) 1) s0 &&
      failsFirst (.ldw (nearS (-4))) ⟨.win, true, .b32, false, false⟩ (nearAddr (.s 2) (-4)) noData s0 &&
      failsFirst (.stw (nearS (-4))) ⟨.win, false, .b32, false, false⟩ (nearAddr (.s 2) (-4)) (dataWords (.s 1) 1) s0) = true := by
  decide +kernel

/-- PackedLinesTypes: CMPST and EXPLD fresh, aligned, with every element passing. -/
def packs (i : Instr) (load : Bool) (ty : MType) (d base sr : Operand) (off : BitVec 16) (s : State) : Bool :=
  acted i s (fun c =>
    let b := BitVec.ofInt 64 ((c.dword s c.low base).toNat + off.toInt)
    let n0 := (c.word s c.low sr).toNat
    let sh : Shape := ⟨.glob, load, ty, false, true⟩
    let addr (l : Nat) : DWord := BitVec.ofNat 64 (b.toNat + (n0 + (lanesOf c.lanes).countP (fun k => decide (k < l))) * typeBytes ty)
    let s1 := beginAccess c (if load then countLoad s c.un else s) (toPerform c sh) addr
      (fun l => if load then [] else dataWords d ty.regs s c l) (destRegs i)
    decide (c.sp.stage = 0 ∧ b.toNat % typeBytes ty = 0) && (pendingAccess c.un c.e).isNone && !computePhase s c.un &&
    match s1.unit? c.u with
    | none => false
    | some un => (lanesOf c.lanes).all (fun l =>
        match checkLane s1 { c with un := un } c.sp .glob load (!load) (addr l) (typeBytes ty) with
        | .ok _ => true
        | _ => false))

theorem test_packed_and_line_hypotheses :
    (packs (.cmpst ⟨h0, .v 1, .s 2, 8, .s 4, ⟨.b32⟩⟩) false .b32 (.v 1) (.s 2) (.s 4) 8 (withS 4 3) &&
      packs (.expld ⟨h0, .v 1, .s 2, 8, .s 4, ⟨.i16⟩⟩) true .i16 (.v 1) (.s 2) (.s 4) 8 (withS 4 3) &&
      [Instr.pref ⟨h0, .v 1, 0, .s 4, ⟨true, false⟩⟩, .cinv ⟨h0, .v 1, 0, .s 4, ⟨false⟩⟩, .cwb ⟨h0, .v 1, 0, .s 4, ⟨false⟩⟩,
        .cflush ⟨h0, .v 1, 0, .s 4, ⟨false⟩⟩].all (fun i => acted i g0 (fun c => !computePhase g0 c.un))) = true ∧
    ((fmtBf16.decode 0x7F80).isNan = false ∧ (fmtBf16.decode 0x7F81).isNan = true) := by decide +kernel

/-- The accesses and atomics, for their frames. -/
def accessForms : List Instr :=
  let a : Mem AtomMod := ⟨h0, .v 1, .v 2, 0, .s 6, ⟨false, false, false, none⟩⟩
  let c : Mem AtomMod := ⟨h0, .v 4, .v 2, 0, .s 6, ⟨false, false, false, none⟩⟩
  let v : Mem AtomMod := ⟨h0, .v 4, .v 2, 0, .s 6, ⟨true, false, false, none⟩⟩
  [.ld (wide true), .gld (wide true), .st (wide false), .sct (wide false), .lds (near 0), .sts (near 0), .ldsr (near 0), .stsr (near 0),
   .ldt (near 0), .stt (near 0), .cmpst ⟨h0, .v 1, .s 2, 8, .s 4, ⟨.b32⟩⟩, .expld ⟨h0, .v 1, .s 2, 8, .s 4, ⟨.i16⟩⟩,
   .pref ⟨h0, .v 1, 0, .s 4, ⟨true, false⟩⟩, .cinv ⟨h0, .v 1, 0, .s 4, ⟨false⟩⟩, .cwb ⟨h0, .v 1, 0, .s 4, ⟨false⟩⟩,
   .cflush ⟨h0, .v 1, 0, .s 4, ⟨false⟩⟩,
   .atomAdd a, .atomMin a, .atomMax a, .atomAnd a, .atomOr a, .atomXor a, .atomExch a, .atomCas c, .atomFadd a, .atomFmin a, .atomFmax a,
   .atomAddBf16x2 a, .atomVismin v, .redAdd a, .redMin a, .redMax a, .redFadd a, .redAddBf16x2 a]

/-- The same of a strand. -/
def strandForms : List Instr :=
  let l : Loc AtomMod := ⟨h0, .s 4, .s 2, 0, ⟨false, false, false, none⟩⟩
  [.ldl (nearS 0), .stl (nearS 0), .ldw (nearS 0), .stw (nearS 0), .atomlCas l, .atomlAdd l, .atomwCas l, .atomwAdd l, .atomwExch l]

/-- AccessFramesAndStores: they act, have results and name no port. -/
theorem test_access_frame_hypotheses :
    (let ok (s : State) (i : Instr) : Bool := acted i s && (accessResults i).isSome &&
       (srcs i ++ dsts i).all (fun x => match x.1 with | .q _ => false | .e _ => false | _ => true)
     accessForms.all (ok withTile) && strandForms.all (ok s0)) = true := by decide +kernel

/-- AtomicsAndFences: the atomics pass their checks, in global, local and window space. -/
theorem test_atomic_hypotheses :
    (let ok (s : State) (sp : Space) (z : Nat) (i : Instr) : Bool := acted i s (fun c =>
       decide (c.sp.stage = 0) && (pendingAccess c.un c.e).isNone && !computePhase s c.un &&
       (lanesOf c.lanes).all (fun _ => match checkAtomic s c sp 0 z with | .ok _ => true | _ => false))
     (accessForms.drop 16).all (ok g0 .glob 8) && ((strandForms.drop 4).take 2).all (ok s0 .loc 4) &&
       (strandForms.drop 6).all (ok s0 .win 4)) = true := by decide +kernel

/-- AtomicsAndFences: nothing is outstanding at a FENCE; DISCARD of no page and of one that its table maps for writing. -/
theorem test_fence_and_discard_hypotheses :
    let d : Instr := .discard ⟨h0, .zero, 0, .s 4, ()⟩
    let one := mapped (withS 4 1)
    (acted (.fence ⟨h0, ⟨.sys, .ar⟩⟩) g0 (fun c => decide (memOps c.un c.e (fun _ => true) = [])) &&
      acted d g0 (fun c => !computePhase g0 c.un && c.word g0 c.low (.s 4) == 0) &&
      acted d one (fun c => !computePhase one c.un && c.word one c.low (.s 4) == 1 && canonical 0 &&
        (match walk one c.un.at_.ctx 0 with | .leaf p => decide (p.lg = 21 ∧ p.w = true) | _ => false) &&
        (match discardPages one c.un.at_.ctx 21 1 0 [] 0 with | .ok t => decide (t.length = 1) | _ => false))) = true := by decide +kernel

/-- An operation of lane 0 at byte pa, next to be performed. -/
def opAt (i : Instr) (pa : Nat) (w : Word) (d : List Operand) : Op :=
  { instr := i, pc := dw wordBase, lanes := 1, holders := [0], addr := [(0, dw pa)], place := [(0, .glob pa)], data := [(0, w)],
    dests := d, done := 0, count := 0, issued := 0, stage := 0, fault := none }

/-- The placed strand with an operation outstanding. -/
def withOp (o : Op) (s : State := s0) : State := onUnit true s (fun un => { un with ops := [(0, o)], nextOp := 1 })

/-- The strand's operation 0 is next to be performed. -/
def performs (s : State) : Bool :=
  match s.unit? (uid true) with
  | none => false
  | some un => match Tab.find? un.ops 0 with
    | none => false
    | some o => un.at_.strand && decide (un.entries ≠ [] ∧ un.gather = none ∧ slotReqs s (.op (uid true) 0) = [] ∧ o.stage = 0 ∧ o.fault = none) &&
        un.splits.all (fun e => match e.2.wait with | some (.barrier ..) => false | _ => true) && isMemory o.instr && !mustWait un 0 o

/-- A strand's store, load and atomic addition at the line of address 256. -/
def stS : Instr := .st ⟨h0, .s 1, .s 2, 0, .s 6, m32⟩
def ldS : Instr := .ld ⟨h0, .s 1, .s 2, 0, .s 6, m32⟩
def addS : Instr := .atomAdd ⟨h0, .s 1, .s 2, 0, .s 6, ⟨false, false, false, none⟩⟩

/-- MemoryIsReachedAndRead. -/
theorem test_performed_hypotheses :
    (performs (withOp (opAt stS 256 7 [])) && (atomOf stS).isNone && (shapeOf stS).any (fun sh => !sh.load) &&
      performs (withOp (opAt ldS 256 0 [.s 1])) && (shapeOf ldS).any (fun sh => sh.load && decide (sh.ty.regs = 1)) &&
      performs (withOp (opAt addS 256 7 [.s 1])) && (List.range 4).all (fun i => !unbackedAt s0 (256 + i))) = true := by decide +kernel

/-- R158, R265: the strand's store of 0x01020304 reaches memory, lowest byte first. -/
theorem test_store_reaches_memory :
    rdBytes (after (.storeCompletion (uid true) 0) (withOp (opAt stS 256 0x01020304 []))) 255 6 = [0, 4, 3, 2, 1, 0] := by decide +kernel

/-- R169, R170: ATOM.ADD of 7 to 0xFFFFFFFF wraps to 6 and returns the old word. -/
theorem test_atomic_add_wraps :
    let t := after (.producerCompletion (uid true) 0) (withOp (opAt addS 256 7 [.s 1]) (withBytes 256 (bytesOf 4 0xFFFFFFFF) s0))
    rdNat t 256 4 = 6 ∧ readS (unitOf true t) 1 = 0xFFFFFFFF ∧ (unitOf true t).ops = [] := by decide +kernel

/-! The matrix array (file 10) -/

/-- The array as the placed team, or another, holds it, with three banks and every staging slot used in the tests full. -/
def withArray (holder : Option Nat) (s : State := g0) : State :=
  s.modMx 0 (fun m => { m with
    holder := holder, n := 3,
    slots := [(0, ⟨true, .aBf16, [], 0⟩), (1, ⟨true, .bBf16, [], 0⟩), (2, ⟨true, .aF32, [], 0⟩), (3, ⟨true, .bF32, [], 0⟩)] })

/-- The placed team holds the array. -/
def ga : State := withArray (some key0)

/-- A relocation is in progress. -/
def relocating (s : State) : State := s.modMx 0 (fun m => { m with reloc := some (true, 5) })

/-- ArrayInstructions: MRSV in each case of Table 10-2, and MREL with and without the array. -/
theorem test_reservation_hypotheses :
    let mrsv (h : Fin 32) : Instr := .mrsv ⟨h0, 1, .s 12, h⟩
    let at_ (s : State) (h : Fin 32) (p : Matrix → Bool) : Bool := acted (mrsv h) s (fun c => decide (c.un.discarded = []) && p (s.core 0).mx)
    (at_ ga 1 (fun m => decide (m.holder = some key0)) && at_ (withArray (some 1)) 1 (fun m => decide (m.holder = some 1)) &&
      at_ (relocating g0) 1 (fun m => decide (m.holder = none) && arrayBusy ((relocating g0).core 0)) &&
      at_ g0 16 (fun m => decide (m.holder = none ∧ nScr (g0.core 0) < 32) && !arrayBusy (g0.core 0)) &&
      at_ g0 6 (fun m => decide (m.holder = none ∧ 12 ≤ nScr (g0.core 0)) && !scrFits g0 0 (nScr (g0.core 0) - 12)) &&
      at_ g0 1 (fun m => decide (m.holder = none ∧ 2 ≤ nScr (g0.core 0)) && scrFits g0 0 (nScr (g0.core 0) - 2)) &&
      acted (.mrel hi0) g0 (fun c => decide (c.un.discarded = [] ∧ (g0.core 0).mx.holder ≠ some key0)) &&
      acted (.mrel hi0) ga (fun c => decide (c.un.discarded = [] ∧ (ga.core 0).mx.holder = some key0 ∧ (ga.core 0).mx.queue = [] ∧
        (ga.core 0).mx.pend = []) && !(ga.core 0).mx.gang && (ga.core 0).mx.exec.isNone && !arrayBusy (ga.core 0))) = true := by
  decide +kernel

/-- A staging of slot 31, of the three it may name the last. -/
def stg (fmt : StageFmt) (sp : StageSpace) : Stage := ⟨h0, 31, .s 4, 0, .s 8, fmt, false, sp⟩

/-- ArrayInstructions: stagings from the team's own scratchpad, from the cluster and from a tile, each line passing. -/
theorem test_staging_hypotheses :
    (let ok (b : Bool) (y : Stage) : Bool :=
       let s := withTile (withS 8 4 ga)
       acted (if b then .mldb y else .mlda y) s (fun c =>
         let z := match y.fmt with | .bf16 => 2 | .f32 => 4 | _ => 1
         decide (c.un.discarded = [] ∧ (s.core 0).mx.holder = some c.un.at_.team ∧ y.slot.val < 32 * (s.core 0).mx.n / 3 ∧
           (c.word s c.low y.s).toNat % 65536 = 4 ∧ 4 % z = 0) &&
         (List.range (stageShape b y.fmt y.ns).1).all (fun q =>
           match checkLane s c c.sp (stageSpace y.space) true false (dw (4 * q)) (stageShape b y.fmt y.ns).2 with
           | .ok _ => true
           | _ => false))
     ok false (stg .bf16 .scr) && ok true (stg .bf16 .scr) && ok false (stg .f32 .rmt) && ok true (stg .e4m3 .rmt) && ok false (stg .e2m1 .til))
      = true := by decide +kernel

/-- ArrayInstructions: the queue has room and the operands their tags; the rows of an MST pass, in the scratchpad and in memory. -/
theorem test_entry_hypotheses :
    (let tagged (s : State) (k : Nat) (t : STag) : Bool := decide (k < 32 * (s.core 0).mx.n / 3) &&
       (match (s.core 0).mx.slot? k with | some x => decide (x.tag = t) | none => false)
     let room (s : State) (c : Issue) : Bool := decide (c.un.discarded = [] ∧ (s.core 0).mx.holder = some c.un.at_.team ∧ (s.core 0).mx.queue.length < 4)
     let joint := ga.modMx 0 (fun m => { m with gang := true })
     let rows (y : Mst) : Bool := let s := withS 4 128 ga; acted (.mst y) s (fun c =>
       let s1 := beginAccess c s c.lanes (fun i => dw (128 * i)) (fun _ => []) []
       decide (c.sp.stage = 0) && (pendingAccess c.un c.e).isNone && !computePhase s c.un && room s c &&
       decide ((c.word s c.low y.s).toNat % storeElement y.fmt = 0) &&
       match s1.unit? c.u with
       | none => false
       | some un => (List.range 32).all (fun i => match checkRow s1 { c with un := un } y (dw (128 * i)) with | .ok _ => true | _ => false))
     acted (.mma ⟨h0, 7, 0, 1⟩) ga (fun c => room ga c && tagged ga 0 .aBf16 && tagged ga 1 .bBf16) &&
       acted (.mmaF32 ⟨h0, 7, 2, 3⟩) ga (fun c => room ga c && tagged ga 2 .aF32 && tagged ga 3 .bF32) &&
       acted (.gangMma ⟨h0, 7, 0, 1⟩) joint (fun c => room joint c && (joint.core 0).mx.gang) &&
       acted (.mzero ⟨h0, 7⟩) ga (room ga) && rows ⟨h0, 7, .s 2, 0, .s 4, .f32, false, false, false⟩ &&
       rows ⟨h0, 7, .s 2, 0, .s 4, .e4m3, true, true, true⟩) = true := by decide +kernel

/-- The placed team stands first in a row of two, whose other team has not come to GANG. -/
def inRow (s : State) : State :=
  let s := s.modCluster 0 (fun k => { k with w := 2, teams := [(0, key0), (1, key0 + 16)] })
  { s with teams := Tab.put s.teams (key0 + 16) { (s.team? key0).getD (wordTeam s) with core := 1, pos := 1 } }

/-- ArrayInstructions: GANG first of a row of one, of a row of two before the other team and after it, and gone on. -/
theorem test_gang_hypotheses :
    (let met (s : State) : Option Bool := match s.team? key0 with
       | some t => some (gangMet (s.modTeam key0 (fun t => { t with gangCount := t.gangCount + 1 })) key0 (t.gangCount + 1))
       | none => none
     let gang : Instr := .gang ⟨h0, true⟩
     let first (s : State) : Bool := acted gang s (fun c => decide (c.un.discarded = [] ∧ c.sp.stage = 0 ∧ (s.core 0).mx.holder = some c.un.at_.team))
     let two := inRow ga
     let done := two.modTeam (key0 + 16) (fun t => { t with gangCount := 1 })
     first ga && decide (met ga = some true) && first two && decide (met two = some false) && first done && decide (met done = some true) &&
       acted gang (onSplit (fun sp => { sp with stage := 1 }) ga) (fun c => decide (c.un.discarded = [] ∧ c.sp.stage ≠ 0)) &&
       (match ga.cluster? 0 with | some k => decide (k.w = 1 ∧ Tab.find? k.teams 0 = some key0) | none => false)) = true := by decide +kernel

/-! Flow and barriers (file 11) -/

/-- The placed group's team, alone in its cluster, waits for all its groups: the group arrives last at BAR; other lanes are still to come. -/
theorem test_barrier_hypotheses :
    (let goes (s : State) (all : Bool) : Bool := acted (.bar ⟨h0⟩) s (fun c =>
       let s1 := park s c.u c.e (.barrier .bar 0 c.lanes) 1
       match s1.unit? c.u, s.team? c.un.at_.team with
       | some un, some t => decide (un.liveLanes ≠ 0 ∧ un.at_.team = c.un.at_.team ∧ outstanding un = [] ∧ c.u ∈ t.groups ∧
           (waitingMask un .bar = un.liveLanes ↔ all = true)) && !hasArrived t .bar c.u && t.groups.all (fun g => decide (g = c.u))
       | _, _ => false)
     goes g0 true && goes (onSplit (fun sp => { sp with mask := 0xFFFF })) false) = true := by decide +kernel

/-- The placed team's grid is a superstep grid. -/
def inGrid (s : State := g0) : State := s.modTask 0 (fun t => { t with rec_ := { t.rec_ with flags := 1 } })

/-- BarriersArrive: BARC with word 0 and with the rectangle of the cluster, GBAR with and without a destination, VOTEG. -/
theorem test_cluster_and_grid_hypotheses :
    (let barc (s : State) (w : Nat) : Bool := acted (.barc ⟨h0, .s 4⟩) s (fun c =>
       match s.team? c.un.at_.team, s.cluster? 0 with
       | some t, some k => decide ((c.word s c.low (.s 4)).toNat = w) && (decide (w = 0) || rectOk k w t.pos) &&
           decide (waitingAt c.un .barc = []) && (firstBarc t).isNone
       | _, _ => false)
     barc g0 0 && barc (withS 4 0x1100) 0x1100 &&
       acted (.gbar ⟨h0, .s 5⟩) inGrid (fun c => (superCount inGrid c.un).isSome) &&
       acted (.gbar ⟨h0, .zero⟩) inGrid (fun c => (superCount inGrid c.un).isSome) &&
       acted (.voteg ⟨h0, 1, 2, true⟩) inGrid (fun c => (superCount inGrid c.un).isSome)) = true := by decide +kernel

/-- FullEmptyAndPorts: a span of v registers at the end of the file, none pending; CHAIN with the words zero, one that names nothing, one
whose port is free, one whose team is not there, and one that names a strand core's column. -/
theorem test_full_empty_and_chain_hypotheses :
    (let w (n : Word) (p : State → Issue → Nat → Bool) : Bool := let s := withS 4 n; acted (.chain ⟨h0, .s 5, .s 4, 0⟩) s (fun c =>
       p (unbindSend s c.u 1) c (c.word s c.low (.s 4)).toNat)
     acted (.sete ⟨h0, .v 1020, 3⟩) g0 (fun c => decide (c.sp.stage = 0) && (List.range 4).all (fun j => decide (feOf c.un (Operand.next (.v 1020) j) ≠ .pending))) &&
       acted (.setf ⟨h0, .s 60, 3⟩) g0 (fun c => (List.range 4).all (fun j => decide (feOf c.un (Operand.next (.s 60) j) ≠ .pending))) &&
       w 0 (fun _ _ n => decide (n = 0)) && w 1 (fun _ _ n => decide (0 < n ∧ n < 2 ^ 30)) &&
       w 0x40000000 (fun s1 c n => decide (2 ^ 30 ≤ n ∧ ¬ (n / 2 ^ 30 = 2 ∧ 12 ≤ n % 16)) && (chainTarget s1 c.un 0 n).2.isNone) &&
       w 0x80000000 (fun s1 c n => decide ((chainTarget s1 c.un 0 n) = (0, some (uid false)))) &&
       w 0x8000000C (fun _ _ n => decide (n / 2 ^ 30 = 2 ∧ 12 ≤ n % 16))) = true := by decide +kernel

/-! Queues, the Sump, engines, pools, services (files 11, 12, 17) -/

/-- The context serves a device-fed queue 3 of 16 slots, its ring and its control block at the places given. -/
def queue0 : Queue :=
  { qcb := 0x20000, tailPa := 0x20000, ring := 0x21000, logsize := 4, deviceFed := true, ret := 0, retlog := 0, tail := 0, head := 0, retidx := 0,
    current := none, fault := none, zero := false }

/-- The same fed by the host. -/
def withQueue (x : Queue) (s : State := g0) : State := s.modCtx 0 (fun c => { c with queues := [(3, x)] })

/-- A strand's task record: descriptor 0x3000, count 1. -/
def record : List Byte := bytesOf 8 0x3000 ++ bytesOf 8 0 ++ bytesOf 4 0 ++ bytesOf 4 1 ++ List.replicate 40 0

/-- An ENQ, LAUNCH or DEQ of the placed group, at the line of address 0x1000. -/
def qm (q : Fin 16) (nb : Bool) : Mem QueueMod := ⟨h0, .s 2, .s 4, 0x1000, .s 6, ⟨q, nb, false⟩⟩

/-- QueuesAndGathering: ENQ and LAUNCH in each of their cases, DEQ. -/
theorem test_queue_hypotheses :
    (let can (s : State) (i : Instr) (y : Mem QueueMod) (write : Bool) (p : State → Issue → Bool) : Bool := acted i s (fun c =>
       let a := wideAddr y.base y.s y.off y.m.a64 s c c.low
       decide (c.sp.stage = 0 ∧ a.toNat % 64 = 0 ∧ depthOf s c.un ≠ 15) && !computePhase s c.un &&
       match checkLane s c c.sp .glob (!write) write a 64 with
       | .ok (.glob pa) => decide (pa = 0x1000) && p (obtainRead (clearPass c (releaseCac s c.un)) pa) c
       | _ => false)
     let parsed (s : State) := parseTask (rdPlaces s (.glob 0x1000) 64)
     let good := withBytes 0x1000 record (withQueue queue0)
     let full := good.modCtx 0 (fun c => { c with queues := [(3, { queue0 with tail := 16 })] })
     let packed := { full with tasks := Tab.put full.tasks 9 { wordTask true with slot := .reserve 0 1, depth := 1, st := .waiting } }
     can packed (.enq (qm 3 true)) (qm 3 true) false (fun s c => enqQueue s c.un.at_.ctx 3 && !(parsed s).bad &&
         (takeSlot s c.un (some 3) (depthOf s c.un + 1)).isNone) &&
       can good (.enq (qm 3 true)) (qm 3 true) false (fun s c => enqQueue s c.un.at_.ctx 3 && !(parsed s).bad &&
         (takeSlot s c.un (some 3) (depthOf s c.un + 1)).isSome) &&
       can good (.enq (qm 2 true)) (qm 2 true) false (fun s c => !enqQueue s c.un.at_.ctx 2) &&
       can (withQueue queue0) (.enq (qm 3 true)) (qm 3 true) false (fun s c => enqQueue s c.un.at_.ctx 3 && (parsed s).bad) &&
       can good (.launch (qm 0 true)) (qm 0 true) false (fun s c => !(parsed s).bad && (takeSlot s c.un none (depthOf s c.un + 1)).isSome) &&
       can (withQueue queue0) (.launch (qm 0 false)) (qm 0 false) false (fun s _ => (parsed s).bad) &&
       can full (.deq (qm 3 false)) (qm 3 false) true (fun _ _ => true) && can good (.deq (qm 3 false)) (qm 3 false) true (fun _ _ => true)) = true := by
  decide +kernel

/-- A descriptor with one migration site, of 4 registers from v8 on (Table 4-2): at head 2 of the line before. -/
def descLine : List Byte :=
  bytesOf 2 0x801F ++ bytesOf 2 1 ++ bytesOf 4 0 ++ bytesOf 4 0 ++ [2, 1, 0, 1] ++ List.replicate 16 0 ++
    bytesOf 4 0xFFFFFFFF ++ [2, 4] ++ bytesOf 2 8 ++ List.replicate 24 0

/-- The placed group as the Sump gathers it of the placed strand: lanes 0 of both, four registers from v8 on. -/
def gathered : State :=
  let s := { s0 with units := Tab.put s0.units (uid false) (unitOf false g0), actor := some (uid false) }
  onG (fun un => { un with gather := some { strands := [(0, uid true)], b := 8, n := 4, leaving := [] } }) s

/-- QueuesAndGathering: MIGR of a strand whose descriptor stands in the next line; RETS in a gathered group and outside one. -/
theorem test_gathering_hypotheses :
    (let s := withBytes (wordBase + 64) descLine s0
     acted (.migr ⟨h0, false, 1, 0⟩) s (fun c =>
         let d := BitVec.ofInt 64 ((c.sp.pc.toNat / 64 * 64 : Nat) + 64)
         decide (c.un.nest = []) && !c.sp.loc &&
         (match checkLane s c c.sp .glob true false d 64 with
          | .ok (.glob pa) =>
            let ds := parseDesc (rdPlaces s (.glob pa) 64)
            decide (pa = wordBase + 64 ∧ ds.header = 0x801F ∧ ds.version = 1 ∧ 0 < ds.nmig ∧ (ds.sump.getD 0 (0, 0, 0, 0)).2.2 = (4, 8)) && !ds.strand &&
              (windowRegs 4).all (fun o => decide (feOf c.un o = .full))
          | _ => false)) &&
       acted (.rets hi0) gathered (fun c => decide (c.un.nest = [] ∧ orderWait c.un c.e c.instr = none) &&
         (match c.un.gather with
          | some g => decide (g.n = 4) && (List.range 4).all (fun i => decide (feOf c.un (.v (Fin.ofNat 1024 (g.b + i))) = .full))
          | none => false)) &&
       acted (.rets hi0) g0 (fun c => c.un.gather.isNone)) = true := by decide +kernel

/-- The placed group has closed its batch 1, which is done, with the fault address given. -/
def withBatch (a : Option DWord) : State :=
  onG (fun un => { un with eng := { un.eng with batchNo := 2, closed := 1, batches := [(1, ⟨0, a, []⟩)] } }) (withS 4 1)

/-- PoolsServicesSurfaces: the batches, POOLQ of a word, of a pair and of an item that is not there, POOLM and POOLW. -/
theorem test_batch_and_pool_hypotheses :
    (let bwait (s : State) (n : Word) (bad : Bool) : Bool := acted (.bwait ⟨h0, .s 4⟩) s (fun c =>
       let bs := if n = 0 then [] else batchesTo c.un n
       decide (c.sp.stage = 0 ∧ c.sp.wait = none ∧ c.word s c.low (.s 4) = n) && (decide (n = 0) || given c.un n && batchesDone c.un n) &&
       decide ((bs.findSome? (fun b => b.2.failed)).isSome = bad))
     let poolq (w : Word) (p : Issue → Bool) : Bool := acted (.poolq ⟨h0, .s 2, .s 4, ()⟩) (withS 4 w) (fun c => c.word (withS 4 w) c.low (.s 4) == w && p c)
     acted (.bclose ⟨h0, .s 4⟩) g0 && bwait g0 0 false && bwait (withBatch none) 1 false && bwait (withBatch (some 5)) 1 true &&
       poolq 19 (fun _ => true) && poolq 8 (fun c => operandLegal (withS 4 8) c.un (.s 2, 2) && (spanOf (.s 2) 2).all (fun o => decide (feOf c.un o ≠ .pending))) &&
       poolq 20 (fun _ => true) && acted (.poolm ⟨h0, .s 2, .s 4, ⟨false, true, false⟩⟩) g0 &&
       acted (.poolw ⟨h0, .s 2⟩) g0 (fun c => match g0.team? c.un.at_.team with | some t => decide (t.poolw = some 0) | none => false)) = true := by
  decide +kernel

/-- A CLEAR request of the placed group. -/
def req0 (st : ReqSt) : Req :=
  { unit := uid false, strand := false, team := key0, core := 0, ctx := 0, svc := .ras, rq := 2, no := 7, packet := List.replicate 64 0,
    st := st, status := 0, count := 0, aux := 0, where_ := 0, order := 0, accepted := 0, tiles := [], surfaces := [], pos := 0, writes := [] }

/-- Request 0 of die 0. -/
def withReq (r : Req) (s : State := g0) : State := s.modDie 0 (fun d => { d with reqs := [(0, r)], nextReq := 1 })

/-- PoolsServicesSurfaces: SVC of a packet in memory and of one in the scratchpad, and gone on; FENCE.SURF with nothing to wait for, and gone on. -/
theorem test_service_and_surface_hypotheses :
    (let svc (y : Svc) : Bool := acted (.svc y) g0 (fun c =>
       decide (c.sp.stage = 0) && !computePhase g0 c.un && decide (Tab.get 0 c.un.eng.svcOut y.rq.val < 32) &&
       (match checkLane g0 c c.sp (if y.s.isNone then .scr else .glob) true false 0x1000 64 with | .ok _ => true | _ => false))
     let waits (st : Nat) (w : Wait) (s : State) : State := onSplit (fun sp => { sp with stage := st, wait := some w }) s
     svc ⟨h0, .s 1, .s 2, 0x1000, some (.s 4), .tex, 2, false⟩ && svc ⟨h0, .s 1, .s 2, 0x1000, none, .ras, 5, false⟩ &&
       (let s := waits 1 (.svcAccept 0 7) (withReq (req0 .accepted))
        acted (.svc ⟨h0, .s 1, .s 2, 0x1000, none, .ras, 5, false⟩) s (fun c => decide (c.sp.stage = 1 ∧ c.sp.wait = some (.svcAccept 0 7)) &&
          (match req? s c.un.die 0 with | some r => decide (r.st ≠ .pending) | none => true))) &&
       acted (.fenceSurf ⟨h0, .s 4, 0, false⟩) g0 (fun c => decide (c.sp.stage = 0 ∧ memOps c.un c.e (fun _ => true) = []) && !computePhase g0 c.un &&
         !isSurface g0 c.un.at_.ctx 0) &&
       (let s := waits fenceStage (.surface [(0, 5)] [3]) g0
        acted (.fenceSurf ⟨h0, .s 4, 0, true⟩) s (fun c => decide (c.sp.stage = fenceStage ∧ stillServed s [(0, 5)] = [] ∧ Tab.find? c.un.ops 3 = none)))) =
      true := by decide +kernel

/-! Control registers, waits, traps (files 12, 16) -/

/-- In handler mode. -/
def inHandlerMode (s : State := g0) : State := onG (fun un => { un with mode := .handler 0 (BitVec.allOnes 32) }) s

/-- ControlAndSleep: every control register is read and each RW one written, in and out of handler mode; ISYNC and SLEEP in each case. -/
theorem test_control_hypotheses :
    ([0, 2, 3, 4, 5, 6, 9, 10, 11, 12, 13].all (fun n => acted (.ctlr ⟨h0, .s 2, n⟩) g0 (fun c => decide (c.un.at_.ctx < 65536) && !matrixBusy g0 c.u c.un)) &&
      [1, 7, 8].all (fun n => acted (.ctlr ⟨h0, .s 2, n⟩) g0) && [0, 2, 3, 4, 5, 13].all (fun n => acted (.ctlw ⟨h0, .s 4, n⟩) g0) &&
      acted (.ctlw ⟨h0, .s 4, 1⟩) g0 && acted (.ctlw ⟨h0, .s 4, 5⟩) inHandlerMode (fun c => decide (c.un.mode = .handler 0 (BitVec.allOnes 32))) &&
      acted (.isync ⟨h0, .str⟩) s0 (fun c => decide (memOps c.un c.e (fun _ => true) = []) && c.un.at_.strand) &&
      acted (.isync ⟨h0, .dev⟩) g0 (fun c => decide (memOps c.un c.e (fun _ => true) = []) && !c.un.at_.strand) &&
      acted (.sleep ⟨h0, .zero, false⟩) g0 && acted (.sleep ⟨h0, .s 4, true⟩) (withS 4 9) (fun c => c.word (withS 4 9) c.low (.s 4) != 0) &&
      (let s := onSplit (fun sp => { sp with st := .parked, wait := some (.sleep 0 (some 0) true), stage := 1 })
       match s.unit? (uid false) with
       | some un => !un.stopped && un.halted.isNone && !(s.die un.die).frozen &&
           (match un.split? 0 with | some sp => decide (sp.wait = some (.sleep 0 (some 0) true)) | none => false)
       | none => false)) = true := by decide +kernel

/-- R241: a SLEEP of one cycle has its expiry in the next, and retires then. -/
theorem test_sleep_expires :
    let t := after (.sleep ⟨h0, .s 4, false⟩) (withS 4 1)
    t.calendar = [(1, .event (.sleepExpiry (uid false) 0 0))] ∧
      ((unitOf false (after (.sleepExpiry (uid false) 0 0) { t with now := 1 })).ctl.retired = 1) := by decide +kernel

/-- Debugging with the right, of context 0 in cell 0. -/
def armedCell (s : State) : State :=
  s.modCell 0 (fun k => { k with dbg := { k.dbg with owner := 0, dflags := 3 } })

/-- TrapsAndHandlers: BKPT and HALT unarmed and armed, ERET in and out of handler mode; a split that may trap; a handler that may return. -/
theorem test_break_and_return_hypotheses :
    let r : TrapRec := ⟨causeBkpt, 0, 0, dw wordBase, dw wordBase, 0, 0, 0, 0, 0, 0, 0, 0, some 8⟩
    let back := onG (fun un => { un with handled := some r }) inHandlerMode
    (acted (.bkpt ⟨h0, 5⟩) g0 (fun c => decide (c.lanes = c.sp.mask)) &&
      acted (.halt hi0) g0 (fun c => decide (c.lanes = c.sp.mask) && !armed g0 c.un.cell c.un.at_.ctx) &&
      acted (.halt hi0) (armedCell g0) (fun c => armed (armedCell g0) c.un.cell c.un.at_.ctx) &&
      acted (.eret hi0) inHandlerMode && acted (.eret hi0) g0 (fun c => decide (c.un.mode = .live)) &&
      (match back.unit? (uid false) with
       | some un => decide (un.mode = .handler 0 (BitVec.allOnes 32) ∧ un.handled = some r) &&
           (match un.split? 0 with | some sp => decide (sp.ra = none) | none => false)
       | none => false)) = true := by decide +kernel

/-- R103, Table 16-1: an unguarded TRAP queues a record of cause 0x28 at its own address and retires. -/
theorem test_trap_is_recorded :
    let un := unitOf false (after (.trap ⟨h0, 5⟩) g0)
    un.traps.map (fun r => (r.cause, r.pc, r.addr)) = [(0x28, dw (wordBase + 2), dw (wordBase + 2))] ∧ un.ctl.retired = 1 ∧
      (un.split? 0).map (·.st) = some .trapped := by decide +kernel

/-! Events of the units, cores and messages -/

/-- A walk of a page of context 0 is asked for in cell 0, and the placed group waits for it. -/
def walking (va : Nat) : State :=
  onSplit (fun sp => { sp with st := .parked, wait := some (.walk [va]) })
    ((mapped g0).modCell 0 (fun k => { k with walks := [{ ctx := 0, va := va, started := true, others := [] }] }))

/-- UnitEvents: a walk that finds a leaf, and one that does not while a split waits for it. -/
theorem test_walk_hypotheses :
    (((walking 0x1000).cell 0).walks.any (fun w => w.ctx == 0 && w.va == 0x1000) &&
      (match walk (walking 0x1000) 0 0x1000 with | .leaf p => decide (p.lg = 21 ∧ p.pa = 0) | _ => false) &&
      ((walking 0x400000).cell 0).walks.any (fun w => w.ctx == 0 && w.va == 0x400000) &&
      (match walk (walking 0x400000) 0 0x400000 with | .fail c r => decide (c = causePageAbsent) && !r | _ => false) &&
      (match (walking 0x400000).unit? (uid false) with
       | some un => decide (un.cell = 0 ∧ un.at_.ctx = 0 ∧ (un.split? 0).bind (·.wait) = some (.walk [0x400000]))
       | none => false)) = true := by decide +kernel

/-- UnitEvents: a register that is empty, of a group and of a strand, and one that is full. -/
theorem test_fill_hypotheses :
    let g := onG (fun un => setFe un (.v 1023) .empty)
    let t := onUnit true s0 (fun un => setFe un (.s 63) .empty)
    feOf (unitOf false g) (.v 1023) = .empty ∧ (unitOf false g).liveLanes ≠ 0 ∧ (g.core 0).fills = [] ∧
      feOf (unitOf true t) (.s 63) = .empty ∧ 0 ∈ lanesOf (unitOf true t).liveLanes ∧ (t.score 0).fills = [] ∧
      feOf (unitOf false g0) (.v 0) ≠ .empty ∧ feOf (unitOf true s0) (.s 0) ≠ .empty ∧
      (unitOf false g).at_.strand = false ∧ (unitOf true t).at_.strand = true := by decide +kernel

/-- The placed group has a record of n words waiting for result queue 0, which holds k words. -/
def withRecord (k n : Nat) : State :=
  onG (fun un => { un with eng := { un.eng with
    res := [(0, [⟨List.replicate k 1, [], true⟩])], waiting := [(0, ⟨List.replicate n 2, [], true⟩)] } })

/-- UnitEvents: a record that just fits, and one that does not. -/
theorem test_record_hypotheses :
    (resultQ (unitOf false (withRecord 62 2)) 0).length + 2 = 64 ∧ (unitOf false (withRecord 62 2)).eng.waiting.length = 1 ∧
      64 < (resultQ (unitOf false (withRecord 63 2)) 0).length + 2 ∧
      (unitOf false (withRecord 63 2)).splits.all (fun e => e.2.wait.isNone) = true := by decide +kernel

/-- UnitEvents: a window ends with fewer loads than four times the hits, with more than sixteen times, and with neither. -/
theorem test_load_limit_hypotheses :
    let k (n v l : Nat) : Nat × Nat × Nat := let s := g0.modCore 0 (fun k => { k with loads := n, victimHits := v, limit := l })
      ((after (.loadLimitWindow 0) s).core 0 |> fun c => (c.limit, c.loads, c.victimHits))
    g0.now % 4096 = 0 ∧ k 3 1 12 = (4, 0, 0) ∧ k 3 1 11 = (4, 0, 0) ∧ k 17 1 4 = (8, 0, 0) ∧ k 17 1 124 = (128, 0, 0) ∧ k 0 0 128 = (128, 0, 0) ∧
      k 16 1 20 = (20, 0, 0) ∧ k 4 1 20 = (20, 0, 0) := by decide +kernel

/-- A group that may be selected. -/
def cand (u wait : Nat) (special : Bool) : Candidate := ⟨u, u, wait, 1, false, false, false, special⟩

/-- A part whose record and flash hold numbers, so that states with it can be compared. -/
def plain (s : State) : State := { s with mgmt := { s.mgmt with flash := ⟨0, 0, 1750, []⟩, ident := [] } }

/-- The placed unit has entered its line, and may issue. -/
def mayGo (strand : Bool) : State :=
  onUnit strand { plain (ground strand) with now := 1, actor := none } (fun un => un.modSplit 0 (fun sp => { sp with line := some (lineOf ⟨0, []⟩ true) }))

/-- IssueSelection: a starving group and one that is not; groups all for the special-function unit; the placed units alone. -/
theorem test_selection_hypotheses :
    ((cand 1 1024 false).wait ≥ 1024 ∧ (cand 2 1023 false).wait < 1024 ∧ ([cand 1 0 true, cand 2 0 true].all (·.special)) = true) ∧
    coreUnits (mayGo false) 0 = [uid false] ∧ prepare (mayGo false) (uid false) = mayGo false ∧
    (match candidate (mayGo false) (uid false) with | some x => !x.load && !x.special | none => false) = true ∧
    (List.range 4).all (fun t => decide (prepare (mayGo true) (threadUid 0 t) = mayGo true)) = true ∧
    (((mayGo true).score 0).last + 1 + 0) % 4 = 0 ∧ (candidate (mayGo true) (threadUid 0 0)).isSome = true := by decide +kernel

/-- R299: the strand's issue follows the selection of its core. -/
theorem test_strand_selected :
    (after (.strandIssueSelect 0) (mayGo true)).agenda = [.issue (uid true)] := by decide +kernel

/-- Core 0 holds a line with two dirty bytes. -/
def dirtyLine : State :=
  g0.modCi 0 (fun ci => { ci with lines := [(0, { line := 2, data := [(0, 9), (127, 8)], dirty := [(0, true), (127, true)], used := 0, dirtyAt := 0 })] })

/-- MessagesArrive: dirty bytes at both ends of a line, which memory takes. -/
theorem test_dirty_bytes_hypotheses :
    (match cacFind (dirtyLine.core 0) 2 with
     | some (_, l) => decide (l.dirty ≠ [] ∧ (l.dirty.map (·.1)).Nodup) && l.dirty.all (fun e => decide (e.1 < 128) && !unbackedAt dirtyLine (256 + e.1))
     | none => false) = true ∧ ((dirtyLine.core 0).ci.lines.map (·.2.line)).Nodup ∧
    rdBytes (after (.cacWriteback 0 2) dirtyLine) 256 2 = [9, 0] ∧ rd8 (after (.cacWriteback 0 2) dirtyLine) 383 = 8 := by decide +kernel

/-- The placed group sends to itself: q1 to q0, with a word in q0 or none. -/
def bound (w : Option Word) : State :=
  onG (fun un => { un with regs := { un.regs with
    q := [(0, ⟨some (uid false, 1), w, false, none⟩), (1, ⟨some (uid false, 0), none, false, some 5⟩)] } })

/-- MessagesArrive: a bound register that is empty, one that is full, one that is not bound. -/
theorem test_port_hypotheses :
    let p (s : State) (r : Nat) : Port := portOf (unitOf false s) r
    (p (bound none) 0).peer = some (uid false, 1) ∧ (p (bound none) 1).peer = some (uid false, 0) ∧ (p (bound none) 0).word = none ∧
      (unitOf false (bound none)).splits.all (fun e => e.2.wait.isNone) = true ∧
      (p (bound (some 3)) 0).word ≠ none ∧ (p g0 0).peer = none := by decide +kernel

/-- The cluster is two positions wide, and the team at position 1 has arrived with the word of the whole cluster. -/
def sweeping : State :=
  (inRow g0).modCluster 0 (fun k => { k with sweeps := [(0x1200, { arrived := [0, 1], rowSent := [], rowIn := [], colSent := [], colIn := [] })] })

/-- MessagesArrive: the sweep of a cluster of two. -/
theorem test_sweep_hypotheses :
    (match sweeping.cluster? 0 with
     | some k => decide (k.w = 2 ∧ k.h = 1 ∧ 1 ∈ (sweepOf k (k.w * 256 + k.h * 4096)).arrived ∧ 1 ∉ (sweepOf k (k.w * 256 + k.h * 4096)).rowSent)
     | none => false) = true := by decide +kernel

/-- The placed team's superstep grid has completed one barrier. -/
def released (core : Nat) : State :=
  (inGrid g0).modTask 0 (fun t => { t with barriers := 1, phase := if core = 0 then [] else [(0, (1, 0))] })

/-- MessagesArrive: a release that reaches the team's core, another core, and one that has been taken. -/
theorem test_grid_release_hypotheses :
    let f (s : State) (c : Nat) : Option (Nat × Nat × List Nat) := (s.task? 0).map (fun t =>
      (((Tab.find? t.phase c).getD (0, 0)).1, t.barriers, ((gridTeams s 0).filter (fun e => decide (e.2.core = c))).map (·.1)))
    f (released 0) 0 = some (0, 1, [key0]) ∧ f (released 0) 1 = some (0, 1, []) ∧ f (released 1) 0 = some (1, 1, [key0]) := by decide +kernel

/-! Events of the array -/

/-- An entry of the placed group. -/
def entryOf (i : Instr) : MEntry := { unit := uid false, op := 0, instr := i, pc := 0, seq := 5, cycle := 0, slot := 0 }

/-- The array with a queue. -/
def queuedWith (i : Instr) : State := ga.modMx 0 (fun m => { m with queue := [entryOf i] })

/-- The array executes an entry. -/
def running (i : Instr) (s : State := ga) : State := s.modMx 0 (fun m => { m with exec := some { entry := entryOf i, a := [], b := [], fin := 0 } })

/-- ArrayEvents: heads of each kind with their operands full, entries that finish. -/
theorem test_entry_event_hypotheses :
    ([Instr.mma ⟨h0, 7, 0, 1⟩, .mmaF32 ⟨h0, 7, 2, 3⟩, .mst ⟨h0, 7, .s 2, 0, .s 4, .f32, false, false, false⟩, .mzero ⟨h0, 7⟩].all (fun i =>
      let m := ((queuedWith i).core 0).mx
      m.exec.isNone && (match m.queue with | e :: _ => (List.range 4).all (operandFull m e) | [] => false)) &&
     [Instr.mma ⟨h0, 7, 0, 1⟩, .gangMma ⟨h0, 0, 0, 1⟩, .mmaF32 ⟨h0, 7, 2, 3⟩, .mzero ⟨h0, 7⟩].all (fun i =>
      match ((running i).core 0).mx.exec, ((running i).core 0).mx.holder with
      | some r, some key => decide (r.fin ≤ (running i).now) && ((running i).team? key).isSome && ((running i).unit? r.entry.unit).isSome
      | _, _ => false)) = true := by decide +kernel

/-- R191, R195: an MMA of two equal tags' tiles starts with a read of both and ends 128 cycles on, for three banks serve its 96 rows in 32 frames. -/
theorem test_mma_starts :
    let t := after (.matrixEntryStart 0) (queuedWith (.mma ⟨h0, 7, 0, 1⟩))
    t.calendar = [(128, .event (.matrixEntryFinish 0))] ∧ (t.core 0).mx.queue = [] ∧ ((t.core 0).mx.exec.map (·.fin)) = some 128 := by decide +kernel

/-- An MST of the placed group, with its 32 rows in the scratchpad. -/
def storing : State :=
  let i : Instr := .mst ⟨h0, 7, .s 2, 0, .s 4, .f32, false, true, false⟩
  running i (onG (fun un => { un with
    ops := [(0, { opAt i 0 0 [] with place := (List.range 32).map (fun r => (r, .scr key0 (128 * r))) })], nextOp := 1 }) ga)

/-- A staging of the placed group, whose bytes have been read or not, at banks that have served it or have still to. -/
def stagingAt (bs : Option (List Byte)) (rows : Option Nat) : State :=
  let i : Instr := .mlda (stg .bf16 .scr)
  let s := onG (fun un => { un with
    ops := [(0, { opAt i 0 0 [] with place := (List.range 32).map (fun r => (r, .scr key0 (96 * r))) })], nextOp := 1 }) ga
  let s := s.modMx 0 (fun m => { m with
    slots := Tab.put m.slots 31 ⟨false, .aBf16, [], 4⟩, nextPend := 1,
    pend := [(0, { unit := uid false, op := 0, slot := 31, instr := i, pc := 0, addr := 0, stride := 96, tag := 0, window := none, bytes := bs })] })
  match rows with
  | some n => s.modCore 0 (fun k => { k with banks := [(24, { reqs := [⟨.pend 0 0, .staging, n⟩], first := none, turn := 0 })] })
  | none => s

/-- ArrayEvents: an MST about to finish; stagings that have their bytes, with the banks' slots given and not yet asked for; one that has none. -/
theorem test_store_and_staging_event_hypotheses :
    (let found (s : State) (bytes : Bool) : Bool :=
       match Tab.find? (s.core 0).mx.pend 0, s.unit? (uid false) with
       | some p, some un => decide (p.unit = uid false ∧ p.bytes.isSome = bytes ∧ p.window = none ∧ p.tag = 0) && (stageOf p.instr).isSome &&
           (match Tab.find? un.ops p.op with | some o => sourceReady s p o 0 | none => false) &&
           slotFree (s.core 0).mx 0 p && (Tab.find? (s.core 0).mx.slots p.slot).isSome
       | _, _ => false
     let bs := some (List.replicate (32 * 96) (0 : Byte))
     let served (s : State) : Bool := decide (slotReqs s (.pend 0 0) ≠ []) && (slotReqs s (.pend 0 0)).all (fun r => decide (r.rows = 0))
     (match (storing.core 0).mx.exec, storing.unit? (uid false) with
      | some r, some un => decide (r.fin ≤ storing.now) && !scrBusy (storing.core 0) &&
          (match Tab.find? un.ops r.entry.op with | some o => !mustWait un r.entry.op o | none => false)
      | _, _ => false) &&
       found (stagingAt bs (some 0)) true && served (stagingAt bs (some 0)) &&
       found (stagingAt none (some 0)) false && served (stagingAt none (some 0)) &&
       found (stagingAt bs none) true && decide (slotReqs (stagingAt bs none) (.pend 0 0) = [] ∧ slotRows (stagingAt bs none) 0 31 ≠ [])) = true := by
  decide +kernel

/-! Multicast, joint operations, moves (files 10 and 13) -/

/-- A window 64 cycles old, which the placed group's staging has asked for and the source's banks have served. -/
def windowed : State :=
  let s := { stagingAt none none with now := 64 }
  s.modCore 0 (fun k => { k with
    windows := [(0, { team := key0, addr := 0, instr := .mlda (stg .bf16 .rmt), stride := 96, tag := 1, opened := 0, req := [(0, 0)] })]
    banks := [(24, { reqs := [⟨.window 0 0, .staging, 0⟩], first := none, turn := 0 })] })

/-- MulticastAndMoves: a window about to be read; a row of one about to start a joint operation. -/
theorem test_window_and_joint_hypotheses :
    let joint := (queuedWith (.gangMma ⟨h0, 7, 0, 1⟩)).modMx 0 (fun m => { m with gang := true })
    ((match Tab.find? (windowed.core 0).windows 0, Tab.find? (windowed.core 0).mx.pend 0, windowed.unit? (uid false) with
      | some x, some p, some un => decide (x.opened + 64 ≤ windowed.now ∧ x.req = [(0, 0)]) &&
          (match Tab.find? un.ops p.op with | some o => sourceReady windowed p o 0 | none => false)
      | _, _, _ => false) &&
      decide (slotReqs windowed (.window 0 0) ≠ []) && (slotReqs windowed (.window 0 0)).all (fun q => decide (q.rows = 0)) &&
      decide (jointRow joint 0 = some [0] ∧ (joint.core 0).mx.queue ≠ [])) = true := by decide +kernel

/-- A move of core 0 by the placed team, in a phase that ends now. -/
def moving (donor recv : Role) (p : Phase) (wait : Bool) (tiles : List Nat) : State :=
  withTile.modCi 0 (fun ci => { ci with
    move := some { donor := donor, recv := recv, k := 2, team := key0, reloc := true, wait := wait, flush := true, phase := p, since := 0,
                   due := some 0, tiles := tiles } })

/-- MulticastAndMoves: each phase, a move that waits for registers nobody holds, a relocation that is over, lists that may return;
RenderServices: a flush with one tile left. -/
theorem test_move_hypotheses :
    let at_ (s : State) (p : Move → Bool) : Bool := match (s.core 0).ci.move with | some m => p m && decide (m.due = some 0) | none => false
    let idle := g0.modCore 5 (fun k => { k with returning := true })
    (at_ (moving .til .scr .prepare false []) (fun m => decide (m.phase = .prepare ∧ m.tiles = [] ∧ m.donor ≠ m.recv) && !m.wait) &&
      at_ (moving .scr .cac .switch false []) (fun m => decide (m.phase = .switch)) &&
      at_ (moving .scr .cac .rebuild false []) (fun m => decide (m.phase = .rebuild) && ((moving .scr .cac .rebuild false []).team? m.team).isSome) &&
      at_ (moving .reg .cac .prepare true []) (fun m => m.wait && decide (m.phase = .prepare) && !regHeld (g0.core 0).ci ((g0.core 0).ci.reg.length - m.k)) &&
      at_ (moving .til .scr .prepare false [0]) (fun m => decide (m.tiles = [0] ∧ m.phase = .prepare) && !tileServed (moving .til .scr .prepare false [0]) 0 0 m.since) &&
      at_ (moving .til .scr .prepare false [0, 1]) (fun m => decide (m.tiles = [0, 1])) &&
      decide (((relocating ga).core 0).mx.reloc = some (true, 5)) && mayReturn idle 5) = true := by decide +kernel

/-- R254, Table 13-1: a Switch of two banks from TIL to SCR. -/
theorem test_switch_moves_banks :
    let ci := ((after (.moveSwitch 0) (moving .til .scr .prepare false [])).core 0).ci
    ci.til = [44, 45] ∧ ci.scr = (List.range 12).map (· + 24) ++ [46, 47] := by decide +kernel

/-! The copy engine (file 12) and plans (file 19) -/

/-- A command of the placed team with its words. -/
def cmdOf (st : CmdSt) (ws : List Word) : CopyCmd :=
  { unit := uid false, slot := 0, ctx := 0, team := key0, words := ws, batch := 1, pos := 0, flags := 0, st := st, malformed := false, addr := 0,
    failed := false, writes := [], rel := 0, plan := [], sends := 0, after := [] }

/-- Core 0 holds command 0, whose rows the banks have given. -/
def withCmd (c : CopyCmd) (s : State := mapped g0) : State :=
  s.modCore 0 (fun k => { k with cmds := [(0, c)], banks := [(24, { reqs := [⟨.cmd 0 0, .copy, 0⟩], first := none, turn := 0 })] })

/-- What stands before a command's event is over, and its words are well formed. -/
def mayAct (s : State) (rows : List (Nat × Nat × Nat) := []) : Bool :=
  match cmd? s 0 0 with
  | none => false
  | some c => decide (c.st = .live ∧ c.pos = 0 ∧ copyMalformed s 0 c = some false) && !engineStopped s 0 && !cmdWaits s 0 0 c &&
      !pushHeld s c.unit c.after && (slotReqs s (.cmd 0 0)).all (fun r => decide (r.rows = 0)) &&
      (!(slotReqs s (.cmd 0 0)).isEmpty || rows.isEmpty) && (s.team? c.team).isSome && (s.unit? c.unit).isSome && !scrBusy (s.core 0)

/-- COPY of 128 bytes at 0 of the scratchpad to 128, of its last bytes to 0; FILL of memory; VFILL of v1022 and v1023; TSEND. -/
def copyWords : List Word := [0x900, 0, 0, 128, 0, 0x02000080, 0, 0]
def copyLast : List Word := [0x900, 0xFFFC, 0, 0, 0, 0x02000004, 0, 0]
def fillWords : List Word := [0x001, 0x01020304, 0, 0x1000, 0, 0x02000008, 0, 0]
def vfillWords : List Word := [0x102, 0, 0, 0x7FE, 0, 0x02000100, 0, 0]
def tsendWords : List Word := [0x103, 0, 9, 6, 0, 0x02000200, 0, 1]

/-- CopyEngineMovesBytes. -/
theorem test_copy_hypotheses :
    (mayAct (withCmd (cmdOf .live copyWords)) && mayAct (withCmd (cmdOf .live copyLast)) && mayAct (withCmd (cmdOf .live fillWords)) &&
      mayAct (withCmd (cmdOf .live vfillWords)) &&
      decide ((copyArgs copyWords).op = 0 ∧ (copyArgs copyWords).cvt = 0 ∧ (copyArgs copyWords).rows = 0 ∧ (copyArgs copyWords).sspace = 1 ∧
        (copyArgs copyWords).dspace = 1 ∧ (copyArgs copyWords).src + (copyArgs copyWords).len = (copyArgs copyWords).dst) &&
      decide ((copyArgs copyLast).dst + (copyArgs copyLast).len ≤ (copyArgs copyLast).src ∧ (copyArgs copyLast).len = 4) &&
      decide ((copyArgs fillWords).op = 1 ∧ (copyArgs fillWords).dspace = 0 ∧ (copyArgs fillWords).len = 8) &&
      (List.range 8).all (fun j => (match xlate (withCmd (cmdOf .live fillWords)) 0 (0x1000 + j) true with | .ok pa => decide (pa = 0x1000 + j) | _ => false) &&
        !unbackedAt g0 (0x1000 + j)) &&
      decide ((copyArgs vfillWords).op = 2 ∧ (copyArgs vfillWords).sspace = 1 ∧ vfillSpan vfillWords = (1022, 2))) = true := by decide +kernel

/-- R229: the FILL writes its word over and over, lowest byte first. -/
theorem test_fill_writes :
    rdBytes (after (.fill 0 0) (withCmd (cmdOf .live fillWords))) 0x0FFF 10 = [0, 4, 3, 2, 1, 4, 3, 2, 1, 0] := by decide +kernel

/-- A plan of one entry, for team 0, of one granule from 1 to 2, six cycles after the release. -/
def planTable : List Byte := bytesOf 2 1 ++ List.replicate 14 0 ++ planEntry0
where planEntry0 : List Byte := bytesOf 4 6 ++ bytesOf 3 0 ++ [0] ++ bytesOf 2 1 ++ bytesOf 2 2 ++ bytesOf 4 0

/-- The placed team stands in the exchange phase of a superstep grid, with a plan at 0x100. -/
def exchanging (c : CopyCmd) : State :=
  let s := (inGrid (mapped g0)).modTask 0 (fun t => { t with barriers := 1, phase := [(0, (1, 0))] })
  let s := s.modTeam key0 (fun t => { t with scratch := planTable.zipIdx.map (fun b => (0x100 + b.2, b.1)) |>.filter (fun e => e.2 != 0) })
  { withCmd c s with now := 6 }

def planWords : List Word := [0x104, 0x100, 0, 0, 0, 0, 0, 0]

/-- PlansAndCompletions: a PLAN that keeps the rules; a send that is due, to a team and to one that has retired; a command that is done,
failed and not. -/
theorem test_plan_hypotheses :
    let plan := exchanging (cmdOf .live planWords)
    let send (target : Nat) := exchanging { cmdOf .live planWords with plan := [bytesOf 4 6 ++ bytesOf 3 target ++ [0] ++ bytesOf 2 1 ++ bytesOf 2 2 ++ bytesOf 4 0] }
    let due (s : State) (there : Bool) : Bool := match cmd? s 0 0, s.team? key0 with
      | some c, some t => (match sendOf c 0 with
          | some e => decide (c.rel + e.off ≤ s.now ∧ (planTarget s t.task e).isSome = there ∧ 64 * e.dst + 64 * e.len ≤ t.scrSize) &&
              !runsWait s 0 0 (sendRuns s c e) && !latched t (64 * e.dst) (64 * e.len)
          | none => false)
      | _, _ => false
    (mayAct plan &&
      (match plan.team? key0, plan.task? 0 with
       | some t, some g => planOk t 0x100 (g.rec_.count * (g.rec_.clw * g.rec_.clh)) && g.rec_.superstep && decide (t.planAt = none ∧ t.latch = none) && !t.sump &&
           decide ((Tab.find? g.phase 0).getD (0, 0) = (1, 0))
       | _, _ => false) &&
      mayAct (send 0) && due (send 0) true && mayAct (send 1) && due (send 1) false &&
      [cmdOf .done vfillWords, { cmdOf .done copyWords with failed := true }].all (fun c =>
        match cmd? (withCmd c) 0 0 with | some c => decide (c.st = .done) && ((withCmd c).unit? c.unit).isSome | none => false)) = true := by decide +kernel

/-- R366: the PLAN's first send is planned six cycles after the release, or later. -/
theorem test_plan_is_latched :
    let t := after (.plan 0 0) (exchanging (cmdOf .live planWords))
    (t.team? key0).map (fun x => (x.latch, x.planAt)) = some (some (0x100, 32), some 1) := by decide +kernel

/-! The fabric (file 18) -/

/-- A node of a session, with nothing heard and nothing closed. -/
def node0 (lo hi : Nat) : Node :=
  { lo := lo, hi := hi, absentL := false, absentR := false, heardL := 0, heardR := 0, linkL := none, linkR := none, closed := [], emitted := [] }

/-- A session of two ranks, of which the die is rank 0, for tiles 0 to 3 of one row. -/
def session0 (nodes : List Node := [node0 0 2]) : Session :=
  { ctx := 0, op := 0, n := 2, rank := 0, tx0 := 0, ty0 := 0, tw := 4, th := 1, dnode := 4, engine := 0, sink := 3, rtab := 0x3000,
    ranks := [4, 8], slots := 2, nodes := nodes, frames := [], highest := none, held := [], sent := [], absent := [], closing := none,
    late := 0, dup := 0, framesClosed := 0, opened := 0 }

/-- Die 0 of node 4 holds session 6. -/
def withSession (x : Session) (s : State := mapped g0) : State := s.modDie 0 (fun d => { d with sessions := [(6, x)], nodeId := some 4 })

/-- A command of the placed group at the merge engine, with its acknowledgement to queue 1. -/
def merge (code : Nat) (ws : List Word) (s : State) : State :=
  s.modDie 0 (fun d => { d with mergeCmds := [(0, ⟨uid false, 0, w32 (code + 2 ^ 12 + 6 * 2 ^ 16) :: ws, []⟩)] })

/-- The command at the head of the merge engine is taken. -/
def takesMerge (s : State) (code words : Nat) : Bool :=
  match Tab.find? (s.die 0).mergeCmds 0 with
  | some c => decide (c.code = code ∧ c.words.length = words ∧ bit (cw c.words 0) 15 = false ∧ c.object = 6 ∧ c.ack ≠ 7) && !pushHeld s c.unit c.after &&
      (s.die 0).mergeCmds.all (fun e => decide (0 ≤ e.1)) && (s.unit? c.unit).isSome
  | none => false

/-- A frame begun at cycle 0 with a budget of one, or none. -/
def frame0 (closed : Bool) : Frame := { no := 9, start := 0, budget := 1, step := 2, passed := false, closed := closed }

/-- The rank table of nodes 4 and 8 stands at 0x3000, and OPEN of session 6 over it is to be taken. -/
def opening : State :=
  merge 1 [0x00000200, 0, 0x00001004, 0x00000C04, 0x3000, 0, 2]
    (withBytes 0x3000 [4, 0, 8, 0] ((mapped g0).modDie 0 (fun d => { d with nodeId := some 4 })))

/-- SessionsAndFrames: OPEN of two ranks, CLOSE and the session's close, FRAME with a budget and without, ABSENT of the last rank. -/
theorem test_session_hypotheses :
    (takesMerge opening 1 8 && (match Tab.find? (opening.die 0).mergeCmds 0 with
        | some c => !openBad c.words && decide (bits (cw c.words 1) 16 8 = 2 ∧ (newSession opening c [4, 8]).rank = 0)
        | none => false) && decide ((opening.die 0).nodeId = some 4 ∧ (opening.die 0).sessions = []) &&
      takesMerge (merge 2 [] (withSession session0)) 2 1 &&
      takesMerge (merge 3 [9, 0x00020001] (withSession session0)) 3 3 && takesMerge (merge 3 [9, 0] (withSession { session0 with highest := some 8 })) 3 3 &&
      takesMerge (merge 4 [1] (withSession session0)) 4 2) = true ∧
    session0.ctx = 0 ∧ session0.closing = none ∧ session0.frames = [] ∧ session0.unbegun 9 = [] ∧ session0.frame? 9 = none ∧
    1 < session0.n ∧ treeNodes 2 = [(0, 2)] := by decide +kernel

/-- SessionsAndFrames: the rank table that OPEN reads. -/
theorem test_rank_table :
    rdVirt opening 0 0x3000 528 = some (rdBytes opening 0x3000 528) ∧
      (List.range 2).map (fun i => leAt (rdBytes opening 0x3000 528) (2 * i) 2) = [4, 8] :=
  ⟨rdVirt_of_maps (by decide +kernel) (by decide), by decide +kernel⟩

/-- SessionsAndFrames: a session that closes, with its one frame closed. -/
theorem test_close_hypotheses :
    let c : FabCmd := ⟨uid false, 0, [0x00061002], []⟩
    let x := { session0 with closing := some c, frames := [frame0 true] }
    (session? (withSession x) 0 6).bind (·.closing) = some c ∧ c.ack = 1 ∧ x.frames.all (·.closed) = true := by decide +kernel

/-- SessionsAndFrames: a node and a die with leaves only, past their deadlines. -/
theorem test_deadline_hypotheses :
    let x := { session0 with frames := [frame0 false] }
    closeTime (frame0 false) (heightOf 0 2) = some 65 ∧ closeTime (frame0 false) 0 = some 65 ∧ x.frame? 9 = some (frame0 false) ∧
      x.node? 0 2 = some (node0 0 2) ∧ (node0 0 2).closed.contains 9 = false ∧ (session0 []).nodes = [] := by decide +kernel

/-- The packet of a rank's tile. -/
def tile0 (rank : Nat) (cover : DWord) : TilePacket :=
  { session := 6, frame := 9, tx := 1, ty := 0, rank := rank, opfmt := 0, span := 0, present := 1, firstmiss := 0, cover := cover, payload := [(0, 7)] }

/-- A packet for the die. -/
def packet (b : PacketBody) : Packet := { dest := 4, hops := 0, link := some 2, chan := 0, body := b }

/-- TilesMerge: a tile of either child, its partner missing, with one buffer free, and its partner held; keep-alives, silence and absence. -/
theorem test_tile_hypotheses :
    let x := { session0 with frames := [frame0 false], held := [tile0 1 2] }
    let comes (x : Session) (r : Nat) : Bool := match (parentOf x.n r (r + 1)).bind (fun q => x.node? q.1 q.2) with
      | some n => decide (n = node0 0 2 ∧ (x.heldAs n (decide (r + 1 = midOf n.lo n.hi)) 9 1 0) = none)
      | none => false
    comes session0 0 = true ∧ comes session0 1 = true ∧ session0.held.length < session0.slots ∧ session0.highest = none ∧
      session0.heldAs (node0 0 2) false 9 1 0 = none ∧
      comes x 0 = true ∧ x.heldAs (node0 0 2) false 9 1 0 = some (tile0 1 2) ∧ (x.frame? 9).isSome = true ∧
      parentOf 2 0 2 = none ∧ parentOf 2 0 1 = some (0, 2) ∧ parentOf 4 0 2 = some (0, 4) ∧
      (1 = midOf 0 2 ∧ midOf 0 2 = 0 + 1) ∧ (node0 0 2).heardL + 16384 ≤ 16384 := by decide +kernel

/-- R348, R349: the partner's tile and this one, each covering a pixel of its own, leave with both pixels covered. -/
theorem test_tiles_combine :
    let s := withSession { session0 with frames := [frame0 false], held := [tile0 1 2] }
    let t := after (.tilePacketArrival 0 (packet (.tile (tile0 0 1)))) s
    (session? t 0 6).map (·.held) = some [] ∧
      t.agenda.map (fun u => match u with
        | .event (.packetForward 0 p) => (match p.body with | .root out _ _ _ _ _ _ _ _ => (p.dest, out.cover, out.present) | _ => (0, 0, 0))
        | _ => (0, 0, 0)) = [(4, 3, 2)] := by decide +kernel

/-- TilesMerge: a TSEND of the placed team. -/
theorem test_tsend_hypotheses :
    let s := withCmd (cmdOf .live tsendWords) (withSession session0)
    (mayAct s && decide ((copyArgs tsendWords).op = 3 ∧ cw tsendWords 3 = 6 ∧ cw tsendWords 4 = 0 ∧ parentOf session0.n session0.rank (session0.rank + 1) = some (0, 2)) &&
      decide ((session? s (coreDie 0) 6).map (fun x => (x.ctx, x.absent)) = some (0, []))) = true := by decide +kernel

/-- Link 0 in a state, with a packet to send. -/
def withLink (st : LinkSt) (s : State := g0) : State :=
  { s with links := [(0, { Link.initial with st := st, enabled := true, held := [packet (.keepAlive 6 0 1)] })] }

/-- LinksAndSinks: links UP and RETRAIN, the last with its time over; routers with a node number, with a route and without a number. -/
theorem test_link_hypotheses :
    ((withLink .up).link 0).st = .up ∧ ((withLink .retrain).link 0).st = .retrain ∧ ((withLink .retrain).link 0).since = 0 ∧
      0 + 32768 ≤ { withLink .retrain with now := 32768 }.now ∧ ((withSession session0).die 0).nodeId = some 4 ∧ 4 / 4 = 4 / 4 ∧ 4 % 4 = 0 ∧
      (g0.die 0).nodeId = none ∧
      (let s := (withLink .up).modDie 0 (fun d => { d with nodeId := some 4, routes := [(2, 0)] })
       (s.die 0).nodeId = some 4 ∧ 8 / 4 ≠ 4 / 4 ∧ Tab.get 255 (s.die 0).routes (8 / 4) = 0 ∧ linkDie 0 = 0 ∧ (s.link 0).st = .up) := by decide +kernel

/-- A sink bound for the placed group's queue. -/
def sink0 : Sink :=
  { ctx := 0, base := 0x8000, width := 8, height := 8, format := 0, pitch := 64, endpoint := uid false, rq := 1, route := some 6, epoch := 1, opened := 0,
    frames := [], newest := [], lines := [0x100], posted := none, releasing := none }

/-- Die 0 has sink 3 of engine 0. -/
def withSink (x : Sink) (s : State := withSession session0) : State := s.modDie 0 (fun d => { d with sinks := [(3, x)] })

/-- A command at the scan-out engine. -/
def scan (code : Nat) (ws : List Word) (s : State) : State :=
  s.modDie 0 (fun d => { d with scanCmds := [(0, ⟨uid false, 0, w32 (code + 2 ^ 12 + 3 * 2 ^ 16) :: ws, []⟩)] })

/-- The command at the head of the scan-out engine is taken. -/
def takesScan (s : State) (code words : Nat) : Bool :=
  match Tab.find? (s.die 0).scanCmds 0 with
  | some c => decide (c.code = code ∧ c.words.length = words ∧ bit (cw c.words 0) 15 = false ∧ c.sinkKey = 3 ∧ c.object < 1024) && !pushHeld s c.unit c.after
  | none => false

/-- LinksAndSinks: SINK of a free sink, ROUTE to the session bound and to another, UNSINK with no frame open, its release; the root's tiles
taken and dropped; a record to post. -/
theorem test_sink_hypotheses :
    let ws : List Word := [0x8000, 0, 0x00020008, 64, 0x80000000]
    let c : FabCmd := ⟨uid false, 0, [w32 (3 + 2 ^ 12 + 3 * 2 ^ 16)], []⟩
    let done : SinkFrame := { frame := 9, session := 6, epoch := 1, again := false, left := 0, tiles := 4, incomplete := 0, firstmiss := 0, maxmiss := 0,
                              deadline := false, clipped := false, lost := false, done := true }
    (takesScan (scan 1 ws g0) 1 6 && (match Tab.find? ((scan 1 ws g0).die 0).scanCmds 0 with
        | some c => !sinkBad 0 c.words && !sinkNowhere c.words && decide (c.sinkKey / 256 < identField (scan 1 ws g0) 50 1) | none => false) &&
      decide (sink? (scan 1 ws g0) 0 3 = none) &&
      takesScan (scan 2 [6] (withSink sink0)) 2 2 && decide (sink0.opened = session0.opened ∧ sink0.releasing = none) &&
      takesScan (scan 2 [6] (withSink { sink0 with route := none })) 2 2 && takesScan (scan 3 [] (withSink sink0)) 3 1 && decide (sink0.frames = []) &&
      decide ((sink? (withSink { sink0 with releasing := some c }) 0 (sinkKey 0 3)).bind (·.releasing) = some c ∧ c.ack = 1) &&
      decide (sink? (withSink sink0) 0 (sinkKey 0 3) = some sink0 ∧ suits (0 % 16) sink0.format = true ∧ suits (2 % 16) sink0.format = false) &&
      decide ((sink? (withSink { sink0 with frames := [done] }) 0 3).bind (fun x => List.find? (fun (r : SinkFrame) => decide (r.frame = 9) && r.done) x.frames) = some done) &&
      (match xlate (withSink sink0) 0 0x8000 true with | .ok pa => (List.range 4).all (fun j => !unbackedAt g0 (pa + j)) | _ => false)) = true := by
  decide +kernel

/-! Services (file 17) -/

/-- Context 0 has a graphics state block of version 1 at 0x5000, and tile 0 of core 0 is open. -/
def graphics : State := withBytes 8 (bytesOf 8 0x5000) (withBytes 0x5000 (bytesOf 2 1) (mapped withTile))

/-- A request of a service and an operation, with bytes of its packet, in a state. -/
def reqOf (svc : SvcKind) (bs : List Byte) (st : ReqSt) : Req := { req0 st with svc := svc, packet := bs ++ List.replicate (64 - bs.length) 0 }

/-- CLOSE of tile t. -/
def closeTileOf (t : Nat) : Req := reqOf .ras ([3, 0] ++ bytesOf 2 t ++ [1, 0]) .pending

/-- CLEAR of one pixel of surface 0, which is not registered. -/
def clearOne : Req := reqOf .ras ([4, 0, 0, 0, 0, 0, 0, 0, 0, 0, 0, 0, 0, 0, 1, 0, 1, 0]) .pending

/-- RenderServices: requests that wait to be accepted, one of each verdict; one that has ended. -/
theorem test_accept_hypotheses :
    (let may (r : Req) (s : State) (v : Nat) : Bool := match req? (withReq r s) 0 0 with
       | some x => decide (x = r ∧ r.st = .pending) && mayAccept (withReq r s) 0 0 r && decide ((judge (withReq r s) r).1 = v)
       | none => false
     let named (r : Req) (ok : Bool) (off : Option Nat) : Bool := !r.bad && (match withSurfaces graphics r with
       | some q => decide (namedOk q = ok) && (!ok || decide (firstOffending (graphics.core q.core) q = off))
       | none => false)
     may (reqOf .trv [0, 0, 0] .pending) g0 1 && may (closeTileOf 0) g0 5 && gstateOk graphics 0 &&
       named clearOne false none && named (closeTileOf 1) true (some 1) && named (closeTileOf 0) true none &&
       tilesServe (graphics.core 0) (closeTileOf 0) &&
       decide ((req? (withReq (req0 .done)) 0 0).map (·.st) = some .done) && ((withReq (req0 .done)).unit? (req0 .done).unit).isSome) = true := by
  decide +kernel

/-- R323, Table 17-2: a CLOSE of the open tile is accepted as the first request, and a packet of no rays ends with BAD_PACKET. -/
theorem test_request_is_judged :
    ((req? (after (.serviceAccept 0 0) (withReq (reqOf .trv [] .pending))) 0 0).map (fun r => (r.st, r.status)) = some (.done, 1)) := by
  decide +kernel

/-- RenderServices: an accepted request of each operation at its start, with its tile, and after its last stretch with the banks done. -/
theorem test_work_hypotheses :
    ([reqOf .ras [0] .accepted, reqOf .ras [1, 0, 0, 0, 0, 0, 0, 0, 1] .accepted, reqOf .ras [2] .accepted, reqOf .ras [3] .accepted,
      reqOf .ras [4] .accepted, reqOf .trv [0] .accepted, reqOf .tex [0] .accepted].all (fun r =>
      let r := { r with tiles := if r.usesTiles then [0] else [] }
      let s := withReq r graphics
      let t := (withReq { r with pos := 70000 } graphics).modCore 0 (fun k => { k with banks := [(44, { reqs := [⟨.req 0 0, .arrival, 0⟩], first := none, turn := 0 })] })
      decide (req? s 0 0 = some r) && !r.blocked s 0 && !roleMoving (s.core 0) .til && decide (slotReqs s (.req 0 0) = []) &&
        r.tiles.all (fun x => match Tab.find? (s.core 0).ci.tiles x with | some y => decide (y.team = r.team) | none => false) &&
        !roleMoving (t.core 0) .til && decide (slotReqs t (.req 0 0) ≠ []) && (slotReqs t (.req 0 0)).all (fun q => decide (q.rows = 0)) &&
        [r.f 4 2, r.f 20 4, (r.region r.target).2.2.2, r.f 2 2].all (fun n => decide (n ≤ 70000)))) = true := by decide +kernel

/-- A surface of 8 pixels by 8 at 0x8000, of format VIS64. -/
def surface0 : Surf := ⟨0x8000, 8, 8, 64, 3, true, true⟩

/-- A triangle over the lower left half of 16 pixels by 16, at depth 0. -/
def tri0 : Tri :=
  let v (x y : Int) : Vertex := ⟨x * 2 ^ 149, y * 2 ^ 149, 0⟩
  ⟨v 0 0, v 16 0, v 0 16, edgeAt (v 0 0) (v 16 0) (16 * 0 * 2 ^ 149) (16 * 2 ^ 149)⟩

/-- RenderServices: a tile to fill; a write; a fragment of depth 0, and a pixel outside. -/
theorem test_pixel_hypotheses :
    (let w : Work := { s := graphics }
     (match Tab.find? (graphics.core 0).ci.tiles ((reqOf .ras [0] .accepted).f 2 2 + 0) with
       | some t => decide (t.bpp = 4 ∧ t.home = none) | none => false) &&
       decide (fragment tri0 0 0 = some 0 ∧ fragment tri0 15 15 = none) && decide (w.fault = none) &&
       decide ((w.vismin 0 (surface0.at_ 0 0) 7 false).fault = none) &&
       (match xlate graphics 0 (surface0.at_ 0 0) true with
        | .ok pa => decide (pa = 0x8000) && (List.range 16).all (fun j => !unbackedAt graphics (pa + j)) | _ => false)) = true := by decide +kernel

/-- A sample of surface 0, of format 0, at (0, 0); the coordinates stand at 0x1000. -/
def sampling : Req :=
  { reqOf .tex ([0, 0, 1, 0, 0, 0, 0, 0] ++ bytesOf 8 0x1000 ++ bytesOf 8 0x2000) .accepted with
    surfaces := [(0, bytesOf 8 0x8000 ++ bytesOf 2 8 ++ bytesOf 2 8 ++ bytesOf 4 64 ++ [0, 3] ++ List.replicate 14 0)] }

/-- Rays at 0x1000: the first with no direction, the second along x, from t = 1 down to t = 0. -/
def tracing_ (i : Nat) : Req := reqOf .trv ([0, 0, 1, 0, 0, 0, 0, 0] ++ bytesOf 8 0 ++ bytesOf 8 (0x1000 + 32 * i) ++ bytesOf 8 0x2000) .accepted

/-- The second ray. -/
def withRay : State := withBytes 0x102C (bytesOf 4 0x3F800000 ++ bytesOf 4 0x3F800000) (mapped g0)

/-- RenderServices: a nearest sample of a texel, a ray with no direction and one with no range. -/
theorem test_sample_and_ray_hypotheses :
    (let s := obtainVirt (mapped g0) 0 0x1000 8
     let ray (i : Nat) (p : Option Ray → Bool) : Bool := match fetchSpan (obtainVirt withRay 0 (0x1000 + 32 * i) 32) 0 (0x1000 + 32 * i) 32 with
       | .ok (bs, false) => p (parseRay bs) && decide (((tracing_ i).f 16 8, (tracing_ i).f 24 8) = (0x1000 + 32 * i, 0x2000))
       | _ => false
     (match fetchSpan s 0 0x1000 8, sampling.surf 0 with
      | .ok (bs, false), some f => decide (unitsOf (leAt bs 0 4) = some 0 ∧ unitsOf (leAt bs 4 4) = some 0 ∧ sampling.f 5 1 = 0) &&
          (match texel (obtainTexels s sampling f [(0, 0)]) sampling f 0 0 with | .ok (cs, p) => decide (cs.length = 4) && !p | .error _ => false)
      | _, _ => false) && ray 0 (·.isNone) && ray 1 (fun r => match r with | some r => r.misses | none => false) &&
      (match xlate withRay 0 0x2000 true with | .ok _ => true | _ => false)) = true := by decide +kernel

/-! Contexts, tasks, placement (files 11 and 15) -/

/-- An entry of context 5, served by a die mask, that asks to be resident. -/
def entry5 (dies : Nat) : State :=
  withBytes 0x500 (bytesOf 8 0x40000 ++ bytesOf 8 0 ++ bytesOf 2 5 ++ [BitVec.ofNat 8 dies, 0] ++ bytesOf 4 1) g0

/-- ContextsAndPlacement: entries that keep and break Table 15-1, a resident context told to leave and one that may leave, a host-fed queue. -/
theorem test_residency_hypotheses :
    (let may (n : Nat) (ok : Bool) : Bool := let bs := rdBytes (entry5 n) (entryAt (entry5 n) 5) 256
       bit (leAt bs 20 4) 0 && ((entryOk 5 bs && placesFree (entry5 n) (leAt bs 18 1)) == ok) && ((entry5 n).ctx? 5).isNone &&
         !unbackedAt (entry5 n) (entryAt (entry5 n) 5 + 19)
     let gone := { (mapped g0).modCtx 0 (fun c => { c with taking := false }) with units := [], tasks := [] }
     let fed := withQueue { queue0 with deviceFed := false }
     may 1 true && may 15 true && may 0 false && may 16 false && (g0.ctx? 0).isSome && mayLeave gone 0 && !unbackedAt gone (entryAt gone 0 + 19) &&
       (match queue? fed 0 3 with | some x => !x.deviceFed | none => false)) = true := by decide +kernel

/-- R284: the context of the entry becomes resident, with its table and its dies. -/
theorem test_context_becomes_resident :
    ((after (.contextEntryWake 5) (entry5 1)).ctx? 5).map (fun c => (c.dies, c.taking, c.ptroot)) = some (1, true, 0x40000) := by decide +kernel

/-- The task of the placed unit has ended, and came from a queue or the pool. -/
def endedTask (src : Source) : State :=
  (withQueue { queue0 with ret := 0x30000, retlog := 4, retidx := 0xFFFFFFFF }).modTask 0 (fun t => { t with live := 0, src := src })

/-- ContextsAndPlacement: a task that has ended, of a queue with a retirement ring and of a context with one. -/
theorem test_retirement_hypotheses :
    let pool := (endedTask .pool).modCtx 0 (fun c => { c with lret := 0x30000 })
    ((endedTask (.queue 3)).task? 0).map (fun t => (t.ended, t.src)) = some (true, .queue 3) ∧
      (queue? (endedTask (.queue 3)) 0 3).map (·.ret) = some 0x30000 ∧ (pool.task? 0).map (fun t => (t.ended, t.src)) = some (true, .pool) ∧
      (pool.ctx? 0).map (·.lret) = some 0x30000 := by decide +kernel

/-- R290: the ring's index wraps past its 32 bits. -/
theorem test_retirement_index_wraps :
    (queue? (after (.taskRetire 0) (endedTask (.queue 3))) 0 3).map (·.retidx) = some 0 ∧
      ((after (.taskRetire 0) (endedTask (.queue 3))).task? 0).isNone = true := by decide +kernel

/-- The descriptor of a program of one group of 8 registers, or of strands. -/
def placeLine (strand : Bool) : List Byte := descLine.take 4 ++ bytesOf 4 (b2n strand) ++ descLine.drop 8

/-- A task of the pool that waits, with its descriptor read. -/
def waitingTask (strand super : Bool) : State :=
  { g0 with tasks := [(0, { wordTask strand with
      st := .waiting, slot := .reserve 0 1, depth := 1, placed := 0, live := 0, units := 0, desc := placeLine strand,
      rec_ := { (wordTask strand).rec_ with desc := 0x3000, flags := b2n super } })] }

/-- ContextsAndPlacement: an engine that may place a cluster, a strand and a superstep grid; free threads after the last; a core with room. -/
theorem test_placement_hypotheses :
    ([(false, false, GridKind.cluster), (true, false, .strand), (false, true, .superstep)].all (fun k =>
        let s := waitingTask k.1 k.2.1
        let s1 := engineLook s 0
        engineFree s 0 && (match choice s1 0 with
          | some (j, tk) => decide (j = 0 ∧ tk.rec_.kind = k.2.2) && (tryPlace s1 0 j tk).isSome
          | none => false)) &&
      decide ((State.reset.die 0).threadPtr = 1535 ∧ freeThread State.reset 0 = some 0) &&
      decide (freeThread s0 0 = some 1 ∧ (s0.unit? (strandUid 0)).isSome) && (s0.task? 0).isSome &&
      (match roomOn g0 1 (parseDesc (placeLine false)) 1 with | some r => decide (r.groups = [0]) | none => false)) = true := by decide +kernel

/-! The Sump and the balancer (files 11 and 15) -/

/-- A forming group of the placed strand, whose time has run, or which has been dispatched. -/
def formed : State :=
  let f : Forming := { task := 0, desc := 0x3000, j := 0, strands := [uid true], times := [0], paused := 0, line := descLine, sent := 0 }
  { s0.modCell 0 (fun k => { k with forming := [(0, f)], dispatched := [f] }) with now := 256 }

/-- SumpAndBalancer: a forming group at the end of its 256 cycles, a dispatched one with room on a core. -/
theorem test_sump_hypotheses :
    ((match Tab.find? (formed.cell 0).forming 0 with
      | some f => (formed.task? f.task).isSome && decide (f.since + sumpWait formed 0 + f.paused ≤ formed.now ∧ f.strands ≠ []) && !formHalted formed f
      | none => false) && !(formed.die 0).frozen &&
      (match (formed.cell 0).dispatched with
       | f :: _ => ((coresOfCell 0).findSome? (fun c => (roomOn formed c (parseDesc f.line) 1).map (fun r => (c, r)))).isSome && decide (f.strands.length = 1)
       | [] => false) && (formed.unit? (uid true)).isSome) = true := by decide +kernel

/-- A pipeline of two stages, the first of core 0, which is marked to leave for the second. -/
def pipe0 (hot : Nat) : Pipeline :=
  { ctx := 0, index := 0, stages := [⟨3, 4, 1, [0], hot, [(0, 1)]⟩, ⟨2, 4, 1, [1], 0, []⟩] }

/-- SumpAndBalancer: a sample of queues no deeper than their marks; a marked core with no team of its stage. -/
theorem test_balancer_hypotheses :
    let s := (withQueue queue0).modDie 0 (fun d => { d with pipes := [pipe0 0] })
    s.now % 1024 = 0 ∧ ((pipe0 3).stages.map (fun g => { g with hot := if g.hi < queueDepth s 0 g.queue then g.hot + 1 else 0 })).all (fun g => g.hot < 4) = true ∧
      (s.die 0).pipes = [pipe0 0] ∧ ((pipe0 0).stages.getD 0 ⟨0, 0, 0, [], 0, []⟩).leaving.find? (fun l => decide (l.1 = 0)) = some (0, 1) ∧
      ((pipe0 0).stages.getD 1 ⟨0, 0, 0, [], 0, []⟩).leaving = [] ∧ holdsStage s 0 ⟨3, 4, 1, [0], 0, [(0, 1)]⟩ 0 = false := by decide +kernel

/-- R301: the marked core leaves the first stage for the second. -/
theorem test_core_moves :
    let s := (withQueue queue0 graphics).modDie 0 (fun d => { d with pipes := [pipe0 0] })
    ((after (.balancerDeferredMove 0 0) s).die 0).pipes.map (fun p => p.stages.map (·.cores)) = [[[], [0, 1]]] := by decide +kernel

/-! Faults, responses, saves (file 16) -/

/-- Die 0's rings stand at 0x7000 and 0x6000, sixteen slots each; the host has placed one response, with the bytes given. -/
def withResp (bs : Tab Byte) (s : State) : State :=
  { mapped s with mem := bs ++ tables ++ [(0x1000001, 0x70), (0x1000008, 4), (0x1000041, 0x60), (0x1000048, 4), (0x1000080, 1)] }

/-- A LAUNCH of a task too deep. -/
def trap0 : TrapRec := ⟨causeQueueDepth, 0, 0, dw wordBase, dw 0x1001, 5, 0, 0, 0, 0, 0, 0, 0, none⟩

/-- The placed group has a record to deliver, or has delivered it under serial 5. -/
def faulted (delivered : Bool) : State :=
  let s := onSplit (fun sp => { sp with st := .trapped })
    (onG (fun un => if delivered then { un with parked := some (5, trap0) } else { un with traps := [trap0] }))
  s.modDie 0 (fun d => { d with parked := if delivered then [(5, ⟨.unit (uid false) 0, 0, causeQueueDepth, dw wordBase, false⟩)] else [], serial := 4 })

/-- The response at the head of die 0's ring, as memory holds it. -/
def responds (s : State) (op : Nat) (p : List Byte → Bool := fun _ => true) : Bool :=
  maps s && decide (rdNat s (faultBlock s 0 + 128) 4 ≠ rdNat s (faultBlock s 0 + 192) 4 ∧
      ringSlot s 0 64 (rdNat s (faultBlock s 0 + 192) 4) = some 0x6000 ∧ rf (rdBytes s 0x6000 64) 0 1 = op ∧ rf (rdBytes s 0x6000 64) 32 32 = 0) &&
    p (rdBytes s 0x6000 64)

/-- What `responds` says, as the statements say it. -/
theorem responds_says {s : State} {op : Nat} {p : List Byte → Bool} (h : responds s op p = true) :
    Claims.Responds s 0 op 0x6000 (rdBytes s 0x6000 64) ∧ p (rdBytes s 0x6000 64) = true := by
  simp only [responds, Bool.and_eq_true] at h
  obtain ⟨⟨hm, hd⟩, hp⟩ := h
  obtain ⟨hne, hr, ho, hz⟩ := of_decide_eq_true hd
  exact ⟨⟨by simp [response?, hne, hr, rdVirt_of_maps hm], ho, hz⟩, hp⟩

/-- The response answers the placed group's fault. -/
def answersGroup (s : State) (op : Nat) : Bool := responds s op (fun bs =>
  match answers s 0 bs, s.unit? (uid false) with
  | some p, some un => decide (p.what = .unit (uid false) 0 ∧ p.cause = causeQueueDepth) && !p.handler && decide (un.parked = some (5, trap0)) &&
      (match un.split? 0 with | some sp => decide (sp.ra = none) | none => false)
  | _, _ => false)

/-- A record is to be written in an empty ring. -/
def recording : State := withResp [] (faulted false)

/-- A parked copy command is to be answered with RESUME. -/
def copyFault : State :=
  withResp [(0x6000, 1), (0x6004, 5)]
    ((withCmd (cmdOf (.parked (some 5)) copyWords)).modDie 0 (fun d => { d with parked := [(5, ⟨.copy 0 0, 0, causePageAbsent, 0, false⟩)] }))

/-- FaultsAndResponses: a record to write in an empty ring. -/
theorem test_record_hypotheses_of_faults :
    (decide (nextDue recording 0 = some (.unit (uid false) trap0)) && decide (ringSlot recording 0 0 0 = some 0x7000) &&
      decide (rdNat recording (faultBlock recording 0 + 16) 8 = 0 ∧ rdNat recording (faultBlock recording 0 + 8) 1 = 4) && maps recording &&
      (List.range 64).all (fun i => !unbackedAt recording (0x7000 + i)) &&
      (List.range 4).all (fun i => !unbackedAt recording (faultBlock recording 0 + 16 + i))) = true := by decide +kernel

/-- FaultsAndResponses: the four answers to the group's fault. -/
theorem test_answer_hypotheses :
    ([1, 2, 3, 4].all (fun op => answersGroup (withResp [(0x6000, BitVec.ofNat 8 op), (0x6004, 5), (0x6008, 0x40), (0x6009, 0x80), (0x6010, 7)] (faulted true)) op) &&
      decide (fetchCause causeQueueDepth = false ∧ causeQueueDepth ≠ causeMachineCheck ∧ causeQueueDepth ≠ causeTrap ∧ causeQueueDepth ≠ causeBkpt ∧
        mayEnter causeQueueDepth = true)) = true := by decide +kernel

/-- FaultsAndResponses: a serial that names nothing; operations that are not there; a parked copy. -/
theorem test_other_answer_hypotheses :
    ([1, 2, 3, 4].all (fun op => let s := withResp [(0x6000, BitVec.ofNat 8 op), (0x6004, 6)] (faulted true)
        responds s op (fun bs => (answers s 0 bs).isNone)) &&
      responds (withResp [] g0) 0 && responds (withResp [(0x6000, 12)] g0) 12 &&
      responds copyFault 1 (fun bs => match answers copyFault 0 bs, cmd? copyFault 0 0 with
        | some p, some c => decide (p.what = .copy 0 0 ∧ c.st = .parked (some 5)) | _, _ => false)) = true := by decide +kernel

/-- R305, R306: the record goes to slot 0 under serial 5. -/
theorem test_record_is_written :
    let t := after (.faultRecordWrite 0) recording
    rdNat t 0x7000 4 = 5 ∧ rdNat t 0x7007 1 = causeQueueDepth ∧ rdNat t 0x7010 8 = 0x1001 ∧ rdNat t 0x1000010 4 = 1 ∧
      (unitOf false t).parked = some (5, trap0) := by decide +kernel

/-- InvalidatesAndStops: an INVAL of the first page, and a STOP of the context. -/
theorem test_inval_and_stop_hypotheses :
    responds (withResp [(0x6000, 6), (0x6014, 1)] g0) 6 = true ∧ responds (withResp [(0x6000, 5)] (faulted true)) 5 = true := by decide +kernel

/-- A response that has begun. -/
def begun (op arg stage : Nat) (targets : List Nat) : Resp := { slot := dw 0x6000, bytes := [BitVec.ofNat 8 op] ++ List.replicate 19 0 ++ bytesOf 4 arg ++ List.replicate 40 0, stage := stage, since := 0, targets := targets }

/-- The placed strand is away, saved in an area that is not mapped, so that its image reads zeros. -/
def savedStrand : State :=
  let v := groupUid 65536 0
  { s0 with
    units := [(v, { unitOf true s0 with at_ := { (unitOf true s0).at_ with core := 65536 } })], nextSaved := 65537,
    saved := [(65536, { ctx := 0, area := dw 0x800000, set := 65536, strand := true, unit := uid true, home := 4096, since := 0, wrote := [List.replicate 4096 0] })] }

/-- SavesAndMigrations: a save of a strand and of a team that are drained; a strand that comes back; a hold entry with one agent and with two. -/
theorem test_save_hypotheses :
    (let save (s : State) (strand : Bool) (k : Nat) : Bool :=
       let r := begun 7 (if strand then 0x40000000 else 0) 0 [k]
       let s := s.modDie 0 (fun d => { d with resps := [r] })
       decide (response? s 0 = none ∧ rf r.bytes 0 1 = 7 ∧ ofStrand r.bytes = strand) && targetDrained (if strand then s else settleMove s 0) strand k
     save s0 true (uid true) && save g0 false key0 && decide ((s0.unit? (uid true)).isSome ∧ uid true ≠ groupUid s0.nextSaved 0) &&
       (let e (l : List Nat) : Fwd := { unit := uid true, dest := none, agents := l }
        let s (l : List Nat) : State := g0.modCore 1 (fun k => { k with fwd := [e l] })
        decide (((s [3]).core 1).fwd = [e [3]] ∧ ((s [3, 4]).core 1).fwd = [e [3, 4]] ∧ [3, 4].filter (· ≠ 3) ≠ []))) = true := by decide +kernel

/-- SavesAndMigrations: a strand comes back from an image of zeros. -/
theorem test_restore_hypotheses :
    (let s := withResp [(0x6000, 8), (0x601A, 0x80)] savedStrand
     responds s 8 (fun bs => let s0 := Claims.Begun s 0 0x6000
       let image := readSection s0 0x800000 4096
       let t := tailFrom (obtainVirt s0 0 0x800000 4096) 0 (groupUid 65536 0) (List.replicate 4096 0) image
       decide (rf bs 20 4 = 0 ∧ rf bs 24 8 = 0x800000 ∧ savedSet s0 0 0x800000 = some 65536) &&
       match t.unit? (groupUid 65536 0), Tab.find? s.saved 65536 with
       | some un, some x =>
         let back := unitFrom un image
         (landStrand (t.modUnit (groupUid 65536 0) (fun _ => back)) 0 65536 x).isSome &&
           back.splits.all (fun e => match e.2.wait with | some (.sleep _ (some _) _) => false | _ => true)
       | _, _ => false)) = true := by decide +kernel

/-- SavesAndMigrations: a migration of core 0 to core 1, at its start and on resumption; FREEZE and THAW of every die and of a mask too wide. -/
theorem test_migrate_and_freeze_hypotheses :
    (let r (stage : Nat) := begun 9 0x00010000 stage [key0]
     let s (stage : Nat) := g0.modDie 0 (fun d => { d with resps := [r stage] })
     decide (response? (s 0) 0 = none ∧ rf (r 0).bytes 0 1 = 9 ∧ bits (rf (r 0).bytes 20 4) 8 0 = 0) && migrateReady (settleMove (s 0) 0) 0 &&
       decide (bits (rf (r 1).bytes 20 4) 24 16 = 1 ∧ ((s 1).die 3).resps = [] ∧ ((s 1).die 0).resps = [r 1]) && (g0.team? key0).isSome &&
       [10, 11].all (fun op => responds (withResp [(0x6000, BitVec.ofNat 8 op), (0x6014, 15)] g0) op (fun bs => decide (rf bs 20 4 < 16)) &&
         responds (withResp [(0x6000, BitVec.ofNat 8 op), (0x6014, 16)] g0) op (fun bs => decide (16 ≤ rf bs 20 4)))) = true := by decide +kernel

/-! The host, attestation, power (files 14, 16 and 20) -/

/-- The device runs, with contexts 65528 and 65535 to be granted. -/
def granting : State := { plain State.reset with mgmt := { (plain State.reset).mgmt with phase := .running }, mem := [(0x1029FFF, 0x81)] }

/-- HostAndAttestation: host and CXL lines at the ends of their tiers, device spans, a die in S3; the window ready, running and closed; a start that
suits; a byte of the grant map that changes two contexts. -/
theorem test_host_hypotheses :
    (let s := State.reset
     let asleep := s.modDie 1 (fun d => { d with power := { d.power with st := .s3 } })
     [2 ^ 44 / 128, 2 ^ 46 / 128, 2 ^ 48 / 128 - 1].all (fun l => hostTier s (128 * l)) &&
       (reqSpan (.write 0 [1, 2])).all (deviceTier s) && (reqSpan (.read 100 true)).all (deviceTier s) && decide ((s.die (homeDie 100)).power.st ≠ .s3) &&
       (reqSpan (.read (2 ^ 37) false)).all (deviceTier asleep) && decide ((asleep.die (homeDie (2 ^ 37))).power.st = .s3) &&
       decide (s.mgmt.phase = .ready ∧ baseOk s s.mgmt.ctxbase = true ∧ (1 : Word).getLsbD 0 = true ∧ granting.mgmt.phase = .running) &&
       !windowAccess 2 4 && !windowAccess 65536 4 && !windowAccess 8 2 && windowAccess 65528 8 &&
       !windowOpen { s with mgmt := { s.mgmt with phase := .links } } && !baseOk s (2 ^ 25 - 1) &&
       decide ((rd8 granting (granting.tableBase + 0x1028000 + 8191)).toNat = 0x81 ∧ (granting.die 0).grants = [])) = true := by decide +kernel

/-- R397: both contexts are granted. -/
theorem test_grants :
    (let l := ((after (.grantMapWrite 8191) granting).die 0).grants
     l.contains 65528 && l.contains 65535 && l.length == 2) = true := by decide +kernel

/-- The attestation has come a way. -/
def spdm (caps algs nokey : Bool) : State :=
  let m := State.reset.mgmt
  { State.reset with mgmt := { m with nokey := nokey, spdm := { m.spdm with version := true, caps := caps, algs := algs, asym := 0x80, hash := 2 } } }

/-- HostAndAttestation: each stage of the attestation; errors at a word that is clean, and at a register of a group. -/
theorem test_attestation_hypotheses :
    (spdm false false false).mgmt.spdm.version = true ∧ State.reset.mgmt.spdm.version = false ∧ (spdm true false false).mgmt.spdm.caps = true ∧
      (spdm true false false).mgmt.spdm.asym.testBit 7 = true ∧ (spdm true false false).mgmt.spdm.hash.testBit 1 = true ∧
      (0x81 - 0x80).testBit 7 = false ∧ (spdm true true false).mgmt.spdm.algs = true ∧ (spdm true true false).mgmt.nokey = false ∧
      (spdm true true true).mgmt.nokey = true ∧ deviceTier State.reset 0 = true ∧ (l2Line State.reset 0).dirty = false ∧
      (unitOf false g0).at_.strand = false ∧ (g0.unit? (uid false)).isSome = true := by decide +kernel

/-- A die of a part with nothing on it, whose power stands as given. -/
def dieWith (d : Nat) (f : Power → Power) (b : BringUp := .ready) : State := (plain State.reset).modDie d (fun x => { x with bring := b, power := f x.power })

/-- PowerAndBringUp: a tolerance below the exit of the state; idle dies that may enter S1, S2 and S3; entries, wakes and exits under way. -/
theorem test_power_hypotheses :
    (let idle (d now : Nat) (lat : Nat) : State := { dieWith d (fun p => { p with lattol := lat }) with now := now }
     let w (s : State) (d : Nat) : Power := (s.die d).power
     let deep (d : Nat) (p : PState) (f : Power → Power := id) : State := dieWith d (fun q => f { q with st := p })
     windowOpen (deep 1 .s2) && decide ((39 : Word).toNat < (w (deep 1 .s2) 1).st.exit ∧ (w (deep 1 .s2) 1).exiting = false ∧ (w (deep 1 .s2) 1).wake = false) &&
       decide (powerTarget (idle 0 4096 2) 0 = .s1 ∧ powerTarget (idle 0 65536 40) 0 = .s2 ∧ powerTarget (idle 3 0 2000) 3 = .s3 ∧
         (w (idle 0 4096 2) 0).st.depth < (powerTarget (idle 0 4096 2) 0).depth ∧ (w (idle 0 0 2) 0).entering = none ∧ ((idle 0 0 2).die 0).frozen = false) &&
       decide ((w (deep 1 .s2 (fun p => { p with entering := some .s2 })) 1).entering = some .s2 ∧ (w (deep 1 .s3 (fun p => { p with entering := some .s3 })) 1).entering = some .s3) &&
       decide ((w (deep 1 .s1) 1).st ≠ .s0 ∧ (w (deep 1 .s3) 1).st = .s3 ∧ (w (deep 1 .s3) 1).exiting = false) &&
       decide ((w (deep 1 .s1 (fun p => { p with exiting := true })) 1).exiting = true)) = true := by decide +kernel

/-- R396: at 101 degrees the die gives up one step, at 94 it takes one back. -/
theorem test_thermal_steps :
    ((after (.thermalStep 0 101) State.reset).die 0).power.thermal = 1 ∧
      ((after (.thermalStep 0 94) (after (.thermalStep 0 101) State.reset)).die 0).power.thermal = 0 := by decide +kernel

/-- PowerAndBringUp: dies at each step of bring-up, die 0 and another, from power-on and from S3; a firmware that is too old. -/
theorem test_bring_up_hypotheses :
    ([BringUp.firmware, .selftest, .memory, .links].all (fun b => atStep (dieWith 0 id b) 0 b && atStep (dieWith 3 id b) 3 b) &&
      decide ((dieWith 0 id .off).mgmt.phase ≠ .failed ∧ dieAbsent (dieWith 3 id .off) 3 = false ∧ ((dieWith 3 id .off).die 3).bring = .off) &&
      (let s := dieWith 1 (fun p => { p with st := .s3, exiting := true })
       decide ((s.die 1).bring = .ready ∧ (s.die 1).power.st = .s3 ∧ (s.die 1).power.exiting = true ∧ dieAbsent s 1 = false)) &&
      decide ((dieWith 0 id .firmware).mgmt.flash.rollback ≤ (dieWith 0 id .firmware).mgmt.flash.fwver) &&
      (let s := dieWith 0 id .firmware
       let old := { s with mgmt := { s.mgmt with flash := { s.mgmt.flash with rollback := 1 } } }
       decide (old.mgmt.flash.fwver < old.mgmt.flash.rollback ∧ (old.die 0).bring = .firmware)) &&
      decide (dieStacks (dieWith 0 id .memory) 0 ≠ [] ∧ dieStacks (dieWith 3 id .memory) 3 ≠ []) &&
      (let s := { dieWith 3 id .links with mgmt := { (dieWith 3 id .links).mgmt with phase := .links } }
       decide (s.mgmt.phase = .links) && [0, 1, 2].all (fun k => decide ((s.die k).bring = .ready)))) = true := by decide +kernel

/-! The debug module (file 19) -/

/-- A command of the owner, context 0, in the block of cell 0's module: operation, unit word, offset; with the right or without. -/
def debugCmd (op : Nat) (unit : Tab Byte) (off : Tab Byte) (right : Bool) (halted : Bool) (edits : List Edit) : State :=
  let s := (if halted then onG (fun un => { un with halted := some 0 }) else g0).modCell 0 (fun k =>
    { k with dbg := { k.dbg with owner := 0, dflags := if right then 3 else 0, edits := edits } })
  { s with mem := [(0x1010002, 3), (0x1010040, BitVec.ofNat 8 op), (0x1010041, 255)] ++ unit ++ off }

/-- The unit word of the whole cell; group 0 of core 0 has the word 0. -/
def whole : Tab Byte := [(0x1010044, 255), (0x1010045, 255), (0x1010046, 255), (0x1010047, 255)]

/-- The module has a command of an operation for the placed group. -/
def commanded (s : State) (op : Nat) (right : Bool := true) : Bool :=
  (List.range 128).all (fun i => !unbackedAt s (debugBlock s 0 + i)) && debugPending s 0 && decide (debugField s 0 64 1 = op ∧ hasRight (s.cell 0).dbg = right)

/-- DebugModule: a module with no command; commands for the cell and for the group, running and halted; commands without the right; a revocation. -/
theorem test_debug_hypotheses :
    (let named (s : State) : Bool := decide (debugUnit s 0 (debugField s 0 68 4) = some (uid false))
     let halted (s : State) : Bool := match s.unit? (uid false) with | some un => un.halted.isSome | none => false
     !debugPending g0 0 && !hasRight (g0.cell 0).dbg &&
       (let s := debugCmd 1 whole [] true false []
        commanded s 1 && decide (debugField s 0 0 2 = (s.cell 0).dbg.owner ∧ debugField s 0 2 1 = 3 ∧ debugField s 0 68 4 = wholeCell)) &&
       commanded (debugCmd 2 whole [] true true []) 2 &&
       [3, 4, 5].all (fun op => commanded (debugCmd op [] [] true true []) op && named (debugCmd op [] [] true true []) && halted (debugCmd op [] [] true true []) &&
         commanded (debugCmd op [] [] true false []) op && named (debugCmd op [] [] true false []) && !halted (debugCmd op [] [] true false [])) &&
       [2, 3, 4, 5, 6, 7].all (fun op => commanded (debugCmd op [] [] false true []) op false) && commanded (debugCmd 7 [] [] true true []) 7 &&
       decide (bit (debugField { debugCmd 7 [] [] true true [] with mem := [] } 0 2 1) 0 = false)) = true := by decide +kernel

/-- Offset 8,192: lane 0 of v0; offset 139,260: lane 31 of v1023. -/
def firstV : Tab Byte := [(0x1010049, 0x20)]
def lastV : Tab Byte := [(0x1010048, 0xFC), (0x1010049, 0x1F), (0x101004A, 0x02)]

/-- DebugModule: offsets that may be read and written, at both ends of the registers; edits of s62 and s63 and of the last element; an edit that is
stale. -/
theorem test_edit_hypotheses :
    (let at_ (off : Tab Byte) (n : Nat) : Bool := let s := debugCmd 4 [] off true true []
       decide (debugField s 0 72 4 = n) && (match s.unit? (uid false) with | some un => (readState s (uid false) un n).isSome && writable s un n | none => false)
     let edit (e : Edit) : State := debugCmd 6 [] [] true true [e]
     at_ [] 0 && at_ firstV 8192 && at_ lastV 139260 &&
       (match (edit ⟨uid false, 8 * 31, 5, false⟩).unit? (uid false) with
        | some un => un.halted.isSome && decide (vregAt g0 un 139260 = some (1023, 31))
        | none => false) && commanded (edit ⟨uid false, 8 * 31, 5, false⟩) 6 &&
       (edit ⟨uid false, 0, 5, true⟩ |> fun s => (s.cell 0).dbg.edits.all (·.stale)) &&
       decide ((List.replicate 64 (⟨uid false, 0, 5, false⟩ : Edit)).length = 64)) = true := by decide +kernel

/-- R373: COMMIT gives s62 and s63 their words. -/
theorem test_commit :
    let un := unitOf false (after (.commit 0) (debugCmd 6 [] [] true true [⟨uid false, 8 * 31, 0x200000001, false⟩]))
    readS un 62 = 1 ∧ readS un 63 = 2 ∧ un.edited = true := by decide +kernel

/-! Encodings (file 03): words built field by field from Tables 3-2 to 3-6, and Examples 3-1, 6-2 and 9-1 -/

/-- Control: NOP, BR three lines back to head 2, TRAP 5. -/
theorem test_decode_control :
    decode ⟨0x0000, []⟩ = some (.nop ⟨0, false⟩) ∧ decode ⟨0x4100, [0x002FFFFD]⟩ = some (.br ⟨h0, ⟨-3, 2⟩⟩) ∧
      decode ⟨0x4040, [0x00002800]⟩ = some (.trap ⟨h0, 5⟩) := by decide +kernel

/-- Integer: IADD @!p2, SHLI by 31, MOVI of 100, MOVK of 100000. -/
theorem test_decode_integer :
    decode ⟨0x8801, [0x00001001, 0x90000003]⟩ = some (.iadd ⟨⟨⟨0, false⟩, some ⟨2, true⟩⟩, .v 1, .v 2, .v 3, .wrap⟩) ∧
      decode ⟨0x4C50, [0x07C04007]⟩ = some (.shli ⟨h0, .v 7, .v 8, 31⟩) ∧ decode ⟨0x4E10, [0x00032404]⟩ = some (.movi ⟨h0, .s 4, 100⟩) ∧
      decode ⟨0x8E30, [0x000186A0, 0x00000002]⟩ = some (.movk ⟨h0, .v 2, 100000, .w32⟩) := by decide +kernel

/-- Floating point: FFMA with a gap hint and a guard, FADD with a packed FP8 source. -/
theorem test_decode_float :
    decode ⟨0x9435, [0x0000580A, 0x1800680C]⟩ =
        some (.ffma ⟨⟨⟨1, false⟩, some ⟨3, false⟩⟩, .v 10, .v 11, .v 12, .v 13, nar0, ar⟩) ∧
      decode ⟨0x9400, [0x82C01001, 0x00000003]⟩ = some (.fadd ⟨h0, .v 1, .v 2, .v 3, ⟨some .e5m2, some 3, none⟩, ar⟩) := by decide +kernel

/-- Accesses and lanes: LD with offset -4, LDL with offset 8, BALLOT of p3 negated. -/
theorem test_decode_access :
    decode ⟨0xA800, [0x00001001, 0x0406FFFC]⟩ = some (.ld ⟨h0, .v 1, .v 2, -4, .s 6, m32⟩) ∧
      decode ⟨0xAC00, [0x00201401, 0x00000008]⟩ = some (.ldl ⟨h0, .s 1, .s 2, 8, m32⟩) ∧
      decode ⟨0x6500, [0x00401C05]⟩ = some (.ballot ⟨h0, .s 5, 3, true⟩) := by decide +kernel

/-- Matrix, flow, engines and system: MRSV, MLDA, ENQ, SVC, FENCE.REL.DEV, CTLR. -/
theorem test_decode_matrix_and_system :
    decode ⟨0x7600, [0x01206001]⟩ = some (.mrsv ⟨h0, 1, .s 12, 4⟩) ∧
      decode ⟨0xB700, [0x00202000, 0x04080000]⟩ = some (.mlda ⟨h0, 0, .s 4, 0, .s 8, .bf16, false, .scr⟩) ∧
      decode ⟨0xBD30, [0x04E02402, 0x04060000]⟩ = some (.enq ⟨h0, .s 2, .s 4, 0, .s 6, ⟨3, true, false⟩⟩) ∧
      decode ⟨0xBE50, [0x02A01401, 0x04040010]⟩ = some (.svc ⟨h0, .s 1, .s 2, 16, some (.s 4), .tex, 2, false⟩) ∧
      decode ⟨0x7400, [0x05400000]⟩ = some (.fence ⟨h0, ⟨.dev, .rel⟩⟩) ∧ decode ⟨0x7F00, [0x01400403]⟩ = some (.ctlr ⟨h0, .s 3, 5⟩) := by decide +kernel

/-- R70, R71: code points with no instruction, a wrong length, fields that must be zero. -/
theorem test_decode_refuses :
    [decode ⟨0x5300, [0]⟩, decode ⟨0x4800, [0]⟩, decode ⟨0x0001, []⟩, decode ⟨0x9400, [0x02C01001, 0x00000003]⟩,
      decode ⟨0x4C50, [0x0FC04007]⟩].all (·.isNone) = true := by decide +kernel

/-- DecodeOfEncode, DecodedIsWellFormed: instructions of one, two and three words, with fields at the ends of their ranges. -/
theorem test_encode_hypotheses :
    [Instr.nop ⟨3, true⟩, .movi ⟨h1, .v 1023, 0xFFFF⟩, .iadd ⟨h0, .e 7, .q 0, .v 0, .wrap⟩, .ld (wide true), .exit hi0].all (fun i =>
      i.wf && (match encode i with | some c => decide (decode c = some i) | none => false)) = true := by decide +kernel

/-- LinesReadBack: a head of each length. -/
theorem test_line_hypotheses :
    ([(0x3FFF, []), (0x7FFF, [0]), (0xBFFF, [0, 2 ^ 32 - 1]), (0xFFFF, [0, 1, 2 ^ 32 - 1])] : List (Nat × List Nat)).all (fun c =>
      decide (c.1 < 2 ^ 16 ∧ c.2.length = c.1 / 2 ^ 14) && c.2.all (· < 2 ^ 32)) = true := by decide +kernel

/-! Steps and what comes before an effect (files 03 and 05) -/

/-- The placed group's turn, at the line of one head given, entered or to be fetched. -/
def turn (w : Nat) (entered : Bool) : State :=
  let l := lineOf ⟨w, []⟩ true
  let s := if entered then withLine l else withBytes wordBase l
  { s with agenda := [.issue (uid false)], actor := none }

/-- StepRunsDecoded: a group that has its line, with a word that is an instruction and one that is none; a group that fetches it; a turn of nobody,
an event, a new cycle. -/
theorem test_step_hypotheses :
    (let at_ (s : State) (p : UnitSt → Nat × Split → Bool) : Bool := match s.unit? (uid false) with
       | some un => mayIssue s un && (match un.running with
           | some x => decide (x.2.stage ≠ skipStage) && p un x && un.splits.all (fun y => decide (y.2.st ≠ .running ∨ y.1 = x.1)) | none => false)
       | none => false
     let code (l : List Byte) (sp : Split) : Option Instr := decode (codeAt l (headIx sp.pc))
     at_ (turn 0 true) (fun _ x => match x.2.line with | some l => decide (code l x.2 = some (.nop hi0)) | none => false) &&
       at_ (turn 1 true) (fun _ x => match x.2.line with | some l => (code l x.2).isNone | none => false) &&
       at_ (turn 0 false) (fun un x => x.2.line.isNone && (match fetchLine (turn 0 false) un x.2 x.2.pc with
         | .line l _ => (fetchChecks l x.2.pc).isNone && decide (code l x.2 = some (.nop hi0)) | _ => false)) &&
       ((turn 0 true).unit? (uid true)).isNone && decide (State.reset.agenda = []) && (holdEvent g0 .lifetimeRecordWrite).isNone) = true := by
  decide +kernel

/-- R57, R60, R66: a step of the group fetches its line, decodes the NOP at head 1 and retires it. -/
theorem test_step_runs_nop :
    (match step (turn 0 false) with | .next t => (unitOf false t).ctl.retired | _ => 9) = 1 := by decide +kernel

/-- What `ready` answers, as a number: acts, illegal, off, waits, broken, idle. -/
def readyOf (i : Instr) (s : State) : Nat :=
  match ready i s with
  | .acts _ => 0 | .illegal _ => 1 | .off _ => 2 | .waits _ _ => 3 | .broken _ _ => 4 | .idle => 5

/-- WhenInstructionsAct: an ill-formed term and a strand's instruction in a group, a guard that fails, an empty register, a struck register, nobody's
turn; and an instruction that acts with nothing outstanding. -/
theorem test_before_the_effect_hypotheses :
    (let add : Instr := .iadd ⟨h0, .v 0, .v 1, .v 2, .wrap⟩
     let struck : State := { g0 with struck := [.vreg (uid false) 1 0] }
     decide (readyOf (.iadd ⟨h0, .id .core, .v 1, .v 2, .wrap⟩) g0 = 1 ∧ readyOf (.ldl (nearS 0)) g0 = 1 ∧ readyOf (.sts (near 0)) s0 = 1 ∧
       readyOf (.iadd ⟨h1, .v 0, .v 1, .v 2, .wrap⟩) g0 = 2 ∧ readyOf add (onG (fun un => setFe un (.v 1) .empty)) = 3 ∧ readyOf add struck = 4 ∧
       readyOf add State.reset = 5 ∧ readyOf add g0 = 0) &&
     (match g0.unit? (uid false) with
      | some un => legal g0 un add && portsLegal un add && (hazard g0 un 0 add).isNone && !readsBroken g0 (uid false) add &&
          (match un.running with | some (e, sp) => decide (e = 0 ∧ sp.stage = 0 ∧ guardMask un (Sys2Proof.Machine.guardOf add) sp.mask ≠ 0) | none => false)
      | none => false)) = true := by decide +kernel

/-- R79: IADD wraps; the largest word and 1 give 0. -/
theorem test_iadd_wraps :
    readS (unitOf false (after (.iadd ⟨h0, .s 1, .s 2, .s 3, .wrap⟩) (withS 2 0xFFFFFFFF (withS 3 1)))) 1 = 0 := by decide +kernel

/-! Memory (files 14 and 20) -/

/-- AccessFramesAndStores: stores to one line, cached and not, while a move takes the cache out of use; MemoryReadsAndWrites, CanonicalMemoryKept: reset's
memory is canonical, and a step of it answers. -/
theorem test_memory_hypotheses :
    ([(256, 1), (383, 2)] : List (Nat × Byte)).all (fun w => decide (w.1 / 128 = 2)) = true ∧ unbackedAt g0 256 = false ∧
      cacBypass (g0.core 0) = false ∧ (cacFind (g0.core 0) 2).isNone = true ∧ (cacFind (dirtyLine.core 0) 2).isSome = true ∧
      Tab.rising (dirtyLine.core 0).ci.lines = true ∧
      cacBypass ((moving .scr .cac .switch false []).core 0) = true ∧ Memory.wf State.reset.mem = true ∧
      (match step State.reset with | .next t => t.now | _ => 9) = 1 := by decide +kernel

/-- R265, R273: a store to a line that is not cached is read back, and the byte beside it stays. -/
theorem test_store_reads_back :
    let t := (coreStore g0 0 [(256, 1), (383, 2)] false).1
    coreByte t 0 256 = 1 ∧ coreByte t 0 383 = 2 ∧ coreByte t 0 257 = 0 := by decide +kernel

end Sys2Proof.Tests
end

section
/-! Every step keeps memory canonical (O58). Memory changes in four places: bytes are set by `poke` and `hostWrite`, and entries are
dropped by `performDiscard` and `execMemory`, each of which keeps it canonical; every other update leaves memory alone. So there is
one lemma per operation of the model, in the model's order: `MemoryOk.f` for one that gives a state, `OutOk.f` for one that gives an
answer. An operation is a composition of operations met before, and its proof names their lemmas in the order in which the
definition composes them. -/

open Sys2Proof.Machine
namespace Sys2Proof.Safety

variable {s t : State} {un : UnitSt} {o : Op} {x : Issue} {i : Instr} {bs : List Byte}
  {u d k c n e die core ctx cell key va id pa : Nat}

/-! Canonical memory under the ways a new state is put together -/

/-- Memory that is left alone stays canonical. -/
theorem MemoryOk.of_mem_eq (h : MemoryOk s) (e : t.mem = s.mem) : MemoryOk t := by
  rw [MemoryOk, e]
  exact h

/-- An update of the state that does not speak of memory. -/
theorem MemoryOk.update {now agenda calendar actor draws l2 poison struck latent units teams nextTeam clusters nextCluster tasks nextTask
    cores scores cells dies ctxs saved nextSaved unbacked links mgmt deep} (h : MemoryOk s) :
    MemoryOk { s with
      now, agenda, calendar, actor, draws, l2, poison, struck, latent, units, teams, nextTeam, clusters, nextCluster, tasks, nextTask,
      cores, scores, cells, dies, ctxs, saved, nextSaved, unbacked, links, mgmt, deep } :=
  h

theorem MemoryOk.work {count aux writes fault} (h : MemoryOk s) : MemoryOk (Work.mk s count aux writes fault).s := h

theorem MemoryOk.ite {p : Prop} [Decidable p] (h : MemoryOk s) (h' : MemoryOk t) : MemoryOk (if p then s else t) := by
  split
  · exact h
  · exact h'

theorem MemoryOk.iteFst {α : Type} {q : Prop} [Decidable q] {p p' : State × α} (h : MemoryOk p.1) (h' : MemoryOk p'.1) :
    MemoryOk (if q then p else p').1 := by
  split
  · exact h
  · exact h'

theorem MemoryOk.iteWork {q : Prop} [Decidable q] {w w' : Work} (h : MemoryOk w.s) (h' : MemoryOk w'.s) :
    MemoryOk (if q then w else w').s := by
  split
  · exact h
  · exact h'

/-- A fold of steps each of which keeps memory canonical keeps it canonical. -/
theorem MemoryOk.foldl {β : Type} {f : State → β → State} {l : List β} (h : MemoryOk s)
    (hf : ∀ {s b}, MemoryOk s → MemoryOk (f s b)) : MemoryOk (l.foldl f s) :=
  List.foldlRecOn l f h (fun _ h _ _ => hf h)

/-- As `foldl`, for a fold that carries a result beside the state. -/
theorem MemoryOk.foldlFst {α β : Type} {f : State × α → β → State × α} {l : List β} {p : State × α} (h : MemoryOk p.1)
    (hf : ∀ {p b}, MemoryOk p.1 → MemoryOk (f p b).1) : MemoryOk (l.foldl f p).1 :=
  List.foldlRecOn (motive := fun p => MemoryOk p.1) l f h (fun _ h _ _ => hf h)

/-- As `foldl`, for a fold over a service's work. -/
theorem MemoryOk.foldlWork {β : Type} {f : Work → β → Work} {l : List β} {w : Work} (h : MemoryOk w.s)
    (hf : ∀ {w b}, MemoryOk w.s → MemoryOk (f w b).s) : MemoryOk (l.foldl f w).s :=
  List.foldlRecOn (motive := fun w => MemoryOk w.s) l f h (fun _ h _ _ => hf h)

/-- As `foldl`, for a fold that may find that there is no next state. -/
theorem MemoryOk.foldlOption {β : Type} {f : Option State → β → Option State} {l : List β} {o : Option State}
    (h : ∀ t ∈ o, MemoryOk t) (hf : ∀ {o b}, (∀ t ∈ o, MemoryOk t) → ∀ t ∈ f o b, MemoryOk t) : ∀ t ∈ l.foldl f o, MemoryOk t :=
  List.foldlRecOn (motive := fun o => ∀ t ∈ o, MemoryOk t) l f h (fun _ h _ _ => hf h)

/-- What an answer leaves behind, if it is a next state, has canonical memory. -/
def OutOk (o : Out) : Prop := ∀ t, o = .next t → MemoryOk t

theorem OutOk.next (h : MemoryOk s) : OutOk (.next s) := by
  rintro _ ⟨⟩
  exact h

theorem OutOk.fault {f : Fault} : OutOk (.fault f) := fun _ h => by cases h

theorem OutOk.ite {p : Prop} [Decidable p] {o o' : Out} (h : OutOk o) (h' : OutOk o') : OutOk (if p then o else o') := by
  split
  · exact h
  · exact h'

/-! Operations of Machine/Access.lean -/

theorem MemoryOk.putUnit {x} (h : MemoryOk s) : MemoryOk (State.putUnit s u x) := h
theorem MemoryOk.modUnit {f : UnitSt → UnitSt} (h : MemoryOk s) : MemoryOk (State.modUnit s u f) := h
theorem MemoryOk.mapUnits {f : Nat → UnitSt → UnitSt} (h : MemoryOk s) : MemoryOk (State.mapUnits s f) := h
theorem MemoryOk.putTeam {t x} (h : MemoryOk s) : MemoryOk (State.putTeam s t x) := h
theorem MemoryOk.modTeam {f : Team → Team} {t} (h : MemoryOk s) : MemoryOk (State.modTeam s t f) := h
theorem MemoryOk.modCluster {f : Cluster → Cluster} (h : MemoryOk s) : MemoryOk (State.modCluster s k f) := h
theorem MemoryOk.modTask {f : Task → Task} {t} (h : MemoryOk s) : MemoryOk (State.modTask s t f) := h
theorem MemoryOk.putCore {x} (h : MemoryOk s) : MemoryOk (State.putCore s c x) := h
theorem MemoryOk.modCore {f : Core → Core} (h : MemoryOk s) : MemoryOk (State.modCore s c f) := h
theorem MemoryOk.modScore {f : StrandCore → StrandCore} (h : MemoryOk s) : MemoryOk (State.modScore s c f) := h
theorem MemoryOk.modCell {f : Cell → Cell} (h : MemoryOk s) : MemoryOk (State.modCell s c f) := h
theorem MemoryOk.modDie {f : Die → Die} (h : MemoryOk s) : MemoryOk (State.modDie s d f) := h
theorem MemoryOk.modCtx {f : Ctx → Ctx} (h : MemoryOk s) : MemoryOk (State.modCtx s c f) := h
theorem MemoryOk.modLink {f : Link → Link} (h : MemoryOk s) : MemoryOk (State.modLink s k f) := h
theorem MemoryOk.modMx {f : Matrix → Matrix} (h : MemoryOk s) : MemoryOk (State.modMx s c f) := h
theorem MemoryOk.modCi {f : Cistern → Cistern} (h : MemoryOk s) : MemoryOk (State.modCi s c f) := h
theorem MemoryOk.modDebug {f : Debug → Debug} (h : MemoryOk s) : MemoryOk (State.modDebug s c f) := h
theorem MemoryOk.soon {t} (h : MemoryOk s) : MemoryOk (State.soon s t) := h
theorem MemoryOk.later {t} (h : MemoryOk s) : MemoryOk (State.later s d t) := h
theorem MemoryOk.laterFree {i} (h : MemoryOk s) : MemoryOk (State.laterFree s i) := h
theorem MemoryOk.countSent (h : MemoryOk s) : MemoryOk (countSent s un) := .ite h h
theorem MemoryOk.countRecv (h : MemoryOk s) : MemoryOk (countRecv s un) := .ite h h

/-! Operations of Machine/Memory.lean -/

theorem MemoryOk.setL2 {line x} (h : MemoryOk s) : MemoryOk (setL2 s line x) := h
theorem MemoryOk.reach (h : MemoryOk s) : MemoryOk (reach s d) := h.of_mem_eq (mem_reach s d)

theorem MemoryOk.obtainRead (h : MemoryOk s) : MemoryOk (obtainRead s pa) := by
  unfold Machine.obtainRead
  dsimp only
  split
  · exact .ite (.ite h h) (.reach h)
  · exact h

theorem MemoryOk.correctWords {f : ErrLoc → Bool} (h : MemoryOk s) : MemoryOk (correctWords s f) := by
  unfold Machine.correctWords
  refine .ite h (.foldl h fun h => ?_)
  split
  · exact .ite h h
  · exact h
  · exact h

theorem MemoryOk.poke {ws} (h : MemoryOk s) : MemoryOk (poke s ws) := wf_poke h ws
theorem MemoryOk.sliceWrite {ws} (h : MemoryOk s) : MemoryOk (sliceWrite s ws) := wf_sliceWrite h ws
theorem MemoryOk.setPoison {as} (h : MemoryOk s) : MemoryOk (setPoison s as) := h
theorem MemoryOk.cacSend {line} (h : MemoryOk s) : MemoryOk (cacSend s c line) := wf_cacSend h c line
theorem MemoryOk.cacDrop {line} (h : MemoryOk s) : MemoryOk (cacDrop s c line) := wf_cacDrop h c line
theorem MemoryOk.cacForget {line} (h : MemoryOk s) : MemoryOk (cacForget s c line) := h
theorem MemoryOk.acquireRuns {runs} (h : MemoryOk s) : MemoryOk (acquireRuns s c runs) := .foldl h fun h => .cacDrop h

theorem MemoryOk.cacFill {line} (h : MemoryOk s) : MemoryOk (cacFill s c line) := by
  unfold Machine.cacFill
  refine .ite h (.modCi (.obtainRead ?_))
  split
  · exact .modCore (.cacForget (.cacSend h))
  · exact h

theorem MemoryOk.cacLoad {line} (h : MemoryOk s) : MemoryOk (cacLoad s c line) := by
  unfold Machine.cacLoad
  refine .ite (.obtainRead (.cacDrop h)) ?_
  split
  · exact h
  · exact .cacFill h

theorem MemoryOk.coreStore {ws bypass} (h : MemoryOk s) : MemoryOk (coreStore s c ws bypass).1 := wf_coreStore h c ws bypass

/-! Operations of Machine/Translate.lean -/

theorem MemoryOk.fillFirst {fetch t} (h : MemoryOk s) : MemoryOk (fillFirst s un fetch t) := .ite h h
theorem MemoryOk.startWalks (h : MemoryOk s) : MemoryOk (startWalks s cell) := .foldl h fun h => h

theorem MemoryOk.requestWalk (h : MemoryOk s) : MemoryOk (requestWalk s cell ctx va) := by
  unfold Machine.requestWalk
  refine .ite (.startWalks h) ?_
  split
  · exact h
  · exact .startWalks h

theorem MemoryOk.obtainWalk (h : MemoryOk s) : MemoryOk (obtainWalk s ctx va) := by
  unfold Machine.obtainWalk
  split
  · exact .foldl h fun h => .obtainRead h
  · exact h

theorem MemoryOk.obtainVirt (h : MemoryOk s) : MemoryOk (obtainVirt s ctx va n) := by
  unfold Machine.obtainVirt
  refine .foldl h fun h => ?_
  dsimp only
  split
  · exact .obtainRead (.obtainWalk h)
  · exact .obtainWalk h

theorem MemoryOk.pokeVirt (h : MemoryOk s) : MemoryOk (pokeVirt s ctx va bs) := wf_pokeVirt h ctx va bs

@[simp] theorem OutOk.execPageWalk (h : MemoryOk s) : OutOk (execPageWalk cell ctx va s) := by
  unfold Machine.execPageWalk
  refine .ite (.next h) (.next (.startWalks ?_))
  split
  · exact .modCell (.modCell (.update (.obtainWalk h)))
  · exact .mapUnits (.modCell (.update (.obtainWalk h)))

/-! Operations of Machine/Ops.lean -/

theorem MemoryOk.appendTrace (h : MemoryOk s) : MemoryOk (appendTrace s cell bs) := .poke (.pokeVirt h)
theorem MemoryOk.flushTrace (h : MemoryOk s) : MemoryOk (flushTrace s cell) := .foldl h fun h => .appendTrace h
theorem MemoryOk.emitTrace {kind lane a b} (h : MemoryOk s) : MemoryOk (emitTrace s u un kind lane a b) := h

theorem MemoryOk.foldTarget {lane t} (h : MemoryOk s) : MemoryOk (foldTarget s u lane t) := by
  unfold Machine.foldTarget
  split
  · exact h
  · exact .ite h (.ite h h)

theorem MemoryOk.wakeFaults (h : MemoryOk s) : MemoryOk (wakeFaults s d) := .ite h h
theorem MemoryOk.takeTrap {a} (h : MemoryOk s) : MemoryOk (takeTrap s u e a) := h.of_mem_eq (mem_takeTrap s u e a)

theorem MemoryOk.trapHere {cause} (h : MemoryOk s) : MemoryOk (trapHere s u e cause) :=
  h.of_mem_eq (congrArg State.mem (besideUnits_trapHere s u e cause) :)

theorem MemoryOk.wakeTraps (h : MemoryOk s) : MemoryOk (wakeTraps s un) := .foldl h fun h => .wakeFaults h

theorem MemoryOk.answered (h : MemoryOk s) : MemoryOk (answered s u) := by
  unfold Machine.answered
  split
  · exact h
  · exact .wakeTraps h

theorem MemoryOk.returnFromHandler (h : MemoryOk s) : MemoryOk (returnFromHandler s u e) := by
  unfold Machine.returnFromHandler
  split
  · exact h
  · split
    · exact .answered h
    · exact h

theorem MemoryOk.countRetired (h : MemoryOk s) : MemoryOk (countRetired s u) := by
  unfold Machine.countRetired
  split
  · exact h
  · exact .ite h h

theorem MemoryOk.stepTrap (h : MemoryOk s) : MemoryOk (stepTrap s u e) := by
  unfold Machine.stepTrap
  split
  · exact h
  · split
    · refine .ite h ?_
      dsimp only
      split
      · exact .takeTrap h
      · exact h
    · exact h

theorem MemoryOk.goOn {y} (h : MemoryOk s) : MemoryOk (goOn s u e y) := by
  unfold Machine.goOn
  split
  · exact h
  · split
    · exact h
    · split
      · exact .modUnit (.foldTarget h)
      · split
        · exact h
        · exact .takeTrap h

theorem MemoryOk.transfer {t loc cancel} (h : MemoryOk s) : MemoryOk (transfer s u e t loc cancel) := by
  unfold Machine.transfer
  split
  · exact h
  · split <;> exact h

theorem MemoryOk.retire (h : MemoryOk s) : MemoryOk (retire s u e) := by
  unfold Machine.retire
  split
  · exact h
  · split
    · exact h
    · exact .stepTrap (.goOn (.countRetired h))

theorem MemoryOk.park {w stage} (h : MemoryOk s) : MemoryOk (park s u e w stage) := h
theorem MemoryOk.endSleep (h : MemoryOk s) : MemoryOk (endSleep s u e) := .retire h

theorem MemoryOk.wakeSleepers (h : MemoryOk s) : MemoryOk (wakeSleepers s u) := by
  unfold Machine.wakeSleepers
  split
  · exact h
  · refine .foldl h fun h => ?_
    split
    · exact .endSleep h
    · exact h

/-! Operations of Machine/Places.lean -/

theorem MemoryOk.wrLocal {p b} (h : MemoryOk s) : MemoryOk (wrLocal s p b) := by
  unfold Machine.wrLocal
  split <;> exact h

theorem MemoryOk.clearStruck {ws} (h : MemoryOk s) : MemoryOk (clearStruck s ws) := .ite h h
theorem MemoryOk.wrPlaces {ws} (h : MemoryOk s) : MemoryOk (wrPlaces s ws) := .clearStruck (.foldl h fun h => .wrLocal h)

/-! Operations of Machine/Trace.lean -/

theorem MemoryOk.crossTrigger (h : MemoryOk s) : MemoryOk (crossTrigger s u un) := .foldl h fun h => .ite h h

theorem MemoryOk.diverge {lane logged x} (h : MemoryOk s) : MemoryOk (diverge s u lane un logged x) := by
  unfold Machine.diverge
  refine .ite ?_ (.modDebug (.ite (.emitTrace (.poke h)) (.poke h)))
  exact .crossTrigger (.modDebug (.ite (.emitTrace (.poke h)) (.poke h)))

theorem MemoryOk.logSync {lane x} (h : MemoryOk s) : MemoryOk (logSync s u lane x) := by
  unfold Machine.logSync
  split
  · exact h
  · refine .ite h ?_
    split
    · exact h
    · refine .ite (.ite (.pokeVirt (.pokeVirt h)) (.pokeVirt h)) (.ite (.ite (.ite h (.diverge h)) (.ite h (.diverge h))) h)

theorem MemoryOk.logExit {lane x} (h : MemoryOk s) : MemoryOk (logExit s u lane x) := by
  unfold Machine.logExit
  split
  · exact h
  · refine .ite (.ite h h) ?_
    split
    · exact .ite h h
    · exact .ite (.pokeVirt (.pokeVirt (.ite h h))) (.ite (.ite (.diverge (.ite h h)) (.ite h h)) (.ite h h))

/-! Operations of Machine/Commands.lean -/

theorem MemoryOk.passCopy {ws} (h : MemoryOk s) : MemoryOk (passCopy s u un ws) := .ite h h
theorem MemoryOk.passFabric {reg ws} (h : MemoryOk s) : MemoryOk (passFabric s u un reg ws) := .laterFree (.ite h h)
theorem MemoryOk.pushCommand {reg w} (h : MemoryOk s) : MemoryOk (pushCommand s u un reg w) :=
  .ite (.ite (.passCopy h) (.passFabric h)) h

theorem MemoryOk.sendRecord {r ws writes} (h : MemoryOk s) : MemoryOk (sendRecord s u r ws writes) := by
  unfold Machine.sendRecord
  split <;> exact h

@[simp] theorem OutOk.execResultRecordAppend {r} (h : MemoryOk s) : OutOk (execResultRecordAppend u r s) := by
  unfold Machine.execResultRecordAppend
  refine .next ?_
  split
  · exact h
  · exact .ite (.wakeSleepers h) h

/-! Operations of Machine/Operands.lean -/

theorem MemoryOk.sendPort {w} (h : MemoryOk s) : MemoryOk (sendPort s u un n w) := by
  unfold Machine.sendPort
  dsimp only
  split
  · exact h
  · exact .ite (.later (.countSent h)) (.laterFree (.countSent h))

theorem MemoryOk.clearVreg {m} (h : MemoryOk s) : MemoryOk (clearVreg s u n m) := .ite h h

theorem MemoryOk.writeOp {f : Nat → Word} {o m} (h : MemoryOk s) : MemoryOk (writeOp s u o m f) := by
  unfold Machine.writeOp
  refine .ite h ?_
  split
  · exact h
  · split
    · exact .clearVreg h
    · exact h
    · exact .sendPort h
    · exact .pushCommand h
    · exact h
    · exact h

theorem MemoryOk.writePair {f : Nat → DWord} {o m} (h : MemoryOk s) : MemoryOk (writePair s u o m f) := by
  unfold Machine.writePair
  dsimp only
  split
  · exact .writeOp (.writeOp h)
  · exact .writeOp (.writeOp h)
  · exact .writeOp h

theorem MemoryOk.popResult {r} (h : MemoryOk s) : MemoryOk (popResult s u r) := by
  unfold Machine.popResult
  split
  · exact h
  · refine .ite (.laterFree ?_) ?_
    · split
      · exact .ite (.acquireRuns h) h
      · exact h
    · split
      · exact .ite (.acquireRuns h) h
      · exact h

theorem MemoryOk.popAll (h : MemoryOk s) : MemoryOk (popAll s u i) := by
  unfold Machine.popAll
  refine .foldl h fun h => ?_
  split
  · exact h
  · exact .popResult h
  · exact h

theorem MemoryOk.finishPopped (h : MemoryOk s) : MemoryOk (finishPopped x s) := .retire (.ite (.logSync h) h)
theorem MemoryOk.finish (h : MemoryOk s) : MemoryOk (finish x s) := .finishPopped (.popAll h)

/-- An instruction keeps memory canonical when its effect does: what stands before the effect writes no memory. -/
theorem OutOk.issue {body : Issue → State → State} (h : MemoryOk s) (hbody : ∀ {x t}, MemoryOk t → MemoryOk (body x t)) :
    OutOk (issue i s body) := by
  intro t e
  rcases issue_cases e with ⟨_, rfl⟩ | ⟨x, _, rfl⟩ | ⟨x, _, rfl⟩ | ⟨x, w, _, rfl⟩ | ⟨x, cause, _, rfl⟩ | ⟨x, _, rfl⟩
  · exact h
  · exact .trapHere h
  · exact .retire h
  · exact h
  · exact .trapHere h
  · exact hbody h

theorem OutOk.alu {f : Issue → Nat → Word} {d} (h : MemoryOk s) : OutOk (alu i s d f) := .issue h fun h => .finish (.writeOp h)
theorem OutOk.aluPair {f : Issue → Nat → DWord} {d} (h : MemoryOk s) : OutOk (aluPair i s d f) :=
  .issue h fun h => .finish (.writePair h)
theorem OutOk.aluPred {f : Issue → Nat → Bool} {pd} (h : MemoryOk s) : OutOk (aluPred i s pd f) := .issue h fun h => .finish h

/-! Operations of Machine/Integer.lean -/

@[simp] theorem OutOk.execIadd {y} (h : MemoryOk s) : OutOk (execIadd y s) := .alu h
@[simp] theorem OutOk.execIsub {y} (h : MemoryOk s) : OutOk (execIsub y s) := .alu h
@[simp] theorem OutOk.execIaddc {y} (h : MemoryOk s) : OutOk (execIaddc y s) :=
  .issue h fun h => .finish (.modUnit (.writeOp h))
@[simp] theorem OutOk.execIsubb {y} (h : MemoryOk s) : OutOk (execIsubb y s) :=
  .issue h fun h => .finish (.modUnit (.writeOp h))
@[simp] theorem OutOk.execIaddi {y} (h : MemoryOk s) : OutOk (execIaddi y s) := .alu h
@[simp] theorem OutOk.execIneg {y} (h : MemoryOk s) : OutOk (execIneg y s) := .alu h
@[simp] theorem OutOk.execIabs {y} (h : MemoryOk s) : OutOk (execIabs y s) := .alu h
@[simp] theorem OutOk.execIadd64 {y} (h : MemoryOk s) : OutOk (execIadd64 y s) := .aluPair h
@[simp] theorem OutOk.execIsub64 {y} (h : MemoryOk s) : OutOk (execIsub64 y s) := .aluPair h
@[simp] theorem OutOk.execIaddi64 {y} (h : MemoryOk s) : OutOk (execIaddi64 y s) := .aluPair h
@[simp] theorem OutOk.execImin {y} (h : MemoryOk s) : OutOk (execImin y s) := .alu h
@[simp] theorem OutOk.execImax {y} (h : MemoryOk s) : OutOk (execImax y s) := .alu h
@[simp] theorem OutOk.execIcmpp {y} (h : MemoryOk s) : OutOk (execIcmpp y s) := .aluPred h
@[simp] theorem OutOk.execIcmppi {y} (h : MemoryOk s) : OutOk (execIcmppi y s) := .aluPred h
@[simp] theorem OutOk.execSel {y} (h : MemoryOk s) : OutOk (execSel y s) := .alu h
@[simp] theorem OutOk.execAnd {y} (h : MemoryOk s) : OutOk (execAnd y s) := .alu h
@[simp] theorem OutOk.execOr {y} (h : MemoryOk s) : OutOk (execOr y s) := .alu h
@[simp] theorem OutOk.execXor {y} (h : MemoryOk s) : OutOk (execXor y s) := .alu h
@[simp] theorem OutOk.execNot {y} (h : MemoryOk s) : OutOk (execNot y s) := .alu h
@[simp] theorem OutOk.execAndi {y} (h : MemoryOk s) : OutOk (execAndi y s) := .alu h
@[simp] theorem OutOk.execOri {y} (h : MemoryOk s) : OutOk (execOri y s) := .alu h
@[simp] theorem OutOk.execXori {y} (h : MemoryOk s) : OutOk (execXori y s) := .alu h
@[simp] theorem OutOk.execShl {y} (h : MemoryOk s) : OutOk (execShl y s) := .alu h
@[simp] theorem OutOk.execShr {y} (h : MemoryOk s) : OutOk (execShr y s) := .alu h
@[simp] theorem OutOk.execSar {y} (h : MemoryOk s) : OutOk (execSar y s) := .alu h
@[simp] theorem OutOk.execRol {y} (h : MemoryOk s) : OutOk (execRol y s) := .alu h
@[simp] theorem OutOk.execRor {y} (h : MemoryOk s) : OutOk (execRor y s) := .alu h
@[simp] theorem OutOk.execShli {y} (h : MemoryOk s) : OutOk (execShli y s) := .alu h
@[simp] theorem OutOk.execShri {y} (h : MemoryOk s) : OutOk (execShri y s) := .alu h
@[simp] theorem OutOk.execSari {y} (h : MemoryOk s) : OutOk (execSari y s) := .alu h
@[simp] theorem OutOk.execPopc {y} (h : MemoryOk s) : OutOk (execPopc y s) := .alu h
@[simp] theorem OutOk.execClz {y} (h : MemoryOk s) : OutOk (execClz y s) := .alu h
@[simp] theorem OutOk.execCtz {y} (h : MemoryOk s) : OutOk (execCtz y s) := .alu h
@[simp] theorem OutOk.execBrev {y} (h : MemoryOk s) : OutOk (execBrev y s) := .alu h
@[simp] theorem OutOk.execMov {y} (h : MemoryOk s) : OutOk (execMov y s) := .ite (.aluPair h) (.alu h)
@[simp] theorem OutOk.execMovi {y} (h : MemoryOk s) : OutOk (execMovi y s) := .alu h
@[simp] theorem OutOk.execMovhi {y} (h : MemoryOk s) : OutOk (execMovhi y s) := .alu h

@[simp] theorem OutOk.execMovk {y} (h : MemoryOk s) : OutOk (execMovk y s) := by
  unfold Machine.execMovk
  split
  · exact .alu h
  · exact .aluPair h
  · exact .aluPair h

@[simp] theorem OutOk.execLea {y} (h : MemoryOk s) : OutOk (execLea y s) := .aluPair h
@[simp] theorem OutOk.execShl64 {y} (h : MemoryOk s) : OutOk (execShl64 y s) := .aluPair h
@[simp] theorem OutOk.execShr64 {y} (h : MemoryOk s) : OutOk (execShr64 y s) := .aluPair h
@[simp] theorem OutOk.execSar64 {y} (h : MemoryOk s) : OutOk (execSar64 y s) := .aluPair h
@[simp] theorem OutOk.execIcmpp64 {y} (h : MemoryOk s) : OutOk (execIcmpp64 y s) := .aluPred h
@[simp] theorem OutOk.execImul {y} (h : MemoryOk s) : OutOk (execImul y s) := .alu h
@[simp] theorem OutOk.execImulhi {y} (h : MemoryOk s) : OutOk (execImulhi y s) := .alu h
@[simp] theorem OutOk.execImad {y} (h : MemoryOk s) : OutOk (execImad y s) := .alu h
@[simp] theorem OutOk.execImulw {y} (h : MemoryOk s) : OutOk (execImulw y s) := .aluPair h
@[simp] theorem OutOk.execImadw {y} (h : MemoryOk s) : OutOk (execImadw y s) := .aluPair h
@[simp] theorem OutOk.execDivstep {y} (h : MemoryOk s) : OutOk (execDivstep y s) := .aluPair h
@[simp] theorem OutOk.execDivinit {y} (h : MemoryOk s) : OutOk (execDivinit y s) := .aluPair h
@[simp] theorem OutOk.execBfx {y} (h : MemoryOk s) : OutOk (execBfx y s) := .alu h
@[simp] theorem OutOk.execBfi {y} (h : MemoryOk s) : OutOk (execBfi y s) := .alu h

/-! Operations of Machine/Control.lean -/

@[simp] theorem OutOk.execNop {ht} (h : MemoryOk s) : OutOk (execNop ht s) := .issue h fun h => .finish h
@[simp] theorem OutOk.execYield {ht} (h : MemoryOk s) : OutOk (execYield ht s) := .issue h fun h => .finish (.ite h h)
theorem MemoryOk.foldTakes {lane ts} (h : MemoryOk s) : MemoryOk (foldTakes s u lane ts) := .foldl h fun h => .foldTarget h

theorem MemoryOk.branch {effect : State → State} {ts cancel} (h : MemoryOk s)
    (heffect : ∀ {t}, MemoryOk t → MemoryOk (effect t)) :
    MemoryOk (branch x s ts cancel effect) := by
  unfold Machine.branch
  dsimp only
  split
  · exact .stepTrap (.transfer (.foldTakes (heffect (.countRetired h))))
  · split
    · exact .trapHere h
    · refine .stepTrap ?_
      refine .modUnit ?_
      refine .ite (.foldl (.foldTakes (heffect (.countRetired h))) fun h => h) ?_
      exact .goOn (.foldl (.foldTakes (heffect (.countRetired h))) fun h => h)

@[simp] theorem OutOk.execBr {y} (h : MemoryOk s) : OutOk (execBr y s) := .issue h fun h => .branch h fun h => h
@[simp] theorem OutOk.execCall {y} (h : MemoryOk s) : OutOk (execCall y s) := .issue h fun h => .branch h fun h => .writePair h
@[simp] theorem OutOk.execJmpi {y} (h : MemoryOk s) : OutOk (execJmpi y s) := .issue h fun h => .branch h fun h => h
@[simp] theorem OutOk.execCalli {y} (h : MemoryOk s) : OutOk (execCalli y s) :=
  .issue h fun h => .branch h fun h => .writePair h
@[simp] theorem OutOk.execRet {ht} (h : MemoryOk s) : OutOk (execRet ht s) := .issue h fun h => .branch h fun h => h
theorem MemoryOk.takeWhole {t} (h : MemoryOk s) : MemoryOk (takeWhole x s t) := .branch h fun h => h

@[simp] theorem OutOk.execBrd {y} (h : MemoryOk s) : OutOk (execBrd y s) := by
  unfold Machine.execBrd
  refine .issue h fun h => .ite (.takeWhole h) (.ite (.finish h) ?_)
  split
  · exact .stepTrap (.modUnit (.goOn (.modUnit (.foldTarget (.countRetired h)))))
  · exact .trapHere h

@[simp] theorem OutOk.execBrany {y} (h : MemoryOk s) : OutOk (execBrany y s) :=
  .issue h fun h => .ite (.finish h) (.takeWhole h)
@[simp] theorem OutOk.execBrall {y} (h : MemoryOk s) : OutOk (execBrall y s) :=
  .issue h fun h => .ite (.takeWhole h) (.finish h)

theorem MemoryOk.trapPart {cause} (h : MemoryOk s) : MemoryOk (trapPart x s cause) := by
  unfold Machine.trapPart
  refine .ite (.countRetired (.takeTrap h)) ?_
  split
  · exact .modUnit (.goOn (.countRetired (.takeTrap h)))
  · exact .trapHere h

@[simp] theorem OutOk.execTrap {y} (h : MemoryOk s) : OutOk (execTrap y s) := .issue h fun h => .trapPart h

theorem MemoryOk.startLoop {count t} (h : MemoryOk s) : MemoryOk (startLoop x s n count t) := by
  unfold Machine.startLoop
  refine .ite (.countRetired h) ?_
  dsimp only
  split
  · exact .finish h
  · exact .takeTrap (.countRetired h)

@[simp] theorem OutOk.execLoop {y} (h : MemoryOk s) : OutOk (execLoop y s) := .issue h fun h => .startLoop h
@[simp] theorem OutOk.execLoopi {y} (h : MemoryOk s) : OutOk (execLoopi y s) := .issue h fun h => .startLoop h

theorem MemoryOk.skipLoop (h : MemoryOk s) : MemoryOk (skipLoop s u e) := by
  unfold Machine.skipLoop
  split
  · exact h
  · split
    · exact h
    · split
      · exact .stepTrap h
      · exact .takeTrap h

/-! Operations of Machine/Producers.lean -/

theorem MemoryOk.startOp {ev : Nat → Nat → Event} (h : MemoryOk s) : MemoryOk (startOp s u o ev) := by
  unfold Machine.startOp
  split <;> exact h

theorem MemoryOk.dropOp (h : MemoryOk s) : MemoryOk (dropOp s u k) := h
theorem MemoryOk.fillDests {m} (h : MemoryOk s) : MemoryOk (fillDests s u o m) := .foldl h fun h => .writeOp h

/-! Operations of Machine/FloatOps.lean -/

theorem MemoryOk.settleLanes {fl : Nat → Nat} {write : Mask → State → State} (h : MemoryOk s)
    (hwrite : ∀ {x t}, MemoryOk t → MemoryOk (write x t)) :
    MemoryOk (settleLanes x s fl write) := by
  unfold Machine.settleLanes
  refine .ite (.finish (hwrite h)) (.ite (.takeTrap (.popAll h)) ?_)
  split
  · exact h
  · split
    · exact .modUnit (.finish (.takeTrap (hwrite h)))
    · exact .takeTrap (.popAll h)

theorem OutOk.fpOp {f : Issue → Nat → FRes} {d} (h : MemoryOk s) : OutOk (fpOp i s d f) :=
  .issue h fun h => .settleLanes h fun h => .writeOp h

theorem OutOk.f32Bin {op : RMode → Bool → FV → FV → FRes} {y} (h : MemoryOk s) : OutOk (f32Bin y s i op) := .fpOp h
@[simp] theorem OutOk.execFadd {y} (h : MemoryOk s) : OutOk (execFadd y s) := .f32Bin h
@[simp] theorem OutOk.execFsub {y} (h : MemoryOk s) : OutOk (execFsub y s) := .f32Bin h
@[simp] theorem OutOk.execFmul {y} (h : MemoryOk s) : OutOk (execFmul y s) := .f32Bin h
@[simp] theorem OutOk.execFfma {y} (h : MemoryOk s) : OutOk (execFfma y s) := .fpOp h
@[simp] theorem OutOk.execFmin {y} (h : MemoryOk s) : OutOk (execFmin y s) := .fpOp h
@[simp] theorem OutOk.execFmax {y} (h : MemoryOk s) : OutOk (execFmax y s) := .fpOp h

theorem OutOk.fpCompare {f : Issue → Nat → Bool × Nat} {pd pk m} (h : MemoryOk s) : OutOk (fpCompare i s pd pk m f) :=
  .issue h fun h => .settleLanes h fun h => h

@[simp] theorem OutOk.execFcmpp {y} (h : MemoryOk s) : OutOk (execFcmpp y s) := .fpCompare h
@[simp] theorem OutOk.execFabs {y} (h : MemoryOk s) : OutOk (execFabs y s) := .alu h
@[simp] theorem OutOk.execFneg {y} (h : MemoryOk s) : OutOk (execFneg y s) := .alu h
@[simp] theorem OutOk.execFclass {y} (h : MemoryOk s) : OutOk (execFclass y s) := .alu h
theorem OutOk.bf16Bin {op : RMode → Bool → FV → FV → FRes} {y} (h : MemoryOk s) : OutOk (bf16Bin y s i op) := .fpOp h
@[simp] theorem OutOk.execBadd {y} (h : MemoryOk s) : OutOk (execBadd y s) := .bf16Bin h
@[simp] theorem OutOk.execBsub {y} (h : MemoryOk s) : OutOk (execBsub y s) := .bf16Bin h
@[simp] theorem OutOk.execBmul {y} (h : MemoryOk s) : OutOk (execBmul y s) := .bf16Bin h
@[simp] theorem OutOk.execBfma {y} (h : MemoryOk s) : OutOk (execBfma y s) := .fpOp h
theorem OutOk.pairBin {op : RMode → Bool → FV → FV → FRes} {y} (h : MemoryOk s) : OutOk (pairBin y s i op) := .fpOp h
@[simp] theorem OutOk.execBpadd {y} (h : MemoryOk s) : OutOk (execBpadd y s) := .pairBin h
@[simp] theorem OutOk.execBpsub {y} (h : MemoryOk s) : OutOk (execBpsub y s) := .pairBin h
@[simp] theorem OutOk.execBpmul {y} (h : MemoryOk s) : OutOk (execBpmul y s) := .pairBin h
@[simp] theorem OutOk.execBpfma {y} (h : MemoryOk s) : OutOk (execBpfma y s) := .fpOp h
@[simp] theorem OutOk.execBpmin {y} (h : MemoryOk s) : OutOk (execBpmin y s) := .fpOp h
@[simp] theorem OutOk.execBpmax {y} (h : MemoryOk s) : OutOk (execBpmax y s) := .fpOp h
@[simp] theorem OutOk.execBmin {y} (h : MemoryOk s) : OutOk (execBmin y s) := .fpOp h
@[simp] theorem OutOk.execBmax {y} (h : MemoryOk s) : OutOk (execBmax y s) := .fpOp h
@[simp] theorem OutOk.execBcmpp {y} (h : MemoryOk s) : OutOk (execBcmpp y s) := .fpCompare h
@[simp] theorem OutOk.execFaddi {y} (h : MemoryOk s) : OutOk (execFaddi y s) := .fpOp h
@[simp] theorem OutOk.execFmuli {y} (h : MemoryOk s) : OutOk (execFmuli y s) := .fpOp h
@[simp] theorem OutOk.execFfmai {y} (h : MemoryOk s) : OutOk (execFfmai y s) := .fpOp h

theorem OutOk.sfuOp {f : Bool → Nat → List Nat × Nat} {a} (h : MemoryOk s) : OutOk (sfuOp i s a f) :=
  .issue h fun h => .settleLanes h fun h => .ite h (.startOp h)

theorem OutOk.sfuOne {y fn} (h : MemoryOk s) : OutOk (sfuOne i s y fn) := .sfuOp h
@[simp] theorem OutOk.execRcp {y} (h : MemoryOk s) : OutOk (execRcp y s) := .sfuOne h
@[simp] theorem OutOk.execRsq {y} (h : MemoryOk s) : OutOk (execRsq y s) := .sfuOne h
@[simp] theorem OutOk.execSqrt {y} (h : MemoryOk s) : OutOk (execSqrt y s) := .sfuOne h
@[simp] theorem OutOk.execExp2 {y} (h : MemoryOk s) : OutOk (execExp2 y s) := .sfuOne h
@[simp] theorem OutOk.execLog2 {y} (h : MemoryOk s) : OutOk (execLog2 y s) := .sfuOne h
@[simp] theorem OutOk.execTanh {y} (h : MemoryOk s) : OutOk (execTanh y s) := .sfuOne h
@[simp] theorem OutOk.execSint {y} (h : MemoryOk s) : OutOk (execSint y s) := .sfuOne h
@[simp] theorem OutOk.execCost {y} (h : MemoryOk s) : OutOk (execCost y s) := .sfuOne h
@[simp] theorem OutOk.execSincost {y} (h : MemoryOk s) : OutOk (execSincost y s) := .sfuOp h

theorem OutOk.narrowingOp {f : Issue → Nat → FRes} {d m} (h : MemoryOk s) : OutOk (narrowingOp i s d m n f) :=
  .issue h fun h => .settleLanes (.ite h h) fun h => .writeOp h

@[simp] theorem OutOk.execCvtfh {y} (h : MemoryOk s) : OutOk (execCvtfh y s) := .narrowingOp h
@[simp] theorem OutOk.execPackh {y} (h : MemoryOk s) : OutOk (execPackh y s) := .narrowingOp h
@[simp] theorem OutOk.execCvthf {y} (h : MemoryOk s) : OutOk (execCvthf y s) := .fpOp h
@[simp] theorem OutOk.execCvtf8 {y} (h : MemoryOk s) : OutOk (execCvtf8 y s) := .fpOp h
@[simp] theorem OutOk.execCvtf4 {y} (h : MemoryOk s) : OutOk (execCvtf4 y s) := .fpOp h
@[simp] theorem OutOk.execCvt8f {y} (h : MemoryOk s) : OutOk (execCvt8f y s) := .fpOp h
@[simp] theorem OutOk.execCvt4f {y} (h : MemoryOk s) : OutOk (execCvt4f y s) := .fpOp h
@[simp] theorem OutOk.execMxpack {y} (h : MemoryOk s) : OutOk (execMxpack y s) := .fpOp h
@[simp] theorem OutOk.execMxunpk {y} (h : MemoryOk s) : OutOk (execMxunpk y s) := .fpOp h

@[simp] theorem OutOk.execCvtfi {y} (h : MemoryOk s) : OutOk (execCvtfi y s) :=
  .issue h fun h => .settleLanes h fun h => .ite (.writePair h) (.writeOp h)

@[simp] theorem OutOk.execCvtif {y} (h : MemoryOk s) : OutOk (execCvtif y s) := .fpOp h
@[simp] theorem OutOk.execCvtii {y} (h : MemoryOk s) : OutOk (execCvtii y s) := .alu h

/-! Operations of Machine/Exchange.lean -/

@[simp] theorem OutOk.execShfl {y} (h : MemoryOk s) : OutOk (execShfl y s) := .alu h
@[simp] theorem OutOk.execShflx {y} (h : MemoryOk s) : OutOk (execShflx y s) := .alu h
@[simp] theorem OutOk.execShflup {y} (h : MemoryOk s) : OutOk (execShflup y s) := .alu h
@[simp] theorem OutOk.execShfldn {y} (h : MemoryOk s) : OutOk (execShfldn y s) := .alu h
@[simp] theorem OutOk.execBallot {y} (h : MemoryOk s) : OutOk (execBallot y s) := .alu h
@[simp] theorem OutOk.execVoteany {y} (h : MemoryOk s) : OutOk (execVoteany y s) := .aluPred h
@[simp] theorem OutOk.execVoteall {y} (h : MemoryOk s) : OutOk (execVoteall y s) := .aluPred h
@[simp] theorem OutOk.execVoteuni {y} (h : MemoryOk s) : OutOk (execVoteuni y s) := .aluPred h
@[simp] theorem OutOk.execPscan {y} (h : MemoryOk s) : OutOk (execPscan y s) := .issue h fun h => .finish (.writeOp h)
@[simp] theorem OutOk.execReduce {y} (h : MemoryOk s) : OutOk (execReduce y s) := .issue h fun h => .finish (.writeOp h)
@[simp] theorem OutOk.execMatch {y} (h : MemoryOk s) : OutOk (execMatch y s) := .alu h

/-! Operations of Machine/LoadStore.lean -/

theorem MemoryOk.countLoad (h : MemoryOk s) : MemoryOk (countLoad s un) := .ite h h

theorem MemoryOk.beginAccess {addr : Nat → DWord} {data : Nat → List Word} {lanes dests} (h : MemoryOk s) :
    MemoryOk (beginAccess x s lanes addr data dests) := h

theorem MemoryOk.holdAccess {w} (h : MemoryOk s) : MemoryOk (holdAccess x s w) := by
  unfold Machine.holdAccess
  refine .park ?_
  split
  · exact .foldl h fun h => .requestWalk h
  · exact h

theorem MemoryOk.haltAccess (h : MemoryOk s) : MemoryOk (haltAccess x s) := .crossTrigger h
theorem MemoryOk.clearPass (h : MemoryOk s) : MemoryOk (clearPass x s) := .ite h h
theorem MemoryOk.fillTlbs {lanes} (h : MemoryOk s) : MemoryOk (fillTlbs x o lanes s) := .foldl h fun h => .fillFirst h
theorem MemoryOk.countRequests (h : MemoryOk s) : MemoryOk (countRequests x o s) := .ite (.foldl h fun h => .countSent h) h
theorem MemoryOk.countReplies (h : MemoryOk s) : MemoryOk (countReplies un o s) :=
  .ite (.foldl h fun h => .countRecv (.ite h h)) h
theorem MemoryOk.putOp (h : MemoryOk s) : MemoryOk (putOp s u k o) := h

theorem MemoryOk.failAccess {write cause addr refused} (h : MemoryOk s) :
    MemoryOk (failAccess x s k o write cause addr refused) :=
  .takeTrap h

theorem MemoryOk.launchAccess {load} (h : MemoryOk s) : MemoryOk (launchAccess x s k o load) :=
  .laterFree (.putOp (.clearPass (.countRequests (.fillTlbs h))))

theorem MemoryOk.partAccess {load places count bad} (h : MemoryOk s) : MemoryOk (partAccess x s k o load places count bad) :=
  .park (.launchAccess h)

theorem MemoryOk.resolveAccess {sh} (h : MemoryOk s) : MemoryOk (resolveAccess x s sh) := by
  unfold Machine.resolveAccess
  split
  · exact h
  · split
    · exact h
    · refine .ite (.haltAccess h) ?_
      split
      · exact .holdAccess h
      · dsimp only
        split
        · exact .ite (.partAccess h) (.failAccess h)
        · refine .ite (.finish (.launchAccess (.ite h h))) ?_
          exact .settleLanes (.dropOp (.ite h h)) fun h => .ite h (.launchAccess h)

theorem MemoryOk.stepLocal {addr} (h : MemoryOk s) : MemoryOk (stepLocal x s addr) := .takeTrap h

theorem OutOk.access {addr : Issue → Nat → DWord} {sh d} (h : MemoryOk s) : OutOk (access i s sh d addr) := by
  unfold Machine.access
  refine .issue h (fun h => ?_)
  exact .ite (.resolveAccess h) (.ite (.stepLocal h) (.resolveAccess (.beginAccess (.ite (.countLoad h) h))))

@[simp] theorem OutOk.execLd {y} (h : MemoryOk s) : OutOk (execLd y s) := .access h
@[simp] theorem OutOk.execSt {y} (h : MemoryOk s) : OutOk (execSt y s) := .access h
@[simp] theorem OutOk.execGld {y} (h : MemoryOk s) : OutOk (execGld y s) := .access h
@[simp] theorem OutOk.execSct {y} (h : MemoryOk s) : OutOk (execSct y s) := .access h
@[simp] theorem OutOk.execLds {y} (h : MemoryOk s) : OutOk (execLds y s) := .access h
@[simp] theorem OutOk.execSts {y} (h : MemoryOk s) : OutOk (execSts y s) := .access h
@[simp] theorem OutOk.execLdsr {y} (h : MemoryOk s) : OutOk (execLdsr y s) := .access h
@[simp] theorem OutOk.execStsr {y} (h : MemoryOk s) : OutOk (execStsr y s) := .access h
@[simp] theorem OutOk.execLdt {y} (h : MemoryOk s) : OutOk (execLdt y s) := .access h
@[simp] theorem OutOk.execStt {y} (h : MemoryOk s) : OutOk (execStt y s) := .access h
@[simp] theorem OutOk.execLdl {y} (h : MemoryOk s) : OutOk (execLdl y s) := .access h
@[simp] theorem OutOk.execStl {y} (h : MemoryOk s) : OutOk (execStl y s) := .access h
@[simp] theorem OutOk.execLdw {y} (h : MemoryOk s) : OutOk (execLdw y s) := .access h
@[simp] theorem OutOk.execStw {y} (h : MemoryOk s) : OutOk (execStw y s) := .access h

theorem MemoryOk.resolvePacked {sh} (h : MemoryOk s) : MemoryOk (resolvePacked x s sh) := by
  unfold Machine.resolvePacked
  split
  · exact h
  · split
    · exact h
    · refine .ite (.haltAccess h) ?_
      split
      · exact .holdAccess h
      · split
        · exact .partAccess h
        · exact .finish (.launchAccess h)

theorem OutOk.packed {load ty d base off sr} (h : MemoryOk s) : OutOk (packed i s load ty d base off sr) := by
  unfold Machine.packed
  refine .issue h (fun h => ?_)
  refine .ite (.resolvePacked h) ?_
  exact .ite (.stepLocal h) (.ite (.takeTrap h) (.resolvePacked (.modUnit (.beginAccess (.ite (.countLoad h) h)))))

@[simp] theorem OutOk.execCmpst {y} (h : MemoryOk s) : OutOk (execCmpst y s) := .packed h
@[simp] theorem OutOk.execExpld {y} (h : MemoryOk s) : OutOk (execExpld y s) := .packed h

@[simp] theorem OutOk.execPref {y} (h : MemoryOk s) : OutOk (execPref y s) :=
  .issue h fun h => .ite (.finish h) (.finish (.startOp (.countLoad h)))

/-! Operations of Machine/Atomics.lean -/

theorem MemoryOk.resolveAtomic {space z returns} (h : MemoryOk s) : MemoryOk (resolveAtomic x s space z returns) := by
  unfold Machine.resolveAtomic
  split
  · exact h
  · split
    · exact h
    · refine .ite (.haltAccess h) ?_
      split
      · exact .holdAccess h
      · split
        · exact .failAccess h
        · exact .finish (.launchAccess h)

theorem OutOk.atomic {addr : Issue → Nat → DWord} {space m returns d} (h : MemoryOk s) :
    OutOk (atomic i s space m n returns d addr) :=
  .issue h fun h => .ite (.resolveAtomic h) (.ite (.stepLocal h) (.resolveAtomic h))

theorem OutOk.atomGlobal {y returns} (h : MemoryOk s) : OutOk (atomGlobal i s y returns) := .atomic h
theorem OutOk.atomLocal {y space} (h : MemoryOk s) : OutOk (atomLocal i s y space n) := .atomic h
@[simp] theorem OutOk.execAtomAdd {y} (h : MemoryOk s) : OutOk (execAtomAdd y s) := .atomGlobal h
@[simp] theorem OutOk.execAtomMin {y} (h : MemoryOk s) : OutOk (execAtomMin y s) := .atomGlobal h
@[simp] theorem OutOk.execAtomMax {y} (h : MemoryOk s) : OutOk (execAtomMax y s) := .atomGlobal h
@[simp] theorem OutOk.execAtomAnd {y} (h : MemoryOk s) : OutOk (execAtomAnd y s) := .atomGlobal h
@[simp] theorem OutOk.execAtomOr {y} (h : MemoryOk s) : OutOk (execAtomOr y s) := .atomGlobal h
@[simp] theorem OutOk.execAtomXor {y} (h : MemoryOk s) : OutOk (execAtomXor y s) := .atomGlobal h
@[simp] theorem OutOk.execAtomExch {y} (h : MemoryOk s) : OutOk (execAtomExch y s) := .atomGlobal h
@[simp] theorem OutOk.execAtomCas {y} (h : MemoryOk s) : OutOk (execAtomCas y s) := .atomGlobal h
@[simp] theorem OutOk.execAtomFadd {y} (h : MemoryOk s) : OutOk (execAtomFadd y s) := .atomGlobal h
@[simp] theorem OutOk.execAtomFmin {y} (h : MemoryOk s) : OutOk (execAtomFmin y s) := .atomGlobal h
@[simp] theorem OutOk.execAtomFmax {y} (h : MemoryOk s) : OutOk (execAtomFmax y s) := .atomGlobal h
@[simp] theorem OutOk.execAtomAddBf16x2 {y} (h : MemoryOk s) : OutOk (execAtomAddBf16x2 y s) := .atomGlobal h
@[simp] theorem OutOk.execAtomVismin {y} (h : MemoryOk s) : OutOk (execAtomVismin y s) := .atomGlobal h
@[simp] theorem OutOk.execRedAdd {y} (h : MemoryOk s) : OutOk (execRedAdd y s) := .atomGlobal h
@[simp] theorem OutOk.execRedMin {y} (h : MemoryOk s) : OutOk (execRedMin y s) := .atomGlobal h
@[simp] theorem OutOk.execRedMax {y} (h : MemoryOk s) : OutOk (execRedMax y s) := .atomGlobal h
@[simp] theorem OutOk.execRedFadd {y} (h : MemoryOk s) : OutOk (execRedFadd y s) := .atomGlobal h
@[simp] theorem OutOk.execRedAddBf16x2 {y} (h : MemoryOk s) : OutOk (execRedAddBf16x2 y s) := .atomGlobal h
@[simp] theorem OutOk.execAtomlCas {y} (h : MemoryOk s) : OutOk (execAtomlCas y s) := .atomLocal h
@[simp] theorem OutOk.execAtomlAdd {y} (h : MemoryOk s) : OutOk (execAtomlAdd y s) := .atomLocal h
@[simp] theorem OutOk.execAtomwCas {y} (h : MemoryOk s) : OutOk (execAtomwCas y s) := .atomLocal h
@[simp] theorem OutOk.execAtomwAdd {y} (h : MemoryOk s) : OutOk (execAtomwAdd y s) := .atomLocal h
@[simp] theorem OutOk.execAtomwExch {y} (h : MemoryOk s) : OutOk (execAtomwExch y s) := .atomLocal h
theorem MemoryOk.writebackAll (h : MemoryOk s) : MemoryOk (writebackAll s c) := .foldl h fun h => .cacSend h
theorem MemoryOk.invalidateCac (h : MemoryOk s) : MemoryOk (invalidateCac s c) := .foldl h fun h => .cacDrop h
theorem MemoryOk.releaseCac (h : MemoryOk s) : MemoryOk (releaseCac s un) := .ite h (.writebackAll h)
theorem MemoryOk.acquireCac (h : MemoryOk s) : MemoryOk (acquireCac s un) := .ite h (.invalidateCac h)

@[simp] theorem OutOk.execFence {y} (h : MemoryOk s) : OutOk (execFence y s) := by
  unfold Machine.execFence
  refine .issue h (fun h => ?_)
  refine .ite (.park (.ite (.releaseCac h) h)) ?_
  exact .finish (.ite (.acquireCac (.ite (.releaseCac h) h)) (.ite (.releaseCac h) h))

theorem OutOk.cacheControl {y} (h : MemoryOk s) : OutOk (cacheControl i s y) :=
  .issue h fun h => .ite (.stepLocal h) (.finish (.startOp h))
@[simp] theorem OutOk.execCinv {y} (h : MemoryOk s) : OutOk (execCinv y s) := .cacheControl h
@[simp] theorem OutOk.execCwb {y} (h : MemoryOk s) : OutOk (execCwb y s) := .cacheControl h
@[simp] theorem OutOk.execCflush {y} (h : MemoryOk s) : OutOk (execCflush y s) := .cacheControl h
theorem MemoryOk.obtainPages {lg} (h : MemoryOk s) : MemoryOk (obtainPages s ctx va lg k) := .foldl h fun h => .obtainWalk h

@[simp] theorem OutOk.execDiscard {y} (h : MemoryOk s) : OutOk (execDiscard y s) := by
  unfold Machine.execDiscard
  refine .issue h fun h => .ite (.stepLocal h) (.ite (.finish h) (.ite (.takeTrap (.obtainWalk h)) ?_))
  split
  · exact .takeTrap (.obtainWalk h)
  · refine .ite (.takeTrap (.obtainWalk h)) ?_
    split
    · exact .takeTrap (.obtainWalk h)
    · exact .finish (.startOp (.obtainPages h))

theorem MemoryOk.awaitSlices (h : MemoryOk s) : MemoryOk (awaitSlices s u k) := by
  unfold Machine.awaitSlices
  split
  · exact h
  · split
    · exact h
    · dsimp only
      split
      · exact h
      · exact .foldl h fun h => .ite h h

theorem MemoryOk.countVictim {lines} (h : MemoryOk s) : MemoryOk (countVictim s un lines) := .ite h h

theorem MemoryOk.loadBytes (h : MemoryOk s) : MemoryOk (loadBytes s un o n).1 := by
  unfold Machine.loadBytes
  refine .iteFst h ?_
  refine .iteFst (.foldl h fun h => .obtainRead h) ?_
  exact .foldlFst (.countVictim h) fun h => .ite (.obtainRead (.cacDrop h)) (.cacLoad h)

theorem MemoryOk.performStore {sh} (h : MemoryOk s) : MemoryOk (performStore s un o sh).1 :=
  .iteFst (.wrPlaces h) (.iteFst (.sliceWrite h) (.foldlFst (.ite (.releaseCac h) h) fun h => .coreStore h))

theorem MemoryOk.wrNum {p v} (h : MemoryOk s) : MemoryOk (wrNum s p n v) := by
  unfold Machine.wrNum
  split
  · exact .sliceWrite h
  · exact .wrPlaces h

theorem MemoryOk.atomDrop (h : MemoryOk s) : MemoryOk (atomDrop s un o) := .ite h (.foldl h fun h => .cacDrop h)

theorem MemoryOk.atomLanes {step : Nat → Nat → Nat → Nat} {z part} (h : MemoryOk s) : MemoryOk (atomLanes s o z part step).1 :=
  .foldlFst h fun h => .wrNum h

theorem MemoryOk.performAtomic {op m} (h : MemoryOk s) : MemoryOk (performAtomic s un o op m).1 := by
  unfold Machine.performAtomic
  exact .atomLanes (.atomDrop h)

theorem MemoryOk.performHalf {set ht} (h : MemoryOk s) : MemoryOk (performHalf s un o set ht).1 := by
  unfold Machine.performHalf
  dsimp only
  exact .atomLanes (.atomDrop h)

theorem MemoryOk.performLine (h : MemoryOk s) : MemoryOk (performLine s un i pa) := by
  unfold Machine.performLine
  dsimp only
  split
  · exact .ite h (.cacDrop h)
  · exact .ite h (.cacSend h)
  · exact .setL2 (.ite h (.cacDrop h))
  · exact .ite (.cacFill (.obtainRead h)) (.obtainRead h)
  · exact h

theorem MemoryOk.performDiscard (h : MemoryOk s) : MemoryOk (performDiscard s un o) :=
  Tab.wf_filter (MemoryOk.foldl h fun h => .reach h) _

/-! Operations of Machine/Slots.lean -/

theorem MemoryOk.askSlots {who cls rows} (h : MemoryOk s) : MemoryOk (askSlots s who cls rows) := .foldl h fun h => h
theorem MemoryOk.dropSlots {p : SlotOf → Bool} (h : MemoryOk s) : MemoryOk (dropSlots s p) := h

theorem MemoryOk.withSlots {wait : State → State} {go : State → State} {who cls rows} (h : MemoryOk s)
    (hwait : ∀ {t}, MemoryOk t → MemoryOk (wait t)) (hgo : ∀ {t}, MemoryOk t → MemoryOk (go t)) :
    MemoryOk (withSlots s who cls rows wait go) := by
  unfold Machine.withSlots
  split
  · exact .ite (hgo h) (hwait (.askSlots h))
  · exact .ite (hgo h) (hwait h)

theorem MemoryOk.handshake {rows} (h : MemoryOk s) : MemoryOk (handshake s core rows) := .foldl h fun h => h
theorem MemoryOk.relayout {from_ to_} (h : MemoryOk s) : MemoryOk (relayout s c from_ to_).1 := .foldlFst h fun h => h

theorem MemoryOk.relocate {n' mrsv} (h : MemoryOk s) : MemoryOk (relocate s c n n' mrsv) :=
  .ite (.relayout h) (.later (.handshake (.modMx (.relayout h))))

/-! Operations of Machine/Matrix.lean -/

theorem MemoryOk.releaseArray (h : MemoryOk s) : MemoryOk (releaseArray s c) := .relocate h

theorem MemoryOk.freeGone (h : MemoryOk s) : MemoryOk (freeGone s c) := by
  unfold Machine.freeGone
  dsimp only
  split
  · exact .ite (.releaseArray h) h
  · exact h

theorem OutOk.mxIssue {body : Issue → State → State} (h : MemoryOk s) (hbody : ∀ {x t}, MemoryOk t → MemoryOk (body x t)) :
    OutOk (mxIssue i s body) := by
  unfold Machine.mxIssue
  refine .issue h fun h => ?_
  split
  · exact .takeTrap h
  · exact hbody h

theorem MemoryOk.acquireArray (h : MemoryOk s) : MemoryOk (acquireArray s un n) := .relocate h

@[simp] theorem OutOk.execMrsv {y} (h : MemoryOk s) : OutOk (execMrsv y s) :=
  .mxIssue h fun h => .finish (.writeOp (.modUnit (.ite (.acquireArray h) h)))

@[simp] theorem OutOk.execMrel {ht} (h : MemoryOk s) : OutOk (execMrel ht s) :=
  .mxIssue h fun h => .ite (.finish h) (.ite (.trapHere h) (.ite h (.ite h (.finish (.releaseArray h)))))

@[simp] theorem OutOk.execRelocationComplete (h : MemoryOk s) : OutOk (execRelocationComplete core s) := by
  unfold Machine.execRelocationComplete
  refine .next ?_
  split
  · exact .ite (.freeGone h) h
  · exact h

theorem OutOk.staging {b y} (h : MemoryOk s) : OutOk (staging b y s) := by
  unfold Machine.staging
  refine .mxIssue h fun h => .ite (.trapHere h) ?_
  dsimp only
  split
  · exact h
  · split
    · exact .takeTrap h
    · exact .finish (.laterFree (.ite (.countSent h) h))

@[simp] theorem OutOk.execMlda {y} (h : MemoryOk s) : OutOk (execMlda y s) := .staging h
@[simp] theorem OutOk.execMldb {y} (h : MemoryOk s) : OutOk (execMldb y s) := .staging h

theorem MemoryOk.joinWindow {src p} (h : MemoryOk s) : MemoryOk (joinWindow s c n src p o) := by
  unfold Machine.joinWindow
  dsimp only
  split <;> exact h

theorem MemoryOk.deliverLines (h : MemoryOk s) : MemoryOk (deliverLines s c n bs) := h

@[simp] theorem OutOk.execMulticastWindowRead {w} (h : MemoryOk s) : OutOk (execMulticastWindowRead core w s) := by
  unfold Machine.execMulticastWindowRead
  refine .next ?_
  split
  · exact h
  · refine .ite h (.ite h ?_)
    split
    · exact h
    · exact .withSlots h (fun h => h) fun h => .foldl (.foldl h fun h => h) fun h => h

theorem MemoryOk.writeSlot {p b y} (h : MemoryOk s) : MemoryOk (writeSlot s c n p b y bs) := .awaitSlices h

@[simp] theorem OutOk.execStagingComplete (h : MemoryOk s) : OutOk (execStagingComplete core k s) := by
  unfold Machine.execStagingComplete
  refine .next ?_
  dsimp only
  split
  · exact h
  · split
    · split
      · exact h
      · split
        · exact .ite (.withSlots h (fun h => h) fun h => .writeSlot h) h
        · exact h
        · exact .ite (.joinWindow h) (.ite h (.withSlots h (fun h => h) fun h => .deliverLines (.ite h h)))
    · exact h

theorem MemoryOk.enter {stage op} (h : MemoryOk s) : MemoryOk (enter x s stage op) := .ite h (.finish h)

theorem OutOk.multiply {y ta tb gang} (h : MemoryOk s) : OutOk (multiply i y ta tb gang s) :=
  .mxIssue h fun h => .ite (.trapHere h) (.enter h)

@[simp] theorem OutOk.execMma {y} (h : MemoryOk s) : OutOk (execMma y s) := .multiply h
@[simp] theorem OutOk.execMmaF32 {y} (h : MemoryOk s) : OutOk (execMmaF32 y s) := .multiply h
@[simp] theorem OutOk.execGangMma {y} (h : MemoryOk s) : OutOk (execGangMma y s) := .multiply h
@[simp] theorem OutOk.execMzero {y} (h : MemoryOk s) : OutOk (execMzero y s) :=
  .mxIssue h fun h => .ite (.enter h) (.trapHere h)

theorem MemoryOk.resolveMst {y} (h : MemoryOk s) : MemoryOk (resolveMst x s y) := by
  unfold Machine.resolveMst
  split
  · exact h
  · split
    · exact h
    · refine .ite (.haltAccess h) ?_
      split
      · exact .holdAccess h
      · split
        · exact .failAccess h
        · exact .ite h (.enter (.putOp (.clearPass (.fillTlbs h))))

@[simp] theorem OutOk.execMst {y} (h : MemoryOk s) : OutOk (execMst y s) := by
  unfold Machine.execMst
  refine .mxIssue h (fun h => ?_)
  exact .ite (.ite (.resolveMst h) (.trapHere h)) (.ite (.stepLocal h) (.ite (.trapHere h) (.resolveMst h)))

theorem MemoryOk.startEntry {wired} (h : MemoryOk s) : MemoryOk (startEntry s c wired) := by
  unfold Machine.startEntry
  dsimp only
  split
  · exact h
  · split <;> exact h

@[simp] theorem OutOk.execMatrixEntryStart (h : MemoryOk s) : OutOk (execMatrixEntryStart core s) :=
  .next (.ite (.startEntry h) h)

@[simp] theorem OutOk.execJointOperationStart (h : MemoryOk s) : OutOk (execJointOperationStart core s) := by
  unfold Machine.execJointOperationStart
  refine .next ?_
  split
  · exact .foldl (.startEntry h) fun h => .startEntry h
  · exact h

theorem MemoryOk.setGang {on} (h : MemoryOk s) : MemoryOk (setGang s key on) := by
  unfold Machine.setGang
  refine .foldl h fun h => ?_
  split
  · split <;> exact h
  · exact h

@[simp] theorem OutOk.execGang {y} (h : MemoryOk s) : OutOk (execGang y s) :=
  .mxIssue h fun h => .ite (.finish h) (.ite (.trapHere h) (.ite (.finish (.setGang h)) h))

theorem MemoryOk.discardEntry {e} (h : MemoryOk s) : MemoryOk (discardEntry s e) := by
  unfold Machine.discardEntry
  dsimp only
  split
  · exact .awaitSlices h
  · exact h

theorem MemoryOk.gangBreak {s0 : State} (h : MemoryOk s0) : MemoryOk (gangBreak s0 key) := by
  unfold Machine.gangBreak
  refine .foldl h fun h => ?_
  split
  · exact h
  · exact .foldl (.foldl h fun h => .discardEntry h) fun h => .takeTrap h

theorem MemoryOk.retireArray (h : MemoryOk s) : MemoryOk (retireArray s key core) :=
  .ite h (.ite (.modMx (.ite (.gangBreak h) h)) (.releaseArray (.modMx (.ite (.gangBreak h) h))))

theorem MemoryOk.storePlaces {ws} (h : MemoryOk s) : MemoryOk (storePlaces s c ws) :=
  .ite (.wrPlaces h) (.foldl h fun h => .coreStore h)

theorem MemoryOk.wakeArray (h : MemoryOk s) : MemoryOk (wakeArray s c) := by
  unfold Machine.wakeArray
  refine .foldl h fun h => .ite h ?_
  split
  · exact .ite h h
  · exact h

theorem MemoryOk.endEntry {e fl} (h : MemoryOk s) : MemoryOk (endEntry s c e fl) := .wakeArray (.freeGone h)

@[simp] theorem OutOk.execMatrixEntryFinish (h : MemoryOk s) : OutOk (execMatrixEntryFinish core s) := by
  unfold Machine.execMatrixEntryFinish
  refine .next ?_
  dsimp only
  split
  · exact h
  · refine .ite h ?_
    split
    · exact .endEntry h
    · exact .endEntry h
    · exact .endEntry h
    · exact .endEntry h
    · split
      · exact .endEntry h
      · split
        · exact .endEntry h
        · exact .ite h (.endEntry (.awaitSlices (.ite (.modMx (.storePlaces h)) (.storePlaces h))))
    · exact .endEntry h

/-! Operations of Machine/Flow.lean -/

theorem MemoryOk.releaseSplits {eff : State → Nat → Word → Mask → State} {k notBefore} (h : MemoryOk s)
    (heff : ∀ {t x y z}, MemoryOk t → MemoryOk (eff t x y z)) :
    MemoryOk (releaseSplits s u k notBefore eff) := by
  unfold Machine.releaseSplits
  split
  · exact h
  · exact .modUnit (.foldl h fun h => .retire (.logSync (heff h)))

theorem MemoryOk.releaseTeam {eff : State → Nat → Word → Mask → State} {k notBefore} (h : MemoryOk s)
    (heff : ∀ {t x y z}, MemoryOk t → MemoryOk (eff t x y z)) :
    MemoryOk (releaseTeam s key k notBefore eff) := by
  unfold Machine.releaseTeam
  split
  · exact h
  · exact .foldl h fun h => .releaseSplits h fun h => heff h

theorem MemoryOk.trapWaiting {k cause} (h : MemoryOk s) : MemoryOk (trapWaiting s u k cause) := by
  unfold Machine.trapWaiting
  split
  · exact h
  · exact .foldl h fun h => .takeTrap h

theorem MemoryOk.releaseAt {cl rect p} (h : MemoryOk s) : MemoryOk (releaseAt s cl rect p) := by
  unfold Machine.releaseAt
  split
  · exact h
  · split
    extract_lets x y drop s₁ s₂ send s₃
    have h₂ : MemoryOk s₂ := by
      unfold s₂
      split
      · split
        · exact .ite (.releaseTeam (.modTeam (.invalidateCac h)) fun h => h) h
        · exact h
      · exact h
    have h₃ : MemoryOk s₃ := .ite h₂ h₂
    exact .ite h₃ h₃

theorem MemoryOk.sweepStep {cl rect p} (h : MemoryOk s) : MemoryOk (sweepStep s cl rect p) := by
  unfold Machine.sweepStep
  split
  · exact h
  · split
    exact .ite (.ite h h) (.ite (.ite h h) (.ite (.releaseAt h) h))

theorem MemoryOk.stepGone {cl rect} (h : MemoryOk s) : MemoryOk (stepGone s cl rect) := by
  unfold Machine.stepGone
  split
  · exact h
  · exact .ite h (.foldl h fun h => .ite (.sweepStep h) h)

theorem MemoryOk.unsend {cl rect p} (h : MemoryOk s) : MemoryOk (unsend cl rect n p s) := by
  induction n generalizing p s with
  | zero => exact h
  | succ n ih =>
    rw [Machine.unsend]
    split
    · exact h
    · exact .ite (ih (.ite h h)) (.ite (ih (.ite h h)) h)

theorem MemoryOk.barcTrap {cl p} (h : MemoryOk s) : MemoryOk (barcTrap s cl p) := by
  unfold Machine.barcTrap
  split
  · exact h
  · split
    · exact h
    · exact .foldl (.modTeam (.unsend h)) fun h => .trapWaiting h

theorem MemoryOk.barcArrive {t rect} (h : MemoryOk s) : MemoryOk (barcArrive s key t rect) := by
  unfold Machine.barcArrive
  split
  · exact .releaseTeam h fun h => .invalidateCac h
  · exact .stepGone (.sweepStep (.foldl h fun h => .barcTrap h))

theorem MemoryOk.imbalance {t kind count ts} (h : MemoryOk s) : MemoryOk (imbalance s t kind count ts) := by
  unfold Machine.imbalance
  exact .ite h (.poke (.pokeVirt h))

theorem MemoryOk.gridCheck {task k} (h : MemoryOk s) : MemoryOk (gridCheck s task k) := by
  unfold Machine.gridCheck
  split
  · exact h
  · exact .ite h (.foldl (.imbalance h) fun h => h)

theorem MemoryOk.gridEffect {count vote k w m} (h : MemoryOk s) : MemoryOk (gridEffect count vote k s u w m) := by
  unfold Machine.gridEffect
  split
  · exact .ite (.writeOp h) h
  · exact h

@[simp] theorem OutOk.execGridBarrierRelease {task} (h : MemoryOk s) : OutOk (execGridBarrierRelease task core s) := by
  unfold Machine.execGridBarrierRelease
  refine .next ?_
  split
  · exact h
  · refine .ite h ?_
    exact .foldl (.invalidateCac h) fun h => .releaseTeam (.releaseTeam h fun h => .gridEffect h) fun h => .gridEffect h

theorem MemoryOk.teamCheck {k} (h : MemoryOk s) : MemoryOk (teamCheck s key k) := by
  unfold Machine.teamCheck
  split
  · exact h
  · refine .ite h ?_
    split
    · exact .releaseTeam h fun h => h
    · exact .ite h (.barcArrive h)
    · exact .ite h (.gridCheck h)

theorem MemoryOk.groupArrive {k} (h : MemoryOk s) : MemoryOk (groupArrive s u k) := by
  unfold Machine.groupArrive
  split
  · exact h
  · split
    · exact h
    · exact .ite h (.ite (.ite h (.releaseCac h)) (.ite (.trapWaiting h) (.teamCheck h)))

theorem MemoryOk.recheckGroup (h : MemoryOk s) : MemoryOk (recheckGroup s u) := .foldl h fun h => .groupArrive h
theorem MemoryOk.waitBarrier {k w} (h : MemoryOk s) : MemoryOk (waitBarrier x s k w) := .groupArrive h
@[simp] theorem OutOk.execBar {y} (h : MemoryOk s) : OutOk (execBar y s) := .issue h fun h => .waitBarrier h

@[simp] theorem OutOk.execBarc {y} (h : MemoryOk s) : OutOk (execBarc y s) :=
  .issue h fun h => .ite (.trapHere h) (.waitBarrier (.popAll (.releaseCac h)))

@[simp] theorem OutOk.execGbar {y} (h : MemoryOk s) : OutOk (execGbar y s) :=
  .issue h fun h => .ite (.trapHere h) (.waitBarrier (.releaseCac h))

@[simp] theorem OutOk.execVoteg {y} (h : MemoryOk s) : OutOk (execVoteg y s) :=
  .issue h fun h => .ite (.trapHere h) (.waitBarrier (.releaseCac h))

@[simp] theorem OutOk.execBarcSweepArrival {cl rect x y column} (h : MemoryOk s) :
    OutOk (execBarcSweepArrival cl rect x y column s) := by
  unfold Machine.execBarcSweepArrival
  refine .next ?_
  split
  · exact h
  · exact .sweepStep h

@[simp] theorem OutOk.execBarcSweepRelease {cl rect x y} (h : MemoryOk s) : OutOk (execBarcSweepRelease cl rect x y s) := by
  unfold Machine.execBarcSweepRelease
  refine .next ?_
  split
  · exact h
  · exact .stepGone (.releaseAt h)

theorem MemoryOk.treatSpan {y f m} (h : MemoryOk s) : MemoryOk (treatSpan x y n f m s) := by
  induction m generalizing s with
  | zero => exact .finish h
  | succ m ih =>
    rw [Machine.treatSpan]
    split
    · exact h
    · exact .ite h (ih h)

theorem MemoryOk.setFills {l} (h : MemoryOk s) : MemoryOk (setFills s un l) := .ite h h
theorem MemoryOk.deliverFill {m} (h : MemoryOk s) : MemoryOk (deliverFill s u un m) := .countRecv (.writeOp h)

theorem MemoryOk.offerFill {un0 m} (h : MemoryOk s) : MemoryOk (offerFill s un0 m) := by
  unfold Machine.offerFill
  split
  · exact h
  · exact .ite (.deliverFill h) (.setFills h)

theorem MemoryOk.offerFills (h : MemoryOk s) : MemoryOk (offerFills s un) := .foldl (.setFills h) fun h => .offerFill h
@[simp] theorem OutOk.execSete {y} (h : MemoryOk s) : OutOk (execSete y s) := .issue h fun h => .offerFills (.treatSpan h)
@[simp] theorem OutOk.execSetf {y} (h : MemoryOk s) : OutOk (execSetf y s) := .issue h fun h => .treatSpan h

@[simp] theorem OutOk.execRemoteFill {r vals} (h : MemoryOk s) : OutOk (execRemoteFill u r vals s) := by
  unfold Machine.execRemoteFill
  refine .next ?_
  split
  · exact h
  · exact .ite (.setFills h) (.offerFill h)

theorem MemoryOk.setPort {r p} (h : MemoryOk s) : MemoryOk (setPort s u r p) := h

theorem MemoryOk.unbindSend {r} (h : MemoryOk s) : MemoryOk (unbindSend s u r) := by
  unfold Machine.unbindSend
  dsimp only
  split
  · exact h
  · exact .ite h h

theorem MemoryOk.bindPorts {v} (h : MemoryOk s) : MemoryOk (bindPorts s u v k) := h

@[simp] theorem OutOk.execChain {y} (h : MemoryOk s) : OutOk (execChain y s) := by
  unfold Machine.execChain
  refine .issue h fun h => .ite (.trapHere h) (.finish (.writeOp ?_))
  split
  · exact .bindPorts (.unbindSend h)
  · exact .unbindSend h

@[simp] theorem OutOk.execPortWordArrival {pair w} (h : MemoryOk s) : OutOk (execPortWordArrival u pair w s) := by
  unfold Machine.execPortWordArrival
  refine .next ?_
  split
  · exact .ite h (.ite h h)
  · dsimp only
    split
    · exact .countRecv h
    · exact .ite h (.ite (.wakeSleepers (.countRecv (.ite h h))) (.countRecv (.ite h h)))

theorem MemoryOk.trapPort {w} (h : MemoryOk s) : MemoryOk (trapPort s u w) := by
  unfold Machine.trapPort
  split
  · exact h
  · exact .foldl h fun h => .ite (.takeTrap h) h

theorem MemoryOk.retirePorts (h : MemoryOk s) : MemoryOk (retirePorts s u) := by
  unfold Machine.retirePorts
  refine .foldl h fun h => ?_
  extract_lets up s₁ p
  have h₁ : MemoryOk s₁ := by
    unfold s₁
    split
    · exact .ite h (.trapPort (.setPort h))
    · exact h
  split
  · refine .ite h₁ ?_
    extract_lets d s₂
    have h₂ : MemoryOk s₂ := .setPort h₁
    exact .ite h₂ (.trapPort h₂)
  · exact h₁

/-! Operations of Machine/Place.lean -/

theorem MemoryOk.placeTeam {r t args} (h : MemoryOk s) : MemoryOk (placeTeam s c r t args).1 :=
  .invalidateCac (.foldl h fun h => h)

theorem MemoryOk.bindCluster {k} (h : MemoryOk s) : MemoryOk (bindCluster s k) := by
  unfold Machine.bindCluster
  refine .foldl h fun h => .foldl h fun h => ?_
  dsimp only
  split
  · refine .bindPorts ?_
    split
    · refine .bindPorts ?_
      split <;> exact h
    · split <;> exact h
  · split
    · refine .bindPorts ?_
      split <;> exact h
    · split <;> exact h

theorem MemoryOk.placeOn {t d rooms} (h : MemoryOk s) : MemoryOk (placeOn s key t d rooms) :=
  .modTask (.bindCluster (.update (.foldlFst h fun h => .placeTeam h)))

theorem MemoryOk.placeThread {t d thread} (h : MemoryOk s) : MemoryOk (placeThread s key t d die thread) := h

theorem MemoryOk.placeStrandOn {y desc dies p} (h : MemoryOk s)
    (hp : placeStrandOn s key y desc dies = some p) : MemoryOk p.1 := by
  obtain ⟨g, -, hg⟩ := List.exists_of_findSome?_eq_some hp
  split at hg
  · cases hg
  · obtain ⟨th, -, rfl⟩ := Option.map_eq_some_iff.1 hg
    exact .placeThread h

theorem MemoryOk.placeNext {desc allowed dies p} (h : MemoryOk s)
    (hp : placeNext s key desc allowed dies = some p) : MemoryOk p.1 := by
  unfold Machine.placeNext at hp
  split at hp
  · cases hp
  · split at hp
    · cases hp
      exact .placeOn h
    · cases hp

theorem MemoryOk.placeAll {desc allowed mask} (h : MemoryOk s) (ht : placeAll s e key desc allowed mask n = some t) : MemoryOk t := by
  induction n generalizing s with
  | zero =>
    cases ht
    exact h
  | succ n ih =>
    rw [Machine.placeAll] at ht
    split at ht
    · rename_i hp
      refine ih ?_ ht
      exact MemoryOk.placeNext h hp
    · cases ht

/-! Operations of Machine/Sump.lean -/

theorem MemoryOk.dispatchForm (h : MemoryOk s) : MemoryOk (dispatchForm s cell k) := by
  unfold Machine.dispatchForm
  split <;> exact h

theorem MemoryOk.flushGrid {task} (h : MemoryOk s) : MemoryOk (flushGrid s cell task) :=
  .ite (.foldl h fun h => .dispatchForm h) h

theorem MemoryOk.joinForm {desc j line flush} (h : MemoryOk s) : MemoryOk (joinForm s u un desc j line flush) := by
  unfold Machine.joinForm
  dsimp only
  split
  · exact .ite (.dispatchForm h) h
  · refine .ite (.dispatchForm (.modCell (.ite ?_ h))) (.later (.modCell (.ite ?_ h)))
    · split
      · exact .dispatchForm h
      · exact h
    · split
      · exact .dispatchForm h
      · exact h

@[simp] theorem OutOk.execSumpTimeout {form} (h : MemoryOk s) : OutOk (execSumpTimeout cell form s) := by
  unfold Machine.execSumpTimeout
  refine .next ?_
  split
  · exact h
  · exact .ite h (.ite h (.dispatchForm h))

@[simp] theorem OutOk.execMigr {y} (h : MemoryOk s) : OutOk (execMigr y s) := by
  unfold Machine.execMigr
  refine .issue h fun h => ?_
  extract_lets j d
  refine .ite (.trapHere h) ?_
  split
  · exact .holdAccess h
  · exact .haltAccess h
  · exact .takeTrap h
  · exact .holdAccess h
  · extract_lets line ds s₁ s₂
    have h₁ : MemoryOk s₁ := by
      unfold s₁
      split
      · exact .obtainRead h
      · exact h
    have h₂ : MemoryOk s₂ := by
      unfold s₂
      split
      · exact .fillFirst h₁
      · exact h₁
    refine .ite (.takeTrap h₂) (.ite (.park (.clearPass h₂)) ?_)
    exact .flushGrid (.joinForm (.modUnit (.park (.countRetired (.clearPass h₂)))))

theorem MemoryOk.replanForms (h : MemoryOk s) : MemoryOk (replanForms s cell) := .foldl h fun h => h

theorem MemoryOk.withdrawStrand (h : MemoryOk s) : MemoryOk (withdrawStrand s u) := by
  unfold Machine.withdrawStrand
  split
  · exact h
  · exact .putUnit (.replanForms h)

theorem MemoryOk.placeFormed {r f d} (h : MemoryOk s) : MemoryOk (placeFormed s c r f d) := .invalidateCac h

@[simp] theorem OutOk.execSumpPlace (h : MemoryOk s) : OutOk (execSumpPlace cell s) := by
  unfold Machine.execSumpPlace
  refine .next ?_
  split
  · exact h
  · dsimp only
    split
    · exact .placeFormed h
    · exact h

/-! Operations of Machine/Life.lean -/

theorem MemoryOk.renameUnit {v} (h : MemoryOk s) : MemoryOk (renameUnit s u v) := h
theorem MemoryOk.forgetUnit {gone} (h : MemoryOk s) : MemoryOk (forgetUnit s u gone) := h

theorem MemoryOk.taskCheck (h : MemoryOk s) : MemoryOk (taskCheck s key) := by
  unfold Machine.taskCheck
  split
  · exact h
  · exact .ite h h

theorem MemoryOk.oneLess (h : MemoryOk s) : MemoryOk (oneLess s key) := .taskCheck h

theorem MemoryOk.retireTeam {y} (h : MemoryOk s) : MemoryOk (retireTeam s key y) := by
  unfold Machine.retireTeam
  extract_lets s₁ s₂ s₃ s₄ s₅ s₆
  have h₂ : MemoryOk s₂ := .retireArray (.ite h h)
  have h₅ : MemoryOk s₅ := .ite h₂ h₂
  have h₆ : MemoryOk s₆ := .ite h₅ h₅
  refine .ite h₆ ?_
  split
  · exact h₆
  · refine .ite (.gridCheck (.gridCheck (.foldl h₆ fun h => .stepGone h))) ?_
    exact .gridCheck (.gridCheck (.oneLess (.update h₆)))

theorem MemoryOk.retireUnit (h : MemoryOk s) : MemoryOk (retireUnit s u) := by
  unfold Machine.retireUnit
  split
  · exact h
  · extract_lets s₁ s₂ s₃ s₄
    have h₁ : MemoryOk s₁ := .retirePorts h
    have h₄ : MemoryOk s₄ := .forgetUnit (.update (.ite h₁ (.modTeam (.modCi h₁))))
    refine .ite (.flushGrid (.oneLess h₄)) ?_
    split
    · exact h₄
    · exact .ite (.retireTeam h₄) (.foldl h₄ fun h => .teamCheck h)

theorem MemoryOk.retireLeaving (h : MemoryOk s) : MemoryOk (retireLeaving s u) := by
  unfold Machine.retireLeaving
  split
  · exact h
  · split
    · exact h
    · exact .foldl (.ite h h) fun h => .retireUnit h

theorem MemoryOk.finishUnit (h : MemoryOk s) : MemoryOk (finishUnit s u) := by
  unfold Machine.finishUnit
  dsimp only
  split
  · exact .retireLeaving h
  · exact .ite (.retireUnit (.retireLeaving h)) (.ite (.recheckGroup (.retireLeaving h)) (.retireLeaving h))

theorem MemoryOk.leaveGroup (h : MemoryOk s) : MemoryOk (leaveGroup s u e) := by
  unfold Machine.leaveGroup
  split
  · exact h
  · split
    · exact h
    · exact .finishUnit (.ite (.logExit (.recheckGroup (.ite (.wakeTraps h) h))) (.recheckGroup (.ite (.wakeTraps h) h)))

theorem MemoryOk.exitLanes (h : MemoryOk s) : MemoryOk (exitLanes s u e) := by
  unfold Machine.exitLanes
  split
  · exact h
  · split
    · exact h
    · exact .leaveGroup h

@[simp] theorem OutOk.execExit {ht} (h : MemoryOk s) : OutOk (execExit ht s) :=
  .issue h fun h => .modUnit (.exitLanes (.countRetired h))

theorem MemoryOk.returnStrand {b l v} (h : MemoryOk s) : MemoryOk (returnStrand s un b n l v) := by
  unfold Machine.returnStrand
  split
  · exact h
  · dsimp only
    split
    · exact .stepTrap (.goOn h)
    · exact h

@[simp] theorem OutOk.execRets {ht} (h : MemoryOk s) : OutOk (execRets ht s) := by
  unfold Machine.execRets
  refine .issue h fun h => ?_
  split
  · exact .trapHere h
  · refine .ite (.trapHere h) (.ite h ?_)
    split
    · exact h
    · exact .modUnit (.leaveGroup (.foldl (.releaseCac (.countRetired h)) fun h => .returnStrand h))

/-! Operations of Machine/Complete.lean -/

theorem MemoryOk.endOp (h : MemoryOk s) : MemoryOk (endOp s u k) := by
  unfold Machine.endOp
  split
  · exact h
  · split
    · exact h
    · split
      · exact .takeTrap (.ite h h)
      · refine .finishUnit (.dropOp ?_)
        split <;> exact h

theorem MemoryOk.deliver (h : MemoryOk s) : MemoryOk (deliver s u k o) := .endOp (.putOp (.modUnit (.fillDests h)))

theorem MemoryOk.performLoad {sh} (h : MemoryOk s) : MemoryOk (performLoad s u k un o sh) :=
  .deliver (.ite (.acquireCac (.countReplies (.loadBytes h))) (.countReplies (.loadBytes h)))

theorem MemoryOk.deliverAtomic (h : MemoryOk s) : MemoryOk (deliverAtomic s u k un o) := by
  unfold Machine.deliverAtomic
  refine .ite ?_ ?_
  · exact .endOp (.ite (.acquireCac (.countReplies h)) (.countReplies h))
  · exact .deliver (.ite (.acquireCac (.countReplies h)) (.countReplies h))

theorem MemoryOk.firstHalves (h : MemoryOk s) : MemoryOk (firstHalves s un o).1 :=
  .foldlFst h fun h => .iteFst (.performHalf (.performHalf h)) (.performHalf h)

theorem MemoryOk.secondHalf (h : MemoryOk s) : MemoryOk (secondHalf s un o).1 := by
  unfold Machine.secondHalf
  dsimp only
  split
  · exact .performHalf h
  · exact h

theorem MemoryOk.performPair (h : MemoryOk s) : MemoryOk (performPair s u k un o) := by
  unfold Machine.performPair
  refine .ite (.deliverAtomic (.iteFst (.firstHalves h) (.secondHalf h))) ?_
  exact .laterFree (.putOp (.iteFst (.firstHalves h) (.secondHalf h)))

theorem MemoryOk.correctPlaces (h : MemoryOk s) : MemoryOk (correctPlaces s o) := .correctWords h

theorem MemoryOk.commitDone (h : MemoryOk s) : MemoryOk (commitDone s u o) := by
  unfold Machine.commitDone
  split <;> exact h

theorem MemoryOk.performAccess (h : MemoryOk s) : MemoryOk (performAccess s u k un o) := by
  unfold Machine.performAccess
  extract_lets s₁
  have h₁ : MemoryOk s₁ := .correctPlaces h
  split
  · exact .performPair (.ite (.releaseCac h₁) h₁)
  · exact .deliverAtomic (.performAtomic (.ite (.releaseCac h₁) h₁))
  · split
    · refine .ite (.performLoad (.commitDone h₁)) ?_
      extract_lets r s₂
      have h₂ : MemoryOk s₂ := .commitDone (.countReplies (.performStore h₁))
      exact .ite (.awaitSlices h₂) (.endOp h₂)
    · split
      · exact .endOp (.performDiscard h₁)
      · refine .endOp (.foldl ?_ fun h => ?_)
        · split
          · exact .ite (.countVictim h₁) h₁
          · exact h₁
        · split
          · exact .performLine h
          · exact h

theorem MemoryOk.hurry (h : MemoryOk s) : MemoryOk (hurry s un o) := .ite (.releaseCac h) h

theorem MemoryOk.advanceOp (h : MemoryOk s) : MemoryOk (advanceOp s u k un o) := by
  unfold Machine.advanceOp
  split
  · exact .ite (.later (.hurry h)) (.withSlots h (fun h => h) fun h => .performAccess h)
  · exact .ite (.endOp h) h
  · exact h

theorem MemoryOk.endSpecial (h : MemoryOk s) : MemoryOk (endSpecial s u k un o) := .ite h (.finishUnit (.fillDests h))

@[simp] theorem OutOk.execProducerCompletion (h : MemoryOk s) : OutOk (execProducerCompletion u k s) := by
  unfold Machine.execProducerCompletion
  refine .next ?_
  split
  · exact h
  · split
    · exact h
    · exact .ite (.advanceOp h) (.endSpecial h)

@[simp] theorem OutOk.execStoreCompletion (h : MemoryOk s) : OutOk (execStoreCompletion u k s) := by
  unfold Machine.execStoreCompletion
  refine .next ?_
  split
  · exact h
  · split
    · exact h
    · exact .ite (.advanceOp h) h

@[simp] theorem OutOk.execCacWriteback {line} (h : MemoryOk s) : OutOk (execCacWriteback core line s) := .next (.cacSend h)

/-! Operations of Machine/Engines.lean -/

theorem MemoryOk.poisonPlaces {ps} (h : MemoryOk s) : MemoryOk (poisonPlaces s ps) := by
  unfold Machine.poisonPlaces
  refine .foldl h fun h => ?_
  split
  · exact h
  · split
    · exact .ite h h
    · exact h

theorem MemoryOk.deviceWrite {ws} (h : MemoryOk s) : MemoryOk (deviceWrite s ws) :=
  .ite (.wrPlaces h) (.sliceWrite (.wrPlaces h))
theorem MemoryOk.modCmd {f : CopyCmd → CopyCmd} (h : MemoryOk s) : MemoryOk (modCmd s core k f) := h
theorem MemoryOk.cmdDone (h : MemoryOk s) : MemoryOk (cmdDone s core k) := h
theorem MemoryOk.parkCmd {cmd addr refused write} (h : MemoryOk s) : MemoryOk (parkCmd s core k cmd addr refused write) :=
  .wakeFaults h

theorem MemoryOk.moveBytes {cmd} (h : MemoryOk s) : MemoryOk (moveBytes s core k cmd) := by
  unfold Machine.moveBytes
  extract_lets a rowOut total
  split
  extract_lets r s₁ s₂ s₃ s₄
  have h₂ : MemoryOk s₂ := .poisonPlaces (.deviceWrite (.update (.foldl h fun h => .obtainVirt h)))
  have h₄ : MemoryOk s₄ := .modCmd (.ite (.modUnit h₂) h₂)
  split
  · exact .cmdDone h₄
  · exact .ite (.parkCmd h₄) (.cmdDone (.modCmd h₄))

theorem MemoryOk.copyStep {body : CopyCmd → State → State} {ev} (h : MemoryOk s)
    (hbody : ∀ {x t}, MemoryOk t → MemoryOk (body x t)) :
    MemoryOk (copyStep s core k ev body) := by
  unfold Machine.copyStep
  dsimp only
  split
  · exact h
  · refine .ite h (.ite h ?_)
    split
    · exact h
    · exact h
    · exact .ite h (.withSlots h (fun h => h) fun h => hbody h)

@[simp] theorem OutOk.execCopy (h : MemoryOk s) : OutOk (execCopy core k s) := .next (.copyStep h fun h => .moveBytes h)
@[simp] theorem OutOk.execFill (h : MemoryOk s) : OutOk (execFill core k s) := .next (.copyStep h fun h => .moveBytes h)
@[simp] theorem OutOk.execVfill (h : MemoryOk s) : OutOk (execVfill core k s) := .next (.copyStep h fun h => .moveBytes h)

theorem MemoryOk.planNext {i} (h : MemoryOk s) : MemoryOk (planNext s core k i) := by
  unfold Machine.planNext
  split
  · exact h
  · split <;> exact h

@[simp] theorem OutOk.execPlan (h : MemoryOk s) : OutOk (execPlan core k s) := by
  unfold Machine.execPlan
  refine .next (.copyStep h fun h => ?_)
  dsimp only
  split
  · exact h
  · split
    · exact h
    · exact .ite h (.ite h (.planNext h))

theorem MemoryOk.performSend {cmd e x} (h : MemoryOk s) : MemoryOk (performSend s core k cmd e x) := by
  unfold Machine.performSend
  split
  · exact h
  · exact .ite h (.ite h (.poisonPlaces (.wrPlaces h)))

@[simp] theorem OutOk.execPlanSend {i} (h : MemoryOk s) : OutOk (execPlanSend core k i s) := by
  unfold Machine.execPlanSend
  refine .next ?_
  split
  · exact h
  · split
    · exact h
    · split
      · exact h
      · exact .ite h (.ite h (.withSlots h (fun h => h) fun h => .planNext (.modCmd (.performSend h))))

@[simp] theorem OutOk.execCopyComplete (h : MemoryOk s) : OutOk (execCopyComplete core k s) := by
  unfold Machine.execCopyComplete
  refine .next ?_
  split
  · exact h
  · exact .ite h (.ite (.sendRecord h) h)

@[simp] theorem OutOk.execBclose {y} (h : MemoryOk s) : OutOk (execBclose y s) := .issue h fun h => .finish (.writeOp h)

@[simp] theorem OutOk.execBwait {y} (h : MemoryOk s) : OutOk (execBwait y s) := by
  unfold Machine.execBwait
  refine .issue h fun h => .ite (.trapHere h) (.ite (.park (.ite (.popAll h) h)) ?_)
  dsimp only
  split
  · exact .takeTrap (.modUnit (.acquireRuns h))
  · exact .ite (.finish (.modUnit (.acquireRuns h))) (.finishPopped (.modUnit (.acquireRuns h)))

/-! Operations of Machine/System.lean -/

@[simp] theorem OutOk.execCtlr {y} (h : MemoryOk s) : OutOk (execCtlr y s) :=
  .issue h fun h => .ite h (.ite (.finish (.writePair h)) (.finish (.writeOp h)))

@[simp] theorem OutOk.execCtlw {y} (h : MemoryOk s) : OutOk (execCtlw y s) := .issue h fun h => .finish h
theorem MemoryOk.refetch (h : MemoryOk s) : MemoryOk (refetch s u e) := h

@[simp] theorem OutOk.execIsync {y} (h : MemoryOk s) : OutOk (execIsync y s) := by
  unfold Machine.execIsync
  refine .issue h (fun h => ?_)
  refine .ite (.park (.ite h (.releaseCac h))) ?_
  exact .refetch (.finish (.ite (.modScore (.ite h (.releaseCac h))) (.update (.ite h (.releaseCac h)))))

@[simp] theorem OutOk.execSleep {y} (h : MemoryOk s) : OutOk (execSleep y s) := by
  unfold Machine.execSleep
  refine .issue h (fun h => ?_)
  refine .ite (.finish h) ?_
  exact .ite (.park (.popAll (.ite (.logSync h) h))) (.later (.park (.popAll (.ite (.logSync h) h))))

@[simp] theorem OutOk.execSleepExpiry {entry stamp} (h : MemoryOk s) : OutOk (execSleepExpiry u entry stamp s) := by
  unfold Machine.execSleepExpiry
  refine .next ?_
  split
  · exact h
  · split
    · exact h
    · split
      · exact .ite h (.ite (.endSleep h) h)
      · exact h

theorem MemoryOk.extendSleep {ht sp} (h : MemoryOk s) : MemoryOk (extendSleep s u e ht sp) := by
  unfold Machine.extendSleep
  split <;> exact h

theorem MemoryOk.extendSleeps {ht} (h : MemoryOk s) : MemoryOk (extendSleeps s u ht) := by
  unfold Machine.extendSleeps
  split
  · exact .foldl h fun h => .extendSleep h
  · exact h

@[simp] theorem OutOk.execHalt {ht} (h : MemoryOk s) : OutOk (execHalt ht s) :=
  .issue h fun h => .ite (.crossTrigger (.finish h)) (.trapPart h)

@[simp] theorem OutOk.execBkpt {y} (h : MemoryOk s) : OutOk (execBkpt y s) := .issue h fun h => .trapPart h

@[simp] theorem OutOk.execEret {ht} (h : MemoryOk s) : OutOk (execEret ht s) := by
  unfold Machine.execEret
  refine .issue h fun h => ?_
  split
  · exact .stepTrap (.returnFromHandler (.countRetired h))
  · exact .trapHere h

/-! Operations of Machine/Pools.lean -/

theorem MemoryOk.planSwitch {t} (h : MemoryOk s) : MemoryOk (planSwitch s core t) := h
theorem MemoryOk.flushAt {tile t} (h : MemoryOk s) : MemoryOk (flushAt s core tile t) := h

theorem MemoryOk.acceptMove {w m} (h : MemoryOk s) : MemoryOk (acceptMove s un w m) := by
  unfold Machine.acceptMove
  dsimp only
  split
  · exact .planSwitch (.foldl (.handshake h) fun h => .cacDrop h)
  · split <;> exact h
  · exact .ite h h

@[simp] theorem OutOk.execPoolm {y} (h : MemoryOk s) : OutOk (execPoolm y s) :=
  .issue h fun h => .finish (.writeOp (.ite (.acceptMove h) h))

@[simp] theorem OutOk.execMoveWaitRelease (h : MemoryOk s) : OutOk (execMoveWaitRelease core s) := by
  unfold Machine.execMoveWaitRelease
  refine .next ?_
  split
  · exact .ite h h
  · exact h

@[simp] theorem OutOk.execMoveSwitch (h : MemoryOk s) : OutOk (execMoveSwitch core s) := by
  unfold Machine.execMoveSwitch
  refine .next ?_
  split
  · exact .ite h h
  · exact h

theorem MemoryOk.rebuildCac {from_ to_} (h : MemoryOk s) : MemoryOk (rebuildCac s core from_ to_).1 :=
  .modCi (.foldl h fun h => .cacDrop h)

theorem MemoryOk.rebuild {m} (h : MemoryOk s) : MemoryOk (rebuild s core m).1 :=
  .iteFst (.rebuildCac (.iteFst (.relayout h) h)) (.iteFst (.relayout h) h)

@[simp] theorem OutOk.execMoveRebuild (h : MemoryOk s) : OutOk (execMoveRebuild core s) := by
  unfold Machine.execMoveRebuild
  refine .next ?_
  split
  · exact .ite (.ite (.soon (.handshake (.modCi (.rebuild h)))) (.later (.handshake (.modCi (.rebuild h))))) h
  · exact h

theorem MemoryOk.endMove {m code} (h : MemoryOk s) : MemoryOk (endMove s core m code) := .freeGone h

@[simp] theorem OutOk.execMoveComplete (h : MemoryOk s) : OutOk (execMoveComplete core s) := by
  unfold Machine.execMoveComplete
  refine .next ?_
  split
  · exact .ite (.endMove h) h
  · exact h

@[simp] theorem OutOk.execPoolw {y} (h : MemoryOk s) : OutOk (execPoolw y s) := by
  unfold Machine.execPoolw
  refine .issue h fun h => ?_
  split
  · split
    · exact .finish (.writeOp h)
    · exact h
  · exact .finish (.writeOp h)

theorem MemoryOk.tickPools (h : MemoryOk s) : MemoryOk (tickPools s core) := .ite h h

@[simp] theorem OutOk.execPoolq {y} (h : MemoryOk s) : OutOk (execPoolq y s) :=
  .issue h fun h => .ite (.trapHere h) (.ite h (.finish (.ite (.writePair h) (.writeOp h))))

@[simp] theorem OutOk.execRoleListReturn (h : MemoryOk s) : OutOk (execRoleListReturn core s) :=
  .next (.ite h (.modCore (.writebackAll h)))

/-! Operations of Machine/Services.lean -/

theorem MemoryOk.modReq {f : Req → Req} (h : MemoryOk s) : MemoryOk (modReq s d k f) := h
theorem MemoryOk.endReq {status where_} (h : MemoryOk s) : MemoryOk (endReq s d k status where_) := h

theorem MemoryOk.obtainState {surfaces} (h : MemoryOk s) : MemoryOk (obtainState s ctx surfaces) :=
  .ite h (.foldl (.obtainVirt h) fun h => .obtainVirt h)

@[simp] theorem OutOk.execServiceAccept (h : MemoryOk s) : OutOk (execServiceAccept die k s) := by
  unfold Machine.execServiceAccept
  refine .next ?_
  split
  · exact h
  · refine .ite h ?_
    refine .ite h ?_
    refine .ite (.endReq (.modDie (.obtainState h))) ?_
    exact .laterFree (.ite (.foldl (.modDie (.obtainState h)) fun h => h) (.modDie (.obtainState h)))

@[simp] theorem OutOk.execEndRecord (h : MemoryOk s) : OutOk (execEndRecord die k s) := by
  unfold Machine.execEndRecord
  refine .next ?_
  split
  · exact h
  · exact .ite h (.sendRecord h)

theorem MemoryOk.workNote {w : Work} (h : MemoryOk w.s) : MemoryOk (Work.note w pa).s := .iteWork h h

theorem MemoryOk.serveGo {total : Req → Nat} {body : State → Req → Work} {r}
    (hbody : ∀ {t x}, MemoryOk t → MemoryOk (body t x).s) (h : MemoryOk s) :
    MemoryOk (serve.go d k total body s r) := by
  unfold Machine.serve.go
  dsimp only
  split
  · exact .endReq (.modReq (hbody h))
  · exact .ite (.laterFree (.askSlots (.modReq (hbody h)))) (.endReq (.modReq (hbody h)))

theorem MemoryOk.serve {f : Req → Bool} {total : Req → Nat} {body : State → Req → Work} (h : MemoryOk s)
    (hbody : ∀ {t x}, MemoryOk t → MemoryOk (body t x).s) :
    MemoryOk (serve s d k f total body) := by
  unfold Machine.serve
  split
  · exact h
  · refine .ite h (.ite h (.withSlots h (fun h => h) fun h => .ite h ?_))
    dsimp only
    split
    · exact h
    · exact .serveGo (fun h => hbody h) h

theorem MemoryOk.workPut {w : Work} {poison} (h : MemoryOk w.s) : MemoryOk (Work.put w ctx va bs poison).s := by
  unfold Machine.Work.put
  split
  · exact .workNote (.work (.ite (.setPoison (.sliceWrite h)) (.sliceWrite h)))
  · exact h

theorem MemoryOk.workVismin {w : Work} {poison} (h : MemoryOk w.s) : MemoryOk (Work.vismin w ctx va key poison).s := by
  unfold Machine.Work.vismin
  split
  · exact .workNote (.work (.ite (.setPoison (.sliceWrite h)) (.sliceWrite h)))
  · exact h

theorem MemoryOk.newRequest {y packet} (h : MemoryOk s) : MemoryOk (newRequest x s y packet) := h

theorem MemoryOk.sendRequest {y adr} (h : MemoryOk s) : MemoryOk (sendRequest x s y adr) := by
  unfold Machine.sendRequest
  split
  · exact .park (.requestWalk h)
  · exact .haltAccess h
  · exact .takeTrap h
  · exact h
  · refine .ite h (.newRequest ?_)
    split
    · refine .fillFirst ?_
      split
      · exact .obtainRead (.clearPass (.releaseCac h))
      · exact .clearPass (.releaseCac h)
    · split
      · exact .obtainRead (.clearPass (.releaseCac h))
      · exact .clearPass (.releaseCac h)

@[simp] theorem OutOk.execSvc {y} (h : MemoryOk s) : OutOk (execSvc y s) := by
  unfold Machine.execSvc
  refine .issue h fun h => ?_
  split
  · split
    · exact .ite h (.finish (.writeOp h))
    · exact .finish (.writeOp h)
  · exact .sendRequest h
  · exact .sendRequest h
  · exact .ite (.stepLocal h) (.ite (.takeTrap h) (.sendRequest h))

@[simp] theorem OutOk.execFenceSurf {y} (h : MemoryOk s) : OutOk (execFenceSurf y s) := by
  unfold Machine.execFenceSurf
  refine .issue h fun h => ?_
  dsimp only
  split
  · exact .ite h (.finish (.acquireCac h))
  · exact .ite (.stepLocal h) (.ite h (.finish (.acquireCac h)))

/-! Operations of Machine/Raster.lean -/

theorem MemoryOk.workTileMin {w : Work} {p poison} (h : MemoryOk w.s) : MemoryOk (Work.tileMin w p key poison).s :=
  .work (.ite (.poisonPlaces (.wrPlaces h)) (.wrPlaces h))

theorem MemoryOk.drawPixel {w : Work} {r f t prim poison px py} (h : MemoryOk w.s) :
    MemoryOk (drawPixel r f t prim poison w px py).s := by
  unfold Machine.drawPixel
  refine .iteWork h ?_
  split
  · exact h
  · refine .iteWork (.iteWork ?_ (.work ?_)) h
    · split
      · exact .workVismin h
      · exact .workTileMin h
    · split
      · exact .workVismin h
      · exact .workTileMin h

theorem MemoryOk.overRegion {f : Work → Nat → Nat → Work} {w : Work} {g}
    (hf : ∀ {w x y}, MemoryOk w.s → MemoryOk (f w x y).s) (h : MemoryOk w.s) :
    MemoryOk (overRegion g f w).s := .foldlWork h fun h => .foldlWork h fun h => hf h

theorem MemoryOk.drawTri {r} (h : MemoryOk s) : MemoryOk (drawTri s r).s := by
  unfold Machine.drawTri
  dsimp only
  split
  · exact .work (.obtainVirt h)
  · split
    · split
      · exact .work (.obtainVirt h)
      · exact .overRegion (fun h => .drawPixel h) (.work (.obtainVirt h))
    · exact .work (.obtainVirt h)

@[simp] theorem OutOk.execDraw (h : MemoryOk s) : OutOk (execDraw die k s) := .next (.serve h fun h => .drawTri h)

theorem MemoryOk.openPixels {r} (h : MemoryOk s) : MemoryOk (openPixels s r).s := by
  unfold Machine.openPixels
  extract_lets t
  split
  · exact h
  · extract_lets fill src put w
    have hput : ∀ {w p bs poison}, MemoryOk w.s → MemoryOk (put w p bs poison).s :=
      fun h => .ite (.poisonPlaces (.wrPlaces h)) (.wrPlaces h)
    have hw : MemoryOk w.s := by
      refine .foldlWork h fun h => .iteWork h ?_
      clear_value src
      split
      · exact hput h
      · refine .iteWork ?_ (hput h)
        dsimp only
        split
        · exact hput (.obtainVirt h)
        · exact .obtainVirt h
    exact .iteWork hw (.work hw)

@[simp] theorem OutOk.execRasterOpen (h : MemoryOk s) : OutOk (execRasterOpen die k s) :=
  .next (.serve h fun h => .openPixels h)

theorem MemoryOk.workPixel {w : Work} {f x y poison} (h : MemoryOk w.s) : MemoryOk (Work.pixel w ctx f x y bs poison).s :=
  .iteWork h (.iteWork (.iteWork (.workVismin h) (.workPut h)) (.work (.iteWork (.workVismin h) (.workPut h))))

theorem MemoryOk.tileOut {w : Work} {t bpp f hx hy} (h : MemoryOk w.s) : MemoryOk (tileOut w ctx core t bpp f hx hy).s :=
  .foldlWork h fun h => .iteWork (.workPixel h) h

theorem MemoryOk.closeTile {t} (h : MemoryOk s) : MemoryOk (closeTile s core t) := h

theorem MemoryOk.resolveTile {r} (h : MemoryOk s) : MemoryOk (resolveTile s r).s := by
  unfold Machine.resolveTile
  dsimp only
  split
  · exact h
  · refine .iteWork (.work (.closeTile ?_)) ?_
    · split
      · exact .tileOut h
      · exact h
    · split
      · exact .tileOut h
      · exact h

@[simp] theorem OutOk.execResolve (h : MemoryOk s) : OutOk (execResolve die k s) := .next (.serve h fun h => .resolveTile h)
@[simp] theorem OutOk.execRasterClose (h : MemoryOk s) : OutOk (execRasterClose die k s) := .next (.serve h fun h => h)

theorem MemoryOk.clearRow {r} (h : MemoryOk s) : MemoryOk (clearRow s r).s := by
  unfold Machine.clearRow
  split
  · exact h
  · exact .iteWork h (.overRegion (fun h => .workPixel h) h)

@[simp] theorem OutOk.execClear (h : MemoryOk s) : OutOk (execClear die k s) := .next (.serve h fun h => .clearRow h)

theorem MemoryOk.flushTile {t} (h : MemoryOk s) : MemoryOk (flushTile s core t) := by
  unfold Machine.flushTile
  split
  · exact h
  · refine .closeTile ?_
    split
    · exact .tileOut h
    · exact h

@[simp] theorem OutOk.execTileFlush {tile} (h : MemoryOk s) : OutOk (execTileFlush core tile s) := by
  unfold Machine.execTileFlush
  refine .next ?_
  split
  · exact h
  · split
    · exact h
    · refine .ite h (.ite h ?_)
      dsimp only
      split
      · refine .flushAt (.update (.modCi (.flushTile ?_)))
        split
        · exact .handshake h
        · exact h
      · refine .planSwitch (.modCi (.flushTile ?_))
        split
        · exact .handshake h
        · exact h

theorem MemoryOk.settleMove (h : MemoryOk s) : MemoryOk (settleMove s core) := by
  unfold Machine.settleMove
  split
  · exact h
  · refine .ite (.endMove ?_) (.endMove (.ite (.ite h h) (.rebuild (.ite h h))))
    split
    · exact .ite (.flushTile h) h
    · exact h

/-! Operations of Machine/Rays.lean -/

theorem MemoryOk.traceRay {r} (h : MemoryOk s) : MemoryOk (traceRay s r).s := by
  unfold Machine.traceRay
  extract_lets s₁ out
  have h₁ : MemoryOk s₁ := .obtainVirt h
  have hout : ∀ {t res inv poison}, MemoryOk t → MemoryOk (out t res inv poison).s :=
    fun h => .iteWork (.workPut (.work h)) (.workPut (.work h))
  clear_value out
  split
  · exact .work h₁
  · split
    · exact hout h₁
    · refine .iteWork (hout h₁) ?_
      extract_lets w s₂
      have h₂ : MemoryOk s₂ := .foldl h₁ fun h => .obtainVirt h
      clear_value s₂
      split
      · exact .work h₂
      · refine .iteWork (hout h₂) ?_
        split
        · exact hout h₂
        · exact .iteWork (hout h₂) (hout (.update h₂))

@[simp] theorem OutOk.execTrace (h : MemoryOk s) : OutOk (execTrace die k s) := .next (.serve h fun h => .traceRay h)
theorem MemoryOk.obtainTexels {r f l} (h : MemoryOk s) : MemoryOk (obtainTexels s r f l) := .foldl h fun h => .obtainVirt h

theorem MemoryOk.sampleOne {r} (h : MemoryOk s) : MemoryOk (sampleOne s r).s := by
  unfold Machine.sampleOne
  split
  · exact h
  · extract_lets s₁ out one
    have h₁ : MemoryOk s₁ := .obtainVirt h
    have hout : ∀ {t cs poison}, MemoryOk t → MemoryOk (out t cs poison).s :=
      fun h => .iteWork (.workPut (.work h)) (.workPut (.work h))
    clear_value out
    split
    · exact .work h₁
    · split
      · refine .iteWork ?_ ?_
        · extract_lets s₂
          have h₂ : MemoryOk s₂ := .obtainTexels h₁
          split
          · exact .work h₂
          · exact hout h₂
        · extract_lets x y i j a b s₂
          have h₂ : MemoryOk s₂ := .obtainTexels h₁
          split
          · exact hout (.update h₂)
          all_goals exact .work h₂
      · exact hout h₁

@[simp] theorem OutOk.execSample (h : MemoryOk s) : OutOk (execSample die k s) := .next (.serve h fun h => .sampleOne h)

/-! Operations of Machine/Balancer.lean -/

theorem MemoryOk.writeCores {i stage cores} (h : MemoryOk s) : MemoryOk (writeCores s ctx i stage cores) := .pokeVirt h

theorem MemoryOk.setupPipeline {i} (h : MemoryOk s) : MemoryOk (setupPipeline s ctx i) := by
  unfold Machine.setupPipeline
  split
  · refine .ite (.obtainVirt h) ?_
    dsimp only
    split
    · exact .foldl (.modDie (.obtainVirt h)) fun h => .writeCores h
    · exact .foldl (.obtainVirt h) fun h => .writeCores h
  · exact h

theorem MemoryOk.setupPipelines (h : MemoryOk s) : MemoryOk (setupPipelines s ctx) := .setupPipeline (.setupPipeline h)
theorem MemoryOk.dropPipelines (h : MemoryOk s) : MemoryOk (dropPipelines s ctx) := .foldl h fun h => .ite h h

theorem MemoryOk.moveCore {p from_ to_} (h : MemoryOk s) : MemoryOk (moveCore s d p from_ to_ core) := by
  unfold Machine.moveCore
  refine .foldl h fun h => ?_
  split
  · exact .writeCores h
  · exact h

theorem MemoryOk.samplePipe {p} (h : MemoryOk s) : MemoryOk (samplePipe s d p) := by
  unfold Machine.samplePipe
  dsimp only
  split
  · split
    · exact .moveCore h
    · split <;> exact h
  · exact h

@[simp] theorem OutOk.execBalancerSample (h : MemoryOk s) : OutOk (execBalancerSample die s) :=
  .next (.ite (.foldl h fun h => .samplePipe h) h)

@[simp] theorem OutOk.execBalancerDeferredMove (h : MemoryOk s) : OutOk (execBalancerDeferredMove die core s) := by
  unfold Machine.execBalancerDeferredMove
  refine .next (.foldl h fun h => .foldl h fun h => ?_)
  split
  · exact .ite h (.moveCore h)
  · exact h

/-! Operations of Machine/Queue.lean -/

theorem MemoryOk.enterCtx (h : MemoryOk s) : MemoryOk (enterCtx s ctx bs) :=
  .setupPipelines (.modCtx (.foldl h fun h => .ite h (.obtainVirt h)))

theorem MemoryOk.writeCtxState {v} (h : MemoryOk s) : MemoryOk (writeCtxState s ctx v) := .poke h

@[simp] theorem OutOk.execContextEntryWake (h : MemoryOk s) : OutOk (execContextEntryWake ctx s) := by
  unfold Machine.execContextEntryWake
  refine .next ?_
  dsimp only
  split
  · exact h
  · exact .ite h (.ite (.enterCtx (.writeCtxState h)) (.writeCtxState h))

theorem MemoryOk.dropTlbs {f : Tlb → Bool} (h : MemoryOk s) : MemoryOk (dropTlbs s f) := h

@[simp] theorem OutOk.execContextLeave (h : MemoryOk s) : OutOk (execContextLeave ctx s) :=
  .next (.ite h (.writeCtxState (.update (.dropTlbs (.dropPipelines h)))))

theorem MemoryOk.modQueue {f : Queue → Queue} {q} (h : MemoryOk s) : MemoryOk (modQueue s ctx q f) := h

@[simp] theorem OutOk.execQueueTailWrite {q} (h : MemoryOk s) : OutOk (execQueueTailWrite ctx q s) := by
  unfold Machine.execQueueTailWrite
  refine .next ?_
  split
  · exact .ite h h
  · exact h

theorem MemoryOk.pushRing {q x r} (h : MemoryOk s) : MemoryOk (pushRing s ctx q x r) := .modQueue (.pokeVirt (.pokeVirt h))

theorem MemoryOk.moveReserve {q} (h : MemoryOk s) : MemoryOk (moveReserve s ctx q) := by
  unfold Machine.moveReserve
  split
  · exact .ite (.pushRing h) h
  · exact h

theorem MemoryOk.popRing {q x} (h : MemoryOk s) : MemoryOk (popRing s ctx q x) := .moveReserve (.modQueue (.pokeVirt h))
theorem MemoryOk.addTask {t} (h : MemoryOk s) : MemoryOk (addTask s t).1 := h
theorem MemoryOk.raiseEngine {f} (h : MemoryOk s) : MemoryOk (raiseEngine s d f) := .wakeFaults h
theorem MemoryOk.slotFault {q addr refused} (h : MemoryOk s) : MemoryOk (slotFault s d ctx q addr refused) := .raiseEngine h

theorem MemoryOk.writeRetirement {t} (h : MemoryOk s) : MemoryOk (writeRetirement s t) := by
  unfold Machine.writeRetirement
  split
  · split
    · exact .ite h (.modQueue (.pokeVirt (.pokeVirt h)))
    · exact h
  · split
    · exact .ite h (.modCtx (.poke (.pokeVirt h)))
    · exact h

theorem MemoryOk.stopHolding (h : MemoryOk s) : MemoryOk (stopHolding s key) := h

theorem MemoryOk.leaveRing (h : MemoryOk s) : MemoryOk (leaveRing s key) := by
  unfold Machine.leaveRing
  split
  · exact h
  · split
    · split
      · exact .popRing h
      · exact h
    · exact h

theorem MemoryOk.retireTask (h : MemoryOk s) : MemoryOk (retireTask s key) := by
  unfold Machine.retireTask
  split
  · exact h
  · refine .stopHolding ?_
    split
    · exact .modQueue (.update (.writeRetirement h))
    · exact .update (.writeRetirement h)

@[simp] theorem OutOk.execTaskRetire {task} (h : MemoryOk s) : OutOk (execTaskRetire task s) := by
  unfold Machine.execTaskRetire
  refine .next ?_
  split
  · exact .ite (.retireTask h) h
  · exact h

theorem MemoryOk.refuseTask {reason} (h : MemoryOk s) : MemoryOk (refuseTask s key reason) := by
  unfold Machine.refuseTask
  refine .soon ?_
  split
  · refine .stopHolding ?_
    split
    · exact .modQueue (.modTask (.leaveRing h))
    · exact .modTask (.leaveRing h)
  · exact .modTask (.leaveRing h)

theorem MemoryOk.takeHead {q x} (h : MemoryOk s) : MemoryOk (takeHead s d ctx q x) := by
  unfold Machine.takeHead
  refine .ite h ?_
  dsimp only
  split
  · exact .slotFault (.obtainVirt h)
  · split
    · exact .modQueue (.modTask (.obtainVirt h))
    · exact .popRing (.modQueue (.addTask (.obtainVirt h)))

theorem MemoryOk.takeHeads (h : MemoryOk s) : MemoryOk (takeHeads s d) := by
  unfold Machine.takeHeads
  refine .foldl h fun h => .ite (.foldl h fun h => ?_) h
  split
  · exact .takeHead h
  · exact h

theorem MemoryOk.firstTry (h : MemoryOk s) : MemoryOk (firstTry s d key) := by
  unfold Machine.firstTry
  split
  · exact h
  · refine .ite h ?_
    split
    · exact .modTask (.obtainVirt (.obtainVirt h))
    · exact .refuseTask h
    · exact .raiseEngine h

theorem MemoryOk.engineLook (h : MemoryOk s) : MemoryOk (engineLook s d) := by
  unfold Machine.engineLook
  refine .ite (.takeHeads (.foldl (.takeHeads h) fun h => .firstTry h)) ?_
  exact .modDie (.takeHeads (.foldl (.takeHeads h) fun h => .firstTry h))

theorem MemoryOk.tryPlace {y p} (h : MemoryOk s) (hp : tryPlace s d key y = some p) : MemoryOk p.1 := by
  unfold Machine.tryPlace at hp
  split at hp
  · cases hp
  · dsimp only at hp
    split at hp
    · exact .placeStrandOn h hp
    · exact .placeNext h hp
    · obtain ⟨t, ht, rfl⟩ := Option.map_eq_some_iff.1 hp
      exact .placeAll h ht

theorem MemoryOk.afterPlacement (h : MemoryOk s) : MemoryOk (afterPlacement s key) := by
  unfold Machine.afterPlacement
  split
  · exact h
  · refine .ite h (.taskCheck (.stopHolding ?_))
    split <;> exact h

theorem MemoryOk.enginePlace {kind} (h : MemoryOk s) : MemoryOk (enginePlace s d kind) := by
  unfold Machine.enginePlace
  refine .ite h ?_
  dsimp only
  split
  · exact .engineLook h
  · refine .ite (.engineLook h) ?_
    split
    · exact .engineLook h
    · rename_i e
      refine .afterPlacement ?_
      split
      · exact .modCtx (.modDie (.leaveRing (MemoryOk.tryPlace (.engineLook h) e)))
      · exact .modDie (.leaveRing (MemoryOk.tryPlace (.engineLook h) e))

@[simp] theorem OutOk.execPlaceCluster (h : MemoryOk s) : OutOk (execPlaceCluster die s) := .next (.enginePlace h)
@[simp] theorem OutOk.execPlaceStrand (h : MemoryOk s) : OutOk (execPlaceStrand die s) := .next (.enginePlace h)
@[simp] theorem OutOk.execPlaceSuperstepGrid (h : MemoryOk s) : OutOk (execPlaceSuperstepGrid die s) := .next (.enginePlace h)

theorem MemoryOk.acceptTask {q dp r slot} (h : MemoryOk s) : MemoryOk (acceptTask s un q dp r slot) := by
  unfold Machine.acceptTask
  dsimp only
  split
  · split
    · exact .pushRing h
    · exact h
  · exact h

theorem MemoryOk.takeStep {y q parked} (h : MemoryOk s) : MemoryOk (takeStep x s y q bs parked) := by
  unfold Machine.takeStep
  dsimp only
  split
  · exact .finish (.writeOp (.acceptTask h))
  · exact .ite (.finish (.writeOp h)) (.park (.ite h h))

theorem MemoryOk.submitAt {y q adr} (h : MemoryOk s) : MemoryOk (submitAt x s y q adr) := by
  unfold Machine.submitAt
  split
  · exact .park (.requestWalk h)
  · exact .haltAccess h
  · exact .takeTrap h
  · exact h
  · extract_lets s₁ s₂ s₃ bs answer
    have h₁ : MemoryOk s₁ := .clearPass (.releaseCac h)
    have h₂ : MemoryOk s₂ := by
      unfold s₂
      split
      · exact .obtainRead h₁
      · exact h₁
    have h₃ : MemoryOk s₃ := by
      unfold s₃
      split
      · exact .fillFirst h₂
      · exact h₂
    have hanswer : ∀ {code}, MemoryOk (answer s₃ code) := .finish (.writeOp h₃)
    exact .ite hanswer (.ite hanswer (.takeStep h₃))

theorem OutOk.submit {y q} (h : MemoryOk s) : OutOk (submit i s y q) := by
  unfold Machine.submit
  refine .issue h fun h => ?_
  split
  · exact .takeStep h
  · exact .submitAt h
  · exact .ite (.takeTrap h) (.ite (.stepLocal h) (.ite (.takeTrap h) (.submitAt h)))

@[simp] theorem OutOk.execEnq {y} (h : MemoryOk s) : OutOk (execEnq y s) := .submit h
@[simp] theorem OutOk.execLaunch {y} (h : MemoryOk s) : OutOk (execLaunch y s) := .submit h

theorem MemoryOk.removeHead {q} (h : MemoryOk s) : MemoryOk (removeHead s ctx q bs) := by
  unfold Machine.removeHead
  split
  · exact h
  · split
    · exact .retireTask (.modTask (.leaveRing h))
    · refine .retireTask (.popRing (.modTask ?_))
      split <;> exact h

theorem MemoryOk.storeNow (h : MemoryOk s) : MemoryOk (storeNow s un pa bs) := .ite (.sliceWrite h) (.coreStore h)

theorem MemoryOk.dequeueAt {y adr} (h : MemoryOk s) : MemoryOk (dequeueAt x s y adr) := by
  unfold Machine.dequeueAt
  split
  · exact .park (.requestWalk h)
  · exact .haltAccess h
  · exact .takeTrap h
  · exact h
  · extract_lets s₁ s₂ s₃
    have h₁ : MemoryOk s₁ := .clearPass (.releaseCac h)
    have h₂ : MemoryOk s₂ := by
      unfold s₂
      split
      · exact .fillFirst h₁
      · exact h₁
    have h₃ : MemoryOk s₃ := by
      unfold s₃
      split
      · exact .obtainVirt h₂
      · exact h₂
    split
    refine .finish (.writeOp (.acquireCac ?_))
    split
    · exact .ite (.removeHead (.storeNow h₃)) h₃
    · exact h₃

@[simp] theorem OutOk.execDeq {y} (h : MemoryOk s) : OutOk (execDeq y s) := by
  unfold Machine.execDeq
  refine .issue h fun h => ?_
  split
  · exact .dequeueAt h
  · exact .ite (.stepLocal h) (.ite (.takeTrap h) (.dequeueAt h))

/-! Operations of Machine/Faults.lean -/

theorem MemoryOk.parkFault {serial p} (h : MemoryOk s) : MemoryOk (parkFault s d serial p) := h

theorem MemoryOk.notifyHandler {serial} (h : MemoryOk s) : MemoryOk (notifyHandler s d serial pa) := by
  unfold Machine.notifyHandler
  dsimp only
  split
  · exact .ite (.sendRecord h) h
  · exact h

theorem MemoryOk.markFault {serial x} (h : MemoryOk s) : MemoryOk (markFault s serial x) := by
  unfold Machine.markFault
  split <;> exact h

theorem MemoryOk.writeRecord {w} (h : MemoryOk s) : MemoryOk (writeRecord s d pa w) := by
  unfold Machine.writeRecord
  refine .notifyHandler (.poke ?_)
  split
  · split
    · exact .parkFault (.putUnit (.poke h))
    · exact h
  · exact .parkFault (.markFault (.modDie (.poke h)))

@[simp] theorem OutOk.execFaultRecordWrite (h : MemoryOk s) : OutOk (execFaultRecordWrite die s) := by
  unfold Machine.execFaultRecordWrite
  refine .next ?_
  split
  · exact h
  · dsimp only
    split
    · exact h
    · refine .ite h ?_
      split
      · exact .ite (.wakeFaults (.writeRecord h)) (.writeRecord h)
      · exact h

theorem MemoryOk.respond {status} (h : MemoryOk s) : MemoryOk (respond s va status) := .pokeVirt h
theorem MemoryOk.beginResponse (h : MemoryOk s) : MemoryOk (beginResponse s d) := .poke h

theorem MemoryOk.nextResponse (h : MemoryOk s) : MemoryOk (nextResponse s d) := by
  unfold Machine.nextResponse
  split
  · exact .ite h h
  · exact h

theorem MemoryOk.onResponse {mine : Nat → Bool} {body : State → Nat → List Byte → State} (h : MemoryOk s)
    (hbody : ∀ {t x y}, MemoryOk t → MemoryOk (body t x y)) :
    MemoryOk (onResponse s d mine body) := by
  unfold Machine.onResponse
  split
  · exact h
  · refine .ite ?_ (.nextResponse (.obtainVirt h))
    exact .nextResponse (.ite (hbody (.beginResponse (.obtainVirt h))) (.respond (.beginResponse (.obtainVirt h))))

theorem MemoryOk.answerUnit {op cause} (h : MemoryOk s) : MemoryOk (answerUnit s op u e cause bs) := by
  unfold Machine.answerUnit
  split
  · exact h
  · split
    · exact h
    · split
      · exact .answered (.putUnit (.ite h h))
      · exact .answered h
      · exact h
      · exact .wakeTraps (.exitLanes h)

theorem MemoryOk.answerCopy {op} (h : MemoryOk s) : MemoryOk (answerCopy s op core k) := by
  unfold Machine.answerCopy
  split
  · exact h
  · split
    · exact .ite h h
    · exact h

theorem MemoryOk.answerPlacement {op x} (h : MemoryOk s) : MemoryOk (answerPlacement s op x) := by
  unfold Machine.answerPlacement
  split
  · exact h
  · exact .ite (.refuseTask h) h
  · exact h

theorem MemoryOk.answer {op} (h : MemoryOk s) : MemoryOk (answer op d s va bs) := by
  unfold Machine.answer
  split
  · exact .respond h
  · refine .ite (.respond h) (.ite h ?_)
    split
    · exact .respond (.answerUnit h)
    · exact .respond (.answerCopy h)
    · exact .respond (.answerPlacement h)

@[simp] theorem OutOk.execResume (h : MemoryOk s) : OutOk (execResume die s) :=
  .next (.onResponse h fun h => .ite (.answer h) (.respond h))
@[simp] theorem OutOk.execRedirect (h : MemoryOk s) : OutOk (execRedirect die s) := .next (.onResponse h fun h => .answer h)
@[simp] theorem OutOk.execEnter (h : MemoryOk s) : OutOk (execEnter die s) := .next (.onResponse h fun h => .answer h)
@[simp] theorem OutOk.execRetire (h : MemoryOk s) : OutOk (execRetire die s) := .next (.onResponse h fun h => .answer h)
theorem MemoryOk.settleInvals (h : MemoryOk s) : MemoryOk (settleInvals s d) := .foldl h fun h => .respond h

@[simp] theorem OutOk.execInval (h : MemoryOk s) : OutOk (execInval die s) :=
  .next (.ite (.later (.settleInvals (.onResponse h fun h => h))) (.settleInvals (.onResponse h fun h => h)))

/-! Operations of Machine/Image.lean -/

theorem MemoryOk.writeTeamImage {t area} (h : MemoryOk s) : MemoryOk (writeTeamImage s key t area n) :=
  .update (.foldl h fun h => .pokeVirt h)

theorem MemoryOk.obtainSections {area l} (h : MemoryOk s) : MemoryOk (obtainSections s area l) :=
  .foldl h fun h => .obtainVirt h

theorem MemoryOk.tailFrom {old} (h : MemoryOk s) : MemoryOk (tailFrom s die u old bs) := by
  unfold Machine.tailFrom
  extract_lets edited s₁ s₂ s₃ s₄
  have h₁ : MemoryOk s₁ := .ite h h
  have h₂ : MemoryOk s₂ := .ite h₁ h₁
  have h₃ : MemoryOk s₃ := .ite h₂ h₂
  have h₄ : MemoryOk s₄ := .foldl h₃ fun h => .ite h h
  exact .ite (.update h₄) h₄

theorem MemoryOk.readTeamImage {area wrote} (h : MemoryOk s) : MemoryOk (readTeamImage s die key area wrote) := by
  unfold Machine.readTeamImage
  split
  · exact h
  · extract_lets g tiles a1 a2 a3 a4 a5 held mx s₁ head s₂ bs s₃ s₄ s₅
    have h₂ : MemoryOk s₂ := .foldl (.obtainSections h) fun h => .tailFrom h
    have h₃ : MemoryOk s₃ := .ite (.modTeam (.modMx h₂)) h₂
    have h₄ : MemoryOk s₄ := .ite (.modTask h₃) h₃
    have h₅ : MemoryOk s₅ := .foldl h₄ fun h => h
    exact .foldl (.modTeam h₅) fun h => h

/-! Operations of Machine/Save.lean -/

theorem MemoryOk.setSpill {a l} (h : MemoryOk s) : MemoryOk (setSpill s a l) := .ite h h

theorem MemoryOk.deferEvent {v} (h : MemoryOk s) (ht : deferEvent s v = some t) : MemoryOk t := by
  unfold Machine.deferEvent at ht
  split at ht
  · cases ht
    exact h
  · split at ht
    · split at ht
      · cases ht
        exact h
      · cases ht
        exact .setSpill h
    · cases ht

theorem MemoryOk.replaySpill {a} (h : MemoryOk s) : MemoryOk (replaySpill s a) := .update (.setSpill h)
theorem MemoryOk.carryCmds {c' slot} (h : MemoryOk s) : MemoryOk (carryCmds s u c c' slot) := .foldl h fun h => h
theorem MemoryOk.carryFills {c'} (h : MemoryOk s) : MemoryOk (carryFills s u c c') := h
theorem MemoryOk.carryStrandFills {c'} (h : MemoryOk s) : MemoryOk (carryStrandFills s u c c') := h

theorem MemoryOk.carryGroup {c' slot} (h : MemoryOk s) : MemoryOk (carryGroup s u c' slot) := by
  unfold Machine.carryGroup
  split
  · exact h
  · exact .carryFills (.carryCmds h)

theorem MemoryOk.carryArray {c' asks} (h : MemoryOk s) : MemoryOk (carryArray s c c' asks) := h

theorem MemoryOk.carryWindows {c'} (h : MemoryOk s) : MemoryOk (carryWindows s c c') :=
  .update (.dropSlots h)

theorem MemoryOk.carryTiles {c' homes} (h : MemoryOk s) : MemoryOk (carryTiles s key c c' homes) := h
theorem MemoryOk.carryPhase {task c'} (h : MemoryOk s) : MemoryOk (carryPhase s task c c') := h

theorem MemoryOk.carryTeam {c' slot groups homes} (h : MemoryOk s) : MemoryOk (carryTeam s key c' slot groups homes) := by
  unfold Machine.carryTeam
  split
  · exact h
  · exact .setSpill (.setSpill (.carryPhase (.modTeam (.carryTiles (.foldl h fun h => .carryGroup h)))))

theorem MemoryOk.dropWindows (h : MemoryOk s) : MemoryOk (dropWindows s c key) := h
theorem MemoryOk.modFwd {f : List Fwd → List Fwd} {site} (h : MemoryOk s) : MemoryOk (modFwd s site f) := .ite h h
theorem MemoryOk.setSaving {strand b} (h : MemoryOk s) : MemoryOk (setSaving s strand c b) := .ite h h
theorem MemoryOk.stopUnits {us} (h : MemoryOk s) : MemoryOk (stopUnits s us) := .foldl h fun h => h
theorem MemoryOk.goUnits {us} (h : MemoryOk s) : MemoryOk (goUnits s us) := .foldl h fun h => h

theorem MemoryOk.beginSave (h : MemoryOk s) : MemoryOk (beginSave d s va bs) := by
  unfold Machine.beginSave
  dsimp only
  split
  · exact .respond h
  · refine .ite (.respond h) ?_
    refine .ite (.respond h) ?_
    refine .ite (.respond h) ?_
    refine .modDie ?_
    refine .ite ?_ (.stopUnits (.foldl h fun h => .setSaving h))
    refine .foldl (.stopUnits (.foldl h fun h => .setSaving h)) fun h => ?_
    split
    · exact .ite (.withdrawStrand h) h
    · exact h

theorem MemoryOk.enterSaved {x} (h : MemoryOk s) : MemoryOk (enterSaved s x) := h

theorem MemoryOk.saveTeam {area set i} (h : MemoryOk s) : MemoryOk (saveTeam s ctx area set key i) := by
  unfold Machine.saveTeam
  split
  · exact h
  · extract_lets c f n held staged s₁ msgs s₂ wrote s₃ s₄ s₅ s₆ s₇ s₈ s₉ s₁₀ s₁₁
    have h₄ : MemoryOk s₄ := .dropWindows (.enterSaved (.writeTeamImage (.writebackAll h)))
    have h₈ : MemoryOk s₈ := .update (.modTeam (.carryTeam (.ite (.carryArray h₄) h₄)))
    have h₁₀ : MemoryOk s₁₀ := .modFwd (.ite (.relocate h₈) h₈)
    exact .soon (.ite (.modCore h₁₀) h₁₀)

theorem MemoryOk.saveStrand {area} (h : MemoryOk s) : MemoryOk (saveStrand s ctx area u) := by
  unfold Machine.saveStrand
  split
  · exact h
  · refine .flushGrid ?_
    exact .modFwd (.carryStrandFills (.renameUnit (.update (.setSpill (.setSpill (.enterSaved (.pokeVirt h)))))))

theorem MemoryOk.endSave {r} (h : MemoryOk s) : MemoryOk (endSave s r) :=
  .respond (.foldl (.foldl h fun h => .ite (.saveStrand h) (.saveTeam h)) fun h => .setSaving h)

theorem MemoryOk.dropResp {r} (h : MemoryOk s) : MemoryOk (dropResp s d r) := h

@[simp] theorem OutOk.execPreempt (h : MemoryOk s) : OutOk (execPreempt die s) := by
  unfold Machine.execPreempt
  extract_lets s₁ s₂
  have h₂ : MemoryOk s₂ := by
    refine .foldl (.onResponse h fun h => .beginSave h) fun h => ?_
    extract_lets s₃
    have h₃ : MemoryOk s₃ := .ite (.foldl h fun h => .settleMove h) h
    exact .ite (.endSave (.dropResp h₃)) h₃
  exact .next (.ite h₂ (.later h₂))

theorem MemoryOk.landTeam (h : MemoryOk s) (ht : landTeam s key c = some t) : MemoryOk t := by
  unfold Machine.landTeam at ht
  split at ht
  · cases ht
    exact h
  · dsimp only at ht
    split at ht
    · cases ht
    · split at ht
      · cases ht
      · cases ht
        exact .carryTeam (.ite (.relocate (.carryArray h)) h)

theorem MemoryOk.landCluster {y g} (h : MemoryOk s) (ht : landCluster s k y g = some t) : MemoryOk t := by
  obtain ⟨r, hr, rfl⟩ := Option.map_eq_some_iff.1 ht
  refine MemoryOk.foldlOption (fun _ h' => ?_) (fun {o p} ho r hr => ?_) r hr
  · cases h'
    exact h
  · split at hr
    · cases hr
    · split at hr
      · exact ho _ hr
      · dsimp only at hr
        exact .landTeam (ho _ rfl) (Option.ite_none_right_eq_some.1 hr).2

theorem MemoryOk.placeCluster (h : MemoryOk s) (ht : placeCluster s die k = some t) : MemoryOk t := by
  unfold Machine.placeCluster at ht
  split at ht
  · cases ht
    exact h
  · obtain ⟨g, -, hg⟩ := List.exists_of_findSome?_eq_some ht
    exact .landCluster h hg

theorem MemoryOk.landSet {keys} (h : MemoryOk s) (ht : landSet s die keys = some t) : MemoryOk t := by
  refine MemoryOk.foldlOption (MemoryOk.foldlOption (fun _ h' => ?_) (fun {o _} ho r hr => ?_)) (fun {o _} ho r hr => ?_) t ht
  · cases h'
    exact h
  · split at hr
    · exact .placeCluster (ho _ rfl) hr
    · cases hr
  · split at hr
    · obtain ⟨c, -, hc⟩ := List.exists_of_findSome?_eq_some hr
      exact .landTeam (ho _ rfl) hc
    · cases hr

theorem MemoryOk.landStrand {f y p} (h : MemoryOk s) (hp : landStrand s die f y = some p) : MemoryOk p.1 := by
  unfold Machine.landStrand at hp
  dsimp only at hp
  split at hp
  · cases hp
  · split at hp
    · cases hp
      exact .setSpill (.setSpill (.carryStrandFills (.renameUnit h)))
    · cases hp

theorem MemoryOk.sendRoutes {site unit agents} (h : MemoryOk s) : MemoryOk (sendRoutes s site unit agents) :=
  .foldl (.modFwd h) fun h => h
@[simp] theorem OutOk.execRouteUpdate {agent} (h : MemoryOk s) : OutOk (execRouteUpdate core u agent s) := .next h
@[simp] theorem OutOk.execRouteUpdateAck {agent} (h : MemoryOk s) : OutOk (execRouteUpdateAck core u agent s) :=
  .next (.modFwd h)
theorem MemoryOk.resumeArray (h : MemoryOk s) : MemoryOk (resumeArray s c) := .foldl (.foldl h fun h => .ite h h) fun h => h
theorem MemoryOk.lateAnswers (h : MemoryOk s) : MemoryOk (lateAnswers s) := .foldl h fun h => .foldl h fun h => .answer h

theorem MemoryOk.wakeTeam {site away} (h : MemoryOk s) : MemoryOk (wakeTeam s key site away) := by
  unfold Machine.wakeTeam
  split
  · exact h
  · exact .sendRoutes (.wakeFaults (.replaySpill (.goUnits (.invalidateCac (.foldl h fun h => .extendSleeps h)))))

/-- `landStrand` is named `land` in the proof, so that no check of a reduction evaluates it (it subtracts 4,096 from a number). -/
theorem MemoryOk.restoreAt (h : MemoryOk s) : MemoryOk (restoreAt s va bs) := by
  obtain ⟨land, hland, hl⟩ : ∃ land, (∀ {t die f y p}, MemoryOk t → land t die f y = some p → MemoryOk p.1) ∧ Machine.landStrand = land :=
    ⟨_, MemoryOk.landStrand, rfl⟩
  unfold Machine.restoreAt
  rw [hl]
  extract_lets area die s₁
  split
  · exact .respond h
  · extract_lets xs gone keys s₂
    have h₂ : MemoryOk s₂ := .foldl h fun h => .readTeamImage h
    clear_value xs s₂
    refine .ite ?_ ?_
    · split
      · extract_lets s₃ s₄
        have h₄ : MemoryOk s₄ := .modUnit (.tailFrom (.obtainVirt h))
        split
        · exact .respond h
        · rename_i hp
          have h₅ := hland h₄ hp
          exact .respond (.lateAnswers (.sendRoutes (.wakeFaults (.replaySpill (.goUnits (.extendSleeps (.update h₅)))))))
      · exact .respond h
    · split
      · exact .respond h
      · rename_i ht
        have h₃ := MemoryOk.landSet h₂ ht
        exact .respond (.lateAnswers (.foldl (.foldl (.update h₃) fun h => .wakeTeam h) fun h => .resumeArray h))

@[simp] theorem OutOk.execRestore (h : MemoryOk s) : OutOk (execRestore die s) := .next (.onResponse h fun h => .restoreAt h)

/-! Operations of Machine/Migrate.lean -/

theorem MemoryOk.beginMigrate (h : MemoryOk s) : MemoryOk (beginMigrate d s va bs) := by
  unfold Machine.beginMigrate
  refine .ite (.respond h) ?_
  exact .ite (.respond h) (.ite (.respond h) (.ite (.respond h) (.modDie (.stopUnits (.setSaving (.setSaving h))))))

theorem MemoryOk.streamTeam {b} (h : MemoryOk s) : MemoryOk (streamTeam s b key) := by
  unfold Machine.streamTeam
  split
  · exact h
  · refine .modFwd ?_
    exact .ite (.modCluster (.update (.modTeam (.modCi (.carryTeam h))))) (.update (.modTeam (.modCi (.carryTeam h))))

theorem MemoryOk.stream {r} (h : MemoryOk s) : MemoryOk (stream s d r) := by
  unfold Machine.stream
  refine .later ?_
  exact .modDie (.modCore (.foldl (.carryWindows (.carryArray (.modCore (.writebackAll h)))) fun h => .streamTeam h))

@[simp] theorem OutOk.execMigrate (h : MemoryOk s) : OutOk (execMigrate die s) := by
  unfold Machine.execMigrate
  refine .next ?_
  refine .ite ?_ ?_
  · refine .later ?_
    refine .foldl (.onResponse h fun h => .beginMigrate h) (fun h => ?_)
    exact .ite (.stream (.ite (.settleMove h) h)) (.ite (.settleMove h) h)
  · refine .foldl (.onResponse h fun h => .beginMigrate h) (fun h => ?_)
    exact .ite (.stream (.ite (.settleMove h) h)) (.ite (.settleMove h) h)

@[simp] theorem OutOk.execMigrationResume (h : MemoryOk s) : OutOk (execMigrationResume core s) := by
  unfold Machine.execMigrationResume
  refine .next ?_
  refine .foldl h (fun h => ?_)
  refine .foldl h (fun h => ?_)
  exact .ite h (.respond (.soon (.resumeArray (.foldl (.setSaving (.setSaving h)) fun h => .wakeTeam h))))

@[simp] theorem OutOk.execFreeze (h : MemoryOk s) : OutOk (execFreeze die s) :=
  .next (.onResponse h fun h => .ite (.respond h) (.respond (.pokeVirt (.foldl h fun h => h))))

@[simp] theorem OutOk.execThaw (h : MemoryOk s) : OutOk (execThaw die s) :=
  .next (.onResponse h fun h => .ite (.respond h) (.respond (.foldl h fun h => h)))

theorem MemoryOk.stopFaults (h : MemoryOk s) : MemoryOk (stopFaults s ctx) :=
  .foldl h fun h => .foldl h fun h => .respond (.ite (.foldl h fun h => .setSaving h) h)

theorem MemoryOk.stopCopies (h : MemoryOk s) : MemoryOk (stopCopies s ctx) := h
theorem MemoryOk.stopSumps (h : MemoryOk s) : MemoryOk (stopSumps s ctx) := h
theorem MemoryOk.stopTasks (h : MemoryOk s) : MemoryOk (stopTasks s ctx) := h
theorem MemoryOk.stopBarriers (h : MemoryOk s) : MemoryOk (stopBarriers s ctx) := h
theorem MemoryOk.endSession {x} (h : MemoryOk s) : MemoryOk (endSession s d id x) := h
theorem MemoryOk.stopSessions (h : MemoryOk s) : MemoryOk (stopSessions s ctx) :=
  .update (.foldl h fun h => .foldl h fun h => h)
theorem MemoryOk.stopUnitsOf (h : MemoryOk s) : MemoryOk (stopUnitsOf s ctx) := .update (.foldl h fun h => .retireUnit h)

@[simp] theorem OutOk.execStop (h : MemoryOk s) : OutOk (execStop die s) := by
  unfold Machine.execStop
  refine .next ?_
  refine .onResponse h (fun h => ?_)
  refine .respond ?_
  refine .foldl ?_ (fun h => .retireTask h)
  exact .stopUnitsOf (.stopSessions (.stopTasks (.stopBarriers (.stopSumps (.stopCopies (.stopFaults h))))))

/-! Operations of Machine/Fabric.lean -/

theorem MemoryOk.writeLink {l} (h : MemoryOk s) : MemoryOk (writeLink s l) := .poke (.poke h)
theorem MemoryOk.countDrops {l} (h : MemoryOk s) : MemoryOk (countDrops s l n) := .ite h (.writeLink h)
theorem MemoryOk.modSession {f : Session → Session} (h : MemoryOk s) : MemoryOk (modSession s d id f) := h

theorem MemoryOk.sendOutput {x t late} (h : MemoryOk s) : MemoryOk (sendOutput s d x t late) := by
  unfold Machine.sendOutput
  split <;> exact h

theorem MemoryOk.writeCounters {x} (h : MemoryOk s) : MemoryOk (writeCounters s x) := .pokeVirt h

theorem MemoryOk.checkClosing (h : MemoryOk s) : MemoryOk (checkClosing s d id) := by
  unfold Machine.checkClosing
  split
  · exact .ite h h
  · exact h

theorem MemoryOk.frameClosed {f} (h : MemoryOk s) : MemoryOk (frameClosed s d id f) := by
  unfold Machine.frameClosed
  refine .checkClosing ?_
  split
  · exact .writeCounters h
  · exact h

theorem MemoryOk.closeNode {f lo hi} (h : MemoryOk s) : MemoryOk (closeNode s d id f lo hi) := by
  unfold Machine.closeNode
  split
  · exact h
  · split
    · exact h
    · refine .ite h ?_
      extract_lets root done tiles s₁ s₂ s₃
      have h₁ : MemoryOk s₁ := by
        refine .foldl h fun h => ?_
        split
        · exact h
        · split
          · exact h
          · exact .sendOutput h
      have h₃ : MemoryOk s₃ := .ite h₁ h₁
      split
      · exact .ite (.frameClosed h₃) h₃
      · exact h₃

theorem MemoryOk.closeWhole {f lo hi} (h : MemoryOk s) : MemoryOk (closeWhole s d id f lo hi) := by
  unfold Machine.closeWhole
  split
  · exact h
  · split
    · exact .ite (.closeNode h) h
    · exact h

theorem MemoryOk.settleTile {lo hi f tx ty} (h : MemoryOk s) : MemoryOk (settleTile s d id lo hi f tx ty) := by
  unfold Machine.settleTile
  split
  · exact h
  · split
    · exact .ite (.closeWhole (.sendOutput h)) h
    · exact h

theorem MemoryOk.beginFrame {r} (h : MemoryOk s) : MemoryOk (beginFrame s d id r) := by
  unfold Machine.beginFrame
  dsimp only
  split
  · exact h
  · refine .ite ?_ (.foldl h fun h => ?_)
    · split
      · refine .later (.foldl h fun h => ?_)
        split
        · exact .later (.foldl h fun h => .settleTile h)
        · exact .foldl h fun h => .settleTile h
      · refine .foldl h fun h => ?_
        split
        · exact .later (.foldl h fun h => .settleTile h)
        · exact .foldl h fun h => .settleTile h
    · split
      · exact .later (.foldl h fun h => .settleTile h)
      · exact .foldl h fun h => .settleTile h

theorem MemoryOk.checkLeaf {f} (h : MemoryOk s) : MemoryOk (checkLeaf s d id f) := by
  unfold Machine.checkLeaf
  split
  · exact h
  · split
    · exact .ite (.frameClosed h) h
    · exact h

@[simp] theorem OutOk.execTsend (h : MemoryOk s) : OutOk (execTsend core k s) := by
  unfold Machine.execTsend
  refine .next (.copyStep h fun h => ?_)
  dsimp only
  split
  · exact h
  · exact .ite h (.cmdDone (.checkLeaf (.modSession (.ite h (.sendOutput h)))))

theorem MemoryOk.postAck {c ws} (h : MemoryOk s) : MemoryOk (postAck s c ws) := .ite h (.sendRecord h)

theorem MemoryOk.fabricStep {body : State → FabCmd → State × Option Nat} {reg ev words} (h : MemoryOk s)
    (hbody : ∀ {t y}, MemoryOk t → MemoryOk (body t y).1) : MemoryOk (fabricStep s d k reg ev words body) := by
  unfold Machine.fabricStep
  dsimp only
  split
  · exact h
  · refine .ite h (.ite (.postAck h) (.ite (.postAck h) ?_))
    split <;> rename_i hb
    · exact .postAck (congrArg (fun p => MemoryOk p.1) hb ▸ hbody h)
    · exact congrArg (fun p => MemoryOk p.1) hb ▸ hbody h

@[simp] theorem OutOk.execMergeOpen (h : MemoryOk s) : OutOk (execMergeOpen die k s) := by
  unfold Machine.execMergeOpen
  refine .next (.fabricStep h fun h => .iteFst h (.iteFst h (.iteFst h ?_)))
  dsimp only
  split
  · exact .obtainVirt h
  · exact .iteFst (.obtainVirt h) (.foldl (.later (.modDie (.obtainVirt h))) fun h => h)

@[simp] theorem OutOk.execMergeClose (h : MemoryOk s) : OutOk (execMergeClose die k s) := by
  unfold Machine.execMergeClose
  refine .next (.fabricStep h fun h => ?_)
  split
  · exact h
  · exact .iteFst h (.checkClosing (.foldl h fun h => .ite (.frameClosed h) (.foldl h fun h => .closeNode h)))

@[simp] theorem OutOk.execSessionClose {session} (h : MemoryOk s) : OutOk (execSessionClose die session s) := by
  unfold Machine.execSessionClose
  refine .next ?_
  split
  · exact h
  · split
    · exact h
    · exact .ite h (.postAck (.endSession (.ite h (.writeCounters h))))

@[simp] theorem OutOk.execFrame (h : MemoryOk s) : OutOk (execFrame die k s) := by
  unfold Machine.execFrame
  refine .next (.fabricStep h fun h => ?_)
  split
  · exact h
  · exact .iteFst h (.iteFst h (.iteFst h (.checkLeaf (.beginFrame (.foldl h fun h => .beginFrame h)))))

@[simp] theorem OutOk.execNodeDeadline {session frame lo hi} (h : MemoryOk s) :
    OutOk (execNodeDeadline die session frame lo hi s) := by
  unfold Machine.execNodeDeadline
  refine .next ?_
  split
  · exact h
  · split
    · exact h
    · split
      · exact .ite (.closeNode h) h
      · exact h

@[simp] theorem OutOk.execLeafFrameClose {session frame} (h : MemoryOk s) : OutOk (execLeafFrameClose die session frame s) := by
  unfold Machine.execLeafFrameClose
  refine .next ?_
  split
  · exact h
  · split
    · exact h
    · split
      · exact .ite h (.frameClosed (.ite h h))
      · exact h

theorem MemoryOk.countLate (h : MemoryOk s) : MemoryOk (countLate s d id) := h
theorem MemoryOk.countDup (h : MemoryOk s) : MemoryOk (countDup s d id) := h
theorem MemoryOk.holdTile {n t} (h : MemoryOk s) : MemoryOk (holdTile s d id n t) := .settleTile h

@[simp] theorem OutOk.execTilePacketArrival {p} (h : MemoryOk s) : OutOk (execTilePacketArrival die p s) := by
  unfold Machine.execTilePacketArrival
  refine .next ?_
  split
  · dsimp only
    split
    · exact h
    · split
      · exact h
      · refine .ite (.countLate (.ite h h)) ?_
        refine .ite (.countDup (.ite h h)) ?_
        exact .ite (.later (.ite h h)) (.ite (.beginFrame (.modSession (.ite h h))) (.holdTile (.ite h h)))
  · exact h

theorem MemoryOk.declareAbsent {lo hi left ranks} (h : MemoryOk s) : MemoryOk (declareAbsent s d id lo hi left ranks) := by
  unfold Machine.declareAbsent
  dsimp only
  split
  · exact h
  · split
    · exact h
    · exact .foldl h fun h => .foldl h fun h => .settleTile h

@[simp] theorem OutOk.execAbsent (h : MemoryOk s) : OutOk (execAbsent die k s) := by
  unfold Machine.execAbsent
  refine .next (.fabricStep h fun h => ?_)
  split
  · exact h
  · exact .iteFst h (.foldl h fun h => h)

@[simp] theorem OutOk.execAbsentNotice {p} (h : MemoryOk s) : OutOk (execAbsentNotice die p s) := by
  unfold Machine.execAbsentNotice
  refine .next ?_
  split
  · split
    · exact h
    · exact .ite h (.ite (.declareAbsent h) (.ite (.declareAbsent h) h))
  · exact h

@[simp] theorem OutOk.execKeepAliveSend {session} (h : MemoryOk s) : OutOk (execKeepAliveSend die session s) := by
  unfold Machine.execKeepAliveSend
  refine .next ?_
  split
  · exact h
  · refine .later (.foldl h fun h => ?_)
    split <;> exact h

@[simp] theorem OutOk.execKeepAliveArrival {p} (h : MemoryOk s) : OutOk (execKeepAliveArrival die p s) := by
  unfold Machine.execKeepAliveArrival
  refine .next ?_
  split
  · split
    · exact h
    · split <;> exact h
  · exact h

@[simp] theorem OutOk.execChildTimeout {session lo hi} (h : MemoryOk s) : OutOk (execChildTimeout die session lo hi s) := by
  unfold Machine.execChildTimeout
  refine .next ?_
  split
  · exact h
  · split
    · exact h
    · dsimp only
      split
      · exact .ite (.declareAbsent (.ite (.declareAbsent h) h)) (.ite (.declareAbsent h) h)
      · exact .later (.ite (.declareAbsent (.ite (.declareAbsent h) h)) (.ite (.declareAbsent h) h))

theorem MemoryOk.linkDown {l} (h : MemoryOk s) : MemoryOk (linkDown s l) := by
  unfold Machine.linkDown
  refine .ite h ?_
  refine .foldl (.writeLink h) (fun h => ?_)
  refine .foldl h (fun h => ?_)
  exact .foldl h fun h => .ite (.declareAbsent (.ite (.declareAbsent h) h)) (.ite (.declareAbsent h) h)

theorem MemoryOk.linkTrain {l count} (h : MemoryOk s) : MemoryOk (linkTrain s l count) := .later (.writeLink (.ite h h))
theorem MemoryOk.planSend {l} (h : MemoryOk s) : MemoryOk (planSend s l) := .ite h h
theorem MemoryOk.linkSend {l} (h : MemoryOk s) : MemoryOk (linkSend s l) := .ite h (.ite h (.planSend h))
@[simp] theorem OutOk.execLinkRetrain {link} (h : MemoryOk s) : OutOk (execLinkRetrain link s) := .next (.ite (.linkTrain h) h)
@[simp] theorem OutOk.execLinkUp {link} (h : MemoryOk s) : OutOk (execLinkUp link s) :=
  .next (.ite (.planSend (.writeLink h)) h)

@[simp] theorem OutOk.execLinkDownTimeout {link stamp} (h : MemoryOk s) : OutOk (execLinkDownTimeout link stamp s) :=
  .next (.ite (.linkDown h) h)

theorem MemoryOk.routerAct (h : MemoryOk s) : MemoryOk (routerAct s d) :=
  .foldl h fun h => .ite (.linkDown h) (.ite (.linkTrain h) h)

@[simp] theorem OutOk.execFabricBlockWrite (h : MemoryOk s) : OutOk (execFabricBlockWrite die s) :=
  .next (.ite h (.foldl (.routerAct h) fun h => .ite (.routerAct h) h))

theorem MemoryOk.crossLink {l p} (h : MemoryOk s) : MemoryOk (crossLink s l p) := by
  unfold Machine.crossLink
  refine .ite (.countDrops h) ?_
  dsimp only
  split
  · exact .planSend h
  · exact h
  · exact .countDrops h

@[simp] theorem OutOk.execPacketForward {p} (h : MemoryOk s) : OutOk (execPacketForward die p s) := by
  unfold Machine.execPacketForward
  refine .next ?_
  split
  · exact .countDrops h
  · exact .ite (.ite h (.ite h (.countDrops h))) (.ite (.countDrops h) (.ite (.countDrops h) (.ite (.crossLink h) h)))

/-! Operations of Machine/Scanout.lean -/

theorem MemoryOk.modSink {f : Sink → Sink} (h : MemoryOk s) : MemoryOk (modSink s d k f) := h

@[simp] theorem OutOk.execSink (h : MemoryOk s) : OutOk (execSink die k s) :=
  .next (.fabricStep h fun h => .iteFst h (.iteFst h (.iteFst h (.iteFst h h))))

@[simp] theorem OutOk.execRoute (h : MemoryOk s) : OutOk (execRoute die k s) := by
  unfold Machine.execRoute
  refine .next (.fabricStep h fun h => .iteFst h (.iteFst h ?_))
  split
  · exact .iteFst h h
  · exact h

theorem MemoryOk.releaseSink (h : MemoryOk s) : MemoryOk (releaseSink s d k) := h

@[simp] theorem OutOk.execUnsink (h : MemoryOk s) : OutOk (execUnsink die k s) := by
  unfold Machine.execUnsink
  refine .next (.fabricStep h fun h => ?_)
  split
  · exact h
  · exact .ite h h

@[simp] theorem OutOk.execSinkRelease {engine sink} (h : MemoryOk s) : OutOk (execSinkRelease die engine sink s) := by
  unfold Machine.execSinkRelease
  refine .next ?_
  split
  · exact h
  · split
    · exact h
    · exact .ite h (.postAck (.postAck h))

theorem MemoryOk.dropRoot {engine} (h : MemoryOk s) : MemoryOk (dropRoot s d engine) := h

theorem MemoryOk.writePixel {x t tx0 ty0 p} (h : MemoryOk s) : MemoryOk (writePixel s x t tx0 ty0 p).1 := by
  unfold Machine.writePixel
  refine .iteFst h ?_
  dsimp only
  split
  · exact .sliceWrite h
  · exact h

theorem MemoryOk.writeRoot {tx0 ty0 late x t} (h : MemoryOk s) : MemoryOk (writeRoot s d k n tx0 ty0 late x t) :=
  .modSink (.foldlFst h fun h => .writePixel h)

theorem MemoryOk.delivered {epoch f} (h : MemoryOk s) : MemoryOk (delivered s d k epoch f) := by
  unfold Machine.delivered
  dsimp only
  split
  · exact .ite h h
  · exact h

theorem MemoryOk.takeRoot {x t tx0 ty0 tiles late} (h : MemoryOk s) : MemoryOk (takeRoot s d k x t n tx0 ty0 tiles late) :=
  .ite h (.delivered (.ite (.dropRoot (.ite h h)) (.writeRoot (.ite h h))))

@[simp] theorem OutOk.execRootTileDelivery {p} (h : MemoryOk s) : OutOk (execRootTileDelivery die p s) := by
  unfold Machine.execRootTileDelivery
  refine .next ?_
  split
  · dsimp only
    split
    · exact .ite (.takeRoot h) h
    · exact h
  · refine .ite h ?_
    split <;> exact h
  · exact h

@[simp] theorem OutOk.execFrameRecord {engine sink frame} (h : MemoryOk s) :
    OutOk (execFrameRecord die engine sink frame s) := by
  unfold Machine.execFrameRecord
  refine .next ?_
  dsimp only
  split
  · exact h
  · split
    · exact h
    · refine .ite h ?_
      split
      · exact .modSink (.ite h (.sendRecord h))
      · refine .foldl ?_ (fun h => .ite h h)
        exact .ite (.releaseSink (.modSink (.ite h (.sendRecord h)))) (.modSink (.ite h (.sendRecord h)))

/-! Operations of Machine/Schedule.lean -/

/-- A line that is fetched comes with a state that has obtained it. -/
theorem MemoryOk.fetchLine {sp pc line} (h : MemoryOk s) (hl : fetchLine s un sp pc = .line line t) : MemoryOk t := by
  unfold Machine.fetchLine at hl
  split at hl
  · split at hl
    · cases hl
    · cases hl
      exact h
  · dsimp only at hl
    split at hl
    · cases hl
      exact h
    · split at hl
      · cases hl
      · cases hl
      · split at hl
        · cases hl
        · cases hl
          refine .ite (.obtainRead ?_) (.obtainRead ?_) <;> split
          · exact .fillFirst h
          · exact h
          · exact .fillFirst h
          · exact h

theorem MemoryOk.enterLine {sp} (h : MemoryOk s) : MemoryOk (enterLine s u e un sp) := by
  unfold Machine.enterLine
  split
  · rename_i hl
    split
    · exact .takeTrap (.fetchLine h hl)
    · exact .modUnit (.fetchLine h hl)
  · exact .requestWalk h
  · exact .takeTrap h

theorem MemoryOk.wakeUnit (h : MemoryOk s) : MemoryOk (wakeUnit s u) := by
  unfold Machine.wakeUnit
  split <;> exact h

theorem MemoryOk.settle (h : MemoryOk s) : MemoryOk (settle s u n) := by
  induction n generalizing s with
  | zero => exact h
  | succ n ih =>
    rw [Machine.settle]
    split
    · exact h
    · split
      · exact h
      · refine .ite (ih (.enterLine h)) (.ite (ih (.skipLoop h)) ?_)
        split
        · exact ih h
        · exact h

theorem MemoryOk.prepare (h : MemoryOk s) : MemoryOk (prepare s u) := by
  unfold Machine.prepare
  split
  · exact .ite (.settle (.wakeUnit h)) h
  · exact h

@[simp] theorem OutOk.execIssueSelect (h : MemoryOk s) : OutOk (execIssueSelect core s) :=
  .next (.foldl (.foldl (.foldl h fun h => .prepare h) fun h => h) fun h => h)

@[simp] theorem OutOk.execLoadLimitWindow (h : MemoryOk s) : OutOk (execLoadLimitWindow core s) := .next (.ite h h)

@[simp] theorem OutOk.execStrandIssueSelect {sc} (h : MemoryOk s) : OutOk (execStrandIssueSelect sc s) := by
  unfold Machine.execStrandIssueSelect
  refine .next ?_
  dsimp only
  split
  · exact .soon (.modScore (.foldl h fun h => .prepare h))
  · exact .foldl h fun h => .prepare h

theorem MemoryOk.markIssue {sp} (h : MemoryOk s) : MemoryOk (markIssue s u un e sp i) := by
  unfold Machine.markIssue
  refine .ite (.ite h h) ?_
  exact .ite (.modCore (.ite (.ite h h) (.modUnit (.ite h h)))) (.ite (.ite h h) (.modUnit (.ite h h)))

theorem MemoryOk.issueTurn (h : MemoryOk s) : MemoryOk (issueTurn s u).1 := by
  unfold Machine.issueTurn
  extract_lets enter s₁
  have henter : ∀ {t}, MemoryOk t → MemoryOk (enter t) := by
    intro t h
    unfold enter
    split
    · split
      · exact .ite (.enterLine h) h
      · exact h
    · exact h
  split
  · exact h
  · refine .iteFst h ?_
    have h₁ : MemoryOk s₁ := henter h
    split
    · exact h₁
    · split
      · exact h₁
      · refine .iteFst h₁ (.iteFst (.skipLoop h₁) ?_)
        split
        · exact .trapHere h₁
        · exact .update (.markIssue h₁)

theorem OutOk.unlessCrowded {out : Out} (h : MemoryOk s) (ho : OutOk out) : OutOk (unlessCrowded s out) := by
  intro t ht
  rcases unlessCrowded_cases ht with ht | ⟨_, u, _, e, _, _, _, _, _, _, _, rfl⟩
  · exact ho t ht
  · exact h

/-! Operations of Machine/Debug.lean -/

theorem MemoryOk.debugStatus {code} (h : MemoryOk s) : MemoryOk (debugStatus s cell code) := .poke h

theorem MemoryOk.debugCommand {body : State → State × Nat} {op} (h : MemoryOk s)
    (hbody : ∀ {t}, MemoryOk t → MemoryOk (body t).1) :
    MemoryOk (debugCommand s cell op body) := .ite (.ite (.debugStatus (hbody h)) (.debugStatus h)) h

theorem MemoryOk.onHalted {body : Nat → UnitSt → State × Nat} (h : MemoryOk s) (hbody : ∀ x y, MemoryOk (body x y).1) :
    MemoryOk (onHalted s cell body).1 := by
  unfold Machine.onHalted
  split
  · exact h
  · split
    · exact h
    · exact .iteFst (hbody _ _) h

theorem MemoryOk.extendForm {t} (h : MemoryOk s) : MemoryOk (extendForm s cell u t) := by
  unfold Machine.extendForm
  split
  · exact h
  · exact .ite h (.replanForms h)

theorem MemoryOk.staleEdits (h : MemoryOk s) : MemoryOk (staleEdits s cell u) := h

theorem MemoryOk.resumeUnit (h : MemoryOk s) : MemoryOk (resumeUnit s u) := by
  unfold Machine.resumeUnit
  split
  · exact h
  · split
    · exact h
    · exact .staleEdits (.extendForm (.extendSleeps h))

theorem MemoryOk.resumeCell (h : MemoryOk s) : MemoryOk (resumeCell s cell) := .modDebug (.foldl h fun h => .resumeUnit h)

theorem MemoryOk.haltCommand (h : MemoryOk s) : MemoryOk (haltCommand s cell).1 := by
  unfold Machine.haltCommand
  refine .iteFst (.ite h h) ?_
  split
  · exact h
  · split
    · exact .crossTrigger h
    · exact h

@[simp] theorem OutOk.execDebugHalt (h : MemoryOk s) : OutOk (execDebugHalt cell s) := by
  unfold Machine.execDebugHalt
  refine .next (.ite h (.ite h (.ite h (.ite (.debugStatus h) (.ite (.debugCommand h fun h => .haltCommand h) ?_)))))
  split
  · exact .ite h h
  · exact .debugStatus h

@[simp] theorem OutOk.execDebugResume (h : MemoryOk s) : OutOk (execDebugResume cell s) :=
  .next (.debugCommand h fun h => .iteFst (.foldl h fun h => .resumeCell h) h)

@[simp] theorem OutOk.execDebugStep (h : MemoryOk s) : OutOk (execDebugStep cell s) :=
  .next (.debugCommand h fun h => .onHalted h fun _ _ => .modUnit (.resumeUnit h))

@[simp] theorem OutOk.execDebugRead (h : MemoryOk s) : OutOk (execDebugRead cell s) := by
  unfold Machine.execDebugRead
  refine .next (.debugCommand h fun h => .onHalted h fun _ _ => ?_)
  split
  · exact .poke h
  · exact h

@[simp] theorem OutOk.execDebugWrite (h : MemoryOk s) : OutOk (execDebugWrite cell s) :=
  .next (.debugCommand h fun h => .onHalted h fun _ _ => .iteFst h (.iteFst h h))

theorem MemoryOk.applyEdit {off v} (h : MemoryOk s) : MemoryOk (applyEdit s u off v) := by
  unfold Machine.applyEdit
  split <;> exact h

@[simp] theorem OutOk.execCommit (h : MemoryOk s) : OutOk (execCommit cell s) :=
  .next (.debugCommand h fun h => .iteFst h (.modDebug (.foldl h fun h => .applyEdit h)))

@[simp] theorem OutOk.execDrop (h : MemoryOk s) : OutOk (execDrop cell s) := .next (.debugCommand h fun h => h)

@[simp] theorem OutOk.execDebugRevoke (h : MemoryOk s) : OutOk (execDebugRevoke cell s) :=
  .next (.ite h (.ite h (.ite (.debugStatus (.modDebug (.resumeCell h))) (.modDebug (.resumeCell h)))))

/-! Operations of Machine/Power.lean -/

theorem MemoryOk.modPower {f : Power → Power} (h : MemoryOk s) : MemoryOk (modPower s d f) := h
theorem MemoryOk.modMgmt {f : Mgmt → Mgmt} (h : MemoryOk s) : MemoryOk (State.modMgmt s f) := h
@[simp] theorem OutOk.execLifetimeRecordWrite (h : MemoryOk s) : OutOk (execLifetimeRecordWrite s) := .next h
theorem MemoryOk.clearDie (h : MemoryOk s) : MemoryOk (clearDie s d) := .update (.foldl h fun h => .linkDown h)

@[simp] theorem OutOk.execIdleTimeout (h : MemoryOk s) : OutOk (execIdleTimeout die s) :=
  .next (.ite h (.later (.modPower (.ite (.foldl h fun h => .linkDown h) h))))

theorem MemoryOk.beginExit (h : MemoryOk s) : MemoryOk (beginExit s d) := .ite h h

@[simp] theorem OutOk.execPowerEntryComplete (h : MemoryOk s) : OutOk (execPowerEntryComplete die s) := by
  unfold Machine.execPowerEntryComplete
  refine .next ?_
  split
  · exact h
  · exact .ite (.beginExit (.modPower (.ite (.clearDie h) h))) (.modPower (.ite (.clearDie h) h))

@[simp] theorem OutOk.execPowerWake (h : MemoryOk s) : OutOk (execPowerWake die s) := .next (.ite h (.ite h (.beginExit h)))
theorem MemoryOk.rejoin (h : MemoryOk s) : MemoryOk (rejoin s d) := .foldl h fun h => h

@[simp] theorem OutOk.execPowerExitComplete (h : MemoryOk s) : OutOk (execPowerExitComplete die s) :=
  .next (.ite h (.update (.ite (.rejoin (.ite h h)) (.ite h h))))

theorem MemoryOk.wakeDie (h : MemoryOk s) : MemoryOk (wakeDie s d) := .ite h h
theorem MemoryOk.askDie (h : MemoryOk s) : MemoryOk (askDie s d) := .wakeDie h

theorem OutOk.unlessDeep {out : Out} {again : Nat → State → State} (h : MemoryOk s) (ho : OutOk out)
    (hagain : ∀ {d t}, MemoryOk t → MemoryOk (again d t)) : OutOk (unlessDeep s again out) := by
  intro t ht
  rcases unlessDeep_cases ht with ⟨ht, _⟩ | ⟨_, d, ds, _, _, rfl⟩
  · exact ho t ht
  · exact hagain (.foldl h fun h => .askDie h)

theorem MemoryOk.setLattol {v} (h : MemoryOk s) : MemoryOk (setLattol s d v) := .ite h (.ite (.wakeDie h) (.ite h h))
theorem MemoryOk.setClklim {v} (h : MemoryOk s) : MemoryOk (setClklim s d v) := .ite h h
@[simp] theorem OutOk.execLattolWrite {v} (h : MemoryOk s) : OutOk (execLattolWrite die v s) := .next (.ite (.setLattol h) h)
@[simp] theorem OutOk.execClklimWrite {v} (h : MemoryOk s) : OutOk (execClklimWrite die v s) := .next (.ite (.setClklim h) h)
theorem MemoryOk.applyClock (h : MemoryOk s) : MemoryOk (applyClock s d) := .ite h h
@[simp] theorem OutOk.execThermalStep {temp} (h : MemoryOk s) : OutOk (execThermalStep die temp s) := .next (.ite h h)
theorem MemoryOk.putIdent {o} (h : MemoryOk s) : MemoryOk (putIdent s o bs) := h
theorem MemoryOk.settlePhase (h : MemoryOk s) : MemoryOk (settlePhase s) := .ite h h
theorem MemoryOk.bringFail {code} (h : MemoryOk s) : MemoryOk (bringFail s d code) := .ite h (.settlePhase h)

theorem MemoryOk.bringNext {e : State → Event × State} {b p left} (h : MemoryOk s) (he : ∀ {t}, MemoryOk t → MemoryOk (e t).2) :
    MemoryOk (bringNext s d b p left e) := .later (.update (he (.ite h h)))

@[simp] theorem OutOk.execPowerOn (h : MemoryOk s) : OutOk (execPowerOn die s) := by
  unfold Machine.execPowerOn
  refine .next ?_
  refine .ite h ?_
  refine .bringNext ?_ (fun h => h)
  exact .ite (.modMgmt (.modPower (.ite (.modPower (.clearDie h)) h))) (.modPower (.ite (.modPower (.clearDie h)) h))

@[simp] theorem OutOk.execFirmware {fail} (h : MemoryOk s) : OutOk (execFirmware die fail s) :=
  .next (.ite h (.ite (.bringFail h) (.bringNext h fun h => h)))

@[simp] theorem OutOk.execSelftest {pass fenced} (h : MemoryOk s) : OutOk (execSelftest die pass fenced s) :=
  .next (.ite h (.ite (.bringFail h) (.bringNext h fun h => h)))

theorem MemoryOk.trainStacks (h : MemoryOk s) : MemoryOk (trainStacks s d) := .ite h (.ite h h)

@[simp] theorem OutOk.execMemory {pass} (h : MemoryOk s) : OutOk (execMemory die pass s) :=
  .next (.ite h (.ite (.bringFail h) (.bringNext (.ite (.trainStacks h) (Tab.wf_filter (MemoryOk.trainStacks h) _)) fun h => h)))

theorem MemoryOk.identPart {key} (h : MemoryOk s) : MemoryOk (identPart s key) := h

@[simp] theorem OutOk.execLinks {pass key} (h : MemoryOk s) : OutOk (execLinks die pass key s) := by
  unfold Machine.execLinks
  refine .next (.ite h (.ite (.bringFail h) ?_))
  extract_lets s₁ s₂ s₃
  have h₁ : MemoryOk s₁ := .putIdent (.modDie h)
  have h₃ : MemoryOk s₃ := .settlePhase (.ite (.identPart (.modMgmt h₁)) h₁)
  exact .ite (.soon h₃) h₃

/-! Operations of Machine/HostSide.lean -/

theorem MemoryOk.wakeAll {evs} (h : MemoryOk s) : MemoryOk (wakeAll s evs) := .foldl h fun h => .ite h h

@[simp] theorem OutOk.execHostSnoop {line inval} (h : MemoryOk s) : OutOk (execHostSnoop line inval s) :=
  .next (.ite h (.ite (.wakeAll (.setL2 (.wakeDie h))) (.setL2 (.wakeDie h))))

theorem MemoryOk.hostWrite (h : MemoryOk s) : MemoryOk (hostWrite s pa bs) := wf_hostWrite h pa bs
theorem MemoryOk.hostBacks {on} (h : MemoryOk s) : MemoryOk (hostBacks s pa n on) := h
theorem MemoryOk.answerHost (h : MemoryOk s) : MemoryOk (answerHost s pa) := h

@[simp] theorem OutOk.execCxlMemRequest {r} (h : MemoryOk s) : OutOk (execCxlMemRequest r s) := by
  unfold Machine.execCxlMemRequest
  refine .next (.ite h (.ite (.modDie (.wakeDie h)) ?_))
  split
  · exact .answerHost (.ite (.setL2 (.correctWords (.wakeDie h))) (.correctWords (.wakeDie h)))
  · exact .sliceWrite (.wakeDie h)

theorem MemoryOk.hostMem {r} (h : MemoryOk s) : MemoryOk (hostMem s r) := by
  unfold Machine.hostMem
  split <;> exact h

theorem MemoryOk.cfgWrite {off} (h : MemoryOk s) : MemoryOk (cfgWrite s off bs) := h
theorem MemoryOk.hdmWrite {i x} (h : MemoryOk s) : MemoryOk (hdmWrite s i x) := h
theorem MemoryOk.evictSlice {line} (h : MemoryOk s) : MemoryOk (evictSlice s line) := .ite h h
theorem MemoryOk.startDevice (h : MemoryOk s) : MemoryOk (startDevice s) := .wakeAll h
theorem MemoryOk.writeCtl0 {v} (h : MemoryOk s) : MemoryOk (writeCtl0 s v) := .ite (.startDevice h) h
@[simp] theorem OutOk.execGo {v} (h : MemoryOk s) : OutOk (execGo v s) := .next (.writeCtl0 h)

theorem MemoryOk.writeWindowWord {off v} (h : MemoryOk s) : MemoryOk (writeWindowWord s off v) :=
  .ite (.ite h h) (.ite (.ite h h) (.ite (.writeCtl0 h) (.ite (.setLattol h) (.ite (.setClklim h) h))))

@[simp] theorem OutOk.execMgmtWindowWrite {off size v} (h : MemoryOk s) : OutOk (execMgmtWindowWrite off size v s) :=
  .next (.ite h (.ite (.writeWindowWord (.writeWindowWord h)) (.writeWindowWord h)))

@[simp] theorem OutOk.execGetVersion (h : MemoryOk s) : OutOk (execGetVersion s) := .next h
@[simp] theorem OutOk.execGetCapabilities (h : MemoryOk s) : OutOk (execGetCapabilities s) := .next h
@[simp] theorem OutOk.execNegotiateAlgorithms (h : MemoryOk s) : OutOk (execNegotiateAlgorithms s) := .next h
@[simp] theorem OutOk.execGetDigests (h : MemoryOk s) : OutOk (execGetDigests s) := .next h
@[simp] theorem OutOk.execGetCertificate {slot} (h : MemoryOk s) : OutOk (execGetCertificate slot s) := .next h
@[simp] theorem OutOk.execChallenge {slot nonce} (h : MemoryOk s) : OutOk (execChallenge slot nonce s) := .next h
@[simp] theorem OutOk.execGetMeasurements {index signed} (h : MemoryOk s) : OutOk (execGetMeasurements index signed s) :=
  .next h
theorem MemoryOk.spdmOffer {asym hash} (h : MemoryOk s) : MemoryOk (spdmOffer s asym hash) := h
theorem MemoryOk.spdmOther {code} (h : MemoryOk s) : MemoryOk (spdmOther s code) := h

@[simp] theorem OutOk.execGrantMapWrite {byte} (h : MemoryOk s) : OutOk (execGrantMapWrite byte s) :=
  .next (.ite h (.foldl h fun h => .ite h (.foldl h fun h => h)))

@[simp] theorem OutOk.execGrantArrival {granted} (h : MemoryOk s) : OutOk (execGrantArrival core ctx granted s) :=
  .next (.ite h h)
theorem MemoryOk.strike {l} (h : MemoryOk s) : MemoryOk (strike s l) := .ite h h
theorem MemoryOk.strikeBank {l isLocal double} (h : MemoryOk s) : MemoryOk (strikeBank s l d isLocal double) :=
  .ite (.strike h) h
theorem MemoryOk.strikeMemory {l double} (h : MemoryOk s) : MemoryOk (strikeMemory s l pa double) := .ite h (.ite h h)
theorem MemoryOk.dropEntry (h : MemoryOk s) : MemoryOk (dropEntry s core) := .ite h h

@[simp] theorem OutOk.execSoftError {l double} (h : MemoryOk s) : OutOk (execSoftError l double s) := by
  unfold Machine.execSoftError
  refine .next ?_
  split
  · exact .ite (.strikeMemory h) h
  · exact .ite (.strikeMemory h) h
  · split
    · exact .strikeBank h
    · exact h
  · exact .ite (.strikeBank h) h
  · split
    · exact .ite h (.strikeBank h)
    · exact h
  · exact .ite (.strikeBank h) h
  · exact .strikeBank h
  · exact .dropEntry h

@[simp] theorem OutOk.execPatrolScrub (h : MemoryOk s) : OutOk (execPatrolScrub s) := .next (.correctWords h)

/-! Operations of Machine/Cycle.lean -/

theorem OutOk.runEvent {v : Event} (h : MemoryOk s) : OutOk (runEvent v s) := by
  unfold Machine.runEvent
  split <;> simp [h]

theorem MemoryOk.holdFor {e} (h : MemoryOk s) : MemoryOk (holdFor s d e) := .modDie (.wakeDie h)

theorem MemoryOk.wakeNamed {x} (h : MemoryOk s) : MemoryOk (wakeNamed s x) := by
  unfold Machine.wakeNamed
  split
  · exact .foldl h fun h => .wakeDie h
  · exact h

theorem MemoryOk.holdEvent {v} (h : MemoryOk s) (ht : holdEvent s v = some t) : MemoryOk t := by
  unfold Machine.holdEvent at ht
  split at ht
  · cases ht
    exact .deferEvent h ‹_›
  · split at ht
    · cases ht
      exact .holdFor h
    · split at ht
      · cases ht
      · dsimp only at ht
        split at ht
        · split at ht
          · cases ht
            exact h
          · cases ht
            exact .holdFor h
        · split at ht
          · cases ht
            exact h
          · split at ht
            · cases ht
              exact .holdFor (.wakeNamed h)
            · cases ht

theorem MemoryOk.evictTlb {place index} (h : MemoryOk s) : MemoryOk (evictTlb s place index) := .ite h (.ite h h)
theorem MemoryOk.evictCode {index} (h : MemoryOk s) : MemoryOk (evictCode s core index) := .ite h h

theorem MemoryOk.tickDie (h : MemoryOk s) : MemoryOk (tickDie s d) :=
  .ite (.modPower (.applyClock h)) (.ite (.modPower (.applyClock h)) (.applyClock h))

theorem MemoryOk.traceOut (h : MemoryOk s) : MemoryOk (traceOut s cell) := by
  unfold Machine.traceOut
  dsimp only
  split
  · exact .flushTrace h
  · exact .foldl h fun h => .askDie h

theorem MemoryOk.nextCycle (h : MemoryOk s) : MemoryOk (nextCycle s) := by
  unfold Machine.nextCycle
  refine .update ?_
  refine .foldl ?_ (fun h => .tickDie h)
  exact .foldl (.foldl (.update (.foldl h fun h => .ite h (.traceOut h))) fun h => h) fun h => .tickPools h

/-! Operations of Machine/Step.lean -/

theorem OutOk.exec (h : MemoryOk s) : OutOk (exec i s) := by
  unfold Machine.exec
  split <;> simp [h]

theorem OutOk.endIssue {out : Out} (h : OutOk out) : OutOk (endIssue out) := by
  intro t ht
  obtain ⟨x, hx, rfl⟩ := endIssue_next ht
  exact h x hx

/-- A unit that issues fetches, decodes and performs, each of which keeps memory canonical. -/
theorem OutOk.issueStep (h : MemoryOk s) : OutOk (issueStep u s) := by
  unfold Machine.issueStep
  split
  · exact .fault
  · refine .unlessDeep h ?_ id
    have hi := MemoryOk.issueTurn (u := u) h
    generalize Machine.issueTurn s u = p at hi ⊢
    obtain ⟨s', _ | i⟩ := p
    · exact .next hi
    · exact .endIssue (.unlessCrowded hi (.exec hi))

theorem OutOk.takeTurn {y} (h : MemoryOk s) : OutOk (takeTurn s y) := by
  cases y with
  | issue => exact .next h
  | event v =>
    intro t ht
    rcases eventTurn_cases ht with hv | ⟨_, ht⟩
    · exact .holdEvent h hv
    · exact OutOk.unlessDeep h (.runEvent h) (fun h => .holdFor h) t ht
  | hostWrite => exact .next (.hostWrite h)
  | hostBacks => exact .next (.hostBacks h)
  | linkSend => exact .next (.linkSend h)
  | evict => exact .next (.evictTlb h)
  | evictLine => exact .next (.evictCode h)
  | evictSlice => exact .next (.evictSlice h)
  | cfgWrite => exact .next (.cfgWrite h)
  | hdmWrite => exact .next (.hdmWrite h)
  | hostMem => exact .next (.hostMem h)
  | spdmOffer => exact .next (.spdmOffer h)
  | spdmOther => exact .next (.spdmOther h)

/-- Settles O58: memory is canonical after a step, whichever turn the step takes. -/
theorem canonicalMemoryKept : Obligations.CanonicalMemoryKept := by
  intro s t h ht
  rcases step_cases ht with ⟨_, rfl⟩ | ⟨u, rest, _, ht⟩ | ⟨y, rest, _, ht⟩
  · exact .nextCycle h
  · exact OutOk.issueStep (s := { s with agenda := rest }) h t ht
  · exact OutOk.takeTurn (s := { s with agenda := rest }) h t ht

end Sys2Proof.Safety
end

section
/-! What comes before an instruction's effect, and when it acts (O53). Every instruction with a code word is the issue of some effect
(`exec_issues`), which is seen shape by shape; `issue` itself says what it answers where the instruction does not act. -/

open Sys2Proof.Machine
namespace Sys2Proof.Safety

variable {i : Instr} {s : State} {un : UnitSt}

/-! Every coded instruction issues -/

/-- The answer of an instruction of the core: that of the issue of some effect (R61, R70). -/
def Issues (i : Instr) (s : State) (o : Out) : Prop := ∃ body, o = issue i s body

theorem Issues.issue {body} : Issues i s (issue i s body) := ⟨body, rfl⟩
theorem Issues.alu {d f} : Issues i s (alu i s d f) := .issue
theorem Issues.aluPair {d f} : Issues i s (aluPair i s d f) := .issue
theorem Issues.aluPred {d f} : Issues i s (aluPred i s d f) := .issue
theorem Issues.fpOp {d f} : Issues i s (fpOp i s d f) := .issue
theorem Issues.fpCompare {pd pk m f} : Issues i s (fpCompare i s pd pk m f) := .issue
theorem Issues.sfuOp {a f} : Issues i s (sfuOp i s a f) := .issue
theorem Issues.sfuOne {y fn} : Issues i s (sfuOne i s y fn) := .sfuOp
theorem Issues.narrowingOp {d m n f} : Issues i s (narrowingOp i s d m n f) := .issue
theorem Issues.access {sh d addr} : Issues i s (access i s sh d addr) := .issue
theorem Issues.packed {load ty d base off sr} : Issues i s (packed i s load ty d base off sr) := by
  unfold Machine.packed
  exact .issue
theorem Issues.atomic {sp m n r d addr} : Issues i s (atomic i s sp m n r d addr) := .issue
theorem Issues.atomGlobal {y r} : Issues i s (atomGlobal i s y r) := .atomic
theorem Issues.atomLocal {y sp n} : Issues i s (atomLocal i s y sp n) := .atomic
theorem Issues.cacheControl {y} : Issues i s (cacheControl i s y) := .issue
theorem Issues.mxIssue {body} : Issues i s (mxIssue i s body) := .issue
theorem Issues.staging {b y} : Issues (if b then .mldb y else .mlda y) s (staging b y s) := by
  unfold Machine.staging
  exact .mxIssue
theorem Issues.multiply {y ta tb g} : Issues i s (multiply i y ta tb g s) := by
  unfold Machine.multiply
  exact .mxIssue
theorem Issues.submit {y q} : Issues i s (submit i s y q) := .issue

/-- An instruction with a code word answers as the issue of some effect. -/
theorem exec_issues (h : (encode i).isSome = true) : Issues i s (exec i s) := by
  unfold exec
  cases i
  case nop | exit | yield_ | ret | trap | br | call | jmpi | calli | brd | brany | brall | loop | loopi | iaddc | isubb | cvtfi | pscan | reduce
    | pref | fence | fenceSurf | discard | bar | barc | gbar | voteg | sete | setf | chain | deq | migr | rets | bclose | bwait | poolq | poolm
    | poolw | svc | ctlr | ctlw | isync | sleep | halt | bkpt | eret =>
    exact .issue
  case iadd | isub | iaddi | ineg | iabs | imin | imax | sel | and_ | or_ | xor_ | not_ | andi | ori | xori | shl | shr | sar | rol | ror | shli
    | shri | sari | popc | clz | ctz | brev | movi | movhi | imul | imulhi | imad | bfx | bfi | fabs | fneg | fclass | cvtii | shfl | shflup
    | shfldn | shflx | ballot | match_ => exact .alu
  case iadd64 | isub64 | iaddi64 | lea | shl64 | shr64 | sar64 | imulw | imadw | divstep | divinit => exact .aluPair
  case icmpp | icmppi | icmpp64 | voteany | voteall | voteuni => exact .aluPred
  case mov y =>
    change Issues _ s (if y.m then _ else _)
    split
    · exact .aluPair
    · exact .alu
  case movk y =>
    change Issues _ s (execMovk y s)
    unfold execMovk
    split
    · exact .alu
    · exact .aluPair
    · exact .aluPair
  case fadd | fsub | fmul | badd | bsub | bmul | bpadd | bpsub | bpmul | ffma | fmin | fmax | bfma | bpfma | bpmin | bpmax | bmin | bmax | faddi
    | fmuli | ffmai | cvthf | cvtf8 | cvtf4 | cvt8f | cvt4f | mxpack | mxunpk | cvtif => exact .fpOp
  case fcmpp | bcmpp => exact .fpCompare
  case rcp | rsq | sqrt | exp2 | log2 | tanh | sint | cost => exact .sfuOne
  case sincost => exact .sfuOp
  case cvtfh | packh => exact .narrowingOp
  case ld | st | gld | sct | lds | sts | ldsr | stsr | ldt | stt | ldl | stl | ldw | stw => exact .access
  case cmpst | expld => exact .packed
  case atomAdd | atomMin | atomMax | atomAnd | atomOr | atomXor | atomExch | atomCas | atomFadd | atomFmin | atomFmax | atomAddBf16x2 | atomVismin
    | redAdd | redMin | redMax | redFadd | redAddBf16x2 => exact .atomGlobal
  case atomlCas | atomlAdd | atomwCas | atomwAdd | atomwExch => exact .atomLocal
  case cinv | cwb | cflush => exact .cacheControl
  case mrsv | mrel | mzero | mst | gang => exact .mxIssue
  case mma | mmaF32 | gangMma => exact .multiply
  case mlda => exact .staging (b := false)
  case mldb => exact .staging (b := true)
  case enq | launch => exact .submit
  all_goals cases h

/-! The two halves of the statement -/

theorem beforeTheEffect : Sys2Proof.Claims.BeforeTheEffect := by
  intro i s h
  obtain ⟨body, e⟩ := exec_issues (s := s) h
  rw [e]
  unfold Machine.issue
  refine ⟨fun c hr => ?_, fun c hr => ?_, fun c w hr => ?_, fun c k hr => ?_, fun hr => ?_⟩ <;> rw [hr]

/-- An instruction at stage 0 that is legal, whose guard passes and that no register, port, queue or order holds up acts. -/
theorem ready_acts {u e sp} (ha : s.actor = some u) (hu : s.unit? u = some un) (hr : un.running = some (e, sp)) (h0 : sp.stage = 0)
    (hl : legal s un i = true) (hg : guardMask un (Machine.guardOf i) sp.mask ≠ 0) (hp : portsLegal un i = true)
    (hh : hazard s un e i = none) (hb : readsBroken s u i = false) :
    ready i s = .acts { u := u, un := un, e := e, sp := sp, lanes := guardMask un (Machine.guardOf i) sp.mask, instr := i } := by
  simpa [ready, ha, hu, hr, h0, hl, hp, hh, hb] using hg

theorem legal_of_not_wf (h : i.wf = false) : legal s un i = false := by
  simp [legal, h]

theorem legal_of_not_classLegal (h : classLegal un i = false) : legal s un i = false := by
  simp [legal, h]

theorem readP_eq_getLsbD_predMask (un : UnitSt) (n : Fin 16) {l : Nat} (h : l < 32) : readP un n l = (predMask un n).getLsbD l := by
  by_cases e : n.val = 15
  · simp only [readP, predMask, e, if_true, BitVec.getLsbD_allOnes, h, decide_true]
    rfl
  · simp [readP, predMask, e]

theorem whenItActs : Sys2Proof.Claims.WhenItActs := by
  refine ⟨fun i s u un e sp => ready_acts, ?_, ?_, fun i s un => legal_of_not_wf, ?_, fun un m => rfl⟩
  · intro i s un hc hs
    exact legal_of_not_classLegal (by simp [classLegal, hc, hs])
  · intro i s un hc hs
    exact legal_of_not_classLegal (by simp [classLegal, hc, hs])
  · intro un g m l
    by_cases h : l < 32
    · cases hn : g.neg <;> simp [guardMask, hn, readP_eq_getLsbD_predMask un g.p h, h]
    · simp [BitVec.getLsbD_of_ge _ _ (Nat.le_of_not_lt h)]

/-- Settles O53: an instruction with a code word is the issue of its effect, which the rules of issue keep back or let act. -/
theorem whenInstructionsAct : Obligations.WhenInstructionsAct := ⟨beforeTheEffect, whenItActs⟩

end Sys2Proof.Safety
end

section
/-! What the state's operations read and leave alone, for the statements on memory, units and messages (O19, O29, O31). -/

open Sys2Proof Sys2Proof.Machine
namespace Sys2Proof.Safety

variable {s t : State} {un : UnitSt} {ctx va u : Nat}

/-! Tables and folds -/

/-- Rewriting the values of a table, each by its key. -/
theorem find?_map_val {α β : Type} (m : Tab α) (f : Nat → α → β) (k : Nat) :
    Tab.find? (m.map (fun e => (e.1, f e.1 e.2))) k = (Tab.find? m k).map (f k) := by
  induction m with
  | nil => rfl
  | cons e m ih =>
    by_cases h : e.1 = k
    · simp [Tab.find?, h]
    · simp [Tab.find?, h, ih]

/-- A fold of writes that give a key one value leaves that value. -/
theorem get_foldl_set_of_mem {α : Type} [DecidableEq α] {d x : α} {ws : List (Nat × α)} {a : Nat} (m : Tab α) (h : (a, x) ∈ ws)
    (hx : ∀ w ∈ ws, w.1 = a → w.2 = x) : Tab.get d (ws.foldl (fun m w => Tab.set d m w.1 w.2) m) a = x := by
  rw [get_foldl_set]
  cases e : ws.reverse.find? (fun w => w.1 == a) with
  | none => simpa using List.find?_eq_none.1 e (a, x) (List.mem_reverse.2 h)
  | some w => exact hx w (List.mem_reverse.1 (List.mem_of_find?_eq_some e)) (by simpa using List.find?_some e)

/-- A fold of writes to other keys leaves what stood there. -/
theorem get_foldl_set_of_forall_ne {α : Type} [DecidableEq α] {d : α} {ws : List (Nat × α)} {a : Nat} (m : Tab α)
    (h : ∀ w ∈ ws, w.1 ≠ a) : Tab.get d (ws.foldl (fun m w => Tab.set d m w.1 w.2) m) a = Tab.get d m a := by
  rw [get_foldl_set, List.find?_eq_none.2 fun w hw => by simpa using h w (List.mem_reverse.1 hw)]
  rfl

/-- A fold whose steps at the elements of its list leave the start alone leaves it. -/
theorem foldl_eq_self {σ β : Type} {f : σ → β → σ} {s : σ} {l : List β} (h : ∀ x ∈ l, f s x = s) : l.foldl f s = s := by
  induction l with
  | nil => rfl
  | cons x l ih => rw [List.foldl_cons, h x (by simp), ih fun y hy => h y (by simp [hy])]

/-! What a walk reads: memory, the contexts, the base of their table and the identity record -/

theorem tierOf_congr (hi : t.mgmt.ident = s.mgmt.ident) (pa : Nat) : tierOf t pa = tierOf s pa := by
  unfold tierOf identField
  rw [hi]

theorem rdNat_congr (hm : t.mem = s.mem) (pa n : Nat) : rdNat t pa n = rdNat s pa n := by
  simp only [rdNat, rdBytes, rd8, hm]

theorem pageOk_congr (hi : t.mgmt.ident = s.mgmt.ident) (pa lg : Nat) : pageOk t pa lg = pageOk s pa lg := by
  unfold pageOk
  rw [tierOf_congr hi, tierOf_congr hi]

theorem acceptLeaf_congr (hi : t.mgmt.ident = s.mgmt.ident) (e lg : Nat) : acceptLeaf t ctx va e lg = acceptLeaf s ctx va e lg := by
  simp only [acceptLeaf, pageOk_congr hi]

theorem walkFrom_congr (hm : t.mem = s.mem) (hi : t.mgmt.ident = s.mgmt.ident) (l table : Nat) :
    walkFrom t ctx va l table = walkFrom s ctx va l table := by
  induction l generalizing table with
  | zero => simp only [walkFrom, walkLevel0, rdNat_congr hm, acceptLeaf_congr hi]
  | succ l ih => simp only [walkFrom, rdNat_congr hm, acceptLeaf_congr hi, tierOf_congr hi, ih]

theorem walk_congr (hm : t.mem = s.mem) (hi : t.mgmt.ident = s.mgmt.ident) (hb : t.mgmt.ctxbase = s.mgmt.ctxbase)
    (hc : t.ctxs = s.ctxs) : walk t ctx va = walk s ctx va := by
  simp only [walk, rootOf, State.ctx?, entryAt, State.tableBase, rdNat_congr hm, walkFrom_congr hm hi, hb, hc]

/-! What obtaining the lines of a walk changes: the lines' states, and the dies it asks for -/

/-- The parts that a device read of a line may change, erased. -/
def besideLines (s : State) : State := { s with l2 := [], deep := [] }

theorem besideLines_reach (d : Nat) : besideLines (reach s d) = besideLines s := by
  unfold reach
  split <;> rfl

theorem besideLines_obtainRead (s : State) (pa : Nat) : besideLines (obtainRead s pa) = besideLines s := by
  unfold obtainRead
  dsimp only
  split
  · split
    · split <;> rfl
    · exact besideLines_reach _
  · rfl

theorem besideLines_obtainWalk (s : State) (ctx va : Nat) : besideLines (obtainWalk s ctx va) = besideLines s := by
  unfold obtainWalk
  split
  · exact foldl_keeps _ besideLines (fun s pa => besideLines_obtainRead s pa) _ s
  · rfl

/-! Registers -/

theorem readV_writeV {n l : Nat} {m : Mask} (h : l ∈ lanesOf m) (un : UnitSt) (f : Nat → Word) : readV (writeV un n m f) n l = f l := by
  have e : (writeV un n m f).regs.v =
      ((lanesOf m).map (fun l => (n * 32 + l, f l))).foldl (fun t w => Tab.set 0 t w.1 w.2) un.regs.v := by
    rw [List.foldl_map]
    rfl
  rw [readV, e]
  refine get_foldl_set_of_mem _ (List.mem_map_of_mem h) fun w hw hl => ?_
  obtain ⟨k, _, rfl⟩ := List.mem_map.1 hw
  rw [show k = l by simpa using hl]

theorem feOf_writeV (un : UnitSt) (n : Fin 1024) (m : Mask) (f : Nat → Word) : feOf (writeV un n.val m f) (.v n) = .full :=
  Tab.get_set_self Fe.full un.regs.vfe n.val .full

@[simp] theorem readS_writeS (un : UnitSt) (n : Nat) (w : Word) : readS (writeS un n w) n = w := Tab.get_set_self ..

@[simp] theorem feOf_writeS (un : UnitSt) (n : Fin 64) (w : Word) : feOf (writeS un n.val w) (.s n) = .full :=
  Tab.get_set_self Fe.full un.regs.sfe n.val .full

theorem clearVreg_keeps {α : Type} (g : State → α) (h : ∀ s l, g { s with struck := l } = g s) (s : State) (u n : Nat) (m : Mask) :
    g (clearVreg s u n m) = g s := by
  unfold clearVreg
  split
  · rfl
  · exact h _ _

theorem writeOp_v (hu : s.unit? u = some un) (n : Fin 1024) {m : Mask} (hm : m ≠ 0) (f : Nat → Word) :
    writeOp s u (.v n) m f = clearVreg (s.putUnit u (writeV un n.val m f)) u n.val m := by
  rw [writeOp, if_neg hm, hu]

theorem writeOp_s (hu : s.unit? u = some un) (n : Fin 64) {m : Mask} (hm : m ≠ 0) (f : Nat → Word) :
    writeOp s u (.s n) m f = s.putUnit u (writeS un n.val (f (lowLane m))) := by
  rw [writeOp, if_neg hm, hu]

theorem lowLane_of_zero_mem {m : Mask} (h : 0 ∈ lanesOf m) : lowLane m = 0 := by
  have h0 : m.getLsbD 0 = true := (List.mem_filter.1 h).2
  simp [lowLane, lanesOf, lanes32, List.range_succ_eq_map, h0]

theorem ne_zero_of_mem_lanesOf {m : Mask} {l : Nat} (h : l ∈ lanesOf m) : m ≠ 0 := by
  rintro rfl
  simp [lanesOf] at h

/-! Units -/

theorem unit_mapUnits (s : State) (f : Nat → UnitSt → UnitSt) (u : Nat) : (s.mapUnits f).unit? u = (s.unit? u).map (f u) :=
  find?_map_val s.units f u

/-- Where no split sleeps until an event, nothing is woken. -/
theorem wakeSleepers_of_forall_ne (hu : s.unit? u = some un) (h : ∀ x ∈ un.splits, ∀ t n, x.2.wait ≠ some (.sleep t n true)) :
    wakeSleepers s u = s := by
  rw [wakeSleepers, hu]
  refine foldl_eq_self fun x hx => ?_
  split
  · rename_i t n hw
    exact absurd hw (h x hx t n)
  · rfl

/-! Counting a message changes a core or a strand core -/

theorem countRecv_keeps {α : Type} (g : State → α) (hs : ∀ s c f, g (State.modScore s c f) = g s)
    (hc : ∀ s c f, g (State.modCore s c f) = g s) (s : State) (un : UnitSt) : g (countRecv s un) = g s := by
  unfold countRecv
  split
  · exact hs _ _ _
  · exact hc _ _ _

theorem countRecv_units (s : State) (un : UnitSt) : (countRecv s un).units = s.units :=
  countRecv_keeps State.units (fun _ _ _ => rfl) (fun _ _ _ => rfl) s un

theorem countRecv_mem (s : State) (un : UnitSt) : (countRecv s un).mem = s.mem :=
  countRecv_keeps State.mem (fun _ _ _ => rfl) (fun _ _ _ => rfl) s un

/-! Bytes written at the slices -/

theorem backed_eq_filter (s : State) (ws : List (Nat × Byte)) : backed s ws = ws.filter (fun w => !unbackedAt s w.1) := by
  unfold backed
  split
  · rename_i h
    exact (List.filter_eq_self.2 fun w _ => by simp [unbackedAt, h]).symm
  · rfl

/-- The last byte written at an address, among those that the host does not lose. -/
theorem find?_backed (s : State) (ws : List (Nat × Byte)) (a : Nat) : (backed s ws).reverse.find? (fun w => w.1 == a) =
    if unbackedAt s a then none else ws.reverse.find? (fun w => w.1 == a) := by
  rw [backed_eq_filter, ← List.filter_reverse, List.find?_filter]
  split
  · rename_i h
    refine List.find?_eq_none.2 fun w _ hw => ?_
    obtain ⟨hb, rfl⟩ : unbackedAt s w.1 = false ∧ w.1 = a := by simpa using hw
    simp [h] at hb
  · rename_i h
    congr
    funext w
    by_cases e : w.1 = a <;> simp [e, h]

/-- What the slices hold after a write: the last byte written at an address, where the host does not lose it (R261). -/
theorem rd8_sliceWrite (s : State) (ws : List (Nat × Byte)) (a : Nat) : rd8 (sliceWrite s ws) a =
    if unbackedAt s a then rd8 s a else ((ws.reverse.find? (fun w => w.1 == a)).map (·.2)).getD (rd8 s a) := by
  rw [rd8, mem_sliceWrite, mem_poke, get_foldl_set, find?_backed]
  split <;> rfl

/-- A byte to which a write gives one value. -/
theorem rd8_sliceWrite_of_mem {ws : List (Nat × Byte)} {a : Nat} {x : Byte} (h : (a, x) ∈ ws) (hx : ∀ w ∈ ws, w.1 = a → w.2 = x)
    (hb : unbackedAt s a = false) : rd8 (sliceWrite s ws) a = x := by
  have hf : (a, x) ∈ backed s ws := by simp [backed_eq_filter, h, hb]
  rw [rd8, mem_sliceWrite, mem_poke]
  exact get_foldl_set_of_mem _ hf fun w hw => hx w (List.mem_of_mem_filter (backed_eq_filter s ws ▸ hw))

/-- A byte that a write does not name. -/
theorem rd8_sliceWrite_of_forall_ne {ws : List (Nat × Byte)} {a : Nat} (h : ∀ w ∈ ws, w.1 ≠ a) : rd8 (sliceWrite s ws) a = rd8 s a := by
  rw [rd8, mem_sliceWrite, mem_poke]
  exact get_foldl_set_of_forall_ne _ fun w hw => h w (List.mem_of_mem_filter (backed_eq_filter s ws ▸ hw))

end Sys2Proof.Safety
end

section
/-! What the events of units, cells and cores deliver (O29). -/

open Sys2Proof Sys2Proof.Machine
namespace Sys2Proof.Safety

variable {s t : State} {un : UnitSt} {ctx va cell u : Nat}

/-! Starting walks -/

/-- What starting walks keeps of a cell: its L2 TLB, and which walks it has been asked for. -/
def askedWalks (c : Cell) : List Tlb × List (Nat × Nat) := (c.l2tlb, c.walks.map (fun w => (w.ctx, w.va)))

/-- Starting the walks of a cell plans events and marks the walks; each step keeps the rest. -/
theorem startWalks_keeps {α : Type} (g : State → α) (h : ∀ s (f : Cell → Cell) ctx va, (∀ c, askedWalks (f c) = askedWalks c) →
    g ((s.modCell cell f).laterFree (.pageWalk cell ctx va)) = g s) : g (startWalks s cell) = g s := by
  unfold startWalks
  refine foldl_keeps _ g (fun s w => h s _ _ _ fun c => ?_) _ s
  simp only [askedWalks, List.map_map, Prod.mk.injEq, true_and]
  refine List.map_congr_left fun x _ => ?_
  simp only [Function.comp]
  split <;> rfl

theorem startWalks_mem (s : State) (cell : Nat) : (startWalks s cell).mem = s.mem := startWalks_keeps State.mem fun _ _ _ _ _ => rfl

theorem startWalks_units (s : State) (cell : Nat) : (startWalks s cell).units = s.units := startWalks_keeps State.units fun _ _ _ _ _ => rfl

theorem askedWalks_startWalks (s : State) (cell : Nat) : askedWalks ((startWalks s cell).cell cell) = askedWalks (s.cell cell) :=
  startWalks_keeps (fun s => askedWalks (s.cell cell)) fun s f _ _ hf => by
    rw [State.cell_laterFree, State.cell_modCell_self, hf]

theorem any_walks (c : Cell) (ctx va : Nat) :
    c.walks.any (fun w => w.ctx == ctx && w.va == va) = (askedWalks c).2.any (fun w => w.1 == ctx && w.2 == va) := by
  rw [askedWalks, List.any_map]
  rfl

/-- A walk that its cell has not been asked for is not asked for when others start. -/
theorem startWalks_any (h : (s.cell cell).walks.any (fun w => w.ctx == ctx && w.va == va) = false) :
    ((startWalks s cell).cell cell).walks.any (fun w => w.ctx == ctx && w.va == va) = false := by
  rw [any_walks] at h ⊢
  rw [askedWalks_startWalks, h]

theorem startWalks_l2tlb (s : State) (cell : Nat) : ((startWalks s cell).cell cell).l2tlb = (s.cell cell).l2tlb :=
  congrArg Prod.fst (askedWalks_startWalks s cell)

/-! The end of a walk -/

/-- The state once a walk has been counted and taken off its cell's list. -/
def walkEnded (s : State) (cell ctx va : Nat) : State :=
  { obtainWalk s ctx va with mgmt := { s.mgmt with walks := s.mgmt.walks + 1 } }.modCell cell
    (fun c => { c with walks := c.walks.filter (fun w => !(w.ctx == ctx && w.va == va)) })

theorem walkEnded_mem : (walkEnded s cell ctx va).mem = s.mem :=
  (congrArg State.mem (besideLines_obtainWalk s ctx va) :)

theorem walkEnded_units : (walkEnded s cell ctx va).units = s.units :=
  (congrArg State.units (besideLines_obtainWalk s ctx va) :)

theorem walkEnded_cell : (walkEnded s cell ctx va).cell cell =
    { s.cell cell with walks := (s.cell cell).walks.filter (fun w => !(w.ctx == ctx && w.va == va)) } := by
  have h : (obtainWalk s ctx va).cell cell = s.cell cell :=
    (congrArg (fun s => State.cell s cell) (besideLines_obtainWalk s ctx va) :)
  rw [walkEnded, State.cell_modCell_self, ← h]
  rfl

theorem walkEnded_any : ((walkEnded s cell ctx va).cell cell).walks.any (fun w => w.ctx == ctx && w.va == va) = false := by
  rw [walkEnded_cell, List.any_eq_false]
  intro w hw
  simpa only [Bool.not_eq_true', Bool.not_eq_true] using (List.mem_filter.1 hw).2

theorem walk_walkEnded : walk (walkEnded s cell ctx va) ctx va = walk s ctx va :=
  walk_congr walkEnded_mem rfl rfl (congrArg State.ctxs (besideLines_obtainWalk s ctx va) :)

/-- A unit that waits for a piece of memory in the cell learns how its walk failed. -/
def learnFailure (cell ctx va cause : Nat) (refused : Bool) (un : UnitSt) : UnitSt :=
  if un.cell == cell && un.at_.ctx == ctx then
    { un with entries := un.entries.map (fun (x : Nat × Entry) =>
      match x.2 with
      | .split sp =>
        match sp.wait with
        | some w => if w.forPage va then (x.1, .split { sp with walked := (va, cause, refused) :: sp.walked }) else x
        | none => x
      | .join _ => x) }
  else un

theorem execPageWalk_leaf {p : Tlb} (hw : (s.cell cell).walks.any (fun w => w.ctx == ctx && w.va == va) = true)
    (hp : walk s ctx va = .leaf p) :
    execPageWalk cell ctx va s = .next (startWalks
      ((walkEnded s cell ctx va).modCell cell (fun c => { c with l2tlb := enterTlb 4096 p c.l2tlb })) cell) := by
  have h := walk_walkEnded (s := s) (cell := cell) (ctx := ctx) (va := va)
  rw [hp, walkEnded] at h
  simp only [execPageWalk, hw, h]
  rfl

theorem execPageWalk_fail {cause : Nat} {refused : Bool} (hw : (s.cell cell).walks.any (fun w => w.ctx == ctx && w.va == va) = true)
    (hp : walk s ctx va = .fail cause refused) :
    execPageWalk cell ctx va s = .next (startWalks
      ((walkEnded s cell ctx va).mapUnits (fun _ => learnFailure cell ctx va cause refused)) cell) := by
  have h := walk_walkEnded (s := s) (cell := cell) (ctx := ctx) (va := va)
  rw [hp, walkEnded] at h
  simp only [execPageWalk, hw, h]
  rfl

theorem mem_enterTlb_self {n : Nat} (h : 0 < n) (p : Tlb) (l : List Tlb) : p ∈ enterTlb n p l := by
  unfold enterTlb
  split
  · rename_i hc
    simpa using hc
  · obtain ⟨n, rfl⟩ := Nat.exists_eq_succ_of_ne_zero h.ne'
    simp

/-- What `learnFailure` makes of an entry. -/
def learnEntry (va cause : Nat) (refused : Bool) : Entry → Entry
  | .split sp =>
    match sp.wait with
    | some w => if w.forPage va then .split { sp with walked := (va, cause, refused) :: sp.walked } else .split sp
    | none => .split sp
  | .join j => .join j

/-- A split that waits for the piece learns the failure. -/
theorem split_learnFailure {cause : Nat} {refused : Bool} {e : Nat} {sp : Split} (hc : un.cell = cell) (hx : un.at_.ctx = ctx)
    (hs : un.split? e = some sp) (hw : sp.wait = some (.walk [va])) :
    (learnFailure cell ctx va cause refused un).split? e = some { sp with walked := (va, cause, refused) :: sp.walked } := by
  have he : Tab.find? un.entries e = some (.split sp) := by
    unfold UnitSt.split? at hs
    split at hs
    · cases hs
      assumption
    · cases hs
  have hm : (learnFailure cell ctx va cause refused un).entries =
      un.entries.map (fun x => (x.1, learnEntry va cause refused x.2)) := by
    simp only [learnFailure, hc, hx, BEq.rfl, Bool.and_self, if_true]
    refine List.map_congr_left fun x _ => ?_
    obtain ⟨k, sp | j⟩ := x
    · cases h : sp.wait with
      | none => simp [learnEntry, h]
      | some w =>
        simp only [learnEntry, h]
        split <;> rfl
    · rfl
  have hf : learnEntry va cause refused (.split sp) = .split { sp with walked := (va, cause, refused) :: sp.walked } := by
    simp [learnEntry, hw, Wait.forPage]
  rw [UnitSt.split?, hm, find?_map_val un.entries (fun _ => learnEntry va cause refused), he]
  simp only [Option.map_some, hf]

theorem pageWalkEnds : Sys2Proof.Claims.PageWalkEnds := by
  refine ⟨fun s cell ctx va p hw hp => ⟨_, execPageWalk_leaf hw hp, ?_, ?_, ?_, ?_⟩,
    fun s cell ctx va cause refused hw hp => ⟨_, execPageWalk_fail hw hp, ?_, ?_, ?_, ?_⟩⟩
  · rw [startWalks_l2tlb, State.cell_modCell_self]
    exact mem_enterTlb_self (by decide) _ _
  · refine startWalks_any ?_
    rw [State.cell_modCell_self]
    exact walkEnded_any
  · exact (startWalks_mem _ _).trans (walkEnded_mem (cell := cell))
  · exact (startWalks_units _ _).trans (walkEnded_units (cell := cell))
  · rw [startWalks_l2tlb, State.cell_mapUnits, walkEnded_cell]
  · refine startWalks_any ?_
    rw [State.cell_mapUnits]
    exact walkEnded_any
  · exact (startWalks_mem _ _).trans (walkEnded_mem (cell := cell))
  · intro u un e sp hu hc hx hs hwait
    refine ⟨learnFailure cell ctx va cause refused un, _, ?_, split_learnFailure hc hx hs hwait, rfl⟩
    have hu' : (walkEnded s cell ctx va).unit? u = some un := by rw [State.unit?, walkEnded_units]; exact hu
    rw [State.unit?, startWalks_units, ← State.unit?, unit_mapUnits, hu']
    rfl

/-! The window of the load limit -/

theorem loadLimit : Sys2Proof.Claims.LoadLimit := by
  intro s core h
  refine ⟨_, congrArg Host.Outcome.next (if_pos h), ?_⟩
  simp only [State.core_modCore_self, newLimit, true_and]
  refine ⟨fun h1 h2 => ?_, fun h1 h2 => ?_, fun h1 h2 => ?_, fun h1 h2 => ?_⟩
  · rw [if_pos h1, if_pos h2]
  · rw [if_pos h1, if_neg (by omega)]
  · rw [if_neg h1, if_pos h2]
  · rw [if_neg h1, if_neg h2]

/-! Remote fills -/

theorem execRemoteFill_deliver {r : Operand} {vals : List Word} (hu : s.unit? u = some un) (he : feOf un r = .empty)
    (hf : (heldFills s un).any (fun m => decide (m.u = u) && decide (m.r = r)) = false) :
    execRemoteFill u r vals s = .next (deliverFill s u un ⟨u, r, vals⟩) := by
  simp [execRemoteFill, offerFill, hu, he, hf]

/-- A fill that does not find its register empty is held behind those held before it. -/
theorem execRemoteFill_hold {r : Operand} {vals : List Word} (hu : s.unit? u = some un) (he : feOf un r ≠ .empty) :
    execRemoteFill u r vals s = .next (setFills s un (heldFills s un ++ [⟨u, r, vals⟩])) := by
  simp [execRemoteFill, offerFill, hu, he]

theorem remoteFillDelivered : Sys2Proof.Claims.RemoteFillDelivered := by
  refine ⟨?_, ?_, ?_, ?_⟩
  · intro s u un n vals hu he hs hl hf
    have hd := execRemoteFill_deliver (vals := vals) hu he (by rw [heldFills, hs]; exact hf)
    rw [deliverFill, writeOp_v hu n hl] at hd
    refine ⟨_, _, hd, ?_, ?_, feOf_writeV un n _ _, fun l h => readV_writeV h un _⟩
    · rw [countRecv_mem]
      exact clearVreg_keeps State.mem (fun _ _ => rfl) ..
    · rw [State.unit?, countRecv_units]
      exact (clearVreg_keeps (fun s => s.unit? u) (fun _ _ => rfl) ..).trans (State.unit_putUnit_self ..)
  · intro s u un n vals hu he hs hl hf
    have hd := execRemoteFill_deliver (vals := vals) hu he (by rw [heldFills, hs]; exact hf)
    have hv : vals.getD 0 0 = vals.headD 0 := by cases vals <;> rfl
    rw [deliverFill, writeOp_s hu n (ne_zero_of_mem_lanesOf hl), lowLane_of_zero_mem hl, ite_self, hv] at hd
    refine ⟨_, writeS un n.val (vals.headD 0), hd, ?_, ?_, feOf_writeS un n _, readS_writeS ..⟩
    · rw [countRecv_mem]
      rfl
    · rw [State.unit?, countRecv_units]
      exact State.unit_putUnit_self ..
  · intro s u un r vals hu hs he
    refine ⟨_, execRemoteFill_hold hu he, ?_, ?_⟩ <;> simp [setFills, heldFills, hs]
  · intro s u un r vals hu hs he
    refine ⟨_, execRemoteFill_hold hu he, ?_, ?_⟩ <;> simp [setFills, heldFills, hs]

/-! Result queues -/

/-- The one record that waits comes in when it fits. -/
theorem takeRecords_fits {r : Nat} {rec : ResRec} (hw : un.eng.waiting = [(r, rec)])
    (h : (resultQ un r).length + rec.words.length ≤ 64) :
    resultQ (takeRecords un r) r = resultQ un r ++ rec.words ∧ (takeRecords un r).eng.waiting = [] := by
  simp only [resultQ, resultRecs, List.length_flatMap] at h
  simp [takeRecords, hw, h, resultQ, resultRecs]

theorem takeRecords_waits {r : Nat} {rec : ResRec} (hw : un.eng.waiting = [(r, rec)])
    (h : 64 < (resultQ un r).length + rec.words.length) :
    resultQ (takeRecords un r) r = resultQ un r ∧ (takeRecords un r).eng.waiting = [(r, rec)] := by
  simp only [resultQ, resultRecs, List.length_flatMap] at h
  simp [takeRecords, hw, Nat.not_le.2 h, resultQ, resultRecs]

theorem execResultRecordAppend_eq {r : Nat} (hu : s.unit? u = some un) (h : ∀ x ∈ un.splits, ∀ t n, x.2.wait ≠ some (.sleep t n true)) :
    execResultRecordAppend u r s = .next (s.putUnit u (takeRecords un r)) := by
  simp only [execResultRecordAppend, hu]
  rw [wakeSleepers_of_forall_ne (un := takeRecords un r) (State.unit_putUnit_self ..) h, ite_self]

theorem resultRecords : Sys2Proof.Claims.ResultRecords := fun _ _ un r _ hu hw hs =>
  ⟨_, takeRecords un r, execResultRecordAppend_eq hu hs, State.unit_putUnit_self .., rfl, takeRecords_fits hw, takeRecords_waits hw⟩

/-- Settles O29: each of the four events answers the next state that its rules give. -/
theorem unitEvents : Obligations.UnitEvents := ⟨pageWalkEnds, remoteFillDelivered, resultRecords, loadLimit⟩

end Sys2Proof.Safety
end

section
/-! Messages that arrive at slices, ports, clusters and cores (O31). -/

open Sys2Proof Sys2Proof.Machine
namespace Sys2Proof.Safety

variable {s t : State} {un : UnitSt} {u : Nat}

/-! One entry of a table replaced -/

theorem del_eq_filter {α : Type} (m : Tab α) (k : Nat) : Tab.del m k = m.filter (fun e => decide (e.1 ≠ k)) := by
  induction m with
  | nil => rfl
  | cons e m ih =>
    by_cases h : e.1 = k <;> simp [Tab.del, h, ih]

theorem ins_perm {α : Type} (m : Tab α) (k : Nat) (v : α) : (Tab.ins m k v).Perm ((k, v) :: m) := by
  induction m with
  | nil => exact .refl _
  | cons e m ih =>
    unfold Tab.ins
    split
    · exact .refl _
    · exact (ih.cons e).trans (.swap ..)

/-- Where no two entries agree in f, the one with a given value of f is found. -/
theorem find?_of_nodup_map {α β : Type} [DecidableEq β] {f : α → β} {l : List α} {x : α} (hn : (l.map f).Nodup) (hx : x ∈ l) :
    l.find? (fun e => decide (f e = f x)) = some x := by
  cases h : l.find? (fun e => decide (f e = f x)) with
  | none => simpa using List.find?_eq_none.1 h x hx
  | some y => rw [List.inj_on_of_nodup_map hn (List.mem_of_find?_eq_some h) hx (by simpa using List.find?_some h)]

/-- An entry replaced by one of the same f is found where it was, and still no two entries agree in f. -/
theorem put_find?_map {α β : Type} [DecidableEq β] {f : α → β} {m : Tab α} {k : Nat} {v v' : α} (hn : (m.map (fun e => f e.2)).Nodup)
    (h : (k, v) ∈ m) (hv : f v' = f v) : ((Tab.put m k v').map (fun e => f e.2)).Nodup ∧
      List.find? (fun e => decide (f e.2 = f v)) (Tab.put m k v') = some (k, v') := by
  have hp : (Tab.put m k v').Perm ((k, v') :: m.filter (fun e => decide (e.1 ≠ k))) := del_eq_filter m k ▸ ins_perm _ k v'
  have hd : ((Tab.put m k v').map (fun e => f e.2)).Nodup := by
    rw [(hp.map _).nodup_iff, List.map_cons, List.nodup_cons]
    refine ⟨fun hm => ?_, hn.sublist (List.filter_sublist.map _)⟩
    obtain ⟨e, he, hf⟩ := List.mem_map.1 hm
    obtain ⟨he, hk⟩ := List.mem_filter.1 he
    have : e = (k, v) := List.inj_on_of_nodup_map hn he h (hf.trans hv)
    simp [this] at hk
  refine ⟨hd, ?_⟩
  rw [← hv]
  exact find?_of_nodup_map (f := fun e : Nat × α => f e.2) (x := (k, v')) hd (hp.mem_iff.2 (by simp))

/-! The copy whose bytes have been sent -/

/-- A core holds one copy of each line, and that of a line, at a key, is clean. -/
def CleanCopy (core line key : Nat) (s : State) : Prop :=
  ((s.core core).ci.lines.map (·.2.line)).Nodup ∧ ∃ l, cacFind (s.core core) line = some (key, l) ∧ l.dirty = []

variable {core line key : Nat}

theorem CleanCopy.congr (h : CleanCopy core line key s) (e : t.cores = s.cores) : CleanCopy core line key t := by
  rw [CleanCopy, State.core, e]
  exact h

/-- A copy is replaced by a clean one of its line. -/
theorem CleanCopy.put {l l' : CacLine} (hn : ((s.core core).ci.lines.map (·.2.line)).Nodup) (h : cacFind (s.core core) line = some (key, l))
    (hl : l'.line = l.line) (hd : l'.dirty = []) :
    CleanCopy core line key (s.modCi core (fun ci => { ci with lines := Tab.put ci.lines key l' })) := by
  have hm : (key, l) ∈ (s.core core).ci.lines := List.mem_of_find?_eq_some h
  have hline : l.line = line := by simpa using List.find?_some h
  obtain ⟨hn', hf⟩ := put_find?_map (f := CacLine.line) hn hm hl
  rw [CleanCopy, State.core_modCi_self, cacFind, ← hline]
  exact ⟨hn', l', hf, hd⟩

theorem CleanCopy.updateHomed {ws : List (Nat × Byte)} (h : CleanCopy core line key s) (hw : ∀ w ∈ ws, w.1 / 128 = line) :
    CleanCopy core line key (updateHomed s ws) := by
  unfold Machine.updateHomed
  refine List.foldlRecOn (motive := CleanCopy core line key) ws _ h fun s h w hmem => ?_
  dsimp only
  split
  · exact h
  · rename_i k hk
    split
    · exact h
    · rename_i key' l hl
      split
      · exact h
      · by_cases hc : homeCore s w.1 = core
        · have hcore : s.core core = k := by rw [State.core, Tab.get, ← hc, hk]; rfl
          obtain ⟨hn, l', hf, hd⟩ := h
          rw [hw w hmem, ← hcore] at hl
          obtain ⟨rfl, rfl⟩ : key' = key ∧ l = l' := by simpa using hl.symm.trans hf
          rw [hc]
          exact .put hn hf rfl hd
        · rw [CleanCopy, State.core_modCi_ne _ _ (Ne.symm hc)]
          exact h

theorem cores_obtainWrite (s : State) (pa : Nat) : (obtainWrite s pa).cores = s.cores := by
  unfold obtainWrite
  split
  · dsimp only
    split
    · rfl
    · unfold reach
      split <;> rfl
  · rfl

theorem cores_clearPoison (s : State) (ws : List (Nat × Byte)) : (clearPoison s ws).cores = s.cores := by
  unfold clearPoison
  dsimp only
  split <;> split <;> rfl

/-- A write to a line leaves its clean copy clean, the one that its slice keeps current among them. -/
theorem CleanCopy.sliceWrite {ws : List (Nat × Byte)} (h : CleanCopy core line key s) (hw : ∀ w ∈ ws, w.1 / 128 = line) :
    CleanCopy core line key (sliceWrite s ws) := by
  refine CleanCopy.congr ?_ (plan_keeps State.cores (fun _ _ => rfl) _ _)
  have hb : ∀ w ∈ backed s ws, w.1 / 128 = line := fun w hm => hw w (List.mem_of_mem_filter (backed_eq_filter s ws ▸ hm))
  refine CleanCopy.updateHomed (ws := backed s ws) (h.congr ?_) hb
  rw [cores_clearPoison, foldl_keeps _ State.cores fun s l => cores_obtainWrite s (128 * l)]

theorem cacSend_dirty {l : CacLine} (h : cacFind (s.core core) line = some (key, l)) (hd : l.dirty ≠ []) : cacSend s core line =
    Machine.sliceWrite (s.modCi core (fun ci => { ci with lines := Tab.put ci.lines key { l with dirty := [] } }))
      (l.dirty.map (fun e => (128 * line + e.1, Tab.get 0 l.data e.1))) := by
  simp [cacSend, h, hd]

theorem dirtyBytesSent : Sys2Proof.Claims.DirtyBytesSent := by
  intro s core line key l h hd _ hn hlt hb
  refine ⟨_, congrArg Host.Outcome.next (cacSend_dirty h hd), fun i hi => ?_, fun a ha => ?_, ?_⟩
  · split
    · rename_i hm
      obtain ⟨e, he, rfl⟩ := List.mem_map.1 hm
      refine rd8_sliceWrite_of_mem (List.mem_map_of_mem he) (fun w hw hk => ?_) (hb e he)
      obtain ⟨e', _, rfl⟩ := List.mem_map.1 hw
      rw [show e'.1 = e.1 by simpa using hk]
    · rename_i hm
      refine rd8_sliceWrite_of_forall_ne fun w hw hk => hm ?_
      obtain ⟨e, he, rfl⟩ := List.mem_map.1 hw
      exact List.mem_map.2 ⟨e, he, by simpa using hk⟩
  · refine rd8_sliceWrite_of_forall_ne fun w hw hk => ?_
    obtain ⟨e, he, rfl⟩ := List.mem_map.1 hw
    have := hlt e he
    simp only at hk
    omega
  · have hc := CleanCopy.put (l' := { l with dirty := [] }) hn h rfl rfl
    refine (hc.sliceWrite fun w hw => ?_).2
    obtain ⟨e, he, rfl⟩ := List.mem_map.1 hw
    have := hlt e he
    simp only
    omega

/-! Ports -/

theorem portAt_of_unit (hu : s.unit? u = some un) (r : Nat) : portAt s u r = portOf un r := by rw [portAt, hu]

theorem portAt_setPort (hu : s.unit? u = some un) (r v q : Nat) (p : Port) :
    portAt (setPort s u r p) v q = if v = u ∧ q = r then p else portAt s v q := by
  by_cases hv : v = u
  · subst hv
    rw [portAt, setPort, State.unit_modUnit_self, hu, portAt, hu]
    simp [portOf, Tab.get_set]
  · rw [portAt, setPort, State.unit_modUnit_ne _ _ hv]
    simp [hv, portAt]

/-- A port written leaves the units and their splits in place. -/
theorem unit_setPort {v : Nat} (hv : s.unit? v = some un) (u r : Nat) (p : Port) :
    ∃ x, (setPort s u r p).unit? v = some x ∧ x.splits = un.splits := by
  rw [setPort, State.unit_modUnit]
  split
  · rename_i h
    rw [← h, hv]
    exact ⟨_, rfl, rfl⟩
  · exact ⟨un, hv, rfl⟩

/-- A receive port that a word has reached. -/
def filled (p : Port) (w : Word) : Port := { p with word := some w, closing := p.closing && p.peer != some (deadPeer, 0) }

/-- A word put into receive register r of u, and the buffer of its sender, register q of v, emptied. -/
def wordMoved (s : State) (u r v q : Nat) (w : Word) : State :=
  let s := setPort s u r (filled (portAt s u r) w)
  setPort s v q { portAt s v q with sent := none }

section

variable {v q pair : Nat} {w : Word} {x : UnitSt} (hu : s.unit? u = some un) (hv : s.unit? v = some x)
  (hp : (portOf un (2 * pair)).peer = some (v, q)) (hq : (portOf x q).peer = some (u, 2 * pair))

include hu hv hp hq

/-- The sender's register is bound to the receiver's also when they are one register. -/
theorem peer_setPort_filled : (portAt (setPort s u (2 * pair) (filled (portOf un (2 * pair)) w)) v q).peer = some (u, 2 * pair) := by
  rw [portAt_setPort hu]
  split
  · rename_i h
    obtain ⟨rfl, rfl⟩ := h
    exact hp
  · rw [portAt_of_unit hv, hq]

theorem execPortWordArrival_bound (hw : (portOf un (2 * pair)).word = none) (hs : ∀ y ∈ un.splits, ∀ t n, y.2.wait ≠ some (.sleep t n true)) :
    execPortWordArrival u pair w s = .next (countRecv (wordMoved s u (2 * pair) v q w) un) := by
  have hwake : wakeSleepers (countRecv (wordMoved s u (2 * pair) v q w) un) u = countRecv (wordMoved s u (2 * pair) v q w) un := by
    obtain ⟨y, hy, hys⟩ := unit_setPort hu u (2 * pair) (filled (portAt s u (2 * pair)) w)
    obtain ⟨z, hz, hzs⟩ := unit_setPort hy v q { portAt (setPort s u (2 * pair) (filled (portAt s u (2 * pair)) w)) v q with sent := none }
    refine wakeSleepers_of_forall_ne (un := z) ?_ (by rwa [hzs, hys])
    rw [State.unit?, countRecv_units]
    exact hz
  have hpeer := peer_setPort_filled (w := w) hu hv hp hq
  unfold filled at hpeer
  unfold execPortWordArrival
  rw [hu]
  dsimp only
  split
  · rename_i hn
    rw [hp] at hn
    cases hn
  · rename_i v' q' hp'
    obtain ⟨rfl, rfl⟩ : v = v' ∧ q = q' := by simpa [hp] using hp'
    rw [if_neg (by simp [hw]), if_pos hpeer]
    rw [wordMoved, portAt_of_unit hu] at hwake ⊢
    exact congrArg Host.Outcome.next ((ite_congr rfl (fun _ => hwake) fun _ => rfl).trans (ite_self _))

/-- The receiver holds the word and its binding, and the sender's buffer is empty. -/
theorem ports_wordMoved : (portAt (wordMoved s u (2 * pair) v q w) u (2 * pair)).word = some w ∧
    (portAt (wordMoved s u (2 * pair) v q w) u (2 * pair)).peer = some (v, q) ∧ (portAt (wordMoved s u (2 * pair) v q w) v q).sent = none := by
  obtain ⟨y, hy, _⟩ := unit_setPort hv u (2 * pair) (filled (portAt s u (2 * pair)) w)
  have hself : portAt (setPort s u (2 * pair) (filled (portAt s u (2 * pair)) w)) u (2 * pair) = filled (portAt s u (2 * pair)) w := by
    rw [portAt_setPort hu, if_pos ⟨rfl, rfl⟩]
  have hpeer : (filled (portAt s u (2 * pair)) w).peer = some (v, q) := by rw [portAt_of_unit hu]; exact hp
  rw [wordMoved, portAt_setPort hy, portAt_setPort hy, if_pos (c := v = v ∧ q = q) ⟨rfl, rfl⟩]
  split
  · rename_i h
    obtain ⟨rfl, rfl⟩ := h
    rw [hself]
    exact ⟨rfl, hpeer, rfl⟩
  · rw [hself]
    exact ⟨rfl, hpeer, rfl⟩

end

theorem portWords : Sys2Proof.Claims.PortWords := by
  refine ⟨fun s u v pair w un x r hu hv hp hq hw hs => ?_, fun s u pair w un z hu hp hw => ?_, fun s u pair w un hu hp => ?_⟩
  · obtain ⟨y, hy, _⟩ := unit_setPort hu u (2 * pair) (filled (portAt s u (2 * pair)) w)
    obtain ⟨y', hy', _⟩ := unit_setPort hv u (2 * pair) (filled (portAt s u (2 * pair)) w)
    obtain ⟨a, ha, _⟩ := unit_setPort hy v r { portAt (setPort s u (2 * pair) (filled (portAt s u (2 * pair)) w)) v r with sent := none }
    obtain ⟨b, hb, _⟩ := unit_setPort hy' v r { portAt (setPort s u (2 * pair) (filled (portAt s u (2 * pair)) w)) v r with sent := none }
    have hports := ports_wordMoved (w := w) hu hv hp hq
    rw [portAt_of_unit (s := wordMoved s u (2 * pair) v r w) ha, portAt_of_unit (s := wordMoved s u (2 * pair) v r w) hb] at hports
    refine ⟨_, a, b, execPortWordArrival_bound hu hv hp hq hw hs, ?_, ?_, hports.1, hports.2.1, hports.2.2, countRecv_mem _ _⟩
    · rw [State.unit?, countRecv_units]
      exact ha
    · rw [State.unit?, countRecv_units]
      exact hb
  · obtain ⟨v, q⟩ := z
    change execPortWordArrival u pair w s = _
    unfold execPortWordArrival
    rw [hu]
    dsimp only
    rw [hp]
    exact congrArg Host.Outcome.next (if_pos (Option.isSome_iff_ne_none.2 hw))
  · change execPortWordArrival u pair w s = _
    unfold execPortWordArrival
    rw [hu]
    dsimp only
    rw [hp]
    rfl

/-! Sweeps of a cluster -/

/-- The word of a rectangle that begins at the origin. -/
theorem rectOf_origin {w h : Nat} (hw : w < 16) (hh : h < 16) : rectOf (w * 256 + h * 4096) = (0, 0, w, h) := by
  simp only [rectOf, bits, Prod.mk.injEq]
  omega

/-- An arrived position whose right neighbour's message is in passes the arrival on to the left. -/
theorem sweepStep_row {cl rect p x0 y0 w h : Nat} {k : Cluster} (hc : s.cluster? cl = some k) (hr : rectOf rect = (x0, y0, w, h))
    (ha : p ∈ (sweepOf k rect).arrived) (hi : p ∈ (sweepOf k rect).rowIn) (hs : p ∉ (sweepOf k rect).rowSent) (hx : x0 < p % k.w) :
    (s.now + hopCycles s k p (p - 1), Turn.event (.barcSweepArrival cl rect (p % k.w - 1) (p / k.w) false)) ∈
      (sweepStep s cl rect p).calendar := by
  unfold sweepStep
  rw [hc]
  simp only [hr]
  rw [if_pos (by simp [ha, hi, hx]), if_neg (by simpa using hs)]
  exact State.mem_later ..

theorem execBarcSweepArrival_some {cl rect x y : Nat} {k : Cluster} (column : Bool) (hc : s.cluster? cl = some k) :
    exec (.barcSweepArrival cl rect x y column) s = .next (sweepStep
      ((s.modCore (coreAtPos s k (y * k.w + x)) (fun c => { c with recv := c.recv + 1 })).modCluster cl (fun k' => { k' with
        sweeps := Tab.put k'.sweeps rect (let z := sweepOf k' rect
          if column then { z with colIn := (y * k.w + x) :: z.colIn } else { z with rowIn := (y * k.w + x) :: z.rowIn }) }))
        cl rect (y * k.w + x)) := by
  change execBarcSweepArrival cl rect x y column s = _
  unfold execBarcSweepArrival
  rw [hc]
  rfl

theorem clusterSweeps : Sys2Proof.Claims.ClusterSweeps := by
  refine ⟨fun s cl k rect x y column hc => execBarcSweepArrival_some column hc, fun s cl k x y hc hw hh hx hxw ha hs => ?_,
    fun s cl k rect x y hc => ?_⟩
  · refine ⟨_, execBarcSweepArrival_some false hc, ?_⟩
    have hmod : (y * k.w + x) % k.w = x := by rw [Nat.mul_add_mod', Nat.mod_eq_of_lt hxw]
    have hdiv : (y * k.w + x) / k.w = y := by
      rw [Nat.mul_comm, Nat.mul_add_div (by omega), Nat.div_eq_of_lt hxw, Nat.add_zero]
    have hsweep : ∀ z : Sweep, sweepOf { k with sweeps := Tab.put k.sweeps (k.w * 256 + k.h * 4096) z } (k.w * 256 + k.h * 4096) = z :=
      fun z => by rw [sweepOf, Tab.find?_put_self]; rfl
    have hm := sweepStep_row (s := (s.modCore (coreAtPos s k (y * k.w + x)) (fun c => { c with recv := c.recv + 1 })).modCluster cl
      (fun k' => { k' with sweeps := Tab.put k'.sweeps (k.w * 256 + k.h * 4096) (let z := sweepOf k' (k.w * 256 + k.h * 4096)
        if false then { z with colIn := (y * k.w + x) :: z.colIn } else { z with rowIn := (y * k.w + x) :: z.rowIn }) }))
      (cl := cl) (p := y * k.w + x) (by rw [State.cluster?, State.modCluster, Tab.find?_modify_self]; exact congrArg _ hc)
      (rectOf_origin hw hh) (by rw [hsweep]; exact ha) (by rw [hsweep]; simp) (by rw [hsweep]; exact hs) (by simpa [hmod] using hx)
    rw [hmod, hdiv] at hm
    exact hm
  · change execBarcSweepRelease cl rect x y s = _
    unfold execBarcSweepRelease
    rw [hc]

/-! The release of a grid barrier -/

theorem besideSlices_cacSend (s : State) (c line : Nat) : besideSlices (cacSend s c line) = besideSlices s := by
  unfold cacSend
  split
  · rfl
  · split
    · rfl
    · exact besideSlices_sliceWrite _ _

theorem besideSlices_cacDrop (s : State) (c line : Nat) : besideSlices (cacDrop s c line) = besideSlices s :=
  (show besideSlices (cacDrop s c line) = besideSlices (cacSend s c line) from rfl).trans (besideSlices_cacSend s c line)

theorem besideSlices_invalidateCac (s : State) (c : Nat) : besideSlices (invalidateCac s c) = besideSlices s :=
  foldl_keeps (fun s l => cacDrop s c l) besideSlices (fun s l => besideSlices_cacDrop s c l) _ s

theorem phaseAt_eq_getD (t : Task) (core : Nat) : phaseAt t core = ((Tab.find? t.phase core).getD (0, 0)).1 := by
  unfold phaseAt
  cases Tab.find? t.phase core <;> rfl

/-- The core has taken the phase of a task's barriers and given up its CAC lines. -/
def phaseTaken (s : State) (task core : Nat) : State :=
  invalidateCac (s.modTask task (fun t => { t with phase := Tab.put t.phase core (t.barriers, s.now) })) core

theorem gridTeams_phaseTaken (s : State) (task core : Nat) : gridTeams (phaseTaken s task core) task = gridTeams s task := by
  have h := congrArg State.teams
    (besideSlices_invalidateCac (s.modTask task (fun t => { t with phase := Tab.put t.phase core (t.barriers, s.now) })) core)
  rw [gridTeams, gridTeams, show (phaseTaken s task core).teams = s.teams from h]

/-- The release at a core that has not taken it: the teams of the grid that stand there go on. -/
theorem execGridBarrierRelease_new {task core : Nat} {t : Task} (ht : s.task? task = some t) (hp : phaseAt t core < t.barriers) :
    execGridBarrierRelease task core s = .next (((gridTeams s task).filter (fun e => decide (e.2.core = core))).foldl (fun s e =>
      let s := s.modTeam e.1 (fun x => { x with gridAt := none, latch := if t.lastVote && t.barriers % 2 == 1 then none else x.latch })
      let s := releaseTeam s e.1 .gbar s.now (gridEffect t.barriers t.lastVote .gbar)
      releaseTeam s e.1 .voteg s.now (gridEffect t.barriers t.lastVote .voteg)) (phaseTaken s task core)) := by
  rw [← gridTeams_phaseTaken s task core]
  unfold execGridBarrierRelease
  rw [ht]
  exact congrArg Host.Outcome.next (if_neg (Nat.not_le.2 hp))

theorem gridRelease : Sys2Proof.Claims.GridRelease := by
  refine ⟨fun s task core t ht hp he => ?_, fun s task core t key tm ht hp he => ?_, fun s task core t ht hp => ?_⟩ <;>
    change execGridBarrierRelease task core s = _
  · rw [execGridBarrierRelease_new ht (by rwa [phaseAt_eq_getD]), he]
    rfl
  · rw [execGridBarrierRelease_new ht (by rwa [phaseAt_eq_getD]), he]
    simp only [List.foldl_cons, List.foldl_nil, Bool.and_eq_true, beq_iff_eq]
    rfl
  · unfold execGridBarrierRelease
    rw [ht]
    dsimp only
    rw [if_pos (by rwa [phaseAt_eq_getD])]

/-- Settles O31: the bytes sent are the slices' last write, and a word, an arrival or a release changes what its message says. -/
theorem messagesArrive : Obligations.MessagesArrive := ⟨dirtyBytesSent, portWords, clusterSweeps, gridRelease⟩

end Sys2Proof.Safety
end

section
/-! Accesses of a strand to global memory (O19). -/

open Sys2Proof Sys2Proof.Machine
namespace Sys2Proof.Safety

variable {s t : State} {un x : UnitSt} {u k : Nat} {o : Op}

/-! What the end of an access leaves alone: memory, and the splits and joins of its unit -/

/-- The splits and joins of a unit and the strands gathered in it. -/
def stance (un : UnitSt) : Tab Entry × Option Gather := (un.entries, un.gather)

/-- Memory, and the stance of a unit. -/
def footing (u : Nat) (s : State) : Tab Byte × Option (Tab Entry × Option Gather) := (s.mem, (s.unit? u).map stance)

theorem footing_putUnit (hu : s.unit? u = some un) (h : stance x = stance un) : footing u (s.putUnit u x) = footing u s := by
  simp [footing, hu, h]

theorem footing_modUnit {f : UnitSt → UnitSt} (h : ∀ un, stance (f un) = stance un) : footing u (s.modUnit u f) = footing u s := by
  simp [footing, Function.comp_def, h]

theorem footing_sendPort (hu : s.unit? u = some un) (n : Nat) (w : Word) : footing u (sendPort s u un n w) = footing u s := by
  unfold sendPort
  dsimp only
  split
  · rfl
  · rename_i v r hp
    have h : ∀ x, stance x = stance un → footing u (countSent (s.putUnit u x) x) = footing u s := fun x hx => by
      refine .trans ?_ (footing_putUnit hu hx)
      unfold countSent
      split <;> rfl
    split <;> exact h _ rfl

theorem footing_passCopy (hu : s.unit? u = some un) (ws : List Word) : footing u (passCopy s u un ws) = footing u s := by
  unfold passCopy
  dsimp only
  split <;> exact footing_putUnit hu (by split <;> rfl)

theorem footing_passFabric (s : State) (u : Nat) (un : UnitSt) (r : Nat) (ws : List Word) : footing u (passFabric s u un r ws) = footing u s := by
  unfold passFabric
  dsimp only
  split <;> rfl

theorem footing_pushCommand (hu : s.unit? u = some un) (r : Nat) (w : Word) : footing u (pushCommand s u un r w) = footing u s := by
  unfold pushCommand
  dsimp only
  split
  · split
    · exact (footing_passCopy (State.unit_putUnit_self ..) _).trans (footing_putUnit hu rfl)
    · exact (footing_passFabric ..).trans (footing_putUnit hu rfl)
  · exact footing_putUnit hu rfl

theorem footing_writeOp (s : State) (u : Nat) (d : Operand) (m : Mask) (f : Nat → Word) : footing u (writeOp s u d m f) = footing u s := by
  unfold writeOp
  split
  · rfl
  · split
    · rfl
    · rename_i un hu
      split
      · exact (clearVreg_keeps (footing u) (fun _ _ => rfl) _ _ _ _).trans (footing_putUnit hu rfl)
      · exact footing_putUnit hu rfl
      · exact footing_sendPort hu _ _
      · exact footing_pushCommand hu _ _
      · exact footing_putUnit hu rfl
      · rfl

theorem footing_fillDests (s : State) (u : Nat) (o : Op) (m : Mask) : footing u (fillDests s u o m) = footing u s :=
  foldl_keeps (fun s (d : Operand × Nat) => writeOp s u d.1 m (fun l => o.word l d.2)) (footing u) (fun _ _ => footing_writeOp ..) _ s

theorem stance_setFe (un : UnitSt) (d : Operand) (f : Fe) : stance (setFe un d f) = stance un := by
  unfold setFe
  split <;> rfl

theorem footing_putOp (s : State) (u k : Nat) (o : Op) : footing u (putOp s u k o) = footing u s := footing_modUnit fun _ => rfl

theorem footing_dropOp (s : State) (u k : Nat) : footing u (dropOp s u k) = footing u s := footing_modUnit fun _ => rfl

theorem footing_clearDone (s : State) (u : Nat) : footing u (clearDone s u) = footing u s := footing_modUnit fun un => by split <;> rfl

theorem footing_writeCursor (s : State) (u : Nat) (d : Operand) (n : Nat) : footing u (writeCursor s u d n) = footing u s :=
  footing_modUnit fun un => by cases d <;> rfl

theorem countReplies_keeps {α : Type} (g : State → α) (hs : ∀ s c f, g (State.modScore s c f) = g s)
    (hc : ∀ s c f, g (State.modCore s c f) = g s) (un : UnitSt) (o : Op) (s : State) : g (countReplies un o s) = g s := by
  unfold countReplies
  split
  · refine foldl_keeps _ g (fun s c => (countRecv_keeps g hs hc _ un).trans ?_) _ s
    split
    · exact hs _ _ _
    · exact hc _ _ _
  · rfl

/-! A unit that stays where it is when an access of it ends -/

/-- The unit has splits or joins, gathers no strand, and none of its splits waits at a barrier. -/
def Resting (u : Nat) (s : State) : Prop :=
  ∃ un, s.unit? u = some un ∧ un.entries ≠ [] ∧ un.gather = none ∧ ∀ e ∈ un.splits, ∀ a b d, e.2.wait ≠ some (.barrier a b d)

theorem Resting.congr (h : Resting u s) (e : (t.unit? u).map stance = (s.unit? u).map stance) : Resting u t := by
  obtain ⟨un, hu, he, hg, hw⟩ := h
  rw [hu] at e
  obtain ⟨x, hx, hs⟩ := Option.map_eq_some_iff.1 e
  obtain ⟨h1, h2⟩ : x.entries = un.entries ∧ x.gather = un.gather := by simpa [stance] using hs
  refine ⟨x, hx, h1 ▸ he, h2 ▸ hg, ?_⟩
  rw [UnitSt.splits, h1]
  exact hw

theorem finishUnit_of_resting (h : Resting u s) : finishUnit s u = s := by
  obtain ⟨un, hu, he, hg, hw⟩ := h
  have hl : retireLeaving s u = s := by simp [retireLeaving, hu, hg]
  unfold finishUnit
  rw [hl]
  dsimp only
  rw [hu]
  dsimp only
  rw [if_neg (by simp [he])]
  refine if_neg fun hb => ?_
  obtain ⟨e, hm, hx⟩ := List.any_eq_true.1 (Bool.and_eq_true_iff.1 hb).1
  split at hx
  · rename_i a b d hwait
    exact hw e hm a b d hwait
  · cases hx

/-! The end of an access without a fault -/

/-- The unit rests, and operation k of it is outstanding without a fault. -/
def Ending (u k : Nat) (o : Op) (s : State) : Prop :=
  Resting u s ∧ o.fault = none ∧ ∃ un, s.unit? u = some un ∧ Tab.find? un.ops k = some o

theorem Ending.congr (h : Ending u k o s) (e : t.units = s.units) : Ending u k o t := by
  obtain ⟨hr, hf, un, hu, ho⟩ := h
  have hun : ∀ v, t.unit? v = s.unit? v := fun v => by rw [State.unit?, State.unit?, e]
  exact ⟨hr.congr (by rw [hun]), hf, un, (hun u).trans hu, ho⟩

theorem Resting.dropOp (h : Resting u s) (k : Nat) : Resting u (dropOp s u k) := h.congr (congrArg Prod.snd (footing_dropOp s u k))

/-- What leaves the unit, but for the cursor and ctl.donemask of CMPST and EXPLD. -/
theorem endOp_eq_dropOp (h : Ending u k o s) (hc : ∀ y, o.instr ≠ .cmpst y) (he : ∀ y, o.instr ≠ .expld y) :
    endOp s u k = dropOp s u k := by
  obtain ⟨hr, hf, un, hu, ho⟩ := h
  unfold endOp
  rw [hu]
  dsimp only
  rw [ho]
  dsimp only
  rw [hf]
  dsimp only
  split
  · exact absurd ‹_› (hc _)
  · exact absurd ‹_› (he _)
  · exact finishUnit_of_resting (hr.dropOp k)

theorem mem_endOp (h : Ending u k o s) : (endOp s u k).mem = s.mem := by
  obtain ⟨hr, hf, un, hu, ho⟩ := h
  have hcur (d : Operand) (n : Nat) : footing u (Machine.dropOp (clearDone (writeCursor s u d n) u) u k) = footing u s := by
    rw [footing_dropOp, footing_clearDone, footing_writeCursor]
  have hmem (d : Operand) (n : Nat) : (finishUnit (Machine.dropOp (clearDone (writeCursor s u d n) u) u k) u).mem = s.mem := by
    rw [finishUnit_of_resting (hr.congr (congrArg Prod.snd (hcur d n)))]
    exact congrArg Prod.fst (hcur d n)
  unfold endOp
  rw [hu]
  dsimp only
  rw [ho]
  dsimp only
  rw [hf]
  dsimp only
  split
  · exact hmem _ _
  · exact hmem _ _
  · rw [finishUnit_of_resting (hr.dropOp k)]
    rfl

/-! The way of an access of a strand to its performance -/

/-- The errors that a read corrects and their counters, erased. -/
def besideErrors (s : State) : State := { s with latent := [], mgmt := { s.mgmt with corrected := [] } }

theorem besideErrors_correctPlaces (s : State) (o : Op) : besideErrors (correctPlaces s o) = besideErrors s := by
  unfold correctPlaces correctWords
  split
  · rfl
  · refine (foldl_keeps _ besideErrors (fun s e => ?_) _ _).trans rfl
    cases e with
    | memory pa =>
      dsimp only
      split <;> rfl
    | _ => rfl

theorem units_correctPlaces (s : State) (o : Op) : (correctPlaces s o).units = s.units := by
  have h := congrArg State.units (besideErrors_correctPlaces s o)
  exact h

theorem mem_correctPlaces (s : State) (o : Op) : (correctPlaces s o).mem = s.mem := by
  have h := congrArg State.mem (besideErrors_correctPlaces s o)
  exact h

theorem unbackedAt_correctPlaces (s : State) (o : Op) (a : Nat) : unbackedAt (correctPlaces s o) a = unbackedAt s a := by
  have hi := congrArg (fun s => s.mgmt.ident) (besideErrors_correctPlaces s o)
  have hb := congrArg State.unbacked (besideErrors_correctPlaces s o)
  unfold unbackedAt
  rw [tierOf_congr (t := correctPlaces s o) (s := s) hi, show (correctPlaces s o).unbacked = s.unbacked from hb]

theorem performs_ending (h : Sys2Proof.Claims.Performs s u k un o) : Ending u k o s := by
  obtain ⟨hu, ho, _, he, hg, hw, _, _, _, _, hf⟩ := h
  exact ⟨⟨un, hu, he, hg, hw⟩, hf, un, hu, ho⟩

theorem advanceOp_performs (h : Sys2Proof.Claims.Performs s u k un o) : advanceOp s u k un o = performAccess s u k un o := by
  obtain ⟨_, _, hst, _, _, _, hslot, _, hstage, hwait, _⟩ := h
  have hrows : opRows s un o = [] := by
    unfold opRows
    split
    · rw [if_pos hst]
    · rfl
  unfold advanceOp
  rw [hstage]
  simp only
  rw [hwait, if_neg Bool.false_ne_true, withSlots, hslot]
  exact if_pos hrows

theorem exec_storeCompletion_performs (h : Sys2Proof.Claims.Performs s u k un o) :
    exec (.storeCompletion u k) s = .next (performAccess s u k un o) := by
  obtain ⟨hu, ho, _, _, _, _, _, hm, _⟩ := id h
  change execStoreCompletion u k s = _
  unfold execStoreCompletion
  rw [hu]
  dsimp only
  rw [ho]
  dsimp only
  rw [if_pos hm, advanceOp_performs h]

theorem exec_producerCompletion_performs (h : Sys2Proof.Claims.Performs s u k un o) :
    exec (.producerCompletion u k) s = .next (performAccess s u k un o) := by
  obtain ⟨hu, ho, _, _, _, _, _, hm, _⟩ := id h
  change execProducerCompletion u k s = _
  unfold execProducerCompletion
  rw [hu]
  dsimp only
  rw [ho]
  dsimp only
  rw [if_pos hm, advanceOp_performs h]

theorem commitDone_of_fault_none (s : State) (u : Nat) (h : o.fault = none) : commitDone s u o = s := by
  unfold commitDone
  rw [h]
  split
  · cases ‹none = some _›
  · cases ‹none = some _›
  · rfl

theorem countReplies_units (un : UnitSt) (o : Op) (s : State) : (countReplies un o s).units = s.units :=
  countReplies_keeps State.units (fun _ _ _ => rfl) (fun _ _ _ => rfl) un o s

theorem countReplies_mem (un : UnitSt) (o : Op) (s : State) : (countReplies un o s).mem = s.mem :=
  countReplies_keeps State.mem (fun _ _ _ => rfl) (fun _ _ _ => rfl) un o s

theorem sliceWrite_units (s : State) (ws : List (Nat × Byte)) : (sliceWrite s ws).units = s.units := by
  have h := congrArg State.units (besideSlices_sliceWrite s ws)
  exact h

theorem rd8_congr (h : t.mem = s.mem) (a : Nat) : rd8 t a = rd8 s a := by rw [rd8, rd8, h]

theorem rdBytes_congr (h : t.mem = s.mem) (pa n : Nat) : rdBytes t pa n = rdBytes s pa n :=
  List.map_congr_left fun _ _ => rd8_congr h _

/-! A store -/

/-- The bytes a store writes in global memory, in ascending lane order. -/
def globalBytes (o : Op) (sh : Shape) : List (Nat × Byte) :=
  o.place.flatMap (fun (e : Nat × Place) => (storeBytes sh.ty sh.sat (o.words e.1 4)).zipIdx.map (fun b => (e.2.code + b.2, b.1)))

theorem filterMap_storedBytes {sh : Shape} {f : Place × Byte → Option (Nat × Byte)} (hg : ∀ e ∈ o.place, ∃ pa, e.2 = .glob pa)
    (hf : ∀ pa b, f (.glob pa, b) = some (pa, b)) : (storedBytes o sh).filterMap f = globalBytes o sh := by
  rw [storedBytes, globalBytes, List.filterMap_flatMap]
  refine List.flatMap_congr fun e he => ?_
  obtain ⟨pa, hpa⟩ := hg e he
  rw [hpa, placeRun, List.filterMap_map, ← List.filterMap_eq_map]
  exact List.filterMap_congr fun b _ => hf _ _

theorem wrPlaces_keeps {α : Type} (g : State → α) (hl : ∀ s p b, g (wrLocal s p b) = g s) (hs : ∀ s l, g { s with struck := l } = g s)
    (s : State) (ws : List (Place × Byte)) : g (wrPlaces s ws) = g s := by
  refine .trans ?_ (foldl_keeps (fun s (w : Place × Byte) => wrLocal s w.1 w.2) g (fun s w => hl s w.1 w.2) ws s)
  unfold wrPlaces clearStruck
  split
  · rfl
  · exact hs _ _

theorem wrLocal_mem (s : State) (p : Place) (b : Byte) : (wrLocal s p b).mem = s.mem := by cases p <;> rfl

theorem wrLocal_units (s : State) (p : Place) (b : Byte) : (wrLocal s p b).units = s.units := by cases p <;> rfl

/-- A strand's store to global memory is a write at the slices. -/
theorem performStore_glob {sh : Shape} (hst : un.at_.strand = true) (hg : ∀ e ∈ o.place, ∃ pa, e.2 = .glob pa) :
    ∃ t, performStore s un o sh = (t, false) ∧ t.units = s.units ∧ ∀ a, rd8 t a = rd8 (sliceWrite s (globalBytes o sh)) a := by
  unfold performStore
  dsimp only
  rw [filterMap_storedBytes hg fun _ _ => rfl]
  split
  · rename_i h
    refine ⟨_, rfl, wrPlaces_keeps State.units wrLocal_units (fun _ _ => rfl) _ _, fun a => ?_⟩
    rw [h, rd8_sliceWrite_of_forall_ne (by simp)]
    exact rd8_congr (wrPlaces_keeps State.mem wrLocal_mem (fun _ _ => rfl) _ _) a
  · exact ⟨_, rfl, sliceWrite_units _ _, fun _ => rfl⟩

theorem storeReachesMemory : Sys2Proof.Claims.StoreReachesMemory := by
  intro s u k un o sh h hatom hshape hload hg
  refine ⟨_, exec_storeCompletion_performs h, fun a => ?_⟩
  have he := performs_ending h
  obtain ⟨_, _, hst, _, _, _, _, _, _, _, hf⟩ := h
  obtain ⟨t, ht, hunits, hrd⟩ := performStore_glob (s := correctPlaces s o) (sh := sh) hst hg
  have hend : Ending u k o (countReplies un o t) :=
    he.congr ((countReplies_units un o t).trans (hunits.trans (units_correctPlaces s o)))
  have hperf : performAccess s u k un o = endOp (countReplies un o t) u k := by
    unfold performAccess
    rw [hatom, hshape]
    dsimp only
    rw [hload, if_neg Bool.false_ne_true, ht, commitDone_of_fault_none _ _ hf, if_neg Bool.false_ne_true]
  rw [hperf, rd8_congr (mem_endOp hend), rd8_congr (countReplies_mem un o t), hrd, rd8_sliceWrite, unbackedAt_correctPlaces,
    rd8_congr (mem_correctPlaces s o)]
  rfl

/-! What a completed access delivers -/

/-- The state in which an operation that delivers ends. -/
def delivered (s : State) (u k : Nat) (o : Op) : State :=
  let s := fillDests s u (match o.instr with | .expld _ => { o with dests := o.dests.dropLast } | _ => o) o.lanes
  let s := s.modUnit u (fun un => o.dests.foldl (fun un d => setFe un d (if o.fault.isSome then .pending else .full)) un)
  putOp s u k o

theorem footing_delivered (s : State) (u k : Nat) (o : Op) : footing u (delivered s u k o) = footing u s := by
  rw [delivered, footing_putOp, footing_modUnit fun un => foldl_keeps _ stance (fun un d => stance_setFe un d _) _ un, footing_fillDests]

theorem ending_delivered (h : Resting u s) (hf : o.fault = none) : Ending u k o (delivered s u k o) := by
  have hr : Resting u (delivered s u k o) := h.congr (congrArg Prod.snd (footing_delivered s u k o))
  obtain ⟨x, hx, _⟩ := id hr
  refine ⟨hr, hf, x, hx, ?_⟩
  rw [delivered, putOp, State.unit_modUnit_self] at hx
  obtain ⟨y, _, rfl⟩ := Option.map_eq_some_iff.1 hx
  exact Tab.find?_put_self ..

/-- A delivery without a fault changes no memory. -/
theorem mem_deliver (h : Resting u s) (hf : o.fault = none) : (deliver s u k o).mem = s.mem :=
  (mem_endOp (ending_delivered h hf)).trans (congrArg Prod.fst (footing_delivered s u k o))

theorem feOf_setFe_s (un : UnitSt) (n : Fin 64) (f : Fe) : feOf (setFe un (.s n) f) (.s n) = f :=
  Tab.get_set_self Fe.full un.regs.sfe n.val f

/-- A delivery to one s register of a strand: the register is full of the first data word, and the operation has ended. -/
theorem deliver_s {n : Fin 64} (h : Resting u s) (hf : o.fault = none) (hc : ∀ y, o.instr ≠ .cmpst y) (he : ∀ y, o.instr ≠ .expld y)
    (hl : o.lanes = 1) (hd : o.dests = [.s n]) : ∃ x, (deliver s u k o).unit? u = some x ∧ Tab.find? x.ops k = none ∧
      feOf x (.s n) = .full ∧ readS x n.val = o.word 0 0 := by
  obtain ⟨un, hu, hres⟩ := id h
  have hfill : fillDests s u o o.lanes = s.putUnit u (writeS un n.val (o.word 0 0)) := by
    rw [fillDests, hd, hl]
    exact writeOp_s hu n (by decide : (1 : Mask) ≠ 0) _
  have hdel : delivered s u k o =
      putOp ((s.putUnit u (writeS un n.val (o.word 0 0))).modUnit u (fun un => setFe un (.s n) .full)) u k o := by
    unfold delivered
    split
    · exact absurd ‹_› (he _)
    · rw [hfill, hd, hf]
      rfl
  have hend : deliver s u k o = dropOp (delivered s u k o) u k := endOp_eq_dropOp (ending_delivered h hf) hc he
  rw [hend, hdel, dropOp, putOp, State.unit_modUnit_self, State.unit_modUnit_self, State.unit_modUnit_self, State.unit_putUnit_self]
  exact ⟨_, rfl, Tab.find?_del_self _ k, feOf_setFe_s (writeS un n.val (o.word 0 0)) n .full, readS_writeS ..⟩

/-! A load -/

theorem find?_map_of_mem {α : Type} {l : List Nat} {i : Nat} (h : i ∈ l) (g : Nat → α) :
    Tab.find? (l.map (fun i => (i, g i))) i = some (g i) := by
  induction l with
  | nil => cases h
  | cons j l ih =>
    by_cases hj : j = i
    · simp [Tab.find?, hj]
    · simpa [Tab.find?, hj] using ih (List.mem_of_ne_of_mem (Ne.symm hj) h)

theorem typeBytes_pos (ty : MType) : 0 < typeBytes ty := by cases ty <;> decide

theorem obtainReads_keeps {α : Type} (g : State → α) (h : ∀ s, g (besideLines s) = g s) (ls : List Nat) (s : State) :
    g (ls.foldl (fun s l => obtainRead s (128 * l)) s) = g s :=
  foldl_keeps _ g (fun s l => by rw [← h (obtainRead s _), besideLines_obtainRead, h]) ls s

/-- A strand's load of n bytes of global memory reads them at the slices. -/
theorem loadBytes_glob {pa n : Nat} (hst : un.at_.strand = true) (hn : 0 < n) (hp : o.place = [(0, .glob pa)]) :
    ∃ t, loadBytes s un o n = (t, (List.range n).map (fun i => (i, rd8 s (pa + i)))) ∧ t.mem = s.mem ∧ t.units = s.units := by
  have hbytes : laneBytes o n = (List.range n).map (fun i => (i, .glob (pa + i))) := by
    simp [laneBytes, hp, Place.plus]
  have hglob (f : Nat × Place → Option (Nat × Nat)) (hf : ∀ i pa, f (i, .glob pa) = some (i, pa)) :
      (laneBytes o n).filterMap f = (List.range n).map (fun i => (i, pa + i)) := by
    rw [hbytes, List.filterMap_map, ← List.filterMap_eq_map]
    exact List.filterMap_congr fun i _ => hf _ _
  unfold loadBytes
  dsimp only
  rw [hglob _ fun _ _ => rfl, if_neg (by simp; omega), if_pos hst]
  refine ⟨_, congrArg (Prod.mk _) (List.map_map ..), ?_, ?_⟩
  · exact obtainReads_keeps State.mem (fun _ => rfl) _ s
  · exact obtainReads_keeps State.units (fun _ => rfl) _ s

@[simp] theorem word_setWord_self (o : Op) (l w : Nat) (v : Word) : (o.setWord l w v).word l w = v := Tab.get_set_self ..

theorem word_setWord_ne (o : Op) {l w j : Nat} (v : Word) (h : j ≠ w) : (o.setWord l w v).word l j = o.word l j :=
  Tab.get_set_ne _ _ _ (by omega)

theorem loadWords_of_regs {ty : MType} (h : ty.regs = 1) (bs : List Byte) : loadWords ty bs = [(loadWords ty bs).headD 0] := by
  cases ty with
  | b64 => cases h
  | b128 => cases h
  | _ => rfl

/-- The operation of a load at lane 0 with its words. -/
def loaded (o : Op) (ty : MType) (bs : List Byte) : Op := (loadWords ty bs).zipIdx.foldl (fun o w => o.setWord 0 w.2 w.1) o

theorem loaded_keeps {α : Type} (g : Op → α) (h : ∀ (o : Op) d, g { o with data := d } = g o) (o : Op) (ty : MType) (bs : List Byte) :
    g (loaded o ty bs) = g o :=
  foldl_keeps _ g (fun o _ => h o _) _ o

theorem word_loaded {ty : MType} (h : ty.regs = 1) (o : Op) (bs : List Byte) : (loaded o ty bs).word 0 0 = (loadWords ty bs).headD 0 := by
  rw [loaded, loadWords_of_regs h]
  exact word_setWord_self ..

theorem acquireCac_strand (hst : un.at_.strand = true) (s : State) : acquireCac s un = s := if_pos hst

/-- A strand's load from global memory is delivered with the bytes at the slices. -/
theorem performLoad_glob {sh : Shape} {pa : Nat} (hst : un.at_.strand = true) (hp : o.place = [(0, .glob pa)]) :
    ∃ t, performLoad s u k un o sh = deliver t u k (loaded o sh.ty (rdBytes s pa (typeBytes sh.ty))) ∧
      t.mem = s.mem ∧ t.units = s.units := by
  obtain ⟨t, ht, hm, hu⟩ := loadBytes_glob (s := s) hst (typeBytes_pos sh.ty) hp
  have hbytes : (List.range (typeBytes sh.ty)).map (fun i =>
      Tab.get 0 ((List.range (typeBytes sh.ty)).map (fun i => (i, rd8 s (pa + i)))) (0 * 16 + i)) = rdBytes s pa (typeBytes sh.ty) := by
    refine List.map_congr_left fun i hi => ?_
    rw [Nat.zero_mul, Nat.zero_add, Tab.get, find?_map_of_mem hi (fun i => rd8 s (pa + i))]
    rfl
  refine ⟨countReplies un (loaded o sh.ty (rdBytes s pa (typeBytes sh.ty))) t, ?_,
    (countReplies_mem ..).trans hm, (countReplies_units ..).trans hu⟩
  unfold performLoad
  dsimp only
  rw [ht, hp]
  simp only [acquireCac_strand hst, ite_self, List.foldl_cons, List.foldl_nil]
  rw [hbytes]
  rfl

/-- A plain access is no atomic. -/
theorem atomOf_of_shapeOf {i : Instr} {sh : Shape} (h : shapeOf i = some sh) : atomOf i = none := by
  unfold shapeOf at h
  split at h
  any_goals rfl
  cases h

theorem loadDelivers : Sys2Proof.Claims.LoadDelivers := by
  intro s u k un o sh pa h hshape hload hexp hl hp
  obtain ⟨_, _, hst, _, _, _, _, _, _, _, hf⟩ := id h
  obtain ⟨t, ht, hm, hu⟩ := performLoad_glob (s := correctPlaces s o) (u := u) (k := k) (sh := sh) hst hp
  rw [rdBytes_congr (mem_correctPlaces s o)] at ht
  have hperf : performAccess s u k un o = deliver t u k (loaded o sh.ty (rdBytes s pa (typeBytes sh.ty))) := by
    unfold performAccess
    rw [atomOf_of_shapeOf hshape, hshape]
    dsimp only
    rw [if_pos hload, commitDone_of_fault_none _ _ hf, ht]
  have hr : Resting u t := ((performs_ending h).congr (hu.trans (units_correctPlaces s o))).1
  refine ⟨_, exec_producerCompletion_performs h, fun a => ?_, fun n hd hregs => ?_⟩
  · rw [hperf, rd8_congr (mem_deliver hr ((loaded_keeps Op.fault (fun _ _ => rfl) o _ _).trans hf)), rd8_congr hm,
      rd8_congr (mem_correctPlaces s o)]
  · have hi : (loaded o sh.ty (rdBytes s pa (typeBytes sh.ty))).instr = o.instr :=
      loaded_keeps Op.instr (fun _ _ => rfl) o _ _
    obtain ⟨x, hx, hops, hfe, hreg⟩ := deliver_s (k := k) (n := n)
      (o := loaded o sh.ty (rdBytes s pa (typeBytes sh.ty))) hr
      ((loaded_keeps Op.fault (fun _ _ => rfl) o _ _).trans hf)
      (fun y hy => by rw [← hi, hy] at hshape; cases hshape; cases hload)
      (fun y hy => by rw [← hi, hy] at hexp; exact hexp)
      ((loaded_keeps Op.lanes (fun _ _ => rfl) o _ _).trans hl)
      ((loaded_keeps Op.dests (fun _ _ => rfl) o _ _).trans hd)
    exact ⟨x, hperf ▸ hx, hops, hfe, hreg.trans (word_loaded hregs o _)⟩

/-! An atomic addition -/

theorem length_bytesOf (n v : Nat) : (bytesOf n v).length = n := by
  induction n generalizing v with
  | zero => rfl
  | succ n ih => rw [bytesOf, List.length_cons, ih]

theorem ofBytes_bytesOf (n v : Nat) : ofBytes (bytesOf n v) = v % 256 ^ n := by
  induction n generalizing v with
  | zero => simp [bytesOf, ofBytes, Nat.mod_one]
  | succ n ih => rw [bytesOf, ofBytes, ih, BitVec.toNat_ofNat, Nat.pow_succ' (m := 256), Nat.mod_mul]

/-- The bytes of a run, by their addresses. -/
theorem mem_run {pa : Nat} {w : Nat × Byte} {bs : List Byte} : w ∈ run pa bs ↔ ∃ i, pa + i = w.1 ∧ bs[i]? = some w.2 := by
  simp only [run, List.mem_map, Prod.exists, List.mem_zipIdx_iff_getElem?]
  constructor
  · rintro ⟨b, i, hb, rfl⟩
    exact ⟨i, rfl, hb⟩
  · rintro ⟨i, hi, hb⟩
    exact ⟨w.2, i, hb, Prod.ext hi rfl⟩

/-- A run written where the host loses none of its bytes is read back. -/
theorem rdBytes_sliceWrite_run {pa : Nat} {bs : List Byte} (h : ∀ i < bs.length, unbackedAt s (pa + i) = false) :
    rdBytes (sliceWrite s (run pa bs)) pa bs.length = bs := by
  refine List.ext_getElem (by simp [rdBytes]) fun i _ hi => ?_
  simp only [rdBytes, List.getElem_map, List.getElem_range]
  refine rd8_sliceWrite_of_mem (mem_run.2 ⟨i, rfl, List.getElem?_eq_getElem hi⟩) (fun w hw ha => ?_) (h i hi)
  obtain ⟨j, hj, hb⟩ := mem_run.1 hw
  obtain rfl : j = i := by omega
  exact Option.some.inj (hb.symm.trans (List.getElem?_eq_getElem hi))

/-- A byte outside a run written keeps its value. -/
theorem rd8_sliceWrite_run_of_outside {pa a : Nat} {bs : List Byte} (h : a < pa ∨ pa + bs.length ≤ a) :
    rd8 (sliceWrite s (run pa bs)) a = rd8 s a := by
  refine rd8_sliceWrite_of_forall_ne fun w hw ha => ?_
  obtain ⟨i, hi, hb⟩ := mem_run.1 hw
  have := (List.getElem?_eq_some_iff.1 hb).1
  omega

/-- The operation of an addition at lane 0 with the old word. -/
def added (o : Op) (old : Nat) : Op := (o.setWord 0 8 (w32 old)).setWord 0 9 (w32 (old / 2 ^ 32))

/-- A strand's addition to one word of global memory writes the sum at the slices, and keeps the old word. -/
theorem performAtomic_add {m : AtomMod} {pa : Nat} (hst : un.at_.strand = true) (hm : m.b64 = false) (hp : o.place = [(0, .glob pa)]) :
    performAtomic s un o .add m = (sliceWrite s (run pa (bytesOf 4 ((rdNat s pa 4 + (o.word 0 0).toNat) % 2 ^ 32))), added o (rdNat s pa 4)) := by
  have hz : atomBytes m = 4 := by rw [atomBytes, hm]; rfl
  have hdrop : atomDrop s un o = s := if_pos hst
  unfold performAtomic
  dsimp only
  rw [hz, hdrop, atomLanes, hp]
  rfl

/-- The operation of an atomic at lane 0 with its old value where a delivery takes it. -/
def returned (o : Op) : Op := (o.setWord 0 0 (o.word 0 8)).setWord 0 1 (o.word 0 9)

theorem word_returned_added (o : Op) (old : Nat) : (returned (added o old)).word 0 0 = w32 old := by
  rw [returned, word_setWord_ne _ _ (by omega), word_setWord_self, added, word_setWord_ne _ _ (by omega), word_setWord_self]

theorem returned_added_keeps {α : Type} (g : Op → α) (h : ∀ (o : Op) d, g { o with data := d } = g o) (o : Op) (old : Nat) :
    g (returned (added o old)) = g o :=
  (h _ _).trans ((h _ _).trans ((h _ _).trans (h _ _)))

theorem deliverAtomic_lane (hst : un.at_.strand = true) (hl : o.lanes = 1) (hd : o.dests ≠ []) :
    deliverAtomic s u k un o = deliver (countReplies un o s) u k (returned o) := by
  have hlanes : lanesOf o.lanes = [0] := by rw [hl]; decide
  unfold deliverAtomic
  simp only [acquireCac_strand hst, ite_self, hlanes, List.foldl_cons, List.foldl_nil]
  exact if_neg hd

/-- What an addition to a word writes. -/
def sumBytes (s : State) (pa : Nat) (w : Word) : List Byte := bytesOf 4 ((rdNat s pa 4 + w.toNat) % 2 ^ 32)

theorem length_sumBytes (s : State) (pa : Nat) (w : Word) : (sumBytes s pa w).length = 4 := length_bytesOf ..

theorem ofBytes_sumBytes (s : State) (pa : Nat) (w : Word) : ofBytes (sumBytes s pa w) = (rdNat s pa 4 + w.toNat) % 2 ^ 32 :=
  (ofBytes_bytesOf ..).trans (Nat.mod_mod _ _)

/-- A strand's addition to one word: the sum is written at the slices, and the old word delivered. -/
theorem performAccess_add {y : Mem AtomMod} {pa : Nat} (hst : un.at_.strand = true) (hi : o.instr = .atomAdd y) (hb : y.m.b64 = false)
    (hl : o.lanes = 1) (hp : o.place = [(0, .glob pa)]) (hd : o.dests ≠ []) :
    ∃ t, performAccess s u k un o = deliver t u k (returned (added o (rdNat s pa 4))) ∧ t.units = s.units ∧
      t.mem = (sliceWrite (correctPlaces s o) (run pa (sumBytes s pa (o.word 0 0)))).mem := by
  have hadd : performAtomic (correctPlaces s o) un o .add y.m =
      (sliceWrite (correctPlaces s o) (run pa (sumBytes s pa (o.word 0 0))), added o (rdNat s pa 4)) := by
    rw [performAtomic_add hst hb hp, rdNat_congr (mem_correctPlaces s o), sumBytes]
  refine ⟨countReplies un (added o (rdNat s pa 4)) (sliceWrite (correctPlaces s o) (run pa (sumBytes s pa (o.word 0 0)))), ?_,
    (countReplies_units ..).trans ((sliceWrite_units ..).trans (units_correctPlaces s o)), countReplies_mem ..⟩
  unfold performAccess
  rw [hi]
  simp only [atomOf, releaseCac, hst, if_true, ite_self]
  rw [hadd]
  exact deliverAtomic_lane (o := added o (rdNat s pa 4)) hst hl hd

theorem atomicAddPerformed : Sys2Proof.Claims.AtomicAddPerformed := by
  intro s u k un o y pa n h hi hb hl hp hd hback
  obtain ⟨_, _, hst, _, _, _, _, _, _, _, hf⟩ := id h
  obtain ⟨t, hperf, hunits, hmem⟩ := performAccess_add (s := s) (u := u) (k := k) hst hi hb hl hp (by simp [hd])
  have hr : Resting u t := ((performs_ending h).congr hunits).1
  have hf' := (returned_added_keeps Op.fault (fun _ _ => rfl) o (rdNat s pa 4)).trans hf
  have hi' := (returned_added_keeps Op.instr (fun _ _ => rfl) o (rdNat s pa 4)).trans hi
  have hdel := (mem_deliver (k := k) hr hf').trans hmem
  obtain ⟨x, hx, _, hfe, hreg⟩ := deliver_s (k := k) (n := n) hr hf' (fun y' hy => by cases hi'.symm.trans hy)
    (fun y' hy => by cases hi'.symm.trans hy) ((returned_added_keeps Op.lanes (fun _ _ => rfl) o _).trans hl)
    ((returned_added_keeps Op.dests (fun _ _ => rfl) o _).trans hd)
  have hlen := length_sumBytes s pa (o.word 0 0)
  refine ⟨_, exec_producerCompletion_performs h, ?_, fun a ha => ?_, x, hperf ▸ hx, hreg.trans (word_returned_added ..), hfe⟩
  · have hread := rdBytes_sliceWrite_run (s := correctPlaces s o) (pa := pa) (bs := sumBytes s pa (o.word 0 0)) fun i hlt => by
      rw [unbackedAt_correctPlaces]
      exact hback i (hlen ▸ hlt)
    rw [hlen] at hread
    rw [hperf, rdNat, rdBytes_congr hdel, hread, ofBytes_sumBytes]
  · rw [hperf, rd8_congr hdel, rd8_sliceWrite_run_of_outside (by rwa [hlen]), rd8_congr (mem_correctPlaces s o)]

/-- Settles O19: a strand's access is performed as one write or read of the slices, and ends with its register delivered. -/
theorem memoryIsReachedAndRead : Obligations.MemoryIsReachedAndRead := ⟨storeReachesMemory, loadDelivers, atomicAddPerformed⟩

end Sys2Proof.Safety
end

section
/-! The four roundings as inequalities (O10). -/

open Sys2Proof Sys2Proof.Machine
namespace Sys2Proof.Safety

/-! Rounding to a multiple of a power of two (R37): the quotient, or the next number above it -/

/-- Whether a mode takes the number above the quotient n, for the rest and half the divisor. -/
def goesUp (r : RMode) (neg : Bool) (n rest half : Nat) : Bool :=
  match r with
  | .rne => decide (half < rest) || (decide (rest = half) && n.testBit 0)
  | .rtz => false
  | .rup => decide (rest ≠ 0) && !neg
  | .rdn => decide (rest ≠ 0) && neg

theorem roundAt_of_le {e q : Int} (h : q ≤ e) (r : RMode) (neg : Bool) (m : Nat) :
    roundAt r neg m e q = (m * 2 ^ (e - q).toNat, false) := if_pos h

@[simp] theorem roundAt_self (r : RMode) (neg : Bool) (m : Nat) (e : Int) : roundAt r neg m e e = (m, false) := by
  simp [roundAt_of_le (le_refl e)]

theorem roundAt_of_lt {e q : Int} (h : e < q) (r : RMode) (neg : Bool) (m : Nat) :
    let D := 2 ^ (q - e).toNat
    roundAt r neg m e q =
      (m / D + b2n (goesUp r neg (m / D) (m % D) (2 ^ ((q - e).toNat - 1))), decide (m % D ≠ 0)) := by
  intro D
  rw [roundAt, if_neg (by omega)]
  refine Prod.ext ?_ rfl
  exact (apply_ite (m / D + ·) (goesUp r neg (m / D) (m % D) _ = true) 1 0).symm

section
variable {D : Nat} (m : Nat)

/-- The quotient is the greatest multiple not above m. -/
theorem quotient_bounds (hD : 0 < D) : m / D * D ≤ m ∧ m < (m / D + 1) * D :=
  ⟨Nat.div_mul_le_self m D, by rw [Nat.succ_mul]; exact Nat.lt_div_mul_add hD⟩

/-- The quotient, with 1 added where a rest is left, is the least multiple not below m. -/
theorem roundedAway_bounds (hD : 0 < D) :
    let n := m / D + b2n (decide (m % D ≠ 0))
    m ≤ n * D ∧ n * D < m + D := by
  have hm := Nat.div_add_mod' m D
  have hlt := Nat.mod_lt m hD
  by_cases h : m % D = 0
  · simp only [h, b2n, ne_eq, not_true_eq_false, decide_false, Bool.false_eq_true, if_false, Nat.add_zero]
    omega
  · simp only [h, b2n, ne_eq, not_false_eq_true, decide_true, if_true, Nat.succ_mul]
    omega

/-- The quotient, with 1 added where the rest is above half the divisor, or is half of it and the quotient odd, is the nearest
multiple, the even one of two. -/
theorem nearest_bounds {half : Nat} (hD : D = 2 * half) (h0 : 0 < half) :
    let n := m / D + b2n (decide (half < m % D) || (decide (m % D = half) && (m / D).testBit 0))
    2 * m ≤ (2 * n + 1) * D ∧ 2 * n * D ≤ 2 * m + D ∧ ((2 * m = (2 * n + 1) * D ∨ 2 * n * D = 2 * m + D) → n % 2 = 0) := by
  have hm := Nat.div_add_mod' m D
  have hlt := Nat.mod_lt m (show 0 < D by omega)
  have hup : (decide (half < m % D) || (decide (m % D = half) && (m / D).testBit 0)) =
      decide (half < m % D ∨ m % D = half ∧ m / D % 2 = 1) := by simp [Nat.testBit_zero]
  rw [hup]
  by_cases h : half < m % D ∨ m % D = half ∧ m / D % 2 = 1
  · simp only [h, b2n, decide_true, if_true, Nat.mul_add, Nat.add_mul, Nat.mul_assoc, Nat.one_mul]
    omega
  · simp only [h, b2n, decide_false, Bool.false_eq_true, if_false, Nat.add_zero, Nat.add_mul, Nat.mul_assoc, Nat.one_mul]
    omega

end

/-- Settles O10: the quotient and the rest of m by 2^k decide each inequality. -/
theorem roundingModes : Obligations.RoundingModes := by
  intro r neg m e q h k n
  have hround := roundAt_of_lt h r neg m
  have hn : n = m / 2 ^ k + b2n (goesUp r neg (m / 2 ^ k) (m % 2 ^ k) (2 ^ (k - 1))) := congrArg Prod.fst hround
  refine ⟨by rw [hround, decide_eq_true_iff, ne_eq, Nat.dvd_iff_mod_eq_zero], ?_⟩
  have hpos := Nat.two_pow_pos k
  have hdown := quotient_bounds m hpos
  have haway := roundedAway_bounds m hpos
  have hk : 2 ^ k = 2 * 2 ^ (k - 1) := by rw [← Nat.pow_succ']; congr 1; omega
  rw [hn]
  cases r with
  | rne => exact nearest_bounds m hk (Nat.two_pow_pos _)
  | rtz => exact hdown
  | rup =>
    cases neg
    · simpa [goesUp, b2n] using haway
    · simpa [goesUp, b2n] using hdown
  | rdn =>
    cases neg
    · simpa [goesUp, b2n] using hdown
    · simpa [goesUp, b2n] using haway

end Sys2Proof.Safety
end

section
/-! Codes that round to themselves (O11). -/

open Sys2Proof Sys2Proof.Machine
namespace Sys2Proof.Safety

/-! Codes of FP32 and BF16 (R32): sign, exponent field and fraction -/

/-- The formats whose exponent field of all ones is reserved, with the largest finite value of Table 2-1. -/
structure IeeeFmt (f : FFmt) : Prop where
  top : f.top = .ieee
  eb : 2 ≤ f.eb
  maxSig : f.maxSig + 1 = 2 ^ (f.mb + 1)
  qmax : f.qmax = f.qmin + (2 ^ f.eb - 3 : Nat)

theorem ieeeFmt_f32 : IeeeFmt fmtF32 := by constructor <;> decide

theorem ieeeFmt_bf16 : IeeeFmt fmtBf16 := by constructor <;> decide

section
variable {f : FFmt} {b m : Nat} {e : Int} (neg : Bool)

theorem code_of_lt (h : m < 2 ^ f.mb) : f.code neg m e = f.sign neg + m := by rw [FFmt.code, if_pos h]

theorem code_normal (m i : Nat) : f.code neg (m + 2 ^ f.mb) (f.qmin + i) = f.sign neg + ((i + 1) * 2 ^ f.mb + m) := by
  rw [FFmt.code, if_neg (by omega), Nat.add_sub_cancel, show (f.qmin + i - f.qmin).toNat = i by omega]

/-- A code is its sign, its exponent field and its fraction, put together. -/
theorem code_eq_fields (heb : 0 < f.eb) (hb : b < 2 ^ f.width) :
    b = f.sign (b.testBit (f.eb + f.mb)) + (bits b (f.eb + f.mb - 1) f.mb * 2 ^ f.mb + b % 2 ^ f.mb) := by
  have hlow := Nat.div_add_mod' b (2 ^ f.mb)
  have hhigh := Nat.div_add_mod' (b / 2 ^ f.mb) (2 ^ f.eb)
  have hdiv : b / 2 ^ f.mb / 2 ^ f.eb = b / 2 ^ (f.eb + f.mb) := by rw [Nat.div_div_eq_div_mul, ← Nat.pow_add, Nat.add_comm]
  have htop : b / 2 ^ (f.eb + f.mb) < 2 := by
    rw [Nat.div_lt_iff_lt_mul (Nat.two_pow_pos _), ← Nat.pow_succ']
    exact hb.trans_eq (congrArg (2 ^ ·) (by rw [FFmt.width]; omega))
  have hsign : f.sign (b.testBit (f.eb + f.mb)) = b / 2 ^ (f.eb + f.mb) * 2 ^ f.eb * 2 ^ f.mb := by
    rw [FFmt.sign, Nat.testBit_eq_decide_div_mod_eq, Nat.mod_eq_of_lt htop, Nat.mul_assoc, ← Nat.pow_add]
    rcases Nat.le_one_iff_eq_zero_or_eq_one.1 (Nat.le_of_lt_succ htop) with h | h
    · simp [h]
    · simp [h]
  rw [hsign, bits, show f.eb + f.mb - 1 + 1 - f.mb = f.eb by omega, ← Nat.add_assoc, ← Nat.add_mul, ← hdiv, hhigh, hlow]

/-! A value that a format holds is delivered as its own code -/

/-- The last place at which a value of the format is rounded is its own: the smallest, or that of a normal significand. -/
theorem round_self (r : RMode) (hm : m ≠ 0) (hlt : m < 2 ^ (f.mb + 1)) (hlo : f.qmin ≤ e) (hn : e = f.qmin ∨ 2 ^ f.mb ≤ m) :
    (f.round r neg m e).n = m ∧ (f.round r neg m e).q = e ∧ (f.round r neg m e).inexact = false := by
  have hle : m.log2 ≤ f.mb := Nat.lt_succ_iff.1 ((Nat.log2_lt hm).2 hlt)
  have hge : 2 ^ f.mb ≤ m → f.mb ≤ m.log2 := (Nat.le_log2 hm).2
  have hq : (if log2Of m e - f.mb < f.qmin then f.qmin else log2Of m e - f.mb) = e := by
    unfold log2Of
    split <;> omega
  simp only [FFmt.round, hq, roundAt_self, and_self]

/-- A finite value of the format is neither changed nor too big. -/
theorem deliver_self (hf : IeeeFmt f) (r : RMode) (hm : m ≠ 0) (hlt : m < 2 ^ (f.mb + 1)) (hlo : f.qmin ≤ e) (hhi : e ≤ f.qmax)
    (hn : e = f.qmin ∨ 2 ^ f.mb ≤ m) : f.deliver r false (.num neg m e) = (f.code neg m e, 0) := by
  obtain ⟨hr, hq, hx⟩ := round_self neg r hm hlt hlo hn
  have hbig : (f.round r neg m e).tooBig = false := by
    have hmax := hf.maxSig
    have : (f.round r neg m e).tooBig = (decide (f.qmax < (f.round r neg m e).q) ||
      (decide ((f.round r neg m e).q = f.qmax) && decide (f.maxSig < (f.round r neg m e).n))) := rfl
    rw [this, hr, hq, decide_eq_false (by omega), decide_eq_false (p := f.maxSig < m) (by omega), Bool.and_false, Bool.or_false]
  simp [FFmt.deliver, hm, hbig, hr, hq, hx]

/-- A code that is no NaN is a subnormal or a zero, an infinity, or normal. -/
theorem decode_cases (hf : IeeeFmt f) (hnan : (f.decode b).isNan = false) :
    let neg := b.testBit (f.eb + f.mb)
    let x := bits b (f.eb + f.mb - 1) f.mb
    let frac := b % 2 ^ f.mb
    (x = 0 ∧ f.decode b = .num neg frac f.qmin) ∨ (x = 2 ^ f.eb - 1 ∧ frac = 0 ∧ f.decode b = .inf neg) ∨
    (∃ i, x = i + 1 ∧ i + 3 ≤ 2 ^ f.eb ∧ f.decode b = .num neg (frac + 2 ^ f.mb) (f.qmin + i)) := by
  intro neg x frac
  have hx : x < 2 ^ f.eb := by
    have := hf.eb
    exact (Nat.mod_lt _ (Nat.two_pow_pos _)).trans_eq (by congr 1; omega)
  revert hnan
  have hdec : f.decode b = if x = 0 then .num neg frac f.qmin
    else if x = 2 ^ f.eb - 1 then if frac = 0 then .inf neg else .nan (!frac.testBit (f.mb - 1))
    else .num neg (frac + 2 ^ f.mb) (f.qmin + (x - 1 : Nat)) := by
    simp only [FFmt.decode, hf.top, and_true, reduceCtorEq, false_and, and_false, if_false]
    rfl
  rw [hdec]
  split
  case isTrue h0 => exact fun _ => .inl ⟨h0, rfl⟩
  case isFalse h0 =>
    split
    case isTrue h1 =>
      split
      case isTrue hfrac => exact fun _ => .inr (.inl ⟨h1, hfrac, rfl⟩)
      case isFalse => exact fun h => absurd h (by simp [FV.isNan])
    case isFalse h1 => exact fun _ => .inr (.inr ⟨x - 1, by omega, by omega, rfl⟩)

theorem deliver_decode (hf : IeeeFmt f) (r : RMode) (hb : b < 2 ^ f.width) (hnan : (f.decode b).isNan = false) :
    f.deliver r false (f.decode b) = (b, 0) := by
  have hfields := code_eq_fields (Nat.zero_lt_of_lt hf.eb) hb
  have hfrac := Nat.mod_lt b (Nat.two_pow_pos f.mb)
  have hmax := hf.qmax
  have hpow : 2 ^ (f.mb + 1) = 2 * 2 ^ f.mb := Nat.pow_succ'
  obtain ⟨hx, hdec⟩ | ⟨hx, h0, hdec⟩ | ⟨i, hx, hi, hdec⟩ := decode_cases hf hnan
  · rw [hx, Nat.zero_mul, Nat.zero_add] at hfields
    rw [hdec]
    by_cases h0 : b % 2 ^ f.mb = 0
    · rw [h0] at hfields ⊢
      exact Prod.ext hfields.symm rfl
    · rw [deliver_self _ hf r h0 (by omega) le_rfl (by omega) (.inl rfl), code_of_lt _ hfrac, ← hfields]
  · rw [hx, h0] at hfields
    rw [hdec]
    exact Prod.ext hfields.symm rfl
  · rw [hx] at hfields
    rw [hdec, deliver_self _ hf r (by omega) (by omega) (by omega) (by omega) (.inr (by omega)), code_normal, ← hfields]

end

/-- Settles O11: a code's value stands at the last place at which it is rounded, and is put together again from its fields. -/
theorem codesRoundToThemselves : Obligations.CodesRoundToThemselves := by
  rintro f r b (rfl | rfl) hb hnan
  · exact deliver_decode ieeeFmt_f32 r hb hnan
  · exact deliver_decode ieeeFmt_bf16 r hb hnan

end Sys2Proof.Safety
end

section
/-! The products of the matrix array (O22). -/

open Sys2Proof Sys2Proof.Machine
namespace Sys2Proof.Safety

section
variable (m : Matrix) (acc k w : Nat) (f : FFmt) (a b : Tab Nat)

/-- The joint sum at row i and column j of an accumulator: the element there and its k products (R51). -/
def productAt (i j : Nat) : FRes :=
  mmaSum w (fmtF32.decode (accAt m acc i j).toNat)
    ((List.range k).map (fun q => (f.decode (Tab.get 0 a (i * 64 + q)), f.decode (Tab.get 0 b (q * 64 + j)))))

/-- The elements that a product writes, with their keys, row by row. -/
def productWrites : List (Nat × Word) :=
  (List.range 32).flatMap fun i => (List.range 32).map fun j => (acc * 1024 + i * 32 + j, w32 (productAt m acc k w f a b i j).1)

/-- A product writes each element from what stood in the accumulator before it. -/
theorem multiplied_fst : (multiplied m acc k w f a b).1 =
    (productWrites m acc k w f a b).foldl (fun t x => Tab.set 0 t x.1 x.2) m.acc := by
  simp only [multiplied, productWrites, List.foldl_flatMap, List.foldl_map, List.zip_map']
  refine (List.foldl_hom Prod.fst fun st i => ?_).symm
  exact List.foldl_hom (init := st) Prod.fst fun _ _ => rfl

variable {m acc k w f a b}

theorem mem_productWrites {x : Nat × Word} : x ∈ productWrites m acc k w f a b ↔
    ∃ i < 32, ∃ j < 32, (acc * 1024 + i * 32 + j, w32 (productAt m acc k w f a b i j).1) = x := by
  simp [productWrites]

/-- An accumulator, a row and a column are read off the key of an element. -/
theorem accKey_inj {acc acc' i i' j j' : Nat} (hi : i < 32) (hj : j < 32) (hi' : i' < 32) (hj' : j' < 32)
    (h : acc * 1024 + i * 32 + j = acc' * 1024 + i' * 32 + j') : acc = acc' ∧ i = i' ∧ j = j' := by omega

end

/-- Settles O22: the keys written are those of the accumulator's elements, each once. -/
theorem matrixProducts : Obligations.MatrixProducts := by
  intro m acc k w f a b i j hi hj t
  have ht : t = _ := multiplied_fst m acc k w f a b
  rw [ht]
  refine ⟨get_foldl_set_of_mem m.acc (mem_productWrites.2 ⟨i, hi, j, hj, rfl⟩) fun x hx hkey => ?_,
    fun acc' hne => get_foldl_set_of_forall_ne m.acc fun x hx hkey => ?_⟩
  · obtain ⟨i', hi', j', hj', rfl⟩ := mem_productWrites.1 hx
    obtain ⟨_, rfl, rfl⟩ := accKey_inj hi' hj' hi hj hkey
    rfl
  · obtain ⟨i', hi', j', hj', rfl⟩ := mem_productWrites.1 hx
    exact hne (accKey_inj hi' hj' hi hj hkey).1.symm

end Sys2Proof.Safety
end

section
/-! The decoder reads back what the encoder writes (O48). -/

open Sys2Proof.Machine
namespace Sys2Proof.Safety

open Laws.RoundTrip in
/-- Settles O48, by the law of the instruction's own row of the opcode table. -/
theorem decodeOfEncode : Obligations.DecodeOfEncode := by
  intro i
  exact i.casesOn
    nop exit yield_ ret trap br call jmpi calli brd brany brall loop loopi iadd isub iaddc isubb iaddi ineg iabs iadd64 isub64 iaddi64
    imin imax icmpp icmppi sel and_ or_ xor_ not_ andi ori xori shl shr sar rol ror shli shri sari popc clz ctz brev mov movi movhi movk
    lea shl64 shr64 sar64 icmpp64 imul imulhi imad imulw imadw divstep divinit bfx bfi fadd fsub fmul ffma fmin fmax fcmpp fabs fneg
    fclass badd bsub bmul bfma bpadd bpsub bpmul bpfma bpmin bpmax bmin bmax bcmpp faddi fmuli ffmai rcp rsq sqrt exp2 log2 tanh sint cost
    sincost cvtfh cvthf packh cvtf8 cvtf4 cvt8f cvt4f mxpack mxunpk cvtfi cvtif cvtii shfl shflup shfldn shflx ballot voteany voteall
    voteuni pscan reduce match_ ld st gld sct lds sts ldsr stsr ldt stt ldl stl ldw stw cmpst expld pref atomAdd atomMin atomMax atomAnd
    atomOr atomXor atomExch atomCas atomFadd atomFmin atomFmax atomAddBf16x2 atomVismin redAdd redMin redMax redFadd redAddBf16x2 atomlCas
    atomlAdd atomwCas atomwAdd atomwExch fence fenceSurf discard cinv cwb cflush mrsv mrel mlda mldb mma mmaF32 mzero mst gang gangMma bar
    barc gbar voteg sete setf chain enq deq launch migr rets bclose bwait poolq poolm poolw svc ctlr ctlw isync sleep halt bkpt eret
    producerCompletion remoteFill pageWalk cacWriteback resultRecordAppend issueSelect strandIssueSelect loadLimitWindow sleepExpiry
    barcSweepArrival barcSweepRelease gridBarrierRelease matrixEntryStart matrixEntryFinish stagingComplete multicastWindowRead
    jointOperationStart moveSwitch moveRebuild moveComplete tileFlush moveWaitRelease roleListReturn copy fill vfill tsend plan planSend
    copyComplete mergeOpen mergeClose frame absent sink route unsink sinkRelease serviceAccept rasterOpen draw resolve rasterClose clear
    trace sample endRecord contextEntryWake contextLeave queueTailWrite placeCluster placeStrand placeSuperstepGrid taskRetire sumpTimeout
    sumpPlace balancerSample balancerDeferredMove faultRecordWrite resume redirect enter retire stop inval preempt restore migrate
    migrationResume freeze thaw routeUpdate routeUpdateAck hostSnoop cxlMemRequest linkRetrain linkUp linkDownTimeout fabricBlockWrite
    packetForward tilePacketArrival nodeDeadline leafFrameClose keepAliveSend keepAliveArrival childTimeout absentNotice sessionClose
    rootTileDelivery frameRecord go lattolWrite clklimWrite mgmtWindowWrite powerOn firmware selftest memory links idleTimeout
    powerEntryComplete powerWake powerExitComplete thermalStep grantMapWrite grantArrival patrolScrub lifetimeRecordWrite getVersion
    getCapabilities negotiateAlgorithms getDigests getCertificate challenge getMeasurements debugHalt debugResume debugStep debugRead
    debugWrite commit drop debugRevoke storeCompletion portWordArrival relocationComplete softError

end Sys2Proof.Safety
end

section
/-! What the decoder reads has an encoding (O49). -/

open Sys2Proof.Machine
namespace Sys2Proof.Safety

section
variable {μ : Type} {pm : Nat → Option μ} {e : Enc}

/-- The instruction has an encoding. -/
def HasCode (i : Instr) : Prop := (encode i).isSome = true

theorem HasCode.of_isSome {i : Instr} (h : (encode i).isSome = true) : HasCode i := h

/-- What a parser answers, if it answers, has an encoding. -/
def CodedAnswer (o : Option Instr) : Prop := ∀ i, o = some i → HasCode i

@[simp] theorem coded_pN {k : Hint → Instr} (hk : ∀ x, HasCode (k x)) : CodedAnswer (pN k e) := by grind [CodedAnswer, pN]
@[simp] theorem coded_pJT {k : CodeImm → Instr} (hk : ∀ x, HasCode (k x)) : CodedAnswer (pJT k e) := by grind [CodedAnswer, pJT]
@[simp] theorem coded_pJD {k : MovImm → Instr} (hk : ∀ x, HasCode (k x)) : CodedAnswer (pJD k e) := by grind [CodedAnswer, pJD]
@[simp] theorem coded_pB {k : Branch → Instr} (hk : ∀ x, HasCode (k x)) : CodedAnswer (pB k e) := by grind [CodedAnswer, pB]
@[simp] theorem coded_pBg {k : TestBranch → Instr} (hk : ∀ x, HasCode (k x)) : CodedAnswer (pBg k e) := by grind [CodedAnswer, pBg]
@[simp] theorem coded_pJmpi {k : JumpInd → Instr} (hk : ∀ x, HasCode (k x)) : CodedAnswer (pJmpi k e) := by grind [CodedAnswer, pJmpi]
@[simp] theorem coded_pCalli {k : CallInd → Instr} (hk : ∀ x, HasCode (k x)) : CodedAnswer (pCalli k e) := by grind [CodedAnswer, pCalli]
@[simp] theorem coded_pBrd {k : DivBranch → Instr} (hk : ∀ x, HasCode (k x)) : CodedAnswer (pBrd k e) := by grind [CodedAnswer, pBrd]
@[simp] theorem coded_pLoop {k : LoopReg → Instr} (hk : ∀ x, HasCode (k x)) : CodedAnswer (pLoop k e) := by grind [CodedAnswer, pLoop]
@[simp] theorem coded_pLoopi {k : LoopImm → Instr} (hk : ∀ x, HasCode (k x)) : CodedAnswer (pLoopi k e) := by grind [CodedAnswer, pLoopi]
@[simp] theorem coded_pUn {k : Un μ → Instr} (hk : ∀ x, HasCode (k x)) : CodedAnswer (pUn pm k e) := by grind [CodedAnswer, pUn]
@[simp] theorem coded_pUnC {k : Un μ → Instr} (hk : ∀ x, HasCode (k x)) : CodedAnswer (pUnC pm k e) := by grind [CodedAnswer, pUnC]
@[simp] theorem coded_pBin {k : Bin μ → Instr} (hk : ∀ x, HasCode (k x)) : CodedAnswer (pBin pm k e) := by grind [CodedAnswer, pBin]
@[simp] theorem coded_pBinP {k : BinP μ → Instr} (hk : ∀ x, HasCode (k x)) : CodedAnswer (pBinP pm k e) := by grind [CodedAnswer, pBinP]
@[simp] theorem coded_pTern {k : Tern μ → Instr} (hk : ∀ x, HasCode (k x)) : CodedAnswer (pTern pm k e) := by grind [CodedAnswer, pTern]
@[simp] theorem coded_pOptB {k : OptB μ → Instr} (hk : ∀ x, HasCode (k x)) : CodedAnswer (pOptB pm k e) := by grind [CodedAnswer, pOptB]
@[simp] theorem coded_pCmpP {k : CmpP μ → Instr} (hk : ∀ x, HasCode (k x)) : CodedAnswer (pCmpP pm k e) := by grind [CodedAnswer, pCmpP]
@[simp] theorem coded_pCmpI {k : CmpI μ → Instr} (hk : ∀ x, HasCode (k x)) : CodedAnswer (pCmpI pm k e) := by grind [CodedAnswer, pCmpI]
@[simp] theorem coded_pImmK {k : ImmK μ → Instr} (hk : ∀ x, HasCode (k x)) : CodedAnswer (pImmK pm k e) := by grind [CodedAnswer, pImmK]
@[simp] theorem coded_pImmE {k : ImmE μ → Instr} (hk : ∀ x, HasCode (k x)) : CodedAnswer (pImmE pm k e) := by grind [CodedAnswer, pImmE]
@[simp] theorem coded_pMovKK {k : MovK → Instr} (hk : ∀ x, HasCode (k x)) : CodedAnswer (pMovKK k e) := by grind [CodedAnswer, pMovKK]
@[simp] theorem coded_pNBin {k : NBin μ → Instr} (hk : ∀ x, HasCode (k x)) : CodedAnswer (pNBin pm k e) := by grind [CodedAnswer, pNBin]
@[simp] theorem coded_pNTern {k : NTern μ → Instr} (hk : ∀ x, HasCode (k x)) : CodedAnswer (pNTern pm k e) := by grind [CodedAnswer, pNTern]
@[simp] theorem coded_pNCmp {k : NCmp μ → Instr} (hk : ∀ x, HasCode (k x)) : CodedAnswer (pNCmp pm k e) := by grind [CodedAnswer, pNCmp]
@[simp] theorem coded_pBallot {k : Ballot → Instr} (hk : ∀ x, HasCode (k x)) : CodedAnswer (pBallot k e) := by grind [CodedAnswer, pBallot]
@[simp] theorem coded_pVote {k : Vote → Instr} (hk : ∀ x, HasCode (k x)) : CodedAnswer (pVote k e) := by grind [CodedAnswer, pVote]
@[simp] theorem coded_pMem {k : Mem μ → Instr} (hk : ∀ x, HasCode (k x)) : CodedAnswer (pMem pm k e) := by grind [CodedAnswer, pMem]
@[simp] theorem coded_pLoc {k : Loc μ → Instr} (hk : ∀ x, HasCode (k x)) : CodedAnswer (pLoc pm k e) := by grind [CodedAnswer, pLoc]
@[simp] theorem coded_pMemN {k : MemN μ → Instr} (hk : ∀ x, HasCode (k x)) : CodedAnswer (pMemN pm k e) := by grind [CodedAnswer, pMemN]
@[simp] theorem coded_pFenceI {k : Fence → Instr} (hk : ∀ x, HasCode (k x)) : CodedAnswer (pFenceI k e) := by grind [CodedAnswer, pFenceI]
@[simp] theorem coded_pFenceSurf {k : FenceSurf → Instr} (hk : ∀ x, HasCode (k x)) : CodedAnswer (pFenceSurf k e) := by grind [CodedAnswer, pFenceSurf]
@[simp] theorem coded_pMrsv {k : Mrsv → Instr} (hk : ∀ x, HasCode (k x)) : CodedAnswer (pMrsv k e) := by grind [CodedAnswer, pMrsv]
@[simp] theorem coded_pStage {k : Stage → Instr} (hk : ∀ x, HasCode (k x)) : CodedAnswer (pStage k e) := by grind [CodedAnswer, pStage]
@[simp] theorem coded_pMma {k : Mma → Instr} (hk : ∀ x, HasCode (k x)) : CodedAnswer (pMma k e) := by grind [CodedAnswer, pMma]
@[simp] theorem coded_pMzero {k : Mzero → Instr} (hk : ∀ x, HasCode (k x)) : CodedAnswer (pMzero k e) := by grind [CodedAnswer, pMzero]
@[simp] theorem coded_pMst {k : Mst → Instr} (hk : ∀ x, HasCode (k x)) : CodedAnswer (pMst k e) := by grind [CodedAnswer, pMst]
@[simp] theorem coded_pGang {k : Gang → Instr} (hk : ∀ x, HasCode (k x)) : CodedAnswer (pGang k e) := by grind [CodedAnswer, pGang]
@[simp] theorem coded_pBare {k : Bare → Instr} (hk : ∀ x, HasCode (k x)) : CodedAnswer (pBare k e) := by grind [CodedAnswer, pBare]
@[simp] theorem coded_pSrcA {k : SrcA → Instr} (hk : ∀ x, HasCode (k x)) : CodedAnswer (pSrcA k e) := by grind [CodedAnswer, pSrcA]
@[simp] theorem coded_pDstD {k : DstD → Instr} (hk : ∀ x, HasCode (k x)) : CodedAnswer (pDstD k e) := by grind [CodedAnswer, pDstD]
@[simp] theorem coded_pSetFE {k : SetFE → Instr} (hk : ∀ x, HasCode (k x)) : CodedAnswer (pSetFE k e) := by grind [CodedAnswer, pSetFE]
@[simp] theorem coded_pMigr {k : Migr → Instr} (hk : ∀ x, HasCode (k x)) : CodedAnswer (pMigr k e) := by grind [CodedAnswer, pMigr]
@[simp] theorem coded_pSvc {k : Svc → Instr} (hk : ∀ x, HasCode (k x)) : CodedAnswer (pSvc k e) := by grind [CodedAnswer, pSvc]
@[simp] theorem coded_pCtlr {k : Ctlr → Instr} (hk : ∀ x, HasCode (k x)) : CodedAnswer (pCtlr k e) := by grind [CodedAnswer, pCtlr]
@[simp] theorem coded_pCtlw {k : Ctlw → Instr} (hk : ∀ x, HasCode (k x)) : CodedAnswer (pCtlw k e) := by grind [CodedAnswer, pCtlw]
@[simp] theorem coded_pIsync {k : Isync → Instr} (hk : ∀ x, HasCode (k x)) : CodedAnswer (pIsync k e) := by grind [CodedAnswer, pIsync]
@[simp] theorem coded_pSleep {k : Sleep → Instr} (hk : ∀ x, HasCode (k x)) : CodedAnswer (pSleep k e) := by grind [CodedAnswer, pSleep]

@[simp] theorem coded_none : CodedAnswer none := by simp [CodedAnswer]

/-- One row of the table: the code point is the row's, or is looked up in the rest. -/
theorem coded_row {code n : Nat} {o : Option Instr} {rest : ¬ code = n → Option Instr} (ho : CodedAnswer o)
    (hr : ∀ h, CodedAnswer (rest h)) : CodedAnswer (dite (code = n) (Eq.ndrec_symm (motive := fun _ => Option Instr) o) rest) := by
  split
  · subst_vars; exact ho
  · apply hr

set_option linter.auxLemma false in
/-- What the table reads has an encoding: each row's parser hands its fields to a coded constructor. -/
theorem coded_parseBody (code : Nat) (e : Enc) : CodedAnswer (parseBody code e) := by
  delta parseBody parseBody.match_1
  repeat refine coded_row (by simp (disch := with_unfolding_all exact fun _ => HasCode.of_isSome rfl)) fun _ => ?_
  exact coded_none

end

/-- What the decoder answers is well formed and is what the table's row read. -/
theorem of_decode {c : Code} {i : Instr} (h : decode c = some i) : i.wf = true ∧ HasCode i := by
  unfold decode at h
  split at h
  · split at h
    next j hj =>
      split at h <;> cases h
      exact ⟨‹_›, coded_parseBody _ _ _ hj⟩
    · cases h
  · cases h

/-- Settles O49: each row reads a coded instruction, and its encoding reads back by O48. -/
theorem decodedIsWellFormed : Obligations.DecodedIsWellFormed := by
  intro c i h
  obtain ⟨hwf, hcode⟩ := of_decode h
  obtain ⟨c', hc⟩ := Option.isSome_iff_exists.1 hcode
  exact ⟨hwf, c', hc, decodeOfEncode i c' hc hwf⟩

end Sys2Proof.Safety
end

section
/-! Lines of one head (O50). -/

open Sys2Proof.Machine
namespace Sys2Proof.Safety

/-- The halfword of a slot of a line that is put together of parts. -/
theorem slotOf_append {pre post : List Byte} {i v : Nat} (hi : pre.length = 2 * i) :
    slotOf (pre ++ (bytesOf 2 v ++ post)) i = v % 65536 := by
  have h0 : (pre ++ (bytesOf 2 v ++ post)).getD (2 * i) 0 = BitVec.ofNat 8 v := by
    rw [← hi, List.getD_append_right _ _ _ _ le_rfl, Nat.sub_self]
    rfl
  have h1 : (pre ++ (bytesOf 2 v ++ post)).getD (2 * i + 1) 0 = BitVec.ofNat 8 (v / 256) := by
    rw [← hi, List.getD_append_right _ _ _ _ (by omega), Nat.add_sub_cancel_left]
    rfl
  rw [slotOf, h0, h1]
  exact ofBytes_bytesOf 2 v

/-- A word's bytes are those of its two halfwords. -/
theorem bytesOf_four (w : Nat) : bytesOf 4 w = bytesOf 2 w ++ bytesOf 2 (w / 65536) := by
  simp [bytesOf, Nat.div_div_eq_div_mul]

/-- The word in two slots of a line that is put together of parts. -/
theorem slots_append {pre post : List Byte} {i w : Nat} (hi : pre.length = 2 * i) (hw : w < 2 ^ 32) :
    slotOf (pre ++ (bytesOf 4 w ++ post)) i + 65536 * slotOf (pre ++ (bytesOf 4 w ++ post)) (i + 1) = w := by
  have h1 := slotOf_append (post := bytesOf 2 (w / 65536) ++ post) (v := w) hi
  have h2 := slotOf_append (pre := pre ++ bytesOf 2 w) (post := post) (i := i + 1) (v := w / 65536) (by simp [length_bytesOf]; omega)
  rw [bytesOf_four]
  simp only [List.append_assoc] at h1 h2 ⊢
  rw [h1, h2]
  omega

/-- The header of a line of one head (R56). -/
def lineHeader (n : Nat) (cont : Bool) : Nat := 512 + 256 * b2n cont + 16 * n

/-- The bytes of a list of words, lowest word first (R58). -/
def tailBytes (l : List Nat) : List Byte := l.flatMap (bytesOf 4)

theorem length_tailBytes (l : List Nat) : (tailBytes l).length = 4 * l.length := by
  simp [tailBytes, List.length_flatMap, length_bytesOf, Nat.mul_comm]

/-- The line of one head: its header, the head, zeros and the tail (R55 to R57). -/
theorem lineOf_eq {c : Code} (cont : Bool) (h : c.tail.length = c.head / 2 ^ 14) : lineOf c cont =
    bytesOf 2 (lineHeader c.tail.length cont) ++ (bytesOf 2 c.head ++ (List.replicate (60 - 4 * c.tail.length) 0 ++ tailBytes c.tail)) := by
  have ht : (List.range c.tail.length).flatMap (fun k => bytesOf 4 (c.tail.getD k 0)) = tailBytes c.tail := by
    rw [tailBytes, ← List.flatMap_map (fun k => c.tail.getD k 0) (bytesOf 4)]
    congr
    exact List.ext_getElem (by simp) (by simp +contextual)
  simp only [lineOf, show c.head / 16384 = c.tail.length from h.symm, ht, lineHeader]
  simp [← Nat.mul_assoc]

section
variable {c : Code} {cont : Bool} (h : c.tail.length = c.head / 2 ^ 14) (hh : c.head < 2 ^ 16)
include h hh

theorem length_tail_le_three : c.tail.length ≤ 3 := by omega

theorem slotOf_lineOf_zero : slotOf (lineOf c cont) 0 = lineHeader c.tail.length cont := by
  have := length_tail_le_three h hh
  have := b2n_lt cont
  rw [lineOf_eq cont h, ← List.nil_append (bytesOf 2 _ ++ _), slotOf_append rfl]
  exact Nat.mod_eq_of_lt (by simp only [lineHeader]; omega)

theorem slotOf_lineOf_one : slotOf (lineOf c cont) 1 = c.head := by
  rw [lineOf_eq cont h, slotOf_append (pre := bytesOf 2 _) (i := 1) (length_bytesOf ..)]
  exact Nat.mod_eq_of_lt hh

theorem length_lineOf : (lineOf c cont).length = 64 := by
  have := length_tail_le_three h hh
  simp [lineOf_eq cont h, length_bytesOf, length_tailBytes]
  omega

theorem slots_lineOf_tail {k : Nat} (hk : k < c.tail.length) (hw : c.tail[k] < 2 ^ 32) :
    slotOf (lineOf c cont) (32 - 2 * c.tail.length + 2 * k) + 65536 * slotOf (lineOf c cont) (32 - 2 * c.tail.length + 2 * k + 1) = c.tail[k] := by
  have := length_tail_le_three h hh
  have ht : tailBytes c.tail = tailBytes (c.tail.take k) ++ (bytesOf 4 c.tail[k] ++ tailBytes (c.tail.drop (k + 1))) := by
    rw [tailBytes, tailBytes, tailBytes, ← List.flatMap_cons, ← List.drop_eq_getElem_cons hk, ← List.flatMap_append,
      List.take_append_drop]
  rw [lineOf_eq cont h, ht]
  simp only [← List.append_assoc _ _ (bytesOf 4 _ ++ _)]
  refine slots_append ?_ hw
  simp [length_bytesOf, length_tailBytes]
  omega

end

/-- Settles O50: the line is put together of the header, the head, zeros and the tail, and each field is read where it was put. -/
theorem linesReadBack : Obligations.LinesReadBack := by
  intro c cont hh h hw
  have hn := length_tail_le_three h hh
  have h0 := slotOf_lineOf_zero (cont := cont) h hh
  have h1 := slotOf_lineOf_one (cont := cont) h hh
  have hH : lineH (lineOf c cont) = 1 := by
    rw [lineH, h0]; cases cont <;> simp [bits, lineHeader, b2n] <;> omega
  have hl : tailLen (lineOf c cont) 1 = 2 * c.tail.length := by rw [tailLen, h1]; omega
  have hs : tailSum (lineOf c cont) 1 = 2 * c.tail.length := by rw [tailSum, tailSum, hl, Nat.zero_add]
  refine ⟨length_lineOf h hh, hH, ?_, ?_, ?_, ?_⟩
  · rw [lineCont, h0, bit_eq]; cases cont <;> simp [lineHeader, b2n] <;> omega
  · rw [lineKind, h0]; cases cont <;> simp [bits, lineHeader, b2n] <;> omega
  · rw [lineValid]; simp only [hH, hs, h0, bits]; cases cont <;> simp [lineHeader, b2n] <;> omega
  · have ht : (codeAt (lineOf c cont) 1).tail = c.tail := by
      refine List.ext_getElem (by simp [codeAt, h1, h]) fun k hk hk' => ?_
      simp only [codeAt, hl, List.getElem_map, List.getElem_range]
      exact slots_lineOf_tail h hh hk' (hw _ (List.getElem_mem hk'))
    calc codeAt (lineOf c cont) 1 = ⟨c.head, c.tail⟩ := by rw [← ht, ← h1]; rfl
      _ = c := rfl

end Sys2Proof.Safety
end

section
/-! Memory (O57). -/

open Sys2Proof.Machine
namespace Sys2Proof.Safety

variable {s t : State}

theorem mem_poke_eq_sliceWrite (s : State) (ws : List (Nat × Byte)) : (poke s ws).mem = (sliceWrite s ws).mem :=
  (mem_sliceWrite s ws).symm

/-- A write of bytes leaves the other addresses, and those whose bytes the host loses, as they were. -/
theorem rd8_poke_run_of_outside {pa a : Nat} {bs : List Byte} (h : ¬ (pa ≤ a ∧ a < pa + bs.length) ∨ unbackedAt s a = true) :
    rd8 (poke s (run pa bs)) a = rd8 s a := by
  rw [rd8_congr (mem_poke_eq_sliceWrite s _)]
  rcases h with h | h
  · exact rd8_sliceWrite_run_of_outside (by omega)
  · rw [rd8_sliceWrite, if_pos h]

/-- Settles O57: the canonical form by the laws of each operation, what a read gives by those of the write at the slices. -/
theorem memoryReadsAndWrites : Obligations.MemoryReadsAndWrites :=
  ⟨fun _ _ => .poke, fun _ _ => .sliceWrite, fun _ _ _ => .cacDrop, fun _ _ _ _ => .coreStore, fun _ _ _ _ => .pokeVirt,
    fun _ _ _ => .hostWrite,
    fun s _ _ h => (rdBytes_congr (mem_poke_eq_sliceWrite s _) _ _).trans (rdBytes_sliceWrite_run h),
    fun _ _ _ _ => rd8_poke_run_of_outside,
    fun _ _ hs ht h => Tab.ext_of_wf hs ht h⟩

end Sys2Proof.Safety
end

section
/-! Words of the spec (O51). -/

open Sys2Proof.Machine
namespace Sys2Proof.Safety

/-- Settles O51: the decoder evaluates each word. -/
theorem wordsFromTheSpec : Obligations.WordsFromTheSpec := by
  unfold Obligations.WordsFromTheSpec
  decide

end Sys2Proof.Safety
end

section
/-! What a step runs (O52). -/

open Sys2Proof.Machine
namespace Sys2Proof.Safety

variable {s s0 s1 t x : State} {i : Instr} {un : UnitSt} {u e : Nat} {sp sp' : Split} {rest : List Turn} {l : List Byte}

theorem issue_next (i : Instr) (s : State) (body : Issue → State → State) : ∃ t, issue i s body = .next t := by
  unfold Machine.issue
  split <;> exact ⟨_, rfl⟩

/-- No instruction and no event halts or refuses the step: a coded instruction issues, an event has one effect. -/
theorem exec_next (i : Instr) (s : State) : ∃ t, exec i s = .next t := by
  by_cases h : (encode i).isSome
  · obtain ⟨body, e⟩ := exec_issues (s := s) h
    exact e ▸ issue_next i s body
  unfold exec
  cases i
  case pageWalk =>
    show ∃ t, execPageWalk _ _ _ s = .next t
    unfold execPageWalk
    split <;> exact ⟨_, rfl⟩
  case producerCompletion | remoteFill | cacWriteback | resultRecordAppend | issueSelect | strandIssueSelect | loadLimitWindow | sleepExpiry
    | barcSweepArrival | barcSweepRelease | gridBarrierRelease | matrixEntryStart | matrixEntryFinish | stagingComplete
    | multicastWindowRead | jointOperationStart | moveSwitch | moveRebuild | moveComplete | tileFlush | moveWaitRelease | roleListReturn
    | copy | fill | vfill | tsend | plan | planSend | copyComplete | mergeOpen | mergeClose | frame | absent | sink | route | unsink
    | sinkRelease | serviceAccept | rasterOpen | draw | resolve | rasterClose | clear | trace | sample | endRecord | contextEntryWake
    | contextLeave | queueTailWrite | placeCluster | placeStrand | placeSuperstepGrid | taskRetire | sumpTimeout | sumpPlace
    | balancerSample | balancerDeferredMove | faultRecordWrite | resume | redirect | enter | retire | stop | inval | preempt | restore
    | migrate | migrationResume | freeze | thaw | routeUpdate | routeUpdateAck | hostSnoop | cxlMemRequest | linkRetrain | linkUp
    | linkDownTimeout | fabricBlockWrite | packetForward | tilePacketArrival | nodeDeadline | leafFrameClose | keepAliveSend
    | keepAliveArrival | childTimeout | absentNotice | sessionClose | rootTileDelivery | frameRecord | go | lattolWrite | clklimWrite
    | mgmtWindowWrite | powerOn | firmware | selftest | memory | links | idleTimeout | powerEntryComplete | powerWake | powerExitComplete
    | thermalStep | grantMapWrite | grantArrival | patrolScrub | lifetimeRecordWrite | getVersion | getCapabilities | negotiateAlgorithms
    | getDigests | getCertificate | challenge | getMeasurements | debugHalt | debugResume | debugStep | debugRead | debugWrite | commit
    | drop | debugRevoke | storeCompletion | portWordArrival | relocationComplete | softError =>
    exact ⟨_, rfl⟩
  all_goals exact absurd rfl h

/-! The turn of a unit -/

theorem step_of_issueTurn (ha : s.agenda = .issue u :: rest) (hu : s.unit? u = some un)
    (h : issueTurn { s with agenda := rest } u = (x, some i)) :
    step s = unlessDeep { s with agenda := rest } (fun _ t => t) (endIssue (unlessCrowded x (exec i x))) := by
  have hu' : State.unit? { s with agenda := rest } u = some un := hu
  rw [step, ha]
  simp only [issueStep, hu', h]

theorem step_of_issueTurn_none (ha : s.agenda = .issue u :: rest) (hu : s.unit? u = some un)
    (h : issueTurn { s with agenda := rest } u = (x, none)) :
    step s = unlessDeep { s with agenda := rest } (fun _ t => t) (.next x) := by
  have hu' : State.unit? { s with agenda := rest } u = some un := hu
  rw [step, ha]
  simp only [issueStep, hu', h]

section
variable (hu : s.unit? u = some un) (hm : mayIssue s un = true) (hr : un.running = some (e, sp)) (hs : sp.stage ≠ skipStage)
include hu hm hr hs

/-- A running split that has its line issues the instruction at its pc. -/
theorem issueTurn_decoded (hl : sp.line = some l) (hd : decode (codeAt l (headIx sp.pc)) = some i) :
    issueTurn s u = ({ markIssue s u un e sp i with actor := some u }, some i) := by
  simp [issueTurn, hu, hm, hr, hl, hs, nextOf, Split.bytes, hd]

/-- A word that is no instruction traps (R70). -/
theorem issueTurn_illegal (hl : sp.line = some l) (hd : decode (codeAt l (headIx sp.pc)) = none) :
    issueTurn s u = (trapHere s u e causeIllegalOp, none) := by
  simp [issueTurn, hu, hm, hr, hl, hs, nextOf, Split.bytes, hd]
end

/-! The turn of a unit whose split has no line yet -/

theorem units_fetchLine {pc : DWord} (h : fetchLine s un sp pc = .line l t) : t.units = s.units := by
  have hr (x : State) (pa : Nat) : (obtainRead x pa).units = x.units :=
    show (besideLines _).units = (besideLines _).units by rw [besideLines_obtainRead]
  unfold fetchLine at h
  split at h
  · split at h <;> cases h
    rfl
  · dsimp only at h
    split at h
    · cases h; rfl
    · split at h
      · cases h
      · cases h
      · split at h
        · cases h
        · cases h
          split <;> split <;> simp [hr, fillFirst] <;> split <;> rfl

theorem of_running (h : un.running = some (e, sp)) : (e, sp) ∈ un.splits ∧ sp.st = .running := by
  simpa using List.mem_filter.1 (List.mem_of_mem_head? h)

theorem mem_splits {x : Nat × Split} : x ∈ un.splits ↔ (x.1, Entry.split x.2) ∈ un.entries := by
  simp only [UnitSt.splits, List.mem_filterMap, Prod.exists]
  constructor
  · rintro ⟨k, v, hm, h⟩
    cases v <;> cases h
    exact hm
  · intro h
    exact ⟨_, _, h, rfl⟩

theorem splits_put_perm (un : UnitSt) (e : Nat) (sp : Split) : List.Perm (UnitSt.splits { un with entries := Tab.put un.entries e (.split sp) })
    ((e, sp) :: UnitSt.splits { un with entries := Tab.del un.entries e }) :=
  (ins_perm (Tab.del un.entries e) e (.split sp)).filterMap _

/-- Alone among the running splits, a split replaced by one that runs is the split that runs. -/
theorem running_modSplit (he : un.split? e = some sp) (h1 : ∀ x ∈ un.splits, x.2.st = .running → x = (e, sp)) (hs : sp'.st = .running) :
    (un.modSplit e fun _ => sp').running = some (e, sp') := by
  have hrest : ∀ x ∈ UnitSt.splits { un with entries := Tab.del un.entries e }, ¬ decide (x.2.st = .running) = true := by
    intro x hx hrun
    obtain ⟨hm, hne⟩ := List.mem_filter.1 (del_eq_filter un.entries e ▸ mem_splits.1 hx)
    simp [h1 x (mem_splits.2 hm) (by simpa using hrun)] at hne
  have hp := (splits_put_perm un e sp').filter (fun x => decide (x.2.st = .running))
  rw [List.filter_cons_of_pos (by simpa using hs), List.filter_eq_nil_iff.2 hrest] at hp
  simp only [UnitSt.modSplit, he]
  rw [UnitSt.running, List.perm_singleton.1 hp]
  rfl

theorem issueTurn_fetched (hu : s.unit? u = some un) (hm : mayIssue s un = true) (hr : un.running = some (e, sp))
    (hs : sp.stage ≠ skipStage) (he : un.split? e = some sp) (h1 : ∀ x ∈ un.splits, x.2.st = .running → x = (e, sp))
    (hl : sp.line = none) (hf : fetchLine s un sp sp.pc = .line l s1) (hc : fetchChecks l sp.pc = none)
    (hd : decode (codeAt l (headIx sp.pc)) = some i) :
    let un' := un.modSplit e (fun _ => { sp with line := some l })
    issueTurn s u = ({ markIssue (s1.putUnit u un') u un' e { sp with line := some l } i with actor := some u }, some i) := by
  intro un'
  have hu1 : s1.unit? u = some un := by rw [State.unit?, units_fetchLine hf]; exact hu
  have hr' : un'.running = some (e, { sp with line := some l }) := running_modSplit he h1 (of_running hr).2
  have hen : enterLine s u e un sp = s1.putUnit u un' := by
    simp only [enterLine, hf, hc, State.modUnit, Tab.modify_of_find hu1, State.putUnit, un', UnitSt.modSplit, he]
  simp [issueTurn, hu, hm, hr, hl, hen, hr', hs, nextOf, Split.bytes, hd]

theorem stepRuns : Sys2Proof.Claims.StepRuns := by
  refine ⟨?_, ?_, ?_, ?_, ?_, ?_, ?_, ?_, ?_, exec_next⟩
  · intro s u rest un e sp l i ha s0 hu hm hr hs hl hd
    exact step_of_issueTurn ha hu (issueTurn_decoded hu hm hr hs hl hd)
  · intro s u rest un e sp l s1 i ha s0 hu hm hr hs he h1 hl hf hc hd
    exact step_of_issueTurn ha hu (issueTurn_fetched hu hm hr hs he h1 hl hf hc hd)
  · intro s u rest un e sp l ha s0 hu hm hr hs hl hd
    exact step_of_issueTurn_none ha hu (issueTurn_illegal hu hm hr hs hl hd)
  · rintro s t ⟨⟩
    rfl
  · intro s t h
    cases ha : s.actor with
    | none => simp [unlessCrowded, ha]
    | some u =>
      cases hu : s.unit? u with
      | none => simp [unlessCrowded, ha, hu]
      | some un => simp [unlessCrowded, ha, hu, h u un ha hu]
  · intro s again t h
    have hd : deepDies s t = [] := by simpa [deepDies] using h
    simp [unlessDeep, hd]
  · intro s ha
    rw [step, ha]
  · intro s e rest ha s0 he
    rw [step, ha]
    simp only [takeTurn]
    rw [he]
  · intro s u rest ha hu
    have hu' : State.unit? { s with agenda := rest } u = none := hu
    rw [step, ha]
    simp only [issueStep, hu']

/-- An event's turn runs the event of the same name: the table of turns, row by row. -/
theorem eventTurns : Sys2Proof.Claims.EventTurns := by
  unfold Sys2Proof.Claims.EventTurns
  repeat' apply And.intro
  all_goals intros; rfl

/-- Settles O52: the turns of units by what the split's line decodes to, the turns of events by their table. -/
theorem stepRunsDecoded : Obligations.StepRunsDecoded := ⟨stepRuns, eventTurns⟩

end Sys2Proof.Safety
end

section
/-! Transfers of control, loops, TRAP and EXIT (O14). -/

open Sys2Proof Sys2Proof.Machine
namespace Sys2Proof.Safety

section
variable {i : Instr} {s : State} {c : Issue}

/-- An instruction that acts has the effect of its body. -/
theorem issue_of_acts (h : Acts i s c) (body : Issue → State → State) : issue i s body = .next (body c s) := by
  rw [Machine.issue, show ready i s = .acts c from h]

/-- R66 in whole numbers. -/
theorem targetAddr_eq_ofInt (pc : DWord) (t : Target) :
    targetAddr pc t = BitVec.ofInt 64 (64 * ((pc.toNat / 64 : Nat) + t.disp.toInt) + 2 * t.head.val) := by
  have hs : t.disp.signExtend 64 = BitVec.ofInt 64 t.disp.toInt := rfl
  have h64 : (64 : DWord) = BitVec.ofInt 64 64 := rfl
  simp only [targetAddr, lineBase, dw, hs, h64, ← BitVec.ofInt_natCast, ← BitVec.ofInt_mul, ← BitVec.ofInt_add]
  congr 1
  push_cast
  ring

/-- R91 with the line's base in numbers. -/
theorem returnAddr_eq (sp : Split) (pc : DWord) : returnAddr sp pc =
    if pc.toNat % 64 / 2 < lineH sp.bytes then pc + 2 else BitVec.ofNat 64 (pc.toNat / 64 * 64 + 66) := by
  rw [returnAddr, headIx, lineBase, BitVec.ofNat_add]
  rfl

theorem returnAddr_of_succ {sp : Split} {pc start : DWord} (h : succ? sp pc = some start) : returnAddr sp pc = start := by
  unfold succ? at h
  unfold returnAddr
  split at h <;> simp_all

/-- A branch of the whole split to one target is one transfer. -/
theorem branch_whole (h : c.lanes = c.sp.mask) (m : Mask) (t : DWord) (loc cancel : Bool) (effect : State → State) :
    branch c s [(m, t, loc)] cancel effect =
      stepTrap (transfer (foldTarget (effect (countRetired s c.u)) c.u c.sp.low t) c.u c.e t loc cancel) c.u c.e := by
  simp [branch, h, foldTakes]

theorem lanesOf_ne_nil {m : Mask} (h : m ≠ 0) : lanesOf m ≠ [] := by
  contrapose! h
  refine BitVec.eq_of_getLsbD_eq fun l hl => ?_
  simpa using List.filter_eq_nil_iff.1 h l (List.mem_range.2 hl)

/-- Lanes that agree on a target make one take. -/
theorem pointerTakes_of_forall_eq {f : Nat → DWord} {t : DWord} (h0 : c.lanes ≠ 0) (h : ∀ l ∈ lanesOf c.lanes, f l = t) :
    pointerTakes c f = [pointerTake c (c.lanes &&& maskOf (fun l => f l == t)) t] := by
  obtain ⟨l, ls, hl⟩ := List.exists_cons_of_ne_nil (lanesOf_ne_nil h0)
  have hm : (lanesOf c.lanes).map f = List.replicate (ls.length + 1) t := by
    rw [List.map_congr_left h, List.map_const', hl, List.length_cons]
  rw [pointerTakes, hm, List.replicate_succ, List.eraseDups_cons]
  simp

end

/-- A transfer taken by the whole split is one transfer to its target. -/
theorem branches : Sys2Proof.Claims.Branches := by
  refine ⟨?_, ?_, ?_, ?_, ?_⟩
  · intro y s c ha hl
    show execBr y s = _
    rw [execBr, issue_of_acts ha, relTake, branch_whole hl, targetAddr_eq_ofInt]
  · intro y s c ha hl
    show execCall y s = _
    rw [execCall, issue_of_acts ha, relTake, branch_whole hl, targetAddr_eq_ofInt, returnAddr_eq]
  · intro y s c t ha hl h0 ht
    show execJmpi y s = _
    rw [execJmpi, issue_of_acts ha, pointerTakes_of_forall_eq h0 ht, pointerTake, branch_whole hl]
    rfl
  · intro y s c t ha hl h0 ht
    show execCalli y s = _
    rw [execCalli, issue_of_acts ha, pointerTakes_of_forall_eq h0 ht, pointerTake, branch_whole hl, returnAddr_eq]
    rfl
  · intro h s c ha hl
    show execRet h s = _
    rw [execRet, issue_of_acts ha, pointerTake, branch_whole hl]
    rfl

section
variable {s : State} {c : Issue} {n : Nat} {t : Target}

/-- A loop with a count and a successor begins there. -/
theorem startLoop_succ {count : Word} {start : DWord} (h0 : count ≠ 0) (h : succ? c.sp c.sp.pc = some start) :
    startLoop c s n count t =
    let un := cancelLoop c.un n
    finish c (s.putUnit c.u { un with
      regs := { un.regs with lc := Tab.set 0 un.regs.lc n count }
      loops := Tab.put un.loops n { start := start, fin := targetAddr c.sp.pc t }
      nest := n :: un.nest }) := by
  simp only [startLoop, if_neg h0, h, returnAddr_of_succ h]

/-- A loop with the count 0 is entered nowhere: its split goes on after the loop's end. -/
theorem startLoop_zero : startLoop c s n 0 t =
    let un := cancelLoop c.un n
    countRetired (s.putUnit c.u
      (UnitSt.modSplit { un with regs := { un.regs with lc := Tab.set 0 un.regs.lc n 0 } } c.e
        (fun sp => { sp.goto (targetAddr c.sp.pc t) sp.loc with stage := skipStage }))) c.u := rfl

/-- A trap of the whole split leaves no part to go on. -/
theorem trapPart_whole {cause : Nat} (h : c.lanes = c.sp.mask) : trapPart c s cause =
    countRetired (takeTrap s c.u c.e { cause := cause, pc := c.sp.pc, addr := c.sp.pc }) c.u := by
  simp [trapPart, h]
end

theorem otherControl : Sys2Proof.Claims.OtherControl := by
  refine ⟨?_, ?_, ?_, ?_, ?_, ?_, ?_, ?_, ?_⟩
  · intro h s c ha
    show execNop h s = _
    rw [execNop, issue_of_acts ha]
  · intro h s c ha
    show execYield h s = _
    rw [execYield, issue_of_acts ha]
  · intro y s c ha hl
    show execTrap y s = _
    rw [execTrap, issue_of_acts ha, trapPart_whole hl, causeTrap]
  · intro y s c ha h0 un e2 hd
    show execTrap y s = _
    rw [execTrap, issue_of_acts ha, trapPart, if_neg h0, hd, causeTrap]
  · intro y s c start ha h0 h
    show execLoop y s = _
    rw [execLoop, issue_of_acts ha, startLoop_succ h0 h]
  · intro y s c start ha h0 h
    show execLoopi y s = _
    rw [execLoopi, issue_of_acts ha, startLoop_succ h0 h]
  · intro y s c ha h0
    show execLoop y s = _
    rw [execLoop, issue_of_acts ha, h0, startLoop_zero]
  · intro y s c ha h0
    show execLoopi y s = _
    rw [execLoopi, issue_of_acts ha, h0, startLoop_zero]
  · intro h s c ha
    show execExit h s = _
    rw [execExit, issue_of_acts ha]

/-- Settles O14: each instruction has the effect of its body, and the whole split takes the transfer. -/
theorem transfersOfControl : Obligations.TransfersOfControl := ⟨branches, otherControl⟩

end Sys2Proof.Safety
end

section
/-! What an instruction of the registers leaves as it was (O54). `UnitKept` and `Framed` say of two units and of two states what `Kept`
asks, in a form that composes; each operation on the way of such an instruction keeps them. -/

open Sys2Proof Sys2Proof.Machine
namespace Sys2Proof.Safety

/-! Units -/

/-- The second unit keeps the first one's registers but the results, and its active loops are old ones or results. -/
structure UnitKept (r : Results) (un un' : UnitSt) : Prop where
  v : ∀ n : Fin 1024, ∀ l < 32, .v n ∉ r.regs → readV un' n.val l = readV un n.val l
  s : ∀ n : Fin 64, .s n ∉ r.regs → readS un' n.val = readS un n.val
  p : ∀ n : Fin 16, n ∉ r.preds → ∀ l, readP un' n l = readP un n l
  lc : ∀ n : Fin 4, .lc n ∉ r.regs → n.val ∉ un.nest → Tab.get 0 un'.regs.lc n.val = Tab.get 0 un.regs.lc n.val
  nest : ∀ n : Fin 4, .lc n ∉ r.regs → n.val ∉ un.nest → n.val ∉ un'.nest
  q : un'.regs.q = un.regs.q
  eng : un'.eng = un.eng
  ctl : CtlKept un un' r

section
variable {r : Results} {un un₁ un₂ : UnitSt}

theorem CtlKept.of_eq (h : un₁.ctl = un.ctl) : CtlKept un un₁ r := by simp [CtlKept, h]

theorem CtlKept.trans (h : CtlKept un un₁ r) (h' : CtlKept un₁ un₂ r) : CtlKept un un₂ r := by
  obtain ⟨hc, hf, hd⟩ := h
  obtain ⟨hc', hf', hd'⟩ := h'
  refine ⟨by rw [hc', hc], fun hr l => ?_, fun hr => (hd' hr).trans (hd hr)⟩
  exact ⟨(hf' hr l).1.trans (hf hr l).1, (hf' hr l).2.trans (hf hr l).2⟩

theorem UnitKept.regsKept (h : UnitKept r un un₁) : RegsKept un un₁ r :=
  ⟨h.v, h.s, h.p, fun hn n hr => h.lc n hr (by simp [hn]), h.q, h.eng⟩

theorem UnitKept.trans (h : UnitKept r un un₁) (h' : UnitKept r un₁ un₂) : UnitKept r un un₂ where
  v n l hl hn := (h'.v n l hl hn).trans (h.v n l hl hn)
  s n hn := (h'.s n hn).trans (h.s n hn)
  p n hn l := (h'.p n hn l).trans (h.p n hn l)
  lc n hn ho := (h'.lc n hn (h.nest n hn ho)).trans (h.lc n hn ho)
  nest n hn ho := h'.nest n hn (h.nest n hn ho)
  q := h'.q.trans h.q
  eng := h'.eng.trans h.eng
  ctl := h.ctl.trans h'.ctl

/-- With the same registers, engine queues and control registers, and no new active loop, a unit is kept. -/
theorem UnitKept.of_regs_eq (hr : un₁.regs = un.regs) (hn : ∀ n ∈ un₁.nest, n ∈ un.nest) (he : un₁.eng = un.eng)
    (hc : un₁.ctl = un.ctl) : UnitKept r un un₁ where
  v n l _ _ := by rw [readV, readV, hr]
  s n _ := by rw [readS, readS, hr]
  p n _ l := by rw [readP, readP, hr]
  lc n _ _ := by rw [hr]
  nest n _ ho hm := ho (hn _ hm)
  q := by rw [hr]
  eng := he
  ctl := .of_eq hc

/-- With the same registers, engine queues and loops, a unit is kept as far as its control registers are. -/
theorem UnitKept.of_ctlKept (hr : un₁.regs = un.regs) (hn : un₁.nest = un.nest) (he : un₁.eng = un.eng) (hc : CtlKept un un₁ r) :
    UnitKept r un un₁ :=
  { UnitKept.of_regs_eq (r := r) (un := un) (un₁ := { un₁ with ctl := un.ctl }) hr (by simp [hn]) he rfl with ctl := hc }

/-! Splits and joins: what the unit holds besides them -/

/-- The registers, loops, engine queues and control registers of a unit. -/
def holds (un : UnitSt) : Regs × List Nat × Eng × Ctl := (un.regs, un.nest, un.eng, un.ctl)

theorem UnitKept.of_holds (h : holds un₁ = holds un) : UnitKept r un un₁ := by
  obtain ⟨hr, hn, he, hc⟩ : un₁.regs = un.regs ∧ un₁.nest = un.nest ∧ un₁.eng = un.eng ∧ un₁.ctl = un.ctl := by simpa [holds] using h
  exact .of_regs_eq hr (by simp [hn]) he hc

theorem UnitKept.refl : UnitKept r un un := .of_holds rfl

@[simp] theorem holds_modSplit (e : Nat) (f : Split → Split) : holds (un.modSplit e f) = holds un := by
  unfold UnitSt.modSplit
  split <;> rfl

@[simp] theorem holds_choose : holds (choose un) = holds un := by
  unfold choose
  split
  · rfl
  · split
    · exact holds_modSplit ..
    · rfl

@[simp] theorem holds_passRole : holds (passRole un₁ un) = holds un := by
  unfold passRole
  split
  · exact holds_choose
  · rfl

@[simp] theorem holds_arriveFrom (e n : Nat) : holds (arriveFrom un e n) = holds un := by
  induction n generalizing un e with
  | zero => rfl
  | succ n ih =>
    unfold arriveFrom
    split
    · rfl
    · split
      · split
        · rfl
        · split
          · dsimp only
            split
            · exact ih ..
            · rfl
          · rfl
      · rfl

@[simp] theorem holds_arrive (e : Nat) : holds (arrive un e) = holds un := by simp [arrive]

/-- Dividing a split changes the entries and who holds the operations. -/
theorem holds_divide {e : Nat} {sp : Split} {parts : List (Mask × Split)} {es : List Nat} (h : divide un e sp parts = some (un₁, es)) :
    holds un₁ = holds un := by
  unfold divide at h
  dsimp only at h
  split at h
  · cases h
  · cases h
    rfl

/-! Loops -/

theorem mem_of_mem_keepLoops {loops : Tab LoopRec} {t : DWord} {nest : List Nat} {n : Nat} (h : n ∈ keepLoops loops t nest) : n ∈ nest := by
  unfold keepLoops at h
  induction nest using List.reverseRecOn with
  | nil => exact h
  | append_singleton l k ih =>
    rw [List.foldl_append] at h
    simp only [List.foldl_cons, List.foldl_nil] at h
    split at h
    · split at h
      · rcases List.mem_append.1 h with h | h
        · exact List.mem_append_left _ (ih h)
        · exact List.mem_append_right _ h
      · cases h
    · cases h

theorem UnitKept.cancelLoops (h : UnitKept r un un₁) (t : DWord) : UnitKept r un (cancelLoops un₁ t) :=
  h.trans (.of_regs_eq rfl (fun _ hn => mem_of_mem_keepLoops hn) rfl rfl)

theorem UnitKept.cancelLoop (h : UnitKept r un un₁) (n : Nat) : UnitKept r un (cancelLoop un₁ n) := by
  unfold Machine.cancelLoop
  split
  · exact h.trans (.of_regs_eq rfl (fun _ hn => (List.dropWhile_sublist _).subset (List.mem_of_mem_drop hn)) rfl rfl)
  · exact h

/-- The counter of a loop is written, where the loop is a result or active. -/
theorem UnitKept.setLc {k : Nat} (w : Word) (hk : ∀ n : Fin 4, n.val = k → .lc n ∈ r.regs ∨ k ∈ un.nest) :
    UnitKept r un { un with regs := { un.regs with lc := Tab.set 0 un.regs.lc k w } } where
  v _ _ _ _ := rfl
  s _ _ := rfl
  p _ _ _ := rfl
  lc n hn ho := Tab.get_set_ne 0 un.regs.lc w fun h => (hk n h).elim hn (h ▸ ho)
  nest _ _ ho := ho
  q := rfl
  eng := rfl
  ctl := .of_eq rfl

/-- A loop that is a result becomes active. -/
theorem UnitKept.beginLoop {n : Fin 4} (h : .lc n ∈ r.regs) (loops : Tab LoopRec) :
    UnitKept r un { un with loops := loops, nest := n.val :: un.nest } where
  v _ _ _ _ := rfl
  s _ _ := rfl
  p _ _ _ := rfl
  lc _ _ _ := rfl
  nest _ hk ho hm := (List.mem_cons.1 hm).elim (fun e => hk (Fin.ext e ▸ h)) ho
  q := rfl
  eng := rfl
  ctl := .of_eq rfl

/-- The end test counts active loops and ends them. -/
theorem UnitKept.endTest (y : DWord) (n : Nat) : UnitKept r un (endTest un y n).1 := by
  induction n generalizing un with
  | zero => exact .refl
  | succ n ih =>
    unfold Machine.endTest
    split
    · exact .refl
    next k rest hk =>
      have hm : k ∈ un.nest := by simp [hk]
      split
      · split
        · dsimp only
          split
          · refine .trans ?_ ih
            exact (setLc 0 fun _ _ => .inr hm).trans (.of_regs_eq rfl (fun _ h => hk ▸ List.mem_cons_of_mem _ h) rfl rfl)
          · exact .setLc _ fun _ _ => .inr hm
        · exact .refl
      · exact .refl

/-! Registers -/

theorem readV_writeV_of_ne {n k l : Nat} {m : Mask} (f : Nat → Word) (h : k ≠ n) (hl : l < 32) : readV (writeV un n m f) k l = readV un k l := by
  have e (t : Tab Word) (ls : List Nat) : ls.foldl (fun t j => Tab.set 0 t (n * 32 + j) (f j)) t =
      (ls.map (fun j => (n * 32 + j, f j))).foldl (fun t w => Tab.set 0 t w.1 w.2) t := by rw [List.foldl_map]
  simp only [readV, writeV, e]
  refine get_foldl_set_of_forall_ne _ fun w hw => ?_
  obtain ⟨j, hj, rfl⟩ := List.mem_map.1 hw
  have hj : j < 32 := List.mem_range.1 (List.mem_filter.1 hj).1
  dsimp only
  omega

theorem UnitKept.writeV {n : Fin 1024} (h : .v n ∈ r.regs) (m : Mask) (f : Nat → Word) : UnitKept r un (writeV un n.val m f) where
  v _ _ hl hk := readV_writeV_of_ne f (fun e => hk (Fin.ext e ▸ h)) hl
  s _ _ := rfl
  p _ _ _ := rfl
  lc _ _ _ := rfl
  nest _ _ ho := ho
  q := rfl
  eng := rfl
  ctl := .of_eq rfl

theorem UnitKept.writeS {n : Fin 64} (h : .s n ∈ r.regs) (w : Word) : UnitKept r un (writeS un n.val w) where
  v _ _ _ _ := rfl
  s _ hk := Tab.get_set_ne 0 un.regs.s w fun e => hk (Fin.ext e ▸ h)
  p _ _ _ := rfl
  lc _ _ _ := rfl
  nest _ _ ho := ho
  q := rfl
  eng := rfl
  ctl := .of_eq rfl

theorem UnitKept.writeP {n : Fin 16} (h : n ∈ r.preds) (m : Mask) (f : Nat → Bool) : UnitKept r un (writeP un n m f) := by
  unfold Machine.writeP
  split
  · exact .refl
  · exact {
      v := fun _ _ _ _ => rfl
      s := fun _ _ => rfl
      p := fun k hk l => by
        have hne : k.val ≠ n.val := fun e => hk (Fin.ext e ▸ h)
        simp only [readP, Tab.get_set_ne 0 un.regs.p _ hne]
      lc := fun _ _ _ => rfl
      nest := fun _ _ ho => ho
      q := rfl
      eng := rfl
      ctl := .of_eq rfl }

/-- A full/empty condition is no register. -/
theorem UnitKept.setFe (d : Operand) (f : Fe) : UnitKept r un (setFe un d f) := by
  unfold Machine.setFe
  split
  iterate 2
    exact ⟨fun _ _ _ _ => rfl, fun _ _ => rfl, fun _ _ _ => rfl, fun _ _ _ => rfl, fun _ _ ho => ho, rfl, rfl, .of_eq rfl⟩
  exact .refl

theorem UnitKept.addOp (o : Op) : UnitKept r un (addOp un o) := by
  have hf (l : List Operand) {un₁ : UnitSt} (h : UnitKept r un un₁) : UnitKept r un (l.foldl (fun un d => Machine.setFe un d .pending) un₁) := by
    induction l generalizing un₁ with
    | nil => exact h
    | cons d l ih => exact ih (h.trans (.setFe d _))
  exact (hf o.dests .refl).trans (.of_holds rfl)

theorem UnitKept.orFlags (h : r.flags = true) (m : Mask) (fl : Nat → Nat) : UnitKept r un (orFlags un m fl) :=
  .of_ctlKept rfl rfl rfl ⟨rfl, by simp [h], fun _ => rfl⟩

end
end Sys2Proof.Safety
end

section
/-! The parts of the state that an instruction of the registers leaves alone, and the operations it is made of (O54). -/

open Sys2Proof Sys2Proof.Machine
namespace Sys2Proof.Safety

/-! States -/

/-- From the first state to the second, memory, teams, tasks, contexts, Cisterns, arrays and the other units are as they were, and the
unit is kept but for its results. -/
structure Framed (u : Nat) (r : Results) (s t : State) : Prop where
  mem : t.mem = s.mem
  now : t.now = s.now
  teams : t.teams = s.teams
  tasks : t.tasks = s.tasks
  ctxs : t.ctxs = s.ctxs
  mgmt : t.mgmt = s.mgmt
  ci : ∀ k, (t.core k).ci = (s.core k).ci
  mx : ∀ k, (t.core k).mx = (s.core k).mx
  local_ : ∀ k, (t.score k).local_ = (s.score k).local_
  others : ∀ v, v ≠ u → t.unit? v = s.unit? v
  unit : ∀ un, s.unit? u = some un → ∃ un', t.unit? u = some un' ∧ UnitKept r un un'

/-- The parts of the state of which a frame speaks. -/
def framedParts (s : State) :=
  (s.mem, s.now, s.teams, s.tasks, s.ctxs, s.mgmt, s.cores, s.scores, s.units)

section
variable {r : Results} {s₀ s t : State} {un un' : UnitSt} {u : Nat}

theorem Framed.refl : Framed u r s s where
  mem := rfl
  now := rfl
  teams := rfl
  tasks := rfl
  ctxs := rfl
  mgmt := rfl
  ci _ := rfl
  mx _ := rfl
  local_ _ := rfl
  others _ _ := rfl
  unit un hu := ⟨un, hu, .refl⟩

/-- Places of memory read as before. -/
theorem Framed.rdPlace (h : Framed u r s t) (p : Place) : rdPlace t p = rdPlace s p := by
  cases p with
  | glob pa => exact rd8_congr h.mem pa
  | scr k o => simp only [Machine.rdPlace, State.team?, h.teams, h.now]
  | til c o => simp only [Machine.rdPlace, h.ci]
  | loc c o => simp only [Machine.rdPlace, h.local_]

theorem Framed.kept {c : Issue} (h : Framed c.u r s t) (hu : s.unit? c.u = some c.un) : Kept s t c r := by
  obtain ⟨un', hu', hk⟩ := h.unit c.un hu
  exact ⟨fun _ => ⟨h.mem, h.rdPlace, h.ci, h.others⟩, h.teams, h.local_, h.mx, h.tasks, h.ctxs, h.mgmt, un', hu', hk.regsKept, hk.ctl⟩

/-- Plans, traces and errors stand outside the frame. -/
theorem Framed.of_parts (h : Framed u r s₀ s) (e : framedParts t = framedParts s) : Framed u r s₀ t := by
  obtain ⟨hm, hn, ht, hk, hx, hg, hc, hl, hu⟩ : t.mem = s.mem ∧ t.now = s.now ∧ t.teams = s.teams ∧ t.tasks = s.tasks ∧
      t.ctxs = s.ctxs ∧ t.mgmt = s.mgmt ∧ t.cores = s.cores ∧ t.scores = s.scores ∧ t.units = s.units := by simpa [framedParts] using e
  have hcore (k : Nat) : t.core k = s.core k := by rw [State.core, State.core, hc]
  have hscore (k : Nat) : t.score k = s.score k := by rw [State.score, State.score, hl]
  have hunit (k : Nat) : t.unit? k = s.unit? k := by rw [State.unit?, State.unit?, hu]
  exact {
    mem := hm.trans h.mem
    now := hn.trans h.now
    teams := ht.trans h.teams
    tasks := hk.trans h.tasks
    ctxs := hx.trans h.ctxs
    mgmt := hg.trans h.mgmt
    ci := fun k => hcore k ▸ h.ci k
    mx := fun k => hcore k ▸ h.mx k
    local_ := fun k => hscore k ▸ h.local_ k
    others := fun v hv => hunit v ▸ h.others v hv
    unit := fun un e => hunit u ▸ h.unit un e }

theorem Framed.putUnit (h : Framed u r s₀ s) (hu : s.unit? u = some un) (hk : UnitKept r un un') : Framed u r s₀ (s.putUnit u un') :=
  { h with
    others := fun v hv => (State.unit_putUnit_ne _ _ hv).trans (h.others v hv)
    unit := fun un₀ hu₀ => by
      obtain ⟨un₁, hu₁, hk₁⟩ := h.unit un₀ hu₀
      cases hu.symm.trans hu₁
      exact ⟨un', State.unit_putUnit_self .., hk₁.trans hk⟩ }

theorem Framed.modUnit {f : UnitSt → UnitSt} (h : Framed u r s₀ s) (hk : ∀ un, UnitKept r un (f un)) : Framed u r s₀ (s.modUnit u f) :=
  { h with
    others := fun v hv => (State.unit_modUnit_ne _ _ hv).trans (h.others v hv)
    unit := fun un₀ hu₀ => by
      obtain ⟨un₁, hu₁, hk₁⟩ := h.unit un₀ hu₀
      exact ⟨f un₁, by simp [hu₁], hk₁.trans (hk un₁)⟩ }

theorem Framed.modCore {c : Nat} {f : Core → Core} (h : Framed u r s₀ s) (hc : ∀ k, (f k).ci = k.ci) (hm : ∀ k, (f k).mx = k.mx) :
    Framed u r s₀ (s.modCore c f) :=
  { h with
    ci := fun k => (by rw [State.core_modCore]; split <;> simp [*] : _ = (s.core k).ci).trans (h.ci k)
    mx := fun k => (by rw [State.core_modCore]; split <;> simp [*] : _ = (s.core k).mx).trans (h.mx k) }

theorem Framed.modScore {c : Nat} {f : StrandCore → StrandCore} (h : Framed u r s₀ s) (hl : ∀ k, (f k).local_ = k.local_) :
    Framed u r s₀ (s.modScore c f) :=
  { h with local_ := fun k => (by rw [State.score_modScore]; split <;> simp [*] : _ = (s.score k).local_).trans (h.local_ k) }

theorem Framed.ite {p : Prop} [Decidable p] {a b : State} (ha : Framed u r s₀ a) (hb : Framed u r s₀ b) : Framed u r s₀ (if p then a else b) := by
  split
  · exact ha
  · exact hb

/-! Retiring, trapping and going on -/

theorem Framed.countRetired (h : Framed u r s₀ s) : Framed u r s₀ (countRetired s u) := by
  unfold Machine.countRetired
  split
  · exact h
  next un hu =>
    have hp := h.putUnit (un' := { un with ctl := { un.ctl with retired := un.ctl.retired + 1 } }) hu
      (.of_ctlKept rfl rfl rfl ⟨rfl, fun _ _ => ⟨rfl, rfl⟩, fun _ => rfl⟩)
    exact .ite (hp.modScore fun _ => rfl) (hp.modCore (fun _ => rfl) fun _ => rfl)

theorem framedParts_wakeFaults (s : State) (d : Nat) : framedParts (wakeFaults s d) = framedParts s := by
  unfold wakeFaults
  split <;> rfl

theorem Framed.takeTrap {e : Nat} {a : TrapArgs} (h : Framed u r s₀ s) : Framed u r s₀ (takeTrap s u e a) := by
  unfold Machine.takeTrap
  split
  · exact h
  next un hu =>
    split
    · exact h
    · refine (h.putUnit hu (.of_holds ?_)).of_parts (framedParts_wakeFaults ..)
      rw [holds_passRole]
      show holds (un.modSplit e _) = _
      exact holds_modSplit ..

theorem Framed.trapHere {e k : Nat} (h : Framed u r s₀ s) : Framed u r s₀ (trapHere s u e k) := by
  unfold Machine.trapHere
  split
  · exact h
  · split
    · exact h
    · exact h.takeTrap

theorem Framed.stepTrap {e : Nat} (h : Framed u r s₀ s) : Framed u r s₀ (stepTrap s u e) := by
  unfold Machine.stepTrap
  split
  · exact h
  next un hu =>
    split
    · have hk : UnitKept r un (choose { un with step := .off }) := .of_holds (holds_choose.trans rfl)
      have hp := h.putUnit hu hk
      split
      · exact h
      · dsimp only
        split
        · exact hp.takeTrap
        · exact hp
    · exact h

theorem Framed.foldTarget {lane : Nat} {t : DWord} (h : Framed u r s₀ s) : Framed u r s₀ (foldTarget s u lane t) := by
  unfold Machine.foldTarget
  split
  · exact h
  next un hu =>
    have hp := h.putUnit (un' := { un with ctl := { un.ctl with pathsig := foldSig un.ctl.pathsig t } }) hu
      (.of_ctlKept rfl rfl rfl ⟨rfl, fun _ _ => ⟨rfl, rfl⟩, fun _ => rfl⟩)
    exact .ite h (.ite (hp.of_parts rfl) hp)

theorem Framed.goOn {e : Nat} {y : DWord} (h : Framed u r s₀ s) : Framed u r s₀ (goOn s u e y) := by
  unfold Machine.goOn
  split
  · exact h
  next un hu =>
    split
    · exact h
    · have hk : UnitKept r un (endTest un y 5).1 := .endTest y 5
      split
      next un' st he =>
        rw [he] at hk
        exact (Framed.foldTarget (h.putUnit hu (hk.trans (.of_holds (holds_modSplit ..))))).modUnit fun _ => .of_holds (holds_arrive _)
      next un' he =>
        rw [he] at hk
        split
        · exact h.putUnit hu (hk.trans (.of_holds (by simp)))
        · exact (h.putUnit hu hk).takeTrap

theorem Framed.transfer {e : Nat} {t : DWord} {loc cancel : Bool} (h : Framed u r s₀ s) : Framed u r s₀ (transfer s u e t loc cancel) := by
  unfold Machine.transfer
  split
  · exact h
  next un hu =>
    split
    · exact h
    · refine h.putUnit hu (.trans ?_ (.of_holds (by simp; rfl)))
      split
      · exact UnitKept.refl.cancelLoops t
      · exact .refl

theorem Framed.retire {e : Nat} (h : Framed u r s₀ s) : Framed u r s₀ (retire s u e) := by
  unfold Machine.retire
  split
  · exact h
  · split
    · exact h
    · exact h.countRetired.goOn.stepTrap

/-! Writing registers -/

/-- The operand is no port and no engine queue. -/
def NotPort (o : Operand) : Prop := ∀ n, o ≠ .q n ∧ o ≠ .e n

theorem framedParts_clearVreg (s : State) (u n : Nat) (m : Mask) : framedParts (clearVreg s u n m) = framedParts s := by
  unfold clearVreg
  split <;> rfl

theorem Framed.writeOp {d : Operand} {m : Mask} {f : Nat → Word} (h : Framed u r s₀ s) (hd : d ∈ r.regs) (hp : NotPort d) :
    Framed u r s₀ (writeOp s u d m f) := by
  unfold Machine.writeOp
  split
  · exact h
  · split
    · exact h
    next un hu =>
      cases d with
      | v n => exact (h.putUnit hu (.writeV hd m f)).of_parts (framedParts_clearVreg ..)
      | s n => exact h.putUnit hu (.writeS hd _)
      | lc n => exact h.putUnit hu (.setLc _ fun k hk => .inl (Fin.ext hk ▸ hd))
      | q n => exact absurd rfl (hp n).1
      | e n => exact absurd rfl (hp n).2
      | id | zero => exact h

theorem NotPort.next {d : Operand} (h : NotPort d) (k : Nat) : NotPort (Operand.next d k) := by
  cases d with
  | q n => exact absurd rfl (h n).1
  | e n => exact absurd rfl (h n).2
  | v | s | lc | id | zero => exact fun n => ⟨nofun, nofun⟩

theorem Framed.writePair {d : Operand} {m : Mask} {f : Nat → DWord} (h : Framed u r s₀ s) (hd : d ∈ r.regs) (hd' : Operand.next d 1 ∈ r.regs)
    (hp : NotPort d) : Framed u r s₀ (writePair s u d m f) := by
  unfold Machine.writePair
  dsimp only
  split
  iterate 2 exact (h.writeOp hd hp).writeOp hd' (hp.next 1)
  exact h.writeOp hd hp

theorem Framed.writeP {n : Fin 16} {m : Mask} {f : Nat → Bool} (h : Framed u r s₀ s) (hn : n ∈ r.preds) :
    Framed u r s₀ (s.modUnit u fun un => writeP un n m f) := h.modUnit fun _ => .writeP hn m f

theorem Framed.orFlags {m : Mask} {fl : Nat → Nat} (h : Framed u r s₀ s) (hr : r.flags = true) :
    Framed u r s₀ (s.modUnit u fun un => orFlags un m fl) := h.modUnit fun _ => .orFlags hr m fl

theorem Framed.stepLfsr {x : Issue} {n : Nat} (h : Framed x.u r s₀ s) (hr : r.flags = true) : Framed x.u r s₀ (stepLfsr x n s) :=
  h.modUnit fun _ => .of_ctlKept rfl rfl rfl ⟨rfl, by simp [hr], fun _ => rfl⟩

theorem Framed.startOp {o : Op} {ev : Nat → Nat → Event} (h : Framed u r s₀ s) : Framed u r s₀ (startOp s u o ev) := by
  unfold Machine.startOp
  split
  · exact h
  next un hu => exact (h.putUnit hu (.addOp o)).of_parts rfl

end

/-! The end of an instruction -/

/-- The instruction pops nothing and is no synchronization that replay logs. -/
def Quiet (i : Instr) : Prop := isSync i = false ∧ ∀ s u, popAll s u i = s

/-- The instructions of the registers are none of those that replay logs, and pop nothing without ports. -/
theorem quiet_of_results {i : Instr} {r : Results} (hr : results i = some r) (hp : NoPorts i) : Quiet i := by
  constructor
  · unfold isSync
    refine Bool.or_eq_false_iff.2 ⟨?_, ?_⟩
    · split
      case h_27 => rfl
      all_goals cases hr
    · refine List.any_eq_false.2 fun x hx => ?_
      split
      · exact absurd ‹_› (hp x hx _).1
      · exact absurd ‹_› (hp x hx _).2
      · simp
  · intro s u
    refine foldl_eq_self fun o ho => ?_
    obtain ⟨x, hx, rfl⟩ := List.mem_map.1 (List.mem_eraseDups.1 ho)
    have hx := hp x (List.mem_append_left _ hx)
    split
    · exact absurd ‹_› (hx _).1
    · exact absurd ‹_› (hx _).2
    · rfl

section
variable {r : Results} {x : Issue} {s₀ s : State}

theorem Framed.finish (h : Framed x.u r s₀ s) (hq : Quiet x.instr) : Framed x.u r s₀ (finish x s) := by
  rw [Machine.finish, finishPopped, hq.2, hq.1]
  exact h.retire

theorem Framed.foldTakes {lane : Nat} {ts : List Take} (h : Framed x.u r s₀ s) : Framed x.u r s₀ (foldTakes s x.u lane ts) := by
  unfold Machine.foldTakes
  induction ts generalizing s with
  | nil => exact h
  | cons t ts ih => exact ih h.foldTarget

theorem UnitKept.cancelFor {un : UnitSt} {ts : List Take} {un₁ : UnitSt} (h : UnitKept r un un₁) : UnitKept r un (cancelFor un₁ ts) := by
  unfold Machine.cancelFor
  induction ts generalizing un₁ with
  | nil => exact h
  | cons t ts ih => exact ih (h.cancelLoops t.2.1)

theorem Framed.arrivals {es : List Nat} (h : Framed x.u r s₀ s) :
    Framed x.u r s₀ (es.foldl (fun s e => s.modUnit x.u (fun un => arriveFrom un e 33)) s) := by
  induction es generalizing s with
  | nil => exact h
  | cons e es ih => exact ih (h.modUnit fun _ => .of_holds (holds_arriveFrom e 33))

theorem Framed.choose (h : Framed x.u r s₀ s) : Framed x.u r s₀ (s.modUnit x.u choose) := h.modUnit fun _ => .of_holds holds_choose

/-- A branch writes what its effect writes. -/
theorem Framed.branch {ts : List Take} {cancel : Bool} {effect : State → State} (h : Framed x.u r s₀ s) (hu : s.unit? x.u = some x.un)
    (he : ∀ {s}, Framed x.u r s₀ s → Framed x.u r s₀ (effect s)) : Framed x.u r s₀ (branch x s ts cancel effect) := by
  unfold Machine.branch
  dsimp only
  split
  · exact (he h.countRetired).foldTakes.transfer.stepTrap
  · generalize hd : divide x.un x.e x.sp _ = o
    cases o with
    | none => exact h.trapHere
    | some p =>
      obtain ⟨un, es⟩ := p
      have hk : UnitKept r x.un un := .of_holds (holds_divide hd)
      have hc : UnitKept r x.un (if cancel then cancelFor un ts else un) := by
        split
        · exact hk.cancelFor
        · exact hk
      have ha := (he (h.putUnit hu hc).countRetired).foldTakes (lane := x.sp.low) (ts := ts) |>.arrivals (es := es.take ts.length)
      exact (Framed.choose (.ite ha ha.goOn)).stepTrap

theorem Framed.takeWhole {t : Target} (h : Framed x.u r s₀ s) (hu : s.unit? x.u = some x.un) : Framed x.u r s₀ (takeWhole x s t) :=
  Framed.branch (x := { x with lanes := x.sp.mask }) h hu id

theorem Framed.trapPart {cause : Nat} (h : Framed x.u r s₀ s) (hu : s.unit? x.u = some x.un) : Framed x.u r s₀ (trapPart x s cause) := by
  unfold Machine.trapPart
  dsimp only
  split
  · exact h.takeTrap.countRetired
  · split
    next hd => exact (h.putUnit hu (.of_holds (holds_divide hd))).takeTrap.countRetired.goOn.choose
    · exact h.trapHere

theorem Framed.startLoop {n : Fin 4} {count : Word} {t : Target} (h : Framed x.u r s₀ s) (hu : s.unit? x.u = some x.un)
    (hq : Quiet x.instr) (hn : .lc n ∈ r.regs) : Framed x.u r s₀ (startLoop x s n.val count t) := by
  have hc : UnitKept r x.un (cancelLoop x.un n.val) := UnitKept.refl.cancelLoop n.val
  have hw := hc.trans (.setLc count fun k hk => .inl (Fin.ext hk ▸ hn))
  unfold Machine.startLoop
  dsimp only
  split
  · exact (h.putUnit hu (hw.trans (.of_holds (holds_modSplit ..)))).countRetired
  · split
    · exact (h.putUnit hu (hw.trans (.beginLoop hn _))).finish hq
    · exact (h.putUnit hu (hw.trans (.beginLoop hn _))).countRetired.takeTrap

theorem Framed.settleLanes {fl : Nat → Nat} {write : Mask → State → State} (h : Framed x.u r s₀ s) (hq : Quiet x.instr)
    (hf : r.flags = true) (hw : ∀ m {s}, Framed x.u r s₀ s → Framed x.u r s₀ (write m s)) : Framed x.u r s₀ (settleLanes x s fl write) := by
  have h := h.orFlags (m := x.lanes) (fl := fl) hf
  unfold Machine.settleLanes
  simp only [hq.2]
  split
  · exact (hw _ h).finish hq
  · split
    · exact h.takeTrap
    · split
      · exact h
      next un hu =>
        split
        next hd => exact ((hw _ (h.putUnit hu (.of_holds (holds_divide hd)))).takeTrap.finish hq).choose
        · exact h.takeTrap

end
end Sys2Proof.Safety
end

section
/-! Each instruction of the registers in its shape, and the frame of all of them (O54). -/

open Sys2Proof Sys2Proof.Machine
namespace Sys2Proof.Safety

/-- The answer of an instruction: where it acts it completes, within the frame of its results. -/
def Frames (r : Results) (i : Instr) (s : State) (o : Out) : Prop := ∀ c, Acts i s c → ∃ t, o = .next t ∧ Framed c.u r s t

section
variable {r : Results} {i : Instr} {s : State} {d : Operand}

/-- What acts is the running split of the acting unit, with its instruction. -/
theorem of_acts {c : Issue} (h : Acts i s c) : s.unit? c.u = some c.un ∧ c.instr = i := by
  unfold Acts ready at h
  split at h
  · cases h
  split at h
  · cases h
  next un hu =>
    split at h
    · cases h
    · dsimp only at h
      grind

theorem Frames.issue {body : Issue → State → State}
    (h : ∀ x : Issue, s.unit? x.u = some x.un → x.instr = i → Framed x.u r s (body x s)) : Frames r i s (issue i s body) := by
  intro c hc
  obtain ⟨hu, hi⟩ := of_acts hc
  exact ⟨body c s, issue_of_acts hc body, h c hu hi⟩

section
variable (hq : Quiet i) (hp : NotPort d) (hd : d ∈ r.regs)
include hq

theorem Frames.aluPred {pd : Fin 16} {f} (hn : pd ∈ r.preds) : Frames r i s (aluPred i s pd f) :=
  .issue fun _ _ hi => (Framed.refl.writeP hn).finish (hi ▸ hq)

theorem Frames.fpCompare {pd pk m f} (hn : pd ∈ r.preds) (hf : r.flags = true) : Frames r i s (fpCompare i s pd pk m f) :=
  .issue fun _ _ hi => Framed.refl.settleLanes (hi ▸ hq) hf fun _ _ h => h.writeP hn

theorem Frames.sfuOp {a f} (hf : r.flags = true) : Frames r i s (sfuOp i s a f) :=
  .issue fun _ _ hi => Framed.refl.settleLanes (hi ▸ hq) hf fun _ _ h => .ite h h.startOp

theorem Frames.sfuOne {y fn} (hf : r.flags = true) : Frames r i s (sfuOne i s y fn) := .sfuOp hq hf

include hp hd

theorem Frames.alu {f} : Frames r i s (alu i s d f) :=
  .issue fun _ _ hi => (Framed.refl.writeOp hd hp).finish (hi ▸ hq)

theorem Frames.aluPair {f} (hd' : Operand.next d 1 ∈ r.regs) : Frames r i s (aluPair i s d f) :=
  .issue fun _ _ hi => (Framed.refl.writePair hd hd' hp).finish (hi ▸ hq)

theorem Frames.fpOp {f} (hf : r.flags = true) : Frames r i s (fpOp i s d f) :=
  .issue fun _ _ hi => Framed.refl.settleLanes (hi ▸ hq) hf fun _ _ h => h.writeOp hd hp

theorem Frames.narrowingOp {m n f} (hf : r.flags = true) : Frames r i s (narrowingOp i s d m n f) :=
  .issue fun _ _ hi => Framed.settleLanes (.ite (.stepLfsr .refl hf) .refl) (hi ▸ hq) hf fun _ _ h => h.writeOp hd hp

end

theorem Frames.execCvtfi {y : Un CvtIMod} (hq : Quiet (.cvtfi y)) (hp : NotPort y.d) (hd : y.d ∈ r.regs)
    (hd' : y.m.ty.wide = true → Operand.next y.d 1 ∈ r.regs) (hf : r.flags = true) : Frames r (.cvtfi y) s (execCvtfi y s) := by
  refine .issue fun _ _ hi => Framed.refl.settleLanes (hi ▸ hq) hf fun _ _ h => ?_
  split
  · exact h.writePair hd (hd' ‹_›) hp
  · exact h.writeOp hd hp

theorem Frames.execBrd {y : DivBranch} (hq : Quiet (.brd y)) : Frames r (.brd y) s (execBrd y s) := by
  refine .issue fun x hu hi => ?_
  dsimp only
  split
  · exact Framed.refl.takeWhole hu
  · split
    · exact Framed.refl.finish (hi ▸ hq)
    · split
      · refine Framed.stepTrap (.choose (.goOn (.modUnit (.foldTarget (.countRetired (.putUnit .refl hu ?_))) fun _ => ?_)))
        · refine .cancelLoops (.of_holds ?_) _
          rfl
        · exact .of_holds (holds_arriveFrom ..)
      · exact Framed.refl.trapHere

end

/-- An instruction of the registers that acts stays within the frame of its results: seen shape by shape. -/
theorem exec_frames {i : Instr} {r : Results} {s : State} (hr : results i = some r) (hp : NoPorts i) : Frames r i s (exec i s) := by
  have hq : Quiet i := quiet_of_results hr hp
  have hd {d : Operand} {k : Nat} (h : dsts i = [(d, k)]) : NotPort d := hp (d, k) (by simp [h])
  unfold exec
  cases i
  case nop => exact .issue fun _ _ hi => Framed.refl.finish (hi ▸ hq)
  case yield_ => exact .issue fun _ _ hi => Framed.finish (.ite .refl (Framed.refl.modUnit fun _ => .of_holds rfl)) (hi ▸ hq)
  case br | jmpi | ret => exact .issue fun _ hu _ => Framed.refl.branch hu id
  case call =>
    cases hr
    exact .issue fun _ hu _ => Framed.refl.branch hu fun h => h.writePair (by simp) (by simp [Operand.next]) (hd rfl)
  case calli =>
    cases hr
    exact .issue fun _ hu _ => Framed.refl.branch hu fun h => h.writePair (by simp) (by simp) (hd rfl)
  case brd => exact .execBrd hq
  case brany => exact .issue fun _ hu hi => .ite (Framed.refl.finish (hi ▸ hq)) (Framed.refl.takeWhole hu)
  case brall => exact .issue fun _ hu hi => .ite (Framed.refl.takeWhole hu) (Framed.refl.finish (hi ▸ hq))
  case trap => exact .issue fun _ hu _ => Framed.refl.trapPart hu
  case loop | loopi =>
    cases hr
    exact .issue fun _ hu hi => Framed.refl.startLoop hu (hi ▸ hq) (by simp)
  case iaddc | isubb =>
    cases hr
    exact .issue fun _ _ hi => ((Framed.refl.writeOp (by simp) (hd rfl)).writeP (by simp)).finish (hi ▸ hq)
  case iadd | isub | iaddi | ineg | iabs | imin | imax | sel | and_ | or_ | xor_ | not_ | andi | ori | xori | shl | shr | sar | rol | ror | shli
    | shri | sari | popc | clz | ctz | brev | movi | movhi | imul | imulhi | imad | bfx | bfi | fabs | fneg | fclass | cvtii | shfl | shflup
    | shfldn | shflx | ballot | match_ =>
    cases hr
    exact .alu hq (hd rfl) (by simp)
  case iadd64 | isub64 | iaddi64 | lea | shl64 | shr64 | sar64 | imulw | imadw | divstep | divinit =>
    cases hr
    exact .aluPair hq (hd rfl) (by simp) (by simp)
  case icmpp | icmppi | icmpp64 | voteany | voteall | voteuni =>
    cases hr
    exact .aluPred hq (by simp)
  case mov y =>
    cases hr
    change Frames _ _ s (if y.m then _ else _)
    split
    · exact .aluPair hq (hd rfl) (by simp) (by simp)
    · exact .alu hq (hd rfl) (by simp)
  case movk y =>
    obtain ⟨_, _, _, m⟩ := y
    cases m <;> cases hr
    · exact .alu hq (hd rfl) (by simp)
    · exact .aluPair hq (hd rfl) (by simp) (by simp)
    · exact .aluPair hq (hd rfl) (by simp) (by simp)
  case fadd | fsub | fmul | badd | bsub | bmul | bpadd | bpsub | bpmul | ffma | fmin | fmax | bfma | bpfma | bpmin | bpmax | bmin | bmax | faddi
    | fmuli | ffmai | cvthf | cvtf8 | cvtf4 | cvt8f | cvt4f | mxpack | mxunpk | cvtif =>
    cases hr
    exact .fpOp hq (hd rfl) (by simp) rfl
  case fcmpp | bcmpp =>
    cases hr
    exact .fpCompare hq (by simp) rfl
  case rcp | rsq | sqrt | exp2 | log2 | tanh | sint | cost =>
    cases hr
    exact .sfuOne hq rfl
  case sincost =>
    cases hr
    exact .sfuOp hq rfl
  case cvtfh | packh =>
    cases hr
    exact .narrowingOp hq (hd rfl) (by simp) rfl
  case cvtfi =>
    cases hr
    exact .execCvtfi hq (hd rfl) (by dsimp only; split <;> simp) (fun h => by simp [h]) rfl
  case pscan | reduce =>
    cases hr
    exact .issue fun _ _ hi => ((Framed.refl.orFlags rfl).writeOp (by simp) (hd rfl)).finish (hi ▸ hq)
  all_goals cases hr

/-- What acts within the frame of its results leaves what `Kept` names. -/
theorem kept_of_results {i : Instr} {r : Results} {s : State} {c : Issue} (hr : results i = some r) (hp : NoPorts i) (ha : Acts i s c) :
    ∃ t, exec i s = .next t ∧ Kept s t c r := by
  obtain ⟨t, ht, hf⟩ := exec_frames hr hp c ha
  exact ⟨t, ht, hf.kept (of_acts ha).1⟩

/-- Flags are set in the lanes of the mask only (R28). -/
theorem fpflags_orFlags_of_not_mem (un : UnitSt) {m : Mask} (fl : Nat → Nat) {l : Nat} (h : ¬ m.getLsbD l = true) :
    Tab.get 0 (orFlags un m fl).ctl.fpflags l = Tab.get 0 un.ctl.fpflags l := by
  have hl : ∀ k ∈ lanesOf m, l ≠ k := fun k hk e => h (e ▸ (List.mem_filter.1 hk).2)
  suffices ∀ (ls : List Nat) (t : Tab Word), (∀ k ∈ ls, l ≠ k) →
      Tab.get 0 (ls.foldl (fun t k => Tab.set 0 t k (Tab.get 0 t k ||| w32 (fl k))) t) l = Tab.get 0 t l from this _ _ hl
  intro ls
  induction ls with
  | nil => exact fun _ _ => rfl
  | cons k ls ih =>
    intro t hk
    rw [List.foldl_cons, ih _ fun j hj => hk j (List.mem_cons_of_mem _ hj), Tab.get_set_ne 0 _ _ (hk k (List.mem_cons_self ..))]

/-- Settles O54: an instruction of the registers stays within the frame of its results, with flags or without. -/
theorem registerInstructionFrames : Obligations.RegisterInstructionFrames :=
  ⟨fun _ _ _ _ hr _ hp ha => kept_of_results hr hp ha,
    fun _ _ _ _ hr _ hp ha => kept_of_results hr hp ha, fun un _ fl _ h => fpflags_orFlags_of_not_mem un fl h⟩

end Sys2Proof.Safety
end

section
/-! Branches that divide the split, and branches on a tested predicate (O15). -/

open Sys2Proof Sys2Proof.Machine
namespace Sys2Proof.Safety

/-! Lanes in which a tested predicate holds -/

/-- A sum of distinct powers of two has the bits of its powers. -/
theorem sum_pow_lt_and_testBit (f : Nat → Bool) (n : Nat) :
    ((List.range n).map (fun i => if f i then 2 ^ i else 0)).sum < 2 ^ n ∧
      ∀ l < n, (((List.range n).map (fun i => if f i then 2 ^ i else 0)).sum).testBit l = f l := by
  induction n with
  | zero => simp
  | succ n ih =>
    obtain ⟨hlt, hbit⟩ := ih
    have hsum : ((List.range (n + 1)).map (fun i => if f i then 2 ^ i else 0)).sum =
        2 ^ n * (f n).toNat + ((List.range n).map (fun i => if f i then 2 ^ i else 0)).sum := by
      rw [List.range_succ, List.map_append, List.sum_append, Nat.add_comm]
      cases h : f n <;> simp [h]
    rw [hsum]
    refine ⟨?_, fun l hl => ?_⟩
    · have := Nat.mul_le_mul_left (2 ^ n) (Bool.toNat_le (f n))
      rw [Nat.pow_succ]
      omega
    · rw [Nat.testBit_two_pow_mul_add _ hlt]
      split
      · exact hbit l ‹_›
      · obtain rfl : l = n := by omega
        cases f l <;> simp

theorem getLsbD_ofBits (f : Nat → Bool) {l : Nat} (h : l < 32) : (ofBits f).getLsbD l = f l := by
  rw [ofBits, BitVec.getLsbD_ofNat, (sum_pow_lt_and_testBit f 32).2 l h, decide_eq_true h, Bool.true_and]

theorem mem_lanesOf {m : Mask} {l : Nat} : l ∈ lanesOf m ↔ m.getLsbD l = true := by
  simp only [lanesOf, lanes32, List.mem_filter, List.mem_range, and_iff_right_iff_imp]
  exact BitVec.lt_of_getLsbD

/-- A property of the lanes of a mask, as one of all bits. -/
theorem forall_mem_lanesOf {m : Mask} {p : Nat → Prop} : (∀ l ∈ lanesOf m, p l) ↔ ∀ l < 32, m.getLsbD l = true → p l := by
  simp only [mem_lanesOf]
  exact ⟨fun h l _ => h l, fun h l hl => h l (BitVec.lt_of_getLsbD hl) hl⟩

section
variable {c : Issue} {g : Guard}

/-- A lane of the split is a taking lane where the test holds. -/
theorem getLsbD_tested (c : Issue) (g : Guard) {l : Nat} (h : l < 32) :
    (tested c g).getLsbD l = (c.sp.mask.getLsbD l && (readP c.un g.p l ^^ g.neg)) := by
  rw [tested, guardMask, BitVec.getLsbD_and, readP_eq_getLsbD_predMask _ _ h]
  cases g.neg <;> simp [h]

theorem tested_eq_ofBits (c : Issue) (g : Guard) :
    tested c g = ofBits (fun i => c.sp.mask.getLsbD i && (readP c.un g.p i ^^ g.neg)) :=
  BitVec.eq_of_getLsbD_eq fun l h => by rw [getLsbD_tested c g h, getLsbD_ofBits _ h]

theorem tested_eq_zero_iff : tested c g = 0 ↔ ∀ l ∈ lanesOf c.sp.mask, (readP c.un g.p l ^^ g.neg) = false := by
  rw [forall_mem_lanesOf, BitVec.eq_of_getLsbD_eq_iff]
  refine forall₂_congr fun l hl => ?_
  rw [getLsbD_tested c g hl]
  simp

theorem tested_eq_mask_iff : tested c g = c.sp.mask ↔ ∀ l ∈ lanesOf c.sp.mask, (readP c.un g.p l ^^ g.neg) = true := by
  rw [forall_mem_lanesOf, BitVec.eq_of_getLsbD_eq_iff]
  refine forall₂_congr fun l hl => ?_
  rw [getLsbD_tested c g hl]
  simp

/-- No lane is left behind where the test holds in all. -/
theorem failing_eq_zero_iff : c.sp.mask &&& ~~~tested c g = 0 ↔ tested c g = c.sp.mask := by
  rw [BitVec.eq_of_getLsbD_eq_iff, BitVec.eq_of_getLsbD_eq_iff]
  refine forall₂_congr fun l hl => ?_
  rw [BitVec.getLsbD_and, BitVec.getLsbD_not, getLsbD_tested c g hl]
  cases c.sp.mask.getLsbD l <;> simp [hl]
end

/-! The forms of a branch -/

section
variable {s : State} {c : Issue}

/-- A split divides into two parts where an entry is free (R94). -/
theorem divide_two {e2 : Nat} {rest : List Nat} (h : freeEntries c.un = e2 :: rest) (p q : Mask × Split) :
    ∃ un, divide c.un c.e c.sp [p, q] = some (un, [c.e, e2]) := by
  simp [divide, h]

/-- A split with no free entry stays whole (R94). -/
theorem divide_two_full (h : freeEntries c.un = []) (p q : Mask × Split) : divide c.un c.e c.sp [p, q] = none := by
  simp [divide, h]

section
variable (h : c.sp.mask &&& ~~~c.lanes ≠ 0) {m : Mask} {t : DWord} {loc : Bool}
include h

/-- The branch of some lanes to one target traps where the split cannot divide (R94). -/
theorem branch_crowded (hd : divide c.un c.e c.sp
      [(m, { c.sp.goto t loc with st := .ready }), (c.sp.mask &&& ~~~c.lanes, { c.sp with st := .ready })] = none) :
    branch c s [(m, t, loc)] true id = trapHere s c.u c.e causeIllegalOp := by
  simp only [branch, if_neg h, List.map_cons, List.map_nil, List.cons_append, List.nil_append, hd]

/-- The branch of some lanes to one target divides the split: one part stands at the target, the other goes on (R92). -/
theorem branch_divided {un : UnitSt} {e2 : Nat} (hd : divide c.un c.e c.sp
      [(m, { c.sp.goto t loc with st := .ready }), (c.sp.mask &&& ~~~c.lanes, { c.sp with st := .ready })] = some (un, [c.e, e2])) :
    branch c s [(m, t, loc)] true id = stepTrap ((goOn
      ((foldTarget (countRetired (s.putUnit c.u (cancelLoops un t)) c.u) c.u c.sp.low t).modUnit c.u (fun un => arriveFrom un c.e 33))
      c.u e2 c.sp.pc).modUnit c.u choose) c.u c.e := by
  simp only [branch, if_neg h, List.map_cons, List.map_nil, List.cons_append, List.nil_append, hd]
  rfl
end

/-- A relative branch of the whole split is one transfer. -/
theorem takeWhole_eq (c : Issue) (s : State) (t : Target) : takeWhole c s t =
    stepTrap (transfer (foldTarget (countRetired s c.u) c.u c.sp.low (targetAddr c.sp.pc t)) c.u c.e (targetAddr c.sp.pc t) c.sp.loc true)
      c.u c.e := by
  rw [takeWhole, relTake, branch_whole rfl]
  rfl

end

theorem dividingBranch : Sys2Proof.Claims.DividingBranch := by
  intro y s c ha hrest t cut
  rw [show exec (.br y) s = execBr y s from rfl, execBr, issue_of_acts ha]
  exact ⟨fun h => congrArg _ (branch_crowded hrest (divide_two_full h _ _)), fun _ _ h => congrArg _ (branch_divided hrest h),
    fun _ _ h => divide_two h _ _⟩

theorem testingBranches : Sys2Proof.Claims.TestingBranches := by
  refine ⟨fun y s c ha => ?_, fun y s c ha => ?_, fun y s c ha h0 => ?_⟩
  · show execBrany y s = _
    rw [execBrany, issue_of_acts ha, takeWhole_eq]
    congr 1
    by_cases h : tested c y.g = 0
    · rw [if_pos h, if_neg]
      simpa using tested_eq_zero_iff.1 h
    · rw [if_neg h, if_pos]
      simpa using mt tested_eq_zero_iff.2 h
  · show execBrall y s = _
    rw [execBrall, issue_of_acts ha, takeWhole_eq]
    congr 1
    by_cases h : tested c y.g = c.sp.mask
    · rw [if_pos h, if_pos]
      simpa using tested_eq_mask_iff.1 h
    · rw [if_neg h, if_neg]
      simpa using mt tested_eq_mask_iff.2 h
  · rw [show exec (.brd y) s = execBrd y s from rfl, execBrd, issue_of_acts ha]
    dsimp only
    refine ⟨fun h => ?_, fun h => ?_, fun ⟨l, hl, hp⟩ ⟨k, hk, hq⟩ => ?_⟩
    · rw [if_pos (failing_eq_zero_iff.2 (tested_eq_mask_iff.2 h)), takeWhole_eq]
    · have ht := tested_eq_zero_iff.2 h
      rw [if_neg (mt failing_eq_zero_iff.1 (ht ▸ h0.symm)), if_pos ht]
    · have hf : c.sp.mask &&& ~~~tested c y.g ≠ 0 := fun h => by simp [tested_eq_mask_iff.1 (failing_eq_zero_iff.1 h) k hk] at hq
      have ht : tested c y.g ≠ 0 := fun h => by simp [tested_eq_zero_iff.1 h l hl] at hp
      rw [if_neg hf, if_neg ht, ← tested_eq_ofBits]
      refine ⟨fun hlt => ?_, fun e1 e2 more he => by rw [he]⟩
      match hfree : freeEntries c.un with
      | [] | [_] => rfl
      | _ :: _ :: _ => simp [hfree] at hlt

/-- Settles O15: each branch has the effect of its body, by the lanes in which its test holds. -/
theorem divergentBranches : Obligations.DivergentBranches := ⟨dividingBranch, testingBranches⟩

end Sys2Proof.Safety
end

section
/-! Taking a trap and returning from a handler (O28). -/

open Sys2Proof Sys2Proof.Machine
namespace Sys2Proof.Safety

variable {s : State} {un old : UnitSt} {u v e d : Nat} {sp : Split} {r : TrapRec}

/-! The splits of a unit -/

theorem split?_eq_some : un.split? e = some sp ↔ Tab.find? un.entries e = some (.split sp) := by
  unfold UnitSt.split?
  split <;> simp_all

/-- A split is rewritten in its entry. -/
theorem modSplit_eq (h : un.split? e = some sp) (f : Split → Split) :
    un.modSplit e f = { un with entries := Tab.put un.entries e (.split (f sp)) } := by
  simp only [UnitSt.modSplit, h]

theorem split?_put (un : UnitSt) (e : Nat) (sp : Split) :
    UnitSt.split? { un with entries := Tab.put un.entries e (.split sp) } e = some sp :=
  split?_eq_some.2 (Tab.find?_put_self ..)

/-- An entry that has been written is the only one of its number. -/
theorem eq_of_mem_splits_put {x : Split} (h : (e, x) ∈ UnitSt.splits { un with entries := Tab.put un.entries e (.split sp) }) : x = sp := by
  rcases List.mem_cons.1 ((splits_put_perm un e sp).mem_iff.1 h) with h | h
  · exact congrArg Prod.snd h
  · have := mem_splits.1 h
    simp [del_eq_filter] at this

/-- A fold whose steps keep what they have or take what they meet ends with what it began with, or with what it met. -/
theorem foldl_keeps_or_takes {α β : Type} {f : β → α → β} {g : α → β} (hf : ∀ b x, f b x = b ∨ f b x = g x) (l : List α) :
    ∀ b, l.foldl f b = b ∨ ∃ x ∈ l, l.foldl f b = g x := by
  induction l with
  | nil => exact fun _ => .inl rfl
  | cons y l ih =>
    intro b
    rcases ih (f b y) with h | ⟨x, hx, h⟩
    · rcases hf b y with hy | hy
      · exact .inl (h.trans hy)
      · exact .inr ⟨y, List.mem_cons_self .., h.trans hy⟩
    · exact .inr ⟨x, List.mem_cons_of_mem _ hx, h⟩

/-- The split that is chosen is ready. -/
theorem ready_of_chosen {x : Nat × Split} (h : chosen un = some x) : x ∈ un.splits ∧ x.2.st = .ready := by
  have key : chosen un = none ∨ ∃ y ∈ un.splits.filter (fun x => decide (x.2.st = .ready) && mayRun un x), chosen un = some y := by
    refine foldl_keeps_or_takes (g := some) (fun b y => ?_) _ none
    cases b with
    | none => exact .inr rfl
    | some b => exact (ite_eq_or_eq (before un y b = true) (some y) (some b)).symm
  obtain ⟨y, hy, hs⟩ := key.resolve_left (by simp [h])
  cases hs.symm.trans h
  obtain ⟨hm, hr⟩ := List.mem_filter.1 hy
  simp only [Bool.and_eq_true, decide_eq_true_eq] at hr
  exact ⟨hm, hr.1⟩

/-- Choosing the split to run changes entries only. -/
theorem choose_eq (un : UnitSt) : choose un = { un with entries := (choose un).entries } := by
  unfold choose
  split
  · rfl
  · split
    · unfold UnitSt.modSplit
      split <;> rfl
    · rfl

theorem passRole_eq (old un : UnitSt) : passRole old un = { un with entries := (passRole old un).entries } := by
  unfold passRole
  split
  · exact choose_eq un
  · rfl

/-- A split that is not ready stands as it stood when another takes the role of running split. -/
theorem split?_choose (he : un.split? e = some sp) (hn : ∀ x, (e, x) ∈ un.splits → x.st ≠ .ready) : (choose un).split? e = some sp := by
  unfold choose
  split
  · exact he
  · split
    · rename_i k x hk
      obtain ⟨hm, hr⟩ := ready_of_chosen hk
      have hne : e ≠ k := fun h => hn x (h ▸ hm) hr
      unfold UnitSt.modSplit
      split
      · exact split?_eq_some.2 ((Tab.find?_put_ne _ _ hne).trans (split?_eq_some.1 he))
      · exact he
    · exact he

theorem split?_passRole (he : un.split? e = some sp) (hn : ∀ x, (e, x) ∈ un.splits → x.st ≠ .ready) :
    (passRole old un).split? e = some sp := by
  unfold passRole
  split
  · exact split?_choose he hn
  · exact he

/-! Taking a trap -/

/-- The unit once the split at an entry has trapped with a record. -/
def trappedUnit (un : UnitSt) (e : Nat) (sp : Split) (r : TrapRec) : UnitSt :=
  passRole un { un with
    entries := Tab.put un.entries e (.split { sp with st := .trapped, wait := none, walked := [] })
    traps := un.traps ++ [r]
    step := endStep un e }

theorem takeTrap_eq (hu : s.unit? u = some un) (he : un.split? e = some sp) (a : TrapArgs) :
    takeTrap s u e a = wakeFaults (s.putUnit u (trappedUnit un e sp (trapRecord un e sp s.now a))) un.die := by
  simp only [takeTrap, hu, he, modSplit_eq he]
  rfl

/-- A trap leaves the unit's registers and mode alone; it queues the record and ends the step. -/
theorem trappedUnit_keeps (un : UnitSt) (e : Nat) (sp : Split) (r : TrapRec) : let un' := trappedUnit un e sp r
    un'.traps = un.traps ++ [r] ∧ un'.regs = un.regs ∧ un'.ctl = un.ctl ∧ un'.mode = un.mode ∧ un'.step = endStep un e := by
  intro un'
  rw [show un' = _ from passRole_eq _ _]
  exact ⟨rfl, rfl, rfl, rfl, rfl⟩

theorem split?_trappedUnit (un : UnitSt) (e : Nat) (sp : Split) (r : TrapRec) :
    (trappedUnit un e sp r).split? e = some { sp with st := .trapped, wait := none, walked := [] } :=
  split?_passRole (split?_put ..) fun x hx => by
    rw [eq_of_mem_splits_put (un := un) hx]
    exact SplitSt.noConfusion

/-- A record of a split within the handler's lanes is marked so (Table 16-3). -/
theorem trapRecord_flags (un : UnitSt) (m : Mask) : (if inHandler un m then 4 else 0) =
    match un.mode with | .handler _ l => if m &&& ~~~l = 0 then 4 else 0 | _ => 0 := by
  cases h : un.mode <;> simp [inHandler, h]

/-- The write of a die's fault ring is planned once it has been woken. -/
theorem mem_turns_wakeFaults (s : State) (d : Nat) :
    Turn.event (.faultRecordWrite d) ∈ (wakeFaults s d).agenda ++ (wakeFaults s d).calendar.map (·.2) := by
  unfold wakeFaults
  split
  · rename_i h
    simp only [State.planned, Bool.or_eq_true, List.any_eq_true, decide_eq_true_eq] at h
    rcases h with ⟨x, hx, h⟩ | ⟨x, hx, h⟩
    · exact List.mem_append_right _ (List.mem_map.2 ⟨x, hx, h⟩)
    · exact List.mem_append_left _ (h ▸ hx)
  · exact List.mem_append_left _ (State.mem_soon ..)

theorem trapEntry : Sys2Proof.Claims.TrapEntry := by
  intro s u e un sp a hu he t r
  have hr : trapRecord un e sp s.now a = r := by
    simp only [trapRecord, trapRecord_flags]
    rfl
  have ht : t = wakeFaults (s.putUnit u (trappedUnit un e sp r)) un.die := hr ▸ takeTrap_eq hu he a
  obtain ⟨htraps, hregs, hctl, hmode, hstep⟩ := trappedUnit_keeps un e sp r
  refine ⟨mem_takeTrap .., fun v hv => unit_takeTrap hv .., _, ?_, htraps, hregs, hctl, hmode, hstep, split?_trappedUnit .., ?_⟩
  · rw [ht, unit_wakeFaults, State.unit_putUnit_self]
  · rw [ht]
    exact mem_turns_wakeFaults ..

/-! Returning from a handler -/

/-- A split that is to meet no join goes on where it is. -/
theorem arriveFrom_of_ra_none (he : un.split? e = some sp) (h : sp.ra = none) (n : Nat) : arriveFrom un e n = un := by
  cases n <;> simp [arriveFrom, he, h]

theorem passRole_self (un : UnitSt) : passRole un un = un := by
  unfold passRole
  split
  · rename_i h
    obtain ⟨x, hx⟩ := Option.isSome_iff_exists.1 h
    simp only [choose, hx]
  · rfl

/-- A split that goes on at an address (R307). -/
def resumedSplit (un : UnitSt) (sp : Split) (pc : DWord) (skip : Mask) : Split :=
  { sp.goto pc (un.at_.strand && localForm pc) with st := if sp.st = .running then .running else .ready, skip := skip }

/-- The unit once the split at an entry goes on at an address. -/
def resumedUnit (un : UnitSt) (e : Nat) (sp : Split) (pc : DWord) (skip : Mask) : UnitSt :=
  { un with entries := Tab.put un.entries e (.split (resumedSplit un sp pc skip)) }

theorem split?_resumedUnit (un : UnitSt) (e : Nat) (sp : Split) (pc : DWord) (skip : Mask) :
    (resumedUnit un e sp pc skip).split? e = some (resumedSplit un sp pc skip) := split?_put ..

theorem resumeAt_eq (he : un.split? e = some sp) (h : sp.ra = none) (pc : DWord) (skip : Mask) :
    resumeAt un e pc skip = resumedUnit un e sp pc skip := by
  rw [resumeAt, modSplit_eq he, arrive, arriveFrom_of_ra_none (split?_put ..) (by exact h), passRole_self]
  rfl

theorem unit_wakeTraps (s : State) (un : UnitSt) (v : Nat) : (wakeTraps s un).unit? v = s.unit? v :=
  foldl_keeps _ (fun s => s.unit? v) (fun s d => unit_wakeFaults s d v) _ _

theorem besideUnits_wakeTraps (s : State) (un : UnitSt) : besideUnits (wakeTraps s un) = besideUnits s :=
  foldl_keeps _ besideUnits besideUnits_wakeFaults _ _

/-- A record that is answered is no longer parked, and the unit's next one may be written. -/
theorem unit_answered (s : State) (u : Nat) (un : UnitSt) : (answered (s.putUnit u un) u).unit? u = some { un with parked := none } := by
  simp only [answered, State.unit_putUnit_self, unit_wakeTraps]

theorem besideUnits_answered (s : State) (u : Nat) : besideUnits (answered s u) = besideUnits s := by
  unfold answered
  split
  · rfl
  · rw [besideUnits_wakeTraps, besideUnits_putUnit]

/-- The unit once the split at an entry, which meets no join, has returned from the handler of a record. -/
def returnedUnit (s : State) (un : UnitSt) (e : Nat) (sp : Split) (r : TrapRec) : UnitSt :=
  resumedUnit { un with mode := .live, handled := none } e sp (resumePc s un r un.ctl.trapaddr) un.ctl.donemask

theorem returnFromHandler_eq {k : Nat} {m : Mask} (hu : s.unit? u = some un) (hm : un.mode = .handler k m) (hr : un.handled = some r)
    (he : un.split? e = some sp) (ha : sp.ra = none) :
    returnFromHandler s u e = answered (s.putUnit u (returnedUnit s un e sp r)) u := by
  simp only [returnFromHandler, hu, hm, hr, returnedUnit]
  rw [resumeAt_eq (by exact he) ha]

/-! Where a record's split goes on (R243, R307) -/

section
variable {pc n : DWord}

theorem resumePc_of_ne (ht : r.cause ≠ causeTrap) (hb : r.cause ≠ causeBkpt) (pc : DWord) : resumePc s un r pc = pc := by
  simp [resumePc, ht, hb]

variable (h : r.cause = causeTrap ∨ r.cause = causeBkpt)
include h

/-- After TRAP and BKPT, at the successor that the record holds. -/
theorem resumePc_of_succ (hs : r.succ = some n) : resumePc s un r r.pc = n := by
  simp only [resumePc, if_pos h, hs, if_pos]

/-- At another address, or of a record without its successor, after the instruction in the line that stands there. -/
theorem resumePc_later (hs : r.succ = none ∨ pc ≠ r.pc) : resumePc s un r pc = resumePc.later s un pc := by
  rw [resumePc, if_pos h]
  split
  · rename_i hn
    rw [if_neg (hs.resolve_left (by simp [hn]))]
  · rfl

end

theorem handlerReturn : Sys2Proof.Claims.HandlerReturn := by
  intro s u e m un r hu hm hr sp he ha t
  have ht : t = answered (s.putUnit u (returnedUnit s un e sp r)) u := returnFromHandler_eq hu hm hr he ha
  have hmem : t.mem = s.mem := by
    have h := congrArg State.mem (besideUnits_answered (s.putUnit u (returnedUnit s un e sp r)) u)
    exact ht ▸ h
  refine ⟨hmem, { returnedUnit s un e sp r with parked := none }, ?_, rfl, rfl, rfl, rfl, rfl, _, split?_resumedUnit .., rfl, rfl,
    fun h h' => resumePc_of_ne h h' _, fun h => ⟨fun n hn hp => ?_, fun hn => ⟨fun hl => ?_, fun hl => ?_⟩⟩⟩
  · rw [ht, unit_answered]
  · show resumePc s un r un.ctl.trapaddr = n
    rw [hp, resumePc_of_succ h hn]
  · exact (resumePc_later h hn).trans (if_pos hl)
  · exact (resumePc_later h hn).trans (if_neg hl.not_gt)

/-! BKPT, HALT and ERET -/

theorem breakAndReturn : Sys2Proof.Claims.BreakAndReturn := by
  refine ⟨fun y s c ha hl => ?_, fun h s c ha hl hn => ?_, fun h s c ha hn => ?_, fun h s c k m ha hm => ?_, fun h s c ha hm => ?_⟩
  · rw [show exec (.bkpt y) s = execBkpt y s from rfl, execBkpt, issue_of_acts ha, trapPart_whole hl]
  · rw [show exec (.halt h) s = execHalt h s from rfl, execHalt, issue_of_acts ha, hn, trapPart_whole hl]
    rfl
  · rw [show exec (.halt h) s = execHalt h s from rfl, execHalt, issue_of_acts ha, if_pos hn]
  · rw [show exec (.eret h) s = execEret h s from rfl, execEret, issue_of_acts ha, hm]
  · rw [show exec (.eret h) s = execEret h s from rfl, execEret, issue_of_acts ha]
    cases hc : c.un.mode
    case handler k m => exact absurd hc (hm k m)
    all_goals rfl

/-- Settles O28: a trap and a return each rewrite one split of the unit, and the three instructions take them. -/
theorem trapsAndHandlers : Obligations.TrapsAndHandlers := ⟨breakAndReturn, trapEntry, handlerReturn⟩

end Sys2Proof.Safety
end

section
/-! Fault records (O42). -/

open Sys2Proof Sys2Proof.Machine
namespace Sys2Proof.Safety

variable {s t : State} {un : UnitSt} {u d n va pa : Nat} {r : TrapRec} {bs : List Byte}

/-! The record that is due (R103, R305) -/

/-- The records of a unit that may be delivered as its mode stands. -/
def deliverable (un : UnitSt) : List TrapRec :=
  match un.mode with
  | .handler _ _ => un.traps.filter (fun r => bit r.flags 2)
  | _ => un.traps

theorem mem_deliverable : r ∈ deliverable un ↔ r ∈ un.traps ∧ ∀ e m, un.mode = .handler e m → bit r.flags 2 = true := by
  unfold deliverable
  cases un.mode <;> simp

theorem before_eq_false_iff {a b : TrapRec} : a.before b = false ↔ b.cycle < a.cycle ∨ b.cycle = a.cycle ∧ b.lane ≤ a.lane := by
  simp only [TrapRec.before, Bool.or_eq_false_iff, Bool.and_eq_false_iff, decide_eq_false_iff_not]
  omega

/-- Of records taken one by one, the one that is kept comes after no other. -/
theorem foldl_before (l : List TrapRec) (b : TrapRec) :
    ∀ x ∈ b :: l, x.before (l.foldl (fun b x => if x.before b then x else b) b) = false := by
  induction l generalizing b with
  | nil => simp [before_eq_false_iff]
  | cons y l ih =>
    have hy := ih (if y.before b then y else b)
    rw [List.forall_mem_cons] at hy ⊢
    rw [List.forall_mem_cons, List.foldl_cons]
    obtain ⟨hmin, hl⟩ := hy
    obtain ⟨hbmin, hymin⟩ : b.before (if y.before b then y else b) = false ∧ y.before (if y.before b then y else b) = false := by
      cases hyb : y.before b
      · simp [hyb, before_eq_false_iff]
      · have : b.before y = false := by
          have hne : ¬ y.before b = false := by simp [hyb]
          rw [before_eq_false_iff] at hne ⊢
          omega
        simp [this, before_eq_false_iff]
    have htrans : ∀ {x y z : TrapRec}, x.before y = false → y.before z = false → x.before z = false := by
      simp only [before_eq_false_iff]
      omega
    exact ⟨htrans hbmin hmin, htrans hymin hmin, hl⟩

theorem dueTrap_cases (h : dueTrap un = some r) :
    un.parked = none ∧ ∃ b l, deliverable un = b :: l ∧ r = l.foldl (fun b x => if x.before b then x else b) b := by
  unfold dueTrap at h
  split at h
  · cases h
  · rename_i hp
    refine ⟨by simpa using hp, ?_⟩
    change (match deliverable un with | [] => none | r :: rs => _) = _ at h
    split at h
    · cases h
    · cases h
      exact ⟨_, _, by assumption, rfl⟩

theorem dueTrap_spec (h : dueTrap un = some r) :
    r ∈ un.traps ∧ un.parked = none ∧ (∀ e m, un.mode = .handler e m → bit r.flags 2 = true) ∧
      ∀ x ∈ un.traps, (∀ e m, un.mode = .handler e m → bit x.flags 2 = true) → x.before r = false := by
  obtain ⟨hp, b, l, hd, hr⟩ := dueTrap_cases h
  have hmem : r ∈ deliverable un := by
    rw [hd, hr]
    rcases foldl_keeps_or_takes (g := id) (fun b x => (ite_eq_or_eq (x.before b = true) x b).symm) l b with h | ⟨x, hx, h⟩ <;> rw [h]
    · exact List.mem_cons_self ..
    · exact List.mem_cons_of_mem _ hx
  obtain ⟨ht, hh⟩ := mem_deliverable.1 hmem
  exact ⟨ht, hp, hh, fun x hx hb => hr ▸ foldl_before l b x (hd ▸ mem_deliverable.2 ⟨hx, hb⟩)⟩

/-- Serials run from 1 to 2^32 - 1 (R306). -/
theorem nextSerial_range (n : Nat) : nextSerial n ≠ 0 ∧ nextSerial n < 2 ^ 32 := by
  unfold nextSerial
  split <;> omega

/-! What a write at the slices leaves beside memory, and in memory beside its run -/

theorem dies_poke (s : State) (ws : List (Nat × Byte)) : (poke s ws).dies = s.dies := by
  have h := congrArg State.dies (besideMemory_poke s ws)
  exact h

theorem mgmt_poke (s : State) (ws : List (Nat × Byte)) : (poke s ws).mgmt = s.mgmt := by
  have h := congrArg State.mgmt (besideMemory_poke s ws)
  exact h

theorem unbacked_poke (s : State) (ws : List (Nat × Byte)) : (poke s ws).unbacked = s.unbacked := by
  have h := congrArg State.unbacked (besideMemory_poke s ws)
  exact h

theorem unit_poke (s : State) (ws : List (Nat × Byte)) (v : Nat) : (poke s ws).unit? v = s.unit? v := by
  rw [State.unit?, units_poke]
  rfl

theorem unbackedAt_congr (hu : t.unbacked = s.unbacked) (hm : t.mgmt = s.mgmt) (pa : Nat) : unbackedAt t pa = unbackedAt s pa := by
  rw [unbackedAt, hu, tierOf_congr (congrArg Mgmt.ident hm)]
  rfl

/-- A run written where the host loses none of its bytes is read back. -/
theorem rdBytes_poke_run (h : ∀ i < bs.length, unbackedAt s (pa + i) = false) : rdBytes (poke s (run pa bs)) pa bs.length = bs :=
  (rdBytes_congr (mem_poke_eq_sliceWrite s _) _ _).trans (rdBytes_sliceWrite_run h)

/-- Bytes that lie apart from a run written keep their values. -/
theorem rdBytes_poke_run_of_disjoint {a k : Nat} (h : ∀ i < k, ¬ (pa ≤ a + i ∧ a + i < pa + bs.length)) :
    rdBytes (poke s (run pa bs)) a k = rdBytes s a k :=
  List.map_congr_left fun i hi => rd8_poke_run_of_outside (.inl (h i (List.mem_range.1 hi)))

/-! Writing a record (R305) -/

theorem length_unitRecord (un : UnitSt) (n : Nat) (r : TrapRec) : (unitRecord un n r).length = 64 := by
  simp [unitRecord, recordBytes, length_bytesOf]

/-- The notice to a handler strand adds to what waits for its result queues. -/
theorem unit_sendRecord (hu : s.unit? u = some un) (v k : Nat) (ws : List Word) (l : List (Nat × Nat)) :
    ∃ eng, (sendRecord s v k ws l).unit? u = some { un with eng := eng } := by
  unfold sendRecord
  split
  · exact ⟨un.eng, hu⟩
  · rename_i un' hv
    by_cases h : u = v
    · subst h
      obtain rfl : un = un' := Option.some.inj (hu.symm.trans hv)
      exact ⟨_, State.unit_putUnit_self ..⟩
    · exact ⟨un.eng, (State.unit_putUnit_ne _ _ h).trans hu⟩

theorem unit_notifyHandler (hu : s.unit? u = some un) : ∃ eng, (notifyHandler s d n pa).unit? u = some { un with eng := eng } := by
  unfold notifyHandler
  dsimp only
  split
  · split
    · exact unit_sendRecord hu ..
    · exact ⟨un.eng, hu⟩
  · exact ⟨un.eng, hu⟩

theorem notifyHandler_keeps {α : Type} (g : State → α) (hu : ∀ s u x, g (State.putUnit s u x) = g s)
    (hl : ∀ s e, g (State.laterFree s e) = g s) (s : State) (d n pa : Nat) : g (notifyHandler s d n pa) = g s := by
  unfold notifyHandler
  dsimp only
  split
  · split
    · unfold sendRecord
      split
      · rfl
      · rw [hl, hu]
    · rfl
  · rfl

/-- The fault of a unit's record as it is parked. -/
def parkedFault (un : UnitSt) (u : Nat) (r : TrapRec) : Parked :=
  { what := .unit u r.entry, ctx := un.at_.ctx, cause := r.cause, pc := r.pc, handler := bit r.flags 2 }

/-- The state once a unit's record stands in its slot, the unit has it and its fault is parked; the ring's index still has to follow. -/
def recorded (s : State) (d pa u n : Nat) (un : UnitSt) (r : TrapRec) : State :=
  parkFault ((poke s (run pa (unitRecord un n r))).putUnit u (deliverTrap un n r)) d n (parkedFault un u r)

theorem faultBlock_recorded : faultBlock (recorded s d pa u n un r) d = faultBlock s d := by
  have hm : (recorded s d pa u n un r).mgmt = s.mgmt := mgmt_poke ..
  simp only [faultBlock, State.tableBase, hm]

theorem unbackedAt_recorded (a : Nat) : unbackedAt (recorded s d pa u n un r) a = unbackedAt s a :=
  unbackedAt_congr (unbacked_poke s _) (mgmt_poke s _) a

theorem writeRecord_unit (hu : s.unit? u = some un) (hn : nextSerial (s.die d).serial = n) :
    writeRecord s d pa (.unit u r) = notifyHandler (poke (recorded s d pa u n un r)
      (run (faultBlock s d + 16) (bytesOf 4 ((rdNat s (faultBlock s d + 16) 4 + 1) % 2 ^ 32)))) d n pa := by
  have h : writeRecord s d pa (.unit u r) = notifyHandler (poke (recorded s d pa u n un r)
      (run (faultBlock (recorded s d pa u n un r) d + 16) (bytesOf 4 ((rdNat s (faultBlock s d + 16) 4 + 1) % 2 ^ 32)))) d n pa := by
    simp only [writeRecord, hu, hn]
    rfl
  rw [h, faultBlock_recorded]

/-- The write of a fault ring with room writes the record that is due. -/
theorem execFaultRecordWrite_due {w : Due} (hn : nextDue s d = some w)
    (hs : ringSlot s d 0 (rdNat s (faultBlock s d + 16) 4) = some va)
    (hr : (rdNat s (faultBlock s d + 16) 4 + 2 ^ 32 - rdNat s (faultBlock s d + 20) 4) % 2 ^ 32 < 2 ^ rdNat s (faultBlock s d + 8) 1)
    (hx : xlate s 0 va true = .ok pa) :
    execFaultRecordWrite d s = .next
      (if (nextDue (writeRecord s d pa w) d).isSome then wakeFaults (writeRecord s d pa w) d else writeRecord s d pa w) := by
  simp only [execFaultRecordWrite, hn, hs, hx, if_neg hr.not_ge]

/-- Waking the writer of a die plans its event at most. -/
theorem wakeFaults_keeps {α : Type} (g : State → α) (hg : ∀ s t, g (State.soon s t) = g s) (s : State) (d : Nat) :
    g (wakeFaults s d) = g s := by
  unfold wakeFaults
  split
  · rfl
  · exact hg _ _

/-- What the write of a unit's record leaves in memory, the unit and the die, whatever the notice to the handler adds. -/
theorem writeRecord_spec (hu : s.unit? u = some un) (hn : nextSerial (s.die d).serial = n)
    (hpa : ∀ i < 64, unbackedAt s (pa + i) = false) (hblk : ∀ i < 4, unbackedAt s (faultBlock s d + 16 + i) = false)
    (hdis : ∀ i < 4, ¬ (pa ≤ faultBlock s d + 16 + i ∧ faultBlock s d + 16 + i < pa + 64)) :
    let t := writeRecord s d pa (.unit u r)
    rdBytes t pa 64 = unitRecord un n r ∧ rdNat t (faultBlock s d + 16) 4 = (rdNat s (faultBlock s d + 16) 4 + 1) % 2 ^ 32 ∧
      (∃ eng, t.unit? u = some { deliverTrap un n r with eng := eng }) ∧
      t.die d = { s.die d with serial := n, parked := Tab.put (s.die d).parked n (parkedFault un u r) } := by
  intro t
  let s₀ := recorded s d pa u n un r
  let idx := bytesOf 4 ((rdNat s (faultBlock s d + 16) 4 + 1) % 2 ^ 32)
  have hidx : idx.length = 4 := length_bytesOf ..
  have ht : t = notifyHandler (poke s₀ (run (faultBlock s d + 16) idx)) d n pa := writeRecord_unit hu hn
  have hmem : t.mem = (poke s₀ (run (faultBlock s d + 16) idx)).mem :=
    ht ▸ notifyHandler_keeps State.mem (fun _ _ _ => rfl) (fun _ _ => rfl) ..
  have hdies : t.dies = s₀.dies :=
    ht ▸ (notifyHandler_keeps State.dies (fun _ _ _ => rfl) (fun _ _ => rfl) ..).trans (dies_poke ..)
  refine ⟨?_, ?_, ?_, ?_⟩
  · have hfar : ∀ i < 64, ¬ (faultBlock s d + 16 ≤ pa + i ∧ pa + i < faultBlock s d + 16 + idx.length) := by
      intro i hi h
      have := hdis (pa + i - (faultBlock s d + 16)) (by omega)
      omega
    calc rdBytes t pa 64 = rdBytes s₀ pa 64 := (rdBytes_congr hmem ..).trans (rdBytes_poke_run_of_disjoint hfar)
      _ = unitRecord un n r := by
        have h := rdBytes_poke_run (s := s) (pa := pa) (bs := unitRecord un n r) (length_unitRecord un n r ▸ hpa)
        rwa [length_unitRecord] at h
  · have hb : ∀ i < idx.length, unbackedAt s₀ (faultBlock s d + 16 + i) = false := by
      rw [hidx]
      exact fun i hi => (unbackedAt_recorded _).trans (hblk i hi)
    have h := rdBytes_poke_run hb
    rw [hidx] at h
    rw [rdNat, rdBytes_congr hmem, h, ofBytes_bytesOf, show 256 ^ 4 = 2 ^ 32 by norm_num, Nat.mod_mod]
  · rw [ht]
    refine unit_notifyHandler ?_
    rw [unit_poke]
    exact State.unit_putUnit_self ..
  · have hp : (poke s (run pa (unitRecord un n r))).die d = s.die d := by rw [State.die, dies_poke]; rfl
    rw [State.die, hdies, ← hp]
    exact State.die_modDie_self ..

theorem faultRecords : Sys2Proof.Claims.FaultRecords := by
  refine ⟨?_, fun _ _ => dueTrap_spec, nextSerial_range⟩
  intro s d u r un va pa hd hn hu blk fidx hs hroom hx hpa hblk hdis n
  obtain ⟨hrec, hidx, ⟨eng, hunit⟩, hdie⟩ := writeRecord_spec (r := r) hu rfl hpa hblk hdis
  let w := writeRecord s d pa (.unit u r)
  have hkeep {α : Type} (g : State → α) (hg : ∀ s t, g (State.soon s t) = g s) :
      g (if (nextDue w d).isSome then wakeFaults w d else w) = g w := by
    split
    · exact wakeFaults_keeps g hg w d
    · rfl
  refine ⟨_, _, execFaultRecordWrite_due hn hs hroom hx, ?_, ?_, (hkeep (fun s => s.unit? u) fun _ _ => rfl).trans hunit,
    rfl, rfl, rfl, rfl, ?_, ?_⟩
  · exact (rdBytes_congr (hkeep State.mem fun _ _ => rfl) ..).trans hrec
  · exact (rdNat_congr (hkeep State.mem fun _ _ => rfl) ..).trans hidx
  · exact (congrArg Die.serial (hkeep (fun s => s.die d) fun _ _ => rfl)).trans (congrArg Die.serial hdie)
  · rw [hkeep (fun s => s.die d) fun _ _ => rfl, hdie]
    exact Tab.find?_put_self ..

end Sys2Proof.Safety
end

section
/-! Responses that answer faults (O42). -/

open Sys2Proof Sys2Proof.Machine
namespace Sys2Proof.Safety

variable {s t : State} {un : UnitSt} {u e d n op va : Nat} {sp : Split} {r : TrapRec} {bs : List Byte} {p : Parked}

/-! A response is taken from its ring (R307) -/

theorem besideLines_obtainVirt (s : State) (ctx va n : Nat) : besideLines (obtainVirt s ctx va n) = besideLines s := by
  refine foldl_keeps _ besideLines (fun s i => ?_) _ s
  dsimp only
  split
  · exact (besideLines_obtainRead ..).trans (besideLines_obtainWalk ..)
  · exact besideLines_obtainWalk ..

/-- Taking a response from its ring changes memory and the state of its lines. -/
theorem besideMemory_Begun (s : State) (d va : Nat) : besideMemory (Claims.Begun s d va) = besideMemory s := by
  have h := congrArg besideMemory (besideLines_obtainVirt s 0 va 64)
  exact (besideMemory_poke ..).trans h

theorem units_Begun (s : State) (d va : Nat) : (Claims.Begun s d va).units = s.units := by
  have h := congrArg State.units (besideMemory_Begun s d va)
  exact h

theorem dies_Begun (s : State) (d va : Nat) : (Claims.Begun s d va).dies = s.dies := by
  have h := congrArg State.dies (besideMemory_Begun s d va)
  exact h

theorem answers_Begun (s : State) (d va : Nat) (bs : List Byte) : answers (Claims.Begun s d va) d bs = answers s d bs := by
  simp only [answers, State.die, dies_Begun]

theorem nextResponse_keeps {α : Type} (g : State → α) (hg : ∀ s t, g (State.soon s t) = g s) (s : State) (d : Nat) :
    g (nextResponse s d) = g s := by
  unfold nextResponse
  split
  · dsimp only
    split
    · rfl
    · exact hg _ _
  · rfl

/-- A response that is an event's own is begun and acted on. -/
theorem onResponse_mine (h : Claims.Responds s d op va bs) {mine : Nat → Bool} (hm : mine op = true)
    (body : State → Nat → List Byte → State) :
    onResponse s d mine body = nextResponse (body (Claims.Begun s d va) va bs) d := by
  obtain ⟨hresp, hop, hres⟩ := h
  simp only [onResponse, hresp, hop, hm, hres, if_true]
  rfl

theorem exec_resume (h : Claims.Responds s d 1 va bs) :
    exec (.resume d) s = .next (nextResponse (answer 1 d (Claims.Begun s d va) va bs) d) := by
  obtain ⟨-, hop, -⟩ := id h
  rw [show exec (.resume d) s = execResume d s from rfl, execResume, onResponse_mine h rfl, if_pos hop]

theorem exec_redirect (h : Claims.Responds s d 2 va bs) :
    exec (.redirect d) s = .next (nextResponse (answer 2 d (Claims.Begun s d va) va bs) d) :=
  congrArg _ (onResponse_mine h rfl _)

theorem exec_enter (h : Claims.Responds s d 3 va bs) :
    exec (.enter d) s = .next (nextResponse (answer 3 d (Claims.Begun s d va) va bs) d) :=
  congrArg _ (onResponse_mine h rfl _)

theorem exec_retire (h : Claims.Responds s d 4 va bs) :
    exec (.retire d) s = .next (nextResponse (answer 4 d (Claims.Begun s d va) va bs) d) :=
  congrArg _ (onResponse_mine h rfl _)

/-- RESUME's event answers an operation that is not there with BAD_RESPONSE. -/
theorem exec_resume_unknown (h : Claims.Responds s d op va bs) (ho : op = 0 ∨ 11 < op) :
    exec (.resume d) s = .next (nextResponse (respond (Claims.Begun s d va) va stBadResponse) d) := by
  obtain ⟨-, hop, -⟩ := id h
  have hne : rf bs 0 1 ≠ 1 := by omega
  rw [show exec (.resume d) s = execResume d s from rfl, execResume, onResponse_mine h (by simp; omega), if_neg hne]

/-- A serial that names no fault of the context gets NO_FAULT. -/
theorem answer_none (h : answers s d bs = none) (op va : Nat) : answer op d s va bs = respond s va stNoFault := by
  simp only [answer, h]

/-! The four answers to a unit's fault -/

/-- The state in which an answer is carried out: its fault is parked no more. -/
def answering (s : State) (d va : Nat) (bs : List Byte) : State := unpark (Claims.Begun s d va) d bs

theorem unit_answering (s : State) (d va : Nat) (bs : List Byte) (v : Nat) : (answering s d va bs).unit? v = s.unit? v := by
  show Tab.find? (Claims.Begun s d va).units v = _
  rw [units_Begun]
  rfl

theorem parked_answering (s : State) (d va : Nat) (bs : List Byte) :
    Tab.find? ((answering s d va bs).die d).parked (rf bs 4 4) = none := by
  rw [answering, unpark, State.die_modDie_self]
  exact Tab.find?_del_self ..

/-- The state once the status of a response has been written. -/
def responded (s : State) (d va status : Nat) : State := nextResponse (respond s va status) d

theorem responded_keeps {α : Type} (g : State → α) (hg : ∀ s t, g (State.soon s t) = g s) (hm : ∀ s, g (besideMemory s) = g s)
    (s : State) (d va status : Nat) : g (responded s d va status) = g s := by
  rw [responded, nextResponse_keeps g hg, ← hm, respond, besideMemory_pokeVirt, hm]

theorem unit_responded (s : State) (d va status v : Nat) : (responded s d va status).unit? v = s.unit? v :=
  responded_keeps (fun s => s.unit? v) (fun _ _ => rfl) (fun _ => rfl) ..

theorem die_responded (s : State) (d va status k : Nat) : (responded s d va status).die k = s.die k :=
  responded_keeps (fun s => s.die k) (fun _ _ => rfl) (fun _ => rfl) ..

/-- The answer to the parked fault of a unit on a core is carried out and gets the status DONE. -/
theorem answer_of_answers (h : Claims.Answers s d op va bs p u e un sp n r) (hst : answerStatus op p = stDone) :
    nextResponse (answer op d (Claims.Begun s d va) va bs) d =
      responded (answerUnit (answering s d va bs) op u e p.cause bs) d va stDone := by
  obtain ⟨-, hans, hw, hu, -, -, -, -⟩ := h
  have haway : p.what.away = false := by
    rw [hw]
    exact decide_eq_false hu.not_ge
  have hbegun := (answers_Begun s d va bs).trans hans
  simp only [answer, hbegun, hst, hw, hw ▸ haway]
  rfl

/-- What an answer finds in the unit of its fault. -/
theorem of_answers (h : Claims.Answers s d op va bs p u e un sp n r) :
    Claims.Responds s d op va bs ∧ p.what = .unit u e ∧ (answering s d va bs).unit? u = some un ∧ un.parked = some (n, r) ∧
      un.split? e = some sp ∧ sp.ra = none := by
  obtain ⟨hresp, -, hw, -, hu, hp, he, ha⟩ := h
  exact ⟨hresp, hw, (unit_answering ..).trans hu, hp, he, ha⟩

theorem dies_answered (s : State) (u : Nat) : (answered s u).dies = s.dies := by
  have h := congrArg State.dies (besideUnits_answered s u)
  exact h

/-- A group's unit with the done mask of a response (R161). -/
def withDone (un : UnitSt) (m : Mask) : UnitSt := { un with ctl := if un.at_.strand then un.ctl else { un.ctl with donemask := m } }

theorem withDone_eq (un : UnitSt) (m : Mask) :
    (if un.at_.strand then un else { un with ctl := { un.ctl with donemask := m } }) = withDone un m := by
  unfold withDone
  split <;> rfl

/-! Giving up a faulted access (R24, R160, R162) -/

/-- The unit with other registers. -/
def withRegs (rg : Regs) (un : UnitSt) : UnitSt := { un with regs := rg }

theorem withRegs_setFe (rg : Regs) (un : UnitSt) (o : Operand) (f : Fe) : withRegs rg (setFe un o f) = withRegs rg un := by
  cases o <;> rfl

/-- Registers of one condition given another: the unit changes in its registers only. -/
theorem withRegs_foldl_setFe (rg : Regs) (c f : Fe) (ds : List Operand) (un : UnitSt) :
    withRegs rg (ds.foldl (fun un d => if feOf un d = c then setFe un d f else un) un) = withRegs rg un := by
  refine foldl_keeps _ (withRegs rg) (fun un d => ?_) ds un
  split
  · exact withRegs_setFe ..
  · rfl

/-- Giving up an access takes it off the outstanding operations, and changes registers otherwise. -/
theorem abandonAccess_eq (un : UnitSt) (e : Nat) :
    abandonAccess un e = withRegs (abandonAccess un e).regs (dropFaulted un e) :=
  have h (rg : Regs) : withRegs rg (abandonAccess un e) = withRegs rg (dropFaulted un e) :=
    (withRegs_foldl_setFe ..).trans (withRegs_foldl_setFe ..)
  h (abandonAccess un e).regs

/-! Entering the handler (R308) -/

/-- The split of the handler, which runs. -/
def enteredSplit (un : UnitSt) (sp : Split) (addr : DWord) : Split :=
  { sp.goto addr (un.at_.strand && localForm addr) with st := SplitSt.running }

/-- An entry once the split at e runs alone from an address on. -/
def enterEntry (un : UnitSt) (e : Nat) (addr : DWord) (k : Nat) : Entry → Entry
  | .split sp =>
    .split (if k = e then enteredSplit un sp addr else if sp.st = SplitSt.running then { sp with st := .ready } else sp)
  | .join j => .join j

/-- The unit once its split at an entry runs the handler of a record. -/
def enteredUnit (un : UnitSt) (e : Nat) (sp : Split) (r : TrapRec) (addr : DWord) : UnitSt :=
  { un with
    entries := un.entries.map (fun x => (x.1, enterEntry un e addr x.1 x.2))
    mode := .handler e sp.mask
    parked := none
    handled := some r
    ctl := { un.ctl with trapcause := w32 (r.cause + 256 * r.lane), trapaddr := r.addr, donemask := r.done } }

theorem split?_enteredUnit (he : un.split? e = some sp) (r : TrapRec) (addr : DWord) :
    (enteredUnit un e sp r addr).split? e = some (enteredSplit un sp addr) := by
  refine split?_eq_some.2 ((find?_map_val un.entries (enterEntry un e addr) e).trans ?_)
  rw [split?_eq_some.1 he, Option.map_some, enterEntry, if_pos rfl]

/-- No other split of the unit runs. -/
theorem not_running_enteredUnit {x : Nat × Split} {addr : DWord} (hx : x ∈ (enteredUnit un e sp r addr).splits) (hne : x.1 ≠ e) :
    x.2.st ≠ .running := by
  obtain ⟨⟨k, y⟩, -, hy⟩ := List.mem_map.1 (mem_splits.1 hx)
  obtain ⟨hk, hv⟩ := Prod.mk.inj hy
  cases y with
  | join j => cases hv
  | split sp' =>
    rw [enterEntry, if_neg (by rw [hk]; exact hne)] at hv
    rw [← Entry.split.inj hv]
    split
    · exact SplitSt.noConfusion
    · assumption

theorem unit_enterHandler (hu : s.unit? u = some un) (he : un.split? e = some sp) (r : TrapRec) (addr : DWord) :
    (enterHandler s u e r addr).unit? u = some (enteredUnit un e sp r addr) := by
  have hmap (g : Nat × Entry → Nat × Entry) (hg : ∀ k v, g (k, v) = (k, enterEntry un e addr k v)) :
      un.entries.map g = (enteredUnit un e sp r addr).entries := List.map_congr_left fun x _ => hg x.1 x.2
  have hsplit : UnitSt.split? { un with entries := (enteredUnit un e sp r addr).entries } e = some (enteredSplit un sp addr) :=
    split?_enteredUnit he r addr
  rw [enterHandler, State.unit_modUnit_self, hu, Option.map_some]
  dsimp only
  rw [hmap _ fun k v => by cases v <;> rfl, hsplit]
  rfl

/-! What the four answers make of the unit -/

/-- The unit whose split at an entry goes on elsewhere, its faulted access given up. -/
def redirectedUnit (un : UnitSt) (e : Nat) (sp : Split) (addr : DWord) : UnitSt :=
  { resumedUnit (abandonAccess { un with ctl := { un.ctl with donemask := 0 } } e) e sp addr 0 with parked := none }

/-- The unit whose split at an entry goes on at the address of its record, with the done mask of the response. -/
def continuedUnit (un : UnitSt) (e : Nat) (sp : Split) (r : TrapRec) (m : Mask) : UnitSt :=
  { resumedUnit (withDone un m) e sp r.pc (if un.at_.strand then 0 else m) with parked := none }

section
variable (hu : s.unit? u = some un) (hp : un.parked = some (n, r))
include hu hp

/-- ENTER: the split runs the handler at the response's address. -/
theorem answerUnit_enter (cause : Nat) : answerUnit s 3 u e cause bs = enterHandler s u e r (dw (rf bs 8 8)) := by
  simp only [answerUnit, hu, hp]

/-- RETIRE: the lanes of the split end. -/
theorem answerUnit_retire (cause : Nat) : answerUnit s 4 u e cause bs =
    let un' := abandonAccess { un with parked := none, ctl := { un.ctl with donemask := 0 } } e
    wakeTraps (exitLanes (s.putUnit u un') u e) un' := by
  simp only [answerUnit, hu, hp]

variable (he : un.split? e = some sp) (ha : sp.ra = none)
include he ha

/-- RESUME: the split goes on at the record's address, with the response's done mask. -/
theorem answerUnit_resume (ht : r.cause ≠ causeTrap) (hb : r.cause ≠ causeBkpt) (cause : Nat) :
    (answerUnit s 1 u e cause bs).dies = s.dies ∧
      (answerUnit s 1 u e cause bs).unit? u = some (continuedUnit un e sp r (w32 (rf bs 16 4))) := by
  simp only [answerUnit, hu, withDone_eq]
  simp only [hp, resumePc_of_ne ht hb]
  rw [resumeAt_eq (un := withDone un _) he ha]
  refine ⟨(dies_answered ..).trans ?_, unit_answered ..⟩
  split <;> rfl

/-- REDIRECT: the split goes on at the response's address. -/
theorem answerUnit_redirect (cause : Nat) : (answerUnit s 2 u e cause bs).dies = s.dies ∧
    (answerUnit s 2 u e cause bs).unit? u = some (redirectedUnit un e sp (dw (rf bs 8 8))) := by
  have he' : UnitSt.split? (abandonAccess { un with ctl := { un.ctl with donemask := 0 } } e) e = some sp := by
    rw [abandonAccess_eq]
    exact he
  have h : answerUnit s 2 u e cause bs = answered (s.putUnit u
      (resumeAt (abandonAccess { un with ctl := { un.ctl with donemask := 0 } } e) e (dw (rf bs 8 8)) 0)) u := by
    rw [answerUnit, hu]
    dsimp only
    split
    · rename_i hn
      cases hn.symm.trans hp
    · rfl
  rw [h, resumeAt_eq he' ha]
  exact ⟨dies_answered .., unit_answered ..⟩

end

/-! The answer to a copy command's fault (R230) -/

theorem cmd_modCi (s : State) (c core k : Nat) (f : Cistern → Cistern) : cmd? (s.modCi c f) core k = cmd? s core k := by
  rw [cmd?, State.modCi, State.core_modCore]
  split
  · rename_i h
    rw [h]
    rfl
  · rfl

theorem cmd_congr (h : t.cores = s.cores) (core k : Nat) : cmd? t core k = cmd? s core k := by
  rw [cmd?, State.core, h]
  rfl

/-- A device's write leaves the copy commands alone. -/
theorem cmd_poke (s : State) (ws : List (Nat × Byte)) (core k : Nat) : cmd? (poke s ws) core k = cmd? s core k := by
  unfold poke
  rw [updateHomed_keeps (fun s => cmd? s core k) fun s c f => cmd_modCi s c core k f]
  refine cmd_congr ((cores_clearPoison ..).trans ?_) core k
  exact foldl_keeps _ State.cores (fun s l => cores_obtainWrite s (128 * l)) _ _

theorem cmd_responded (s : State) (d va status core k : Nat) : cmd? (responded s d va status) core k = cmd? s core k := by
  rw [responded, nextResponse_keeps (fun s => cmd? s core k) fun _ _ => rfl, respond, pokeVirt]
  split
  · exact cmd_poke ..
  · rfl

theorem cmd_answering (s : State) (d va : Nat) (bs : List Byte) (core k : Nat) : cmd? (answering s d va bs) core k = cmd? s core k := by
  have h := congrArg State.cores (besideLines_obtainVirt s 0 va 64)
  exact (cmd_poke ..).trans (cmd_congr h core k)

/-- RESUME: a parked copy command goes on. -/
theorem cmd_answerCopy_resume {core k : Nat} {c : CopyCmd} {x : Option Nat} (hc : cmd? s core k = some c) (hx : c.st = .parked x) :
    cmd? (answerCopy s 1 core k) core k = some { c with st := .live } := by
  simp only [answerCopy, hc, hx, if_true]
  rw [cmd?, State.core_laterFree, modCmd, State.core_modCore_self]
  exact (Tab.find?_modify_self ..).trans (congrArg _ hc)

theorem answer_copy {core k : Nat} (h : answers s d bs = some p) (hw : p.what = .copy core k) (hc : core < 65536) (va : Nat) :
    nextResponse (answer 1 d (Claims.Begun s d va) va bs) d = responded (answerCopy (answering s d va bs) 1 core k) d va stDone := by
  have hbegun := (answers_Begun s d va bs).trans h
  have hst : answerStatus 1 p = stDone := by simp [answerStatus, hw]
  have haway : FaultOf.away (.copy core k) = false := decide_eq_false hc.not_ge
  simp only [answer, hbegun, hst, hw, haway]
  rfl

theorem faultAnswers : Sys2Proof.Claims.FaultAnswers := by
  refine ⟨?_, ?_, ?_, ?_, ?_, ?_, ?_⟩
  · intro s d va bs p u e un sp n r h hf hm ht hb
    obtain ⟨hresp, hw, hu, hp, he, ha⟩ := of_answers h
    have hst : answerStatus 1 p = stDone := by simp [answerStatus, hw, hf, hm]
    obtain ⟨hdies, hunit⟩ := answerUnit_resume (bs := bs) hu hp he ha ht hb p.cause
    refine ⟨_, continuedUnit un e sp r (w32 (rf bs 16 4)), _, exec_resume hresp, ?_, rfl, rfl, rfl, rfl,
      split?_resumedUnit .., rfl, rfl, rfl, ?_⟩
    · rw [answer_of_answers h hst, unit_responded, hunit]
    · rw [answer_of_answers h hst, die_responded, State.die, hdies]
      exact parked_answering ..
  · intro s d va bs p u e un sp n r h
    obtain ⟨hresp, hw, hu, hp, he, ha⟩ := of_answers h
    have hst : answerStatus 2 p = stDone := by simp [answerStatus, hw]
    obtain ⟨hdies, hunit⟩ := answerUnit_redirect (bs := bs) hu hp he ha p.cause
    have hab := abandonAccess_eq { un with ctl := { un.ctl with donemask := 0 } } e
    refine ⟨_, redirectedUnit un e sp (dw (rf bs 8 8)), _, exec_redirect hresp, ?_, rfl, ?_, ?_,
      split?_resumedUnit .., rfl, rfl, rfl, ?_⟩
    · rw [answer_of_answers h hst, unit_responded, hunit]
    · exact congrArg UnitSt.ctl hab
    · exact congrArg UnitSt.ops hab
    · rw [answer_of_answers h hst, die_responded, State.die, hdies]
      exact parked_answering ..
  · intro s d va bs p u e un sp n r h hc hh
    obtain ⟨hresp, hw, hu, hp, he, -⟩ := of_answers h
    have hst : answerStatus 3 p = stDone := by simp [answerStatus, hw, hc, hh]
    refine ⟨_, enteredUnit un e sp r (dw (rf bs 8 8)), _, exec_enter hresp, ?_, rfl, rfl, rfl, rfl, rfl,
      split?_enteredUnit he .., rfl, rfl, rfl, fun x hx hne => not_running_enteredUnit hx hne⟩
    rw [answer_of_answers h hst, unit_responded, answerUnit_enter hu hp, unit_enterHandler hu he]
  · intro s d va bs p u e un sp n r h un'
    obtain ⟨hresp, hw, hu, hp, -, -⟩ := of_answers h
    rw [exec_retire hresp, answer_of_answers h rfl, answerUnit_retire hu hp]
    rfl
  · intro s d va bs h t
    have ht (op : Nat) : nextResponse (answer op d (Claims.Begun s d va) va bs) d = t :=
      congrArg (nextResponse · d) (answer_none ((answers_Begun ..).trans h) op va)
    exact ⟨fun hr => (exec_resume hr).trans (congrArg _ (ht 1)), fun hr => (exec_redirect hr).trans (congrArg _ (ht 2)),
      fun hr => (exec_enter hr).trans (congrArg _ (ht 3)), fun hr => (exec_retire hr).trans (congrArg _ (ht 4))⟩
  · exact fun s d va bs op => exec_resume_unknown
  · intro s d va bs p core k c x hresp hans hw hcore hc hx
    refine ⟨_, (exec_resume hresp).trans (congrArg _ (answer_copy hans hw hcore va)), ?_⟩
    rw [cmd_responded]
    exact cmd_answerCopy_resume ((cmd_answering ..).trans hc) hx

/-- Settles O42: what the write of a record and the four answers make of the unit and the die, and what they leave. -/
theorem faultsAndResponses : Obligations.FaultsAndResponses := ⟨faultRecords, faultAnswers⟩

end Sys2Proof.Safety
end

section
/-! Integer results in the terms of the spec (O1 to O4): each value function of the model, in the exact arithmetic or the bits of its
rule. -/

open Sys2Proof Sys2Proof.Machine
namespace Sys2Proof.Safety

/-! Operations on registers that act -/

section
variable {i : Instr} {s : State} {c : Issue} {d : Operand}

/-- A word operation that acts writes the values that its function gives. -/
theorem alu_of_acts {f : Issue → Nat → Word} {g : Nat → Word} (h : Acts i s c) (hv : ∀ l, f c l = g l) :
    alu i s d f = .next (wrote s c d g) := by
  rw [Machine.alu, issue_of_acts h, funext hv]
  rfl

/-- A pair operation that acts writes the values that its function gives. -/
theorem aluPair_of_acts {f : Issue → Nat → DWord} {g : Nat → DWord} (h : Acts i s c) (hv : ∀ l, f c l = g l) :
    aluPair i s d f = .next (wrotePair s c d g) := by
  rw [Machine.aluPair, issue_of_acts h, funext hv]
  rfl

/-- A predicate operation that acts writes the values that its function gives. -/
theorem aluPred_of_acts {f : Issue → Nat → Bool} {g : Nat → Bool} {pd : Fin 16} (h : Acts i s c) (hv : ∀ l, f c l = g l) :
    aluPred i s pd f = .next (wrotePred s c pd g) := by
  rw [Machine.aluPred, issue_of_acts h, funext hv]
  rfl

end

/-! Adds and subtracts (R115 to R117) -/

section
variable (a b : Word) (m : SatMode) (sat : Bool)

theorem clamp_eq_max_min {lo hi : Int} (h : lo ≤ hi) (t : Int) : clamp t lo hi = max lo (min hi t) := by
  unfold clamp
  split
  · omega
  · split <;> omega

theorem narrowSat_eq_limited (t : Int) : narrowSat m t = BitVec.ofInt 32 (limited m t) := by
  cases m with
  | wrap => rfl
  | satI32 => exact congrArg (BitVec.ofInt 32) (clamp_eq_max_min (lo := -2 ^ 31) (hi := 2 ^ 31 - 1) (by decide) t)
  | satN32 => exact congrArg (BitVec.ofInt 32) (clamp_eq_max_min (lo := 0) (hi := 2 ^ 32 - 1) (by decide) t)

theorem readSat_eq_number : readSat m a = number m a := by
  cases m <;> rfl

theorem addWord_eq_limited : addWord m a b = BitVec.ofInt 32 (limited m (number m a + number m b)) := by
  rw [addWord, narrowSat_eq_limited, readSat_eq_number, readSat_eq_number]

theorem subWord_eq_limited : subWord m a b = BitVec.ofInt 32 (limited m (number m a - number m b)) := by
  rw [subWord, narrowSat_eq_limited, readSat_eq_number, readSat_eq_number]

theorem negWord_eq_limited : negWord sat a = BitVec.ofInt 32 (limited (if sat then .satI32 else .wrap) (0 - a.toInt)) :=
  narrowSat_eq_limited ..

theorem absWord_eq_limited : absWord sat a = BitVec.ofInt 32 (limited (if sat then .satI32 else .wrap) |a.toInt|) := by
  rw [absWord, narrowSat_eq_limited, Int.natCast_natAbs]
  rfl

theorem addSubtract : Sys2Proof.Claims.AddSubtract :=
  ⟨fun _ _ _ h => alu_of_acts h fun _ => addWord_eq_limited ..,
    fun _ _ _ h => alu_of_acts h fun _ => subWord_eq_limited ..,
    fun _ _ _ h => alu_of_acts h fun _ => addWord_eq_limited ..,
    fun _ _ _ h => alu_of_acts h fun _ => negWord_eq_limited ..,
    fun _ _ _ h => alu_of_acts h fun _ => absWord_eq_limited ..⟩

end

theorem subBorrow_eq (a b : Word) (bi : Bool) :
    subBorrow a b bi = (BitVec.ofInt 32 ((a.toNat : Int) - b.toNat - (if bi then 1 else 0)),
      decide ((a.toNat : Int) - b.toNat - (if bi then 1 else 0) < 0)) := by
  cases bi <;> rfl

theorem carryChain : Sys2Proof.Claims.CarryChain := by
  refine ⟨fun y s c h => (issue_of_acts h _ : execIaddc y s = _), fun y s c h => ?_⟩
  refine (issue_of_acts h _ : execIsubb y s = _).trans ?_
  simp only [subBorrow_eq]
  rfl

section
variable (a b : DWord)

theorem dword_sub_eq_ofInt : a - b = BitVec.ofInt 64 (a.toInt - b.toInt) := by
  rw [Int.sub_eq_add_neg, BitVec.ofInt_add, BitVec.ofInt_neg, BitVec.ofInt_toInt, BitVec.ofInt_toInt, BitVec.sub_eq_add_neg]

theorem dword_add_signExtend (k : Word) : a + k.signExtend 64 = BitVec.ofInt 64 (a.toInt + k.toInt) := by
  rw [BitVec.ofInt_add, BitVec.ofInt_toInt]
  rfl

end

theorem wideAdd : Sys2Proof.Claims.WideAdd :=
  ⟨fun _ _ _ h => aluPair_of_acts h fun _ => BitVec.add_def ..,
    fun _ _ _ h => aluPair_of_acts h fun _ => dword_sub_eq_ofInt ..,
    fun _ _ _ h => aluPair_of_acts h fun _ => dword_add_signExtend ..⟩

/-- Settles O1: the model's adds and subtracts are the exact results, reduced as the overflow mode says. -/
theorem addsAndSubtracts : Obligations.AddsAndSubtracts := ⟨addSubtract, carryChain, wideAdd⟩

/-! Minima, maxima and comparisons (R109, R118, R119) -/

theorem minWord_eq_ite (uns : Bool) (a b : Word) : minWord uns a b = if asInt uns a ≤ asInt uns b then a else b :=
  (ite_not ..).symm.trans (if_congr not_lt rfl rfl)

theorem maxWord_eq_ite (uns : Bool) (a b : Word) : maxWord uns a b = if asInt uns b ≤ asInt uns a then a else b :=
  (ite_not ..).symm.trans (if_congr not_lt rfl rfl)

theorem minMaxSelect : Sys2Proof.Claims.MinMaxSelect :=
  ⟨fun _ _ _ h => alu_of_acts h fun _ => minWord_eq_ite ..,
    fun _ _ _ h => alu_of_acts h fun _ => maxWord_eq_ite ..,
    fun _ _ _ h => alu_of_acts h fun _ => rfl⟩

theorem compareInt_eq_cmpHolds (k : Cmp) (a b : Int) : compareInt k a b = cmpHolds k a b := by
  rw [Bool.eq_iff_iff]
  cases k <;> simp [compareInt, cmpHolds] <;> omega

theorem integerCompare : Sys2Proof.Claims.IntegerCompare :=
  ⟨fun y _ _ h => aluPred_of_acts h fun _ => congrArg (combine y.m.or · _) (compareInt_eq_cmpHolds ..),
    fun _ _ _ h => aluPred_of_acts h fun _ => compareInt_eq_cmpHolds ..,
    fun y _ _ h => aluPred_of_acts h fun _ => congrArg (combine y.m.or · _) (compareInt_eq_cmpHolds ..)⟩

/-! Words given bit by bit (R120) -/

theorem eq_ofBits {a : Word} {f : Nat → Bool} (h : ∀ i < 32, a.getLsbD i = f i) : a = ofBits f :=
  BitVec.eq_of_getLsbD_eq fun i hi => (h i hi).trans (getLsbD_ofBits f hi).symm

section
variable (a b : Word)

theorem and_eq_ofBits : a &&& b = ofBits (fun i => a.getLsbD i && b.getLsbD i) :=
  eq_ofBits fun _ _ => BitVec.getLsbD_and

theorem or_eq_ofBits : a ||| b = ofBits (fun i => a.getLsbD i || b.getLsbD i) :=
  eq_ofBits fun _ _ => BitVec.getLsbD_or

theorem xor_eq_ofBits : a ^^^ b = ofBits (fun i => a.getLsbD i ^^ b.getLsbD i) :=
  eq_ofBits fun _ _ => BitVec.getLsbD_xor

theorem not_eq_ofBits : ~~~a = ofBits (fun i => !a.getLsbD i) :=
  eq_ofBits fun i h => by rw [BitVec.getLsbD_not, decide_eq_true h, Bool.true_and]

end

theorem logic : Sys2Proof.Claims.Logic :=
  ⟨fun _ _ _ h => alu_of_acts h fun _ => and_eq_ofBits ..,
    fun _ _ _ h => alu_of_acts h fun _ => or_eq_ofBits ..,
    fun _ _ _ h => alu_of_acts h fun _ => xor_eq_ofBits ..,
    fun _ _ _ h => alu_of_acts h fun _ => not_eq_ofBits ..,
    fun _ _ _ h => alu_of_acts h fun _ => and_eq_ofBits ..,
    fun _ _ _ h => alu_of_acts h fun _ => or_eq_ofBits ..,
    fun _ _ _ h => alu_of_acts h fun _ => xor_eq_ofBits ..⟩

/-- Settles O2: minima, maxima and comparisons go by the operands read as numbers, the logic instructions by their bits. -/
theorem selectsComparesLogic : Obligations.SelectsComparesLogic := ⟨minMaxSelect, integerCompare, logic⟩

/-! Shifts and rotates (R121) -/

section
variable {w : Nat} (a : BitVec w) (k : Nat)

theorem shiftLeft_eq_ofNat : a <<< k = BitVec.ofNat w (a.toNat * 2 ^ k) :=
  BitVec.eq_of_toNat_eq (by rw [BitVec.toNat_shiftLeft, Nat.shiftLeft_eq, BitVec.toNat_ofNat])

theorem shiftLeft_eq_mul_ofInt : a <<< k = a * BitVec.ofInt w (2 ^ k) := by
  have hk : (2 ^ k : Int) = (2 ^ k : Nat) := by norm_cast
  rw [shiftLeft_eq_ofNat, BitVec.ofNat_mul, BitVec.ofNat_toNat, BitVec.setWidth_eq, hk, BitVec.ofInt_natCast]

theorem ushiftRight_eq_ofNat : a >>> k = BitVec.ofNat w (a.toNat / 2 ^ k) := by
  rw [← Nat.shiftRight_eq_div_pow, ← BitVec.toNat_ushiftRight, BitVec.ofNat_toNat, BitVec.setWidth_eq]

theorem sshiftRight_eq_ofInt : a.sshiftRight k = BitVec.ofInt w (a.toInt / 2 ^ k) := by
  rw [BitVec.sshiftRight, Int.shiftRight_eq_div_pow]
  rfl

theorem shlBits_eq_ite : shlBits a k = if k < w then BitVec.ofNat w (a.toNat * 2 ^ k) else 0 := by
  rw [shlBits, shiftLeft_eq_ofNat]

theorem shrBits_eq_ite : shrBits a k = if k < w then BitVec.ofNat w (a.toNat / 2 ^ k) else 0 := by
  rw [shrBits, ushiftRight_eq_ofNat]

theorem sarBits_eq_floorShift : sarBits a k = BitVec.ofInt w (floorShift a k) := by
  unfold sarBits floorShift
  split
  · exact sshiftRight_eq_ofInt ..
  · rw [BitVec.msb_eq_toInt]
    by_cases h : a.toInt < 0
    · simp [h, BitVec.ofInt_neg, BitVec.neg_one_eq_allOnes]
    · simp [h]

end

theorem shifts : Sys2Proof.Claims.Shifts :=
  ⟨fun _ _ _ h => alu_of_acts h fun _ => shlBits_eq_ite ..,
    fun _ _ _ h => alu_of_acts h fun _ => shrBits_eq_ite ..,
    fun _ _ _ h => alu_of_acts h fun _ => sarBits_eq_floorShift ..,
    fun _ _ _ h => alu_of_acts h fun _ => BitVec.rotateLeft_eq_rotateLeftAux_of_lt (Nat.mod_lt _ (by decide)),
    fun _ _ _ h => alu_of_acts h fun _ => BitVec.rotateRight_eq_rotateRightAux_of_lt (Nat.mod_lt _ (by decide)),
    fun y _ _ h => alu_of_acts h fun _ => (shlBits_eq_ite ..).trans (if_pos y.m.isLt),
    fun y _ _ h => alu_of_acts h fun _ => (shrBits_eq_ite ..).trans (if_pos y.m.isLt),
    fun y _ _ h => alu_of_acts h fun _ => (sarBits_eq_floorShift ..).trans (congrArg _ (if_pos y.m.isLt)),
    fun _ _ _ h => aluPair_of_acts h fun _ => shlBits_eq_ite ..,
    fun _ _ _ h => aluPair_of_acts h fun _ => shrBits_eq_ite ..,
    fun _ _ _ h => aluPair_of_acts h fun _ => sarBits_eq_floorShift ..⟩

/-! Bit counts and the reversal (R122) -/

/-- A property's first place in a range, counted from 0 by the elements before it. -/
theorem length_takeWhile_not_range' (p : Nat → Bool) (k n : Nat) :
    k + ((List.range' k n).takeWhile (fun i => !p i)).length = ((List.range' k n).find? p).getD (k + n) := by
  induction n generalizing k with
  | zero => rfl
  | succ n ih =>
    rw [List.range'_succ]
    cases h : p k
    · simpa [h, Nat.add_comm, Nat.add_left_comm, Nat.add_assoc] using ih (k + 1)
    · simp [h]

theorem length_takeWhile_not_range (p : Nat → Bool) (n : Nat) :
    ((List.range n).takeWhile (fun i => !p i)).length = ((List.range n).find? p).getD n := by
  simpa [List.range_eq_range'] using length_takeWhile_not_range' p 0 n

section
variable (a : Word)

theorem popcWord_eq_countP : popcWord a = BitVec.ofNat 32 ((List.range 32).countP (fun i => a.getLsbD i)) := by
  rw [List.countP_eq_length_filter]
  rfl

/-- The bits from the top down are counted from the bottom up. -/
theorem clzNat_eq_find? : clzNat 32 a.toNat = ((List.range 32).find? (fun i => a.getLsbD (31 - i))).getD 32 := by
  have hdown : (List.range 32).reverse = (List.range 32).map (31 - ·) := by decide
  rw [clzNat, hdown, List.takeWhile_map, List.length_map]
  exact length_takeWhile_not_range (fun i => a.getLsbD (31 - i)) 32

theorem ctzNat_eq_find? : ctzNat 32 a.toNat = ((List.range 32).find? (fun i => a.getLsbD i)).getD 32 :=
  length_takeWhile_not_range ..

theorem brevWord_eq_ofBits : brevWord a = ofBits (fun i => a.getLsbD (31 - i)) :=
  eq_ofBits fun i h => by rw [brevWord, BitVec.getLsbD_reverse, BitVec.getMsbD, decide_eq_true h, Bool.true_and]

end

theorem bitCounts : Sys2Proof.Claims.BitCounts :=
  ⟨fun _ _ _ h => alu_of_acts h fun _ => popcWord_eq_countP ..,
    fun _ _ _ h => alu_of_acts h fun _ => congrArg _ (clzNat_eq_find? ..),
    fun _ _ _ h => alu_of_acts h fun _ => congrArg _ (ctzNat_eq_find? ..),
    fun _ _ _ h => alu_of_acts h fun _ => brevWord_eq_ofBits ..⟩

/-! Bit fields (R127) -/

/-- The sum of bits by which the model makes a field is the word of those bits. -/
theorem ofNat_foldl_eq_ofBits (f : Nat → Bool) :
    BitVec.ofNat 32 ((List.range 32).foldl (fun n i => n + 2 ^ i * b2n (f i)) 0) = ofBits f := by
  have hterm (i : Nat) : 2 ^ i * b2n (f i) = if f i then 2 ^ i else 0 := by
    cases f i <;> simp [b2n]
  rw [ofBits, List.sum_eq_foldl, List.foldl_map]
  simp only [hterm]

section
variable (a b c : Word)

/-- Beyond the word, the bits of a signed field are the sign, and those of an unsigned one are 0. -/
theorem fieldBit_eq_ite (signed : Bool) (p : Nat) :
    (if p ≤ 31 then a.getLsbD p else signed && a.getLsbD 31) = if signed then a.getLsbD (min p 31) else a.getLsbD p := by
  split
  next h => rw [Nat.min_eq_left h, ite_self]
  next h =>
    rw [Nat.min_eq_right (by omega), BitVec.getLsbD_of_ge a p (by omega)]
    cases signed <;> rfl

theorem bfxWord_eq_ofBits (signed : Bool) : bfxWord signed a b =
    let pos := b.toNat % 256
    let len := min (b.toNat / 256 % 256) 32
    ofBits (fun i =>
      if signed then decide (0 < len) && a.getLsbD (min (pos + min i (len - 1)) 31)
      else decide (i < len) && a.getLsbD (pos + i)) := by
  have hpos : fieldPos b = (b.toNat % 256, min (b.toNat / 256 % 256) 32) := by simp [fieldPos, bits]
  simp only [bfxWord, hpos]
  generalize b.toNat % 256 = pos
  generalize min (b.toNat / 256 % 256) 32 = len
  split
  next h => exact eq_ofBits fun i _ => by simp [h]
  next h =>
    rw [ofNat_foldl_eq_ofBits]
    refine congrArg ofBits (funext fun i => ?_)
    simp only [fieldBit_eq_ite]
    cases signed with
    | false => by_cases hi : i < len <;> simp [hi]
    | true =>
      rw [decide_eq_true (Nat.pos_of_ne_zero h)]
      by_cases hi : i < len
      · simp [hi, Nat.min_eq_left (Nat.le_sub_one_of_lt hi)]
      · simp [hi, Nat.min_eq_right (show len - 1 ≤ i by omega)]

theorem bfiWord_eq_ofBits : bfiWord a b c =
    let pos := b.toNat % 256
    let len := min (b.toNat / 256 % 256) 32
    ofBits (fun i => if pos ≤ i ∧ i < pos + len then a.getLsbD (i - pos) else c.getLsbD i) := by
  have hpos : fieldPos b = (b.toNat % 256, min (b.toNat / 256 % 256) 32) := by simp [fieldPos, bits]
  simp only [bfiWord, hpos]
  exact ofNat_foldl_eq_ofBits ..

end

theorem bitFields : Sys2Proof.Claims.BitFields :=
  ⟨fun _ _ _ h => alu_of_acts h fun _ => bfxWord_eq_ofBits ..,
    fun _ _ _ h => alu_of_acts h fun _ => bfiWord_eq_ofBits ..⟩

/-- Settles O3: shifts are products and quotients by powers of two, counts and fields go bit by bit. -/
theorem shiftsCountsFields : Obligations.ShiftsCountsFields := ⟨shifts, bitCounts, bitFields⟩

/-! Moves, address sums and multiplies (R123 to R125) -/

theorem leaValue_eq_ofInt (uns : Bool) (k : Nat) (a : DWord) (b : Word) :
    leaValue uns k a b = BitVec.ofInt 64 (a.toInt + asInt uns b * 2 ^ k) := by
  have hb : (if uns then b.setWidth 64 else b.signExtend 64) = BitVec.ofInt 64 (asInt uns b) := by
    cases uns with
    | false => rfl
    | true => rw [asInt, if_pos rfl, if_pos rfl, BitVec.ofInt_natCast, BitVec.ofNat_toNat]
  rw [leaValue, hb, shiftLeft_eq_mul_ofInt, BitVec.ofInt_add, BitVec.ofInt_toInt, BitVec.ofInt_mul]

theorem movesAndAddresses : Sys2Proof.Claims.MovesAndAddresses := by
  refine ⟨fun y s c h => ?_, fun _ _ _ h => alu_of_acts h fun _ => rfl,
    fun _ _ _ h => alu_of_acts h fun _ => ?_, fun y s c h => ?_,
    fun _ _ _ h => aluPair_of_acts h fun _ => leaValue_eq_ofInt ..⟩
  · obtain ⟨g, d, a, m⟩ := y
    cases m with
    | false => exact alu_of_acts h fun _ => rfl
    | true => exact aluPair_of_acts h fun _ => rfl
  · rw [shiftLeft_eq_ofNat, BitVec.toNat_setWidth_of_le (by decide)]
  · obtain ⟨g, d, imm, m⟩ := y
    cases m with
    | w32 => exact alu_of_acts h fun _ => rfl
    | sx64 => exact aluPair_of_acts h fun _ => rfl
    | zx64 => exact aluPair_of_acts h fun _ => (BitVec.ofNat_toNat ..).symm

theorem word_mul_add_eq_ofNat (a b c : Word) : a * b + c = BitVec.ofNat 32 (a.toNat * b.toNat + c.toNat) := by
  simp only [BitVec.ofNat_add, BitVec.ofNat_mul, BitVec.ofNat_toNat, BitVec.setWidth_eq]

theorem multiplies : Sys2Proof.Claims.Multiply :=
  ⟨fun _ _ _ h => alu_of_acts h fun _ => BitVec.mul_def ..,
    fun _ _ _ h => alu_of_acts h fun _ => rfl,
    fun _ _ _ h => alu_of_acts h fun _ => word_mul_add_eq_ofNat ..,
    fun _ _ _ h => aluPair_of_acts h fun _ => rfl,
    fun _ _ _ h => aluPair_of_acts h fun _ => rfl⟩

/-- Settles O4: moves extend their immediates, and products are exact before they are reduced. -/
theorem movesAndMultiplies : Obligations.MovesAndMultiplies := ⟨movesAndAddresses, multiplies⟩

end Sys2Proof.Safety
end

section
/-! Division (O5): a bit of DIVSTEP as a function of numbers, and what the state holds once n bits are developed. -/

open Sys2Proof Sys2Proof.Machine
namespace Sys2Proof.Safety

/-! Pairs of words -/

section
variable (lo hi : Word)

theorem loWord_pair : loWord (pair lo hi) = lo := BitVec.extractLsb'_append_eq_right

theorem hiWord_pair : hiWord (pair lo hi) = hi := BitVec.extractLsb'_append_eq_left

theorem pair_eq_ofNat : pair lo hi = BitVec.ofNat 64 (lo.toNat + 2 ^ 32 * hi.toNat) := by
  have hlo : lo.toNat < 2 ^ 32 := lo.isLt
  have happ : (hi ++ lo).toNat = lo.toNat + 2 ^ 32 * hi.toNat := by
    rw [BitVec.toNat_append, Nat.shiftLeft_eq, Nat.mul_comm, ← Nat.two_pow_add_eq_or_of_lt hlo, Nat.add_comm]
  rw [← happ, BitVec.ofNat_toNat, BitVec.setWidth_eq]
  rfl

end

/-! One bit of DIVSTEP (R126) -/

/-- A bit developed in the state (q, r), as the rule writes it in numbers. -/
def divBitNat (d : Nat) (st : Nat × Nat) : Nat × Nat :=
  let t := 2 * st.2 + st.1 / 2 ^ 31
  let q := st.1 * 2 % 2 ^ 32
  if d ≤ t then (q + 1, (t - d) % 2 ^ 32) else (q, t % 2 ^ 32)

/-- The numbers of a state of words. -/
abbrev divNat (st : Word × Word) : Nat × Nat := (st.1.toNat, st.2.toNat)

theorem b2n_topBit (q : Word) : b2n (q.getLsbD 31) = q.toNat / 2 ^ 31 := by
  have h := q.isLt
  rw [b2n, BitVec.getLsbD, Nat.testBit_eq_decide_div_mod_eq]
  simp only [decide_eq_true_eq]
  split <;> omega

theorem toNat_double (q : Word) : (q <<< 1).toNat = q.toNat * 2 % 2 ^ 32 := by
  rw [BitVec.toNat_shiftLeft, Nat.shiftLeft_eq, Nat.pow_one]

theorem toNat_double_or_one (q : Word) : (q <<< 1 ||| 1).toNat = q.toNat * 2 % 2 ^ 32 + 1 := by
  have heven : q.toNat * 2 % 2 ^ 32 = 2 ^ 1 * (q.toNat % 2 ^ 31) := by omega
  rw [BitVec.toNat_or, toNat_double, heven]
  exact (Nat.two_pow_add_eq_or_of_lt (by decide) _).symm

theorem divNat_divBit (d : Nat) (st : Word × Word) : divNat (divBit d st) = divBitNat d (divNat st) := by
  simp only [divBit, divBitNat, b2n_topBit]
  by_cases h : d ≤ 2 * st.2.toNat + st.1.toNat / 2 ^ 31
  · rw [if_pos h, if_pos h]
    exact Prod.ext (toNat_double_or_one _) (BitVec.toNat_ofNat ..)
  · rw [if_neg h, if_neg h]
    exact Prod.ext (toNat_double _) (BitVec.toNat_ofNat ..)

/-! Many bits -/

theorem divBits_add (d m n : Nat) (st : Word × Word) : divBits d (m + n) st = divBits d n (divBits d m st) := by
  induction m generalizing st with
  | zero => rw [Nat.zero_add]; rfl
  | succ m ih => rw [Nat.succ_add]; exact ih _

theorem divNat_divBits (d n : Nat) (st : Word × Word) : divNat (divBits d n st) = Nat.repeat (divBitNat d) n (divNat st) := by
  induction n with
  | zero => rfl
  | succ n ih => rw [divBits_add, Nat.repeat, ← ih]; exact divNat_divBit ..

theorem divStep_eq_ofNat (k : Nat) (a : DWord) (b : Word) : divStep k a b =
    let r := Nat.repeat (divBitNat b.toNat) (2 ^ k) ((loWord a).toNat, (hiWord a).toNat)
    BitVec.ofNat 64 (r.1 + 2 ^ 32 * r.2) := by
  have h := divNat_divBits b.toNat (2 ^ k) (loWord a, hiWord a)
  rw [divStep, pair_eq_ofNat]
  exact congrArg (fun r => BitVec.ofNat 64 (r.1 + 2 ^ 32 * r.2)) h

/-- DIVSTEPs one after another develop the sum of their bits. -/
theorem foldl_divStep (d : Word) (ks : List (Fin 4)) (st : Word × Word) :
    ks.foldl (fun a k => divStep k.val a d) (pair st.1 st.2) =
      let st' := divBits d.toNat (ks.map (fun k => 2 ^ k.val)).sum st
      pair st'.1 st'.2 := by
  induction ks generalizing st with
  | nil => rfl
  | cons k ks ih =>
    have hk : divStep k.val (pair st.1 st.2) d = pair (divBits d.toNat (2 ^ k.val) st).1 (divBits d.toNat (2 ^ k.val) st).2 := by
      simp only [divStep, loWord_pair, hiWord_pair]
    rw [List.foldl_cons, hk, ih, List.map_cons, List.sum_cons, divBits_add]

/-! The bits developed -/

/-- The n-bit quotient of y by d; all ones for divisor 0. -/
def quotientBits (d n y : Nat) : Nat := if d = 0 then 2 ^ n - 1 else y / d

/-- With n bits of x divided by d, q holds the undivided low bits of x above the quotient's bits, and r the remainder. -/
def Developed (x d n : Nat) (st : Nat × Nat) : Prop :=
  st.1 = x % 2 ^ (32 - n) * 2 ^ n + quotientBits d n (x / 2 ^ (32 - n)) ∧ st.2 = x / 2 ^ (32 - n) % d

section
variable {x d n : Nat} {st : Nat × Nat}

theorem Developed.zero (hx : x < 2 ^ 32) : Developed x d 0 (x, 0) := by
  have h0 : x / 2 ^ 32 = 0 := Nat.div_eq_of_lt hx
  simp only [Developed, quotientBits, Nat.sub_zero, h0, Nat.mod_eq_of_lt hx]
  simp

theorem quotientBits_lt {y : Nat} (h : y < 2 ^ n) : quotientBits d n y < 2 ^ n := by
  unfold quotientBits
  split
  · exact Nat.sub_one_lt (by positivity)
  · exact (Nat.div_le_self y d).trans_lt h

/-- The next bit of the dividend gives the next bit of the quotient, and the remainder. -/
theorem quotientBits_succ (y : Nat) {b : Nat} (hb : b < 2) :
    if d ≤ 2 * (y % d) + b then
      quotientBits d (n + 1) (2 * y + b) = 2 * quotientBits d n y + 1 ∧ (2 * y + b) % d = 2 * (y % d) + b - d
    else quotientBits d (n + 1) (2 * y + b) = 2 * quotientBits d n y ∧ (2 * y + b) % d = 2 * (y % d) + b := by
  unfold quotientBits
  rcases Nat.eq_zero_or_pos d with rfl | hd
  · have : 0 < 2 ^ n := by positivity
    simp [Nat.pow_succ]
    omega
  · have hr := Nat.mod_lt y hd
    have hy : 2 * y + b = 2 * (y % d) + b + d * (2 * (y / d)) := by
      conv_lhs => rw [← Nat.div_add_mod y d]
      ring
    rw [hy, Nat.add_mul_div_left _ _ hd, Nat.add_mul_mod_self_left, if_neg hd.ne', if_neg hd.ne']
    split
    next h =>
      rw [Nat.div_eq_sub_div hd h, Nat.div_eq_of_lt (by omega), Nat.mod_eq_sub_mod h, Nat.mod_eq_of_lt (by omega)]
      exact ⟨by omega, rfl⟩
    next h =>
      rw [Nat.div_eq_of_lt (by omega), Nat.mod_eq_of_lt (by omega)]
      exact ⟨by omega, rfl⟩

/-- The top bit of q is the next of the dividend; the rest are the lower ones and the quotient's bits so far. -/
theorem Developed.top_and_rest {k : Nat} (hx : x < 2 ^ 32) (hk : n + k = 31) (h : Developed x d n st) :
    st.1 / 2 ^ 31 = x / 2 ^ k % 2 ∧
      st.1 * 2 % 2 ^ 32 = 2 * (x % 2 ^ k * 2 ^ n + quotientBits d n (x / 2 ^ (k + 1))) := by
  obtain ⟨hq, -⟩ := h
  rw [show 32 - n = k + 1 by omega] at hq
  have hpow : 2 ^ k * 2 ^ n = 2 ^ 31 := by rw [← Nat.pow_add, Nat.add_comm, hk]
  have hquot : quotientBits d n (x / 2 ^ (k + 1)) < 2 ^ n := by
    apply quotientBits_lt
    rw [Nat.div_lt_iff_lt_mul (by positivity), Nat.pow_succ, ← Nat.mul_assoc, Nat.mul_comm (2 ^ n), hpow]
    exact hx
  have hlow : x % 2 ^ k * 2 ^ n + 2 ^ n ≤ 2 ^ 31 := by
    rw [← Nat.succ_mul, ← hpow]
    exact Nat.mul_le_mul_right _ (Nat.mod_lt x (by positivity))
  have hsum : st.1 = x % 2 ^ k * 2 ^ n + quotientBits d n (x / 2 ^ (k + 1)) + 2 ^ 31 * (x / 2 ^ k % 2) := by
    rw [hq, Nat.mod_pow_succ, ← hpow]
    ring
  omega

theorem Developed.succ (hx : x < 2 ^ 32) (hn : n < 32) (h : Developed x d n st) : Developed x d (n + 1) (divBitNat d st) := by
  obtain ⟨k, hk⟩ : ∃ k, n + k = 31 := ⟨31 - n, by omega⟩
  obtain ⟨htop, hrest⟩ := h.top_and_rest hx hk
  obtain ⟨-, hr⟩ := h
  rw [show 32 - n = k + 1 by omega] at hr
  have hrem : x / 2 ^ k % d < 2 ^ 32 := ((Nat.mod_le ..).trans (Nat.div_le_self ..)).trans_lt hx
  have hnext : x / 2 ^ k = 2 * (x / 2 ^ (k + 1)) + x / 2 ^ k % 2 := by
    rw [Nat.pow_succ, ← Nat.div_div_eq_div_mul, Nat.div_add_mod]
  have hstep := quotientBits_succ (d := d) (n := n) (x / 2 ^ (k + 1)) (Nat.mod_lt (x / 2 ^ k) (by decide : 2 > 0))
  rw [← hnext, ← hr] at hstep
  rw [Developed, show 32 - (n + 1) = k by omega, Nat.pow_succ, ← Nat.mul_assoc, divBitNat, htop, hrest]
  split at hstep <;> obtain ⟨hqs, hrs⟩ := hstep
  next h =>
    rw [if_pos h, ← hrs, hqs, Nat.mod_eq_of_lt hrem]
    exact ⟨by ring, rfl⟩
  next h =>
    rw [if_neg h, ← hrs, hqs, Nat.mod_eq_of_lt hrem]
    exact ⟨by ring, rfl⟩

theorem developed_repeat (hx : x < 2 ^ 32) (hn : n ≤ 32) : Developed x d n (Nat.repeat (divBitNat d) n (x, 0)) := by
  induction n with
  | zero => exact .zero hx
  | succ n ih => exact (ih (by omega)).succ hx (by omega)

end

/-! The statement -/

theorem divInit_eq_ofNat (signed : Bool) (a : Word) : divInit signed a =
    if signed then BitVec.ofNat 64 a.toInt.natAbs else BitVec.ofNat 64 a.toNat := by
  rw [divInit, pair_eq_ofNat]
  cases signed with
  | false => rfl
  | true =>
    have h : a.toInt.natAbs < 2 ^ 32 := by
      have ha := a.isLt
      rw [BitVec.toInt_eq_toNat_cond]
      omega
    rw [if_pos rfl, if_pos rfl, BitVec.toNat_ofNat, Nat.mod_eq_of_lt h]
    rfl

theorem divideSteps : Sys2Proof.Claims.DivideSteps :=
  ⟨fun _ _ _ h => aluPair_of_acts h fun _ => divInit_eq_ofNat ..,
    fun _ _ _ h => aluPair_of_acts h fun _ => divStep_eq_ofNat ..⟩

/-- The quotient and the remainder stand in the words after 32 bits. -/
theorem divBits_all (x d : Word) : divBits d.toNat 32 (x, 0) = if d = 0 then (BitVec.allOnes 32, x) else (x / d, x % d) := by
  obtain ⟨hq, hr⟩ := developed_repeat (d := d.toNat) x.isLt (le_refl 32)
  rw [show (x.toNat, 0) = divNat (x, 0) from rfl, ← divNat_divBits] at hq hr
  simp only [quotientBits, Nat.sub_self, Nat.pow_zero, Nat.div_one, Nat.mod_one, Nat.zero_mul, Nat.zero_add] at hq hr
  split
  next h =>
    subst h
    exact Prod.ext (BitVec.eq_of_toNat_eq hq) (BitVec.eq_of_toNat_eq (hr.trans (Nat.mod_zero _)))
  next h =>
    have hd : d.toNat ≠ 0 := fun hz => h (BitVec.eq_of_toNat_eq hz)
    rw [if_neg hd] at hq
    exact Prod.ext (BitVec.eq_of_toNat_eq (hq.trans (BitVec.toNat_udiv ..).symm))
      (BitVec.eq_of_toNat_eq (hr.trans (BitVec.toNat_umod ..).symm))

theorem divisionExact : Sys2Proof.Claims.DivisionExact := by
  intro x d ks hks
  refine (foldl_divStep d ks (x, 0)).trans ?_
  rw [hks, divBits_all]
  split <;> rfl

/-- Settles O5: a bit of DIVSTEP follows the rule in numbers, and 32 bits, however grouped, keep `Developed` to its end. -/
theorem division : Obligations.Division := ⟨divideSteps, divisionExact⟩

end Sys2Proof.Safety
end

section
/-! Floating-point instructions where nothing traps (O6 to O8): what each shape of them leaves, once for the shape. -/

open Sys2Proof Sys2Proof.Machine
namespace Sys2Proof.Safety

section
variable {i : Instr} {s : State} {c : Issue} {d : Operand}

/-- R133 where no enabled condition is raised: the flags are set, every acting lane has its effect, and the split goes on. -/
theorem settleLanes_of_noTrap {fl : Nat → Nat} (h : NoTrap c fl) (s : State) (write : Mask → State → State) :
    settleLanes c s fl write = finish c (write c.lanes (s.modUnit c.u (fun un => orFlags un c.lanes fl))) :=
  if_pos h

theorem fpOp_of_acts {f : Issue → Nat → FRes} {g : Nat → FRes} (h : Acts i s c) (hn : NoTrap c (fun l => (g l).2))
    (hv : ∀ l, f c l = g l) : fpOp i s d f = .next (wroteFlags s c d g) := by
  obtain rfl : f c = g := funext hv
  exact (issue_of_acts h _).trans (congrArg _ (settleLanes_of_noTrap hn ..))

theorem fpCompare_of_acts {f : Issue → Nat → Bool × Nat} {pd pk : Fin 16} {m : FCmpMod} (h : Acts i s c)
    (hn : NoTrap c (fun l => (f c l).2)) : fpCompare i s pd pk m f = .next (comparedFlags s c pd pk m.or (f c)) :=
  (issue_of_acts h _).trans (congrArg _ (settleLanes_of_noTrap hn ..))

/-- R46: the registers of the acting lanes step before the flags are set. -/
theorem narrowingOp_of_acts {f : Issue → Nat → FRes} {m : NarrowingMod} {n : Nat} (h : Acts i s c)
    (hn : NoTrap c (fun l => (f c l).2)) :
    narrowingOp i s d m n f = .next (wroteFlags (if m.rnd = .sr then stepLfsr c n s else s) c d (f c)) :=
  (issue_of_acts h _).trans (congrArg _ (settleLanes_of_noTrap hn ..))

end

/-! Arithmetic (R134) -/

theorem floatArithmetic : Sys2Proof.Claims.FloatArithmetic :=
  ⟨fun _ _ _ h hn => fpOp_of_acts h hn fun _ => rfl,
    fun _ _ _ h hn => fpOp_of_acts h hn fun _ => rfl,
    fun _ _ _ h hn => fpOp_of_acts h hn fun _ => rfl,
    fun _ _ _ h hn => fpOp_of_acts h hn fun _ => rfl,
    fun _ _ _ h hn => fpOp_of_acts h hn fun _ => rfl,
    fun _ _ _ h hn => fpOp_of_acts h hn fun _ => rfl,
    fun _ _ _ h hn => fpOp_of_acts h hn fun _ => rfl⟩

theorem bf16Arithmetic : Sys2Proof.Claims.Bf16Arithmetic :=
  ⟨fun _ _ _ h hn => fpOp_of_acts h hn fun _ => rfl,
    fun _ _ _ h hn => fpOp_of_acts h hn fun _ => rfl,
    fun _ _ _ h hn => fpOp_of_acts h hn fun _ => rfl,
    fun _ _ _ h hn => fpOp_of_acts h hn fun _ => rfl,
    fun _ _ _ h hn => fpOp_of_acts h hn fun _ => rfl,
    fun _ _ _ h hn => fpOp_of_acts h hn fun _ => rfl,
    fun _ _ _ h hn => fpOp_of_acts h hn fun _ => rfl,
    fun _ _ _ h hn => fpOp_of_acts h hn fun _ => rfl⟩

/-- Settles O6: where nothing traps, R133 leaves the flags and the results, the one rounding of each exact value. -/
theorem floatingArithmetic : Obligations.FloatingArithmetic := ⟨floatArithmetic, bf16Arithmetic⟩

/-! Minima, maxima, comparisons and signs (R135 to R137) -/

theorem floatMinMaxCompare : Sys2Proof.Claims.FloatMinMaxCompare :=
  ⟨fun _ _ _ h hn => fpOp_of_acts h hn fun _ => rfl,
    fun _ _ _ h hn => fpOp_of_acts h hn fun _ => rfl,
    fun _ _ _ h hn => fpOp_of_acts h hn fun _ => rfl,
    fun _ _ _ h hn => fpOp_of_acts h hn fun _ => rfl,
    fun _ _ _ h hn => fpOp_of_acts h hn fun _ => rfl,
    fun _ _ _ h hn => fpOp_of_acts h hn fun _ => rfl,
    fun _ _ _ h hn => fpCompare_of_acts h hn,
    fun _ _ _ h hn => fpCompare_of_acts h hn⟩

/-- The bits other than the signs of a word, or of a pair of BF16. -/
theorem getLsbD_unsigned (pair : Bool) {i : Nat} (h : i < 32) :
    (if pair then 0x7FFF7FFF else 0x7FFFFFFF : Word).getLsbD i = !(decide (i = 31) || (pair && decide (i = 15))) := by
  decide +revert

/-- The signs of a word, or of a pair of BF16. -/
theorem getLsbD_signs (pair : Bool) {i : Nat} (h : i < 32) :
    (if pair then 0x80008000 else 0x80000000 : Word).getLsbD i = (decide (i = 31) || (pair && decide (i = 15))) := by
  decide +revert

theorem floatSigns : Sys2Proof.Claims.FloatSigns :=
  ⟨fun _ _ _ h => alu_of_acts h fun _ => eq_ofBits fun _ hi => by rw [BitVec.getLsbD_and, getLsbD_unsigned _ hi],
    fun _ _ _ h => alu_of_acts h fun _ => eq_ofBits fun _ hi => by rw [BitVec.getLsbD_xor, getLsbD_signs _ hi],
    fun _ _ _ h => alu_of_acts h fun _ => rfl⟩

/-- Settles O7: minima, maxima and comparisons leave their flags where nothing traps; sign operations go bit by bit. -/
theorem floatComparesAndSigns : Obligations.FloatComparesAndSigns := ⟨floatMinMaxCompare, floatSigns⟩

end Sys2Proof.Safety
end

section
/-! Special functions and conversions (O8): the conversions complete, and so do the special functions wherever a lane acts; with
no acting lane a special function starts nothing, which refutes O8. -/

open Sys2Proof Sys2Proof.Machine
namespace Sys2Proof.Safety

section
variable {i : Instr} {s : State} {c : Issue} {a : Operand} {f : Bool → Nat → List Nat × Nat}

/-- R132: a special function starts in the lanes that act, where there are any. -/
theorem sfuOp_of_acts (h : Acts i s c) (hl : c.lanes ≠ 0) (hn : NoTrap c (fun l => (f (reducedSfu s c.un) (c.nat s l a)).2)) :
    sfuOp i s a f = .next (started s c (fun l => f (reducedSfu s c.un) (c.nat s l a))) := by
  obtain ⟨-, rfl⟩ := of_acts h
  exact (issue_of_acts h _).trans (congrArg _ ((settleLanes_of_noTrap hn ..).trans (congrArg _ (if_neg hl))))

theorem noTrap_of_no_lanes (hl : c.lanes = 0) (fl : Nat → Nat) : NoTrap c fl := by
  rw [NoTrap, trapLanes, hl]
  exact BitVec.zero_and

/-- With no lane to act in, a special function retires and starts nothing. -/
theorem sfuOp_of_no_lanes (h : Acts i s c) (hl : c.lanes = 0) : sfuOp i s a f = .next (finish c (s.modUnit c.u id)) := by
  refine (issue_of_acts h _).trans (congrArg _ ((settleLanes_of_noTrap (noTrap_of_no_lanes hl _) ..).trans ?_))
  rw [if_pos hl, hl]
  rfl

theorem sfuOne_of_no_lanes {y : Un ExactMod} {fn : SFn} (h : Acts i s c) (hl : c.lanes = 0) :
    sfuOne i s y fn = .next (finish c (s.modUnit c.u id)) :=
  sfuOp_of_no_lanes h hl

theorem exec_rcp_of_no_lanes {y : Un ExactMod} (h : Acts (.rcp y) s c) (hl : c.lanes = 0) :
    exec (.rcp y) s = .next (finish c (s.modUnit c.u id)) :=
  sfuOne_of_no_lanes h hl

end

/-! Conversions (R139 to R144) -/

theorem bits_field (n lo k : Nat) : bits n (lo + k) lo = n / 2 ^ lo % 2 ^ (k + 1) := by
  rw [bits, Nat.add_assoc, Nat.add_sub_cancel_left]

theorem wrapInt_eq_emod (w : Nat) (v : Int) : (wrapInt w v : Int) = v % 2 ^ w := by
  rw [wrapInt, Int.toNat_of_nonneg (Int.emod_nonneg _ (by positivity)), Nat.cast_pow, Nat.cast_ofNat]

/-- The number that the low bits of an integer name in two's complement. -/
theorem sextNat_wrapInt (w : Nat) (v : Int) :
    sextNat w (wrapInt w v) = if 2 ^ (w - 1) ≤ v % 2 ^ w then v % 2 ^ w - 2 ^ w else v % 2 ^ w := by
  have hm : wrapInt w v % 2 ^ w = wrapInt w v :=
    Nat.mod_eq_of_lt (by zify; rw [wrapInt_eq_emod]; exact Int.emod_lt_of_pos _ (by positivity))
  have hl : wrapInt w v < 2 ^ (w - 1) ↔ ¬ 2 ^ (w - 1) ≤ v % 2 ^ w := by
    rw [not_le, ← wrapInt_eq_emod]
    norm_cast
  rw [sextNat, hm, if_congr hl rfl rfl, ite_not, wrapInt_eq_emod, Nat.cast_pow, Nat.cast_ofNat]

theorem changeWidth_eq_ofInt (m : CvtIIMod) (v : Int) : changeWidth m v =
    let w : Nat := intBits m.width
    let low : Int := v % 2 ^ w
    BitVec.ofInt 32
      (if m.sat then (if m.sdst then max (-2 ^ (w - 1)) (min (2 ^ (w - 1) - 1) v) else max 0 (min (2 ^ w - 1) v))
       else if m.sdst ∧ 2 ^ (w - 1) ≤ low then low - 2 ^ w else low) := by
  have hp (k : Nat) : (0 : Int) < 2 ^ k := by positivity
  have hs := hp (intBits m.width - 1)
  have hu := hp (intBits m.width)
  unfold changeWidth
  simp only [Nat.cast_pow, Nat.cast_ofNat, sextNat_wrapInt, wrapInt_eq_emod]
  rw [clamp_eq_max_min (by omega), clamp_eq_max_min (by omega)]
  cases m.sat <;> cases m.sdst <;> simp

theorem conversions : Sys2Proof.Claims.Conversions := by
  refine ⟨fun _ _ _ h hn => narrowingOp_of_acts h hn, fun _ _ _ h hn => narrowingOp_of_acts h hn,
    fun _ _ _ h hn => fpOp_of_acts h hn fun _ => rfl, fun _ _ _ h hn => fpOp_of_acts h hn fun _ => rfl,
    fun _ _ _ h hn => fpOp_of_acts h hn fun _ => rfl,
    fun _ _ _ h hn => fpOp_of_acts h hn fun _ => congrArg (widenScaled _ · _) (bits_field ..),
    fun _ _ _ h hn => fpOp_of_acts h hn fun _ => congrArg (widenScaled _ · _) (bits_field ..),
    fun _ _ _ h hn => fpOp_of_acts h hn fun _ => rfl,
    fun y _ _ h hn => fpOp_of_acts h hn fun _ => ?_,
    fun y s c h hn => ?_,
    fun y _ _ h hn => fpOp_of_acts h hn fun _ => ?_,
    fun y _ _ h => alu_of_acts h fun _ => (changeWidth_eq_ofInt ..).trans ?_⟩
  · obtain ⟨_, _, _, ⟨f⟩⟩ := y
    cases f <;> rfl
  · refine ((issue_of_acts h _ : execCvtfi y s = _).trans (congrArg _ (settleLanes_of_noTrap hn ..))).trans ?_
    simp only [apply_ite (finish c)]
    rfl
  · obtain ⟨_, _, _, ⟨_, t⟩⟩ := y
    cases t <;> rfl
  · obtain ⟨_, _, _, ⟨w, _, _, _⟩⟩ := y
    cases w <;> rfl

/-! The refutation of O8 -/

/-- RCP v1, v2 under the guard p1. -/
def guardedRcp : Un ExactMod := ⟨⟨⟨0, false⟩, some ⟨1, false⟩⟩, .v 1, .v 2, ⟨false⟩⟩

/-- A group that goes on from stage 1, with p1 false in every lane. -/
def stagedGroup : UnitSt :=
  (newUnit (wordWhere false 0 0) (BitVec.allOnes 32) 0 [] [] 0).modSplit 0 (fun sp => { sp with stage := 1 })

/-- The machine after reset but for that group, which performs its instruction. -/
def stagedState : State := { State.reset with actor := some 0, units := [(0, stagedGroup)] }

/-- The issue of RCP there: no lane of its split acts. -/
def stagedIssue : Issue :=
  { u := 0, un := stagedGroup, e := 0, lanes := 0, instr := .rcp guardedRcp
    sp := { pc := 0, mask := BitVec.allOnes 32, ra := none, join := none, st := .running, wait := none, stage := 1, loc := false,
            line := none, walked := [], skip := 0 } }

theorem acts_stagedIssue : Acts (.rcp guardedRcp) stagedState stagedIssue := by
  unfold Acts
  decide +kernel

/-- An operation that starts draws a latency (R433), which RCP does not do there. -/
theorem not_specialFunctions : ¬ Sys2Proof.Claims.SpecialFunctions := by
  rintro ⟨hrcp, -⟩
  have hs := (exec_rcp_of_no_lanes acts_stagedIssue rfl).symm.trans (hrcp _ _ _ acts_stagedIssue (noTrap_of_no_lanes rfl _))
  have hd := congrArg State.draws (Host.Outcome.next.inj hs)
  have h0 : (finish stagedIssue (stagedState.modUnit 0 id)).draws = 0 := by decide +kernel
  exact absurd (h0.symm.trans hd) (by decide +kernel)

/-- Refutes O8: an instruction that goes on from a later stage acts even where its guard fails in every lane, and there RCP starts no
operation. -/
theorem not_specialsAndConversions : ¬ Obligations.SpecialsAndConversions := fun h => not_specialFunctions h.1

end Sys2Proof.Safety
end

section
/-! Lane exchange (O12): the masks of the votes and of MATCH, bit by bit, and the segments of the shuffles. -/

open Sys2Proof Sys2Proof.Machine
namespace Sys2Proof.Safety

/-! Masks given bit by bit -/

theorem getLsbD_foldl_or (f : Nat → Bool) (ls : List Nat) (m : Mask) {l : Nat} (h : l < 32) :
    (ls.foldl (fun m k => if f k then m ||| BitVec.ofNat 32 (2 ^ k) else m) m).getLsbD l =
      (m.getLsbD l || (decide (l ∈ ls) && f l)) := by
  have hbit (k : Nat) : (BitVec.ofNat 32 (2 ^ k)).getLsbD l = decide (k = l) := by
    rw [BitVec.getLsbD_ofNat, decide_eq_true h, Bool.true_and, Nat.testBit_two_pow]
  induction ls generalizing m with
  | nil => simp
  | cons k ls ih =>
    have hk : (if f k then m ||| BitVec.ofNat 32 (2 ^ k) else m).getLsbD l = (m.getLsbD l || (decide (k = l) && f k)) := by
      split
      · rw [BitVec.getLsbD_or, hbit, ‹f k = true›, Bool.and_true]
      · simp [*]
    rw [List.foldl_cons, ih, hk, Bool.or_assoc]
    congr 1
    by_cases e : k = l
    · simp [e]
    · simp [e, Ne.symm e]

theorem getLsbD_maskOf (f : Nat → Bool) {l : Nat} (h : l < 32) : (maskOf f).getLsbD l = f l := by
  rw [maskOf, getLsbD_foldl_or f lanes32 0 h]
  simp [lanes32, h]

section
variable (c : Issue) (pa : Fin 16) (inv : Bool)

theorem getLsbD_voters {l : Nat} (h : l < 32) :
    (voters c pa inv).getLsbD l = (c.lanes.getLsbD l && (readP c.un pa l ^^ inv)) := by
  rw [voters, BitVec.getLsbD_and, readP_eq_getLsbD_predMask _ _ h]
  cases inv <;> simp [h]

theorem voters_eq_ofBits : voters c pa inv = ofBits (fun i => c.lanes.getLsbD i && (readP c.un pa i ^^ inv)) :=
  eq_ofBits fun _ h => getLsbD_voters c pa inv h

theorem voters_eq_zero_iff : voters c pa inv = 0 ↔ ∀ l ∈ lanesOf c.lanes, (readP c.un pa l ^^ inv) = false := by
  rw [forall_mem_lanesOf, BitVec.eq_of_getLsbD_eq_iff]
  refine forall₂_congr fun l h => ?_
  rw [getLsbD_voters c pa inv h]
  simp

theorem voters_eq_lanes_iff : voters c pa inv = c.lanes ↔ ∀ l ∈ lanesOf c.lanes, (readP c.un pa l ^^ inv) = true := by
  rw [forall_mem_lanesOf, BitVec.eq_of_getLsbD_eq_iff]
  refine forall₂_congr fun l h => ?_
  rw [getLsbD_voters c pa inv h]
  simp

end

/-! Shuffles (R149) -/

theorem segment_eq (m : SegMod) (l : Nat) :
    Machine.segment m l = (l / (32 / 2 ^ m.m.val) * (32 / 2 ^ m.m.val), 32 / 2 ^ m.m.val) := by
  refine Prod.ext ?_ rfl
  have := Nat.div_add_mod' l (32 / 2 ^ m.m.val)
  exact Nat.sub_eq_of_eq_add this.symm

/-- A lane's place in its segment. -/
theorem sub_div_mul_eq_mod (l w : Nat) : l - l / w * w = l % w := by
  have := Nat.div_add_mod' l w
  omega

section
variable (l k : Nat) {w : Nat}

/-- The lane k below lies outside the segment. -/
theorem below_segment_iff (hw : 0 < w) : w ≤ k ∨ l < l / w * w + k ↔ ¬ k ≤ l % w := by
  have := Nat.div_add_mod' l w
  have := Nat.mod_lt l hw
  omega

/-- The lane k above lies outside the segment. -/
theorem above_segment_iff : w ≤ k ∨ l / w * w + w ≤ l + k ↔ ¬ l % w + k < w := by
  have := Nat.div_add_mod' l w
  omega

end

theorem shuffles : Sys2Proof.Claims.Shuffles := by
  refine ⟨fun y s c h => alu_of_acts h fun l => ?_, fun y s c h => alu_of_acts h fun l => ?_,
    fun y s c h => alu_of_acts h fun l => ?_, fun y s c h => alu_of_acts h fun l => ?_⟩
  · simp only [segment_eq, Issue.nat, Issue.word]
  · simp only [segment_eq, sub_div_mul_eq_mod, Issue.nat, Issue.word]
  · have hw : 0 < 32 / 2 ^ y.m.m.val :=
      Nat.div_pos (Nat.pow_le_pow_right (by decide) (by omega : y.m.m.val ≤ 5)) (by positivity)
    simp only [segment_eq, Issue.nat]
    exact (if_congr (below_segment_iff _ _ hw) rfl rfl).trans (ite_not ..)
  · simp only [segment_eq, Issue.nat]
    exact (if_congr (above_segment_iff ..) rfl rfl).trans (ite_not ..)

/-! Ballot, votes and MATCH (R150, R152) -/

theorem votesAndMatch : Sys2Proof.Claims.VotesAndMatch := by
  refine ⟨fun y _ c h => alu_of_acts h fun _ => voters_eq_ofBits .., fun y _ c h => aluPred_of_acts h fun _ => ?_,
    fun y _ c h => aluPred_of_acts h fun _ => ?_, fun y _ c h => aluPred_of_acts h fun _ => ?_,
    fun y s c h => alu_of_acts h fun l => eq_ofBits fun j hj => ?_⟩
  · rw [Bool.eq_iff_iff, decide_eq_true_iff, Ne, voters_eq_zero_iff, List.any_eq_true]
    simp
  · rw [Bool.eq_iff_iff, decide_eq_true_iff, voters_eq_lanes_iff, List.all_eq_true]
  · rw [Bool.eq_iff_iff, decide_eq_true_iff, voters_eq_lanes_iff, voters_eq_zero_iff, Bool.or_eq_true, List.all_eq_true, List.all_eq_true]
    simp
  · rw [BitVec.getLsbD_and, getLsbD_maskOf _ hj]
    congr 1
    cases y.m with
    | true => rfl
    | false =>
      simp only [Bool.false_eq_true, if_false]
      rw [Bool.eq_iff_iff, beq_iff_eq, beq_iff_eq]
      exact ⟨fun e => by simpa using congrArg (BitVec.setWidth 32) e, fun e => congrArg _ e⟩

/-- Settles O12: a shuffle reads the lane its segment names, a vote tests the lanes of the voters' mask, MATCH compares lane by lane. -/
theorem laneExchange : Obligations.LaneExchange := ⟨shuffles, votesAndMatch⟩

end Sys2Proof.Safety
end

section
/-! Scans and reductions (O13): each entry of the serial scan is a fold over the lanes before it. -/

open Sys2Proof Sys2Proof.Machine
namespace Sys2Proof.Safety

/-! The serial scan (R151) -/

/-- The lanes' values combined in the order of the list; of no lane, the identity. -/
def serial (m : ScanMod) (f : Nat → Word) : List Nat → Word
  | [] => scanId m
  | j :: js => js.foldl (fun p k => (scanStep m p (f k)).1) (f j)

/-- The flags of the steps at the lanes of ks, each on what the lanes of ls before it give. -/
def stepFlags (m : ScanMod) (f : Nat → Word) (ls ks : List Nat) (fl : Nat) : Nat :=
  ks.foldl (fun fl k => fl ||| (scanStep m (serial m f (ls.filter (· < k))) (f k)).2) fl

section
variable (m : ScanMod) (f : Nat → Word)

theorem serial_concat {ls : List Nat} (h : ls ≠ []) (k : Nat) : serial m f (ls ++ [k]) = (scanStep m (serial m f ls) (f k)).1 := by
  cases ls with
  | nil => exact absurd rfl h
  | cons j js => simp [serial]

/-- In a rising list, the lanes below one of its elements stand before it. -/
theorem filter_lt_of_pairwise {pre ls : List Nat} {k : Nat} (h : (pre ++ k :: ls).Pairwise (· < ·)) :
    (pre ++ k :: ls).filter (· < k) = pre ∧ (pre ++ k :: ls).filter (· ≤ k) = pre ++ [k] := by
  obtain ⟨-, hk, hpre⟩ := List.pairwise_append.1 h
  have hlt : ∀ j ∈ pre, j < k := fun j hj => hpre j hj k (by simp)
  have hgt : ∀ j ∈ ls, k < j := (List.pairwise_cons.1 hk).1
  have hnil (p : Nat → Bool) (hp : ∀ j, k < j → p j = false) : ls.filter p = [] := by
    simp only [List.filter_eq_nil_iff]
    intro j hj
    simp [hp j (hgt j hj)]
  have hall (p : Nat → Bool) (hp : ∀ j, j < k → p j = true) : pre.filter p = pre :=
    List.filter_eq_self.2 fun j hj => hp j (hlt j hj)
  constructor
  · rw [List.filter_append, List.filter_cons_of_neg (by simp), hall _ (by simp), hnil _ (by simp; omega), List.append_nil]
  · rw [List.filter_append, List.filter_cons_of_pos (by simp), hall _ (by simp; omega), hnil _ (by simp)]

/-- From the value of the lanes before on, each entry combines the lanes below it, and the lanes up to it. -/
theorem scanFrom_eq {pre ls : List Nat} (h : (pre ++ ls).Pairwise (· < ·)) (hp : pre ≠ []) (fl : Nat) :
    scanFrom m f ls (serial m f pre) fl =
      (ls.map (fun l => (l, serial m f ((pre ++ ls).filter (· < l)), serial m f ((pre ++ ls).filter (· ≤ l)))),
        serial m f (pre ++ ls), stepFlags m f (pre ++ ls) ls fl) := by
  induction ls generalizing pre fl with
  | nil => simp [scanFrom, stepFlags]
  | cons k ls ih =>
    obtain ⟨hlt, hle⟩ := filter_lt_of_pairwise h
    have happ : pre ++ k :: ls = pre ++ [k] ++ ls := by simp
    have ih := ih (happ ▸ h) (by simp) (fl ||| (scanStep m (serial m f pre) (f k)).2)
    rw [← happ] at ih
    simp only [scanFrom, ← serial_concat m f hp, ih, List.map_cons, hlt, hle, stepFlags, List.foldl_cons]

/-- The whole scan of a rising list of lanes. -/
theorem scan_eq {ls : List Nat} (h : ls.Pairwise (· < ·)) (hl : ls ≠ []) : scan m f ls =
    (ls.map (fun l => (l, serial m f (ls.filter (· < l)), serial m f (ls.filter (· ≤ l)))), serial m f ls,
      stepFlags m f ls (ls.drop 1) 0) := by
  cases ls with
  | nil => exact absurd rfl hl
  | cons j js =>
    obtain ⟨hlt, hle⟩ := filter_lt_of_pairwise (pre := []) h
    have hfrom := scanFrom_eq m f (pre := [j]) (ls := js) h (by simp) 0
    simp only [List.nil_append, List.cons_append] at hlt hle hfrom
    rw [scan, List.map_cons, hlt, hle]
    exact congrArg (fun t => ((j, scanId m, f j) :: t.1, t.2)) hfrom

theorem scan_flags {ls : List Nat} (h : ls.Pairwise (· < ·)) : (scan m f ls).2.2 = stepFlags m f ls (ls.drop 1) 0 := by
  cases ls with
  | nil => rfl
  | cons j js => rw [scan_eq m f h (by simp)]

end

theorem pairwise_lanesOf (m : Mask) : (lanesOf m).Pairwise (· < ·) := List.pairwise_lt_range.filter _

/-- What is written goes by the values in the lanes of the mask. -/
theorem writeOp_congr {m : Mask} {f g : Nat → Word} (h : ∀ l ∈ lanesOf m, f l = g l) (s : State) (u : Nat) (d : Operand) :
    writeOp s u d m f = writeOp s u d m g := by
  unfold writeOp
  split
  · rfl
  next hm =>
    have hv (un : UnitSt) (n : Nat) : writeV un n m f = writeV un n m g := by
      have : (lanesOf m).foldl (fun t l => Tab.set 0 t (n * 32 + l) (f l)) un.regs.v =
          (lanesOf m).foldl (fun t l => Tab.set 0 t (n * 32 + l) (g l)) un.regs.v :=
        List.foldl_ext _ _ _ fun t l hl => by rw [h l hl]
      rw [writeV, writeV, this]
    have hlow : f (lowLane m) = g (lowLane m) := by
      obtain ⟨l, ls, e⟩ := List.exists_cons_of_ne_nil (lanesOf_ne_nil hm)
      exact h _ (by simp [lowLane, e])
    simp only [hv, hlow]

/-! The terms of the statement -/

section
variable (m : ScanMod) (p a : Word)

theorem scanStep_value : (scanStep m p a).1 = match m.op with
    | .add => BitVec.ofNat 32 (p.toNat + a.toNat)
    | .min => if asInt m.uns p ≤ asInt m.uns a then p else a
    | .max => if asInt m.uns a ≤ asInt m.uns p then p else a
    | .fadd => w32 (fmtF32.add .rne false (fmtF32.decode p.toNat) (fmtF32.decode a.toNat)).1 := by
  cases h : m.op with
  | add => simp [scanStep, h, BitVec.add_def]
  | min => simp [scanStep, h, minWord_eq_ite]
  | max => simp [scanStep, h, maxWord_eq_ite]
  | fadd => simp [scanStep, h]

theorem scanStep_flags : (scanStep m p a).2 =
    if m.op = .fadd then (fmtF32.add .rne false (fmtF32.decode p.toNat) (fmtF32.decode a.toNat)).2 else 0 := by
  cases h : m.op <;> simp [scanStep, h]

end

section
variable {y : Un ScanMod} {s : State} {c : Issue}

/-- R151: PSCAN writes the serial results, and the flags of every step reach every acting lane. -/
theorem execPscan_of_acts (h : Acts (.pscan y) s c) :
    let f (l : Nat) : Word := c.word s l y.a
    execPscan y s = .next (wrote
      (s.modUnit c.u fun un => orFlags un c.lanes fun _ => stepFlags y.m f (lanesOf c.lanes) ((lanesOf c.lanes).drop 1) 0) c y.d
      fun l => serial y.m f ((lanesOf c.lanes).filter fun j => if y.m.excl then decide (j < l) else decide (j ≤ l))) := by
  intro f
  have hs := pairwise_lanesOf c.lanes
  refine (issue_of_acts h _).trans (congrArg (Host.Outcome.next <| finish c ·) ?_)
  rw [scan_flags y.m _ hs]
  refine writeOp_congr (fun l hl => ?_) ..
  rw [scan_eq y.m _ hs (List.ne_nil_of_mem hl), find?_map_of_mem hl fun l => (_, _)]
  cases y.m.excl <;> rfl

theorem execReduce_of_acts (h : Acts (.reduce y) s c) :
    let f (l : Nat) : Word := c.word s l y.a
    execReduce y s = .next (wrote
      (s.modUnit c.u fun un => orFlags un c.lanes fun _ => stepFlags y.m f (lanesOf c.lanes) ((lanesOf c.lanes).drop 1) 0) c y.d
      fun _ => serial y.m f (lanesOf c.lanes)) := by
  intro f
  have hs := pairwise_lanesOf c.lanes
  refine (issue_of_acts h _).trans (congrArg (Host.Outcome.next <| finish c ·) ?_)
  rw [scan_flags y.m _ hs]
  refine writeOp_congr (fun l hl => ?_) ..
  rw [scan_eq y.m _ hs (List.ne_nil_of_mem hl)]

end

/-- Settles O13: each entry of the model's one pass is the serial result of the lanes up to it, and its flags those of every step. -/
theorem scansAndReductions : Obligations.ScansAndReductions := by
  unfold Obligations.ScansAndReductions
  intro op unit total raised
  have hop (m : ScanMod) (p a : Word) : op m p a = (scanStep m p a).1 := (scanStep_value m p a).symm
  have htotal (m : ScanMod) (f : Nat → Word) (ls : List Nat) : total m f ls = serial m f ls := by
    cases ls with
    | nil => rfl
    | cons j js => exact congrArg (fun g => js.foldl g (f j)) (funext₂ fun p k => hop m p (f k))
  have hraised (m : ScanMod) (f : Nat → Word) (ls : List Nat) : raised m f ls = stepFlags m f ls (ls.drop 1) 0 := by
    refine congrArg (fun g => (ls.drop 1).foldl g 0) (funext₂ fun fl k => ?_)
    rw [htotal, scanStep_flags]
    split <;> simp
  simp only [htotal, hraised]
  exact ⟨fun _ _ _ h => execPscan_of_acts h, fun _ _ _ h _ => execReduce_of_acts h⟩

end Sys2Proof.Safety
end

section
/-! The addresses of Table 8-4, and the operation as which an access issues (O16 to O18). -/

open Sys2Proof Sys2Proof.Machine
namespace Sys2Proof.Safety

/-! Addresses (Table 8-4) -/

section
variable (c : Issue) (s : State) (l : Nat) (base sr : Operand) (off : BitVec 16) (a64 : Bool)

theorem baseValue_eq_ofNat : baseValue c s l base a64 =
    BitVec.ofNat 64 (if a64 then (c.dword s l base).toNat else (c.word s l base).toNat) := by
  cases a64 with
  | true => exact (BitVec.setWidth_eq _).symm.trans (BitVec.ofNat_toNat ..).symm
  | false => exact (BitVec.ofNat_toNat 64 (c.word s l base)).symm

theorem globalAddr_eq_wideAddr : globalAddr c s l base off a64 sr = wideAddr base sr off a64 s c l := by
  rw [globalAddr, wideAddr, baseValue_eq_ofNat, BitVec.ofInt_add, BitVec.ofInt_add, BitVec.ofInt_natCast, BitVec.ofInt_natCast,
    BitVec.ofNat_toNat, BitVec.setWidth_eq]
  rfl

theorem offsetAddr_eq_nearAddr : offsetAddr c s l base off = nearAddr base off s c l := by
  have hoff : off.signExtend 32 = BitVec.ofInt 32 off.toInt := rfl
  refine (BitVec.ofNat_toNat ..).symm.trans (congrArg (BitVec.ofNat 64) ?_)
  have hsum : c.word s l base + off.signExtend 32 = BitVec.ofInt 32 ((c.word s l base).toNat + off.toInt) := by
    rw [hoff, BitVec.ofInt_add, BitVec.ofInt_natCast, BitVec.ofNat_toNat, BitVec.setWidth_eq]
  rw [hsum, BitVec.toNat_ofInt]
  rfl

end

/-! The operation that stands for an access -/

/-- The operation of an access as it issues: its lanes' addresses and data, waiting for translation (R155, R159). -/
def accessOp (c : Issue) (now : Nat) (q : Mask) (addr : Nat → DWord) (data : Nat → List Word) (dests : List Operand) : Op :=
  (lanesOf q).foldl (fun o l =>
    let o := { o with addr := Tab.put o.addr l (addr l) }
    (data l).zipIdx.foldl (fun o w => o.setWord l w.2 w.1) o)
    { newOp c q now with stage := 3, holders := [c.e], dests := dests }

/-- Where the words of the lanes stand among an operation's data. -/
def wordsAt (data : Nat → List Word) (l : Nat) : List (Nat × Word) := (data l).zipIdx.map fun w => (l * 16 + w.2, w.1)

theorem foldl_setWord (o : Op) (l : Nat) (ws : List (Word × Nat)) : ws.foldl (fun o w => o.setWord l w.2 w.1) o =
    { o with data := (ws.map fun w => (l * 16 + w.2, w.1)).foldl (fun t w => Tab.set 0 t w.1 w.2) o.data } := by
  induction ws generalizing o with
  | nil => rfl
  | cons w ws ih => exact ih _

theorem foldl_lanes (addr : Nat → DWord) (data : Nat → List Word) (ls : List Nat) (o : Op) :
    ls.foldl (fun o l =>
      let o := { o with addr := Tab.put o.addr l (addr l) }
      (data l).zipIdx.foldl (fun o w => o.setWord l w.2 w.1) o) o =
    { o with addr := ls.foldl (fun t l => Tab.put t l (addr l)) o.addr
             data := (ls.flatMap (wordsAt data)).foldl (fun t w => Tab.set 0 t w.1 w.2) o.data } := by
  induction ls generalizing o with
  | nil => rfl
  | cons l ls ih =>
    rw [List.foldl_cons, ih, foldl_setWord, List.flatMap_cons, List.foldl_append]
    rfl

theorem get_foldl_put {α : Type} {d : α} (g : Nat → α) {ls : List Nat} {l : Nat} (h : l ∈ ls) (t : Tab α) :
    Tab.get d (ls.foldl (fun t l => Tab.put t l (g l)) t) l = g l := by
  induction ls using List.reverseRecOn with
  | nil => cases h
  | append_singleton ls k ih =>
    rw [List.foldl_append, List.foldl_cons, List.foldl_nil, Tab.get_put]
    split
    next e => rw [e]
    next e =>
      exact ih ((List.mem_append.1 h).resolve_right (by simpa using e))

section
variable (c : Issue) (now : Nat) (q : Mask) (addr : Nat → DWord) (data : Nat → List Word) (dests : List Operand)

theorem accessOp_eq : accessOp c now q addr data dests =
    { newOp c q now with
      stage := 3, holders := [c.e], dests := dests
      addr := (lanesOf q).foldl (fun t l => Tab.put t l (addr l)) []
      data := ((lanesOf q).flatMap (wordsAt data)).foldl (fun t w => Tab.set 0 t w.1 w.2) [] } :=
  foldl_lanes ..

variable {q}

theorem accessOp_at {l : Nat} (h : l ∈ lanesOf q) : (accessOp c now q addr data dests).at_ l = addr l := by
  rw [accessOp_eq]
  exact get_foldl_put addr h []

/-- A lane's data stand in words of its own, there being no more than 16 (Table 8-3). -/
theorem accessOp_words (hd : ∀ l, (data l).length ≤ 16) {l : Nat} (h : l ∈ lanesOf q) :
    (accessOp c now q addr data dests).words l (data l).length = data l := by
  refine List.ext_getElem (by simp [Op.words]) fun w hw hw' => ?_
  have hdata := congrArg Op.data (accessOp_eq c now q addr data dests)
  simp only [Op.words, List.getElem_map, List.getElem_range, Op.word, hdata]
  refine get_foldl_set_of_mem _ (List.mem_flatMap.2 ⟨l, h, List.mem_map.2 ⟨((data l)[w], w), ?_, rfl⟩⟩) fun e he hk => ?_
  · exact List.mk_mem_zipIdx_iff_getElem?.2 (List.getElem?_eq_getElem hw')
  · obtain ⟨k, _, hk'⟩ := List.mem_flatMap.1 he
    obtain ⟨⟨v, j⟩, hj, rfl⟩ := List.mem_map.1 hk'
    have hj := List.mk_mem_zipIdx_iff_getElem?.1 hj
    have hlt : j < 16 := ((List.getElem?_eq_some_iff.1 hj).1).trans_le (hd k)
    have hwl := hw'.trans_le (hd l)
    obtain ⟨rfl, rfl⟩ : k = l ∧ j = w := by dsimp only at hk; omega
    exact (List.getElem_of_getElem? hj).2.symm

end

end Sys2Proof.Safety
end

section
/-! The access among the outstanding operations of its unit, and its lanes that pass or fail (O16 to O18). -/

open Sys2Proof Sys2Proof.Machine
namespace Sys2Proof.Safety

/-! The access among the outstanding operations -/

theorem mem_ins {α : Type} {m : Tab α} {k : Nat} {v : α} {x : Nat × α} : x ∈ Tab.ins m k v ↔ x = (k, v) ∨ x ∈ m := by
  induction m with
  | nil => simp [Tab.ins]
  | cons e m ih =>
    rw [Tab.ins]
    split
    · simp
    · simp [ih, or_left_comm]

theorem mem_of_mem_del {α : Type} {m : Tab α} {k : Nat} {x : Nat × α} (h : x ∈ Tab.del m k) : x ∈ m := by
  induction m with
  | nil => exact h
  | cons e m ih =>
    rw [Tab.del] at h
    split at h
    · exact List.mem_cons_of_mem _ (ih h)
    · exact (List.mem_cons.1 h).elim (· ▸ List.mem_cons_self ..) fun h => List.mem_cons_of_mem _ (ih h)

/-- Where nothing had a property, the entry that is put and has it is the first that has it. -/
theorem find?_put_of_none {α : Type} {m : Tab α} {p : Nat × α → Bool} {k : Nat} {v : α} (h : List.find? p m = none)
    (hv : p (k, v) = true) : List.find? p (Tab.put m k v) = some (k, v) := by
  have hmem : (k, v) ∈ Tab.put m k v := mem_ins.2 (.inl rfl)
  obtain ⟨x, hx⟩ := Option.isSome_iff_exists.1 (List.find?_isSome.2 ⟨_, hmem, hv⟩)
  rw [hx]
  rcases mem_ins.1 (List.mem_of_find?_eq_some hx) with rfl | hd
  · rfl
  · exact absurd (List.find?_some hx) (List.find?_eq_none.1 h x (mem_of_mem_del hd))

/-- A started operation is put among the others. -/
theorem addOp_ops (un : UnitSt) (o : Op) : (addOp un o).ops = Tab.put un.ops un.nextOp o := by
  have hset (un : UnitSt) (d : Operand) : ((setFe un d .pending).ops, (setFe un d .pending).nextOp) = (un.ops, un.nextOp) := by
    unfold setFe
    split <;> rfl
  obtain ⟨ho, hn⟩ := Prod.ext_iff.1 (foldl_keeps (setFe · · .pending) (fun un : UnitSt => (un.ops, un.nextOp)) hset o.dests un)
  exact congrArg₂ (Tab.put · · o) ho hn

/-- Of a split's operations, this one alone waits for its translation. -/
structure Waits (un : UnitSt) (e k : Nat) (o : Op) : Prop where
  stage : o.stage = 3
  held : o.holders.contains e = true
  alone : ∃ ops, pendingAccess { un with ops := ops } e = none ∧ un.ops = Tab.put ops k o

theorem Waits.pendingAccess_eq {un : UnitSt} {e k : Nat} {o : Op} (h : Waits un e k o) : pendingAccess un e = some (k, o) := by
  obtain ⟨ops, hnone, hops⟩ := h.alone
  rw [pendingAccess, hops]
  exact find?_put_of_none hnone (Bool.and_eq_true_iff.2 ⟨decide_eq_true h.stage, h.held⟩)

/-- The waiting operation with another count waits as well. -/
theorem Waits.setCount {un : UnitSt} {e k : Nat} {o : Op} (h : Waits un e k o) (n : Nat) :
    Waits { un with ops := Tab.put un.ops k { o with count := n } } e k { o with count := n } := by
  obtain ⟨ops, hnone, hops⟩ := h.alone
  exact ⟨h.stage, h.held, ops, hnone, by rw [hops, Tab.put_put]⟩

section
variable {c : Issue} {s : State} {q : Mask} {addr : Nat → DWord} {data : Nat → List Word} {dests : List Operand}

/-- The access that has issued stands among the unit's operations, and is the one of its split that waits for its translation. -/
theorem stands_beginAccess (hu : s.unit? c.u = some c.un) (hp : pendingAccess c.un c.e = none) (hd : ∀ l, (data l).length ≤ 16) :
    ∃ un o, Stands c (beginAccess c s q addr data dests) q addr data dests un o ∧ Waits un c.e c.un.nextOp o := by
  let o := accessOp c s.now q addr data dests
  have ho : o = _ := accessOp_eq c s.now q addr data dests
  have hops : (addOp (dropFaulted c.un c.e) o).ops = Tab.put (dropFaulted c.un c.e).ops c.un.nextOp o := addOp_ops ..
  have hun : (beginAccess c s q addr data dests).unit? c.u = some (addOp (dropFaulted c.un c.e) o) := by
    show (s.modUnit c.u _).unit? c.u = _
    simp only [State.unit_modUnit_self, hu, Option.map_some]
    rfl
  have hnone : pendingAccess (dropFaulted c.un c.e) c.e = none :=
    List.find?_eq_none.2 fun x hx => List.find?_eq_none.1 hp x (List.mem_filter.1 hx).1
  exact ⟨_, o, ⟨hun, by rw [hops, Tab.find?_put_self], by rw [ho]; rfl, by rw [ho]; rfl, by rw [ho]; rfl, by rw [ho],
    fun l hl => ⟨accessOp_at _ _ _ _ _ hl, accessOp_words _ _ _ _ _ hd hl⟩⟩, by rw [ho], by rw [ho]; simp, _, hnone, hops⟩

end

theorem unit_countLoad (s : State) (un : UnitSt) (u : Nat) : (countLoad s un).unit? u = s.unit? u := by
  unfold countLoad
  split <;> rfl

/-! Lanes that pass or fail at once -/

/-- No walk, relocation or watch halt keeps the lane back. -/
def Decided (r : LaneChk) : Prop := (∃ p, r = .ok p) ∨ ∃ k a b, r = .bad k a b

section
variable {cs : List (Nat × LaneChk)} (h : ∀ x ∈ cs, Decided x.2)
include h

theorem any_halt_of_decided : cs.any (fun c => c.2 == .halt) = false := by
  refine List.any_eq_false.2 fun x hx => ?_
  obtain ⟨p, e⟩ | ⟨k, a, b, e⟩ := h x hx <;> simp [e]

theorem checksWait_of_decided : checksWait cs = none := by
  unfold checksWait
  split
  next core e =>
    obtain ⟨x, hx, hc⟩ := List.exists_of_findSome?_eq_some e
    obtain ⟨p, e⟩ | ⟨k, a, b, e⟩ := h x hx <;> simp [e] at hc
  next =>
    rw [List.filterMap_eq_nil_iff.2 fun x hx => ?_]
    · rfl
    · obtain ⟨p, e⟩ | ⟨k, a, b, e⟩ := h x hx <;> simp [e]

end

/-- The outcomes of lanes that all pass. -/
def passing (place : Nat → Place) (ls : List Nat) : List (Nat × LaneChk) := ls.map fun l => (l, .ok (place l))

section
variable (place : Nat → Place) (ls : List Nat)

theorem decided_passing : ∀ x ∈ passing place ls, Decided x.2 := by
  intro x hx
  obtain ⟨l, -, rfl⟩ := List.mem_map.1 hx
  exact .inl ⟨_, rfl⟩

theorem badLanes_passing : badLanes (passing place ls) = [] := by
  simp [badLanes, passing]

theorem okPlaces_passing : okPlaces (passing place ls) = ls.map fun l => (l, place l) := by
  simp [okPlaces, passing]

theorem untilBad_passing : untilBad (passing place ls) = passing place ls := by
  induction ls with
  | nil => rfl
  | cons l ls ih => exact congrArg _ ih

end

/-- The first failing lane of a rising list, with its cause, address and refused mark. -/
theorem badLanes_of_first {r : Nat → LaneChk} {ls : List Nat} (hs : ls.Pairwise (· < ·)) {f cause : Nat} {a : DWord} {refused : Bool}
    (hf : f ∈ ls) (hbad : r f = .bad cause a refused) (hok : ∀ l ∈ ls, l < f → ∃ p, r l = .ok p) :
    ∃ rest, badLanes (ls.map fun l => (l, r l)) = (f, cause, a, refused) :: rest := by
  induction ls with
  | nil => cases hf
  | cons l ls ih =>
    obtain ⟨hl, hs⟩ := List.pairwise_cons.1 hs
    rcases List.mem_cons.1 hf with rfl | hf
    · exact ⟨badLanes (ls.map fun l => (l, r l)), by simp [badLanes, hbad]⟩
    · obtain ⟨p, hp⟩ := hok l (by simp) (hl f hf)
      obtain ⟨rest, h⟩ := ih hs hf fun k hk => hok k (List.mem_cons_of_mem _ hk)
      exact ⟨rest, by simpa [badLanes, hp] using h⟩

end Sys2Proof.Safety
end

section
/-! The issue of loads and stores (O16), and the failing lane that keeps a whole access back (O17). -/

open Sys2Proof Sys2Proof.Machine
namespace Sys2Proof.Safety

section
variable {i : Instr} {s s1 : State} {c : Issue} {sh : Shape} {d : Operand} {addr : Nat → DWord} {data : Nat → List Word}
  {dests : List Operand} {un : UnitSt} {k : Nat} {o : Op} {place : Nat → Place}

/-! From issue to the checks -/

theorem length_dataWords (d : Operand) (ty : MType) (s : State) (c : Issue) (l : Nat) : (dataWords d ty.regs s c l).length ≤ 16 := by
  rw [dataWords, List.length_map, List.length_range]
  cases ty <;> decide

/-- A fresh access issues, and is then checked. -/
theorem access_of_acts {f : Issue → Nat → DWord} (h : Acts i s c) (hf : Fresh s c (decide (sh.space = .glob)))
    (ha : ∀ l, f c l = addr l) (hd : ∀ l, (if sh.load then [] else dataWords d sh.ty.regs s c l) = data l) :
    access i s sh d f = .next (resolveAccess c (issuedIn s c sh addr data) sh) := by
  obtain ⟨hstage, -, hphase⟩ := hf
  obtain ⟨-, rfl⟩ := of_acts h
  obtain rfl : f c = addr := funext ha
  obtain rfl : (fun l => if sh.load then [] else dataWords d sh.ty.regs s c l) = data := funext hd
  refine (issue_of_acts h _).trans (congrArg _ ?_)
  have hc : (decide (sh.space = .glob) && computePhase s c.un) = false := by
    cases hg : decide (sh.space = .glob) with
    | false => rfl
    | true => exact hphase hg
  dsimp only
  rw [if_neg (not_not.2 hstage), hc, if_neg Bool.false_ne_true]
  rfl

/-- The access as it stands when its checks begin. -/
theorem stands_issuedIn (h : Acts i s c) {g : Bool} (hf : Fresh s c g) (hd : ∀ l, (data l).length ≤ 16) :
    ∃ un o, Stands c (issuedIn s c sh addr data) (toPerform c sh) addr data (if sh.load then destRegs i else []) un o ∧
      Waits un c.e c.un.nextOp o := by
  obtain ⟨hu, rfl⟩ := of_acts h
  refine stands_beginAccess ?_ hf.2.1 hd
  split
  · rw [unit_countLoad, hu]
  · exact hu

/-! The checks -/

/-- The end of an instruction does not depend on the unit as it was, nor on the lanes that act. -/
theorem finish_congr (c : Issue) (un : UnitSt) (q : Mask) (s : State) : finish { c with un := un, lanes := q } s = finish c s := rfl

theorem laneChecks_of_allPass {x : Issue} (hx : x.lanes = o.lanes) (ha : ∀ l ∈ lanesOf o.lanes, o.at_ l = addr l)
    (h : AllPass s1 x sh addr place) : laneChecks s1 x sh o = passing place (lanesOf o.lanes) :=
  List.map_congr_left fun l hl => by rw [ha l hl, h l (hx ▸ hl)]

section
variable (hu : s1.unit? c.u = some un) (hp : pendingAccess un c.e = some (k, o))
include hu hp

theorem resolveAccess_load (hl : sh.load = true)
    (h : laneChecks s1 { c with un := un, lanes := o.lanes } sh o = passing place (lanesOf o.lanes)) :
    resolveAccess c s1 sh = finish c (launchAccess { c with un := un, lanes := o.lanes } (if sh.byLane then clearDone s1 c.u else s1) k
      { o with place := (lanesOf o.lanes).map (fun l => (l, place l)), stage := 0 } true) := by
  have hdec := decided_passing place (lanesOf o.lanes)
  simp only [resolveAccess, hu, hp, h, any_halt_of_decided hdec, checksWait_of_decided hdec, badLanes_passing, okPlaces_passing, hl]
  rfl

theorem resolveAccess_store (hl : sh.load = false)
    (h : laneChecks s1 { c with un := un, lanes := o.lanes } sh o = passing place (lanesOf o.lanes))
    (hn : NoTrap { c with un := un, lanes := o.lanes } fun l => (storeValue sh.ty sh.sat (o.words l 4)).2) :
    let s2 := (dropOp (if sh.byLane then clearDone s1 c.u else s1) c.u k).modUnit c.u
      (fun un => orFlags un o.lanes fun l => (storeValue sh.ty sh.sat (o.words l 4)).2)
    resolveAccess c s1 sh = finish c (if o.lanes = 0 then s2 else launchAccess { c with un := un, lanes := o.lanes } s2 k
      { o with place := (lanesOf o.lanes).map (fun l => (l, place l)), stage := 0 } false) := by
  have hdec := decided_passing place (lanesOf o.lanes)
  have hin : ((lanesOf o.lanes).map fun l => (l, place l)).filter (fun p => o.lanes.getLsbD p.1) =
      (lanesOf o.lanes).map fun l => (l, place l) := by
    refine List.filter_eq_self.2 fun x hx => ?_
    obtain ⟨l, hl, rfl⟩ := List.mem_map.1 hx
    exact mem_lanesOf.1 hl
  simp only [resolveAccess, hu, hp, h, any_halt_of_decided hdec, checksWait_of_decided hdec, badLanes_passing, okPlaces_passing, hl]
  simp only [Bool.false_eq_true, if_false, settleLanes_of_noTrap hn, hin]
  exact finish_congr ..

theorem resolveAccess_fails (hb : sh.byLane = false) {f cause : Nat} {a : DWord} {refused : Bool}
    {rest : List (Nat × Nat × DWord × Bool)}
    (hdec : ∀ x ∈ laneChecks s1 { c with un := un, lanes := o.lanes } sh o, Decided x.2)
    (h : badLanes (laneChecks s1 { c with un := un, lanes := o.lanes } sh o) = (f, cause, a, refused) :: rest) :
    resolveAccess c s1 sh = takeTrap (putOp s1 c.u k { o with stage := 2 }) c.u c.e
      { cause := cause, pc := c.sp.pc, addr := a, done := 0, flags := b2n (!sh.load) + 8 * b2n refused } := by
  simp only [resolveAccess, hu, hp, h, any_halt_of_decided hdec, checksWait_of_decided hdec, hb]
  rfl

end

end

/-! The forms of the statements -/

section
variable {i : Instr} {sh : Shape} {d : Operand} {addr : State → Issue → Nat → DWord} {f : State → Issue → Nat → DWord}

theorem LoadIssues.of_access (hl : sh.load = true) (ha : ∀ c s l, f s c l = addr s c l) (he : ∀ s, exec i s = access i s sh d (f s)) :
    LoadIssues i sh addr := by
  intro s c place h hf s1
  obtain ⟨un, o, hst, hw⟩ := stands_issuedIn (sh := sh) (addr := addr s c) (data := fun _ => []) h hf fun _ => Nat.zero_le _
  rw [if_pos hl] at hst
  refine ⟨un, o, hst, fun hpass => ?_⟩
  obtain ⟨hu, -, -, -, hq, -, hlanes⟩ := hst
  rw [he, access_of_acts h hf (ha c s) fun l => if_pos hl]
  have hchecks := laneChecks_of_allPass rfl (fun l hl => (hlanes l (hq ▸ hl)).1) hpass
  exact congrArg _ (resolveAccess_load hu hw.pendingAccess_eq hl hchecks)

theorem StoreIssues.of_access (hl : sh.load = false) (ha : ∀ c s l, f s c l = addr s c l) (he : ∀ s, exec i s = access i s sh d (f s)) :
    StoreIssues i sh d addr := by
  intro s c place h hf data s1
  have hne : ¬ sh.load = true := by simp [hl]
  obtain ⟨un, o, hst, hw⟩ := stands_issuedIn (sh := sh) (addr := addr s c) (data := data) h hf (length_dataWords d sh.ty s c)
  rw [if_neg hne] at hst
  refine ⟨un, o, hst, fun hpass hn => ?_⟩
  obtain ⟨hu, -, -, -, hq, -, hlanes⟩ := hst
  rw [he, access_of_acts h hf (ha c s) fun l => if_neg hne]
  have hchecks := laneChecks_of_allPass rfl (fun l hl => (hlanes l (hq ▸ hl)).1) hpass
  exact congrArg _ (resolveAccess_store hu hw.pendingAccess_eq hl hchecks hn)

theorem AllOrNothing.of_access (hb : sh.byLane = false) (ha : ∀ c s l, f s c l = addr s c l)
    (he : ∀ s, exec i s = access i s sh d (f s)) {data : State → Issue → Nat → List Word}
    (hd : ∀ s c l, (if sh.load then [] else dataWords d sh.ty.regs s c l) = data s c l) : AllOrNothing i sh addr data := by
  intro s c un first cause a refused h hf s1 hu ⟨hmem, hbad, hbelow, hall⟩
  have hlen (l : Nat) : (data s c l).length ≤ 16 := by
    rw [← hd]
    split
    · exact Nat.zero_le _
    · exact length_dataWords ..
  obtain ⟨un', o, ⟨hu', hfind, -, -, hq, -, hlanes⟩, hw⟩ := stands_issuedIn (sh := sh) (addr := addr s c) h hf hlen
  cases hu.symm.trans hu'
  have hq : o.lanes = c.lanes := hq.trans (if_neg (by simp [hb]))
  have hchecks : laneChecks s1 { c with un := un, lanes := o.lanes } sh o = (lanesOf c.lanes).map fun l =>
      (l, checkLane s1 { c with un := un } c.sp sh.space sh.load (!sh.load) (addr s c l) (typeBytes sh.ty)) := by
    rw [laneChecks, hq]
    refine List.map_congr_left fun l hl => ?_
    rw [(hlanes l (by rwa [toPerform, if_neg (by simp [hb])])).1]
  obtain ⟨rest, hrest⟩ := badLanes_of_first (pairwise_lanesOf c.lanes) hmem hbad hbelow
  refine ⟨o, hfind, ?_⟩
  rw [he, access_of_acts h hf (ha c s) (hd s c)]
  refine congrArg _ (resolveAccess_fails hu hw.pendingAccess_eq hb (fun x hx => ?_) (hchecks ▸ hrest))
  rw [hchecks] at hx
  obtain ⟨l, hl, rfl⟩ := List.mem_map.1 hx
  exact hall l hl

end

/-! The loads and the stores -/

theorem loadsIssue : Sys2Proof.Claims.LoadsIssue :=
  ⟨fun _ => .of_access rfl (fun _ _ _ => globalAddr_eq_wideAddr ..) fun _ => rfl,
    fun _ => .of_access rfl (fun _ _ _ => globalAddr_eq_wideAddr ..) fun _ => rfl,
    fun _ => .of_access rfl (fun _ _ _ => offsetAddr_eq_nearAddr ..) fun _ => rfl,
    fun _ => .of_access rfl (fun _ _ _ => offsetAddr_eq_nearAddr ..) fun _ => rfl,
    fun _ => .of_access rfl (fun _ _ _ => offsetAddr_eq_nearAddr ..) fun _ => rfl,
    fun _ => .of_access rfl (fun _ _ _ => offsetAddr_eq_nearAddr ..) fun _ => rfl,
    fun _ => .of_access rfl (fun _ _ _ => offsetAddr_eq_nearAddr ..) fun _ => rfl⟩

theorem storesIssue : Sys2Proof.Claims.StoresIssue :=
  ⟨fun _ => .of_access rfl (fun _ _ _ => globalAddr_eq_wideAddr ..) fun _ => rfl,
    fun _ => .of_access rfl (fun _ _ _ => globalAddr_eq_wideAddr ..) fun _ => rfl,
    fun _ => .of_access rfl (fun _ _ _ => offsetAddr_eq_nearAddr ..) fun _ => rfl,
    fun _ => .of_access rfl (fun _ _ _ => offsetAddr_eq_nearAddr ..) fun _ => rfl,
    fun _ => .of_access rfl (fun _ _ _ => offsetAddr_eq_nearAddr ..) fun _ => rfl,
    fun _ => .of_access rfl (fun _ _ _ => offsetAddr_eq_nearAddr ..) fun _ => rfl,
    fun _ => .of_access rfl (fun _ _ _ => offsetAddr_eq_nearAddr ..) fun _ => rfl⟩

/-- Settles O16: an access that issues stands among the unit's operations, and its passing lanes start it. -/
theorem accessesIssue : Obligations.AccessesIssue := ⟨loadsIssue, storesIssue⟩

/-- Settles O17: the lanes that fail are listed in ascending order, so the first is the lowest, and none is performed. -/
theorem accessesFailWhole : Obligations.AccessesFailWhole :=
  ⟨fun _ => .of_access rfl (fun _ _ _ => globalAddr_eq_wideAddr ..) (fun _ => rfl) fun _ _ _ => rfl,
    fun _ => .of_access rfl (fun _ _ _ => globalAddr_eq_wideAddr ..) (fun _ => rfl) fun _ _ _ => rfl,
    fun _ => .of_access rfl (fun _ _ _ => offsetAddr_eq_nearAddr ..) (fun _ => rfl) fun _ _ _ => rfl,
    fun _ => .of_access rfl (fun _ _ _ => offsetAddr_eq_nearAddr ..) (fun _ => rfl) fun _ _ _ => rfl,
    fun _ => .of_access rfl (fun _ _ _ => offsetAddr_eq_nearAddr ..) (fun _ => rfl) fun _ _ _ => rfl,
    fun _ => .of_access rfl (fun _ _ _ => offsetAddr_eq_nearAddr ..) (fun _ => rfl) fun _ _ _ => rfl,
    fun _ => .of_access rfl (fun _ _ _ => offsetAddr_eq_nearAddr ..) (fun _ => rfl) fun _ _ _ => rfl,
    fun _ => .of_access rfl (fun _ _ _ => offsetAddr_eq_nearAddr ..) (fun _ => rfl) fun _ _ _ => rfl,
    fun _ => .of_access rfl (fun _ _ _ => offsetAddr_eq_nearAddr ..) (fun _ => rfl) fun _ _ _ => rfl,
    fun _ => .of_access rfl (fun _ _ _ => offsetAddr_eq_nearAddr ..) (fun _ => rfl) fun _ _ _ => rfl,
    fun _ => .of_access rfl (fun _ _ _ => offsetAddr_eq_nearAddr ..) (fun _ => rfl) fun _ _ _ => rfl,
    fun _ => .of_access rfl (fun _ _ _ => offsetAddr_eq_nearAddr ..) (fun _ => rfl) fun _ _ _ => rfl⟩

end Sys2Proof.Safety
end

section
/-! CMPST and EXPLD, PREF and the cache controls (O18). -/

open Sys2Proof Sys2Proof.Machine
namespace Sys2Proof.Safety

/-! CMPST and EXPLD (R162) -/

/-- In a rising list, the elements below a bound are counted from its head on. -/
theorem length_takeWhile_lt {ls : List Nat} (h : ls.Pairwise (· < ·)) (l : Nat) :
    (ls.takeWhile (· < l)).length = ls.countP (fun k => decide (k < l)) := by
  induction ls with
  | nil => rfl
  | cons k ls ih =>
    obtain ⟨hk, hs⟩ := List.pairwise_cons.1 h
    by_cases hl : k < l
    · simp [hl, ih hs]
    · have hnone : ls.countP (fun k => decide (k < l)) = 0 :=
        List.countP_eq_zero.2 fun j hj => by have := hk j hj; simp; omega
      simp [hl, hnone]

section
variable {i : Instr} {s s1 : State} {c : Issue} {sh : Shape} {un : UnitSt} {k : Nat} {o : Op} {place : Nat → Place}

theorem resolvePacked_of_passing (hu : s1.unit? c.u = some un) (hp : pendingAccess un c.e = some (k, o))
    (h : laneChecks s1 { c with un := un, lanes := o.lanes } sh o = passing place (lanesOf o.lanes)) :
    resolvePacked c s1 sh = finish c (launchAccess { c with un := un, lanes := o.lanes } s1 k
      { o with place := (lanesOf o.lanes).map (fun l => (l, place l)), stage := 0 } true) := by
  have hdec := decided_passing place (lanesOf o.lanes)
  simp only [resolvePacked, hu, hp, h, untilBad_passing, any_halt_of_decided hdec, checksWait_of_decided hdec, badLanes_passing,
    okPlaces_passing]
  exact finish_congr ..

theorem unit_putOp (hu : s1.unit? c.u = some un) (k : Nat) (o : Op) :
    (putOp s1 c.u k o).unit? c.u = some { un with ops := Tab.put un.ops k o } := by
  rw [putOp, State.unit_modUnit_self, hu, Option.map_some]

/-- The count of the access that waits for its translation is set. -/
theorem setCount_eq_putOp {n : Nat} (hu : s1.unit? c.u = some un) (hp : pendingAccess un c.e = some (k, o)) :
    s1.modUnit c.u (fun un => match pendingAccess un c.e with
      | some (k, o) => { un with ops := Tab.put un.ops k { o with count := n } }
      | none => un) = putOp s1 c.u k { o with count := n } := by
  unfold putOp State.modUnit
  congr 1
  rw [Tab.modify_of_find hu, Tab.modify_of_find hu]
  simp only [hp]

end

/-- CMPST reads its data before the load is counted, and EXPLD reads none. -/
theorem packedData_eq (load : Bool) (s t : State) (c : Issue) (d : Operand) (n l : Nat) :
    (if load then [] else (List.range n).map fun k => c.word (if load then t else s) l (Operand.next d k)) =
      if load then [] else dataWords d n s c l := by
  cases load <;> rfl

theorem PackedIssues.of_packed {i : Instr} {load : Bool} {ty : MType} {d base sr : Operand} {off : BitVec 16}
    (he : ∀ s, exec i s = packed i s load ty d base off sr) : PackedIssues i load ty d base sr off := by
  intro s c place h hf b n0 sh addr data s1 hal
  obtain ⟨hu, hi⟩ := of_acts h
  obtain ⟨hstage, hnone, hphase⟩ := hf
  have hlen (l : Nat) : (data l).length ≤ 16 := by
    show (if load then [] else dataWords d ty.regs s c l).length ≤ 16
    split
    · exact Nat.zero_le _
    · exact length_dataWords ..
  have hu0 : (if load then countLoad s c.un else s).unit? c.u = some c.un := by
    split
    · rw [unit_countLoad, hu]
    · exact hu
  obtain ⟨un, o, hst, hw⟩ := stands_beginAccess (q := toPerform c sh) (addr := addr) (dests := destRegs i) hu0 hnone hlen
  refine ⟨un, o, hst, fun hpass => ?_⟩
  obtain ⟨hu1, -, -, -, hq, -, hlanes⟩ := hst
  have hw' := hw.setCount (n0 + (lanesOf c.lanes).length)
  have hb : c.dword s c.low base + off.signExtend 64 = b := by
    show _ = BitVec.ofInt 64 _
    rw [BitVec.ofInt_add, BitVec.ofInt_natCast, BitVec.ofNat_toNat, BitVec.setWidth_eq]
    rfl
  have haddr (l : Nat) : b + dw ((n0 + ((lanesOf c.lanes).takeWhile (· < l)).length) * typeBytes ty) = addr l := by
    show _ = BitVec.ofNat 64 _
    rw [BitVec.ofNat_add, BitVec.ofNat_toNat, BitVec.setWidth_eq, length_takeWhile_lt (pairwise_lanesOf _)]
  have hs1 : packed i s load ty d base off sr = .next (resolvePacked c (putOp s1 c.u c.un.nextOp
      { o with count := n0 + (lanesOf c.lanes).length }) sh) := by
    rw [packed, issue_of_acts h]
    refine congrArg _ ?_
    simp only [hstage, hphase rfl, hb, hal, packedData_eq, ne_eq, not_true_eq_false, if_false, Bool.false_eq_true]
    rw [← setCount_eq_putOp hu1 hw.pendingAccess_eq, ← funext haddr]
    rfl
  have hchecks := laneChecks_of_allPass rfl (fun l hl => (hlanes l (hq ▸ hl)).1) hpass
  rw [he, hs1]
  exact congrArg _ (resolvePacked_of_passing (unit_putOp hu1 ..) hw'.pendingAccess_eq hchecks)

/-! PREF and the cache controls (R163, R178) -/

theorem LineIssues.of_pref (y : MemN PrefMod) : LineIssues (.pref y) y.base y.s y.off y.m.a64 true := by
  intro s c h hphase places
  refine (issue_of_acts h _ : execPref y s = _).trans (congrArg _ ?_)
  simp only [hphase, globalAddr_eq_wideAddr]
  rfl

theorem LineIssues.of_cacheControl {i : Instr} {y : MemN A64Mod} (he : ∀ s, exec i s = cacheControl i s y) :
    LineIssues i y.base y.s y.off y.m.a64 false := by
  intro s c h hphase places
  refine (he s).trans ((issue_of_acts h _).trans (congrArg _ ?_))
  simp only [hphase, globalAddr_eq_wideAddr]
  rfl

theorem packedAndLines : Sys2Proof.Claims.PackedAndLines :=
  ⟨fun _ => .of_packed fun _ => rfl, fun _ => .of_packed fun _ => rfl, fun y => .of_pref y, fun _ => .of_cacheControl fun _ => rfl,
    fun _ => .of_cacheControl fun _ => rfl, fun _ => .of_cacheControl fun _ => rfl⟩

end Sys2Proof.Safety
end

section
/-! The BF16 values that a load widens to FP32 (O18, Table 8-3). -/

open Sys2Proof Sys2Proof.Machine
namespace Sys2Proof.Safety

/-! BF16 values in FP32 -/

section
variable {f : FFmt} {m : Nat} {e : Int} {neg : Bool}

theorem log2_mul_two_pow (hm : m ≠ 0) (k : Nat) : (m * 2 ^ k).log2 = m.log2 + k := by
  refine (Nat.log2_eq_iff (by positivity)).2 ⟨?_, ?_⟩
  · rw [Nat.pow_add]
    exact Nat.mul_le_mul_right _ (Nat.log2_self_le hm)
  · rw [show m.log2 + k + 1 = m.log2 + 1 + k by omega, Nat.pow_add]
    exact Nat.mul_lt_mul_of_pos_right Nat.lt_log2_self (Nat.two_pow_pos k)

/-- Rounding goes by the value, not by how it is written, where the last place of the format lies below it. -/
theorem round_mul_pow (r : RMode) (hm : m ≠ 0) (k : Nat) (hlo : f.qmin ≤ e - k) (htop : log2Of m e - f.mb ≤ e - k) :
    f.round r neg (m * 2 ^ k) (e - k) = f.round r neg m e := by
  have hlog : log2Of (m * 2 ^ k) (e - k) = log2Of m e := by
    rw [log2Of, log2Of, log2_mul_two_pow hm]
    omega
  have hat (q : Int) (hq : q ≤ e - k) : roundAt r neg (m * 2 ^ k) (e - k) q = roundAt r neg m e q := by
    have hk : (e - q).toNat = k + (e - k - q).toNat := by omega
    rw [roundAt_of_le hq, roundAt_of_le (by omega), hk, Nat.pow_add, Nat.mul_assoc]
  have hplace : (if log2Of m e - f.mb < f.qmin then f.qmin else log2Of m e - f.mb) ≤ e - k := by
    split
    · exact hlo
    · exact htop
  simp only [FFmt.round, hlog, hat _ htop, hat _ hplace]

/-- A value that can be written with the format's own significand is delivered as its code. -/
theorem deliver_mul_pow (hf : IeeeFmt f) (r : RMode) (k : Nat) (hm : m ≠ 0) (hlt : m * 2 ^ k < 2 ^ (f.mb + 1)) (hlo : f.qmin ≤ e - k)
    (hhi : e - k ≤ f.qmax) (hn : e - k = f.qmin ∨ 2 ^ f.mb ≤ m * 2 ^ k) :
    f.deliver r false (.num neg m e) = (f.code neg (m * 2 ^ k) (e - k), 0) := by
  have hmk : m * 2 ^ k ≠ 0 := by positivity
  have hlog : m.log2 + k < f.mb + 1 := by
    rw [← log2_mul_two_pow hm]
    exact (Nat.log2_lt hmk).2 hlt
  have hround := round_mul_pow (f := f) (neg := neg) r hm k hlo (by rw [log2Of]; omega)
  rw [← deliver_self neg hf r hmk hlt hlo hhi hn]
  simp only [FFmt.deliver, hm, hmk, if_false, hround]

end

theorem sign_f32 (neg : Bool) : fmtF32.sign neg = fmtBf16.sign neg * 65536 := by
  cases neg <;> decide

/-- FP32 holds each BF16 value, in the code that the BF16 code is the upper half of. -/
theorem deliver_f32_decode_bf16 (r : RMode) {b : Nat} (hb : b < 2 ^ 16) (hnan : (fmtBf16.decode b).isNan = false) :
    fmtF32.deliver r false (fmtBf16.decode b) = (b * 2 ^ 16, 0) := by
  have hfields : b = fmtBf16.sign (b.testBit 15) + (bits b 14 7 * 2 ^ 7 + b % 2 ^ 7) := code_eq_fields (f := fmtBf16) (by decide) hb
  have hfrac := Nat.mod_lt b (Nat.two_pow_pos 7)
  have hpow : 2 ^ fmtF32.mb = 2 ^ 23 := rfl
  have hqmin : fmtF32.qmin = -149 := rfl
  have hqmax : fmtF32.qmax = 104 := rfl
  have hbmin : fmtBf16.qmin = -133 := rfl
  have hcases : (bits b 14 7 = 0 ∧ fmtBf16.decode b = .num (b.testBit 15) (b % 2 ^ 7) fmtBf16.qmin) ∨
      (bits b 14 7 = 255 ∧ b % 2 ^ 7 = 0 ∧ fmtBf16.decode b = .inf (b.testBit 15)) ∨
      ∃ i, bits b 14 7 = i + 1 ∧ i + 3 ≤ 256 ∧ fmtBf16.decode b = .num (b.testBit 15) (b % 2 ^ 7 + 2 ^ 7) (fmtBf16.qmin + i) :=
    decode_cases ieeeFmt_bf16 hnan
  obtain ⟨hx, hdec⟩ | ⟨hx, h0, hdec⟩ | ⟨i, hx, hi, hdec⟩ := hcases
  · rw [hdec]
    by_cases h0 : b % 2 ^ 7 = 0
    · have hcode : b = fmtBf16.sign (b.testBit 15) := by omega
      rw [h0]
      exact Prod.ext ((sign_f32 _).trans (congrArg (· * 65536) hcode.symm)) rfl
    · rw [deliver_mul_pow ieeeFmt_f32 r 16 h0 (by omega) (by omega) (by omega) (.inl (by omega)), code_of_lt _ (by omega), sign_f32]
      refine Prod.ext ?_ rfl
      dsimp only
      omega
  · rw [hdec]
    refine Prod.ext ?_ rfl
    show fmtF32.sign _ + 255 * 2 ^ 23 = b * 2 ^ 16
    rw [sign_f32]
    omega
  · have hcode := code_normal (f := fmtF32) (b.testBit 15) (b % 2 ^ 7 * 65536) i
    rw [hdec, deliver_mul_pow ieeeFmt_f32 r 16 (by omega) (by omega) (by omega) (by omega) (.inr (by omega)),
      show (b % 2 ^ 7 + 2 ^ 7) * 2 ^ 16 = b % 2 ^ 7 * 65536 + 2 ^ fmtF32.mb by omega,
      show fmtBf16.qmin + i - (16 : Nat) = fmtF32.qmin + i by omega, hcode, sign_f32, hpow]
    refine Prod.ext ?_ rfl
    dsimp only
    omega

end Sys2Proof.Safety
end

section
/-! What the access types deliver and store (O18, Table 8-3). -/

open Sys2Proof Sys2Proof.Machine
namespace Sys2Proof.Safety

/-! Bytes as numbers (R8) -/

theorem ofBytes_append (l h : List Byte) : ofBytes (l ++ h) = ofBytes l + 256 ^ l.length * ofBytes h := by
  induction l with
  | nil => simp [ofBytes]
  | cons b l ih =>
    rw [List.cons_append, ofBytes, ofBytes, ih, List.length_cons, Nat.pow_succ', Nat.mul_add, Nat.mul_assoc, Nat.add_assoc]

theorem ofBytes_lt (l : List Byte) : ofBytes l < 256 ^ l.length := by
  induction l with
  | nil => exact Nat.one_pos
  | cons b l ih =>
    have := b.isLt
    rw [ofBytes, List.length_cons, Nat.pow_succ']
    omega

theorem toNat_append_eq {m n : Nat} (x : BitVec m) (y : BitVec n) : (x ++ y).toNat = x.toNat * 2 ^ n + y.toNat := by
  rw [BitVec.toNat_append, ← Nat.shiftLeft_add_eq_or_of_lt y.isLt, Nat.shiftLeft_eq]

theorem ofBytes_two (b0 b1 : Byte) : ofBytes [b0, b1] = (b1 ++ b0).toNat := by
  rw [toNat_append_eq]
  simp only [ofBytes]
  omega

theorem ofBytes_four (b0 b1 b2 b3 : Byte) : ofBytes [b0, b1, b2, b3] = (b3 ++ b2 ++ b1 ++ b0).toNat := by
  simp only [toNat_append_eq, ofBytes]
  omega

theorem bytesOf_add (m n v : Nat) : bytesOf (m + n) v = bytesOf m v ++ bytesOf n (v / 256 ^ m) := by
  induction m generalizing v with
  | zero => simp [bytesOf]
  | succ m ih => rw [Nat.add_right_comm, bytesOf, ih, bytesOf, List.cons_append, Nat.pow_succ', Nat.div_div_eq_div_mul]

/-- The low bytes of a number go by what is left of it modulo their power. -/
theorem bytesOf_add_mul (n v k : Nat) : bytesOf n (v + 256 ^ n * k) = bytesOf n v := by
  induction n generalizing v with
  | zero => rfl
  | succ n ih =>
    have hbyte : BitVec.ofNat 8 (v + 256 ^ (n + 1) * k) = BitVec.ofNat 8 v :=
      BitVec.eq_of_toNat_eq (by rw [Nat.pow_succ', Nat.mul_assoc]; exact Nat.add_mul_mod_self_left ..)
    rw [bytesOf, bytesOf, hbyte, Nat.pow_succ', Nat.mul_assoc, Nat.add_mul_div_left _ _ (by decide), ih]

/-- The bytes of two numbers side by side. -/
theorem bytesOf_pair {n v : Nat} (m w : Nat) (hv : v < 256 ^ n) : bytesOf (n + m) (v + 256 ^ n * w) = bytesOf n v ++ bytesOf m w := by
  rw [bytesOf_add, bytesOf_add_mul, Nat.add_mul_div_left _ _ (Nat.pow_pos (by decide)), Nat.div_eq_of_lt hv, Nat.zero_add]

theorem sextNat_toNat {w : Nat} (b : BitVec w) (hw : 0 < w) : sextNat w b.toNat = b.toInt := by
  have hpow : 2 ^ w = 2 * 2 ^ (w - 1) := by rw [← Nat.pow_succ', Nat.succ_eq_add_one, Nat.sub_add_cancel hw]
  rw [sextNat, Nat.mod_eq_of_lt b.isLt, BitVec.toInt_eq_toNat_cond]
  exact if_congr (by omega) rfl rfl

theorem w32_toNat (w : Word) : w32 w.toNat = w := by rw [w32, BitVec.ofNat_toNat, BitVec.setWidth_eq]

/-- A word takes the low 32 bits of a number. -/
theorem w32_add_mul (n k : Nat) : w32 (n + 2 ^ 32 * k) = w32 n :=
  BitVec.eq_of_toNat_eq (by rw [BitVec.toNat_ofNat, BitVec.toNat_ofNat, Nat.add_mul_mod_self_left])

/-! Loads and stores of each type -/

section
variable (b0 b1 : Byte)

theorem loadWords_bf16 (hn : (fmtBf16.decode (b1 ++ b0).toNat).isNan = false) : loadWords .bf16 [b0, b1] = [b1 ++ b0 ++ (0#16)] := by
  have hw : (b1 ++ b0 ++ (0#16)).toNat = (b1 ++ b0).toNat * 2 ^ 16 := by
    rw [toNat_append_eq, BitVec.toNat_zero, Nat.add_zero]
  have hval : (fmtF32.deliver .rne false (fmtBf16.decode (ofBytes [b0, b1]))).1 = (b1 ++ b0 ++ (0#16)).toNat := by
    rw [ofBytes_two, deliver_f32_decode_bf16 .rne (b1 ++ b0).isLt hn, hw]
  exact congrArg (fun n => [n]) ((congrArg w32 hval).trans (w32_toNat _))

theorem loadWords_bf16_nan (hn : (fmtBf16.decode (b1 ++ b0).toNat).isNan = true) : loadWords .bf16 [b0, b1] = [0x7FC00000] := by
  have hnan : (fmtF32.deliver .rne false (fmtBf16.decode (ofBytes [b0, b1]))).1 = fmtF32.nan := by
    rw [ofBytes_two]
    cases hd : fmtBf16.decode (b1 ++ b0).toNat with
    | nan => rfl
    | inf | num => rw [hd] at hn; cases hn
  exact congrArg (fun n => [w32 n]) hnan

end

section
variable {l h : List Byte}

theorem loadWords_b64 (hl : l.length = 4) : loadWords .b64 (l ++ h) = loadWords .b32 l ++ loadWords .b32 h := by
  have hpow : 256 ^ l.length = 2 ^ 32 := by rw [hl]; norm_num
  have hlt : ofBytes l < 2 ^ 32 := (ofBytes_lt l).trans_eq hpow
  have hsum : ofBytes (l ++ h) = ofBytes l + 2 ^ 32 * ofBytes h := by rw [ofBytes_append, hpow]
  simp only [loadWords, hsum, w32_add_mul, Nat.add_mul_div_left _ _ (Nat.two_pow_pos 32), Nat.div_eq_of_lt hlt, Nat.zero_add,
    List.cons_append, List.nil_append]

theorem loadWords_b128 (hl : l.length = 8) : loadWords .b128 (l ++ h) = loadWords .b64 l ++ loadWords .b64 h := by
  have hpow : 256 ^ l.length = 2 ^ 64 := by rw [hl]; norm_num
  have hlt : ofBytes l < 2 ^ 64 := (ofBytes_lt l).trans_eq hpow
  have hsum : ofBytes (l ++ h) = ofBytes l + 2 ^ 64 * ofBytes h := by rw [ofBytes_append, hpow]
  have h0 : w32 (ofBytes (l ++ h)) = w32 (ofBytes l) := by
    rw [hsum, show 2 ^ 64 * ofBytes h = 2 ^ 32 * (2 ^ 32 * ofBytes h) by omega, w32_add_mul]
  have h1 : w32 (ofBytes (l ++ h) / 2 ^ 32) = w32 (ofBytes l / 2 ^ 32) := by
    rw [hsum, show 2 ^ 64 * ofBytes h = 2 ^ 32 * (2 ^ 32 * ofBytes h) by omega, Nat.add_mul_div_left _ _ (Nat.two_pow_pos 32), w32_add_mul]
  have h2 : ofBytes (l ++ h) / 2 ^ 64 = ofBytes h := by
    rw [hsum, Nat.add_mul_div_left _ _ (Nat.two_pow_pos 64), Nat.div_eq_of_lt hlt, Nat.zero_add]
  have h3 : ofBytes (l ++ h) / 2 ^ 96 = ofBytes h / 2 ^ 32 := by
    rw [← h2, Nat.div_div_eq_div_mul, ← Nat.pow_add]
  simp only [loadWords, h0, h1, h2, h3, List.cons_append, List.nil_append]

end

section
variable (sat : Bool) (v w x y : Word)

theorem ofNat_div_eq_setWidth (k : Nat) : BitVec.ofNat 8 (w.toNat / 2 ^ k) = (w >>> k).setWidth 8 := by
  rw [← Nat.shiftRight_eq_div_pow, ← BitVec.toNat_ushiftRight, BitVec.ofNat_toNat]

theorem bytesOf_word : bytesOf 4 w.toNat = [w.setWidth 8, (w >>> 8).setWidth 8, (w >>> 16).setWidth 8, (w >>> 24).setWidth 8] := by
  simp [bytesOf, Nat.div_div_eq_div_mul, ← ofNat_div_eq_setWidth]

theorem storeBytes_b64 : storeBytes .b64 sat [v, w] = storeBytes .b32 sat [v] ++ storeBytes .b32 sat [w] :=
  bytesOf_pair (n := 4) 4 w.toNat v.isLt

theorem storeBytes_b128 : storeBytes .b128 sat [v, w, x, y] = storeBytes .b64 sat [v, w] ++ storeBytes .b64 sat [x, y] := by
  have hlt : v.toNat + 2 ^ 32 * w.toNat < 256 ^ 8 := by omega
  refine (congrArg (bytesOf 16) ?_).trans (bytesOf_pair (n := 8) 8 (x.toNat + 2 ^ 32 * y.toNat) hlt)
  show v.toNat + 2 ^ 32 * w.toNat + 2 ^ 64 * x.toNat + 2 ^ 96 * y.toNat =
    v.toNat + 2 ^ 32 * w.toNat + 256 ^ 8 * (x.toNat + 2 ^ 32 * y.toNat)
  omega

end

theorem accessTypes : Sys2Proof.Claims.AccessTypes := by
  refine ⟨fun b0 b1 b2 b3 => ?_, fun b => ⟨?_, ?_⟩, fun b0 b1 => ⟨?_, ?_⟩, fun _ _ hl _ => loadWords_b64 hl,
    fun _ _ hl _ => loadWords_b128 hl, loadWords_bf16, loadWords_bf16_nan, fun _ => bytesOf_word, fun sat w => ⟨?_, ?_⟩, storeBytes_b64,
    storeBytes_b128⟩
  · exact congrArg (fun w => [w]) ((congrArg w32 (ofBytes_four ..)).trans (w32_toNat _))
  · exact congrArg (fun w => [w]) (BitVec.ofNat_toNat 32 b)
  · exact congrArg (fun n => [BitVec.ofInt 32 n]) (sextNat_toNat b (by decide))
  · exact congrArg (fun w => [w]) ((congrArg w32 (ofBytes_two ..)).trans (BitVec.ofNat_toNat 32 (b1 ++ b0)))
  · exact congrArg (fun n => [BitVec.ofInt 32 n]) ((congrArg (sextNat 16) (ofBytes_two ..)).trans (sextNat_toNat (b1 ++ b0) (by decide)))
  · exact congrArg (fun b => [b]) (BitVec.ofNat_toNat 8 w)
  · exact congrArg₂ (fun a b => [a, b]) (BitVec.ofNat_toNat 8 w) (ofNat_div_eq_setWidth w 8)

/-- Settles O18: the passing elements start as one access, the lines that translate start as one, and bytes are the digits of words. -/
theorem packedLinesTypes : Obligations.PackedLinesTypes := ⟨packedAndLines, accessTypes⟩

end Sys2Proof.Safety
end

section
/-! The refutation of O55. Its statement on a core's store asks nothing of the offsets at which a cached copy is dirty; a copy that is
dirty beyond its 128 bytes is sent to the slices before a store past the cache, and so changes a byte of another line. -/

open Sys2Proof Sys2Proof.Machine
namespace Sys2Proof.Safety

/-- A copy of line 0 that holds 1 at offset 128, and is dirty there. -/
def strayLine : CacLine := { line := 0, data := [(128, 1)], dirty := [(128, true)], used := 0, dirtyAt := 0 }

/-- The machine after reset, but that core 0 holds that copy. -/
def strayState : State := State.reset.modCi 0 fun ci => { ci with lines := [(0, strayLine)] }

/-- The first byte of line 1 reads 0 in core 0, which has no copy of it. -/
theorem coreByte_strayState : coreByte strayState 0 128 = 0 := by decide +kernel

/-- A store to byte 0 past the cache sends the dirty byte first (R265), which lies in line 1. -/
theorem coreByte_coreStore_strayState : coreByte (coreStore strayState 0 [(0, 5)] true).1 0 128 = 1 := by decide +kernel

theorem not_storedBytes : ¬ Sys2Proof.Claims.StoredBytes := by
  rintro ⟨hstore, -⟩
  have hline : ∀ w ∈ [((0 : Nat), (5 : Byte))], w.1 / 128 = 0 := by decide
  have hone : ∀ x ∈ (strayState.core 0).ci.lines, ∀ y ∈ (strayState.core 0).ci.lines, x.2.line = y.2.line → x = y := by
    decide +kernel
  have h := hstore strayState 0 [(0, 5)] true 0 hline (fun _ _ => rfl) (.inl (by decide +kernel)) (by decide +kernel) hone 128
  rw [coreByte_coreStore_strayState, coreByte_strayState] at h
  exact absurd h (by decide)

/-- Refutes O55: a store to line 0 changes a byte of line 1 where the copy of line 0 is dirty beyond its end. -/
theorem not_accessFramesAndStores : ¬ Obligations.AccessFramesAndStores := fun h => not_storedBytes h.2

end Sys2Proof.Safety
end

section
/-! Batches, pool moves and questions, SVC and FENCE.SURF (O26). -/

open Sys2Proof Sys2Proof.Machine
namespace Sys2Proof.Safety

section
variable {s : State} {c : Issue}

/-! Batches (R231, R232) -/

/-- The batches that BWAIT of a number waits for. -/
def batchesAwaited (un : UnitSt) (n : Word) : List (Nat × Batch) := if n = 0 then [] else batchesTo un n

/-- What the batches wrote is acquired, and the unit forgets them. -/
def batchesRead (s : State) (c : Issue) (bs : List (Nat × Batch)) : State :=
  (acquireRuns s c.un.at_.core (bs.flatMap (fun b => b.2.writes))).modUnit c.u (fun un =>
    { un with eng := { un.eng with batches := un.eng.batches.filter (fun b => !bs.any (fun c => c.1 == b.1)) } })

/-- BWAIT of no batch, or of one that has been given and is done, neither traps nor waits. -/
theorem no_wait_of_done {un : UnitSt} {n : Word} (h : n = 0 ∨ given un n = true ∧ batchesDone un n = true) :
    ¬ (n ≠ 0 ∧ given un n = false) ∧ ¬ (n ≠ 0 ∧ batchesDone un n = false) := by
  obtain rfl | ⟨hgiven, hdone⟩ := h
  · exact ⟨fun hn => hn.1 rfl, fun hn => hn.1 rfl⟩
  · simp [hgiven, hdone]

section
variable {y : SrcA} {n : Word} (h : Acts (.bwait y) s c) (hw : c.sp.wait = none) (hn : c.word s c.low y.a = n)
  (hdone : n = 0 ∨ given c.un n = true ∧ batchesDone c.un n = true)
include h hw hn hdone

theorem execBwait_of_ok (h0 : c.sp.stage = 0) (hok : (batchesAwaited c.un n).findSome? (fun b => b.2.failed) = none) :
    execBwait y s = .next (finish c (batchesRead s c (batchesAwaited c.un n))) := by
  obtain ⟨hgiven, hready⟩ := no_wait_of_done hdone
  rw [batchesAwaited] at hok
  rw [execBwait, issue_of_acts h]
  simp only [hw, h0, hn, if_neg hgiven, if_neg hready, hok]
  rfl

theorem execBwait_of_failed {a : DWord} (hbad : (batchesAwaited c.un n).findSome? (fun b => b.2.failed) = some a) :
    execBwait y s = .next (takeTrap (batchesRead s c (batchesAwaited c.un n)) c.u c.e
      { cause := causeEngineError, pc := c.sp.pc, addr := a }) := by
  obtain ⟨hgiven, hready⟩ := no_wait_of_done hdone
  rw [batchesAwaited] at hbad
  rw [execBwait, issue_of_acts h]
  simp only [hw, hn, if_neg hgiven, if_neg hready, hbad]
  rfl

end

/-! Items of the pool (R238) -/

/-- The item that a word below 32 names is its quotient by 4. -/
theorem bits_item {w : Nat} (hw : w < 32) : bits w 4 2 = w / 4 := Nat.mod_eq_of_lt (by omega : w / 2 ^ 2 < 2 ^ 3)

section
variable {y : Un Unit} {w : Nat} (h : Acts (.poolq y) s c) (hw : (c.word s c.low y.a).toNat = w)
include h hw

theorem execPoolq_word (hlt : w < 20) (h2 : w / 4 ≠ 2) (h3 : w / 4 ≠ 3) :
    execPoolq y s = .next (finish c (writeOp s c.u y.d c.lanes (fun _ => loWord (poolItem s c.un.at_.core (roleOf w) (w / 4))))) := by
  have hitem := bits_item (w := w) (by omega)
  have hlegal : ¬ (32 ≤ w ∨ 5 ≤ w / 4) := by omega
  rw [execPoolq, issue_of_acts h]
  simp only [hw, hitem, h2, h3, or_self, decide_false, Bool.false_eq_true, false_and, or_false, if_neg hlegal, if_false]

theorem execPoolq_pair (h23 : w / 4 = 2 ∨ w / 4 = 3) (hpair : y.d.pairReg = true) (hlegal : operandLegal s c.un (y.d, 2) = true)
    (hfe : ∀ o ∈ spanOf y.d 2, feOf c.un o ≠ .pending) :
    execPoolq y s = .next (finish c (writePair s c.u y.d c.lanes (fun _ => poolItem s c.un.at_.core (roleOf w) (w / 4)))) := by
  have hitem := bits_item (w := w) (by omega)
  have hin : ¬ (32 ≤ w ∨ 5 ≤ w / 4) := by omega
  have hopen : (spanOf y.d 2).filter (fun o => decide (feOf c.un o = .pending)) = [] :=
    List.filter_eq_nil_iff.2 fun o ho => by simp [hfe o ho]
  rw [execPoolq, issue_of_acts h]
  simp only [hw, hitem, h23, hpair, hlegal, hopen, decide_true, true_and, reduceCtorEq, or_false, ne_eq, not_true_eq_false, if_neg hin,
    if_false, if_true]

theorem execPoolq_illegal (hle : 20 ≤ w) : execPoolq y s = .next (trapHere s c.u c.e causeIllegalOp) := by
  have hbad : 32 ≤ w ∨ 5 ≤ bits w 4 2 := by
    by_cases hlt : w < 32
    · rw [bits_item hlt]
      omega
    · omega
  rw [execPoolq, issue_of_acts h]
  simp only [hw]
  rw [if_pos (or_assoc.1 (.inl hbad))]

end

theorem batchesAndPools : Sys2Proof.Claims.BatchesAndPools := by
  refine ⟨?_, ?_, ?_, ?_, ?_⟩
  · intro y s c h
    show execBclose y s = _
    rw [execBclose, issue_of_acts h]
  · intro y s c h h0 hw n bs s1 hdone
    exact ⟨execBwait_of_ok h hw rfl hdone h0, fun _ => execBwait_of_failed h hw rfl hdone⟩
  · intro y s c h w v
    exact ⟨execPoolq_word h rfl, execPoolq_pair h rfl, execPoolq_illegal h rfl⟩
  · intro y s c h w code
    show execPoolm y s = _
    rw [execPoolm, issue_of_acts h]
  · intro y s c t v h ht hv
    show execPoolw y s = _
    rw [execPoolw, issue_of_acts h]
    simp only [ht, hv]

/-! SVC (R235, R323) -/

section
variable {y : Svc}

/-- SVC that has sent its packet completes once the services hold its request as pending no longer. -/
theorem execSvc_of_accepted {k : Nat} {no : Word} (h : Acts (.svc y) s c) (h1 : c.sp.stage = 1)
    (hw : c.sp.wait = some (.svcAccept k no)) (hr : ∀ r, req? s c.un.die k = some r → r.st ≠ .pending) :
    execSvc y s = .next (finish c (writeOp s c.u y.d c.lanes (fun _ => no))) := by
  rw [execSvc, issue_of_acts h]
  simp only [h1, hw]
  cases hk : req? s c.un.die k with
  | none => rfl
  | some r => exact congrArg _ (if_neg (hr r hk))

/-- The address of the packet: of a wide form in global memory, else in the scratchpad. -/
def packetAddr (y : Svc) (s : State) (c : Issue) : DWord :=
  match y.s with
  | some r => wideAddr y.base r y.off y.a64 s c c.low
  | none => nearAddr y.base y.off s c c.low

/-- The state in which a packet at a place is read: released, its bytes obtained, its translation used. -/
def packetObtained (y : Svc) (s : State) (c : Issue) (p : Place) (adr : DWord) : State :=
  let s1 := clearPass c (releaseCac s c.un)
  let s2 := match p with | .glob pa => obtainRead s1 pa | _ => s1
  match y.s, lookup s2 c.un false adr.toNat with
  | some _, some t => fillFirst s2 c.un false t
  | _, _ => s2

/-- A fresh SVC outside the compute phase, at an aligned address, sends its packet from there. -/
theorem execSvc_of_fresh (h : Acts (.svc y) s c) (h0 : c.sp.stage = 0) (hp : y.s.isSome = true → computePhase s c.un = false)
    (hal : (packetAddr y s c).toNat % 64 = 0) : execSvc y s = .next (sendRequest c s y (packetAddr y s c)) := by
  rw [execSvc, issue_of_acts h]
  cases hs : y.s with
  | none =>
    simp only [packetAddr, hs] at hal ⊢
    simp only [h0, offsetAddr_eq_nearAddr, hal]
    rfl
  | some r =>
    have hphase := hp (by rw [hs]; rfl)
    simp only [packetAddr, hs] at hal ⊢
    simp only [h0, globalAddr_eq_wideAddr, hphase, hal]
    rfl

/-- A packet that passes its checks is read as one request where its queue has room. -/
theorem sendRequest_of_ok {adr : DWord} {p : Place}
    (hp : checkLane s c c.sp (if y.s.isNone then .scr else .glob) true false adr 64 = .ok p)
    (hroom : Tab.get 0 c.un.eng.svcOut y.rq.val < 32) :
    sendRequest c s y adr = newRequest c (packetObtained y s c p adr) y (rdPlaces (packetObtained y s c p adr) p 64) := by
  simp only [sendRequest, hp, if_neg hroom.not_ge]
  rfl

end

theorem serviceCall : Sys2Proof.Claims.ServiceCall :=
  ⟨fun _ _ _ _ _ h h1 hw hr => execSvc_of_accepted h h1 hw hr, fun _ _ _ _ h h0 hphase hal hp hroom =>
    (execSvc_of_fresh h h0 hphase hal).trans (congrArg _ (sendRequest_of_ok hp hroom))⟩

/-! FENCE.SURF (R177) -/

section
variable {y : FenceSurf} (h : Acts (.fenceSurf y) s c)
include h

/-- A fence that finds nothing outstanding and no pass that writes its surface completes at once. -/
theorem execFenceSurf_of_fresh (h0 : c.sp.stage = 0) (hphase : computePhase s c.un = false) (hops : memOps c.un c.e (fun _ => true) = [])
    {a : DWord} (ha : c.dword s c.low y.base + y.off.signExtend 64 = a)
    (hreqs : isSurface s c.un.at_.ctx a.toNat = true → surfaceReqs s c.un.at_.ctx a.toNat = []) :
    execFenceSurf y s = .next (finish c (acquireCac s c.un)) := by
  have hnone : (if isSurface s c.un.at_.ctx a.toNat then surfaceReqs s c.un.at_.ctx a.toNat else []) = [] := by
    split
    · exact hreqs ‹_›
    · rfl
  rw [execFenceSurf, issue_of_acts h]
  simp only [h0, hphase, ha, hops, hnone]
  rfl

/-- A fence that waits completes once its requests have been served and its unit's accesses have ended. -/
theorem execFenceSurf_of_waited {reqs : List (Nat × Nat)} {ops : List Nat} (h2 : c.sp.stage = fenceStage)
    (hw : c.sp.wait = some (.surface reqs ops)) (hreqs : stillServed s reqs = []) (hops : ∀ k ∈ ops, Tab.find? c.un.ops k = none) :
    execFenceSurf y s = .next (finish c (acquireCac s c.un)) := by
  have hlive : ops.filter (fun k => (Tab.find? c.un.ops k).isSome) = [] :=
    List.filter_eq_nil_iff.2 fun k hk => by simp [hops k hk]
  rw [execFenceSurf, issue_of_acts h]
  simp only [h2, hw, hreqs, hlive]
  rfl

end

/-- A base and a signed offset in whole numbers. -/
theorem dword_add_offset (b : DWord) (off : BitVec 16) : b + off.signExtend 64 = BitVec.ofInt 64 (b.toNat + off.toInt) := by
  rw [BitVec.ofInt_add, BitVec.ofInt_natCast, BitVec.ofNat_toNat, BitVec.setWidth_eq]
  rfl

theorem surfaceFence : Sys2Proof.Claims.SurfaceFence :=
  ⟨fun _ _ _ h h0 hphase hops hreqs => execFenceSurf_of_fresh h h0 hphase hops (dword_add_offset ..) hreqs,
    fun _ _ _ _ _ h h2 hw hreqs hops => execFenceSurf_of_waited h h2 hw hreqs hops⟩

/-- Settles O26: where an instruction acts it has the effect of its body, and the conditions choose the branch that completes. -/
theorem poolsServicesSurfaces : Obligations.PoolsServicesSurfaces := ⟨batchesAndPools, serviceCall, surfaceFence⟩

end

end Sys2Proof.Safety
end

section
/-! The matrix instructions at issue: reservation, staging, the queue of entries, joint mode (O21). -/

open Sys2Proof Sys2Proof.Machine
namespace Sys2Proof.Safety

section
variable {i : Instr} {s : State} {c : Issue}

/-- A matrix instruction that acts in a group without discarded entries has the effect of its body. -/
theorem mxIssue_of_acts (h : Acts i s c) (hd : c.un.discarded = []) (body : Issue → State → State) :
    mxIssue i s body = .next (body c s) := by
  rw [mxIssue, issue_of_acts h]
  simp only [hd]

theorem holds_eq_true_iff {un : UnitSt} : Machine.holds s un = true ↔ (s.core un.at_.core).mx.holder = some un.at_.team :=
  decide_eq_true_iff

/-! Reservation (R182, R183) -/

theorem acquires_iff {un : UnitSt} {code n : Nat} (h : mrsvCode s un n = code) :
    (decide (code = 0) && !Machine.holds s un) = true ↔ code = 0 ∧ (s.core un.at_.core).mx.holder = none := by
  subst h
  rw [Bool.and_eq_true, decide_eq_true_iff, Bool.not_eq_true', ← Bool.not_eq_true, holds_eq_true_iff]
  refine and_congr_right fun h0 => ⟨fun hh => ?_, fun hn => by simp [hn]⟩
  cases hk : (s.core un.at_.core).mx.holder with
  | none => rfl
  | some k =>
    rw [hk] at hh
    simp [mrsvCode, hk, hh] at h0

theorem arrayReservation : Sys2Proof.Claims.ArrayReservation := by
  refine ⟨?_, fun g s c h hd hh => ?_, fun g s c h hd hh hg hq he hp hb => ?_⟩
  · intro y s c code h hd n hcode
    have hc : mrsvCode s c.un n = code := by
      unfold mrsvCode
      rcases hcode with ⟨rfl, hh⟩ | ⟨rfl, k, hh, hk⟩ | ⟨rfl, hh, hb⟩ | ⟨rfl, hh, hb, hf⟩ | ⟨rfl, hh, hb, hn, hf⟩
      · simp [hh]
      · simp [hh, hk]
      · simp [hh, hb]
      · simp [hh, hb, hf]
      · simp [hh, hb, hf, Nat.not_lt.2 hn]
    refine (mxIssue_of_acts h hd _ : execMrsv y s = _).trans ?_
    dsimp only
    rw [show mrsvCode s c.un (2 * y.half.val) = code from hc]
    simp only [acquires_iff hc]
    rfl
  · refine (mxIssue_of_acts h hd _ : execMrel g s = _).trans ?_
    have hn : Machine.holds s c.un = false := Bool.eq_false_iff.2 fun ht => hh (holds_eq_true_iff.1 ht)
    simp [hn]
  · refine (mxIssue_of_acts h hd _ : execMrel g s = _).trans ?_
    have ht : Machine.holds s c.un = true := holds_eq_true_iff.2 hh
    simp [ht, hg, hq, he, hp, hb]

/-! Staging (R187) -/

/-- The address of a line or a row in a space of 32-bit addresses. -/
theorem setWidth_add_offset (w : Word) (off : BitVec 16) (k : Nat) : (w + off.signExtend 32 + w32 k).setWidth 64 =
    BitVec.ofNat 64 ((w.toNat + off.toInt + k) % 2 ^ 32).toNat := by
  have hoff : off.signExtend 32 = BitVec.ofInt 32 off.toInt := rfl
  refine (BitVec.ofNat_toNat ..).symm.trans (congrArg (BitVec.ofNat 64) ?_)
  have hsum : w + off.signExtend 32 + w32 k = BitVec.ofInt 32 (w.toNat + off.toInt + k) := by
    rw [hoff, BitVec.ofInt_add, BitVec.ofInt_add, BitVec.ofInt_natCast, BitVec.ofInt_natCast, BitVec.ofNat_toNat, BitVec.setWidth_eq]
  rw [hsum, BitVec.toNat_ofInt]
  rfl

theorem dword_add_offset_add (b : DWord) (off : BitVec 16) (k : Nat) : b + off.signExtend 64 + dw k =
    BitVec.ofInt 64 (b.toNat + off.toInt + k) := by
  rw [dword_add_offset, BitVec.ofInt_add _ (k : Int), BitVec.ofInt_natCast]

theorem checkLine_eq_ok {y : Stage} {n : Nat} {a : DWord} {p : Place}
    (h : checkLane s c c.sp (stageSpace y.space) true false a n = .ok p) (ha : a.toNat % stageElement y.fmt = 0) :
    checkLine s c y n a = .ok p := by
  simp [checkLine, h, ha]

theorem stageForm_eq_true {y : Stage} {a : Nat} (h : y.space = .rmt → a / 2 ^ 21 % 8 = 0 ∧ a / 2 ^ 28 % 16 = 0) :
    stageForm y a = true := by
  simpa [stageForm, bits, or_iff_not_imp_left] using h

theorem stagingIssues : Sys2Proof.Claims.StagingIssues := by
  unfold Claims.StagingIssues
  intro go
  suffices hgo : ∀ b y i, (if b then Instr.mldb y else .mlda y) = i → (∀ s, exec i s = staging b y s) → go b y i from
    ⟨fun y => hgo false y _ rfl fun _ => rfl, fun y => hgo true y _ rfl fun _ => rfl⟩
  intro b y i hi hexec s c place h hd core m stride line z hh hslot hstride hrmt htil hline o p slot s1
  have hz : stageElement y.fmt = z := by
    show stageElement y.fmt = match y.fmt with | .bf16 => 2 | .f32 => 4 | _ => 1
    cases y.fmt <;> rfl
  have hst : bits (c.word s c.low y.s).toNat 15 0 = stride := congrArg (· % 65536) (Nat.div_one _)
  have htag : bits (c.word s c.low y.s).toNat 31 16 = (c.word s c.low y.s).toNat / 65536 :=
    Nat.mod_eq_of_lt (by have := (c.word s c.low y.s).isLt; omega)
  have hlines (q : Nat) : (c.word s c.low y.base + y.off.signExtend 32 + w32 (q * stride)).setWidth 64 = line q := by
    rw [setWidth_add_offset, Nat.cast_mul]
  have hchecks : (List.range (stageShape b y.fmt y.ns).1).map (fun q => (q, checkLine s c y (stageShape b y.fmt y.ns).2 (line q))) =
      passing place (List.range (stageShape b y.fmt y.ns).1) := by
    refine List.map_congr_left fun q hq => ?_
    obtain ⟨hp, ha⟩ := hline q (List.mem_range.1 hq)
    rw [checkLine_eq_ok hp (hz ▸ ha)]
  have hdec := decided_passing place (List.range (stageShape b y.fmt y.ns).1)
  rw [hexec, staging, mxIssue_of_acts (hi ▸ h) hd]
  simp only [hst, htag, hlines]
  rw [if_neg, hchecks, checksWait_of_decided hdec, badLanes_passing, okPlaces_passing, hi]
  · rfl
  · rw [holds_eq_true_iff.2 hh, hz, stageForm_eq_true hrmt]
    rintro (hn | hn | hn | hn | ⟨ht, hn⟩)
    · cases hn
    · exact absurd hslot (Nat.not_lt.2 hn)
    · exact hn hstride
    · cases hn
    · obtain ⟨t, hm, hteam⟩ := htil ht
      exact of_decide_eq_true (List.all_eq_true.1 hn t hm) hteam

end

end Sys2Proof.Safety
end

section
/-! The queue of entries and joint mode at issue (O21). -/

open Sys2Proof Sys2Proof.Machine
namespace Sys2Proof.Safety

/-! What entering the queue reads is left alone by what an access to global memory fills -/

theorem mx_modCore {f : Core → Core} (h : ∀ k, (f k).mx = k.mx) (s : State) (c j : Nat) :
    ((s.modCore c f).core j).mx = (s.core j).mx := by
  rw [State.core_modCore]
  split
  next e => rw [h, e]
  next => rfl

theorem mx_fillTlbs (x : Issue) (o : Op) (ls : List Nat) (s : State) (j : Nat) :
    ((fillTlbs x o ls s).core j).mx = (s.core j).mx := by
  refine foldl_keeps _ (fun s : State => (s.core j).mx) (fun s t => ?_) _ s
  unfold fillFirst
  split
  · rfl
  · exact mx_modCore (fun _ => by rfl) ..

theorem core_clearPass (x : Issue) (s : State) (j : Nat) : (clearPass x s).core j = s.core j := by
  unfold clearPass
  split <;> rfl

/-! A unit stays in its place when an operation of it is added -/

theorem at_setFe (un : UnitSt) (d : Operand) (f : Fe) : (setFe un d f).at_ = un.at_ := by
  unfold setFe
  split <;> rfl

theorem at_addOp (un : UnitSt) (o : Op) : (addOp un o).at_ = un.at_ :=
  foldl_keeps (setFe · · .pending) UnitSt.at_ (fun un d => at_setFe un d _) o.dests un

theorem at_of_beginAccess {s : State} {c : Issue} {un un' : UnitSt} {q : Mask} {addr : Nat → DWord} {data : Nat → List Word}
    {dests : List Operand} (hu : s.unit? c.u = some un) (h : (beginAccess c s q addr data dests).unit? c.u = some un') :
    un'.at_ = un.at_ := by
  rw [beginAccess, State.unit_modUnit_self, hu, Option.map_some, Option.some.injEq] at h
  exact h ▸ at_addOp ..

section
variable {i : Instr} {s s1 : State} {c x : Issue} {un : UnitSt} {k op : Nat} {o : Op} {place : Nat → Place}

/-! Entering the queue (R190) -/

/-- The entry that an instruction makes. -/
def entryOf (x : Issue) (s : State) (op : Nat) : MEntry :=
  { unit := x.u, op := op, instr := x.instr, pc := x.sp.pc, seq := (s.core x.un.at_.core).mx.nextPend, cycle := s.now,
    slot := x.un.at_.slot }

/-- The state with the instruction in its array's queue. -/
def entered (x : Issue) (s : State) (op : Nat) : State :=
  s.modMx x.un.at_.core (fun m => { m with
    queue := enqueue m.queue (entryOf x s op), gangNo := m.gangNo + (match x.instr with | .gangMma _ => 1 | _ => 0) })

theorem enter_of_room (h : (s.core x.un.at_.core).mx.queue.length < 4) (stage op : Nat) :
    enter x s stage op = finish x (entered x s op) := by
  unfold enter
  rw [if_neg (Nat.not_le.2 h)]
  rfl

theorem enqueue_eq_filter (q : List MEntry) (e : MEntry) : enqueue q e =
    q.filter (fun x => decide (x.cycle < e.cycle ∨ x.slot ≤ e.slot)) ++ [e] ++
      q.filter (fun x => !decide (x.cycle < e.cycle ∨ x.slot ≤ e.slot)) := by
  simp only [enqueue, Bool.decide_or]

theorem slotTagged_of_slot {m : Matrix} {t : STag} (h : ∃ x, m.slot? k = some x ∧ x.tag = t) : slotTagged m k t = true := by
  obtain ⟨x, hx, rfl⟩ := h
  simp [slotTagged, hx]

/-- A multiply whose slots have their tags, in joint mode where it is joint, enters the queue (R181, R191, R197). -/
theorem multiply_of_room {y : Mma} {ta tb : STag} {gang : Bool} (h : Acts i s c) (hd : c.un.discarded = [])
    (hh : (s.core c.un.at_.core).mx.holder = some c.un.at_.team) (hq : (s.core c.un.at_.core).mx.queue.length < 4)
    (ha : y.a.val < slotCount (s.core c.un.at_.core).mx.n) (hb : y.b.val < slotCount (s.core c.un.at_.core).mx.n)
    (hta : slotTagged (s.core c.un.at_.core).mx y.a.val ta = true) (htb : slotTagged (s.core c.un.at_.core).mx y.b.val tb = true)
    (hg : gang = true → (s.core c.un.at_.core).mx.gang = true) :
    multiply i y ta tb gang s = .next (finish c (entered c s 0)) := by
  rw [multiply, mxIssue_of_acts h hd]
  dsimp only
  rw [if_neg, enter_of_room hq]
  rw [holds_eq_true_iff.2 hh, hta, htb]
  rintro (h | h | h | h | h | ⟨h1, h2⟩)
  · cases h
  · omega
  · omega
  · cases h
  · cases h
  · rw [hg h1] at h2
    cases h2

/-! The rows of MST (R193) -/

/-- The access that waits for its translation is changed. -/
theorem modPending_eq_putOp (f : Op → Op) (hu : s1.unit? c.u = some un) (hp : pendingAccess un c.e = some (k, o)) :
    s1.modUnit c.u (fun un => match pendingAccess un c.e with
      | some (k, o) => { un with ops := Tab.put un.ops k (f o) }
      | none => un) = putOp s1 c.u k (f o) := by
  unfold putOp State.modUnit
  congr 1
  rw [Tab.modify_of_find hu, Tab.modify_of_find hu]
  simp only [hp]

/-- The waiting operation, changed in its stage and holders not at all, waits as well. -/
theorem Waits.put {e : Nat} {o' : Op} (h : Waits un e k o) (hs : o'.stage = o.stage) (hh : o'.holders = o.holders) :
    Waits { un with ops := Tab.put un.ops k o' } e k o' := by
  obtain ⟨ops, hnone, hops⟩ := h.alone
  exact ⟨hs.trans h.stage, hh ▸ h.held, ops, hnone, by rw [hops, Tab.put_put]⟩

/-- The address of a row of MST. -/
def rowAddr (y : Mst) (s : State) (c : Issue) (i : Nat) : DWord :=
  if y.glb then BitVec.ofInt 64 ((c.dword s c.low y.base).toNat + y.off.toInt + i * (c.word s c.low y.s).toNat)
  else BitVec.ofNat 64 (((c.word s c.low y.base).toNat + y.off.toInt + i * (c.word s c.low y.s).toNat) % 2 ^ 32).toNat

theorem rowAddr_eq (y : Mst) (s : State) (c : Issue) (i : Nat) :
    (if y.glb then c.dword s c.low y.base + y.off.signExtend 64 + dw (i * (c.word s c.low y.s).toNat)
      else (c.word s c.low y.base + y.off.signExtend 32 + w32 (i * (c.word s c.low y.s).toNat)).setWidth 64) = rowAddr y s c i := by
  rw [setWidth_add_offset, dword_add_offset_add, Nat.cast_mul]
  rfl

/-- The operation of an MST with the addresses of its rows. -/
def withRows (row : Nat → DWord) (o : Op) : Op := { o with addr := (List.range 32).map fun i => (i, row i) }

theorem at_withRows (row : Nat → DWord) (o : Op) {i : Nat} (h : i < 32) : (withRows row o).at_ i = row i := by
  rw [Op.at_, Tab.get, withRows, find?_map_of_mem (List.mem_range.2 h) row]
  rfl

/-- A fresh MST issues with its rows' addresses, and is then checked. -/
theorem execMst_of_fresh {y : Mst} (h : Acts (.mst y) s c) (hf : Fresh s c y.glb) (hd : c.un.discarded = [])
    (hh : (s.core c.un.at_.core).mx.holder = some c.un.at_.team) (hs : (c.word s c.low y.s).toNat % storeElement y.fmt = 0)
    (hu : (beginAccess c s c.lanes (rowAddr y s c) (fun _ => []) []).unit? c.u = some un) (hw : Waits un c.e k o) :
    execMst y s = .next (resolveMst c
      (putOp (beginAccess c s c.lanes (rowAddr y s c) (fun _ => []) []) c.u k (withRows (rowAddr y s c) o)) y) := by
  obtain ⟨hstage, -, hphase⟩ := hf
  have hglob : (y.glb && computePhase s c.un) = false := by
    cases hg : y.glb with
    | false => rfl
    | true => exact hphase hg
  rw [execMst, mxIssue_of_acts h hd]
  refine congrArg _ ?_
  dsimp only
  rw [if_neg (not_not.2 hstage)]
  simp only [rowAddr_eq, hglob, Bool.false_eq_true, if_false]
  rw [if_neg (by rw [holds_eq_true_iff.2 hh]; simpa using hs)]
  exact congrArg (resolveMst c · y) (modPending_eq_putOp (withRows (rowAddr y s c)) hu hw.pendingAccess_eq)

/-- An MST whose rows all pass, with room in the queue, enters it. -/
theorem resolveMst_of_passing {y : Mst} (hu : s1.unit? c.u = some un) (hp : pendingAccess un c.e = some (k, o))
    (h : ∀ i < 32, checkRow s1 { c with un := un } y (o.at_ i) = .ok (place i)) (hq : (s1.core un.at_.core).mx.queue.length < 4) :
    resolveMst c s1 y = finish c (entered { c with un := un }
      (putOp (clearPass { c with un := un } (fillTlbs { c with un := un } o (if y.glb then List.range 32 else []) s1)) c.u k
        { o with stage := 0, place := (List.range 32).map fun i => (i, place i) }) k) := by
  have hchecks : (List.range 32).map (fun i => (i, checkRow s1 { c with un := un } y (o.at_ i))) = passing place (List.range 32) :=
    List.map_congr_left fun i hi => by rw [h i (List.mem_range.1 hi)]
  have hdec := decided_passing place (List.range 32)
  have hroom (t : State) (ht : t = putOp (clearPass { c with un := un }
      (fillTlbs { c with un := un } o (if y.glb then List.range 32 else []) s1)) c.u k
        { o with stage := 0, place := (List.range 32).map fun i => (i, place i) }) : (t.core un.at_.core).mx.queue.length < 4 := by
    rw [ht, putOp, State.core_modUnit, core_clearPass, mx_fillTlbs]
    exact hq
  simp only [resolveMst, hu, hp, hchecks, any_halt_of_decided hdec, checksWait_of_decided hdec, badLanes_passing, okPlaces_passing]
  simp only [Bool.false_eq_true, if_false, if_neg (Nat.not_le.2 hq)]
  rw [enter_of_room (x := { c with un := un }) (hroom _ rfl)]
  exact finish_congr ..

end

theorem arrayEntries : Sys2Proof.Claims.ArrayEntries := by
  unfold Claims.ArrayEntries
  intro queued room tagged
  have hqueued (s : State) (c : Issue) (op : Nat) (un : UnitSt) : queued s c op un = entered { c with un := un } s op := by
    simp only [entered, enqueue_eq_filter]
    rfl
  refine ⟨fun y s c h hr ha hb => ?_, fun y s c h hr ha hb => ?_, fun y s c h hr hg ha hb => ?_, fun y s c h hr => ?_, ?_⟩
  · obtain ⟨hd, hh, hq⟩ := hr
    rw [hqueued]
    exact multiply_of_room h hd hh hq ha.1 hb.1 (slotTagged_of_slot ha.2) (slotTagged_of_slot hb.2) nofun
  · obtain ⟨hd, hh, hq⟩ := hr
    rw [hqueued]
    exact multiply_of_room h hd hh hq ha.1 hb.1 (slotTagged_of_slot ha.2) (slotTagged_of_slot hb.2) nofun
  · obtain ⟨hd, hh, hq⟩ := hr
    rw [hqueued]
    exact multiply_of_room h hd hh hq ha.1 hb.1 (slotTagged_of_slot ha.2) (slotTagged_of_slot hb.2) fun _ => hg
  · obtain ⟨hd, hh, hq⟩ := hr
    refine (mxIssue_of_acts h hd _ : execMzero y s = _).trans ?_
    rw [hqueued, if_pos (holds_eq_true_iff.2 hh), enter_of_room hq]
  · intro y s c place h hf hr stride row hstride s1
    obtain ⟨hd, hh, hq⟩ := hr
    obtain ⟨hu, -⟩ := of_acts h
    obtain ⟨un, o, ⟨hu1, ho, -⟩, hw⟩ := stands_beginAccess (q := c.lanes) (addr := row) (data := fun _ => []) (dests := [])
      hu hf.2.1 (by simp)
    refine ⟨un, o, hu1, ho, ?_⟩
    intro o' s2 c2 hrows
    have hroom : (s2.core un.at_.core).mx.queue.length < 4 := by
      rw [at_of_beginAccess hu hu1]
      exact hq
    have hpass := resolveMst_of_passing (place := place) (unit_putOp hu1 ..) (hw.put (o' := o') rfl rfl).pendingAccess_eq
      (fun i hi => (at_withRows row o hi).symm ▸ hrows i hi) hroom
    rw [hqueued]
    exact (execMst_of_fresh h hf hd hh hstride hu1 hw).trans (congrArg _ hpass)

/-! Joint mode (R196) -/

theorem gangBarrier : Sys2Proof.Claims.GangBarrier := by
  refine ⟨?_, fun y s c h hd h1 => ?_⟩
  · intro y s c t h hd h0 hh ht s1
    have ht1 : s1.team? c.un.at_.team = some { t with gangCount := t.gangCount + 1 } := by
      rw [State.team_modTeam_self, ht, Option.map_some]
    have hexec : exec (.gang y) s = .next (if gangMet s1 c.un.at_.team (t.gangCount + 1) then
        finish c (setGang s1 c.un.at_.team (!y.last)) else park s1 c.u c.e (.gang (t.gangCount + 1)) 1) := by
      refine (mxIssue_of_acts h hd _ : execGang y s = _).trans (congrArg _ ?_)
      dsimp only
      rw [if_neg (not_not.2 h0), if_neg (by rw [holds_eq_true_iff.2 hh]; decide)]
      show (if gangMet s1 _ (match s1.team? _ with | some t => t.gangCount | none => 0) then _ else _) = _
      rw [ht1]
    refine ⟨fun hm => by rw [hexec, if_pos hm], fun hm => by rw [hexec, hm]; rfl, fun k hk hw hteam => ?_⟩
    have hrow : rowTeams s1 c.un.at_.team = [some c.un.at_.team] := by
      rw [rowTeams, ht1]
      dsimp only
      rw [show s1.cluster? t.cluster = some k from hk]
      simpa [hw] using hteam
    rw [gangMet, hrow]
    simp [ht1]
  · refine (mxIssue_of_acts h hd _ : execGang y s = _).trans (congrArg _ ?_)
    exact if_pos h1

/-- Settles O21: each instruction acts where its conditions hold, and leaves its reservation, its staging, its entry or the mode. -/
theorem arrayInstructions : Obligations.ArrayInstructions := ⟨arrayReservation, stagingIssues, arrayEntries, gangBarrier⟩

end Sys2Proof.Safety
end

section
/-! The events of the matrix array: entries start and finish, MST stores its rows, stagings end (O32). -/

open Sys2Proof Sys2Proof.Machine
namespace Sys2Proof.Safety

section
variable {s : State} {core c k : Nat} {e : MEntry} {rest : List MEntry} {r : MRun} {y : Mma} {m : Matrix}

/-! Entries that start (R190, R195) -/

/-- The cycle in which a multiply that starts now finishes, `wired` being the A tile that comes from the row's origin (R195). -/
def multiplyFin (s : State) (c : Nat) (y : Mma) (compute : Nat) (wired : Option (Tab Nat)) : Nat :=
  let m := (s.core c).mx
  let ua := if wired.isSome then 0 else b2n (decide (m.latchA ≠ tileName m y.a.val))
  let ub := b2n (decide (m.latchB ≠ tileName m y.b.val))
  s.now + max compute (4 * ceilDiv (48 * (ua + ub)) m.n)

/-- The entry of a multiply as it executes. -/
def multiplyRun (s : State) (c : Nat) (e : MEntry) (y : Mma) (compute : Nat) (wired : Option (Tab Nat)) : MRun :=
  { entry := e, a := wired.getD (tileData (s.core c).mx y.a.val), b := tileData (s.core c).mx y.b.val,
    fin := multiplyFin s c y compute wired }

/-- The state in which a multiply has started. -/
def multiplyStarted (s : State) (c : Nat) (e : MEntry) (rest : List MEntry) (y : Mma) (compute : Nat) (wired : Option (Tab Nat)) : State :=
  (s.modMx c (fun m => { m with
    queue := rest, exec := some (multiplyRun s c e y compute wired), latchB := tileName m y.b.val,
    latchA := if wired.isSome then m.latchA else tileName m y.a.val })).later
    (multiplyFin s c y compute wired - s.now) (.event (.matrixEntryFinish c))

theorem startEntry_multiply {compute : Nat} (hq : (s.core c).mx.queue = e :: rest)
    (hi : e.instr = .mma y ∧ compute = 12 ∨ e.instr = .gangMma y ∧ compute = 12 ∨ e.instr = .mmaF32 y ∧ compute = 24)
    (wired : Option (Tab Nat)) : startEntry s c wired = multiplyStarted s c e rest y compute wired := by
  unfold startEntry
  simp only [hq]
  rcases hi with ⟨hi, rfl⟩ | ⟨hi, rfl⟩ | ⟨hi, rfl⟩ <;> rw [hi] <;> rfl

/-- The state in which an entry without operands has started. -/
def plainStarted (s : State) (c : Nat) (e : MEntry) (rest : List MEntry) (k : Nat) : State :=
  (s.modMx c (fun m => { m with queue := rest, exec := some { entry := e, a := [], b := [], fin := s.now + k } })).later k
    (.event (.matrixEntryFinish c))

theorem startEntry_plain (hq : (s.core c).mx.queue = e :: rest)
    (hi : (∃ y, e.instr = .mst y) ∧ k = 16 ∨ (∃ y, e.instr = .mzero y) ∧ k = 1) (wired : Option (Tab Nat)) :
    startEntry s c wired = plainStarted s c e rest k := by
  unfold startEntry
  simp only [hq]
  rcases hi with ⟨⟨y, hi⟩, rfl⟩ | ⟨⟨y, hi⟩, rfl⟩ <;> rw [hi] <;> rfl

theorem mx_multiplyStarted (s : State) (c : Nat) (e : MEntry) (rest : List MEntry) (y : Mma) (compute : Nat) (wired : Option (Tab Nat)) :
    ((multiplyStarted s c e rest y compute wired).core c).mx = { (s.core c).mx with
      queue := rest, exec := some (multiplyRun s c e y compute wired), latchB := tileName (s.core c).mx y.b.val,
      latchA := if wired.isSome then (s.core c).mx.latchA else tileName (s.core c).mx y.a.val } := by
  rw [multiplyStarted, State.core_later, State.core_modMx_self]

theorem mx_plainStarted (s : State) (c : Nat) (e : MEntry) (rest : List MEntry) (k : Nat) :
    ((plainStarted s c e rest k).core c).mx = { (s.core c).mx with
      queue := rest, exec := some { entry := e, a := [], b := [], fin := s.now + k } } := by
  rw [plainStarted, State.core_later, State.core_modMx_self]

theorem multiplyFin_mem_calendar (s : State) (c : Nat) (e : MEntry) (rest : List MEntry) (y : Mma) (compute : Nat)
    (wired : Option (Tab Nat)) : (multiplyFin s c y compute wired, Turn.event (.matrixEntryFinish c)) ∈
      (multiplyStarted s c e rest y compute wired).calendar := by
  have hfin : s.now + (multiplyFin s c y compute wired - s.now) = multiplyFin s c y compute wired :=
    Nat.add_sub_cancel' (Nat.le_add_right ..)
  have hmem := State.mem_later (s.modMx c (fun m => { m with
    queue := rest, exec := some (multiplyRun s c e y compute wired), latchB := tileName m y.b.val,
    latchA := if wired.isSome then m.latchA else tileName m y.a.val })) (multiplyFin s c y compute wired - s.now)
    (.event (.matrixEntryFinish c))
  rwa [State.modMx_now, hfin] at hmem

theorem exec_matrixEntryStart (h : headReady (s.core core).mx = true) :
    exec (.matrixEntryStart core) s = .next (startEntry s core none) :=
  congrArg Host.Outcome.next (if_pos h)

theorem b2n_ne {α : Type} [DecidableEq α] (a b : α) : b2n (decide (a ≠ b)) = if a = b then 0 else 1 := by
  by_cases h : a = b <;> simp [b2n, h]

theorem entryStarts : Sys2Proof.Claims.EntryStarts := by
  refine ⟨?_, ?_⟩
  · intro s core e rest y compute hi m hexec hq ha hb ua ub fin
    have hready : headReady m = true := by
      rcases hi with ⟨hi, -⟩ | ⟨hi, -⟩ <;> simp [headReady, hexec, hq, hi, ha, hb]
    have hi' : e.instr = .mma y ∧ compute = 12 ∨ e.instr = .gangMma y ∧ compute = 12 ∨ e.instr = .mmaF32 y ∧ compute = 24 :=
      hi.imp_right .inr
    have hfin : multiplyFin s core y compute none = fin := by
      simp only [multiplyFin, b2n_ne]
      rfl
    have hmx := mx_multiplyStarted s core e rest y compute none
    refine ⟨_, multiplyRun s core e y compute none, (exec_matrixEntryStart hready).trans
      (congrArg _ (startEntry_multiply hq hi' none)), ?_, rfl, rfl, rfl, hfin, ?_, ?_, ?_, ?_, ?_⟩
    · rw [hmx]
    · rw [hmx]
    · rw [hmx]
    · rw [hmx]; rfl
    · rw [hmx]
    · exact hfin ▸ multiplyFin_mem_calendar s core e rest y compute none
  · intro s core e rest k hi m hexec hq
    have hready : headReady m = true := by
      rcases hi with ⟨⟨y, hi⟩, -⟩ | ⟨⟨y, hi⟩, -⟩ <;> simp [headReady, hexec, hq, hi]
    have hmx := mx_plainStarted s core e rest k
    refine ⟨_, { entry := e, a := [], b := [], fin := s.now + k }, (exec_matrixEntryStart hready).trans
      (congrArg _ (startEntry_plain hq hi none)), ?_, rfl, rfl, ?_, ?_, State.mem_later ..⟩
    · rw [hmx]
    · rw [hmx]
    · rw [hmx]

/-! Entries that finish (R191, R192, R194) -/

/-- Waking an array plans events and changes nothing else. -/
theorem wakeArray_keeps {α : Type} (g : State → α) (h : ∀ s t, g (State.soon s t) = g s) (s : State) (c : Nat) :
    g (wakeArray s c) = g s := by
  unfold wakeArray
  refine foldl_keeps _ g (fun s c => ?_) _ s
  split
  · rfl
  · split
    · split
      · rfl
      · exact h _ _
    · rfl

/-- An array whose team has not gone is not released (R184). -/
theorem freeGone_of_present (h : ∀ key, (s.core c).mx.holder = some key → (s.team? key).isSome = true) : freeGone s c = s := by
  unfold freeGone
  dsimp only
  split
  next key hk =>
    obtain ⟨tm, ht⟩ := Option.isSome_iff_exists.1 (h key hk)
    simp [ht]
  next => rfl

/-- The group that issued an entry has its flags, where its team still holds the array. -/
def raiseFlags (holder : Option Nat) (fl : Nat) (un : UnitSt) : UnitSt :=
  if some un.at_.team = holder then { un with ctl := { un.ctl with mflags := un.ctl.mflags ||| w32 fl } } else un

theorem endEntry_of_present (h : ∀ key, (s.core c).mx.holder = some key → (s.team? key).isSome = true) (e : MEntry) (fl : Nat) :
    endEntry s c e fl = wakeArray ((s.modMx c (fun m => { m with exec := none })).modUnit e.unit
      (raiseFlags (s.core c).mx.holder fl)) c := by
  have hcore : (s.modMx c (fun m => { m with exec := none })).core c = { s.core c with mx := { (s.core c).mx with exec := none } } :=
    State.core_modMx_self ..
  unfold endEntry
  dsimp only
  rw [freeGone_of_present, hcore]
  · rfl
  · intro key hk
    rw [State.core_modUnit, hcore] at hk
    exact h key hk

/-- What an entry leaves that finishes while the array's team stands: its accumulator as `f` gives it, its flags in the group that
issued it, and the array free for the next entry. -/
theorem endEntry_modMx {f : Matrix → Matrix} (hqueue : ∀ m, (f m).queue = m.queue) (hholder : ∀ m, (f m).holder = m.holder)
    (h : ∃ key tm, (s.core core).mx.holder = some key ∧ s.team? key = some tm) (e : MEntry) (fl : Nat) :
    ∃ t, endEntry (s.modMx core f) core e fl = t ∧ (t.core core).mx.acc = (f (s.core core).mx).acc ∧ (t.core core).mx.exec = none ∧
      (t.core core).mx.queue = (s.core core).mx.queue ∧ t.mem = s.mem ∧
      ∀ un, s.unit? e.unit = some un → (s.core core).mx.holder = some un.at_.team →
        ∃ un', t.unit? e.unit = some un' ∧ un'.ctl.mflags = un.ctl.mflags ||| BitVec.ofNat 32 fl ∧ un'.regs = un.regs := by
  have hcore : (s.modMx core f).core core = { s.core core with mx := f (s.core core).mx } := State.core_modMx_self ..
  have hend := endEntry_of_present (s := s.modMx core f) (c := core) (fun key hk => by
    obtain ⟨key', tm, hh, ht⟩ := h
    rw [hcore] at hk
    obtain rfl : key' = key := Option.some.inj (hh.symm.trans ((hholder _).symm.trans hk))
    exact Option.isSome_iff_exists.2 ⟨tm, ht⟩) e fl
  have hmx : ((endEntry (s.modMx core f) core e fl).core core).mx = { f (s.core core).mx with exec := none } := by
    rw [hend, wakeArray_keeps (fun s => (s.core core).mx) fun _ _ => rfl, State.core_modUnit, State.core_modMx_self, hcore]
  refine ⟨_, rfl, by rw [hmx], by rw [hmx], by rw [hmx]; exact hqueue _, ?_, fun un hu hteam => ?_⟩
  · rw [hend, wakeArray_keeps State.mem fun _ _ => rfl]
    rfl
  · refine ⟨raiseFlags (s.core core).mx.holder fl un, ?_, ?_, ?_⟩
    · rw [hend, wakeArray_keeps (State.unit? · e.unit) fun _ _ => rfl, State.unit_modUnit_self, State.unit_modMx, State.unit_modMx,
        hu, hcore, hholder]
      rfl
    · rw [raiseFlags, if_pos hteam.symm]
    · rw [raiseFlags, if_pos hteam.symm]

theorem exec_matrixEntryFinish_multiply {k w : Nat} {f : FFmt} (hr : (s.core core).mx.exec = some r) (hf : r.fin ≤ s.now)
    (hi : r.entry.instr = .mma y ∧ k = 48 ∧ w = 47 ∧ f = fmtBf16 ∨ r.entry.instr = .gangMma y ∧ k = 48 ∧ w = 47 ∧ f = fmtBf16 ∨
      r.entry.instr = .mmaF32 y ∧ k = 24 ∧ w = 63 ∧ f = fmtF32) :
    exec (.matrixEntryFinish core) s = .next (endEntry (s.modMx core (fun m => { m with
      acc := (multiplied (s.core core).mx y.acc.val k w f r.a r.b).1 })) core r.entry
      (multiplied (s.core core).mx y.acc.val k w f r.a r.b).2) := by
  show execMatrixEntryFinish core s = _
  simp only [execMatrixEntryFinish, hr, if_neg (Nat.not_lt.2 hf)]
  rcases hi with ⟨hi, rfl, rfl, rfl⟩ | ⟨hi, rfl, rfl, rfl⟩ | ⟨hi, rfl, rfl, rfl⟩ <;> simp only [hi]

theorem exec_matrixEntryFinish_mzero {y : Mzero} (hr : (s.core core).mx.exec = some r) (hf : r.fin ≤ s.now)
    (hi : r.entry.instr = .mzero y) :
    exec (.matrixEntryFinish core) s =
      .next (endEntry (s.modMx core (fun m => { m with acc := clearedAcc m.acc y.acc.val })) core r.entry 0) := by
  show execMatrixEntryFinish core s = _
  simp only [execMatrixEntryFinish, hr, if_neg (Nat.not_lt.2 hf), hi]

theorem find?_filter_key {α : Type} (t : Tab α) (p : Nat → Bool) (k : Nat) :
    Tab.find? (t.filter fun e => p e.1) k = if p k then Tab.find? t k else none := by
  induction t with
  | nil => simp
  | cons e t ih =>
    by_cases he : e.1 = k
    · subst he
      cases hp : p e.1 <;> simp [hp, ih, Tab.find?]
    · cases hp : p e.1 <;> simp [hp, ih, Tab.find?, he]

/-- An element of an accumulator after one has been set to +0. -/
theorem get_clearedAcc (t : Tab Word) (acc acc' : Nat) {i j : Nat} (hi : i < 32) (hj : j < 32) :
    Tab.get 0 (clearedAcc t acc') (acc * 1024 + i * 32 + j) = if acc = acc' then 0 else Tab.get 0 t (acc * 1024 + i * 32 + j) := by
  have hkey : (acc * 1024 + i * 32 + j) / 1024 = acc := by omega
  rw [Tab.get, clearedAcc, find?_filter_key t (fun n => decide (n / 1024 ≠ acc')), hkey]
  by_cases h : acc = acc' <;> simp [h, Tab.get]

theorem entryFinishes : Sys2Proof.Claims.EntryFinishes := by
  unfold Claims.EntryFinishes
  intro ends held
  refine ⟨?_, ?_⟩
  · intro s core r y k w f h hi z
    obtain ⟨hr, hf, hteam⟩ := h
    obtain ⟨t, ht, hacc, hends⟩ := endEntry_modMx (s := s) (f := fun m => { m with acc := z.1 }) (fun _ => rfl) (fun _ => rfl) hteam
      r.entry z.2
    exact ⟨t, (exec_matrixEntryFinish_multiply hr hf hi).trans (congrArg _ ht), hacc, hends⟩
  · intro s core r y h hi
    obtain ⟨hr, hf, hteam⟩ := h
    obtain ⟨t, ht, hacc, hends⟩ := endEntry_modMx (s := s) (f := fun m => { m with acc := clearedAcc m.acc y.acc.val }) (fun _ => rfl)
      (fun _ => rfl) hteam r.entry 0
    refine ⟨t, (exec_matrixEntryFinish_mzero hr hf hi).trans (congrArg _ ht), hends, fun acc i j hi hj => ?_⟩
    rw [accAt, hacc]
    exact get_clearedAcc _ acc y.acc.val hi hj

/-! MST (R193) -/

/-- Rows put one behind the other, and their flags raised together. -/
theorem foldl_rows {α β : Type} (f : α → List β) (g : α → List FRes) (l : List α) (acc : List β × Nat) :
    l.foldl (fun acc e => (acc.1 ++ f e, (g e).foldl (fun n r => n ||| r.2) acc.2)) acc =
      (acc.1 ++ l.flatMap f, (l.flatMap fun e => (g e).map (·.2)).foldl (· ||| ·) acc.2) := by
  induction l generalizing acc with
  | nil => simp
  | cons e l ih => simp [ih, List.foldl_map]

theorem mstBytes_eq (m : Matrix) (y : Mst) (o : Op) : mstBytes m y o =
    (o.place.flatMap (fun (e : Nat × Place) => placeRun e.2
      (((List.range 32).map (fun j => storedElement y.fmt y.sat (accAt m y.acc.val e.1 j))).flatMap
        (fun r => bytesOf (storeElement y.fmt) r.1))),
    (o.place.flatMap (fun (e : Nat × Place) =>
      (List.range 32).map (fun j => (storedElement y.fmt y.sat (accAt m y.acc.val e.1 j)).2))).foldl (· ||| ·) 0) := by
  refine (foldl_rows (fun e : Nat × Place => placeRun e.2 (((List.range 32).map (fun j => storedElement y.fmt y.sat
    (accAt m y.acc.val e.1 j))).flatMap (fun r => bytesOf (storeElement y.fmt) r.1)))
    (fun e => (List.range 32).map (fun j => storedElement y.fmt y.sat (accAt m y.acc.val e.1 j))) o.place ([], 0)).trans ?_
  simp only [List.map_map, List.nil_append]
  rfl

theorem matrixStoreFinishes : Sys2Proof.Claims.MatrixStoreFinishes := by
  intro s core r y un o hr hf hi hu ho hw hb rows flags s1 s2
  have hbusy : (mustWait un r.entry.op o || !y.glb && scrBusy (s.core core)) = false := by
    rw [hw]
    cases hg : y.glb with
    | false => simp [hb hg]
    | true => rfl
  show execMatrixEntryFinish core s = _
  simp only [execMatrixEntryFinish, hr, if_neg (Nat.not_lt.2 hf), hi, hu, ho, hbusy, mstBytes_eq]
  rfl

end

end Sys2Proof.Safety
end

section
/-! Stagings that end (O32). -/

open Sys2Proof Sys2Proof.Machine
namespace Sys2Proof.Safety

section
variable {s t : State} {core c u k n : Nat} {who : SlotOf} {cls : SlotClass} {rows : List (Nat × Nat × Nat)} {p : PendStage}
  {un : UnitSt} {o : Op} {b : Bool} {y : Stage} {bs : List Byte}

/-! The slots of the banks -/

/-- A core without the requests that a test names. -/
def withoutRequests (q : SlotOf → Bool) (k : Core) : Core :=
  { k with banks := k.banks.filterMap (fun (b : Nat × BankQ) =>
      let z := { b.2 with reqs := b.2.reqs.filter (fun r => !q r.who) }
      if z = BankQ.idle then none else some (b.1, z)) }

theorem cores_dropSlots (s : State) (q : SlotOf → Bool) (c : Nat) :
    Tab.find? (dropSlots s q).cores c = (Tab.find? s.cores c).map (withoutRequests q) :=
  find?_map_val s.cores (fun _ => withoutRequests q) c

/-- Requests taken away leave all of a core but its banks. -/
theorem core_dropSlots_keeps {α : Type} (g : Core → α) (h : ∀ k b, g { k with banks := b } = g k) (s : State) (q : SlotOf → Bool)
    (c : Nat) : g ((dropSlots s q).core c) = g (s.core c) := by
  rw [State.core, Tab.get, cores_dropSlots, State.core, Tab.get]
  cases Tab.find? s.cores c with
  | none => rfl
  | some k => exact h k _

/-- The state in which a requester goes on whose requests have all been served: they are at the banks no more. -/
def slotsGiven (s : State) (who : SlotOf) : State := if slotReqs s who = [] then s else dropSlots s (fun w => decide (w = who))

theorem slotsGiven_keeps {α : Type} (g : State → α) (h : ∀ s q, g (dropSlots s q) = g s) (s : State) (who : SlotOf) :
    g (slotsGiven s who) = g s := by
  unfold slotsGiven
  split
  · rfl
  · exact h _ _

theorem core_slotsGiven_keeps {α : Type} (g : Core → α) (h : ∀ k b, g { k with banks := b } = g k) (s : State) (who : SlotOf)
    (c : Nat) : g ((slotsGiven s who).core c) = g (s.core c) :=
  slotsGiven_keeps (fun s => g (s.core c)) (fun s q => core_dropSlots_keeps g h s q c) s who

/-- A requester whose banks have given their slots goes on (R164). -/
theorem withSlots_of_served (h : ∀ r ∈ slotReqs s who, r.rows = 0) (h0 : slotReqs s who = [] → rows = []) (wait go : State → State) :
    withSlots s who cls rows wait go = go (slotsGiven s who) := by
  unfold withSlots slotsGiven
  split
  next e => rw [if_pos (h0 e), if_pos e]
  next e =>
    rw [if_pos (List.all_eq_true.2 fun r hr => beq_iff_eq.2 (h r hr)), if_neg e]

/-- A requester that has asked for none of its rows asks for them (R164). -/
theorem withSlots_of_unasked (h : slotReqs s who = []) (hr : rows ≠ []) (wait go : State → State) :
    withSlots s who cls rows wait go = wait (askSlots s who cls rows) := by
  unfold withSlots
  rw [h]
  exact if_neg hr

/-! What a staging reads -/

theorem rdPlace_slotsGiven (s : State) (who : SlotOf) (q : Place) : rdPlace (slotsGiven s who) q = rdPlace s q :=
  slotsGiven_keeps (rdPlace · q) (fun s f => by
    cases q with
    | til c a =>
      have htiles := core_dropSlots_keeps (fun k => k.ci.tiles) (fun _ _ => rfl) s f c
      simp only [rdPlace, htiles]
    | _ => rfl) s who

theorem readLines_slotsGiven (s : State) (who : SlotOf) (o : Op) : readLines (slotsGiven s who) o = readLines s o := by
  have hteam (key : Nat) : (slotsGiven s who).team? key = s.team? key := slotsGiven_keeps (State.team? · key) (fun _ _ => rfl) s who
  simp only [readLines, rdPlaces, rdPlace_slotsGiven, hteam]

/-! The end of an operation that waits for its slices -/

theorem awaitSlices_keeps {α : Type} (g : State → α) (hp : ∀ s o, g (putOp s u k o) = g s) (hs : ∀ s e, g (State.soon s e) = g s)
    (hl : ∀ s d e n, g { State.later s d e with draws := n } = g s) : g (awaitSlices s u k) = g s := by
  unfold awaitSlices
  split
  · rfl
  · split
    · rfl
    · dsimp only
      split
      · exact (hs _ _).trans (hp _ _)
      · refine (foldl_keeps _ g (fun s l => ?_) _ _).trans (hp _ _)
        split
        · rfl
        · exact hl _ _ _ _

theorem core_awaitSlices (s : State) (u k c : Nat) : (awaitSlices s u k).core c = s.core c :=
  awaitSlices_keeps (State.core · c) (fun _ _ => rfl) (fun _ _ => rfl) fun _ _ _ _ => rfl

theorem ctl_awaitSlices (s : State) (u k : Nat) : ((awaitSlices s u k).unit? u).map UnitSt.ctl = (s.unit? u).map UnitSt.ctl :=
  awaitSlices_keeps (fun s => (s.unit? u).map UnitSt.ctl)
    (fun s o => by rw [putOp, State.unit_modUnit_self, Option.map_map]; rfl) (fun _ _ => rfl) fun _ _ _ _ => rfl

/-! The slot is written (R187, R190) -/

theorem mem_del {α : Type} {m : Tab α} {k : Nat} {x : Nat × α} : x ∈ Tab.del m k ↔ x ∈ m ∧ x.1 ≠ k := by
  induction m with
  | nil => simp [Tab.del]
  | cons e m ih =>
    rw [Tab.del]
    split
    next he =>
      rw [ih, List.mem_cons]
      refine ⟨fun h => ⟨.inr h.1, h.2⟩, fun h => ⟨h.1.resolve_left fun hx => h.2 (hx ▸ he), h.2⟩⟩
    next he =>
      rw [List.mem_cons, ih, List.mem_cons, or_and_right]
      refine or_congr_left ⟨fun h => ⟨h, h ▸ he⟩, And.left⟩

/-- A slot into which staging n has written a tile; it is full unless another staging into it is under way. -/
def slotWritten (m : Matrix) (n slot : Nat) (tile : Tab Nat) (x : StageSlot) : StageSlot :=
  { x with data := tile, version := x.version + 1, full := !(Tab.del m.pend n).any (fun q => decide (q.2.slot = slot)) }

/-- The array in which staging n has written its slot. -/
def stagingWritten (m : Matrix) (n slot : Nat) (tile : Tab Nat) : Matrix :=
  { m with pend := Tab.del m.pend n, slots := Tab.modify m.slots slot (slotWritten m n slot tile) }

theorem writeSlot_eq (s : State) (c n : Nat) (p : PendStage) (b : Bool) (y : Stage) (bs : List Byte) : writeSlot s c n p b y bs =
    awaitSlices ((s.modMx c (fun m => stagingWritten m n p.slot (stageTile b y bs).1)).modUnit p.unit
      (fun un => { un with ctl := { un.ctl with mflags := un.ctl.mflags ||| w32 (stageTile b y bs).2 } })) p.unit p.op := rfl

theorem mx_writeSlot (s : State) (c n : Nat) (p : PendStage) (b : Bool) (y : Stage) (bs : List Byte) :
    ((writeSlot s c n p b y bs).core c).mx = stagingWritten (s.core c).mx n p.slot (stageTile b y bs).1 := by
  rw [writeSlot_eq, core_awaitSlices, State.core_modUnit, State.core_modMx_self]

theorem unit_writeSlot (hu : s.unit? p.unit = some un) (c n : Nat) (b : Bool) (y : Stage) (bs : List Byte) :
    ∃ un', (writeSlot s c n p b y bs).unit? p.unit = some un' ∧
      un'.ctl.mflags = un.ctl.mflags ||| BitVec.ofNat 32 (stageTile b y bs).2 := by
  have h := ctl_awaitSlices ((s.modMx c (fun m => stagingWritten m n p.slot (stageTile b y bs).1)).modUnit p.unit
      (fun un => { un with ctl := { un.ctl with mflags := un.ctl.mflags ||| w32 (stageTile b y bs).2 } })) p.unit p.op
  rw [State.unit_modUnit_self, State.unit_modMx, hu, ← writeSlot_eq] at h
  obtain ⟨un', hun, hctl⟩ := Option.map_eq_some_iff.1 h
  exact ⟨un', hun, by rw [hctl]⟩

theorem full_slotWritten {m : Matrix} {slot : Nat} {tile : Tab Nat} {x : StageSlot} :
    (slotWritten m n slot tile x).full = true ↔ ∀ q ∈ m.pend, q.1 ≠ n → q.2.slot ≠ slot := by
  show (!(Tab.del m.pend n).any (fun q => decide (q.2.slot = slot))) = true ↔ _
  simp only [Bool.not_eq_true', List.any_eq_false, mem_del, and_imp, decide_eq_true_eq]

/-! The event of a staging (R185, R195) -/

/-- A staging with its bytes whose slot is free asks the banks of its rows, and then writes the slot. -/
theorem exec_stagingComplete_write (hp : Tab.find? (s.core core).mx.pend k = some p) (hu : s.unit? p.unit = some un)
    (hi : stageOf p.instr = some (b, y)) (ho : Tab.find? un.ops p.op = some o) (hb : p.bytes = some bs)
    (hf : slotFree (s.core core).mx k p = true) : exec (.stagingComplete core k) s = .next (withSlots s (.pend core k) .staging
      (slotRows s core p.slot) (fun s => s.later 1 (.event (.stagingComplete core k))) (fun s => writeSlot s core k p b y bs)) := by
  show execStagingComplete core k s = _
  simp only [execStagingComplete, hp, hu, hi, ho, hb, hf, if_true]

/-- A staging without bytes, multicast or window whose source is ready asks the banks of its lines, and then reads them. -/
theorem exec_stagingComplete_read (hp : Tab.find? (s.core core).mx.pend k = some p) (hu : s.unit? p.unit = some un)
    (hi : stageOf p.instr = some (b, y)) (hspace : y.space ≠ .rmt) (ho : Tab.find? un.ops p.op = some o) (hb : p.bytes = none)
    (hw : p.window = none) (ht : p.tag = 0) (hr : sourceReady s p o core = true) : exec (.stagingComplete core k) s =
      .next (withSlots s (.pend core k) .staging (sourceRows s o core) (fun s => s.later 1 (.event (.stagingComplete core k)))
        (fun s => deliverLines s core k (readLines s o))) := by
  show execStagingComplete core k s = _
  simp only [execStagingComplete, hp, hu, hi, ho, hb, hw, ht, hr, hspace, ne_eq, not_true_eq_false, if_false, Bool.not_true,
    Bool.false_eq_true]

theorem stagingEnds : Sys2Proof.Claims.StagingEnds := by
  unfold Claims.StagingEnds
  intro served
  refine ⟨?_, ?_, ?_⟩
  · intro s core k p un b y o bs x hp hu hi ho hb hf hx hserved
    obtain ⟨hzero, hnone⟩ := hserved
    have hmx := core_slotsGiven_keeps Core.mx (fun _ _ => rfl) s (.pend core k) core
    have hwrite := mx_writeSlot (slotsGiven s (.pend core k)) core k p b y bs
    rw [hmx] at hwrite
    have hu1 : (slotsGiven s (.pend core k)).unit? p.unit = some un :=
      (slotsGiven_keeps (State.unit? · p.unit) (fun _ _ => rfl) s _).trans hu
    obtain ⟨un', hun, hflags⟩ := unit_writeSlot hu1 core k b y bs
    refine ⟨_, un', slotWritten (s.core core).mx k p.slot (stageTile b y bs).1 x, (exec_stagingComplete_write hp hu hi ho hb hf).trans
      (congrArg _ (withSlots_of_served hzero hnone _ _)), ?_, ?_, rfl, rfl, full_slotWritten, hun, hflags⟩
    · rw [hwrite]
      exact Tab.find?_del_self _ k
    · rw [hwrite]
      exact (Tab.find?_modify_self ..).trans (by rw [hx]; rfl)
  · intro s core k p un b y o hp hu hi hspace ho hb hw ht hr hserved
    obtain ⟨hzero, hnone⟩ := hserved
    have hmx := core_slotsGiven_keeps Core.mx (fun _ _ => rfl) s (.pend core k) core
    have hnow := slotsGiven_keeps State.now (fun _ _ => rfl) s (.pend core k)
    refine ⟨_, { p with bytes := some (readLines s o) }, (exec_stagingComplete_read hp hu hi hspace ho hb hw ht hr).trans
      (congrArg _ (withSlots_of_served hzero hnone _ _)), ?_, rfl, ?_⟩
    · rw [readLines_slotsGiven, deliverLines, State.core_later, State.core_modMx_self, hmx]
      exact (Tab.find?_modify_self ..).trans (by rw [hp]; rfl)
    · have hmem := State.mem_later ((slotsGiven s (.pend core k)).modMx core (fun m => { m with
        pend := Tab.modify m.pend k (fun p => { p with bytes := some (readLines (slotsGiven s (.pend core k)) o) }) })) 1
        (.event (.stagingComplete core k))
      rwa [State.modMx_now, hnow] at hmem
  · intro s core k p un b y o bs hp hu hi ho hb hf hnone hrows
    exact (exec_stagingComplete_write hp hu hi ho hb hf).trans (congrArg _ (withSlots_of_unasked hnone hrows _ _))

end

/-- Settles O32: an event whose conditions hold changes the array, the group and the plans as its rule says. -/
theorem arrayEvents : Obligations.ArrayEvents := ⟨entryStarts, entryFinishes, matrixStoreFinishes, stagingEnds⟩

end Sys2Proof.Safety
end

section
/-! Multicast windows, joint starts, the phases of a boundary move, and the lists' return (O33). -/

open Sys2Proof Sys2Proof.Machine
namespace Sys2Proof.Safety

section
variable {s : State} {core c w : Nat} {m : Move}

/-! The read of a window (R188) -/

/-- A requester of a window with its staging and the operation that stands for it. -/
def requester (s : State) (r : Nat × Nat) : Option ((Nat × Nat) × PendStage × Op) :=
  match Tab.find? (s.core r.1).mx.pend r.2 with
  | some p => match s.unit? p.unit with
    | some un => (Tab.find? un.ops p.op).map (fun o => (r, p, o))
    | none => none
  | none => none

theorem requester_of_pending {r : (Nat × Nat) × PendStage × Op} (hp : Tab.find? (s.core r.1.1).mx.pend r.1.2 = some r.2.1)
    (ho : ∃ un, s.unit? r.2.1.unit = some un ∧ Tab.find? un.ops r.2.1.op = some r.2.2) : requester s r.1 = some r := by
  obtain ⟨un, hu, ho⟩ := ho
  simp [requester, hp, hu, ho]

/-- A window that has stood its time, with a requester and its source ready, asks the banks for its one read. -/
theorem exec_multicastWindowRead {x : Window} {r₀ : (Nat × Nat) × PendStage × Op} {rest : List ((Nat × Nat) × PendStage × Op)}
    (hx : Tab.find? (s.core core).windows w = some x) (ho : x.opened + 64 ≤ s.now) (hr : x.req.filterMap (requester s) = r₀ :: rest)
    (hready : ∀ r ∈ r₀ :: rest, sourceReady s r.2.1 r.2.2 core = true) : exec (.multicastWindowRead core w) s =
      .next (withSlots s (.window core w) .arrival (sourceRows s r₀.2.2 core)
        (fun s => s.later 1 (.event (.multicastWindowRead core w))) (fun s =>
        let s := s.modCore core (fun k => { k with windows := Tab.del k.windows w })
        (r₀ :: rest).foldl (fun s' r => deliverLines s' r.1.1 r.1.2 (readLines s r₀.2.2))
          (((r₀ :: rest).map (fun r => r.1.1)).eraseDups.foldl (fun s c =>
            (s.modCore core (fun k => { k with sent := k.sent + 1 })).modCore c (fun k => { k with recv := k.recv + 1 })) s))) := by
  have hany : (r₀ :: rest).any (fun r => !sourceReady s r.2.1 r.2.2 core) = false :=
    List.any_eq_false.2 fun r hm => by simp [hready r hm]
  show execMulticastWindowRead core w s = _
  unfold execMulticastWindowRead
  rw [hx]
  dsimp only
  rw [if_neg (Nat.not_lt.2 ho)]
  generalize hl : x.req.filterMap _ = l
  obtain rfl : l = r₀ :: rest := hl.symm.trans hr
  rw [hany]
  rfl

theorem windowRead : Sys2Proof.Claims.WindowRead := by
  intro s core w x reqs hx ho hne hreq hall r₀ rest hreqs hasked hserved s1 s2
  have hfilter : x.req.filterMap (requester s) = r₀ :: rest := by
    rw [hreq, List.filterMap_map, ← hreqs]
    refine (List.filterMap_congr (g := some) fun r hr => ?_).trans (List.filterMap_some ..)
    obtain ⟨hp, ho, -⟩ := hall r hr
    exact requester_of_pending hp ho
  rw [exec_multicastWindowRead hx ho hfilter fun r hr => (hall r (hreqs ▸ hr)).2.2,
    withSlots_of_served hserved fun h => absurd h hasked, slotsGiven, if_neg hasked, ← hreqs]

/-! The start of a joint operation (R197) -/

/-- Two folds whose steps agree while a property stands that each step keeps. -/
theorem foldl_congr_of_kept {σ β : Type} {f g : σ → β → σ} {P : σ → Prop} (hP : ∀ s b, P s → P (f s b))
    (h : ∀ s b, P s → f s b = g s b) (l : List β) : ∀ s, P s → l.foldl f s = l.foldl g s := by
  induction l with
  | nil => exact fun _ _ => rfl
  | cons b l ih =>
    intro s hs
    rw [List.foldl_cons, List.foldl_cons, ← h s b hs]
    exact ih _ (hP s b hs)

theorem slots_modMx {f : Matrix → Matrix} (h : ∀ m, (f m).slots = m.slots) (s : State) (c j : Nat) :
    ((s.modMx c f).core j).mx.slots = (s.core j).mx.slots := by
  rw [State.modMx, State.core_modCore]
  split
  next e => rw [e]; exact h _
  next => rfl

/-- An entry that starts leaves the slots of every array as they are. -/
theorem slots_startEntry (s : State) (c : Nat) (wired : Option (Tab Nat)) (j : Nat) :
    ((startEntry s c wired).core j).mx.slots = (s.core j).mx.slots := by
  unfold startEntry
  dsimp only
  split
  · rfl
  · split <;> exact (congrArg (fun k : Core => k.mx.slots) (State.core_later ..)).trans (slots_modMx (fun _ => by rfl) ..)

theorem tileData_congr {m m' : Matrix} (h : m.slots = m'.slots) (k : Nat) : tileData m k = tileData m' k := by
  rw [tileData, tileData, Matrix.slot?, Matrix.slot?, h]

theorem jointStart : Sys2Proof.Claims.JointStart := by
  intro s c cs y e rest hrow hq hi
  refine ⟨?_, fun wired => ⟨multiplyRun s c e y 12 wired, ?_, rfl, rfl, rfl⟩⟩
  · show execJointOperationStart c s = _
    simp only [execJointOperationStart, hrow, hq, hi]
    refine congrArg _ (foldl_congr_of_kept (P := fun t => (t.core c).mx.slots = (s.core c).mx.slots) (fun t c' ht => ?_)
      (fun t c' ht => ?_) cs _ (slots_startEntry ..))
    · rw [slots_startEntry, mx_modCore fun _ => by rfl, mx_modCore fun _ => by rfl, ht]
    · rw [tileData_congr ht]
  · rw [startEntry_multiply hq (.inr (.inl ⟨hi, rfl⟩)), mx_multiplyStarted]

/-! The lists of the roles (R247) -/

theorem roleList_setRole (ci : Cistern) (r r' : Role) (l : List Nat) :
    roleList (setRole ci r l) r' = if r' = r then l else roleList ci r' := by
  cases r <;> cases r' <;> rfl

theorem roleList_setMove (ci : Cistern) (mv : Option Move) (r : Role) : roleList { ci with move := mv } r = roleList ci r := by
  cases r <;> rfl

theorem roleList_moveBanks (ci : Cistern) (m : Move) (n : Nat) (h : m.donor ≠ m.recv) (r : Role) : roleList (moveBanks ci m n) r =
    if r = m.recv then
      (roleList ci m.recv).take (if m.recv = .scr then (roleList ci m.recv).length - n else (roleList ci m.recv).length) ++
        (roleList ci m.donor).drop ((roleList ci m.donor).length - m.k) ++
        (roleList ci m.recv).drop (if m.recv = .scr then (roleList ci m.recv).length - n else (roleList ci m.recv).length)
    else if r = m.donor then (roleList ci m.donor).take ((roleList ci m.donor).length - m.k)
    else roleList ci r := by
  simp only [moveBanks, roleList_setRole, if_neg h.symm]

/-! Rebuild changes no cycle, and what it asks of the banks changes no list (R256) -/

theorem core_handshake_keeps {α : Type} (g : Core → α) (h : ∀ k b, g { k with banks := b } = g k) (s : State) (core : Nat)
    (rows : Tab Nat) (c : Nat) : g ((handshake s core rows).core c) = g (s.core c) := by
  refine foldl_keeps _ (fun s : State => g (s.core c)) (fun s e => ?_) rows s
  rw [askBank, State.core_modCore]
  split
  next hc => rw [h, hc]
  next => rfl

theorem handshake_keeps {α : Type} (g : State → α) (h : ∀ s c f, g (State.modCore s c f) = g s) (s : State) (core : Nat)
    (rows : Tab Nat) : g (handshake s core rows) = g s :=
  foldl_keeps (fun s (e : Nat × Nat) => askBank s core e.1 ⟨.core, .handshake, e.2⟩) g
    (fun _ _ => by rw [askBank, h]) rows s

theorem now_relayout (s : State) (c : Nat) (from_ to_ : List Nat) : (relayout s c from_ to_).1.now = s.now := by
  unfold relayout
  exact foldl_keeps _ (fun st : State × Nat × Tab Nat => st.1.now) (fun _ _ => by rfl) (teamsOf s c) (s, 0, [])

theorem now_cacDrop (s : State) (c line : Nat) : (cacDrop s c line).now = s.now :=
  (congrArg State.now (besideSlices_cacDrop s c line) :)

theorem now_rebuildCac (s : State) (core : Nat) (from_ to_ : List Nat) : (rebuildCac s core from_ to_).1.now = s.now :=
  foldl_keeps (fun s (e : Nat × CacLine) => cacDrop s core e.2.line) State.now (fun s e => now_cacDrop s core e.2.line) _ s

theorem now_fst_ite {p : Prop} [Decidable p] {x : State × Tab Nat} (h : x.1.now = s.now) : (if p then x else (s, [])).1.now = s.now := by
  split
  · exact h
  · rfl

theorem now_rebuild (s : State) (core : Nat) (m : Move) : (rebuild s core m).1.now = s.now :=
  (now_fst_ite (now_rebuildCac ..)).trans (now_fst_ite (now_relayout ..))

/-! The phases of a move (R254) -/

theorem ends_of_due {d now : Nat} {p : Phase} (hp : m.phase = p) (hd : m.due = some d) (h : d ≤ now) : m.ends now p = true := by
  simp [Move.ends, hp, hd, h]

/-- The state in which a move has switched the lists. -/
def switched (s : State) (core : Nat) (m : Move) : State :=
  (s.modCore core (fun k => { k with ci := { moveBanks k.ci m k.mx.n with
    move := some { m with phase := .switch, due := some (s.now + 4) } } })).later 4 (.event (.moveRebuild core))

theorem exec_moveSwitch (hm : (s.core core).ci.move = some m) (he : m.ends s.now .prepare = true) (hw : m.wait = false)
    (ht : m.tiles = []) : exec (.moveSwitch core) s = .next (switched s core m) := by
  show execMoveSwitch core s = _
  unfold execMoveSwitch
  rw [hm]
  exact congrArg Host.Outcome.next (if_pos ⟨he, hw, ht⟩)

theorem ci_switched (s : State) (core : Nat) (m : Move) : ((switched s core m).core core).ci =
    { moveBanks (s.core core).ci m (s.core core).mx.n with move := some { m with phase := .switch, due := some (s.now + 4) } } := by
  rw [switched, State.core_later, State.core_modCore_self]

/-- The state in which the banks move the rows of a Rebuild. -/
def rebuilding (s : State) (core : Nat) (m : Move) : State :=
  handshake ((rebuild s core m).1.modCi core (fun ci => { ci with
    move := some { m with phase := .rebuild, due := some (s.now + 4 * largest (rebuild s core m).2) } })) core (rebuild s core m).2

theorem exec_moveRebuild (hm : (s.core core).ci.move = some m) (he : m.ends s.now .switch = true) : exec (.moveRebuild core) s =
    .next (if largest (rebuild s core m).2 = 0 then (rebuilding s core m).soon (.event (.moveComplete core))
      else (rebuilding s core m).later (4 * largest (rebuild s core m).2) (.event (.moveComplete core))) := by
  show execMoveRebuild core s = _
  unfold execMoveRebuild
  rw [hm]
  exact congrArg Host.Outcome.next (if_pos he)

theorem move_rebuilding (s : State) (core : Nat) (m : Move) : ((rebuilding s core m).core core).ci.move =
    some { m with phase := .rebuild, due := some (s.now + 4 * largest (rebuild s core m).2) } := by
  rw [rebuilding, core_handshake_keeps (fun k => k.ci.move) fun _ _ => rfl, State.core_modCi_self]

theorem now_rebuilding (s : State) (core : Nat) (m : Move) : (rebuilding s core m).now = s.now :=
  (handshake_keeps State.now (fun _ _ _ => rfl) ..).trans (now_rebuild s core m)

/-- The state in which a move is over, with an outcome for POOLW. -/
def moveOver (s : State) (core : Nat) (m : Move) (code : Nat) : State :=
  (s.modCi core (fun ci => { ci with move := none })).modTeam m.team (fun t => { t with poolw := some code })

theorem isSome_team_modTeam (s : State) (k j : Nat) (f : Team → Team) : ((s.modTeam k f).team? j).isSome = (s.team? j).isSome := by
  rw [State.team_modTeam]
  split
  next h => rw [Option.isSome_map, h]
  next => rfl

theorem endMove_of_present (h : ∀ key, (s.core core).mx.holder = some key → (s.team? key).isSome = true) (m : Move) (code : Nat) :
    endMove s core m code = moveOver s core m code := by
  refine freeGone_of_present (s := moveOver s core m code) fun key hk => ?_
  rw [moveOver, State.core_modTeam, State.core_modCi_self] at hk
  rw [moveOver, isSome_team_modTeam]
  exact h key hk

theorem movePhases : Sys2Proof.Claims.MovePhases := by
  refine ⟨fun s core b d hr hd => ?_, ?_, ?_, ?_, fun s core m hm hw hp hh => ?_⟩
  · show execRelocationComplete core s = _
    simp only [execRelocationComplete, hr, if_pos hd]
  · intro s core m d hm hp hdue hd hw ht hne ci from_ dest keep
    refine ⟨_, exec_moveSwitch hm (ends_of_due hp hdue hd) hw ht, rfl, ?_⟩
    rw [ci_switched]
    refine ⟨rfl, ?_, ?_, fun r h1 h2 => ?_, State.mem_later ..⟩
    · rw [roleList_setMove, roleList_moveBanks _ _ _ hne, if_neg hne, if_pos rfl]
    · rw [roleList_setMove, roleList_moveBanks _ _ _ hne, if_pos rfl]
    · rw [roleList_setMove, roleList_moveBanks _ _ _ hne, if_neg h2, if_neg h1]
  · intro s core m d hm hp hdue hd q
    refine ⟨_, exec_moveRebuild hm (ends_of_due hp hdue hd), ?_, fun h0 => ?_, fun h0 => ?_⟩
    · split
      · exact move_rebuilding s core m
      · exact move_rebuilding s core m
    · rw [if_pos h0]
      exact State.mem_soon ..
    · rw [if_neg h0, ← now_rebuilding s core m]
      exact State.mem_later ..
  · intro s core m tm d hm hp hdue hd ht hholder
    have hexec : exec (.moveComplete core) s = .next (moveOver s core m 0) := by
      show execMoveComplete core s = _
      rw [execMoveComplete, hm, ← endMove_of_present hholder]
      exact congrArg Host.Outcome.next (if_pos (ends_of_due hp hdue hd))
    have hci : ((moveOver s core m 0).core core).ci = { (s.core core).ci with move := none } := by
      rw [moveOver, State.core_modTeam, State.core_modCi_self]
    refine ⟨_, { tm with poolw := some 0 }, hexec, rfl, by rw [hci], fun r => by rw [hci, roleList_setMove], ?_, rfl⟩
    rw [moveOver, State.team_modTeam_self, State.team_modCi, ht, Option.map_some]
  · show execMoveWaitRelease core s = _
    simp [execMoveWaitRelease, hm, hw, hp, hh]

/-! The lists' return (R248) -/

theorem listsReturn : Sys2Proof.Claims.ListsReturn := by
  intro s core h
  have hexec : exec (.roleListReturn core) s = .next ((writebackAll s core).modCore core (fun k => { k with
      ci := { k.ci with reg := Cistern.initial.reg, scr := Cistern.initial.scr, cac := Cistern.initial.cac,
                        til := Cistern.initial.til, lines := [], tiles := [] },
      limit := 128, returning := false })) :=
    congrArg Host.Outcome.next (if_neg (by simp [h]))
  refine ⟨_, hexec, ?_⟩
  rw [State.core_modCore_self]
  exact ⟨rfl, rfl, rfl, rfl, rfl, rfl, rfl⟩

end

/-- Settles O33: a window's read, a joint start, each phase of a move and the lists' return do what their rules say. -/
theorem multicastAndMoves : Obligations.MulticastAndMoves := ⟨windowRead, jointStart, movePhases, listsReturn⟩

end Sys2Proof.Safety
end

section
/-! Barriers (O23): the arrival of a group at BAR, and what BARC, GBAR and VOTEG arrive with. -/

open Sys2Proof Sys2Proof.Machine
namespace Sys2Proof.Safety

/-! Arrivals (R203, R204) -/

/-- A team with one more arrival. -/
def withArrival (a : Arrival) (t : Team) : Team := { t with arrivals := t.arrivals ++ [a] }

theorem clearKind_withArrival (a : Arrival) (t : Team) : (withArrival a t).clearKind a.kind = t.clearKind a.kind := by
  simp [withArrival, Team.clearKind]

theorem hasArrived_withArrival (a : Arrival) (t : Team) (k : BarKind) (u : Nat) :
    hasArrived (withArrival a t) k u = (hasArrived t k u || decide (a.kind = k) && decide (a.unit = u)) := by
  simp [hasArrived, withArrival]

/-- The last arrival of a kind makes its team arrive at it. -/
theorem teamArrived_withArrival {a : Arrival} {t : Team} (h : ∀ g ∈ t.groups, g ≠ a.unit → hasArrived t a.kind g = true) :
    teamArrived (withArrival a t) a.kind = true := by
  refine List.all_eq_true.2 fun g hg => ?_
  rw [hasArrived_withArrival]
  by_cases e : g = a.unit
  · simp [e]
  · simp [h g hg e]

section
variable {s : State} {u key : Nat} {un : UnitSt} {t : Team} {k : BarKind}

/-- A release clears the arrivals of its kind, the last one with them. -/
theorem releaseTeam_withArrival {a : Arrival} (ht : s.team? key = some t) (n : Nat) (eff : State → Nat → Word → Mask → State) :
    releaseTeam (s.modTeam key (withArrival a)) key a.kind n eff = releaseTeam s key a.kind n eff := by
  have htwice : (s.modTeam key (withArrival a)).modTeam key (·.clearKind a.kind) = s.modTeam key (·.clearKind a.kind) := by
    simp only [State.modTeam, Tab.modify_modify, clearKind_withArrival]
  rw [releaseTeam, State.team_modTeam_self, releaseTeam, ht, Option.map_some]
  dsimp only
  rw [htwice]
  rfl

/-- A group with a live lane that does not wait has not arrived. -/
theorem groupArrive_of_absent (hu : s.unit? u = some un) (h : waitingMask un k ≠ un.liveLanes) : groupArrive s u k = s := by
  rw [groupArrive, hu]
  dsimp only
  cases s.team? un.at_.team with
  | none => rfl
  | some t => exact if_pos (.inr (.inr h))

/-- The arrival of a group at BAR in its cycle. -/
def barArrival (s : State) (u : Nat) (un : UnitSt) : Arrival :=
  let ws := waitingAt un .bar
  let rect := match ws with | e :: _ => e.2.1 | [] => 0
  { kind := .bar, unit := u, rect := rect, pc := (match ws with | e :: _ => e.2.2.2.pc | [] => 0),
    vote := if rect.getLsbD 0 then ws.all (fun e => e.2.1.getLsbD 1) else ws.any (fun e => e.2.1.getLsbD 1), cycle := s.now }

/-- A group all of whose live lanes wait at BAR, with no access outstanding, arrives. -/
theorem groupArrive_bar (hu : s.unit? u = some un) (ht : s.team? un.at_.team = some t) (hl : un.liveLanes ≠ 0)
    (hnew : hasArrived t .bar u = false) (hall : waitingMask un .bar = un.liveLanes) (ho : outstanding un = []) :
    groupArrive s u .bar = teamCheck (s.modTeam un.at_.team (withArrival (barArrival s u un))) un.at_.team .bar := by
  rw [groupArrive, hu]
  dsimp only
  rw [ht]
  dsimp only
  rw [if_neg (by simpa [hnew, hall] using hl), if_neg (not_not.2 ho), if_neg (fun h => nomatch h.1)]
  rfl

/-- The last group of a team to arrive at BAR releases it. -/
theorem groupArrive_bar_last (hu : s.unit? u = some un) (ht : s.team? un.at_.team = some t) (hl : un.liveLanes ≠ 0)
    (hnew : hasArrived t .bar u = false) (hall : waitingMask un .bar = un.liveLanes) (ho : outstanding un = [])
    (hmem : u ∈ t.groups) (hothers : ∀ g ∈ t.groups, g ≠ u → hasArrived t .bar g = true) :
    groupArrive s u .bar = releaseTeam s un.at_.team .bar (s.now + 2) (fun s _ _ _ => s) := by
  have harrived : teamArrived (withArrival (barArrival s u un) t) .bar = true :=
    teamArrived_withArrival (a := barArrival s u un) hothers
  have hgroups : (withArrival (barArrival s u un) t).groups ≠ [] := List.ne_nil_of_mem hmem
  rw [groupArrive_bar hu ht hl hnew hall ho, teamCheck, State.team_modTeam_self, ht, Option.map_some]
  dsimp only
  rw [if_neg (by simp [harrived, hgroups])]
  exact releaseTeam_withArrival (a := barArrival s u un) ht _ _

end

theorem teamBarrier : Sys2Proof.Claims.TeamBarrier := by
  intro y s c t un h ht s1 hu hl hteam ho
  have hexec : exec (.bar y) s = .next (groupArrive s1 c.u .bar) := (issue_of_acts h _ : execBar y s = _)
  have ht1 : s1.team? un.at_.team = some t := hteam ▸ ht
  refine ⟨fun hw => ?_, fun hw hmem hnew hothers => ?_⟩
  · rw [hexec, groupArrive_of_absent hu hw]
  · rw [hexec, groupArrive_bar_last hu ht1 hl hnew hw ho hmem hothers, hteam]
    rfl

/-! The arrivals of BARC, GBAR and VOTEG (R205, R207) -/

theorem fullRect_eq (k : Cluster) (w : Nat) : fullRect k w = if w = 0 then 256 * k.w + 4096 * k.h else w := by
  rw [fullRect, Nat.mul_comm k.w, Nat.mul_comm k.h]

section
variable {s : State} {c : Issue}

theorem execBarc_of_ok {y : SrcA} {t : Team} {k : Cluster} {w rect : Nat} (h : Acts (.barc y) s c)
    (ht : s.team? c.un.at_.team = some t) (hk : s.cluster? t.cluster = some k) (hw : (c.word s c.low y.a).toNat = w)
    (hrect : fullRect k w = rect) (hok : w = 0 ∨ rectOk k w t.pos = true) (hwait : ∀ x ∈ waitingAt c.un .barc, x.2.1.toNat = rect)
    (hfirst : ∀ a, firstBarc t = some a → a.rect.toNat = rect) :
    execBarc y s = .next (waitBarrier c (popAll (releaseCac s c.un) c.u c.instr) .barc (w32 rect)) := by
  have hlegal : rectOk k w t.pos = true := hok.elim (fun h0 => by simp [h0, rectOk]) id
  have hsame : (waitingAt c.un .barc).any (fun e => decide (e.2.1.toNat ≠ rect)) = false :=
    List.any_eq_false.2 fun x hx => by simp [hwait x hx]
  have hone : (match firstBarc t with | some a => decide (a.rect.toNat ≠ rect) | none => false) = false := by
    cases hf : firstBarc t with
    | none => rfl
    | some a => simp [hfirst a hf]
  rw [execBarc, issue_of_acts h]
  refine congrArg _ ?_
  simp only [ht, hk, hw, hrect]
  refine if_neg ?_
  rintro (hbad | hbad | hbad)
  · simp [hlegal] at hbad
  · exact Bool.false_ne_true (hsame.symm.trans hbad)
  · exact Bool.false_ne_true (hone.symm.trans hbad)

theorem execGbar_of_superstep {y : DstD} (h : Acts (.gbar y) s c) (hs : superCount s c.un ≠ none) :
    execGbar y s = .next (waitBarrier c (releaseCac s c.un) .gbar (match y.d with | .s n => w32 (256 + n.val) | _ => 0)) := by
  rw [execGbar, issue_of_acts h]
  exact congrArg _ (if_neg (by simpa using hs))

/-- The group's vote at VOTEG: whether the predicate holds in all its lanes, or in one. -/
def groupVote (y : Vote) (c : Issue) : Bool :=
  if y.inv then (lanesOf c.lanes).all (readP c.un y.pa) else (lanesOf c.lanes).any (readP c.un y.pa)

theorem groupVote_eq (y : Vote) (c : Issue) : groupVote y c =
    if y.inv then decide (predMask c.un y.pa &&& c.lanes = c.lanes) else decide (predMask c.un y.pa &&& c.lanes ≠ 0) := by
  have hon : predMask c.un y.pa &&& c.lanes = voters c y.pa false := BitVec.and_comm ..
  have hall := voters_eq_lanes_iff c y.pa false
  have hnone := voters_eq_zero_iff c y.pa false
  simp only [Bool.xor_false] at hall hnone
  rw [groupVote, hon]
  split
  · exact Bool.eq_iff_iff.2 (by simp [hall])
  · refine Bool.eq_iff_iff.2 ?_
    rw [decide_eq_true_iff, ne_eq, hnone]
    simp

theorem execVoteg_of_superstep {y : Vote} (h : Acts (.voteg y) s c) (hs : superCount s c.un ≠ none) :
    execVoteg y s = .next (waitBarrier c (releaseCac s c.un) .voteg (w32 (b2n y.inv + 2 * b2n (groupVote y c) + 16 * y.pd.val))) := by
  rw [execVoteg, issue_of_acts h, groupVote_eq]
  exact congrArg _ (if_neg (by simpa using hs))

end

theorem clusterAndGridArrive : Sys2Proof.Claims.ClusterAndGridArrive := by
  refine ⟨?_, ?_, ?_, ?_⟩
  · intro y s c t k h ht hk w rect hok hwait hfirst
    exact execBarc_of_ok h ht hk rfl (fullRect_eq ..) hok hwait hfirst
  · intro y s c n h hs hd
    refine (execGbar_of_superstep h hs).trans ?_
    rw [hd]
    rfl
  · intro y s c h hs hd
    refine (execGbar_of_superstep h hs).trans ?_
    cases hy : y.d with
    | s n => exact absurd hy (hd n)
    | _ => rfl
  · intro y s c h hs
    exact execVoteg_of_superstep h hs

/-- Settles O23: the last group of a team to arrive at BAR releases it, and the other barriers arrive with the word of their rule. -/
theorem barriersArrive : Obligations.BarriersArrive := ⟨teamBarrier, clusterAndGridArrive⟩

end Sys2Proof.Safety
end

section
/-! Full/empty bits and the chaining of ports (O24). -/

open Sys2Proof Sys2Proof.Machine
namespace Sys2Proof.Safety

/-! SETE and SETF (R209) -/

theorem putUnit_putUnit (s : State) (u : Nat) (x y : UnitSt) : (s.putUnit u x).putUnit u y = s.putUnit u y := by
  simp [State.putUnit]

/-- A write that makes no producer pending leaves settled registers settled. -/
theorem feOf_setFe_ne_pending {un : UnitSt} {o : Operand} (h : feOf un o ≠ .pending) (d : Operand) {f : Fe} (hf : f ≠ .pending) :
    feOf (setFe un d f) o ≠ .pending := by
  cases d with
  | v n =>
    cases o with
    | v k =>
      simp only [feOf, setFe, Tab.get_set] at h ⊢
      split
      · exact hf
      · exact h
    | _ => exact h
  | s n =>
    cases o with
    | s k =>
      simp only [feOf, setFe, Tab.get_set] at h ⊢
      split
      · exact hf
      · exact h
    | _ => exact h
  | _ => exact h

section
variable {x : Issue} {d : Operand} {f : UnitSt → Operand → UnitSt}
  (hf : ∀ un o o', feOf un o' ≠ .pending → feOf (f un o) o' ≠ .pending)
include hf

/-- The last m registers of a span of which none is pending are treated in turn. -/
theorem treatSpan_putUnit (s : State) (n : Nat) : ∀ m ≤ n, ∀ un, (∀ j < n, feOf un (Operand.next d j) ≠ .pending) →
    treatSpan x d n f m (s.putUnit x.u un) = finish x (s.putUnit x.u (((List.range' (n - m) m).map (Operand.next d)).foldl f un))
  | 0, _, _, _ => rfl
  | m + 1, hm, un, h => by
    have hrest := treatSpan_putUnit s n m (by omega) (f un (Operand.next d (n - (m + 1)))) fun j hj => hf _ _ _ (h j hj)
    rw [treatSpan, State.unit_putUnit_self]
    dsimp only
    rw [if_neg (h _ (by omega)), putUnit_putUnit, hrest, List.range'_succ, List.map_cons, List.foldl_cons,
      show n - (m + 1) + 1 = n - m by omega]

/-- A span of which no register is pending is treated as a whole. -/
theorem treatSpan_of_settled {s : State} {un : UnitSt} {n : Nat} (hu : s.unit? x.u = some un) (hn : 0 < n)
    (h : ∀ o ∈ (List.range n).map (Operand.next d), feOf un o ≠ .pending) :
    treatSpan x d n f n s = finish x (s.putUnit x.u (((List.range n).map (Operand.next d)).foldl f un)) := by
  obtain ⟨m, rfl⟩ : ∃ m, n = m + 1 := ⟨n - 1, by omega⟩
  have hj (j : Nat) (hlt : j < m + 1) : feOf un (Operand.next d j) ≠ .pending := h _ (List.mem_map_of_mem (List.mem_range.2 hlt))
  have hrest := treatSpan_putUnit (x := x) hf s (m + 1) m (by omega) (f un (Operand.next d 0)) fun j hlt => hf _ _ _ (hj j hlt)
  rw [treatSpan, hu]
  dsimp only
  rw [Nat.sub_self, if_neg (hj 0 (by omega)), hrest, List.range_eq_range', List.range'_succ, List.map_cons, List.foldl_cons,
    Nat.add_sub_cancel_left]

end

theorem fullAndEmpty : Sys2Proof.Claims.FullAndEmpty := by
  unfold Claims.FullAndEmpty
  intro span
  refine ⟨fun y s c h h0 hspan => ?_, fun y s c h h0 hspan => ?_⟩
  · have hkeep (un : UnitSt) (o o' : Operand) (ho : feOf un o' ≠ .pending) : feOf (setFe un o .empty) o' ≠ .pending :=
      feOf_setFe_ne_pending ho o nofun
    refine (issue_of_acts h _ : execSete y s = _).trans (congrArg (fun t => Host.Outcome.next (offerFills t c.un)) ?_)
    rw [h0]
    exact treatSpan_of_settled hkeep (of_acts h).1 (Nat.succ_pos _) hspan
  · have hkeep (un : UnitSt) (o o' : Operand) (ho : feOf un o' ≠ .pending) :
        feOf (if feOf un o = .empty then setFe un o .full else un) o' ≠ .pending := by
      split
      · exact feOf_setFe_ne_pending ho o nofun
      · exact ho
    refine (issue_of_acts h _ : execSetf y s = _).trans (congrArg _ ?_)
    rw [h0]
    exact treatSpan_of_settled hkeep (of_acts h).1 (Nat.succ_pos _) hspan

/-! CHAIN (R210) -/

section
variable {y : Un (Fin 8)} {s : State} {c : Issue} {w : Nat} (h : Acts (.chain y) s c) (hw : (c.word s c.low y.a).toNat = w)

/-- The state after a CHAIN that gives its status, and the unit it binds. -/
def chained (y : Un (Fin 8)) (s : State) (c : Issue) (r : Nat × Option Nat) : State :=
  let s1 := unbindSend s c.u (2 * y.m.val + 1)
  finish c (writeOp (match r.2 with | some v => bindPorts s1 c.u v y.m.val | none => s1) c.u y.d c.lanes (fun _ => w32 r.1))

/-- The kind of an endpoint word is its quotient by 2^30. -/
theorem bits_kind {w : Nat} (hw : w < 2 ^ 32) : bits w 31 30 = w / 2 ^ 30 :=
  Nat.mod_eq_of_lt (by omega : w / 2 ^ 30 < 2 ^ 2)

include h hw

theorem execChain_eq : execChain y s = .next (if w / 2 ^ 30 = 2 ∧ 12 ≤ w % 16 then trapHere s c.u c.e causeIllegalOp
    else chained y s c (if w / 2 ^ 30 = 0 then (if w = 0 then 0 else 2, none)
      else chainTarget (unbindSend s c.u (2 * y.m.val + 1)) c.un y.m.val w)) := by
  have hkind : bits w 31 30 = w / 2 ^ 30 := bits_kind (hw ▸ (c.word s c.low y.a).isLt)
  have hlow : bits w 3 0 = w % 16 := congrArg (· % 16) (Nat.div_one w)
  rw [execChain, issue_of_acts h]
  simp only [hw, hkind, hlow]
  rfl

/-- A word of kind 0 unbinds where it is zero, and names nothing otherwise. -/
theorem execChain_of_kind_zero (hlt : w < 2 ^ 30) : execChain y s = .next (chained y s c (if w = 0 then 0 else 2, none)) := by
  rw [execChain_eq h hw, if_neg (by omega), if_pos (by omega)]

theorem execChain_of_named (hle : 2 ^ 30 ≤ w) (hlegal : ¬ (w / 2 ^ 30 = 2 ∧ 12 ≤ w % 16)) {r : Nat × Option Nat}
    (hr : chainTarget (unbindSend s c.u (2 * y.m.val + 1)) c.un y.m.val w = r) : execChain y s = .next (chained y s c r) := by
  rw [execChain_eq h hw, if_neg hlegal, if_neg (by omega), hr]

end

theorem portChain : Sys2Proof.Claims.PortChain := by
  intro y s c h w s1 ends
  refine ⟨fun h0 => ?_, fun hpos hlt => ?_, fun hle hlegal => ?_, fun hkind hcol => ?_⟩
  · refine (execChain_of_kind_zero h rfl (by omega)).trans ?_
    rw [if_pos h0]
    rfl
  · refine (execChain_of_kind_zero h rfl hlt).trans ?_
    rw [if_neg (Nat.ne_of_gt hpos)]
    rfl
  · refine ⟨fun v hv => (execChain_of_named h rfl hle hlegal hv).trans ?_,
      fun k hv => (execChain_of_named h rfl hle hlegal hv).trans ?_⟩
    · rfl
    · rfl
  · exact (execChain_eq h rfl).trans (congrArg _ (if_pos ⟨hkind, hcol⟩))

/-- Settles O24: a settled span is emptied or filled as a whole, and CHAIN gives the status of its word. -/
theorem fullEmptyAndPorts : Obligations.FullEmptyAndPorts := ⟨fullAndEmpty, portChain⟩

end Sys2Proof.Safety
end

section
/-! Task queues and gathering (O25): ENQ, LAUNCH and DEQ, MIGR and RETS. -/

open Sys2Proof Sys2Proof.Machine
namespace Sys2Proof.Safety

/-- The translation of an address enters the unit's first-level TLB. -/
def translationFilled (s : State) (un : UnitSt) (adr : DWord) : State :=
  match lookup s un false adr.toNat with
  | some t => fillFirst s un false t
  | none => s

/-- A queue instruction gives its status. -/
def queueAnswer (s : State) (c : Issue) (y : Mem QueueMod) (code : Nat) : State :=
  finish c (writeOp s c.u y.d c.lanes (fun _ => w32 code))

/-- The queue that ENQ names cannot be used; LAUNCH names none. -/
def unusable (s : State) (ctx : Nat) : Option Nat → Bool
  | some n => !enqQueue s ctx n
  | none => false

/-- The state in which ENQ and LAUNCH judge the record at a place. -/
def recordRead (s : State) (c : Issue) (pa : Nat) (adr : DWord) : State :=
  translationFilled (obtainRead (clearPass c (releaseCac s c.un)) pa) c.un adr

section
variable {i : Instr} {s : State} {c : Issue} {y : Mem QueueMod} {q : Option Nat} {pa : Nat} {adr : DWord}

/-! ENQ and LAUNCH (R216) -/

/-- A fresh submission, outside the compute phase and at an aligned address, is judged there. -/
theorem submit_of_fresh (h : Acts i s c) (h0 : c.sp.stage = 0) (hdepth : depthOf s c.un ≠ 15) (hphase : computePhase s c.un = false)
    (hadr : wideAddr y.base y.s y.off y.m.a64 s c c.low = adr) (hal : adr.toNat % 64 = 0) :
    submit i s y q = .next (submitAt c s y q adr) := by
  rw [submit, issue_of_acts h]
  simp only [h0, globalAddr_eq_wideAddr, hadr, hphase, hal, if_neg hdepth]
  rfl

/-- A record that passes its checks is refused for its queue, then for itself, and else takes a slot. -/
theorem submitAt_of_ok (hck : checkLane s c c.sp .glob true false adr 64 = .ok (.glob pa)) :
    submitAt c s y q adr =
      let s1 := recordRead s c pa adr
      let bs := rdPlaces s1 (.glob pa) 64
      if unusable s1 c.un.at_.ctx q then queueAnswer s1 c y 2
      else if (parseTask bs).bad then queueAnswer s1 c y 3
      else takeStep c s1 y q bs false := by
  simp only [submitAt, hck]
  rfl

theorem takeStep_of_slot {bs : List Byte} {slot : Slot} (h : takeSlot s c.un q (depthOf s c.un + 1) = some slot) (parked : Bool) :
    takeStep c s y q bs parked = queueAnswer (acceptTask s c.un q (depthOf s c.un + 1) (parseTask bs) slot) c y 0 := by
  simp only [takeStep, h]
  rfl

theorem takeStep_of_full {bs : List Byte} (h : takeSlot s c.un q (depthOf s c.un + 1) = none) (hnb : y.m.nb = true) (parked : Bool) :
    takeStep c s y q bs parked = queueAnswer (countFull s) c y 1 := by
  simp only [takeStep, h, hnb]
  rfl

theorem unusable_eq_false {ctx : Nat} (h : ∀ n, q = some n → enqQueue s ctx n = true) : unusable s ctx q = false := by
  cases q with
  | none => rfl
  | some n => simp [unusable, h n rfl]

/-! DEQ (R217) -/

/-- The state in which DEQ looks at the head of its queue, which is the model's choice of log 68. -/
def headRead (s : State) (c : Issue) (y : Mem QueueMod) (adr : DWord) : State :=
  let s0 := translationFilled (clearPass c (releaseCac s c.un)) c.un adr
  match queue? s0 c.un.at_.ctx y.m.queue.val with
  | some z => obtainVirt s0 c.un.at_.ctx (z.slotAt z.head) 64
  | none => s0

/-- The head with status 0 is stored at a place and leaves its queue; any other stays. -/
def headTaken (s : State) (c : Issue) (y : Mem QueueMod) (pa : Nat) (r : Nat × List Byte) : State :=
  if r.1 = 0 then removeHead (storeNow s c.un pa r.2) c.un.at_.ctx y.m.queue.val r.2 else s

theorem execDeq_of_ok (h : Acts (.deq y) s c) (h0 : c.sp.stage = 0) (hphase : computePhase s c.un = false)
    (hadr : wideAddr y.base y.s y.off y.m.a64 s c c.low = adr) (hal : adr.toNat % 64 = 0)
    (hck : checkLane s c c.sp .glob false true adr 64 = .ok (.glob pa)) :
    execDeq y s = .next (
      let s1 := headRead s c y adr
      let r := headOf s1 c.un.at_.ctx y.m.queue.val
      queueAnswer (acquireCac (headTaken s1 c y pa r) c.un) c y r.1) := by
  rw [execDeq, issue_of_acts h]
  simp only [h0, globalAddr_eq_wideAddr, hadr, hphase, hal, dequeueAt, hck]
  rfl

end

theorem queueOps : Sys2Proof.Claims.QueueOps := by
  unfold Claims.QueueOps
  intro at_ ready filled answer submits
  have hsubmit (i : Instr) (y : Mem QueueMod) (q : Option Nat) (hexec : ∀ s, exec i s = submit i s y q) : submits i y q := by
    intro s c pa h hdepth hready s1 r
    obtain ⟨h0, hphase, hal, hck⟩ := hready
    have hrun := (hexec s).trans ((submit_of_fresh h h0 hdepth hphase rfl hal).trans (congrArg _ (submitAt_of_ok hck)))
    refine ⟨?_, fun hq => ?_⟩
    · rintro ⟨n, rfl, hn⟩
      have hun : unusable s1 c.un.at_.ctx (some n) = true := by simp [unusable, hn]
      exact hrun.trans (congrArg _ (if_pos hun))
    · have hun : ¬ unusable s1 c.un.at_.ctx q = true := by simp [unusable_eq_false hq]
      have hjudged := hrun.trans (congrArg _ (if_neg hun))
      refine ⟨fun hbad => hjudged.trans (congrArg _ (if_pos hbad)), fun slot hok hslot => ?_, fun hok hfull hnb => ?_⟩
      · exact hjudged.trans (congrArg _ ((if_neg (Bool.eq_false_iff.1 hok)).trans (takeStep_of_slot hslot false)))
      · exact hjudged.trans (congrArg _ ((if_neg (Bool.eq_false_iff.1 hok)).trans (takeStep_of_full hfull hnb false)))
  refine ⟨fun y => hsubmit _ y _ fun _ => rfl, fun y => hsubmit _ y _ fun _ => rfl, fun y s c pa h hready => ?_⟩
  obtain ⟨h0, hphase, hal, hck⟩ := hready
  exact execDeq_of_ok h h0 hphase rfl hal hck

/-! MIGR (R218, R219) -/

section
variable {s : State} {c : Issue}

/-- The address of the descriptor that MIGR names, in whole numbers. -/
theorem lineBase_add_disp (pc : DWord) (disp : BitVec 20) :
    lineBase pc + disp.signExtend 64 * 64 = BitVec.ofInt 64 ((pc.toNat / 64 * 64 : Nat) + disp.toInt * 64) := by
  have hdisp : disp.signExtend 64 = BitVec.ofInt 64 disp.toInt := rfl
  rw [lineBase, hdisp, BitVec.ofInt_add, BitVec.ofInt_mul, BitVec.ofInt_natCast]
  rfl

/-- No register of a full window is left to wait for. -/
theorem notFull_eq_nil {un : UnitSt} {l : List Operand} (h : ∀ o ∈ l, feOf un o = .full) :
    l.filter (fun o => decide (feOf un o ≠ .full)) = [] :=
  List.filter_eq_nil_iff.2 fun o ho => by simp [h o ho]

/-- The strand is counted as having retired its MIGR and waits, gathered. -/
def strandGathered (s : State) (c : Issue) : State :=
  (park (countRetired (clearPass c s) c.u) c.u c.e .sump 1).modUnit c.u (fun un => { un with mode := .gathered })

/-- What R218 asks of a descriptor: it is of a group and has the record of a migration site. Log 138 uses the record as it stands. -/
def migratesTo (ds : Desc) (j : Nat) : Prop := ds.header = 0x801F ∧ ds.version = 1 ∧ ds.strand = false ∧ j < ds.nmig

theorem execMigr_of_ok {y : Migr} {pa : Nat} {d : DWord} {line : List Byte} {ds : Desc} (h : Acts (.migr y) s c) (hj : y.j.val ≤ 3)
    (hloc : c.sp.loc = false) (hnest : c.un.nest = []) (hd : lineBase c.sp.pc + y.disp.signExtend 64 * 64 = d)
    (hck : checkLane s c c.sp .glob true false d 64 = .ok (.glob pa)) (hline : rdPlaces s (.glob pa) 64 = line)
    (hds : parseDesc line = ds) (hsite : migratesTo ds y.j.val)
    (hfull : ∀ o ∈ windowRegs (ds.sump.getD y.j.val (0, 0, 0, 0)).2.2.1, feOf c.un o = .full) :
    execMigr y s = .next (flushGrid (joinForm (strandGathered (translationFilled (obtainRead s pa) c.un d) c) c.u c.un d y.j.val
      line y.fl) c.un.cell c.un.at_.task) := by
  obtain ⟨hheader, hversion, hstrand, hlt⟩ := hsite
  have hlegal : ¬ (3 < y.j.val ∨ c.sp.loc = true ∨ c.un.nest ≠ []) := by simp [hj, hloc, hnest]
  have hrecord : ¬ (ds.header ≠ 0x801F ∨ ds.version ≠ 1 ∨ ds.strand = true ∨ ds.nmig ≤ y.j.val) := by
    simp [hheader, hversion, hstrand, hlt]
  rw [execMigr, issue_of_acts h]
  simp only [hd, if_neg hlegal, hck, hline, hds, if_neg hrecord, notFull_eq_nil hfull]
  rfl

/-! RETS (R221) -/

/-- The lanes' states have gone back to the strands gathered in a split's lanes, at the group's retired RETS. -/
def strandsReturned (s : State) (c : Issue) (g : Gather) : State :=
  (gatheredIn c.un c.sp.mask).foldl (fun s l => returnStrand s c.un g.b g.n l.1 l.2) (releaseCac (countRetired s c.u) c.un)

theorem execRets_of_full {y : Hint} {g : Gather} (h : Acts (.rets y) s c) (hg : c.un.gather = some g) (hnest : c.un.nest = [])
    (horder : orderWait c.un c.e c.instr = none)
    (hfull : ∀ i < g.n, feOf c.un (.v (Fin.ofNat 1024 (g.b + i))) = .full) :
    execRets y s = .next ((leaveGroup (strandsReturned s c g) c.u c.e).modUnit c.u (fun un => { un with step := endStep un c.e })) := by
  have hnone := notFull_eq_nil (List.forall_mem_map.2 fun i hi => hfull i (List.mem_range.1 hi))
  rw [execRets, issue_of_acts h]
  simp only [hg, hnest, hnone, horder]
  rfl

end

theorem gatherAndReturn : Sys2Proof.Claims.GatherAndReturn := by
  refine ⟨?_, ?_, fun y s c h hg => ?_⟩
  · intro y s c pa h hj hloc hnest d hck s1 line ds hheader hversion hstrand hsite hfull
    exact execMigr_of_ok h hj hloc hnest (lineBase_add_disp ..) hck rfl rfl ⟨hheader, hversion, hstrand, hsite⟩ hfull
  · intro y s c g h hg hnest horder hfull s1
    exact execRets_of_full h hg hnest horder hfull
  · refine (issue_of_acts h _ : execRets y s = _).trans ?_
    simp only [hg]

/-- Settles O25: a queue's record is judged, taken or answered, and a strand is gathered at its MIGR and returned at RETS. -/
theorem queuesAndGathering : Obligations.QueuesAndGathering := ⟨queueOps, gatherAndReturn⟩

end Sys2Proof.Safety
end

section
/-! The placement of the groups that the Sump forms, and the balancing of stage pipelines (O41). -/

open Sys2Proof Sys2Proof.Machine
namespace Sys2Proof.Safety

/-! Folds over numbered elements -/

/-- A list's numbered elements around one of them. -/
theorem zipIdx_eq_append_cons {α : Type} {l : List α} {i : Nat} {x : α} (h : l[i]? = some x) :
    ∃ a b, l.zipIdx = a ++ (x, i) :: b ∧ ∀ e ∈ a ++ b, l[e.2]? = some e.1 ∧ e.2 ≠ i := by
  obtain ⟨hi, rfl⟩ := List.getElem?_eq_some_iff.1 h
  have hlen : i < l.zipIdx.length := by simpa using hi
  refine ⟨l.zipIdx.take i, l.zipIdx.drop (i + 1), ?_, fun e he => ?_⟩
  · have hcons := List.getElem_cons_drop hlen
    rw [List.getElem_zipIdx, Nat.zero_add] at hcons
    rw [hcons, List.take_append_drop]
  · rcases List.mem_append.1 he with he | he
    · obtain ⟨k, hk, rfl⟩ := List.mem_take_iff_getElem.1 he
      simp only [List.length_zipIdx, lt_inf_iff, List.getElem_zipIdx, zero_add, getElem?_eq_some_getElem_iff, ne_eq, true_and] at hk ⊢
      exact hk.1.ne
    · obtain ⟨k, hk, rfl⟩ := List.mem_drop_iff_getElem.1 he
      simp only [List.getElem_zipIdx, zero_add, getElem?_eq_some_getElem_iff, ne_eq, true_and]
      omega

/-- A fold over numbered elements in which the steps at all but one leave the state alone. -/
theorem foldl_zipIdx_of_only {σ α : Type} {f : σ → α × Nat → σ} {l : List α} {i : Nat} {x : α} (h : l[i]? = some x)
    (hne : ∀ k y, l[k]? = some y → k ≠ i → ∀ s, f s (y, k) = s) (s : σ) : l.zipIdx.foldl f s = f s (x, i) := by
  obtain ⟨a, b, hsplit, hothers⟩ := zipIdx_eq_append_cons h
  have hstay (e : α × Nat) (he : e ∈ a ++ b) (s : σ) : f s e = s := hne e.2 e.1 (hothers e he).1 (hothers e he).2 s
  rw [hsplit, List.foldl_append, List.foldl_cons, foldl_eq_self (l := a) fun e he => hstay e (List.mem_append_left b he) s,
    foldl_eq_self (l := b) fun e he => hstay e (List.mem_append_right a he) _]

/-- A fold whose steps each keep a part of the state, at the elements of its list, keeps that part. -/
theorem foldl_keeps_of_mem {σ β α : Type} {f : σ → β → σ} (g : σ → α) {l : List β} (h : ∀ b ∈ l, ∀ s, g (f s b) = g s)
    (s : σ) : g (l.foldl f s) = g s := by
  induction l generalizing s with
  | nil => rfl
  | cons b l ih => rw [List.foldl_cons, ih fun b' hb => h b' (List.mem_cons_of_mem b hb), h b List.mem_cons_self]

/-! Dispatch (R300) -/

theorem mem_insertFormed (f : Forming) (l : List Forming) : f ∈ insertFormed f l := by
  induction l with
  | nil => exact List.mem_singleton_self f
  | cons g l ih =>
    rw [insertFormed]
    split
    · exact List.mem_cons_self
    · exact List.mem_cons_of_mem g ih

section
variable {s : State} {cell k : Nat} {f : Forming}

theorem dispatchForm_of_strands (hf : Tab.find? (s.cell cell).forming k = some f) (hs : f.strands ≠ []) :
    dispatchForm s cell k = s.modCell cell (fun c => { c with
      forming := Tab.del c.forming k, dispatched := insertFormed { f with sent := s.now } c.dispatched }) := by
  simp only [dispatchForm, hf, if_neg hs]

theorem exec_sumpTimeout {tk : Task} (hf : Tab.find? (s.cell cell).forming k = some f) (ht : s.task? f.task = some tk)
    (hrun : (s.die (cell / 24)).frozen = false) (hdue : f.since + sumpWait s tk.ctx + f.paused ≤ s.now)
    (hhalt : formHalted s f = false) : exec (.sumpTimeout cell k) s = .next (dispatchForm s cell k) := by
  show execSumpTimeout cell k s = _
  have hwait : ¬ (s.now < f.since + sumpWait s tk.ctx + f.paused ∨ formHalted s f = true) := by simp [hhalt, hdue]
  simp only [execSumpTimeout, hf, ht, hrun, if_neg hwait]
  rfl

end

/-! The lanes of a gathered group (Table 11-8) -/

/-- What a unit holds for one lane. -/
structure LaneView where
  v : Nat → Word
  p : Fin 16 → Bool
  trapmask : Word
  fpflags : Word
  lfsr : Word

/-- What a unit holds for a lane. -/
def laneView (l : Nat) (un : UnitSt) : LaneView where
  v r := readV un r l
  p p := readP un p l
  trapmask := Tab.get 0 un.ctl.trapmask l
  fpflags := Tab.get 0 un.ctl.fpflags l
  lfsr := Tab.get 0 un.ctl.lfsr l

/-- A lane holds a strand's state, its window in n registers from b on. -/
def LaneView.Holds (x : LaneView) (st : UnitSt) (b n : Nat) : Prop :=
  (∀ i < n, x.v (b + i) = readS st i) ∧ (∀ p : Fin 16, p.val ≠ 15 → x.p p = readP st p 0) ∧
    x.trapmask = Tab.get 0 st.ctl.trapmask 0 ∧ x.fpflags = Tab.get 0 st.ctl.fpflags 0 ∧ x.lfsr = Tab.get 0 st.ctl.lfsr 0

/-- The v registers with a strand's window in a lane. -/
def windowInto (v : Tab Word) (st : UnitSt) (b n l : Nat) : Tab Word :=
  (List.range n).foldl (fun t i => Tab.set 0 t ((b + i) * 32 + l) (readS st i)) v

/-- The predicates with a strand's own in a lane. -/
def predsInto (p : Tab Mask) (st : UnitSt) (l : Nat) : Tab Mask :=
  (List.range 15).foldl (fun t i =>
    if (Tab.get 0 st.regs.p i).getLsbD 0 then Tab.set 0 t i (Tab.get 0 t i ||| BitVec.ofNat 32 (2 ^ l)) else t) p

/-- A unit with a strand's state in a lane. -/
def laneInto (un st : UnitSt) (b n l : Nat) : UnitSt :=
  { un with
    regs := { un.regs with v := windowInto un.regs.v st b n l, p := predsInto un.regs.p st l },
    ctl := { un.ctl with
      trapmask := Tab.set 0 un.ctl.trapmask l (Tab.get 0 st.ctl.trapmask 0),
      fpflags := Tab.set 0 un.ctl.fpflags l (Tab.get 0 st.ctl.fpflags 0),
      lfsr := Tab.set 0 un.ctl.lfsr l (Tab.get 0 st.ctl.lfsr 0) } }

/-- The writes of a strand's window to a lane. -/
def windowWrites (st : UnitSt) (b n l : Nat) : List (Nat × Word) := (List.range n).map fun i => ((b + i) * 32 + l, readS st i)

theorem windowInto_eq (v : Tab Word) (st : UnitSt) (b n l : Nat) :
    windowInto v st b n l = (windowWrites st b n l).foldl (fun m w => Tab.set 0 m w.1 w.2) v := by
  rw [windowWrites, List.foldl_map]
  rfl

section
variable {s : State} {un st : UnitSt} {b n l k : Nat}

theorem get_windowInto_self (v : Tab Word) {i : Nat} (hi : i < n) : Tab.get 0 (windowInto v st b n l) ((b + i) * 32 + l) = readS st i := by
  rw [windowInto_eq]
  refine get_foldl_set_of_mem v (List.mem_map_of_mem (List.mem_range.2 hi)) fun w hw hk => ?_
  obtain ⟨j, -, rfl⟩ := List.mem_map.1 hw
  have hji : j = i := by
    simp only at hk
    omega
  rw [hji]

theorem get_windowInto_ne (v : Tab Word) (hl : l < 32) (hk : k < 32) (h : k ≠ l) (r : Nat) :
    Tab.get 0 (windowInto v st b n l) (r * 32 + k) = Tab.get 0 v (r * 32 + k) := by
  rw [windowInto_eq]
  refine get_foldl_set_of_forall_ne v fun w hw => ?_
  obtain ⟨j, -, rfl⟩ := List.mem_map.1 hw
  simp only
  omega

theorem getLsbD_foldl_setBit (f : Nat → Bool) (is : List Nat) (t : Tab Mask) (j : Nat) (hk : k < 32) :
    (Tab.get 0 (is.foldl (fun t i => if f i then Tab.set 0 t i (Tab.get 0 t i ||| BitVec.ofNat 32 (2 ^ l)) else t) t) j).getLsbD k =
      ((Tab.get 0 t j).getLsbD k || (decide (j ∈ is) && f j && decide (l = k))) := by
  have hbit : (BitVec.ofNat 32 (2 ^ l)).getLsbD k = decide (l = k) := by
    rw [BitVec.getLsbD_ofNat, decide_eq_true hk, Bool.true_and, Nat.testBit_two_pow]
  induction is generalizing t with
  | nil => simp
  | cons i is ih =>
    have hstep : (Tab.get 0 (if f i then Tab.set 0 t i (Tab.get 0 t i ||| BitVec.ofNat 32 (2 ^ l)) else t) j).getLsbD k =
        ((Tab.get 0 t j).getLsbD k || (decide (j = i) && f i && decide (l = k))) := by
      by_cases e : j = i
      · subst e
        cases f j
        · simp
        · rw [if_pos rfl, Tab.get_set_self, BitVec.getLsbD_or, hbit]
          simp
      · cases f i <;> simp [Tab.get_set_ne _ _ _ e, e]
    rw [List.foldl_cons, ih, hstep, Bool.or_assoc]
    by_cases e : j = i
    · subst e
      simp only [Bool.and_assoc]
      cases f j && decide (l = k) <;> simp
    · simp [e]

/-- A lane keeps what the unit holds for it while another lane is filled. -/
theorem laneView_laneInto_ne (hl : l < 32) (hk : k < 32) (h : k ≠ l) : laneView k (laneInto un st b n l) = laneView k un := by
  have hv : (fun r => readV (laneInto un st b n l) r k) = fun r => readV un r k :=
    funext fun r => get_windowInto_ne un.regs.v hl hk h r
  have hp : (fun p => readP (laneInto un st b n l) p k) = fun p => readP un p k := by
    funext p
    have hbit := getLsbD_foldl_setBit (l := l) (fun i => (Tab.get 0 st.regs.p i).getLsbD 0) (List.range 15) un.regs.p p.val hk
    rw [decide_eq_false (Ne.symm h), Bool.and_false, Bool.or_false] at hbit
    exact congrArg (p.val == 15 || ·) hbit
  rw [laneView, hv, hp]
  simp only [laneInto, Tab.get_set_ne _ _ _ h]
  rfl

/-- A lane whose predicates were clear holds its strand's state once it is filled. -/
theorem holds_laneInto_self (hl : l < 32) (hclear : ∀ p : Fin 16, p.val ≠ 15 → (laneView l un).p p = false) :
    (laneView l (laneInto un st b n l)).Holds st b n := by
  refine ⟨fun i hi => get_windowInto_self un.regs.v hi, fun p hp => ?_, Tab.get_set_self .., Tab.get_set_self .., Tab.get_set_self ..⟩
  have hbit := getLsbD_foldl_setBit (l := l) (fun i => (Tab.get 0 st.regs.p i).getLsbD 0) (List.range 15) un.regs.p p.val hl
  have h15 : p.val ∈ List.range 15 := List.mem_range.2 (by omega)
  have hc := hclear p hp
  simp only [laneView, readP, beq_eq_false_iff_ne.2 hp, Bool.false_or] at hc ⊢
  rw [hc, decide_eq_true h15, decide_eq_true rfl, Bool.false_or, Bool.true_and, Bool.and_true] at hbit
  exact hbit

/-- One strand of a formed group is gathered. -/
def gatherStep (s : State) (b n : Nat) (un : UnitSt) (e : Nat × Nat) : UnitSt :=
  match s.unit? e.1 with
  | none => un
  | some st => laneInto un st b n e.2

theorem gatherInto_eq (s : State) (un : UnitSt) (us : List Nat) (b n : Nat) :
    gatherInto s un us b n = us.zipIdx.foldl (gatherStep s b n) un := rfl

theorem gatherStep_keeps {α : Type} (g : UnitSt → α) (h : ∀ un st b n l, g (laneInto un st b n l) = g un) (s : State) (b n : Nat)
    (un : UnitSt) (e : Nat × Nat) : g (gatherStep s b n un e) = g un := by
  unfold gatherStep
  split
  · rfl
  · exact h ..

theorem laneView_gatherStep_ne {e : Nat × Nat} (he : e.2 < 32) (hk : k < 32) (h : e.2 ≠ k) (un : UnitSt) :
    laneView k (gatherStep s b n un e) = laneView k un := by
  unfold gatherStep
  split
  · rfl
  · exact laneView_laneInto_ne he hk h.symm

/-- Each lane of a unit whose predicates were clear holds the state of the strand gathered in it. -/
theorem holds_gatherInto {us : List Nat} {u : Nat} (hu : us[l]? = some u) (hs : s.unit? u = some st) (hlen : us.length ≤ 32)
    (hclear : ∀ p : Fin 16, p.val ≠ 15 → (laneView l un).p p = false) : (laneView l (gatherInto s un us b n)).Holds st b n := by
  have hlt (i v : Nat) (h : us[i]? = some v) : i < 32 := (List.getElem?_eq_some_iff.1 h).1.trans_le hlen
  obtain ⟨xs, ys, hsplit, hothers⟩ := zipIdx_eq_append_cons hu
  have hkeep (e : Nat × Nat) (he : e ∈ xs ++ ys) (un : UnitSt) : laneView l (gatherStep s b n un e) = laneView l un :=
    laneView_gatherStep_ne (hlt _ _ (hothers e he).1) (hlt _ _ hu) (hothers e he).2 un
  have hbefore : laneView l (xs.foldl (gatherStep s b n) un) = laneView l un :=
    foldl_keeps_of_mem _ (fun e he => hkeep e (List.mem_append_left _ he)) un
  have hlane : gatherStep s b n (xs.foldl (gatherStep s b n) un) (u, l) = laneInto (xs.foldl (gatherStep s b n) un) st b n l := by
    simp only [gatherStep, hs]
  rw [gatherInto_eq, hsplit, List.foldl_append, List.foldl_cons,
    foldl_keeps_of_mem _ (fun e he => hkeep e (List.mem_append_right _ he)), hlane]
  exact holds_laneInto_self (hlt _ _ hu) (hbefore ▸ hclear)

theorem running_gatherInto (s : State) (un : UnitSt) (us : List Nat) (b n : Nat) : (gatherInto s un us b n).running = un.running :=
  foldl_keeps _ UnitSt.running (gatherStep_keeps _ (fun _ _ _ _ _ => rfl) s b n) us.zipIdx un

end

/-! Placement (R219) -/

/-- The split with which a unit starts at an address (R14). -/
def startSplit (mask : Mask) (entry : DWord) : Split :=
  { pc := entry, mask := mask, ra := none, join := none, st := .running, wait := none, stage := 0, loc := false, line := none, walked := [],
    skip := 0 }

theorem running_newUnit (at_ : Where) (mask : Mask) (entry : DWord) (args : List Word) (lfsr : Tab Word) (now : Nat) :
    (newUnit at_ mask entry args lfsr now).running = some (0, startSplit mask entry) := rfl

theorem units_invalidateCac (s : State) (c : Nat) : (invalidateCac s c).units = s.units := by
  have h := congrArg State.units (besideSlices_invalidateCac s c)
  exact h

theorem cells_invalidateCac (s : State) (c : Nat) : (invalidateCac s c).cells = s.cells := by
  have h := congrArg State.cells (besideSlices_invalidateCac s c)
  exact h

section
variable {s : State} {cell c : Nat} {r : Room} {f : Forming}

/-- The group dispatched first is placed on the first core of its cell with room, which is the model's choice of log 44. -/
theorem exec_sumpPlace {rest : List Forming} (hq : (s.cell cell).dispatched = f :: rest)
    (hroom : (coresOfCell cell).findSome? (fun c => (roomOn s c (parseDesc f.line) 1).map (fun r => (c, r))) = some (c, r)) :
    exec (.sumpPlace cell) s =
      .next (placeFormed (s.modCell cell (fun x => { x with dispatched := rest })) c r f (parseDesc f.line)) := by
  show execSumpPlace cell s = _
  simp only [execSumpPlace, hq, hroom]

/-- The record of the site at which a group's strands migrated: disp, head, n and b. -/
def siteOf (f : Forming) (d : Desc) : Int × Nat × Nat × Nat := d.sump.getD f.j (0, 0, 0, 0)

/-- The address at which a formed group starts: the line and the head that its record names. -/
def formedEntry (f : Forming) (d : Desc) : DWord :=
  f.desc + BitVec.ofInt 64 ((siteOf f d).1 * 64) + dw (2 * (siteOf f d).2.1)

/-- The lanes of a formed group: one for each strand. -/
def formedMask (f : Forming) : Mask := maskOf (fun l => decide (l < f.strands.length))

/-- The unit of a formed group: a new one with its strands' states in its lanes. -/
def formedUnit (s : State) (at_ : Where) (lfsr : Tab Word) (gather : Option Gather) (f : Forming) (d : Desc) : UnitSt :=
  { gatherInto s (newUnit at_ (formedMask f) (formedEntry f d) [] lfsr s.now) f.strands (siteOf f d).2.2.2 (siteOf f d).2.2.1 with
    gather := gather }

theorem placeFormed_eq (s : State) (c : Nat) (r : Room) (f : Forming) (d : Desc) : ∃ (s' : State) (at_ : Where) (lfsr : Tab Word)
    (gather : Option Gather), placeFormed s c r f d =
        invalidateCac (s'.putUnit (groupUid c (r.groups.headD 0)) (formedUnit s' at_ lfsr gather f d)) c ∧
      s'.units = s.units ∧ s'.cells = s.cells :=
  ⟨_, _, _, _, rfl, rfl, rfl⟩

theorem running_formedUnit (s : State) (at_ : Where) (lfsr : Tab Word) (gather : Option Gather) (f : Forming) (d : Desc) :
    (formedUnit s at_ lfsr gather f d).running = some (0, startSplit (formedMask f) (formedEntry f d)) :=
  (running_gatherInto ..).trans (running_newUnit ..)

theorem holds_formedUnit {l u : Nat} {st : UnitSt} (hu : f.strands[l]? = some u) (hs : s.unit? u = some st) (hlen : f.strands.length ≤ 32)
    (at_ : Where) (lfsr : Tab Word) (gather : Option Gather) (d : Desc) :
    (laneView l (formedUnit s at_ lfsr gather f d)).Holds st (siteOf f d).2.2.2 (siteOf f d).2.2.1 :=
  holds_gatherInto hu hs hlen fun p hp => by simp [laneView, readP, newUnit, Tab.get, hp]

end

theorem sumpGroups : Sys2Proof.Claims.SumpGroups := by
  refine ⟨?_, ?_⟩
  · intro s cell k f tk hf ht hrun hdue hhalt hs
    refine ⟨_, exec_sumpTimeout hf ht hrun hdue hhalt, ?_⟩
    rw [dispatchForm_of_strands hf hs, State.cell_modCell_self]
    exact ⟨Tab.find?_del_self .., mem_insertFormed .., rfl⟩
  · intro s cell f rest c r hq d z n b hroom hlen
    obtain ⟨s', at_, lfsr, gather, hplaced, hunits, hcells⟩ :=
      placeFormed_eq (s.modCell cell (fun x => { x with dispatched := rest })) c r f d
    have hexec := (exec_sumpPlace hq hroom).trans (congrArg _ hplaced)
    refine ⟨_, formedUnit s' at_ lfsr gather f d, startSplit (formedMask f) (formedEntry f d), hexec, ?_, running_formedUnit .., rfl,
      fun l hl => getLsbD_maskOf _ hl, ?_, fun l u st hu hst => ?_⟩
    · rw [State.unit?, units_invalidateCac]
      exact Tab.find?_put_self ..
    · rw [State.cell, cells_invalidateCac, State.putUnit_cells, hcells]
      exact congrArg Cell.dispatched (State.cell_modCell_self ..)
    · have hst' : s'.unit? u = some st := (congrArg (Tab.find? · u) hunits).trans hst
      exact holds_formedUnit hu hst' hlen ..

/-! Samples (R301) -/

/-- The stages of a pipeline with their hot counts after a sample. -/
def sampledStages (s : State) (p : Pipeline) : List PipeStage :=
  p.stages.map (fun g => { g with hot := if g.hi < queueDepth s p.ctx g.queue then g.hot + 1 else 0 })

theorem samplePipe_of_cool {s : State} {die : Nat} {p : Pipeline} (h : ∀ g ∈ sampledStages s p, g.hot < 4) :
    samplePipe s die p = setPipe s die { p with stages := sampledStages s p } := by
  have hcool : (List.range (sampledStages s p).length).filter
      (fun i => decide (4 ≤ ((sampledStages s p).getD i ⟨0, 0, 0, [], 0, []⟩).hot)) = [] := by
    refine List.filter_eq_nil_iff.2 fun i hi => ?_
    have hlt := List.mem_range.1 hi
    rw [List.getD_eq_getElem _ _ hlt, decide_eq_true_iff]
    exact Nat.not_le.2 (h _ (List.getElem_mem hlt))
  unfold samplePipe
  dsimp only
  rw [show p.stages.map _ = sampledStages s p from rfl, hcool]
  rfl

/-! Moves of cores (R301, R341) -/

theorem mem_insertCore {c core : Nat} {l : List Nat} : c ∈ insertCore core l ↔ c = core ∨ c ∈ l := by
  simp only [insertCore, List.mem_append, List.mem_cons, List.mem_filter, decide_eq_true_eq]
  constructor
  · rintro (⟨h, -⟩ | h | ⟨h, -⟩)
    · exact .inr h
    · exact .inl h
    · exact .inr h
  · rintro (h | h)
    · exact .inr (.inl h)
    · rcases Nat.lt_trichotomy c core with hlt | heq | hgt
      · exact .inl ⟨h, hlt⟩
      · exact .inr (.inl heq)
      · exact .inr (.inr ⟨h, hgt⟩)

/-- A stage after a core has moved from one to another. -/
def movedStage (from_ to_ core : Nat) (g : PipeStage × Nat) : PipeStage :=
  if g.2 = from_ then { g.1 with cores := g.1.cores.filter (· ≠ core), leaving := g.1.leaving.filter (fun l => decide (l.1 ≠ core)) }
  else if g.2 = to_ then { g.1 with cores := insertCore core g.1.cores } else g.1

section
variable {s : State} {die i j core : Nat} {p : Pipeline}

theorem die_writeCores (s : State) (ctx i stage : Nat) (cores : List Nat) (d : Nat) :
    (writeCores s ctx i stage cores).die d = s.die d := by
  have h := congrArg (State.die · d) (besideMemory_pokeVirt s ctx (gstateOf s ctx + pipeOffset i + 64 + 32 * stage + 16)
    (coresField cores))
  exact h

theorem pipes_moveCore (hp : (s.die die).pipes = [p]) (from_ to_ : Nat) :
    ((moveCore s die p from_ to_ core).die die).pipes = [{ p with stages := p.stages.zipIdx.map (movedStage from_ to_ core) }] := by
  unfold moveCore
  dsimp only
  rw [foldl_keeps _ (State.die · die) fun s i => by split; exacts [die_writeCores .., rfl]]
  rw [State.die_modDie_self, hp]
  simp only [List.map_cons, List.map_nil, and_self, if_true]
  rfl

theorem movedStage_of_getElem? {g : PipeStage} (h : p.stages[i]? = some g) (from_ to_ : Nat) :
    (p.stages.zipIdx.map (movedStage from_ to_ core))[i]? = some (movedStage from_ to_ core (g, i)) := by
  simp [h]

/-- A marked core that holds no team of its stage, and is marked in no other, moves. -/
theorem exec_deferredMove {g : PipeStage} {l : Nat × Nat} (hp : (s.die die).pipes = [p]) (hi : p.stages[i]? = some g)
    (hl : g.leaving.find? (fun l => decide (l.1 = core)) = some l)
    (hothers : ∀ k h, p.stages[k]? = some h → k ≠ i → ∀ x ∈ h.leaving, x.1 ≠ core)
    (hfree : holdsStage s p.ctx g core = false) : exec (.balancerDeferredMove die core) s = .next (moveCore s die p i l.2 core) := by
  show execBalancerDeferredMove die core s = _
  rw [execBalancerDeferredMove, hp, List.foldl_cons, List.foldl_nil, foldl_zipIdx_of_only hi]
  · simp only [hl, hfree]
    rfl
  · intro k h hk hne s
    have hnone : h.leaving.find? (fun l => decide (l.1 = core)) = none :=
      List.find?_eq_none.2 fun x hx => by simpa using hothers k h hk hne x hx
    simp only [hnone]

end

theorem balancing : Sys2Proof.Claims.Balancing := by
  refine ⟨fun s die h => congrArg Host.Outcome.next (if_pos h), fun s die p h => samplePipe_of_cool h, ?_, ?_⟩
  · intro s die p i j core g h hp hij hg hh
    refine ⟨_, _, _, pipes_moveCore hp i j, movedStage_of_getElem? hg i j, movedStage_of_getElem? hh i j, ?_⟩
    have hfrom : (movedStage i j core (g, i)).cores = g.cores.filter (· ≠ core) := by simp [movedStage]
    have hto : (movedStage i j core (h, j)).cores = insertCore core h.cores := by simp [movedStage, hij.symm]
    rw [hfrom, hto]
    exact ⟨by simp, mem_insertCore.2 (.inl rfl), fun c hc => by simp [hc], fun c hc => by simp [mem_insertCore, hc]⟩
  · intro s die p i g l core hp hg hl hothers hfree
    exact exec_deferredMove hp hg hl hothers hfree

/-- Settles O41: a forming group is dispatched and placed with its strands' lanes, and a pipeline is sampled and its cores moved. -/
theorem sumpAndBalancer : Obligations.SumpAndBalancer := ⟨sumpGroups, balancing⟩

end Sys2Proof.Safety
end

section
/-! The machine right after bring-up (O56). -/

open Sys2Proof Sys2Proof.Machine
namespace Sys2Proof.Safety

/-- Settles O56: reset lists nothing, so every part of the state reads its value of bring-up. -/
theorem afterBringUp : Obligations.AfterBringUp :=
  ⟨fun _ => rfl, rfl, rfl, rfl, rfl, rfl, rfl, rfl, fun _ => ⟨rfl, rfl, rfl, rfl, rfl, rfl, rfl, rfl⟩, fun _ => rfl,
    fun _ => ⟨rfl, rfl, rfl⟩, wf_reset⟩

end Sys2Proof.Safety
end

section
/-! Control registers, ISYNC and SLEEP (O27). -/

open Sys2Proof Sys2Proof.Machine
namespace Sys2Proof.Safety

/-- Two changes that make the same of a unit leave the same state. -/
theorem modUnit_congr {s : State} {u : Nat} {un : UnitSt} {f g : UnitSt → UnitSt} (hu : s.unit? u = some un) (h : f un = g un) :
    s.modUnit u f = s.modUnit u g := by
  show ({ s with units := _ } : State) = { s with units := _ }
  rw [Tab.modify_of_find hu, Tab.modify_of_find hu, h]

/-- What both outcomes of a choice keep, the choice keeps. -/
theorem ite_keeps {σ α : Type} {g : σ → α} {p : Prop} [Decidable p] {a b : σ} {x : α} (ha : g a = x) (hb : g b = x) :
    g (if p then a else b) = x := by
  split
  · exact ha
  · exact hb

/-! Control registers (R27, R239) -/

theorem loWord_eq_setWidth (d : DWord) : loWord d = d.setWidth 32 := BitVec.eq_of_toNat_eq (by simp [loWord])

theorem loWord_setWidth (w : Word) : loWord (w.setWidth 64) = w := by
  rw [loWord_eq_setWidth, BitVec.setWidth_setWidth_of_le w (by decide), BitVec.setWidth_eq]

theorem loWord_dw (n : Nat) : loWord (dw n) = BitVec.ofNat 32 n := by
  rw [loWord_eq_setWidth, dw, BitVec.setWidth_ofNat_of_le (by decide)]

section
variable {s : State} {c : Issue}

theorem execCtlr_wide {y : Ctlr} (h : Acts (.ctlr y) s c) (hn : ctlIsWide y.n.val = true) :
    exec (.ctlr y) s = .next (wrotePair s c y.d (ctlValue s c.un y.n.val)) := by
  have h3 : y.n.val ≠ 3 := fun h3 => by simp [h3, ctlIsWide] at hn
  show execCtlr y s = _
  rw [execCtlr, issue_of_acts h]
  simp only [h3, hn, false_and, if_false, if_true]
  rfl

theorem execCtlr_word {y : Ctlr} (h : Acts (.ctlr y) s c) (hn : ctlIsWide y.n.val = false)
    (hm : y.n.val = 3 → c.un.at_.strand = false → matrixBusy s c.u c.un = false) :
    exec (.ctlr y) s = .next (wrote s c y.d (fun l => loWord (ctlValue s c.un y.n.val l))) := by
  have hbusy : ¬ (y.n.val = 3 ∧ c.un.at_.strand = false ∧ matrixBusy s c.u c.un = true) := fun ⟨h3, hs, hb⟩ => by
    simp [hm h3 hs] at hb
  show execCtlr y s = _
  rw [execCtlr, issue_of_acts h]
  simp only [if_neg hbusy, hn]
  rfl

theorem execCtlw_of_acts {y : Ctlw} {g : UnitSt → UnitSt} {f : Nat → DWord} (h : Acts (.ctlw y) s c)
    (hf : ∀ l, (if ctlIsWide y.n.val then c.dword s l y.a else (c.word s l y.a).setWidth 64) = f l)
    (hg : writeCtl c.un y.n.val c.lanes f = g c.un) : exec (.ctlw y) s = .next (finish c (s.modUnit c.u g)) := by
  show execCtlw y s = _
  rw [execCtlw, issue_of_acts h]
  exact congrArg (fun t => Host.Outcome.next (finish c t)) (modUnit_congr (of_acts h).1 ((congrArg _ (funext hf)).trans hg))

theorem execCtlw_word {y : Ctlw} {g : UnitSt → UnitSt} (h : Acts (.ctlw y) s c) (hn : ctlIsWide y.n.val = false)
    (hg : writeCtl c.un y.n.val c.lanes (fun l => (c.word s l y.a).setWidth 64) = g c.un) :
    exec (.ctlw y) s = .next (finish c (s.modUnit c.u g)) :=
  execCtlw_of_acts h (fun l => by rw [hn]; rfl) hg

end

theorem controlRegisters : Sys2Proof.Claims.ControlRegisters := by
  refine ⟨fun y s c h _ => ?_, fun y s c h => ?_⟩
  · refine ⟨fun hn => ?_, fun hn => ?_, fun hn => ?_, fun hn hm => ?_⟩
    · exact (execCtlr_wide h (by simp [hn, ctlIsWide])).trans (by rw [hn]; rfl)
    · exact (execCtlr_wide h (by simp [hn, ctlIsWide])).trans (by rw [hn]; rfl)
    · exact (execCtlr_wide h (by simp [hn, ctlIsWide])).trans (by rw [hn]; rfl)
    · have hw : ctlIsWide y.n.val = false := by simpa [ctlIsWide, and_assoc] using hn
      refine (execCtlr_word h hw hm).trans (congrArg (fun f => Host.Outcome.next (wrote s c y.d f)) (funext fun l => ?_))
      unfold ctlValue
      dsimp only
      split <;> simp_all [loWord_dw, loWord_setWidth]
  · dsimp only
    have hword (hn : y.n.val ≠ 1 ∧ y.n.val ≠ 7 ∧ y.n.val ≠ 8) : ctlIsWide y.n.val = false := by simp [ctlIsWide, hn]
    refine ⟨fun hn => ?_, fun hn => ?_, fun hn => ?_, fun hn => ?_, fun hn => ?_, fun hn hmode => ?_, fun hn hmode => ?_, fun hn => ?_⟩
    case refine_2 => exact execCtlw_of_acts h (fun l => if_pos (by simp [hn, ctlIsWide])) (by rw [hn]; rfl)
    case refine_6 =>
      obtain ⟨e, m, hmode⟩ := hmode
      refine execCtlw_word h (hword (by omega)) ?_
      simp only [writeCtl, hn, hmode, loWord_setWidth]
      rfl
    case refine_7 =>
      refine execCtlw_word h (hword (by omega)) ?_
      simp only [writeCtl, hn]
      rfl
    all_goals
      refine execCtlw_word h (hword (by omega)) ?_
      simp only [writeCtl, hn, loWord_setWidth]
      rfl

/-! ISYNC (R240) -/

section
variable {s : State} {c : Issue}

theorem execIsync_of_none {y : Isync} (h : Acts (.isync y) s c) (hops : memOps c.un c.e (fun _ => true) = []) :
    exec (.isync y) s = .next (
      let s1 := if c.un.at_.strand then s else releaseCac s c.un
      refetch (finish c (if c.un.at_.strand then s1.modScore c.un.at_.core (fun k => { k with lines := [] })
        else { s1 with cores := s1.cores.map (fun k =>
          if syncCores s1 c.un y.scope k.1 then (k.1, { k.2 with icache := [] }) else k) })) c.u c.e) := by
  show execIsync y s = _
  rw [execIsync, issue_of_acts h]
  simp only [hops, ne_eq, not_true_eq_false, if_false]

/-! SLEEP (R241) -/

theorem now_acquireRuns (core : Nat) (runs : List (Nat × Nat)) : (acquireRuns s core runs).now = s.now :=
  foldl_keeps _ State.now (fun s l => now_cacDrop s core l) _ s

theorem now_popResult (u r : Nat) : (popResult s u r).now = s.now := by
  unfold popResult
  split
  · rfl
  · have hacquired (t : State) (l : List ResRec) (un : UnitSt) : (match l with
        | x :: _ => if x.fresh && !un.at_.strand then acquireRuns t un.at_.core x.writes else t
        | [] => t).now = t.now := by
      split
      · exact ite_keeps (now_acquireRuns ..) rfl
      · rfl
    exact ite_keeps (hacquired ..) (hacquired ..)

theorem now_popAll (u : Nat) (i : Instr) : (popAll s u i).now = s.now := by
  refine foldl_keeps _ State.now (fun s o => ?_) _ s
  split
  · rfl
  · exact now_popResult ..
  · rfl

theorem now_poke (s : State) (ws : List (Nat × Byte)) : (poke s ws).now = s.now := by
  have h := congrArg State.now (besideMemory_poke s ws)
  exact h

theorem now_pokeVirt (s : State) (ctx va : Nat) (bs : List Byte) : (pokeVirt s ctx va bs).now = s.now := by
  have h := congrArg State.now (besideMemory_pokeVirt s ctx va bs)
  exact h

theorem now_crossTrigger (s : State) (u : Nat) (un : UnitSt) : (crossTrigger s u un).now = s.now :=
  foldl_keeps _ State.now (fun s c => by split <;> rfl) _ s

theorem now_diverge (s : State) (u lane : Nat) (un : UnitSt) (logged x : DWord) : (diverge s u lane un logged x).now = s.now := by
  have htraced (t : State) : (if tracing t un then emitTrace t u un 3 lane x logged else t).now = t.now := ite_keeps rfl rfl
  exact ite_keeps ((now_crossTrigger ..).trans ((htraced _).trans (now_poke ..))) ((htraced _).trans (now_poke ..))

theorem now_logSync (u lane : Nat) (x : DWord) : (logSync s u lane x).now = s.now := by
  unfold logSync
  dsimp only
  split
  · rfl
  · split
    · rfl
    · split
      · rfl
      · split_ifs <;> simp only [now_pokeVirt, now_diverge, State.putUnit_now]

theorem execSleep_zero {y : Sleep} (h : Acts (.sleep y) s c) (h0 : c.word s c.low y.a = 0) (hev : y.ev = false) :
    exec (.sleep y) s = .next (finish c s) := by
  show execSleep y s = _
  rw [execSleep, issue_of_acts h]
  exact congrArg Host.Outcome.next (if_pos ⟨congrArg BitVec.toNat h0, hev⟩)

theorem execSleep_waits {y : Sleep} (h : Acts (.sleep y) s c) (hne : c.word s c.low y.a ≠ 0) :
    exec (.sleep y) s = .next (
      let n := (c.word s c.low y.a).toNat
      let s1 := if isSync c.instr then logSync s c.u c.sp.low c.sp.pc else s
      (park (popAll s1 c.u c.instr) c.u c.e (.sleep s.now (some (s.now + n)) y.ev) 1).later n
        (.event (.sleepExpiry c.u c.e s.now))) := by
  have hpos : (c.word s c.low y.a).toNat ≠ 0 := fun h0 => hne (BitVec.eq_of_toNat_eq h0)
  have hnow : (if isSync c.instr then logSync s c.u c.sp.low c.sp.pc else s).now = s.now := by
    split
    · exact now_logSync ..
    · rfl
  have hpark (w : Wait) : (park (popAll (if isSync c.instr then logSync s c.u c.sp.low c.sp.pc else s) c.u c.instr) c.u c.e w 1).now =
      s.now := (now_popAll ..).trans hnow
  show execSleep y s = _
  rw [execSleep, issue_of_acts h]
  simp only [hpos, false_and, if_false, hnow, hpark]

theorem exec_sleepExpiry {u e t upto : Nat} {un : UnitSt} {sp : Split} {ev : Bool} (hu : s.unit? u = some un)
    (he : un.split? e = some sp) (hw : sp.wait = some (.sleep t (some upto) ev)) (hup : upto ≤ s.now) (hst : un.stopped = false)
    (hf : (s.die un.die).frozen = false) (hh : un.halted = none) : exec (.sleepExpiry u e t) s = .next (endSleep s u e) := by
  show execSleepExpiry u e t s = _
  simp [execSleepExpiry, hu, he, hw, hup, hst, hf, hh]

end

theorem syncAndSleep : Sys2Proof.Claims.SyncAndSleep := by
  refine ⟨fun y s c h hops hst => ?_, fun y s c h hops hst => ?_, fun y s c h h0 hev => execSleep_zero h h0 hev,
    fun y s c h hne => execSleep_waits h hne, fun s u e t un sp upto ev hu he hw hup hst hf hh => exec_sleepExpiry hu he hw hup hst hf hh⟩
  · simpa only [hst, if_true] using execIsync_of_none h hops
  · simpa only [hst, if_false, Bool.false_eq_true] using execIsync_of_none h hops

/-- Settles O27: registers read and written one by one, and each wait from its issue to its end. -/
theorem controlAndSleep : Obligations.ControlAndSleep := ⟨controlRegisters, syncAndSleep⟩

end Sys2Proof.Safety
end

section
/-! The bytes that COPY, FILL and VFILL move (O34). -/

open Sys2Proof Sys2Proof.Machine
namespace Sys2Proof.Safety

/-! Checks of a command (R229, R230) -/

section
variable {s : State} {core k : Nat} {cmd : CopyCmd}

/-- A fold that only keeps or loses the answer yes keeps it at every element. -/
theorem foldl_eq_some_true {β : Type} {f : Option Bool → β → Option Bool} (hf : ∀ acc x, f acc x = some true → acc = some true)
    {l : List β} {acc : Option Bool} (h : l.foldl f acc = some true) : acc = some true ∧ ∀ x ∈ l, f (some true) x = some true := by
  induction l generalizing acc with
  | nil => exact ⟨h, by simp⟩
  | cons x l ih =>
    obtain ⟨hx, hl⟩ := ih h
    obtain rfl := hf acc x hx
    exact ⟨rfl, List.forall_mem_cons.2 ⟨hx, hl⟩⟩

/-- In rows that are in range, every byte outside global memory has its place or faults. -/
theorem spot_of_rowsOk {space base rows len : Nat} {stride : Int} {write : Bool} (hs : space ≠ 0)
    (h : rowsOk s core cmd space base stride rows len write = some true) {r j : Nat} (hr : r ≤ rows) (hj : j < len) :
    base < 2 ^ 32 ∧ spot s core cmd space (Machine.rowAddr space base stride r j) write ≠ .range ∧
      spot s core cmd space (Machine.rowAddr space base stride r j) write ≠ .wait := by
  rw [rowsOk, if_neg (Nat.ne_of_gt (Nat.zero_lt_of_lt hj)), if_neg hs] at h
  by_cases hbase : 5 ≤ space ∨ 2 ^ 32 ≤ base
  · rw [if_pos hbase] at h
    cases h
  · rw [if_neg hbase] at h
    have hbyte := (foldl_eq_some_true (fun acc r h => ?_) h).2 r (List.mem_range.2 (Nat.lt_succ_of_le hr))
    · split at hbyte
      · cases hbyte
      · have hspot := (foldl_eq_some_true (fun acc x h => ?_) hbyte).2 j (List.mem_range.2 hj)
        · refine ⟨by omega, fun he => ?_, fun he => ?_⟩ <;> simp [he] at hspot
        · split at h <;> simp_all
    · split at h
      · cases h
      · refine (foldl_eq_some_true (fun acc x h => ?_) h).1
        split at h <;> simp_all

theorem rowAddr_zero {space base j : Nat} (stride : Int) (h : base + j < 2 ^ (if space = 0 then 64 else 32)) :
    Machine.rowAddr space base stride 0 j = base + j := by
  simp only [Machine.rowAddr, wrapInt, Nat.cast_zero, mul_zero, add_zero]
  exact Int.toNat_natCast (base + j) ▸ congrArg Int.toNat (by exact_mod_cast Nat.mod_eq_of_lt h)

/-- A byte of the team's scratchpad that is in range stands at its place. -/
theorem spot_scr {tm : Team} {addr : Nat} {write : Bool} (ht : s.team? cmd.team = some tm)
    (hr : spot s core cmd 1 addr write ≠ .range) (hw : spot s core cmd 1 addr write ≠ .wait) :
    spot s core cmd 1 addr write = .at_ (.scr cmd.team addr) ∧ addr < tm.scrSize := by
  simp only [spot, scrSpot, checkScr, ht] at hr hw ⊢
  split_ifs at hr hw ⊢ <;> simp_all

/-- One row of the team's scratchpad that is in range: it lies inside, and each byte at its place. -/
theorem scr_of_rowsOk {tm : Team} {base len : Nat} {stride : Int} {write : Bool} (ht : s.team? cmd.team = some tm)
    (hsize : tm.scrSize ≤ 2 ^ 24) (hlen : len ≤ 2 ^ 24) (h : rowsOk s core cmd 1 base stride 0 len write = some true) {j : Nat}
    (hj : j < len) : spot s core cmd 1 (Machine.rowAddr 1 base stride 0 j) write = .at_ (.scr cmd.team (base + j)) ∧
      base + j < tm.scrSize := by
  have h0 : 0 < len := Nat.zero_lt_of_lt hj
  obtain ⟨hbase, hr0, hw0⟩ := spot_of_rowsOk (by decide) h (Nat.le_refl 0) h0
  have hlow := (spot_scr ht hr0 hw0).2
  rw [rowAddr_zero stride (show base + 0 < 2 ^ 32 from hbase)] at hlow
  obtain ⟨-, hr, hw⟩ := spot_of_rowsOk (by decide) h (Nat.le_refl 0) hj
  rw [rowAddr_zero stride (show base + j < 2 ^ 32 by omega)] at hr hw ⊢
  exact spot_scr ht hr hw

/-- The two answers of a command's rows, where it is not malformed. -/
theorem and_of_checks {src dst : Option Bool} (h : (match src, dst with
    | some false, _ => some true
    | _, some false => some true
    | some true, some true => some false
    | _, _ => none) = some false) : src = some true ∧ dst = some true := by
  split at h <;> simp_all

/-- A command that is not malformed keeps its tables, and its rows are in range. -/
theorem of_not_malformed (h : copyMalformed s core cmd = some false) :
    let a := copyArgs cmd.words
    cmd.malformed = false ∧ (∃ regs, badWords a cmd.words regs = false) ∧
      (a.op ≠ 1 → a.op ≠ 4 → rowsOk s core cmd a.sspace (if a.op = 3 then a.src % 2 ^ 32 else a.src) a.sstride
        (copyRows a).1 (copyRows a).2.1 false = some true) ∧
      (a.op = 0 ∨ a.op = 1 → rowsOk s core cmd a.dspace a.dst a.dstride (copyRows a).1 (copyRows a).2.2 true = some true) := by
  unfold copyMalformed at h
  generalize hregs : (match s.team? cmd.team with | some t => 8 * t.regblk | none => 0) = regs
  by_cases hw : (cmd.malformed || badWords (copyArgs cmd.words) cmd.words regs) = true
  · subst hregs
    exact absurd (h.symm.trans (if_pos hw)) (by simp)
  · have hrows := and_of_checks (((if_neg (by subst hregs; exact hw)).symm.trans h :))
    obtain ⟨hm, hb⟩ := Bool.or_eq_false_iff.1 (Bool.eq_false_iff.2 hw)
    refine ⟨hm, ⟨regs, hb⟩, fun h1 h4 => ?_, fun h01 => ?_⟩
    · exact (if_neg (by simp [h1, h4])).symm.trans hrows.1
    · exact (if_pos h01).symm.trans hrows.2

/-- A served command's event has its effect. -/
theorem copyStep_of_served {ev : Event} {body : CopyCmd → State → State} (hc : cmd? s core k = some cmd) (hlive : cmd.st = .live)
    (hrun : engineStopped s core = false) (hok : copyMalformed s core cmd = some false) (hwait : cmdWaits s core k cmd = false)
    (hserved : Claims.CommandServed s core k cmd (cmdRows s core cmd)) :
    copyStep s core k ev body = body cmd (slotsGiven s (.cmd core k)) := by
  obtain ⟨hpush, hrows, hnone⟩ := hserved
  simp only [copyStep, hc, hlive, hrun, hpush, hok, hwait, ne_eq, not_true_eq_false, Bool.or_self, Bool.false_eq_true, if_false]
  exact withSlots_of_served hrows hnone _ _

/-! The loop over the bytes -/

/-- What every byte's turn keeps holds once the last byte has been moved. -/
theorem copyGroups_induct {a : CopyArgs} {i o n : Nat} {P : Nat → CopyRun → Prop}
    (hstep : ∀ j < n, ∀ r, P j r → ∃ r', P (j + 1) r' ∧ ∀ fuel, copyGroups s core cmd a i o n (fuel + 1) r =
      copyGroups s core cmd a i o n fuel r') : ∀ (m j : Nat) (r : CopyRun), j + m = n → P j r → P n (copyGroups s core cmd a i o n m r)
  | 0, j, r, hn, hr => by
    obtain rfl : j = n := hn
    exact hr
  | m + 1, j, r, hn, hr => by
    obtain ⟨r', hr', he⟩ := hstep j (by omega) r hr
    rw [he]
    exact copyGroups_induct hstep m (j + 1) r' (by omega) hr'

/-- The run of a command that moves bytes, before its first byte. -/
def firstRun (s : State) (cmd : CopyCmd) : CopyRun :=
  { seen := [], out := [], regs := [], bad := [], pos := cmd.pos, flags := cmd.flags, draws := s.draws, lines := [], stop := none }

/-- The turn of one byte that is copied as it is from the scratchpad. -/
theorem copyGroups_byte {a : CopyArgs} {n fuel : Nat} {r : CopyRun} {p : Place} (hop : a.op ≠ 1) (hcvt : a.cvt = 0) (hspace : a.sspace = 1)
    (hstop : r.stop = none) (hpos : r.pos < n)
    (hsrc : spot s core cmd 1 (Machine.rowAddr 1 a.src a.sstride 0 r.pos) false = .at_ p) :
    copyGroups s core cmd a 1 1 n (fuel + 1) r = copyGroups s core cmd a 1 1 n fuel
      (writeGroup s core cmd a (poisonedAt s p 1) 0 r.pos [sourceByte s r p] { r with draws := r.draws + 1, lines := r.lines.eraseDups }) := by
  have hgroup : sourceGroup s core cmd a r 0 r.pos 1 = .ok ([sourceByte s r p], false || poisonedAt s p 1, []) := by
    simp only [sourceGroup, hspace, hsrc, one_ne_zero, if_false, List.append_nil]
  rw [copyGroups, hstop]
  simp only [Option.isSome_none, Bool.false_eq_true, if_false, if_neg hop, hgroup, hcvt, cvtGroup, Nat.or_zero, Bool.false_or,
    List.nil_append, Nat.mod_one, Nat.div_one, Nat.mul_one, List.drop_zero, Nat.div_eq_of_lt hpos, Nat.mod_eq_of_lt hpos]

/-- The turn of one byte of a FILL. -/
theorem copyGroups_fill {a : CopyArgs} {i o n fuel : Nat} {r : CopyRun} (hop : a.op = 1) (hstop : r.stop = none) (hpos : r.pos < n) :
    copyGroups s core cmd a i o n (fuel + 1) r = copyGroups s core cmd a i o n fuel
      (writeGroup s core cmd a false 0 r.pos [(bytesOf 4 (a.src % 2 ^ 32)).getD (r.pos % 4) 0] r) := by
  rw [copyGroups, hstop]
  simp only [Option.isSome_none, Bool.false_eq_true, if_false, if_pos hop, Nat.div_eq_of_lt hpos, Nat.mod_eq_of_lt hpos]

/-- A byte written at its place. -/
theorem writeGroup_place {a : CopyArgs} {j : Nat} {r : CopyRun} {p : Place} {b : Byte} {poison : Bool} (hop : a.op ≠ 2) (hstop : r.stop = none)
    (hdst : spot s core cmd a.dspace (Machine.rowAddr a.dspace a.dst a.dstride 0 j) true = .at_ p) :
    writeGroup s core cmd a poison 0 j [b] r = { r with
      seen := Tab.put r.seen p.code b, out := r.out ++ [(p, b)], bad := if poison then r.bad ++ [p] else r.bad, pos := r.pos + 1 } := by
  simp only [writeGroup, hstop, Option.isSome_none, Bool.false_eq_true, if_false, if_neg hop, hdst]

/-- A byte written for the registers of a VFILL. -/
theorem writeGroup_reg {a : CopyArgs} {j : Nat} {r : CopyRun} {b : Byte} {poison : Bool} (hop : a.op = 2) (hstop : r.stop = none) :
    writeGroup s core cmd a poison 0 j [b] r = { r with regs := r.regs ++ [(j, b)], pos := r.pos + 1 } := by
  simp only [writeGroup, hstop, Option.isSome_none, Bool.false_eq_true, if_false, if_pos hop]

/-! Bytes at their places -/

/-- The first n bytes of a row stand at their places, and nothing has stopped. -/
structure Placed (place : Nat → Place) (byte : Nat → Byte) (n : Nat) (r : CopyRun) : Prop where
  pos : r.pos = n
  stop : r.stop = none
  lines : r.lines = []
  out : r.out = (List.range n).map (fun j => (place j, byte j))
  seen : ∀ x, Tab.find? r.seen x ≠ none → ∃ j < n, x = (place j).code

theorem Placed.first (place : Nat → Place) (byte : Nat → Byte) (h : cmd.pos = 0) : Placed place byte 0 (firstRun s cmd) :=
  ⟨h, rfl, rfl, rfl, fun _ hx => absurd rfl hx⟩

theorem Placed.next {place : Nat → Place} {byte : Nat → Byte} {n draws : Nat} {bad : List Place} {r : CopyRun} (h : Placed place byte n r) :
    Placed place byte (n + 1) { r with draws := draws, lines := r.lines.eraseDups, seen := Tab.put r.seen (place n).code (byte n),
                                       out := r.out ++ [(place n, byte n)], bad := bad, pos := r.pos + 1 } where
  pos := congrArg (· + 1) h.pos
  stop := h.stop
  lines := by simp [h.lines]
  out := by simp [h.out, List.range_succ]
  seen x hx := by
    by_cases hxn : x = (place n).code
    · exact ⟨n, Nat.lt_succ_self n, hxn⟩
    · rw [Tab.find?_put_ne _ _ hxn] at hx
      obtain ⟨j, hj, he⟩ := h.seen x hx
      exact ⟨j, Nat.lt_succ_of_lt hj, he⟩

/-! What the writes of a command leave -/

theorem find?_set {α : Type} [DecidableEq α] (d : α) (m : Tab α) (k j : Nat) (v : α) :
    Tab.find? (Tab.set d m k v) j = if j = k then (if v = d then none else some v) else Tab.find? m j := by
  unfold Tab.set
  by_cases h : j = k
  · subst h
    split_ifs <;> simp_all [Tab.find?_del_self]
  · split_ifs <;> simp [Tab.find?_del_ne _ h, Tab.find?_put_ne _ _ h]

theorem byte_setByte (t : Team) (o x : Nat) (b : Byte) : (t.setByte o b).byte x = if x = o then b else t.byte x := by
  by_cases hx : x = o
  · subst hx
    by_cases hlow : x < t.scrBase <;> by_cases hb : b = 0#8 <;> simp [Team.byte, Team.setByte, hlow, hb, find?_set]
  · by_cases hlow : o < t.scrBase <;> simp [Team.byte, Team.setByte, hlow, hx, find?_set, Tab.find?_put_ne]

/-- A row written into a team's scratchpad. -/
theorem byte_foldl_setByte (base n : Nat) (f : Nat → Byte) (t : Team) (o : Nat) :
    ((List.range n).foldl (fun t j => t.setByte (base + j) (f j)) t).byte o =
      if base ≤ o ∧ o < base + n then f (o - base) else t.byte o := by
  induction n with
  | zero => rw [if_neg (by omega)]; rfl
  | succ n ih =>
    rw [List.range_succ, List.foldl_append, List.foldl_cons, List.foldl_nil, byte_setByte, ih]
    split_ifs with h1 h2 h3 <;> first | rfl | omega | skip
    rw [h1, Nat.add_sub_cancel_left]

theorem team_foldl_modTeam {β : Type} (key : Nat) (f : β → Team → Team) (l : List β) (s : State) :
    (l.foldl (fun s b => s.modTeam key (f b)) s).team? key = (s.team? key).map fun t => l.foldl (fun t b => f b t) t := by
  induction l generalizing s with
  | nil => simp
  | cons b l ih =>
    rw [List.foldl_cons, ih, State.team_modTeam_self, Option.map_map]
    rfl

theorem team_wrPlaces_scr (s : State) (key base n : Nat) (f : Nat → Byte) :
    (wrPlaces s ((List.range n).map fun j => (.scr key (base + j), f j))).team? key =
      (s.team? key).map fun t => (List.range n).foldl (fun t j => t.setByte (base + j) (f j)) t := by
  have hclear (s : State) (ws : List (Place × Byte)) : (clearStruck s ws).team? key = s.team? key := by
    unfold clearStruck
    split <;> rfl
  rw [wrPlaces, hclear, List.foldl_map]
  exact team_foldl_modTeam key (fun j t => t.setByte (base + j) (f j)) (List.range n) s

theorem cmd_wrLocal (s : State) (p : Place) (b : Byte) (core k : Nat) : cmd? (wrLocal s p b) core k = cmd? s core k := by
  unfold wrLocal
  split
  · rfl
  · rfl
  · exact cmd_modCi ..
  · rfl

theorem cmd_sliceWrite (s : State) (ws : List (Nat × Byte)) (core k : Nat) : cmd? (sliceWrite s ws) core k = cmd? s core k :=
  (plan_keeps (cmd? · core k) (fun _ _ => rfl) _ _).trans (cmd_poke ..)

theorem cmd_deviceWrite (s : State) (ws : List (Place × Byte)) (core k : Nat) : cmd? (deviceWrite s ws) core k = cmd? s core k := by
  have h := wrPlaces_keeps (cmd? · core k) (fun s p b => cmd_wrLocal s p b core k) (fun _ _ => rfl) s ws
  exact ite_keeps (g := (cmd? · core k)) h ((cmd_sliceWrite ..).trans h)

theorem poisonPlaces_keeps {α : Type} (g : State → α) (hp : ∀ s l, g { s with poison := l } = g s)
    (hs : ∀ s l, g { s with struck := l } = g s) (s : State) (ps : List Place) : g (poisonPlaces s ps) = g s := by
  refine foldl_keeps _ g (fun s p => ?_) ps s
  split
  · exact hp ..
  · split
    · exact ite_keeps rfl (hs ..)
    · rfl

theorem cmd_modCmd_self (s : State) (core k : Nat) (f : CopyCmd → CopyCmd) : cmd? (modCmd s core k f) core k = (cmd? s core k).map f := by
  simp [cmd?, modCmd]

theorem cmd_cmdDone_self {c : CopyCmd} (h : cmd? s core k = some c) : cmd? (cmdDone s core k) core k = some { c with st := .done } := by
  rw [cmdDone]
  exact (cmd_modCmd_self ..).trans (by rw [h]; rfl)

/-! The state in which the banks have given their slots -/

theorem scrSpot_slotsGiven (s : State) (who : SlotOf) (key : Option Nat) (off : Nat) (write : Bool) :
    scrSpot (slotsGiven s who) key off write = scrSpot s key off write := by
  have hteam (x : Nat) : (slotsGiven s who).team? x = s.team? x := slotsGiven_keeps (State.team? · x) (fun _ _ => rfl) s who
  have hbusy (c : Nat) : scrBusy ((slotsGiven s who).core c) = scrBusy (s.core c) := core_slotsGiven_keeps scrBusy (fun _ _ => rfl) s who c
  cases key with
  | none => rfl
  | some key => simp only [scrSpot, checkScr, hteam, hbusy]

theorem cmd_slotsGiven (s : State) (who : SlotOf) (core k : Nat) : cmd? (slotsGiven s who) core k = cmd? s core k :=
  core_slotsGiven_keeps (fun c => Tab.find? c.cmds k) (fun _ _ => rfl) s who core

theorem xlate_slotsGiven (s : State) (who : SlotOf) (ctx va : Nat) (write : Bool) :
    xlate (slotsGiven s who) ctx va write = xlate s ctx va write := by
  have hwalk : walk (slotsGiven s who) ctx va = walk s ctx va :=
    walk_congr (slotsGiven_keeps State.mem (fun _ _ => rfl) s who) (slotsGiven_keeps (·.mgmt.ident) (fun _ _ => rfl) s who)
      (slotsGiven_keeps (·.mgmt.ctxbase) (fun _ _ => rfl) s who) (slotsGiven_keeps State.ctxs (fun _ _ => rfl) s who)
  rw [xlate, hwalk, xlate]

/-! A command whose bytes have all been moved -/

/-- What a run has written, into memory, scratchpad and registers. -/
def written (s : State) (cmd : CopyCmd) (r : CopyRun) : State :=
  let t := poisonPlaces (deviceWrite { s with draws := r.draws } r.out) r.bad
  if (copyArgs cmd.words).op = 2 then t.modUnit cmd.unit (fun un => writeSpan un (vfillSpan cmd.words).1 r.regs) else t

/-- The command has been performed, and stands at the end of its run. -/
def moved (s : State) (core k : Nat) (cmd : CopyCmd) (r : CopyRun) : State :=
  cmdDone (modCmd (written s cmd r) core k
    (fun c => { c with pos := r.pos, flags := r.flags, writes := c.writes ++ joinRuns r.out })) core k

theorem moveBytes_of_run {i o : Nat} {r : CopyRun}
    (hio : (if (copyArgs cmd.words).op = 1 then (4, 4) else (cvtSize (copyArgs cmd.words).cvt).getD (1, 1)) = (i, o))
    (hr : copyGroups s core cmd (copyArgs cmd.words) i o (copyRows (copyArgs cmd.words)).2.2
      (((copyArgs cmd.words).rows + 1) * (copyRows (copyArgs cmd.words)).2.2 - cmd.pos) (firstRun s cmd) = r)
    (hstop : r.stop = none) (hlines : r.lines = []) : moveBytes s core k cmd = moved s core k cmd r := by
  rw [firstRun] at hr
  rw [moveBytes]
  simp only [hio, hr, hlines, hstop, List.foldl_nil]
  rfl

theorem moved_keeps {α : Type} (g : State → α) (hm : ∀ s f, g (modCmd s core k f) = g s) (hl : ∀ s e, g (State.laterFree s e) = g s)
    (r : CopyRun) : g (moved s core k cmd r) = g (written s cmd r) :=
  (hl ..).trans ((hm ..).trans (hm ..))

theorem cmd_moved (hc : cmd? s core k = some cmd) (r : CopyRun) : ∃ c, cmd? (moved s core k cmd r) core k = some c ∧ c.st = .done := by
  have hkept : cmd? (poisonPlaces (deviceWrite { s with draws := r.draws } r.out) r.bad) core k = some cmd :=
    (poisonPlaces_keeps (cmd? · core k) (fun _ _ => rfl) (fun _ _ => rfl) _ _).trans ((cmd_deviceWrite ..).trans hc)
  have hwritten : cmd? (written s cmd r) core k = some cmd := ite_keeps (g := (cmd? · core k)) hkept hkept
  exact ⟨_, cmd_cmdDone_self ((cmd_modCmd_self ..).trans (congrArg _ hwritten)), rfl⟩

/-- A run that writes no registers leaves what its device writes leave, but for poison. -/
theorem moved_keeps_of_ne {α : Type} (g : State → α) (hop : (copyArgs cmd.words).op ≠ 2) (hm : ∀ s f, g (modCmd s core k f) = g s)
    (hl : ∀ s e, g (State.laterFree s e) = g s) (hp : ∀ s l, g { s with poison := l } = g s)
    (hs : ∀ s l, g { s with struck := l } = g s) (r : CopyRun) :
    g (moved s core k cmd r) = g (deviceWrite { s with draws := r.draws } r.out) := by
  rw [moved_keeps g hm hl, written, if_neg hop]
  exact poisonPlaces_keeps g hp hs _ _

/-- A served command of one row, from its first byte to its last. -/
theorem copyStep_moved {ev : Event} {i o n : Nat} {r : CopyRun} (hc : cmd? s core k = some cmd) (hlive : cmd.st = .live)
    (hrun : engineStopped s core = false) (hok : copyMalformed s core cmd = some false) (hwait : cmdWaits s core k cmd = false)
    (hserved : Claims.CommandServed s core k cmd (cmdRows s core cmd)) (hpos : cmd.pos = 0) (hrows : (copyArgs cmd.words).rows = 0)
    (hn : (copyRows (copyArgs cmd.words)).2.2 = n)
    (hio : (if (copyArgs cmd.words).op = 1 then (4, 4) else (cvtSize (copyArgs cmd.words).cvt).getD (1, 1)) = (i, o))
    (hr : copyGroups (slotsGiven s (.cmd core k)) core cmd (copyArgs cmd.words) i o n n (firstRun (slotsGiven s (.cmd core k)) cmd) = r)
    (hstop : r.stop = none) (hlines : r.lines = []) :
    copyStep s core k ev (fun cmd s => moveBytes s core k cmd) = moved (slotsGiven s (.cmd core k)) core k cmd r := by
  refine (copyStep_of_served hc hlive hrun hok hwait hserved).trans (moveBytes_of_run hio ?_ hstop hlines)
  rw [hn, hrows, hpos, Nat.zero_add, Nat.one_mul, Nat.sub_zero]
  exact hr

end

/-! COPY (R229) -/

theorem deviceWrite_scr (s : State) (key base n : Nat) (f : Nat → Byte) :
    deviceWrite s ((List.range n).map fun j => (.scr key (base + j), f j)) =
      wrPlaces s ((List.range n).map fun j => (.scr key (base + j), f j)) := by
  have hnone : ((List.range n).map fun j => (Place.scr key (base + j), f j)).filterMap
      (fun w => match w.1 with | .glob pa => some (pa, w.2) | _ => none) = [] :=
    List.filterMap_eq_nil_iff.2 fun w hw => by
      obtain ⟨j, -, rfl⟩ := List.mem_map.1 hw
      rfl
  exact if_pos hnone

theorem len_copyArgs (ws : List Word) : (copyArgs ws).len < 2 ^ 24 := Nat.mod_lt _ (by decide)

section
variable {s : State} {core : Nat} {cmd : CopyCmd} {a : CopyArgs} {tm : Team}

/-- The bytes of a COPY of one row inside a scratchpad, its source and destination apart: each finds the old byte of its source. -/
theorem placed_of_copy (hpos : cmd.pos = 0) (ht : s.team? cmd.team = some tm) (hop : a.op = 0)
    (hcvt : a.cvt = 0) (hss : a.sspace = 1) (hds : a.dspace = 1) (hapart : a.src + a.len ≤ a.dst ∨ a.dst + a.len ≤ a.src)
    (hsrc : ∀ j < a.len, spot s core cmd 1 (Machine.rowAddr 1 a.src a.sstride 0 j) false = .at_ (.scr cmd.team (a.src + j)))
    (hdst : ∀ j < a.len, spot s core cmd 1 (Machine.rowAddr 1 a.dst a.dstride 0 j) true = .at_ (.scr cmd.team (a.dst + j))) :
    Placed (fun j => .scr cmd.team (a.dst + j)) (fun j => tm.byte (a.src + j)) a.len
      (copyGroups s core cmd a 1 1 a.len a.len (firstRun s cmd)) := by
  refine copyGroups_induct (fun j hj r hr => ?_) a.len 0 _ (Nat.zero_add _) (.first _ _ hpos)
  obtain rfl : r.pos = j := hr.pos
  have hbyte : sourceByte s r (.scr cmd.team (a.src + r.pos)) = tm.byte (a.src + r.pos) := by
    have hnew : Tab.find? r.seen (Place.scr cmd.team (a.src + r.pos)).code = none := by
      by_contra hx
      obtain ⟨i, hi, he⟩ := hr.seen _ hx
      simp only [Place.code] at he
      omega
    simp only [sourceByte, hnew, rdPlace, ht]
  refine ⟨_, hr.next (draws := r.draws + 1)
    (bad := if poisonedAt s (.scr cmd.team (a.src + r.pos)) 1 then r.bad ++ [.scr cmd.team (a.dst + r.pos)] else r.bad), fun fuel => ?_⟩
  rw [copyGroups_byte (by omega) hcvt hss hr.stop hj (hsrc _ hj), hbyte,
    writeGroup_place (by omega) (by exact hr.stop) (by rw [hds]; exact hdst _ hj)]

end

theorem copyMovesBytes : Sys2Proof.Claims.CopyMovesBytes := by
  intro s core k cmd tm hc hlive hpos hrun hok hwait hserved ht a hop hcvt hrows hss hds hapart hsize
  obtain ⟨-, -, hsrc, hdst⟩ := of_not_malformed hok
  have hlen : a.len ≤ 2 ^ 24 := (len_copyArgs _).le
  have ha : copyArgs cmd.words = a := rfl
  clear_value a
  rw [ha] at hsrc hdst
  have hcopy : copyRows a = (0, a.len, a.len) := by simp [copyRows, hop, hcvt, cvtSize, hrows]
  simp only [hop, hss, hds, hcopy, OfNat.zero_ne_ofNat, zero_ne_one, if_false, ne_eq, not_false_eq_true,
    forall_const, true_or] at hsrc hdst
  have hsrc (j : Nat) (hj : j < a.len) := scr_of_rowsOk ht hsize hlen hsrc hj
  have hdst (j : Nat) (hj : j < a.len) := scr_of_rowsOk ht hsize hlen hdst hj
  have hteam : (slotsGiven s (.cmd core k)).team? cmd.team = some tm := (slotsGiven_keeps (State.team? · cmd.team) (fun _ _ => rfl) s _).trans ht
  have hr := placed_of_copy (s := slotsGiven s (.cmd core k)) (core := core) hpos hteam hop hcvt hss hds hapart
    (fun j hj => (scrSpot_slotsGiven ..).trans (hsrc j hj).1) (fun j hj => (scrSpot_slotsGiven ..).trans (hdst j hj).1)
  obtain ⟨r, hr'⟩ : ∃ r, copyGroups (slotsGiven s (.cmd core k)) core cmd a 1 1 a.len a.len (firstRun (slotsGiven s (.cmd core k)) cmd) = r :=
    ⟨_, rfl⟩
  rw [hr'] at hr
  obtain ⟨c, hcmd, hdone⟩ := cmd_moved ((cmd_slotsGiven ..).trans hc) r
  have hop2 : (copyArgs cmd.words).op ≠ 2 := by simp [ha, hop]
  have hkept : ((moved (slotsGiven s (.cmd core k)) core k cmd r).mem, (moved (slotsGiven s (.cmd core k)) core k cmd r).units) =
      (s.mem, s.units) := by
    let g (s : State) : Tab Byte × Tab UnitSt := (s.mem, s.units)
    refine (moved_keeps_of_ne g hop2 (fun _ _ => rfl) (fun _ _ => rfl) (fun _ _ => rfl) (fun _ _ => rfl) r).trans ?_
    rw [hr.out, deviceWrite_scr]
    exact (wrPlaces_keeps g (fun s p b => congrArg₂ Prod.mk (wrLocal_mem s p b) (wrLocal_units s p b)) (fun _ _ => rfl) _ _).trans
      (slotsGiven_keeps g (fun _ _ => rfl) s _)
  have hteam' : (moved (slotsGiven s (.cmd core k)) core k cmd r).team? cmd.team =
      some ((List.range a.len).foldl (fun t j => t.setByte (a.dst + j) (tm.byte (a.src + j))) tm) := by
    rw [moved_keeps_of_ne (State.team? · cmd.team) hop2 (fun _ _ => rfl) (fun _ _ => rfl) (fun _ _ => rfl) (fun _ _ => rfl), hr.out,
      deviceWrite_scr, team_wrPlaces_scr]
    exact congrArg (Option.map _) hteam
  obtain ⟨hmem, hunits⟩ := Prod.mk.inj hkept
  refine ⟨_, _, c, congrArg Host.Outcome.next (copyStep_moved (i := 1) (o := 1) (n := a.len) hc hlive hrun hok hwait hserved hpos (by rw [ha, hrows])
    (by rw [ha, hcopy]) (by simp [ha, hop, hcvt, cvtSize]) (by rw [ha]; exact hr') hr.stop hr.lines), hmem, hunits, hteam', fun j hj => ?_, fun o ho => ?_, hcmd, hdone⟩
  · rw [byte_foldl_setByte, if_pos (by omega), Nat.add_sub_cancel_left]
  · rw [byte_foldl_setByte, if_neg (by omega)]

/-! FILL (R229) -/

section
variable {s : State} {core : Nat} {cmd : CopyCmd} {a : CopyArgs}

/-- Byte j of what a FILL writes. -/
def fillByte (a : CopyArgs) (j : Nat) : Byte := (bytesOf 4 (a.src % 2 ^ 32)).getD (j % 4) 0

/-- The bytes of a FILL of one row of global memory. -/
theorem placed_of_fill {pa : Nat} (hpos : cmd.pos = 0) (hop : a.op = 1) (hds : a.dspace = 0)
    (hdst : ∀ j < a.len, spot s core cmd 0 (Machine.rowAddr 0 a.dst a.dstride 0 j) true = .at_ (.glob (pa + j))) :
    Placed (fun j => .glob (pa + j)) (fillByte a) a.len (copyGroups s core cmd a 4 4 a.len a.len (firstRun s cmd)) := by
  refine copyGroups_induct (fun j hj r hr => ?_) a.len 0 _ (Nat.zero_add _) (.first _ _ hpos)
  obtain rfl : r.pos = j := hr.pos
  refine ⟨_, hr.next (draws := r.draws) (bad := r.bad), fun fuel => ?_⟩
  rw [copyGroups_fill hop hr.stop hj, writeGroup_place (by omega) hr.stop (by rw [hds]; exact hdst _ hj), hr.lines]
  rfl

end

theorem run_map_range (pa n : Nat) (f : Nat → Byte) : run pa ((List.range n).map f) = (List.range n).map fun j => (pa + j, f j) :=
  List.ext_getElem (by simp [run]) (by simp [run])

theorem teams_sliceWrite (s : State) (ws : List (Nat × Byte)) : (sliceWrite s ws).teams = s.teams := by
  have h := congrArg State.teams (besideSlices_sliceWrite s ws)
  exact h

theorem clearStruck_keeps {α : Type} (g : State → α) (hs : ∀ s l, g { s with struck := l } = g s) (s : State) (ws : List (Place × Byte)) :
    g (clearStruck s ws) = g s := by
  unfold clearStruck
  split
  · rfl
  · exact hs _ _

/-- Consecutive bytes of global memory reach their home slices as one run. -/
theorem deviceWrite_glob (s : State) (pa : Nat) {n : Nat} (hn : 0 < n) (f : Nat → Byte) {t : State}
    (ht : deviceWrite s ((List.range n).map fun j => (.glob (pa + j), f j)) = t) :
    t.units = s.units ∧ t.teams = s.teams ∧ ∀ b, rd8 t b = rd8 (sliceWrite s (run pa ((List.range n).map f))) b := by
  have hglob : ((List.range n).map fun j => (Place.glob (pa + j), f j)).filterMap
      (fun w => match w.1 with | .glob pa => some (pa, w.2) | _ => none) = run pa ((List.range n).map f) := by
    rw [run_map_range, List.filterMap_map]
    exact congrFun (List.filterMap_eq_map (f := fun j => (pa + j, f j))) (List.range n)
  have hne : run pa ((List.range n).map f) ≠ [] := by
    rw [run_map_range]
    simpa using hn.ne'
  have hclear (ws : List (Place × Byte)) : ∃ l, clearStruck s ws = { s with struck := l } := by
    unfold clearStruck
    split
    · exact ⟨s.struck, rfl⟩
    · exact ⟨_, rfl⟩
  have hlocal : ((List.range n).map fun j => (Place.glob (pa + j), f j)).foldl (fun s w => wrLocal s w.1 w.2) s = s :=
    foldl_eq_self fun w hw => by
      obtain ⟨j, -, rfl⟩ := List.mem_map.1 hw
      rfl
  obtain ⟨l, hl⟩ := hclear ((List.range n).map fun j => (Place.glob (pa + j), f j))
  obtain rfl : sliceWrite { s with struck := l } (run pa ((List.range n).map f)) = t := by
    refine .trans ?_ ((if_neg (hglob ▸ hne)).symm.trans ht)
    rw [wrPlaces, hlocal, hl]
    exact (congrArg (sliceWrite _) hglob).symm
  refine ⟨sliceWrite_units .., teams_sliceWrite .., fun b => ?_⟩
  rw [rd8_sliceWrite, rd8_sliceWrite]
  rfl

/-- The first part of the statement on fills: FILL. -/
theorem fill_writes_memory {s : State} {core k : Nat} {cmd : CopyCmd} {pa : Nat} (hc : cmd? s core k = some cmd) (hlive : cmd.st = .live)
    (hpos : cmd.pos = 0) (hrun : engineStopped s core = false) (hok : copyMalformed s core cmd = some false)
    (hwait : cmdWaits s core k cmd = false) (hserved : Claims.CommandServed s core k cmd (cmdRows s core cmd))
    {a : CopyArgs} (ha : copyArgs cmd.words = a) (hop : a.op = 1) (hrows : a.rows = 0) (hds : a.dspace = 0) (hend : a.dst + a.len ≤ 2 ^ 64)
    (hpages : ∀ j < a.len, xlate s cmd.ctx (a.dst + j) true = .ok (pa + j) ∧ unbackedAt s (pa + j) = false) :
    ∃ t c, exec (.fill core k) s = .next t ∧ t.units = s.units ∧ t.teams = s.teams ∧
      (∀ j < a.len, rd8 t (pa + j) = fillByte a j) ∧
      (∀ b, (b < pa ∨ pa + a.len ≤ b) → rd8 t b = rd8 s b) ∧ cmd? t core k = some c ∧ c.st = .done := by
  obtain ⟨-, ⟨regs, hwords⟩, -, -⟩ := of_not_malformed hok
  rw [ha] at hwords
  have hlen : 0 < a.len := by
    simp only [badWords, hop, Bool.or_eq_false_iff, decide_eq_false_iff_not] at hwords
    omega
  have hr := placed_of_fill (s := slotsGiven s (.cmd core k)) (core := core) (pa := pa) hpos hop hds fun j hj => by
    rw [rowAddr_zero _ (show a.dst + j < 2 ^ 64 by omega)]
    simp only [spot, xlate_slotsGiven, (hpages j hj).1]
  obtain ⟨r, hr'⟩ : ∃ r, copyGroups (slotsGiven s (.cmd core k)) core cmd a 4 4 a.len a.len (firstRun (slotsGiven s (.cmd core k)) cmd) = r :=
    ⟨_, rfl⟩
  rw [hr'] at hr
  obtain ⟨c, hcmd, hdone⟩ := cmd_moved ((cmd_slotsGiven s (.cmd core k) core k).trans hc) r
  have hop2 : (copyArgs cmd.words).op ≠ 2 := by simp [ha, hop]
  obtain ⟨hunits, hteams, hbytes⟩ := deviceWrite_glob { slotsGiven s (.cmd core k) with draws := r.draws } pa hlen (fillByte a)
    (congrArg (deviceWrite _) hr.out.symm)
  have hkept {α : Type} (g : State → α) := moved_keeps_of_ne (s := slotsGiven s (.cmd core k)) (core := core) (k := k) g hop2
  have hmem : (moved (slotsGiven s (.cmd core k)) core k cmd r).mem = _ :=
    hkept State.mem (fun _ _ => rfl) (fun _ _ => rfl) (fun _ _ => rfl) (fun _ _ => rfl) r
  refine ⟨_, c, congrArg Host.Outcome.next (copyStep_moved (i := 4) (o := 4) (n := a.len) hc hlive hrun hok hwait hserved hpos (by rw [ha, hrows])
    (by simp [ha, copyRows, hop]) (by simp [ha, hop]) (by rw [ha]; exact hr') hr.stop hr.lines), ?_, ?_, fun j hj => ?_, fun b hb => ?_, hcmd, hdone⟩
  · exact (hkept State.units (fun _ _ => rfl) (fun _ _ => rfl) (fun _ _ => rfl) (fun _ _ => rfl) r).trans
      (hunits.trans (slotsGiven_keeps State.units (fun _ _ => rfl) s _))
  · exact (hkept State.teams (fun _ _ => rfl) (fun _ _ => rfl) (fun _ _ => rfl) (fun _ _ => rfl) r).trans
      (hteams.trans (slotsGiven_keeps State.teams (fun _ _ => rfl) s _))
  · have hin : (pa + j, fillByte a j) ∈ run pa ((List.range a.len).map (fillByte a)) := by
      rw [run_map_range]
      exact List.mem_map_of_mem (List.mem_range.2 hj)
    have hbacked : unbackedAt (slotsGiven s (.cmd core k)) (pa + j) = false := (unbackedAt_congr
      (slotsGiven_keeps State.unbacked (fun _ _ => rfl) s _) (slotsGiven_keeps State.mgmt (fun _ _ => rfl) s _) _).trans (hpages j hj).2
    rw [rd8_congr hmem, hbytes]
    refine rd8_sliceWrite_of_mem hin (fun w hw he => ?_) hbacked
    rw [run_map_range] at hw
    obtain ⟨i, -, rfl⟩ := List.mem_map.1 hw
    obtain rfl : i = j := by omega
    rfl
  · rw [rd8_congr hmem, hbytes, rd8_sliceWrite_run_of_outside (by simpa using hb)]
    exact rd8_congr (slotsGiven_keeps State.mem (fun _ _ => rfl) s _) b

/-! VFILL (R229) -/

/-- The first n bytes of a VFILL are gathered for its registers, and nothing has stopped. -/
structure Gathered (byte : Nat → Byte) (n : Nat) (r : CopyRun) : Prop where
  pos : r.pos = n
  stop : r.stop = none
  lines : r.lines = []
  out : r.out = []
  seen : r.seen = []
  regs : r.regs = (List.range n).map (fun j => (j, byte j))

/-- The bytes of a VFILL from a scratchpad. -/
theorem gathered_of_vfill {s : State} {core : Nat} {cmd : CopyCmd} {a : CopyArgs} {tm : Team} (hpos : cmd.pos = 0)
    (ht : s.team? cmd.team = some tm) (hop : a.op = 2) (hcvt : a.cvt = 0) (hss : a.sspace = 1)
    (hsrc : ∀ j < a.len, spot s core cmd 1 (Machine.rowAddr 1 a.src a.sstride 0 j) false = .at_ (.scr cmd.team (a.src + j))) :
    Gathered (fun j => tm.byte (a.src + j)) a.len (copyGroups s core cmd a 1 1 a.len a.len (firstRun s cmd)) := by
  refine copyGroups_induct (fun j hj r hr => ?_) a.len 0 _ (Nat.zero_add _) ⟨hpos, rfl, rfl, rfl, rfl, rfl⟩
  obtain rfl : r.pos = j := hr.pos
  have hbyte : sourceByte s r (.scr cmd.team (a.src + r.pos)) = tm.byte (a.src + r.pos) := by
    simp only [sourceByte, hr.seen, Tab.find?_nil, rdPlace, ht]
  refine ⟨{ r with draws := r.draws + 1, lines := r.lines.eraseDups, regs := r.regs ++ [(r.pos, tm.byte (a.src + r.pos))], pos := r.pos + 1 },
    ⟨rfl, hr.stop, by simp [hr.lines], hr.out, hr.seen, by simp [hr.regs, List.range_succ]⟩, fun fuel => ?_⟩
  rw [copyGroups_byte (by omega) hcvt hss hr.stop hj (hsrc _ hj), hbyte, writeGroup_reg hop (by exact hr.stop)]

/-- A word with its byte i replaced. -/
def putByte (x : Word) (i : Nat) (b : Byte) : Word := w32 (x.toNat - x.toNat / 256 ^ i % 256 * 256 ^ i + b.toNat * 256 ^ i)

/-- One byte of the registers' words, in the table of words. -/
def spanByte (reg : Nat) (t : Tab Word) (w : Nat × Byte) : Tab Word :=
  let key := (reg + w.1 / 128) * 32 + w.1 % 128 / 4
  let old := (Tab.get 0 t key).toNat
  let sh := 256 ^ (w.1 % 4)
  Tab.set 0 t key (w32 (old - old / sh % 256 * sh + w.2.toNat * sh))

theorem writeSpan_eq (un : UnitSt) (reg : Nat) (ws : List (Nat × Byte)) :
    writeSpan un reg ws = { un with regs := { un.regs with v := ws.foldl (spanByte reg) un.regs.v } } := rfl

/-- Byte i of word q of the span takes its place in the word. -/
theorem get_spanByte (reg q i key : Nat) (hi : i < 4) (t : Tab Word) (b : Byte) :
    Tab.get 0 (spanByte reg t (4 * q + i, b)) key = if key = reg * 32 + q then
      putByte (Tab.get 0 t key) i b else Tab.get 0 t key := by
  have hkey : (reg + (4 * q + i) / 128) * 32 + (4 * q + i) % 128 / 4 = reg * 32 + q := by omega
  have hi4 : (4 * q + i) % 4 = i := by omega
  simp only [spanByte, hkey, hi4, Tab.get_set]
  split_ifs with h <;> simp [h, putByte]

/-- Four bytes make a word, whatever stood there. -/
theorem word_of_bytes (x : Word) (b0 b1 b2 b3 : Byte) :
    putByte (putByte (putByte (putByte x 0 b0) 1 b1) 2 b2) 3 b3 = BitVec.ofNat 32 (ofBytes [b0, b1, b2, b3]) := by
  have h0 : (putByte x 0 b0).toNat % 256 = b0.toNat := by
    simp only [putByte, w32, BitVec.toNat_ofNat]
    omega
  generalize putByte x 0 b0 = x at h0 ⊢
  have h1 : (putByte x 1 b1).toNat % 65536 = x.toNat % 256 + 256 * b1.toNat := by
    simp only [putByte, w32, BitVec.toNat_ofNat]
    omega
  generalize putByte x 1 b1 = y at h1 ⊢
  have h2 : (putByte y 2 b2).toNat % 16777216 = y.toNat % 65536 + 65536 * b2.toNat := by
    simp only [putByte, w32, BitVec.toNat_ofNat]
    omega
  generalize putByte y 2 b2 = z at h2 ⊢
  have h3 : (putByte z 3 b3).toNat = z.toNat % 16777216 + 16777216 * b3.toNat := by
    simp only [putByte, w32, BitVec.toNat_ofNat]
    omega
  apply BitVec.eq_of_toNat_eq
  rw [h3, h2, h1, h0]
  simp only [ofBytes, BitVec.toNat_ofNat]
  omega

/-- The words that a VFILL's bytes make, and those it leaves. -/
theorem get_foldl_spanByte (reg : Nat) (f : Nat → Byte) (t : Tab Word) (m key : Nat) :
    Tab.get 0 (((List.range (4 * m)).map fun j => (j, f j)).foldl (spanByte reg) t) key =
      if reg * 32 ≤ key ∧ key < reg * 32 + m then
        BitVec.ofNat 32 (ofBytes ((List.range 4).map fun i => f (4 * (key - reg * 32) + i)))
      else Tab.get 0 t key := by
  induction m with
  | zero => rw [if_neg (by omega)]; rfl
  | succ m ih =>
    rw [show 4 * (m + 1) = 4 * m + 3 + 1 by ring]
    simp only [List.range_succ (n := 4 * m + _), List.range_succ (n := 4 * m), List.map_append, List.map_cons, List.map_nil,
      List.foldl_append, List.foldl_cons, List.foldl_nil]
    have hfirst (t : Tab Word) (b : Byte) : Tab.get 0 (spanByte reg t (4 * m, b)) key =
        if key = reg * 32 + m then putByte (Tab.get 0 t key) 0 b else Tab.get 0 t key := get_spanByte reg m 0 key (by decide) t b
    rw [get_spanByte reg m 3 key (by decide), get_spanByte reg m 2 key (by decide), get_spanByte reg m 1 key (by decide), hfirst]
    by_cases hkey : key = reg * 32 + m
    · subst hkey
      simp only [if_true, word_of_bytes]
      rw [if_pos (by omega), Nat.add_sub_cancel_left]
      rfl
    · simp only [if_neg hkey, ih]
      exact if_congr (by omega) rfl rfl

/-- Registers of a unit after a VFILL: byte p of the span is byte p of the source. -/
theorem readV_writeSpan (un : UnitSt) (reg n : Nat) (f : Nat → Byte) {i l : Nat} (hl : l < 32) :
    readV (writeSpan un reg ((List.range (128 * n)).map fun j => (j, f j))) i l =
      if reg ≤ i ∧ i < reg + n then BitVec.ofNat 32 (ofBytes ((List.range 4).map fun b => f (128 * (i - reg) + 4 * l + b)))
      else readV un i l := by
  rw [readV, writeSpan_eq, show 128 * n = 4 * (32 * n) by ring]
  dsimp only
  rw [get_foldl_spanByte]
  by_cases h : reg ≤ i ∧ i < reg + n
  · rw [if_pos h, if_pos (by omega), show 4 * (i * 32 + l - reg * 32) = 128 * (i - reg) + 4 * l by omega]
  · rw [if_neg h, if_neg (by omega)]
    rfl

/-- The second part of the statement on fills: VFILL from the scratchpad. -/
theorem vfill_writes_registers {s : State} {core k : Nat} {cmd : CopyCmd} {tm : Team} {un : UnitSt} (hc : cmd? s core k = some cmd)
    (hlive : cmd.st = .live) (hpos : cmd.pos = 0) (hrun : engineStopped s core = false) (hok : copyMalformed s core cmd = some false)
    (hwait : cmdWaits s core k cmd = false) (hserved : Claims.CommandServed s core k cmd (cmdRows s core cmd))
    (ht : s.team? cmd.team = some tm) (hu : s.unit? cmd.unit = some un) {a : CopyArgs} (ha : copyArgs cmd.words = a) (hop : a.op = 2)
    (hcvt : a.cvt = 0) (hss : a.sspace = 1) (hsize : tm.scrSize ≤ 2 ^ 24) :
    ∃ t c, exec (.vfill core k) s = .next t ∧ t.mem = s.mem ∧ t.teams = s.teams ∧
      t.unit? cmd.unit = some (writeSpan un (vfillSpan cmd.words).1
        ((List.range (128 * (vfillSpan cmd.words).2)).map fun j => (j, tm.byte (a.src + j)))) ∧
      cmd? t core k = some c ∧ c.st = .done := by
  obtain ⟨-, ⟨regs, hwords⟩, hsrc, -⟩ := of_not_malformed hok
  have hlen : a.len ≤ 2 ^ 24 := ha ▸ (len_copyArgs _).le
  rw [ha] at hwords hsrc
  obtain ⟨hrows, hspan⟩ : a.rows = 0 ∧ a.len = 128 * (vfillSpan cmd.words).2 := by
    simp only [badWords, hop, hcvt, cvtSize, Bool.or_eq_false_iff, decide_eq_false_iff_not, bne_eq_false_iff_eq, not_not] at hwords
    omega
  have hcopy : copyRows a = (0, a.len, a.len) := by simp [copyRows, hop, hcvt, cvtSize, hrows]
  simp only [hop, hss, hcopy, OfNat.ofNat_ne_one, Nat.reduceEqDiff, if_false, ne_eq, not_false_eq_true,
    forall_const] at hsrc
  have hsrc (j : Nat) (hj : j < a.len) := scr_of_rowsOk ht hsize hlen hsrc hj
  have hteam : (slotsGiven s (.cmd core k)).team? cmd.team = some tm := (slotsGiven_keeps (State.team? · cmd.team) (fun _ _ => rfl) s _).trans ht
  have hr := gathered_of_vfill (s := slotsGiven s (.cmd core k)) (core := core) hpos hteam hop hcvt hss
    (fun j hj => (scrSpot_slotsGiven ..).trans (hsrc j hj).1)
  obtain ⟨r, hr'⟩ : ∃ r, copyGroups (slotsGiven s (.cmd core k)) core cmd a 1 1 a.len a.len (firstRun (slotsGiven s (.cmd core k)) cmd) = r :=
    ⟨_, rfl⟩
  rw [hr'] at hr
  obtain ⟨c, hcmd, hdone⟩ := cmd_moved ((cmd_slotsGiven s (.cmd core k) core k).trans hc) r
  have hdevice : let g (s : State) : Tab Byte × Tab Team × Tab UnitSt := (s.mem, s.teams, s.units)
      g (poisonPlaces (deviceWrite { slotsGiven s (.cmd core k) with draws := r.draws } r.out) r.bad) = g s := by
    intro g
    rw [poisonPlaces_keeps g (fun _ _ => rfl) (fun _ _ => rfl), hr.out]
    exact (clearStruck_keeps g (fun _ _ => rfl) _ []).trans (slotsGiven_keeps g (fun _ _ => rfl) s _)
  obtain ⟨hmem, hrest⟩ := Prod.mk.inj hdevice
  obtain ⟨hteams, hunits⟩ := Prod.mk.inj hrest
  have hwritten : written (slotsGiven s (.cmd core k)) cmd r =
      (poisonPlaces (deviceWrite { slotsGiven s (.cmd core k) with draws := r.draws } r.out) r.bad).modUnit cmd.unit
        (fun un => writeSpan un (vfillSpan cmd.words).1 r.regs) := if_pos (ha ▸ hop)
  have hkept {α : Type} (g : State → α) := moved_keeps (s := slotsGiven s (.cmd core k)) (core := core) (k := k) (cmd := cmd) g
  refine ⟨_, c, congrArg Host.Outcome.next (copyStep_moved (i := 1) (o := 1) (n := a.len) hc hlive hrun hok hwait hserved hpos
    (by rw [ha, hrows]) (by rw [ha, hcopy]) (by simp [ha, hop, hcvt, cvtSize]) (by rw [ha]; exact hr') hr.stop hr.lines), ?_, ?_, ?_, hcmd, hdone⟩
  · rw [hkept State.mem (fun _ _ => rfl) (fun _ _ => rfl), hwritten]
    exact hmem
  · rw [hkept State.teams (fun _ _ => rfl) (fun _ _ => rfl), hwritten]
    exact hteams
  · rw [hkept (State.unit? · cmd.unit) (fun _ _ => rfl) (fun _ _ => rfl), hwritten, State.unit_modUnit_self, ← hspan, hr.regs, State.unit?,
      hunits, ← State.unit?, hu]
    rfl

theorem fillsWriteBytes : Sys2Proof.Claims.FillsWriteBytes := by
  refine ⟨?_, ?_⟩
  · intro s core k cmd pa hc hlive hpos hrun hok hwait hserved a hop hrows hds hend hpages
    exact fill_writes_memory hc hlive hpos hrun hok hwait hserved rfl hop hrows hds hend hpages
  · intro s core k cmd tm un hc hlive hpos hrun hok hwait hserved ht hu a span hop hcvt hss hsize
    obtain ⟨t, c, hexec, hmem, hteams, hunit, hcmd, hdone⟩ :=
      vfill_writes_registers hc hlive hpos hrun hok hwait hserved ht hu rfl hop hcvt hss hsize
    refine ⟨t, _, c, hexec, hmem, hteams, hunit, fun i hi l hl => ?_, fun n l hl hn => ?_, hcmd, hdone⟩
    · rw [readV_writeSpan _ _ _ _ hl, if_pos ⟨Nat.le_add_right .., Nat.add_lt_add_left hi _⟩, Nat.add_sub_cancel_left, scrBytes]
      simp only [Nat.add_assoc]
      rfl
    · rw [readV_writeSpan _ _ _ _ hl, if_neg (fun h => hn.elim h.1.not_gt h.2.not_ge)]

/-- Settles O34: by an invariant of the loop over the bytes, for what they become at places and for what they become in registers. -/
theorem copyEngineMovesBytes : Obligations.CopyEngineMovesBytes := ⟨copyMovesBytes, fillsWriteBytes⟩

end Sys2Proof.Safety
end

section
/-! Exchange plans, their sends, and the end of a command (O35). -/

open Sys2Proof Sys2Proof.Machine
namespace Sys2Proof.Safety

section
variable {s : State} {core k : Nat} {cmd : CopyCmd} {tm : Team}

/-! The next send of a plan (R366) -/

theorem planNext_some {i : Nat} {e : PlanEntry} (hc : cmd? s core k = some cmd) (he : sendOf cmd i = some e) :
    planNext s core k i = { s.later (max 1 (cmd.rel + e.off - s.now) + Config.latency s.draws) (.event (.planSend core k i)) with
      draws := s.draws + 1 } := by
  simp only [planNext, hc, he]

/-- Planning the next send touches the command alone. -/
theorem planNext_keeps {α : Type} (g : State → α) (hm : ∀ s f, g (modCmd s core k f) = g s) (hl : ∀ s e, g (State.laterFree s e) = g s)
    (hd : ∀ s d t n, g { State.later s d t with draws := n } = g s) (s : State) (i : Nat) : g (planNext s core k i) = g s := by
  unfold planNext
  split
  · rfl
  · split
    · exact hd ..
    · exact (hl ..).trans (hm ..)

theorem cmd_planNext (hc : cmd? s core k = some cmd) (i : Nat) : ∃ st, cmd? (planNext s core k i) core k = some { cmd with st := st } := by
  unfold planNext
  rw [hc]
  dsimp only
  split
  · exact ⟨cmd.st, hc⟩
  · exact ⟨_, cmd_cmdDone_self hc⟩

theorem cmd_sent (hc : cmd? s core k = some cmd) (i : Nat) : ∃ st,
    cmd? (planNext (modCmd s core k (fun c => { c with sends := i })) core k i) core k = some { cmd with sends := i, st := st } :=
  cmd_planNext ((cmd_modCmd_self ..).trans (congrArg (Option.map _) hc)) i

/-! The acceptance of a PLAN (R366, R367) -/

/-- The state in which a PLAN has been read and latched, before its first send is planned. -/
def planAccepted (s : State) (core k : Nat) (cmd : CopyCmd) (tm : Team) (c rel : Nat) : State :=
  let at_ := (copyArgs cmd.words).src
  modCmd (s.modTeam cmd.team (fun t =>
    { t with planAt := some c, latch := some (t.latch.getD (at_, 16 + 16 * leAt (scrBytes tm at_ 2) 0 2)) })) core k
    (fun c => { c with rel := rel, plan := planEntries tm at_, sends := 0 })

theorem exec_plan {g : Task} {c rel : Nat} (hc : cmd? s core k = some cmd) (hlive : cmd.st = .live)
    (hrun : engineStopped s core = false) (hok : copyMalformed s core cmd = some false) (hwait : cmdWaits s core k cmd = false)
    (hserved : Claims.CommandServed s core k cmd (cmdRows s core cmd)) (ht : s.team? cmd.team = some tm) (hg : s.task? tm.task = some g)
    (hbusy : scrBusy (s.core core) = false) (hphase : (Tab.find? g.phase core).getD (0, 0) = (c, rel)) (hsuper : g.rec_.superstep = true)
    (hsump : tm.sump = false) (hodd : c % 2 = 1) (hnew : tm.planAt ≠ some c) (hlatch : tm.latch = none)
    (hplan : planOk tm (copyArgs cmd.words).src (g.rec_.count * (g.rec_.clw * g.rec_.clh)) = true) :
    exec (.plan core k) s = .next (planNext (planAccepted (slotsGiven s (.cmd core k)) core k cmd tm c rel) core k 0) := by
  have hteam : (slotsGiven s (.cmd core k)).team? cmd.team = some tm := (slotsGiven_keeps (State.team? · cmd.team) (fun _ _ => rfl) s _).trans ht
  have htask : (slotsGiven s (.cmd core k)).task? tm.task = some g := (slotsGiven_keeps (State.task? · tm.task) (fun _ _ => rfl) s _).trans hg
  have hbusy' : scrBusy ((slotsGiven s (.cmd core k)).core core) = false := (core_slotsGiven_keeps scrBusy (fun _ _ => rfl) s _ core).trans hbusy
  refine congrArg Host.Outcome.next ((copyStep_of_served hc hlive hrun hok hwait hserved).trans ?_)
  simp only [hteam, htask, hbusy', hphase, hsuper, hsump, hnew, hlatch, hplan]
  simp [hodd, planAccepted]

/-- The number of entries of a plan that keeps its table, and the entries it has. -/
theorem entries_of_planOk {at_ k : Nat} (h : planOk tm at_ k = true) :
    let n := leAt (scrBytes tm at_ 2) 0 2
    1 ≤ n ∧ planEntries tm at_ = (List.range n).map (fun i => scrBytes tm (at_ + 16 + 16 * i) 16) := by
  simp only [planOk, Bool.and_eq_true, decide_eq_true_eq] at h
  obtain ⟨⟨⟨⟨⟨⟨-, hn⟩, -⟩, -⟩, -⟩, -⟩, -⟩ := h
  exact ⟨hn.1, by rw [planEntries, Nat.min_eq_right hn.2]⟩

/-- The first four bytes of an entry are its cycle. -/
theorem off_parseEntry (bs : List Byte) : (parseEntry bs).off = leAt bs 0 4 := rfl

/-! The granules of a send (R366) -/

theorem performSend_some {key : Nat} {x : Team} {e : PlanEntry} (hfit : 64 * e.dst + 64 * e.len ≤ x.scrSize)
    (hlatch : latched x (64 * e.dst) (64 * e.len) = false) (ht : s.team? cmd.team = some tm) :
    ∃ bad, performSend s core k cmd e (some (key, x)) =
      poisonPlaces (wrPlaces s ((List.range (64 * e.len)).map fun j => (.scr key (64 * e.dst + j), tm.byte (64 * e.src + j)))) bad := by
  have hwrites : ((List.range (64 * e.len)).map fun j => Place.scr cmd.team (64 * e.src + j)).zipIdx.map
      (fun p => (Place.scr key (64 * e.dst + p.2), rdPlace s p.1)) =
      (List.range (64 * e.len)).map fun j => (.scr key (64 * e.dst + j), tm.byte (64 * e.src + j)) :=
    List.ext_getElem (by simp) fun i _ _ => by simp [rdPlace, ht]
  rw [performSend, if_neg (Nat.not_lt.2 hfit), hlatch, if_neg Bool.false_ne_true]
  dsimp only
  rw [hwrites]
  exact ⟨_, rfl⟩

/-- A send whose engine runs and whose banks have given their slots is performed, and the next one planned. -/
theorem exec_planSend {i : Nat} {e : PlanEntry} {x : Option (Nat × Team)} (hc : cmd? s core k = some cmd) (ht : s.team? cmd.team = some tm)
    (hlive : cmd.st = .live) (hi : cmd.sends = i) (he : sendOf cmd i = some e) (hdue : cmd.rel + e.off ≤ s.now)
    (hx : planTarget s tm.task e = x) (hrun : engineStopped s core = false) (hbusy : scrBusy (s.core core) = false)
    (hbusy' : ∀ z, x = some z → scrBusy (s.core z.2.core) = false) (hwait : runsWait s core k (sendRuns s cmd e) = false)
    (hserved : Claims.CommandServed s core k cmd (sendRows s core cmd e x)) :
    exec (.planSend core k i) s = .next (planNext (modCmd (performSend (slotsGiven s (.cmd core k)) core k cmd e x) core k
      (fun c => { c with sends := i + 1 })) core k (i + 1)) := by
  obtain ⟨-, hrows, hnone⟩ := hserved
  show execPlanSend core k i s = _
  rw [execPlanSend]
  simp only [hc, ht, he, hx, hlive, hi, hrun, hbusy, hwait, ne_eq, not_true_eq_false, false_or, Nat.not_lt.2 hdue, if_false, Bool.or_false,
    Bool.false_or]
  cases x with
  | none =>
    simp only [Bool.false_eq_true, if_false]
    exact congrArg _ (withSlots_of_served hrows hnone _ _)
  | some z =>
    simp only [hbusy' z rfl, Bool.false_eq_true, if_false]
    exact congrArg _ (withSlots_of_served hrows hnone _ _)

end

theorem exchangePlans : Sys2Proof.Claims.ExchangePlans := by
  refine ⟨?_, ?_, ?_⟩
  · intro s core k cmd tm g c rel hc hlive hrun hok hwait hserved ht hg hbusy hphase hsuper hsump hodd hnew hlatch at_ n hplan
    obtain ⟨hn, hentries⟩ := entries_of_planOk hplan
    have hteam : (slotsGiven s (.cmd core k)).team? cmd.team = some tm := (slotsGiven_keeps (State.team? · cmd.team) (fun _ _ => rfl) s _).trans ht
    have hacc : cmd? (planAccepted (slotsGiven s (.cmd core k)) core k cmd tm c rel) core k =
        some { cmd with rel := rel, plan := planEntries tm at_, sends := 0 } :=
      (cmd_modCmd_self ..).trans (congrArg (Option.map _) ((cmd_slotsGiven ..).trans hc))
    have hsend : sendOf { cmd with rel := rel, plan := planEntries tm at_, sends := 0 } 0 = some (parseEntry (scrBytes tm (at_ + 16) 16)) := by
      rw [sendOf, hentries, List.getElem?_map, List.getElem?_range hn]
      rfl
    have hnow : (planAccepted (slotsGiven s (.cmd core k)) core k cmd tm c rel).now = s.now := slotsGiven_keeps State.now (fun _ _ => rfl) s _
    obtain ⟨st, hcmd⟩ := cmd_planNext hacc 0
    refine ⟨_, _, _, s.now + (max 1 (rel + leAt (scrBytes tm (at_ + 16) 16) 0 4 - s.now) + Config.latency (slotsGiven s (.cmd core k)).draws),
      exec_plan hc hlive hrun hok hwait hserved ht hg hbusy hphase hsuper hsump hodd hnew hlatch hplan,
      (planNext_keeps (State.team? · cmd.team) (fun _ _ => rfl) (fun _ _ => rfl) (fun _ _ _ _ => rfl) _ 0).trans
        ((State.team_modTeam_self ..).trans (congrArg (Option.map _) hteam)), by simp [hlatch, at_, n], rfl, hcmd, hentries, rfl, rfl, ?_, by omega, by omega⟩
    rw [planNext_some hacc hsend, ← hnow]
    exact State.mem_later _ _ _
  · intro s core k i cmd tm key x e hc ht hlive hi he hdue htarget hx hrun hbusy hbusy' hwait hserved n hfit hlatch
    have hteam : (slotsGiven s (.cmd core k)).team? cmd.team = some tm := (slotsGiven_keeps (State.team? · cmd.team) (fun _ _ => rfl) s _).trans ht
    have hkey : (slotsGiven s (.cmd core k)).team? key = some x := (slotsGiven_keeps (State.team? · key) (fun _ _ => rfl) s _).trans hx
    obtain ⟨bad, hsent⟩ := performSend_some (s := slotsGiven s (.cmd core k)) (core := core) (k := k) hfit hlatch hteam
    have hexec := exec_planSend hc ht hlive hi he hdue htarget hrun hbusy (fun z hz => Option.some.inj hz ▸ hbusy') hwait hserved
    rw [hsent] at hexec
    obtain ⟨ws, hws⟩ : ∃ ws, (List.range (64 * e.len)).map (fun j => (Place.scr key (64 * e.dst + j), tm.byte (64 * e.src + j))) = ws :=
      ⟨_, rfl⟩
    rw [hws] at hexec
    have hkept {α : Type} (g : State → α) (hp : ∀ s l, g { s with poison := l } = g s) (hs : ∀ s l, g { s with struck := l } = g s)
        (hm : ∀ s f, g (modCmd s core k f) = g s) (hl : ∀ s e, g (State.laterFree s e) = g s)
        (hd : ∀ s d t n, g { State.later s d t with draws := n } = g s) (t : State) :
        g (planNext (modCmd (poisonPlaces t bad) core k (fun c => { c with sends := i + 1 })) core k (i + 1)) = g t :=
      (planNext_keeps g hm hl hd ..).trans ((hm ..).trans (poisonPlaces_keeps g hp hs ..))
    have hbeside : let g (s : State) : Tab Byte × Tab UnitSt := (s.mem, s.units)
        g (planNext (modCmd (poisonPlaces (wrPlaces (slotsGiven s (.cmd core k)) ws) bad) core k (fun c => { c with sends := i + 1 }))
          core k (i + 1)) = g s := by
      intro g
      refine (hkept g (fun _ _ => rfl) (fun _ _ => rfl) (fun _ _ => rfl) (fun _ _ => rfl) (fun _ _ _ _ => rfl) _).trans ?_
      exact (wrPlaces_keeps g (fun s p b => congrArg₂ Prod.mk (wrLocal_mem s p b) (wrLocal_units s p b)) (fun _ _ => rfl) ..).trans
        (slotsGiven_keeps g (fun _ _ => rfl) ..)
    have hcmd : cmd? (poisonPlaces (wrPlaces (slotsGiven s (.cmd core k)) ws) bad) core k = some cmd :=
      (poisonPlaces_keeps (cmd? · core k) (fun _ _ => rfl) (fun _ _ => rfl) ..).trans
        ((wrPlaces_keeps (cmd? · core k) (fun s p b => cmd_wrLocal s p b core k) (fun _ _ => rfl) ..).trans ((cmd_slotsGiven ..).trans hc))
    obtain ⟨hmem, hunits⟩ := Prod.mk.inj hbeside
    obtain ⟨st, hsends⟩ := cmd_sent hcmd (i + 1)
    have hwritten : (wrPlaces (slotsGiven s (.cmd core k)) ws).team? key =
        some ((List.range (64 * e.len)).foldl (fun t j => t.setByte (64 * e.dst + j) (tm.byte (64 * e.src + j))) x) :=
      hws ▸ (team_wrPlaces_scr ..).trans (congrArg (Option.map _) hkey)
    refine ⟨_, _, _, hexec, hmem, hunits,
      (hkept (State.team? · key) (fun _ _ => rfl) (fun _ _ => rfl) (fun _ _ => rfl) (fun _ _ => rfl) (fun _ _ _ _ => rfl) _).trans hwritten,
      fun j hj => ?_, fun o ho => ?_, hsends, rfl⟩
    · rw [byte_foldl_setByte, if_pos (by omega), Nat.add_sub_cancel_left]
    · rw [byte_foldl_setByte, if_neg (by omega)]
  · intro s core k i cmd tm e hc ht hlive hi hok he hdue htarget hrun hbusy hwait hserved
    have hexec := exec_planSend hc ht hlive hi he hdue htarget hrun hbusy (fun z hz => nomatch hz) hwait hserved
    have hfail : cmd? (failSend (slotsGiven s (.cmd core k)) core k (64 * e.dst)) core k =
        some { cmd with failed := true, addr := dw (64 * e.dst) } := by
      refine (cmd_modCmd_self ..).trans ?_
      rw [cmd_slotsGiven, hc]
      simp [hok]
    obtain ⟨st, hsends⟩ := cmd_sent hfail (i + 1)
    have hkept {α : Type} (g : State → α) (hm : ∀ s f, g (modCmd s core k f) = g s) (hl : ∀ s e, g (State.laterFree s e) = g s)
        (hd : ∀ s d t n, g { State.later s d t with draws := n } = g s) (hb : ∀ s q, g (dropSlots s q) = g s) :
        g (planNext (modCmd (failSend (slotsGiven s (.cmd core k)) core k (64 * e.dst)) core k (fun c => { c with sends := i + 1 })) core k
          (i + 1)) = g s :=
      (planNext_keeps g hm hl hd ..).trans ((hm ..).trans ((hm ..).trans (slotsGiven_keeps g hb ..)))
    exact ⟨_, _, hexec, hkept State.mem (fun _ _ => rfl) (fun _ _ => rfl) (fun _ _ _ _ => rfl) (fun _ _ => rfl),
      hkept State.teams (fun _ _ => rfl) (fun _ _ => rfl) (fun _ _ _ _ => rfl) (fun _ _ => rfl), hsends, rfl, rfl, rfl⟩

/-! The end of a command (R229 to R231) -/

/-- A run of consecutive writes: the value written at each of its keys, and what stood there at every other. -/
theorem get_foldl_set_range {α : Type} [DecidableEq α] (d : α) (r n : Nat) (f : Nat → α) (t : Tab α) (key : Nat) :
    Tab.get d ((List.range n).foldl (fun t i => Tab.set d t (r + i) (f i)) t) key =
      if r ≤ key ∧ key < r + n then f (key - r) else Tab.get d t key := by
  induction n with
  | zero => rw [if_neg (by omega)]; rfl
  | succ n ih =>
    rw [List.range_succ, List.foldl_append, List.foldl_cons, List.foldl_nil, Tab.get_set, ih]
    by_cases h : key = r + n
    · rw [if_pos h, if_pos (by omega), h, Nat.add_sub_cancel_left]
    · rw [if_neg h]
      exact if_congr (by omega) rfl rfl

theorem get_setVfe (un : UnitSt) (r n : Nat) (f : Fe) {i : Nat} (hi : i < n) : Tab.get .full (setVfe un r n f).regs.vfe (r + i) = f :=
  (get_foldl_set_range Fe.full r n (fun _ => f) un.regs.vfe (r + i)).trans (if_pos (by omega))

/-- A unit once a command of it has ended. -/
def commandEnded (s : State) (un : UnitSt) (cmd : CopyCmd) : UnitSt :=
  endInBatch (if (copyArgs cmd.words).op = 2 then setVfe un (vfillRegs s un cmd.words).1 (vfillRegs s un cmd.words).2 .full else un) cmd

/-- The batch of a command once it has ended. -/
def endedBatch (un : UnitSt) (cmd : CopyCmd) : Batch :=
  let b := Tab.get ⟨0, none, []⟩ un.eng.batches cmd.batch.toNat
  { left := b.left - 1, failed := if cmd.malformed || cmd.failed then some (b.failed.getD cmd.addr) else b.failed,
    writes := b.writes ++ cmd.writes }

theorem eng_commandEnded (s : State) (un : UnitSt) (cmd : CopyCmd) :
    (commandEnded s un cmd).eng = { un.eng with batches := Tab.put un.eng.batches cmd.batch.toNat (endedBatch un cmd) } := by
  unfold commandEnded endInBatch
  split <;> rfl

theorem vfe_commandEnded {s : State} {un : UnitSt} {cmd : CopyCmd} {tm : Team} (hop : (copyArgs cmd.words).op = 2)
    (ht : s.team? un.at_.team = some tm) (hfit : (vfillSpan cmd.words).1 + (vfillSpan cmd.words).2 ≤ 8 * tm.regblk) {i : Nat}
    (hi : i < (vfillSpan cmd.words).2) : Tab.get .full (commandEnded s un cmd).regs.vfe ((vfillSpan cmd.words).1 + i) = .full := by
  have hn : i < (vfillRegs s un cmd.words).2 := by
    simp only [vfillRegs, regblkOf, ht]
    omega
  rw [commandEnded, if_pos hop]
  exact get_setVfe un _ _ _ hn

theorem commandCompletes : Sys2Proof.Claims.CommandCompletes := by
  intro s core k cmd un hc hdone hu a bad cause b
  let s1 := s.modCore core (fun c => { c with cmds := Tab.del c.cmds k })
  let s2 := s1.modUnit cmd.unit (fun un => commandEnded s1 un cmd)
  have hu2 : s2.unit? cmd.unit = some (commandEnded s1 un cmd) := (State.unit_modUnit_self ..).trans (congrArg (Option.map _) hu)
  have hgone : cmd? s2 core k = none := by
    simp [s2, s1, cmd?, Tab.find?_del_self]
  have hcause : (if !bad then 0 else if cmd.malformed || a.op == 4 then causeEngineError else causePagePerm) = cause := by simp [cause]
  have hexec : exec (.copyComplete core k) s = .next (if bad || a.notify then
      sendRecord s2 cmd.unit 0 [w32 (cause + 256 * cmd.flags), cmd.batch] cmd.writes else s2) := by
    rw [← hcause]
    show execCopyComplete core k s = _
    rw [execCopyComplete]
    simp only [hc, hdone, ne_eq, not_true_eq_false, if_false]
    rfl
  obtain ⟨un', hun', hregs, hbatches, hwaiting⟩ : ∃ un', (if bad || a.notify then
      sendRecord s2 cmd.unit 0 [w32 (cause + 256 * cmd.flags), cmd.batch] cmd.writes else s2).unit? cmd.unit = some un' ∧
      un'.regs = (commandEnded s1 un cmd).regs ∧ un'.eng.batches = (commandEnded s1 un cmd).eng.batches ∧
      un'.eng.waiting = un.eng.waiting ++ (if bad || a.notify then
        [(0, ⟨[BitVec.ofNat 32 (cause + 256 * cmd.flags), cmd.batch], cmd.writes, true⟩)] else []) := by
    by_cases hsend : (bad || a.notify) = true
    · simp only [if_pos hsend, sendRecord, hu2]
      exact ⟨_, State.unit_putUnit_self .., rfl, rfl, by rw [eng_commandEnded]⟩
    · simp only [if_neg hsend, List.append_nil]
      exact ⟨_, hu2, rfl, rfl, by rw [eng_commandEnded]⟩
  refine ⟨_, un', endedBatch un cmd, hexec, ?_, ?_, hun', ?_, rfl, rfl, fun hb => ?_, fun hb => ?_, fun tm hop ht hfit i hi => ?_, hwaiting⟩
  · exact ite_keeps (g := State.mem) (by rw [sendRecord, hu2]; rfl) rfl
  · exact ite_keeps (g := (cmd? · core k)) (by rw [sendRecord, hu2]; exact hgone) hgone
  · rw [hbatches, eng_commandEnded, Tab.find?_put_self]
  · exact if_neg (Bool.eq_false_iff.1 hb)
  · exact if_pos hb
  · rw [hregs]
    exact vfe_commandEnded hop ht hfit hi

/-- Settles O35: a PLAN from its acceptance through its sends, and the end of any command. -/
theorem plansAndCompletions : Obligations.PlansAndCompletions := ⟨exchangePlans, commandCompletes⟩

end Sys2Proof.Safety
end

section
/-! Merge sessions: what every step of the fabric keeps of them, and their opening, frames and closing (O36). -/

open Sys2Proof Sys2Proof.Machine
namespace Sys2Proof.Safety

section
variable {s t u : State} {d id : Nat} {x y z : Session}

/-! What combining tiles keeps of a node, of a session and of a state -/

/-- A node goes on: its span stands, and what it has closed and declared absent stays so. -/
structure NodeGrows (n m : Node) : Prop where
  lo : m.lo = n.lo
  hi : m.hi = n.hi
  closed : ∀ f, n.closed.contains f = true → m.closed.contains f = true
  absentL : n.absentL = true → m.absentL = true
  absentR : n.absentR = true → m.absentR = true

/-- A frame goes on: it may close, and nothing else of it changes. -/
def FrameGrows (r q : Frame) : Prop := q = r ∨ q = { r with closed := true }

/-- A session goes on: its nodes and frames do, and ranks declared absent stay so. -/
structure SessionGrows (x y : Session) : Prop where
  highest : y.highest = x.highest
  absent : x.absent ⊆ y.absent
  nodes : ∀ lo hi n, x.node? lo hi = some n → ∃ m, y.node? lo hi = some m ∧ NodeGrows n m
  frames : ∀ f r, x.frame? f = some r → ∃ q, y.frame? f = some q ∧ FrameGrows r q

/-- A state goes on within a cycle: no turn is lost, every session goes on, and the links and the rest of the dies stand. -/
structure Grows (s t : State) : Prop where
  now : t.now = s.now
  links : t.links = s.links
  beside : ∀ d, { t.die d with sessions := [] } = { s.die d with sessions := [] }
  calendar : s.calendar ⊆ t.calendar
  agenda : s.agenda ⊆ t.agenda
  sessions : ∀ d id x, session? s d id = some x → ∃ y, session? t d id = some y ∧ SessionGrows x y

theorem NodeGrows.refl (n : Node) : NodeGrows n n := ⟨rfl, rfl, fun _ h => h, fun h => h, fun h => h⟩

theorem NodeGrows.trans {n m o : Node} (h : NodeGrows n m) (h' : NodeGrows m o) : NodeGrows n o :=
  ⟨h'.lo.trans h.lo, h'.hi.trans h.hi, fun f hf => h'.closed f (h.closed f hf), h'.absentL ∘ h.absentL, h'.absentR ∘ h.absentR⟩

theorem FrameGrows.trans {r q p : Frame} (h : FrameGrows r q) (h' : FrameGrows q p) : FrameGrows r p := by
  rcases h with rfl | rfl
  · exact h'
  · rcases h' with rfl | rfl <;> exact .inr rfl

theorem SessionGrows.refl (x : Session) : SessionGrows x x :=
  ⟨rfl, fun _ h => h, fun _ _ n h => ⟨n, h, .refl n⟩, fun _ r h => ⟨r, h, .inl rfl⟩⟩

theorem SessionGrows.trans (h : SessionGrows x y) (h' : SessionGrows y z) : SessionGrows x z where
  highest := h'.highest.trans h.highest
  absent := fun _ hr => h'.absent (h.absent hr)
  nodes lo hi n hn := by
    obtain ⟨m, hm, hg⟩ := h.nodes lo hi n hn
    obtain ⟨o, ho, hg'⟩ := h'.nodes lo hi m hm
    exact ⟨o, ho, hg.trans hg'⟩
  frames f r hr := by
    obtain ⟨q, hq, hg⟩ := h.frames f r hr
    obtain ⟨p, hp, hg'⟩ := h'.frames f q hq
    exact ⟨p, hp, hg.trans hg'⟩

theorem Grows.refl (s : State) : Grows s s := ⟨rfl, rfl, fun _ => rfl, fun _ h => h, fun _ h => h, fun _ _ x h => ⟨x, h, .refl x⟩⟩

theorem Grows.trans (h : Grows s t) (h' : Grows t u) : Grows s u where
  now := h'.now.trans h.now
  links := h'.links.trans h.links
  beside d := (h'.beside d).trans (h.beside d)
  calendar := fun _ ht => h'.calendar (h.calendar ht)
  agenda := fun _ ht => h'.agenda (h.agenda ht)
  sessions d id x hx := by
    obtain ⟨y, hy, hg⟩ := h.sessions d id x hx
    obtain ⟨z, hz, hg'⟩ := h'.sessions d id y hy
    exact ⟨z, hz, hg.trans hg'⟩

theorem Grows.foldl {β : Type} {f : State → β → State} (h : ∀ s b, Grows s (f s b)) (l : List β) : ∀ s, Grows s (l.foldl f s) := by
  induction l with
  | nil => exact Grows.refl
  | cons b l ih => exact fun s => (h s b).trans (ih _)

/-- A step that leaves the dies alone and loses no turn lets the state go on. -/
theorem Grows.of_dies (hn : t.now = s.now) (hl : t.links = s.links) (hc : s.calendar ⊆ t.calendar) (ha : s.agenda ⊆ t.agenda) (hd : t.dies = s.dies) : Grows s t :=
  have hdie (d : Nat) : t.die d = s.die d := congrArg (Tab.get _ · d) hd
  ⟨hn, hl, fun d => by rw [hdie], hc, ha, fun d id x hx => ⟨x, by rwa [session?, hdie], .refl x⟩⟩

theorem Grows.soon (s : State) (i : Turn) : Grows s (s.soon i) :=
  .of_dies rfl rfl (fun _ h => h) (fun _ h => List.mem_append_left _ h) rfl

theorem Grows.later (s : State) (n : Nat) (i : Turn) : Grows s (s.later n i) :=
  .of_dies rfl rfl (fun _ h => List.mem_append_left _ h) (fun _ h => h) rfl

theorem Grows.sendPacket (s : State) (d dest : Nat) (b : PacketBody) (chan : Nat) : Grows s (sendPacket s d dest b chan) := .soon ..

theorem Grows.sendOutput (s : State) (d : Nat) (x : Session) (p : TilePacket) (late : Bool) : Grows s (sendOutput s d x p late) := by
  unfold Machine.sendOutput
  split
  · exact .sendPacket ..
  · exact .sendPacket ..

theorem Grows.of_besideMemory (h : besideMemory t = besideMemory s) : Grows s t := by
  refine .of_dies (show (besideMemory t).now = _ by rw [h]; rfl) (show (besideMemory t).links = _ by rw [h]; rfl) ?_ ?_ (show (besideMemory t).dies = _ by rw [h]; rfl)
  · exact fun _ ht => show _ ∈ (besideMemory t).calendar by rw [h]; exact ht
  · exact fun _ ht => show _ ∈ (besideMemory t).agenda by rw [h]; exact ht

theorem units_pokeVirt (s : State) (ctx va : Nat) (bs : List Byte) : (pokeVirt s ctx va bs).units = s.units :=
  (congrArg State.units (besideMemory_pokeVirt s ctx va bs) :)

theorem dies_pokeVirt (s : State) (ctx va : Nat) (bs : List Byte) : (pokeVirt s ctx va bs).dies = s.dies :=
  (congrArg State.dies (besideMemory_pokeVirt s ctx va bs) :)

theorem Grows.writeCounters (s : State) (x : Session) : Grows s (writeCounters s x) := .of_besideMemory (besideMemory_pokeVirt ..)

theorem session_modSession (s : State) (d id d' id' : Nat) (f : Session → Session) :
    session? (modSession s d id f) d' id' = if d' = d ∧ id' = id then (session? s d id).map f else session? s d' id' := by
  unfold session? modSession
  by_cases hd : d' = d
  · subst hd
    rw [State.die_modDie_self]
    by_cases hi : id' = id
    · subst hi
      simp only [and_self, if_true]
      exact Tab.find?_modify_self ..
    · simp only [hi, and_false, if_false]
      exact Tab.find?_modify_ne _ _ hi
  · simp only [hd, false_and, if_false, State.die_modDie_ne _ _ hd]

@[simp] theorem session_modSession_self (s : State) (d id : Nat) (f : Session → Session) :
    session? (modSession s d id f) d id = (session? s d id).map f := by
  rw [session_modSession, if_pos ⟨rfl, rfl⟩]

theorem Grows.modSession {f : Session → Session} (h : ∀ x, session? s d id = some x → SessionGrows x (f x)) :
    Grows s (modSession s d id f) where
  now := rfl
  links := rfl
  beside d' := by
    unfold Machine.modSession
    by_cases hd : d' = d
    · subst hd; rw [State.die_modDie_self]
    · rw [State.die_modDie_ne _ _ hd]
  calendar := fun _ h => h
  agenda := fun _ h => h
  sessions d' id' x hx := by
    rw [session_modSession]
    split
    · rename_i hk
      obtain ⟨rfl, rfl⟩ := hk
      exact ⟨f x, by rw [hx]; rfl, h x hx⟩
    · exact ⟨x, hx, .refl x⟩

/-! Nodes and frames of a session -/

/-- A node rewritten in its place is found there, and any other node is what it was. -/
theorem node_modNode {f : Node → Node} {lo hi : Nat} (hf : ∀ n, (f n).lo = n.lo ∧ (f n).hi = n.hi) (a b : Nat) :
    (x.modNode lo hi f).node? a b = (x.node? a b).map (fun n => if n.lo = lo ∧ n.hi = hi then f n else n) := by
  unfold Session.modNode Session.node?
  rw [List.find?_map]
  congr 2
  funext n
  have h := hf n
  by_cases hk : n.lo = lo ∧ n.hi = hi
  · simp only [Function.comp, if_pos hk, h]
  · simp only [Function.comp, if_neg hk]

theorem node_span {n : Node} {lo hi : Nat} (h : x.node? lo hi = some n) : n.lo = lo ∧ n.hi = hi := by
  simpa using List.find?_some h

theorem node_modNode_self {f : Node → Node} {lo hi : Nat} {n : Node} (hf : ∀ n, (f n).lo = n.lo ∧ (f n).hi = n.hi)
    (h : x.node? lo hi = some n) : (x.modNode lo hi f).node? lo hi = some (f n) := by
  rw [node_modNode hf, h, Option.map_some, if_pos (node_span h)]

theorem SessionGrows.modNode {f : Node → Node} (hf : ∀ n, NodeGrows n (f n)) (lo hi : Nat) : SessionGrows x (x.modNode lo hi f) where
  highest := rfl
  absent := fun _ h => h
  nodes a b n hn := by
    rw [node_modNode (fun n => ⟨(hf n).lo, (hf n).hi⟩), hn]
    refine ⟨_, rfl, ?_⟩
    dsimp only
    split
    · exact hf n
    · exact .refl n
  frames f r hr := ⟨r, hr, .inl rfl⟩

/-- A session whose nodes, frames, highest frame and absent ranks stand goes on. -/
theorem SessionGrows.of_eq (hh : y.highest = x.highest) (ha : y.absent = x.absent) (hn : y.nodes = x.nodes) (hf : y.frames = x.frames) :
    SessionGrows x y :=
  ⟨hh, fun _ h => ha ▸ h, fun _ _ n h => ⟨n, by rw [Session.node?, hn]; exact h, .refl n⟩,
    fun _ r h => ⟨r, by rw [Session.frame?, hf]; exact h, .inl rfl⟩⟩

/-- A node has emitted a tile of a frame. -/
def emitAt (f tx ty : Nat) (n : Node) : Node := { n with emitted := (f, tx, ty) :: n.emitted }

theorem NodeGrows.emitAt (f tx ty : Nat) (n : Node) : NodeGrows n (emitAt f tx ty n) := ⟨rfl, rfl, fun _ h => h, fun h => h, fun h => h⟩

/-- A session whose buffers of both children of a node are free for a tile. -/
def freed (x : Session) (n : Node) (f tx ty : Nat) : Session :=
  { x with held := x.held.filter (fun t => decide (x.heldAs n true f tx ty ≠ some t) && decide (x.heldAs n false f tx ty ≠ some t)) }

theorem SessionGrows.emitTile (id : Nat) (x : Session) (n : Node) (f tx ty : Nat) : SessionGrows x (emitTile id x n f tx ty).1 := by
  rw [show (Machine.emitTile id x n f tx ty).1 = (freed x n f tx ty).modNode n.lo n.hi (Safety.emitAt f tx ty) from rfl]
  exact (SessionGrows.of_eq (x := x) (y := freed x n f tx ty) rfl rfl rfl rfl).trans (.modNode (.emitAt f tx ty) ..)

theorem frame_no {f : Nat} {r : Frame} (h : x.frame? f = some r) : r.no = f := by simpa using List.find?_some h

/-- A frame that closes in its place is found closed there. -/
theorem find?_closeFrame (l : List Frame) (f g : Nat) :
    (l.map (fun r => if r.no = f then { r with closed := true } else r)).find? (fun r => decide (r.no = g)) =
      (l.find? (fun r => decide (r.no = g))).map (fun r => if r.no = f then { r with closed := true } else r) := by
  rw [List.find?_map]
  congr 2
  funext r
  by_cases h : r.no = f <;> simp [Function.comp, h]

/-- The frame of a session that closes there. -/
def closeFrame (f : Nat) (x : Session) : Session :=
  { x with
    frames := x.frames.map (fun r => if r.no = f then { r with closed := true } else r)
    sent := x.sent.filter (fun t => decide (t.1 ≠ f)), framesClosed := (x.framesClosed + 1) % 2 ^ 32 }

theorem SessionGrows.closeFrame (f : Nat) (x : Session) : SessionGrows x (closeFrame f x) where
  highest := rfl
  absent := fun _ h => h
  nodes _ _ n hn := ⟨n, hn, .refl n⟩
  frames g r hr := by
    refine ⟨_, (find?_closeFrame ..).trans (by rw [show List.find? _ x.frames = some r from hr, Option.map_some]), ?_⟩
    split
    · exact .inr rfl
    · exact .inl rfl

/-! Closing frames and settling tiles let every session go on -/

theorem Grows.checkClosing (s : State) (d id : Nat) : Grows s (checkClosing s d id) := by
  unfold Machine.checkClosing
  split
  · split
    · exact .soon ..
    · exact .refl _
  · exact .refl _

theorem frameClosed_eq (s : State) (d id f : Nat) : frameClosed s d id f =
    checkClosing (match session? (modSession s d id (closeFrame f)) d id with
      | some x => writeCounters (modSession s d id (closeFrame f)) x
      | none => modSession s d id (closeFrame f)) d id := rfl

/-- Once a frame has closed its counters are written, and the session closes where CLOSE waits for it. -/
theorem Grows.frameClosed_of_modSession (s : State) (d id f : Nat) : Grows (Machine.modSession s d id (Safety.closeFrame f)) (frameClosed s d id f) := by
  rw [frameClosed_eq]
  refine .trans ?_ (.checkClosing ..)
  split
  · exact .writeCounters ..
  · exact .refl _

theorem Grows.frameClosed (s : State) (d id f : Nat) : Grows s (frameClosed s d id f) :=
  (Grows.modSession fun x _ => .closeFrame f x).trans (.frameClosed_of_modSession ..)

/-- A tile is emitted at a node in the turn that closes it there. -/
def emitPending (d id f lo hi : Nat) (s : State) (t : Nat × Nat) : State :=
  match session? s d id with
  | none => s
  | some x => match x.node? lo hi with
    | none => s
    | some n =>
      let z := emitTile id x n f t.1 t.2
      sendOutput (modSession s d id (fun _ => z.1)) d x z.2 true

theorem Grows.emitted {n : Node} {f tx ty : Nat} {late : Bool} (hx : session? s d id = some x) :
    Grows s (Machine.sendOutput (Machine.modSession s d id (fun _ => (Machine.emitTile id x n f tx ty).1)) d x
      (Machine.emitTile id x n f tx ty).2 late) :=
  (Grows.modSession fun y hy => by
    obtain rfl : x = y := Option.some.inj (hx.symm.trans hy)
    exact .emitTile ..).trans (.sendOutput ..)

theorem Grows.emitPending (s : State) (f lo hi : Nat) (t : Nat × Nat) : Grows s (emitPending d id f lo hi s t) := by
  unfold Safety.emitPending
  split
  · exact .refl _
  · split
    · exact .refl _
    · rename_i hx _ _ _
      exact .emitted hx

/-- A node closes a frame. -/
def closeAt (f : Nat) (n : Node) : Node := { n with closed := f :: n.closed, emitted := n.emitted.filter (fun e => decide (e.1 ≠ f)) }

theorem NodeGrows.closeAt (f : Nat) (n : Node) : NodeGrows n (closeAt f n) :=
  ⟨rfl, rfl, fun g hg => by simp only [Safety.closeAt, List.contains_cons, hg, Bool.or_true], fun h => h, fun h => h⟩

/-- The tiles a node emits when it closes a frame (R353). -/
def closingTiles (x : Session) (n : Node) (f lo hi : Nat) : List (Nat × Nat) :=
  if decide (lo = 0 ∧ hi = x.n) then x.region.filter (fun t => !n.emitted.contains (f, t.1, t.2)) else x.pending n f

/-- The tiles have been emitted and the node has closed the frame. -/
def nodeClosed (s : State) (d id f lo hi : Nat) (x : Session) (n : Node) : State :=
  modSession ((closingTiles x n f lo hi).foldl (emitPending d id f lo hi) s) d id (fun x => x.modNode lo hi (closeAt f))

/-- The root of the tree says that the frame is done. -/
def rootSays (s : State) (d id f lo hi : Nat) (x : Session) : State :=
  if decide (lo = 0 ∧ hi = x.n) then sendPacket s d x.dnode (.rootDone id f x.engine x.sink) else s

theorem closeNode_eq {f lo hi : Nat} {n : Node} (hx : session? s d id = some x) (hn : x.node? lo hi = some n) (hc : n.closed.contains f = false) :
    closeNode s d id f lo hi = match session? (rootSays (nodeClosed s d id f lo hi x n) d id f lo hi x) d id with
      | some y => if y.nodes.all (fun n => n.closed.contains f) then
          frameClosed (rootSays (nodeClosed s d id f lo hi x n) d id f lo hi x) d id f
        else rootSays (nodeClosed s d id f lo hi x n) d id f lo hi x
      | none => rootSays (nodeClosed s d id f lo hi x n) d id f lo hi x := by
  unfold closeNode
  simp only [hx, hn, hc, Bool.false_eq_true, if_false]
  rfl

theorem Grows.rootSays (s : State) (d id f lo hi : Nat) (x : Session) : Grows s (rootSays s d id f lo hi x) := by
  unfold Safety.rootSays
  split
  · exact .sendPacket ..
  · exact .refl _

theorem Grows.nodeClosed (s : State) (d id f lo hi : Nat) (x : Session) (n : Node) : Grows s (nodeClosed s d id f lo hi x n) :=
  (Grows.foldl (fun s t => .emitPending s f lo hi t) _ s).trans (.modSession fun _ _ => .modNode (.closeAt f) ..)

/-- What follows a node's closing of a frame lets the state go on. -/
theorem Grows.closeNode_of_rootSays {f lo hi : Nat} {n : Node} (hx : session? s d id = some x) (hn : x.node? lo hi = some n)
    (hc : n.closed.contains f = false) :
    Grows (Safety.rootSays (Safety.nodeClosed s d id f lo hi x n) d id f lo hi x) (closeNode s d id f lo hi) := by
  rw [closeNode_eq hx hn hc]
  split
  · split
    · exact .frameClosed ..
    · exact .refl _
  · exact .refl _

theorem Grows.closeNode (s : State) (d id f lo hi : Nat) : Grows s (closeNode s d id f lo hi) := by
  cases hx : session? s d id with
  | none => simpa only [Machine.closeNode, hx] using .refl s
  | some x =>
    cases hn : x.node? lo hi with
    | none => simpa only [Machine.closeNode, hx, hn] using .refl s
    | some n =>
      cases hc : n.closed.contains f with
      | true => simpa only [Machine.closeNode, hx, hn, hc, if_true] using .refl s
      | false => exact ((Grows.nodeClosed s d id f lo hi x n).trans (.rootSays ..)).trans (.closeNode_of_rootSays hx hn hc)

theorem Grows.closeWhole (s : State) (d id f lo hi : Nat) : Grows s (closeWhole s d id f lo hi) := by
  unfold Machine.closeWhole
  split
  · exact .refl _
  · split
    · split
      · exact .closeNode ..
      · exact .refl _
    · exact .refl _

theorem Grows.settleTile (s : State) (d id lo hi f tx ty : Nat) : Grows s (settleTile s d id lo hi f tx ty) := by
  unfold Machine.settleTile
  split
  · exact .refl _
  · split
    · dsimp only
      split
      · rename_i hx _ _ _ _ _ _ _
        exact (Grows.emitted hx).trans (.closeWhole ..)
      · exact .refl _
    · exact .refl _

theorem Grows.checkLeaf (s : State) (d id f : Nat) : Grows s (checkLeaf s d id f) := by
  unfold Machine.checkLeaf
  split
  · exact .refl _
  · split
    · split
      · exact .frameClosed ..
      · exact .refl _
    · exact .refl _

/-! The start of a frame (R352) -/

/-- A frame joins those begun in a session. -/
def withFrame (r : Frame) (x : Session) : Session := { x with frames := x.frames ++ [r] }

theorem SessionGrows.withFrame (r : Frame) (x : Session) : SessionGrows x (withFrame r x) where
  highest := rfl
  absent := fun _ h => h
  nodes _ _ n hn := ⟨n, hn, .refl n⟩
  frames f q hq := ⟨q, by rw [Session.frame?, Safety.withFrame, List.find?_append, show List.find? _ x.frames = some q from hq]; rfl, .inl rfl⟩

theorem frame_withFrame {r : Frame} (h : x.frame? r.no = none) : (withFrame r x).frame? r.no = some r := by
  rw [Session.frame?, withFrame, List.find?_append, show List.find? _ x.frames = none from h]
  simp

/-- A node combines what it holds of a frame that begins, and its deadline is planned. -/
def beginAt (d id : Nat) (r : Frame) (x : Session) (s : State) (n : Node) : State :=
  let s := (x.pending n r.no).foldl (fun s t => settleTile s d id n.lo n.hi r.no t.1 t.2) s
  match closeTime r (heightOf n.lo n.hi) with
  | some t => s.later (t - s.now) (.event (.nodeDeadline d id r.no n.lo n.hi))
  | none => s

theorem Grows.beginAt (s : State) (d id : Nat) (r : Frame) (x : Session) (n : Node) : Grows s (beginAt d id r x s n) := by
  refine (Grows.foldl (fun s (t : Nat × Nat) => .settleTile s d id n.lo n.hi r.no t.1 t.2) (x.pending n r.no) s).trans ?_
  unfold Safety.beginAt
  dsimp only
  split
  · exact .later ..
  · exact .refl _

theorem mem_beginAt {r : Frame} {n : Node} {c : Nat} (hc : closeTime r (heightOf n.lo n.hi) = some c) (hn : s.now ≤ c) :
    (c, Turn.event (.nodeDeadline d id r.no n.lo n.hi)) ∈ (beginAt d id r x s n).calendar := by
  have hg := (Grows.foldl (fun s (t : Nat × Nat) => .settleTile s d id n.lo n.hi r.no t.1 t.2) (x.pending n r.no) s).now
  unfold beginAt
  dsimp only
  rw [hc]
  generalize List.foldl (fun s (t : Nat × Nat) => settleTile s d id n.lo n.hi r.no t.1 t.2) s (x.pending n r.no) = t at hg
  have hm := State.mem_later (s := t) (c - t.now) (.event (.nodeDeadline d id r.no n.lo n.hi))
  rwa [show t.now + (c - t.now) = c by omega] at hm

theorem mem_foldl_beginAt {r : Frame} {n : Node} {c : Nat} (hc : closeTime r (heightOf n.lo n.hi) = some c) (l : List Node) (hn : n ∈ l) :
    ∀ s : State, s.now ≤ c → (c, Turn.event (.nodeDeadline d id r.no n.lo n.hi)) ∈ (l.foldl (beginAt d id r x) s).calendar := by
  induction l with
  | nil => exact absurd hn List.not_mem_nil
  | cons m l ih =>
    intro s hs
    rcases List.mem_cons.1 hn with rfl | hn
    · exact (Grows.foldl (fun s n => .beginAt s d id r x n) l _).calendar (mem_beginAt hc hs)
    · exact ih hn _ (by rwa [(Grows.beginAt s d id r x m).now])

/-- The deadline of a die that hosts leaves only is planned. -/
def beginLeaves (d id : Nat) (r : Frame) (x : Session) (s : State) : State :=
  if x.nodes = [] then
    match closeTime r 0 with
    | some t => s.later (t - s.now) (.event (.leafFrameClose d id r.no))
    | none => s
  else s

theorem Grows.beginLeaves (s : State) (d id : Nat) (r : Frame) (x : Session) : Grows s (beginLeaves d id r x s) := by
  unfold Safety.beginLeaves
  split
  · split
    · exact .later ..
    · exact .refl _
  · exact .refl _

theorem beginFrame_eq {r : Frame} (hx : session? s d id = some x) : beginFrame s d id r =
    beginLeaves d id r (withFrame r x) ((withFrame r x).nodes.foldl (beginAt d id r (withFrame r x)) (modSession s d id (withFrame r))) := by
  have h : session? (modSession s d id (withFrame r)) d id = some (withFrame r x) := by rw [session_modSession_self, hx]; rfl
  unfold beginFrame
  dsimp only
  rw [show modSession s d id (fun x => { x with frames := x.frames ++ [r] }) = modSession s d id (withFrame r) from rfl, h]
  rfl

theorem Grows.beginFrame_of_modSession {r : Frame} (hx : session? s d id = some x) :
    Grows (Machine.modSession s d id (Safety.withFrame r)) (beginFrame s d id r) := by
  rw [beginFrame_eq hx]
  exact (Grows.foldl (fun s n => .beginAt s d id r _ n) _ _).trans (.beginLeaves ..)

/-! The turn of a merge command (R227, R234) -/

theorem Grows.postAck (s : State) (c : FabCmd) (ws : List Word) : Grows s (postAck s c ws) := by
  unfold Machine.postAck
  split
  · exact .refl _
  · unfold sendRecord
    split
    · exact .refl _
    · exact .of_dies rfl rfl (fun _ h => List.mem_append_left _ h) (fun _ h => h) rfl

theorem die_postAck (s : State) (c : FabCmd) (ws : List Word) (d : Nat) : (postAck s c ws).die d = s.die d := by
  unfold postAck
  split
  · rfl
  · unfold sendRecord
    split <;> rfl

theorem unit_postAck {c : FabCmd} {ws : List Word} {un : UnitSt} (h : c.ack ≠ 7) (hu : s.unit? c.unit = some un) :
    ∃ un', (postAck s c ws).unit? c.unit = some un' ∧ un'.eng.waiting = un.eng.waiting ++ [(c.ack + 1, ⟨ws, [], true⟩)] := by
  unfold postAck
  rw [if_neg h]
  unfold sendRecord
  rw [hu]
  exact ⟨_, State.unit_putUnit_self .., rfl⟩

/-- The command has left the queue of the merge unit. -/
def mergeTaken (s : State) (d k : Nat) : State := s.modDie d (fun x => { x with mergeCmds := Tab.del x.mergeCmds k })

/-- A command whose turn it is and whose words pass Table 12-6 acts. -/
theorem fabricStep_of_takes {k words : Nat} {ev : Event} {body : State → FabCmd → State × Option Nat} {c : FabCmd}
    (hf : Tab.find? (s.die d).mergeCmds k = some c) (hk : ∀ e ∈ (s.die d).mergeCmds, k ≤ e.1) (hcode : 1 ≤ c.code ∧ c.code ≤ 4)
    (hlen : c.words.length = words) (h15 : bit (cw c.words 0) 15 = false) (hheld : pushHeld s c.unit c.after = false) :
    fabricStep s d k 1 ev words body = match body (mergeTaken s d k) c with
      | (s, some st) => postAck s c [ackWord c st]
      | (s, none) => s := by
  have hfirst : (s.die d).mergeCmds.any (fun (e : Nat × FabCmd) => decide (e.1 < k)) = false := by
    simpa using hk
  unfold fabricStep
  simp only [if_true, hf, hfirst, hheld, Bool.or_false, Bool.false_eq_true, if_false, hcode, and_self, decide_true, Bool.not_true, hlen,
    bne_self_eq_false, h15, show ((1 : Nat) == 2) = false from rfl, Bool.false_and]
  rfl

@[simp] theorem session_mergeTaken (s : State) (d k d' id : Nat) : session? (mergeTaken s d k) d' id = session? s d' id := by
  unfold session? mergeTaken
  by_cases h : d' = d
  · subst h; rw [State.die_modDie_self]
  · rw [State.die_modDie_ne _ _ h]

/-! OPEN (R346, R347) -/

theorem eraseDups_of_nodup {l : List Nat} (h : l.Nodup) : l.eraseDups = l := by
  induction l with
  | nil => rfl
  | cons a l ih =>
    obtain ⟨ha, hl⟩ := List.nodup_cons.1 h
    rw [List.eraseDups_cons, List.filter_eq_self.2, ih hl]
    intro b hb
    have hne : b ≠ a := fun hba => ha (hba ▸ hb)
    simpa using hne

theorem foldl_add_slots (l : Tab Session) : ∀ m, l.foldl (fun m e => m + e.2.slots) m = (l.map (·.2.slots)).sum + m := by
  induction l with
  | nil => simp
  | cons e l ih =>
    intro m
    rw [List.foldl_cons, ih, List.map_cons, List.sum_cons]
    omega

/-- What the device reads of a context depends on memory, the contexts, the base of their table and the identity record alone. -/
theorem rdVirt_congr (hm : t.mem = s.mem) (hg : t.mgmt = s.mgmt) (hc : t.ctxs = s.ctxs) (ctx va n : Nat) :
    rdVirt t ctx va n = rdVirt s ctx va n := by
  have hw (a : Nat) : walk t ctx a = walk s ctx a := walk_congr hm (by rw [hg]) (by rw [hg]) hc
  simp only [rdVirt, xlate, hw, rd8_congr hm]

theorem now_of_besideLines (h : besideLines t = besideLines s) : t.now = s.now := (congrArg State.now h :)

theorem dies_of_besideLines (h : besideLines t = besideLines s) : t.dies = s.dies := (congrArg State.dies h :)

theorem units_of_besideLines (h : besideLines t = besideLines s) : t.units = s.units := (congrArg State.units h :)

theorem rdVirt_of_besideLines (h : besideLines t = besideLines s) (ctx va n : Nat) : rdVirt t ctx va n = rdVirt s ctx va n := by
  have hm : t.mem = s.mem := (congrArg State.mem h :)
  have hg : t.mgmt = s.mgmt := (congrArg State.mgmt h :)
  have hc : t.ctxs = s.ctxs := (congrArg State.ctxs h :)
  exact rdVirt_congr hm hg hc ..

theorem rdVirt_mergeTaken (s : State) (d k ctx va n : Nat) : rdVirt (mergeTaken s d k) ctx va n = rdVirt s ctx va n :=
  rdVirt_congr (t := mergeTaken s d k) (s := s) rfl rfl rfl ctx va n

/-- The state in which the table of an OPEN has been obtained. -/
def openRead (s : State) (d k : Nat) (c : FabCmd) : State :=
  obtainVirt (mergeTaken s d k) c.ctx (cw c.words 5 + 2 ^ 32 * cw c.words 6) 528

theorem besideLines_openRead (s : State) (d k : Nat) (c : FabCmd) : besideLines (openRead s d k c) = besideLines (mergeTaken s d k) :=
  besideLines_obtainVirt ..

/-- The session stands in its die. -/
def opened (s : State) (d id : Nat) (x : Session) : State :=
  s.modDie d (fun z => { z with sessions := Tab.put z.sessions id x, ended := Tab.del z.ended id })

/-- The watch over the children of a session's nodes begins. -/
def watched (s : State) (d id : Nat) (x : Session) : State :=
  x.nodes.foldl (fun s p => s.later 16384 (.event (.childTimeout d id p.lo p.hi))) (s.later 4096 (.event (.keepAliveSend d id)))

theorem watched_keeps {α : Type} (g : State → α) (h : ∀ s n i, g (State.later s n i) = g s) (s : State) (d id : Nat) (x : Session) :
    g (watched s d id x) = g s :=
  (foldl_keeps _ g (fun s (p : Node) => h s 16384 (.event (.childTimeout d id p.lo p.hi))) _ _).trans (h ..)

theorem mem_watched (s : State) (d id : Nat) (x : Session) : (s.now + 4096, Turn.event (.keepAliveSend d id)) ∈ (watched s d id x).calendar :=
  (Grows.foldl (fun s (p : Node) => .later s 16384 (.event (.childTimeout d id p.lo p.hi))) _ _).calendar (State.mem_later ..)

/-- An OPEN that passes its checks binds its session. -/
theorem execMergeOpen_of_passed {k : Nat} {c : FabCmd} {bs : List Byte} {ranks : List Nat}
    (hf : Tab.find? (s.die d).mergeCmds k = some c) (hk : ∀ e ∈ (s.die d).mergeCmds, k ≤ e.1) (hcode : c.code = 1)
    (hlen : c.words.length = 8) (h15 : bit (cw c.words 0) 15 = false) (hheld : pushHeld s c.unit c.after = false)
    (hbad : openBad c.words = false) (hfree : session? s d c.object = none) (h64 : (s.die d).sessions.length < 64)
    (hslots : ((s.die d).sessions.map (·.2.slots)).sum + bits (cw c.words 7) 12 0 ≤ 4096)
    (hrd : rdVirt s c.ctx (cw c.words 5 + 2 ^ 32 * cw c.words 6) 528 = some bs)
    (hranks : ranks = (List.range (bits (cw c.words 1) 16 8)).map (fun i => leAt bs (2 * i) 2))
    (hnode : (s.die d).nodeId = some (ranks.getD (newSession s c ranks).rank 0)) (hnd : ranks.Nodup) :
    exec (.mergeOpen d k) s = .next (postAck (watched (opened (openRead s d k c) d c.object (newSession s c ranks)) d c.object
      (newSession s c ranks)) c [ackWord c 0]) := by
  have hdie : (mergeTaken s d k).die d = { s.die d with mergeCmds := Tab.del (s.die d).mergeCmds k } := State.die_modDie_self ..
  have hlines := besideLines_openRead s d k c
  have hread : rdVirt (openRead s d k c) c.ctx (cw c.words 5 + 2 ^ 32 * cw c.words 6) 528 = some bs := by
    rw [rdVirt_of_besideLines hlines, rdVirt_mergeTaken, hrd]
  have hz : newSession (openRead s d k c) c ranks = newSession s c ranks := by
    simp only [newSession, show (openRead s d k c).now = (mergeTaken s d k).now from now_of_besideLines hlines]
    rfl
  have hcap : ¬ (64 ≤ (s.die d).sessions.length ∨
      4096 < (s.die d).sessions.foldl (fun m e => m + e.2.slots) (bits (cw c.words 7) 12 0)) := by
    rw [foldl_add_slots]
    omega
  have hlenr : ranks.length = bits (cw c.words 1) 16 8 := by rw [hranks, List.length_map, List.length_range]
  show execMergeOpen d k s = _
  rw [execMergeOpen, fabricStep_of_takes hf hk (by omega) hlen h15 hheld]
  simp only [hbad, Bool.false_eq_true, if_false, session_mergeTaken, hfree, Option.isSome_none, hdie, hcap,
    show obtainVirt (mergeTaken s d k) c.ctx (cw c.words 5 + 2 ^ 32 * cw c.words 6) 528 = openRead s d k c from rfl, hread, ← hranks, hz, hnode,
    eraseDups_of_nodup hnd, hlenr, ne_eq, not_true_eq_false, or_self]
  rfl

/-! CLOSE, ABSENT and FRAME in their sessions -/

theorem ownSession_mergeTaken {k : Nat} {c : FabCmd} (hx : session? s d c.object = some x) (hc : x.ctx = c.ctx) :
    ownSession (mergeTaken s d k) d c = some x := by
  rw [ownSession, session_mergeTaken, hx]
  simp [hc]

theorem all_closed_filter {l : List Frame} (h : ∀ f ∈ l, f.closed = true) (p : Frame → Bool) : l.filter (fun f => !f.closed && p f) = [] :=
  List.filter_eq_nil_iff.2 fun f hf => by simp [h f hf]

/-- A session that has accepted CLOSE. -/
def closingBy (c : FabCmd) (x : Session) : Session := { x with closing := some c }

/-- The state in which an OPEN has bound its session and the watch over it has begun. -/
def bound (s : State) (d k : Nat) (c : FabCmd) (x : Session) : State := watched (opened (openRead s d k c) d c.object x) d c.object x

theorem die_bound (s : State) (d k : Nat) (c : FabCmd) (x : Session) : (bound s d k c x).die d =
    { s.die d with
      mergeCmds := Tab.del (s.die d).mergeCmds k, sessions := Tab.put (s.die d).sessions c.object x
      ended := Tab.del (s.die d).ended c.object } := by
  have h : (openRead s d k c).die d = (mergeTaken s d k).die d := by
    rw [State.die, dies_of_besideLines (besideLines_openRead s d k c), State.die]
  rw [bound, watched_keeps (State.die · d) (fun _ _ _ => rfl), opened, State.die_modDie_self, h, mergeTaken, State.die_modDie_self]

theorem unit_bound (s : State) (d k : Nat) (c : FabCmd) (x : Session) (u : Nat) : (bound s d k c x).unit? u = s.unit? u := by
  rw [bound, watched_keeps (State.unit? · u) (fun _ _ _ => rfl)]
  have h : (openRead s d k c).units = (mergeTaken s d k).units := units_of_besideLines (besideLines_openRead s d k c)
  rw [State.unit?, show (opened (openRead s d k c) d c.object x).units = (openRead s d k c).units from rfl, h]
  rfl

theorem mem_bound (s : State) (d k : Nat) (c : FabCmd) (x : Session) :
    (s.now + 4096, Turn.event (.keepAliveSend d c.object)) ∈ (bound s d k c x).calendar := by
  have h := mem_watched (opened (openRead s d k c) d c.object x) d c.object x
  rwa [show (opened (openRead s d k c) d c.object x).now = (openRead s d k c).now from rfl,
    now_of_besideLines (besideLines_openRead s d k c)] at h

/-! The end of a session (R357) -/

/-- A session that has ended is gone, and the units stand. -/
theorem session_endSession (s : State) (d id : Nat) (x : Session) : session? (endSession s d id x) d id = none := by
  have h : ((endSession s d id x).die d).sessions = Tab.del (s.die d).sessions id := by
    unfold endSession State.die
    simp only [State.modDie_dies, Tab.get_put_self]
    rfl
  rw [session?, h, Tab.find?_del_self]

theorem unit_endSession (s : State) (d id : Nat) (x : Session) (u : Nat) : (endSession s d id x).unit? u = s.unit? u := rfl

/-- The packets a session still holds are written as late before it closes. -/
def heldLate (s : State) (x : Session) : State :=
  if x.held = [] then s else writeCounters s { x with late := (x.late + x.held.length) % 2 ^ 32 }

theorem unit_heldLate (s : State) (x : Session) (u : Nat) : (heldLate s x).unit? u = s.unit? u := by
  unfold heldLate
  split
  · rfl
  · rw [State.unit?, writeCounters, units_pokeVirt, State.unit?]

theorem execSessionClose_of_closing {c : FabCmd} (hx : session? s d id = some x) (hc : x.closing = some c)
    (hf : ∀ f ∈ x.frames, f.closed = true) :
    exec (.sessionClose d id) s = .next (postAck (endSession (heldLate s x) d id x) c [ackWord c 0]) := by
  have hopen : x.frames.any (fun f => !f.closed) = false := by simpa using hf
  show execSessionClose d id s = _
  rw [execSessionClose]
  simp only [hx, hc, hopen, Bool.false_eq_true, if_false]
  rfl

/-- CLOSE with no frame open marks the session and has it close. -/
theorem execMergeClose_of_idle {k : Nat} {c : FabCmd}
    (hf : Tab.find? (s.die d).mergeCmds k = some c) (hk : ∀ e ∈ (s.die d).mergeCmds, k ≤ e.1) (hcode : c.code = 2)
    (hlen : c.words.length = 1) (h15 : bit (cw c.words 0) 15 = false) (hheld : pushHeld s c.unit c.after = false)
    (hx : session? s d c.object = some x) (hc : x.ctx = c.ctx) (hcl : x.closing = none) (hfr : ∀ f ∈ x.frames, f.closed = true) :
    exec (.mergeClose d k) s =
      .next ((modSession (mergeTaken s d k) d c.object (closingBy c)).soon (.event (.sessionClose d c.object))) := by
  have hx' : session? (modSession (mergeTaken s d k) d c.object (closingBy c)) d c.object = some (closingBy c x) := by
    rw [session_modSession_self, session_mergeTaken, hx]; rfl
  have hall : ((closingBy c x).closing.isSome && (closingBy c x).frames.all (fun f => f.closed)) = true := by
    simpa [closingBy] using hfr
  have hnone : x.frames.filter (fun f => !f.closed && decide (f.budget = 0) && !f.passed) = [] := by
    simpa only [Bool.and_assoc] using all_closed_filter hfr (fun f => decide (f.budget = 0) && !f.passed)
  show execMergeClose d k s = _
  rw [execMergeClose, fabricStep_of_takes hf hk (by omega) hlen h15 hheld]
  simp only [ownSession_mergeTaken hx hc, hcl, Option.isSome_none, Bool.false_eq_true, if_false, hnone, List.foldl_nil]
  rw [show modSession (mergeTaken s d k) d c.object (fun x => { x with closing := some c }) =
    modSession (mergeTaken s d k) d c.object (closingBy c) from rfl, checkClosing, hx']
  simp only [hall, if_true]

/-- Settles a clause of O36: OPEN, CLOSE and the end of a session. -/
theorem sessionsOpenAndClose : Claims.SessionsOpenAndClose := by
  refine ⟨?_, ?_, ?_⟩
  · rintro s d k c bs ⟨hf, hk, hcode, hlen, h15, hheld⟩ hbad hfree h64 hslots hrd
    intro n ranks x hnode hnd
    refine ⟨_, execMergeOpen_of_passed hf hk hcode hlen h15 hheld hbad hfree h64 hslots hrd rfl hnode hnd, ?_, rfl, rfl, rfl, rfl, rfl, ?_, ?_, ?_⟩
    · rw [session?, die_postAck]
      exact (congrArg (fun z : Die => Tab.find? z.sessions c.object) (die_bound s d k c x)).trans (Tab.find?_put_self ..)
    · rw [die_postAck]
      exact (congrArg (fun z : Die => Tab.find? z.mergeCmds k) (die_bound s d k c x)).trans (Tab.find?_del_self ..)
    · exact (Grows.postAck ..).calendar (mem_bound s d k c x)
    · intro hack un hu
      exact unit_postAck hack ((unit_bound s d k c x _).trans hu)
  · rintro s d k c x ⟨hf, hk, hcode, hlen, h15, hheld⟩ hx hc hcl hfr
    refine ⟨_, closingBy c x, execMergeClose_of_idle hf hk hcode hlen h15 hheld hx hc hcl hfr, ?_, rfl, State.mem_soon ..⟩
    rw [session?, State.die_soon]
    exact (session_modSession_self ..).trans (by rw [session_mergeTaken, hx]; rfl)
  · intro s d id x c hx hc hfr
    refine ⟨_, execSessionClose_of_closing hx hc hfr, ?_, ?_⟩
    · rw [session?, die_postAck]
      exact session_endSession ..
    · intro hack un hu
      exact unit_postAck hack ((unit_endSession ..).trans ((unit_heldLate ..).trans hu))

/-! FRAME and ABSENT (R352, R355) -/

/-- A session whose highest frame has been set. -/
def withHighest (f : Nat) (x : Session) : Session := { x with highest := some f }

/-- The frame a FRAME begins. -/
def newFrame (now : Nat) (c : FabCmd) : Frame :=
  { no := cw c.words 1, start := now, budget := bits (cw c.words 2) 15 0, step := bits (cw c.words 2) 31 16, passed := false, closed := false }

/-- The state in which a FRAME has begun its frame. -/
def frameBegun (s : State) (d k : Nat) (c : FabCmd) : State :=
  beginFrame (modSession (mergeTaken s d k) d c.object (withHighest (cw c.words 1))) d c.object (newFrame s.now c)

theorem execFrame_of_passed {k : Nat} {c : FabCmd}
    (hf : Tab.find? (s.die d).mergeCmds k = some c) (hk : ∀ e ∈ (s.die d).mergeCmds, k ≤ e.1) (hcode : c.code = 3)
    (hlen : c.words.length = 3) (h15 : bit (cw c.words 0) 15 = false) (hheld : pushHeld s c.unit c.after = false)
    (hx : session? s d c.object = some x) (hc : x.ctx = c.ctx) (hcl : x.closing = none)
    (hh : ∀ h, x.highest = some h → h < cw c.words 1) (h4 : (x.frames.filter (fun r => !r.closed)).length < 4)
    (hun : x.unbegun (cw c.words 1) = []) :
    exec (.frame d k) s = .next (postAck (checkLeaf (frameBegun s d k c) d c.object (cw c.words 1)) c [ackWord c 0]) := by
  show execFrame d k s = _
  rw [execFrame, fabricStep_of_takes hf hk (by omega) hlen h15 hheld]
  simp only [ownSession_mergeTaken hx hc, hcl, Option.isSome_none, Bool.false_eq_true, if_false, hun, List.foldl_nil, Nat.not_le.2 h4]
  cases h : x.highest with
  | none => rfl
  | some h' =>
    simp only [decide_eq_true_iff, Nat.not_le.2 (hh h' h), if_false]
    rfl

theorem grows_frameBegun {k : Nat} {c : FabCmd} (hx : session? s d c.object = some x) :
    Grows (modSession (modSession (mergeTaken s d k) d c.object (withHighest (cw c.words 1))) d c.object (withFrame (newFrame s.now c)))
      (frameBegun s d k c) :=
  Grows.beginFrame_of_modSession (x := withHighest (cw c.words 1) x) (by rw [session_modSession_self, session_mergeTaken, hx]; rfl)

theorem mem_frameBegun {k : Nat} {c : FabCmd} {n : Node} (hx : session? s d c.object = some x) (hb : bits (cw c.words 2) 15 0 ≠ 0)
    (hn : n ∈ x.nodes) :
    (s.now + 64 * bits (cw c.words 2) 15 0 + (heightOf n.lo n.hi - 1) * bits (cw c.words 2) 31 16 + 1,
      Turn.event (.nodeDeadline d c.object (cw c.words 1) n.lo n.hi)) ∈ (frameBegun s d k c).calendar := by
  have hx' : session? (modSession (mergeTaken s d k) d c.object (withHighest (cw c.words 1))) d c.object =
      some (withHighest (cw c.words 1) x) := by
    rw [session_modSession_self, session_mergeTaken, hx]; rfl
  have hclose : closeTime (newFrame s.now c) (heightOf n.lo n.hi) =
      some (s.now + 64 * bits (cw c.words 2) 15 0 + (heightOf n.lo n.hi - 1) * bits (cw c.words 2) 31 16 + 1) := by
    rw [closeTime]
    exact (if_neg Bool.false_ne_true).trans (if_neg hb)
  rw [frameBegun, beginFrame_eq hx']
  refine (Grows.beginLeaves ..).calendar (mem_foldl_beginAt hclose _ hn _ ?_)
  show s.now ≤ _
  omega

/-- A rank joins those declared absent in a session. -/
def withAbsent (rs : List Nat) (x : Session) : Session := { x with absent := addRanks x.absent rs }

theorem mem_addRanks (rs : List Nat) : ∀ l : List Nat, ∀ r, r ∈ addRanks l rs ↔ r ∈ l ∨ r ∈ rs := by
  induction rs with
  | nil => simp [addRanks]
  | cons a rs ih =>
    intro l r
    have hstep : addRanks l (a :: rs) = addRanks (if l.contains a then l else l ++ [a]) rs := rfl
    rw [hstep, ih]
    by_cases ha : a ∈ l
    · simp only [List.contains_iff_mem.2 ha, if_true, List.mem_cons]
      exact ⟨fun h => h.imp id .inr, fun h => h.elim .inl fun h => h.elim (fun h => .inl (h ▸ ha)) .inr⟩
    · simp [ha, or_assoc]

theorem SessionGrows.withAbsent (rs : List Nat) (x : Session) : SessionGrows x (withAbsent rs x) :=
  ⟨rfl, fun _ h => (mem_addRanks ..).2 (.inl h), fun _ _ n h => ⟨n, h, .refl n⟩, fun _ r h => ⟨r, h, .inl rfl⟩⟩

/-- A packet sent for one of a list is among the turns of the cycle. -/
theorem mem_foldl_of_mem {β : Type} {f : State → β → State} {i : Turn} {b : β} (hg : ∀ s b, Grows s (f s b)) (hi : ∀ s, i ∈ (f s b).agenda)
    (l : List β) (hb : b ∈ l) : ∀ s, i ∈ (l.foldl f s).agenda := by
  induction l with
  | nil => exact absurd hb List.not_mem_nil
  | cons c l ih =>
    intro s
    rcases List.mem_cons.1 hb with rfl | hb
    · exact (Grows.foldl hg l _).agenda (hi s)
    · exact ih hb _

/-- A notice of absence to the host of a node. -/
def sendAbsent (d id r : Nat) (x : Session) (s : State) (q : Nat × Nat) : State :=
  sendPacket s d (x.ranks.getD q.1 0) (.absent id r q.1 q.2)

theorem execAbsent_of_passed {k : Nat} {c : FabCmd}
    (hf : Tab.find? (s.die d).mergeCmds k = some c) (hk : ∀ e ∈ (s.die d).mergeCmds, k ≤ e.1) (hcode : c.code = 4)
    (hlen : c.words.length = 2) (h15 : bit (cw c.words 0) 15 = false) (hheld : pushHeld s c.unit c.after = false)
    (hx : session? s d c.object = some x) (hc : x.ctx = c.ctx) (hn : cw c.words 1 < x.n) (h256 : cw c.words 1 < 256) :
    exec (.absent d k) s = .next (postAck (((treeNodes x.n).filter (fun q => decide (q.1 ≤ cw c.words 1 ∧ cw c.words 1 < q.2))).foldl
      (sendAbsent d c.object (cw c.words 1) x) (modSession (mergeTaken s d k) d c.object (withAbsent [cw c.words 1]))) c [ackWord c 0]) := by
  show execAbsent d k s = _
  rw [execAbsent, fabricStep_of_takes hf hk (by omega) hlen h15 hheld]
  simp only [ownSession_mergeTaken hx hc, show ¬ (256 ≤ cw c.words 1 ∨ x.n ≤ cw c.words 1) by omega, if_false]
  rfl

/-- Settles a clause of O36: FRAME and ABSENT. -/
theorem framesAndAbsence : Claims.FramesAndAbsence := by
  refine ⟨?_, ?_⟩
  · rintro s d k c x ⟨hf, hk, hcode, hlen, h15, hheld⟩ hx hc hcl
    intro f hh h4 hun hnew budget step
    have hx' : session? (modSession (modSession (mergeTaken s d k) d c.object (withHighest f)) d c.object
        (withFrame (newFrame s.now c))) d c.object = some (withFrame (newFrame s.now c) (withHighest f x)) := by
      rw [session_modSession_self, session_modSession_self, session_mergeTaken, hx]; rfl
    have hgrows := (grows_frameBegun (k := k) hx).trans ((Grows.checkLeaf _ d c.object f).trans (.postAck _ c [ackWord c 0]))
    obtain ⟨x', hses, hg⟩ := hgrows.sessions d c.object _ hx'
    obtain ⟨q, hq, hfr⟩ := hg.frames f _ (frame_withFrame (r := newFrame s.now c) hnew)
    refine ⟨_, x', q, execFrame_of_passed hf hk hcode hlen h15 hheld hx hc hcl hh h4 hun, hses, hg.highest, hq, ?_⟩
    have hkeep : q.start = s.now ∧ q.budget = budget ∧ q.step = step ∧ q.passed = false := by
      rcases hfr with rfl | rfl <;> exact ⟨rfl, rfl, rfl, rfl⟩
    obtain ⟨hstart, hbudget, hstep, hpassed⟩ := hkeep
    refine ⟨hstart, hbudget, hstep, hpassed, fun hb n hn => ?_⟩
    exact ((Grows.checkLeaf _ d c.object f).trans (.postAck ..)).calendar (mem_frameBegun hx hb hn)
  · rintro s d k c x ⟨hf, hk, hcode, hlen, h15, hheld⟩ hx hc
    intro r hn h256
    have hx' : session? (modSession (mergeTaken s d k) d c.object (withAbsent [r])) d c.object = some (withAbsent [r] x) := by
      rw [session_modSession_self, session_mergeTaken, hx]; rfl
    have hsend (s : State) (q : Nat × Nat) : Grows s (sendAbsent d c.object r x s q) := .sendPacket ..
    obtain ⟨x', hses, hg⟩ := ((Grows.foldl hsend _ _).trans (.postAck _ c [ackWord c 0])).sessions d c.object _ hx'
    refine ⟨_, x', execAbsent_of_passed hf hk hcode hlen h15 hheld hx hc hn h256, hses,
      hg.absent ((mem_addRanks ..).2 (.inr List.mem_cons_self)), fun q hq hlo hhi => ?_⟩
    exact (Grows.postAck ..).agenda (mem_foldl_of_mem hsend (fun s => State.mem_soon ..) _
      (List.mem_filter.2 ⟨hq, decide_eq_true ⟨hlo, hhi⟩⟩) _)

/-! The closing of frames (R352, R353) -/

theorem node_nodeClosed {f lo hi : Nat} {n : Node} (hx : session? s d id = some x) (hn : x.node? lo hi = some n) :
    ∃ y m, session? (nodeClosed s d id f lo hi x n) d id = some y ∧ y.node? lo hi = some m ∧ m.closed.contains f = true := by
  obtain ⟨y, hy, hg⟩ := (Grows.foldl (fun s t => .emitPending (d := d) (id := id) s f lo hi t) (closingTiles x n f lo hi) s).sessions d id x hx
  obtain ⟨m, hm, -⟩ := hg.nodes lo hi n hn
  refine ⟨y.modNode lo hi (closeAt f), closeAt f m, ?_, ?_, ?_⟩
  · rw [nodeClosed, session_modSession_self, hy]; rfl
  · exact node_modNode_self (fun _ => ⟨rfl, rfl⟩) hm
  · simp [closeAt]

/-- The only leaf of a session says that the frame is done. -/
def soleLeafSays (s : State) (d id f : Nat) (x : Session) : State :=
  if x.n = 1 then sendPacket s d x.dnode (.rootDone id f x.engine x.sink) else s

theorem dies_checkClosing (s : State) (d id : Nat) : (checkClosing s d id).dies = s.dies := by
  unfold checkClosing
  split
  · split <;> rfl
  · rfl

theorem session_frameClosed (s : State) (d id f : Nat) :
    session? (frameClosed s d id f) d id = (session? s d id).map (closeFrame f) := by
  have h : (frameClosed s d id f).dies = (modSession s d id (closeFrame f)).dies := by
    rw [frameClosed_eq, dies_checkClosing]
    split
    · exact dies_pokeVirt ..
    · rfl
  rw [session?, State.die, h]
  exact session_modSession_self ..

/-- Settles a clause of O36: a node past its deadline, and a die with leaves only. -/
theorem framesClose : Claims.FramesClose := by
  refine ⟨?_, ?_⟩
  · intro s d id f lo hi x n r tm hx hr ht hle hn hc
    have hexec : exec (.nodeDeadline d id f lo hi) s = .next (closeNode s d id f lo hi) := by
      show execNodeDeadline d id f lo hi s = _
      simp only [execNodeDeadline, hx, hr, ht, hle, if_true]
    obtain ⟨y, m, hy, hm, hcl⟩ := node_nodeClosed (f := f) hx hn
    have hrest := Grows.closeNode_of_rootSays hx hn hc
    obtain ⟨x', hx', hg⟩ := ((Grows.rootSays _ d id f lo hi x).trans hrest).sessions d id y hy
    obtain ⟨n', hn', hgn⟩ := hg.nodes lo hi m hm
    refine ⟨_, x', n', hexec, hx', hn', hgn.closed f hcl, fun hlo hhi => hrest.agenda ?_⟩
    rw [rootSays, decide_eq_true ⟨hlo, hhi⟩, if_pos rfl]
    exact State.mem_soon ..
  · intro s d id f x r tm hx hr ht hle hcl hnodes
    have hs' : session? (soleLeafSays s d id f x) d id = some x := by
      unfold soleLeafSays
      split <;> exact hx
    have hexec : exec (.leafFrameClose d id f) s = .next (frameClosed (soleLeafSays s d id f x) d id f) := by
      show execLeafFrameClose d id f s = _
      simp only [execLeafFrameClose, hx, hr, ht, hcl, hnodes, Bool.false_eq_true, ne_eq, not_true_eq_false, or_self,
        Nat.not_lt.2 hle, if_false]
      rfl
    have hf : r.no = f := frame_no hr
    refine ⟨_, closeFrame f x, hexec, (session_frameClosed ..).trans (by rw [hs']; rfl), ?_, rfl⟩
    exact (find?_closeFrame ..).trans (by rw [show List.find? _ x.frames = some r from hr, Option.map_some, if_pos hf])

end

/-- Settles O36: merge sessions open, begin and close frames, declare absence and close. -/
theorem sessionsAndFrames : Obligations.SessionsAndFrames := ⟨sessionsOpenAndClose, framesAndAbsence, framesClose⟩

end Sys2Proof.Safety
end

section
/-! Tiles and contributors of a merge session: packets are held, combined and sent on, and silent children declared absent (O37). -/

open Sys2Proof Sys2Proof.Machine
namespace Sys2Proof.Safety

section
variable {s t : State} {d id : Nat} {x y : Session}

/-! Declaring a child absent (R355) -/

/-- A node no longer waits for a child. -/
def missing (left : Bool) (n : Node) : Node := if left then { n with absentL := true } else { n with absentR := true }

theorem NodeGrows.missing (left : Bool) (n : Node) : NodeGrows n (missing left n) := by
  cases left
  · exact ⟨rfl, rfl, fun _ h => h, fun h => h, fun _ => rfl⟩
  · exact ⟨rfl, rfl, fun _ h => h, fun _ => rfl, fun h => h⟩

/-- A session that has a child of a node and its ranks declared absent. -/
def withMissing (lo hi : Nat) (left : Bool) (rs : List Nat) (x : Session) : Session := withAbsent rs (x.modNode lo hi (missing left))

theorem SessionGrows.withMissing (lo hi : Nat) (left : Bool) (rs : List Nat) (x : Session) : SessionGrows x (withMissing lo hi left rs x) :=
  (SessionGrows.modNode (.missing left) lo hi).trans (.withAbsent ..)

theorem Grows.declareAbsent_of_modSession (s : State) (d id lo hi : Nat) (left : Bool) (rs : List Nat) :
    Grows (Machine.modSession s d id (Safety.withMissing lo hi left rs)) (declareAbsent s d id lo hi left rs) := by
  unfold Machine.declareAbsent
  dsimp only
  split
  · exact .refl _
  · split
    · exact .refl _
    · exact .foldl (fun s f => .foldl (fun s (t : Nat × Nat) => .settleTile ..) _ s) _ _

theorem Grows.declareAbsent (s : State) (d id lo hi : Nat) (left : Bool) (rs : List Nat) : Grows s (declareAbsent s d id lo hi left rs) :=
  (Grows.modSession fun x _ => .withMissing lo hi left rs x).trans (.declareAbsent_of_modSession ..)

/-- After a child has been declared absent its node does not wait for it, and its ranks are among those absent. -/
theorem session_declareAbsent {lo hi : Nat} {n : Node} (hx : session? s d id = some x) (hn : x.node? lo hi = some n) (left : Bool)
    (rs : List Nat) : ∃ y m, session? (declareAbsent s d id lo hi left rs) d id = some y ∧ y.node? lo hi = some m ∧
      NodeGrows (missing left n) m ∧ rs ⊆ y.absent := by
  have hx' : session? (modSession s d id (withMissing lo hi left rs)) d id = some (withMissing lo hi left rs x) := by
    rw [session_modSession_self, hx]; rfl
  obtain ⟨y, hy, hg⟩ := (Grows.declareAbsent_of_modSession s d id lo hi left rs).sessions d id _ hx'
  have hm : (withMissing lo hi left rs x).node? lo hi = some (missing left n) :=
    node_modNode_self (fun n => ⟨(NodeGrows.missing left n).lo, (NodeGrows.missing left n).hi⟩) hn
  obtain ⟨m, hm, hgm⟩ := hg.nodes lo hi _ hm
  exact ⟨y, m, hy, hm, hgm, fun r hr => hg.absent ((mem_addRanks ..).2 (.inr hr))⟩

theorem mem_spanRanks {a b r : Nat} : r ∈ spanRanks a b ↔ a ≤ r ∧ r < b := by
  simp only [spanRanks, List.mem_map, List.mem_range]
  exact ⟨fun ⟨i, hi, h⟩ => by omega, fun ⟨ha, hb⟩ => ⟨r - a, by omega, by omega⟩⟩

/-- A span that a die hosts tells its parent's host that it lives. -/
def sendAlive (d id : Nat) (x : Session) (s : State) (q : Nat × Nat) : State :=
  match parentOf x.n q.1 q.2 with
  | some p => sendPacket s d (x.ranks.getD p.1 0) (.keepAlive id q.1 q.2)
  | none => s

theorem Grows.sendAlive (s : State) (d id : Nat) (x : Session) (q : Nat × Nat) : Grows s (sendAlive d id x s q) := by
  unfold Safety.sendAlive
  split
  · exact .sendPacket ..
  · exact .refl _

theorem keepAliveSend_eq (hx : session? s d id = some x) : exec (.keepAliveSend d id) s =
    .next ((((x.rank, x.rank + 1) :: x.nodes.map (fun n => (n.lo, n.hi))).foldl (sendAlive d id x) s).later 4096
      (.event (.keepAliveSend d id))) := by
  show execKeepAliveSend d id s = _
  simp only [execKeepAliveSend, hx]
  rfl

/-- The right child of a node is declared absent if it has been silent for 16,384 cycles. -/
def rightTimedOut (s : State) (d id lo hi : Nat) (n : Node) : State :=
  if !n.absentR && decide (n.heardR + 16384 ≤ s.now) then declareAbsent s d id lo hi false (spanRanks (midOf lo hi) hi) else s

/-- The next look at the children of a node is planned. -/
def planTimeout (s : State) (d id lo hi : Nat) (n : Node) : State :=
  match ((if n.absentL then [] else [n.heardL + 16384]) ++ (if n.absentR then [] else [n.heardR + 16384])).filter (s.now < ·) with
  | [] => s
  | t :: ts => s.later (ts.foldl min t - s.now) (.event (.childTimeout d id lo hi))

theorem Grows.rightTimedOut (s : State) (d id lo hi : Nat) (n : Node) : Grows s (rightTimedOut s d id lo hi n) := by
  unfold Safety.rightTimedOut
  split
  · exact .declareAbsent ..
  · exact .refl _

theorem Grows.planTimeout (s : State) (d id lo hi : Nat) (n : Node) : Grows s (planTimeout s d id lo hi n) := by
  unfold Safety.planTimeout
  split
  · exact .refl _
  · exact .later ..

theorem childTimeout_of_silent {lo hi : Nat} {n : Node} (hx : session? s d id = some x) (hn : x.node? lo hi = some n)
    (ha : n.absentL = false) (ht : n.heardL + 16384 ≤ s.now) : exec (.childTimeout d id lo hi) s =
      .next (planTimeout (rightTimedOut (declareAbsent s d id lo hi true (spanRanks lo (midOf lo hi))) d id lo hi n) d id lo hi n) := by
  have hsilent : (!n.absentL && decide (n.heardL + 16384 ≤ s.now)) = true := by simp [ha, ht]
  show execChildTimeout d id lo hi s = _
  simp only [execChildTimeout, hx, hn, hsilent, if_true]
  rfl

/-- Settles a clause of O37: keep-alives, time-outs and notices. -/
theorem contributors : Claims.Contributors := by
  refine ⟨?_, ?_, ?_, ?_⟩
  · intro s d id x hx
    have hsend (s : State) (q : Nat × Nat) : Grows s (sendAlive d id x s q) := .sendAlive ..
    refine ⟨_, keepAliveSend_eq hx, ?_, fun q hq p hp => ?_⟩
    · rw [← (Grows.foldl hsend ((x.rank, x.rank + 1) :: x.nodes.map (fun n => (n.lo, n.hi))) s).now]
      exact State.mem_later ..
    · refine mem_foldl_of_mem hsend (fun s => ?_) _ hq _
      rw [sendAlive, hp]
      exact State.mem_soon ..
  · intro s d p id lo hi x q n hp hx hq hn
    have hexec : exec (.keepAliveArrival d p) s = .next (hear s d id q (decide (hi = midOf q.1 q.2)) p.link) := by
      show execKeepAliveArrival d p s = _
      simp only [execKeepAliveArrival, hp, hx, hq]
    refine ⟨_, _, _, hexec, (session_modSession_self ..).trans (by rw [hx, Option.map_some]),
      node_modNode_self (fun n => by split <;> exact ⟨rfl, rfl⟩) hn, fun h => ?_, fun h => ?_⟩
    · rw [decide_eq_true h]
      exact ⟨rfl, rfl⟩
    · rw [decide_eq_false h]
      exact ⟨rfl, rfl⟩
  · intro s d id lo hi x n hx hn ha ht
    obtain ⟨y, m, hy, hm, hgm, hrs⟩ := session_declareAbsent hx hn true (spanRanks lo (midOf lo hi))
    obtain ⟨z, hz, hg⟩ := ((Grows.rightTimedOut _ d id lo hi n).trans (.planTimeout _ d id lo hi n)).sessions d id y hy
    obtain ⟨o, ho, hgo⟩ := hg.nodes lo hi m hm
    exact ⟨_, z, o, childTimeout_of_silent hx hn ha ht, hz, ho, hgo.absentL (hgm.absentL rfl),
      fun r hlo hmid => hg.absent (hrs (mem_spanRanks.2 ⟨hlo, hmid⟩))⟩
  · intro s d p id r lo hi x n hp hx hn hwho
    have hnone : ¬ x.node? lo hi = none := by rw [hn]; exact Option.some_ne_none n
    by_cases hleft : r = lo ∧ midOf lo hi = lo + 1
    · have hexec : exec (.absentNotice d p) s = .next (declareAbsent s d id lo hi true [r]) := by
        show execAbsentNotice d p s = _
        simp only [execAbsentNotice, hp, hx, hnone, if_false]
        rw [if_pos hleft]
      obtain ⟨y, m, hy, hm, hgm, hrs⟩ := session_declareAbsent hx hn true [r]
      exact ⟨_, y, m, hexec, hy, hm, hrs List.mem_cons_self, fun _ => hgm.absentL rfl, fun h => absurd hleft h⟩
    · have hright : r = midOf lo hi ∧ hi = midOf lo hi + 1 := by
        obtain ⟨hr, hhi⟩ := hwho.resolve_left hleft
        exact ⟨hr, hr ▸ hhi⟩
      have hexec : exec (.absentNotice d p) s = .next (declareAbsent s d id lo hi false [r]) := by
        show execAbsentNotice d p s = _
        simp only [execAbsentNotice, hp, hx, hnone, if_false]
        rw [if_neg hleft, if_pos hright]
      obtain ⟨y, m, hy, hm, hgm, hrs⟩ := session_declareAbsent hx hn false [r]
      exact ⟨_, y, m, hexec, hy, hm, hrs List.mem_cons_self, fun h => absurd h hleft, fun _ => hgm.absentR rfl⟩

/-! Pixel by pixel (R349) -/

theorem zipIdx_eq_map_range (l : List Byte) : l.zipIdx = (List.range l.length).map (fun i => (l.getD i 0, i)) := by
  refine List.ext_getElem (by simp) fun i h _ => ?_
  have hi : i < l.length := by simpa using h
  simp [hi]

theorem map_getD_range (l : List Byte) {n : Nat} (h : l.length = n) : (List.range n).map (fun i => l.getD i 0) = l := by
  subst h
  refine List.ext_getElem (by simp) fun i h _ => ?_
  have hi : i < l.length := by simpa using h
  simp [hi]

theorem setPixel_eq (t : Tab Byte) (p v : Nat) :
    setPixel t p v = (List.range 8).foldl (fun t i => Tab.set 0 t (8 * p + i) ((bytesOf 8 v).getD i 0)) t := by
  rw [setPixel, zipIdx_eq_map_range, List.foldl_map, length_bytesOf]

theorem get_setPixel (t : Tab Byte) (p v k : Nat) :
    Tab.get 0 (setPixel t p v) k = if k / 8 = p then (bytesOf 8 v).getD (k % 8) 0 else Tab.get 0 t k := by
  rw [setPixel_eq, get_foldl_set_range]
  by_cases h : k / 8 = p
  · rw [if_pos h, if_pos (by omega), show k - 8 * p = k % 8 by omega]
  · rw [if_neg h, if_neg (by omega)]

/-- The pixel that two packets give, if either covers it. -/
def mergedPixel (op : Nat) (a b : TilePacket) (p : Nat) : Option Nat :=
  match a.cover.getLsbD p, b.cover.getLsbD p with
  | true, true => some (combinePixel op (packetPixel a p) (packetPixel b p))
  | true, false => some (packetPixel a p)
  | false, true => some (packetPixel b p)
  | false, false => none

/-- A pixel joins the payload and the coverage of a tile. -/
def addPixel (op : Nat) (a b : TilePacket) (st : Tab Byte × DWord) (p : Nat) : Tab Byte × DWord :=
  match mergedPixel op a b p with
  | some v => (setPixel st.1 p v, st.2 ||| dw (2 ^ p))
  | none => st

theorem combineTiles_eq (op : Nat) (a b : TilePacket) :
    combineTiles op (some a) (some b) = (List.range 64).foldl (addPixel op a b) ([], 0) := by
  rw [combineTiles]
  refine congrArg (fun f => (List.range 64).foldl f ([], 0)) (funext fun st => funext fun p => ?_)
  rw [addPixel, mergedPixel]
  dsimp only
  cases a.cover.getLsbD p <;> cases b.cover.getLsbD p <;> rfl

theorem get_foldl_addPixel (op : Nat) (a b : TilePacket) (n k : Nat) :
    Tab.get 0 ((List.range n).foldl (addPixel op a b) ([], 0)).1 k =
      if k / 8 < n then ((mergedPixel op a b (k / 8)).map (fun v => (bytesOf 8 v).getD (k % 8) 0)).getD 0 else 0 := by
  induction n with
  | zero => rfl
  | succ n ih =>
    rw [List.range_succ, List.foldl_append, List.foldl_cons, List.foldl_nil, addPixel]
    cases h : mergedPixel op a b n with
    | none =>
      dsimp only
      rw [ih]
      rcases Nat.lt_trichotomy (k / 8) n with hk | hk | hk
      · rw [if_pos hk, if_pos (by omega)]
      · rw [if_neg (by omega), if_pos (by omega), hk, h]; rfl
      · rw [if_neg (by omega), if_neg (by omega)]
    | some v =>
      dsimp only
      rw [get_setPixel, ih]
      rcases Nat.lt_trichotomy (k / 8) n with hk | hk | hk
      · rw [if_neg (by omega), if_pos hk, if_pos (by omega)]
      · rw [if_pos hk, if_pos (by omega), hk, h]; rfl
      · rw [if_neg (by omega), if_neg (by omega), if_neg (by omega)]

theorem getLsbD_bit {p k : Nat} (hk : k < 64) : (dw (2 ^ p)).getLsbD k = decide (k = p) := by
  rw [dw, BitVec.getLsbD_ofNat, decide_eq_true hk, Bool.true_and, Nat.testBit_two_pow]
  exact decide_eq_decide.2 eq_comm

theorem isSome_mergedPixel (op : Nat) (a b : TilePacket) (p : Nat) :
    (mergedPixel op a b p).isSome = (a.cover.getLsbD p || b.cover.getLsbD p) := by
  rw [mergedPixel]
  cases a.cover.getLsbD p <;> cases b.cover.getLsbD p <;> rfl

theorem cover_foldl_addPixel (op : Nat) (a b : TilePacket) {k : Nat} (hk : k < 64) (n : Nat) :
    ((List.range n).foldl (addPixel op a b) ([], 0)).2.getLsbD k = (decide (k < n) && (mergedPixel op a b k).isSome) := by
  induction n with
  | zero => exact BitVec.getLsbD_zero
  | succ n ih =>
    rw [List.range_succ, List.foldl_append, List.foldl_cons, List.foldl_nil, addPixel]
    have hlt : decide (k < n + 1) = (decide (k < n) || decide (k = n)) := by
      rw [← Bool.decide_or]
      exact decide_eq_decide.2 (by omega)
    cases h : mergedPixel op a b n with
    | none =>
      dsimp only
      rw [ih, hlt]
      by_cases hkn : k = n
      · subst hkn; rw [h]; simp
      · simp [hkn]
    | some v =>
      dsimp only
      rw [BitVec.getLsbD_or, ih, getLsbD_bit hk, hlt]
      by_cases hkn : k = n
      · subst hkn; rw [h]; simp
      · simp [hkn]

/-- A covered pixel of a combined tile. -/
theorem pixel_combineTiles {op : Nat} {a b : TilePacket} {i v : Nat} (hi : i < 64) (hv : mergedPixel op a b i = some v) :
    ofBytes ((List.range 8).map (fun j => Tab.get 0 (combineTiles op (some a) (some b)).1 (8 * i + j))) = v % 2 ^ 64 := by
  have hbytes : (List.range 8).map (fun j => Tab.get 0 (combineTiles op (some a) (some b)).1 (8 * i + j)) = bytesOf 8 v := by
    rw [← map_getD_range (bytesOf 8 v) (length_bytesOf 8 v)]
    refine List.map_congr_left fun j hj => ?_
    have hj8 : j < 8 := List.mem_range.1 hj
    rw [combineTiles_eq, get_foldl_addPixel, show (8 * i + j) / 8 = i by omega, if_pos hi, show (8 * i + j) % 8 = j by omega, hv]
    rfl
  rw [hbytes, ofBytes_bytesOf, show 256 ^ 8 = 2 ^ 64 from rfl]

/-- A combined tile covers what either covers. -/
theorem cover_combineTiles (op : Nat) (a b : TilePacket) : (combineTiles op (some a) (some b)).2 = a.cover ||| b.cover := by
  refine BitVec.eq_of_getLsbD_eq fun k hk => ?_
  rw [combineTiles_eq, cover_foldl_addPixel op a b hk, isSome_mergedPixel, BitVec.getLsbD_or, decide_eq_true hk, Bool.true_and]

theorem pixelsCombine (op : Nat) (a b : TilePacket) (i : Nat) (hi : i < 64) :
    let z := combineTiles op (some a) (some b)
    let pixel := ofBytes ((List.range 8).map (fun j => Tab.get 0 z.1 (8 * i + j)))
    (a.cover.getLsbD i = true → b.cover.getLsbD i = false → pixel = packetPixel a i % 2 ^ 64) ∧
    (a.cover.getLsbD i = false → b.cover.getLsbD i = true → pixel = packetPixel b i % 2 ^ 64) ∧
    (a.cover.getLsbD i = true → b.cover.getLsbD i = true → pixel = combinePixel op (packetPixel a i) (packetPixel b i) % 2 ^ 64) ∧
    z.2.getLsbD i = (a.cover.getLsbD i || b.cover.getLsbD i) := by
  refine ⟨fun ha hb => ?_, fun ha hb => ?_, fun ha hb => ?_, ?_⟩
  · exact pixel_combineTiles hi (by rw [mergedPixel, ha, hb])
  · exact pixel_combineTiles hi (by rw [mergedPixel, ha, hb])
  · exact pixel_combineTiles hi (by rw [mergedPixel, ha, hb])
  · rw [cover_combineTiles, BitVec.getLsbD_or]

/-! The place of a packet in the tree (R348) -/

theorem lt_of_mem_nodesFrom (fuel : Nat) : ∀ lo hi : Nat, ∀ q ∈ nodesFrom fuel lo hi, q.1 + 1 < q.2 := by
  induction fuel with
  | zero => exact fun _ _ _ h => absurd h List.not_mem_nil
  | succ fuel ih =>
    intro lo hi q hq
    rw [nodesFrom] at hq
    split at hq
    · exact absurd hq List.not_mem_nil
    · rcases List.mem_cons.1 hq with rfl | hq
      · show lo + 1 < hi
        omega
      · exact (List.mem_append.1 hq).elim (ih _ _ q) (ih _ _ q)

theorem parentOf_eq_some {n a b : Nat} {q : Nat × Nat} (h : parentOf n a b = some q) :
    q.1 + 1 < q.2 ∧ (a = q.1 ∧ b = midOf q.1 q.2 ∨ a = midOf q.1 q.2 ∧ b = q.2) := by
  refine ⟨lt_of_mem_nodesFrom _ _ _ q (List.mem_of_find?_eq_some h), ?_⟩
  simpa only [Bool.or_eq_true, decide_eq_true_iff, Prod.mk.injEq] using List.find?_some h

/-- The packet comes from the left child of a node, or from the right one. -/
def FromChild (n : Node) (tp : TilePacket) : Bool → Prop
  | true => tp.rank = n.lo ∧ tp.rank + tp.span + 1 = midOf n.lo n.hi
  | false => tp.rank = midOf n.lo n.hi ∧ tp.rank + tp.span + 1 = n.hi

/-- A packet that has a node on the die comes from one of its children and not from the other. -/
theorem child_of_parent {tp : TilePacket} {n : Node} {left : Bool}
    (hp : (parentOf x.n tp.rank (tp.rank + tp.span + 1)).bind (fun q => x.node? q.1 q.2) = some n)
    (hleft : left = decide (tp.rank + tp.span + 1 = midOf n.lo n.hi)) :
    x.node? n.lo n.hi = some n ∧ n.lo + 1 < n.hi ∧ FromChild n tp left ∧ ¬ FromChild n tp (!left) := by
  obtain ⟨q, hq, hn⟩ := Option.bind_eq_some_iff.1 hp
  obtain ⟨hlo, hhi⟩ := node_span hn
  obtain ⟨hlt, hwho⟩ := parentOf_eq_some hq
  rw [← hlo, ← hhi] at hwho hn hlt
  refine ⟨hn, hlt, ?_⟩
  by_cases h : tp.rank + tp.span + 1 = midOf n.lo n.hi
  · rw [hleft, decide_eq_true h]
    exact ⟨⟨(hwho.resolve_right (fun hr => by omega)).1, h⟩, fun hr => by obtain ⟨hr, -⟩ := hr; omega⟩
  · rw [hleft, decide_eq_false h]
    exact ⟨hwho.resolve_left (fun hr => h hr.2), fun hr => h hr.2⟩

/-- A session that holds one packet more. -/
def withHeld (tp : TilePacket) (x : Session) : Session := { x with held := x.held ++ [tp] }

theorem heldAs_withHeld {n : Node} {tp : TilePacket} {left : Bool} (hno : x.heldAs n left tp.frame tp.tx tp.ty = none)
    (hc : FromChild n tp left) : (withHeld tp x).heldAs n left tp.frame tp.tx tp.ty = some tp := by
  unfold Session.heldAs at hno ⊢
  dsimp only [withHeld] at hno ⊢
  rw [List.find?_append, hno, Option.none_or]
  refine List.find?_cons_of_pos (decide_eq_true ?_)
  cases left
  · exact ⟨hc.1, hc.2, rfl, rfl, rfl⟩
  · exact ⟨hc.1, hc.2, rfl, rfl, rfl⟩

theorem heldAs_withHeld_of_not {n : Node} {tp : TilePacket} {left : Bool} {f tx ty : Nat} (hc : ¬ FromChild n tp left) :
    (withHeld tp x).heldAs n left f tx ty = x.heldAs n left f tx ty := by
  unfold Session.heldAs
  dsimp only [withHeld]
  rw [List.find?_append, List.find?_cons_of_neg, List.find?_nil, Option.or_none]
  refine fun h => hc ?_
  cases left
  · exact ⟨(of_decide_eq_true h).1, (of_decide_eq_true h).2.1⟩
  · exact ⟨(of_decide_eq_true h).1, (of_decide_eq_true h).2.1⟩

/-- A session whose nodes have been rewritten. -/
def withNodes (ns : List Node) (x : Session) : Session := { x with nodes := ns }

/-- A node has heard from a child, unless the packet has been looked at before. -/
def heardState (s : State) (d id : Nat) (p : Packet) (n : Node) (left : Bool) : State :=
  if p.heard then s else hear s d id (n.lo, n.hi) left p.link

/-- Hearing from a child changes the node's last hearing alone. -/
theorem session_heardState {p : Packet} {n : Node} (hx : session? s d id = some x) (hn : x.node? n.lo n.hi = some n) (left : Bool) :
    ∃ ns m, session? (heardState s d id p n left) d id = some (withNodes ns x) ∧
      (withNodes ns x).node? n.lo n.hi = some m ∧ m.lo = n.lo ∧ m.hi = n.hi ∧ m.absentL = n.absentL ∧ m.absentR = n.absentR := by
  unfold heardState
  split
  · exact ⟨x.nodes, n, hx, hn, rfl, rfl, rfl, rfl⟩
  · refine ⟨_, _, (session_modSession_self ..).trans (by rw [hx]; rfl), node_modNode_self (fun n => ?_) hn, ?_⟩
    · split <;> exact ⟨rfl, rfl⟩
    · split <;> exact ⟨rfl, rfl, rfl, rfl⟩

theorem settleTile_of_waiting {n : Node} {lo hi f tx ty : Nat} (hx : session? s d id = some x) (hn : x.node? lo hi = some n)
    (h : ((x.heldAs n true f tx ty).isSome && (x.heldAs n false f tx ty).isSome || (x.heldAs n true f tx ty).isSome && n.absentR ||
      (x.heldAs n false f tx ty).isSome && n.absentL) = false) : settleTile s d id lo hi f tx ty = s := by
  unfold settleTile
  simp only [hx, hn]
  split
  · rename_i hn' _
    obtain rfl := Option.some.inj hn'
    rw [if_neg (by rw [h]; exact Bool.false_ne_true)]
  · rfl

/-- The state in which a node has emitted a tile. -/
def emittedAt (s : State) (d id : Nat) (x : Session) (n : Node) (f tx ty : Nat) : State :=
  sendOutput (modSession s d id (fun _ => (emitTile id x n f tx ty).1)) d x (emitTile id x n f tx ty).2 false

theorem settleTile_of_both {n : Node} {lo hi f tx ty : Nat} (hx : session? s d id = some x) (hn : x.node? lo hi = some n)
    (hf : (x.frame? f).isSome = true) (ha : (x.heldAs n true f tx ty).isSome = true) (hb : (x.heldAs n false f tx ty).isSome = true) :
    settleTile s d id lo hi f tx ty = closeWhole (emittedAt s d id x n f tx ty) d id f lo hi := by
  obtain ⟨r, hr⟩ := Option.isSome_iff_exists.1 hf
  unfold settleTile
  simp only [hx, hn, hr, ha, hb, Bool.and_self, Bool.true_or, if_true]
  rfl

/-- A packet of a frame that has begun or is not overtaken, neither late nor a duplicate, is held where there is room or its partner waits. -/
theorem tilePacketArrival_of_comes {p : Packet} {tp : TilePacket} {n : Node} {left : Bool} (hb : p.body = .tile tp)
    (hx : session? s d tp.session = some x)
    (hp : (parentOf x.n tp.rank (tp.rank + tp.span + 1)).bind (fun q => x.node? q.1 q.2) = some n)
    (hleft : left = decide (tp.rank + tp.span + 1 = midOf n.lo n.hi)) (habs : (if left then n.absentL else n.absentR) = false)
    (hem : n.emitted.contains (tp.frame, tp.tx, tp.ty) = false) (hcl : n.closed.contains tp.frame = false)
    (hno : x.heldAs n left tp.frame tp.tx tp.ty = none)
    (hroom : ¬ (x.slots ≤ x.held.length ∧ ((x.heldAs n (!left) tp.frame tp.tx tp.ty).isNone ∨ (x.frame? tp.frame).isNone)))
    (hbegun : (x.frame? tp.frame).isSome = true ∨ ∀ h, x.highest = some h → h ≤ tp.frame) :
    exec (.tilePacketArrival d p) s = .next (holdTile (heardState s d tp.session p n left) d tp.session n tp) := by
  have hgone : ((if left then n.absentL else n.absentR) || n.emitted.contains (tp.frame, tp.tx, tp.ty) || n.closed.contains tp.frame) = false := by
    rw [habs, hem, hcl]; rfl
  show execTilePacketArrival d p s = _
  simp only [execTilePacketArrival, hb, hx, hp, ← hleft]
  rw [if_neg (by rw [hgone]; exact Bool.false_ne_true), hno]
  simp only [Option.isSome_none, Bool.false_eq_true, if_false, hroom]
  refine congrArg Host.Outcome.next (if_neg fun hbegins => ?_)
  obtain ⟨hnone, hlow⟩ := Bool.and_eq_true_iff.1 hbegins
  rcases hbegun with hf | hh
  · rw [Option.isNone_eq_false_iff.2 hf] at hnone
    exact absurd hnone Bool.false_ne_true
  · cases h : x.highest with
    | none => simp [h] at hlow
    | some h' =>
      have hle := hh h' h
      simp only [h, decide_eq_true_iff] at hlow
      omega

/-- A packet in its place at a node of a session that hears from its children. -/
theorem holdTile_eq {tp : TilePacket} {n : Node} (hx : session? s d id = some x) :
    ∃ u, holdTile s d id n tp = settleTile u d id n.lo n.hi tp.frame tp.tx tp.ty ∧ session? u d id = some (withHeld tp x) :=
  ⟨_, rfl, (session_modSession_self ..).trans (by rw [hx]; rfl)⟩

/-- What a node holds depends on its span and on the packets held alone. -/
theorem heldAs_congr {n m : Node} (hlo : m.lo = n.lo) (hhi : m.hi = n.hi) (hh : y.held = x.held) (left : Bool) (f tx ty : Nat) :
    y.heldAs m left f tx ty = x.heldAs n left f tx ty := by
  unfold Session.heldAs
  rw [hlo, hhi, hh]

/-- A packet whose partner is missing is held (R353). -/
theorem tile_held {p : Packet} {tp : TilePacket} {n : Node} {left : Bool} (hx : session? s d tp.session = some x)
    (hp : (parentOf x.n tp.rank (tp.rank + tp.span + 1)).bind (fun q => x.node? q.1 q.2) = some n)
    (hleft : left = decide (tp.rank + tp.span + 1 = midOf n.lo n.hi))
    (hother : x.heldAs n (!left) tp.frame tp.tx tp.ty = none) (habs : (if left then n.absentR else n.absentL) = false) :
    ∃ y, session? (holdTile (heardState s d tp.session p n left) d tp.session n tp) d tp.session = some y ∧
      y.held = x.held ++ [tp] ∧ y.late = x.late ∧ y.dup = x.dup := by
  obtain ⟨hn, -, -, hnot⟩ := child_of_parent hp hleft
  obtain ⟨ns, m, hx1, hm, hlo, hhi, hL, hR⟩ := session_heardState (p := p) hx hn left
  obtain ⟨u, hu, hsu⟩ := holdTile_eq (tp := tp) (n := n) hx1
  have hnone : (withHeld tp (withNodes ns x)).heldAs m (!left) tp.frame tp.tx tp.ty = none :=
    (heldAs_congr (y := withHeld tp (withNodes ns x)) (x := withHeld tp x) hlo hhi rfl ..).trans
      ((heldAs_withHeld_of_not hnot).trans hother)
  have hwait : settleTile u d tp.session n.lo n.hi tp.frame tp.tx tp.ty = u := by
    refine settleTile_of_waiting hsu (n := m) hm ?_
    cases left
    · rw [show (false : Bool).not = true from rfl] at hnone
      simp only [hnone, hL, show n.absentL = false from habs, Option.isSome_none, Bool.false_and, Bool.and_false, Bool.or_self]
    · rw [show (true : Bool).not = false from rfl] at hnone
      simp only [hnone, hR, show n.absentR = false from habs, Option.isSome_none, Bool.false_and, Bool.and_false, Bool.or_self]
  rw [hu, hwait]
  exact ⟨_, hsu, rfl, rfl, rfl⟩

/-- The output of a node for the tile of two packets (R353). -/
theorem emitTile_of_both {n : Node} {f tx ty : Nat} {a b : TilePacket} (ha : x.heldAs n true f tx ty = some a)
    (hb : x.heldAs n false f tx ty = some b) :
    let out := (emitTile id x n f tx ty).2
    out.rank = n.lo ∧ out.frame = f ∧ out.tx = tx ∧ out.ty = ty ∧ out.span = n.hi - n.lo - 1 ∧ out.present = a.present + b.present ∧
      out.cover = a.cover ||| b.cover := by
  dsimp only [emitTile]
  rw [ha, hb]
  exact ⟨rfl, rfl, rfl, rfl, rfl, rfl, cover_combineTiles x.op a b⟩

/-- The output of a node goes to its parent's host, or from the root to the delivery die (R348). -/
theorem mem_emittedAt {n : Node} {f tx ty : Nat} (hlt : n.lo + 1 < n.hi) :
    let out := (emitTile id x n f tx ty).2
    (∀ q, parentOf x.n n.lo n.hi = some q → Turn.event (.packetForward d
      { dest := x.ranks.getD q.1 0, hops := 0, link := none, chan := heightOf q.1 q.2 - 1, body := .tile out }) ∈
        (emittedAt s d id x n f tx ty).agenda) ∧
    (parentOf x.n n.lo n.hi = none → Turn.event (.packetForward d
      { dest := x.dnode, hops := 0, link := none, chan := 8, body := .root out x.engine x.sink x.n x.tx0 x.ty0 x.tw x.th 0 }) ∈
        (emittedAt s d id x n f tx ty).agenda) := by
  intro out
  have hspan : (emitTile id x n f tx ty).2.rank + (emitTile id x n f tx ty).2.span + 1 = n.hi := by
    show n.lo + (n.hi - n.lo - 1) + 1 = n.hi
    omega
  refine ⟨fun q hq => ?_, fun hq => ?_⟩
  · rw [emittedAt, sendOutput, hspan, show (emitTile id x n f tx ty).2.rank = n.lo from rfl, hq]
    exact State.mem_soon ..
  · rw [emittedAt, sendOutput, hspan, show (emitTile id x n f tx ty).2.rank = n.lo from rfl, hq]
    exact State.mem_soon ..

/-- A packet whose partner is held has the node emit the tile (R353). -/
theorem tile_emitted {p : Packet} {tp other : TilePacket} {n : Node} {left : Bool} (hx : session? s d tp.session = some x)
    (hp : (parentOf x.n tp.rank (tp.rank + tp.span + 1)).bind (fun q => x.node? q.1 q.2) = some n)
    (hleft : left = decide (tp.rank + tp.span + 1 = midOf n.lo n.hi)) (hno : x.heldAs n left tp.frame tp.tx tp.ty = none)
    (hother : x.heldAs n (!left) tp.frame tp.tx tp.ty = some other) (hf : (x.frame? tp.frame).isSome = true) :
    ∃ u ns m a b, Grows (emittedAt u d tp.session (withHeld tp (withNodes ns x)) m tp.frame tp.tx tp.ty)
        (holdTile (heardState s d tp.session p n left) d tp.session n tp) ∧ m.lo = n.lo ∧ m.hi = n.hi ∧ n.lo + 1 < n.hi ∧
      (withHeld tp (withNodes ns x)).heldAs m true tp.frame tp.tx tp.ty = some a ∧
      (withHeld tp (withNodes ns x)).heldAs m false tp.frame tp.tx tp.ty = some b ∧
      (a = tp ∧ b = other ∨ a = other ∧ b = tp) := by
  obtain ⟨hn, hlt, hfrom, hnot⟩ := child_of_parent hp hleft
  obtain ⟨ns, m, hx1, hm, hlo, hhi, -, -⟩ := session_heardState (p := p) hx hn left
  obtain ⟨u, hu, hsu⟩ := holdTile_eq (tp := tp) (n := n) hx1
  have hcongr (l : Bool) : (withHeld tp (withNodes ns x)).heldAs m l tp.frame tp.tx tp.ty =
      (withHeld tp x).heldAs n l tp.frame tp.tx tp.ty := heldAs_congr hlo hhi rfl ..
  have hself := (hcongr left).trans (heldAs_withHeld hno hfrom)
  have hpartner := (hcongr (!left)).trans ((heldAs_withHeld_of_not hnot).trans hother)
  have hboth : ∃ a b, (withHeld tp (withNodes ns x)).heldAs m true tp.frame tp.tx tp.ty = some a ∧
      (withHeld tp (withNodes ns x)).heldAs m false tp.frame tp.tx tp.ty = some b ∧ (a = tp ∧ b = other ∨ a = other ∧ b = tp) := by
    cases left
    · exact ⟨other, tp, hpartner, hself, .inr ⟨rfl, rfl⟩⟩
    · exact ⟨tp, other, hself, hpartner, .inl ⟨rfl, rfl⟩⟩
  obtain ⟨a, b, ha, hb, hab⟩ := hboth
  refine ⟨u, ns, m, a, b, ?_, hlo, hhi, hlt, ha, hb, hab⟩
  rw [hu, settleTile_of_both hsu (n := m) hm hf (by rw [ha]; rfl) (by rw [hb]; rfl)]
  exact .closeWhole ..

/-- Settles a clause of O37: the arrival of a tile packet. -/
theorem tilesCombine : Claims.TilesCombine := by
  refine ⟨?_, ?_, pixelsCombine⟩
  · rintro s d p tp x n left ⟨hb, hx, hp, hleft, hgone, hem, hcl, hno⟩ hother habs hroom hbegun
    have hexec := tilePacketArrival_of_comes hb hx hp hleft hgone hem hcl hno (fun h => absurd h.1 (by omega)) hbegun
    obtain ⟨y, hy, hheld, hlate, hdup⟩ := tile_held (p := p) hx hp hleft hother habs
    exact ⟨_, y, hexec, hy, hheld, hlate, hdup⟩
  · rintro s d p tp x n left other ⟨hb, hx, hp, hleft, hgone, hem, hcl, hno⟩ hother hf
    have hexec := tilePacketArrival_of_comes hb hx hp hleft hgone hem hcl hno
      (fun h => h.2.elim (fun h => by simp [hother] at h) (fun h => by rw [Option.isNone_eq_false_iff.2 hf] at h; cases h)) (.inl hf)
    obtain ⟨u, ns, m, a, b, hg, hlo, hhi, hlt, ha, hb', hab⟩ := tile_emitted (p := p) hx hp hleft hno hother hf
    obtain ⟨hrank, hframe, htx, hty, -, hpresent, hcover⟩ := emitTile_of_both (id := tp.session) ha hb'
    obtain ⟨hup, hroot⟩ := mem_emittedAt (s := u) (d := d) (id := tp.session) (x := withHeld tp (withNodes ns x)) (n := m)
      (f := tp.frame) (tx := tp.tx) (ty := tp.ty) (by omega)
    rw [hlo, hhi] at hup hroot
    refine ⟨_, _, hexec, hrank.trans hlo, hframe, htx, hty, ?_, ?_, fun q hq => hg.agenda (hup q hq), fun hq => hg.agenda (hroot hq)⟩
    · rcases hab with ⟨rfl, rfl⟩ | ⟨rfl, rfl⟩
      · exact hpresent
      · exact hpresent.trans (Nat.add_comm ..)
    · rcases hab with ⟨rfl, rfl⟩ | ⟨rfl, rfl⟩
      · exact hcover
      · exact hcover.trans (BitVec.or_comm ..)

end

section
variable {s : State} {core k : Nat} {cmd : CopyCmd} {tm : Team} {x : Session}

/-! TSEND (R351) -/

theorem cmd_pokeVirt (s : State) (ctx va : Nat) (bs : List Byte) (core k : Nat) : cmd? (pokeVirt s ctx va bs) core k = cmd? s core k := by
  unfold pokeVirt
  exact ite_keeps (g := (cmd? · core k)) (cmd_poke ..) rfl

theorem cmd_frameClosed (s : State) (d id f core k : Nat) : cmd? (frameClosed s d id f) core k = cmd? s core k := by
  have hclosing (s : State) : cmd? (checkClosing s d id) core k = cmd? s core k := by
    unfold checkClosing
    split
    · exact ite_keeps (g := (cmd? · core k)) rfl rfl
    · rfl
  rw [frameClosed_eq, hclosing]
  split
  · exact cmd_pokeVirt ..
  · rfl

theorem cmd_checkLeaf (s : State) (d id f core k : Nat) : cmd? (checkLeaf s d id f) core k = cmd? s core k := by
  unfold checkLeaf
  split
  · rfl
  · split
    · exact ite_keeps (g := (cmd? · core k)) (cmd_frameClosed ..) rfl
    · rfl

theorem cmd_sendOutput (s : State) (d : Nat) (x : Session) (p : TilePacket) (late : Bool) (core k : Nat) :
    cmd? (sendOutput s d x p late) core k = cmd? s core k := by
  unfold sendOutput
  split <;> rfl

theorem cw_lt (ws : List Word) (i : Nat) : cw ws i < 2 ^ 32 := BitVec.isLt _

/-- The source address of a command is its word 1, and the row above it its word 2. -/
theorem src_mod (ws : List Word) : (copyArgs ws).src % 2 ^ 32 = cw ws 1 := by
  show (cw ws 1 + 2 ^ 32 * cw ws 2) % 2 ^ 32 = cw ws 1
  rw [Nat.add_mul_mod_self_left, Nat.mod_eq_of_lt (cw_lt ..)]

/-- The 512 bytes of a TSEND from the scratchpad that is not malformed stand at their places. -/
theorem tile_places (hok : copyMalformed s core cmd = some false) (ht : s.team? cmd.team = some tm) (hsize : tm.scrSize ≤ 2 ^ 24)
    (hop : (copyArgs cmd.words).op = 3) (hss : (copyArgs cmd.words).sspace = 1) {j : Nat} (hj : j < 512) :
    spot s core cmd 1 (Machine.rowAddr 1 (cw cmd.words 1) 0 0 j) false = .at_ (.scr cmd.team (cw cmd.words 1 + j)) := by
  obtain ⟨-, ⟨regs, hbad⟩, hsrc, -⟩ := of_not_malformed hok
  have hfields : (copyArgs cmd.words).cvt = 0 ∧ (copyArgs cmd.words).rows = 0 ∧ (copyArgs cmd.words).len = 512 := by
    simp only [badWords, hop, Bool.or_eq_false_iff, bne_eq_false_iff_eq] at hbad
    tauto
  obtain ⟨hcvt, hrows, hlen⟩ := hfields
  have hr := hsrc (by omega) (by omega)
  rw [if_pos hop, src_mod, hss, show copyRows (copyArgs cmd.words) = (0, 512, 512) by simp [copyRows, hop, hcvt, hrows, hlen, cvtSize]] at hr
  obtain ⟨hspot, hin⟩ := scr_of_rowsOk ht hsize (by decide) hr hj
  rw [rowAddr_zero _ (show cw cmd.words 1 + j < 2 ^ 32 by omega)] at hspot ⊢
  exact hspot

/-- Bytes laid out from 0 on are read back. -/
theorem get_layout {n : Nat} (f : Nat → Byte) {j : Nat} (hj : j < n) :
    Tab.get 0 (((List.range n).map f).zipIdx.foldl (fun t b => Tab.set 0 t b.2 b.1) []) j = f j := by
  have hfold := get_foldl_set_range (0 : Byte) 0 n (fun j => ((List.range n).map f).getD j 0) [] j
  rw [zipIdx_eq_map_range, List.foldl_map, List.length_map, List.length_range]
  simp only [Nat.zero_add, Nat.zero_le, true_and, hj, if_true, Nat.sub_zero] at hfold
  rw [hfold]
  simp [hj]

/-- The payload of a leaf packet holds the byte of each place of its source. -/
theorem payload_leafPacket (s : State) (core : Nat) (cmd : CopyCmd) (x : Session) : ∃ f : Nat → Byte,
    (leafPacket s core cmd x).payload = ((List.range 512).map f).zipIdx.foldl (fun t b => Tab.set 0 t b.2 b.1) [] ∧
      ∀ j p, spot s core cmd (copyArgs cmd.words).sspace (Machine.rowAddr (copyArgs cmd.words).sspace (cw cmd.words 1) 0 0 j) false = .at_ p →
        f j = rdPlace s p := by
  unfold leafPacket
  dsimp only
  exact ⟨_, rfl, fun j p h => by simp only [h]⟩

/-- The payload of a leaf packet from the scratchpad is the team's bytes. -/
theorem byte_leafPacket {u : State} (hss : (copyArgs cmd.words).sspace = 1) (ht : u.team? cmd.team = some tm)
    (hspot : ∀ j < 512, spot u core cmd 1 (Machine.rowAddr 1 (cw cmd.words 1) 0 0 j) false = .at_ (.scr cmd.team (cw cmd.words 1 + j)))
    {j : Nat} (hj : j < 512) : Tab.get 0 (leafPacket u core cmd x).payload j = tm.byte (cw cmd.words 1 + j) := by
  obtain ⟨f, hpay, hf⟩ := payload_leafPacket u core cmd x
  rw [hpay, get_layout f hj, hf j (.scr cmd.team (cw cmd.words 1 + j)) (by rw [hss]; exact hspot j hj)]
  simp only [rdPlace, ht]

/-- The state in which a leaf packet has been sent and entered among the tiles sent. -/
def tileSentAt (s : State) (core : Nat) (cmd : CopyCmd) (x : Session) : State :=
  modSession (sendOutput s (coreDie core) x (leafPacket s core cmd x) false) (coreDie core) (cw cmd.words 3 % 65536)
    (fun x => { x with sent := (cw cmd.words 2, bits (cw cmd.words 4) 11 0, bits (cw cmd.words 4) 23 12) :: x.sent })

theorem cmd_tileSentAt (s : State) : cmd? (tileSentAt s core cmd x) core k = cmd? s core k :=
  cmd_sendOutput s (coreDie core) x (leafPacket s core cmd x) false core k

theorem tsend_of_served (hc : cmd? s core k = some cmd) (hlive : cmd.st = .live) (hrun : engineStopped s core = false)
    (hok : copyMalformed s core cmd = some false) (hwait : cmdWaits s core k cmd = false)
    (hserved : Claims.CommandServed s core k cmd (cmdRows s core cmd)) (hid : cw cmd.words 3 < 65536) (hxy : cw cmd.words 4 < 2 ^ 24)
    (hx : session? s (coreDie core) (cw cmd.words 3) = some x) (hctx : x.ctx = cmd.ctx)
    (htx : x.tx0 ≤ bits (cw cmd.words 4) 11 0 ∧ bits (cw cmd.words 4) 11 0 < x.tx0 + x.tw)
    (hty : x.ty0 ≤ bits (cw cmd.words 4) 23 12 ∧ bits (cw cmd.words 4) 23 12 < x.ty0 + x.th) (habs : x.absent.contains x.rank = false) :
    exec (.tsend core k) s = .next (cmdDone (checkLeaf (tileSentAt (slotsGiven s (.cmd core k)) core cmd x) (coreDie core) (cw cmd.words 3)
      (cw cmd.words 2)) core k) := by
  have hx' : session? (slotsGiven s (.cmd core k)) (coreDie core) (cw cmd.words 3) = some x := by
    rw [session?, State.die, slotsGiven_keeps State.dies (fun _ _ => rfl)]
    exact hx
  have hmod : cw cmd.words 3 % 65536 = cw cmd.words 3 := Nat.mod_eq_of_lt hid
  have hgood : ¬ (x.ctx ≠ cmd.ctx ∨ cw cmd.words 3 / 65536 ≠ 0 ∨ cw cmd.words 4 / 2 ^ 24 ≠ 0 ∨ bits (cw cmd.words 4) 11 0 < x.tx0 ∨
      x.tx0 + x.tw ≤ bits (cw cmd.words 4) 11 0 ∨ bits (cw cmd.words 4) 23 12 < x.ty0 ∨ x.ty0 + x.th ≤ bits (cw cmd.words 4) 23 12) := by
    rw [Nat.div_eq_of_lt hid, Nat.div_eq_of_lt hxy]
    omega
  show execTsend core k s = _
  rw [execTsend, copyStep_of_served hc hlive hrun hok hwait hserved, tileSentAt]
  simp only [hmod, hx', hgood, if_false, habs, Bool.false_eq_true]
  rfl

end

/-- Settles a clause of O37: TSEND. -/
theorem tileSent : Claims.TileSent := by
  intro s core k cmd tm x p hc hlive hrun hok hwait hserved ht hsize hop hss id tx ty hid hxy hx hctx htx0 htx hty0 hty habs hp
  have hteam : (slotsGiven s (.cmd core k)).team? cmd.team = some tm :=
    (slotsGiven_keeps (State.team? · cmd.team) (fun _ _ => rfl) s _).trans ht
  have hspot : ∀ j < 512, spot (slotsGiven s (.cmd core k)) core cmd 1 (Machine.rowAddr 1 (cw cmd.words 1) 0 0 j) false =
      .at_ (.scr cmd.team (cw cmd.words 1 + j)) := fun j hj => by
    rw [← tile_places hok ht hsize hop hss hj]
    simp only [spot, scrSpot_slotsGiven]
  have hcmd : cmd? (checkLeaf (tileSentAt (slotsGiven s (.cmd core k)) core cmd x) (coreDie core) (cw cmd.words 3) (cw cmd.words 2)) core k =
      some cmd := by
    rw [cmd_checkLeaf, cmd_tileSentAt, cmd_slotsGiven, hc]
  refine ⟨_, _, leafPacket (slotsGiven s (.cmd core k)) core cmd x,
    tsend_of_served hc hlive hrun hok hwait hserved hid hxy hx hctx ⟨htx0, htx⟩ ⟨hty0, hty⟩ habs, cmd_cmdDone_self hcmd, rfl, ?_,
    Nat.mod_eq_of_lt hid, rfl, rfl, rfl, rfl, rfl, rfl, fun j hj => byte_leafPacket hss hteam hspot hj⟩
  refine (Grows.checkLeaf ..).agenda (show _ ∈ (sendOutput _ _ _ _ _).agenda from ?_)
  rw [sendOutput, show parentOf x.n (leafPacket (slotsGiven s (.cmd core k)) core cmd x).rank
    ((leafPacket (slotsGiven s (.cmd core k)) core cmd x).rank + (leafPacket (slotsGiven s (.cmd core k)) core cmd x).span + 1) = some p from hp]
  exact State.mem_soon ..

/-- Settles O37: tiles are sent, held, combined and sent on; contributors are heard or declared absent. -/
theorem tilesMerge : Obligations.TilesMerge := ⟨tilesCombine, contributors, tileSent⟩

end Sys2Proof.Safety
end

section
/-! Links, routers, sinks and root tiles (O38). -/

open Sys2Proof Sys2Proof.Machine
namespace Sys2Proof.Safety

section
variable {s t : State} {d l : Nat}

/-! The states of a link (R343) -/

theorem link_writeLink (s : State) (l k : Nat) : (writeLink s l).link k = s.link k := by
  have h : (writeLink s l).links = s.links :=
    ((congrArg State.links (besideMemory_poke ..) :)).trans (congrArg State.links (besideMemory_poke ..) :)
  rw [State.link, h, State.link]

theorem die_writeLink (s : State) (l e : Nat) : (writeLink s l).die e = s.die e := by
  have h : (writeLink s l).dies = s.dies :=
    ((congrArg State.dies (besideMemory_poke ..) :)).trans (congrArg State.dies (besideMemory_poke ..) :)
  rw [State.die, h, State.die]

theorem link_planSend (s : State) (l k : Nat) : (planSend s l).link k = s.link k := by
  unfold planSend
  split <;> rfl

/-- A link that is to send has its turn. -/
theorem mem_planSend (s : State) (l : Nat) : ∃ c, (c, Turn.linkSend l) ∈ (planSend s l).calendar := by
  unfold planSend
  split
  · rename_i h
    obtain ⟨e, he, hl⟩ := List.any_eq_true.1 h
    exact ⟨e.1, by rw [← of_decide_eq_true hl]; exact he⟩
  · exact ⟨s.now + 1, List.mem_append_right _ List.mem_cons_self⟩

/-- A link that retrains, as it was but for its state and its count. -/
def retraining (now : Nat) (count : Bool) (x : Link) : Link :=
  { x with st := .retrain, since := now, retrains := if count then (x.retrains + 1) % 2 ^ 32 else x.retrains }

/-- A link has entered RETRAIN, counted by the management window where it lost its lock. -/
def trained (s : State) (l : Nat) (count : Bool) : State :=
  let s := s.modLink l (retraining s.now count)
  if count then { s with mgmt := { s.mgmt with retrains := Tab.put s.mgmt.retrains l (Tab.get 0 s.mgmt.retrains l + 1) } } else s

theorem trained_keeps {α : Type} (g : State → α) (hg : ∀ s m, g { s with mgmt := m } = g s) (s : State) (l : Nat) (count : Bool) :
    g (trained s l count) = g (s.modLink l (retraining s.now count)) :=
  ite_keeps (g := g) (hg ..) rfl

theorem linkTrain_eq (s : State) (l : Nat) (count : Bool) :
    linkTrain s l count = (writeLink (trained s l count) l).later 32768 (.event (.linkDownTimeout l (trained s l count).now)) := rfl

theorem link_linkTrain (s : State) (l : Nat) (count : Bool) (k : Nat) :
    (linkTrain s l count).link k = if k = l then retraining s.now count (s.link l) else s.link k := by
  rw [linkTrain_eq, State.link_later, link_writeLink, trained_keeps (State.link · k) fun _ _ => rfl]
  exact State.link_modLink ..

/-- A link that is down, its packets dropped and counted. -/
def downed (now : Nat) (x : Link) : Link :=
  { x with st := .down, since := now, held := [], drops := (x.drops + x.held.length) % 2 ^ 32 }

/-- The children last heard on a link are declared absent. -/
def childrenLost (s : State) (l : Nat) : State :=
  dies4.foldl (fun s d => (s.die d).sessions.foldl (fun s (e : Nat × Session) =>
    e.2.nodes.foldl (fun s n =>
      let m := midOf n.lo n.hi
      let s := if n.linkL = some l && !n.absentL then declareAbsent s d e.1 n.lo n.hi true (spanRanks n.lo m) else s
      if n.linkR = some l && !n.absentR then declareAbsent s d e.1 n.lo n.hi false (spanRanks m n.hi) else s) s) s) s

theorem Grows.ite {p : Prop} [Decidable p] {u : State} (ht : Grows s t) (hu : Grows s u) : Grows s (if p then t else u) := by
  split
  · exact ht
  · exact hu

theorem Grows.childrenLost (s : State) (l : Nat) : Grows s (childrenLost s l) :=
  .foldl (fun _ _ => .foldl (fun _ _ => .foldl (fun _ _ =>
    (Grows.ite (.declareAbsent ..) (.refl _)).trans (.ite (.declareAbsent ..) (.refl _))) _ _) _ _) _ _

theorem Grows.nodeId (h : Grows s t) (d : Nat) : (t.die d).nodeId = (s.die d).nodeId := (congrArg Die.nodeId (h.beside d) :)

theorem linkDown_eq (h : (s.link l).st ≠ .down) : linkDown s l = childrenLost (writeLink (s.modLink l (downed s.now)) l) l := by
  unfold linkDown
  dsimp only
  rw [if_neg h]
  rfl

theorem link_linkDown (s : State) (l k : Nat) :
    (linkDown s l).link k = if k = l ∧ (s.link l).st ≠ .down then downed s.now (s.link l) else s.link k := by
  by_cases h : (s.link l).st = .down
  · unfold linkDown
    dsimp only
    rw [if_pos h, if_neg (fun hk => hk.2 h)]
  · rw [linkDown_eq h, State.link, (Grows.childrenLost ..).links]
    refine (link_writeLink ..).trans ?_
    simp only [State.link_modLink, ne_eq, h, not_false_eq_true, and_true]

theorem nodeId_linkDown (s : State) (l e : Nat) : ((linkDown s l).die e).nodeId = (s.die e).nodeId := by
  by_cases h : (s.link l).st = .down
  · unfold linkDown
    dsimp only
    rw [if_pos h]
  · rw [linkDown_eq h]
    rw [(Grows.childrenLost _ l).nodeId, die_writeLink]
    rfl

theorem nodeId_linkTrain (s : State) (l : Nat) (count : Bool) (e : Nat) : ((linkTrain s l count).die e).nodeId = (s.die e).nodeId := by
  rw [linkTrain_eq, State.die_later, die_writeLink, trained_keeps (State.die · e) fun _ _ => rfl]
  rfl

/-! A turn of a link (R342) -/

theorem channelHeads_concat (h : List Packet) (q : Packet) :
    channelHeads (h ++ [q]) = channelHeads h ++ if h.any (fun r => decide (r.chan = q.chan)) then [] else [(h.length, q)] := by
  unfold channelHeads
  rw [List.zipIdx_append, List.filterMap_append]
  congr 1
  · refine List.filterMap_congr fun e he => ?_
    rw [List.take_append_of_le_length]
    have := List.snd_lt_of_mem_zipIdx he
    omega
  · simp only [Nat.zero_add, List.zipIdx_singleton, List.filterMap_cons, List.filterMap_nil, List.take_left]
    split <;> simp_all

/-- The packets that a turn of a link sends, with their places: of the first of each channel, those that have room at the other end. -/
def sentOf (draws : Nat) (h : List Packet) : List (Nat × Packet) :=
  (channelHeads h).zipIdx.filterMap (fun e => if Config.freeBool (draws + e.2) then some e.1 else none)

/-- The packets that a turn of a link leaves. -/
def leftOf (draws : Nat) (h : List Packet) : List Packet :=
  (h.zipIdx.filter (fun e => !(sentOf draws h).any (fun g => decide (g.1 = e.2)))).map (·.1)

theorem fst_lt_of_mem_sentOf {draws : Nat} {h : List Packet} {g : Nat × Packet} (hg : g ∈ sentOf draws h) : g.1 < h.length := by
  obtain ⟨e, he, hif⟩ := List.mem_filterMap.1 hg
  obtain rfl : e.1 = g := by
    split at hif
    · exact Option.some.inj hif
    · cases hif
  obtain ⟨z, hz, hz'⟩ := List.mem_filterMap.1 (List.fst_mem_of_mem_zipIdx he)
  split at hz'
  · cases hz'
  · rw [← Option.some.inj hz']
    exact List.snd_lt_of_mem_zipIdx hz

/-- One more packet at the end of those that wait is sent if it is the first of its channel and has room. -/
theorem sentOf_concat (draws : Nat) (h : List Packet) (q : Packet) : sentOf draws (h ++ [q]) = sentOf draws h ++
    if h.any (fun r => decide (r.chan = q.chan)) then []
    else if Config.freeBool (draws + (channelHeads h).length) then [(h.length, q)] else [] := by
  unfold sentOf
  rw [channelHeads_concat, List.zipIdx_append, List.filterMap_append]
  congr 1
  split
  · rfl
  · simp only [Nat.zero_add, List.zipIdx_singleton, List.filterMap_cons, List.filterMap_nil]
    split <;> simp_all

theorem leftOf_concat (draws : Nat) (h : List Packet) (q : Packet) : leftOf draws (h ++ [q]) = leftOf draws h ++
    if (sentOf draws (h ++ [q])).any (fun g => decide (g.1 = h.length)) then [] else [q] := by
  unfold leftOf
  rw [List.zipIdx_append, List.filter_append, List.map_append]
  congr 1
  · congr 1
    refine List.filter_congr fun e he => ?_
    have hlt : e.2 < h.length := List.snd_lt_of_mem_zipIdx he
    have hlast : (if h.any (fun r => decide (r.chan = q.chan)) then []
        else if Config.freeBool (draws + (channelHeads h).length) then [(h.length, q)] else []).any (fun g => decide (g.1 = e.2)) = false := by
      split
      · rfl
      · split
        · simp only [List.any_cons, List.any_nil, Bool.or_false, decide_eq_false_iff_not]
          omega
        · rfl
    rw [sentOf_concat, List.any_append, hlast, Bool.or_false]
  · rw [Nat.zero_add, List.zipIdx_singleton]
    cases h : (sentOf draws (h ++ [q])).any (fun g => decide (g.1 = h.length)) <;> simp [h]

theorem filter_chan_nil {c : Nat} {h : List Packet} (hno : h.any (fun r => decide (r.chan = c)) = false) :
    h.filter (fun p => decide (p.chan = c)) = [] := by
  rw [List.filter_eq_nil_iff]
  simpa using hno

/-- Of each channel a turn sends the first packet or none, and leaves the others in their order (R342). -/
theorem sentOf_leftOf (draws c : Nat) (h : List Packet) :
    ((sentOf draws h).map (·.2)).filter (fun p => decide (p.chan = c)) ++ (leftOf draws h).filter (fun p => decide (p.chan = c)) =
      h.filter (fun p => decide (p.chan = c)) := by
  induction h using List.reverseRecOn with
  | nil => rfl
  | append_singleton h q ih =>
    have hold : (sentOf draws h).any (fun g => decide (g.1 = h.length)) = false := by
      rw [List.any_eq_false]
      intro g hg
      have := fst_lt_of_mem_sentOf hg
      simp only [decide_eq_true_iff]
      omega
    rw [leftOf_concat, sentOf_concat, List.any_append, hold, Bool.false_or, List.map_append, List.filter_append, List.filter_append,
      List.filter_append]
    by_cases hany : h.any (fun r => decide (r.chan = q.chan)) = true
    · simp only [hany, if_true, List.map_nil, List.filter_nil, List.append_nil, List.any_nil, Bool.false_eq_true, if_false]
      rw [← List.append_assoc, ih]
    · rw [Bool.not_eq_true] at hany
      simp only [hany, Bool.false_eq_true, if_false]
      cases hfree : Config.freeBool (draws + (channelHeads h).length) with
      | false =>
        simp only [Bool.false_eq_true, if_false, List.map_nil, List.filter_nil, List.append_nil, List.any_nil]
        rw [← List.append_assoc, ih]
      | true =>
        simp only [if_true, List.map_cons, List.map_nil, List.any_cons, List.any_nil, decide_true, Bool.or_false, List.filter_nil,
          List.append_nil]
        by_cases hq : q.chan = c
        · rw [hq] at hany
          rw [filter_chan_nil hany] at ih ⊢
          obtain ⟨hs, hl⟩ := List.append_eq_nil_iff.1 ih
          rw [hs, hl, List.nil_append, List.append_nil]
        · simp only [List.filter_cons, hq, decide_false, Bool.false_eq_true, if_false, List.filter_nil, List.append_nil]
          exact ih

theorem link_linkSend (s : State) (l : Nat) : (linkSend s l).link l =
    if (s.link l).st ≠ .up ∨ (s.link l).held = [] then s.link l
    else { s.link l with
      held := leftOf s.draws (s.link l).held
      out := (s.link l).out ++ (sentOf s.draws (s.link l).held).map (fun g => (g.2, packetBytes g.2.body)) } := by
  unfold linkSend
  dsimp only
  by_cases h : (s.link l).st ≠ .up ∨ (s.link l).held = []
  · rw [if_pos h, if_pos h]
  · rw [if_neg h, if_neg h]
    refine ite_keeps (g := fun t : State => t.link l) ?_ ((link_planSend ..).trans ?_)
    · exact State.link_modLink_self ..
    · exact State.link_modLink_self ..

theorem now_writeLink (s : State) (l : Nat) : (writeLink s l).now = s.now :=
  ((congrArg State.now (besideMemory_poke ..) :)).trans (congrArg State.now (besideMemory_poke ..) :)

/-- Settles a clause of O38: the states of a link, and its turns. -/
theorem linkStates : Claims.LinkStates := by
  refine ⟨?_, ?_, ?_, ?_⟩
  · intro s l hl hup
    have hexec : exec (.linkRetrain l) s = .next (linkTrain s l true) := by
      show execLinkRetrain l s = _
      rw [execLinkRetrain, if_pos ⟨hl, hup⟩]
    have hlink := link_linkTrain s l true l
    rw [if_pos rfl] at hlink
    have hnow : (trained s l true).now = s.now := trained_keeps State.now (fun _ _ => rfl) ..
    refine ⟨_, hexec, ?_, ?_, ?_, ?_, ?_⟩
    · rw [hlink]; rfl
    · rw [hlink]; rfl
    · rw [hlink]; rfl
    · rw [hlink]; rfl
    · have hm := State.mem_later (s := writeLink (trained s l true) l) 32768 (.event (.linkDownTimeout l (trained s l true).now))
      rwa [now_writeLink, hnow] at hm
  · intro s l hl hr
    have hexec : exec (.linkUp l) s =
        .next (planSend (writeLink (s.modLink l (fun x => { x with st := .up, since := s.now })) l) l) := by
      show execLinkUp l s = _
      rw [execLinkUp, if_pos ⟨hl, hr⟩]
    have hlink : (planSend (writeLink (s.modLink l (fun x => { x with st := .up, since := s.now })) l) l).link l =
        { s.link l with st := .up, since := s.now } := by
      rw [link_planSend, link_writeLink, State.link_modLink_self]
    refine ⟨_, hexec, ?_, ?_, ?_, mem_planSend ..⟩
    · rw [hlink]
    · rw [hlink]
    · rw [hlink]
  · intro s l at_ hst hsince hle
    have hexec : exec (.linkDownTimeout l at_) s = .next (linkDown s l) := by
      show execLinkDownTimeout l at_ s = _
      rw [execLinkDownTimeout]
      dsimp only
      rw [if_pos ⟨hst, hsince, hle⟩]
    have hlink := link_linkDown s l l
    rw [if_pos ⟨rfl, by rw [hst]; decide⟩] at hlink
    refine ⟨_, hexec, ?_, ?_, ?_, ?_⟩
    · rw [hlink]; rfl
    · rw [hlink]; rfl
    · rw [hlink]; rfl
    · rw [hlink]; rfl
  · intro s l c of_
    rw [link_linkSend]
    split
    · rfl
    · simp only [of_, List.map_append, List.filter_append, List.map_map, List.append_assoc]
      exact congrArg _ (sentOf_leftOf s.draws c (s.link l).held)

/-! Routers (R344, R345) -/

/-- A router acts on the enable of one of its links. -/
def actOnLink (node : Option Nat) (en : Nat) (s : State) (l : Nat) : State :=
  let on := node.isSome && bit en l
  let was := (s.link l).enabled
  let s := s.modLink l (fun x => { x with enabled := on })
  if !on then linkDown s l
  else if !was && decide ((s.link l).st = .down) then linkTrain s l false else s

/-- A router has its node number and its routes from its block. -/
def nodeTaken (s : State) (d : Nat) : State :=
  let routes := (List.range 1024).foldl (fun t p => Tab.put t p (rdNat s (fabricBlock s d + 64 + p) 1)) ([] : Tab Nat)
  s.modDie d (fun x => { x with nodeId := routerNode s d, routes := if (routerNode s d).isSome then routes else x.routes })

theorem routerAct_eq (s : State) (d : Nat) : routerAct s d =
    (linksOf d).foldl (actOnLink (routerNode s d) (rdNat s (fabricBlock s d + 4) 4)) (nodeTaken s d) := rfl

theorem nodeId_actOnLink (node : Option Nat) (en : Nat) (s : State) (l e : Nat) :
    ((actOnLink node en s l).die e).nodeId = (s.die e).nodeId := by
  unfold actOnLink
  exact ite_keeps (g := fun t : State => (t.die e).nodeId) ((nodeId_linkDown ..).trans rfl)
    (ite_keeps (g := fun t : State => (t.die e).nodeId) ((nodeId_linkTrain ..).trans rfl) rfl)

theorem enabled_linkDown (s : State) (l k : Nat) : ((linkDown s l).link k).enabled = (s.link k).enabled := by
  rw [link_linkDown]
  split
  · rename_i h; rw [h.1]; rfl
  · rfl

theorem enabled_linkTrain (s : State) (l : Nat) (count : Bool) (k : Nat) : ((linkTrain s l count).link k).enabled = (s.link k).enabled := by
  rw [link_linkTrain]
  split
  · rename_i h; rw [h]; rfl
  · rfl

theorem enabled_actOnLink (node : Option Nat) (en : Nat) (s : State) (l k : Nat) :
    ((actOnLink node en s l).link k).enabled = if k = l then node.isSome && bit en l else (s.link k).enabled := by
  have h : ((s.modLink l (fun x => { x with enabled := node.isSome && bit en l })).link k).enabled =
      if k = l then node.isSome && bit en l else (s.link k).enabled := by
    rw [State.link_modLink]
    split <;> rfl
  unfold actOnLink
  exact ite_keeps (g := fun t : State => (t.link k).enabled) ((enabled_linkDown ..).trans h)
    (ite_keeps (g := fun t : State => (t.link k).enabled) ((enabled_linkTrain ..).trans h) h)

theorem enabled_foldl_actOnLink (node : Option Nat) (en k : Nat) (ls : List Nat) : ∀ s,
    ((ls.foldl (actOnLink node en) s).link k).enabled = if k ∈ ls then node.isSome && bit en k else (s.link k).enabled := by
  induction ls with
  | nil => exact fun _ => rfl
  | cons l ls ih =>
    intro s
    rw [List.foldl_cons, ih, enabled_actOnLink]
    by_cases hk : k ∈ ls
    · rw [if_pos hk, if_pos (List.mem_cons_of_mem _ hk)]
    · by_cases hl : k = l
      · rw [if_neg hk, if_pos hl, if_pos (hl ▸ List.mem_cons_self), hl]
      · rw [if_neg hk, if_neg hl, if_neg (by simp [hk, hl])]

theorem nodeId_routerAct (s : State) (d e : Nat) :
    ((routerAct s d).die e).nodeId = if e = d then routerNode s d else (s.die e).nodeId := by
  rw [routerAct_eq, foldl_keeps (actOnLink _ _) (fun t : State => (t.die e).nodeId) (fun _ _ => nodeId_actOnLink ..), nodeTaken, State.die_modDie]
  split <;> rfl

theorem enabled_routerAct (s : State) (d k : Nat) : ((routerAct s d).link k).enabled =
    if k ∈ linksOf d then (routerNode s d).isSome && bit (rdNat s (fabricBlock s d + 4) 4) k else (s.link k).enabled := by
  rw [routerAct_eq, enabled_foldl_actOnLink]
  rfl

theorem mem_linksOf {l d : Nat} : l ∈ linksOf d ↔ l < 18 ∧ linkDie l = d := by
  rw [linksOf, List.mem_filter, List.mem_range, decide_eq_true_iff]

/-- Another router, which the write may enable or disable, acts on its block. -/
def otherRouter (d : Nat) (s : State) (e : Nat) : State :=
  if e ≠ d && decide ((s.die e).bring = .ready) && decide ((s.die e).nodeId ≠ routerNode s e) then routerAct s e else s

theorem nodeId_otherRouter (d : Nat) (s : State) (e : Nat) : ((otherRouter d s e).die d).nodeId = (s.die d).nodeId := by
  unfold otherRouter
  split
  · rename_i h
    have hne : d ≠ e := fun hde => by simp [hde] at h
    rw [nodeId_routerAct, if_neg hne]
  · rfl

theorem enabled_otherRouter {d k : Nat} (hk : k ∈ linksOf d) (s : State) (e : Nat) :
    ((otherRouter d s e).link k).enabled = (s.link k).enabled := by
  unfold otherRouter
  split
  · rename_i h
    have hne : k ∉ linksOf e := fun hke => by
      have hde : d = e := (mem_linksOf.1 hk).2.symm.trans (mem_linksOf.1 hke).2
      simp [hde] at h
    rw [enabled_routerAct, if_neg hne]
  · rfl

theorem fabricBlockWrite_eq {d : Nat} (h : d < 4) : exec (.fabricBlockWrite d) s = .next (dies4.foldl (otherRouter d) (routerAct s d)) := by
  show execFabricBlockWrite d s = _
  rw [execFabricBlockWrite, if_neg (by omega)]
  rfl

/-- A packet that has crossed a link that is up waits there, with one hop more. -/
theorem crossLink_of_up {p : Packet} (hh : p.hops < 16) (hup : (s.link l).st = .up) :
    crossLink s l p = planSend (s.modLink l (fun x => { x with held := x.held ++ [{ p with hops := p.hops + 1 }] })) l := by
  unfold crossLink
  dsimp only
  rw [if_neg (by omega), hup]

theorem mem_planSend_eq (s : State) (l : Nat) : (planSend s l).mem = s.mem := by
  unfold planSend
  split <;> rfl

/-- A link whose drops are counted. -/
def dropping (n : Nat) (x : Link) : Link := { x with drops := (x.drops + n) % 2 ^ 32 }

theorem link_countDrops_one (s : State) (l k : Nat) :
    (countDrops s l 1).link k = if k = l then dropping 1 (s.link l) else s.link k := by
  rw [countDrops, if_neg (by decide), link_writeLink]
  exact State.link_modLink ..

/-- Settles a clause of O38: routers and the packets they forward. -/
theorem routing : Claims.Routing := by
  refine ⟨?_, ?_, ?_, ?_⟩
  · intro s d hd
    refine ⟨_, fabricBlockWrite_eq hd, ?_, fun l hl => ?_⟩
    · rw [foldl_keeps (otherRouter d) (fun t : State => (t.die d).nodeId) (nodeId_otherRouter d), nodeId_routerAct, if_pos rfl]
    · rw [foldl_keeps (otherRouter d) (fun t : State => (t.link l).enabled) (enabled_otherRouter hl), enabled_routerAct, if_pos hl]
  · intro s d p me hme hpkg hdie
    show execPacketForward d p s = _
    cases hb : p.body <;> simp only [execPacketForward, hme, hpkg, hdie, if_true, arrival, hb]
  · intro s d p me l hme hpkg hroute hl hd hh hup
    have hexec : exec (.packetForward d p) s =
        .next (planSend (s.modLink l (fun x => { x with held := x.held ++ [{ p with hops := p.hops + 1 }] })) l) := by
      show execPacketForward d p s = _
      rw [← crossLink_of_up hh hup]
      simp only [execPacketForward, hme, hpkg, if_false, hroute, Nat.not_le.2 hl, hup, hd, if_true, reduceCtorEq]
    refine ⟨_, hexec, ?_, ?_, mem_planSend .., mem_planSend_eq ..⟩
    · rw [link_planSend, State.link_modLink_self]
    · rw [link_planSend, State.link_modLink_self]
  · intro s d p hnone r l
    have hexec : exec (.packetForward d p) s = .next (countDrops s l 1) := by
      show execPacketForward d p s = _
      simp only [execPacketForward, hnone]
      rfl
    refine ⟨_, hexec, ?_, fun k => ?_⟩
    · rw [link_countDrops_one, if_pos rfl]
      rfl
    · rw [link_countDrops_one]
      split
      · rename_i hk
        rw [hk]
        exact ⟨rfl, rfl⟩
      · exact ⟨rfl, rfl⟩

/-! Sinks (R359, R361) -/

/-- The command has left the queue of the scan-out engine. -/
def scanTaken (s : State) (d k : Nat) : State := s.modDie d (fun x => { x with scanCmds := Tab.del x.scanCmds k })

/-- A command of the scan-out engine whose turn it is and whose words pass Table 12-6 acts. -/
theorem scanStep_of_takes {k words : Nat} {ev : Event} {body : State → FabCmd → State × Option Nat} {c : FabCmd}
    (hf : Tab.find? (s.die d).scanCmds k = some c) (hk : ∀ e ∈ (s.die d).scanCmds, k ≤ e.1) (hcode : 1 ≤ c.code ∧ c.code ≤ 3)
    (hlen : c.words.length = words) (h15 : bit (cw c.words 0) 15 = false) (hobj : c.object < 1024) (hheld : pushHeld s c.unit c.after = false) :
    fabricStep s d k 2 ev words body = match body (scanTaken s d k) c with
      | (s, some st) => postAck s c [ackWord c st]
      | (s, none) => s := by
  have hfirst : (s.die d).scanCmds.any (fun (e : Nat × FabCmd) => decide (e.1 < k)) = false := by
    simpa using hk
  have hsmall : (bits c.object 15 10 != 0) = false := by
    rw [bits, show 2 ^ 10 = 1024 from rfl, Nat.div_eq_of_lt hobj]
    rfl
  unfold fabricStep
  simp only [show ¬ (2 : Nat) = 1 by decide, if_false, hf, hfirst, hheld, Bool.or_false, Bool.false_eq_true, hcode, and_self, decide_true,
    Bool.not_true, hlen, bne_self_eq_false, h15, hsmall, Bool.and_false]
  rfl

theorem die_scanTaken (s : State) (d k : Nat) :
    (scanTaken s d k).die d = { s.die d with scanCmds := Tab.del (s.die d).scanCmds k } := State.die_modDie_self ..

theorem sink_scanTaken (s : State) (d k i : Nat) : sink? (scanTaken s d k) d i = sink? s d i := by
  rw [sink?, die_scanTaken, sink?]

theorem sink_postAck (s : State) (c : FabCmd) (ws : List Word) (d i : Nat) : sink? (postAck s c ws) d i = sink? s d i := by
  rw [sink?, die_postAck, sink?]

theorem sink_modSink_self (s : State) (d i : Nat) (f : Sink → Sink) : sink? (modSink s d i f) d i = (sink? s d i).map f := by
  unfold sink? modSink
  rw [State.die_modDie_self]
  exact Tab.find?_modify_self ..

theorem ownSink_scanTaken {k : Nat} {c : FabCmd} {x : Sink} (hx : sink? s d c.sinkKey = some x) (hc : x.ctx = c.ctx) (hr : x.releasing = none) :
    ownSink (scanTaken s d k) d c = some x := by
  rw [ownSink, sink_scanTaken, hx]
  simp [hc, hr]

/-- The sink a SINK binds. -/
def newSink (d : Nat) (c : FabCmd) : Sink :=
  { ctx := c.ctx, base := pair (c.words.getD 1 0) (c.words.getD 2 0), width := bits (cw c.words 3) 13 0, height := bits (cw c.words 3) 27 14,
    format := bits (cw c.words 3) 31 28, pitch := cw c.words 4, endpoint := (sinkEndpoint d (cw c.words 5)).getD 0,
    rq := bits (cw c.words 5) 29 27, route := none, epoch := 0, opened := 0, frames := [], newest := [], lines := [], posted := none,
    releasing := none }

/-- Settles a clause of O38: SINK, ROUTE, UNSINK and the release of a sink. -/
theorem sinks : Claims.Sinks := by
  refine ⟨?_, ?_, ?_, ?_⟩
  · rintro s d k c ⟨hf, hk, hcode, hlen, h15, hobj, hheld⟩ hbad hnow hengine hfree
    have hexec : exec (.sink d k) s = .next (postAck ((scanTaken s d k).modDie d (fun z =>
        { z with sinks := Tab.put z.sinks c.sinkKey (newSink d c) })) c [ackWord c 0]) := by
      have hid : ¬ identField (scanTaken s d k) (50 + 32 * d) 1 ≤ c.sinkKey / 256 := Nat.not_le.2 hengine
      show execSink d k s = _
      rw [execSink, scanStep_of_takes hf hk (by omega) hlen h15 hobj hheld]
      simp only [hbad, hnow, hid, sink_scanTaken, hfree, Option.isSome_none, Bool.false_eq_true, if_false]
      rfl
    refine ⟨_, newSink d c, hexec, ?_, rfl, rfl, rfl, rfl, rfl, rfl, rfl, rfl⟩
    rw [sink_postAck, sink?, State.die_modDie_self]
    exact Tab.find?_put_self ..
  · rintro s d k c x z ⟨hf, hk, hcode, hlen, h15, hobj, hheld⟩ hid hx hc hr hz hzc
    have hses : session? (scanTaken s d k) d (cw c.words 1) = some z := by
      rw [session?, die_scanTaken]
      exact hz
    have hexec : exec (.route d k) s = .next (postAck (modSink (scanTaken s d k) d c.sinkKey (fun y => bindSession y (cw c.words 1) z.opened))
        c [ackWord c 0]) := by
      show execRoute d k s = _
      rw [execRoute, scanStep_of_takes hf hk (by omega) hlen h15 hobj hheld]
      simp only [Nat.not_le.2 hid, if_false, ownSink_scanTaken hx hc hr, Option.isNone_some, Bool.false_eq_true, hses, hzc, if_true]
    refine ⟨_, hexec, ?_⟩
    rw [sink_postAck, sink_modSink_self, sink_scanTaken, hx]
    rfl
  · rintro s d k c x ⟨hf, hk, hcode, hlen, h15, hobj, hheld⟩ hx hc hr hfr
    have hexec : exec (.unsink d k) s =
        .next (releaseSink (modSink (scanTaken s d k) d c.sinkKey (fun z => { z with releasing := some c })) d c.sinkKey) := by
      show execUnsink d k s = _
      rw [execUnsink, scanStep_of_takes hf hk (by omega) hlen h15 hobj hheld]
      simp only [ownSink_scanTaken hx hc hr, hfr, if_true]
    refine ⟨_, hexec, ?_, State.mem_soon ..⟩
    rw [sink?, releaseSink, State.die_soon]
    exact (sink_modSink_self ..).trans (by rw [sink_scanTaken, hx]; rfl)
  · intro s d e k x c un hx hr hfr hack hu
    have hexec : exec (.sinkRelease d e k) s = .next (postAck (postAck (s.modDie d (fun z =>
        { z with sinks := Tab.del z.sinks (sinkKey e k) })) c [ackWord c 0]) c [ackWord c 0, 0, 0, 0, w32 (dropCount s d e)]) := by
      show execSinkRelease d e k s = _
      have hdrops (s' : State) (ws : List Word) (h : (s'.die d).sinkDrops = (s.die d).sinkDrops) :
          dropCount s' d e = dropCount s d e := by rw [dropCount, h, dropCount]
      simp only [execSinkRelease, hx, hr, hfr, ne_eq, not_true_eq_false, if_false]
      rw [hdrops _ [] (by rw [State.die_modDie_self])]
    obtain ⟨un₁, hu₁, hw₁⟩ := unit_postAck (s := s.modDie d (fun z => { z with sinks := Tab.del z.sinks (sinkKey e k) }))
      (ws := [ackWord c 0]) hack hu
    obtain ⟨un₂, hu₂, hw₂⟩ := unit_postAck (ws := [ackWord c 0, 0, 0, 0, w32 (dropCount s d e)]) hack hu₁
    refine ⟨_, un₂, hexec, ?_, hu₂, ?_⟩
    · rw [sink_postAck, sink_postAck, sink?, State.die_modDie_self]
      exact Tab.find?_del_self ..
    · rw [hw₂, hw₁, List.append_assoc]
      rfl

/-! Root tiles and frame records (R360, R361) -/

/-- A byte of a run that is written. -/
theorem rd8_sliceWrite_run {pa j : Nat} {bs : List Byte} (hj : j < bs.length) (hb : unbackedAt s (pa + j) = false) :
    rd8 (sliceWrite s (run pa bs)) (pa + j) = bs.getD j 0 := by
  have hget : bs[j]? = some (bs.getD j 0) := by simp [hj]
  refine rd8_sliceWrite_of_mem (mem_run.2 ⟨j, rfl, hget⟩) (fun w hw ha => ?_) hb
  obtain ⟨i, hi, hbyte⟩ := mem_run.1 hw
  obtain rfl : i = j := by omega
  rw [hget] at hbyte
  exact (Option.some.inj hbyte).symm

theorem writePixel_eq {x : Sink} {tp : TilePacket} {tx0 ty0 i pa : Nat} (hw : 8 * (tp.tx - tx0) + i % 8 < x.width)
    (hh : 8 * (tp.ty - ty0) + i / 8 < x.height)
    (hpa : xlate s x.ctx ((x.base.toNat + (8 * (tp.ty - ty0) + i / 8) * x.pitch + (8 * (tp.tx - tx0) + i % 8) * sinkBpp x.format) % 2 ^ 64) true =
      .ok pa) :
    (writePixel s x tp tx0 ty0 i).1 = sliceWrite s (run pa (bytesOf (sinkBpp x.format)
      (if tp.cover.getLsbD i then sinkPixel (tp.opfmt % 16) x.format (packetPixel tp i) else 0))) := by
  unfold writePixel
  dsimp only
  rw [if_neg (by omega), hpa]

/-- The finished frame of a sink is the first, and its record is posted. -/
def recordSent (s : State) (x : Sink) (i : Nat) (r : SinkFrame) : State :=
  sendRecord s x.endpoint (x.rq + 2) (frameWords i r) (x.lines.map (fun l => (128 * l, 128)))

/-- A sink whose finished frame is over. -/
def frameOver (f : Nat) (r : SinkFrame) : Sink → Sink := fun x =>
  { x with
    frames := x.frames.filter (fun z => decide (z.frame ≠ f ∨ z.epoch ≠ r.epoch))
    posted := if r.again || r.epoch != x.epoch then x.posted else some f }

/-- What follows a record: a sink that waits to be released and has no frame left is, and the records of other finished frames are due. -/
def recordsDue (s : State) (d e k : Nat) (x : Sink) : State :=
  let s := if x.frames = [] ∧ x.releasing.isSome = true then releaseSink s d (sinkKey e k) else s
  x.frames.foldl (fun s f => if f.done then s.soon (.event (.frameRecord d e k f.frame)) else s) s

theorem recordsDue_keeps {α : Type} (g : State → α) (h : ∀ s i, g (State.soon s i) = g s) (s : State) (d e k : Nat) (x : Sink) :
    g (recordsDue s d e k x) = g s := by
  unfold recordsDue
  refine (foldl_keeps _ g (fun s f => ?_) _ _).trans (ite_keeps (g := g) (h ..) rfl)
  exact ite_keeps (g := g) (h ..) rfl

theorem die_recordSent (s : State) (x : Sink) (i : Nat) (r : SinkFrame) (d : Nat) : (recordSent s x i r).die d = s.die d := by
  unfold recordSent sendRecord
  split <;> rfl

theorem frameRecord_of_first {e k f : Nat} {x : Sink} {r : SinkFrame} (hx : sink? s d (sinkKey e k) = some x)
    (hr : x.frames.find? (fun (r : SinkFrame) => decide (r.frame = f) && r.done) = some r) (hagain : r.again = false)
    (hfirst : ∀ z ∈ x.frames, r.epoch < z.epoch ∨ r.epoch = z.epoch ∧ f ≤ z.frame) :
    exec (.frameRecord d e k f) s = .next (recordsDue (modSink (recordSent s x (sinkKey e k) r) d (sinkKey e k) (frameOver f r)) d e k
      (frameOver f r x)) := by
  have hnone : x.frames.any (fun z => decide (z.epoch < r.epoch) || (decide (z.epoch = r.epoch) && decide (z.frame < f))) = false := by
    rw [List.any_eq_false]
    intro z hz
    have := hfirst z hz
    simp only [Bool.or_eq_true, Bool.and_eq_true, decide_eq_true_iff]
    omega
  have hover : sink? (modSink (recordSent s x (sinkKey e k) r) d (sinkKey e k) (frameOver f r)) d (sinkKey e k) = some (frameOver f r x) := by
    rw [sink_modSink_self, sink?, die_recordSent]
    exact (congrArg _ hx).trans rfl
  show execFrameRecord d e k f s = _
  simp only [execFrameRecord, hx, hr, hnone, Bool.false_eq_true, if_false]
  rw [if_neg (show ¬ r.again = true by rw [hagain]; exact Bool.false_ne_true)]
  unfold recordSent frameOver at hover
  rw [hover]
  rfl

/-- Settles a clause of O38: root tiles and frame records. -/
theorem rootTiles : Claims.RootTiles := by
  refine ⟨?_, ?_, ?_, ?_⟩
  · intro s d p tp engine sk n tx0 ty0 tw th late x hb he hk hx hroute hsuits
    show execRootTileDelivery d p s = _
    simp only [execRootTileDelivery, hb, Nat.mod_eq_of_lt he, Nat.mod_eq_of_lt hk, hx, hroute, hsuits, decide_true, Bool.and_self, if_true]
  · intro s d p tp engine sk n tx0 ty0 tw th late hb he hk hno
    have hexec : exec (.rootTileDelivery d p) s = .next (dropRoot s d engine) := by
      show execRootTileDelivery d p s = _
      simp only [execRootTileDelivery, hb, Nat.mod_eq_of_lt he, Nat.mod_eq_of_lt hk]
      cases hx : sink? s d (sinkKey engine sk) with
      | none => rfl
      | some x =>
        have hfalse : (decide (x.route = some tp.session) && suits (tp.opfmt % 16) x.format) = false := by
          rcases hno x hx with h | h
          · rw [decide_eq_false h, Bool.false_and]
          · rw [h, Bool.and_false]
        simp only [hfalse, Bool.false_eq_true, if_false]
    refine ⟨_, hexec, rfl, ?_⟩
    rw [dropCount, dropRoot, State.die_modDie_self, Tab.get_put_self, dropCount]
  · intro s x tp tx0 ty0 i pa px py bpp hw hh hback hpa t
    have ht : t = sliceWrite s (run pa (bytesOf bpp
        (if tp.cover.getLsbD i then sinkPixel (tp.opfmt % 16) x.format (packetPixel tp i) else 0))) := writePixel_eq hw hh hpa
    rw [ht]
    refine ⟨fun j hj => rd8_sliceWrite_run (by rwa [length_bytesOf]) (hback j hj), fun a ha => ?_⟩
    exact rd8_sliceWrite_run_of_outside (by rwa [length_bytesOf])
  · intro s d e k f x r un hx hr hagain hepoch hfirst hu
    obtain ⟨un', hu', hwait⟩ : ∃ un', (recordSent s x (sinkKey e k) r).unit? x.endpoint = some un' ∧ un'.eng.waiting =
        un.eng.waiting ++ [(x.rq + 2, ⟨frameWords (sinkKey e k) r, x.lines.map (fun l => (128 * l, 128)), true⟩)] := by
      unfold recordSent sendRecord
      rw [hu]
      exact ⟨_, State.unit_putUnit_self .., rfl⟩
    refine ⟨_, un', frameOver f r x, frameRecord_of_first hx hr hagain hfirst, ?_, hwait, ?_, ?_, ?_⟩
    · rw [recordsDue_keeps (State.unit? · x.endpoint) fun _ _ => rfl]
      exact hu'
    · rw [sink?, recordsDue_keeps (State.die · d) fun _ _ => rfl]
      refine (sink_modSink_self ..).trans ?_
      rw [sink?, die_recordSent]
      exact (congrArg _ hx).trans rfl
    · show (if r.again || r.epoch != x.epoch then x.posted else some f) = some f
      rw [hagain, hepoch, bne_self_eq_false]
      rfl
    · rw [Sink.frame?, List.find?_eq_none]
      intro z hz hkey
      have hkeep := of_decide_eq_true (List.mem_filter.1 hz).2
      have hsame := of_decide_eq_true hkey
      exact hkeep.elim (fun h => h hsame.2) (fun h => h hsame.1)

end

/-- Settles O38: links, routing, sinks and root tiles. -/
theorem linksAndSinks : Obligations.LinksAndSinks := ⟨linkStates, routing, sinks, rootTiles⟩

end Sys2Proof.Safety
end

section
/-! The debug module: its commands, and the units that it halts, resumes and edits (O47). -/

open Sys2Proof Sys2Proof.Machine
namespace Sys2Proof.Safety

section
variable {s t : State} {cell op : Nat}

/-! The block of a cell's module (R371, R373) -/

theorem debugBlock_congr (h : t.mgmt = s.mgmt) (cell : Nat) : debugBlock t cell = debugBlock s cell := by
  rw [debugBlock, State.tableBase, h, debugBlock, State.tableBase]

theorem debugField_congr (hm : t.mem = s.mem) (h : t.mgmt = s.mgmt) (cell off n : Nat) : debugField t cell off n = debugField s cell off n := by
  rw [debugField, debugBlock_congr h, rdNat_congr hm, debugField]

/-- A number written in a field of the block is read back. -/
theorem debugField_poke {off n v : Nat} (hb : Claims.BlockBacked s cell) (ho : off + n ≤ 128) :
    debugField (poke s (run (debugBlock s cell + off) (bytesOf n v))) cell off n = v % 256 ^ n := by
  have hread := rdBytes_poke_run (s := s) (pa := debugBlock s cell + off) (bs := bytesOf n v) fun i hi => by
    rw [Nat.add_assoc]
    rw [length_bytesOf] at hi
    exact hb (off + i) (by omega)
  rw [length_bytesOf] at hread
  rw [debugField, debugBlock_congr (mgmt_poke ..), rdNat, hread, ofBytes_bytesOf]

/-- A field apart from the one written keeps its value. -/
theorem debugField_poke_of_disjoint {off n v a k : Nat} (h : a + k ≤ off ∨ off + n ≤ a) :
    debugField (poke s (run (debugBlock s cell + off) (bytesOf n v))) cell a k = debugField s cell a k := by
  have hread := rdBytes_poke_run_of_disjoint (s := s) (pa := debugBlock s cell + off) (bs := bytesOf n v) (a := debugBlock s cell + a) (k := k)
    fun i hi => by
      rw [length_bytesOf]
      omega
  rw [debugField, debugBlock_congr (mgmt_poke ..), rdNat, hread]
  rfl

theorem blockBacked_congr (hm : t.mgmt = s.mgmt) (hu : t.unbacked = s.unbacked) (h : Claims.BlockBacked s cell) : Claims.BlockBacked t cell :=
  fun i hi => by rw [debugBlock_congr hm, unbackedAt_congr hu hm, h i hi]

/-- The status a command ends with is read in the block. -/
theorem statusOf_debugStatus {code : Nat} (h : Claims.BlockBacked s cell) (hm : t.mgmt = s.mgmt) (hu : t.unbacked = s.unbacked)
    (hc : code < 256) : Claims.statusOf (debugStatus t cell code) cell = code := by
  rw [Claims.statusOf, debugStatus, debugField_poke (blockBacked_congr hm hu h) (by decide)]
  exact Nat.mod_eq_of_lt hc

theorem units_debugStatus (s : State) (cell code : Nat) : (debugStatus s cell code).units = s.units := units_poke ..

theorem unit_debugStatus (s : State) (cell code u : Nat) : (debugStatus s cell code).unit? u = s.unit? u := unit_poke ..

theorem cells_debugStatus (s : State) (cell code : Nat) : (debugStatus s cell code).cells = s.cells := by
  have h : besideMemory (debugStatus s cell code) = besideMemory s := besideMemory_poke ..
  exact (congrArg State.cells h :)

theorem cell_debugStatus (s : State) (cell code c : Nat) : (debugStatus s cell code).cell c = s.cell c := by
  rw [State.cell, cells_debugStatus, State.cell]

/-- A waiting command with the right has its effect, and ends with the status that it answers. -/
theorem debugCommand_of_commands {body : State → State × Nat} (h : Claims.Commands s cell op) :
    debugCommand s cell op body = debugStatus (body s).1 cell (body s).2 := by
  obtain ⟨hcell, -, hpending, hop, hright⟩ := h
  rw [debugCommand, if_pos ⟨hcell, hpending, hop⟩, if_pos hright]

/-- Without the right a command ends with NO_RIGHT. -/
theorem debugCommand_of_noRight {body : State → State × Nat} (hcell : cell < 96) (hpending : debugPending s cell = true)
    (hop : debugField s cell 64 1 = op) (hright : hasRight (s.cell cell).dbg = false) :
    debugCommand s cell op body = debugStatus s cell dbNoRight := by
  rw [debugCommand, if_pos ⟨hcell, hpending, hop⟩, hright]
  rfl

/-- A command on a halted unit acts on it. -/
theorem onHalted_of_halted {u : Nat} {un : UnitSt} {body : Nat → UnitSt → State × Nat}
    (hd : debugUnit s cell (debugField s cell 68 4) = some u) (hu : s.unit? u = some un) (hh : un.halted ≠ none) :
    onHalted s cell body = body u un := by
  simp only [onHalted, hd, hu, Option.isSome_iff_ne_none.2 hh, if_true]

/-- A command on a unit that is not halted is refused. -/
theorem onHalted_of_running {u : Nat} {un : UnitSt} {body : Nat → UnitSt → State × Nat}
    (hd : debugUnit s cell (debugField s cell 68 4) = some u) (hu : s.unit? u = some un) (hh : un.halted = none) :
    onHalted s cell body = (s, dbNotHalted) := by
  simp only [onHalted, hd, hu, hh, Option.isSome_none, Bool.false_eq_true, if_false]

/-! Halting and resuming (R374, R375) -/

/-- A unit but for its entries. -/
def besideEntries (un : UnitSt) : UnitSt := { un with entries := [] }

theorem besideEntries_modSplit (un : UnitSt) (e : Nat) (f : Split → Split) : besideEntries (un.modSplit e f) = besideEntries un := by
  unfold UnitSt.modSplit
  split <;> rfl

theorem extendSleeps_keeps {α : Type} (g : State → α) {u : Nat} (hm : ∀ s e f, g (State.modUnit s u (fun un => un.modSplit e f)) = g s)
    (hl : ∀ s n i, g (State.later s n i) = g s) (s : State) (h : Nat) : g (extendSleeps s u h) = g s := by
  unfold extendSleeps
  split
  · refine foldl_keeps _ g (fun s x => ?_) _ _
    unfold extendSleep
    split
    · exact (hl ..).trans (hm ..)
    · rfl
  · rfl

theorem replanForms_keeps {α : Type} (g : State → α) (hl : ∀ s n i, g (State.later s n i) = g s) (s : State) (cell : Nat) :
    g (replanForms s cell) = g s :=
  foldl_keeps _ g (fun _ _ => hl ..) _ _

theorem extendForm_keeps {α : Type} (g : State → α) (hc : ∀ s c (f : Cell → Tab Forming), g (State.modCell s c (fun x => { x with forming := f x })) = g s)
    (hl : ∀ s n i, g (State.later s n i) = g s) (s : State) (cell u t : Nat) : g (extendForm s cell u t) = g s := by
  unfold extendForm
  split
  · rfl
  · exact ite_keeps (g := g) rfl ((replanForms_keeps g hl ..).trans (hc _ _ (fun c => Tab.put c.forming _ _)))

/-- A unit that runs again from the next cycle on. -/
def awake (now : Nat) (un : UnitSt) : UnitSt :=
  { un with halted := none, sched := { un.sched with notBefore := max un.sched.notBefore (now + 1) } }

theorem resumeUnit_keeps {α : Type} (g : State → α) {u : Nat} (hp : ∀ s x, g (State.putUnit s u x) = g s)
    (hm : ∀ s e f, g (State.modUnit s u (fun un => un.modSplit e f)) = g s)
    (hc : ∀ s c (f : Cell → Tab Forming), g (State.modCell s c (fun x => { x with forming := f x })) = g s)
    (hd : ∀ s c (f : Debug → List Edit), g (State.modDebug s c (fun d => { d with edits := f d })) = g s) (hl : ∀ s n i, g (State.later s n i) = g s) (s : State) :
    g (resumeUnit s u) = g s := by
  unfold resumeUnit
  split
  · rfl
  · split
    · rfl
    · refine (hd _ _ (fun d => d.edits.map _)).trans ?_
      exact (extendForm_keeps g hc hl ..).trans ((extendSleeps_keeps g hm hl ..).trans (hp ..))

theorem unit_resumeUnit_ne {u v : Nat} (h : v ≠ u) (s : State) : (resumeUnit s u).unit? v = s.unit? v :=
  resumeUnit_keeps (State.unit? · v) (fun _ _ => State.unit_putUnit_ne _ _ h) (fun _ _ _ => State.unit_modUnit_ne _ _ h) (fun _ _ _ => rfl)
    (fun _ _ _ => rfl) (fun _ _ _ => rfl) s

/-- A resumed unit is not halted; its registers, its control registers and its place stand. -/
theorem unit_resumeUnit_self {u t : Nat} {un : UnitSt} (hu : s.unit? u = some un) (hh : un.halted = some t) :
    ∃ un', (resumeUnit s u).unit? u = some un' ∧ besideEntries un' = besideEntries (awake s.now un) := by
  have hsleeps : ((extendSleeps (s.putUnit u (awake s.now un)) u (s.now - t)).unit? u).map besideEntries =
      some (besideEntries (awake s.now un)) := by
    refine (extendSleeps_keeps (fun s => (s.unit? u).map besideEntries) (fun s e f => ?_) (fun _ _ _ => rfl) _ _).trans ?_
    · rw [State.unit_modUnit_self, Option.map_map]
      exact congrArg (Option.map · (s.unit? u)) (funext fun un => besideEntries_modSplit un e f)
    · rw [State.unit_putUnit_self, Option.map_some]
  obtain ⟨un', hun', hb⟩ := Option.map_eq_some_iff.1 hsleeps
  refine ⟨un', ?_, hb⟩
  unfold resumeUnit
  rw [hu]
  dsimp only
  rw [hh]
  exact (extendForm_keeps (State.unit? · u) (fun _ _ _ => rfl) (fun _ _ _ => rfl) ..).trans hun'

/-- What resuming units keeps: memory and the management window, the owners of the cells, and of the units all but their halts. -/
structure Eased (s t : State) : Prop where
  mem : t.mem = s.mem
  mgmt : t.mgmt = s.mgmt
  unbacked : t.unbacked = s.unbacked
  owner : ∀ c, (t.cell c).dbg.owner = (s.cell c).dbg.owner
  units : ∀ u un', t.unit? u = some un' → ∃ un, s.unit? u = some un ∧ un'.cell = un.cell ∧ un'.at_ = un.at_ ∧
    (un.halted = none → un'.halted = none)

theorem Eased.refl (s : State) : Eased s s := ⟨rfl, rfl, rfl, fun _ => rfl, fun _ un h => ⟨un, h, rfl, rfl, id⟩⟩

theorem Eased.trans {r : State} (h : Eased r s) (h' : Eased s t) : Eased r t where
  mem := h'.mem.trans h.mem
  mgmt := h'.mgmt.trans h.mgmt
  unbacked := h'.unbacked.trans h.unbacked
  owner c := (h'.owner c).trans (h.owner c)
  units u un'' hu := by
    obtain ⟨un', hu', hc', ha', hh'⟩ := h'.units u un'' hu
    obtain ⟨un, hu, hc, ha, hh⟩ := h.units u un' hu'
    exact ⟨un, hu, hc'.trans hc, ha'.trans ha, hh' ∘ hh⟩

theorem Eased.foldl {β : Type} {f : State → β → State} (h : ∀ s b, Eased s (f s b)) (l : List β) : ∀ s, Eased s (l.foldl f s) := by
  induction l with
  | nil => exact Eased.refl
  | cons b l ih => exact fun s => (h s b).trans (ih _)

theorem owner_modCell (s : State) (c j : Nat) (f : Cell → Cell) (h : (f (s.cell c)).dbg.owner = (s.cell c).dbg.owner) :
    ((s.modCell c f).cell j).dbg.owner = (s.cell j).dbg.owner := by
  rw [State.cell_modCell]
  split
  · rename_i hj
    rw [h, hj]
  · rfl

theorem Eased.resumeUnit (s : State) (u : Nat) : Eased s (resumeUnit s u) where
  mem := resumeUnit_keeps State.mem (fun _ _ => rfl) (fun _ _ _ => rfl) (fun _ _ _ => rfl) (fun _ _ _ => rfl) (fun _ _ _ => rfl) s
  mgmt := resumeUnit_keeps State.mgmt (fun _ _ => rfl) (fun _ _ _ => rfl) (fun _ _ _ => rfl) (fun _ _ _ => rfl) (fun _ _ _ => rfl) s
  unbacked := resumeUnit_keeps State.unbacked (fun _ _ => rfl) (fun _ _ _ => rfl) (fun _ _ _ => rfl) (fun _ _ _ => rfl) (fun _ _ _ => rfl) s
  owner c := resumeUnit_keeps (fun s => (s.cell c).dbg.owner) (fun _ _ => rfl) (fun _ _ _ => rfl) (fun _ _ _ => owner_modCell _ _ _ _ rfl)
    (fun _ _ _ => owner_modCell _ _ _ _ rfl) (fun _ _ _ => rfl) s
  units v un' hv := by
    by_cases h : v = u
    · subst h
      cases hu : s.unit? v with
      | none =>
        rw [Machine.resumeUnit, hu] at hv
        exact absurd (hu.symm.trans hv) (by simp)
      | some un =>
        cases hh : un.halted with
        | none =>
          rw [Machine.resumeUnit, hu] at hv
          dsimp only at hv
          rw [hh] at hv
          obtain rfl : un = un' := Option.some.inj (hu.symm.trans hv)
          exact ⟨un, rfl, rfl, rfl, id⟩
        | some t =>
          obtain ⟨un₁, hu₁, hb⟩ := unit_resumeUnit_self hu hh
          obtain rfl : un₁ = un' := Option.some.inj (hu₁.symm.trans hv)
          exact ⟨un, rfl, (congrArg UnitSt.cell hb :), (congrArg UnitSt.at_ hb :), fun _ => (congrArg UnitSt.halted hb :)⟩
    · rw [unit_resumeUnit_ne h] at hv
      exact ⟨un', hv, rfl, rfl, id⟩

/-- After a unit has been resumed it is not halted. -/
theorem halted_resumeUnit {u : Nat} {un : UnitSt} (h : (resumeUnit s u).unit? u = some un) : un.halted = none := by
  cases hu : s.unit? u with
  | none =>
    rw [resumeUnit, hu] at h
    exact absurd (hu.symm.trans h) (by simp)
  | some un₀ =>
    cases hh : un₀.halted with
    | none =>
      obtain ⟨un₁, hu₁, -, -, hn⟩ := (Eased.resumeUnit s u).units u un h
      obtain rfl : un₀ = un₁ := Option.some.inj (hu.symm.trans hu₁)
      exact hn hh
    | some t =>
      obtain ⟨un₁, hu₁, hb⟩ := unit_resumeUnit_self hu hh
      obtain rfl : un₁ = un := Option.some.inj (hu₁.symm.trans h)
      exact (congrArg UnitSt.halted hb :)

theorem halted_foldl_resumeUnit {u : Nat} (l : List Nat) (hu : u ∈ l) : ∀ s un, (l.foldl resumeUnit s).unit? u = some un → un.halted = none := by
  induction l with
  | nil => exact absurd hu List.not_mem_nil
  | cons v l ih =>
    intro s un h
    by_cases hl : u ∈ l
    · exact ih hl _ un h
    · obtain rfl : u = v := (List.mem_cons.1 hu).resolve_right hl
      obtain ⟨un₁, hu₁, -, -, hn⟩ := (Eased.foldl Eased.resumeUnit l (resumeUnit s u)).units u un h
      exact hn (halted_resumeUnit hu₁)

theorem mem_of_find? {α : Type} {m : Tab α} {k : Nat} {v : α} (h : Tab.find? m k = some v) : (k, v) ∈ m := by
  induction m with
  | nil => cases h
  | cons e m ih =>
    rw [Tab.find?_cons] at h
    split at h
    · rename_i hk
      obtain rfl := Option.some.inj h
      exact hk ▸ List.mem_cons_self
    · exact List.mem_cons_of_mem _ (ih h)

/-- The halted units of the owner in a cell. -/
def haltedUnits (s : State) (cell : Nat) : List Nat :=
  s.units.filterMap (fun (e : Nat × UnitSt) =>
    if decide (e.2.cell = cell) && decide (e.2.at_.ctx = (s.cell cell).dbg.owner) && e.2.halted.isSome then some e.1 else none)

theorem mem_haltedUnits {u : Nat} {un : UnitSt} (hu : s.unit? u = some un) (hc : un.cell = cell) (hx : un.at_.ctx = (s.cell cell).dbg.owner)
    (hh : un.halted ≠ none) : u ∈ haltedUnits s cell := by
  refine List.mem_filterMap.2 ⟨(u, un), mem_of_find? hu, ?_⟩
  rw [if_pos (by simp only [hc, hx, decide_true, Option.isSome_iff_ne_none.2 hh, Bool.and_self])]

theorem Eased.modDebug {f : Debug → Debug} (h : ∀ d, (f d).owner = d.owner) (s : State) (c : Nat) : Eased s (s.modDebug c f) :=
  ⟨rfl, rfl, rfl, fun _ => owner_modCell _ _ _ _ (h _), fun _ un hu => ⟨un, hu, rfl, rfl, id⟩⟩

theorem Eased.resumeCell (s : State) (c : Nat) : Eased s (resumeCell s c) :=
  (Eased.foldl Eased.resumeUnit (haltedUnits s c) s).trans (.modDebug (f := fun d => { d with frozen := false, halted := [] }) (fun _ => rfl) ..)

/-- No unit of an owner in a cell is halted. -/
def RunsIn (owner cell : Nat) (s : State) : Prop := ∀ u un, s.unit? u = some un → un.cell = cell → un.at_.ctx = owner → un.halted = none

theorem RunsIn.of_eased {owner : Nat} (h : RunsIn owner cell s) (he : Eased s t) : RunsIn owner cell t := by
  intro u un hu hc hx
  obtain ⟨un₀, hu₀, hc₀, ha₀, hn⟩ := he.units u un hu
  exact hn (h u un₀ hu₀ (hc₀ ▸ hc) (by rw [← ha₀]; exact hx))

/-- After a cell has resumed its owner's units run and its copy engines go on. -/
theorem runsIn_resumeCell (s : State) (cell : Nat) : RunsIn (s.cell cell).dbg.owner cell (resumeCell s cell) := by
  intro u un hu hc hx
  obtain ⟨un₀, hu₀, hc₀, ha₀, hn⟩ := (Eased.resumeCell s cell).units u un hu
  by_cases hh : un₀.halted = none
  · exact hn hh
  · exact halted_foldl_resumeUnit _ (mem_haltedUnits hu₀ (hc₀ ▸ hc) (by rw [← ha₀]; exact hx) hh) s un hu

theorem frozen_resumeCell (s : State) (c j : Nat) :
    ((resumeCell s c).cell j).dbg.frozen = if j = c then false else (s.cell j).dbg.frozen := by
  have hkeep (s : State) (u : Nat) : ((resumeUnit s u).cell j).dbg.frozen = (s.cell j).dbg.frozen := by
    refine resumeUnit_keeps (fun s => (s.cell j).dbg.frozen) (fun _ _ => rfl) (fun _ _ _ => rfl) (fun s c f => ?_) (fun s c f => ?_)
      (fun _ _ _ => rfl) s
    · rw [State.cell_modCell]
      split
      · rename_i hj; rw [hj]
      · rfl
    · rw [State.modDebug, State.cell_modCell]
      split
      · rename_i hj; rw [hj]
      · rfl
  unfold resumeCell
  rw [State.modDebug, State.cell_modCell]
  split
  · rfl
  · exact foldl_keeps resumeUnit (fun s => (s.cell j).dbg.frozen) hkeep _ s

/-- The cells that resume with one: its owner's units run in it, and its copy engines go on. -/
theorem resumed_foldl (owner : Nat) (l : List Nat) (hc : cell ∈ l) : ∀ s : State, (s.cell cell).dbg.owner = owner →
    RunsIn owner cell (l.foldl resumeCell s) ∧ ((l.foldl resumeCell s).cell cell).dbg.frozen = false := by
  induction l with
  | nil => exact absurd hc List.not_mem_nil
  | cons c l ih =>
    intro s ho
    by_cases hl : cell ∈ l
    · exact ih hl _ (((Eased.resumeCell s c).owner cell).trans ho)
    · obtain rfl : cell = c := (List.mem_cons.1 hc).resolve_right hl
      refine ⟨(ho ▸ runsIn_resumeCell s cell).of_eased (.foldl .resumeCell ..), ?_⟩
      refine (foldl_keeps_of_mem (l := l) (fun s : State => (s.cell cell).dbg.frozen) (fun c hc s => ?_) (resumeCell s cell)).trans
        ((frozen_resumeCell ..).trans (if_pos rfl))
      rw [frozen_resumeCell, if_neg (by rintro rfl; exact hl hc)]

theorem mem_haltedWith (s : State) (h : cell < 96) : cell ∈ haltedWith s cell :=
  List.mem_filter.2 ⟨List.mem_range.2 h, by simp⟩

/-! The runs of the module (R371 to R377) -/

/-- The module has read its owner and flags. -/
def moduleRead (s : State) (cell : Nat) : State :=
  s.modDebug cell (fun d => { d with
    owner := debugField s cell 0 2, dflags := debugField s cell 2 1, rmode := debugField s cell 3 1
    traced := if bit (debugField s cell 2 1) 3 then d.traced else [] })

theorem dbg_moduleRead (s : State) (cell : Nat) : ((moduleRead s cell).cell cell).dbg = { (s.cell cell).dbg with
    owner := debugField s cell 0 2, dflags := debugField s cell 2 1, rmode := debugField s cell 3 1
    traced := if bit (debugField s cell 2 1) 3 then (s.cell cell).dbg.traced else [] } := by
  rw [moduleRead, State.cell_modDebug_self]

/-- The right is not being taken away. -/
def KeepsRight (s : State) (cell : Nat) : Prop :=
  hasRight (s.cell cell).dbg = false ∨ debugField s cell 0 2 = (s.cell cell).dbg.owner ∧ bit (debugField s cell 2 1) 0 = true

theorem debugHalt_of_keepsRight (hc : cell < 96) (h : KeepsRight s cell) : exec (.debugHalt cell) s = .next (
    if !debugPending (moduleRead s cell) cell then moduleRead s cell
    else if !hasRight ((moduleRead s cell).cell cell).dbg then debugStatus (moduleRead s cell) cell dbNoRight
    else if debugField (moduleRead s cell) cell 64 1 = 1 then debugCommand (moduleRead s cell) cell 1 (fun s => haltCommand s cell)
    else match debugEvent cell (debugField (moduleRead s cell) cell 64 1) with
      | some e => if (moduleRead s cell).planned e then moduleRead s cell else (moduleRead s cell).soon (.event e)
      | none => debugStatus (moduleRead s cell) cell dbBadCommand) := by
  have hkeep : (hasRight (s.cell cell).dbg &&
      (decide (debugField s cell 0 2 ≠ (s.cell cell).dbg.owner) || !bit (debugField s cell 2 1) 0)) = false := by
    rcases h with h | ⟨ho, hb⟩
    · rw [h, Bool.false_and]
    · simp only [ho, hb, ne_eq, not_true_eq_false, decide_false, Bool.not_true, Bool.or_self, Bool.and_false]
  show execDebugHalt cell s = _
  rw [execDebugHalt, if_neg (by omega)]
  dsimp only
  rw [hkeep]
  rfl

theorem field_moduleRead (s : State) (cell off n : Nat) : debugField (moduleRead s cell) cell off n = debugField s cell off n :=
  debugField_congr rfl rfl cell off n

/-- A unit of a halted cell stops, and any other stands. -/
theorem unit_haltCell (s : State) (ctx from_ cell u : Nat) : (haltCell s ctx from_ cell).unit? u = (s.unit? u).map (fun x =>
    if x.cell == cell && x.at_.ctx == ctx && x.halted.isNone then { x with halted := some s.now } else x) :=
  unit_mapUnits s (fun _ x => if x.cell == cell && x.at_.ctx == ctx && x.halted.isNone then { x with halted := some s.now } else x) u

/-- HALT of a cell whose owner holds both rights. -/
theorem debugHalt_wholeCell (h : Claims.Commands s cell 1) (ho : debugField s cell 0 2 = (s.cell cell).dbg.owner)
    (h0 : bit (debugField s cell 2 1) 0 = true) (h1 : bit (debugField s cell 2 1) 1 = true) (hw : debugField s cell 68 4 = wholeCell) :
    exec (.debugHalt cell) s = .next (debugStatus (haltCell (moduleRead s cell) (s.cell cell).dbg.owner (2 ^ 32 + cell) cell) cell dbDone) := by
  obtain ⟨hc, hb, hp, hop, -⟩ := h
  have hright : hasRight ((moduleRead s cell).cell cell).dbg = true := by rw [dbg_moduleRead]; exact h0
  have hpend : debugPending (moduleRead s cell) cell = true := by rw [debugPending, field_moduleRead]; exact hp
  have hone : debugField (moduleRead s cell) cell 64 1 = 1 := (field_moduleRead ..).trans hop
  have howner : ((moduleRead s cell).cell cell).dbg.owner = (s.cell cell).dbg.owner := by rw [dbg_moduleRead]; exact ho
  have harmed : armed (moduleRead s cell) cell (s.cell cell).dbg.owner = true := by
    rw [armed, howner, dbg_moduleRead, beq_self_eq_true, Bool.true_and]
    exact Bool.and_eq_true_iff.2 ⟨h0, h1⟩
  rw [debugHalt_of_keepsRight hc (.inr ⟨ho, h0⟩), hpend, hright]
  simp only [Bool.not_true, Bool.false_eq_true, if_false, hone, if_true]
  rw [debugCommand, if_pos ⟨hc, hpend, hone⟩, if_pos hright, haltCommand]
  dsimp only
  rw [field_moduleRead, if_pos hw, howner, harmed, if_pos rfl]

/-- The whole cell has resumed. -/
theorem debugResume_wholeCell (h : Claims.Commands s cell 2) (hw : debugField s cell 68 4 = wholeCell) :
    exec (.debugResume cell) s = .next (debugStatus ((haltedWith s cell).foldl resumeCell s) cell dbDone) := by
  show execDebugResume cell s = _
  rw [execDebugResume, debugCommand_of_commands h]
  dsimp only
  rw [if_pos (.inl hw)]

/-- The right is taken away: the owner or its flag has changed. -/
def LosesRight (s : State) (cell : Nat) : Prop :=
  hasRight (s.cell cell).dbg = true ∧ (debugField s cell 0 2 ≠ (s.cell cell).dbg.owner ∨ bit (debugField s cell 2 1) 0 = false)

theorem losesRight_cond (h : LosesRight s cell) : (hasRight (s.cell cell).dbg &&
    (decide (debugField s cell 0 2 ≠ (s.cell cell).dbg.owner) || !bit (debugField s cell 2 1) 0)) = true := by
  obtain ⟨hr, ho | hb⟩ := h
  · rw [hr, decide_eq_true ho]; rfl
  · rw [hr, hb, Bool.not_false, Bool.or_true]; rfl

/-- The module after the revocation of its right. -/
def revoked (s : State) (cell : Nat) : State :=
  (resumeCell s cell).modDebug cell (fun d => { d with
    owner := debugField s cell 0 2, dflags := debugField s cell 2 1, rmode := debugField (resumeCell s cell) cell 3 1, edits := [], traced := []
    diverged := [], pass := [] })

theorem debugRevoke_of_losesRight (hc : cell < 96) (h : LosesRight s cell) : exec (.debugRevoke cell) s = .next (
    if debugPending s cell then debugStatus (revoked s cell) cell dbNoRight else revoked s cell) := by
  have hpend : debugPending (revoked s cell) cell = debugPending s cell := by
    have h : debugField (revoked s cell) cell 65 1 = debugField s cell 65 1 :=
      debugField_congr (s := s) (t := revoked s cell) (Eased.resumeCell s cell).mem (Eased.resumeCell s cell).mgmt cell 65 1
    rw [debugPending, h, debugPending]
  show execDebugRevoke cell s = _
  rw [execDebugRevoke, if_neg (by omega)]
  dsimp only
  rw [losesRight_cond h, ← hpend]
  rfl

/-- Settles a clause of O47: the module's owner and flags, HALT, RESUME, STEP and revocation. -/
theorem debugRuns : Claims.DebugRuns := by
  refine ⟨?_, ?_, ?_, ?_, ?_, ?_⟩
  · intro s cell hc hp owner flags hkeep
    have hpend : debugPending (moduleRead s cell) cell = false := by rw [debugPending, field_moduleRead]; exact hp
    have hexec := debugHalt_of_keepsRight hc hkeep
    rw [hpend, Bool.not_false, if_pos rfl] at hexec
    refine ⟨_, hexec, rfl, rfl, ?_, ?_, ?_⟩
    · rw [dbg_moduleRead]
    · rw [dbg_moduleRead]
    · rw [dbg_moduleRead]
  · intro s cell h ho h0 h1 hw
    refine ⟨_, debugHalt_wholeCell h ho h0 h1 hw, statusOf_debugStatus (s := s) h.2.1 rfl rfl (by decide), ?_, fun u un hu => ?_⟩
    · rw [cell_debugStatus, haltCell, State.cell_modDebug_self]
    · rw [unit_debugStatus, unit_haltCell, show (moduleRead s cell).unit? u = s.unit? u from rfl, hu, Option.map_some]
      refine ⟨_, rfl, ?_⟩
      by_cases hhalt : un.cell = cell ∧ un.at_.ctx = (s.cell cell).dbg.owner ∧ un.halted = none
      · obtain ⟨h1, h2, h3⟩ := hhalt
        rw [if_pos (by simp only [h1, h2, h3, beq_self_eq_true, Option.isNone_none, Bool.and_self]), if_pos ⟨h1, h2, h3⟩]
        exact ⟨rfl, rfl, rfl, rfl⟩
      · have hno : (un.cell == cell && un.at_.ctx == (s.cell cell).dbg.owner && un.halted.isNone) = false := by
          rw [Bool.eq_false_iff]
          intro hb
          simp only [Bool.and_eq_true, beq_iff_eq, Option.isNone_iff_eq_none] at hb
          exact hhalt ⟨hb.1.1, hb.1.2, hb.2⟩
        rw [hno, if_neg hhalt]
        exact ⟨rfl, rfl, rfl, rfl⟩
  · intro s cell h hw
    have he : Eased s ((haltedWith s cell).foldl resumeCell s) := .foldl .resumeCell ..
    obtain ⟨hruns, hfrozen⟩ := resumed_foldl _ _ (mem_haltedWith s h.1) s rfl
    refine ⟨_, debugResume_wholeCell h hw, statusOf_debugStatus h.2.1 he.mgmt he.unbacked (by decide), ?_, fun u un hu => ?_⟩
    · rw [cell_debugStatus]
      exact hfrozen
    · rw [unit_debugStatus] at hu
      exact hruns u un hu
  · intro s cell u un h hd hu hh
    have he := Eased.resumeUnit s u
    obtain ⟨t, ht⟩ := Option.ne_none_iff_exists'.1 hh
    obtain ⟨un', hu', hb⟩ := unit_resumeUnit_self hu ht
    have hexec : exec (.debugStep cell) s =
        .next (debugStatus ((resumeUnit s u).modUnit u (fun un => { un with step := .armed })) cell dbDone) := by
      show execDebugStep cell s = _
      rw [execDebugStep, debugCommand_of_commands h, onHalted_of_halted hd hu hh]
    refine ⟨_, { un' with step := .armed }, hexec, statusOf_debugStatus (s := s) h.2.1 he.mgmt he.unbacked (by decide), ?_,
      (congrArg UnitSt.halted hb :), rfl, (congrArg UnitSt.regs hb :), (congrArg UnitSt.ctl hb :), fun v hv => ?_⟩
    · rw [unit_debugStatus, State.unit_modUnit_self, hu']
      rfl
    · rw [unit_debugStatus, State.unit_modUnit_ne _ _ hv, unit_resumeUnit_ne hv]
  · intro s cell op i hc hb hp hop hr hi
    refine ⟨debugStatus s cell dbNoRight, ?_, units_debugStatus .., cells_debugStatus .., statusOf_debugStatus hb rfl rfl (by decide)⟩
    have hno {body : State → State × Nat} := debugCommand_of_noRight (body := body) hc hp hop hr
    simp only [List.mem_cons, Prod.mk.injEq, List.not_mem_nil, or_false] at hi
    rcases hi with ⟨rfl, rfl⟩ | ⟨rfl, rfl⟩ | ⟨rfl, rfl⟩ | ⟨rfl, rfl⟩ | ⟨rfl, rfl⟩ | ⟨rfl, rfl⟩ <;> exact congrArg Host.Outcome.next hno
  · intro s cell hc hr hlose
    have h : LosesRight s cell := ⟨hr, hlose⟩
    have he := Eased.resumeCell s cell
    refine ⟨?_, _, debugRevoke_of_losesRight hc h, ?_, ?_, fun hb hp => ?_, fun u un hu => ?_⟩
    · show execDebugHalt cell s = _
      rw [execDebugHalt, if_neg (by omega)]
      dsimp only
      rw [losesRight_cond h, if_pos rfl]
    · refine ite_keeps (g := fun s : State => (s.cell cell).dbg.owner) ?_ ?_
      · rw [cell_debugStatus, revoked, State.cell_modDebug_self]
      · rw [revoked, State.cell_modDebug_self]
    · refine ite_keeps (g := fun s : State => (s.cell cell).dbg.edits) ?_ ?_
      · rw [cell_debugStatus, revoked, State.cell_modDebug_self]
      · rw [revoked, State.cell_modDebug_self]
    · rw [if_pos hp]
      exact statusOf_debugStatus hb he.mgmt he.unbacked (by decide)
    · have hsame : (if debugPending s cell then debugStatus (revoked s cell) cell dbNoRight else revoked s cell).unit? u =
          (resumeCell s cell).unit? u := ite_keeps (g := fun s : State => s.unit? u) (unit_debugStatus ..) rfl
      rw [hsame] at hu
      exact runsIn_resumeCell s cell u un hu

/-! Edits of a halted unit (R373, R376) -/

/-- The buffer of edits is empty. -/
def editsGone (s : State) (cell : Nat) : State := s.modDebug cell (fun d => { d with edits := [] })

theorem edits_editsGone (s : State) (cell code : Nat) : ((debugStatus (editsGone s cell) cell code).cell cell).dbg.edits = [] := by
  rw [cell_debugStatus, editsGone, State.cell_modDebug_self]

/-- A unit with an edit of its state, its full/empty bits and ports unchanged. -/
def editedAs (un x : UnitSt) : UnitSt :=
  choose { x with regs := { x.regs with vfe := un.regs.vfe, sfe := un.regs.sfe, q := un.regs.q }, edited := true }

theorem editedAs_eq (un x : UnitSt) : ∃ es, editedAs un x =
    { x with regs := { x.regs with vfe := un.regs.vfe, sfe := un.regs.sfe, q := un.regs.q }, edited := true, entries := es } :=
  ⟨_, choose_eq _⟩

/-- A COMMIT of one edit of a halted unit. -/
theorem commit_of_one {u off : Nat} {un : UnitSt} {v : DWord} (h : Claims.Commands s cell 6) (hu : s.unit? u = some un) (hh : un.halted ≠ none)
    (he : (s.cell cell).dbg.edits = [⟨u, off, v, false⟩]) :
    exec (.commit cell) s = .next (debugStatus (editsGone (applyEdit s u off v) cell) cell dbDone) := by
  show execCommit cell s = _
  rw [execCommit, debugCommand_of_commands h]
  dsimp only
  rw [he, if_neg (by simpa [hu] using hh)]
  rfl

theorem applyEdit_eq {u off : Nat} {un : UnitSt} {v : DWord} (hu : s.unit? u = some un) : applyEdit s u off v = s.putUnit u (editedAs un
    (match vregAt s un off with
      | some r => writeV un r.1 (BitVec.ofNat 32 (2 ^ r.2)) (fun _ => loWord v)
      | none => unitFrom un ((unitImage s u un).take off ++ bytesOf 8 v.toNat ++ (unitImage s u un).drop (off + 8)))) := by
  unfold applyEdit
  rw [hu]
  rfl

/-- The status of a COMMIT of one edit, and its unit. -/
theorem commit_of_one_unit {u off : Nat} {x : UnitSt} {v : DWord} (h : Claims.Commands s cell 6) (ha : applyEdit s u off v = s.putUnit u x) :
    Claims.statusOf (debugStatus (editsGone (applyEdit s u off v) cell) cell dbDone) cell = dbDone ∧
      (debugStatus (editsGone (applyEdit s u off v) cell) cell dbDone).unit? u = some x := by
  rw [ha]
  refine ⟨statusOf_debugStatus (s := s) h.2.1 rfl rfl (by decide), ?_⟩
  rw [unit_debugStatus]
  exact State.unit_putUnit_self ..

/-! The words that an image gives (R315) -/

/-- A field between others is read where it stands. -/
theorem leAt_append (pre mid post : List Byte) : leAt (pre ++ (mid ++ post)) pre.length mid.length = ofBytes mid := by
  rw [leAt, List.drop_left, List.take_left]

theorem readS_regsFrom (un : UnitSt) (bs : List Byte) {i : Nat} (hi : i < 64) :
    Tab.get 0 (regsFrom un.regs bs).s i = w32 (leAt bs (4 * i) 4) := by
  have h := get_foldl_set_range (0 : Word) 0 64 (fun i => w32 (leAt bs (4 * i) 4)) [] i
  simp only [Nat.zero_add, Nat.zero_le, true_and, hi, if_true, Nat.sub_zero] at h
  exact h

theorem regs_oneLane (un : UnitSt) : (oneLane un).regs.s = un.regs.s ∧ (oneLane un).regs.v = un.regs.v := by
  unfold oneLane
  split <;> exact ⟨rfl, rfl⟩

theorem regs_splitsFrom (un : UnitSt) (bs : List Byte) : (splitsFrom un bs).regs = un.regs := by
  unfold splitsFrom
  split <;> rfl

/-- The s and v registers of a unit that an image gives. -/
theorem regs_unitFrom (un : UnitSt) (bs : List Byte) :
    (unitFrom un bs).regs.s = (regsFrom un.regs bs).s ∧ (unitFrom un bs).regs.v = un.regs.v := by
  have h : (engFrom (ctlFrom (loopsFrom (splitsFrom { un with regs := regsFrom un.regs bs } bs) bs) bs) bs).regs = regsFrom un.regs bs :=
    regs_splitsFrom ..
  obtain ⟨hs, hv⟩ := regs_oneLane (engFrom (ctlFrom (loopsFrom (splitsFrom { un with regs := regsFrom un.regs bs } bs) bs) bs) bs)
  have hr : (regsFrom un.regs bs).v = un.regs.v := by simp only [regsFrom]
  rw [h] at hs hv
  exact ⟨hs, hv.trans hr⟩

theorem length_fieldOf (n : Nat) (bs : List Byte) : (fieldOf n bs).length = n := by
  rw [fieldOf, List.length_take, List.length_append, List.length_replicate]
  omega

theorem length_unitImage (s : State) (u : Nat) (un : UnitSt) : 4096 ≤ (unitImage s u un).length := by
  rw [unitImage, length_fieldOf]
  split <;> omega

theorem w32_loWord (v : DWord) : w32 (v.toNat % 256 ^ 4) = loWord v := by
  refine BitVec.eq_of_toNat_eq ?_
  rw [w32, BitVec.toNat_ofNat, loWord, BitVec.extractLsb'_toNat, Nat.shiftRight_zero]
  exact Nat.mod_mod ..

theorem w32_hiWord (v : DWord) : w32 (v.toNat / 256 ^ 4 % 256 ^ 4) = hiWord v := by
  refine BitVec.eq_of_toNat_eq ?_
  rw [w32, BitVec.toNat_ofNat, hiWord, BitVec.extractLsb'_toNat, Nat.shiftRight_eq_div_pow]
  exact Nat.mod_mod ..

/-- The two words of a register pair whose 8 bytes have been replaced. -/
theorem pair_of_edit {bs : List Byte} {k : Nat} (v : DWord) (hk : k < 32) (hl : 4096 ≤ bs.length) :
    w32 (leAt (bs.take (8 * k) ++ bytesOf 8 v.toNat ++ bs.drop (8 * k + 8)) (4 * (2 * k)) 4) = loWord v ∧
      w32 (leAt (bs.take (8 * k) ++ bytesOf 8 v.toNat ++ bs.drop (8 * k + 8)) (4 * (2 * k + 1)) 4) = hiWord v := by
  have hpre : (bs.take (8 * k)).length = 8 * k := by
    rw [List.length_take]
    omega
  have hsplit : bs.take (8 * k) ++ bytesOf 8 v.toNat ++ bs.drop (8 * k + 8) =
      bs.take (8 * k) ++ (bytesOf 4 v.toNat ++ (bytesOf 4 (v.toNat / 256 ^ 4) ++ bs.drop (8 * k + 8))) := by
    rw [show 8 = 4 + 4 from rfl, bytesOf_add 4 4, List.append_assoc, List.append_assoc]
  have hlo := leAt_append (bs.take (8 * k)) (bytesOf 4 v.toNat) (bytesOf 4 (v.toNat / 256 ^ 4) ++ bs.drop (8 * k + 8))
  have hhi := leAt_append (bs.take (8 * k) ++ bytesOf 4 v.toNat) (bytesOf 4 (v.toNat / 256 ^ 4)) (bs.drop (8 * k + 8))
  rw [hpre, length_bytesOf, ofBytes_bytesOf] at hlo
  rw [List.length_append, hpre, length_bytesOf, length_bytesOf, ofBytes_bytesOf, List.append_assoc] at hhi
  rw [hsplit]
  exact ⟨by rw [show 4 * (2 * k) = 8 * k by omega, hlo, w32_loWord], by rw [show 4 * (2 * k + 1) = 8 * k + 4 by omega, hhi, w32_hiWord]⟩

/-! Edits of v registers -/

theorem lanesOf_bit : ∀ l : Fin 32, lanesOf (BitVec.ofNat 32 (2 ^ l.val)) = [l.val] := by decide

theorem vregAt_eq_some {un : UnitSt} {off n l : Nat} (h : vregAt s un off = some (n, l)) : l < 32 := by
  unfold vregAt at h
  split at h
  · cases h
  · obtain ⟨-, rfl⟩ := Prod.mk.inj (Option.some.inj h)
    omega

/-- A write of one lane of a v register. -/
theorem readV_writeV_lane (un : UnitSt) {n l : Nat} (w : Word) (hl : l < 32) {m i : Nat} (hi : i < 32) :
    readV (writeV un n (BitVec.ofNat 32 (2 ^ l)) (fun _ => w)) m i = if m = n ∧ i = l then w else readV un m i := by
  rw [readV, writeV, lanesOf_bit ⟨l, hl⟩]
  show Tab.get 0 (Tab.set 0 un.regs.v (n * 32 + l) w) (m * 32 + i) = _
  rw [Tab.get_set]
  by_cases h : m = n ∧ i = l
  · obtain ⟨rfl, rfl⟩ := h
    rw [if_pos rfl, if_pos ⟨rfl, rfl⟩]
  · rw [if_neg (by omega), if_neg h, readV]

/-- Settles a clause of O47: READ, WRITE, COMMIT and DROP. -/
theorem debugEdits : Claims.DebugEdits := by
  refine ⟨?_, ?_, ?_, ?_, ?_, ?_, ?_⟩
  · intro s cell u un v h hd hu hh hv
    have hexec : exec (.debugRead cell) s =
        .next (debugStatus (poke s (run (debugBlock s cell + 80) (bytesOf 8 v))) cell dbDone) := by
      show execDebugRead cell s = _
      rw [execDebugRead, debugCommand_of_commands h, onHalted_of_halted hd hu hh, hv]
    refine ⟨_, hexec, statusOf_debugStatus h.2.1 (mgmt_poke ..) (unbacked_poke ..) (by decide), ?_, (units_debugStatus ..).trans (units_poke ..)⟩
    rw [debugStatus, debugField_poke_of_disjoint (.inr (by decide)), debugField_poke h.2.1 (by decide)]
    rfl
  · intro s cell u un h hd hu hh off l hw
    have hwrite : execDebugWrite cell s = .next (debugStatus
        (if 64 ≤ l.length then (s, dbBufferFull)
          else (s.modDebug cell (fun d => { d with edits := d.edits ++ [⟨u, off, dw (debugField s cell 80 8), false⟩] }), dbDone)).1 cell
        (if 64 ≤ l.length then (s, dbBufferFull)
          else (s.modDebug cell (fun d => { d with edits := d.edits ++ [⟨u, off, dw (debugField s cell 80 8), false⟩] }), dbDone)).2) := by
      rw [execDebugWrite, debugCommand_of_commands h, onHalted_of_halted hd hu hh]
      simp only [off, l] at hw ⊢
      simp only [hw, Bool.not_true, Bool.false_eq_true, if_false]
    refine ⟨fun hroom => ?_, fun hfull => ?_⟩
    · rw [if_neg (by omega)] at hwrite
      refine ⟨_, hwrite, statusOf_debugStatus (s := s) h.2.1 rfl rfl (show dbDone < 256 by decide), units_debugStatus .., ?_⟩
      rw [cell_debugStatus, State.cell_modDebug_self]
    · rw [if_pos hfull] at hwrite
      refine ⟨_, hwrite, statusOf_debugStatus h.2.1 rfl rfl (show dbBufferFull < 256 by decide), units_debugStatus .., ?_⟩
      rw [cell_debugStatus]
  · intro s cell u un op i h hd hu hh hi
    refine ⟨debugStatus s cell dbNotHalted, ?_, statusOf_debugStatus h.2.1 rfl rfl (by decide), units_debugStatus .., cells_debugStatus ..⟩
    have hno {body : Nat → UnitSt → State × Nat} : debugCommand s cell op (fun s => onHalted s cell body) = debugStatus s cell dbNotHalted := by
      rw [debugCommand_of_commands h, onHalted_of_running hd hu hh]
    simp only [List.mem_cons, Prod.mk.injEq, List.not_mem_nil, or_false] at hi
    rcases hi with ⟨rfl, rfl⟩ | ⟨rfl, rfl⟩ | ⟨rfl, rfl⟩
    · exact congrArg Host.Outcome.next hno
    · show execDebugRead cell s = _
      rw [execDebugRead, debugCommand_of_commands h, onHalted_of_running hd hu hh]
    · show execDebugWrite cell s = _
      rw [execDebugWrite, debugCommand_of_commands h, onHalted_of_running hd hu hh]
  · intro s cell u un v k h hu hh hk he
    have hnone : vregAt s un (8 * k) = none := by rw [vregAt, if_pos (.inl (by omega))]
    have ha := applyEdit_eq (off := 8 * k) (v := v) hu
    rw [hnone] at ha
    obtain ⟨hstatus, hunit⟩ := commit_of_one_unit h ha
    obtain ⟨es, hes⟩ := editedAs_eq un (unitFrom un ((unitImage s u un).take (8 * k) ++ bytesOf 8 v.toNat ++ (unitImage s u un).drop (8 * k + 8)))
    obtain ⟨hs, hvr⟩ := regs_unitFrom un ((unitImage s u un).take (8 * k) ++ bytesOf 8 v.toNat ++ (unitImage s u un).drop (8 * k + 8))
    obtain ⟨hlo, hhi⟩ := pair_of_edit v hk (length_unitImage s u un)
    refine ⟨_, _, commit_of_one h hu hh he, hstatus, edits_editsGone .., hunit, ?_, ?_, ?_, ?_⟩
    · rw [hes, readS]
      dsimp only
      rw [hs, readS_regsFrom un _ (by omega), hlo]
    · rw [hes, readS]
      dsimp only
      rw [hs, readS_regsFrom un _ (by omega), hhi]
    · rw [hes]
    · rw [hes]
      exact hvr
  · intro s cell u un v off n l h hu hh hreg he
    have hl := vregAt_eq_some hreg
    have ha := applyEdit_eq (off := off) (v := v) hu
    rw [hreg] at ha
    obtain ⟨hstatus, hunit⟩ := commit_of_one_unit h ha
    obtain ⟨es, hes⟩ := editedAs_eq un (writeV un n (BitVec.ofNat 32 (2 ^ l)) (fun _ => loWord v))
    have hread (m i : Nat) (hi : i < 32) : readV (editedAs un (writeV un n (BitVec.ofNat 32 (2 ^ l)) (fun _ => loWord v))) m i =
        if m = n ∧ i = l then loWord v else readV un m i := by
      rw [← readV_writeV_lane un (loWord v) hl hi, hes]
      rfl
    refine ⟨_, _, commit_of_one h hu hh he, hstatus, edits_editsGone .., hunit, ?_, fun m i hi hne => ?_, fun o => ?_, ?_, ?_, ?_⟩
    · rw [hread n l hl, if_pos ⟨rfl, rfl⟩]
    · rw [hread m i hi, if_neg (by omega)]
    · rw [hes]
      cases o <;> rfl
    · rw [hes]
      rfl
    · rw [hes]
      rfl
    · rw [hes]
  · intro s cell e h hmem hbad
    refine ⟨debugStatus s cell dbNotHalted, ?_, statusOf_debugStatus h.2.1 rfl rfl (by decide), units_debugStatus .., cells_debugStatus ..⟩
    show execCommit cell s = _
    rw [execCommit, debugCommand_of_commands h]
    dsimp only
    rw [if_pos]
    refine List.any_eq_true.2 ⟨e, hmem, ?_⟩
    rcases hbad with hs | hn | ⟨un, hu, hh⟩
    · rw [hs, Bool.true_or]
    · simp only [hn, Bool.or_true]
    · simp only [hu, hh, Option.isNone_none, Bool.or_true]
  · intro s cell h
    have hexec : exec (.drop cell) s = .next (debugStatus (editsGone s cell) cell dbDone) := by
      show execDrop cell s = _
      rw [execDrop, debugCommand_of_commands h]
      rfl
    exact ⟨_, hexec, statusOf_debugStatus (s := s) h.2.1 rfl rfl (by decide), edits_editsGone .., units_debugStatus ..⟩

end

/-- Settles O47: the debug module halts, resumes, steps, loses its right, and reads and edits halted units. -/
theorem debugModule : Obligations.DebugModule := ⟨debugRuns, debugEdits⟩

end Sys2Proof.Safety
end

section
/-! Power states, limits, and the bring-up of a die (O46). -/

open Sys2Proof Sys2Proof.Machine
namespace Sys2Proof.Safety

section
variable {s t : State} {d : Nat}

/-! The power of a die -/

@[simp] theorem die_modPower_self (s : State) (d : Nat) (f : Power → Power) :
    (modPower s d f).die d = { s.die d with power := f (s.die d).power } := State.die_modDie_self ..

theorem power_modPower_self (s : State) (d : Nat) (f : Power → Power) : ((modPower s d f).die d).power = f (s.die d).power := by
  rw [die_modPower_self]

theorem die_modPower_ne {e : Nat} (h : e ≠ d) (s : State) (f : Power → Power) : (modPower s d f).die e = s.die e := State.die_modDie_ne _ _ h

/-- A die but for its sessions. -/
def besideSessions (x : Die) : Die := { x with sessions := [] }

theorem beside_linkDown (s : State) (l e : Nat) : besideSessions ((linkDown s l).die e) = besideSessions (s.die e) := by
  by_cases h : (s.link l).st = .down
  · unfold linkDown
    dsimp only
    rw [if_pos h]
  · rw [linkDown_eq h]
    refine ((Grows.childrenLost _ l).beside e).trans ?_
    rw [die_writeLink]
    rfl

theorem now_linkDown (s : State) (l : Nat) : (linkDown s l).now = s.now := by
  by_cases h : (s.link l).st = .down
  · unfold linkDown
    dsimp only
    rw [if_pos h]
  · rw [linkDown_eq h, (Grows.childrenLost _ l).now, now_writeLink]
    rfl

theorem beside_linksDown (s : State) (ls : List Nat) (e : Nat) : besideSessions ((ls.foldl linkDown s).die e) = besideSessions (s.die e) :=
  foldl_keeps linkDown (fun s => besideSessions (s.die e)) (fun s l => beside_linkDown s l e) ls s

theorem now_linksDown (s : State) (ls : List Nat) : (ls.foldl linkDown s).now = s.now := foldl_keeps linkDown State.now now_linkDown ls s

theorem power_of_beside {x y : Die} (h : besideSessions x = besideSessions y) : x.power = y.power := (congrArg Die.power h :)

theorem steps_modPower (s : State) {f : Power → Power} (h : ∀ w, (f w).steps = w.steps) (e : Nat) :
    ((modPower s d f).die e).power.steps = (s.die e).power.steps := by
  by_cases he : e = d
  · subst he
    rw [die_modPower_self]
    exact h _
  · rw [die_modPower_ne he]

/-- The clock of the time base depends on the steps of die 0 alone. -/
theorem cyclesOf_congr (h : (t.die 0).power.steps = (s.die 0).power.steps) (us : Nat) : cyclesOf t us = cyclesOf s us := by
  rw [cyclesOf, h, cyclesOf]

theorem cyclesOf_modPower (s : State) {f : Power → Power} (h : ∀ w, (f w).steps = w.steps) (us : Nat) :
    cyclesOf (modPower s d f) us = cyclesOf s us := cyclesOf_congr (steps_modPower s h 0) us

/-! Wakes (R394, R395) -/

theorem wakeDie_keeps {α : Type} (g : State → α) (h : ∀ s i, g (State.soon s i) = g s) (s : State) (d : Nat) : g (wakeDie s d) = g s :=
  ite_keeps (g := g) rfl (h ..)

theorem planned_soon (s : State) (i : Event) : (s.soon (.event i)).planned i = true := by
  refine Bool.or_eq_true_iff.2 (.inr (List.any_eq_true.2 ⟨_, State.mem_soon .., decide_eq_true rfl⟩))

/-- A die that is asleep, and neither leaves its state nor is to, has its wake planned. -/
theorem planned_wakeDie (hst : (s.die d).power.st ≠ .s0) (he : (s.die d).power.exiting = false) (hw : (s.die d).power.wake = false) :
    (wakeDie s d).planned (.powerWake d) = true := by
  unfold wakeDie
  dsimp only
  by_cases hp : s.planned (.powerWake d) = true
  · rw [if_pos (.inr (.inr (.inr hp)))]
    exact hp
  · rw [if_neg (by simp [hst, he, hw, hp])]
    exact planned_soon ..

/-- A new tolerance, and what it may set off. -/
theorem setLattol_keeps {α : Type} (g : State → α) (h : ∀ s i, g (State.soon s i) = g s) (s : State) (hd : d < 4) (v : Word) :
    g (setLattol s d v) = g (modPower s d (fun w => { w with lattol := v.toNat })) := by
  unfold setLattol
  rw [if_neg (by omega)]
  exact ite_keeps (g := g) (wakeDie_keeps g h ..) (ite_keeps (g := g) (h ..) rfl)

/-! The exit of a die -/

theorem beginExit_eq (s : State) (d : Nat) : beginExit s d =
    if (s.die d).power.st = .s3 then (modPower s d (fun w => { w with exiting := true, wake := false })).soon (.event (.powerOn d))
    else (modPower s d (fun w => { w with exiting := true, wake := false })).later (cyclesOf s (s.die d).power.st.exit)
      (.event (.powerExitComplete d)) := by
  unfold beginExit
  dsimp only
  rw [cyclesOf_modPower (f := fun w => { w with exiting := true, wake := false }) s fun _ => rfl]

theorem rejoin_keeps {α : Type} (g : State → α) (h : ∀ s i, g (State.soon s i) = g s) (s : State) (d : Nat) : g (rejoin s d) = g s :=
  foldl_keeps _ g (fun _ _ => h ..) _ _

/-- A die that has left its state, before what was held for it takes effect. -/
def backUp (s : State) (d : Nat) : State :=
  s.modDie d (fun x => { x with
    held := []
    power := { x.power with
      st := .s0, exiting := false, wake := false, slept := if decide ((s.die d).power.st = .s3) then s.now else x.power.slept } })

/-- A die that has left its state, its idle count begun anew where there is work on it. -/
def backUpIdle (s : State) (d : Nat) : State :=
  if dieWork (backUp s d) d then modPower (backUp s d) d (fun w => { w with idleSince := (backUp s d).now }) else backUp s d

theorem powerExitComplete_eq (he : (s.die d).power.exiting = true) (hb : (s.die d).bring = .ready) :
    exec (.powerExitComplete d) s = .next
      (let u := if decide ((s.die d).power.st = .s3) then rejoin (backUpIdle s d) d else backUpIdle s d
       { u with agenda := u.agenda ++ (s.die d).held.map Turn.event }) := by
  show execPowerExitComplete d s = _
  rw [execPowerExitComplete]
  dsimp only
  rw [if_neg (by simp [he, hb])]
  rfl

theorem die_backUpIdle (s : State) (d : Nat) : ∃ i, (i = s.now ∨ i = (s.die d).power.idleSince) ∧ (backUpIdle s d).die d = { s.die d with
    held := []
    power := { (s.die d).power with
      st := .s0, exiting := false, wake := false, idleSince := i
      slept := if decide ((s.die d).power.st = .s3) then s.now else (s.die d).power.slept } } := by
  unfold backUpIdle
  split
  · refine ⟨s.now, .inl rfl, ?_⟩
    rw [die_modPower_self, backUp, State.die_modDie_self]
    rfl
  · refine ⟨(s.die d).power.idleSince, .inr rfl, ?_⟩
    rw [backUp, State.die_modDie_self]

/-! What a die loses in S3 (R395) -/

theorem die_clearDie (s : State) (d : Nat) : (clearDie s d).die d =
    { Die.initial with bring := (s.die d).bring, fenced := (s.die d).fenced, power := (s.die d).power, held := (s.die d).held } :=
  Tab.get_put_self ..

theorem die_clearDie_ne {e : Nat} (h : e ≠ d) (s : State) : besideSessions ((clearDie s d).die e) = besideSessions (s.die e) :=
  (congrArg besideSessions (Tab.get_put_ne Die.initial _ _ h) :).trans (beside_linksDown s (linksOf d) e)

theorem core_clearDie (s : State) {d c : Nat} (h : coreDie c = d) : (clearDie s d).core c = Core.initial := by
  have hnone : Tab.find? (clearDie s d).cores c = none := by
    refine (find?_filter_key _ (fun k => decide (coreDie k ≠ d)) c).trans ?_
    rw [decide_eq_false (by rw [h]; exact fun hne => hne rfl)]
    rfl
  rw [State.core, Tab.get, hnone]
  rfl

theorem now_clearDie (s : State) (d : Nat) : (clearDie s d).now = s.now := now_linksDown s (linksOf d)

theorem steps_clearDie (s : State) (d e : Nat) : ((clearDie s d).die e).power.steps = (s.die e).power.steps := by
  by_cases h : e = d
  · subst h
    rw [die_clearDie]
  · rw [power_of_beside (die_clearDie_ne h s)]

/-! The lifetime record (R399) -/

theorem writeLife_mgmt (s : State) (hour : Bool) : ∃ x, (writeLife s hour).mgmt = { s.mgmt with lifeB := x } ∨
    (writeLife s hour).mgmt = { s.mgmt with lifeA := x } := by
  unfold writeLife State.modMgmt
  dsimp only
  split
  · exact ⟨_, .inl rfl⟩
  · exact ⟨_, .inr rfl⟩

theorem die_writeLife (s : State) (hour : Bool) (d : Nat) : (writeLife s hour).die d = s.die d := rfl

/-- The die has begun to enter a state. -/
def entering (s : State) (d : Nat) (p : PState) : State := modPower s d (fun w => { w with st := p, entering := some p, wake := false })

theorem idleTimeout_eq (hd : d < 4) (hb : (s.die d).bring = .ready) (hf : (s.die d).frozen = false) (he : (s.die d).power.entering = none)
    (hx : (s.die d).power.exiting = false) (hp : (s.die d).power.st.depth < (powerTarget s d).depth) :
    exec (.idleTimeout d) s = .next
      (let u := if powerTarget s d = .s3 then (linksOf d).foldl linkDown (writeLife s false) else s
       (entering u d (powerTarget s d)).later (cyclesOf u (powerTarget s d).entry) (.event (.powerEntryComplete d))) := by
  show execIdleTimeout d s = _
  rw [execIdleTimeout]
  dsimp only
  rw [if_neg (by simp [hb, hf, he, hx]; omega)]
  rfl

/-- Settles a clause of O46: limits, thermal steps, power states and the lifetime record. -/
theorem powerStates : Claims.PowerStates := by
  refine ⟨?_, ?_, ?_, ?_, ?_, ?_, ?_⟩
  · intro s d v hopen hd
    refine ⟨⟨setLattol s d v, ?_, ?_, ?_, fun hlow he hw hst => ?_⟩, ⟨setClklim s d v, ?_, ?_, ?_⟩⟩
    · show execLattolWrite d v s = _
      rw [execLattolWrite, if_pos hopen]
    · exact (setLattol_keeps (fun s => (s.die d).power) (fun _ _ => rfl) s hd v).trans (power_modPower_self ..)
    · exact setLattol_keeps State.units (fun _ _ => rfl) s hd v
    · have hlow' : v.toNat < ((modPower s d (fun w => { w with lattol := v.toNat })).die d).power.st.exit := by
        rw [die_modPower_self]
        exact hlow
      unfold setLattol
      rw [if_neg (by omega)]
      dsimp only
      rw [decide_eq_true hlow', if_pos rfl]
      refine planned_wakeDie ?_ ?_ ?_
      · rw [die_modPower_self]; exact hst
      · rw [die_modPower_self]; exact he
      · rw [die_modPower_self]; exact hw
    · show execClklimWrite d v s = _
      rw [execClklimWrite, if_pos hopen]
    · unfold setClklim
      rw [if_neg (by omega), power_modPower_self, bits]
      norm_num
    · unfold setClklim
      rw [if_neg (by omega)]
      rfl
  · intro s d temp hd
    refine ⟨_, congrArg Host.Outcome.next (if_neg (by omega)), rfl, power_modPower_self ..⟩
  · intro s d hd hb hf he hx hp
    have hpower : ∀ u : State, ((entering u d (powerTarget s d)).die d).power.st = powerTarget s d ∧
        ((entering u d (powerTarget s d)).die d).power.entering = some (powerTarget s d) := fun u => by
      rw [entering, die_modPower_self]
      exact ⟨rfl, rfl⟩
    refine ⟨_, idleTimeout_eq hd hb hf he hx hp, (hpower _).1, (hpower _).2, fun h3 => ?_⟩
    dsimp only
    rw [if_neg h3]
    exact ⟨State.mem_later (s := entering s d (powerTarget s d)) .., rfl⟩
  · intro s d p he hw
    have hexec : exec (.powerEntryComplete d) s =
        .next (modPower (if p = .s3 then clearDie s d else s) d (fun w => { w with entering := none })) := by
      show execPowerEntryComplete d s = _
      rw [execPowerEntryComplete, he]
      dsimp only
      rw [hw, if_neg Bool.false_ne_true]
    have hpower : ((if p = .s3 then clearDie s d else s).die d).power = (s.die d).power :=
      ite_keeps (g := fun s : State => (s.die d).power) (by rw [die_clearDie]) rfl
    refine ⟨_, hexec, ?_, ?_, fun h3 => ⟨fun c hc => ?_, ?_⟩⟩
    · rw [power_modPower_self]
    · rw [power_modPower_self, hpower]
    · rw [if_pos h3]
      exact core_clearDie s hc
    · rw [if_pos h3, die_modPower_self, die_clearDie]
  · intro s d hd hst hx he
    have hexec : exec (.powerWake d) s = .next (beginExit s d) := by
      show execPowerWake d s = _
      rw [execPowerWake]
      dsimp only
      rw [if_neg (by simp [hst, hx]; omega), he]
      rfl
    refine ⟨_, hexec, ?_, ?_, fun h3 => ?_, fun h3 => ?_⟩
    · rw [beginExit_eq]
      exact ite_keeps (g := fun s : State => (s.die d).power.exiting) (by rw [State.die_soon, die_modPower_self])
        (by rw [State.die_later, die_modPower_self])
    · rw [beginExit_eq]
      exact ite_keeps (g := State.units) rfl rfl
    · rw [beginExit_eq, if_pos h3]
      exact State.mem_soon ..
    · rw [beginExit_eq, if_neg h3]
      exact State.mem_later (s := modPower s d (fun w => { w with exiting := true, wake := false })) ..
  · intro s d hx hb
    obtain ⟨i, hi, hdie⟩ := die_backUpIdle s d
    have hsame : (if decide ((s.die d).power.st = .s3) then rejoin (backUpIdle s d) d else backUpIdle s d).die d = (backUpIdle s d).die d :=
      ite_keeps (g := fun s : State => s.die d) (rejoin_keeps (State.die · d) (fun _ _ => rfl) ..) rfl
    rw [hdie] at hsame
    refine ⟨_, powerExitComplete_eq hx hb, ?_, ?_, ?_, ?_, fun e he => List.mem_append_right _ (List.mem_map_of_mem he)⟩
    · exact (congrArg (fun x : Die => x.power.st) hsame :)
    · exact (congrArg (fun x : Die => x.power.exiting) hsame :)
    · have h : _ = i := (congrArg (fun x : Die => x.power.idleSince) hsame :)
      exact hi.imp (h.trans ·) (h.trans ·)
    · exact (congrArg Die.held hsame :)
  · intro s
    obtain ⟨x, hb | ha⟩ := writeLife_mgmt (s.modMgmt (fun m => { m with hours := m.hours + 1 })) true
    · exact ⟨_, rfl, by rw [hb]; rfl, rfl, .inl (by rw [hb]; rfl)⟩
    · exact ⟨_, rfl, by rw [ha]; rfl, rfl, .inr (by rw [ha]; rfl)⟩

/-! Steps of bring-up (R390) -/

/-- A die at a step, which die 0 shows as its phase. -/
def stepAt (s : State) (d : Nat) (b : BringUp) (p : MPhase) : State :=
  let s := s.modDie d (fun x => { x with bring := b })
  if d = 0 then s.modMgmt (fun m => { m with phase := p }) else s

theorem stepAt_keeps {α : Type} (g : State → α) (hd : ∀ s d f, g (State.modDie s d f) = g s) (hm : ∀ s f, g (State.modMgmt s f) = g s)
    (s : State) (d : Nat) (b : BringUp) (p : MPhase) : g (stepAt s d b p) = g s :=
  ite_keeps (g := g) ((hm ..).trans (hd ..)) (hd ..)

theorem dies_stepAt (s : State) (d : Nat) (b : BringUp) (p : MPhase) :
    (stepAt s d b p).dies = (s.modDie d (fun x => { x with bring := b })).dies := ite_keeps (g := State.dies) rfl rfl

theorem die_stepAt (s : State) (d : Nat) (b : BringUp) (p : MPhase) : (stepAt s d b p).die d = { s.die d with bring := b } := by
  rw [State.die, dies_stepAt]
  exact State.die_modDie_self ..

theorem steps_stepAt (s : State) (d e : Nat) (b : BringUp) (p : MPhase) : ((stepAt s d b p).die e).power = (s.die e).power := by
  by_cases h : e = d
  · subst h
    rw [die_stepAt]
  · rw [State.die, dies_stepAt]
    exact congrArg Die.power (State.die_modDie_ne _ _ h)

/-- A free choice draws and changes nothing else. -/
def OnlyDraws (e : State → Event × State) : Prop := ∀ s, ∃ m, (e s).2 = { s with draws := m }

/-- The end of the next step is planned, in time for the end of bring-up. -/
theorem bringNext_eq {b : BringUp} {p : MPhase} {left : Nat} {e : State → Event × State} (he : OnlyDraws e) (s : State) (d : Nat) :
    ∃ n m, bringNext s d b p left e = State.later { stepAt s d b p with draws := m } n (.event (e (stepAt s d b p)).1) ∧ 0 < n ∧
      s.now + n ≤ max (s.now + 1) (s.die d).power.upBy := by
  obtain ⟨m, hm⟩ := he (stepAt s d b p)
  have hnow : (stepAt s d b p).now = s.now := stepAt_keeps State.now (fun _ _ _ => rfl) (fun _ _ => rfl) ..
  have hup : ((stepAt s d b p).die d).power.upBy = (s.die d).power.upBy := by rw [steps_stepAt]
  refine ⟨1 + Config.latency m % max 1 (((stepAt s d b p).die d).power.upBy - (stepAt s d b p).now - left), m + 1, ?_, by omega, ?_⟩
  · have hb : bringNext s d b p left e = State.later { (e (stepAt s d b p)).2 with draws := (e (stepAt s d b p)).2.draws + 1 }
        (1 + Config.latency (e (stepAt s d b p)).2.draws % max 1 (((stepAt s d b p).die d).power.upBy - (stepAt s d b p).now - left))
        (.event (e (stepAt s d b p)).1) := rfl
    rw [hb, hm]
  · rw [hup, hnow]
    have hlt : Config.latency m % max 1 ((s.die d).power.upBy - s.now - left) < max 1 ((s.die d).power.upBy - s.now - left) :=
      Nat.mod_lt _ (by omega)
    omega

/-- What a step that has begun leaves: its event, within the time of the bring-up, and the die at the step. -/
theorem bringNext_spec {b : BringUp} {p : MPhase} {left : Nat} {e : State → Event × State} (he : OnlyDraws e) (s : State) (d : Nat) :
    (∃ n, (n, Turn.event (e (stepAt s d b p)).1) ∈ (bringNext s d b p left e).calendar ∧ s.now < n ∧
      n ≤ max (s.now + 1) (s.die d).power.upBy) ∧
    (bringNext s d b p left e).die d = { s.die d with bring := b } ∧ (bringNext s d b p left e).mem = s.mem ∧
    ∀ e', ((bringNext s d b p left e).die e').power = (s.die e').power := by
  obtain ⟨n, m, heq, hn, hle⟩ := bringNext_eq (b := b) (p := p) (left := left) he s d
  have hnow : (stepAt s d b p).now = s.now := stepAt_keeps State.now (fun _ _ _ => rfl) (fun _ _ => rfl) ..
  have hmem : (stepAt s d b p).mem = s.mem := stepAt_keeps State.mem (fun _ _ _ => rfl) (fun _ _ => rfl) ..
  rw [heq]
  refine ⟨⟨s.now + n, ?_, by omega, hle⟩, die_stepAt .., hmem, fun e' => steps_stepAt ..⟩
  have h := State.mem_later (s := { stepAt s d b p with draws := m }) n (.event (e (stepAt s d b p)).1)
  rw [← hnow]
  exact h

/-! Power-on (R390, R395) -/

/-- The die has power again, everything on it as it is after power-on or as S3 keeps it. -/
def powered (s : State) (d : Nat) : State :=
  if (s.die d).bring = .off then modPower (clearDie s d) d (fun _ => Die.initial.power) else s

/-- Microseconds that the bring-up may take. -/
def upTime (s : State) (d : Nat) : Nat := if (s.die d).bring = .off then 10 ^ 6 else 2000

/-- The die has a time by which it is to be up. -/
def upGiven (s : State) (d : Nat) : State :=
  modPower (powered s d) d (fun w => { w with upBy := (powered s d).now + cyclesOf (powered s d) (upTime s d) })

/-- The die has power, and on die 0 the device counts the boot. -/
def powerGiven (s : State) (d : Nat) : State :=
  if d = 0 then (upGiven s d).modMgmt (fun m => { m with boots := m.boots + 1, ctxbase := 0, nokey := false, fail := 0 }) else upGiven s d

/-- What the FIRMWARE step of a die will find. -/
def firmwareFinds (d : Nat) (s : State) : Event × State :=
  let (image, s) := draw s
  let (config, s) := draw s
  (.firmware d (if !image then 1 else if !config then 3 else 0), s)

theorem firmwareFinds_draws (d : Nat) : OnlyDraws (firmwareFinds d) := fun _ => ⟨_, rfl⟩

theorem powerOn_eq (hd : d < 4) (ha : dieAbsent s d = false) (hp : d = 0 ∨ s.mgmt.phase ≠ .failed)
    (hb : (s.die d).bring = .off ∨ ((s.die d).bring = .ready ∧ (s.die d).power.st = .s3 ∧ (s.die d).power.exiting = true)) :
    exec (.powerOn d) s = .next (bringNext (powerGiven s d) d .firmware .firmware 3 (firmwareFinds d)) := by
  have hb' : (s.die d).bring = .off ∨ ((s.die d).power.st = .s3 ∧ (s.die d).power.exiting = true ∧ (s.die d).bring = .ready) :=
    hb.imp id fun ⟨h1, h2, h3⟩ => ⟨h2, h3, h1⟩
  have hgo : ¬ (4 ≤ d ∨ dieAbsent s d = true ∨ (d ≠ 0 ∧ s.mgmt.phase = .failed) ∨
      ¬ ((s.die d).bring = .off ∨ ((s.die d).power.st = .s3 ∧ (s.die d).power.exiting = true ∧ (s.die d).bring = .ready))) := by
    rintro (h | h | ⟨h1, h2⟩ | h)
    · omega
    · rw [ha] at h
      cases h
    · exact hp.elim h1 (fun h => h h2)
    · exact h hb'
  show execPowerOn d s = _
  rw [execPowerOn]
  dsimp only
  rw [if_neg hgo]
  rfl

theorem now_powered (s : State) (d : Nat) : (powered s d).now = s.now := ite_keeps (g := State.now) (now_clearDie s d) rfl

theorem dies_powerGiven (s : State) (d : Nat) : (powerGiven s d).dies = (upGiven s d).dies := ite_keeps (g := State.dies) rfl rfl

theorem die_powerGiven (s : State) (d : Nat) : (powerGiven s d).die d = { (powered s d).die d with
    power := { ((powered s d).die d).power with upBy := s.now + cyclesOf (powered s d) (upTime s d) } } := by
  rw [State.die, dies_powerGiven, ← now_powered s d]
  exact die_modPower_self ..

theorem steps_powerGiven (s : State) (d e : Nat) : ((powerGiven s d).die e).power.steps = ((powered s d).die e).power.steps := by
  rw [State.die, dies_powerGiven]
  show ((upGiven s d).die e).power.steps = _
  rw [upGiven, steps_modPower]
  exact fun _ => rfl

theorem now_powerGiven (s : State) (d : Nat) : (powerGiven s d).now = s.now := by
  have h : (powerGiven s d).now = (upGiven s d).now := ite_keeps (g := State.now) rfl rfl
  exact h.trans (now_powered s d)

/-! Failing steps (R390) -/

theorem bringFail_zero (s : State) (code : Nat) : bringFail s 0 code = s.modMgmt (fun m => { m with phase := .failed, fail := code }) :=
  if_pos rfl

theorem settlePhase_keeps {α : Type} (g : State → α) (hm : ∀ s, g (State.modMgmt s (fun m => { m with phase := .ready })) = g s) (s : State) :
    g (settlePhase s) = g s :=
  ite_keeps (g := g) (hm s) rfl

theorem get_zeroed (o : Nat) (m : Tab Byte) {n k : Nat} (hk : k < n) :
    Tab.get 0 ((List.replicate n (0 : Byte)).zipIdx.foldl (fun t b => Tab.put t (o + b.2) b.1) m) (o + k) = 0 := by
  have hzero : ((List.replicate n (0 : Byte)).zipIdx.foldl (fun t b => Tab.put t (o + b.2) b.1) m) =
      ((List.range n).map (o + ·)).foldl (fun t l => Tab.put t l 0) m := by
    rw [zipIdx_eq_map_range, List.foldl_map, List.foldl_map, List.length_replicate]
    refine List.foldl_ext _ _ _ fun t i hi => ?_
    simp [List.mem_range.1 hi]
  rw [hzero]
  exact get_foldl_put (fun _ => 0) (List.mem_map.2 ⟨k, List.mem_range.2 hk, rfl⟩) m

/-- A die is fenced and counts no longer. -/
def identGone (s : State) (d : Nat) : State :=
  putIdent (s.modDie d (fun x => { x with bring := .fenced })) (32 + 32 * d) (List.replicate 24 0)

theorem ident_putIdent (s : State) (o : Nat) (bs : List Byte) :
    (putIdent s o bs).mgmt.ident = bs.zipIdx.foldl (fun t b => Tab.put t (o + b.2) b.1) s.mgmt.ident := rfl

/-- Another die whose step fails is fenced, and its fields of the identity record read zero. -/
theorem bringFail_other (hd : d ≠ 0) (s : State) (code : Nat) : ((bringFail s d code).die d).bring = .fenced ∧
    (bringFail s d code).mem = s.mem ∧ ∀ k < 24, Tab.get 0 (bringFail s d code).mgmt.ident (32 + 32 * d + k) = 0 := by
  have heq : bringFail s d code = settlePhase (identGone s d) := if_neg hd
  rw [heq]
  refine ⟨?_, settlePhase_keeps State.mem (fun _ => rfl) _, fun k hk => ?_⟩
  · have hdie : (settlePhase (identGone s d)).die d = (identGone s d).die d := settlePhase_keeps (State.die · d) (fun _ => rfl) _
    have hgone : (identGone s d).dies = (s.modDie d (fun x => { x with bring := .fenced })).dies := rfl
    rw [hdie, State.die, hgone]
    exact congrArg Die.bring (State.die_modDie_self s d fun x => { x with bring := .fenced })
  · have hident : (settlePhase (identGone s d)).mgmt.ident = (identGone s d).mgmt.ident :=
      settlePhase_keeps (fun s => s.mgmt.ident) (fun _ => rfl) _
    rw [hident, identGone, ident_putIdent, get_zeroed _ _ hk]

/-! The steps of bring-up after power-on (R390, R434) -/

theorem atStep_zero {b : BringUp} (h : (s.die 0).bring = b) : atStep s 0 b = true := by
  rw [atStep, decide_eq_true h]
  rfl

theorem atStep_of_running {b : BringUp} (h : (s.die d).bring = b) (hp : s.mgmt.phase ≠ .failed) : atStep s d b = true := by
  rw [atStep, decide_eq_true h, decide_eq_true hp, Bool.or_true]
  rfl

/-- What the SELFTEST step of a die will find. -/
def selftestFinds (d : Nat) (s : State) : Event × State :=
  let (pass, s) := draw s
  (.selftest d pass ((List.range 606).filter (fun i => Config.freeBool (s.draws + i))), { s with draws := s.draws + 606 })

theorem selftestFinds_draws (d : Nat) : OnlyDraws (selftestFinds d) := fun _ => ⟨_, rfl⟩

theorem firmware_eq {f : Nat} (h : atStep s d .firmware = true) (hf : firmwareCode s f = 0) :
    exec (.firmware d f) s = .next (bringNext s d .selftest .selftest 2 (selftestFinds d)) := by
  show execFirmware d f s = _
  rw [execFirmware, h, hf]
  rfl

theorem firmware_fails {f c : Nat} (h : atStep s d .firmware = true) (hf : firmwareCode s f = c) (hc : c ≠ 0) :
    exec (.firmware d f) s = .next (bringFail s d c) := by
  show execFirmware d f s = _
  rw [execFirmware, h, hf, if_neg (by decide), if_pos hc]

theorem selftest_fails {fenced : List Nat} (h : atStep s d .selftest = true) :
    exec (.selftest d false fenced) s = .next (bringFail s d 4) := by
  show execSelftest d false fenced s = _
  rw [execSelftest, h]
  rfl

theorem memory_fails (h : atStep s d .memory = true) : exec (.memory d false) s = .next (bringFail s d 6) := by
  show execMemory d false s = _
  rw [execMemory, h]
  rfl

theorem links_fails {key : Bool} (h : atStep s d .links = true) : exec (.links d false key) s = .next (bringFail s d 5) := by
  show execLinks d false key s = _
  rw [execLinks, h]
  rfl

/-- What the MEMORY step of a die will find. -/
def memoryFinds (d : Nat) (s : State) : Event × State :=
  let (ok, s) := draw s
  (.memory d ok, s)

theorem memoryFinds_draws (d : Nat) : OnlyDraws (memoryFinds d) := fun _ => ⟨_, rfl⟩

/-- The failing units of a die are fenced, with those that the configuration record names. -/
def unitsFenced (s : State) (d : Nat) (fenced : List Nat) : State :=
  s.modDie d (fun x => { x with fenced := (fenced ++ Tab.get [] s.mgmt.flash.fenced d).eraseDups })

theorem selftest_eq {fenced : List Nat} (h : atStep s d .selftest = true) :
    exec (.selftest d true fenced) s = .next (bringNext (unitsFenced s d fenced) d .memory .memory 1 (memoryFinds d)) := by
  show execSelftest d true fenced s = _
  rw [execSelftest, h]
  rfl

/-- What the LINKS step of a die will find. -/
def linksFind (d : Nat) (s : State) : Event × State :=
  let (ok, s) := draw s
  let (key, s) := draw s
  (.links d ok key, s)

theorem linksFind_draws (d : Nat) : OnlyDraws (linksFind d) := fun _ => ⟨_, rfl⟩

/-- A die's own memory reads zero and its errors are gone, unless S3 has kept it. -/
def memoryZeroed (s : State) (d : Nat) : State :=
  if (s.die d).power.st = .s3 then s else { s with
    mem := s.mem.filter (fun (e : Nat × Byte) => !ownMemory d e.1)
    poison := s.poison.filter (fun (e : Nat × Bool) => !ownMemory d (8 * e.1))
    latent := s.latent.filter (fun e => match globalWord e with | some w => !ownMemory d (8 * w) | none => true) }

theorem memory_eq (h : atStep s d .memory = true) (hs : dieStacks s d ≠ []) :
    exec (.memory d true) s = .next (bringNext (memoryZeroed (trainStacks s d) d) d .links .links 0 (linksFind d)) := by
  have hne : (dieStacks s d).isEmpty = false := by simpa using hs
  show execMemory d true s = _
  rw [execMemory, h, hne]
  rfl

/-- Training fences stacks and draws, no more. -/
theorem trainStacks_keeps {α : Type} (g : State → α) (hd : ∀ s n, g { s with draws := n } = g s)
    (hf : ∀ s d (f : Die → List Nat), g (State.modDie s d (fun x => { x with fenced := f x })) = g s) (s : State) (d : Nat) :
    g (trainStacks s d) = g s := by
  refine ite_keeps (g := g) rfl (ite_keeps (g := g) ?_ ((hf _ _ (fun x => _ :: x.fenced)).trans ?_))
  · exact (hd ..).trans (hd ..)
  · exact (hd ..).trans (hd ..)

theorem memoryZeroed_keeps {α : Type} (g : State → α) (h : ∀ s m p l, g { s with mem := m, poison := p, latent := l } = g s) (s : State) (d : Nat) :
    g (memoryZeroed s d) = g s := ite_keeps (g := g) rfl (h ..)

theorem rd8_memoryZeroed (hst : (s.die d).power.st ≠ .s3) (a : Nat) :
    rd8 (memoryZeroed s d) a = if ownMemory d a then 0 else rd8 s a := by
  have hmem : (memoryZeroed s d).mem = s.mem.filter (fun e => !ownMemory d e.1) := by rw [memoryZeroed, if_neg hst]
  rw [rd8, hmem, Tab.get, find?_filter_key s.mem (fun k => !ownMemory d k) a]
  cases ownMemory d a <;> rfl

theorem power_unitsFenced (s : State) (d : Nat) (fenced : List Nat) : ((unitsFenced s d fenced).die d).power = (s.die d).power := by
  rw [unitsFenced, State.die_modDie_self]

theorem power_trainStacks (s : State) (d : Nat) : ((trainStacks s d).die d).power = (s.die d).power := by
  refine trainStacks_keeps (fun s => (s.die d).power) (fun _ _ => rfl) (fun s e f => ?_) s d
  rw [State.die_modDie]
  split
  · rename_i h; rw [h]
  · rfl

/-! The links of a die have been trained (R390 to R392) -/

/-- The die is ready and its fields of the identity record are written. -/
def linksTrained (s : State) (d : Nat) (key : Bool) : State :=
  let s := putIdent (s.modDie d (fun x => { x with bring := .ready })) (32 + 32 * d) (identDie s d)
  if d = 0 then identPart (s.modMgmt (fun m => { m with nokey := !key })) key else s

theorem links_eq {key : Bool} (h : atStep s d .links = true) : exec (.links d true key) s = .next
    (if ((settlePhase (linksTrained s d key)).die d).power.exiting then
      (settlePhase (linksTrained s d key)).soon (.event (.powerExitComplete d)) else settlePhase (linksTrained s d key)) := by
  show execLinks d true key s = _
  rw [execLinks, h]
  rfl

theorem linksTrained_keeps {α : Type} (g : State → α) (hi : ∀ s o bs, g (putIdent s o bs) = g s)
    (hm : ∀ s k, g (State.modMgmt s (fun m => { m with nokey := k })) = g s) (hd : ∀ s n, g { s with draws := n } = g s)
    (s : State) (d : Nat) (key : Bool) : g (linksTrained s d key) = g (s.modDie d (fun x => { x with bring := .ready })) := by
  refine ite_keeps (g := g) ?_ (hi ..)
  exact (hi ..).trans ((hi ..).trans ((hd ..).trans ((hm ..).trans (hi ..))))

theorem links_keeps {α : Type} (g : State → α) (hs : ∀ s i, g (State.soon s i) = g s) (s : State) (d : Nat) (key : Bool) :
    g (if ((settlePhase (linksTrained s d key)).die d).power.exiting then
      (settlePhase (linksTrained s d key)).soon (.event (.powerExitComplete d)) else settlePhase (linksTrained s d key)) =
      g (settlePhase (linksTrained s d key)) := ite_keeps (g := g) (hs ..) rfl

/-- Once the last die has finished the phase is READY. -/
theorem phase_settlePhase (hp : s.mgmt.phase = .links)
    (h : ∀ k < 4, dieAbsent s k = true ∨ (s.die k).bring = .ready ∨ (s.die k).bring = .fenced) : (settlePhase s).mgmt.phase = .ready := by
  have hall : dies4.all (fun d => dieAbsent s d || decide ((s.die d).bring = .ready) || decide ((s.die d).bring = .fenced)) = true := by
    refine List.all_eq_true.2 fun k hk => ?_
    have hk4 : k < 4 := by
      have := List.mem_range.1 (show k ∈ List.range 4 from hk)
      omega
    rcases h k hk4 with h | h | h
    · rw [h]; rfl
    · rw [decide_eq_true h, Bool.or_true]; rfl
    · rw [decide_eq_true h, Bool.or_true]
  rw [settlePhase, if_pos ⟨hp, hall⟩]
  rfl

/-- The time given at power-on is the clock's of the state that the step leaves. -/
theorem upBy_powerOn (s : State) (d : Nat) :
    ((bringNext (powerGiven s d) d .firmware .firmware 3 (firmwareFinds d)).die d).power.upBy =
      s.now + cyclesOf (bringNext (powerGiven s d) d .firmware .firmware 3 (firmwareFinds d)) (upTime s d) := by
  obtain ⟨-, -, -, hpower⟩ := bringNext_spec (b := .firmware) (p := .firmware) (left := 3) (firmwareFinds_draws d) (powerGiven s d) d
  have hsteps : ((bringNext (powerGiven s d) d .firmware .firmware 3 (firmwareFinds d)).die 0).power.steps = ((powered s d).die 0).power.steps := by
    rw [hpower, steps_powerGiven]
  rw [hpower, die_powerGiven, cyclesOf_congr hsteps]

theorem firmwareCode_of_newer (h : s.mgmt.flash.rollback ≤ s.mgmt.flash.fwver) : firmwareCode s 0 = 0 := by
  rw [firmwareCode, if_neg (by decide), if_neg (BitVec.not_lt.2 h)]

theorem firmwareCode_of_failed {f : Nat} (h : f = 1 ∨ f = 3) : firmwareCode s f = f := if_pos h

theorem firmwareCode_of_older (h : s.mgmt.flash.fwver < s.mgmt.flash.rollback) : firmwareCode s 0 = 2 := by
  rw [firmwareCode, if_neg (by decide), if_pos h]

theorem mem_unitsFenced (s : State) (d : Nat) (fenced : List Nat) (k : Nat) :
    k ∈ ((unitsFenced s d fenced).die d).fenced ↔ k ∈ fenced ∨ k ∈ Tab.get [] s.mgmt.flash.fenced d := by
  rw [unitsFenced, State.die_modDie_self]
  simp

/-- The phase, the dies and the form that the links' training leaves. -/
theorem linksTrained_dies (s : State) (d : Nat) (key : Bool) : (linksTrained s d key).dies = (s.modDie d (fun x => { x with bring := .ready })).dies :=
  linksTrained_keeps State.dies (fun _ _ _ => rfl) (fun _ _ => rfl) (fun _ _ => rfl) s d key

theorem bring_linksTrained (s : State) (d k : Nat) (key : Bool) :
    ((linksTrained s d key).die k).bring = if k = d then .ready else (s.die k).bring := by
  rw [State.die, linksTrained_dies]
  refine (congrArg Die.bring (State.die_modDie s d k fun x => { x with bring := .ready })).trans ?_
  split <;> rfl

theorem nokey_linksTrained (s : State) (key : Bool) : (settlePhase (linksTrained s 0 key)).mgmt.nokey = !key := by
  rw [settlePhase_keeps (fun s => s.mgmt.nokey) (fun _ => rfl) (linksTrained s 0 key), linksTrained, if_pos rfl]
  rfl

/-- Settles a clause of O46: the bring-up of a die, step by step. -/
theorem bringsUp : Claims.BringsUp := by
  refine ⟨?_, ?_, ?_, ?_, ?_, ?_, ?_, ?_⟩
  · intro s d hd ha hp hb
    obtain ⟨⟨n, hn, hlt, hle⟩, hdie, -, hpower⟩ :=
      bringNext_spec (b := .firmware) (p := .firmware) (left := 3) (firmwareFinds_draws d) (powerGiven s d) d
    rw [now_powerGiven] at hlt hle
    exact ⟨_, n, _, powerOn_eq hd ha hp hb, by rw [hdie], hn, upBy_powerOn s d, hlt, by rw [hpower]; exact hle⟩
  · intro s d h hv
    obtain ⟨⟨n, hn, hlt, hle⟩, hdie, hmem, -⟩ :=
      bringNext_spec (b := .selftest) (p := .selftest) (left := 2) (selftestFinds_draws d) s d
    exact ⟨_, n, _, _, firmware_eq h (firmwareCode_of_newer hv), by rw [hdie], hn, hlt, hle, hmem⟩
  · intro s hb
    refine ⟨fun f hf => ⟨_, firmware_fails (atStep_zero hb) (firmwareCode_of_failed hf) (by omega), ?_, ?_⟩,
      fun hv => ⟨_, firmware_fails (atStep_zero hb) (firmwareCode_of_older hv) (by decide), ?_, ?_⟩⟩
    all_goals rw [bringFail_zero]; rfl
  · intro s fenced key
    refine ⟨fun hb => ⟨_, selftest_fails (atStep_zero hb), ?_, ?_⟩, fun hb => ⟨_, memory_fails (atStep_zero hb), ?_, ?_⟩,
      fun hb => ⟨_, links_fails (atStep_zero hb), ?_, ?_⟩⟩
    all_goals rw [bringFail_zero]; rfl
  · intro s d i fenced key hd hp hi
    have hfail : ∃ c, exec i s = .next (bringFail s d c) := by
      rcases hi with ⟨hb, rfl | rfl⟩ | ⟨hb, rfl⟩ | ⟨hb, rfl⟩ | ⟨hb, rfl⟩
      · exact ⟨1, firmware_fails (atStep_of_running hb hp) (firmwareCode_of_failed (.inl rfl)) (by decide)⟩
      · exact ⟨3, firmware_fails (atStep_of_running hb hp) (firmwareCode_of_failed (.inr rfl)) (by decide)⟩
      · exact ⟨4, selftest_fails (atStep_of_running hb hp)⟩
      · exact ⟨6, memory_fails (atStep_of_running hb hp)⟩
      · exact ⟨5, links_fails (atStep_of_running hb hp)⟩
    obtain ⟨c, hexec⟩ := hfail
    exact ⟨_, hexec, bringFail_other hd s c⟩
  · intro s d fenced h
    obtain ⟨⟨n, hn, hlt, hle⟩, hdie, -, -⟩ :=
      bringNext_spec (b := .memory) (p := .memory) (left := 1) (memoryFinds_draws d) (unitsFenced s d fenced) d
    rw [power_unitsFenced] at hle
    exact ⟨_, n, _, selftest_eq h, by rw [hdie], fun k => by rw [hdie]; exact mem_unitsFenced s d fenced k, hn, hlt, hle⟩
  · intro s d h hs
    obtain ⟨⟨n, hn, hlt, hle⟩, hdie, hmem, -⟩ :=
      bringNext_spec (b := .links) (p := .links) (left := 0) (linksFind_draws d) (memoryZeroed (trainStacks s d) d) d
    have hnow : (memoryZeroed (trainStacks s d) d).now = s.now :=
      (memoryZeroed_keeps State.now (fun _ _ _ _ => rfl) ..).trans (trainStacks_keeps State.now (fun _ _ => rfl) (fun _ _ _ => rfl) ..)
    have hpower : ((memoryZeroed (trainStacks s d) d).die d).power = (s.die d).power :=
      (memoryZeroed_keeps (fun s => (s.die d).power) (fun _ _ _ _ => rfl) ..).trans (power_trainStacks s d)
    have htrain : (trainStacks s d).mem = s.mem := trainStacks_keeps State.mem (fun _ _ => rfl) (fun _ _ _ => rfl) ..
    rw [hnow] at hlt hle
    rw [hpower] at hle
    refine ⟨_, n, _, _, memory_eq h hs, by rw [hdie], hn, hlt, hle, fun hst a => ?_, fun hst => ?_⟩
    · rw [rd8_congr hmem, rd8_memoryZeroed (by rw [power_trainStacks]; exact hst), rd8_congr htrain]
    · rw [hmem, memoryZeroed, if_pos (by rw [power_trainStacks]; exact hst), htrain]
  · intro s d key h
    have hdies (k : Nat) : (settlePhase (linksTrained s d key)).die k = (linksTrained s d key).die k :=
      settlePhase_keeps (State.die · k) (fun _ => rfl) _
    refine ⟨_, links_eq h, ?_, ?_, fun hp hothers => ?_, fun h0 => ?_⟩
    · rw [links_keeps (fun s => (s.die d).bring) (fun _ _ => rfl) s d key]
      exact (congrArg Die.bring (hdies d)).trans ((bring_linksTrained ..).trans (if_pos rfl))
    · rw [links_keeps State.mem (fun _ _ => rfl) s d key, settlePhase_keeps State.mem (fun _ => rfl) (linksTrained s d key)]
      exact linksTrained_keeps State.mem (fun _ _ _ => rfl) (fun _ _ => rfl) (fun _ _ => rfl) s d key
    · have hform : (linksTrained s d key).mgmt.form = s.mgmt.form :=
        linksTrained_keeps (fun s => s.mgmt.form) (fun _ _ _ => rfl) (fun _ _ => rfl) (fun _ _ => rfl) s d key
      have hphase : (linksTrained s d key).mgmt.phase = s.mgmt.phase :=
        linksTrained_keeps (fun s => s.mgmt.phase) (fun _ _ _ => rfl) (fun _ _ => rfl) (fun _ _ => rfl) s d key
      rw [links_keeps (fun s => s.mgmt.phase) (fun _ _ => rfl) s d key]
      refine phase_settlePhase (hphase.trans hp) fun k hk => ?_
      rw [dieAbsent, hform, bring_linksTrained]
      by_cases hkd : k = d
      · rw [if_pos hkd]
        exact .inr (.inl rfl)
      · rw [if_neg hkd]
        exact hothers k hk hkd
    · subst h0
      rw [links_keeps (fun s => s.mgmt.nokey) (fun _ _ => rfl) s 0 key]
      exact nokey_linksTrained s key

end

/-- Settles O46: power states, limits, thermal steps, the lifetime record, and the bring-up of a die. -/
theorem powerAndBringUp : Obligations.PowerAndBringUp := ⟨powerStates, bringsUp⟩

end Sys2Proof.Safety
end

section
/-! Host accesses, the management window, the grant map, attestation and soft errors (O45). -/

open Sys2Proof Sys2Proof.Machine
namespace Sys2Proof.Safety

section
variable {s t : State} {d : Nat}

/-! Wakes of written bytes -/

theorem wakeAll_keeps {α : Type} (g : State → α) (h : ∀ s i, g (State.soon s i) = g s) (s : State) (evs : List Event) :
    g (wakeAll s evs) = g s := plan_keeps g h _ s

theorem planned_plan_mono {e : Event} (h : s.planned e = true) (i : Event) :
    (if s.planned i then s else s.soon (.event i)).planned e = true := by
  split
  · exact h
  · rcases Bool.or_eq_true_iff.1 h with hc | ha
    · exact Bool.or_eq_true_iff.2 (.inl hc)
    · refine Bool.or_eq_true_iff.2 (.inr ?_)
      rw [State.soon, List.any_append, ha, Bool.true_or]

theorem planned_foldl_plan {e : Event} (evs : List Event) : ∀ s : State, s.planned e = true ∨ e ∈ evs →
    (evs.foldl (fun s i => if s.planned i then s else s.soon (.event i)) s).planned e = true := by
  induction evs with
  | nil => exact fun s h => h.resolve_right List.not_mem_nil
  | cons i evs ih =>
    intro s h
    refine ih _ ?_
    rcases h with h | h
    · exact .inl (planned_plan_mono h i)
    · rcases List.mem_cons.1 h with rfl | h
      · left
        dsimp only
        split
        · assumption
        · exact planned_soon ..
      · exact .inr h

/-- What is to be woken is planned. -/
theorem planned_wakeAll {e : Event} {evs : List Event} (h : e ∈ evs) (s : State) : (wakeAll s evs).planned e = true :=
  planned_foldl_plan _ _ (.inr (List.mem_eraseDups.2 h))

/-! Host accesses (R264, R386) -/

theorem l2Line_setL2_self (s : State) (line : Nat) (x : L2Line) : l2Line (setL2 s line x) line = x := by
  rw [l2Line, setL2, Tab.get_set, if_pos rfl]

theorem l2Line_setL2_ne {k line : Nat} (h : k ≠ line) (s : State) (x : L2Line) : l2Line (setL2 s line x) k = l2Line s k := by
  rw [l2Line, setL2, Tab.get_set, if_neg h, l2Line]

/-- A byte of HBM4 or LPDDR6 needs no backing by the host. -/
theorem unbackedAt_of_deviceTier {a : Nat} (h : deviceTier s a = true) : unbackedAt s a = false := by
  unfold deviceTier at h
  unfold unbackedAt
  cases ht : tierOf s a <;> simp_all

theorem poisoned_congr (hp : t.poison = s.poison) (hu : t.unbacked = s.unbacked) (hi : t.mgmt.ident = s.mgmt.ident) (pa n : Nat) :
    poisoned t pa n = poisoned s pa n := by
  simp only [poisoned, unbackedAt, hp, hu, tierOf_congr hi]

theorem besideErrors_correctWords (s : State) (f : ErrLoc → Bool) : besideErrors (correctWords s f) = besideErrors s := by
  unfold correctWords
  refine ite_keeps (g := besideErrors) rfl ((foldl_keeps _ besideErrors (fun s e => ?_) _ _).trans rfl)
  cases e with
  | memory pa => exact ite_keeps (g := besideErrors) rfl rfl
  | _ => rfl

theorem latent_correctWords (s : State) (f : ErrLoc → Bool) : (correctWords s f).latent = s.latent.filter (fun e => !f e) := by
  unfold correctWords
  split
  · next h => rw [h]; rfl
  · refine (foldl_keeps _ State.latent (fun s e => ?_) _ _).trans rfl
    cases e with
    | memory pa => exact ite_keeps (g := State.latent) rfl rfl
    | _ => rfl

/-- The state from which a snoop's wakes are taken. -/
def snooped (s : State) (line : Nat) (inval : Bool) : State :=
  setL2 (wakeDie s 0) line { l2Line s line with st := if inval then .i else if (l2Line s line).st = .i then .i else .s, dirty := false }

theorem snooped_keeps {α : Type} (g : State → α) (h : ∀ s i, g (State.soon s i) = g s) (hs : ∀ s k x, g (setL2 s k x) = g s)
    (s : State) (line : Nat) (inval : Bool) : g (snooped s line inval) = g s := (hs ..).trans (wakeDie_keeps g h s 0)

theorem hostSnoop_eq {line : Nat} (h : hostTier s (128 * line) = true) (inval : Bool) : exec (.hostSnoop line inval) s = .next
    (if inval then wakeAll (snooped s line inval) ((List.range 128).flatMap (fun i => wakes (snooped s line inval) (128 * line + i)))
     else snooped s line inval) := by
  show execHostSnoop line inval s = _
  rw [execHostSnoop, if_neg (by simp [h])]
  rfl

/-- A request served at the home slices. -/
def cxlServed (w : State) : CxlReq → State
  | .read pa shared =>
    let c := correctWords w (fun e => match globalWord e with | some w => decide (w / 8 = pa / 64) | none => false)
    answerHost (if shared then setL2 c (pa / 128) { l2Line c (pa / 128) with host := true } else c) pa
  | .write pa bs => sliceWrite w (run pa bs)

/-- A request for device memory is held for a die in S3, and served elsewhere. -/
theorem cxlMemRequest_eq {r : CxlReq} (h : (reqSpan r).all (deviceTier s) = true) : exec (.cxlMemRequest r) s = .next
    (if (s.die (homeDie (reqAddr r))).power.st = .s3 then
       (wakeDie s (homeDie (reqAddr r))).modDie (homeDie (reqAddr r)) (fun x => { x with held := x.held ++ [.cxlMemRequest r] })
     else cxlServed (wakeDie s (homeDie (reqAddr r))) r) := by
  show execCxlMemRequest r s = _
  have hd : (wakeDie s (homeDie (reqAddr r))).die = s.die := wakeDie_keeps State.die (fun _ _ => rfl) ..
  rw [execCxlMemRequest, if_neg (by simp [h])]
  dsimp only
  rw [hd]
  cases r <;> rfl

theorem writes_of_cxl {pa : Nat} {bs : List Byte} (h : (reqSpan (.write pa bs)).all (deviceTier s) = true)
    (hp : (s.die (homeDie pa)).power.st ≠ .s3) : ∃ t, exec (.cxlMemRequest (.write pa bs)) s = .next t ∧ rdBytes t pa bs.length = bs ∧
      ∀ a, ¬ (pa ≤ a ∧ a < pa + bs.length) → rd8 t a = rd8 s a := by
  have hmgmt := wakeDie_keeps State.mgmt (fun _ _ => rfl) s (homeDie pa)
  have hun := wakeDie_keeps State.unbacked (fun _ _ => rfl) s (homeDie pa)
  have hmem := wakeDie_keeps State.mem (fun _ _ => rfl) s (homeDie pa)
  refine ⟨sliceWrite (wakeDie s (homeDie pa)) (run pa bs), ?_, rdBytes_sliceWrite_run fun i hi => ?_, fun a ha => ?_⟩
  · rw [cxlMemRequest_eq h]
    exact congrArg _ (if_neg hp)
  · rw [unbackedAt_congr hun hmgmt]
    exact unbackedAt_of_deviceTier (List.all_eq_true.1 h _ (List.mem_map.2 ⟨i, List.mem_range.2 hi, rfl⟩))
  · rw [rd8_sliceWrite_run_of_outside (by omega), rd8_congr hmem]

theorem mem_of_besideErrors (h : besideErrors t = besideErrors s) : t.mem = s.mem := (congrArg State.mem h :)

/-- The line of a read, shared with the host where the read asks for it. -/
theorem reads_of_cxl {pa : Nat} {shared : Bool} (h : (reqSpan (.read pa shared)).all (deviceTier s) = true)
    (hp : (s.die (homeDie pa)).power.st ≠ .s3) : ∃ t, exec (.cxlMemRequest (.read pa shared)) s = .next t ∧ t.mem = s.mem ∧
      (shared = true → (l2Line t (pa / 128)).host = true) ∧
      t.mgmt.cxl.answer = some { pa := pa / 64 * 64, data := rdBytes s (pa / 64 * 64) 64, poison := poisoned s (pa / 64 * 64) 64 } := by
  rw [cxlMemRequest_eq h, if_neg (show ¬ (s.die (homeDie (reqAddr (.read pa shared)))).power.st = .s3 from hp), cxlServed]
  have hc := besideErrors_correctWords (wakeDie s (homeDie (reqAddr (.read pa shared))))
    (fun e => match globalWord e with | some w => decide (w / 8 = pa / 64) | none => false)
  generalize correctWords (wakeDie s (homeDie (reqAddr (.read pa shared)))) _ = c at hc ⊢
  have hmem : c.mem = s.mem := (congrArg State.mem hc :).trans (wakeDie_keeps State.mem (fun _ _ => rfl) ..)
  have hpoison : c.poison = s.poison := (congrArg State.poison hc :).trans (wakeDie_keeps State.poison (fun _ _ => rfl) ..)
  have hun : c.unbacked = s.unbacked := (congrArg State.unbacked hc :).trans (wakeDie_keeps State.unbacked (fun _ _ => rfl) ..)
  have hident : c.mgmt.ident = s.mgmt.ident :=
    (congrArg (fun s => s.mgmt.ident) hc :).trans (wakeDie_keeps (fun s => s.mgmt.ident) (fun _ _ => rfl) ..)
  refine ⟨_, rfl, ?_, fun hs => ?_, ?_⟩
  · cases shared <;> exact hmem
  · subst hs
    exact congrArg L2Line.host (l2Line_setL2_self ..)
  · have hdata : ∀ u : State, u.mem = s.mem → u.poison = s.poison → u.unbacked = s.unbacked → u.mgmt.ident = s.mgmt.ident →
        (answerHost u pa).mgmt.cxl.answer =
          some { pa := pa / 64 * 64, data := rdBytes s (pa / 64 * 64) 64, poison := poisoned s (pa / 64 * 64) 64 } := by
      intro u hm hp hu hi
      rw [← rdBytes_congr hm, ← poisoned_congr hp hu hi]
      rfl
    cases shared <;> exact hdata _ hmem hpoison hun hident

/-- Snoops and CXL.mem requests (R264, R386). -/
theorem hostAccesses : Claims.HostAccesses := by
  refine ⟨fun s line inval h => ?_, fun s pa bs h hp => writes_of_cxl h hp, fun s pa shared h hp => reads_of_cxl h hp,
    fun s r h hp => ?_⟩
  · refine ⟨_, hostSnoop_eq h inval, ?_, ?_, ?_, fun k hk => ?_⟩
    · exact (ite_keeps (g := State.mem) (wakeAll_keeps _ (fun _ _ => rfl) ..) rfl).trans
        (snooped_keeps State.mem (fun _ _ => rfl) (fun _ _ _ => rfl) ..)
    · exact (ite_keeps (g := State.units) (wakeAll_keeps _ (fun _ _ => rfl) ..) rfl).trans
        (snooped_keeps State.units (fun _ _ => rfl) (fun _ _ _ => rfl) ..)
    · exact (ite_keeps (g := (l2Line · line)) (wakeAll_keeps (l2Line · line) (fun _ _ => rfl) ..) rfl).trans (l2Line_setL2_self ..)
    · refine (ite_keeps (g := (l2Line · k)) (wakeAll_keeps (l2Line · k) (fun _ _ => rfl) ..) rfl).trans ?_
      exact (l2Line_setL2_ne hk ..).trans (wakeDie_keeps (l2Line · k) (fun _ _ => rfl) ..)
  · refine ⟨(wakeDie s (homeDie (reqAddr r))).modDie (homeDie (reqAddr r)) (fun x => { x with held := x.held ++ [.cxlMemRequest r] }),
      ?_, ?_, ?_⟩
    · rw [cxlMemRequest_eq h]
      exact congrArg _ (if_pos hp)
    · exact wakeDie_keeps State.mem (fun _ _ => rfl) ..
    · rw [State.die_modDie_self]
      exact congrArg (fun f : Nat → Die => (f (homeDie (reqAddr r))).held ++ [.cxlMemRequest r])
        (wakeDie_keeps State.die (fun _ _ => rfl) ..)

/-! The management window (R388, R389) -/

/-- An aligned write of a window that takes writes. -/
theorem mgmtWindowWrite_eq {off size : Nat} (ha : windowAccess off size = true) (hw : windowOpen s = true) (v : Nat) :
    exec (.mgmtWindowWrite off size v) s = .next
      (if size = 8 then writeWindowWord (writeWindowWord s off (w32 v)) (off + 4) (w32 (v / 2 ^ 32)) else writeWindowWord s off (w32 v)) := by
  show execMgmtWindowWrite off size v s = _
  rw [execMgmtWindowWrite, if_neg (by simp [ha, hw])]

theorem mgmtWindowWrite_of_closed {off size : Nat} (h : windowAccess off size = false ∨ windowOpen s = false) (v : Nat) :
    exec (.mgmtWindowWrite off size v) s = .next s := by
  show execMgmtWindowWrite off size v s = _
  rw [execMgmtWindowWrite, if_pos (by rcases h with h | h <;> simp [h])]

theorem windowOpen_of_ready (h : s.mgmt.phase = .ready) : windowOpen s = true := decide_eq_true (.inl h)

theorem windowOpen_of_running (h : s.mgmt.phase = .running) : windowOpen s = true := decide_eq_true (.inr h)

/-- Two words of 32 bits give the 64 bits of a number. -/
theorem halves_eq (b v : Nat) :
    (w32 (v / 2 ^ 32)).toNat * 2 ^ 32 + (b / 2 ^ 32 * 2 ^ 32 + (w32 v).toNat) % 2 ^ 32 = v % 2 ^ 64 := by
  have hw (n : Nat) : (w32 n).toNat = n % 2 ^ 32 := BitVec.toNat_ofNat ..
  rw [hw, hw]
  omega

theorem mgmt_modMgmt (s : State) (f : Mgmt → Mgmt) : (s.modMgmt f).mgmt = f s.mgmt := rfl

theorem mem_modMgmt (s : State) (f : Mgmt → Mgmt) : (s.modMgmt f).mem = s.mem := rfl

theorem writeWindowWord_low (h : s.mgmt.phase = .ready) (v : Word) :
    writeWindowWord s 8 v = s.modMgmt (fun m => { m with ctxbase := s.mgmt.ctxbase / 2 ^ 32 * 2 ^ 32 + v.toNat }) := by
  rw [writeWindowWord, if_pos rfl, if_pos h]

theorem writeWindowWord_high (h : s.mgmt.phase = .ready) (v : Word) :
    writeWindowWord s 12 v = s.modMgmt (fun m => { m with ctxbase := v.toNat * 2 ^ 32 + s.mgmt.ctxbase % 2 ^ 32 }) := by
  rw [writeWindowWord, if_neg (by decide), if_pos rfl, if_pos h]

theorem writes_ctxbase (h : s.mgmt.phase = .ready) (v : Nat) :
    ∃ t, exec (.mgmtWindowWrite 8 8 v) s = .next t ∧ t.mgmt.ctxbase = v % 2 ^ 64 ∧ t.mem = s.mem := by
  refine ⟨_, (mgmtWindowWrite_eq (by decide) (windowOpen_of_ready h) v).trans (congrArg Host.Outcome.next (if_pos rfl)), ?_⟩
  have hlow := writeWindowWord_low h (w32 v)
  have hphase : (writeWindowWord s 8 (w32 v)).mgmt.phase = .ready := by rw [hlow, mgmt_modMgmt, h]
  have hbase : (writeWindowWord s 8 (w32 v)).mgmt.ctxbase = s.mgmt.ctxbase / 2 ^ 32 * 2 ^ 32 + (w32 v).toNat := by rw [hlow, mgmt_modMgmt]
  have hmem : (writeWindowWord s 8 (w32 v)).mem = s.mem := by rw [hlow, mem_modMgmt]
  rw [show 8 + 4 = 12 from rfl, writeWindowWord_high hphase, mgmt_modMgmt, mem_modMgmt, hbase, halves_eq]
  exact ⟨rfl, hmem⟩

theorem writeWindowWord_ctxbase_of_not_ready (h : s.mgmt.phase ≠ .ready) (v : Word) :
    writeWindowWord s 8 v = s ∧ writeWindowWord s 12 v = s := by
  simp [writeWindowWord, h]

theorem writeCtl0_of_not {v : Word} (h : ¬ (v.getLsbD 0 = true ∧ s.mgmt.phase = .ready ∧ baseOk s s.mgmt.ctxbase = true)) :
    writeCtl0 s v = s := if_neg h

theorem mgmtWindowWrite_ctl (s : State) (v : Nat) : exec (.mgmtWindowWrite 0x10 4 v) s = exec (.go (w32 v)) s := by
  by_cases hw : windowOpen s = true
  · rw [mgmtWindowWrite_eq (by decide) hw]
    rfl
  · rw [mgmtWindowWrite_of_closed (.inr (by simpa using hw))]
    refine congrArg Host.Outcome.next (writeCtl0_of_not fun h => hw (windowOpen_of_ready h.2.1)).symm

theorem windowAccess_word {off : Nat} (h : off % 4 = 0) (hl : off + 4 ≤ 65536) : windowAccess off 4 = true := by
  simp [windowAccess, h, hl]

/-- A word written to a die's register of tolerance or of clock limit. -/
theorem mgmtWindowWrite_power (hd : d < 4) (s : State) (v : Nat) :
    exec (.mgmtWindowWrite (0x20 + 4 * d) 4 v) s = exec (.lattolWrite d (w32 v)) s ∧
    exec (.mgmtWindowWrite (0x40 + 4 * d) 4 v) s = exec (.clklimWrite d (w32 v)) s := by
  have hlat : writeWindowWord s (0x20 + 4 * d) (w32 v) = setLattol s d (w32 v) := by
    simp only [writeWindowWord]
    rw [if_neg (by omega), if_neg (by omega), if_neg (by omega), if_pos (by omega), show (32 + 4 * d - 32) / 4 = d by omega]
  have hclk : writeWindowWord s (0x40 + 4 * d) (w32 v) = setClklim s d (w32 v) := by
    simp only [writeWindowWord]
    rw [if_neg (by omega), if_neg (by omega), if_neg (by omega), if_neg (by omega), if_pos (by omega), show (64 + 4 * d - 64) / 4 = d by omega]
  by_cases hw : windowOpen s = true
  · rw [mgmtWindowWrite_eq (windowAccess_word (by omega) (by omega)) hw, mgmtWindowWrite_eq (windowAccess_word (by omega) (by omega)) hw,
      if_neg (by decide), if_neg (by decide), hlat, hclk]
    exact ⟨congrArg Host.Outcome.next (if_pos hw).symm, congrArg Host.Outcome.next (if_pos hw).symm⟩
  · rw [mgmtWindowWrite_of_closed (.inr (by simpa using hw)), mgmtWindowWrite_of_closed (.inr (by simpa using hw))]
    exact ⟨congrArg Host.Outcome.next (if_neg hw).symm, congrArg Host.Outcome.next (if_neg hw).symm⟩

theorem goes {v : Word} (h : v.getLsbD 0 = true ∧ s.mgmt.phase = .ready ∧ baseOk s s.mgmt.ctxbase = true) :
    ∃ t, exec (.go v) s = .next t ∧ t.mgmt = { s.mgmt with phase := .running } ∧ t.mem = s.mem ∧ t.units = s.units ∧
      ∀ d < 4, t.planned (.fabricBlockWrite d) = true := by
  refine ⟨startDevice s, congrArg Host.Outcome.next (if_pos h), ?_, ?_, ?_, fun d hd => planned_wakeAll ?_ _⟩
  · exact wakeAll_keeps State.mgmt (fun _ _ => rfl) ..
  · exact wakeAll_keeps State.mem (fun _ _ => rfl) ..
  · exact wakeAll_keeps State.units (fun _ _ => rfl) ..
  · exact List.mem_append_left _ (List.mem_map.2 ⟨d, by simp only [dies4, List.mem_cons]; omega, rfl⟩)

/-- Writes of the management window (R388, R389). -/
theorem managementWindow : Claims.ManagementWindow := by
  refine ⟨fun s v h => writes_ctxbase h v, fun s v h => ?_, fun s off size v h => mgmtWindowWrite_of_closed h v,
    mgmtWindowWrite_ctl, fun s d v hd => mgmtWindowWrite_power hd s v, fun s v hv hp hb => goes ⟨hv, hp, hb⟩,
    fun s v h => congrArg Host.Outcome.next (writeCtl0_of_not h)⟩
  have hkeep (v : Word) := writeWindowWord_ctxbase_of_not_ready (s := s) (by simp [h]) v
  rw [mgmtWindowWrite_eq (by decide) (windowOpen_of_running h), if_pos rfl, (hkeep _).1, (hkeep _).2]

/-! The grant map (R397) -/

/-- The calendar keeps what stands in it. -/
theorem mem_calendar_carryAll {e : Nat × Turn} (ctx : Nat) (on : Bool) (sites : List Nat) : ∀ s : State, e ∈ s.calendar →
    e ∈ (sites.foldl (fun s k => carryGrant s ctx on k) s).calendar := by
  induction sites with
  | nil => exact fun _ h => h
  | cons k sites ih => exact fun s h => ih _ (List.mem_append_left _ h)

theorem carryAll_keeps {α : Type} (g : State → α) (h : ∀ s ctx on k, g (carryGrant s ctx on k) = g s) (s : State) (ctx : Nat) (on : Bool)
    (sites : List Nat) : g (sites.foldl (fun s k => carryGrant s ctx on k) s) = g s := foldl_keeps _ g (fun _ _ => h ..) _ _

/-- A bit carried to sites is on its way to each. -/
theorem carries_to (ctx : Nat) (on : Bool) {k : Nat} (sites : List Nat) (hk : k ∈ sites) : ∀ s : State,
    ∃ n, s.now < n ∧ (n, Turn.event (.grantArrival k ctx on)) ∈ (sites.foldl (fun s k => carryGrant s ctx on k) s).calendar := by
  induction sites with
  | nil => exact absurd hk List.not_mem_nil
  | cons j sites ih =>
    intro s
    rcases List.mem_cons.1 hk with rfl | hk
    · refine ⟨max (s.now + 1 + Config.latency s.draws % 4096) (grantDue s k ctx), by omega, ?_⟩
      exact mem_calendar_carryAll ctx on sites (carryGrant s ctx on k) (List.mem_append_right _ List.mem_cons_self)
    · exact ih hk (carryGrant s ctx on j)

/-- Die 0 takes one bit of a byte of the map. -/
def takeGrant (byte v : Nat) (s : State) (i : Nat) : State :=
  if (s.die 0).grants.contains (8 * byte + i) = bit v i then s
  else
    (dies4.flatMap sitesOf).foldl (fun s k => carryGrant s (8 * byte + i) (bit v i) k)
      (s.modDie 0 (fun x => { x with
        grants := if bit v i then (8 * byte + i) :: x.grants else x.grants.filter (· ≠ 8 * byte + i) }))

theorem grantMapWrite_eq {byte : Nat} (hb : byte < 8192) (h : s.mgmt.phase = .running) : exec (.grantMapWrite byte) s =
    .next ((List.range 8).foldl (takeGrant byte (rd8 s (s.tableBase + 0x1028000 + byte)).toNat) s) := by
  show execGrantMapWrite byte s = _
  rw [execGrantMapWrite, if_neg (by simp [h]; omega)]
  rfl

theorem takeGrant_keeps {α : Type} (g : State → α) (h : ∀ s ctx on k, g (carryGrant s ctx on k) = g s)
    (hd : ∀ (s : State) d f, g (s.modDie d f) = g s) (byte v : Nat) (s : State) (i : Nat) : g (takeGrant byte v s i) = g s :=
  ite_keeps (g := g) rfl ((carryAll_keeps g h ..).trans (hd ..))

theorem mem_grants_takeGrant (byte v : Nat) (s : State) (i c : Nat) : c ∈ ((takeGrant byte v s i).die 0).grants ↔
    if c = 8 * byte + i then bit v i = true else c ∈ (s.die 0).grants := by
  unfold takeGrant
  split
  · next h =>
    split
    · next hc => rw [hc, ← h, List.contains_iff_mem]
    · rfl
  · rw [carryAll_keeps (fun s => (s.die 0).grants) (fun _ _ _ _ => rfl), State.die_modDie_self]
    by_cases hc : c = 8 * byte + i <;> cases hb : bit v i <;> simp [hc, List.mem_filter]

theorem mem_calendar_takeGrant {e : Nat × Turn} (byte v : Nat) (s : State) (i : Nat) (h : e ∈ s.calendar) :
    e ∈ (takeGrant byte v s i).calendar := by
  unfold takeGrant
  split
  · exact h
  · exact mem_calendar_carryAll _ _ _ _ h

/-- A bit that differs is carried to every site. -/
theorem takeGrant_sends {byte v i k : Nat} (h : (s.die 0).grants.contains (8 * byte + i) ≠ bit v i) (hk : k ∈ dies4.flatMap sitesOf) :
    ∃ m, s.now < m ∧ (m, Turn.event (.grantArrival k (8 * byte + i) (bit v i))) ∈ (takeGrant byte v s i).calendar := by
  rw [takeGrant, if_neg h]
  generalize dies4.flatMap sitesOf = sites at hk ⊢
  exact carries_to _ _ sites hk (s.modDie 0 _)

/-- What die 0 has done after the first `n` bits of a byte. -/
theorem takeGrants_spec (byte v : Nat) (s : State) (n : Nat) :
    let t := (List.range n).foldl (takeGrant byte v) s
    (∀ c, c ∈ (t.die 0).grants ↔ if 8 * byte ≤ c ∧ c < 8 * byte + n then bit v (c - 8 * byte) = true else c ∈ (s.die 0).grants) ∧
    ∀ i < n, ((s.die 0).grants.contains (8 * byte + i)) ≠ bit v i → ∀ k ∈ dies4.flatMap sitesOf,
      ∃ m, s.now < m ∧ (m, Turn.event (.grantArrival k (8 * byte + i) (bit v i))) ∈ t.calendar := by
  induction n with
  | zero => exact ⟨fun c => by simp, fun i hi => absurd hi (Nat.not_lt_zero i)⟩
  | succ n ih =>
    obtain ⟨hgrants, hsent⟩ := ih
    rw [List.range_succ, List.foldl_append, List.foldl_cons, List.foldl_nil]
    have hnow : ((List.range n).foldl (takeGrant byte v) s).now = s.now :=
      foldl_keeps _ State.now (takeGrant_keeps State.now (fun _ _ _ _ => rfl) (fun _ _ _ => rfl) byte v) _ _
    generalize (List.range n).foldl (takeGrant byte v) s = u at hgrants hsent hnow ⊢
    refine ⟨fun c => ?_, fun i hi hne k hk => ?_⟩
    · rw [mem_grants_takeGrant, hgrants]
      by_cases hc : c = 8 * byte + n
      · rw [if_pos hc, if_pos (by omega), show c - 8 * byte = n by omega]
      · rw [if_neg hc]
        exact iff_of_eq (if_congr (by omega) rfl rfl)
    · rcases Nat.lt_succ_iff_lt_or_eq.1 hi with hlt | rfl
      · obtain ⟨m, hm, hin⟩ := hsent i hlt hne k hk
        exact ⟨m, hm, mem_calendar_takeGrant _ _ _ _ hin⟩
      · have hsame : (u.die 0).grants.contains (8 * byte + i) = (s.die 0).grants.contains (8 * byte + i) := by
          rw [Bool.eq_iff_iff, List.contains_iff_mem, List.contains_iff_mem, hgrants, if_neg (by omega)]
        rw [← hnow]
        exact takeGrant_sends (by rwa [hsame]) hk

theorem grantArrival_grants (l : List Nat) (ctx : Nat) (on : Bool) (c : Nat) :
    c ∈ (if on then ctx :: l.filter (· ≠ ctx) else l.filter (· ≠ ctx)) ↔ if c = ctx then on = true else c ∈ l := by
  by_cases hc : c = ctx <;> cases on <;> simp [hc]

/-- The grant map (R397). -/
theorem grantMap : Claims.GrantMap := by
  refine ⟨fun s byte hb hp => ?_, fun s k ctx on => ?_⟩
  · obtain ⟨hgrants, hsent⟩ := takeGrants_spec byte (rd8 s (s.tableBase + 0x1028000 + byte)).toNat s 8
    refine ⟨_, grantMapWrite_eq hb hp, ?_, fun c => ?_, hsent⟩
    · exact foldl_keeps _ State.mem (takeGrant_keeps State.mem (fun _ _ _ _ => rfl) (fun _ _ _ => rfl) byte _) _ _
    · rw [hgrants]
      by_cases hc : c / 8 = byte
      · rw [if_pos hc, if_pos (by omega), show c - 8 * byte = c % 8 by omega]
      · rw [if_neg hc, if_neg (by omega)]
  · refine ⟨_, rfl, ite_keeps (g := State.units) rfl rfl, ite_keeps (g := State.mem) rfl rfl, fun hk c => ?_, fun hk c => ?_⟩
    · rw [if_pos hk, State.core_modCore_self]
      exact grantArrival_grants ..
    · rw [if_neg (by omega), State.score_modScore_self]
      exact grantArrival_grants ..

/-! Attestation (R393) -/

/-- A request that the negotiation must have come before is answered, and nothing else changes. -/
theorem afterAlgorithms_spec (s : State) (r : List Byte) :
    (afterAlgorithms s r).mgmt =
      { s.mgmt with spdm := { s.mgmt.spdm with response := if s.mgmt.spdm.algs then r else unexpectedRequest } } ∧
    (afterAlgorithms s r).units = s.units ∧ (afterAlgorithms s r).mem = s.mem := ⟨rfl, rfl, rfl⟩

theorem response_afterAlgorithms (h : s.mgmt.spdm.algs = true) (r : List Byte) : (afterAlgorithms s r).mgmt.spdm.response = r :=
  if_pos h

/-- Each request that needs the algorithms answers with some bytes of its own. -/
theorem exec_of_needsAlgorithms (s : State) {i : Instr} (h : i = .getDigests ∨ (∃ slot, i = .getCertificate slot) ∨
    (∃ slot nonce, i = .challenge slot nonce) ∨ ∃ index signed, i = .getMeasurements index signed) :
    ∃ r, exec i s = .next (afterAlgorithms s r) := by
  rcases h with rfl | ⟨_, rfl⟩ | ⟨_, _, rfl⟩ | ⟨_, _, rfl⟩ <;> exact ⟨_, rfl⟩

theorem getMeasurements_eq {index : Nat} {signed : Bool} (h : signed = false ∨ s.mgmt.nokey = false) :
    exec (.getMeasurements index signed) s = .next (afterAlgorithms s
      ((measurementsAsked index).elim invalidRequest (fun is => measurementReply s is signed))) := by
  show execGetMeasurements index signed s = _
  rw [execGetMeasurements, if_neg (by rcases h with h | h <;> simp [h])]
  cases measurementsAsked index <;> rfl

/-- The version request, capabilities, algorithms, and what follows them (R393). -/
theorem attestation : Claims.Attestation := by
  refine ⟨fun s => ⟨_, rfl, rfl, rfl, rfl⟩, fun s => ⟨_, rfl, fun h => ?_, fun h => ?_⟩,
    fun s => ⟨_, rfl, rfl, rfl, fun hc ho => ?_, fun hc ho => ?_, fun hc => ?_⟩, fun s i hi => ?_, fun s ha => ?_⟩
  · simp only [spdm, mgmt_modMgmt, h, if_true, and_self]
  · simp only [spdm, mgmt_modMgmt, h, Bool.false_eq_true, if_false]
  · simp only [spdm, mgmt_modMgmt, hc, offersBoth, bit, ho.1, ho.2, Bool.not_true, Bool.false_eq_true, Bool.and_self, if_true,
      if_false]
  · have hoff : offersBoth s.mgmt.spdm.asym s.mgmt.spdm.hash = false := by rcases ho with ho | ho <;> simp [offersBoth, bit, ho]
    simp only [spdm, mgmt_modMgmt, hc, hoff, Bool.not_true, Bool.false_eq_true, if_false]
  · simp only [spdm, mgmt_modMgmt, hc, Bool.not_false, if_true]
  · obtain ⟨r, hr⟩ := exec_of_needsAlgorithms s hi
    obtain ⟨hm, hu, hmem⟩ := afterAlgorithms_spec s r
    exact ⟨_, _, hr, hm, hu, hmem, fun h => if_neg (by simp [h])⟩
  · have hresp := response_afterAlgorithms ha
    refine ⟨⟨_, rfl, hresp _⟩, ⟨_, rfl, hresp _⟩, fun slot h => ⟨_, rfl, (hresp _).trans (if_neg h)⟩,
      fun slot nonce h => ⟨_, rfl, (hresp _).trans (if_pos h)⟩, fun nonce h => ⟨_, rfl, (hresp _).trans (if_neg (by simp [h]))⟩,
      fun slot nonce hs h => ⟨_, rfl, ?_⟩, fun index h => ⟨_, rfl, (hresp _).trans (if_pos (by simp [h]))⟩⟩
    rw [hresp, if_neg (by simp [h]), if_neg hs]

theorem measurementReply_none (s : State) (signed : Bool) : measurementReply s [] signed =
    spdmHead 0x60 3 0 ++ [0, 0, 0, 0] ++ spdmReply 0x60 (b2n signed) := by
  have hcount : bytesOf 3 (0 : Nat) = [0, 0, 0] := by decide
  simp only [measurementReply, List.flatMap_nil, List.length_nil, if_true, hcount, List.append_nil, List.append_assoc]
  rfl

theorem measurementReply_one (s : State) (index : Nat) (signed : Bool) : measurementReply s [index] signed =
    spdmHead 0x60 0 0 ++ [1] ++ bytesOf 3 (measurementBlock s index).length ++ measurementBlock s index ++ spdmReply 0x60 (b2n signed) := by
  simp only [measurementReply, List.flatMap_cons, List.flatMap_nil, List.append_nil, List.cons_ne_nil, if_false, List.length_cons,
    List.length_nil, Nat.zero_add]
  rfl

/-- Measurements one at a time, together, and their number (R393). -/
theorem measurements : Claims.Measurements := by
  refine ⟨fun s index signed ha hk => ⟨_, getMeasurements_eq hk, rfl, rfl, fun h => ?_, fun h1 h3 => ?_, fun h => ?_, fun h3 h => ?_⟩,
    fun s => rfl⟩
  · rw [response_afterAlgorithms ha, measurementsAsked, if_pos h]
    exact measurementReply_none ..
  · rw [response_afterAlgorithms ha, measurementsAsked, if_neg (by omega), if_neg (by omega), if_pos h3]
    exact measurementReply_one ..
  · rw [response_afterAlgorithms ha, measurementsAsked, if_neg (by omega), if_pos h]
    rfl
  · rw [response_afterAlgorithms ha, measurementsAsked, if_neg (by omega), if_neg h, if_neg (by omega)]
    rfl

/-! Soft errors (R398) -/

theorem corrected_countCorrected (s : State) (d : Nat) (f : Corrected → Corrected) :
    Tab.get Corrected.initial (countCorrected s d f).mgmt.corrected d = f (Tab.get Corrected.initial s.mgmt.corrected d) :=
  Tab.get_put_self ..

theorem softError_memory {pa : Nat} (h : deviceTier s pa = true) (hd : (l2Line s (pa / 128)).dirty = false) (double : Bool) :
    exec (.softError (.memory pa) double) s = .next (strikeMemory s (.memory pa) pa double) :=
  congrArg Host.Outcome.next (if_pos (by simp [h, hd]))

theorem mem_latent_strikeMemory (s : State) (l : ErrLoc) (pa : Nat) : l ∈ (strikeMemory s l pa false).latent := by
  rw [strikeMemory, if_neg Bool.false_ne_true]
  split
  · next h => exact List.contains_iff_mem.1 h
  · exact List.mem_cons_self

theorem strikeMemory_single_keeps {α : Type} (g : State → α) (h : ∀ (s : State) l, g { s with latent := l } = g s) (s : State) (l : ErrLoc)
    (pa : Nat) : g (strikeMemory s l pa false) = g s := by
  rw [strikeMemory, if_neg Bool.false_ne_true]
  exact ite_keeps (g := g) rfl (h ..)

theorem strikeMemory_double (s : State) (l : ErrLoc) (pa : Nat) : strikeMemory s l pa true =
    setPoison (countCorrected s (homeDie pa) (fun c => { c with uncorrected := c.uncorrected + 1 })) [pa] := rfl

theorem poison_setPoison_one (s : State) (pa w : Nat) :
    Tab.get false (setPoison s [pa]).poison w = if w = pa / 8 then true else Tab.get false s.poison w := by
  rw [setPoison, List.foldl_cons, List.foldl_nil, Tab.get_set]

theorem softError_vreg {u r l : Nat} {un : UnitSt} (h : s.unit? u = some un) (hs : un.at_.strand = false) (double : Bool) :
    exec (.softError (.vreg u r l) double) s = .next (strikeBank s (.vreg u r l) un.die false double) := by
  show execSoftError (.vreg u r l) double s = _
  simp only [execSoftError, h, hs, Bool.false_eq_true, if_false]

theorem mem_struck_strike (s : State) (l : ErrLoc) : l ∈ (strike s l).struck := by
  unfold strike
  split
  · next h => exact List.contains_iff_mem.1 h
  · exact List.mem_cons_self

theorem units_strike (s : State) (l : ErrLoc) : (strike s l).units = s.units := by
  unfold strike
  exact ite_keeps (g := State.units) rfl rfl

/-- Soft errors of memory and of a Cistern bank, and the scrub (R398). -/
theorem softErrors : Claims.SoftErrors := by
  refine ⟨fun s pa ht hd => ⟨?_, ?_⟩, fun s u r l un hu hs => ⟨?_, ?_⟩, fun s => ⟨_, rfl, ?_⟩⟩
  · refine ⟨_, softError_memory ht hd false, mem_latent_strikeMemory .., ?_, ?_, ?_⟩
    · exact strikeMemory_single_keeps State.mem (fun _ _ => rfl) ..
    · exact strikeMemory_single_keeps State.poison (fun _ _ => rfl) ..
    · exact strikeMemory_single_keeps State.units (fun _ _ => rfl) ..
  · refine ⟨_, softError_memory ht hd true, ?_, fun w hw => ?_, rfl, ?_⟩
    · exact (poison_setPoison_one ..).trans (if_pos rfl)
    · exact (poison_setPoison_one ..).trans (if_neg hw)
    · exact congrArg Corrected.uncorrected
        (corrected_countCorrected s (homeDie pa) (fun c => { c with uncorrected := c.uncorrected + 1 }))
  · exact ⟨_, softError_vreg hu hs true, mem_struck_strike .., units_strike ..⟩
  · exact ⟨_, softError_vreg hu hs false, rfl, rfl, congrArg Corrected.cistern
      (corrected_countCorrected s un.die (fun c => { c with cistern := c.cistern + 1 }))⟩
  · have hc (f : ErrLoc → Bool) := besideErrors_correctWords s f
    refine ⟨(congrArg State.mem (hc _) :), (congrArg State.poison (hc _) :), (congrArg State.units (hc _) :), fun pa hp => ?_⟩
    rw [latent_correctWords] at hp
    simpa using (List.mem_filter.1 hp).2

end

/-- Settles O45: host accesses, the management window, the grant map, attestation and soft errors, each from what its event does. -/
theorem hostAndAttestation : Obligations.HostAndAttestation :=
  ⟨hostAccesses, managementWindow, grantMap, attestation, measurements, softErrors⟩

end Sys2Proof.Safety
end

section
/-! Contexts come and leave, tasks retire, and units are placed (O40). -/

open Sys2Proof Sys2Proof.Machine
namespace Sys2Proof.Safety

section
variable {s t : State} {ctx q key : Nat}

/-! The state byte of an entry -/

theorem writeCtxState_keeps {α : Type} (g : State → α) (h : ∀ s, g (besideMemory s) = g s) (s : State) (ctx v : Nat) :
    g (writeCtxState s ctx v) = g s := by
  rw [← h, writeCtxState, besideMemory_poke, h]

/-- The state byte is read back where the host backs it. -/
theorem rd8_writeCtxState (h : unbackedAt s (entryAt s ctx + 19) = false) (v : Nat) :
    rd8 (writeCtxState s ctx v) (entryAt s ctx + 19) = BitVec.ofNat 8 v := by
  have hread := rdBytes_poke_run (s := s) (pa := entryAt s ctx + 19) (bs := bytesOf 1 v) fun i hi => by
    rw [length_bytesOf] at hi
    rwa [show i = 0 by omega]
  rw [length_bytesOf] at hread
  have hhead : rd8 (writeCtxState s ctx v) (entryAt s ctx + 19) :: [] = BitVec.ofNat 8 v :: [] := hread.trans (by simp [bytesOf])
  exact List.head_eq_of_cons_eq hhead

/-! Residency (R284) -/

theorem ctx_pokeVirt (s : State) (ctx va : Nat) (bs : List Byte) : (pokeVirt s ctx va bs).ctxs = s.ctxs :=
  (congrArg State.ctxs (besideMemory_pokeVirt s ctx va bs) :)

/-- The parts that setting up a pipeline leaves. -/
theorem setupPipeline_keeps {α : Type} (g : State → α) (hm : ∀ s, g (besideMemory s) = g s) (hd : ∀ (s : State) d f, g (s.modDie d f) = g s)
    (s : State) (ctx i : Nat) : g (setupPipeline s ctx i) = g s := by
  have hlines (s : State) (va n : Nat) : g (obtainVirt s ctx va n) = g s := by
    have h := congrArg (fun s => g (besideMemory s)) (besideLines_obtainVirt s ctx va n)
    exact (hm _).symm.trans (h.trans (hm s))
  have hwrite (s : State) (k stage : Nat) (cores : List Nat) : g (writeCores s ctx k stage cores) = g s := by
    rw [← hm, writeCores, besideMemory_pokeVirt, hm]
  unfold setupPipeline
  split
  · have hu := hlines s (gstateOf s ctx + pipeOffset i) 320
    dsimp only
    generalize obtainVirt s ctx (gstateOf s ctx + pipeOffset i) 320 = u at hu ⊢
    refine ite_keeps (g := g) hu ?_
    split
    · exact (foldl_keeps _ g (fun s b => hwrite s ..) _ _).trans ((hd ..).trans hu)
    · exact (foldl_keeps _ g (fun s j => hwrite s ..) _ _).trans hu
  · rfl

/-- A context as it is taken up, before its queues are read. -/
def freshCtx (bs : List Byte) : Ctx :=
  { dies := leAt bs 18 1, taking := true, ptroot := leAt bs 0 8, sumpto := leAt bs 24 2, lret := dw (leAt bs 32 8),
    lretlog := leAt bs 40 1, lretidx := leAt bs 44 4, queues := [], lastQueue := 15 }

/-- A context that comes, with its lines obtained, before its queues are entered and its pipelines set up. -/
def ctxRead (s : State) (ctx : Nat) (bs : List Byte) : State :=
  (List.range 16).foldl (fun s q => if leAt bs (64 + 8 * q) 8 = 0 then s else obtainVirt s ctx (leAt bs (64 + 8 * q) 8) 136)
    { s with ctxs := Tab.put s.ctxs ctx (freshCtx bs) }

theorem enterCtx_eq (s : State) (ctx : Nat) (bs : List Byte) : ∃ queues, enterCtx s ctx bs =
    setupPipeline (setupPipeline ((ctxRead s ctx bs).modCtx ctx (fun c => { c with queues := queues })) ctx 0) ctx 1 := ⟨_, rfl⟩

theorem ctxRead_keeps {α : Type} (g : State → α) (hl : ∀ s, g (besideLines s) = g s) (s : State) (ctx : Nat) (bs : List Byte) :
    g (ctxRead s ctx bs) = g { s with ctxs := Tab.put s.ctxs ctx (freshCtx bs) } := by
  refine foldl_keeps _ g (fun s q => ite_keeps (g := g) rfl ?_) _ _
  rw [← hl, besideLines_obtainVirt, hl]

/-- A context that comes is resident with its entry's fields, and with its queues. -/
theorem ctxs_enterCtx (s : State) (ctx : Nat) (bs : List Byte) : ∃ queues,
    (enterCtx s ctx bs).ctxs = Tab.modify (Tab.put s.ctxs ctx (freshCtx bs)) ctx (fun c => { c with queues := queues }) := by
  obtain ⟨queues, h⟩ := enterCtx_eq s ctx bs
  refine ⟨queues, ?_⟩
  rw [h, setupPipeline_keeps State.ctxs (fun _ => rfl) (fun _ _ _ => rfl), setupPipeline_keeps State.ctxs (fun _ => rfl) (fun _ _ _ => rfl),
    State.modCtx, ctxRead_keeps State.ctxs fun _ => rfl]

theorem units_enterCtx (s : State) (ctx : Nat) (bs : List Byte) : (enterCtx s ctx bs).units = s.units := by
  obtain ⟨queues, h⟩ := enterCtx_eq s ctx bs
  rw [h, setupPipeline_keeps State.units (fun _ => rfl) (fun _ _ _ => rfl),
    setupPipeline_keeps State.units (fun _ => rfl) (fun _ _ _ => rfl)]
  exact ctxRead_keeps State.units (fun _ => rfl) s ctx bs

/-- A written entry that asks to be resident. -/
theorem contextEntryWake_eq (hn : s.ctx? ctx = none) (hlt : ctx < 65536) (hask : bit (leAt (rdBytes s (entryAt s ctx) 256) 20 4) 0 = true) :
    exec (.contextEntryWake ctx) s = .next
      (if entryOk ctx (rdBytes s (entryAt s ctx) 256) && placesFree s (leAt (rdBytes s (entryAt s ctx) 256) 18 1) then
        enterCtx (writeCtxState s ctx 1) ctx (rdBytes s (entryAt s ctx) 256)
       else writeCtxState s ctx 2) := by
  show execContextEntryWake ctx s = _
  simp only [execContextEntryWake, hn, hask, Bool.not_true, Bool.false_eq_true, false_or, if_neg (Nat.not_le.2 hlt)]

theorem contextEntryWake_of_resident {c : Ctx} (h : s.ctx? ctx = some c) : exec (.contextEntryWake ctx) s = .next
    (s.modCtx ctx (fun c => { c with taking := bit (leAt (rdBytes s (entryAt s ctx) 256) 20 4) 0 })) := by
  show execContextEntryWake ctx s = _
  simp only [execContextEntryWake, h]

/-- A context's place, tasks and translations are freed. -/
def contextFreed (s : State) (ctx : Nat) : State :=
  { dropTlbs s (fun t => t.ctx = ctx) with
    ctxs := Tab.del s.ctxs ctx, tasks := s.tasks.filter (fun (e : Nat × Task) => decide (e.2.ctx ≠ ctx)) }

/-- What leaves with a context, before its entry's state byte is written. -/
def contextGone (s : State) (ctx : Nat) : State := contextFreed (dropPipelines s ctx) ctx

theorem contextLeave_eq (h : mayLeave s ctx = true) : exec (.contextLeave ctx) s = .next (writeCtxState (contextGone s ctx) ctx 0) := by
  show execContextLeave ctx s = _
  rw [execContextLeave, if_neg (by simp [h]), contextGone]
  dsimp only
  generalize dropPipelines s ctx = u
  rfl

theorem dropPipelines_keeps {α : Type} (g : State → α) (hd : ∀ (s : State) d f, g (s.modDie d f) = g s) (s : State) (ctx : Nat) :
    g (dropPipelines s ctx) = g s := foldl_keeps _ g (fun _ _ => ite_keeps (g := g) (hd ..) rfl) _ _

theorem tlb_poke (s : State) (ws : List (Nat × Byte)) (c : Nat) : ((poke s ws).core c).tlb = (s.core c).tlb := by
  have hci (s : State) (d : Nat) (f : Cistern → Cistern) : ((s.modCi d f).core c).tlb = (s.core c).tlb := by
    by_cases h : c = d
    · rw [h, State.core_modCi_self]
    · rw [State.core_modCi_ne _ _ h]
  have hclear (s : State) (ws : List (Nat × Byte)) : (clearPoison s ws).cores = s.cores := by
    unfold clearPoison
    dsimp only
    split <;> split <;> rfl
  have hline (s : State) (pa : Nat) : (obtainWrite s pa).cores = s.cores := by
    have hreach (s : State) (d : Nat) : (reach s d).cores = s.cores := ite_keeps (g := State.cores) rfl rfl
    unfold obtainWrite
    split
    · exact ite_keeps (g := State.cores) rfl (hreach ..)
    · rfl
  unfold poke
  dsimp only
  rw [updateHomed_keeps (fun s => (s.core c).tlb) hci, State.core, hclear, foldl_keeps _ State.cores fun s l => hline s (128 * l)]
  rfl

theorem tlb_dropTlbs (s : State) (f : Tlb → Bool) (c : Nat) : ((dropTlbs s f).core c).tlb = (s.core c).tlb.filter (fun t => !f t) := by
  have hget := congrArg (Option.getD · Core.initial)
    (find?_map_val s.cores (fun _ k => ({ k with tlb := k.tlb.filter (fun t => !f t) } : Core)) c)
  refine (congrArg Core.tlb hget).trans ?_
  rw [State.core, Tab.get]
  cases Tab.find? s.cores c <;> rfl

/-- What a context leaves alone as it goes. -/
def besideCtx (s : State) : State := { s with ctxs := [], tasks := [], cores := [], scores := [], cells := [], dies := [] }

theorem besideCtx_contextGone (s : State) (ctx : Nat) : besideCtx (contextGone s ctx) = besideCtx s := by
  have h := dropPipelines_keeps besideCtx (fun _ _ _ => rfl) s ctx
  unfold contextGone
  generalize dropPipelines s ctx = u at h ⊢
  exact h

theorem of_besideCtx (h : besideCtx t = besideCtx s) : t.mgmt = s.mgmt ∧ t.unbacked = s.unbacked ∧ t.units = s.units :=
  ⟨(congrArg State.mgmt h :), (congrArg State.unbacked h :), (congrArg State.units h :)⟩

theorem mgmt_contextGone (s : State) (ctx : Nat) : (contextGone s ctx).mgmt = s.mgmt := (of_besideCtx (besideCtx_contextGone s ctx)).1

theorem unbacked_contextGone (s : State) (ctx : Nat) : (contextGone s ctx).unbacked = s.unbacked :=
  (of_besideCtx (besideCtx_contextGone s ctx)).2.1

theorem units_contextGone (s : State) (ctx : Nat) : (contextGone s ctx).units = s.units :=
  (of_besideCtx (besideCtx_contextGone s ctx)).2.2

theorem ctx_of_mem_contextFreed {core : Nat} {x : Tlb} (h : x ∈ ((contextFreed s ctx).core core).tlb) : x.ctx ≠ ctx := by
  have h' : x ∈ ((dropTlbs s (fun t => t.ctx = ctx)).core core).tlb := h
  rw [tlb_dropTlbs] at h'
  simpa using (List.mem_filter.1 h').2

theorem ctx_of_task_contextFreed {x : Nat × Task} (h : x ∈ (contextFreed s ctx).tasks) : x.2.ctx ≠ ctx := by
  simpa using (List.mem_filter.1 h).2

theorem ctx_contextFreed (s : State) (ctx : Nat) : (contextFreed s ctx).ctx? ctx = none := Tab.find?_del_self ..

/-- A context that may leave is gone with its tasks and translations (R284). -/
theorem contextLeaves (h : mayLeave s ctx = true) (hb : unbackedAt s (entryAt s ctx + 19) = false) :
    ∃ t, exec (.contextLeave ctx) s = .next t ∧ t.ctx? ctx = none ∧
      (∀ x ∈ t.tasks, x.2.ctx ≠ ctx) ∧ (∀ core, ∀ x ∈ (t.core core).tlb, x.ctx ≠ ctx) ∧
      rd8 t (entryAt s ctx + 19) = 0 ∧ t.units = s.units := by
  have hmgmt := mgmt_contextGone s ctx
  have hun := unbacked_contextGone s ctx
  have hentry : entryAt (contextGone s ctx) ctx = entryAt s ctx := by rw [entryAt, State.tableBase, hmgmt, entryAt, State.tableBase]
  refine ⟨_, contextLeave_eq h, ?_, fun x hx => ?_, fun core x hx => ?_, ?_, ?_⟩
  · rw [State.ctx?, writeCtxState_keeps State.ctxs fun _ => rfl]
    exact ctx_contextFreed ..
  · rw [writeCtxState_keeps State.tasks fun _ => rfl] at hx
    exact ctx_of_task_contextFreed hx
  · rw [writeCtxState, tlb_poke] at hx
    exact ctx_of_mem_contextFreed hx
  · have hread := rd8_writeCtxState (s := contextGone s ctx) (ctx := ctx) (by rwa [hentry, unbackedAt_congr hun hmgmt]) 0
    rwa [hentry] at hread
  · rw [writeCtxState_keeps State.units fun _ => rfl]
    exact units_contextGone s ctx

/-! Queues -/

theorem queue_modQueue_self (s : State) (ctx q : Nat) (f : Queue → Queue) :
    queue? (modQueue s ctx q f) ctx q = (queue? s ctx q).map f := by
  rw [queue?, modQueue, State.ctx_modCtx_self, queue?]
  cases s.ctx? ctx with
  | none => rfl
  | some c => exact Tab.find?_modify_self ..

theorem queueTailWrite_eq {x : Queue} (h : queue? s ctx q = some x) (hf : x.deviceFed = false) :
    exec (.queueTailWrite ctx q) s = .next (modQueue s ctx q (fun x => { x with tail := rdNat s x.tailPa 4 })) := by
  show execQueueTailWrite ctx q s = _
  simp only [execQueueTailWrite, h, hf, Bool.false_eq_true, if_false]

/-- Contexts come and leave, and tails are read (R284, R286). -/
theorem residency : Claims.Residency := by
  refine ⟨fun s ctx hn hlt => ?_, fun s ctx c hc => ?_, fun s ctx h hb => contextLeaves h hb, fun s ctx q x hq hf => ?_⟩
  · intro bs hask
    refine ⟨fun hok hfree => ?_, fun hno hb => ?_⟩
    · obtain ⟨queues, hctxs⟩ := ctxs_enterCtx (writeCtxState s ctx 1) ctx bs
      refine ⟨_, { freshCtx bs with queues := queues }, (contextEntryWake_eq hn hlt hask).trans
        (congrArg _ (if_pos (by rw [hok, hfree, Bool.and_self]))), ?_, rfl, rfl, rfl, rfl, rfl, ?_, fun x hx => ?_⟩
      · rw [State.ctx?, hctxs, Tab.find?_modify_self, Tab.find?_put_self]
        rfl
      · rw [units_enterCtx, writeCtxState_keeps State.units fun _ => rfl]
      · rw [State.ctx?, hctxs, Tab.find?_modify_ne _ _ hx, Tab.find?_put_ne _ _ hx, writeCtxState_keeps State.ctxs fun _ => rfl, State.ctx?]
    · refine ⟨_, (contextEntryWake_eq hn hlt hask).trans (congrArg _ (if_neg (by simpa using hno))), ?_, rd8_writeCtxState hb 2⟩
      rw [State.ctx?, writeCtxState_keeps State.ctxs fun _ => rfl]
      exact hn
  · exact ⟨_, contextEntryWake_of_resident hc, by rw [State.ctx_modCtx_self, hc]; rfl, rfl⟩
  · exact ⟨_, queueTailWrite_eq hq hf, rfl, by rw [queue_modQueue_self, hq]; rfl⟩

/-! Retirement (R290) -/

theorem writeRetirement_keeps {α : Type} (g : State → α) (hm : ∀ s, g (besideMemory s) = g s) (hc : ∀ (s : State) c f, g (s.modCtx c f) = g s)
    (s : State) (tk : Task) : g (writeRetirement s tk) = g s := by
  have hvirt (s : State) (c va : Nat) (bs : List Byte) : g (pokeVirt s c va bs) = g s := by rw [← hm, besideMemory_pokeVirt, hm]
  have hpoke (s : State) (ws : List (Nat × Byte)) : g (poke s ws) = g s := by rw [← hm, besideMemory_poke, hm]
  unfold writeRetirement
  split
  · split
    · exact ite_keeps (g := g) rfl ((hc ..).trans ((hvirt ..).trans (hvirt ..)))
    · rfl
  · split
    · exact ite_keeps (g := g) rfl ((hc ..).trans ((hpoke ..).trans (hvirt ..)))
    · rfl

/-- A queue lets its head task go. -/
def freeHead (s : State) (tk : Task) (key : Nat) : State :=
  match tk.src with
  | .queue q => modQueue s tk.ctx q (fun x => if x.current = some key then { x with current := none } else x)
  | .pool => s

theorem taskRetire_eq {tk : Task} (h : s.task? key = some tk) (he : tk.ended = true) : exec (.taskRetire key) s = .next
    (stopHolding (freeHead { writeRetirement s tk with tasks := Tab.del (writeRetirement s tk).tasks key } tk key) key) := by
  show execTaskRetire key s = _
  simp only [execTaskRetire, h, he, if_true, retireTask]
  rfl

theorem freeHead_keeps {α : Type} (g : State → α) (hc : ∀ (s : State) c f, g (s.modCtx c f) = g s) (s : State) (tk : Task) (key : Nat) :
    g (freeHead s tk key) = g s := by
  unfold freeHead
  split
  · exact hc ..
  · rfl

theorem queue_of_ctxs (h : t.ctxs = s.ctxs) (ctx q : Nat) : queue? t ctx q = queue? s ctx q := by
  rw [queue?, State.ctx?, h, queue?, State.ctx?]

theorem ctxs_writeRetirement_queue {tk : Task} {x : Queue} (hs : tk.src = .queue q) (hq : queue? s tk.ctx q = some x) (hr : x.ret ≠ 0) :
    (writeRetirement s tk).ctxs = (modQueue s tk.ctx q (fun y => { y with retidx := (x.retidx + 1) % 2 ^ 32 })).ctxs := by
  simp only [writeRetirement, hs, hq, if_neg hr, modQueue, State.modCtx, ctx_pokeVirt]

theorem ctxs_writeRetirement_pool {tk : Task} {c : Ctx} (hs : tk.src = .pool) (hc : s.ctx? tk.ctx = some c) (hr : c.lret ≠ 0) :
    (writeRetirement s tk).ctxs = (s.modCtx tk.ctx (fun y => { y with lretidx := (c.lretidx + 1) % 2 ^ 32 })).ctxs := by
  simp only [writeRetirement, hs, hc, if_neg hr, State.modCtx, show ∀ s ws, (poke s ws).ctxs = s.ctxs from fun s ws =>
    (congrArg State.ctxs (besideMemory_poke s ws) :), ctx_pokeVirt]

/-- Tasks that have ended retire, and their rings take their records (R290). -/
theorem taskRetires : Claims.TaskRetires := by
  refine ⟨fun s k tk h he => ⟨_, taskRetire_eq h he, ?_, ?_⟩, fun s k tk q x h he hs hq hr => ?_, fun s k tk c h he hs hc hr => ?_⟩
  · refine (congrArg (Tab.find? · k) (freeHead_keeps State.tasks (fun _ _ _ => rfl) _ tk k)).trans (Tab.find?_del_self ..)
  · exact (freeHead_keeps State.units (fun _ _ _ => rfl) ..).trans (writeRetirement_keeps State.units (fun _ => rfl) (fun _ _ _ => rfl) ..)
  · refine ⟨_, if x.current = some k then { x with retidx := (x.retidx + 1) % 2 ^ 32, current := none }
      else { x with retidx := (x.retidx + 1) % 2 ^ 32 }, taskRetire_eq h he, ?_, ?_⟩
    · have hnew := queue_of_ctxs (t := { writeRetirement s tk with tasks := Tab.del (writeRetirement s tk).tasks k })
        (ctxs_writeRetirement_queue hs hq hr) tk.ctx q
      rw [queue_modQueue_self, hq] at hnew
      rw [freeHead, hs]
      refine (queue_modQueue_self ..).trans ?_
      rw [hnew]
      rfl
    · exact ite_keeps (g := Queue.retidx) rfl rfl
  · refine ⟨_, { c with lretidx := (c.lretidx + 1) % 2 ^ 32 }, taskRetire_eq h he, ?_, rfl⟩
    rw [freeHead, hs]
    refine (congrArg (Tab.find? · tk.ctx) (ctxs_writeRetirement_pool hs hc hr)).trans ?_
    exact (State.ctx_modCtx_self ..).trans (by rw [hc]; rfl)

/-! What an engine leaves: the cycle (R286 to R293) -/

theorem now_obtainVirt (s : State) (ctx va n : Nat) : (obtainVirt s ctx va n).now = s.now := now_of_besideLines (besideLines_obtainVirt ..)

theorem now_raiseEngine (s : State) (d : Nat) (f : EngFault) : (raiseEngine s d f).now = s.now := ite_keeps (g := State.now) rfl rfl

theorem now_pushRing (s : State) (ctx q : Nat) (x : Queue) (r : TaskRec) : (pushRing s ctx q x r).now = s.now :=
  (now_pokeVirt ..).trans (now_pokeVirt ..)

theorem now_moveReserve (s : State) (ctx q : Nat) : (moveReserve s ctx q).now = s.now := by
  unfold moveReserve
  split
  · exact ite_keeps (g := State.now) (now_pushRing ..) rfl
  · rfl

theorem now_popRing (s : State) (ctx q : Nat) (x : Queue) : (popRing s ctx q x).now = s.now := (now_moveReserve ..).trans (now_pokeVirt ..)

theorem now_takeHead (s : State) (d ctx q : Nat) (x : Queue) : (takeHead s d ctx q x).now = s.now := by
  unfold takeHead
  refine ite_keeps (g := State.now) rfl ?_
  dsimp only
  split
  · exact (now_raiseEngine ..).trans (now_obtainVirt ..)
  · split
    · exact now_obtainVirt ..
    · exact (now_popRing ..).trans (now_obtainVirt ..)

theorem now_takeHeads (s : State) (d : Nat) : (takeHeads s d).now = s.now := by
  refine foldl_keeps _ State.now (fun s c => ite_keeps (g := State.now) (foldl_keeps _ State.now (fun s q => ?_) _ _) rfl) _ _
  split
  · exact now_takeHead ..
  · rfl

theorem now_leaveRing (s : State) (key : Nat) : (leaveRing s key).now = s.now := by
  unfold leaveRing
  split
  · rfl
  · split
    · split
      · exact now_popRing ..
      · rfl
    · rfl

theorem now_refuseTask (s : State) (key reason : Nat) : (refuseTask s key reason).now = s.now := by
  unfold refuseTask
  dsimp only
  refine Eq.trans ?_ (now_leaveRing s key)
  split
  · next t _ => cases t.src <;> rfl
  · rfl

theorem now_firstTry (s : State) (d key : Nat) : (firstTry s d key).now = s.now := by
  unfold firstTry
  split
  · rfl
  · refine ite_keeps (g := State.now) rfl ?_
    split
    · exact (now_obtainVirt ..).trans (now_obtainVirt ..)
    · exact now_refuseTask ..
    · exact now_raiseEngine ..

theorem now_engineLook (s : State) (d : Nat) : (engineLook s d).now = s.now := by
  have h : (takeHeads ((candidates (takeHeads s d) d).foldl (fun s k => firstTry s d k) (takeHeads s d)) d).now = s.now :=
    (now_takeHeads ..).trans ((foldl_keeps _ State.now (fun s k => now_firstTry s d k) _ _).trans (now_takeHeads ..))
  exact ite_keeps (g := State.now) h h

/-! What a placement leaves -/

theorem now_invalidateCac (s : State) (c : Nat) : (invalidateCac s c).now = s.now :=
  (congrArg State.now (besideSlices_invalidateCac s c) :)

/-- A team's units as they are placed. -/
def placeGroups (s : State) (c key : Nat) (t : TeamSpec) (args : List Word) (gs : List (Nat × Nat)) : State :=
  gs.foldl (fun s g => s.putUnit (groupUid c g.1) (newUnit
    { strand := false, ctx := t.ctx, core := c, slot := g.1, team := key, gint := g.2, task := t.task } (BitVec.allOnes 32) (t.addr + 66) args
    (lanes32.map (fun l => (l, lfsrSeed t.desc.seed (t.gteam * 1024 + g.2 * 32 + l)))) s.now)) s

theorem placeTeam_eq (s : State) (c : Nat) (r : Room) (t : TeamSpec) (args : List Word) : (placeTeam s c r t args).1 =
    invalidateCac (placeGroups (enterTeam s c r t).1 c (enterTeam s c r t).2 t args r.groups.zipIdx) c := rfl

theorem now_placeGroups (s : State) (c key : Nat) (t : TeamSpec) (args : List Word) (gs : List (Nat × Nat)) :
    (placeGroups s c key t args gs).now = s.now := by
  refine foldl_keeps _ State.now (fun s g => ?_) gs s
  rfl

theorem now_placeTeam (s : State) (c : Nat) (r : Room) (t : TeamSpec) (args : List Word) : (placeTeam s c r t args).1.now = s.now := by
  rw [placeTeam_eq, now_invalidateCac, now_placeGroups]
  rfl

theorem now_bindCluster (s : State) (k : Cluster) : (bindCluster s k).now = s.now := by
  have hbind (s : State) (a b : Option Nat) (p : Nat) :
      (match a, b with | some u, some v => bindPorts s u v p | _, _ => s).now = s.now := by
    split <;> rfl
  refine foldl_keeps _ State.now (fun s p => foldl_keeps _ State.now (fun s g => ?_) _ _) _ _
  exact (hbind ..).trans ((hbind ..).trans (hbind ..))

theorem now_placeOn (s : State) (key : Nat) (t : Task) (d : Desc) (rooms : List (Nat × Room)) : (placeOn s key t d rooms).now = s.now := by
  refine (now_bindCluster ..).trans ?_
  exact foldl_keeps _ (fun st : State × Tab Nat => st.1.now) (fun st e => now_placeTeam ..) rooms.zipIdx (s, [])

theorem now_placeNext {d : Desc} {allowed : Nat → Bool} {dies : List Nat} {u : State} {e : Nat}
    (h : placeNext s key d allowed dies = some (u, e)) : u.now = s.now := by
  unfold placeNext at h
  split at h
  · cases h
  · split at h
    · cases h
      exact now_placeOn ..
    · cases h

theorem now_placeStrandOn {tk : Task} {d : Desc} {dies : List Nat} {u : State} {e : Nat} (h : placeStrandOn s key tk d dies = some (u, e)) :
    u.now = s.now := by
  obtain ⟨k, -, hk⟩ := List.exists_of_findSome?_eq_some h
  split at hk
  · cases hk
  · obtain ⟨th, -, hth⟩ := Option.map_eq_some_iff.1 hk
    cases hth
    rfl

theorem now_placeAll {engine mask : Nat} {d : Desc} {allowed : Nat → Bool} {u : State} (n : Nat) : ∀ s : State,
    placeAll s engine key d allowed mask n = some u → u.now = s.now := by
  induction n with
  | zero => exact fun s h => by cases h; rfl
  | succ n ih =>
    intro s h
    unfold placeAll at h
    split at h
    · next u e hp =>
      have hu : u.now = s.now := now_placeNext hp
      exact (ih _ h).trans hu
    · cases h

theorem now_tryPlace {d e : Nat} {tk : Task} {u : State} (h : tryPlace s d key tk = some (u, e)) : u.now = s.now := by
  unfold tryPlace at h
  split at h
  · cases h
  · dsimp only at h
    split at h
    · exact now_placeStrandOn h
    · exact now_placeNext h
    · obtain ⟨v, hv, hvu⟩ := Option.map_eq_some_iff.1 h
      cases hvu
      exact now_placeAll _ _ hv

/-- An engine that may act places a unit of the task it chooses. -/
theorem enginePlace_eq {d k e : Nat} {kind : GridKind} {tk : Task} {u : State} (hf : engineFree s d = true)
    (hc : choice (engineLook s d) d = some (k, tk)) (hk : tk.rec_.kind = kind) (hp : tryPlace (engineLook s d) d k tk = some (u, e)) :
    enginePlace s d kind = afterPlacement
      (match tk.src with
       | .queue q => ((leaveRing u k).modDie d (fun x => { x with diePtr := e, ctxPtr := tk.ctx, placedAt := some s.now })).modCtx tk.ctx
          (fun c => { c with lastQueue := q })
       | .pool => (leaveRing u k).modDie d (fun x => { x with diePtr := e, ctxPtr := tk.ctx, placedAt := some s.now })) k := by
  have hnow : (leaveRing u k).now = s.now := (now_leaveRing ..).trans ((now_tryPlace hp).trans (now_engineLook ..))
  simp only [enginePlace, hf, Bool.not_true, Bool.false_eq_true, if_false, hc, hk, ne_eq, not_true_eq_false, hp, hnow] <;>
    rfl

/-! A new unit (R14, R45, R85) -/

theorem readS_argRegs (args : List Word) (n : Nat) : Tab.get 0 (argRegs args) n = args.getD n 0 := by
  induction args using List.reverseRecOn with
  | nil => rfl
  | append_singleton args a ih =>
    have hlast : argRegs (args ++ [a]) = Tab.set 0 (argRegs args) args.length a := by
      simp [argRegs, List.zipIdx_append, List.foldl_append]
    rw [hlast, Tab.get_set, ih]
    by_cases h : n = args.length
    · simp [h]
    · rw [if_neg h]
      rcases Nat.lt_or_gt_of_ne h with hlt | hgt
      · simp [List.getElem?_append_left hlt]
      · rw [List.getD_eq_default _ _ (by omega), List.getD_eq_default _ _ (by simp; omega)]

theorem newUnit_spec (at_ : Where) (mask : Mask) (entry : DWord) (args : List Word) (lfsr : Tab Word) (now : Nat) :
    let un := newUnit at_ mask entry args lfsr now
    (∀ n l, readV un n l = 0) ∧ (∀ n, readS un n = args.getD n 0) ∧ (∀ o, feOf un o = .full) ∧
    (∀ (n : Fin 16) l, n.val ≠ 15 → readP un n l = false) ∧ un.ctl.retired = 0 ∧ un.ctl.pathsig = 0 ∧ un.ctl.round = 0 := by
  refine ⟨fun n l => rfl, readS_argRegs args, fun o => ?_, fun n l hn => ?_, rfl, rfl, rfl⟩
  · cases o <;> rfl
  · simp [readP, newUnit, Tab.get, hn]

/-- The unit at a group's number once its team has been placed is one of that group. -/
theorem unit_placeGroups (s : State) (c key : Nat) (t : TeamSpec) (args : List Word) (gs : List (Nat × Nat)) {g : Nat} (hg : g ∈ gs.map (·.1)) :
    ∃ gint lfsr, (placeGroups s c key t args gs).unit? (groupUid c g) = some (newUnit
      { strand := false, ctx := t.ctx, core := c, slot := g, team := key, gint := gint, task := t.task } (BitVec.allOnes 32) (t.addr + 66) args
      lfsr s.now) := by
  induction gs using List.reverseRecOn with
  | nil => exact absurd hg List.not_mem_nil
  | append_singleton gs e ih =>
    rw [placeGroups, List.foldl_append, List.foldl_cons, List.foldl_nil, ← placeGroups, now_placeGroups]
    by_cases he : g = e.1
    · subst he
      exact ⟨_, _, State.unit_putUnit_self ..⟩
    · have hne : groupUid c g ≠ groupUid c e.1 := by
        unfold groupUid
        omega
      obtain ⟨gint, lfsr, h⟩ := ih (by simpa [he] using hg)
      exact ⟨gint, lfsr, (State.unit_putUnit_ne _ _ hne).trans h⟩

/-- A free thread that no free one comes before is the one a die gives next. -/
theorem freeThread_eq {die i : Nat} (hi : i < 1536)
    (hno : ∀ j < i, ¬ (s.unit? (strandUid (die * 1536 + ((s.die die).threadPtr + 1 + j) % 1536)) = none ∧
      96 + ((s.die die).threadPtr + 1 + j) % 1536 / 4 ∉ (s.die die).fenced))
    (hyes : s.unit? (strandUid (die * 1536 + ((s.die die).threadPtr + 1 + i) % 1536)) = none ∧
      96 + ((s.die die).threadPtr + 1 + i) % 1536 / 4 ∉ (s.die die).fenced) :
    freeThread s die = some (((s.die die).threadPtr + 1 + i) % 1536) := by
  refine List.find?_eq_some_iff_getElem.2 ⟨by simpa using hyes, i, by simpa using hi, by simp, fun j hj => ?_⟩
  by_cases hu : s.unit? (strandUid (die * 1536 + ((s.die die).threadPtr + 1 + j) % 1536)) = none
  · have hin := not_not.1 fun hin => hno j hj ⟨hu, hin⟩
    simp [hin]
  · simp [Option.isSome_iff_ne_none, hu]

/-- What an engine places, and the units as they are made (R288, R291 to R293). -/
theorem placements : Claims.Placements := by
  refine ⟨fun d => ⟨?_, ?_, ?_⟩, fun s die i hi hno hyes => freeThread_eq hi hno hyes, fun s key tk d die thread hk => ?_,
    fun s c r spec args g hg => ?_, newUnit_spec⟩
  · exact fun s k tk u e hf hc hk hp => congrArg Host.Outcome.next (enginePlace_eq hf hc hk hp)
  · exact fun s k tk u e hf hc hk hp => congrArg Host.Outcome.next (enginePlace_eq hf hc hk hp)
  · exact fun s k tk u e hf hc hk hp => congrArg Host.Outcome.next (enginePlace_eq hf hc hk hp)
  · refine ⟨_, { tk with st := .started, placed := tk.placed + 1, live := tk.live + 1, units := tk.units + 1 }, State.unit_putUnit_self ..,
      rfl, rfl, rfl, rfl, ?_, rfl, rfl, ?_, rfl, startSplit 1 (tk.rec_.desc + 66), rfl, rfl, rfl⟩
    · exact (State.task_modTask_self ..).trans (congrArg (Option.map _) hk)
    · rw [placeThread, State.die_modTask, State.die_modDie_self]
  · obtain ⟨gint, lfsr, hu⟩ := unit_placeGroups (enterTeam s c r spec).1 c (enterTeam s c r spec).2 spec args r.groups.zipIdx
      (g := g) (by simpa using hg)
    refine ⟨_, startSplit (BitVec.allOnes 32) (spec.addr + 66), Eq.trans ?_ hu, rfl, rfl, rfl, rfl, rfl, rfl, rfl, rfl⟩
    rw [placeTeam_eq, State.unit?, units_invalidateCac, State.unit?]

end

/-- Settles O40: contexts come and leave, tasks retire, and an engine places what it chooses, with its initial state. -/
theorem contextsAndPlacement : Obligations.ContextsAndPlacement := ⟨residency, taskRetires, placements⟩

end Sys2Proof.Safety
end

section
/-! Pre-emption, restore, migration, FREEZE and THAW (O44). -/

open Sys2Proof Sys2Proof.Machine
namespace Sys2Proof.Safety

section
variable {s t : State} {d k va core : Nat} {bs : List Byte} {r : Resp}

/-! FREEZE and THAW (R320, R321) -/

theorem respond_keeps {α : Type} (g : State → α) (h : ∀ s, g (besideMemory s) = g s) (s : State) (va st : Nat) :
    g (respond s va st) = g s := by
  rw [← h, respond, besideMemory_pokeVirt, h]

theorem pokeVirt_keeps {α : Type} (g : State → α) (h : ∀ s, g (besideMemory s) = g s) (s : State) (ctx va : Nat) (bs : List Byte) :
    g (pokeVirt s ctx va bs) = g s := by
  rw [← h, besideMemory_pokeVirt, h]

/-- Dies as they freeze. -/
def frozenDies (s : State) (ds : List Nat) : State := ds.foldl (fun s d => s.modDie d (fun x => { x with frozen := true })) s

theorem frozen_frozenDies (ds : List Nat) (k : Nat) : ∀ s : State,
    ((frozenDies s ds).die k).frozen = if k ∈ ds then true else (s.die k).frozen := by
  induction ds with
  | nil => exact fun s => rfl
  | cons d ds ih =>
    intro s
    refine (ih _).trans ?_
    by_cases hk : k ∈ ds
    · simp [hk]
    · rw [if_neg hk, State.die_modDie]
      by_cases hd : k = d
      · simp [hd]
      · simp [hd, hk]

theorem exec_freeze (h : Claims.Responds s d 10 va bs) (hlt : rf bs 20 4 < 16) : exec (.freeze d) s = .next (nextResponse (respond
    (pokeVirt (frozenDies (Claims.Begun s d va) (runningDies (Claims.Begun s d va) (rf bs 20 4))) 0 (rf bs 24 8)
      (((runningDies (Claims.Begun s d va) (rf bs 20 4)).flatMap
        (stopRecords (frozenDies (Claims.Begun s d va) (runningDies (Claims.Begun s d va) (rf bs 20 4))))).flatten)) va stDone) d) := by
  show execFreeze d s = _
  rw [execFreeze, onResponse_mine h rfl, if_neg (by omega)]
  rfl

theorem mem_dies4 : k ∈ dies4 ↔ k < 4 := by
  simp only [dies4, List.mem_cons, List.not_mem_nil, or_false]
  omega

theorem die_Begun (s : State) (d va k : Nat) : (Claims.Begun s d va).die k = s.die k := by rw [State.die, dies_Begun, State.die]

/-- One die goes on, and what was held for it takes effect. -/
def thawDie (s : State) (d : Nat) : State :=
  { s.modDie d (fun x => { x with frozen := false, held := [] }) with agenda := s.agenda ++ (s.die d).held.map Turn.event }

theorem exec_thaw (h : Claims.Responds s d 11 va bs) (hlt : rf bs 20 4 < 16) : exec (.thaw d) s = .next (nextResponse (respond
    ((dies4.filter (fun d => bit (rf bs 20 4) d)).foldl thawDie (Claims.Begun s d va)) va stDone) d) := by
  show execThaw d s = _
  rw [execThaw, onResponse_mine h rfl, if_neg (by omega)]
  rfl

theorem die_thawDie_self (s : State) (d : Nat) : (thawDie s d).die d = { s.die d with frozen := false, held := [] } :=
  (State.die_modDie_self s d (fun x => { x with frozen := false, held := [] }) :)

theorem die_thawDie_ne (h : k ≠ d) (s : State) : (thawDie s d).die k = s.die k :=
  (State.die_modDie_ne s (fun x => { x with frozen := false, held := [] }) h :)

theorem die_thawDies_of_not_mem (ds : List Nat) (hk : k ∉ ds) (s : State) : (ds.foldl thawDie s).die k = s.die k :=
  foldl_keeps_of_mem (State.die · k) (fun d hd s => die_thawDie_ne (by rintro rfl; exact hk hd) s) s

theorem agenda_thawDies (ds : List Nat) {x : Turn} : ∀ s : State, x ∈ s.agenda → x ∈ (ds.foldl thawDie s).agenda := by
  induction ds with
  | nil => exact fun _ h => h
  | cons d ds ih => exact fun s h => ih _ (List.mem_append_left _ h)

theorem thawDies_spec (ds : List Nat) (hk : k ∈ ds) : ∀ s : State, ((ds.foldl thawDie s).die k).frozen = false ∧
    ((ds.foldl thawDie s).die k).held = [] ∧ ∀ e ∈ (s.die k).held, Turn.event e ∈ (ds.foldl thawDie s).agenda := by
  induction ds with
  | nil => exact absurd hk List.not_mem_nil
  | cons d ds ih =>
    intro s
    by_cases hd : k = d
    · subst hd
      have hsent (e : Event) (he : e ∈ (s.die k).held) : Turn.event e ∈ ((k :: ds).foldl thawDie s).agenda :=
        agenda_thawDies ds _ (List.mem_append_right _ (List.mem_map_of_mem he))
      by_cases hin : k ∈ ds
      · exact ⟨(ih hin _).1, (ih hin _).2.1, hsent⟩
      · rw [List.foldl_cons, die_thawDies_of_not_mem ds hin, die_thawDie_self]
        exact ⟨rfl, rfl, hsent⟩
    · obtain ⟨hf, hh, he⟩ := ih ((List.mem_cons.1 hk).resolve_left hd) (thawDie s d)
      rw [die_thawDie_ne hd] at he
      exact ⟨hf, hh, he⟩

theorem agenda_Begun (s : State) (d va : Nat) : (Claims.Begun s d va).agenda = s.agenda := (congrArg State.agenda (besideMemory_Begun s d va) :)

theorem mem_agenda_nextResponse {x : Turn} (h : x ∈ s.agenda) (d : Nat) : x ∈ (nextResponse s d).agenda := by
  unfold nextResponse
  split
  · dsimp only
    split
    · exact h
    · exact List.mem_append_left _ h
  · exact h

/-- FREEZE and THAW (R320, R321). -/
theorem freezesAndThaws : Claims.FreezesAndThaws := by
  refine ⟨fun s d va bs h hlt => ⟨_, exec_freeze h hlt, fun k hk => ?_⟩, fun s d va bs h hlt => ⟨_, exec_thaw h hlt, fun k hk => ?_⟩,
    fun s d va bs op h hop hge => ?_⟩
  · rw [nextResponse_keeps (State.die · k) (fun _ _ => rfl), respond_keeps (State.die · k) (fun _ => rfl),
      pokeVirt_keeps (State.die · k) (fun _ => rfl), frozen_frozenDies, die_Begun]
    have hmem : k ∈ runningDies (Claims.Begun s d va) (rf bs 20 4) ↔ bit (rf bs 20 4) k = true ∧ (s.die k).bring = .ready := by
      simp [runningDies, List.mem_filter, mem_dies4, hk, die_Begun]
    exact ⟨fun hb hr => if_pos (hmem.2 ⟨hb, hr⟩), fun hn => if_neg (mt hmem.1 hn)⟩
  · have hmem : k ∈ dies4.filter (fun d => bit (rf bs 20 4) d) ↔ bit (rf bs 20 4) k = true := by
      simp [List.mem_filter, mem_dies4, hk]
    rw [nextResponse_keeps (State.die · k) (fun _ _ => rfl), respond_keeps (State.die · k) (fun _ => rfl)]
    refine ⟨fun hb => ?_, fun hb => ?_⟩
    · obtain ⟨hf, hh, he⟩ := thawDies_spec _ (hmem.2 hb) (Claims.Begun s d va)
      rw [die_Begun] at he
      refine ⟨hf, hh, fun e hin => mem_agenda_nextResponse ?_ d⟩
      rw [respond_keeps State.agenda fun _ => rfl]
      exact he e hin
    · rw [die_thawDies_of_not_mem _ (by rw [hmem, hb]; exact Bool.false_ne_true), die_Begun]
      exact ⟨rfl, rfl⟩
  · rcases hop with rfl | rfl
    · show execFreeze d s = _
      rw [execFreeze, onResponse_mine h rfl, if_pos hge]
    · show execThaw d s = _
      rw [execThaw, onResponse_mine h rfl, if_pos hge]

/-! Units and teams under new numbers (R226, R319) -/

theorem unit_renameUnit (s : State) (u v w : Nat) :
    (renameUnit s u v).unit? w = (s.unit? w).map (UnitSt.mapUnit (fun x => if x = u then v else x)) :=
  find?_map_val s.units (fun _ => UnitSt.mapUnit (fun x => if x = u then v else x)) w

/-- What a saved or migrated team keeps: its core, slot, position and the size of its scratchpad. -/
def placeOf (tm : Team) : Nat × Nat × Nat × Nat := (tm.core, tm.slot, tm.pos, tm.scrSize)

/-- Where a team stands, if there is one. -/
def placeIn (key : Nat) (s : State) : Option (Nat × Nat × Nat × Nat) := (s.team? key).map placeOf

theorem placeIn_renameUnit (s : State) (u v key : Nat) : placeIn key (renameUnit s u v) = placeIn key s := by
  let f (x : Nat) : Nat := if x = u then v else x
  have h := find?_map_val s.teams (fun _ t => ({ t with
      groups := t.groups.map f, arrivals := t.arrivals.map (fun a => { a with unit := f a.unit }) } : Team)) key
  refine (congrArg (Option.map placeOf) h).trans ?_
  rw [Option.map_map]
  rfl

theorem placeIn_modTeam (s : State) (key : Nat) {f : Team → Team} {g : Nat × Nat × Nat × Nat → Nat × Nat × Nat × Nat}
    (h : ∀ t, placeOf (f t) = g (placeOf t)) : placeIn key (s.modTeam key f) = (placeIn key s).map g := by
  rw [placeIn, State.team_modTeam_self, placeIn, Option.map_map, Option.map_map]
  exact congrArg (Option.map · (s.team? key)) (funext h)

theorem carryCmds_keeps {α : Type} (g : State → α) (hc : ∀ (s : State) c f, g (s.modCore c f) = g s)
    (hf : ∀ s a b, g (moveFault s a b) = g s) (s : State) (u c c' slot : Nat) : g (carryCmds s u c c' slot) = g s :=
  foldl_keeps _ g (fun _ _ => (hf ..).trans ((hc ..).trans (hc ..))) _ _

theorem placeIn_carryGroup (s : State) (u c slot key : Nat) : placeIn key (carryGroup s u c slot) = placeIn key s := by
  unfold carryGroup
  split
  · rfl
  · refine Eq.trans (b := placeIn key (carryCmds _ _ _ _ _)) rfl ?_
    exact (carryCmds_keeps (placeIn key) (fun _ _ _ => rfl) (fun _ _ _ => rfl) ..).trans (placeIn_renameUnit ..)

theorem setSpill_keeps {α : Type} (g : State → α) (hc : ∀ (s : State) c f, g (s.modCore c f) = g s)
    (hs : ∀ (s : State) c f, g (s.modScore c f) = g s) (s : State) (a : Bool × Nat) (l : List Event) : g (setSpill s a l) = g s :=
  ite_keeps (g := g) (hs ..) (hc ..)

theorem modFwd_keeps {α : Type} (g : State → α) (hc : ∀ (s : State) c f, g (s.modCore c f) = g s)
    (hs : ∀ (s : State) c f, g (s.modScore c f) = g s) (s : State) (site : Nat) (f : List Fwd → List Fwd) : g (modFwd s site f) = g s :=
  ite_keeps (g := g) (hs ..) (hc ..)

/-- A team's groups carried to another core. -/
theorem placeIn_carryGroups (s : State) (c key : Nat) (gs : List (Nat × Nat)) :
    placeIn key (gs.foldl (fun s g => carryGroup s g.1 c g.2) s) = placeIn key s :=
  foldl_keeps _ (placeIn key) (fun _ _ => placeIn_carryGroup ..) gs s

theorem placeIn_carryTeam {tm : Team} {key : Nat} (h : s.team? key = some tm) (c slot : Nat) (groups : List Nat) (homes : Bool) :
    placeIn key (carryTeam s key c slot groups homes) = some (c, slot, tm.pos, tm.scrSize) := by
  have hbefore : placeIn key s = some (placeOf tm) := by rw [placeIn, h]; rfl
  unfold carryTeam
  rw [h]
  dsimp only
  rw [setSpill_keeps (placeIn key) (fun _ _ _ => rfl) (fun _ _ _ => rfl), setSpill_keeps (placeIn key) (fun _ _ _ => rfl) (fun _ _ _ => rfl)]
  refine Eq.trans (b := placeIn key ((carryTiles _ key tm.core c homes).modTeam key (fun t => { t with core := c, slot := slot }))) rfl ?_
  rw [placeIn_modTeam (g := fun p => (c, slot, p.2.2)) _ _ fun t => rfl]
  have htiles (u : State) : placeIn key (carryTiles u key tm.core c homes) = placeIn key u := rfl
  rw [htiles, placeIn_carryGroups, hbefore]
  rfl

theorem placeIn_forget (s : State) (key draw : Nat) : placeIn key (s.modTeam key (fun t => t.forget draw)) = placeIn key s :=
  (placeIn_modTeam (f := fun t => t.forget draw) (g := id) s key fun _ => rfl).trans (congrFun Option.map_id _)

/-- A team that streams to another core keeps its slot (R319). -/
theorem placeIn_streamTeam {tm : Team} {key : Nat} (h : s.team? key = some tm) (b : Nat) :
    placeIn key (streamTeam s b key) = some (b, tm.slot, tm.pos, tm.scrSize) := by
  unfold streamTeam
  rw [h]
  dsimp only
  rw [modFwd_keeps (placeIn key) (fun _ _ _ => rfl) (fun _ _ _ => rfl)]
  have hplace := placeIn_carryTeam h b tm.slot (tm.groups.map (fun u => match s.unit? u with | some un => un.at_.slot | none => 0)) true
  exact ite_keeps (g := placeIn key) ((placeIn_forget ..).trans hplace) ((placeIn_forget ..).trans hplace)

/-! Units that run again (R315, R319) -/

/-- No unit of this number is stopped. -/
def Runs (u : Nat) (s : State) : Prop := ∀ un, s.unit? u = some un → un.stopped = false

/-- What waking teams leaves: teams, responses, and units that run. -/
structure Woken (s t : State) : Prop where
  now : t.now = s.now
  teams : t.teams = s.teams
  resps : ∀ k, (t.die k).resps = (s.die k).resps
  runs : ∀ u, Runs u s → Runs u t

theorem Woken.refl (s : State) : Woken s s := ⟨rfl, rfl, fun _ => rfl, fun _ => id⟩

theorem Woken.trans {r : State} (h : Woken r s) (h' : Woken s t) : Woken r t :=
  ⟨h'.now.trans h.now, h'.teams.trans h.teams, fun k => (h'.resps k).trans (h.resps k), fun u hu => h'.runs u (h.runs u hu)⟩

theorem Woken.foldl {β : Type} {f : State → β → State} (h : ∀ s b, Woken s (f s b)) (l : List β) : ∀ s, Woken s (l.foldl f s) := by
  induction l with
  | nil => exact Woken.refl
  | cons b l ih => exact fun s => (h s b).trans (ih _)

/-- A change that keeps the clock, the units, the teams and the dies. -/
theorem Woken.of_units (hn : t.now = s.now) (ht : t.teams = s.teams) (hd : t.dies = s.dies) (hu : t.units = s.units) : Woken s t :=
  ⟨hn, ht, fun k => by rw [State.die, hd, State.die], fun u h un hun => h un (by rwa [State.unit?, hu] at hun)⟩

theorem Woken.later (s : State) (n : Nat) (i : Turn) : Woken s (s.later n i) := .of_units rfl rfl rfl rfl

theorem Woken.modUnit (s : State) (u : Nat) {f : UnitSt → UnitSt} (h : ∀ un, un.stopped = false → (f un).stopped = false) :
    Woken s (s.modUnit u f) := by
  refine ⟨rfl, rfl, fun _ => rfl, fun v hv un hun => ?_⟩
  rw [State.unit_modUnit] at hun
  split at hun
  · next he =>
    subst he
    obtain ⟨un', h', rfl⟩ := Option.map_eq_some_iff.1 hun
    exact h un' (hv un' h')
  · exact hv un hun

theorem stopped_modSplit (un : UnitSt) (e : Nat) (f : Split → Split) : (un.modSplit e f).stopped = un.stopped := by
  unfold UnitSt.modSplit
  split <;> rfl

theorem Woken.extendSleeps (s : State) (u h : Nat) : Woken s (extendSleeps s u h) := by
  unfold Machine.extendSleeps
  split
  · refine .foldl (fun s x => ?_) _ _
    unfold extendSleep
    split
    · exact .trans (.modUnit s u fun un hs => (stopped_modSplit un ..).trans hs) (.later ..)
    · exact .refl s
  · exact .refl s

theorem Woken.goUnits (s : State) (us : List Nat) : Woken s (goUnits s us) := .foldl (fun s u => .modUnit s u fun _ _ => rfl) us s

/-- Units that may issue again are not stopped. -/
theorem runs_goUnits {u : Nat} (us : List Nat) (h : u ∈ us) : ∀ s, Runs u (goUnits s us) := by
  induction us with
  | nil => exact absurd h List.not_mem_nil
  | cons v us ih =>
    intro s
    by_cases hu : u ∈ us
    · exact ih hu _
    · have hv : u = v := (List.mem_cons.1 h).resolve_right hu
      subst hv
      refine (Woken.goUnits _ us).runs u fun un hun => ?_
      rw [State.unit_modUnit_self] at hun
      obtain ⟨un', -, rfl⟩ := Option.map_eq_some_iff.1 hun
      rfl

theorem replaySpill_keeps {α : Type} (g : State → α) (hc : ∀ (s : State) c f, g (s.modCore c f) = g s)
    (hs : ∀ (s : State) c f, g (s.modScore c f) = g s) (ha : ∀ (s : State) l, g { s with agenda := l } = g s) (s : State) (a : Bool × Nat) :
    g (replaySpill s a) = g s := (ha ..).trans (setSpill_keeps g hc hs ..)

theorem sendRoutes_keeps {α : Type} (g : State → α) (hc : ∀ (s : State) c f, g (s.modCore c f) = g s)
    (hs : ∀ (s : State) c f, g (s.modScore c f) = g s) (hl : ∀ (s : State) i, g (s.laterFree i) = g s) (s : State) (site unit : Nat)
    (agents : List Nat) : g (sendRoutes s site unit agents) = g s :=
  (foldl_keeps _ g (fun _ _ => hl ..) _ _).trans (modFwd_keeps g hc hs ..)

/-- Units, teams, dies and the clock: what messages and routes leave. -/
def besideMessages (s : State) : Nat × Tab UnitSt × Tab Team × Tab Die := (s.now, s.units, s.teams, s.dies)

theorem Woken.of_besideMessages (h : besideMessages t = besideMessages s) : Woken s t := by
  simp only [besideMessages, Prod.mk.injEq] at h
  obtain ⟨hn, hu, ht, hd⟩ := h
  exact .of_units hn ht hd hu

theorem Woken.replaySpill (s : State) (a : Bool × Nat) : Woken s (replaySpill s a) :=
  .of_besideMessages (replaySpill_keeps besideMessages (fun _ _ _ => rfl) (fun _ _ _ => rfl) (fun _ _ => rfl) s a)

theorem Woken.sendRoutes (s : State) (site unit : Nat) (agents : List Nat) : Woken s (sendRoutes s site unit agents) :=
  .of_besideMessages (sendRoutes_keeps besideMessages (fun _ _ _ => rfl) (fun _ _ _ => rfl) (fun _ _ => rfl) s site unit agents)

theorem Woken.wakeFaults (s : State) (d : Nat) : Woken s (wakeFaults s d) :=
  .of_besideMessages (wakeFaults_keeps besideMessages (fun _ _ => rfl) s d)

theorem Woken.invalidateCac (s : State) (c : Nat) : Woken s (invalidateCac s c) :=
  .of_besideMessages (congrArg besideMessages (besideSlices_invalidateCac s c) :)

/-- A team that comes back wakes, and none of its groups is stopped. -/
theorem wakeTeam_spec (s : State) (key site away : Nat) : Woken s (wakeTeam s key site away) ∧
    ∀ tm, s.team? key = some tm → ∀ u ∈ tm.groups, Runs u (wakeTeam s key site away) := by
  unfold wakeTeam
  split
  · next hn => exact ⟨.refl s, fun tm h => absurd (hn.symm.trans h) nofun⟩
  · next tm htm =>
    dsimp only
    have hsleeps := Woken.foldl (fun s u => Woken.extendSleeps s u away) tm.groups s
    generalize tm.groups.foldl (fun s u => extendSleeps s u away) s = a at hsleeps ⊢
    have hafter : Woken (goUnits (invalidateCac a tm.core) tm.groups)
        (wakeFaults (replaySpill (goUnits (invalidateCac a tm.core) tm.groups) (false, tm.core)) (coreDie tm.core)) :=
      (Woken.replaySpill ..).trans (.wakeFaults ..)
    refine ⟨((hsleeps.trans (.invalidateCac ..)).trans (.goUnits ..)).trans (hafter.trans (.sendRoutes ..)), fun tm' h u hu => ?_⟩
    obtain rfl : tm = tm' := Option.some.inj (htm.symm.trans h)
    exact (hafter.trans (.sendRoutes ..)).runs u (runs_goUnits _ hu _)

/-- Teams that come back wake one after another. -/
theorem wakeTeams_spec {site away : State → Nat} (keys : List Nat) : ∀ s,
    Woken s (keys.foldl (fun s key => wakeTeam s key (site s) (away s)) s) ∧
    ∀ key ∈ keys, ∀ tm, s.team? key = some tm → ∀ u ∈ tm.groups,
      Runs u (keys.foldl (fun s key => wakeTeam s key (site s) (away s)) s) := by
  induction keys with
  | nil => exact fun s => ⟨.refl s, fun _ h => absurd h List.not_mem_nil⟩
  | cons k keys ih =>
    intro s
    obtain ⟨hwoken, hruns⟩ := wakeTeam_spec s k (site s) (away s)
    obtain ⟨hwokens, hrest⟩ := ih (wakeTeam s k (site s) (away s))
    refine ⟨hwoken.trans hwokens, fun key hk tm htm u hu => ?_⟩
    rcases List.mem_cons.1 hk with rfl | hk
    · exact hwokens.runs u (hruns tm htm u hu)
    · exact hrest key hk tm (by rwa [State.team?, hwoken.teams]) u hu

theorem Woken.resumeArray (s : State) (c : Nat) : Woken s (resumeArray s c) := by
  refine .trans (.foldl (fun s p => ?_) (s.core c).mx.pend s) (.foldl (fun s w => .later ..) _ _)
  split
  · exact .refl s
  · exact .later ..

/-! Resumption (R319) -/

/-- A migration that streamed to a core resumes there. -/
def resumeOne (core d : Nat) (s : State) (r : Resp) : State :=
  if r.stage = 0 ∨ bits (rf r.bytes 20 4) 24 16 ≠ core then s else
    respond ((resumeArray (r.targets.foldl (fun s key => wakeTeam s key (bits (rf r.bytes 20 4) 8 0) (s.now - r.since))
      (setSaving (setSaving (dropResp s d r) false (bits (rf r.bytes 20 4) 8 0) false) false core false)) core).soon
      (.event (.balancerDeferredMove (coreDie (bits (rf r.bytes 20 4) 8 0)) (bits (rf r.bytes 20 4) 8 0)))) r.slot.toNat stDone

theorem exec_migrationResume (s : State) (core : Nat) : exec (.migrationResume core) s =
    .next (dies4.foldl (fun s d => (inProgress s d 9).foldl (resumeOne core d) s) s) := rfl

/-- A fold in which one entry alone changes the state. -/
theorem foldl_of_idle {σ : Type} {f : σ → Nat → σ} {l : List Nat} {s t : σ} (hd : d ∈ l) (hnd : l.Nodup) (hbefore : ∀ k, k ≠ d → f s k = s)
    (hat : f s d = t) (hafter : ∀ k, k ≠ d → f t k = t) : l.foldl f s = t := by
  have hrest (l : List Nat) (h : d ∉ l) : l.foldl f t = t := by
    induction l with
    | nil => rfl
    | cons k l ih =>
      obtain ⟨hk, hl⟩ : d ≠ k ∧ d ∉ l := by simpa using h
      rw [List.foldl_cons, hafter k (Ne.symm hk), ih hl]
  induction l with
  | nil => exact absurd hd List.not_mem_nil
  | cons k l ih =>
    obtain ⟨hk, hnd⟩ := List.nodup_cons.1 hnd
    by_cases he : k = d
    · subst he
      rw [List.foldl_cons, hat, hrest l hk]
    · rw [List.foldl_cons, hbefore k he, ih ((List.mem_cons.1 hd).resolve_left (Ne.symm he)) hnd]

theorem inProgress_of_nil {op : Nat} (h : (s.die k).resps = []) : inProgress s k op = [] := by rw [inProgress, h, List.filter_nil]

theorem inProgress_of_one {op : Nat} (h : (s.die d).resps = [r]) (ho : rf r.bytes 0 1 = op) : inProgress s d op = [r] := by
  rw [inProgress, h, List.filter_cons_of_pos (by simp [ho]), List.filter_nil]

theorem resps_dropResp_self (h : (s.die d).resps = [r]) : ((dropResp s d r).die d).resps = [] := by
  rw [dropResp, State.die_modDie_self, h, List.erase_cons_head]

/-- On resumption no group of a migrated team is stopped (R319). -/
theorem resumes (hd : d < 4) (hothers : ∀ k, k ≠ d → (s.die k).resps = []) (hr : (s.die d).resps = [r]) (hop : rf r.bytes 0 1 = 9)
    (hstage : r.stage ≠ 0) (hcore : bits (rf r.bytes 20 4) 24 16 = core) :
    ∃ t, exec (.migrationResume core) s = .next t ∧ (t.die d).resps = [] ∧
      ∀ key ∈ r.targets, ∀ tm, s.team? key = some tm → ∀ u ∈ tm.groups, ∀ un, t.unit? u = some un → un.stopped = false := by
  obtain ⟨hwoken, hruns⟩ := wakeTeams_spec (site := fun _ => bits (rf r.bytes 20 4) 8 0) (away := fun s => s.now - r.since) r.targets
    (setSaving (setSaving (dropResp s d r) false (bits (rf r.bytes 20 4) 8 0) false) false core false)
  have hat : (inProgress s d 9).foldl (resumeOne core d) s = resumeOne core d s r := by
    rw [inProgress_of_one hr hop, List.foldl_cons, List.foldl_nil]
  have hone : resumeOne core d s r = _ := if_neg (by rw [hcore]; simp [hstage])
  generalize r.targets.foldl _ _ = v at hwoken hruns hone
  have harray := Woken.resumeArray v core
  have hresps : ∀ k, ((resumeOne core d s r).die k).resps = [] := by
    intro k
    rw [hone, respond_keeps (fun s => (s.die k).resps) fun _ => rfl]
    refine (harray.resps k).trans ((hwoken.resps k).trans ?_)
    show ((dropResp s d r).die k).resps = []
    by_cases hk : k = d
    · rw [hk, resps_dropResp_self hr]
    · rw [dropResp, State.die_modDie_ne _ _ hk, hothers k hk]
  refine ⟨_, (exec_migrationResume s core).trans (congrArg _ (foldl_of_idle (mem_dies4.2 hd) (by decide) (fun k hk => ?_) hat
    fun k _ => ?_)), hresps d, fun key hk tm htm u hu un hun => ?_⟩
  · rw [inProgress_of_nil (hothers k hk), List.foldl_nil]
  · rw [inProgress_of_nil (hresps k), List.foldl_nil]
  · have hrun := harray.runs u (hruns key hk tm htm u hu)
    rw [hone, State.unit?, respond_keeps State.units fun _ => rfl] at hun
    exact hrun un hun

/-! Streaming (R318) -/

/-- Where no response is at the head of the ring, an event of responses takes none. -/
theorem onResponse_of_none (h : response? s d = none) (mine : Nat → Bool) (body : State → Nat → List Byte → State) :
    onResponse s d mine body = s := by
  simp only [onResponse, h]

theorem migrates_eq (hnone : response? s d = none) (hr : (s.die d).resps = [r]) (hop : rf r.bytes 0 1 = 9) (hstage : r.stage = 0)
    {s1 : State} (hs1 : (if (teamsOf s (bits (rf r.bytes 20 4) 8 0)).all (fun t => t.2.groups.all (unitDrained s)) = true then
      settleMove s (bits (rf r.bytes 20 4) 8 0) else s) = s1) (hready : migrateReady s1 (bits (rf r.bytes 20 4) 8 0) = true) :
    exec (.migrate d) s = .next (if (inProgress (stream s1 d r) d 9).any (fun r => r.stage == 0) then
      (stream s1 d r).later 1 (.event (.migrate d)) else stream s1 d r) := by
  show execMigrate d s = _
  rw [execMigrate, onResponse_of_none hnone]
  dsimp only
  rw [inProgress_of_one hr hop]
  simp only [List.foldl_cons, List.foldl_nil, hstage, true_and, hs1, hready, decide_true, Bool.and_self, if_true]

/-- Migration: its source streams, its teams keep their slots, and they run again (R259, R318, R319). -/
theorem migrates : Claims.Migrates := by
  refine ⟨fun s d r hnone hr hop hstage => ?_, fun s b key tm h => ?_, fun s d r core hd ho hr hop hs hc => resumes hd ho hr hop hs hc⟩
  · intro a s1 t hready
    exact migrates_eq hnone hr hop hstage rfl hready
  · obtain ⟨tm', htm, hp⟩ := Option.map_eq_some_iff.1 (placeIn_streamTeam h b)
    simp only [placeOf, Prod.mk.injEq] at hp
    obtain ⟨hc, hslot, hpos, hsize⟩ := hp
    exact ⟨tm', htm, hc, hslot, hpos, hsize⟩

/-! Saves (R313) -/

/-- A save whose units have drained ends. -/
theorem preempt_eq (hnone : response? s d = none) (hr : (s.die d).resps = [r]) (hop : rf r.bytes 0 1 = 7) {s1 : State}
    (hs1 : (if ofStrand r.bytes = false ∧ (r.targets.flatMap (targetUnits s false)).all (unitDrained s) = true then
      ((r.targets.map (teamCore s)).eraseDups).foldl settleMove s else s) = s1)
    (hready : r.targets.all (targetDrained s1 (ofStrand r.bytes)) = true) :
    exec (.preempt d) s = .next (if inProgress (endSave (dropResp s1 d r) r) d 7 = [] then endSave (dropResp s1 d r) r
      else (endSave (dropResp s1 d r) r).later 1 (.event (.preempt d))) := by
  show execPreempt d s = _
  rw [execPreempt, onResponse_of_none hnone]
  dsimp only
  rw [inProgress_of_one hr hop]
  simp only [List.foldl_cons, List.foldl_nil, hs1, hready, if_true]

/-- The place that a saved strand has while it is away. -/
def savedPlace (s : State) (un : UnitSt) : UnitSt := { un with at_ := { un.at_ with core := s.nextSaved, slot := 0 } }

/-- The entry of a saved strand. -/
def strandEntry (s : State) (ctx area u : Nat) (un : UnitSt) : Saved :=
  { ctx := ctx, area := dw area, set := s.nextSaved, strand := true, unit := u, home := 4096 + un.at_.core, since := s.now,
    wrote := [unitImage s u un] }

/-- Messages to a strand, apart from those to others. -/
def forStrand (u : Nat) : Event → Bool
  | .portWordArrival v _ _ | .remoteFill v _ _ | .resultRecordAppend v _ => decide (v = u)
  | _ => false

/-- A strand has left with its image, its entry and its messages. -/
def strandLeft (s : State) (ctx area u : Nat) (un : UnitSt) : State :=
  let a := enterSaved (pokeVirt s 0 area (unitImage s u un)) (strandEntry s ctx area u un)
  setSpill (setSpill a (true, un.at_.core) ((a.score un.at_.core).spillway.filter (fun e => !forStrand u e))) (true, s.nextSaved)
    ((a.score un.at_.core).spillway.filter (forStrand u))

/-- A unit takes another number and another state. -/
def unitMoved (s : State) (u v : Nat) (un : UnitSt) : State := { s with units := Tab.put (Tab.del s.units u) v un }

theorem saveStrand_eq {ctx area u : Nat} {un : UnitSt} (h : s.unit? u = some un) : saveStrand s ctx area u =
    flushGrid (modFwd (carryStrandFills (renameUnit (unitMoved (strandLeft s ctx area u un) u (groupUid s.nextSaved 0) (savedPlace s un))
      u (groupUid s.nextSaved 0)) (groupUid s.nextSaved 0) un.at_.core s.nextSaved) (4096 + un.at_.core)
      (fun l => l ++ [{ unit := u, dest := none, agents := [] }])) un.cell un.at_.task := by
  have hnow : (pokeVirt s 0 area (unitImage s u un)).now = s.now := now_pokeVirt ..
  rw [saveStrand, h]
  dsimp only
  rw [hnow]
  rfl

theorem carryStrandFills_keeps {α : Type} (g : State → α) (hs : ∀ (s : State) c f, g (s.modScore c f) = g s) (s : State) (u c c' : Nat) :
    g (carryStrandFills s u c c') = g s := by
  unfold carryStrandFills
  exact (hs ..).trans (hs ..)

theorem flushGrid_keeps {α : Type} (g : State → α) (hc : ∀ (s : State) c f, g (s.modCell c f) = g s) (s : State) (cell task : Nat) :
    g (flushGrid s cell task) = g s := by
  refine ite_keeps (g := g) (foldl_keeps _ g (fun s f => ?_) _ _) rfl
  unfold dispatchForm
  split
  · rfl
  · exact hc ..

/-- Units and saved entries after a strand has been saved. -/
theorem saveStrand_keeps {α : Type} (g : State → α) (hc : ∀ (s : State) c f, g (s.modCell c f) = g s) (hk : ∀ (s : State) c f, g (s.modCore c f) = g s)
    (hs : ∀ (s : State) c f, g (s.modScore c f) = g s) {ctx area u : Nat} {un : UnitSt} (h : s.unit? u = some un) :
    g (saveStrand s ctx area u) = g (renameUnit (unitMoved (strandLeft s ctx area u un) u (groupUid s.nextSaved 0) (savedPlace s un))
      u (groupUid s.nextSaved 0)) := by
  rw [saveStrand_eq h, flushGrid_keeps g hc, modFwd_keeps g hk hs, carryStrandFills_keeps g hs]

theorem strandLeft_keeps {α : Type} (g : State → α) (hk : ∀ (s : State) c f, g (s.modCore c f) = g s)
    (hs : ∀ (s : State) c f, g (s.modScore c f) = g s) (s : State) (ctx area u : Nat) (un : UnitSt) : g (strandLeft s ctx area u un) =
      g (enterSaved (pokeVirt s 0 area (unitImage s u un)) (strandEntry s ctx area u un)) :=
  (setSpill_keeps g hk hs ..).trans (setSpill_keeps g hk hs ..)

/-- A saved strand stands at its new number with what it held, and its entries are made (R313, R317). -/
theorem saveStrand_spec {ctx area u : Nat} {un : UnitSt} (h : s.unit? u = some un) (hne : u ≠ groupUid s.nextSaved 0) :
    ∃ un', (saveStrand s ctx area u).unit? u = none ∧ (saveStrand s ctx area u).unit? (groupUid s.nextSaved 0) = some un' ∧
      un'.ctl = un.ctl ∧ un'.entries = un.entries ∧ un'.regs.s = un.regs.s ∧
      un'.regs.p = un.regs.p ∧ un'.at_ = { un.at_ with core := s.nextSaved, slot := 0 } ∧
      Tab.find? (saveStrand s ctx area u).saved s.nextSaved = some (strandEntry s ctx area u un) ∧
      (saveStrand s ctx area u).nextSaved = s.nextSaved + 1 ∧
      { unit := u, dest := none, agents := [] } ∈ ((saveStrand s ctx area u).score un.at_.core).fwd := by
  have hunit (v : Nat) : (saveStrand s ctx area u).unit? v = _ :=
    (saveStrand_keeps (State.unit? · v) (fun _ _ _ => rfl) (fun _ _ _ => rfl) (fun _ _ _ => rfl) h).trans (unit_renameUnit ..)
  have hnext : (pokeVirt s 0 area (unitImage s u un)).nextSaved = s.nextSaved := pokeVirt_keeps State.nextSaved (fun _ => rfl) ..
  refine ⟨(savedPlace s un).mapUnit (fun x => if x = u then groupUid s.nextSaved 0 else x), ?_, ?_, rfl, rfl, rfl, rfl, rfl, ?_, ?_, ?_⟩
  · rw [hunit, State.unit?, unitMoved, Tab.find?_put_ne _ _ hne, Tab.find?_del_self]
    rfl
  · rw [hunit, State.unit?, unitMoved, Tab.find?_put_self]
    rfl
  · rw [saveStrand_keeps State.saved (fun _ _ _ => rfl) (fun _ _ _ => rfl) (fun _ _ _ => rfl) h]
    refine (congrArg (Tab.find? · s.nextSaved) (strandLeft_keeps State.saved (fun _ _ _ => rfl) (fun _ _ _ => rfl) s ctx area u un)).trans ?_
    rw [enterSaved, hnext]
    exact Tab.find?_put_self ..
  · rw [saveStrand_keeps State.nextSaved (fun _ _ _ => rfl) (fun _ _ _ => rfl) (fun _ _ _ => rfl) h]
    refine (strandLeft_keeps State.nextSaved (fun _ _ _ => rfl) (fun _ _ _ => rfl) s ctx area u un).trans ?_
    rw [enterSaved, hnext]
  · rw [saveStrand_eq h, flushGrid_keeps (State.score · un.at_.core) (fun _ _ _ => rfl), modFwd, if_pos (by omega), Nat.add_sub_cancel_left,
      State.score_modScore_self]
    exact List.mem_append_right _ (List.mem_singleton.2 rfl)

/-! Route updates (R317) -/

theorem laterFree_eq (s : State) (i : Event) : (s.laterFree i).calendar = s.calendar ++ [(s.now + 1 + Config.latency s.draws, .event i)] := rfl

/-- The entries of a core after an agent has acknowledged. -/
def acked (u agent : Nat) (l : List Fwd) : List Fwd :=
  (l.map (fun e => if e.unit = u then { e with agents := e.agents.filter (· ≠ agent) } else e)).filter
    (fun e => !(decide (e.unit = u) && e.agents.isEmpty && !(l.filter (fun x => decide (x.unit = u))).all (fun x => x.agents.isEmpty)))

theorem fwd_routeUpdateAck {u agent : Nat} (hc : core < 4096) (s : State) : ∃ t, exec (.routeUpdateAck core u agent) s = .next t ∧
    (t.core core).fwd = acked u agent (s.core core).fwd ∧ t.units = s.units := by
  refine ⟨_, rfl, ?_, modFwd_keeps State.units (fun _ _ _ => rfl) (fun _ _ _ => rfl) ..⟩
  rw [modFwd, if_neg (Nat.not_le.2 hc), State.core_modCore_self]
  rfl

theorem acked_last (e : Fwd) {agent : Nat} (h : e.agents = [agent]) : acked e.unit agent [e] = [] := by
  simp [acked, h]

theorem acked_more (e : Fwd) {agent : Nat} (h : e.agents.filter (· ≠ agent) ≠ []) :
    acked e.unit agent [e] = [{ e with agents := e.agents.filter (· ≠ agent) }] := by
  have hne : (e.agents.filter (· ≠ agent)).isEmpty = false := by simpa using h
  simp only [acked, List.map_cons, List.map_nil, if_true, List.filter_cons, hne, Bool.and_false, Bool.false_and, Bool.not_false, if_true,
    List.filter_nil]

/-! A strand comes back (R315) -/

/-- Answers to faults of units that were away take effect; where there are none, nothing does. -/
theorem lateAnswers_keeps {α : Type} (g : State → α) (hd : ∀ (s : State) d f, g (s.modDie d f) = g s)
    (h : ∀ k, ∀ r ∈ (s.die k).resps, ¬ (1 ≤ rf r.bytes 0 1 ∧ rf r.bytes 0 1 ≤ 4)) : g (lateAnswers s) = g s := by
  unfold lateAnswers
  generalize dies4 = ds
  induction ds generalizing s with
  | nil => rfl
  | cons d ds ih =>
    have hnone : (s.die d).resps.filter (fun r => decide (1 ≤ rf r.bytes 0 1 ∧ rf r.bytes 0 1 ≤ 4)) = [] :=
      List.filter_eq_nil_iff.2 fun r hr => by simpa using h d r hr
    rw [List.foldl_cons]
    simp only [hnone, List.foldl_nil]
    refine (ih fun k r hr => ?_).trans (hd ..)
    rw [State.die_modDie] at hr
    split at hr
    · next hk =>
      subst hk
      exact h k r (List.mem_filter.1 hr).1
    · exact h k r hr

/-- A unit whose sleeps have no end keeps its splits. -/
theorem extendSleeps_of_none {u : Nat} {un : UnitSt} (hu : s.unit? u = some un)
    (h : ∀ e ∈ un.splits, ∀ t m ev, e.2.wait ≠ some (.sleep t (some m) ev)) (n : Nat) : extendSleeps s u n = s := by
  have hall (l : List (Nat × Split)) (hl : ∀ e ∈ l, ∀ t m ev, e.2.wait ≠ some (.sleep t (some m) ev)) :
      l.foldl (fun s x => extendSleep s u x.1 n x.2) s = s := by
    refine foldl_eq_self fun x hx => ?_
    unfold extendSleep
    split
    · next t m ev hw => exact absurd hw (hl x hx t m ev)
    · rfl
  rw [extendSleeps, hu]
  exact hall _ h

/-- The parts of the state that an edited image changes are units and commands. -/
theorem tailFrom_keeps {α : Type} (g : State → α) (hu : ∀ (s : State) u f, g (s.modUnit u f) = g s)
    (hc : ∀ (s : State) l, g { s with cores := l } = g s) (s : State) (die u : Nat) (old bs : List Byte) : g (tailFrom s die u old bs) = g s := by
  unfold tailFrom
  dsimp only
  refine (ite_keeps (g := g) (hc ..) rfl).trans ?_
  refine (foldl_keeps _ g (fun s r => ite_keeps (g := g) (hu ..) rfl) _ _).trans ?_
  refine (ite_keeps (g := g) (hu ..) rfl).trans ?_
  refine (ite_keeps (g := g) (hu ..) rfl).trans ?_
  exact ite_keeps (g := g) (hu ..) rfl

/-- A strand that is read from its image stands where the image was read, until it lands. -/
theorem modUnit_const {u : Nat} {un : UnitSt} (h : s.unit? u = some un) (f : UnitSt → UnitSt) :
    s.modUnit u f = s.modUnit u (fun _ => f un) := by
  have hf : Tab.find? s.units u = some un := h
  simp only [State.modUnit, Tab.modify, hf]

/-- A strand that lands takes a thread of its own strand core. -/
theorem landStrand_spec {die f u : Nat} {x : Saved} {back : UnitSt} {v s2 : State} (hun : v.unit? (groupUid f 0) = some back)
    (h : landStrand v die f x = some (s2, u)) {sc : Nat} (hsc : x.home - 4096 = sc) : ∃ i l, s2 = setSpill (setSpill (carryStrandFills (renameUnit
      (unitMoved v (groupUid f 0) u { back with at_ := { back.at_ with core := sc, slot := i } }) (groupUid f 0) u) u f sc)
      (true, f) []) (true, sc) l := by
  unfold landStrand at h
  rw [hsc] at h
  dsimp only at h
  split at h
  · cases h
  · rw [hun] at h
    split at h
    · next i un hi hs =>
      cases hs
      cases h
      exact ⟨i, _, rfl⟩
    · cases h

/-- What a strand that lands leaves. -/
theorem landed_keeps {α : Type} (g : State → α) (hk : ∀ (s : State) c f, g (s.modCore c f) = g s)
    (hs : ∀ (s : State) c f, g (s.modScore c f) = g s) (s : State) (v f sc : Nat) (a b : Bool × Nat) (l m : List Event) :
    g (setSpill (setSpill (carryStrandFills s v f sc) a l) b m) = g s :=
  (setSpill_keeps g hk hs ..).trans ((setSpill_keeps g hk hs ..).trans (carryStrandFills_keeps g hs ..))

theorem resps_renameUnit (s : State) (u v k : Nat) : ((renameUnit s u v).die k).resps = (s.die k).resps := by
  have h := find?_map_val s.dies (fun _ => Die.mapUnit (fun x => if x = u then v else x)) k
  refine (congrArg (fun o : Option Die => (o.getD Die.initial).resps) h).trans ?_
  rw [State.die, Tab.get]
  cases Tab.find? s.dies k <;> rfl

/-- A strand that has landed may issue, its messages are replayed, and its place while it was away is gone. -/
def strandBack (s : State) (saved : Tab Saved) (f : Nat) (x : Saved) (u : Nat) : State :=
  let a := { s with saved := saved, scores := s.scores.filter (fun (e : Nat × StrandCore) => decide (e.1 ≠ f)) }
  wakeFaults (replaySpill (goUnits (extendSleeps a u (a.now - x.since)) [u]) (true, x.home - 4096)) ((x.home - 4096) / 384)

/-- The state from which a strand's image is read. -/
def imageRead (s : State) (die area f : Nat) (x : Saved) : State :=
  tailFrom (obtainVirt s 0 area 4096) die (groupUid f 0) (x.wrote.headD []) (readSection s area 4096)

theorem restoreAt_strand {set f u : Nat} {x : Saved} {s2 : State} (hdie : rf bs 20 4 < 4)
    (hset : savedSet s (rf bs 2 2) (rf bs 24 8) = some set)
    (hxs : s.saved.filter (fun (e : Nat × Saved) => decide (e.2.set = set)) = [(f, x)]) (hx : x.strand = true)
    (hland : landStrand ((imageRead s (rf bs 20 4) (rf bs 24 8) f x).modUnit (groupUid f 0)
      (fun un => unitFrom un (readSection s (rf bs 24 8) 4096))) (rf bs 20 4) f x = some (s2, u)) :
    restoreAt s va bs = respond (lateAnswers (sendRoutes
      (strandBack s2 (s.saved.filter (fun (e : Nat × Saved) => decide (e.2.set ≠ set))) f x u) x.home x.unit
      (routeAgents (strandBack s2 (s.saved.filter (fun (e : Nat × Saved) => decide (e.2.set ≠ set))) f x u) 0 true [u]))) va stDone := by
  have hnot : ¬ 4 ≤ rf bs 20 4 := by omega
  rw [imageRead] at hland
  unfold restoreAt strandBack
  -- The landing is kept whole: the kernel is not to evaluate it.
  obtain ⟨land, hwhole⟩ : ∃ land, land = landStrand := ⟨_, rfl⟩
  rw [← hwhole] at hland ⊢
  simp only [if_neg hnot, hset, hxs, List.any_cons, hx, Bool.true_or, if_true, hland]

theorem goUnits_one (s : State) (u : Nat) : goUnits s [u] = s.modUnit u (fun un =>
    { un with stopped := false, sched := { un.sched with notBefore := max un.sched.notBefore (s.now + 1) } }) := rfl

/-- A strand that is back: its unit, and what else of the state is told. -/
theorem strandBack_spec {u f : Nat} {un : UnitSt} {x : Saved} (saved : Tab Saved) (hu : s.unit? u = some un)
    (hsleep : ∀ e ∈ un.splits, ∀ t m ev, e.2.wait ≠ some (.sleep t (some m) ev)) :
    (strandBack s saved f x u).unit? u = some { un with
      stopped := false, sched := { un.sched with notBefore := max un.sched.notBefore (s.now + 1) } } ∧
    (strandBack s saved f x u).saved = saved ∧ (strandBack s saved f x u).dies = s.dies := by
  let a : State := { s with saved := saved, scores := s.scores.filter (fun (e : Nat × StrandCore) => decide (e.1 ≠ f)) }
  have hawake : extendSleeps a u (a.now - x.since) = a := extendSleeps_of_none (s := a) (un := un) hu hsleep _
  rw [show strandBack s saved f x u = wakeFaults (replaySpill (goUnits (extendSleeps a u (a.now - x.since)) [u]) (true, x.home - 4096))
    ((x.home - 4096) / 384) from rfl, hawake, goUnits_one]
  have hkeep {α : Type} (g : State → α) (hg : ∀ s i, g (State.soon s i) = g s) (hc : ∀ (s : State) c f, g (s.modCore c f) = g s)
      (hs : ∀ (s : State) c f, g (s.modScore c f) = g s) (ha : ∀ (s : State) l, g { s with agenda := l } = g s) (s : State) (a : Bool × Nat) (d : Nat) :
      g (wakeFaults (replaySpill s a) d) = g s := (wakeFaults_keeps g hg ..).trans (replaySpill_keeps g hc hs ha ..)
  refine ⟨?_, ?_, ?_⟩
  · rw [hkeep (State.unit? · u) (fun _ _ => rfl) (fun _ _ _ => rfl) (fun _ _ _ => rfl) (fun _ _ => rfl), State.unit_modUnit_self]
    exact congrArg (Option.map _) hu
  · exact hkeep State.saved (fun _ _ => rfl) (fun _ _ _ => rfl) (fun _ _ _ => rfl) (fun _ _ => rfl) ..
  · exact hkeep State.dies (fun _ _ => rfl) (fun _ _ _ => rfl) (fun _ _ _ => rfl) (fun _ _ => rfl) ..

theorem die_imageRead (s : State) (die area f : Nat) (x : Saved) : (imageRead s die area f x).dies = s.dies := by
  rw [imageRead, tailFrom_keeps State.dies (fun _ _ _ => rfl) (fun _ _ => rfl), dies_of_besideLines (besideLines_obtainVirt ..)]

theorem now_imageRead (s : State) (die area f : Nat) (x : Saved) : (imageRead s die area f x).now = s.now := by
  have h := now_obtainVirt s 0 area 4096
  rw [imageRead]
  generalize obtainVirt s 0 area 4096 = o at h ⊢
  exact (tailFrom_keeps State.now (fun _ _ _ => rfl) (fun _ _ => rfl) ..).trans h

/-- A strand that lands: its unit, the clock and the responses. -/
theorem landed_spec {die f u : Nat} {x : Saved} {back : UnitSt} {v s2 : State} (hun : v.unit? (groupUid f 0) = some back)
    (h : landStrand v die f x = some (s2, u)) {sc : Nat} (hsc : x.home - 4096 = sc) : ∃ un, s2.unit? u = some un ∧ un.entries = back.entries ∧
      un.ctl = back.ctl ∧ un.regs.s = back.regs.s ∧ un.at_.core = sc ∧ s2.now = v.now ∧ ∀ k, (s2.die k).resps = (v.die k).resps := by
  obtain ⟨i, l, rfl⟩ := landStrand_spec hun h hsc
  refine ⟨UnitSt.mapUnit (fun w => if w = groupUid f 0 then u else w)
      { back with at_ := { back.at_ with core := sc, slot := i } }, ?_, rfl, rfl, rfl, rfl, ?_, fun k => ?_⟩
  · rw [landed_keeps (State.unit? · u) (fun _ _ _ => rfl) (fun _ _ _ => rfl), unit_renameUnit, State.unit?, unitMoved, Tab.find?_put_self]
    rfl
  · exact landed_keeps State.now (fun _ _ _ => rfl) (fun _ _ _ => rfl) ..
  · rw [landed_keeps (fun s => (s.die k).resps) (fun _ _ _ => rfl) (fun _ _ _ => rfl), resps_renameUnit]
    rfl

/-- The units and the saved entries. -/
def unitsAndSaved (s : State) : Tab UnitSt × Tab Saved := (s.units, s.saved)

/-- A strand that comes back has what its image holds, and runs (R315). -/
theorem restores {set f u : Nat} {x : Saved} {un : UnitSt} {s2 : State} (h : Claims.Responds s d 8 va bs) (hdie : rf bs 20 4 < 4)
    (hset : savedSet (Claims.Begun s d va) (rf bs 2 2) (rf bs 24 8) = some set)
    (hxs : s.saved.filter (fun (e : Nat × Saved) => decide (e.2.set = set)) = [(f, x)]) (hx : x.strand = true) {back : UnitSt}
    (hun : (imageRead (Claims.Begun s d va) (rf bs 20 4) (rf bs 24 8) f x).unit? (groupUid f 0) = some un)
    (hback : back = unitFrom un (readSection (Claims.Begun s d va) (rf bs 24 8) 4096))
    (hland : landStrand ((imageRead (Claims.Begun s d va) (rf bs 20 4) (rf bs 24 8) f x).modUnit (groupUid f 0) (fun _ => back))
      (rf bs 20 4) f x = some (s2, u))
    (hsleep : ∀ e ∈ back.splits, ∀ t m ev, e.2.wait ≠ some (.sleep t (some m) ev))
    (hresps : ∀ k, ∀ r ∈ (s.die k).resps, ¬ (1 ≤ rf r.bytes 0 1 ∧ rf r.bytes 0 1 ≤ 4)) :
    ∃ t un', exec (.restore d) s = .next t ∧ t.unit? u = some un' ∧ un'.stopped = false ∧ un'.ctl = back.ctl ∧
      un'.entries = back.entries ∧ un'.regs.s = back.regs.s ∧ un'.at_.core = x.home - 4096 ∧
      s.now < un'.sched.notBefore ∧ t.saved = s.saved.filter (fun (e : Nat × Saved) => decide (e.2.set ≠ set)) := by
  have hsaved : (Claims.Begun s d va).saved = s.saved := (congrArg State.saved (besideMemory_Begun s d va) :)
  have hnow : (Claims.Begun s d va).now = s.now := (congrArg State.now (besideMemory_Begun s d va) :)
  have hstands : ((imageRead (Claims.Begun s d va) (rf bs 20 4) (rf bs 24 8) f x).modUnit (groupUid f 0) (fun _ => back)).unit? (groupUid f 0) =
      some back := by
    rw [State.unit_modUnit_self, hun]
    rfl
  obtain ⟨un2, hu2, hent, hctl, hregs, hcore, hnow2, hdies2⟩ := landed_spec hstands hland rfl
  obtain ⟨hunit, hgone, hdies⟩ := strandBack_spec (f := f) (x := x) (s.saved.filter (fun (e : Nat × Saved) => decide (e.2.set ≠ set))) hu2 <| by
    rw [UnitSt.splits, hent]
    exact hsleep
  have hrestore := restoreAt_strand (va := va) (s2 := s2) (u := u) hdie hset (by rw [hsaved, hxs]) hx <| by
    rw [modUnit_const hun, ← hback]
    exact hland
  rw [hsaved] at hrestore
  have hexec : exec (.restore d) s = .next (nextResponse (restoreAt (Claims.Begun s d va) va bs) d) :=
    congrArg Host.Outcome.next (onResponse_mine h rfl _)
  generalize strandBack s2 (s.saved.filter (fun (e : Nat × Saved) => decide (e.2.set ≠ set))) f x u = b at hunit hgone hdies hrestore
  have hlate : unitsAndSaved (nextResponse (restoreAt (Claims.Begun s d va) va bs) d) = unitsAndSaved b := by
    rw [nextResponse_keeps unitsAndSaved (fun _ _ => rfl), hrestore, respond_keeps unitsAndSaved fun _ => rfl,
      lateAnswers_keeps unitsAndSaved (fun _ _ _ => rfl),
      sendRoutes_keeps unitsAndSaved (fun _ _ _ => rfl) (fun _ _ _ => rfl) (fun _ _ => rfl)]
    intro k r hr
    have hsame : ((sendRoutes b x.home x.unit (routeAgents b 0 true [u])).die k).resps = (s.die k).resps := by
      rw [sendRoutes_keeps (fun s => (s.die k).resps) (fun _ _ _ => rfl) (fun _ _ _ => rfl) (fun _ _ => rfl), State.die, hdies]
      refine (hdies2 k).trans ?_
      rw [State.die, State.modUnit_dies, die_imageRead, ← State.die, die_Begun]
    rw [hsame] at hr
    exact hresps k r hr
  obtain ⟨hunits, hsaveds⟩ := Prod.mk.inj hlate
  refine ⟨_, _, hexec, (congrArg (Tab.find? · u) hunits).trans hunit, rfl, hctl, hent, hregs, hcore, ?_, hsaveds.trans hgone⟩
  have hnows : s2.now = s.now := by rw [hnow2, State.modUnit_now, now_imageRead, hnow]
  show s.now < max un2.sched.notBefore (s2.now + 1)
  omega

/-- Saves, restores and route updates (R259, R313, R315, R317). -/
theorem savesAndRestores : Claims.SavesAndRestores := by
  refine ⟨fun s d r hnone hr hop => ?_, fun s ctx area u un h hne => saveStrand_spec h hne, fun s d va bs set f x h => ?_,
    fun s core u agent => ⟨_, _, rfl, by omega, laterFree_eq .., rfl, rfl⟩, fun s core e agent hc hf ha => ?_,
    fun s core e agent hc hf ha => ?_⟩
  · intro strand s1 hready t
    exact preempt_eq hnone hr hop rfl hready
  · intro s0 die area hdie hset hxs hx image s1 un s2 u hun back hland hsleep hresps
    exact restores h hdie hset hxs hx hun rfl hland hsleep hresps
  · obtain ⟨t, ht, hfwd, hunits⟩ := fwd_routeUpdateAck (u := e.unit) (agent := agent) hc s
    exact ⟨t, ht, by rw [hfwd, hf, acked_last e ha], hunits⟩
  · obtain ⟨t, ht, hfwd, -⟩ := fwd_routeUpdateAck (u := e.unit) (agent := agent) hc s
    exact ⟨t, ht, by rw [hfwd, hf, acked_more e ha]⟩

end

/-- Settles O44: saves and restores, migrations, and FREEZE and THAW, each from what its event does. -/
theorem savesAndMigrations : Obligations.SavesAndMigrations := ⟨savesAndRestores, migrates, freezesAndThaws⟩

end Sys2Proof.Safety
end

section
/-! The render services: requests, their work, what it writes, and tile flushes (O39). -/

open Sys2Proof Sys2Proof.Machine

namespace Sys2Proof.Safety

section
variable {s t : State} {d die k : Nat} {r : Req}

/-! Requests of a die -/

theorem req_of_dies (h : t.dies = s.dies) (d k : Nat) : req? t d k = req? s d k := by rw [req?, State.die, h]; rfl

@[simp] theorem req_laterFree (s : State) (e : Event) (d k : Nat) : req? (s.laterFree e) d k = req? s d k := rfl
@[simp] theorem req_putUnit (s : State) (u : Nat) (x : UnitSt) (d k : Nat) : req? (s.putUnit u x) d k = req? s d k := rfl
@[simp] theorem req_modUnit (s : State) (u : Nat) (f : UnitSt → UnitSt) (d k : Nat) : req? (s.modUnit u f) d k = req? s d k := rfl

theorem req_modDie_self (f : Die → Die) : req? (s.modDie d f) d k = Tab.find? (f (s.die d)).reqs k := by
  rw [req?, State.die_modDie_self]

theorem req_modReq_self (f : Req → Req) : req? (modReq s d k f) d k = (req? s d k).map f := by
  rw [modReq, req_modDie_self, Tab.find?_modify, if_pos rfl, req?]

theorem die_modReq (f : Req → Req) :
    (modReq s d k f).die d = { s.die d with reqs := Tab.modify (s.die d).reqs k f } := State.die_modDie_self ..

theorem endReq_eq (s : State) (d k status w : Nat) :
    endReq s d k status w = (modReq s d k (fun r => { r with st := .done, status := status, where_ := w })).laterFree (.endRecord d k) := rfl

/-- What the end of a request leaves: the request is done with its status, and its END record is planned. -/
theorem endReq_spec (h : req? s d k = some r) (status w : Nat) :
    req? (endReq s d k status w) d k = some { r with st := .done, status := status, where_ := w } ∧
      ((endReq s d k status w).die d).nextOrder = (s.die d).nextOrder ∧
      ∃ n, (n, Turn.event (.endRecord d k)) ∈ (endReq s d k status w).calendar := by
  rw [endReq_eq]
  refine ⟨?_, ?_, ?_⟩
  · rw [req_laterFree, req_modReq_self, h]; rfl
  · rw [State.die_laterFree, die_modReq]
  · exact ⟨_, State.mem_laterFree _ _⟩

/-! SERVICE_ACCEPT (R323, R326) -/

/-- The request as read, or a refusal; never a change but of the surfaces. -/
def Reread (r : Req) (q : Option Req) : Prop := ∀ q', q = some q' → ∃ t, q' = { r with surfaces := t }

theorem reread_withSurfaces (s : State) (r : Req) : Reread r (withSurfaces s r) := by
  refine List.foldlRecOn (motive := Reread r) _ _ (fun q h => ⟨r.surfaces, (Option.some.inj h).symm⟩) (fun acc h i _ => ?_)
  split
  · rename_i q bs _
    obtain ⟨t, rfl⟩ := h q rfl
    rintro _ ⟨⟩
    exact ⟨_, rfl⟩
  · rintro _ ⟨⟩

/-- A request is judged as it stands, its surfaces apart. -/
theorem judged_rest (s : State) (r : Req) : ∃ t, (judge s r).2.2 = { r with surfaces := t } := by
  unfold judge
  split
  · exact ⟨_, rfl⟩
  split
  · exact ⟨_, rfl⟩
  split
  · exact ⟨_, rfl⟩
  next q hq =>
    obtain ⟨t, rfl⟩ := reread_withSurfaces s r _ hq
    split
    · exact ⟨_, rfl⟩
    split
    · exact ⟨_, rfl⟩
    · split <;> exact ⟨_, rfl⟩

theorem besideLines_obtainState (s : State) (ctx : Nat) (l : List Nat) : besideLines (obtainState s ctx l) = besideLines s := by
  unfold obtainState
  split
  · rfl
  · rw [foldl_keeps _ besideLines (fun _ _ => besideLines_obtainVirt ..), besideLines_obtainVirt]

/-- The request as it is accepted. -/
def acceptedReq (s : State) (die : Nat) (r : Req) : Req :=
  { (judge s r).2.2 with
    st := .accepted, order := (s.die die).nextOrder, accepted := s.now,
    tiles := if (judge s r).1 = 1 then [] else (List.range (min r.tileSpan.2 4096)).map (fun i => r.tileSpan.1 + i) }

/-- The state in which a request has been accepted, before its tiles are opened or it is refused. -/
def acceptedIn (s : State) (die k : Nat) (r : Req) : State :=
  (obtainState s r.ctx ((judge s r).2.2.surfaces.map (·.1))).modDie die (fun x =>
    { x with reqs := Tab.put x.reqs k (acceptedReq s die r), nextOrder := (s.die die).nextOrder + 1 })

theorem req_acceptedIn : req? (acceptedIn s die k r) die k = some (acceptedReq s die r) := by
  rw [acceptedIn, req_modDie_self, Tab.find?_put, if_pos rfl]

theorem nextOrder_acceptedIn : ((acceptedIn s die k r).die die).nextOrder = (s.die die).nextOrder + 1 := by
  rw [acceptedIn, State.die_modDie_self]

theorem event_acceptedReq : (acceptedReq s die r).event die k = r.event die k := by
  obtain ⟨t, h⟩ := judged_rest s r
  rw [acceptedReq, h]
  rfl

/-- A state with the tiles of an OPEN opened. -/
def tilesOpened (s : State) (r : Req) (n : Nat) : State :=
  if r.svc = .ras ∧ r.op = 0 then (List.range n).foldl (fun s i => openTile s r i) s else s

theorem dies_tilesOpened (s : State) (r : Req) (n : Nat) : (tilesOpened s r n).dies = s.dies :=
  ite_keeps (g := State.dies) (foldl_keeps (fun s i => openTile s r i) State.dies (fun _ _ => rfl) _ _) rfl

theorem execServiceAccept_eq (h : req? s die k = some r) (hst : r.st = .pending) (hm : mayAccept s die k r = true) :
    execServiceAccept die k s = .next (if (judge s r).1 ≠ 0 then endReq (acceptedIn s die k r) die k (judge s r).1 (judge s r).2.1
      else (tilesOpened (acceptedIn s die k r) (acceptedReq s die r) r.tileSpan.2).laterFree (r.event die k)) := by
  have hn : (obtainState s r.ctx ((judge s r).2.2.surfaces.map (·.1))).now = s.now :=
    now_of_besideLines (besideLines_obtainState ..)
  unfold execServiceAccept
  simp only [h, hst, hm, ne_eq, not_true_eq_false, if_false, hn, ← event_acceptedReq (s := s) (r := r)]
  rfl

/-- A request that may be accepted takes the next number, and is performed or refused as it is judged. -/
theorem exec_serviceAccept (h : req? s die k = some r) (hst : r.st = .pending) (hm : mayAccept s die k r = true) :
    let j := judge s r
    ∃ t r', exec (.serviceAccept die k) s = .next t ∧ req? t die k = some r' ∧ r'.order = (s.die die).nextOrder ∧
      (t.die die).nextOrder = (s.die die).nextOrder + 1 ∧ r'.accepted = s.now ∧
      (j.1 = 0 → r'.st = .accepted ∧ ∃ d, (d, Turn.event (r.event die k)) ∈ t.calendar) ∧
      (j.1 ≠ 0 → r'.st = .done ∧ r'.status = j.1 ∧ r'.where_ = j.2.1 ∧ ∃ d, (d, Turn.event (.endRecord die k)) ∈ t.calendar) := by
  intro j
  have he : exec (.serviceAccept die k) s = _ := execServiceAccept_eq h hst hm
  by_cases hj : j.1 = 0
  · rw [if_neg (not_not_intro hj)] at he
    refine ⟨_, acceptedReq s die r, he, ?_, rfl, ?_, rfl, fun _ => ⟨rfl, _, State.mem_laterFree _ _⟩, fun h => absurd hj h⟩
    · rw [req_laterFree, req_of_dies (dies_tilesOpened ..), req_acceptedIn]
    · rw [State.die_laterFree, State.die, dies_tilesOpened, ← State.die, nextOrder_acceptedIn]
  · rw [if_pos hj] at he
    obtain ⟨hr, ho, hp⟩ := endReq_spec (req_acceptedIn (s := s) (die := die) (k := k) (r := r)) j.1 j.2.1
    exact ⟨_, _, he, hr, rfl, ho.trans nextOrder_acceptedIn, rfl, fun h => absurd h hj, fun _ => ⟨rfl, rfl, rfl, hp⟩⟩

/-- The refusals of Table 17-2, in the order in which they are met. -/
theorem judge_cases (s : State) (r : Req) : (r.bad = true → (judge s r).1 = 1) ∧
    (r.bad = false → gstateOk s r.ctx = false → (judge s r).1 = 5) ∧
    (∀ q, r.bad = false → gstateOk s r.ctx = true → withSurfaces s r = some q → namedOk q = false → (judge s r).1 = 2) ∧
    (∀ q x, r.bad = false → gstateOk s r.ctx = true → withSurfaces s r = some q → namedOk q = true →
      firstOffending (s.core q.core) q = some x → (judge s r).1 = 3 ∧ (judge s r).2.1 = x) ∧
    (∀ q, r.bad = false → gstateOk s r.ctx = true → withSurfaces s r = some q → namedOk q = true →
      firstOffending (s.core q.core) q = none → (judge s r).1 = if tilesServe (s.core q.core) q then 0 else 2) := by
  refine ⟨fun h => ?_, fun h hg => ?_, fun q h hg hq hn => ?_, fun q x h hg hq hn hx => ?_, fun q h hg hq hn hx => ?_⟩
  · simp [judge, h]
  · simp [judge, h, hg]
  · simp [judge, h, hg, hq, hn]
  · simp [judge, h, hg, hq, hn, hx]
  · cases ht : tilesServe (s.core q.core) q <;> simp [judge, h, hg, hq, hn, hx, ht]

/-! END_RECORD (R324, R325) -/

/-- The END record goes to the queue that the SVC named, and the request's place is free. -/
theorem exec_endRecord {un : UnitSt} (h : req? s die k = some r) (hst : r.st = .done) (hu : s.unit? r.unit = some un) :
    ∃ t un', exec (.endRecord die k) s = .next t ∧ req? t die k = none ∧ t.mem = s.mem ∧ t.unit? r.unit = some un' ∧
      Tab.get 0 un'.eng.svcOut r.rq = Tab.get 0 un.eng.svcOut r.rq - 1 ∧
      un'.eng.waiting = un.eng.waiting ++ [(r.rq + 2, ⟨endWords r, r.writes, true⟩)] := by
  let gone := s.modDie die (fun x => { x with reqs := Tab.del x.reqs k })
  let freed := gone.modUnit r.unit (fun un => { un with eng := { un.eng with
        svcOut := Tab.set 0 un.eng.svcOut r.rq (Tab.get 0 un.eng.svcOut r.rq - 1) } })
  have hf : freed.unit? r.unit = some { un with eng := { un.eng with
        svcOut := Tab.set 0 un.eng.svcOut r.rq (Tab.get 0 un.eng.svcOut r.rq - 1) } } := by
    rw [State.unit_modUnit_self, State.unit_modDie, hu]; rfl
  have he : exec (.endRecord die k) s = .next (sendRecord freed r.unit (r.rq + 2) (endWords r) r.writes) := by
    show execEndRecord die k s = _
    simp only [execEndRecord, h, hst, ne_eq, not_true_eq_false, if_false]
    rfl
  simp only [sendRecord, hf] at he
  refine ⟨_, _, he, ?_, rfl, State.unit_putUnit_self .., ?_, rfl⟩
  · rw [req_laterFree, req_putUnit, req_modUnit, req_modDie_self, Tab.find?_del_self]
  · exact (Tab.get_set ..).trans (if_pos rfl)

theorem requestsServed : Claims.RequestsServed :=
  ⟨fun _ _ _ _ h hst hm => exec_serviceAccept h hst hm, judge_cases, fun _ _ _ _ _ h hst hu => exec_endRecord h hst hu⟩

/-! The work of an accepted request (R324, R333) -/

section
variable {f : Req → Bool} {total : Req → Nat} {body : State → Req → Work}

/-- What lets the event of an accepted request do the next stretch of its work. -/
structure MayWork (s : State) (die k : Nat) (r : Req) (f : Req → Bool) : Prop where
  found : req? s die k = some r
  accepted : r.st = .accepted
  kind : f r = true
  free : r.pos = 0 → r.blocked s die = false
  still : r.usesTiles = true → roleMoving (s.core r.core) .til = false

/-- The first tile of a request that is no longer its own as its work begins (R327). -/
def goneTile (s : State) (r : Req) : Option Nat :=
  if r.pos = 0 then r.tiles.find? (fun t => match Tab.find? (s.core r.core).ci.tiles t with
      | some x => decide (x.team ≠ r.team)
      | none => true) else none

theorem goneTile_eq_none (ht : r.pos = 0 → ∀ x ∈ r.tiles, ∃ tile, Tab.find? (s.core r.core).ci.tiles x = some tile ∧ tile.team = r.team) :
    goneTile s r = none := by
  unfold goneTile
  split_ifs with h0
  · refine List.find?_eq_none.mpr fun x hx => ?_
    obtain ⟨tile, hf, hteam⟩ := ht h0 x hx
    simp [hf, hteam]
  · rfl

theorem MayWork.serve_eq (h : MayWork s die k r f) : serve s die k f total body =
    withSlots s (.req die k) .arrival [] (fun s => s.later 1 (.event (r.event die k))) (fun s =>
      if r.pos ≠ 0 ∧ total r ≤ r.pos then endReq s die k 0 0
      else (goneTile s r).elim (serve.go die k total body s r) (endReq s die k 3)) := by
  have hfree : ¬ ((r.pos = 0 ∧ r.blocked s die = true) ∨ (r.usesTiles = true ∧ roleMoving (s.core r.core) .til = true)) := by
    rintro (⟨h0, hb⟩ | ⟨hu, hm⟩)
    · rw [h.free h0] at hb; cases hb
    · rw [h.still hu] at hm; cases hm
  have hask : ¬ (r.st ≠ .accepted ∨ f r = false) := by simp [h.accepted, h.kind]
  unfold serve
  rw [h.found]
  dsimp only
  rw [if_neg hask, if_neg hfree]
  refine congrArg (withSlots s (.req die k) .arrival [] _) (funext fun s => congrArg (ite _ _) ?_)
  show _ = Option.elim (goneTile s r) _ _
  unfold goneTile
  generalize (@ite (Option Nat) (r.pos = 0) _ _ _) = gone
  cases gone <;> rfl

/-- A request with nothing at the banks and its tiles still its own does its next stretch. -/
theorem MayWork.serve_of_unasked (h : MayWork s die k r f) (hs : slotReqs s (.req die k) = []) (hp : r.pos = 0 ∨ r.pos < total r)
    (ht : r.pos = 0 → ∀ x ∈ r.tiles, ∃ tile, Tab.find? (s.core r.core).ci.tiles x = some tile ∧ tile.team = r.team) :
    serve s die k f total body = serve.go die k total body s r := by
  rw [h.serve_eq, withSlots, hs]
  have hn : ¬ (r.pos ≠ 0 ∧ total r ≤ r.pos) := by omega
  simp only [if_pos, if_neg hn, goneTile_eq_none ht, Option.elim_none]

/-- A request whose work is done ends once the rows of its last stretch are served. -/
theorem MayWork.serve_of_served (h : MayWork s die k r f) (hs : slotReqs s (.req die k) ≠ [])
    (h0 : ∀ q ∈ slotReqs s (.req die k), q.rows = 0) (hp : r.pos ≠ 0) (ht : total r ≤ r.pos) :
    serve s die k f total body = endReq (dropSlots s (fun z => decide (z = .req die k))) die k 0 0 := by
  rw [h.serve_eq, withSlots_of_served h0 (fun _ => rfl), if_pos ⟨hp, ht⟩, slotsGiven, if_neg hs]

end

/-- The work of a request whose event is `serve` with its kind, total and body. -/
theorem work_of_serve {ev : Nat → Nat → Instr} {kind : Req → Prop} {f : Req → Bool} {total : Req → Nat} {body : State → Req → Work}
    (he : ∀ die k s, exec (ev die k) s = .next (serve s die k f total body)) (hk : ∀ r, kind r → f r = true) :
    ∀ s die k r, req? s die k = some r → r.st = .accepted → kind r → (r.pos = 0 → r.blocked s die = false) →
      (r.usesTiles = true → roleMoving (s.core r.core) .til = false) →
      (slotReqs s (.req die k) = [] → r.pos = 0 ∨ r.pos < total r →
        (r.pos = 0 → ∀ x ∈ r.tiles, ∃ tile, Tab.find? (s.core r.core).ci.tiles x = some tile ∧ tile.team = r.team) →
        exec (ev die k) s = .next (serve.go die k total body s r)) ∧
      (slotReqs s (.req die k) ≠ [] → (∀ q ∈ slotReqs s (.req die k), q.rows = 0) → r.pos ≠ 0 → total r ≤ r.pos →
        exec (ev die k) s = .next (endReq (dropSlots s (fun z => decide (z = .req die k))) die k 0 0)) := by
  intro s die k r hr hst hkind hfree hstill
  have hm : MayWork s die k r f := ⟨hr, hst, hk r hkind, hfree, hstill⟩
  exact ⟨fun hs hp ht => by rw [he, hm.serve_of_unasked hs hp ht], fun hs h0 hp ht => by rw [he, hm.serve_of_served hs h0 hp ht]⟩

theorem requestWork : Claims.RequestWork := by
  refine ⟨?_, ?_, ?_, ?_, ?_, ?_, ?_⟩
  · exact work_of_serve (f := fun r => decide (r.svc = .ras) && r.op == 0) (fun _ _ _ => rfl) (fun r h => by simp [h])
  · exact work_of_serve (f := fun r => decide (r.svc = .ras) && r.op == 1) (fun _ _ _ => rfl) (fun r h => by simp [h])
  · exact work_of_serve (f := fun r => decide (r.svc = .ras) && r.op == 2) (fun _ _ _ => rfl) (fun r h => by simp [h])
  · exact work_of_serve (kind := fun r => r.svc = .ras ∧ r.op = 3) (f := fun r => decide (r.svc = .ras) && r.op == 3)
      (total := fun r => r.f 4 2) (body := fun s r => { s := closeTile s r.core (r.f 2 2 + r.pos), count := 1 })
      (fun _ _ _ => rfl) (fun r h => by simp [h])
  · exact work_of_serve (f := fun r => decide (r.svc = .ras) && r.op == 4) (fun _ _ _ => rfl) (fun r h => by simp [h])
  · exact work_of_serve (f := fun r => decide (r.svc = .trv)) (fun _ _ _ => rfl) (fun r h => by simp [h])
  · exact work_of_serve (f := fun r => decide (r.svc = .tex)) (fun _ _ _ => rfl) (fun r h => by simp [h])

/-! The pixels of a tile (R330) -/

section
variable {core n : Nat} {x : Tile}

/-- Tile n of a core. -/
def tile? (s : State) (core n : Nat) : Option Tile := Tab.find? (s.core core).ci.tiles n

/-- The bytes of a tile that a list of writes leaves. -/
def tileWritten (x : Tile) (l : List (Nat × Byte)) : Tile := { x with data := l.foldl (fun m w => Tab.set 0 m w.1 w.2) x.data }

/-- Writes at bytes of a tile, as places. -/
def tileWrites (core n : Nat) (l : List (Nat × Byte)) : List (Place × Byte) := l.map (fun e => (.til core (n * 512 + e.1), e.2))

theorem tile_wrLocal (h : tile? s core n = some x) {e : Nat × Byte} (he : e.1 < 512) :
    tile? (wrLocal s (.til core (n * 512 + e.1)) e.2) core n = some (tileWritten x [e]) := by
  have hq : (n * 512 + e.1) / 512 = n := by omega
  have hr : (n * 512 + e.1) % 512 = e.1 := by omega
  rw [tile?] at h ⊢
  simp only [wrLocal, State.core_modCi_self, hq, hr, Tab.find?_modify_self, h]
  rfl

theorem tile_clearStruck (ws : List (Place × Byte)) : tile? (clearStruck s ws) core n = tile? s core n :=
  clearStruck_keeps (tile? · core n) (fun _ _ => rfl) s ws

theorem tile_foldl_wrLocal (l : List (Nat × Byte)) : ∀ {s x}, tile? s core n = some x → (∀ e ∈ l, e.1 < 512) →
    tile? ((tileWrites core n l).foldl (fun s w => wrLocal s w.1 w.2) s) core n = some (tileWritten x l) := by
  induction l with
  | nil => exact fun h _ => h
  | cons e l ih =>
    intro s x h hl
    exact ih (tile_wrLocal h (hl e List.mem_cons_self)) (fun e he => hl e (List.mem_cons_of_mem _ he))

theorem tile_wrPlaces (l : List (Nat × Byte)) (h : tile? s core n = some x) (hl : ∀ e ∈ l, e.1 < 512) :
    tile? (wrPlaces s (tileWrites core n l)) core n = some (tileWritten x l) := by
  rw [wrPlaces, tile_clearStruck, tile_foldl_wrLocal l h hl]

/-- The writes of one pixel. -/
def pixelWrites (bpp : Nat) (bs : List Byte) (p : Nat) : List (Nat × Byte) := bs.zipIdx.map (fun e => (p * bpp + e.2, e.1))

theorem placeRun_pixelPlace (core n p bpp : Nat) (bs : List Byte) :
    placeRun (pixelPlace core n p bpp) bs = tileWrites core n (pixelWrites bpp bs p) := by
  rw [placeRun, tileWrites, pixelWrites, List.map_map]
  exact List.map_congr_left fun e _ => by rw [Function.comp, pixelPlace, Place.plus, Nat.add_assoc]

theorem pixelWrites_lt {bpp p : Nat} {bs : List Byte} (hb : bpp = 4 ∨ bpp = 8) (hlen : bs.length = bpp) (hp : p < 64) :
    ∀ e ∈ pixelWrites bpp bs p, e.1 < 512 := by
  intro e he
  obtain ⟨⟨b, i⟩, hi, rfl⟩ := List.mem_map.1 he
  have hlt : i < bs.length := (List.getElem?_eq_some_iff.1 (List.mem_zipIdx_iff_getElem?.1 hi)).1
  obtain rfl | rfl := hb <;> (dsimp only; omega)

/-- A tile with pixels filled. -/
def tileFilled (x : Tile) (bs : List Byte) (l : List Nat) : Tile := tileWritten x (l.flatMap (pixelWrites x.bpp bs))

/-- A state in which pixels of a tile are filled. -/
def pixelsFilled (s : State) (core n bpp : Nat) (bs : List Byte) (l : List Nat) : State :=
  l.foldl (fun s p => wrPlaces s (placeRun (pixelPlace core n p bpp) bs)) s

theorem tileFilled_cons (x : Tile) (bs : List Byte) (p : Nat) (l : List Nat) :
    tileFilled x bs (p :: l) = tileFilled (tileWritten x (pixelWrites x.bpp bs p)) bs l := by
  simp only [tileFilled, tileWritten, List.flatMap_cons, List.foldl_append]

theorem tile_pixelsFilled {bs : List Byte} (l : List Nat) : ∀ {s x}, tile? s core n = some x → (x.bpp = 4 ∨ x.bpp = 8) →
    bs.length = x.bpp → (∀ p ∈ l, p < 64) →
    tile? (pixelsFilled s core n x.bpp bs l) core n = some (tileFilled x bs l) := by
  induction l with
  | nil => exact fun h _ _ _ => h
  | cons p l ih =>
    intro s x h hb hlen hl
    rw [tileFilled_cons, pixelsFilled, List.foldl_cons, placeRun_pixelPlace]
    exact ih (tile_wrPlaces _ h (pixelWrites_lt hb hlen (hl p List.mem_cons_self))) hb hlen (fun p hp => hl p (List.mem_cons_of_mem _ hp))

theorem mem_pixelsFilled (s : State) (core n bpp : Nat) (bs : List Byte) (l : List Nat) :
    (pixelsFilled s core n bpp bs l).mem = s.mem :=
  foldl_keeps (fun s p => wrPlaces s (placeRun (pixelPlace core n p bpp) bs)) State.mem
    (fun s _ => wrPlaces_keeps State.mem wrLocal_mem (fun _ _ => rfl) s _) l s

/-- Each byte of a filled tile. -/
theorem get_tileFilled {bs : List Byte} (hlen : bs.length = x.bpp) {p j : Nat} (hp : p < 64) (hj : j < x.bpp) :
    Tab.get 0 (tileFilled x bs (List.range 64)).data (p * x.bpp + j) = bs.getD j 0 := by
  have hget : bs[j]? = some (bs.getD j 0) := by simp [hlen, hj]
  refine get_foldl_set_of_mem _ (List.mem_flatMap.2 ⟨p, List.mem_range.2 hp, List.mem_map.2 ⟨(bs.getD j 0, j), ?_, rfl⟩⟩) ?_
  · exact List.mem_zipIdx_iff_getElem?.2 hget
  · intro w hw hkey
    obtain ⟨q, _, hw⟩ := List.mem_flatMap.1 hw
    obtain ⟨⟨b, i⟩, hb, rfl⟩ := List.mem_map.1 hw
    have hbi : bs[i]? = some b := List.mem_zipIdx_iff_getElem?.1 hb
    have hi : i < x.bpp := hlen ▸ (List.getElem?_eq_some_iff.1 hbi).1
    obtain rfl : i = j := by
      have := congrArg (· % x.bpp) hkey
      simpa [Nat.mod_eq_of_lt hi, Nat.mod_eq_of_lt hj] using this
    exact Option.some.inj (hbi.symm.trans hget)

/-- One pixel of an OPEN that is filled. -/
def fillPixel (core n bpp : Nat) (bs : List Byte) (w : Work) (p : Nat) : Work :=
  if w.fault.isSome then w else { w with s := wrPlaces w.s (placeRun (pixelPlace core n p bpp) bs) }

theorem foldl_fillPixel (core n bpp : Nat) (bs : List Byte) (l : List Nat) : ∀ s : State,
    l.foldl (fillPixel core n bpp bs) { s := s } = { s := pixelsFilled s core n bpp bs l } := by
  induction l with
  | nil => exact fun _ => rfl
  | cons p l ih => exact fun s => ih _

/-- A tile that is not loaded is filled. -/
theorem openPixels_of_fill (h : tile? s r.core (r.f 2 2 + r.pos) = some x) (hf : x.home = none ∨ r.f 7 1 ≠ 1) :
    openPixels s r =
      { s := pixelsFilled s r.core (r.f 2 2 + r.pos) x.bpp (bytesOf x.bpp (r.f 24 8)) (List.range 64), count := 1 } := by
  have hfold := foldl_fillPixel r.core (r.f 2 2 + r.pos) x.bpp (bytesOf x.bpp (r.f 24 8)) (List.range 64) s
  unfold fillPixel at hfold
  rw [tile?] at h
  unfold openPixels
  obtain hx | hx : x.home = none ∨ ∃ z, x.home = some z ∧ r.f 7 1 ≠ 1 := by
    cases hx : x.home with
    | none => exact .inl rfl
    | some z => exact .inr ⟨z, rfl, hf.resolve_left (by simp [hx])⟩
  · simp only [h, hx, Bool.false_eq_true, if_false, hfold, Option.isSome_none]
  · obtain ⟨z, hx, hne⟩ := hx
    simp only [h, hx, if_neg hne, Bool.false_eq_true, if_false, hfold, Option.isSome_none]

end

/-! The pixels of a surface (R330, R332) -/

section
variable {w : Work} {ctx va pa key : Nat} {bs : List Byte}

@[simp] theorem s_note (w : Work) (pa : Nat) : (w.note pa).s = w.s := by unfold Work.note; dsimp only; split <;> rfl

@[simp] theorem fault_note (w : Work) (pa : Nat) : (w.note pa).fault = w.fault := by unfold Work.note; dsimp only; split <;> rfl

theorem mem_writes_note (w : Work) (pa : Nat) : (pa / 128 * 128, 128) ∈ (w.note pa).writes := by
  unfold Work.note
  dsimp only
  split
  · rename_i h; exact List.contains_iff_mem.1 h
  · exact List.mem_cons_self

/-- Bytes put at an address of which nothing read was poisoned. -/
theorem put_eq (h : xlate w.s ctx va true = .ok pa) : w.put ctx va bs false = Work.note { w with s := sliceWrite w.s (run pa bs) } pa := by
  unfold Work.put
  rw [h]
  rfl

theorem put_spec (h : xlate w.s ctx va true = .ok pa) (hb : ∀ j < bs.length, unbackedAt w.s (pa + j) = false) :
    (w.put ctx va bs false).fault = w.fault ∧ (pa / 128 * 128, 128) ∈ (w.put ctx va bs false).writes ∧
      (∀ j < bs.length, rd8 (w.put ctx va bs false).s (pa + j) = bs.getD j 0) ∧
      ∀ a, (a < pa ∨ pa + bs.length ≤ a) → rd8 (w.put ctx va bs false).s a = rd8 w.s a := by
  rw [put_eq h]
  refine ⟨fault_note .., mem_writes_note .., fun j hj => ?_, fun a ha => ?_⟩
  · rw [s_note, rd8_sliceWrite_run hj (hb j hj)]
  · rw [s_note, rd8_sliceWrite_run_of_outside ha]

/-- The bytes that a VisMin leaves at a pixel. -/
def visBytes (s : State) (pa key : Nat) : List Byte := bytesOf 8 (min key (rdNat s pa 8))

/-- A VisMin at a pixel changes memory as a write of the smaller key. -/
theorem vismin_mem (h : xlate w.s ctx va true = .ok pa) : (w.vismin ctx va key false).fault = w.fault ∧
    (w.vismin ctx va key false).s.mem = (sliceWrite w.s (run pa (visBytes w.s pa key))).mem := by
  unfold Work.vismin
  rw [h]
  refine ⟨fault_note .., ?_⟩
  rw [s_note]
  exact ite_keeps (g := State.mem) rfl rfl

theorem vismin_spec (h : xlate w.s ctx va true = .ok pa) (hk : key < 2 ^ 64) (hb : ∀ j < 8, unbackedAt w.s (pa + j) = false) :
    (w.vismin ctx va key false).fault = w.fault ∧ rdNat (w.vismin ctx va key false).s pa 8 = min key (rdNat w.s pa 8) ∧
      ∀ a, (a < pa ∨ pa + 8 ≤ a) → rd8 (w.vismin ctx va key false).s a = rd8 w.s a := by
  obtain ⟨hf, hm⟩ := vismin_mem (key := key) h
  have hlen : (visBytes w.s pa key).length = 8 := length_bytesOf ..
  refine ⟨hf, ?_, fun a ha => ?_⟩
  · have hread := rdBytes_sliceWrite_run (s := w.s) (pa := pa) (bs := visBytes w.s pa key) (fun i hi => hb i (hlen ▸ hi))
    rw [rdNat_congr hm, rdNat, ← hlen, hread, hlen, visBytes, ofBytes_bytesOf]
    exact Nat.mod_eq_of_lt (lt_of_le_of_lt (Nat.min_le_left ..) hk)
  · rw [rd8_congr hm, rd8_sliceWrite_run_of_outside (by rwa [hlen])]

/-- A pixel of a DRAW whose depth is a number not below zero is tried at the surface. -/
theorem drawPixel_of_surface {r : Req} {f : Surf} {t : Tri} {prim px py z : Nat} (hw : w.fault = none) (hz : fragment t px py = some z)
    (hd : z ≤ 0x7F800000 ∨ z = 0x80000000)
    (hf : (w.vismin r.ctx (f.at_ px py) (z % 2 ^ 31 * 2 ^ 32 + prim % 2 ^ 32) false).fault = none) :
    drawPixel r (some f) t prim false w px py =
      { w.vismin r.ctx (f.at_ px py) (z % 2 ^ 31 * 2 ^ 32 + prim % 2 ^ 32) false with
        count := (w.vismin r.ctx (f.at_ px py) (z % 2 ^ 31 * 2 ^ 32 + prim % 2 ^ 32) false).count + 1 } := by
  have hin : z = 0x80000000 ∨ z < 0x80000000 ∧ z ≤ 0x7F800000 := by omega
  unfold drawPixel
  simp only [hw, hz, Option.isSome_none, Bool.false_eq_true, if_false, if_pos hin, hf]

end

/-! Samples and rays (R334, R339) -/

theorem sampleOne_of_nearest {f : Surf} {bs : List Byte} {u v : Int} {cs : List Nat} {p : Bool} (hs : r.surf (r.f 4 1) = some f)
    (hb : fetchSpan (obtainVirt s r.ctx ((r.f 8 8 + 8 * r.pos) % 2 ^ 64) 8) r.ctx ((r.f 8 8 + 8 * r.pos) % 2 ^ 64) 8 = .ok (bs, false))
    (hu : unitsOf (leAt bs 0 4) = some u) (hv : unitsOf (leAt bs 4 4) = some v) (hn : r.f 5 1 = 0) :
    let at_ : Int × Int := (u * f.w / 2 ^ 149, v * f.h / 2 ^ 149)
    let s2 := obtainTexels (obtainVirt s r.ctx ((r.f 8 8 + 8 * r.pos) % 2 ^ 64) 8) r f [at_]
    texel s2 r f at_.1 at_.2 = .ok (cs, p) →
    let w := Work.put { s := s2 } r.ctx ((r.f 16 8 + 16 * r.pos) % 2 ^ 64) (cs.flatMap (bytesOf 4)) p
    w.fault = none → sampleOne s r = { w with count := 1 } := by
  intro at_ s2 ht w hw
  unfold sampleOne
  rw [hs]
  dsimp only
  rw [hb]
  dsimp only
  rw [hu, hv]
  dsimp only
  rw [if_pos hn]
  rw [show texel (obtainTexels (obtainVirt s r.ctx ((r.f 8 8 + 8 * r.pos) % 2 ^ 64) 8) r f [at_]) r f (u * f.w / 2 ^ 149) (v * f.h / 2 ^ 149) =
    .ok (cs, p) from ht]
  dsimp only
  rw [Bool.false_or]
  exact if_neg (by rw [show _ = none from hw]; exact Bool.false_ne_true)

theorem traceRay_of_bytes {bs : List Byte}
    (hb : fetchSpan (obtainVirt s r.ctx ((r.f 16 8 + 32 * r.pos) % 2 ^ 64) 32) r.ctx ((r.f 16 8 + 32 * r.pos) % 2 ^ 64) 32 = .ok (bs, false)) :
    let out (prim : Nat) : Work := Work.put { s := obtainVirt s r.ctx ((r.f 16 8 + 32 * r.pos) % 2 ^ 64) 32 } r.ctx
      ((r.f 24 8 + 16 * r.pos) % 2 ^ 64) (missBytes prim) false
    (parseRay bs = none → (out 0xFFFFFFFE).fault = none → traceRay s r = { out 0xFFFFFFFE with count := 1, aux := 1 }) ∧
    (∀ ray, parseRay bs = some ray → ray.misses = true → (out 0xFFFFFFFF).fault = none →
      traceRay s r = { out 0xFFFFFFFF with count := 1, aux := 0 }) := by
  refine ⟨fun hp hw => ?_, fun ray hp hm hw => ?_⟩
  · unfold traceRay
    dsimp only
    rw [hb]
    dsimp only
    rw [hp]
    exact if_neg (by rw [hw]; exact Bool.false_ne_true)
  · unfold traceRay
    dsimp only
    rw [hb]
    dsimp only
    rw [hp]
    dsimp only
    rw [if_pos hm]
    exact if_neg (by rw [hw]; exact Bool.false_ne_true)

theorem servicePixels : Claims.ServicePixels := by
  refine ⟨?_, fun _ _ _ _ _ h hb => put_spec h hb, fun _ _ _ _ _ h hk hb => vismin_spec h hk hb,
    fun _ _ _ _ _ _ _ _ hw hz hd hf => drawPixel_of_surface hw hz hd hf,
    fun _ _ _ _ _ _ _ _ hs hb hu hv hn => sampleOne_of_nearest hs hb hu hv hn, fun _ _ _ hb => traceRay_of_bytes hb⟩
  intro s r tile ht hbpp hfill
  have hlen : (bytesOf tile.bpp (r.f 24 8)).length = tile.bpp := length_bytesOf ..
  rw [openPixels_of_fill ht hfill]
  exact ⟨rfl, rfl, mem_pixelsFilled .., _, tile_pixelsFilled _ ht hbpp hlen (fun p hp => List.mem_range.1 hp),
    fun p hp j hj => get_tileFilled hlen hp hj⟩

/-! Tile flushes (R255) -/

section
variable {core n : Nat} {m : Move} {rest : List Nat}

theorem now_sliceWrite (s : State) (ws : List (Nat × Byte)) : (sliceWrite s ws).now = s.now :=
  (congrArg State.now (besideSlices_sliceWrite s ws) :)

theorem now_put (w : Work) (ctx va : Nat) (bs : List Byte) (poison : Bool) : (w.put ctx va bs poison).s.now = w.s.now := by
  unfold Work.put
  split
  · rw [s_note]
    exact .trans (by split <;> rfl) (now_sliceWrite ..)
  · rfl

theorem now_vismin (w : Work) (ctx va key : Nat) (poison : Bool) : (w.vismin ctx va key poison).s.now = w.s.now := by
  unfold Work.vismin
  split
  · rw [s_note]
    exact .trans (by dsimp only; split <;> rfl) (now_sliceWrite ..)
  · rfl

theorem now_pixel (w : Work) (ctx : Nat) (f : Surf) (x y : Nat) (bs : List Byte) (poison : Bool) :
    (w.pixel ctx f x y bs poison).s.now = w.s.now := by
  have h : (if f.fmt = 3 then w.vismin ctx (f.at_ x y) (ofBytes bs) poison else w.put ctx (f.at_ x y) bs poison).s.now = w.s.now :=
    ite_keeps (g := fun w : Work => w.s.now) (now_vismin ..) (now_put ..)
  unfold Work.pixel
  exact ite_keeps (g := fun w : Work => w.s.now) rfl (ite_keeps (g := fun w : Work => w.s.now) h h)

theorem now_tileOut (w : Work) (ctx core t bpp : Nat) (f : Surf) (hx hy : Nat) : (tileOut w ctx core t bpp f hx hy).s.now = w.s.now :=
  foldl_keeps _ (fun w : Work => w.s.now) (fun _ _ => ite_keeps (g := fun w : Work => w.s.now) (now_pixel ..) rfl) _ _

theorem now_flushTile (s : State) (core t : Nat) : (flushTile s core t).now = s.now := by
  unfold flushTile
  split
  · rfl
  · dsimp only
    rw [closeTile, State.modCi_now]
    split
    · exact now_tileOut ..
    · rfl

/-- A tile that has been flushed is closed. -/
theorem tile_flushTile (s : State) (core n : Nat) : tile? (flushTile s core n) core n = none := by
  unfold flushTile
  split
  · rename_i h; exact h
  · rw [tile?, closeTile, State.core_modCi_self]
    exact Tab.find?_del_self ..

/-- The core reads the rows of a tile that it flushes. -/
def flushRead (s : State) (core n : Nat) : State :=
  match rowAt s core (.til core (512 * n)) with
  | some (c, b, _) => handshake s c [(b, 8)]
  | none => s

theorem now_flushRead (s : State) (core n : Nat) : (flushRead s core n).now = s.now := by
  unfold flushRead
  split <;> rfl

/-- A tile of a move has been flushed, and is no more among those to flush. -/
def tileFlushed (s : State) (core n : Nat) (m : Move) (rest : List Nat) : State :=
  (flushTile (flushRead s core n) core n).modCi core (fun ci => { ci with move := some { m with tiles := rest } })

theorem now_tileFlushed : (tileFlushed s core n m rest).now = s.now := by
  rw [tileFlushed, State.modCi_now, now_flushTile, now_flushRead]

theorem tile_tileFlushed : tile? (tileFlushed s core n m rest) core n = none := by
  rw [← tile_flushTile (flushRead s core n) core n, tileFlushed, tile?, State.core_modCi_self]
  rfl

/-- A state with one free value drawn. -/
def drawn (s : State) : State := { s with draws := s.draws + 1 }

theorem move_drawn (h : (s.core core).ci.move = some m) : ((drawn s).core core).ci.move = some m := h

theorem tile_drawn (h : tile? s core n = none) : tile? (drawn s) core n = none := h

theorem now_drawn (s : State) : (drawn s).now = s.now := rfl

/-- What a flush does when its move is in Prepare, its cycle has come, and no request serves the tile. -/
theorem execTileFlush_of_next {y : Nat} {more : List Nat} (hm : (s.core core).ci.move = some m) (ht : m.tiles = n :: y :: more)
    (he : m.ends s.now .prepare = true) (hs : tileServed s core n m.since = false) :
    let s3 := tileFlushed s core n m (y :: more)
    execTileFlush core n s = .next (flushAt (drawn s3) core y (s3.now + 33 + Config.latency s3.draws)) := by
  have hdue : ¬ (n ≠ n ∨ m.ends s.now .prepare = false) := by simp [he]
  unfold execTileFlush
  rw [hm]
  dsimp only
  rw [ht]
  dsimp only
  rw [if_neg hdue, hs]
  rfl

theorem execTileFlush_of_last (hm : (s.core core).ci.move = some m) (ht : m.tiles = [n])
    (he : m.ends s.now .prepare = true) (hs : tileServed s core n m.since = false) :
    execTileFlush core n s = .next (planSwitch (tileFlushed s core n m []) core ((tileFlushed s core n m []).now + 1)) := by
  have hdue : ¬ (n ≠ n ∨ m.ends s.now .prepare = false) := by simp [he]
  unfold execTileFlush
  rw [hm]
  dsimp only
  rw [ht]
  dsimp only
  rw [if_neg hdue, hs]
  rfl

theorem move_tileFlushed : ((tileFlushed s core n m rest).core core).ci.move = some { m with tiles := rest } := by
  rw [tileFlushed, State.core_modCi_self]

/-- A move whose next step is due in a cycle. -/
theorem move_flushAt (h : (s.core core).ci.move = some m) (y t : Nat) :
    ((flushAt s core y t).core core).ci.move = some { m with due := some t } := by
  rw [flushAt, State.core_later, State.core_modCi_self, h]
  rfl

theorem move_planSwitch (h : (s.core core).ci.move = some m) (t : Nat) :
    ((planSwitch s core t).core core).ci.move = some { m with due := some (frameFrom t) } := by
  rw [planSwitch, State.core_later, State.core_modCi_self, h]
  rfl

theorem tile_flushAt (s : State) (core y t n : Nat) : tile? (flushAt s core y t) core n = tile? s core n := by
  rw [flushAt, tile?, State.core_later, State.core_modCi_self]
  rfl

theorem tile_planSwitch (s : State) (core t n : Nat) : tile? (planSwitch s core t) core n = tile? s core n := by
  rw [planSwitch, tile?, State.core_later, State.core_modCi_self]
  rfl

theorem planned_flushAt {t : Nat} (h : s.now ≤ t) (core y : Nat) : (t, Turn.event (.tileFlush core y)) ∈ (flushAt s core y t).calendar := by
  have he := State.mem_later (s.modCi core (fun ci => { ci with move := ci.move.map (fun m => { m with due := some t }) })) (t - s.now)
    (.event (.tileFlush core y))
  rw [State.modCi_now, Nat.add_sub_cancel' h] at he
  exact he

theorem planned_planSwitch {t : Nat} (h : s.now ≤ frameFrom t) (core : Nat) :
    (frameFrom t, Turn.event (.moveSwitch core)) ∈ (planSwitch s core t).calendar := by
  have he := State.mem_later (s.modCi core (fun ci => { ci with move := ci.move.map (fun m => { m with due := some (frameFrom t) }) }))
    (frameFrom t - s.now) (.event (.moveSwitch core))
  rw [State.modCi_now, Nat.add_sub_cancel' h] at he
  exact he

end

theorem tileFlushes : Claims.TileFlushes := by
  intro s core m n rest d0 hm ht hph hdue hd0 hs
  have he : m.ends s.now .prepare = true := by simp [Move.ends, hph, hdue, hd0]
  have hnow := now_tileFlushed (s := s) (core := core) (n := n) (m := m) (rest := rest)
  cases rest with
  | nil =>
    have hframe : s.now < frameFrom (s.now + 1) ∧ frameFrom (s.now + 1) % 4 = 0 := by unfold frameFrom; omega
    have hexec : exec (.tileFlush core n) s = _ := execTileFlush_of_last hm ht he hs
    rw [hnow] at hexec
    refine ⟨_, _, hexec, (tile_planSwitch ..).trans tile_tileFlushed, move_planSwitch move_tileFlushed _, rfl, nofun,
      fun _ => ⟨_, hframe.1, hframe.2, rfl, planned_planSwitch ?_ core⟩⟩
    rw [hnow]
    exact hframe.1.le
  | cons y more =>
    have hexec : exec (.tileFlush core n) s = _ := execTileFlush_of_next hm ht he hs
    rw [hnow] at hexec
    refine ⟨_, _, hexec, (tile_flushAt ..).trans (tile_drawn tile_tileFlushed), move_flushAt (move_drawn move_tileFlushed) y _, rfl, ?_, nofun⟩
    rintro _ _ ⟨⟩
    refine ⟨_, Nat.le_add_right .., rfl, planned_flushAt ?_ core y⟩
    rw [now_drawn, hnow]
    omega

end

/-- Settles O39: requests are accepted, judged and ended as their fields say; each kind of work is one use of the rule for `serve`;
pixels are writes of runs of bytes, and a flush ends in the closing of its tile. -/
theorem renderServices : Obligations.RenderServices := ⟨requestsServed, requestWork, servicePixels, tileFlushes⟩

end Sys2Proof.Safety

end
